-- ==== Sys2Proof/Word.lean ====
section
/-! DEFINITION. The word types of the NL640 (R5, R53, R78). -/

namespace Sys2Proof

/-- One byte of any space (R5). -/
abbrev Byte := BitVec 8

/-- A scalar register, a virtual address, a position (R53, R95). -/
abbrev Word := BitVec 64

/-- One Nymilo instruction word, 160 bits (R78). -/
abbrev IWord := BitVec 160

end Sys2Proof
end

