-- ==== Sys2Proof/Config.lean ====
section
/-! DEFINITION. What the spec leaves free (opaque constants without a body) and the figures that an implementation fixes. -/

namespace Sys2Proof.Config

/-- FREE VALUE (log 1, DESIGN CHOICE): the n-th undefined register value of R1 and R87 (a read inside a latency window). -/
opaque freeWord : Nat → BitVec 64

/-- FREE VALUE (log 1, DESIGN CHOICE): the n-th undefined element bits of a tile read inside a window or before its delivery (R87, R163). -/
opaque freeBits : Nat → Nat → BitVec 32

/-- FREE VALUE (log 2, DESIGN CHOICE): the n-th outcome where a rule allows either of two results (R88). -/
opaque freeBool : Nat → Bool

/-- FREE VALUE (log 3, DESIGN CHOICE): the A56 rounding of a transcendental value that the fixed precision of the model does not decide
(R52); the arguments are the function's number, the format code, the rounding mode and the operand bits. -/
opaque freeTrans : Nat → Nat → Nat → Nat → Nat

/-- FREE VALUE (log 4, DESIGN CHOICE): the verdict of SLH-DSA-SHA2-128s verification under FIPS 205 (R324 check 4, R398); key, message, signature. -/
opaque slhDsaVerify : List (BitVec 8) → List (BitVec 8) → List (BitVec 8) → Bool

/-- FREE VALUE (log 4, DESIGN CHOICE): SHA-256 of a byte string (R324 check 3, R398). -/
opaque sha256 : List (BitVec 8) → BitVec 256

/-- A section of a schedule image: its linked address, size, offset in the image, and kind (0 code, 1 data, 2 const; R323). -/
structure Section where
  va : Nat
  size : Nat
  off : Nat
  kind : Nat
  deriving DecidableEq, Repr, Inhabited

/-- A record of a schedule image (R323, R111): a handle entry, a round-region entry, a constant window, an entry of a tile table. -/
inductive LoadRec where
  | handle (n : Nat) (entry : BitVec 512)
  | region (n : Nat) (entry : BitVec 128)
  | window (n : Nat) (word : BitVec 64)
  | tile (va : BitVec 64) (entry : BitVec 64)
  deriving DecidableEq, Repr, Inhabited

/-- FREE VALUE (log 17, DESIGN CHOICE): what the section table and the records of an image say; the spec gives their contents but not their bits
(R323). The arguments are the bytes of the table and the number of entries. -/
opaque sectionsOf : List (BitVec 8) → Nat → List Section
opaque recordsOf : List (BitVec 8) → Nat → List LoadRec

/-- FREE VALUE (log 17, DESIGN CHOICE): the n-th 4 KiB frame that the loader is given for a page or a table (R324). -/
opaque loaderFrame : Nat → BitVec 26

/-- FREE VALUE (log 96, DESIGN CHOICE): the device operating system has loaded a policy of its own (R335). -/
opaque expertPolicy : Unit → Bool

/-- A message of the ring (R236, R237, R376, R378 to R381, R392). A request into the window carries the tag under which its source waits for the
reply, and the number of the strand there. -/
inductive RingMsg where
  | write (tag who off : Nat) (data : List (BitVec 8))
  | read (tag who off n : Nat)
  /-- an atomic or a reduction for the operations whose source and tag it lists (R379); `merges` where R379 lets it merge -/
  | atomic (ops : List (Nat × Nat)) (who off op fmt : Nat) (operand second : BitVec 64) (merges : Bool)
  | reply (tag : Nat) (data : List (BitVec 8)) (poison : Bool)
  | done (tag : Nat)
  /-- the device asked is no member, or holds other league values (R378) -/
  | stranger (tag : Nat)
  | contribution (mask inst pos fmt op len : Nat) (data : List (BitVec 8))
  | instanceAbort (mask inst pos : Nat)
  | stepCommit (mask pos : Nat) (step : BitVec 48)
  | abort1 (mask : BitVec 8) (orig : BitVec 3) (acc : BitVec 48)
  | abort2 (mask : BitVec 8) (orig : BitVec 3) (agreed : BitVec 48)
  | time (ns : Nat)
  /-- the timestamped exchange with the neighbour (R381) -/
  | delayAsk (stamp : Nat)
  | delayAnswer (stamp : Nat)
  /-- the two ends agree on a lane and its spare, which takes over at a flit boundary (R376) -/
  | spare (lane spare seq : Nat)
  | other
  deriving DecidableEq, Repr, Inhabited

/-- FREE VALUE (log 21, DESIGN CHOICE): what a slot of 48 bytes says; the spec gives its class and type fields and no more (R374). -/
opaque slotMessage : List (BitVec 8) → RingMsg
/-- FREE VALUE (log 21, DESIGN CHOICE): the type field of a message's slots, and what bytes 1 to 47 of them hold: of its first slot, and of those
that follow (R374). -/
opaque slotType : RingMsg → BitVec 6
opaque slotFirst : RingMsg → List (BitVec 8)
opaque slotRest : RingMsg → List (List (BitVec 8))

/-- What a firmware image carries (R398): its key, the signed bytes, the signature, its SVN, its advance flag. -/
structure Firmware where
  key : List (BitVec 8)
  body : List (BitVec 8)
  sig : List (BitVec 8)
  svn : BitVec 8
  advance : Bool
  deriving DecidableEq, Repr, Inhabited

/-- FREE VALUE (log 22, DESIGN CHOICE): the parts of a firmware image, none where its format is bad; the spec does not lay the image out (R398). -/
opaque firmwareOf : List (BitVec 8) → Option Firmware

/-- FREE VALUE (log 22, DESIGN CHOICE): the root hash fused at manufacture (R398). -/
opaque rootHash : Unit → BitVec 256

/-- FREE VALUE (log 15, DESIGN CHOICE): the quadrant whose L2 slice is the home of a line; the spec names no rule for it (R232). -/
opaque homeQuad : Nat → BitVec 2

/-- Figures of R14, R15 and R16. -/
def numCores : Nat := 64
def numSlots : Nat := 256
def numDies : Nat := 64
/-- Bytes of device memory: 64 dies of 32 Gb (R14, R287). -/
def devBytes : Nat := 2 ^ 38
/-- Bytes of one core's local memory (R14). -/
def lmBytes : Nat := 2 ^ 21
/-- The basic wait-timer limit (R250). -/
def waitLimit : Nat := 2 ^ 24

end Sys2Proof.Config
end

