-- ==== Sys2Proof/Machine/Numbers.lean ====
section
/-! DEFINITION. Number formats and exact arithmetic: format codes and containers (R24 to R27), rounding once and saturation (R38
to R42), special values (R45), conversion classes (R44), packing (R36, R37) and the transcendental functions (R52). -/

namespace Sys2Proof.Machine

/-- The element formats of R24. -/
inductive Fmt where
  | int4 | int6 | int8 | int12 | int16 | int32 | int64 | a56i | uint8 | uint16 | uint32 | uint64
  | fp32 | fp16 | bf16 | a56f | e4m3 | e5m2 | e3m2 | e2m3 | e2m1 | e8m0 | ci12 | cf16
  deriving DecidableEq, Repr

/-- The 5-bit format code (R24). -/
def Fmt.code : Fmt → Nat
  | .int4 => 0x00 | .int6 => 0x01 | .int8 => 0x02 | .int12 => 0x03 | .int16 => 0x04 | .int32 => 0x05 | .int64 => 0x06
  | .a56i => 0x07 | .uint8 => 0x08 | .uint16 => 0x09 | .uint32 => 0x0A | .uint64 => 0x0B | .fp32 => 0x10 | .fp16 => 0x11
  | .bf16 => 0x12 | .a56f => 0x13 | .e4m3 => 0x14 | .e5m2 => 0x15 | .e3m2 => 0x16 | .e2m3 => 0x17 | .e2m1 => 0x18
  | .e8m0 => 0x19 | .ci12 => 0x1A | .cf16 => 0x1B

/-- The format of a code; reserved codes have none (R24). -/
def Fmt.ofCode : Nat → Option Fmt
  | 0x00 => some .int4 | 0x01 => some .int6 | 0x02 => some .int8 | 0x03 => some .int12 | 0x04 => some .int16
  | 0x05 => some .int32 | 0x06 => some .int64 | 0x07 => some .a56i | 0x08 => some .uint8 | 0x09 => some .uint16
  | 0x0A => some .uint32 | 0x0B => some .uint64 | 0x10 => some .fp32 | 0x11 => some .fp16 | 0x12 => some .bf16
  | 0x13 => some .a56f | 0x14 => some .e4m3 | 0x15 => some .e5m2 | 0x16 => some .e3m2 | 0x17 => some .e2m3
  | 0x18 => some .e2m1 | 0x19 => some .e8m0 | 0x1A => some .ci12 | 0x1B => some .cf16 | _ => none

/-- Width of the value in bits. -/
def Fmt.width : Fmt → Nat
  | .int4 => 4 | .int6 => 6 | .int8 => 8 | .int12 => 12 | .int16 => 16 | .int32 => 32 | .int64 => 64 | .a56i => 56
  | .uint8 => 8 | .uint16 => 16 | .uint32 => 32 | .uint64 => 64 | .fp32 => 32 | .fp16 => 16 | .bf16 => 16 | .a56f => 56
  | .e4m3 => 8 | .e5m2 => 8 | .e3m2 => 6 | .e2m3 => 6 | .e2m1 => 4 | .e8m0 => 8 | .ci12 => 24 | .cf16 => 32

/-- Register-element size in bytes (R24); 0 for scalar-only and accumulator formats. -/
def Fmt.regBytes : Fmt → Nat
  | .int4 | .int6 | .int8 | .uint8 | .e4m3 | .e5m2 | .e3m2 | .e2m3 | .e2m1 | .e8m0 => 1
  | .int12 | .int16 | .uint16 | .fp16 | .bf16 => 2
  | .int32 | .uint32 | .fp32 | .ci12 | .cf16 => 4
  | .int64 | .uint64 | .a56i | .a56f => 0

/-- Memory-element size in bits (R24). -/
def Fmt.memBits : Fmt → Nat
  | .int4 | .e2m1 => 4
  | .int6 | .e3m2 | .e2m3 => 6
  | .int8 | .uint8 | .e4m3 | .e5m2 | .e8m0 => 8
  | .int12 | .int16 | .uint16 | .fp16 | .bf16 => 16
  | .ci12 => 24
  | .int32 | .uint32 | .fp32 | .cf16 => 32
  | .int64 | .uint64 | .a56i | .a56f => 64

def Fmt.isSigned : Fmt → Bool
  | .int4 | .int6 | .int8 | .int12 | .int16 | .int32 | .int64 | .a56i => true
  | _ => false

def Fmt.isInt : Fmt → Bool
  | .uint8 | .uint16 | .uint32 | .uint64 => true
  | f => f.isSigned

/-- The format sets of R160. -/
def Fmt.intv : List Fmt := [.int8, .int12, .int16, .int32, .uint8, .uint16, .uint32]
def Fmt.fltv : List Fmt := [.fp32, .fp16, .bf16]
def Fmt.mxe : List Fmt := [.e4m3, .e5m2, .e3m2, .e2m3, .e2m1]
def Fmt.cpxv : List Fmt := [.ci12, .cf16]
def Fmt.anyv : List Fmt := Fmt.intv ++ Fmt.fltv ++ Fmt.mxe ++ Fmt.cpxv ++ [.int4, .int6, .e8m0]
/-- The four scalar integer formats (R114). -/
def Fmt.int4s : List Fmt := [.int64, .int32, .uint64, .uint32]
/-- The scalar access formats (R143). -/
def Fmt.scalarAccess : List Fmt :=
  [.int8, .int16, .int32, .int64, .uint8, .uint16, .uint32, .uint64, .fp32, .fp16, .bf16]
/-- The formats of SFCVT (R123). -/
def Fmt.sfcvt : List Fmt := Fmt.scalarAccess ++ [.e4m3, .e5m2]

/-- Class-X pairs of R44: the conversions that are illegal (R46). -/
def Fmt.convIllegal (src tgt : Fmt) : Bool :=
  if Fmt.cpxv.contains src || Fmt.cpxv.contains tgt then !(Fmt.cpxv.contains src && Fmt.cpxv.contains tgt)
  else if src = .e8m0 then tgt.isInt
  else tgt = .e8m0

/-! ### Sticky flags (R42) -/

/-- The six sticky flags in FLG order: NV, DZ, OF, UF, NX, SA. -/
abbrev Flags := BitVec 6
def flagNV : Flags := 1
def flagDZ : Flags := 2
def flagOF : Flags := 4
def flagUF : Flags := 8
def flagNX : Flags := 16
def flagSA : Flags := 32

/-! ### Exact values -/

/-- An extended real: NaN, an infinity, or `± m·2^e`, where `sticky` says that the true magnitude lies strictly between
`m·2^e` and `(m+1)·2^e`. A zero keeps its sign (R28). -/
inductive XReal where
  | nan
  | inf (neg : Bool)
  | fin (neg : Bool) (m : Nat) (e : Int) (sticky : Bool)
  deriving DecidableEq, Repr

def XReal.zero (neg : Bool) : XReal := .fin neg 0 0 false
def XReal.ofInt (n : Int) : XReal := .fin (n < 0) n.natAbs 0 false
def XReal.isNaN : XReal → Bool
  | .nan => true
  | _ => false
def XReal.isZero : XReal → Bool
  | .fin _ m _ st => m == 0 && !st
  | _ => false
def XReal.isInf : XReal → Bool
  | .inf _ => true
  | _ => false
def XReal.neg? : XReal → Bool
  | .nan => false
  | .inf n => n
  | .fin n _ _ _ => n
def XReal.negate : XReal → XReal
  | .nan => .nan
  | .inf n => .inf (!n)
  | .fin n m e st => .fin (!n) m e st
def XReal.abs : XReal → XReal
  | .nan => .nan
  | .inf _ => .inf false
  | .fin _ m e st => .fin false m e st
/-- Multiply by `2^k` exactly. -/
def XReal.scale (x : XReal) (k : Int) : XReal :=
  match x with
  | .fin n m e st => .fin n m (e + k) st
  | x => x

/-- Signed numerator at exponent `e0 ≤ e`. -/
def XReal.numAt (neg : Bool) (m : Nat) (e e0 : Int) : Int :=
  let n : Int := (m <<< (e - e0).toNat : Nat)
  if neg then -n else n

/-- The exact sum of two values that are exact. The sign of an exact zero sum is R28's: `rdn` gives −0. -/
def XReal.add (rdn : Bool) : XReal → XReal → XReal
  | .nan, _ => .nan
  | _, .nan => .nan
  | .inf a, .inf b => if a = b then .inf a else .nan
  | .inf a, _ => .inf a
  | _, .inf b => .inf b
  | .fin n1 m1 e1 _, .fin n2 m2 e2 _ =>
    if m1 = 0 ∧ m2 = 0 then .zero (if n1 = n2 then n1 else rdn)
    else if m1 = 0 then .fin n2 m2 e2 false
    else if m2 = 0 then .fin n1 m1 e1 false
    else
      let e0 := min e1 e2
      let t := XReal.numAt n1 m1 e1 e0 + XReal.numAt n2 m2 e2 e0
      if t = 0 then .zero rdn else .fin (t < 0) t.natAbs e0 false

/-- The exact product. -/
def XReal.mul : XReal → XReal → XReal
  | .nan, _ => .nan
  | _, .nan => .nan
  | .inf a, .inf b => .inf (a != b)
  | .inf a, .fin n m _ _ => if m = 0 then .nan else .inf (a != n)
  | .fin n m _ _, .inf b => if m = 0 then .nan else .inf (n != b)
  | .fin n1 m1 e1 _, .fin n2 m2 e2 _ => .fin (n1 != n2) (m1 * m2) (e1 + e2) false

/-- True where a product or a sum of operands that are not NaN is NaN (Invalid, R42). -/
def XReal.newNaN (xs : List XReal) (r : XReal) : Bool := r.isNaN && !(xs.any XReal.isNaN)

/-- Comparison of two values that are not NaN and exact: true where `a < b` (zeros compare equal). -/
def XReal.lt : XReal → XReal → Bool
  | .nan, _ => false
  | _, .nan => false
  | .inf a, .inf b => a && !b
  | .inf a, .fin _ _ _ _ => a
  | .fin _ _ _ _, .inf b => !b
  | .fin n1 m1 e1 _, .fin n2 m2 e2 _ =>
    let e0 := min e1 e2
    XReal.numAt n1 m1 e1 e0 < XReal.numAt n2 m2 e2 e0
def XReal.eq (a b : XReal) : Bool := !a.isNaN && !b.isNaN && !(a.lt b) && !(b.lt a)

/-- Bits kept by quotients and roots: far above the precision of any target format. -/
def quotBits : Nat := 160

/-- The quotient `a / b` of finite nonzero values, truncated with a sticky bit. -/
def XReal.divFin (n1 : Bool) (m1 : Nat) (e1 : Int) (n2 : Bool) (m2 : Nat) (e2 : Int) : XReal :=
  let sh := quotBits + Nat.log2 m2 + 1
  let num := m1 <<< sh
  .fin (n1 != n2) (num / m2) (e1 - e2 - sh) (num % m2 != 0)

/-- The quotient with its flags (R42). -/
def XReal.div : XReal → XReal → XReal × Flags
  | .nan, _ => (.nan, 0)
  | _, .nan => (.nan, 0)
  | .inf _, .inf _ => (.nan, flagNV)
  | .inf a, .fin n _ _ _ => (.inf (a != n), 0)
  | .fin n _ _ _, .inf b => (.zero (n != b), 0)
  | .fin n1 m1 e1 _, .fin n2 m2 e2 _ =>
    if m2 = 0 then (if m1 = 0 then (.nan, flagNV) else (.inf (n1 != n2), flagDZ))
    else if m1 = 0 then (.zero (n1 != n2), 0)
    else (XReal.divFin n1 m1 e1 n2 m2 e2, 0)

/-- Integer square root by bits, from bit `k - 1` downward. -/
def isqrtLoop (n : Nat) : Nat → Nat → Nat
  | 0, r => r
  | k + 1, r =>
    let t := r + 2 ^ k
    if t * t ≤ n then isqrtLoop n k t else isqrtLoop n k r
def isqrt (n : Nat) : Nat := isqrtLoop n (Nat.log2 n / 2 + 1) 0

/-- The square root with its flags (R171). -/
def XReal.sqrt : XReal → XReal × Flags
  | .nan => (.nan, 0)
  | .inf true => (.nan, flagNV)
  | .inf false => (.inf false, 0)
  | .fin n m e _ =>
    if m = 0 then (.zero n, 0)
    else if n then (.nan, flagNV)
    else
      let sh := 2 * quotBits + (if (e % 2) = 0 then 0 else 1)
      let v := m <<< sh
      let r := isqrt v
      (.fin false r ((e - sh) / 2) (r * r != v), 0)

/-! ### Floating-point formats (R27, R28) -/

/-- The parameters of a binary floating-point format: exponent width, fraction width, bias, the code of the largest finite
magnitude, infinity and NaN, the canonical NaN. -/
structure FloatFmt where
  ebits : Nat
  m : Nat
  bias : Nat
  maxCode : Nat
  hasInf : Bool
  hasNaN : Bool
  qnan : Nat
  deriving DecidableEq, Repr

def Fmt.float? : Fmt → Option FloatFmt
  | .fp32 => some ⟨8, 23, 127, 0x7F7FFFFF, true, true, 0x7FC00000⟩
  | .fp16 => some ⟨5, 10, 15, 0x7BFF, true, true, 0x7E00⟩
  | .bf16 => some ⟨8, 7, 127, 0x7F7F, true, true, 0x7FC0⟩
  | .a56f => some ⟨11, 44, 1023, 0x7FEFFFFFFFFFFF, true, true, 0x7FF80000000000⟩
  | .e4m3 => some ⟨4, 3, 7, 0x7E, false, true, 0x7F⟩
  | .e5m2 => some ⟨5, 2, 15, 0x7B, true, true, 0x7E⟩
  | .e3m2 => some ⟨3, 2, 3, 0x1F, false, false, 0⟩
  | .e2m3 => some ⟨2, 3, 1, 0x1F, false, false, 0⟩
  | .e2m1 => some ⟨2, 1, 1, 0x7, false, false, 0⟩
  | _ => none

def FloatFmt.emin (F : FloatFmt) : Int := 1 - (F.bias : Int)
def FloatFmt.signBit (F : FloatFmt) : Nat := 2 ^ (F.ebits + F.m)

/-- The value of a code (R27). -/
def FloatFmt.decode (F : FloatFmt) (b : Nat) : XReal :=
  let neg := b / F.signBit % 2 == 1
  let mag := b % F.signBit
  if mag > F.maxCode then
    if F.hasInf && mag == F.maxCode + 1 then .inf neg else .nan
  else
    let E := mag / 2 ^ F.m
    let f := mag % 2 ^ F.m
    if E = 0 then .fin neg f (F.emin - F.m) false
    else .fin neg (2 ^ F.m + f) ((E : Int) - F.bias - F.m) false

/-- The rounding modes of R38. -/
inductive RMode where
  | rne | rtz | rdn | rup | rna
  deriving DecidableEq, Repr

/-- Codes 5 to 7 are never in effect (R38, R73). -/
def RMode.ofCode : Nat → RMode
  | 1 => .rtz | 2 => .rdn | 3 => .rup | 4 => .rna | _ => .rne

/-- `a / 2^ue` as integer part, a comparison of the rest with one half (0 zero, 1 below, 2 equal, 3 above). -/
def splitAt (m : Nat) (e : Int) (sticky : Bool) (ue : Int) : Nat × Nat :=
  if e ≥ ue then (m <<< (e - ue).toNat, if sticky then 1 else 0)
  else
    let k := (ue - e).toNat
    let q := m >>> k
    let r := m % 2 ^ k
    let h := 2 ^ (k - 1)
    (q, if r < h then (if r = 0 ∧ !sticky then 0 else 1) else if r = h ∧ !sticky then 2 else 3)

/-- R38: does the magnitude round up. -/
def roundUp (mode : RMode) (neg : Bool) (n rest : Nat) : Bool :=
  match mode with
  | .rne => rest == 3 || (rest == 2 && n % 2 == 1)
  | .rna => rest ≥ 2
  | .rtz => false
  | .rup => rest > 0 && !neg
  | .rdn => rest > 0 && neg

/-- RoundTo (R39): the code of format `F` and the flags. -/
def FloatFmt.round (F : FloatFmt) (mode : RMode) (conv : Bool) : XReal → Nat × Flags
  | .nan => if F.hasNaN then (F.qnan, 0) else (0, flagNV)
  | .inf neg =>
    let s := if neg then F.signBit else 0
    if F.hasInf then (s + F.maxCode + 1, 0) else (s + F.maxCode, flagSA)
  | .fin neg m e st =>
    let s := if neg then F.signBit else 0
    if m = 0 ∧ !st then (s, 0)
    else
      let ex : Int := if m = 0 then F.emin else (Nat.log2 m : Int) + e
      let E := max ex F.emin
      let ue := E - F.m
      let (n, rest) := splitAt m e st ue
      let n' := if roundUp mode neg n rest then n + 1 else n
      let code := if n' < 2 ^ F.m then n' else ((E + F.bias).toNat - 1) * 2 ^ F.m + n'
      if code > F.maxCode then
        if conv || !F.hasInf then (s + F.maxCode, flagNX ||| flagSA)
        else if mode = .rtz ∨ (mode = .rdn ∧ !neg) ∨ (mode = .rup ∧ neg) then (s + F.maxCode, flagNX ||| flagOF)
        else (s + F.maxCode + 1, flagNX ||| flagOF)
      else if rest = 0 then (s + code, 0)
      else (s + code, if ex < F.emin then flagNX ||| flagUF else flagNX)

/-! ### Integer formats (R26, R40) -/

def Fmt.intMax (f : Fmt) : Int := if f.isSigned then 2 ^ (f.width - 1) - 1 else 2 ^ f.width - 1
def Fmt.intMin (f : Fmt) : Int := if f.isSigned then -(2 ^ (f.width - 1)) else 0

/-- The signed or unsigned reading of the low `w` bits. -/
def toSigned (w : Nat) (b : Nat) : Int :=
  let v := b % 2 ^ w
  if v ≥ 2 ^ (w - 1) then (v : Int) - 2 ^ w else v
def Fmt.readInt (f : Fmt) (b : Nat) : Int := if f.isSigned then toSigned f.width b else (b % 2 ^ f.width : Nat)
/-- Two's-complement code of `n` in `w` bits. -/
def wrapTo (w : Nat) (n : Int) : Nat := (n % (2 ^ w : Int)).toNat

/-- Saturate (R40). -/
def saturate (f : Fmt) (mode : RMode) : XReal → Int × Flags
  | .nan => (0, flagNV)
  | .inf neg => (if neg then f.intMin else f.intMax, flagSA)
  | .fin neg m e st =>
    let (q, rest) := splitAt m e st 0
    let q' := if roundUp mode neg q rest then q + 1 else q
    let n : Int := if neg then -(q' : Int) else q'
    let fl := if rest = 0 then 0 else flagNX
    if n > f.intMax then (f.intMax, fl ||| flagSA)
    else if n < f.intMin then (f.intMin, fl ||| flagSA)
    else (n, fl)

/-! ### Elements -/

/-- Container fill (R25): the code of a value, as it is written to a register element of the format. -/
def Fmt.fill (f : Fmt) (code : Nat) : Nat :=
  if f.isSigned then wrapTo (max (8 * f.regBytes) f.width) (toSigned f.width code) else code % 2 ^ f.width

/-- The exact value of a real element (R26, R27, R31). Complex formats are read part by part. -/
def Fmt.value (f : Fmt) (b : Nat) : XReal :=
  match f.float? with
  | some F => F.decode (b % 2 ^ f.width)
  | none =>
    if f = .e8m0 then (if b % 256 = 255 then .nan else .fin false 1 ((b % 256 : Nat) - (127 : Int)) false)
    else XReal.ofInt (f.readInt b)

/-- The E8M0 code of a power of two; only an E8M0 value is ever converted to E8M0 (R44). -/
def e8m0Code (x : XReal) : Nat := match x with
  | .fin _ m e _ => (Nat.log2 m + e + 127).toNat % 256
  | _ => 0xFF

/-- Conversion of an exact value into a real format (R39, R40, R44), filled into its container (R25). -/
def Fmt.convert (f : Fmt) (mode : RMode) (conv : Bool) (x : XReal) : Nat × Flags :=
  match f.float? with
  | some F => F.round mode conv x
  | none => if f = .e8m0 then (e8m0Code x, 0) else
    let (n, fl) := saturate f mode x; (f.fill (wrapTo f.width n), fl)

/-- The canonical NaN's code, 0 for a format without one (R28). -/
def Fmt.qnan (f : Fmt) : Nat := match f.float? with
  | some F => F.qnan
  | none => if f = .e8m0 then 0xFF else 0

/-- The real and imaginary codes of a complex element (R34), and back (CI12's bits [31:24] are zero). -/
def Fmt.parts (f : Fmt) (b : Nat) : Nat × Nat :=
  if f = .ci12 then (b % 2 ^ 12, b / 2 ^ 12 % 2 ^ 12) else (b % 2 ^ 16, b / 2 ^ 16 % 2 ^ 16)
def Fmt.ofParts (f : Fmt) (re im : Nat) : Nat :=
  if f = .ci12 then re % 2 ^ 12 + (im % 2 ^ 12) * 2 ^ 12 else re % 2 ^ 16 + (im % 2 ^ 16) * 2 ^ 16
/-- The format of one part. -/
def Fmt.partFmt (f : Fmt) : Fmt := if f = .ci12 then .int12 else .fp16

/-- Conversion between any legal pair of register elements (R44, R175). -/
def Fmt.cvtElem (src tgt : Fmt) (mode : RMode) (b : Nat) : Nat × Flags :=
  if Fmt.cpxv.contains src then
    let (re, im) := src.parts b
    let (r, f1) := tgt.partFmt.convert mode true (src.partFmt.value re)
    let (i, f2) := tgt.partFmt.convert mode true (src.partFmt.value im)
    (tgt.ofParts r i, f1 ||| f2)
  else tgt.convert mode true (src.value b)

/-! ### Accumulation (R29, R30) -/

/-- One A56 integer step: exact sum, clamped (R29). -/
def accInt (acc term : Int) : Int × Flags :=
  let s := acc + term
  if s > Fmt.a56i.intMax then (Fmt.a56i.intMax, flagSA)
  else if s < Fmt.a56i.intMin then (Fmt.a56i.intMin, flagSA)
  else (s, 0)

def a56f : FloatFmt := ⟨11, 44, 1023, 0x7FEFFFFFFFFFFF, true, true, 0x7FF80000000000⟩

/-- One A56 float step (R30) on the cell's code. -/
def accFloat (acc : Nat) (term : XReal) : Nat × Flags :=
  let a := a56f.decode acc
  let x := XReal.add false a term
  let nv : Flags := if XReal.newNaN [a, term] x then flagNV else 0
  let (c, fl) := a56f.round .rne false x
  (c, fl ||| nv)

/-! ### MX quantising (R33) -/

/-- emaxElem of R33. -/
def Fmt.emaxElem : Fmt → Int
  | .e4m3 => 8 | .e5m2 => 15 | .e3m2 => 4 | .e2m3 => 2 | .e2m1 => 2 | _ => 0

/-- Floor(Log2 x) of a finite nonzero exact value. -/
def XReal.floorLog2 : XReal → Int
  | .fin _ m e _ => (Nat.log2 m : Int) + e
  | _ => 0

/-- The block of R33: the scale code, the element codes and the flags. -/
def mxQuantise (f : Fmt) (mode : RMode) (xs : List XReal) : Nat × List Nat × Flags :=
  if xs.any (fun x => x.isNaN || x.isInf) then (0xFF, xs.map (fun _ => 0), flagNV)
  else
    let nz := xs.filter (fun x => !x.isZero)
    match nz with
    | [] => (0, xs.map (fun _ => 0), 0)
    | x0 :: rest =>
      let l := rest.foldl (fun a x => max a x.floorLog2) x0.floorLog2
      let k := max (-127) (min 127 (l - f.emaxElem))
      let rs := xs.map (fun x => f.convert mode true (x.scale (-k)))
      ((k + 127).toNat, rs.map (·.1), rs.foldl (fun a r => a ||| r.2) 0)

/-- An MX element under its scale (R32). -/
def mxValue (f : Fmt) (scale code : Nat) : XReal :=
  if scale = 255 then .nan else (f.value code).scale ((scale : Int) - 127)

/-! ### Minimum and maximum (R170) -/

/-- R170 on exact values: true where `a` is the smaller (−0 below +0). Neither is NaN. -/
def XReal.below (a b : XReal) : Bool := a.lt b || (a.eq b && a.neg? && !b.neg?)

/-- R170: `true` picks the first operand; NaN handled by the caller's canonical NaN. -/
def minMaxPick (isMax : Bool) (a b : XReal) : Option Bool :=
  if a.isNaN then (if b.isNaN then none else some false)
  else if b.isNaN then some true
  else if isMax then some (!(XReal.below a b)) else some (!(XReal.below b a))

end Sys2Proof.Machine
end

