-- ==== Sys2Proof/Syntax.lean ====
section
/-! DEFINITION. The whole syntax: the operands and fields of an instruction word, and one constructor per row of the opcode table. -/

namespace Sys2Proof

/-- The three decoupled queues of a strand (R82); `F` instructions enter none. -/
inductive Queue where
  | L | C | S
  deriving DecidableEq, Repr

/-- The four places of memory, with device memory under its two windows (R281, R345). -/
inductive MemSpace where
  | il | bl | host | pool
  deriving DecidableEq, Repr

/-- Who owns a line and cannot supply it (R390): the L1 of a core, the host processor, a pool device. -/
inductive Owner where
  | l1 (core : Nat) | host | pool
  deriving DecidableEq, Repr

/-- The two Bruloth ports (R373). -/
inductive Port where
  | east | west
  deriving DecidableEq, Repr

/-- A lost owner and the memory of its line (R390). -/
structure LineOwner where
  owner : Owner
  space : MemSpace
  deriving DecidableEq, Repr

/-- A host thread and the offset in the aperture range that it accesses (R263, R357). -/
structure HostAddr where
  thread : Nat
  off : Nat
  deriving DecidableEq, Repr

/-- The port at which a pass of an abort comes in, and the group's mask (R392). -/
structure PassAt where
  port : Port
  mask : BitVec 8
  deriving DecidableEq, Repr

/-- The service pair that writes a device register, and the register's offset (R7, R396). -/
structure RegAt where
  pair : BitVec 2
  offset : BitVec 16
  deriving DecidableEq, Repr

/-- One decoded 20-bit operand field under its kind selector (R63). -/
inductive Operand where
  /-- kind 0 -/
  | none
  /-- kind 1: scalar register -/
  | s (n : BitVec 6)
  /-- kind 2: vector register; 96 and above are out of range (ILLEGAL_OPERAND) -/
  | v (n : BitVec 7)
  /-- kind 3, class 0: predicate -/
  | p (n : BitVec 3)
  /-- kind 3, class 1: mask -/
  | m (n : BitVec 4)
  /-- kind 4: constant window and word offset -/
  | k (w : BitVec 3) (o : BitVec 17)
  /-- kind 5: 16-bit immediate -/
  | i (v : BitVec 16)
  /-- kind 6: handle -/
  | h (n : BitVec 10)
  /-- kind 7: system register number -/
  | y (n : BitVec 12)
  /-- kind 5 in operand E of a branch: a 20-bit offset in positions (R96) -/
  | off (o : BitVec 20)
  deriving DecidableEq, Repr

/-- The fields of an instruction word but for its opcode (R78). -/
structure Fields where
  /-- [149:146] guard 0 (R80) -/
  g0 : BitVec 4 := 7
  /-- [145:142] guard 1 -/
  g1 : BitVec 4 := 7
  /-- [141:138] token bits: [3] pop-prev, [2] pop-next, [1] push-prev, [0] push-next (R82) -/
  tk : BitVec 4 := 0
  /-- [137:134] latency code (R85) -/
  lat : BitVec 4 := 0
  /-- [133:131] cache hint (R90) -/
  hint : BitVec 3 := 0
  /-- [130:128] scope (R91) -/
  scp : BitVec 3 := 0
  /-- [127:125] flags (R92) -/
  flags : BitVec 3 := 0
  /-- [124:120] element format code (R24) -/
  fmt : BitVec 5 := 0
  d : Operand := .none
  a : Operand := .none
  b : Operand := .none
  c : Operand := .none
  e : Operand := .none
  /-- [19:15] sub-function (R93) -/
  sub : BitVec 5 := 0
  deriving DecidableEq, Repr


/-- The ONE instruction type: a constructor for every row of the opcode table. A constructor with `Fields` is an instruction of
the opcode map (R99); the others are the events of the table, the steps that another agent of the part makes (an engine, a
timer, the host, a link, the command processor). -/
inductive Instr where
  /-- INSTRUCTION_DECODE (R102): The front selects a ready strand, fetches the position, makes the decode checks in order, evaluates guards, samples operands and either executes the instruction or routes it to its queue. -/
  | instructionDecode (slot : Nat)
  /-- WINDOW_END (R87): A class-X instruction's latency window ends: its result has landed, its flags merge and its token pushes are made. -/
  | windowEnd (slot : Nat)
  /-- RESULT_DELIVERY (R139): A class-V result is written to its destination when the instruction performs, and the pending bit clears. -/
  | resultDelivery (slot : Nat)
  /-- WAIT_TIMER_EXPIRY (R141): A waiting instruction's timer expires and it traps FE_TIMEOUT or WAIT_TIMEOUT, performing nothing. -/
  | waitTimerExpiry (slot : Nat) (q : Queue)
  /-- WFE_LIMIT_EXPIRY (R133): A WFE reaches its cycle limit without an event and writes FALSE. -/
  | wfeLimitExpiry (slot : Nat)
  /-- USER_INTERRUPT_ENTRY (R244): The front enters the user-interrupt handler, saving the next position and causes in the shadow bank and setting INH. -/
  | userInterruptEntry (slot : Nat)
  /-- STRAND_STOP (R260): Once the strand's other engines have completed their issued work, the trap record is written and posted and the strand enters STOP. -/
  | strandStop (slot : Nat)
  /-- STRAND_RETIRE (R128): After HALT's drain completes, the strand retires and its left-over tokens are discarded. -/
  | strandRetire (slot : Nat)
  /-- DEADLINE_DIVERSION (R312): At the first decode boundary at which the effective deadline is reached, the strand stops its main stream and drains. -/
  | deadlineDiversion (slot : Nat)
  /-- WRAPUP_START (R313): When the drain has finished, the strand enters WRAP, DLST is written, the budget is loaded and decoding begins at WUE. -/
  | wrapupStart (slot : Nat)
  /-- BUDGET_EXHAUSTED (R315): The wrap-up budget counter reaches zero and the strand is killed with BUDGET_EXHAUSTED. -/
  | budgetExhausted (slot : Nat)
  /-- ADD (R116): Writes a + b wrapped to the format width. -/
  | add (f : Fields)
  /-- SUB (R116): Writes a − b wrapped to the format width. -/
  | sub (f : Fields)
  /-- MUL (R116): Writes the low W bits of a × b. -/
  | mul (f : Fields)
  /-- MULHU (R116): Writes the high W bits of the unsigned product. -/
  | mulhu (f : Fields)
  /-- MULHS (R116): Writes the high W bits of the signed product. -/
  | mulhs (f : Fields)
  /-- DIVU (R117): Unsigned division truncating toward zero, all ones on division by zero. -/
  | divu (f : Fields)
  /-- DIVS (R117): Signed division truncating toward zero with the defined overflow and zero cases. -/
  | divs (f : Fields)
  /-- REMU (R117): Unsigned remainder, a on division by zero. -/
  | remu (f : Fields)
  /-- REMS (R117): Signed remainder with the sign of the dividend. -/
  | rems (f : Fields)
  /-- AND (R116): Writes the bitwise AND of a and b. -/
  | and (f : Fields)
  /-- OR (R116): Writes the bitwise OR of a and b. -/
  | or (f : Fields)
  /-- XOR (R116): Writes the bitwise XOR of a and b. -/
  | xor (f : Fields)
  /-- ANDN (R116): Writes a AND NOT b. -/
  | andn (f : Fields)
  /-- SHL (R116): Shifts a left by b mod W. -/
  | shl (f : Fields)
  /-- SHRL (R116): Shifts a right logically by b mod W. -/
  | shrl (f : Fields)
  /-- SHRA (R116): Shifts a right arithmetically by b mod W. -/
  | shra (f : Fields)
  /-- ROTL (R116): Rotates a left by b mod W. -/
  | rotl (f : Fields)
  /-- CLZ (R116): Counts leading zero bits of a. -/
  | clz (f : Fields)
  /-- CTZ (R116): Counts trailing zero bits of a. -/
  | ctz (f : Fields)
  /-- POPC (R116): Counts one bits of a. -/
  | popc (f : Fields)
  /-- BSWAP (R116): Reverses the bytes of a. -/
  | bswap (f : Fields)
  /-- MIN (R116): Writes the signed minimum of a and b. -/
  | min (f : Fields)
  /-- MAX (R116): Writes the signed maximum of a and b. -/
  | max (f : Fields)
  /-- MINU (R116): Writes the unsigned minimum of a and b. -/
  | minu (f : Fields)
  /-- MAXU (R116): Writes the unsigned maximum of a and b. -/
  | maxu (f : Fields)
  /-- ABS (R116): Writes the absolute value of signed a modulo 2^W. -/
  | abs (f : Fields)
  /-- SEXT (R116): Sign-extends the low n bits of a. -/
  | sext (f : Fields)
  /-- ZEXT (R116): Zero-extends the low n bits of a. -/
  | zext (f : Fields)
  /-- SEL (R116): Writes a if predicate C is true, else b. -/
  | sel (f : Fields)
  /-- MOV (R118): Writes the extended value of a to D. -/
  | mov (f : Fields)
  /-- MOV_K (R118): Inserts 16 raw immediate bits into field SUB of D, keeping its other bits. -/
  | movK (f : Fields)
  /-- CMP (R119): Writes the condition in SUB on a and b to a predicate. -/
  | cmp (f : Fields)
  /-- LEA (R120): Writes a + b × 2^SUB + c modulo 2^64. -/
  | lea (f : Fields)
  /-- PAND (R121): Writes the AND of two predicates. -/
  | pand (f : Fields)
  /-- POR (R121): Writes the OR of two predicates. -/
  | por (f : Fields)
  /-- PXOR (R121): Writes the XOR of two predicates. -/
  | pxor (f : Fields)
  /-- PNOT (R121): Writes the negation of a predicate. -/
  | pnot (f : Fields)
  /-- SFADD (R122): Scalar floating-point addition rounded once. -/
  | sfadd (f : Fields)
  /-- SFMUL (R122): Scalar floating-point multiplication rounded once. -/
  | sfmul (f : Fields)
  /-- SFFMA (R122): Scalar fused multiply-add rounded once. -/
  | sffma (f : Fields)
  /-- SFCVT (R123): Converts a scalar between the listed formats with RoundTo or Saturate. -/
  | sfcvt (f : Fields)
  /-- SFCMP (R124): Writes a floating-point comparison to a predicate without flags. -/
  | sfcmp (f : Fields)
  /-- JMP (R125): Continues at PC + off. -/
  | jmp (f : Fields)
  /-- BR (R125): Continues at PC + off when the condition holds. -/
  | br (f : Fields)
  /-- JIDX (R125): Continues at position a + b. -/
  | jidx (f : Fields)
  /-- CALL (R125): Writes PC + 1 to D and continues at PC + off. -/
  | call (f : Fields)
  /-- RET (R125): Continues at position a. -/
  | ret (f : Fields)
  /-- LOOP (R126): Decrements D and branches while it stays nonzero. -/
  | loop (f : Fields)
  /-- NOP (R125): Does nothing. -/
  | nop (f : Fields)
  /-- YIELD (R127): Withdraws the strand from front selection briefly. -/
  | yield (f : Fields)
  /-- HALT (R128): Stops decoding and begins draining the strand toward retirement. -/
  | halt (f : Fields)
  /-- CSRR (R129): Reads a system register into a scalar, latching PTPS on a read of PTPN. -/
  | csrr (f : Fields)
  /-- CSRW (R129): Writes a system register with its field rules, invalidating the constant cache for CWB writes. -/
  | csrw (f : Fields)
  /-- TRAP (R130): Raises SOFTWARE with the operand in TRI. -/
  | trap (f : Fields)
  /-- SYSCALL (R131): Waits for earlier work, posts a request to the device operating system and waits for ERET. -/
  | syscall (f : Fields)
  /-- ERET (R132): Resumes a strand stopped by SYSCALL or a trap at a given position. -/
  | eret (f : Fields)
  /-- WFE (R133): Waits for the strand's event bit, returning whether it was set, and clears it. -/
  | wfe (f : Fields)
  /-- TLBI (R134): Invalidates translations, handle-cache entries or constant-cache lines within the scope and waits for completion. -/
  | tlbi (f : Fields)
  /-- LDS (R143): Loads a scalar of the format's width from a virtual address. -/
  | lds (f : Fields)
  /-- STS (R143): Stores a scalar of the format's width to a virtual address. -/
  | sts (f : Fields)
  /-- LDQ (R143): Loads 16 bytes into a register pair. -/
  | ldq (f : Fields)
  /-- STQ (R143): Stores a register pair as 16 bytes. -/
  | stq (f : Fields)
  /-- LDB (R275): Bounded-staleness load served from a stamped copy within the round bound or refetched. -/
  | ldb (f : Fields)
  /-- LDA (R143): Acquire load at its scope. -/
  | lda (f : Fields)
  /-- STREL (R143): Release store at its scope. -/
  | strel (f : Fields)
  /-- LDV (R144): Loads a tile through a handle. -/
  | ldv (f : Fields)
  /-- STV (R144): Stores a tile through a handle. -/
  | stv (f : Fields)
  /-- LDG (R144): Gathers a tile through a handle using index vectors. -/
  | ldg (f : Fields)
  /-- STG (R144): Scatters a tile through a handle using index vectors. -/
  | stg (f : Fields)
  /-- LDFE (R145): Waits for an LM word to be full, takes its data and sets it empty. -/
  | ldfe (f : Fields)
  /-- STFF (R145): Fills an empty LM word and sets it full, trapping FE_OVERFLOW if already full. -/
  | stff (f : Fields)
  /-- FEQ (R145): Reads whether an LM word is full. -/
  | feq (f : Fields)
  /-- FESET (R145): Sets an LM word's full/empty bit. -/
  | feset (f : Fields)
  /-- MARK (R146): Orders every earlier access of both queues before every later one at its scope. -/
  | mark (f : Fields)
  /-- FENCE (R146): Cumulatively orders earlier accesses of one kind before later accesses of another. -/
  | fence (f : Fields)
  /-- FENCE_MEM (R146): Fences at device scope and waits for dirty interleaved lines of a furlong range to be written back. -/
  | fenceMem (f : Fields)
  /-- PUBX (R146): Publishes code lines by clearing their unpublished bits and removing stale fetch copies. -/
  | pubx (f : Fields)
  /-- RADV (R146): Advances the round of a round region as a release. -/
  | radv (f : Fields)
  /-- AADD (R147): Atomic add returning the old value. -/
  | aadd (f : Fields)
  /-- AMIN (R147): Atomic signed minimum. -/
  | amin (f : Fields)
  /-- AMAX (R147): Atomic signed maximum. -/
  | amax (f : Fields)
  /-- AMINU (R147): Atomic unsigned minimum. -/
  | aminu (f : Fields)
  /-- AMAXU (R147): Atomic unsigned maximum. -/
  | amaxu (f : Fields)
  /-- AAND (R147): Atomic AND. -/
  | aand (f : Fields)
  /-- AOR (R147): Atomic OR. -/
  | aor (f : Fields)
  /-- AXOR (R147): Atomic XOR. -/
  | axor (f : Fields)
  /-- AXCHG (R147): Atomic exchange. -/
  | axchg (f : Fields)
  /-- ACAS (R147): Atomic compare-and-swap. -/
  | acas (f : Fields)
  /-- AFADD (R147): Atomic floating-point add rounded RNE. -/
  | afadd (f : Fields)
  /-- AINCW (R147): Atomic increment wrapping to 0 at the bound. -/
  | aincw (f : Fields)
  /-- REDADD (R149): Fire-and-forget integer add reduction. -/
  | redadd (f : Fields)
  /-- REDMIN (R149): Fire-and-forget minimum reduction. -/
  | redmin (f : Fields)
  /-- REDMAX (R149): Fire-and-forget maximum reduction. -/
  | redmax (f : Fields)
  /-- REDFADD (R149): Fire-and-forget floating-point add reduction. -/
  | redfadd (f : Fields)
  /-- SEMWAIT (R150): Waits until a semaphore holds at least the count and subtracts it. -/
  | semwait (f : Fields)
  /-- SEMPOST (R150): Adds a count to a semaphore, saturating. -/
  | sempost (f : Fields)
  /-- SRACQ (R152): Acquires the next empty slot of a firkin ring for filling. -/
  | sracq (f : Fields)
  /-- SRPUB (R152): Publishes a filling slot as full. -/
  | srpub (f : Fields)
  /-- SRTAKE (R152): Takes the next full slot of a firkin ring for draining. -/
  | srtake (f : Fields)
  /-- SRREL (R152): Releases a draining slot as empty. -/
  | srrel (f : Fields)
  /-- BARINIT (R154): Initialises a barrier record with its expected arrivals. -/
  | barinit (f : Fields)
  /-- BARARR (R154): Counts an arrival at a barrier and tests phase completion. -/
  | bararr (f : Fields)
  /-- BAREXP (R154): Adds expected bytes to a barrier's pending count. -/
  | barexp (f : Fields)
  /-- BARWAIT (R154): Waits until a barrier's phase differs from w. -/
  | barwait (f : Fields)
  /-- BARTEST (R154): Writes whether a barrier's phase differs from w. -/
  | bartest (f : Fields)
  /-- QFENCE (R155): Waits until earlier operations in the selected engine queues have performed. -/
  | qfence (f : Fields)
  /-- QPUT (R156): Places a 64-byte packet into an engine or user-mode queue, waiting for room. -/
  | qput (f : Fields)
  /-- QPUT_NB (R156): Places a packet if the queue has room and reports success in a predicate. -/
  | qputNb (f : Fields)
  /-- POISONCLR (R158): Writes a line as zero and clears its poison. -/
  | poisonclr (f : Fields)
  /-- VSHP (R168): Writes the shape register at decode. -/
  | vshp (f : Fields)
  /-- VADD (R171): Element-wise addition. -/
  | vadd (f : Fields)
  /-- VSUB (R171): Element-wise subtraction. -/
  | vsub (f : Fields)
  /-- VMUL (R171): Element-wise multiplication. -/
  | vmul (f : Fields)
  /-- VFMA (R171): Element-wise fused a × b + c. -/
  | vfma (f : Fields)
  /-- VFMS (R171): Element-wise fused a × b − c. -/
  | vfms (f : Fields)
  /-- VNFMA (R171): Element-wise fused c − a × b. -/
  | vnfma (f : Fields)
  /-- VDIV (R171): Element-wise division. -/
  | vdiv (f : Fields)
  /-- VSQRT (R171): Element-wise square root. -/
  | vsqrt (f : Fields)
  /-- VMIN (R171): Element-wise minimum. -/
  | vmin (f : Fields)
  /-- VMAX (R171): Element-wise maximum. -/
  | vmax (f : Fields)
  /-- VABS (R171): Element-wise absolute value. -/
  | vabs (f : Fields)
  /-- VNEG (R171): Element-wise negation. -/
  | vneg (f : Fields)
  /-- VCMP (R172): Writes a mask from a grouped element comparison. -/
  | vcmp (f : Fields)
  /-- VSEL (R173): Selects elements by a mask. -/
  | vsel (f : Fields)
  /-- VAND (R174): Element-wise AND. -/
  | vand (f : Fields)
  /-- VOR (R174): Element-wise OR. -/
  | vor (f : Fields)
  /-- VXOR (R174): Element-wise XOR. -/
  | vxor (f : Fields)
  /-- VNOT (R174): Element-wise NOT. -/
  | vnot (f : Fields)
  /-- VSHL (R174): Element-wise left shift. -/
  | vshl (f : Fields)
  /-- VSHR (R174): Element-wise logical right shift. -/
  | vshr (f : Fields)
  /-- VSHRA (R174): Element-wise arithmetic right shift. -/
  | vshra (f : Fields)
  /-- VCLAMP (R174): Element-wise clamp between b and c. -/
  | vclamp (f : Fields)
  /-- VCVT (R175): Converts each element from the source format to the target format. -/
  | vcvt (f : Fields)
  /-- VQNT (R176): Quantises rows into MX blocks with their scales. -/
  | vqnt (f : Fields)
  /-- VDQNT (R177): Dequantises MX elements with their scales. -/
  | vdqnt (f : Fields)
  /-- VPACK6 (R179): Packs 6-bit elements into a byte stream. -/
  | vpack6 (f : Fields)
  /-- VUNPK6 (R179): Unpacks a 6-bit byte stream into elements. -/
  | vunpk6 (f : Fields)
  /-- VPACK4 (R179): Packs 4-bit elements into a byte stream. -/
  | vpack4 (f : Fields)
  /-- VUNPK4 (R179): Unpacks a 4-bit byte stream into elements. -/
  | vunpk4 (f : Fields)
  /-- VSCALE (R178): Multiplies elements by a power of two. -/
  | vscale (f : Fields)
  /-- VREDR (R180): Reduces each row across its columns. -/
  | vredr (f : Fields)
  /-- VREDC (R180): Reduces each column across its rows. -/
  | vredc (f : Fields)
  /-- VMAXR (R181): Finds each row's maximum and its lowest index. -/
  | vmaxr (f : Fields)
  /-- VSCAN (R182): Forms inclusive prefixes along rows or columns. -/
  | vscan (f : Fields)
  /-- VEXP (R183): Correctly rounded e^x per element. -/
  | vexp (f : Fields)
  /-- VEXP2 (R183): Correctly rounded 2^x per element. -/
  | vexp2 (f : Fields)
  /-- VLOG2 (R183): Correctly rounded log2 x per element. -/
  | vlog2 (f : Fields)
  /-- VRCP (R183): Correctly rounded reciprocal per element. -/
  | vrcp (f : Fields)
  /-- VRSQ (R183): Correctly rounded reciprocal square root per element. -/
  | vrsq (f : Fields)
  /-- VTANH (R183): Correctly rounded tanh per element. -/
  | vtanh (f : Fields)
  /-- VSIGM (R183): Correctly rounded logistic sigmoid per element. -/
  | vsigm (f : Fields)
  /-- VSIN (R183): Correctly rounded sine per element. -/
  | vsin (f : Fields)
  /-- VCOS (R183): Correctly rounded cosine per element. -/
  | vcos (f : Fields)
  /-- VTRN (R184): Transposes a tile. -/
  | vtrn (f : Fields)
  /-- VSHUF (R185): Permutes elements within rows or columns by indices. -/
  | vshuf (f : Fields)
  /-- VBCR (R186): Broadcasts one row to every row. -/
  | vbcr (f : Fields)
  /-- VBCC (R186): Broadcasts one column to every column. -/
  | vbcc (f : Fields)
  /-- VMOV (R186): Copies a tile or broadcasts a value. -/
  | vmov (f : Fields)
  /-- VIOTA (R187): Writes a + i × b + j × c per element. -/
  | viota (f : Fields)
  /-- VCMUL (R188): Element-wise complex multiplication. -/
  | vcmul (f : Fields)
  /-- VCFMA (R188): Element-wise complex fused multiply-add. -/
  | vcfma (f : Fields)
  /-- VCONJ (R189): Element-wise complex conjugate. -/
  | vconj (f : Fields)
  /-- VMAG2 (R189): Element-wise squared complex magnitude. -/
  | vmag2 (f : Fields)
  /-- MLEV (R194): Writes one level entry of the shadow nest configuration. -/
  | mlev (f : Fields)
  /-- MBASE (R194): Writes a base of the shadow nest configuration. -/
  | mbase (f : Fields)
  /-- MMODE (R195): Writes the nest mode word after checking it. -/
  | mmode (f : Fields)
  /-- MPRE (R202): Queues a load of the shadow weight plane. -/
  | mpre (f : Fields)
  /-- MSWAP (R202): Queues an exchange of the two weight planes. -/
  | mswap (f : Fields)
  /-- MGO (R200): Places a nest with its configuration snapshot in the matrix queue. -/
  | mgo (f : Fields)
  /-- MWAIT (R200): Waits until earlier matrix-queue operations have completed. -/
  | mwait (f : Fields)
  /-- MSTAT (R201): Writes the matrix status record to a vector register. -/
  | mstat (f : Fields)
  /-- MDRAIN (R209): Queues conversion of an accumulator tile into a register or LM. -/
  | mdrain (f : Fields)
  /-- MZERO (R207): Queues zeroing of the selected accumulator tiles. -/
  | mzero (f : Fields)
  /-- MACCL (R208): Queues a load of an accumulator tile. -/
  | maccl (f : Fields)
  /-- MSPMETA (R206): Queues a copy of sparsity metadata into the shadow metadata. -/
  | mspmeta (f : Fields)
  /-- MSCALE (R205): Pushes one scale entry into the scale queue, waiting while it is full. -/
  | mscale (f : Fields)
  /-- MTEST_NOW (R213): Queues a matrix self-test. -/
  | mtestNow (f : Fields)
  /-- MTEST_IVL (R213): Queues a change of the self-test interval. -/
  | mtestIvl (f : Fields)
  /-- MFUSE (R211): Queues selection of the array shape. -/
  | mfuse (f : Fields)
  /-- MATRIX_OP_START (R190): The next queued matrix operation begins when the one ahead has completed. -/
  | matrixOpStart (core : Nat)
  /-- MPRE_EARLY_START (R203): An MPRE begins loading before the operations ahead of it complete when they touch no bank it reads. -/
  | mpreEarlyStart (core : Nat)
  /-- NEST_START (R198): A nest at the head of the matrix queue makes all its checks before its first pass. -/
  | nestStart (core : Nat)
  /-- NEST_PASS (R196): One pass of a nest accumulates into its accumulator tile. -/
  | nestPass (core : Nat)
  /-- MATRIX_OP_COMPLETE (R190): A matrix operation completes, its flags merge and its token push is made. -/
  | matrixOpComplete (core : Nat)
  /-- CPY (R223): Reads a copy descriptor and enqueues a linear copy. -/
  | cpy (f : Fields)
  /-- CPYS (R223): Reads a descriptor and enqueues a strided row copy. -/
  | cpys (f : Fields)
  /-- LAYOUT (R225): Reads a descriptor and hands a layout command to the Ell. -/
  | layout (f : Fields)
  /-- CPYQ (R224): Reads a descriptor and enqueues a copy that ends with a signal add. -/
  | cpyq (f : Fields)
  /-- COPY_COMMAND_START (R219): A copy-queue command at its head makes its start checks. -/
  | copyCommandStart (core : Nat)
  /-- COPY_SECTOR (R223): One sector of a copy command is translated, read and written, or held by a fault. -/
  | copySector (core : Nat)
  /-- COPY_COMMAND_COMPLETE (R220): A copy command's results become visible, CODE and DONE are written and its barrier and event bit are updated. -/
  | copyCommandComplete (core : Nat)
  /-- BGMAC (R226): Reads a descriptor and enqueues an in-memory matrix-vector product. -/
  | bgmac (f : Fields)
  /-- BGCPY (R230): Reads a descriptor and enqueues an in-die row copy. -/
  | bgcpy (f : Fields)
  /-- BGATTN (R229): Reads a descriptor and enqueues an in-memory attention sequence. -/
  | bgattn (f : Fields)
  /-- KVPUT (R230): Reads a descriptor and enqueues placement of key-value blocks. -/
  | kvput (f : Fields)
  /-- KVTAKE (R230): Reads a descriptor and enqueues removal of key-value blocks. -/
  | kvtake (f : Fields)
  /-- MEMORY_COMMAND_START (R293): A memory command at its queue head makes its checks, translates its pages, looks up tables and sends its parts. -/
  | memoryCommandStart (quad : Nat)
  /-- MEMORY_PART (R294): One part of a memory command runs on a channel's BGAUs in channel order. -/
  | memoryPart (quad : Nat) (die : Nat)
  /-- MEMORY_COMMAND_COMPLETE (R220): The port combines the partials, writes the outputs and status, and completes the command. -/
  | memoryCommandComplete (quad : Nat)
  /-- XPWR_POISON_WRITE (R304): After an uncorrectable read, the sequencer writes the unit with the die's poison mark. -/
  | xpwrPoisonWrite (unit : Nat)
  /-- BGFENCE (R232): Waits until earlier memory commands performed and dirty interleaved lines are written back. -/
  | bgfence (f : Fields)
  /-- BGBAR_HOLD (R233): Holds the furlongs of a handle once commands reading them have completed. -/
  | bgbarHold (f : Fields)
  /-- BGBAR_REL (R233): Releases a hold on a handle's furlongs. -/
  | bgbarRel (f : Fields)
  /-- BGSTAT (R234): Returns a die's error count or a quadrant queue's occupancy. -/
  | bgstat (f : Fields)
  /-- AREDUCE (R235): Reads a descriptor and enqueues an all-reduce over the league's window. -/
  | areduce (f : Fields)
  /-- AREDUCE_COMPLETE (R235): Once all contributions have arrived, the reduction is formed in order and written into the participant's range. -/
  | areduceComplete (core : Nat)
  /-- STEP (R237): Commits a step number for a group mask as a ring-scope release. -/
  | step (f : Fields)
  /-- DLGET (R241): Reads remaining time, slack or wrap-up budget. -/
  | dlget (f : Fields)
  /-- WUSET (R242): Sets the wrap-up entry and budget. -/
  | wuset (f : Fields)
  /-- COMMIT (R240): Writes status, user word, time and count into the result descriptor as a release. -/
  | commit (f : Fields)
  /-- PVAL (R239): Sets or clears partial-validity bits of the result descriptor. -/
  | pval (f : Fields)
  /-- DLARM (R243): Arms or disarms a strand sub-deadline. -/
  | dlarm (f : Fields)
  /-- UIEN (R245): Enables or disables user interrupts. -/
  | uien (f : Fields)
  /-- UIMASK (R245): Sets, ORs or clears user-interrupt mask bits. -/
  | uimask (f : Fields)
  /-- UIRET (R245): Returns from the user-interrupt handler. -/
  | uiret (f : Fields)
  /-- LAUNCH (R331): A command-processor thread reads a LAUNCH packet and its SUB packets and presents or refuses the bundle. -/
  | launch (thread : Nat)
  /-- NOP_PACKET (R328): A NOP packet is consumed. -/
  | nopPacket (thread : Nat)
  /-- WAIT_PACKET (R330): A WAIT packet blocks its thread until a memory word satisfies a condition. -/
  | waitPacket (thread : Nat)
  /-- QUEUE_WAIT_TIMEOUT (R330): A WAIT's timeout elapses, the queue sets STALL and posts a STALL event. -/
  | queueWaitTimeout (thread : Nat)
  /-- SIGNAL_PACKET (R330): A SIGNAL packet performs AADD at an address as a system-scope release. -/
  | signalPacket (thread : Nat)
  /-- REGISTER (R324): A REGISTER packet has the loader check, copy and store a signed schedule image. -/
  | register (thread : Nat)
  /-- UNREGISTER (R407): An UNREGISTER packet removes a registered image unless busy or not found. -/
  | unregister (thread : Nat)
  /-- MAPQ (R325): A MAPQ packet inserts a queue control block or clears STALL. -/
  | mapq (thread : Nat)
  /-- UNMAPQ (R325): An UNMAPQ packet turns a queue control block into a tombstone. -/
  | unmapq (thread : Nat)
  /-- REVOKE (R364): A REVOKE packet revokes a host or pool extent in its ordered steps. -/
  | revoke (thread : Nat)
  /-- KILL (R344): A KILL packet tears a bundle down. -/
  | kill (thread : Nat)
  /-- POLICY_DISPATCH (R335): The policy firmware chooses presented bundles by level and slack and writes their bind records or pre-empts. -/
  | policyDispatch
  /-- BUNDLE_START (R332): After prologue copies complete, every strand of the bundle starts and other commands are issued. -/
  | bundleStart (bndl : BitVec 64)
  /-- PREEMPT_SAVE_COMPLETE (R336): Once the group's work has drained, strand and core state are saved and every record reaches STATE 3. -/
  | preemptSaveComplete (bndl : BitVec 64)
  /-- BUNDLE_COMPLETE (R343): A complete bundle has its trailer written, its signal decremented, its MSI-X sent and its records cleared. -/
  | bundleComplete (bndl : BitVec 64)
  /-- RESET_N_RELEASE (R399): Release of RESET_N with PWRGD boots the device through its steps. -/
  | resetNRelease
  /-- ACKNOWLEDGEMENT (R265): A reply reaches the issuing strand that an access without a register result has performed at its scope, releasing a held S queue, a MARK or a token push. -/
  | acknowledgement (slot : Nat)
  /-- FRESP_RESOLVE (R353): A fault response with ACT 0 makes the held access or command retry. -/
  | frespResolve (seq : BitVec 32)
  /-- FRESP_DELIVER (R353): A fault response with ACT 1 delivers the held fault as a trap or error completion. -/
  | frespDeliver (seq : BitVec 32)
  /-- SELF_TEST (R212): A due self-test runs between matrix operations after its nest count or 1 ms expires. -/
  | selfTest (core : Nat) (failing : BitVec 4)
  /-- REFRESH (R286): A per-bank refresh falls due and runs before its limit. -/
  | refresh (die : Nat) (bank : Nat)
  /-- SCRUB (R304): After a part completes, units read with corrected errors are rewritten with the corrected value. -/
  | scrub (unit : Nat)
  /-- RADV_MESSAGE (R274): A round-advance message reaches an L1 and raises its known round. -/
  | radvMessage (core : Nat) (region : Nat)
  /-- PUSH_MARKER (R275): A push region's marker for a round reaches an L1, which restamps its copies. -/
  | pushMarker (core : Nat) (region : Nat) (round : BitVec 32)
  /-- DEAD_AGENT (R390): An owner that cannot supply its modified line, or times out, leaves the home line poisoned. -/
  | deadAgent (held : LineOwner) (line : Nat)
  /-- CXL_MEM_READ (R357): A host CXL.mem read through an aperture slot is translated and performed. -/
  | cxlMemRead (addr : HostAddr) (len : Nat)
  /-- CXL_MEM_WRITE (R357): A host CXL.mem write through an aperture slot is translated and performed. -/
  | cxlMemWrite (addr : HostAddr) (data : List Byte)
  /-- SNPDATA (R359): A host SnpData snoop is answered by the caching L2 slice. -/
  | snpdata (line : Nat)
  /-- SNPINV (R359): A host SnpInv snoop is answered and the line invalidated. -/
  | snpinv (line : Nat)
  /-- SNPCUR (R359): A host SnpCur snoop is answered with current data. -/
  | snpcur (line : Nat)
  /-- BISNPINV (R362): A pool back-invalidate snoop writes back and invalidates the line. -/
  | bisnpinv (line : Nat)
  /-- BISNPDATA (R362): A pool back-invalidate data snoop returns data and keeps a shared copy. -/
  | bisnpdata (line : Nat)
  /-- NOTIFY_WRITE (R326): A write to the notify register wakes the serving thread or sets PEND, or is dropped. -/
  | notifyWrite (pasid : BitVec 20) (qnum : BitVec 12)
  /-- BIND_GROUP_COMMIT (R334): Writing GO commits a bind group, which dispatch checks and binds whole or refuses whole. -/
  | bindGroupCommit (bndl : BitVec 64)
  /-- PREEMPT_REQUEST (R336): A write of STATE 2 into a bind record starts pre-emption of the whole bundle. -/
  | preemptRequest (bndl : BitVec 64)
  /-- RESUME (R339): New bind records of a saved bundle restore its state, re-enter commands and deliver the flit log. -/
  | resume (bndl : BitVec 64)
  /-- FLIT_RECEIVE (R375): A Bruloth flit with good CRC and the expected sequence number is accepted and its slots routed. -/
  | flitReceive (port : Port) (flit : List Byte)
  /-- FLIT_NAK (R375): A bad or out-of-order flit is discarded and a NAK makes the sender replay. -/
  | flitNak (port : Port) (flit : List Byte)
  /-- LANE_INTERVAL (R376): Each 1 ms interval a lane's FEC count is judged for failure. -/
  | laneInterval (port : Port) (lane : Nat) (count : Nat)
  /-- LANE_SPARE (R376): A failing lane is replaced by a spare at an agreed flit boundary. -/
  | laneSpare (port : Port) (lane : Nat)
  /-- HALF_WIDTH_RETRAIN (R376): With no spare left, the port retrains at half width. -/
  | halfWidthRetrain (port : Port)
  /-- PORT_DOWN (R376): A port that cannot keep 8 lanes goes down and aborts are originated. -/
  | portDown (port : Port)
  /-- LKCTL_FORCE (R376): A write of FORCE spares a named lane at once. -/
  | lkctlForce (port : Port) (value : Word)
  /-- LGCTL_WRITE (R373): A write of league control checks sizes before enabling and resets step state on a change of EN. -/
  | lgctlWrite (value : Word)
  /-- TIME_SEND (R381): Every 125 µs the time master sends a TIME message from both ports. -/
  | timeSend
  /-- TIME_RECEIVE (R381): A TIME message is forwarded and applied by slewing at a follower. -/
  | timeReceive (port : Port) (masterNs : Nat)
  /-- LINK_DELAY_EXCHANGE (R381): Every 125 µs a timestamped exchange measures each link's delay. -/
  | linkDelayExchange (port : Port) (roundTripNs : Nat)
  /-- TIME_SOURCE_LOSS (R382): With no TIME for 1 ms the member falls to the next time source. -/
  | timeSourceLoss
  /-- PTP_MESSAGE (R307): An IEEE 1588 message on the management port disciplines device time. -/
  | ptpMessage (masterNs : Nat)
  /-- PPS_IN_EDGE (R307): A PPS input edge sets the phase of the second. -/
  | ppsInEdge
  /-- PPS_OUT (R307): The PPS output rises at each whole second of device time. -/
  | ppsOut
  /-- ABORT_ORIGINATE (R392): A device originates an abort for each group mask it holds steps for. -/
  | abortOriginate (mask : BitVec 8)
  /-- ABORT_PASS1 (R392): A member receiving pass 1 freezes the mask and contributes its frozen step. -/
  | abortPass1 (came : PassAt) (orig : BitVec 3) (acc : BitVec 48)
  /-- ABORT_PASS2 (R393): A member receiving the agreed step writes LGABT, aborts AREDUCEs and traps STEP users. -/
  | abortPass2 (came : PassAt) (orig : BitVec 3) (agreed : BitVec 48)
  /-- LGABT_CLEAR (R393): Clearing LGABT.V unfreezes the mask and sets the last committed step. -/
  | lgabtClear
  /-- LOCKSTEP_MISMATCH (R396): A service pair's cores disagree and the pair stops. -/
  | lockstepMismatch (pair : Nat)
  /-- HEARTBEAT (R397): The leader increments HBCNT once per 1 ms. -/
  | heartbeat
  /-- TAKEOVER (R397): After HBMISS missed periods a standby pair takes over and replays the journal. -/
  | takeover
  /-- FUSE_ADVANCE (R398): After the first heartbeat the ROM blows fuses up to an advancing image's SVN. -/
  | fuseAdvance
  /-- RECOVERY_IMAGE (R398): A host-pushed firmware image in recovery is checked, written to flash and booted. -/
  | recoveryImage (image : List Byte)
  /-- POWER_OFF (R402): Loss of a rail or assertion of RESET_N puts the device in OFF. -/
  | powerOff
  /-- THROTTLE_ENTRY (R402): High temperature or sustained power puts the device in THROTTLE at point 0. -/
  | throttleEntry
  /-- THROTTLE_EXIT (R402): After 10 ms below the limits the device returns to ON. -/
  | throttleExit
  /-- THERMAL_TRIP (R402): A trip temperature stops the clock and asserts THERMTRIP_N. -/
  | thermalTrip
  /-- PWRCTL_WRITE (R403): A write of power control requests a change of operating point or bound. -/
  | pwrctlWrite (value : Word)
  /-- VCORE_SLEW_DONE (R403): VCORE reaches its new value during a change of operating point. -/
  | vcoreSlewDone
  /-- CLOCK_RESTART (R403): The compute clock restarts at the new frequency after its relock pause. -/
  | clockRestart
  /-- REGISTER_WRITE (R7): A write to a device register that has no row of its own sets its fields under the access codes. -/
  | registerWrite (reg : RegAt) (value : Word)
  /-- PTP_SOURCE_LOSS (R307): The IEEE 1588 source stops being available and device time falls to the next source of the table, down to holdover. -/
  | ptpSourceLoss
  /-- LOSS_OF_LOCK (R376): A receiving Bruloth lane loses lock and becomes failing at once, starting sparing. -/
  | lossOfLock (port : Port) (lane : Nat)
  /-- PORT_TRAINED (R395): A Bruloth port finishes training after the league is enabled again and UP is set, carrying flits. -/
  | portTrained (port : Port)
  /-- AREDUCE_ABORT (R236): An abort for a collective instance makes its AREDUCE complete with CODE 6 without writing. -/
  | areduceAbort (core : Nat)
  /-- ELL_RELAY (R368): A LAYOUT with OP 0 copies element bits and scales into the destination layout. -/
  | ellRelay (core : Nat)
  /-- ELL_CONVERT (R368): A LAYOUT with OP 1 converts or quantises each element into the target format. -/
  | ellConvert (core : Nat)
  /-- ELL_EXPAND (R370): A LAYOUT with OP 2 expands COMPRESSED tiles into their frames in place. -/
  | ellExpand (core : Nat)
  /-- UNSETTLE (R356): Clears a page's SHR and its migration history. -/
  | unsettle
  /-- FLIPH (R361): Flips a page from device bias to host bias through its steps. -/
  | fliph
  /-- FLIPD (R361): Flips a page from host bias to device bias through its steps. -/
  | flipd
  /-- MOVE (R355): The migration engine starts moving a page: MIG set, translations and copies invalidated, data copied. -/
  | move
  /-- MOVE_COMPLETE (R355): The new leaf is written, the source freed, status written and held accesses retried. -/
  | moveComplete
  /-- L2_WRITE_BACK (R281): A dirty interleaved line is written back to the dies at eviction. -/
  | l2WriteBack (line : Nat)
  deriving DecidableEq, Repr

end Sys2Proof
end

