-- ==== Sys2Proof/Machine/Spec.lean ====
section
/-! DEFINITION. The encoding table of the spec: what every instruction's word may hold (R79, R99), the trap codes (R103). -/

namespace Sys2Proof.Machine

/-- The trap codes of R103. -/
inductive TrapCode where
  | illegalOpcode | illegalEncoding | illegalOperand | illegalLatency | illegalLine | privileged | handleInvalid | handleBounds
  | pageFault | permission | alignment | shapeInvalid | bankConflict | layoutMismatch | constWrite | feTimeout | feOverflow
  | waitTimeout | tokenOverflow | fetchUnpublished | fetchNotExec | dataPoison | pimUncorrectable | pimOwned | extentRevoked
  | scaleQueueEmpty | sparsityMeta | subarrayFenced | budgetExhausted | stepAbort | claimViolation | software
  deriving DecidableEq, Repr

/-- The TRC value of a code (R103). -/
def TrapCode.value : TrapCode → Nat
  | .illegalOpcode => 0x01 | .illegalEncoding => 0x02 | .illegalOperand => 0x03 | .illegalLatency => 0x04
  | .illegalLine => 0x05 | .privileged => 0x06 | .handleInvalid => 0x07 | .handleBounds => 0x08 | .pageFault => 0x09
  | .permission => 0x0A | .alignment => 0x0B | .shapeInvalid => 0x0C | .bankConflict => 0x0D | .layoutMismatch => 0x0E
  | .constWrite => 0x0F | .feTimeout => 0x10 | .feOverflow => 0x11 | .waitTimeout => 0x12 | .tokenOverflow => 0x13
  | .fetchUnpublished => 0x14 | .fetchNotExec => 0x15 | .dataPoison => 0x16 | .pimUncorrectable => 0x17 | .pimOwned => 0x18
  | .extentRevoked => 0x19 | .scaleQueueEmpty => 0x1A | .sparsityMeta => 0x1B | .subarrayFenced => 0x1C
  | .budgetExhausted => 0x1D | .stepAbort => 0x1E | .claimViolation => 0x1F | .software => 0x20

/-- Where an instruction executes (R99): the front, one queue, or an entry in each of L and S. -/
inductive Route where
  | f | l | c | s | ls
  deriving DecidableEq, Repr

/-- Latency classes (R85); `g n` is class X under the vector group n of R164. -/
inductive LatClass where
  | n
  | x (m : Nat)
  | v
  | g (n : Nat)
  deriving DecidableEq, Repr

/-- Operand kinds (R63); a mask and a predicate are the two classes of kind 3, and `off` is the branch offset of R96. -/
inductive Kind where
  | none | s | v | p | m | k | i | h | y | off
  deriving DecidableEq, Repr

def kindOf : Operand → Kind
  | .none => .none | .s _ => .s | .v _ => .v | .p _ => .p | .m _ => .m | .k _ _ => .k | .i _ => .i | .h _ => .h | .y _ => .y
  | .off _ => .off

/-- What the description of an instruction fixes about its word (R79). -/
structure ISpec where
  opc : Nat
  route : Route := .f
  lat : LatClass := .n
  fmtOk : Bool
  flagsOk : Bool
  subOk : Bool
  scpOk : Bool
  hintOk : Bool := false
  d : List Kind := [.none]
  a : List Kind := [.none]
  b : List Kind := [.none]
  c : List Kind := [.none]
  e : List Kind := [.none]
  priv : Bool := false
  matrix : Bool := false
  deriving DecidableEq, Repr

def fieldFmt (f : Fields) : Option Fmt := Fmt.ofCode f.fmt.toNat
def subFmt (f : Fields) : Option Fmt := Fmt.ofCode f.sub.toNat
def fmtIn (l : List Fmt) (f : Fields) : Bool := match fieldFmt f with
  | some x => l.contains x
  | none => false
def subFmtIn (l : List Fmt) (f : Fields) : Bool := match subFmt f with
  | some x => l.contains x
  | none => false
/-- Rounding modifier of R92. -/
def rmOk (f : Fields) : Bool := f.flags.toNat ≤ 5
/-- TM[125] is the one flag that the instruction defines. -/
def bit125 (f : Fields) : Bool := f.flags.toNat ≤ 1
/-- rm for FLTV, sat for INTV (R159). -/
def rmSatOk (f : Fields) : Bool := if fmtIn Fmt.fltv f then rmOk f else bit125 f
def satIntOk (f : Fields) : Bool := if fmtIn Fmt.fltv f then f.flags == 0 else bit125 f
/-- R172: the conditions of R119 for integers, of R124 for floats. -/
def cmpSubOk (f : Fields) : Bool := if fmtIn Fmt.fltv f then f.sub.toNat ≤ 4 else f.sub.toNat ≤ 9
/-- R175, R46. -/
def cvtSubOk (f : Fields) : Bool := match subFmt f, fieldFmt f with
  | some s, some t => Fmt.anyv.contains s && !(Fmt.convIllegal s t)
  | _, _ => false
/-- R182. -/
def scanSubOk (f : Fields) : Bool := f.sub.toNat < 8 && f.sub.toNat % 4 != 3
/-- R188. -/
def cmulSubOk (f : Fields) : Bool := if fmtIn [.cf16] f then f.sub == 0 else f.sub.toNat ≤ 15
/-- R189. -/
def magSubOk (f : Fields) : Bool := match subFmt f, fieldFmt f with
  | some .ci12, some .int32 => true
  | some .cf16, some .fp32 => true
  | _, _ => false
/-- R91. -/
def scpIn (l : List Nat) (f : Fields) : Bool := l.contains f.scp.toNat
/-- The class of an instruction whose destination is optional: V with D, N without (R139, R216). -/
def latD (f : Fields) : LatClass := if f.d = .none then .n else .v

/-- A row with no format, flag, SUB value or scope: those fields must be zero (R79, R113). -/
def base (f : Fields) : ISpec :=
  { opc := 0, fmtOk := f.fmt == 0, flagsOk := f.flags == 0, subOk := f.sub == 0, scpOk := f.scp == 0 }

/-- The encoding of every instruction of the opcode map: opcode, queue, class, formats, flags, SUB, scopes, hint and operand
kinds (R99, R113 to R134, R143 to R158, R167, R191, R216). Events have none. -/
def ispec : Instr → Option ISpec
  | .add f => some { base f with opc := 0x001, lat := .x 0, fmtOk := fmtIn Fmt.int4s f, d := [.s], a := [.s, .k, .i], b := [.s, .k, .i] }
  | .sub f => some { base f with opc := 0x002, lat := .x 0, fmtOk := fmtIn Fmt.int4s f, d := [.s], a := [.s, .k, .i], b := [.s, .k, .i] }
  | .mul f => some { base f with opc := 0x003, lat := .x 2, fmtOk := fmtIn Fmt.int4s f, d := [.s], a := [.s, .k, .i], b := [.s, .k, .i] }
  | .mulhu f => some { base f with opc := 0x004, lat := .x 3, fmtOk := fmtIn Fmt.int4s f, d := [.s], a := [.s, .k, .i], b := [.s, .k, .i] }
  | .mulhs f => some { base f with opc := 0x005, lat := .x 3, fmtOk := fmtIn Fmt.int4s f, d := [.s], a := [.s, .k, .i], b := [.s, .k, .i] }
  | .divu f => some { base f with opc := 0x006, lat := .x 11, fmtOk := fmtIn Fmt.int4s f, d := [.s], a := [.s, .k, .i], b := [.s, .k, .i] }
  | .divs f => some { base f with opc := 0x007, lat := .x 11, fmtOk := fmtIn Fmt.int4s f, d := [.s], a := [.s, .k, .i], b := [.s, .k, .i] }
  | .remu f => some { base f with opc := 0x008, lat := .x 11, fmtOk := fmtIn Fmt.int4s f, d := [.s], a := [.s, .k, .i], b := [.s, .k, .i] }
  | .rems f => some { base f with opc := 0x009, lat := .x 11, fmtOk := fmtIn Fmt.int4s f, d := [.s], a := [.s, .k, .i], b := [.s, .k, .i] }
  | .and f => some { base f with opc := 0x00A, lat := .x 0, fmtOk := fmtIn Fmt.int4s f, d := [.s], a := [.s, .k, .i], b := [.s, .k, .i] }
  | .or f => some { base f with opc := 0x00B, lat := .x 0, fmtOk := fmtIn Fmt.int4s f, d := [.s], a := [.s, .k, .i], b := [.s, .k, .i] }
  | .xor f => some { base f with opc := 0x00C, lat := .x 0, fmtOk := fmtIn Fmt.int4s f, d := [.s], a := [.s, .k, .i], b := [.s, .k, .i] }
  | .andn f => some { base f with opc := 0x00D, lat := .x 0, fmtOk := fmtIn Fmt.int4s f, d := [.s], a := [.s, .k, .i], b := [.s, .k, .i] }
  | .shl f => some { base f with opc := 0x00E, lat := .x 0, fmtOk := fmtIn Fmt.int4s f, d := [.s], a := [.s, .k, .i], b := [.s, .k, .i] }
  | .shrl f => some { base f with opc := 0x00F, lat := .x 0, fmtOk := fmtIn Fmt.int4s f, d := [.s], a := [.s, .k, .i], b := [.s, .k, .i] }
  | .shra f => some { base f with opc := 0x010, lat := .x 0, fmtOk := fmtIn Fmt.int4s f, d := [.s], a := [.s, .k, .i], b := [.s, .k, .i] }
  | .rotl f => some { base f with opc := 0x011, lat := .x 0, fmtOk := fmtIn Fmt.int4s f, d := [.s], a := [.s, .k, .i], b := [.s, .k, .i] }
  | .clz f => some { base f with opc := 0x012, lat := .x 0, fmtOk := fmtIn Fmt.int4s f, d := [.s], a := [.s, .k, .i] }
  | .ctz f => some { base f with opc := 0x013, lat := .x 0, fmtOk := fmtIn Fmt.int4s f, d := [.s], a := [.s, .k, .i] }
  | .popc f => some { base f with opc := 0x014, lat := .x 0, fmtOk := fmtIn Fmt.int4s f, d := [.s], a := [.s, .k, .i] }
  | .bswap f => some { base f with opc := 0x015, lat := .x 0, fmtOk := fmtIn Fmt.int4s f, d := [.s], a := [.s, .k, .i] }
  | .min f => some { base f with opc := 0x016, lat := .x 0, fmtOk := fmtIn Fmt.int4s f, d := [.s], a := [.s, .k, .i], b := [.s, .k, .i] }
  | .max f => some { base f with opc := 0x017, lat := .x 0, fmtOk := fmtIn Fmt.int4s f, d := [.s], a := [.s, .k, .i], b := [.s, .k, .i] }
  | .minu f => some { base f with opc := 0x018, lat := .x 0, fmtOk := fmtIn Fmt.int4s f, d := [.s], a := [.s, .k, .i], b := [.s, .k, .i] }
  | .maxu f => some { base f with opc := 0x019, lat := .x 0, fmtOk := fmtIn Fmt.int4s f, d := [.s], a := [.s, .k, .i], b := [.s, .k, .i] }
  | .abs f => some { base f with opc := 0x01A, lat := .x 0, fmtOk := fmtIn Fmt.int4s f, d := [.s], a := [.s, .k, .i] }
  | .sext f => some { base f with opc := 0x01B, lat := .x 0, fmtOk := fmtIn Fmt.int4s f, d := [.s], a := [.s, .k, .i], b := [.s, .k, .i] }
  | .zext f => some { base f with opc := 0x01C, lat := .x 0, fmtOk := fmtIn Fmt.int4s f, d := [.s], a := [.s, .k, .i], b := [.s, .k, .i] }
  | .sel f => some { base f with opc := 0x01D, lat := .x 0, fmtOk := fmtIn Fmt.int4s f, d := [.s], a := [.s, .k, .i], b := [.s, .k, .i], c := [.p] }
  | .mov f => some { base f with opc := 0x01E, lat := .x 0, fmtOk := fmtIn Fmt.int4s f, d := [.s], a := [.s, .k, .i] }
  | .movK f => some { base f with opc := 0x01E, lat := .x 0, fmtOk := fmtIn [.int64, .uint64] f, subOk := 1 ≤ f.sub.toNat && f.sub.toNat ≤ 3, d := [.s], a := [.i] }
  | .cmp f => some { base f with opc := 0x01F, lat := .x 0, fmtOk := fmtIn Fmt.int4s f, subOk := f.sub.toNat ≤ 9, d := [.p], a := [.s, .k, .i], b := [.s, .k, .i] }
  | .lea f => some { base f with opc := 0x020, lat := .x 1, fmtOk := fmtIn [.int64] f, subOk := f.sub.toNat ≤ 6, d := [.s], a := [.s], b := [.s, .i], c := [.none, .s, .i] }
  | .pand f => some { base f with opc := 0x021, lat := .x 0, d := [.p], a := [.p], b := [.p] }
  | .por f => some { base f with opc := 0x022, lat := .x 0, d := [.p], a := [.p], b := [.p] }
  | .pxor f => some { base f with opc := 0x023, lat := .x 0, d := [.p], a := [.p], b := [.p] }
  | .pnot f => some { base f with opc := 0x024, lat := .x 0, d := [.p], a := [.p] }
  | .sfadd f => some { base f with opc := 0x028, lat := .x 2, fmtOk := fmtIn Fmt.fltv f, flagsOk := rmOk f, d := [.s], a := [.s, .k, .i], b := [.s, .k, .i] }
  | .sfmul f => some { base f with opc := 0x029, lat := .x 2, fmtOk := fmtIn Fmt.fltv f, flagsOk := rmOk f, d := [.s], a := [.s, .k, .i], b := [.s, .k, .i] }
  | .sffma f => some { base f with opc := 0x02A, lat := .x 3, fmtOk := fmtIn Fmt.fltv f, flagsOk := rmOk f, d := [.s], a := [.s, .k, .i], b := [.s, .k, .i], c := [.s, .k, .i] }
  | .sfcvt f => some { base f with opc := 0x02B, lat := .x 2, fmtOk := fmtIn Fmt.sfcvt f, flagsOk := rmOk f, subOk := subFmtIn Fmt.sfcvt f, d := [.s], a := [.s] }
  | .sfcmp f => some { base f with opc := 0x02C, lat := .x 1, fmtOk := fmtIn Fmt.fltv f, subOk := f.sub.toNat ≤ 4, d := [.p], a := [.s, .k, .i], b := [.s, .k, .i] }
  | .jmp f => some { base f with opc := 0x030, e := [.off] }
  | .br f => some { base f with opc := 0x031, fmtOk := fmtIn Fmt.int4s f, subOk := f.sub.toNat ≤ 9, a := [.s], b := [.s, .k, .i], e := [.off] }
  | .jidx f => some { base f with opc := 0x032, fmtOk := fmtIn [.int64] f, a := [.s], b := [.s, .i] }
  | .call f => some { base f with opc := 0x033, lat := .x 0, d := [.s], e := [.off] }
  | .ret f => some { base f with opc := 0x034, a := [.s] }
  | .loop f => some { base f with opc := 0x035, lat := .x 0, d := [.s], e := [.off] }
  | .nop f => some { base f with opc := 0x036 }
  | .yield f => some { base f with opc := 0x037 }
  | .halt f => some { base f with opc := 0x038 }
  | .csrr f => some { base f with opc := 0x300, lat := .x 0, d := [.s], a := [.y] }
  | .csrw f => some { base f with opc := 0x301, fmtOk := fmtIn [.uint64] f, d := [.y], a := [.s, .i] }
  | .trap f => some { base f with opc := 0x302, fmtOk := fmtIn [.uint32] f, a := [.s, .i] }
  | .syscall f => some { base f with opc := 0x303, fmtOk := fmtIn [.uint32] f, a := [.s, .i] }
  | .eret f => some { base f with opc := 0x304, lat := .x 0, fmtOk := fmtIn [.int64] f, d := [.p], a := [.s], b := [.s], c := [.s, .i], priv := true }
  | .wfe f => some { base f with opc := 0x305, lat := .x 0, fmtOk := fmtIn [.uint32] f, d := [.p], a := [.s, .i] }
  | .tlbi f => some { base f with opc := 0x306, subOk := f.sub.toNat ≤ 3, scpOk := scpIn [1, 4] f, a := (if f.sub = 1 then [.s] else if f.sub = 2 then [.h] else [.none]), priv := true }
  | .lds f => some { base f with opc := 0x080, route := .l, lat := .v, fmtOk := fmtIn Fmt.scalarAccess f, hintOk := true, d := [.s], a := [.s], b := [.s, .i] }
  | .sts f => some { base f with opc := 0x081, route := .s, fmtOk := fmtIn Fmt.scalarAccess f, hintOk := true, a := [.s], b := [.s, .i], c := [.s] }
  | .ldq f => some { base f with opc := 0x082, route := .l, lat := .v, hintOk := true, d := [.s], a := [.s], b := [.s, .i] }
  | .stq f => some { base f with opc := 0x083, route := .s, hintOk := true, a := [.s], b := [.s, .i], c := [.s] }
  | .ldb f => some { base f with opc := 0x088, route := .l, lat := .v, fmtOk := fmtIn Fmt.scalarAccess f, subOk := f.sub.toNat ≤ 15, hintOk := true, d := [.s], a := [.s], b := [.s, .i] }
  | .lda f => some { base f with opc := 0x089, route := .l, lat := .v, fmtOk := fmtIn Fmt.scalarAccess f, scpOk := scpIn [1, 2, 3, 4, 5, 6, 7] f, hintOk := true, d := [.s], a := [.s], b := [.s, .i] }
  | .strel f => some { base f with opc := 0x08A, route := .s, fmtOk := fmtIn Fmt.scalarAccess f, scpOk := scpIn [1, 2, 3, 4, 5, 6, 7] f, hintOk := true, a := [.s], b := [.s, .i], c := [.s] }
  | .ldv f => some { base f with opc := 0x084, route := .l, lat := .v, fmtOk := fmtIn Fmt.anyv f, subOk := f.sub.toNat ≤ 1, hintOk := true, d := [.v], a := [.h], b := [.s], c := [.none, .s], e := [.none, .m] }
  | .stv f => some { base f with opc := 0x085, route := .s, fmtOk := fmtIn Fmt.anyv f, subOk := f.sub.toNat ≤ 1, hintOk := true, d := [.v], a := [.h], b := [.s], c := [.none, .s], e := [.none, .m] }
  | .ldg f => some { base f with opc := 0x086, route := .l, lat := .v, fmtOk := fmtIn Fmt.anyv f, subOk := f.sub.toNat ≤ 1, hintOk := true, d := [.v], a := [.h], b := [.v], c := [.none, .s, .i], e := [.none, .m] }
  | .stg f => some { base f with opc := 0x087, route := .s, fmtOk := fmtIn Fmt.anyv f, subOk := f.sub.toNat ≤ 1, hintOk := true, d := [.v], a := [.h], b := [.v], c := [.none, .s, .i], e := [.none, .m] }
  | .ldfe f => some { base f with opc := 0x090, route := .l, lat := .v, flagsOk := bit125 f, scpOk := scpIn [1, 2] f, d := [.s], a := [.h], b := [.s, .i] }
  | .stff f => some { base f with opc := 0x091, route := .s, fmtOk := fmtIn [.uint32] f, scpOk := scpIn [1, 2] f, a := [.h], b := [.s, .i], c := [.none, .s, .i], e := [.s, .i] }
  | .feq f => some { base f with opc := 0x092, route := .l, lat := .v, d := [.p], a := [.h], b := [.s, .i] }
  | .feset f => some { base f with opc := 0x093, route := .s, subOk := f.sub.toNat ≤ 1, a := [.h], b := [.s, .i], c := [.none, .s, .i] }
  | .mark f => some { base f with opc := 0x098, route := .ls, scpOk := scpIn [0, 1, 2, 3, 4, 5, 6, 7] f }
  | .fence f => some { base f with opc := 0x099, route := .ls, subOk := f.sub.toNat ≤ 4, scpOk := scpIn [1, 2, 3, 4, 5, 6, 7] f }
  | .fenceMem f => some { base f with opc := 0x099, route := .ls, subOk := f.sub.toNat == 5, scpOk := scpIn [4] f, a := [.s], b := [.s, .i] }
  | .pubx f => some { base f with opc := 0x09A, route := .s, scpOk := scpIn [1, 2, 3, 4] f }
  | .radv f => some { base f with opc := 0x09B, route := .s, scpOk := scpIn [1, 2, 3, 4] f, a := [.s, .i] }
  | .aadd f => some { base f with opc := 0x0A0, route := .s, lat := latD f, fmtOk := fmtIn Fmt.int4s f, subOk := f.sub.toNat ≤ 3, scpOk := scpIn [1, 2, 3, 4, 5, 6, 7] f, hintOk := true, d := [.none, .s], a := [.s], b := [.s, .i], c := [.s, .i] }
  | .amin f => some { base f with opc := 0x0A1, route := .s, lat := latD f, fmtOk := fmtIn [.int32, .int64] f, subOk := f.sub.toNat ≤ 3, scpOk := scpIn [1, 2, 3, 4, 5, 6, 7] f, hintOk := true, d := [.none, .s], a := [.s], b := [.s, .i], c := [.s, .i] }
  | .amax f => some { base f with opc := 0x0A2, route := .s, lat := latD f, fmtOk := fmtIn [.int32, .int64] f, subOk := f.sub.toNat ≤ 3, scpOk := scpIn [1, 2, 3, 4, 5, 6, 7] f, hintOk := true, d := [.none, .s], a := [.s], b := [.s, .i], c := [.s, .i] }
  | .aminu f => some { base f with opc := 0x0A3, route := .s, lat := latD f, fmtOk := fmtIn [.uint32, .uint64] f, subOk := f.sub.toNat ≤ 3, scpOk := scpIn [1, 2, 3, 4, 5, 6, 7] f, hintOk := true, d := [.none, .s], a := [.s], b := [.s, .i], c := [.s, .i] }
  | .amaxu f => some { base f with opc := 0x0A4, route := .s, lat := latD f, fmtOk := fmtIn [.uint32, .uint64] f, subOk := f.sub.toNat ≤ 3, scpOk := scpIn [1, 2, 3, 4, 5, 6, 7] f, hintOk := true, d := [.none, .s], a := [.s], b := [.s, .i], c := [.s, .i] }
  | .aand f => some { base f with opc := 0x0A5, route := .s, lat := latD f, fmtOk := fmtIn Fmt.int4s f, subOk := f.sub.toNat ≤ 3, scpOk := scpIn [1, 2, 3, 4, 5, 6, 7] f, hintOk := true, d := [.none, .s], a := [.s], b := [.s, .i], c := [.s, .i] }
  | .aor f => some { base f with opc := 0x0A6, route := .s, lat := latD f, fmtOk := fmtIn Fmt.int4s f, subOk := f.sub.toNat ≤ 3, scpOk := scpIn [1, 2, 3, 4, 5, 6, 7] f, hintOk := true, d := [.none, .s], a := [.s], b := [.s, .i], c := [.s, .i] }
  | .axor f => some { base f with opc := 0x0A7, route := .s, lat := latD f, fmtOk := fmtIn Fmt.int4s f, subOk := f.sub.toNat ≤ 3, scpOk := scpIn [1, 2, 3, 4, 5, 6, 7] f, hintOk := true, d := [.none, .s], a := [.s], b := [.s, .i], c := [.s, .i] }
  | .axchg f => some { base f with opc := 0x0A8, route := .s, lat := latD f, fmtOk := fmtIn Fmt.int4s f, subOk := f.sub.toNat ≤ 3, scpOk := scpIn [1, 2, 3, 4, 5, 6, 7] f, hintOk := true, d := [.none, .s], a := [.s], b := [.s, .i], c := [.s, .i] }
  | .acas f => some { base f with opc := 0x0A9, route := .s, lat := latD f, fmtOk := fmtIn Fmt.int4s f, subOk := f.sub.toNat ≤ 3, scpOk := scpIn [1, 2, 3, 4, 5, 6, 7] f, hintOk := true, d := [.none, .s], a := [.s], b := [.s, .i], c := [.s, .i], e := [.s, .i] }
  | .afadd f => some { base f with opc := 0x0AA, route := .s, lat := latD f, fmtOk := fmtIn Fmt.fltv f, subOk := f.sub.toNat ≤ 3, scpOk := scpIn [1, 2, 3, 4, 5, 6, 7] f, hintOk := true, d := [.none, .s], a := [.s], b := [.s, .i], c := [.s, .i] }
  | .aincw f => some { base f with opc := 0x0AB, route := .s, lat := latD f, fmtOk := fmtIn [.uint32, .uint64] f, subOk := f.sub.toNat ≤ 3, scpOk := scpIn [1, 2, 3, 4, 5, 6, 7] f, hintOk := true, d := [.none, .s], a := [.s], b := [.s, .i], c := [.s, .i] }
  | .redadd f => some { base f with opc := 0x0B0, route := .s, fmtOk := fmtIn Fmt.int4s f, hintOk := true, a := [.s], b := [.s, .i], c := [.s, .i] }
  | .redmin f => some { base f with opc := 0x0B1, route := .s, fmtOk := fmtIn Fmt.int4s f, hintOk := true, a := [.s], b := [.s, .i], c := [.s, .i] }
  | .redmax f => some { base f with opc := 0x0B2, route := .s, fmtOk := fmtIn Fmt.int4s f, hintOk := true, a := [.s], b := [.s, .i], c := [.s, .i] }
  | .redfadd f => some { base f with opc := 0x0B3, route := .s, fmtOk := fmtIn Fmt.fltv f, hintOk := true, a := [.s], b := [.s, .i], c := [.s, .i] }
  | .semwait f => some { base f with opc := 0x0B8, route := .l, fmtOk := fmtIn [.uint32] f, scpOk := scpIn [1, 2] f, a := [.h], b := [.s, .i], c := [.none, .s, .i], e := [.s, .i] }
  | .sempost f => some { base f with opc := 0x0B9, route := .s, fmtOk := fmtIn [.uint32] f, scpOk := scpIn [1, 2] f, a := [.h], b := [.s, .i], c := [.none, .s, .i], e := [.s, .i] }
  | .sracq f => some { base f with opc := 0x0C0, route := .l, lat := .v, scpOk := scpIn [1, 2] f, d := [.s], a := [.h], b := [.s, .i], c := [.none, .s, .i] }
  | .srpub f => some { base f with opc := 0x0C1, route := .s, scpOk := scpIn [1, 2] f, a := [.h], b := [.s, .i], c := [.none, .s, .i], e := [.s, .i] }
  | .srtake f => some { base f with opc := 0x0C2, route := .l, lat := .v, scpOk := scpIn [1, 2] f, d := [.s], a := [.h], b := [.s, .i], c := [.none, .s, .i] }
  | .srrel f => some { base f with opc := 0x0C3, route := .s, scpOk := scpIn [1, 2] f, a := [.h], b := [.s, .i], c := [.none, .s, .i], e := [.s, .i] }
  | .barinit f => some { base f with opc := 0x0C8, route := .s, a := [.h], b := [.s, .i], c := [.none, .s, .i], e := [.s, .i] }
  | .bararr f => some { base f with opc := 0x0C9, route := .s, lat := latD f, d := [.none, .s], a := [.h], b := [.s, .i], c := [.none, .s, .i] }
  | .barexp f => some { base f with opc := 0x0CA, route := .s, a := [.h], b := [.s, .i], c := [.none, .s, .i], e := [.s, .i] }
  | .barwait f => some { base f with opc := 0x0CB, route := .l, a := [.h], b := [.s, .i], c := [.none, .s, .i], e := [.s, .i] }
  | .bartest f => some { base f with opc := 0x0CC, route := .l, lat := .v, d := [.p], a := [.h], b := [.s, .i], c := [.none, .s, .i], e := [.s, .i] }
  | .qfence f => some { base f with opc := 0x0D0, route := .s, scpOk := scpIn [1, 2, 3, 4, 5, 6, 7] f, a := [.s, .i] }
  | .qput f => some { base f with opc := 0x0D1, route := .s, a := [.s, .i], b := [.h], c := [.s, .i] }
  | .qputNb f => some { base f with opc := 0x0D1, route := .s, lat := .v, flagsOk := f.flags == 1, d := [.p], a := [.s, .i], b := [.h], c := [.s, .i] }
  | .poisonclr f => some { base f with opc := 0x0F0, route := .s, scpOk := scpIn [4, 5, 7] f, a := [.s], b := [.s, .i], priv := true }
  | .vshp f => some { base f with opc := 0x100, fmtOk := fmtIn Fmt.anyv f, a := [.s, .i], b := [.s, .i] }
  | .vadd f => some { base f with opc := 0x101, route := .c, lat := .g 1, fmtOk := fmtIn (Fmt.intv ++ Fmt.fltv) f, flagsOk := rmSatOk f, d := [.v], a := [.v, .s, .k, .i], b := [.v, .s, .k, .i], e := [.none, .m] }
  | .vsub f => some { base f with opc := 0x102, route := .c, lat := .g 1, fmtOk := fmtIn (Fmt.intv ++ Fmt.fltv) f, flagsOk := rmSatOk f, d := [.v], a := [.v, .s, .k, .i], b := [.v, .s, .k, .i], e := [.none, .m] }
  | .vmul f => some { base f with opc := 0x103, route := .c, lat := .g 2, fmtOk := fmtIn (Fmt.intv ++ Fmt.fltv) f, flagsOk := rmSatOk f, d := [.v], a := [.v, .s, .k, .i], b := [.v, .s, .k, .i], e := [.none, .m] }
  | .vfma f => some { base f with opc := 0x104, route := .c, lat := .g 2, fmtOk := fmtIn Fmt.fltv f, flagsOk := rmOk f, d := [.v], a := [.v, .s, .k, .i], b := [.v, .s, .k, .i], c := [.v, .s, .k, .i], e := [.none, .m] }
  | .vfms f => some { base f with opc := 0x105, route := .c, lat := .g 2, fmtOk := fmtIn Fmt.fltv f, flagsOk := rmOk f, d := [.v], a := [.v, .s, .k, .i], b := [.v, .s, .k, .i], c := [.v, .s, .k, .i], e := [.none, .m] }
  | .vnfma f => some { base f with opc := 0x106, route := .c, lat := .g 2, fmtOk := fmtIn Fmt.fltv f, flagsOk := rmOk f, d := [.v], a := [.v, .s, .k, .i], b := [.v, .s, .k, .i], c := [.v, .s, .k, .i], e := [.none, .m] }
  | .vdiv f => some { base f with opc := 0x107, route := .c, lat := .g 4, fmtOk := fmtIn Fmt.fltv f, flagsOk := rmOk f, d := [.v], a := [.v, .s, .k, .i], b := [.v, .s, .k, .i], e := [.none, .m] }
  | .vsqrt f => some { base f with opc := 0x108, route := .c, lat := .g 4, fmtOk := fmtIn Fmt.fltv f, flagsOk := rmOk f, d := [.v], a := [.v, .s, .k, .i], e := [.none, .m] }
  | .vmin f => some { base f with opc := 0x109, route := .c, lat := .g 1, fmtOk := fmtIn (Fmt.intv ++ Fmt.fltv) f, d := [.v], a := [.v, .s, .k, .i], b := [.v, .s, .k, .i], e := [.none, .m] }
  | .vmax f => some { base f with opc := 0x10A, route := .c, lat := .g 1, fmtOk := fmtIn (Fmt.intv ++ Fmt.fltv) f, d := [.v], a := [.v, .s, .k, .i], b := [.v, .s, .k, .i], e := [.none, .m] }
  | .vabs f => some { base f with opc := 0x10B, route := .c, lat := .g 1, fmtOk := fmtIn (Fmt.intv ++ Fmt.fltv) f, flagsOk := satIntOk f, d := [.v], a := [.v, .s, .k, .i], e := [.none, .m] }
  | .vneg f => some { base f with opc := 0x10C, route := .c, lat := .g 1, fmtOk := fmtIn (Fmt.intv ++ Fmt.fltv) f, flagsOk := satIntOk f, d := [.v], a := [.v, .s, .k, .i], e := [.none, .m] }
  | .vcmp f => some { base f with opc := 0x10D, route := .c, lat := .g 1, fmtOk := fmtIn (Fmt.intv ++ Fmt.fltv) f, flagsOk := bit125 f, subOk := cmpSubOk f, d := [.m], a := [.v, .s, .k, .i], b := [.v, .s, .k, .i], e := [.none, .m] }
  | .vsel f => some { base f with opc := 0x10E, route := .c, lat := .g 1, fmtOk := fmtIn Fmt.anyv f, d := [.v], a := [.v, .s, .k, .i], b := [.v, .s, .k, .i], c := [.m], e := [.none, .m] }
  | .vand f => some { base f with opc := 0x110, route := .c, lat := .g 1, fmtOk := fmtIn Fmt.intv f, d := [.v], a := [.v, .s, .k, .i], b := [.v, .s, .k, .i], e := [.none, .m] }
  | .vor f => some { base f with opc := 0x111, route := .c, lat := .g 1, fmtOk := fmtIn Fmt.intv f, d := [.v], a := [.v, .s, .k, .i], b := [.v, .s, .k, .i], e := [.none, .m] }
  | .vxor f => some { base f with opc := 0x112, route := .c, lat := .g 1, fmtOk := fmtIn Fmt.intv f, d := [.v], a := [.v, .s, .k, .i], b := [.v, .s, .k, .i], e := [.none, .m] }
  | .vnot f => some { base f with opc := 0x113, route := .c, lat := .g 1, fmtOk := fmtIn Fmt.intv f, d := [.v], a := [.v, .s, .k, .i], e := [.none, .m] }
  | .vshl f => some { base f with opc := 0x114, route := .c, lat := .g 1, fmtOk := fmtIn Fmt.intv f, d := [.v], a := [.v, .s, .k, .i], b := [.v, .s, .k, .i], e := [.none, .m] }
  | .vshr f => some { base f with opc := 0x115, route := .c, lat := .g 1, fmtOk := fmtIn Fmt.intv f, d := [.v], a := [.v, .s, .k, .i], b := [.v, .s, .k, .i], e := [.none, .m] }
  | .vshra f => some { base f with opc := 0x116, route := .c, lat := .g 1, fmtOk := fmtIn Fmt.intv f, d := [.v], a := [.v, .s, .k, .i], b := [.v, .s, .k, .i], e := [.none, .m] }
  | .vclamp f => some { base f with opc := 0x117, route := .c, lat := .g 1, fmtOk := fmtIn (Fmt.intv ++ Fmt.fltv) f, d := [.v], a := [.v, .s, .k, .i], b := [.v, .s, .k, .i], c := [.v, .s, .k, .i], e := [.none, .m] }
  | .vcvt f => some { base f with opc := 0x120, route := .c, lat := .g 3, fmtOk := fmtIn Fmt.anyv f, flagsOk := rmOk f, subOk := cvtSubOk f, d := [.v], a := [.v, .s, .k, .i], e := [.none, .m] }
  | .vqnt f => some { base f with opc := 0x121, route := .c, lat := .g 3, fmtOk := fmtIn Fmt.mxe f, flagsOk := rmOk f, subOk := subFmtIn Fmt.fltv f, d := [.v], a := [.v], b := [.v] }
  | .vdqnt f => some { base f with opc := 0x122, route := .c, lat := .g 3, fmtOk := fmtIn Fmt.fltv f, flagsOk := rmOk f, subOk := subFmtIn Fmt.mxe f, d := [.v], a := [.v], b := [.v], e := [.none, .m] }
  | .vpack6 f => some { base f with opc := 0x123, route := .c, lat := .g 3, fmtOk := fmtIn [.int6, .e3m2, .e2m3] f, d := [.v], a := [.v] }
  | .vunpk6 f => some { base f with opc := 0x124, route := .c, lat := .g 3, fmtOk := fmtIn [.int6, .e3m2, .e2m3] f, d := [.v], a := [.v] }
  | .vpack4 f => some { base f with opc := 0x125, route := .c, lat := .g 3, fmtOk := fmtIn [.int4, .e2m1] f, d := [.v], a := [.v] }
  | .vunpk4 f => some { base f with opc := 0x126, route := .c, lat := .g 3, fmtOk := fmtIn [.int4, .e2m1] f, d := [.v], a := [.v] }
  | .vscale f => some { base f with opc := 0x127, route := .c, lat := .g 3, fmtOk := fmtIn Fmt.fltv f, flagsOk := rmOk f, subOk := f.sub.toNat ≤ 1, d := [.v], a := [.v, .s, .k, .i], b := (if f.sub = 1 then [.v] else [.v, .s, .i]), e := [.none, .m] }
  | .vredr f => some { base f with opc := 0x130, route := .c, lat := .g 3, fmtOk := fmtIn (Fmt.intv ++ Fmt.fltv) f, flagsOk := rmSatOk f, subOk := f.sub.toNat ≤ 2, d := [.v], a := [.v], e := [.none, .m] }
  | .vredc f => some { base f with opc := 0x131, route := .c, lat := .g 3, fmtOk := fmtIn (Fmt.intv ++ Fmt.fltv) f, flagsOk := rmSatOk f, subOk := f.sub.toNat ≤ 2, d := [.v], a := [.v], e := [.none, .m] }
  | .vmaxr f => some { base f with opc := 0x132, route := .c, lat := .g 3, fmtOk := fmtIn (Fmt.intv ++ Fmt.fltv) f, d := [.v], a := [.v], e := [.none, .m] }
  | .vscan f => some { base f with opc := 0x133, route := .c, lat := .g 3, fmtOk := fmtIn (Fmt.intv ++ Fmt.fltv) f, flagsOk := rmSatOk f, subOk := scanSubOk f, d := [.v], a := [.v], e := [.none, .m] }
  | .vexp f => some { base f with opc := 0x140, route := .c, lat := .g 4, fmtOk := fmtIn Fmt.fltv f, flagsOk := rmOk f, d := [.v], a := [.v, .s, .k, .i], e := [.none, .m] }
  | .vexp2 f => some { base f with opc := 0x141, route := .c, lat := .g 4, fmtOk := fmtIn Fmt.fltv f, flagsOk := rmOk f, d := [.v], a := [.v, .s, .k, .i], e := [.none, .m] }
  | .vlog2 f => some { base f with opc := 0x142, route := .c, lat := .g 4, fmtOk := fmtIn Fmt.fltv f, flagsOk := rmOk f, d := [.v], a := [.v, .s, .k, .i], e := [.none, .m] }
  | .vrcp f => some { base f with opc := 0x143, route := .c, lat := .g 4, fmtOk := fmtIn Fmt.fltv f, flagsOk := rmOk f, d := [.v], a := [.v, .s, .k, .i], e := [.none, .m] }
  | .vrsq f => some { base f with opc := 0x144, route := .c, lat := .g 4, fmtOk := fmtIn Fmt.fltv f, flagsOk := rmOk f, d := [.v], a := [.v, .s, .k, .i], e := [.none, .m] }
  | .vtanh f => some { base f with opc := 0x145, route := .c, lat := .g 4, fmtOk := fmtIn Fmt.fltv f, flagsOk := rmOk f, d := [.v], a := [.v, .s, .k, .i], e := [.none, .m] }
  | .vsigm f => some { base f with opc := 0x146, route := .c, lat := .g 4, fmtOk := fmtIn Fmt.fltv f, flagsOk := rmOk f, d := [.v], a := [.v, .s, .k, .i], e := [.none, .m] }
  | .vsin f => some { base f with opc := 0x147, route := .c, lat := .g 4, fmtOk := fmtIn Fmt.fltv f, flagsOk := rmOk f, d := [.v], a := [.v, .s, .k, .i], e := [.none, .m] }
  | .vcos f => some { base f with opc := 0x148, route := .c, lat := .g 4, fmtOk := fmtIn Fmt.fltv f, flagsOk := rmOk f, d := [.v], a := [.v, .s, .k, .i], e := [.none, .m] }
  | .vtrn f => some { base f with opc := 0x150, route := .c, lat := .g 3, fmtOk := fmtIn Fmt.anyv f, d := [.v], a := [.v] }
  | .vshuf f => some { base f with opc := 0x151, route := .c, lat := .g 3, fmtOk := fmtIn Fmt.anyv f, subOk := f.sub.toNat ≤ 1, d := [.v], a := [.v], b := [.v], e := [.none, .m] }
  | .vbcr f => some { base f with opc := 0x152, route := .c, lat := .g 1, fmtOk := fmtIn Fmt.anyv f, d := [.v], a := [.v], b := [.s, .i], e := [.none, .m] }
  | .vbcc f => some { base f with opc := 0x153, route := .c, lat := .g 1, fmtOk := fmtIn Fmt.anyv f, d := [.v], a := [.v], b := [.s, .i], e := [.none, .m] }
  | .vmov f => some { base f with opc := 0x154, route := .c, lat := .g 1, fmtOk := fmtIn Fmt.anyv f, d := [.v], a := [.v, .s, .k, .i], e := [.none, .m] }
  | .viota f => some { base f with opc := 0x155, route := .c, lat := .g 1, fmtOk := fmtIn Fmt.intv f, flagsOk := bit125 f, d := [.v], a := [.s, .i], b := [.s, .i], c := [.s, .i], e := [.none, .m] }
  | .vcmul f => some { base f with opc := 0x160, route := .c, lat := .g 3, fmtOk := fmtIn Fmt.cpxv f, flagsOk := rmOk f, subOk := cmulSubOk f, d := [.v], a := [.v, .s, .k, .i], b := [.v, .s, .k, .i], e := [.none, .m] }
  | .vcfma f => some { base f with opc := 0x161, route := .c, lat := .g 3, fmtOk := fmtIn Fmt.cpxv f, flagsOk := rmOk f, subOk := cmulSubOk f, d := [.v], a := [.v, .s, .k, .i], b := [.v, .s, .k, .i], c := [.v, .s, .k, .i], e := [.none, .m] }
  | .vconj f => some { base f with opc := 0x162, route := .c, lat := .g 3, fmtOk := fmtIn Fmt.cpxv f, d := [.v], a := [.v, .s, .k, .i], e := [.none, .m] }
  | .vmag2 f => some { base f with opc := 0x163, route := .c, lat := .g 3, fmtOk := fmtIn [.int32, .fp32] f, flagsOk := rmOk f, subOk := magSubOk f, d := [.v], a := [.v, .s, .k, .i], e := [.none, .m] }
  | .mlev f => some { base f with opc := 0x200, route := .c, subOk := f.sub.toNat ≤ 5, a := [.s, .i], b := [.none, .s], c := [.none, .s], e := [.none, .s, .i], matrix := true }
  | .mbase f => some { base f with opc := 0x201, route := .c, subOk := f.sub.toNat ≤ 3, a := (if f.sub = 3 then [.s, .i] else [.h]), b := [.none, .s], matrix := true }
  | .mmode f => some { base f with opc := 0x202, route := .c, a := [.s, .i], matrix := true }
  | .mpre f => some { base f with opc := 0x203, route := .c, a := [.h], b := [.none, .s], matrix := true }
  | .mswap f => some { base f with opc := 0x204, route := .c, matrix := true }
  | .mgo f => some { base f with opc := 0x205, route := .c, matrix := true }
  | .mwait f => some { base f with opc := 0x206, route := .c, matrix := true }
  | .mstat f => some { base f with opc := 0x207, route := .c, lat := .x 1, d := [.v], matrix := true }
  | .mdrain f => some { base f with opc := 0x208, route := .c, fmtOk := fmtIn (Fmt.intv ++ Fmt.fltv ++ Fmt.mxe ++ Fmt.cpxv) f, flagsOk := rmOk f, subOk := f.sub.toNat ≤ 3, d := [.v, .h], a := [.s, .i], b := (match f.d with | .v _ => [.none] | _ => [.none, .s]), c := [.none, .s, .i], matrix := true }
  | .mzero f => some { base f with opc := 0x209, route := .c, a := [.s, .i], matrix := true }
  | .maccl f => some { base f with opc := 0x20A, route := .c, fmtOk := fmtIn (Fmt.intv ++ Fmt.fltv ++ Fmt.cpxv) f, a := [.s, .i], b := [.v, .h], c := (match f.b with | .v _ => [.none] | _ => [.none, .s]), matrix := true }
  | .mspmeta f => some { base f with opc := 0x20B, route := .c, a := [.v], matrix := true }
  | .mscale f => some { base f with opc := 0x20C, route := .c, a := [.v], matrix := true }
  | .mtestNow f => some { base f with opc := 0x20D, route := .c, subOk := f.sub.toNat ≤ 0, matrix := true }
  | .mtestIvl f => some { base f with opc := 0x20D, route := .c, subOk := f.sub.toNat == 1, a := [.s, .i], matrix := true }
  | .mfuse f => some { base f with opc := 0x20E, route := .c, a := [.s, .i], matrix := true }
  | .cpy f => some { base f with opc := 0x280, route := .s, a := [.h], b := [.s, .i] }
  | .cpys f => some { base f with opc := 0x281, route := .s, a := [.h], b := [.s, .i] }
  | .layout f => some { base f with opc := 0x282, route := .s, a := [.h], b := [.s, .i] }
  | .cpyq f => some { base f with opc := 0x283, route := .s, a := [.h], b := [.s, .i] }
  | .bgmac f => some { base f with opc := 0x288, route := .s, a := [.h], b := [.s, .i], c := [.none, .s, .i] }
  | .bgcpy f => some { base f with opc := 0x289, route := .s, a := [.h], b := [.s, .i], c := [.none, .s, .i] }
  | .bgattn f => some { base f with opc := 0x28A, route := .s, a := [.h], b := [.s, .i], c := [.none, .s, .i] }
  | .kvput f => some { base f with opc := 0x28B, route := .s, a := [.h], b := [.s, .i], c := [.none, .s, .i] }
  | .kvtake f => some { base f with opc := 0x28C, route := .s, a := [.h], b := [.s, .i], c := [.none, .s, .i] }
  | .bgfence f => some { base f with opc := 0x28D, route := .s, scpOk := scpIn [3, 4] f, a := [.s, .i] }
  | .bgbarHold f => some { base f with opc := 0x28E, route := .s, subOk := f.sub.toNat ≤ 0, a := [.h] }
  | .bgbarRel f => some { base f with opc := 0x28E, route := .s, subOk := f.sub.toNat == 1, a := [.h] }
  | .bgstat f => some { base f with opc := 0x28F, route := .s, lat := .v, subOk := f.sub.toNat ≤ 2, d := [.s], a := [.s, .i] }
  | .areduce f => some { base f with opc := 0x290, route := .s, a := [.h], b := [.s, .i] }
  | .step f => some { base f with opc := 0x291, route := .s, lat := latD f, d := [.none, .s], a := [.s], b := [.s, .i] }
  | .dlget f => some { base f with opc := 0x298, lat := .x 1, subOk := f.sub.toNat ≤ 2, d := [.s] }
  | .wuset f => some { base f with opc := 0x299, a := [.s], b := [.s, .i] }
  | .commit f => some { base f with opc := 0x29A, route := .s, scpOk := scpIn [4, 5, 7] f, a := [.s, .i] }
  | .pval f => some { base f with opc := 0x29B, route := .s, subOk := f.sub.toNat ≤ 2, a := [.s, .i] }
  | .dlarm f => some { base f with opc := 0x29C, lat := .x 1, d := [.p], a := [.s, .i] }
  | .uien f => some { base f with opc := 0x2A0, a := [.s, .i] }
  | .uimask f => some { base f with opc := 0x2A1, subOk := f.sub.toNat ≤ 2, a := [.s, .i] }
  | .uiret f => some { base f with opc := 0x2A2 }
  | .instructionDecode _ | .windowEnd _ | .resultDelivery _ | .waitTimerExpiry _ _ | .wfeLimitExpiry _ | .userInterruptEntry _
  | .strandStop _ | .strandRetire _ | .frespResolve _ | .frespDeliver _ | .deadlineDiversion _ | .wrapupStart _
  | .budgetExhausted _ | .matrixOpStart _ | .mpreEarlyStart _ | .nestStart _ | .nestPass _ | .matrixOpComplete _
  | .selfTest _ _ | .copyCommandStart _ | .copySector _ | .copyCommandComplete _ | .ellRelay _ | .ellConvert _
  | .ellExpand _ | .memoryCommandStart _ | .memoryPart _ _ | .memoryCommandComplete _ | .xpwrPoisonWrite _ | .scrub _
  | .refresh _ _ | .areduceComplete _ | .areduceAbort _ | .radvMessage _ _ | .pushMarker _ _ _ | .l2WriteBack _
  | .deadAgent _ _ | .cxlMemRead _ _ | .cxlMemWrite _ _ | .snpdata _ | .snpinv _ | .snpcur _
  | .bisnpinv _ | .bisnpdata _ | .notifyWrite _ _ | .launch _ | .nopPacket _ | .waitPacket _
  | .queueWaitTimeout _ | .signalPacket _ | .register _ | .unregister _ | .mapq _ | .unmapq _
  | .revoke _ | .kill _ | .policyDispatch | .bindGroupCommit _ | .bundleStart _ | .preemptRequest _
  | .preemptSaveComplete _ | .resume _ | .bundleComplete _ | .move | .moveComplete | .fliph
  | .flipd | .unsettle | .flitReceive _ _ | .flitNak _ _ | .laneInterval _ _ _ | .laneSpare _ _
  | .halfWidthRetrain _ | .portDown _ | .lkctlForce _ _ | .lgctlWrite _ | .timeSend | .timeReceive _ _
  | .linkDelayExchange _ _ | .timeSourceLoss | .ptpMessage _ | .ppsInEdge | .ppsOut | .abortOriginate _
  | .abortPass1 _ _ _ | .abortPass2 _ _ _ | .lgabtClear | .lockstepMismatch _ | .heartbeat | .takeover
  | .resetNRelease | .fuseAdvance | .recoveryImage _ | .powerOff | .throttleEntry | .throttleExit
  | .thermalTrip | .pwrctlWrite _ | .vcoreSlewDone | .clockRestart | .registerWrite _ _ | .acknowledgement _
  | .ptpSourceLoss | .lossOfLock _ _ | .portTrained _ => none

/-- The fields of an instruction word; an event has none. -/
def instrFields : Instr → Option Fields
  | .add f | .sub f | .mul f | .mulhu f | .mulhs f | .divu f | .divs f | .remu f
  | .rems f | .and f | .or f | .xor f | .andn f | .shl f | .shrl f | .shra f
  | .rotl f | .clz f | .ctz f | .popc f | .bswap f | .min f | .max f | .minu f
  | .maxu f | .abs f | .sext f | .zext f | .sel f | .mov f | .movK f | .cmp f
  | .lea f | .pand f | .por f | .pxor f | .pnot f | .sfadd f | .sfmul f | .sffma f
  | .sfcvt f | .sfcmp f | .jmp f | .br f | .jidx f | .call f | .ret f | .loop f
  | .nop f | .yield f | .halt f | .csrr f | .csrw f | .trap f | .syscall f | .eret f
  | .wfe f | .tlbi f | .lds f | .sts f | .ldq f | .stq f | .ldb f | .lda f
  | .strel f | .ldv f | .stv f | .ldg f | .stg f | .ldfe f | .stff f | .feq f
  | .feset f | .mark f | .fence f | .fenceMem f | .pubx f | .radv f | .aadd f | .amin f
  | .amax f | .aminu f | .amaxu f | .aand f | .aor f | .axor f | .axchg f | .acas f
  | .afadd f | .aincw f | .redadd f | .redmin f | .redmax f | .redfadd f | .semwait f | .sempost f
  | .sracq f | .srpub f | .srtake f | .srrel f | .barinit f | .bararr f | .barexp f | .barwait f
  | .bartest f | .qfence f | .qput f | .qputNb f | .poisonclr f | .vshp f | .vadd f | .vsub f
  | .vmul f | .vfma f | .vfms f | .vnfma f | .vdiv f | .vsqrt f | .vmin f | .vmax f
  | .vabs f | .vneg f | .vcmp f | .vsel f | .vand f | .vor f | .vxor f | .vnot f
  | .vshl f | .vshr f | .vshra f | .vclamp f | .vcvt f | .vqnt f | .vdqnt f | .vpack6 f
  | .vunpk6 f | .vpack4 f | .vunpk4 f | .vscale f | .vredr f | .vredc f | .vmaxr f | .vscan f
  | .vexp f | .vexp2 f | .vlog2 f | .vrcp f | .vrsq f | .vtanh f | .vsigm f | .vsin f
  | .vcos f | .vtrn f | .vshuf f | .vbcr f | .vbcc f | .vmov f | .viota f | .vcmul f
  | .vcfma f | .vconj f | .vmag2 f | .mlev f | .mbase f | .mmode f | .mpre f | .mswap f
  | .mgo f | .mwait f | .mstat f | .mdrain f | .mzero f | .maccl f | .mspmeta f | .mscale f
  | .mtestNow f | .mtestIvl f | .mfuse f | .cpy f | .cpys f | .layout f | .cpyq f | .bgmac f
  | .bgcpy f | .bgattn f | .kvput f | .kvtake f | .bgfence f | .bgbarHold f | .bgbarRel f | .bgstat f
  | .areduce f | .step f | .dlget f | .wuset f | .commit f | .pval f | .dlarm f | .uien f
  | .uimask f | .uiret f => some f
  | .instructionDecode _ | .windowEnd _ | .resultDelivery _ | .waitTimerExpiry _ _ | .wfeLimitExpiry _ | .userInterruptEntry _
  | .strandStop _ | .strandRetire _ | .frespResolve _ | .frespDeliver _ | .deadlineDiversion _ | .wrapupStart _
  | .budgetExhausted _ | .matrixOpStart _ | .mpreEarlyStart _ | .nestStart _ | .nestPass _ | .matrixOpComplete _
  | .selfTest _ _ | .copyCommandStart _ | .copySector _ | .copyCommandComplete _ | .ellRelay _ | .ellConvert _
  | .ellExpand _ | .memoryCommandStart _ | .memoryPart _ _ | .memoryCommandComplete _ | .xpwrPoisonWrite _ | .scrub _
  | .refresh _ _ | .areduceComplete _ | .areduceAbort _ | .radvMessage _ _ | .pushMarker _ _ _ | .l2WriteBack _
  | .deadAgent _ _ | .cxlMemRead _ _ | .cxlMemWrite _ _ | .snpdata _ | .snpinv _ | .snpcur _
  | .bisnpinv _ | .bisnpdata _ | .notifyWrite _ _ | .launch _ | .nopPacket _ | .waitPacket _
  | .queueWaitTimeout _ | .signalPacket _ | .register _ | .unregister _ | .mapq _ | .unmapq _
  | .revoke _ | .kill _ | .policyDispatch | .bindGroupCommit _ | .bundleStart _ | .preemptRequest _
  | .preemptSaveComplete _ | .resume _ | .bundleComplete _ | .move | .moveComplete | .fliph
  | .flipd | .unsettle | .flitReceive _ _ | .flitNak _ _ | .laneInterval _ _ _ | .laneSpare _ _
  | .halfWidthRetrain _ | .portDown _ | .lkctlForce _ _ | .lgctlWrite _ | .timeSend | .timeReceive _ _
  | .linkDelayExchange _ _ | .timeSourceLoss | .ptpMessage _ | .ppsInEdge | .ppsOut | .abortOriginate _
  | .abortPass1 _ _ _ | .abortPass2 _ _ _ | .lgabtClear | .lockstepMismatch _ | .heartbeat | .takeover
  | .resetNRelease | .fuseAdvance | .recoveryImage _ | .powerOff | .throttleEntry | .throttleExit
  | .thermalTrip | .pwrctlWrite _ | .vcoreSlewDone | .clockRestart | .registerWrite _ _ | .acknowledgement _
  | .ptpSourceLoss | .lossOfLock _ _ | .portTrained _ => none

/-- The instruction of an opcode, with the variants that share one opcode chosen by SUB or by TM[125] (R99, R118, R146, R156,
R213, R233). -/
def ofOpcode (opc : Nat) (f : Fields) : Option Instr :=
  match opc with
  | 0x001 => some (.add f)
  | 0x002 => some (.sub f)
  | 0x003 => some (.mul f)
  | 0x004 => some (.mulhu f)
  | 0x005 => some (.mulhs f)
  | 0x006 => some (.divu f)
  | 0x007 => some (.divs f)
  | 0x008 => some (.remu f)
  | 0x009 => some (.rems f)
  | 0x00A => some (.and f)
  | 0x00B => some (.or f)
  | 0x00C => some (.xor f)
  | 0x00D => some (.andn f)
  | 0x00E => some (.shl f)
  | 0x00F => some (.shrl f)
  | 0x010 => some (.shra f)
  | 0x011 => some (.rotl f)
  | 0x012 => some (.clz f)
  | 0x013 => some (.ctz f)
  | 0x014 => some (.popc f)
  | 0x015 => some (.bswap f)
  | 0x016 => some (.min f)
  | 0x017 => some (.max f)
  | 0x018 => some (.minu f)
  | 0x019 => some (.maxu f)
  | 0x01A => some (.abs f)
  | 0x01B => some (.sext f)
  | 0x01C => some (.zext f)
  | 0x01D => some (.sel f)
  | 0x01E => some (if f.sub = 0 then .mov f else .movK f)
  | 0x01F => some (.cmp f)
  | 0x020 => some (.lea f)
  | 0x021 => some (.pand f)
  | 0x022 => some (.por f)
  | 0x023 => some (.pxor f)
  | 0x024 => some (.pnot f)
  | 0x028 => some (.sfadd f)
  | 0x029 => some (.sfmul f)
  | 0x02A => some (.sffma f)
  | 0x02B => some (.sfcvt f)
  | 0x02C => some (.sfcmp f)
  | 0x030 => some (.jmp f)
  | 0x031 => some (.br f)
  | 0x032 => some (.jidx f)
  | 0x033 => some (.call f)
  | 0x034 => some (.ret f)
  | 0x035 => some (.loop f)
  | 0x036 => some (.nop f)
  | 0x037 => some (.yield f)
  | 0x038 => some (.halt f)
  | 0x080 => some (.lds f)
  | 0x081 => some (.sts f)
  | 0x082 => some (.ldq f)
  | 0x083 => some (.stq f)
  | 0x084 => some (.ldv f)
  | 0x085 => some (.stv f)
  | 0x086 => some (.ldg f)
  | 0x087 => some (.stg f)
  | 0x088 => some (.ldb f)
  | 0x089 => some (.lda f)
  | 0x08A => some (.strel f)
  | 0x090 => some (.ldfe f)
  | 0x091 => some (.stff f)
  | 0x092 => some (.feq f)
  | 0x093 => some (.feset f)
  | 0x098 => some (.mark f)
  | 0x099 => some (if f.sub = 5 then .fenceMem f else .fence f)
  | 0x09A => some (.pubx f)
  | 0x09B => some (.radv f)
  | 0x0A0 => some (.aadd f)
  | 0x0A1 => some (.amin f)
  | 0x0A2 => some (.amax f)
  | 0x0A3 => some (.aminu f)
  | 0x0A4 => some (.amaxu f)
  | 0x0A5 => some (.aand f)
  | 0x0A6 => some (.aor f)
  | 0x0A7 => some (.axor f)
  | 0x0A8 => some (.axchg f)
  | 0x0A9 => some (.acas f)
  | 0x0AA => some (.afadd f)
  | 0x0AB => some (.aincw f)
  | 0x0B0 => some (.redadd f)
  | 0x0B1 => some (.redmin f)
  | 0x0B2 => some (.redmax f)
  | 0x0B3 => some (.redfadd f)
  | 0x0B8 => some (.semwait f)
  | 0x0B9 => some (.sempost f)
  | 0x0C0 => some (.sracq f)
  | 0x0C1 => some (.srpub f)
  | 0x0C2 => some (.srtake f)
  | 0x0C3 => some (.srrel f)
  | 0x0C8 => some (.barinit f)
  | 0x0C9 => some (.bararr f)
  | 0x0CA => some (.barexp f)
  | 0x0CB => some (.barwait f)
  | 0x0CC => some (.bartest f)
  | 0x0D0 => some (.qfence f)
  | 0x0D1 => some (if f.flags = 0 then .qput f else .qputNb f)
  | 0x0F0 => some (.poisonclr f)
  | 0x100 => some (.vshp f)
  | 0x101 => some (.vadd f)
  | 0x102 => some (.vsub f)
  | 0x103 => some (.vmul f)
  | 0x104 => some (.vfma f)
  | 0x105 => some (.vfms f)
  | 0x106 => some (.vnfma f)
  | 0x107 => some (.vdiv f)
  | 0x108 => some (.vsqrt f)
  | 0x109 => some (.vmin f)
  | 0x10A => some (.vmax f)
  | 0x10B => some (.vabs f)
  | 0x10C => some (.vneg f)
  | 0x10D => some (.vcmp f)
  | 0x10E => some (.vsel f)
  | 0x110 => some (.vand f)
  | 0x111 => some (.vor f)
  | 0x112 => some (.vxor f)
  | 0x113 => some (.vnot f)
  | 0x114 => some (.vshl f)
  | 0x115 => some (.vshr f)
  | 0x116 => some (.vshra f)
  | 0x117 => some (.vclamp f)
  | 0x120 => some (.vcvt f)
  | 0x121 => some (.vqnt f)
  | 0x122 => some (.vdqnt f)
  | 0x123 => some (.vpack6 f)
  | 0x124 => some (.vunpk6 f)
  | 0x125 => some (.vpack4 f)
  | 0x126 => some (.vunpk4 f)
  | 0x127 => some (.vscale f)
  | 0x130 => some (.vredr f)
  | 0x131 => some (.vredc f)
  | 0x132 => some (.vmaxr f)
  | 0x133 => some (.vscan f)
  | 0x140 => some (.vexp f)
  | 0x141 => some (.vexp2 f)
  | 0x142 => some (.vlog2 f)
  | 0x143 => some (.vrcp f)
  | 0x144 => some (.vrsq f)
  | 0x145 => some (.vtanh f)
  | 0x146 => some (.vsigm f)
  | 0x147 => some (.vsin f)
  | 0x148 => some (.vcos f)
  | 0x150 => some (.vtrn f)
  | 0x151 => some (.vshuf f)
  | 0x152 => some (.vbcr f)
  | 0x153 => some (.vbcc f)
  | 0x154 => some (.vmov f)
  | 0x155 => some (.viota f)
  | 0x160 => some (.vcmul f)
  | 0x161 => some (.vcfma f)
  | 0x162 => some (.vconj f)
  | 0x163 => some (.vmag2 f)
  | 0x200 => some (.mlev f)
  | 0x201 => some (.mbase f)
  | 0x202 => some (.mmode f)
  | 0x203 => some (.mpre f)
  | 0x204 => some (.mswap f)
  | 0x205 => some (.mgo f)
  | 0x206 => some (.mwait f)
  | 0x207 => some (.mstat f)
  | 0x208 => some (.mdrain f)
  | 0x209 => some (.mzero f)
  | 0x20A => some (.maccl f)
  | 0x20B => some (.mspmeta f)
  | 0x20C => some (.mscale f)
  | 0x20D => some (if f.sub = 0 then .mtestNow f else .mtestIvl f)
  | 0x20E => some (.mfuse f)
  | 0x280 => some (.cpy f)
  | 0x281 => some (.cpys f)
  | 0x282 => some (.layout f)
  | 0x283 => some (.cpyq f)
  | 0x288 => some (.bgmac f)
  | 0x289 => some (.bgcpy f)
  | 0x28A => some (.bgattn f)
  | 0x28B => some (.kvput f)
  | 0x28C => some (.kvtake f)
  | 0x28D => some (.bgfence f)
  | 0x28E => some (if f.sub = 0 then .bgbarHold f else .bgbarRel f)
  | 0x28F => some (.bgstat f)
  | 0x290 => some (.areduce f)
  | 0x291 => some (.step f)
  | 0x298 => some (.dlget f)
  | 0x299 => some (.wuset f)
  | 0x29A => some (.commit f)
  | 0x29B => some (.pval f)
  | 0x29C => some (.dlarm f)
  | 0x2A0 => some (.uien f)
  | 0x2A1 => some (.uimask f)
  | 0x2A2 => some (.uiret f)
  | 0x300 => some (.csrr f)
  | 0x301 => some (.csrw f)
  | 0x302 => some (.trap f)
  | 0x303 => some (.syscall f)
  | 0x304 => some (.eret f)
  | 0x305 => some (.wfe f)
  | 0x306 => some (.tlbi f)
  | _ => none

end Sys2Proof.Machine
end

