-- ==== Sys2Proof/Machine/Checks.lean ====
section
/-! DEFINITION. The static decode checks of R102: encoding (step 3), latency (step 4) and operands (step 5), as far as the word
alone decides them. -/

namespace Sys2Proof.Machine

/-- Token bits of a stream (R82): F and L+S instructions carry none; L has no previous neighbour and S no next one. -/
def tkOk (r : Route) (tk : BitVec 4) : Bool :=
  match r with
  | .f | .ls => tk == 0
  | .l => tk &&& 0b1010#4 == 0
  | .s => tk &&& 0b0101#4 == 0
  | .c => true

/-- HINT (R90): 7 is reserved, and only memory accesses may carry one. -/
def hintOk (sp : ISpec) (f : Fields) : Bool := f.hint == 0 || (sp.hintOk && f.hint != 7)

/-- R102 step 3 on TK, HINT, SCP and TM, the fields above the operands. -/
def upperOk (sp : ISpec) (f : Fields) : Bool :=
  tkOk sp.route f.tk && hintOk sp f && sp.scpOk && sp.flagsOk && sp.fmtOk

/-- Minimum latency codes of the vector groups, basic and expert (R164). -/
def groupBasic : Nat → Nat
  | 1 => 10 | 2 => 10 | 3 => 11 | _ => 14
def groupExpert : Nat → Nat
  | 1 => 6 | 2 => 7 | 3 => 8 | _ => 11

/-- R85; for a vector group the least code that some shape allows (the shape decides the rest, R164). -/
def latOk (c : LatClass) (lat : BitVec 4) : Bool :=
  match c with
  | .n => lat == 0
  | .x m => m ≤ lat.toNat && lat.toNat ≤ 14
  | .v => lat == 15
  | .g n => groupExpert n ≤ lat.toNat && lat.toNat ≤ 14

/-- The assigned system-register numbers (R72). -/
def sysRegAssigned (n : Nat) : Bool :=
  [0x000, 0x001, 0x002, 0x010, 0x011, 0x012, 0x013, 0x014, 0x015, 0x020, 0x021, 0x022, 0x030, 0x031, 0x040, 0x041, 0x050,
   0x051, 0x060, 0x061, 0x062, 0x070, 0x071, 0x072, 0x073, 0x074, 0x075, 0x076, 0x077].contains n

/-- Kind and index range of one operand, as far as the word decides them (R63). -/
def operandOk (ks : List Kind) (o : Operand) : Bool :=
  ks.contains (kindOf o) &&
  match o with
  | .v n => n.toNat < 96
  | .y n => sysRegAssigned n.toNat
  | _ => true

def evenReg : Operand → Bool
  | .s n => n.toNat % 2 == 0
  | _ => true

/-- The operand at fault in R102 step 5: 1 D, 2 A, 3 B, 4 C, 5 E; 0 where all pass. -/
def operandFault (i : Instr) (sp : ISpec) (f : Fields) : Nat :=
  let pairD := match i with
    | .ldq _ => evenReg f.d
    | .vqnt _ => !(f.d == f.b)
    | _ => true
  let pairC := match i with
    | .stq _ => evenReg f.c
    | _ => true
  if !(operandOk sp.d f.d && pairD) then 1
  else if !(operandOk sp.a f.a) then 2
  else if !(operandOk sp.b f.b) then 3
  else if !(operandOk sp.c f.c && pairC) then 4
  else if !(operandOk sp.e f.e) then 5
  else 0

/-- The first static failure of R102 steps 3 to 5: the trap code and OPND. -/
def staticFault (i : Instr) (sp : ISpec) (f : Fields) : Option (TrapCode × Nat) :=
  if !(upperOk sp f && sp.subOk) then some (.illegalEncoding, 0)
  else if !(latOk sp.lat f.lat) then some (.illegalLatency, 0)
  else match operandFault i sp f with
    | 0 => none
    | n => some (.illegalOperand, n)

/-- Argument ranges of the events: strand slots (R15), cores, quadrants, dies, threads, lanes. -/
def eventOk : Instr → Bool
  | .instructionDecode n | .windowEnd n | .resultDelivery n | .waitTimerExpiry n _ | .wfeLimitExpiry n | .userInterruptEntry n
  | .strandStop n | .strandRetire n | .deadlineDiversion n | .wrapupStart n | .budgetExhausted n | .acknowledgement n => n < 256
  | .matrixOpStart c | .mpreEarlyStart c | .nestStart c | .nestPass c | .matrixOpComplete c | .selfTest c _ | .copyCommandStart c
  | .copySector c | .copyCommandComplete c | .ellRelay c | .ellConvert c | .ellExpand c | .areduceComplete c | .areduceAbort c
  | .radvMessage c _ | .pushMarker c _ _ => c < 64
  | .memoryCommandStart q | .memoryCommandComplete q => q < 4
  | .memoryPart q d => q < 4 && d < 64
  | .refresh d _ => d < 64
  | _ => true

end Sys2Proof.Machine
end

