-- ==== Sys2Proof/WellFormed.lean ====
section
/-! DEFINITION. Well-formed instructions: the static checks of R102 for an instruction word, argument ranges for an event. -/

namespace Sys2Proof

/-- The word passes every check that the word alone decides (R102 steps 2 to 5), and the constructor is the one its opcode and
variant bits select. -/
def Instr.wellFormed (i : Instr) : Bool :=
  match Machine.ispec i, Machine.instrFields i with
  | some sp, some f => (Machine.staticFault i sp f).isNone && Machine.ofOpcode sp.opc f == some i
  | _, _ => Machine.eventOk i

/-- An instruction of the opcode map, as opposed to an event. -/
def Instr.isWord (i : Instr) : Bool := (Machine.ispec i).isSome

end Sys2Proof
end

