-- ==== Sys2Proof/Decode.lean ====
section
/-! DEFINITION. Decoding of a 160-bit instruction word (R78, R63, R99, R101, R102 steps 2 and 3), and the encoder. -/

namespace Sys2Proof

/-- What decoding a word gives: an instruction, or the trap code and OPND of R102 steps 2 and 3. -/
inductive Decoded where
  | ok (i : Instr)
  | bad (code : Machine.TrapCode) (opnd : Nat)
  deriving DecidableEq, Repr

/-- The opcodes whose operand E is a branch offset (R96): JMP, BR, CALL, LOOP. -/
def branchOpcode (opc : Nat) : Bool := opc == 0x030 || opc == 0x031 || opc == 0x033 || opc == 0x035

/-- One operand field under its kind selector (R63, R96). -/
def decodeOperand (branch : Bool) (kind : BitVec 3) (x : BitVec 20) : Operand :=
  match kind.toNat with
  | 1 => .s (x.extractLsb' 0 6)
  | 2 => .v (x.extractLsb' 0 7)
  | 3 => if x.getLsbD 4 then .m (x.extractLsb' 0 4) else .p (x.extractLsb' 0 3)
  | 4 => .k (x.extractLsb' 17 3) (x.extractLsb' 0 17)
  | 5 => if branch then .off x else .i (x.extractLsb' 0 16)
  | 6 => .h (x.extractLsb' 0 10)
  | 7 => .y (x.extractLsb' 0 12)
  | _ => .none

/-- The kind selector of an operand. -/
def operandKind : Operand → BitVec 3
  | .none => 0 | .s _ => 1 | .v _ => 2 | .p _ | .m _ => 3 | .k _ _ => 4 | .i _ | .off _ => 5 | .h _ => 6 | .y _ => 7

/-- The 20-bit field of an operand. -/
def operandBits : Operand → BitVec 20
  | .none => 0
  | .s n => 0#14 ++ n
  | .v n => 0#13 ++ n
  | .p n => 0#17 ++ n
  | .m n => 0#15 ++ 1#1 ++ n
  | .k w o => w ++ o
  | .i v => 0#4 ++ v
  | .h n => 0#10 ++ n
  | .y n => 0#8 ++ n
  | .off o => o

/-- The reserved bits of a field are zero (R63). -/
def reservedOk (branch : Bool) (kind : BitVec 3) (x : BitVec 20) : Bool := operandBits (decodeOperand branch kind x) == x

/-- The operand fields and kind selectors of a word. -/
def wordD (w : IWord) : BitVec 20 := w.extractLsb' 100 20
def wordA (w : IWord) : BitVec 20 := w.extractLsb' 80 20
def wordB (w : IWord) : BitVec 20 := w.extractLsb' 60 20
def wordC (w : IWord) : BitVec 20 := w.extractLsb' 40 20
def wordE (w : IWord) : BitVec 20 := w.extractLsb' 20 20
def kindD (w : IWord) : BitVec 3 := w.extractLsb' 12 3
def kindA (w : IWord) : BitVec 3 := w.extractLsb' 9 3
def kindB (w : IWord) : BitVec 3 := w.extractLsb' 6 3
def kindC (w : IWord) : BitVec 3 := w.extractLsb' 3 3
def kindE (w : IWord) : BitVec 3 := w.extractLsb' 0 3
def wordOpc (w : IWord) : BitVec 10 := w.extractLsb' 150 10

/-- The fields of a word (R78). -/
def wordFields (w : IWord) : Fields :=
  { g0 := w.extractLsb' 146 4, g1 := w.extractLsb' 142 4, tk := w.extractLsb' 138 4, lat := w.extractLsb' 134 4
    hint := w.extractLsb' 131 3, scp := w.extractLsb' 128 3, flags := w.extractLsb' 125 3, fmt := w.extractLsb' 120 5
    d := decodeOperand false (kindD w) (wordD w)
    a := decodeOperand false (kindA w) (wordA w)
    b := decodeOperand false (kindB w) (wordB w)
    c := decodeOperand false (kindC w) (wordC w)
    e := decodeOperand (branchOpcode (wordOpc w).toNat) (kindE w) (wordE w)
    sub := w.extractLsb' 15 5 }

/-- The first operand field with a nonzero reserved bit: 1 D to 5 E, 0 where there is none (R63). -/
def reservedFault (w : IWord) : Nat :=
  if !(reservedOk false (kindD w) (wordD w)) then 1
  else if !(reservedOk false (kindA w) (wordA w)) then 2
  else if !(reservedOk false (kindB w) (wordB w)) then 3
  else if !(reservedOk false (kindC w) (wordC w)) then 4
  else if !(reservedOk (branchOpcode (wordOpc w).toNat) (kindE w) (wordE w)) then 5
  else 0

/-- Decoding: ILLEGAL_OPCODE, then ILLEGAL_ENCODING field by field from OPC downward (R102 steps 2 and 3). -/
def decodeWord (w : IWord) : Decoded :=
  let f := wordFields w
  match Machine.ofOpcode (wordOpc w).toNat f with
  | none => .bad .illegalOpcode 0
  | some i =>
    match Machine.ispec i with
    | none => .bad .illegalOpcode 0
    | some sp =>
      if !(Machine.upperOk sp f) then .bad .illegalEncoding 0
      else match reservedFault w with
        | 0 => if sp.subOk then .ok i else .bad .illegalEncoding 0
        | n => .bad .illegalEncoding n

/-- A word from its 20 bytes, lowest address first (R5, R94). -/
def wordOfBytes (bs : List Byte) : IWord := BitVec.ofNat 160 (bs.foldr (fun b acc => b.toNat + 256 * acc) 0)

/-- The 20 bytes of a word (R5). -/
def bytesOfWord (w : IWord) : List Byte := (List.range 20).map (fun k => w.extractLsb' (8 * k) 8)

/-- The word of an instruction's fields under an opcode (R78). -/
def encodeFields (opc : BitVec 10) (f : Fields) : IWord :=
  opc ++ f.g0 ++ f.g1 ++ f.tk ++ f.lat ++ f.hint ++ f.scp ++ f.flags ++ f.fmt ++
    operandBits f.d ++ operandBits f.a ++ operandBits f.b ++ operandBits f.c ++ operandBits f.e ++ f.sub ++
    operandKind f.d ++ operandKind f.a ++ operandKind f.b ++ operandKind f.c ++ operandKind f.e

/-- The encoder; an event has no word and gives 0, which decodes to ILLEGAL_OPCODE. -/
def encode (i : Instr) : IWord :=
  match Machine.ispec i, Machine.instrFields i with
  | some sp, some f => encodeFields (BitVec.ofNat 10 sp.opc) f
  | _, _ => 0

/-- The instruction read from the word `w`; a row gives at most the 160 bits of a word. -/
def decodeTableWord (_nbits w : Nat) : Option Instr :=
  match decodeWord (wordOfBytes (bytesOfWord (BitVec.ofNat 160 w))) with
  | .ok i => if i.wellFormed then some i else none
  | .bad _ _ => none

end Sys2Proof
end

