-- ==== Sys2Proof/Machine/State.lean ====
section
/-! DEFINITION. The state of the NL640: strands, cores, device memory and the units around them, as plain data. A table lists only
the entries that differ from their default; memory lists only the bytes that differ from zero (log 5, DESIGN CHOICE). -/

namespace Sys2Proof.Machine

/-- Why the machine stops. -/
inductive Fault where
  /-- An argument outside its range (a slot above 255, a core above 63). Raised by the meanings of the events. Safe. -/
  | badArgument
  deriving DecidableEq, Repr

/-- Why an instruction has no meaning here. -/
inductive Refusal where
  /-- The instruction of this mnemonic is not modelled. Raised by exec's arms only. Safe. -/
  | notModelled (mnemonic : String)
  deriving DecidableEq, Repr

/-- A table: key and value pairs, keys strictly rising; a key that is not listed has the table's default. -/
abbrev Tab (α : Type) := List (Nat × α)

/-- Memory: address and byte pairs, addresses strictly rising, no byte zero; an unlisted address reads as zero (log 5, DESIGN CHOICE). -/
abbrev Memory := List Host.Cell

/-- Who acts: the front of the current strand, or one of its queues. -/
inductive Acting where
  | front
  | queue (q : Queue)
  deriving DecidableEq, Repr

/-- The states of a strand (R246); `unbound` is a slot without a strand. -/
inductive SState where
  | unbound | run | held | stop | sysw | wrap | pre | retired | killed
  deriving DecidableEq, Repr

/-! ### Who orders what (R17 to R20, R267 to R271) -/

/-- The device's own agents (R20). -/
inductive Agent where
  | processor | management | service
  deriving DecidableEq, Repr
/-- Who makes events (R20, R263): a thread of the host, one of the device's own agents, a strand of a peer of the league, those who reach pools
alone; a strand, by the serial number of its bind, and apart from it what its copy engine and the memory-command sequencers of a quadrant do
for it, which are events of that strand in an order of their own (R271). -/
inductive Party where
  | host (thread : Nat)
  | device (a : Agent)
  | pool
  | peer (pos who : Nat)
  | strand (serial : Nat)
  | copy (serial : Nat)
  | memory (serial quad : Nat)
  deriving DecidableEq, Repr
/-- Where a party stands for scope purposes (R17, R19, R20). -/
inductive Place where
  | core (n : Nat)
  | device | host | pool
  | peer (pos : Nat)
  deriving DecidableEq, Repr
/-- Writes that happen before an event (R269): those of a party up to a stamp, over edges whose scope is `scp` or contains it. -/
structure Seen where
  party : Party
  place : Place
  scp : Nat
  stamp : Nat
  deriving DecidableEq, Repr
/-- All the writes that happen before an event. -/
abbrev Clock := List Seen
/-- What happens before the next event of each queue of a strand and of its front, before the completion of its engine commands (of the
memory commands by quadrant), and with each token of the FIFOs L→C, C→L, C→S, S→C (R266, R271). -/
structure Clocks where
  l : Clock := []
  c : Clock := []
  s : Clock := []
  /-- what a FENCE.rr has put before the later atomics of the S queue alone (R146) -/
  atom : Clock := []
  front : Clock := []
  copy : Clock := []
  memory : Tab Clock := []
  lc : List Clock := []
  cl : List Clock := []
  cs : List Clock := []
  sc : List Clock := []
  deriving DecidableEq, Repr

/-- A stretch of bytes after translation. -/
inductive Piece where
  /-- local memory of a core, by physical offset -/
  | lm (core off n : Nat)
  /-- memory of a space; `size` is the size of the page, 0 in host bias, where no device cache keeps a line (R360) -/
  | mem (sp : MemSpace) (off n size : Nat)
  /-- the reduction window's home at another device of the league (R377) -/
  | remote (pos off n : Nat)
  /-- behind a constant window: the constant-cache key of the line, and the place in memory -/
  | kons (key : Nat) (sp : MemSpace) (off n : Nat)
  /-- an element of a CONST tile: its bits (R292) -/
  | fixed (v : BitVec 32) (n : Nat)
  /-- bytes of this device that the window keeps from every access (R377) -/
  | hidden (n : Nat)
  deriving DecidableEq, Repr
/-- A write that is on its way (R265). -/
structure LateWrite where
  pieces : List Piece
  bytes : List Byte
  deriving DecidableEq, Repr

/-- A value of a load that may still be bound anew (R265): which of its results, its place, its format. -/
structure Rebind where
  k : Nat
  pieces : List Piece
  fmt : Fmt
  deriving DecidableEq, Repr

/-- A trap on its way into TRC, TRI and TRX (R104, R262). -/
structure TrapRec where
  code : TrapCode
  eng : Nat
  opnd : Nat := 0
  subc : Nat := 0
  behind : Nat := 0
  pos : Word := 0
  qent : Nat := 0
  /-- TRI of SOFTWARE (R130) -/
  word : Option (BitVec 32) := none
  /-- the cycle in which it was reached (R105) -/
  cyc : Option Nat := none
  /-- what it names has performed and left its queue -/
  gone : Bool := false
  deriving DecidableEq, Repr

/-- A register destination (R53): physical scalar 0 to 79 (64 to 79 the shadow bank of s48 to s63), predicate, physical vector
register of the core, mask. -/
inductive Dst where
  | s (n : Nat)
  | p (n : Nat)
  | v (n : Nat)
  | m (n : Nat)
  deriving DecidableEq, Repr

/-- Consecutive parts of a register that an instruction has written (R88): bytes of a tile, bits 64i + j of a mask. -/
structure Run where
  dst : Dst
  lo : Nat
  n : Nat
  deriving DecidableEq, Repr

/-- The place in its bank's order of an operation on local memory that has met a word in use: the cycle of its arrival, its words (R256). -/
structure LmClaim where
  at_ : Nat
  core : Nat
  words : List Nat
  deriving DecidableEq, Repr

/-- One entry of a queue, with everything sampled at decode (R59, R66, R71, R86). -/
structure QEntry where
  instr : Instr
  pos : Word
  /-- slot of the queue's ring (TRX.QENT) -/
  ring : Nat := 0
  /-- place in the strand's program order -/
  seq : Nat := 0
  shp : Word := 0
  rmode : Nat := 0
  d : Word := 0
  a : Word := 0
  b : Word := 0
  c : Word := 0
  e : Word := 0
  /-- CWB0 to CWB7 as sampled, for constant operands -/
  cwb : Tab Word := []
  /-- handle entries sampled, by handle number -/
  handles : Tab (BitVec 512) := []
  /-- physical destinations -/
  dsts : List Dst := []
  /-- the cycle at which the wait timer started, and the last cycle at which an attempt waited (R141) -/
  waiting : Option Nat := none
  tried : Option Nat := none
  /-- its place at the bank of a word that another operation had taken (R256) -/
  claim : Option LmClaim := none
  /-- SEQ of the fault record that holds the access -/
  held : Option (BitVec 32) := none
  cancelled : Bool := false
  /-- what later instructions have written of its destination while it waits (R88, R163) -/
  met : List Run := []
  /-- what happened before its decode (R266, the result wait) -/
  clock : Clock := []
  deriving DecidableEq, Repr

/-- A class-X result inside its latency window (R87), or a class-V result not yet delivered (R139). -/
structure Flight where
  pos : Word
  ring : Nat := 0
  stream : Option Queue := none
  seq : Nat := 0
  /-- class X: the cycle at which the window ends; class V: none -/
  endsAt : Option Nat := none
  /-- class N: an access that has performed and whose reply is on its way (R265); `holdS` keeps the S queue until it comes -/
  ack : Bool := false
  holdS : Bool := false
  dsts : List Dst := []
  /-- what it has written of tiles and masks -/
  wrote : List Run := []
  /-- class V: the values for the scalar and predicate destinations -/
  vals : List Word := []
  flags : BitVec 6 := 0
  tk : BitVec 4 := 0
  /-- what happens before what its result or its token orders (R266) -/
  clock : Clock := []
  /-- writes that perform with the reply, and values that a load may bind as late as its delivery (R265) -/
  late : List LateWrite := []
  rebind : List Rebind := []
  /-- requests into the window at another device whose replies are still to come (R378) -/
  tags : List Nat := []
  deriving DecidableEq, Repr

/-- A strand's wait at the front for an event (WFE, R133). -/
structure WfeWait where
  until_ : Nat
  dst : Nat
  bound : Nat
  pos : Word
  deriving DecidableEq, Repr

/-- What the front has begun and not ended: a SYSCALL whose request is not posted yet (R131), a TLBI that waits for the accesses that hold its
translations (R134, R349). -/
inductive Calling where
  | syscall (number : BitVec 32)
  | tlbi (sub : Nat) (device : Bool) (va : Word)
  deriving DecidableEq, Repr

/-- A strand (chapters 03 to 10, 13). -/
structure Strand where
  st : SState := .unbound
  /-- the state behind STOP, SYSW and HELD; the state behind PRE -/
  saved : SState := .run
  behind : SState := .run
  pc : Word := 0
  seq : Nat := 0
  s : Tab Word := []
  p : BitVec 8 := 0x80
  /-- masks: row i of k at key 64k + i; default all ones -/
  k : Tab Word := []
  shp : Word := 0x103F40
  flg : BitVec 6 := 0
  rmode : BitVec 3 := 0
  dlns : BitVec 48 := 0
  dlnn : BitVec 32 := 0
  wue : BitVec 32 := 0
  wub : BitVec 25 := 0
  dlst : Word := 0
  trc : Word := 0
  tri : BitVec 32 := 0
  trx : Word := 0
  lnch : Word := 0
  htb : Word := 0
  rrt : Word := 0
  uiv : Word := 0
  uisCause : BitVec 4 := 0
  uisMask : BitVec 4 := 0
  uisEn : Bool := false
  uisInh : Bool := false
  ptps : Option (BitVec 48) := none
  cwb : Tab Word := []
  ngrp : BitVec 4 := 0
  wbase : BitVec 4 := 0
  mown : Bool := false
  lpos : BitVec 3 := 0
  /-- system privilege (R115) -/
  sys : Bool := false
  pasid : BitVec 20 := 0
  /-- claim: generation licence, LM groups held (logical to physical group), fused L1 (R253, R258) -/
  genpages : Nat := 0
  lmGroups : List Nat := []
  fuse : Bool := false
  /-- cycle at bind, less the cycles spent pre-empted (R75) -/
  cycBase : Int := 0
  /-- device time at bind, less the time spent pre-empted (RUNT, R310), and EST -/
  runBase : Nat := 0
  est : Nat := 0
  /-- sub-deadline in nanoseconds of device time (R243) -/
  sub : Option Nat := none
  /-- queues L, C, S; head first -/
  lq : List QEntry := []
  cq : List QEntry := []
  sq : List QEntry := []
  lring : Nat := 0
  cring : Nat := 0
  sring : Nat := 0
  /-- tokens L→C, C→L, C→S, S→C -/
  tlc : Nat := 0
  tcl : Nat := 0
  tcs : Nat := 0
  tsc : Nat := 0
  /-- pending bits (R248), by destination -/
  pending : List Dst := []
  /-- destinations pending that a later class-X write has met (R248, R88) -/
  contested : List Dst := []
  flight : List Flight := []
  /-- what the instruction that is now issuing has written of tiles and masks -/
  wrote : List Run := []
  /-- its writes that do not perform yet, and where its value may be bound later (R265) -/
  late : List LateWrite := []
  rebind : List Rebind := []
  /-- the cycle after the last issue of L, C and S (R82) -/
  issuedAt : Tab Nat := []
  event : Bool := false
  wfe : Option WfeWait := none
  /-- YIELD (R127): decode resumes at this cycle, or once these slots have decoded -/
  yieldUntil : Nat := 0
  yieldTo : List Nat := []
  /-- HALT decoded, draining (R128) -/
  halting : Bool := false
  /-- the SYSCALL or TLBI at the pc that has begun (R131, R134) -/
  calling : Option Calling := none
  /-- trap procedure running (R260), or a trap of the drain that is still to be recorded (R317) -/
  stopping : Option TrapRec := none
  /-- the engines, by their ENG codes, at whose head a trapped entry or command stands (R260 to R262) -/
  trapped : List Nat := []
  /-- diversion running: the cause (R313) -/
  diverting : Option (BitVec 3) := none
  /-- pre-emption requested, draining (R336) -/
  preempting : Bool := false
  /-- DLST bits gathered by the drain (R314) -/
  dlstAcc : Word := 0
  /-- device time at the last bind or resume (DLST.CAUSE 3) -/
  boundAt : Nat := 0
  /-- the budget has run out; the strand ends once its issued work is complete (R315) -/
  killing : Bool := false
  /-- the effective deadline that the diversion met -/
  divertAt : Nat := 0
  /-- the cycle at which the wrap-up budget ends (R313); the first decode at WUE, which starts it, is still to come -/
  budget : Option Nat := none
  wrapFirst : Bool := false
  /-- wait-timer limit sampled at bind and resume (R250) -/
  limit : Nat := 16777216
  /-- result descriptor: address and contents (R238) -/
  rdAddr : Word := 0
  rdValid : Word := 0
  rdStatus : BitVec 8 := 0
  rdCcnt : BitVec 8 := 0
  rdCsec : BitVec 48 := 0
  rdCnsec : BitVec 32 := 0
  rdUser : Word := 0
  /-- a COMMIT has performed since the diversion (R240) -/
  committedWrap : Bool := false
  /-- the result-descriptor write is held by this fault record (R406) -/
  rdHeld : Option (BitVec 32) := none
  /-- the result-descriptor write waits for the end of a move (R406) -/
  rdWait : Bool := false
  /-- while saved: the queues that the strand's trap has stopped, 0 to 3 the quadrants' and 4 the copy queue, 5 the matrix queue -/
  stops : List Nat := []
  /-- the number of its bind, which names the strand as a party (R263) -/
  serial : Nat := 0
  /-- what happens before its next events (R269) -/
  seen : Clocks := {}
  deriving DecidableEq, Repr

/-- One level entry of the shadow configuration (R194). -/
structure Level where
  cntm1 : BitVec 20 := 0
  as0 : BitVec 32 := 0
  as1 : BitVec 32 := 0
  bs0 : BitVec 32 := 0
  bs1 : BitVec 32 := 0
  zs : BitVec 2 := 0
  deriving DecidableEq, Repr

/-- The shadow configuration of the next nest (R194), with the handle entries that MBASE sampled. -/
structure NestCfg where
  l0 : Level := {}
  l1 : Level := {}
  l2 : Level := {}
  l3 : Level := {}
  l4 : Level := {}
  l5 : Level := {}
  ah : BitVec 10 := 0
  bh : BitVec 10 := 0
  mh : BitVec 10 := 0
  zt : BitVec 2 := 0
  ax0 : BitVec 32 := 0
  ax1 : BitVec 32 := 0
  bx0 : BitVec 32 := 0
  bx1 : BitVec 32 := 0
  mx1 : BitVec 32 := 0
  ahE : BitVec 512 := 0
  bhE : BitVec 512 := 0
  mhE : BitVec 512 := 0
  /-- mode word: FA = FB = E4M3, the three extents 63 -/
  mode : BitVec 64 := 0xFDFBF0294
  deriving DecidableEq, Repr

/-- Plane classes (R405). -/
inductive PlaneClass where
  | none | intReal | floatReal | complexInt | complexFloat
  deriving DecidableEq, Repr

/-- A weight plane: element codes at key 64k + j with the format that loaded them, class, scale vector, row masks per column
(R202, R205, R206, R405). -/
structure Plane where
  cls : PlaneClass := .none
  fmt : Fmt := .int8
  el : Tab (BitVec 32) := []
  /-- the scale entry taken (byte 2j + b), where the load had BMX set -/
  scales : Option (List Byte) := none
  /-- rows that carry a weight, per column, where the load was SPARSE -/
  rows : Option (List (BitVec 64)) := none
  deriving DecidableEq, Repr

/-- An operation in the matrix queue (R190). -/
structure MatOp where
  instr : Instr
  slot : Nat
  pos : Word
  ring : Nat
  seq : Nat
  tk : BitVec 4 := 0
  rmode : Nat := 0
  a : Word := 0
  b : Word := 0
  c : Word := 0
  e : Word := 0
  handles : Tab (BitVec 512) := []
  dsts : List Dst := []
  cfg : NestCfg := {}
  /-- metadata snapshot of MSPMETA (R206) -/
  meta_ : List Byte := []
  /-- what happens before what its token orders (R266) -/
  clock : Clock := []
  /-- scale entries pushed before the operation issued and not yet taken (R205) -/
  scaleSeq : Nat := 0
  running : Bool := false
  /-- an MPRE that has loaded early (R203) -/
  loaded : Bool := false
  /-- a nest: passes completed, AUTOW planes loaded, parts done of the current run (R197), its checks have passed -/
  passes : Nat := 0
  planes : Nat := 0
  unit : Nat := 0
  started : Bool := false
  /-- AUTOW planes swapped in (R204) -/
  swapped : Nat := 0
  flags : BitVec 6 := 0
  /-- flags that a stop of the nest has merged already (R199, R201) -/
  told : BitVec 6 := 0
  /-- the operation has done its work and may complete -/
  finished : Bool := false
  /-- a diversion stops the nest at the end of its pass or run (R214) -/
  divert : Bool := false
  deriving DecidableEq, Repr

/-- The matrix array's status (R201, R211, R212). -/
structure MatStat where
  state : BitVec 2 := 0
  susp : Bool := false
  tstok : Bool := true
  fenced : BitVec 4 := 0
  fmode : BitVec 3 := 0
  passes : BitVec 64 := 0
  idx : List (BitVec 32) := [0, 0, 0, 0, 0, 0]
  suspn : BitVec 32 := 0
  flags : BitVec 6 := 0
  nslt : BitVec 32 := 0
  /-- nests since the last passing test (SUSPN) -/
  nsp : BitVec 32 := 0
  ivl : BitVec 32 := 0
  rlen : BitVec 21 := 0
  rpos : BitVec 21 := 0
  prh : Bool := false
  pch : Bool := false
  split : Bool := false
  /-- device time of the last self-test, in nanoseconds -/
  testedAt : Nat := 0
  deriving DecidableEq, Repr

/-- A page of a key-value space that a command has looked up or reserved (R300): block number within the command, page, mirror page,
and the index of its furlong within the space. -/
structure PageRef where
  n : Nat
  page : Nat
  mirror : Option Nat := none
  rel : Nat := 0
  /-- the page that a KVPUT replaces -/
  old : Bool := false
  deriving DecidableEq, Repr

/-- A command in a copy queue or a memory-command queue (R217 to R224, R293). -/
structure Cmd where
  slot : Nat
  core : Nat
  pos : Word
  ring : Nat
  seq : Nat
  /-- the descriptor as read when the command was accepted -/
  desc : BitVec 512
  /-- where CODE and DONE are written: a logical local-memory offset of the issuing core, or a virtual address -/
  descLm : Option Nat := none
  descVa : Word := 0
  /-- placed by QPUT: no issue stage (R219) -/
  viaQput : Bool := false
  /-- a job or prologue of this bundle, which no strand issued (R332) -/
  job : Option Word := none
  /-- which of the bundle's jobs it is (R331) -/
  jobIx : Nat := 0
  /-- the quadrant of its memory-command queue -/
  quad : Option Nat := none
  /-- the barrier record: core and physical offset, and the logical offset that it came from -/
  bar : Option (Nat × Nat) := none
  barLog : Nat := 0
  /-- bytes or units that the command still has in the barrier's PEND -/
  pend : Nat := 0
  /-- cycle of its acceptance; serial number of its start -/
  accepted : Nat := 0
  sent : Nat := 0
  started : Bool := false
  /-- handle entries read at its start -/
  src : BitVec 512 := 0
  dst : BitVec 512 := 0
  aux : BitVec 512 := 0
  /-- copy: row and byte within the row of the next sector; LAYOUT: tile and row within the tile -/
  row : Nat := 0
  off : Nat := 0
  done : Nat := 0
  /-- bytes of the last sector, which leave PEND at the end (R153) -/
  tail : Nat := 0
  code : Nat := 0
  trap : Option (TrapCode × Nat) := none
  /-- SEQ of the fault record that holds it -/
  held : Option (BitVec 32) := none
  /-- a delivered fault: the code it carries (R223, R353) -/
  delivered : Option (TrapCode × Nat) := none
  /-- dies whose part is still to run, and what the parts returned (index, value) -/
  parts : List Nat := []
  acc : Tab Nat := []
  poisoned : Bool := false
  /-- status byte bits of R227 gathered per output row -/
  status : Tab (BitVec 8) := []
  /-- all of its work is done; completion steps remain -/
  finished : Bool := false
  /-- CODE and DONE have been written, or are not to be (R406) -/
  coded : Bool := false
  flags : BitVec 6 := 0
  /-- inputs read at the start (R293), units of them that were poisoned -/
  input : List Nat := []
  marks : List Nat := []
  /-- key-value pages, virtual furlongs with the bank-linear furlong of each, furlongs read -/
  pages : List PageRef := []
  furl : Tab Nat := []
  reads : List Nat := []
  /-- KVTAKE: the places of its copies out, by block (R293) -/
  outs : Tab (List Piece) := []
  /-- CPYQ: the signal add has been made, or is not to be (R224) -/
  signalled : Bool := false
  /-- the party of its accesses (R20), and what happens before its reads (R271) -/
  party : Party := .device .processor
  clock : Clock := []
  /-- requests into the window at another device whose replies are still to come (R378) -/
  tags : List Nat := []
  /-- an update of its barrier has met a word in error (R153) -/
  barBad : Bool := false
  /-- it has failed: its completion steps are taken, it stands at the head of its queue until an ERET (R260, R261) -/
  failed : Bool := false
  /-- AREDUCE: its instance number, the abort it has met (R236) -/
  inst : Nat := 0
  aborted : Bool := false
  /-- AREDUCE: its strand was diverted before every peer had joined (R236) -/
  leaves : Bool := false
  deriving DecidableEq, Repr

/-- A stamped copy of a bounded-staleness line (R274). -/
structure StampCopy where
  line : Nat
  region : Nat
  stamp : BitVec 32
  data : BitVec 512
  deriving DecidableEq, Repr

/-- A core: vector registers, local memory, matrix array, engine queue, caches (chapters 01, 03, 08, 09, 10, 11). -/
structure Core where
  /-- vector registers: byte c of register r at 16384r + c -/
  vrf : Memory := []
  /-- local memory by physical offset, full words, words with an uncorrectable error -/
  lm : Memory := []
  full : List Nat := []
  lmBad : List Nat := []
  /-- words with an uncorrectable error that nothing has read yet, words with a corrected one; the count of the latter (R254, R387) -/
  lmFresh : List Nat := []
  lmCe : List Nat := []
  lmErrors : BitVec 32 := 0
  /-- cell (i, j) of tile t at 4096t + 64i + j -/
  z : Tab (BitVec 56) := []
  active : Plane := {}
  shadow : Plane := {}
  /-- metadata of the shadow plane, from MSPMETA, and of the active one: 512 bytes each (R202, R206) -/
  meta_ : List Byte := []
  activeMeta : List Byte := []
  cfg : NestCfg := {}
  /-- scale queue: entries with the serial number of their push -/
  scales : List (Nat × List Byte) := []
  scaleSeq : Nat := 0
  matq : List MatOp := []
  mring : Nat := 0
  mstat : MatStat := {}
  copyq : List Cmd := []
  cpring : Nat := 0
  /-- queue stopped by a trap until an ERET of that strand (R219) -/
  copyStop : Option Nat := none
  /-- what happened before the copy queue's last completion (R271) -/
  copyClock : Clock := []
  matStop : Option Nat := none
  /-- fetch copies, constant-cache lines, handle-cache entries -/
  icache : Tab (BitVec 512) := []
  ccache : Tab (BitVec 512) := []
  hcache : Tab (BitVec 512) := []
  stamps : List StampCopy := []
  known : Tab (BitVec 32) := []
  /-- the round-region tables as taken up since the last TLBI, by context and table address (R273) -/
  regions : Tab (List (BitVec 128)) := []
  /-- the place (0 to 3) of the strand that decoded last (R247) -/
  lastDec : Nat := 3
  /-- the cycle after the last decode (R247) -/
  decAt : Nat := 0
  /-- local-memory words that an operation has taken in the cycle before `lmAt` (R256) -/
  lmAt : Nat := 0
  lmTaken : List Nat := []
  deriving DecidableEq, Repr

/-! ### The units around the cores -/

/-- A row of a die that is not PLAIN (R290). -/
inductive RowState where
  /-- `owner` is the context whose teardown removes the entry -/
  | const (v : BitVec 32) (owner : BitVec 20)
  | compressed (owner : BitVec 20)
  deriving DecidableEq, Repr

/-- A page of a key-value space that is not FREE (R302). -/
inductive PageState where
  | reserved | owned | releasing
  deriving DecidableEq, Repr

/-- A block-table entry (R300): context, space (its BASE), SEQ, HEAD, block number; its page, the mirror page, and the index of the
page's furlong within the space. -/
structure Block where
  pasid : BitVec 20
  space : Nat
  seq : Nat
  head : Nat
  num : Nat
  page : Nat
  mirror : Option Nat := none
  rel : Nat := 0
  deriving DecidableEq, Repr

/-- A BGBAR hold (R233): the launch that made it, the range of its handle, and the furlongs that it covers. -/
structure Hold where
  lnch : Word
  pasid : BitVec 20
  base : Nat
  limit : Nat
  furlongs : List Nat
  deriving DecidableEq, Repr

/-- A tile-table entry that the layout unit of a quadrant's memory port keeps (R351): context, handle, address, the entry. -/
structure TileCopy where
  pasid : BitVec 20
  handle : Nat
  va : Word
  entry : BitVec 64
  deriving DecidableEq, Repr
/-- A quadrant's memory-command queue (R217, R293), and its layout unit's entries. -/
structure Quad where
  q : List Cmd := []
  ring : Nat := 0
  stop : Option Nat := none
  /-- what happened before its last completion (R271) -/
  clock : Clock := []
  tiles : List TileCopy := []
  deriving DecidableEq, Repr

/-- A die's error counts (R304). -/
structure DieErr where
  ce : BitVec 32 := 0
  ue : BitVec 32 := 0
  deriving DecidableEq, Repr

/-- A request of CXL.cache (R358). -/
inductive CxlRequest where
  | rdShared | rdOwn | itoMWr | rdCurr | wrCur | dirtyEvict | cleanEvict
  deriving DecidableEq, Repr
/-- The state in which the host may keep a line that it is given (R360): none, shared, or any. -/
inductive HostGrant where
  | i | s | a
  deriving DecidableEq, Repr
/-- The lines that caches hold across the CXL link: host lines of the device's caches, shared and exclusive (R358), device lines that the host
holds, the one granted last at the end, with those granted in state A (R360), and the pool lines that the device caches, in order of
allocation (R362). -/
structure CxlLines where
  shared : List Nat := []
  exclusive : List Nat := []
  hostHeld : List Nat := []
  hostOwned : List Nat := []
  pool : List Nat := []
  deriving DecidableEq, Repr

/-- The L2's view of other caches, and errors of the L1s, the L2 and its directory (R387, R389, R391): L1 copies in error by core and line, dirty L2 lines with an
uncorrectable error and with a corrected one, directory entries with an uncorrectable one; the corrected-error counts of each L1, and
of each slice's data and directory. -/
structure ArrayErrors where
  l1Bad : List (Nat × Nat) := []
  l2Ue : List Nat := []
  /-- dirty lines that are poisoned (R389) -/
  l2Poison : List Nat := []
  l2Ce : List Nat := []
  dirBad : List Nat := []
  l1Errors : Tab (BitVec 32) := []
  l2Errors : Tab (BitVec 32) := []
  dirErrors : Tab (BitVec 32) := []
  cxl : CxlLines := {}
  deriving DecidableEq, Repr

/-- A cached translation (R349): unit 0 to 63 a core, 64 the host-aperture walker, 65 to 68 the TLB of a quadrant; the leaf entry and the page
it maps. -/
structure TlbEntry where
  unit : Nat
  pasid : BitVec 20
  base : Nat
  size : Nat
  pte : BitVec 64
  deriving DecidableEq, Repr

/-- Fault-record kinds (R352). -/
inductive FaultKind where
  | absent | format | perm | tile | materialise | migrate | host | trap | secondary | settled
  /-- no record of the fault queue: a League record, EVT 15 (R378, R393) -/
  | league
  deriving DecidableEq, Repr

/-- Who waits behind a fault record (R353): a queue head, a copy or memory command, a result descriptor, a host access, a
command-processor thread. -/
inductive Holder where
  | access (slot : Nat) (q : Queue)
  | copy (core : Nat)
  | mem (quad : Nat)
  | result (slot : Nat)
  | hostRead (thread off len : Nat)
  | hostWrite (thread off : Nat) (data : List Byte)
  | thread (n : Nat)
  /-- a request into the window whose home has answered that it is no member (R378) -/
  | window (tag : Nat)
  /-- a write at the completion of a bundle whose queue is unmapped -/
  | completion (bundle : Word)
  deriving DecidableEq, Repr

/-- A held access and its record (R353). -/
structure Held where
  seq : BitVec 32
  kind : FaultKind
  holder : Holder
  pasid : BitVec 20
  va : Word
  acc : Nat := 0
  deriving DecidableEq, Repr

/-- A history entry of the migration engine (R356): completion times in nanoseconds, newest first. -/
structure MoveHist where
  pasid : BitVec 20
  va : Word
  times : List Nat
  deriving DecidableEq, Repr

/-- A move in progress (R355): its descriptor. -/
structure Moving where
  desc : BitVec 256
  deriving DecidableEq, Repr

/-- A slot that waits at a port (R374): its class, the positions of its origin and destination, its 48 bytes; of a TIME message what it says when it
came, with the device time then (R381). -/
structure RingSlot where
  cls : Nat
  src : Nat
  dst : Nat
  bytes : List Byte
  stamp : Option (Nat × Nat) := none
  deriving DecidableEq, Repr
/-- One Bruloth port (R374 to R376): control, status, the sequence numbers of its link and its replay buffer. -/
structure PortState where
  thr : BitVec 5 := 12
  noauto : Bool := false
  failed : BitVec 16 := 0
  half : Bool := false
  up : Bool := false
  pend : Bool := false
  /-- lanes that are failing and not yet spared, bits 16 and 17 the spare lanes; which spare carries a data lane; spares that have failed -/
  failing : BitVec 18 := 0
  carries : Tab Nat := []
  deadSpares : BitVec 2 := 0
  /-- down until the league is enabled again (R395) -/
  locked : Bool := false
  rxNext : BitVec 16 := 0
  txNext : BitVec 16 := 0
  /-- flits sent and not yet acknowledged, oldest first -/
  replay : List (List Byte) := []
  /-- slots to send, in the order they came -/
  out : List RingSlot := []
  /-- a NAK is owed to the neighbour -/
  nak : Bool := false
  /-- one-way delay in nanoseconds; device time of the last exchange that measures it (R381) -/
  delay : Nat := 0
  askedAt : Option Nat := none
  /-- device time of the last TIME message that came in here -/
  timeAt : Option Nat := none
  deriving DecidableEq, Repr

/-- The commit state of a group mask (R237, R392). -/
structure GroupState where
  own : BitVec 48 := 0
  /-- view of each member's last committed step, by position -/
  views : Tab (BitVec 48) := []
  /-- what happens before the last commit of each member (R267) -/
  clocks : Tab Clock := []
  frozen : Bool := false
  contribution : BitVec 48 := 0
  deriving DecidableEq, Repr

/-- A peer's contribution to an AREDUCE (R236): position, mask, instance number, operation and data; an abort has `aborted`. -/
structure Contribution where
  mask : BitVec 8
  inst : Nat
  pos : Nat
  fmt : Nat := 0
  op : Nat := 0
  /-- LEN as its sender has it -/
  len : Nat := 0
  aborted : Bool := false
  data : List Byte := []
  /-- the sequence numbers of the flits that brought it (R337, R375) -/
  seqs : List (BitVec 16) := []
  deriving DecidableEq, Repr

/-- A queue control block's entry (R325). -/
structure Qcb where
  st : BitVec 2 := 0
  typ : BitVec 2 := 0
  prio : BitVec 2 := 0
  pasid : BitVec 20 := 0
  qnum : BitVec 12 := 0
  log2n : BitVec 4 := 0
  mapped : Bool := false
  thread : BitVec 5 := 0
  pend : Bool := false
  stall : Bool := false
  msiv : BitVec 11 := 0
  ring : Word := 0
  ridx : BitVec 32 := 0
  ctxd : Word := 0
  seq : BitVec 32 := 0
  deriving DecidableEq, Repr

/-- A command-processor thread (R326): the QCB it serves, its wake latch, the device time at which a WAIT began, a held access. -/
structure Thread where
  qcb : Option Nat := none
  wake : Bool := false
  waitSince : Option Nat := none
  held : Option (BitVec 32) := none
  /-- what happens before its next access (R269) -/
  seen : Clock := []
  deriving DecidableEq, Repr

/-- A strand declaration of a registered image (R323). -/
structure StrandDecl where
  entry : Word
  wrapup : BitVec 32
  budget : BitVec 25
  deriving DecidableEq, Repr

/-- A registered image (R323, R324). -/
structure Image where
  pasid : BitVec 20
  id : BitVec 16
  sysa : Bool := false
  trail : BitVec 16 := 3
  est : Nat := 0
  cstr : Nat := 1
  cvg : Nat := 0
  clm : Nat := 0
  cfuse : Bool := false
  cmat : Nat := 255
  cgen : Nat := 0
  strands : List StrandDecl := []
  cwb : Tab Word := []
  /-- the handle and region entries that its registration wrote (R324) -/
  handles : Tab (BitVec 512) := []
  regions : Tab (BitVec 128) := []
  deriving DecidableEq, Repr

/-- A strands part of a bundle: declaration, instances; the LAUNCH itself is the first. -/
structure SubLaunch where
  strd : Nat
  count : Nat
  deriving DecidableEq, Repr

/-- A copy or in-memory job of a bundle (R331). -/
structure Job where
  kind : Nat
  pro : Bool
  qn : Nat
  descVa : Word
  /-- completion CODE, once complete -/
  code : Option Nat := none
  issued : Bool := false
  deriving DecidableEq, Repr

/-- A bind record of the slot table (R333). -/
structure BindRec where
  valid : Bool := false
  go : Bool := false
  state : BitVec 2 := 0
  rfsd : Bool := false
  pasid : BitVec 20 := 0
  image : BitVec 16 := 0
  strd : BitVec 8 := 0
  idx : BitVec 8 := 0
  wbase : BitVec 4 := 0
  ngrp : BitVec 4 := 0
  mown : Bool := false
  fuse : Bool := false
  lmn : BitVec 3 := 0
  lmap : BitVec 8 := 0
  lnch : Word := 0
  bndl : Word := 0
  ssave : Word := 0
  csave : Word := 0
  argva : Word := 0
  rdva : Word := 0
  deriving DecidableEq, Repr

/-- The life of a bundle (R331 to R344). -/
inductive BundleState where
  | presented | bound | started | saving | saved
  deriving DecidableEq, Repr

/-- A bundle (R331). -/
structure Bundle where
  id : Word
  lnch : Word
  pasid : BitVec 20
  image : BitVec 16
  qcb : Option Nat := none
  prio : Nat := 0
  typ : Nat := 0
  bar : Bool := false
  /-- ring slot of the LAUNCH, for the trailer -/
  packet : Word := 0
  subs : List SubLaunch := []
  jobs : List Job := []
  dlsec : BitVec 48 := 0
  dlnsec : BitVec 32 := 0
  argva : Word := 0
  rdbase : Word := 0
  sigva : Word := 0
  presentedAt : Nat := 0
  /-- the bundle that is being pre-empted for it: until that is saved it is not bound (R335) -/
  waitsFor : Option Word := none
  st : BundleState := .presented
  /-- strand slots in instance order, once bound; the slot of instance 0, or of the record of a bundle without strands -/
  slots : List Nat := []
  home : Nat := 0
  /-- what the thread that read the LAUNCH had seen (R269) -/
  seen : Clock := []
  /-- results gathered as strands end: committed, expired, no commit, torn down -/
  ncom : Nat := 0
  nexp : Nat := 0
  nnc : Nat := 0
  nkill : Nat := 0
  engineError : Bool := false
  torn : Bool := false
  /-- strands by SSAVE, cores by CSAVE, and commands, saved by pre-emption; cycle and device time of the save -/
  saved : List (Word × Nat × Strand) := []
  savedCores : List (Word × Core) := []
  savedCmds : List Cmd := []
  /-- the bind records of the saved strands -/
  savedRecs : List BindRec := []
  /-- the flit log: messages of the group that no unit of it has taken (R337) -/
  log : List Contribution := []
  savedCycle : Nat := 0
  savedTime : Nat := 0
  /-- its place in the context's save area (R338) -/
  area : Nat := 0
  /-- MSIV of its queue (R343) -/
  msiv : Nat := 0
  /-- a write of its completion has been held: by the thread of its queue, or, once the queue is unmapped, by this record; which one it was, and up to
  which one deliveries have dropped them: 1 the trailer, 2 the signal (R326, R343) -/
  heldUp : Bool := false
  heldBy : Option (BitVec 32) := none
  failing : Nat := 0
  skip : Nat := 0
  deriving DecidableEq, Repr

/-- What leaves the device: MSI-X messages, answers to host requests, flits and pins. -/
inductive Output where
  | msix (entry : Nat)
  | hostData (off : Nat) (data : List Byte) (poison : Bool) (grant : HostGrant)
  | hostDone (off : Nat)
  | hostError (off : Nat)
  | snoopAnswer (space : MemSpace) (line : Nat) (data : Option (BitVec 512)) (poison : Bool)
  | cxlCache (r : CxlRequest) (line : Nat)
  /-- a back-invalidate snoop of a device line that the host holds (R360): to invalidate it, or to take its data -/
  | backSnoop (inv : Bool) (line : Nat)
  | flit (port : Port) (data : List Byte)
  | syscall (stid lnch pos : Word) (number : BitVec 32) (args : List Word)
  | pps (seconds : BitVec 48)
  | thermtrip
  | cxlError (fatal : Bool)
  deriving DecidableEq, Repr

/-- Power states (R402). -/
inductive PowerState where
  | off | on | throttle | trip
  deriving DecidableEq, Repr

/-- Sources of device time (R307). -/
inductive TimeSource where
  | ptp | league | pps | holdover
  deriving DecidableEq, Repr

/-- How device time follows its source (R306, R307). -/
structure Discipline where
  /-- nanoseconds still to be slewed in -/
  phase : Int := 0
  /-- the last disciplined rate, in parts per billion beside the oscillator's, and what it has gathered towards a nanosecond -/
  rate : Int := 0
  drift : Int := 0
  /-- nanoseconds that the oscillator has counted -/
  raw : Nat := 0
  /-- what the source said last, and the count then -/
  last : Option (Nat × Nat) := none
  /-- the source that the device operating system has pinned -/
  pinned : Option TimeSource := none
  deriving DecidableEq, Repr

/-- A release that a byte still carries (R267, R268): the releasing party and its place, its scope, what it published. `tag` tells the
releases of one local-memory record apart (the phase of a barrier, the slot of a ring), `size` is the record's bytes; `mixed` says that an
atomic of another party has followed. -/
structure Rel where
  owner : Party
  place : Place
  scp : Nat
  clock : Clock
  tag : Nat := 0
  size : Nat := 1
  mixed : Bool := false
  deriving DecidableEq, Repr
/-- A request into the window at another device (R378): its tag, its home, its message, whether its home has answered that it is no member. -/
structure WindowRequest where
  tag : Nat
  home : Nat
  msg : Config.RingMsg
  refused : Bool := false
  deriving DecidableEq, Repr
/-- The releases by location, and what the host's threads and the peers' strands have acquired (R267, R272), those by the number of the thread,
these by position and strand; the requests into the window that wait for a reply, those of them that the instruction or engine at work has
made, and the tag of the next one (R378); the host's requests that wait for a move or a flip to end, or for room in the fault queue, in the
order they came (R352, R357); and the pages that publishes have made executable, by context and first line (R340). -/
structure Releases where
  at_ : Tab (List Rel) := []
  host : Tab Clock := []
  peers : Tab Clock := []
  window : List WindowRequest := []
  fresh : List Nat := []
  nextTag : Nat := 0
  /-- members that have answered that they are none -/
  strangers : List Nat := []
  hostWaits : List Holder := []
  published : List (Nat × Nat) := []
  deriving DecidableEq, Repr

/-- A code line with U = 1 (R278): the line and the last write of each party that set it, by its stamp. -/
structure UnpubLine where
  line : Nat
  setters : List (Party × Nat)
  deriving DecidableEq, Repr

/-- The machine. -/
structure State where
  /-- the slot whose instruction acts, and as what -/
  cur : Nat := 0
  acting : Acting := .front
  /-- inputs and chosen actions, first to act first; when empty, the scheduling rules choose -/
  agenda : List Instr := []
  /-- the instruction that the front of `cur` has decoded and that runs within the same step -/
  latched : Option Instr := none
  /-- compute cycles since reset, the scheduling turn, the counter of free values -/
  cycle : Nat := 0
  turn : Nat := 0
  fv : Nat := 0
  strands : Tab Strand := []
  cores : Tab Core := []
  quads : Tab Quad := []
  /-- the dies by bank-linear offset, host memory, pool memory -/
  dev : Memory := []
  host : Memory := []
  pool : Memory := []
  /-- dirty L2 lines: bank-linear line, host line, pool line -/
  l2 : Tab (BitVec 512) := []
  hostL2 : Tab (BitVec 512) := []
  poolL2 : Tab (BitVec 512) := []
  /-- poisoned 64-byte units -/
  devPoison : List Nat := []
  hostPoison : List Nat := []
  poolPoison : List Nat := []
  /-- units whose stored bits hold an uncorrectable error not yet marked, or a corrected one (R304) -/
  devUe : List Nat := []
  devCe : List Nat := []
  /-- units that an uncorrectable read has met and the sequencer is to mark (R304) -/
  xpwrDue : List Nat := []
  /-- units that a part has read with a corrected error and that are to be scrubbed (R304) -/
  scrubDue : List Nat := []
  /-- errors of the caches and the directory -/
  arr : ArrayErrors := {}
  rows : Tab RowState := []
  blocks : List Block := []
  pages : Tab PageState := []
  holds : List Hold := []
  dieErr : Tab DieErr := []
  /-- unpublished lines of code frames (R278) -/
  ubits : List UnpubLine := []
  /-- release clocks by location, the write counter (R267, R269) -/
  rel : Releases := {}
  wcount : Nat := 0
  /-- translation registers (R352) -/
  ptbase : Word := 0
  fqbase : Word := 0
  fqsize : Nat := 6
  fqhead : BitVec 32 := 0
  fqtail : Word := 0
  fqlost : Word := 0
  lim : BitVec 4 := 3
  mqbase : Word := 0
  mqtail : BitVec 32 := 0
  mqhead : BitVec 32 := 0
  apslot : Tab Word := []
  tlb : List TlbEntry := []
  held : List Held := []
  hist : List MoveHist := []
  moving : Option Moving := none
  /-- league registers (R373), steps, contributions -/
  lgEn : Bool := false
  lgPos : BitVec 3 := 0
  lgNm1 : BitVec 3 := 0
  lgTmpos : BitVec 3 := 0
  lgTmen : Bool := false
  lwpbase : Word := 0
  lwsize : Word := 0
  lmsize : Word := 0
  east : PortState := {}
  west : PortState := {}
  groups : Tab GroupState := []
  /-- launches that have issued STEP, with the mask -/
  stepped : List (Word × BitVec 8) := []
  contribs : List Contribution := []
  /-- masks for which an abort is to be originated (R392) -/
  abortDue : List Nat := []
  /-- device time of the last TIME messages sent as master (R381) -/
  timeSentAt : Option Nat := none
  /-- AREDUCE instances completed per mask -/
  arInst : Tab Nat := []
  ellctl : BitVec 1 := 0
  /-- errors and repair (R388, R393, R396, R397, R399) -/
  mebase : Word := 0
  mesize : Nat := 6
  mehead : BitVec 32 := 0
  metail : Word := 0
  melost : Word := 0
  cethr : BitVec 5 := 10
  lgabtStep : BitVec 48 := 0
  lgabtMask : BitVec 8 := 0
  lgabtOrig : BitVec 3 := 0
  lgabtV : Bool := false
  leader : BitVec 2 := 0
  healthy : BitVec 4 := 0
  tkover : Bool := false
  hbcnt : Word := 0
  /-- device time of the last change of HBCNT -/
  hbAt : Nat := 0
  jbase : Word := 0
  hbmiss : BitVec 4 := 3
  fwState : BitVec 2 := 0
  svnf : BitVec 8 := 0
  svni : BitVec 8 := 0
  fwFail : BitVec 4 := 0
  fwAdvance : Bool := false
  flash : List Byte := []
  /-- power (R401 to R403) -/
  power : PowerState := .off
  optr : BitVec 3 := 1
  pin : Bool := false
  plim : BitVec 9 := 320
  opt : BitVec 3 := 1
  /-- the change of point that is running; the point that is to be reached after it (R403) -/
  chg : Option (BitVec 3) := none
  want : BitVec 3 := 1
  clockStopped : Bool := false
  /-- device time of the last entry into THROTTLE -/
  throttledAt : Nat := 0
  tj : BitVec 12 := 0
  tmem : BitVec 12 := 0
  pwr : BitVec 16 := 0
  vcoreMv : Nat := 400
  /-- device time in nanoseconds, the fraction of a nanosecond gathered by the clock, its sources (R306, R307) -/
  time : Nat := 0
  timeFrac : Nat := 0
  timeLocked : Bool := false
  slew : Discipline := {}
  source : TimeSource := .holdover
  ptpUp : Bool := false
  ppsSeen : Bool := false
  /-- the second of the last pulse on PPS_OUT -/
  ppsSec : Nat := 0
  /-- command processor (R325 to R335) -/
  qcbs : Tab Qcb := []
  threads : Tab Thread := []
  images : List Image := []
  bundles : List Bundle := []
  binds : Tab BindRec := []
  hevbase : Word := 0
  hevsize : BitVec 4 := 4
  hevhead : BitVec 32 := 0
  hevtail : Word := 0
  hevlost : Word := 0
  hevmsi : BitVec 12 := 0
  ndrop : Word := 0
  outputs : List Output := []
  deriving DecidableEq, Repr

/-- The machine in cold reset, before the release of RESET_N: every register at the value the spec gives for reset, and at the
value of log 6 where it gives none. The first step from here is the boot (R399, log 7, DESIGN CHOICE). -/
def State.reset : State := {}

end Sys2Proof.Machine
end

