-- ==== Sys2Proof/Machine/Tables.lean ====
section
/-! DEFINITION. Tables, sorted sets and byte memory: the plain-data containers of State, each in one canonical form (log 5, DESIGN CHOICE). -/

namespace Sys2Proof.Machine

/-! ### Tables -/

/-- The entry at a key, if listed. -/
def tabFind {α : Type} (t : Tab α) (k : Nat) : Option α :=
  match t with
  | [] => none
  | (j, v) :: r => if j = k then some v else tabFind r k

/-- The value at a key, the default where none is listed. -/
def tabGet {α : Type} (t : Tab α) (d : α) (k : Nat) : α :=
  match t with
  | [] => d
  | (j, v) :: r => if j = k then v else tabGet r d k

/-- List a value at a key. -/
def tabPut {α : Type} (t : Tab α) (k : Nat) (v : α) : Tab α :=
  match t with
  | [] => [(k, v)]
  | (j, w) :: r => if k < j then (k, v) :: (j, w) :: r else if j = k then (k, v) :: r else (j, w) :: tabPut r k v

/-- Remove a key. -/
def tabErase {α : Type} (t : Tab α) (k : Nat) : Tab α :=
  match t with
  | [] => []
  | (j, w) :: r => if j = k then r else (j, w) :: tabErase r k

/-- Set a value; the default removes the entry. -/
def tabSet {α : Type} [DecidableEq α] (t : Tab α) (d : α) (k : Nat) (v : α) : Tab α :=
  if v = d then tabErase t k else tabPut t k v

/-- Keys strictly rising and every one at least `lo`. -/
def tabWfFrom {α : Type} (lo : Nat) : Tab α → Bool
  | [] => true
  | (k, _) :: r => lo ≤ k && tabWfFrom (k + 1) r
def tabWf {α : Type} (t : Tab α) : Bool := tabWfFrom 0 t

/-! ### Sets of numbers, strictly rising -/

def setAdd (t : List Nat) (k : Nat) : List Nat :=
  match t with
  | [] => [k]
  | j :: r => if k < j then k :: j :: r else if j = k then j :: r else j :: setAdd r k
def setDel (t : List Nat) (k : Nat) : List Nat := t.filter (fun j => j != k)
def setPut (t : List Nat) (k : Nat) (b : Bool) : List Nat := if b then setAdd t k else setDel t k

/-! ### Bytes -/

/-- Little-endian value of bytes (R5). -/
def leNat : List Byte → Nat
  | [] => 0
  | b :: r => b.toNat + 256 * leNat r
/-- The low `n` bytes of a number, lowest first (R5). -/
def leBytes : Nat → Nat → List Byte
  | 0, _ => []
  | n + 1, v => BitVec.ofNat 8 v :: leBytes n (v / 256)

/-- One byte of a memory. -/
def Memory.get (m : Memory) (a : Nat) : Byte :=
  match m with
  | [] => 0
  | (k, b) :: r => if k = a then b else Memory.get r a

/-- The listed cells of consecutive bytes: the nonzero ones. -/
def cellsOf (a : Nat) : List Byte → Memory
  | [] => []
  | b :: r => if b = 0 then cellsOf (a + 1) r else (a, b) :: cellsOf (a + 1) r

/-- Write consecutive bytes. -/
def Memory.write (m : Memory) (a : Nat) (bs : List Byte) : Memory :=
  m.filter (fun c => c.1 < a) ++ cellsOf a bs ++ m.filter (fun c => a + bs.length ≤ c.1)

/-- Read consecutive bytes. -/
def Memory.read (m : Memory) (a n : Nat) : List Byte :=
  let w := m.filter (fun c => a ≤ c.1 && c.1 < a + n)
  (List.range n).map (fun i => Memory.get w (a + i))

/-- The canonical form: addresses strictly rising from `lo`, no byte zero. -/
def Memory.wfFrom (lo : Nat) : Memory → Bool
  | [] => true
  | (k, b) :: r => lo ≤ k && b != 0 && Memory.wfFrom (k + 1) r
def Memory.wf (m : Memory) : Bool := Memory.wfFrom 0 m

/-- Bits `[hi:lo]` of a wide record as a number. -/
def fld {w : Nat} (x : BitVec w) (lo n : Nat) : Nat := (x.extractLsb' lo n).toNat
/-- Replace bits `[lo+n-1:lo]` of a record. -/
def setFld {w : Nat} (x : BitVec w) (lo n v : Nat) : BitVec w :=
  let m : BitVec w := BitVec.ofNat w ((2 ^ n - 1) * 2 ^ lo)
  (x &&& ~~~m) ||| BitVec.ofNat w (v % 2 ^ n * 2 ^ lo)

/-! ### Units -/

/-- The core of a strand slot (R15). -/
def coreOf (slot : Nat) : Nat := slot / 4
/-- The quadrant of a core (R15). -/
def quadOf (core : Nat) : Nat := core / 16
/-- Core `k` of the cluster of `core` (R138). -/
def clusterCore (core k : Nat) : Nat := core / 4 * 4 + k % 4
/-- Is core `c` in the scope instance `scp` of core `me` (R17): strand, core, cluster, quadrant, device and wider. -/
def inScope (scp me c : Nat) : Bool :=
  match scp with
  | 0 | 1 => me == c
  | 2 => me / 4 == c / 4
  | 3 => me / 16 == c / 16
  | _ => true

def State.strand (s : State) (n : Nat) : Strand := tabGet s.strands {} n
def State.setStrand (s : State) (n : Nat) (t : Strand) : State := { s with strands := tabSet s.strands {} n t }
def State.modStrand (s : State) (n : Nat) (f : Strand → Strand) : State := s.setStrand n (f (s.strand n))
/-- The strand that acts. -/
def State.me (s : State) : Strand := s.strand s.cur
def State.setMe (s : State) (t : Strand) : State := s.setStrand s.cur t
def State.core (s : State) (n : Nat) : Core := tabGet s.cores {} n
def State.setCore (s : State) (n : Nat) (c : Core) : State := { s with cores := tabSet s.cores {} n c }
def State.modCore (s : State) (n : Nat) (f : Core → Core) : State := s.setCore n (f (s.core n))
/-- The core of the strand that acts. -/
def State.myCore (s : State) : Nat := coreOf s.cur
def State.quad (s : State) (n : Nat) : Quad := tabGet s.quads {} n
def State.setQuad (s : State) (n : Nat) (q : Quad) : State := { s with quads := tabSet s.quads {} n q }

/-- Apply a change to every listed core, strand or queue. -/
def State.mapCores (s : State) (f : Nat → Core → Core) : State := s.cores.foldl (fun t c => t.setCore c.1 (f c.1 c.2)) s
def State.mapStrands (s : State) (f : Nat → Strand → Strand) : State := s.strands.foldl (fun t c => t.setStrand c.1 (f c.1 c.2)) s
def State.mapQuads (s : State) (f : Nat → Quad → Quad) : State := s.quads.foldl (fun t c => t.setQuad c.1 (f c.1 c.2)) s

/-! ### Scopes and clocks (R17, R18, R269) -/

/-- The scope instance of code `scp` that contains one place contains the other (R17, R20). A strand's own instance holds no other party. -/
def inInst : Nat → Place → Place → Bool
  | 0, _, _ => false
  | 1, .core a, .core b => a == b
  | 2, .core a, .core b => a / 4 == b / 4
  | 3, .core a, .core b => a / 16 == b / 16
  | 4, a, b => onDevice a && onDevice b
  | 5, a, b => (onDevice a || a == .host) && (onDevice b || b == .host)
  | 6, a, b => (onDevice a || isPeer a) && (onDevice b || isPeer b)
  | 7, _, _ => true
  | _, _, _ => false
where
  onDevice : Place → Bool
    | .core _ | .device => true
    | _ => false
  isPeer : Place → Bool
    | .peer _ => true
    | _ => false
/-- The widest scope inside both (R18): host and ring have the device in common. -/
def meetScp (a b : Nat) : Nat := if a = 5 ∧ b = 6 ∨ a = 6 ∧ b = 5 then 4 else min a b
/-- Add what one party has written to a clock. -/
def addSeen (x : Seen) : Clock → Clock
  | [] => [x]
  | y :: r => if y.party = x.party ∧ y.place = x.place ∧ y.scp = x.scp then { y with stamp := max y.stamp x.stamp } :: r else y :: addSeen x r
def joinClock (a b : Clock) : Clock := b.foldl (fun c x => addSeen x c) a
/-- A clock behind an edge of scope `scp` from one place to another: what the edge's instance leaves of it (R269). -/
def passClock (scp : Nat) (src dst : Place) (c : Clock) : Clock :=
  c.filterMap (fun x =>
    let k := meetScp x.scp scp
    if inInst k src dst && inInst k x.place dst then some { x with scp := k } else none)
/-- A write of the party happens before (R269, R278). -/
def clockHas (c : Clock) (p : Party) (stamp : Nat) : Bool := c.any (fun x => x.party == p && stamp ≤ x.stamp)

end Sys2Proof.Machine
end

