-- ==== Sys2Proof/Machine/Links.lean ====
section
/-! DEFINITION. The Bruloth links as a sender and a router use them (R373 to R375, R379): the way to a position, messages and their slots,
the queue of a port with its merging, flits and the replay buffer. -/

namespace Sys2Proof.Machine

def State.port (s : State) : Port → PortState
  | .east => s.east
  | .west => s.west
def State.setPort (s : State) (p : Port) (x : PortState) : State := match p with
  | .east => { s with east := x }
  | .west => { s with west := x }
def otherPort : Port → Port
  | .east => .west
  | .west => .east

/-- Hops to a position, going east (R373). -/
def State.hopsEast (s : State) (pos : Nat) : Nat := let n := s.lgNm1.toNat + 1; (pos + n - s.lgPos.toNat) % n
def State.hopsWest (s : State) (pos : Nat) : Nat := let n := s.lgNm1.toNat + 1; (s.lgPos.toNat + n - pos) % n
/-- The port toward a position: fewer hops, east on a tie (R373); messages take no other way (R376). -/
def State.sideTo (s : State) (pos : Nat) : Port := if s.hopsEast pos ≤ s.hopsWest pos then .east else .west

/-! ### Flits (R374) -/

/-- One bit of CRC-64 with the polynomial of ECMA-182, most significant bit first. -/
def crcBit (c : BitVec 64) : BitVec 64 := if c.msb then (c <<< 1) ^^^ 0x42F0E1EBA9EA3693 else c <<< 1
def crcByte (c : BitVec 64) (b : Byte) : BitVec 64 := (List.range 8).foldl (fun x _ => crcBit x) (c ^^^ (b.setWidth 64 <<< 56))
/-- CRC-64 of a byte string; the start value 0, the bit order and no final inversion are those of ECMA-182, which R374 names (log 100, PRESUMED). -/
def crc64 (bs : List Byte) : BitVec 64 := bs.foldl crcByte 0

def flitBytes : Nat := 256
def flitNum (bs : List Byte) : BitVec 2048 := BitVec.ofNat 2048 (leNat bs)
def flSeq (d : BitVec 2048) : BitVec 16 := d.extractLsb' 0 16
def flAck (d : BitVec 2048) : BitVec 16 := d.extractLsb' 16 16
def flNak (d : BitVec 2048) : Bool := d.getLsbD 32
def flSrc (d : BitVec 2048) : Nat := fld d 33 3
def flDst (d : BitVec 2048) : Nat := fld d 36 3
def flCrc (d : BitVec 2048) : BitVec 64 := d.extractLsb' 1984 64
def flitCrcOk (bs : List Byte) : Bool := crc64 (bs.take 248) == flCrc (flitNum bs)
/-- Good CRC and the next sequence number. -/
def flitOk (x : PortState) (bs : List Byte) : Bool := flitCrcOk bs && flSeq (flitNum bs) == x.rxNext
/-- The k-th slot of a flit: 48 bytes. -/
def flitSlot (bs : List Byte) (k : Nat) : List Byte := (bs.drop (8 + 48 * k)).take 48
/-- The class of a slot: 3 is an empty one. -/
def slotClass (b : List Byte) : Nat := match b with
  | x :: _ => x.toNat % 4
  | [] => 3
def emptySlot : List Byte := (3 : Byte) :: List.replicate 47 0
/-- A flit to send: five slots under a header. -/
def flitMake (seq ack : BitVec 16) (nak : Bool) (src dst : Nat) (slots : List (List Byte)) : List Byte :=
  let head := leBytes 8 (seq.toNat + ack.toNat * 2 ^ 16 + (if nak then 2 ^ 32 else 0) + src % 8 * 2 ^ 33 + dst % 8 * 2 ^ 36)
  let body := head ++ ((slots ++ List.replicate 5 emptySlot).take 5).flatten
  body ++ leBytes 8 (crc64 body).toNat

/-! ### Messages (R251, R378 to R381) -/

/-- The traffic class of a message (R251, R374): 0 request, 1 reply, 2 control. -/
def msgClass : Config.RingMsg → Nat
  | .write .. | .read .. | .atomic .. | .contribution .. => 0
  | .reply .. | .done .. | .stranger .. => 1
  | _ => 2
/-- The slots of a message: its class and type in byte 0, the rest as Config has it. -/
def msgSlots (m : Config.RingMsg) : List (List Byte) :=
  (Config.slotFirst m :: Config.slotRest m).map (fun b => BitVec.ofNat 8 (msgClass m + 4 * (Config.slotType m).toNat) :: (b ++ List.replicate 47 0).take 47)

/-- The operation of two mergeable operations together, from its opcode, on W-bit operands (R379): integers exactly, sums modulo 2^W, floating
sums with RNE. -/
def mergeValue (opc : Nat) (f : Fmt) (a b : Nat) : Nat := match opc with
  | 0x0A0 | 0x0B0 => (a + b) % 2 ^ f.width
  | 0x0A1 => if toSigned f.width a ≤ toSigned f.width b then a else b
  | 0x0A2 => if toSigned f.width a ≤ toSigned f.width b then b else a
  | 0x0A3 => min a b
  | 0x0A4 => max a b
  | 0x0A5 => a &&& b
  | 0x0A6 => a ||| b
  | 0x0A7 => a ^^^ b
  | 0x0B1 => if f.isSigned then (if toSigned f.width a ≤ toSigned f.width b then a else b) else min a b
  | 0x0B2 => if f.isSigned then (if toSigned f.width a ≤ toSigned f.width b then b else a) else max a b
  | _ => (f.convert .rne false (XReal.add false (f.value a) (f.value b))).1
/-- Two waiting operations as one: the same address, operation and format. -/
def mergeMsgs : Config.RingMsg → Config.RingMsg → Option Config.RingMsg
  | .atomic xs w o op f a _ true, .atomic ys _ o2 op2 f2 b _ true =>
    if o = o2 ∧ op = op2 ∧ f = f2 then (match Fmt.ofCode f with
      | some x => some (.atomic (xs ++ ys) w o op f (BitVec.ofNat 64 (mergeValue op x (a.toNat % 2 ^ x.width) (b.toNat % 2 ^ x.width))) 0 true)
      | none => none)
    else none
  | _, _ => none

/-- The slots of a message from a position to another. -/
def slotsOf (src dst : Nat) (m : Config.RingMsg) : List RingSlot :=
  (msgSlots m).map (fun b => { cls := msgClass m, src := src, dst := dst, bytes := b })
/-- A slot as it leaves at a device time: a TIME message has gained the time that it has stayed here (R381). -/
def RingSlot.leave (x : RingSlot) (now : Nat) : List Byte := match x.stamp with
  | some (t, came) => (msgSlots (.time (t + (now - came)))).headD x.bytes
  | none => x.bytes
/-- The operation of a slot, where its message is that one slot. -/
def slotOp (x : RingSlot) : Config.RingMsg :=
  let m := Config.slotMessage x.bytes
  if (Config.slotRest m).isEmpty then m else .other
/-- A slot joins those that wait at a port: merged into one that R379 lets it merge with, else at the end. -/
def enqueue (l : List RingSlot) (x : RingSlot) : List RingSlot :=
  match l with
  | [] => [x]
  | y :: r => match (if y.dst = x.dst then mergeMsgs (slotOp y) (slotOp x) else none) with
    | some m => slotsOf y.src y.dst m ++ r
    | none => y :: enqueue r x
/-- Flits of the waiting slots, in their order, up to five of one origin and destination in each, while the port is up and the replay buffer of 1,024
flits has room (R375). As every slot that waits leaves once there is room, and none holds back another class (R252), the classes need no buffers of their own. -/
def State.drain (s : State) (p : Port) (nak : Bool) : Nat → State
  | 0 => s
  | fuel + 1 =>
    let x := s.port p
    match x.out with
    | [] => s
    | h :: _ =>
      if x.replay.length ≥ 1024 || !x.up then s
      else
        let mine (y : RingSlot) : Bool := y.src == h.src && y.dst == h.dst
        let now := (x.out.filter mine).take 5
        let f := flitMake x.txNext (x.rxNext - 1) (nak || x.nak) h.src h.dst (now.map (fun y => y.leave s.time))
        let rest := (x.out.filter mine).drop 5 ++ x.out.filter (fun y => !(mine y))
        let s1 := s.setPort p { x with txNext := x.txNext + 1, replay := x.replay ++ [f], nak := false, out := rest }
        ({ s1 with outputs := s1.outputs ++ [.flit p f] } : State).drain p false fuel
/-- Slots to send at a port. -/
def State.sendSlots (s : State) (p : Port) (l : List RingSlot) : State :=
  let x := s.port p
  let out := l.foldl enqueue x.out
  (s.setPort p { x with out := out }).drain p false out.length
/-- A message of this device to a position, on the way with fewer hops (R373). -/
def State.sendMessage (s : State) (dst : Nat) (m : Config.RingMsg) : State := s.sendSlots (s.sideTo dst) (slotsOf s.lgPos.toNat dst m)
/-- The position at the other end of a port (R373). -/
def State.neighbour (s : State) (p : Port) : Nat :=
  let n := s.lgNm1.toNat + 1
  match p with
  | .east => (s.lgPos.toNat + 1) % n
  | .west => (s.lgPos.toNat + n - 1) % n
/-- A message of this device out of a port, to the neighbour there. -/
def State.sendNext (s : State) (p : Port) (m : Config.RingMsg) : State := s.sendSlots p (slotsOf s.lgPos.toNat (s.neighbour p) m)
/-- A TIME message out of a port: it says `t` at this moment, and what the device time is when its flit leaves (R381). -/
def State.sendTime (s : State) (p : Port) (t : Nat) : State :=
  s.sendSlots p ((slotsOf s.lgPos.toNat (s.neighbour p) (.time t)).map (fun x => { x with stamp := some (t, s.time) }))
/-- A message to every other member that a mask names. -/
def State.sendGroup (s : State) (mask : BitVec 8) (m : Config.RingMsg) : State :=
  if !s.lgEn then s
  else ((List.range 8).filter (fun k => mask.getLsbD k && k != s.lgPos.toNat && k ≤ s.lgNm1.toNat)).foldl (fun t k => t.sendMessage k m) s
/-- A request into the window at its home, which waits for a reply (R378). -/
def State.askWindow (s : State) (home : Nat) (mk : Nat → Config.RingMsg) : State :=
  let tag := s.rel.nextTag
  let m := mk tag
  ({ s with rel := { s.rel with
      nextTag := tag + 1, fresh := s.rel.fresh ++ [tag], window := s.rel.window ++ [{ tag := tag, home := home, msg := m }] } } : State).sendMessage home m
/-- A write into the window that no access waits for. -/
def State.tellWindow (s : State) (home off : Nat) (bs : List Byte) : State :=
  let s1 := s.askWindow home (fun tag => .write tag s.cur off bs)
  { s1 with rel := { s1.rel with fresh := s.rel.fresh } }
/-- The requests that lie between two states. -/
def newTags (a b : State) : List Nat := List.range' a.rel.nextTag (b.rel.nextTag - a.rel.nextTag)
/-- The requests made since the last call are taken by the access that made them. -/
def State.takeFresh (s : State) : State := { s with rel := { s.rel with fresh := [] } }
/-- A request of the list has no reply yet. -/
def State.awaitsReply (s : State) (tags : List Nat) : Bool := tags.any (fun t => s.rel.window.any (fun w => w.tag == t))

/-- Flits up to an acknowledged number leave the replay buffer; a number that is not in it acknowledges none. -/
def dropAcked (ack : BitVec 16) (l : List (List Byte)) : List (List Byte) :=
  if l.any (fun f => flSeq (flitNum f) == ack) then (l.dropWhile (fun f => flSeq (flitNum f) != ack)).tail else l
/-- Every flit of the replay buffer is sent again, in order (R375, R376). -/
def State.resend (s : State) (p : Port) : State := { s with outputs := s.outputs ++ (s.port p).replay.map (fun f => .flit p f) }
/-- What an accepted flit's header says about the other direction: acknowledgement and replay; waiting slots then go out. -/
def State.takeAck (s : State) (p : Port) (d : BitVec 2048) : State :=
  let x := s.port p
  let s1 := s.setPort p { x with replay := dropAcked (flAck d) x.replay }
  let s2 := if flNak d then s1.resend p else s1
  s2.drain p false x.out.length
/-- The neighbour is to replay: a flit with NAK goes out, or the mark stands until one can (R375). -/
def State.sendNak (s : State) (p : Port) : State :=
  let x := s.port p
  let me := s.lgPos.toNat
  let s1 := s.setPort p { x with nak := true, out := if x.out.isEmpty then [{ cls := 3, src := me, dst := me, bytes := emptySlot }] else x.out }
  s1.drain p true (s1.port p).out.length

end Sys2Proof.Machine
end

