-- ==== Sys2Proof/Machine/Physical.lean ====
section
/-! DEFINITION. Physical memory: the dies under their two windows (R281, R287, R288), the L2's dirty lines, host and pool memory,
poison (R305, R389), row states (R290), page ownership (R302) and the unpublished bits of code lines (R278). -/

namespace Sys2Proof.Machine

/-- The address that a base register gives: its alignment makes the low bits zero, whatever the register holds (R352; log 65, DEDUCED). -/
def alignedBase (k : Nat) (v : Word) : Nat := ((v >>> k) <<< k).toNat

/-- Interleaved offset to bank-linear offset (R288). -/
def ilToBl (i : Nat) : Nat :=
  let n := i / 256 % 64
  let d := i / 16384 * 256 + i % 256
  d / 32768 * 2 ^ 21 + n * 32768 + d % 32768

/-- Bank-linear offset to interleaved offset. -/
def blToIl (l : Nat) : Nat :=
  let d := l / 2 ^ 21 * 32768 + l % 32768
  d / 256 * 16384 + l / 32768 % 64 * 256 + d % 256

/-- The device bank number, row, column and die of a bank-linear offset (R287). -/
def blBank (l : Nat) : Nat := l / 2 ^ 10 % 2 ^ 11
def blRow (l : Nat) : Nat := l / 2 ^ 21
def blCol (l : Nat) : Nat := l % 2 ^ 10
def blDie (l : Nat) : Nat := l / 2 ^ 15 % 64
/-- BGAU index (R287). -/
def blBgau (l : Nat) : Nat := l / 2 ^ 12 % 2 ^ 9
/-- The key of a bank row in the row-state tables. -/
def rowKey (l : Nat) : Nat := blBank l * 2 ^ 17 + blRow l
/-- The page of a key-value space at an offset: one furlong of one BGAU (R298). -/
def pageKey (l : Nat) : Nat := blRow l * 512 + blBgau l

/-! ### The league's reduction window (R377) -/

/-- Home of a frame address: this device's own offset, or a position and the offset there. -/
inductive WinHome where
  | plain (off : Nat)
  | remote (pos : Nat) (off : Nat)
  deriving DecidableEq, Repr

/-- Position and members minus one, as steps and reductions count them: a device in no league is alone (R235, R237). -/
def State.ringPos (s : State) : Nat := if s.lgEn then s.lgPos.toNat else 0
def State.ringNm1 (s : State) : Nat := if s.lgEn then s.lgNm1.toNat else 0
/-- The resolution of R377 for a DEV.IL frame address. -/
def State.windowHome (s : State) (i : Nat) : WinHome :=
  let b := alignedBase 21 s.lwpbase
  if s.lgEn && b ≤ i && i < b + s.lwsize.toNat then
    let o := i - b
    let m := s.lmsize.toNat
    if o < m then .plain i
    else
      let n := s.lgNm1.toNat + 1
      let u := (o - m) / 2 ^ 21
      let pos := u % n
      let a := b + m + u / n * 2 ^ 21 + o % 2 ^ 21
      if pos = s.lgPos.toNat then .plain a else .remote pos a
  else .plain i
/-- The bytes of this device, by interleaved offset, that no access reaches while EN = 1: behind its part of the window (R377). The stretch is
one of whole 2 MiB blocks, which the two windows number alike. -/
def State.windowTail (s : State) (i : Nat) : Bool :=
  let n := s.lgNm1.toNat + 1
  let b := alignedBase 21 s.lwpbase
  s.lgEn && b + s.lmsize.toNat + ((s.lwsize.toNat - s.lmsize.toNat) / 2 ^ 21 + n - 1) / n * 2 ^ 21 ≤ i && i < b + s.lwsize.toNat

/-- A byte's place: where it is kept, by bank-linear offset for device memory. -/
def physLoc (sp : MemSpace) (off : Nat) : Nat :=
  match sp with
  | .il => ilToBl off
  | .bl => off
  | .host | .pool => off

/-- One key per byte of all memory, for release clocks (R267). -/
def locKey (sp : MemSpace) (off : Nat) : Nat :=
  match sp with
  | .il | .bl => physLoc sp off
  | .host => 2 ^ 60 + off
  | .pool => 2 * 2 ^ 60 + off
def lmKey (core off : Nat) : Nat := 5 * 2 ^ 60 + core * 2 ^ 21 + off

/-- The number of a 64-byte unit of a space among those of all memory. -/
def unitKey (sp : MemSpace) (u : Nat) : Nat := match sp with
  | .il | .bl => u
  | .host => 2 ^ 46 + u
  | .pool => 2 * 2 ^ 46 + u
/-- The dirty line that the L2 holds of a unit. -/
def State.dirtyLine (s : State) (sp : MemSpace) (u : Nat) : Option (BitVec 512) := match sp with
  | .il => tabFind s.l2 u
  | .bl => none
  | .host => tabFind s.hostL2 u
  | .pool => tabFind s.poolL2 u
/-- One byte of a die: a CONST row reads as its constant (R290). -/
def State.dieByte (s : State) (l : Nat) : Byte :=
  match tabFind s.rows (rowKey l) with
  | some (.const v _) => BitVec.ofNat 8 (v.toNat / 256 ^ (blCol l % 4))
  | _ => Memory.get s.dev l

/-- The 64 bytes of a line as a number, from a byte reader. -/
def lineFrom (rd : Nat → Byte) (line : Nat) : BitVec 512 :=
  BitVec.ofNat 512 (leNat ((List.range 64).map (fun i => rd (64 * line + i))))

/-- One byte as a reader of the space sees it: the dirty L2 line first, but for DEV.BL, which reads the dies (R282). -/
def State.physByte (s : State) (sp : MemSpace) (off : Nat) : Byte :=
  let l := physLoc sp off
  let topped (t : Tab (BitVec 512)) (below : Byte) : Byte :=
    match tabFind t (l / 64) with
    | some d => d.extractLsb' (8 * (l % 64)) 8
    | none => below
  match sp with
  | .il => topped s.l2 (s.dieByte l)
  | .bl => s.dieByte l
  | .host => topped s.hostL2 (Memory.get s.host l)
  | .pool => topped s.poolL2 (Memory.get s.pool l)

def State.physRead (s : State) (sp : MemSpace) (off n : Nat) : List Byte :=
  (List.range n).map (fun i => s.physByte sp (off + i))

/-- Is the unit poisoned that an access through a window meets: the dirty line has a mark of its own (R389). -/
def State.poisoned (s : State) (sp : MemSpace) (u : Nat) : Bool :=
  match sp with
  | .il => if (tabFind s.l2 u).isSome then s.arr.l2Poison.contains u else s.devPoison.contains u
  | .bl => s.devPoison.contains u
  | .host => s.hostPoison.contains u
  | .pool => s.poolPoison.contains u
/-- Mark the unit that an access through a window meets as poisoned, or as good. -/
def State.markUnit (s : State) (sp : MemSpace) (b : Bool) (u : Nat) : State :=
  match sp with
  | .il => if (tabFind s.l2 u).isSome then { s with arr := { s.arr with l2Poison := setPut s.arr.l2Poison u b } }
    else { s with devPoison := setPut s.devPoison u b }
  | .bl => { s with devPoison := setPut s.devPoison u b }
  | .host => { s with hostPoison := setPut s.hostPoison u b }
  | .pool => { s with poolPoison := setPut s.poolPoison u b }

/-- The 64-byte units that a range touches. -/
def unitsOf (sp : MemSpace) (off n : Nat) : List Nat :=
  if n = 0 then [] else (List.range ((off + n - 1) / 64 - off / 64 + 1)).map (fun i => physLoc sp (64 * (off / 64 + i)) / 64)

/-- Does a read of the unit reach the dies: every DEV.BL read, and a DEV.IL read without a dirty line above it. -/
def State.readsDie (s : State) (sp : MemSpace) (u : Nat) : Bool :=
  (tabFind s.rows (rowKey (64 * u))).isNone &&
  match sp with
  | .il => (tabFind s.l2 u).isNone
  | .bl => true
  | .host | .pool => false

/-- A read of the unit meets lost data: poison, or an uncorrectable error of the dies or of a dirty line (R304, R389); a clean copy of the L2 in
error is fetched again, but where the directory's entry of the line is lost as well (R391). -/
def State.lost (s : State) (sp : MemSpace) (u : Nat) : Bool :=
  s.poisoned sp u || (s.readsDie sp u && s.devUe.contains u) ||
  (s.arr.l2Ue.contains (unitKey sp u) && ((s.dirtyLine sp u).isSome || (s.arr.dirBad.contains (unitKey sp u) && sp != .bl)))
/-- Sub-cause of DATA_POISON by place (R262's table): of device memory, 1 where the first unit lost is a dirty line of the L2. -/
def State.poisonSub (s : State) (sp : MemSpace) (off n : Nat) : Nat :=
  match sp with
  | .bl => 2 | .host => 3 | .pool => 4
  | .il => match (unitsOf sp off n).find? (fun u => s.lost sp u) with
    | some u => if (tabFind s.l2 u).isSome then 1 else 2
    | none => 2

/-! ### Writes -/

/-- Patch bytes `[at, at + bs.length)` of a line. -/
def patchLine (d : BitVec 512) (pos : Nat) (bs : List Byte) : BitVec 512 :=
  bs.zipIdx.foldl (fun acc b => setFld acc (8 * (pos + b.2)) 8 b.1.toNat) d

/-- Write one byte's line in a table of dirty lines over a byte reader. -/
def patchOver (t : Tab (BitVec 512)) (rd : Nat → Byte) (l : Nat) (b : Byte) : Tab (BitVec 512) :=
  let line := l / 64
  let d := match tabFind t line with
    | some d => d
    | none => lineFrom rd line
  tabPut t line (setFld d (8 * (l % 64)) 8 b.toNat)

/-- A unit of the dies has been written: what was in error goes, what was due for it is off, and the mark comes or goes (R304, R305). -/
def State.dieWritten (s : State) (bad : Bool) (u : Nat) : State :=
  { s with
    devPoison := setPut s.devPoison u bad, devUe := setDel s.devUe u, devCe := setDel s.devCe u
    xpwrDue := setDel s.xpwrDue u, scrubDue := setDel s.scrubDue u }
/-- Bring a dirty L2 line of device memory back to the dies, with its mark (R281, R389); a CONST row is never dirtied (R291). -/
def State.writeBackDev (s : State) (line : Nat) : State :=
  match tabFind s.l2 line with
  | some d =>
    let bad := s.arr.l2Poison.contains line || s.arr.l2Ue.contains line
    ({ s with
      dev := s.dev.write (64 * line) (leBytes 64 d.toNat), l2 := tabErase s.l2 line
      arr := { s.arr with l2Poison := setDel s.arr.l2Poison line, l2Ue := setDel s.arr.l2Ue line, l2Ce := setDel s.arr.l2Ce line } } : State).dieWritten bad line
  | none => s
/-- The L2 holds the line of a unit no more, and with it goes what was in error there. -/
def State.cleanHome (s : State) (key : Nat) : State :=
  { s with arr := { s.arr with l2Ue := setDel s.arr.l2Ue key, l2Ce := setDel s.arr.l2Ce key } }
/-- The same for a line of host or pool memory, whose mark goes with it (R389). -/
def State.writeBackHost (s : State) (line : Nat) : State :=
  match tabFind s.hostL2 line with
  | some d => ({ s with host := s.host.write (64 * line) (leBytes 64 d.toNat), hostL2 := tabErase s.hostL2 line } : State).cleanHome (unitKey .host line)
  | none => s
def State.writeBackPool (s : State) (line : Nat) : State :=
  match tabFind s.poolL2 line with
  | some d => ({ s with pool := s.pool.write (64 * line) (leBytes 64 d.toNat), poolL2 := tabErase s.poolL2 line } : State).cleanHome (unitKey .pool line)
  | none => s

/-- Store one byte. DEV.IL and cached host and pool lines go dirty in the L2; a DEV.BL write goes to the die, after the home slice
has written back and dropped its line (R281). -/
def State.putByte (s : State) (sp : MemSpace) (off : Nat) (b : Byte) : State :=
  let l := physLoc sp off
  match sp with
  | .il => { s with l2 := patchOver s.l2 s.dieByte l b }
  | .bl => let s := s.writeBackDev (l / 64); { s with dev := s.dev.write l [b] }
  | .host => { s with hostL2 := patchOver s.hostL2 (Memory.get s.host) l b }
  | .pool => { s with poolL2 := patchOver s.poolL2 (Memory.get s.pool) l b }

/-! ### Code frames (R278) -/

/-- Page size of an SZ code (R347). -/
def pageSize (sz : Nat) : Nat :=
  if sz < 4 then 4096 * 4 ^ sz else if sz < 9 then 2 ^ 21 * 4 ^ (sz - 4) else 2 ^ 30 * 4 ^ (sz - 9)

def pteSpace (p : BitVec 64) : MemSpace :=
  match fld p 6 2 with
  | 0 => .il | 1 => .bl | 2 => .host | _ => .pool
def pteFrame (p : BitVec 64) : Nat := fld p 12 40 * 4096
def pteSize (p : BitVec 64) : Nat := pageSize (fld p 8 4)

/-- Bytes of a structure in DEV.IL frames (R346, R352), which the window sends to their home as any others (R377): those of another device are
free values. -/
def State.ilRead (s : State) (off n : Nat) : List Byte := match s.windowHome off with
  | .plain a => s.physRead .il a n
  | .remote pos a => (List.range n).map (fun i => (Config.freeBits (s.fv + 620 + pos) (a + i)).extractLsb' 0 8)
/-- A 64-bit entry of a table in DEV.IL frames. -/
def State.ilWord (s : State) (off : Nat) : BitVec 64 := BitVec.ofNat 64 (leNat (s.ilRead off 8))

/-- One key per 64-byte line over the spaces; a device line has one key under both windows. -/
def lineKey (sp : MemSpace) (off : Nat) : Nat :=
  match sp with
  | .il | .bl => physLoc sp off / 64
  | .host => 2 ^ 46 + off / 64
  | .pool => 2 * 2 ^ 46 + off / 64
/-- The space and offset of a line, a device line by its interleaved offset. -/
def keyPlace (key : Nat) : MemSpace × Nat :=
  match key / 2 ^ 46 with
  | 0 => (.il, blToIl (64 * key))
  | 1 => (.host, 64 * (key % 2 ^ 46))
  | _ => (.pool, 64 * (key % 2 ^ 46))

/-- The bytes of a range of DEV.IL that memory or a dirty line lists, by their offset in the range. -/
def State.ilListed (s : State) (base size : Nat) : List Nat :=
  (s.dev.filterMap (fun c => let i := blToIl c.1; if base ≤ i && i < base + size then some (i - base) else none)) ++
  s.l2.flatMap (fun x => let i := blToIl (64 * x.1); if base ≤ i && i < base + size then (List.range 64).map (i - base + ·) else [])
/-- A leaf that maps a range with execute permission. -/
structure ExecMap where
  pasid : Nat
  space : MemSpace
  base : Nat
  size : Nat
  deriving DecidableEq, Repr
/-- The leaves with execute permission under a table of a level; an entry that is not listed is 0. -/
def State.execLeaves (s : State) (pasid : Nat) : Nat → Nat → List ExecMap
  | lvl, table => (((s.ilListed table 4096).map (· / 8)).eraseDups).flatMap (fun k =>
      let p := s.ilWord (table + 8 * k)
      if !(p.getLsbD 0) then []
      else if p.getLsbD 1 then (if p.getLsbD 4 then [⟨pasid, pteSpace p, pteFrame p, pteSize p⟩] else [])
      else match lvl with
        | 0 => []
        | l + 1 => s.execLeaves pasid l (pteFrame p))
/-- Every execute mapping of every context (R346, R347). -/
def State.execMaps (s : State) : List ExecMap :=
  (((s.ilListed (alignedBase 24 s.ptbase) (2 ^ 24)).map (· / 16)).eraseDups).flatMap (fun k =>
    let p := s.ilWord (alignedBase 24 s.ptbase + 16 * k)
    if p.getLsbD 0 then s.execLeaves k 4 (pteFrame p) else [])
/-- The line lies in a range of a space. -/
def lineIn (sp : MemSpace) (base size key : Nat) : Bool :=
  let x := keyPlace key
  match sp with
  | .bl => x.1 == .il && base ≤ 64 * key && 64 * key < base + size
  | sp => x.1 == sp && base ≤ x.2 && x.2 < base + size
/-- The line belongs to a code frame: some entry maps it with execute permission. -/
def codeLine (l : List ExecMap) (key : Nat) : Bool := l.any (fun m => lineIn m.space m.base m.size key)

/-- A write sets U of every code line it touches, and is remembered as one of the line's setters (R278); of a line that is in no code frame
no fetch copy and no mark stays. -/
def addSetter (t : List UnpubLine) (line : Nat) (party : Party) (stamp : Nat) : List UnpubLine :=
  match t with
  | [] => [⟨line, [(party, stamp)]⟩]
  | u :: r =>
    if u.line = line then { u with setters := (party, stamp) :: u.setters.filter (fun x => x.1 != party) } :: r
    else u :: addSetter r line party stamp
/-- The lines that a range touches. -/
def linesOf (sp : MemSpace) (off n : Nat) : List Nat :=
  if n = 0 then [] else (List.range ((off + n - 1) / 64 - off / 64 + 1)).map (fun i => lineKey sp (64 * (off / 64 + i)))
/-- Lines that nothing tracks lose their fetch copies and their marks. -/
def State.untrack (s : State) (ls : List Nat) : State :=
  { s with
    ubits := s.ubits.filter (fun u => !(ls.contains u.line))
    cores := s.cores.map (fun x => (x.1, { x.2 with icache := x.2.icache.filter (fun k => !(ls.contains k.1)) })) }
def State.touchCode (s : State) (party : Party) (sp : MemSpace) (off n : Nat) : State :=
  if n = 0 then s
  else
    let maps := s.execMaps
    let ls := linesOf sp off n
    let s1 := s.untrack (ls.filter (fun k => !(codeLine maps k)))
    { s1 with wcount := s.wcount + 1, ubits := (ls.filter (codeLine maps)).foldl (fun t k => addSetter t k party (s.wcount + 1)) s1.ubits }

/-- Lines whose last execute mapping has gone leave tracking, and their fetch copies with them (R278). -/
def State.dropUncoded (s : State) : State :=
  let l := s.execMaps
  { s with
    ubits := s.ubits.filter (fun u => codeLine l u.line)
    cores := s.cores.map (fun x => (x.1, { x.2 with icache := x.2.icache.filter (fun k => codeLine l k.1) })) }

/-- The byte of a location's key lies in a range of a space. -/
def keyIn (sp : MemSpace) (off n key : Nat) : Bool :=
  match sp with
  | .il => key < 2 ^ 60 && off ≤ blToIl key && blToIl key < off + n
  | sp => locKey sp off ≤ key && key < locKey sp off + n
/-- The party whose events a party's are: an engine's accesses for a strand are the strand's (R20, R271). -/
def Party.agent : Party → Party
  | .copy n => .strand n
  | .memory n _ => .strand n
  | p => p
/-- A plain write ends the release sequences at the bytes it touches (R268): those of other parties, and its own where an atomic of another
party has followed. -/
def endAt (party : Party) (t : Tab (List Rel)) (hit : Nat → Rel → Bool) : Tab (List Rel) :=
  t.filterMap (fun x => match x.2.filter (fun r => !(hit x.1 r) || (r.owner.agent == party.agent && !r.mixed)) with
    | [] => none
    | l => some (x.1, l))
def State.endSequences (s : State) (party : Party) (sp : MemSpace) (off n : Nat) : State :=
  { s with rel := { s.rel with at_ := endAt party s.rel.at_ (fun k _ => keyIn sp off n k) } }
/-- The same for local memory, where a record goes with any of its bytes; what a fill releases goes with the fill alone (R267). -/
def State.endLocal (s : State) (party : Party) (core off n : Nat) : State :=
  { s with rel := { s.rel with at_ := endAt party s.rel.at_ (fun k r => r.size != 0 && decide (k < lmKey core off + n) && decide (lmKey core off < k + r.size)) } }

/-- Store consecutive bytes. -/
def State.putBytes (s : State) (sp : MemSpace) (off : Nat) (bs : List Byte) : State := bs.zipIdx.foldl (fun t b => t.putByte sp (off + b.2) b.1) s
/-- Units written whole lose their poison, and the storage written its errors (R305, R389). -/
def State.cleanUnit (s : State) (sp : MemSpace) (u : Nat) : State :=
  match sp with
  | .bl => s.dieWritten false u
  | sp => (s.cleanHome (unitKey sp u)).markUnit sp false u
def State.cleanUnits (s : State) (sp : MemSpace) (full : List Nat) : State := full.foldl (fun t u => t.cleanUnit sp u) s
/-- The units that a range covers whole. -/
def wholeUnits (sp : MemSpace) (off n : Nat) : List Nat :=
  (unitsOf sp off n).filter (fun u => (List.range n).countP (fun i => physLoc sp (off + i) / 64 == u) == 64)

/-- Put bytes in their place as `party`. `whole` says that the writer replaces whole lines or units and so clears their poison (R305,
R389). -/
def State.storeMem (s : State) (party : Party) (whole : Bool) (sp : MemSpace) (off : Nat) (bs : List Byte) : State :=
  let s1 := ((s.putBytes sp off bs).touchCode party sp off bs.length).endSequences party sp off bs.length
  if whole then s1.cleanUnits sp (wholeUnits sp off bs.length) else s1

/-- Mark the units of a range as poisoned. -/
def State.poisonRange (s : State) (sp : MemSpace) (off n : Nat) : State := (unitsOf sp off n).foldl (fun t u => t.markUnit sp true u) s

/-- A running command's copies out, by the translation of its start, reach into a range (R293, R349). -/
def State.outsIn (s : State) (sp : MemSpace) (off n : Nat) : Bool :=
  s.quads.any (fun x => x.2.q.any (fun c => c.started && !c.finished && c.outs.any (fun o => o.2.any (fun p => match p with
    | .mem sp2 o2 n2 _ => sp2 == sp && o2 < off + n && off < o2 + n2
    | _ => false))))

/-! ### Device time and the machine error log (R306, R387, R388) -/

def nsPerSec : Nat := 1000000000
def State.sec (s : State) : Nat := s.time / nsPerSec
def State.nsec (s : State) : Nat := s.time % nsPerSec

/-- The contents of a machine error record (R388). -/
structure ErrInfo where
  cls : Nat
  ukind : Nat
  unit : Nat
  evt : Nat
  addr : Nat := 0
  count : Nat := 0
  stepv : Nat := 0
  gmask : Nat := 0

/-- The group masks for which this device holds a committed step (R392). -/
def State.stepMasks (s : State) : List Nat := (s.groups.filter (fun g => g.2.own != 0)).map Prod.fst
/-- Unit and League errors are signalled non-fatal, Fatal ones fatal (R387); a Fatal record makes the device originate its aborts
(R392). -/
def State.signalError (s : State) (cls : Nat) : State :=
  if cls ≥ 3 then { s with
    outputs := s.outputs ++ [.cxlError (cls == 5)], abortDue := if cls = 5 then s.stepMasks.foldl setAdd s.abortDue else s.abortDue } else s
/-- A structure that the hardware keeps at a physical base in DEV.IL (R346, R352, R388) is written at its home, wherever the window has it
(R377). -/
def State.storeIl (s : State) (party : Party) (whole : Bool) (off : Nat) (bs : List Byte) : State := match s.windowHome off with
  | .plain a => s.storeMem party whole .il a bs
  | .remote pos a => s.tellWindow pos a bs
/-- A machine error record (R388). -/
def State.errorRecord (s : State) (i : ErrInfo) : Nat :=
  i.cls + i.ukind * 2 ^ 4 + i.unit * 2 ^ 12 + i.evt * 2 ^ 24 + s.mehead.toNat * 2 ^ 32 + i.addr * 2 ^ 64 +
    (i.count % 2 ^ 32) * 2 ^ 128 + s.nsec * 2 ^ 160 + (s.sec % 2 ^ 48) * 2 ^ 192 + i.stepv * 2 ^ 256 + i.gmask * 2 ^ 304
def State.setMehead (s : State) (n : BitVec 32) : State := { s with mehead := n }
def State.setMelost (s : State) (n : Word) : State := { s with melost := n }
/-- Post to the machine error log; a full ring loses the record and counts it (R387, R388). -/
def State.postError (s : State) (i : ErrInfo) : State :=
  if (s.mehead - s.metail.setWidth 32).toNat == 2 ^ s.mesize then (s.signalError i.cls).setMelost (s.melost + 1)
  else
    ((s.signalError i.cls).storeIl (.device .service) true (alignedBase 12 s.mebase + 64 * (s.mehead.toNat % 2 ^ s.mesize))
      (leBytes 64 (s.errorRecord i))).setMehead (s.mehead + 1)

/-- A corrected-error counter step: a Corrected record at every nonzero multiple of 2^CETHR (R387). -/
def State.countCorrected (s : State) (ukind unit : Nat) (n : BitVec 32) : State :=
  if n != 0 && n.toNat % 2 ^ s.cethr.toNat == 0 then s.postError { cls := 1, ukind := ukind, unit := unit, evt := 0, count := n.toNat } else s

/-! ### Reads and the errors they meet (R254, R304, R387, R389, R391) -/

/-- Saturating count of errors (R304, R387). -/
def satInc (x : BitVec 32) : BitVec 32 := if x = 0xFFFFFFFF then x else x + 1
/-- The L2 slice that is home to a unit (log 15, DESIGN CHOICE). -/
def sliceOf (u : Nat) : Nat := (Config.homeQuad u).toNat

/-- The effect of one unit's read on the die's error state (R304): counts rise, a Corrected record at the threshold; an uncorrectable
unit is queued for its mark, with a Contained record (log 23, DEDUCED). -/
def State.noteDie (s : State) (u : Nat) : State :=
  let d := blDie (64 * u)
  let e := tabGet s.dieErr {} d
  if s.devPoison.contains u then s
  else if s.devUe.contains u && !(s.xpwrDue.contains u) then
    ({ s with dieErr := tabSet s.dieErr {} d { e with ue := satInc e.ue }, xpwrDue := setAdd s.xpwrDue u } : State).postError
      { cls := 2, ukind := 4, unit := d, evt := 1, addr := 64 * u }
  else if s.devCe.contains u then
    ({ s with dieErr := tabSet s.dieErr {} d { e with ce := satInc e.ce } } : State).countCorrected 4 d (satInc e.ce)
  else s
/-- Stamped copies and L1 copies of a line go (R391). -/
def State.snoopL1s (s : State) (sp : MemSpace) (u : Nat) : State :=
  let k := unitKey sp u
  { s with
    arr := { s.arr with l1Bad := s.arr.l1Bad.filter (fun x => x.2 != k) }
    cores := s.cores.map (fun x => (x.1, { x.2 with stamps := x.2.stamps.filter (fun y => y.line != k) })) }
/-- The home copy of a line is uncorrectable: the slice's own, or memory's where the slice has none (R391, step 4). -/
def State.homeLost (s : State) (sp : MemSpace) (u : Nat) : Bool :=
  s.arr.l2Ue.contains (unitKey sp u) || ((s.dirtyLine sp u).isNone && sp == .il && s.devUe.contains u && !(s.devPoison.contains u))
/-- A directory entry is read in error: every L1 is snooped, what a dirty one holds is in the home line already, the entry is rebuilt; the line is
poisoned where its home copy is lost as well, with one record (R391). The die's own count rises where it is memory's copy (R304). -/
def State.noteDir (s : State) (sp : MemSpace) (u : Nat) : State :=
  let k := unitKey sp u
  if !(s.arr.dirBad.contains k) then s
  else
    let q := sliceOf u
    let n := satInc (tabGet s.arr.dirErrors 0 q)
    let s1 := ({ s with arr := { s.arr with dirBad := setDel s.arr.dirBad k } } : State).snoopL1s sp u
    if s.homeLost sp u then
      let d := blDie (64 * u)
      let e := tabGet s1.dieErr {} d
      let s2 : State := if s.arr.l2Ue.contains k then { s1 with arr := { s1.arr with l2Ue := setDel s1.arr.l2Ue k } }
        else { s1 with dieErr := tabSet s1.dieErr {} d { e with ue := satInc e.ue }, xpwrDue := setAdd s1.xpwrDue u }
      (s2.markUnit sp true u).postError { cls := 2, ukind := 3, unit := q, evt := 2, addr := 64 * u }
    else (({ s1 with arr := { s1.arr with dirErrors := tabSet s1.arr.dirErrors 0 q n } } : State).postError { cls := 1, ukind := 3, unit := q, evt := 2, addr := 64 * u }).countCorrected 3 q n
/-- The count of an L2 slice's corrected errors. -/
def State.countL2 (s : State) (u : Nat) : State :=
  let q := sliceOf u
  let n := satInc (tabGet s.arr.l2Errors 0 q)
  ({ s with arr := { s.arr with l2Errors := tabSet s.arr.l2Errors 0 q n } } : State).countCorrected 2 q n
/-- A read of an L2 line in error: an uncorrectable error poisons a dirty line, and a clean copy is fetched again, a Corrected event (R389); a
corrected one counts (R387). -/
def State.noteL2 (s : State) (sp : MemSpace) (u : Nat) : State :=
  let k := unitKey sp u
  if s.arr.l2Ue.contains k then
    let s1 : State := { s with arr := { s.arr with l2Ue := setDel s.arr.l2Ue k } }
    if (s.dirtyLine sp u).isSome then (s1.markUnit sp true u).postError { cls := 2, ukind := 2, unit := sliceOf u, evt := 1, addr := 64 * u } else s1.countL2 u
  else if s.arr.l2Ce.contains k then s.countL2 u
  else s
/-- A dirty line goes home, read out of the L2: what its errors do, then the write-back, with the poison (R281, R389). -/
def State.flushDev (s : State) (line : Nat) : State := if (tabFind s.l2 line).isSome then (s.noteL2 .il line).writeBackDev line else s
def State.flushHost (s : State) (line : Nat) : State := if (tabFind s.hostL2 line).isSome then (s.noteL2 .host line).writeBackHost line else s
def State.flushPool (s : State) (line : Nat) : State := if (tabFind s.poolL2 line).isSome then (s.noteL2 .pool line).writeBackPool line else s
/-- What the read of one unit does to the error state; the bank-linear window reads past the L2 (R282). -/
def State.noteUnit (s : State) (sp : MemSpace) (u : Nat) : State :=
  let s1 := if sp = .bl then s else (s.noteDir sp u).noteL2 sp u
  if s1.readsDie sp u then s1.noteDie u else s1
/-- What comes before a write of a part of a unit: the L2 fills the line, or the sequencer reads the unit to merge the write, the home slice
having brought its line back. Either meets the unit's errors; a unit that is lost stays lost (R284, R304, R305, R389). -/
def State.takeUnit (s : State) (sp : MemSpace) (u : Nat) : State :=
  match sp with
  | .bl =>
    let s1 := s.flushDev u
    (s1.noteDie u).dieWritten (s1.devPoison.contains u || s1.devUe.contains u) u
  | _ =>
    let s0 := s.noteDir sp u
    if (s0.dirtyLine sp u).isSome then s0
    else
      let s1 := s0.noteUnit sp u
      if sp = .il then { s1 with arr := { s1.arr with l2Poison := setPut s1.arr.l2Poison u (s1.devPoison.contains u || s1.devUe.contains u) } } else s1
/-- Write bytes as `party`: units that the write covers in part are taken up first; of every line the directory's entry is read (R391). -/
def State.writeMem (s : State) (party : Party) (whole : Bool) (sp : MemSpace) (off : Nat) (bs : List Byte) : State :=
  let full := if whole then wholeUnits sp off bs.length else []
  ((unitsOf sp off bs.length).foldl (fun t u => if full.contains u then t.noteDir (if sp = .bl then .il else sp) u else t.takeUnit sp u) s).storeMem party whole sp off bs
/-- The same for a structure at a physical base. -/
def State.writeIl (s : State) (party : Party) (whole : Bool) (off : Nat) (bs : List Byte) : State := match s.windowHome off with
  | .plain a => s.writeMem party whole .il a bs
  | .remote pos a => s.tellWindow pos a bs

/-- Read bytes with the state after the read's error counts, and whether poison or an uncorrectable error was met. -/
def State.readMem (s : State) (sp : MemSpace) (off n : Nat) : State × List Byte × Bool :=
  let us := unitsOf sp off n
  let bad := us.any (fun u => s.lost sp u)
  (us.foldl (fun t u => t.noteUnit sp u) s, s.physRead sp off n, bad)

/-- The core's L1 is one of its cluster's fused four (R258). -/
def State.fusedAt (s : State) (core : Nat) : Bool :=
  (List.range 4).any (fun i => let t := s.strand (4 * core + i); t.fuse && t.st != .unbound && t.st != .retired && t.st != .killed)
/-- The L1 that holds a line for a core: of fused ones the one that bits [7:6] of the physical address name (R258). -/
def State.l1Core (s : State) (core off : Nat) : Nat := if s.fusedAt core then core / 4 * 4 + off / 64 % 4 else core
/-- A read by a core's strands of lines whose L1 copy is in error: the copy is dropped and fetched again, a Corrected event (R389). -/
def State.noteL1 (s : State) (core0 : Nat) (sp : MemSpace) (off n : Nat) : State :=
  if s.arr.l1Bad.isEmpty then s
  else (unitsOf sp off n).zipIdx.foldl (fun t x =>
    let u := x.1
    let core := t.l1Core core0 (off / 64 * 64 + 64 * x.2)
    if t.arr.l1Bad.contains (core, unitKey sp u) then
      let k := satInc (tabGet t.arr.l1Errors 0 core)
      ({ t with arr := { t.arr with l1Bad := t.arr.l1Bad.filter (fun x => x != (core, unitKey sp u)), l1Errors := tabSet t.arr.l1Errors 0 core k } } : State).countCorrected 1 core k
    else t) s
/-- The L1s of a fused cluster are written back and invalidated before they fuse and unfuse (R258); nothing else that an L1 holds is state. -/
def State.clearL1s (s : State) (slot : Nat) : State :=
  if !(s.strand slot).fuse then s
  else
    let mine (k : Nat) : Bool := k / 4 == slot / 16
    { s with
      cores := s.cores.map (fun x => if mine x.1 then (x.1, { x.2 with known := [], stamps := [] }) else x)
      arr := { s.arr with l1Bad := s.arr.l1Bad.filter (fun x => !(mine x.1)) } }

/-! ### Lines across the CXL link (R358, R360, R362) -/

def State.setCxl (s : State) (c : CxlLines) : State := { s with arr := { s.arr with cxl := c } }
def State.cxlAsk (s : State) (r : CxlRequest) (line : Nat) : State := { s with outputs := s.outputs ++ [.cxlCache r line] }
/-- The device's caches hold a line of host memory. -/
def State.holdsHost (s : State) (u : Nat) : Bool := s.arr.cxl.shared.contains u || s.arr.cxl.exclusive.contains u
/-- The device's caches need a line of host memory, to write or to read it; `full` says that the write covers it (R358). -/
def State.hostLine (s : State) (own full : Bool) (u : Nat) : State :=
  let c := s.arr.cxl
  if c.exclusive.contains u || (!own && c.shared.contains u) then s
  else if own then (s.setCxl { c with shared := setDel c.shared u, exclusive := setAdd c.exclusive u }).cxlAsk (if full then .itoMWr else .rdOwn) u
  else (s.setCxl { c with shared := setAdd c.shared u }).cxlAsk .rdShared u
/-- A line of host memory leaves the device's caches (R358). -/
def State.evictHost (s : State) (u : Nat) : State :=
  if !(s.holdsHost u) then s
  else
    let c := s.arr.cxl
    ((s.flushHost u).setCxl { c with shared := setDel c.shared u, exclusive := setDel c.exclusive u }).cxlAsk
      (if (tabFind s.hostL2 u).isSome then .dirtyEvict else .cleanEvict) u
/-- A pool line leaves every cache of the device, dirty data written back (R362). -/
def State.dropPool (s : State) (u : Nat) : State :=
  let s1 := ((s.flushPool u).snoopL1s .pool u).untrack [unitKey .pool u]
  s1.setCxl { s1.arr.cxl with pool := s1.arr.cxl.pool.filter (fun x => x != u) }
/-- The device caches a pool line: its snoop filter takes 16 lines of each of 16,384 sets, the one allocated first leaving a full set (R362). -/
def State.poolLine (s : State) (u : Nat) : State :=
  if s.arr.cxl.pool.contains u then s
  else
    let l := s.arr.cxl.pool.filter (fun x => x % 2 ^ 14 == u % 2 ^ 14)
    let s1 := if l.length ≥ 16 then s.dropPool (l.headD 0) else s
    s1.setCxl { s1.arr.cxl with pool := s1.arr.cxl.pool ++ [u] }
/-- The host gives up its copy of a device line, or keeps it shared (R360). Of a line granted in state A it sends what it has made of it, which
nothing here shows: a free value (log 88, DESIGN CHOICE). -/
def State.recallLine (s : State) (inv : Bool) (u : Nat) : State :=
  let c := s.arr.cxl
  if !(c.hostHeld.contains u) then s
  else
    let s1 : State := { s with outputs := s.outputs ++ [.backSnoop inv u] }
    let s2 := if c.hostOwned.contains u && Config.freeBool (s.fv + 601) then
      (s1.storeMem (.host (Config.freeBits (s.fv + 602) 64).toNat) true .il (blToIl (64 * u))
        ((List.range 64).map (fun i => (Config.freeBits (s.fv + 602) i).extractLsb' 0 8))).flushDev u else s1
    s2.setCxl { c with hostHeld := if inv then setDel c.hostHeld u else c.hostHeld, hostOwned := setDel c.hostOwned u }
/-- What a read of lines asks of the link first; `size` as in a piece: 0 for a read that no cache keeps (R358, R360, R362). -/
def State.cxlRead (s : State) (sp : MemSpace) (off n size : Nat) : State :=
  match sp with
  | .il => if s.arr.cxl.hostHeld.isEmpty then s else (unitsOf sp off n).foldl (fun t u => t.recallLine false u) s
  | .bl => s
  | .host => (unitsOf sp off n).foldl (fun t u => if size ≠ 0 then t.hostLine false false u else if t.holdsHost u then t else t.cxlAsk .rdCurr u) s
  | .pool => if size = 0 then s else (unitsOf sp off n).foldl State.poolLine s
/-- The same for a write. -/
def State.cxlWrite (s : State) (sp : MemSpace) (off n size : Nat) : State :=
  match sp with
  | .il => if s.arr.cxl.hostHeld.isEmpty then s else (unitsOf sp off n).foldl (fun t u => t.recallLine true u) s
  | .bl => s
  | .host => (unitsOf sp off n).foldl (fun t u =>
      if size ≠ 0 then t.hostLine true ((wholeUnits sp off n).contains u) u else (t.evictHost u).cxlAsk .wrCur u) s
  | .pool => if size = 0 then s else (unitsOf sp off n).foldl State.poolLine s

/-! ### Refused writes and reads (R291, R303) -/

def RowState.isCompressed : RowState → Bool
  | .compressed _ => true
  | .const _ _ => false
/-- What a row or page state forbids: the trap of a read or of a write that touches it. -/
def State.rowFate (s : State) (isWrite : Bool) (sp : MemSpace) (off n : Nat) : Option TrapCode :=
  match sp with
  | .host | .pool => none
  | .il | .bl =>
    let us := unitsOf sp off n
    let st := us.filterMap (fun u => tabFind s.rows (rowKey (64 * u)))
    if st.any RowState.isCompressed then some .layoutMismatch
    else if isWrite && !st.isEmpty then some .constWrite
    else if isWrite && us.any (fun u => (tabFind s.pages (pageKey (64 * u))).isSome) then some .pimOwned
    else none

end Sys2Proof.Machine
end

