-- ==== Sys2Proof/Machine/Translate.lean ====
section
/-! DEFINITION. Address translation: canonical addresses (R345), the PASID table (R346), the walk (R347), the checks of R348 and
the translation caches (R349). -/

namespace Sys2Proof.Machine

/-- The access kinds of R348 and R260's ACC. -/
inductive Acc where
  | read | write | atomic | fetch | const
  deriving DecidableEq, Repr

/-- ACC of a fault record and SUBC of PAGE_FAULT and PERMISSION (R260, R352). -/
def Acc.code : Acc → Nat
  | .read | .const => 0 | .write => 1 | .fetch => 2 | .atomic => 3

/-- What a translation gives. -/
inductive Trans where
  /-- the place of the byte, the bytes left in its page, and the page's size; 0 for a page in host bias (R360) -/
  | ok (sp : MemSpace) (off : Nat) (left : Nat) (size : Nat)
  /-- a trap at once -/
  | trap (code : TrapCode)
  /-- held with a record of this kind; the code is what "deliver" raises (R353) -/
  | held (kind : FaultKind) (code : TrapCode)
  /-- held without a record, until a move or flip ends (R348, check 5) -/
  | moving
  deriving DecidableEq, Repr

/-- What a walk finds. -/
inductive Walk where
  | leaf (pte : BitVec 64) (at_ : Nat)
  | absent
  | format
  deriving DecidableEq, Repr

/-- R345. -/
def canonical (va : Word) : Bool :=
  let h := va.toNat / 2 ^ 56
  h == 0 || h == 255

/-- SZ is legal at a level (R347). -/
def szLegal (lvl sz : Nat) : Bool :=
  match lvl with
  | 0 => sz < 4
  | 1 => 4 ≤ sz && sz < 9
  | 2 => 9 ≤ sz && sz < 12
  | _ => false

/-- Format errors that any valid entry may have (R348, check 1). -/
def entryFlaw (p : BitVec 64) : Bool :=
  (p.getLsbD 3 && p.getLsbD 4) || fld p 52 2 == 3 || (fld p 6 2 != 0 && fld p 52 2 != 0)
/-- Format errors of a valid leaf. -/
def leafBad (lvl : Nat) (p : BitVec 64) : Bool :=
  entryFlaw p || !(szLegal lvl (fld p 8 4)) || pteFrame p % pteSize p != 0 ||
  (fld p 6 2 < 2 && pteFrame p ≥ 2 ^ 38) || (fld p 6 2 == 1 && pteSize p < 2 ^ 21)

/-- The walk from level `lvl` (R347): 9 index bits a level. Check 1 comes before check 2: a reserved bit makes a format error of any entry; of one
with V = 0 the other fields say nothing, and it ends the walk as absent (log 8, DEDUCED). -/
def State.walkFrom (s : State) (va : Nat) : Nat → Nat → Walk
  | lvl, table =>
    let o := table + 8 * (va / 2 ^ (12 + 9 * lvl) % 512)
    let p := s.ilWord o
    if fld p 58 6 != 0 then .format
    else if !(p.getLsbD 0) then .absent
    else if p.getLsbD 1 then (if leafBad lvl p then .format else .leaf p o)
    else
      match lvl with
      | 0 => .format
      | l + 1 => if entryFlaw p || pteFrame p ≥ 2 ^ 38 then .format else s.walkFrom va l (pteFrame p)

/-- The PASID table entry (R346): V, ROOT, CTXD. -/
def State.pasidEntry (s : State) (pasid : BitVec 20) : BitVec 128 :=
  BitVec.ofNat 128 (leNat (s.ilRead (alignedBase 24 s.ptbase + 16 * pasid.toNat) 16))

/-- CTXD of a context, and its descriptor (R322, R346), with its generation licence. -/
def State.ctxdOf (s : State) (pasid : BitVec 20) : Word := (s.pasidEntry pasid).extractLsb' 64 64
def State.context (s : State) (pasid : BitVec 20) : BitVec 1024 := BitVec.ofNat 1024 (leNat (s.ilRead (s.ctxdOf pasid).toNat 128))
def cQgen (c : BitVec 1024) : Nat := fld c 92 32

def State.walk (s : State) (pasid : BitVec 20) (va : Word) : Walk :=
  s.walkFrom va.toNat 4 (fld (s.pasidEntry pasid) 12 40 * 4096)

/-- The walk of a canonical address; of another none begins (R345). -/
def State.walkCanonical (s : State) (pasid : BitVec 20) (va : Word) : Walk := if canonical va then s.walk pasid va else .absent

/-- The TLB of a quadrant, behind the micro-TLBs of its cores (R349). -/
def quadUnit (unit : Nat) : Nat := if unit < 64 then 65 + unit / 16 else unit
/-- The cached translations that an access of a unit may use (R349): of a core its own and its quadrant's. -/
def State.tlbFinds (s : State) (unit : Nat) (pasid : BitVec 20) (va : Word) : List TlbEntry :=
  s.tlb.filter (fun e => (e.unit == unit || e.unit == quadUnit unit) && e.pasid == pasid && e.base ≤ va.toNat && va.toNat < e.base + e.size)

/-- The leaf an access uses: where the caches and the tables differ, any one of them, whole (R349; a free choice, log 2, DESIGN CHOICE). -/
def State.leafFor (s : State) (unit : Nat) (pasid : BitVec 20) (va : Word) : Walk :=
  let w := s.walk pasid va
  let stale := (s.tlbFinds unit pasid va).filter (fun e => match w with
    | .leaf p _ => p != e.pte
    | _ => true)
  match stale with
  | [] => w
  | l => match l[(Config.freeBits (s.fv + 40) 0).toNat % (l.length + 1)]? with
    | some e => .leaf e.pte (match w with
      | .leaf _ o => o
      | _ => 0)
    | none => w

/-- Permission of check 4 (R348). -/
def permOk (sys : Bool) (p : BitVec 64) : Acc → Bool
  | .read | .const => (sys || p.getLsbD 5) && p.getLsbD 2
  | .write => (sys || p.getLsbD 5) && p.getLsbD 3
  | .atomic => (sys || p.getLsbD 5) && p.getLsbD 2 && p.getLsbD 3
  | .fetch => (sys || p.getLsbD 5) && p.getLsbD 4

/-- The checks of R348 in order, for one address. -/
def State.translate (s : State) (unit : Nat) (pasid : BitVec 20) (sys : Bool) (va : Word) (acc : Acc) : Trans :=
  if !(canonical va) then .trap .pageFault
  else if !((s.pasidEntry pasid).getLsbD 0) then .trap .pageFault
  else
    let soon := acc = .fetch ∨ acc = .const
    match s.leafFor unit pasid va with
    | .format => if soon then .trap .pageFault else .held .format .pageFault
    | .absent => if soon then .trap .pageFault else .held .absent .pageFault
    | .leaf p _ =>
      if p.getLsbD 57 then .trap .extentRevoked
      else if !(permOk sys p acc) then
        (match acc with
        | .fetch => .trap .fetchNotExec
        | .const => .trap .permission
        | _ => .held .perm .permission)
      else if p.getLsbD 54 || fld p 52 2 == 2 then .moving
      else if p.getLsbD 56 && !(p.getLsbD 55) && !soon then .held .migrate .pageFault
      else
        let sz := pteSize p
        .ok (pteSpace p) (pteFrame p + va.toNat % sz) (sz - va.toNat % sz) (if fld p 52 2 = 1 then 0 else sz)

/-- The entries that a walk reads, by their offset. -/
def State.walkPath (s : State) (va : Nat) : Nat → Nat → List Nat
  | lvl, table =>
    let o := table + 8 * (va / 2 ^ (12 + 9 * lvl) % 512)
    let p := s.ilWord o
    o :: (if fld p 58 6 != 0 || !(p.getLsbD 0) || p.getLsbD 1 then [] else match lvl with
      | 0 => []
      | l + 1 => s.walkPath va l (pteFrame p))
/-- What the reads of a walk do to the error state (R304, R387). -/
def State.noteWalk (s : State) (pasid : BitVec 20) (va : Word) : State :=
  ((alignedBase 24 s.ptbase + 16 * pasid.toNat) :: s.walkPath va.toNat 4 (fld (s.pasidEntry pasid) 12 40 * 4096)).foldl (fun t o =>
    match t.windowHome o with
    | .plain a => (unitsOf .il a 8).foldl (fun u x => u.noteUnit .il x) t
    | .remote _ _ => t) s
/-- An access that finds no translation in its unit's caches walks the tables, and the caches keep what it finds (R349). -/
def State.tlbFill (s : State) (unit : Nat) (pasid : BitVec 20) (va : Word) : State :=
  match s.tlbFinds unit pasid va with
  | _ :: _ => s
  | [] => match s.walkCanonical pasid va with
    | .leaf p _ =>
      let e (u : Nat) : TlbEntry := ⟨u, pasid, va.toNat / pteSize p * pteSize p, pteSize p, p⟩
      let s1 := s.noteWalk pasid va
      { s1 with tlb := s1.tlb ++ (if unit < 64 then [e unit, e (quadUnit unit)] else [e unit]) }
    | _ => s

/-- Why an access does not perform: a trap with SUBC, a hold with a fault record of a kind, the code that "deliver" raises, the
address and ACC, or a wait for a move (R259, R348). -/
inductive Bad where
  | trap (code : TrapCode) (subc : Nat)
  | held (kind : FaultKind) (code : TrapCode) (va : Word) (acc : Nat)
  | moving
  deriving DecidableEq, Repr

/-- SUBC of a translation failure (R262's table of sub-causes). -/
def transSubc (code : TrapCode) (acc : Acc) : Nat :=
  match code with
  | .pageFault | .permission => acc.code
  | _ => 0

def Trans.bad (t : Trans) (va : Word) (acc : Acc) : Option Bad :=
  match t with
  | .ok _ _ _ _ => none
  | .trap c => some (.trap c (transSubc c acc))
  | .held k c => some (.held k c va acc.code)
  | .moving => some .moving

/-- A piece at a physical place: an interleaved address inside the league's window goes to its home, and a bank-linear one does not reach the
bytes behind the window's part here (R377). -/
def State.pieceAt (s : State) (sp : MemSpace) (off n size : Nat) : Piece :=
  match sp with
  | .il => match s.windowHome off with
    | .plain o => .mem .il o n size
    | .remote p o => .remote p o n
  | .bl => if s.windowTail (off / 2 ^ 21 * 2 ^ 21) then .hidden n else .mem .bl off n size
  | _ => .mem sp off n size

/-- A place of DEV.IL in this device's part of the league's window (R377). -/
def State.inWindow (s : State) (off : Nat) : Bool := s.lgEn && alignedBase 21 s.lwpbase ≤ off && off < alignedBase 21 s.lwpbase + s.lwsize.toNat
/-- The home cannot be reached (R378, R393): it lies beyond a down port, or the device there has answered that it is no member. -/
def State.beyond (s : State) (p : Piece) : Bool := match p with
  | .remote pos _ _ => !(s.port (s.sideTo pos)).up || s.rel.strangers.contains pos
  | _ => false

/-- The pieces of a byte range, page by page (and window unit by window unit), or the first failure. -/
def State.translateRange (s : State) (unit : Nat) (pasid : BitVec 20) (sys : Bool) (acc : Acc) :
    Nat → Word → Nat → Except Bad (List Piece)
  | 0, _, _ => .ok []
  | fuel + 1, va, n =>
    if n = 0 then .ok []
    else
      match s.translate unit pasid sys va acc with
      | .ok sp off left size =>
        let k := min n (min left (2 ^ 21 - off % 2 ^ 21))
        let p := s.pieceAt sp off k size
        if s.beyond p then .error (.held .league .dataPoison va acc.code)
        else match s.translateRange unit pasid sys acc fuel (va + BitVec.ofNat 64 k) (n - k) with
        | .ok r => .ok (p :: r)
        | .error e => .error e
      | .trap c => .error (.trap c (transSubc c acc))
      | .held k c => .error (.held k c va acc.code)
      | .moving => .error .moving

end Sys2Proof.Machine
end

