-- ==== Sys2Proof/Machine/Ops.lean ====
section
/-! DEFINITION. The shared operations on strands: registers under windows and pending bits, tokens, queues, the records of the
fault queue and the machine error log, taking a trap (R260) and returning from one (R132, R261). -/

namespace Sys2Proof.Machine

/-! ### Queues and tokens -/

def Strand.queue (t : Strand) : Queue → List QEntry
  | .L => t.lq | .C => t.cq | .S => t.sq
def Strand.setQueue (t : Strand) (q : Queue) (l : List QEntry) : Strand :=
  match q with
  | .L => { t with lq := l } | .C => { t with cq := l } | .S => { t with sq := l }
def Strand.ringOf (t : Strand) : Queue → Nat
  | .L => t.lring | .C => t.cring | .S => t.sring
def Strand.bumpRing (t : Strand) : Queue → Strand
  | .L => { t with lring := (t.lring + 1) % 16 }
  | .C => { t with cring := (t.cring + 1) % 16 }
  | .S => { t with sring := (t.sring + 1) % 16 }

/-- Does the FIFO from the previous (`true`) or next neighbour hold a token for the queue (R82, R83). -/
def Strand.tokenIn (t : Strand) (q : Queue) (prev : Bool) : Nat :=
  match q, prev with
  | .L, false => t.tcl
  | .C, true => t.tlc
  | .C, false => t.tsc
  | .S, true => t.tcs
  | _, _ => 0
/-- The tokens that an instruction's pop bits need are there (R83). -/
def Strand.tokensReady (t : Strand) (q : Queue) (tk : BitVec 4) : Bool :=
  (!(tk.getLsbD 3) || t.tokenIn q true > 0) && (!(tk.getLsbD 2) || t.tokenIn q false > 0)
/-- What the token that a pop would take carries (R266). -/
def Strand.tokenClock (t : Strand) (q : Queue) (prev : Bool) : Clock :=
  match q, prev with
  | .L, false => t.seen.cl.headD []
  | .C, true => t.seen.lc.headD []
  | .C, false => t.seen.sc.headD []
  | .S, true => t.seen.cs.headD []
  | _, _ => []
def Strand.popOne (t : Strand) (q : Queue) (prev : Bool) : Strand :=
  match q, prev with
  | .L, false => { t with tcl := t.tcl - 1, seen := { t.seen with cl := t.seen.cl.tail } }
  | .C, true => { t with tlc := t.tlc - 1, seen := { t.seen with lc := t.seen.lc.tail } }
  | .C, false => { t with tsc := t.tsc - 1, seen := { t.seen with sc := t.seen.sc.tail } }
  | .S, true => { t with tcs := t.tcs - 1, seen := { t.seen with cs := t.seen.cs.tail } }
  | _, _ => t
def Strand.popTokens (t : Strand) (q : Queue) (tk : BitVec 4) : Strand :=
  let t := if tk.getLsbD 3 then t.popOne q true else t
  if tk.getLsbD 2 then t.popOne q false else t
/-- Push one token toward the previous or next neighbour, with what happens before it; none where the FIFO holds 8 (R84). -/
def Strand.pushOne (t : Strand) (q : Queue) (prev : Bool) (clk : Clock) : Option Strand :=
  match q, prev with
  | .L, false => if t.tlc < 8 then some { t with tlc := t.tlc + 1, seen := { t.seen with lc := t.seen.lc ++ [clk] } } else none
  | .C, true => if t.tcl < 8 then some { t with tcl := t.tcl + 1, seen := { t.seen with cl := t.seen.cl ++ [clk] } } else none
  | .C, false => if t.tcs < 8 then some { t with tcs := t.tcs + 1, seen := { t.seen with cs := t.seen.cs ++ [clk] } } else none
  | .S, true => if t.tsc < 8 then some { t with tsc := t.tsc + 1, seen := { t.seen with sc := t.seen.sc ++ [clk] } } else none
  | _, _ => some t
/-- The pushes of an instruction: the strand after them, and whether one overflowed (R84). -/
def Strand.pushTokens (t : Strand) (q : Queue) (tk : BitVec 4) (clk : Clock) : Strand × Bool :=
  let a := if tk.getLsbD 1 then t.pushOne q true clk else some t
  let t1 := a.getD t
  let b := if tk.getLsbD 0 then t1.pushOne q false clk else some t1
  (b.getD t1, a.isNone || b.isNone)
/-- Tokens are discarded. -/
def Strand.noTokens (t : Strand) : Strand :=
  { t with tlc := 0, tcl := 0, tcs := 0, tsc := 0, seen := { t.seen with lc := [], cl := [], cs := [], sc := [] } }

/-! ### Registers -/

/-- The physical scalar a name selects (R55). -/
def Strand.physS (t : Strand) (n : Nat) : Nat := if t.uisInh && 48 ≤ n then n + 16 else n
/-- The result is still inside its window, or not delivered (R87, R139). -/
def Flight.opened (f : Flight) (cyc : Nat) : Bool := match f.endsAt with
  | some e => decide (cyc < e)
  | none => true
/-- A destination still inside a window or undelivered (R87, R163). -/
def Strand.inFlight (t : Strand) (cyc : Nat) (d : Dst) : Bool := t.flight.any (fun f => f.dsts.contains d && f.opened cyc)
/-- The run and a part of a register have something in common. -/
def Run.meets (r : Run) (d : Dst) (lo n : Nat) : Bool := r.dst == d && decide (r.lo < lo + n) && decide (lo < r.lo + r.n)
/-- Part of a tile or mask that an instruction inside its window, or one not delivered, has written (R88). -/
def Strand.writtenBy (t : Strand) (cyc : Nat) (d : Dst) (lo n : Nat) : Bool :=
  t.flight.any (fun f => f.opened cyc && f.wrote.any (fun r => r.meets d lo n))
/-- A load into the register of a queue's entry has been decoded and is not delivered (R139, R163). -/
def Strand.loading (t : Strand) (seq : Nat) (d : Dst) : Bool :=
  t.lq.any (fun e => e.seq < seq && e.dsts.contains d) || t.flight.any (fun f => f.endsAt.isNone && f.dsts.contains d)
/-- The contents of a physical scalar; s0 is zero (R54). -/
def Strand.getS (t : Strand) (n : Nat) : Word := if n = 0 then 0 else tabGet t.s 0 n
/-- Write a physical scalar; a write to s0 is discarded (R54). -/
def Strand.setS (t : Strand) (n : Nat) (v : Word) : Strand := if n = 0 then t else { t with s := tabSet t.s 0 n v }
/-- p7 is true (R54). -/
def Strand.getP (t : Strand) (n : Nat) : Bool := n == 7 || t.p.getLsbD n
/-- A write to p7 is discarded (R54). -/
def Strand.setP (t : Strand) (n : Nat) (v : Bool) : Strand :=
  if n = 7 then t else { t with p := setFld t.p n 1 (if v then 1 else 0) }
/-- Row `i` of mask `k`; masks are all ones at bind (R53). -/
def Strand.getK (t : Strand) (k i : Nat) : Word := tabGet t.k 0xFFFFFFFFFFFFFFFF (64 * k + i)
def Strand.setK (t : Strand) (k i : Nat) (v : Word) : Strand := { t with k := tabSet t.k 0xFFFFFFFFFFFFFFFF (64 * k + i) v }

/-- A scalar as a decode reads it: inside a window, a free value (R87, log 1, DESIGN CHOICE). -/
def Strand.readS (t : Strand) (cyc fv n : Nat) : Word :=
  let r := t.physS n
  if r = 0 then 0 else if t.inFlight cyc (.s r) then Config.freeWord fv else t.getS r
/-- A predicate as a decode reads it. -/
def Strand.readP (t : Strand) (cyc fv n : Nat) : Bool :=
  if n = 7 then true else if t.inFlight cyc (.p n) then (Config.freeWord fv).getLsbD 0 else t.getP n

/-- Write a scalar or predicate destination (masks and tiles are written by the instructions that own them). -/
def Strand.writeDst (t : Strand) (d : Dst) (v : Word) : Strand :=
  match d with
  | .s n => t.setS n v
  | .p n => t.setP n (v.getLsbD 0)
  | .v _ | .m _ => t

/-- A class-X window on the destination is open (R87). -/
def Strand.inWindowX (t : Strand) (cyc : Nat) (d : Dst) : Bool :=
  t.flight.any (fun f => f.dsts.contains d && f.endsAt.isSome && f.opened cyc)
/-- A class-X write at issue. Where another window on the destination is open, the register ends with either result (R88; a free choice,
log 2, DESIGN CHOICE); a class-V result that is pending for it has been met, and the choice between the two falls at its delivery (R248). -/
def Strand.writeX (t : Strand) (cyc fv : Nat) (d : Dst) (v : Word) : Strand :=
  let t1 := if t.pending.contains d then { t with contested := d :: t.contested } else t
  if t.inWindowX cyc d && Config.freeBool fv then t1 else t1.writeDst d v

/-- Write SHP (R57). -/
def shpRows (w : Word) : Nat := fld w 0 7
def shpCols (w : Word) : Nat := fld w 8 8 + 1
def shpType (w : Word) : Option Fmt := Fmt.ofCode (fld w 16 5)
def shpWord (rows cols typ : Nat) : Word := BitVec.ofNat 64 (rows + (cols - 1) * 2 ^ 8 + typ * 2 ^ 16)
/-- A valid shape (R57). -/
def shapeOk (rows cols typ : Nat) : Bool :=
  match Fmt.ofCode typ with
  | none => false
  | some f =>
    let eb := f.regBytes
    1 ≤ rows && rows ≤ 64 && 1 ≤ cols && eb != 0 && cols * eb ≤ 256 && rows * cols * eb ≤ 16384

/-- STID (R72). -/
def State.stid (s : State) (slot : Nat) : Word :=
  let t := s.strand slot
  BitVec.ofNat 64 (slot + coreOf slot * 2 ^ 8 + t.ngrp.toNat * 2 ^ 16 + t.wbase.toNat * 2 ^ 20 +
    (if t.mown then 2 ^ 24 else 0) + t.lpos.toNat * 2 ^ 25)

/-! ### Device time -/

/-- The launch deadline in nanoseconds, if there is one (R308). -/
def Strand.launchDeadline (t : Strand) : Option Nat :=
  if t.dlns = 0xFFFFFFFFFFFF then none else some (t.dlns.toNat * nsPerSec + t.dlnn.toNat)
/-- The effective deadline (R308). -/
def Strand.deadline (t : Strand) : Option Nat :=
  match t.launchDeadline, t.sub with
  | none, x => x
  | x, none => x
  | some a, some b => some (min a b)
/-- Saturate to INT64 as a 64-bit word. -/
def satInt64 (n : Int) : Word := BitVec.ofInt 64 (max (-(2 ^ 63)) (min (2 ^ 63 - 1) n))
/-- SLK (R310). -/
def State.slack (s : State) (slot : Nat) : Word :=
  let t := s.strand slot
  match t.deadline with
  | none => satInt64 (2 ^ 63 - 1)
  | some d =>
    if t.st = .wrap then satInt64 ((d : Int) - s.time)
    else satInt64 ((d : Int) - s.time - (t.est - (s.time - t.runBase) : Nat))
/-- Cycles left of the wrap-up budget (R241, R313). -/
def State.budgetLeft (s : State) (slot : Nat) : Nat :=
  match (s.strand slot).budget with
  | some e => e - s.cycle
  | none => if (s.strand slot).wrapFirst then (s.strand slot).wub.toNat else 0

/-! ### Records -/

def FaultKind.code : FaultKind → Nat
  | .absent => 1 | .format => 2 | .perm => 3 | .tile => 4 | .materialise => 5 | .migrate => 6 | .host => 7 | .trap => 8
  | .secondary => 9 | .settled => 10 | .league => 0

/-- The contents of a fault record (R352). -/
structure FaultInfo where
  kind : FaultKind
  eng : Nat := 7
  acc : Nat := 0
  code : Nat := 0
  va : Word := 0
  pasid : BitVec 20 := 0
  hdl : Nat := 0
  lnch : Word := 0
  stid : Word := 0
  trx : Word := 0
  tri : BitVec 32 := 0

/-- A fault record (R352): CODE belongs to the records of traps alone. -/
def State.faultRecord (s : State) (i : FaultInfo) : Nat :=
  i.kind.code + i.eng * 2 ^ 8 + i.acc * 2 ^ 11 + (if i.kind = .trap ∨ i.kind = .secondary then i.code else 0) * 2 ^ 16 + s.fqhead.toNat * 2 ^ 32 + i.va.toNat * 2 ^ 64 +
    i.pasid.toNat * 2 ^ 128 + i.hdl * 2 ^ 160 + i.lnch.toNat * 2 ^ 192 + i.stid.toNat * 2 ^ 256 + i.trx.toNat * 2 ^ 320 +
    i.tri.toNat * 2 ^ 384 + s.nsec * 2 ^ 416 + (s.sec % 2 ^ 48) * 2 ^ 448

/-- FQHEAD − FQTAIL equals the ring size (R352). -/
def State.fqFull (s : State) : Bool := (s.fqhead - s.fqtail.setWidth 32).toNat == 2 ^ s.fqsize

/-- The key of a device register among the locations of releases (R267). -/
def regKey (off : Nat) : Nat := 3 * 2 ^ 60 + off
/-- A release at device scope by the unit that advances a register, which publishes its own writes (R352). -/
def State.releaseReg (s : State) (off : Nat) : State :=
  let r : Rel := { owner := .device .service, place := .device, scp := 4, clock := [⟨.device .service, .device, 7, s.wcount⟩] }
  { s with rel := { s.rel with at_ := tabPut s.rel.at_ (regKey off) [r] } }
/-- Post a record: written at slot FQHEAD, then FQHEAD advances as a release (R352). A full ring: the caller waits, but a secondary record is
lost and counted. -/
def State.postFault (s : State) (i : FaultInfo) : State :=
  if s.fqFull then { s with fqlost := s.fqlost + 1 }
  else
    let r := s.faultRecord i
    let s1 := s.writeIl (.device .service) true (alignedBase 12 s.fqbase + 64 * (s.fqhead.toNat % 2 ^ s.fqsize)) (leBytes 64 r)
    { s1.releaseReg 0x018 with fqhead := s.fqhead + 1 }

/-- The fault queue has no room for the record of a hold; a League record never waits. -/
def State.holdFull (s : State) (k : FaultKind) : Bool := s.fqFull && k != .league
/-- Post the record of a hold: its SEQ and the state after it. A home that cannot be reached posts a League record, EVT 15 (R378). -/
def State.postHold (s : State) (i : FaultInfo) : BitVec 32 × State :=
  if i.kind = .league then (s.mehead, s.postError { cls := 4, ukind := 7, unit := if s.east.up then 1 else 0, evt := 15 }) else (s.fqhead, s.postFault i)

/-! ### Engines of a strand -/

/-- A copy or memory command of the strand is accepted and its queue is not stopped by the strand's own trap. -/
def State.commandsLeft (s : State) (slot : Nat) : Bool :=
  let c := s.core (coreOf slot)
  (c.copyStop != some slot && c.copyq.any (fun x => x.slot == slot && x.job.isNone)) ||
  (List.range 4).any (fun q => let d := s.quad q; d.stop != some slot && d.q.any (fun x => x.slot == slot && x.job.isNone))
/-- A matrix operation of the strand is running. -/
def State.matrixBusy (s : State) (slot : Nat) : Bool :=
  let c := s.core (coreOf slot)
  c.matStop != some slot && c.matq.any (fun x => x.slot == slot && x.running)
/-- A TLBI has begun and is not complete (R134). -/
def Strand.inTlbi (t : Strand) : Bool := match t.calling with
  | some (.tlbi _ _ _) => true
  | _ => false
/-- Every issued or accepted piece of the strand's work is complete (R260, step 3), its windows among it (R89), and a TLBI (R135). -/
def State.quiet (s : State) (slot : Nat) : Bool :=
  (s.strand slot).flight.isEmpty && !(s.commandsLeft slot) && !(s.matrixBusy slot) && !(s.strand slot).inTlbi

/-! ### Taking a trap (R260 to R262) -/

/-- TRC (R104). -/
def trcWord (r : TrapRec) (wrap : Bool) : Word :=
  BitVec.ofNat 64 (r.code.value + r.eng * 2 ^ 8 + (if wrap then 2 ^ 11 else 0) + r.opnd * 2 ^ 12)
/-- TRX (R262). -/
def trxWord (r : TrapRec) : Word := BitVec.ofNat 64 (r.pos.toNat % 2 ^ 56 + r.qent * 2 ^ 56)
/-- TRI (R262): SUBC and BEHIND, or the operand of TRAP (R130). -/
def triWord (r : TrapRec) : BitVec 32 :=
  match r.word with
  | some w => w
  | none => BitVec.ofNat 32 (r.subc % 256 + min r.behind 255 * 2 ^ 8)

/-- Write TRC, TRI and TRX as one record (R260, step 4). -/
def Strand.recordTrap (t : Strand) (r : TrapRec) (wrap : Bool) : Strand :=
  { t with trc := trcWord r wrap, tri := triWord r, trx := trxWord r }

/-- The fault-queue record of a trap (R260, step 5; secondary, R262). -/
def State.trapInfo (s : State) (slot : Nat) (r : TrapRec) (kind : FaultKind) : FaultInfo :=
  let t := s.strand slot
  { kind := kind, eng := r.eng, code := r.code.value, pasid := t.pasid, lnch := t.lnch, stid := s.stid slot,
    trx := trxWord r, tri := triWord r }

/-- The sub-cause that a held access would trap with (R262, R353): ACC of a translation failure; an address beyond the ring is device memory. -/
def holdSubc (code : TrapCode) (acc : Nat) : Nat := match code with
  | .pageFault | .permission => acc
  | .dataPoison => 2
  | _ => 0
/-- The record of a held access of a strand's queue or command (R352): TRX and TRI name it as its trap would. -/
def State.holdInfo (s : State) (slot : Nat) (r : TrapRec) (kind : FaultKind) (va : Word) (acc hdl : Nat) : FaultInfo :=
  { s.trapInfo slot { r with subc := holdSubc r.code acc } kind with acc := acc, va := va, hdl := hdl }

/-- The strand is in wrap-up, or stopped in it: by SYSCALL, by a trap, or by a held access (R246, R312). -/
def Strand.inWrap (t : Strand) : Bool := t.st == .wrap || ((t.st == .sysw || t.st == .stop || t.st == .held) && t.saved == .wrap)

/-! ### The strand save record where ERET and a trap use it (R260, R261, R338) -/

def wordsBytes (ws : List Word) : List Byte := ws.flatMap (fun w => leBytes 8 w.toNat)
def pad (n : Nat) (bs : List Byte) : List Byte := bs.take n ++ List.replicate (n - bs.length) 0
/-- One queue entry: 160 bytes. -/
def entryBytes (e : QEntry) : List Byte :=
  let h := match e.handles with
    | (_, x) :: _ => leBytes 64 x.toNat
    | [] => []
  pad 160 (leBytes 20 (encode e.instr).toNat ++ pad 4 [if e.cancelled then 1 else 0] ++ wordsBytes [e.pos, e.shp, BitVec.ofNat 64 e.rmode, e.d, e.a, e.b, e.c, e.e] ++ h)
/-- The place of the head of a queue in the strand save record. -/
def saveHead (q : Queue) : Nat := 0x500 + 2560 * (match q with
  | .L => 0 | .C => 1 | .S => 2)
/-- The place of the next decode position in the strand save record (R338 gives the order of the block's items; log 9, DESIGN CHOICE). -/
def savePos : Nat := 8
/-- ENG of a queue (R104). -/
def engOf : Queue → Nat
  | .L => 1 | .C => 2 | .S => 4

/-- Queue of an ENG code. -/
def queueOf (eng : Nat) : Option Queue := if eng = 1 then some .L else if eng = 2 then some .C else if eng = 4 then some .S else none
/-- One accepted command: 128 bytes. -/
def cmdBytes (c : Cmd) : List Byte := leBytes 64 c.desc.toNat ++ leBytes 64 c.src.toNat
/-- The place of the strand's first copy command, or memory command, in the strand save record; its last byte, which the layout of a handle
entry reserves, holds the cancel mark of a command that failed (R338; log 9, DESIGN CHOICE). -/
def saveCommand (eng : Nat) : Nat := if eng = 5 then 0x2300 else 0x3300
/-- The place of operation `k` of the matrix queue in the core save record, its cancel byte where a queue entry has it (R338; log 9, DESIGN
CHOICE). -/
def saveMatrix (k : Nat) : Nat := 0x23A540 + 512 * k
/-- The failed command of a strand at the head of an engine queue. -/
def State.failedCmd (s : State) (slot eng : Nat) : Option Cmd :=
  let own (c : Cmd) : Bool := c.slot == slot && c.failed
  if eng = 5 then (s.core (coreOf slot)).copyq.find? own else if eng = 6 then (s.quads.flatMap (fun q => q.2.q)).find? own else none
/-- The trapped entry of an engine goes into the context save area, not cancelled (R261). -/
def State.saveTrapped (s : State) (slot eng : Nat) : State :=
  let r := tabGet s.binds {} slot
  let base := r.ssave.toNat
  if base = 0 then s
  else match queueOf eng with
    | some q => (match (s.strand slot).queue q with
      | [] => s
      | e :: _ => s.writeIl (.device .service) false (base + saveHead q) (entryBytes { e with cancelled := false }))
    | none => match s.failedCmd slot eng, (s.core (coreOf slot)).matq with
      | some c, _ => s.writeIl (.device .service) false (base + saveCommand eng) ((cmdBytes c).take 127 ++ [0])
      | none, o :: _ => if eng = 3 then s.writeIl (.device .service) false (r.csave.toNat + saveMatrix 0) (pad 24 (leBytes 20 (encode o.instr).toNat)) else s
      | none, [] => s
/-- A stop leaves the next decode position and the trapped entries in the context save area (R260, step 5; R261). -/
def State.saveStop (s : State) (slot : Nat) : State :=
  let base := (tabGet s.binds {} slot).ssave.toNat
  let t := s.strand slot
  if base = 0 then s
  else t.trapped.foldl (fun u e => u.saveTrapped slot e) (s.writeIl (.device .service) false (base + savePos) (leBytes 8 t.pc.toNat))

/-- A wait of the front for an event is abandoned; the position names the WFE again (R135). -/
def Strand.abandonWfe (t : Strand) : Strand :=
  match t.wfe with
  | some w => { t with wfe := none, pc := w.pos }
  | none => t

/-- The trap was reached in an earlier cycle: of those that one cycle brings, only the one of the lowest ENG is recorded (R105). -/
def TrapRec.before (r : TrapRec) (cyc : Nat) : Bool := r.cyc != some cyc
/-- Steps 4 to 6 of R260, after the cycle of the trap, once the strand's work is complete and the fault queue has room: the record is written
and posted, the next decode position is saved, and the strand enters STOP. A WFE is abandoned, a SYSCALL that was still to post its request
is not decoded (R135; log 85, DEDUCED), a drain that HALT had begun is over (R128). The trap of a diversion's drain is recorded and
posted, and the drain goes on (R317). -/
def State.finishTrap (s : State) (slot : Nat) : State :=
  let t := s.strand slot
  match t.stopping with
  | none => s
  | some r =>
    if s.fqFull || !(r.before s.cycle) then s
    else if t.diverting.isSome then
      (s.postFault (s.trapInfo slot r .trap)).setStrand slot { t.recordTrap r false with stopping := none, dlstAcc := t.dlstAcc ||| 0x200 }
    else if !(s.quiet slot) then s
    else
      let u := t.abandonWfe
      let s1 := (s.postFault (s.trapInfo slot r .trap)).setStrand slot u
      (s1.saveStop slot).setStrand slot { u.recordTrap r t.inWrap with
        stopping := none, st := .stop, saved := if t.inWrap then .wrap else .run, halting := false, calling := none }

/-- The trapped entry of an engine stands at its head until an ERET, or until a diversion discards it; the front leaves none, nor does an
instruction that has performed (R260, R261). -/
def Strand.traps (t : Strand) (r : TrapRec) : Strand :=
  if r.eng = 0 || r.gone || t.diverting.isSome then t else { t with trapped := setAdd t.trapped r.eng }
/-- A trap of an engine of the strand (R260): the first one starts the trap procedure; one that meets a trap procedure, STOP or the drain of
a budget kill is secondary (R262; log 75, DEDUCED); the first one of a diversion's drain is recorded without a stop (R317). Of two that
one cycle brings, the one of the lower ENG is recorded and the other leaves no record (R105). -/
def State.raiseTrap (s : State) (slot : Nat) (r0 : TrapRec) : State :=
  let t := s.strand slot
  let r := { r0 with cyc := some s.cycle }
  let secondary := (s.postFault (s.trapInfo slot r .secondary)).setStrand slot (t.traps r)
  match t.stopping with
  | some x =>
    if x.cyc = r.cyc && r.eng != x.eng then s.setStrand slot { t.traps r with stopping := some (if r.eng < x.eng then r else x) }
    else secondary
  | none =>
    if t.diverting.isSome then (if t.dlstAcc.getLsbD 9 then secondary else s.setStrand slot { t with stopping := some r })
    else if t.st = .stop then (if r.gone then secondary else secondary.saveTrapped slot r.eng)
    else if t.killing then secondary
    else if t.st = .retired || t.st = .killed || t.st = .unbound then s
    else s.setStrand slot { t.traps r with stopping := some r }

/-- A decode trap of the strand that acts (R102): ENG 0, QENT 0. -/
def State.decodeTrap (s : State) (code : TrapCode) (opnd : Nat) (subc : Nat := 0) : State :=
  s.raiseTrap s.cur { code := code, eng := 0, opnd := opnd, subc := subc, pos := s.me.pc }

/-- A trap of the strand, if any, was reached in this cycle: what else the cycle brings is not behind it (R105). -/
def Strand.unstopped (t : Strand) (cyc : Nat) : Bool := !(t.stopping.any (fun r => r.before cyc))
/-- Work of the queues may issue: the strand runs or wraps up, or drains toward HALT, with no trap, diversion or pre-emption in progress. -/
def mayIssue (cyc : Nat) (t : Strand) : Bool :=
  (t.st == .run || t.st == .wrap || t.st == .held) && t.unstopped cyc && t.diverting.isNone && !t.preempting && !t.killing

/-! ### Returning from a trap (R132, R261) -/

/-- The head of the queue is marked cancelled: bit 0 of byte 20 of its entry in the strand save record (R338). -/
def State.savedCancel (s : State) (slot : Nat) (q : Queue) : Bool :=
  let base := (tabGet s.binds {} slot).ssave.toNat
  base != 0 && (s.ilWord (base + saveHead q + 20)).getLsbD 0

/-- A cancelled entry leaves without performing, an L+S instruction both of its entries; its pending bits clear and its registers keep
their values (R261). -/
def Strand.cancelHead (t : Strand) (q : Queue) : Strand :=
  match t.queue q with
  | [] => t
  | e :: _ =>
    let out (l : List QEntry) : List QEntry := l.filter (fun x => x.seq != e.seq)
    { t with
      lq := out t.lq, cq := out t.cq, sq := out t.sq, pending := t.pending.filter (fun d => !(e.dsts.contains d))
      contested := t.contested.filter (fun d => !(e.dsts.contains d)) }

/-- The trapped matrix operation of the strand is marked cancelled. -/
def State.savedCancelOp (s : State) (slot : Nat) : Bool :=
  let base := (tabGet s.binds {} slot).csave.toNat
  base != 0 && (s.ilWord (base + saveMatrix 0 + 20)).getLsbD 0
/-- The failed command of the strand is marked cancelled. -/
def State.savedCancelCmd (s : State) (slot eng : Nat) : Bool :=
  let base := (tabGet s.binds {} slot).ssave.toNat
  base != 0 && (s.ilWord (base + saveCommand eng + 127)).getLsbD 0
/-- The failed commands of the strand are free to start again, or leave where they are cancelled (R261). -/
def retryFailed (slot : Nat) (cancel : Bool) (l : List Cmd) : List Cmd :=
  (l.filter (fun c => !(cancel && c.failed && c.slot == slot))).map (fun c => if c.slot = slot then { c with failed := false } else c)
/-- The queues that the strand's trap stopped start again (R219); a trapped operation or command that is marked cancelled leaves. -/
def Core.restart (c : Core) (slot : Nat) (cancelOp cancelCmd : Bool) : Core :=
  { c with
    copyStop := if c.copyStop = some slot then none else c.copyStop
    copyq := retryFailed slot cancelCmd c.copyq
    matStop := if c.matStop = some slot then none else c.matStop
    matq := if cancelOp && c.matStop = some slot then c.matq.tail else c.matq }
def Quad.restart (d : Quad) (slot : Nat) (cancel : Bool) : Quad :=
  { d with stop := if d.stop = some slot then none else d.stop, q := retryFailed slot cancel d.q }

/-- The save area marks the trapped entry of an engine cancelled. -/
def State.marked (s : State) (slot eng : Nat) : Bool :=
  (s.strand slot).trapped.contains eng && (match queueOf eng with
    | some q => s.savedCancel slot q
    | none => if eng = 3 then s.savedCancelOp slot else s.savedCancelCmd slot eng)
/-- The heads of the strand's own queues that are marked cancelled leave (R261). -/
def State.cancelHeads (s : State) (slot : Nat) (t : Strand) : Strand :=
  [Queue.L, Queue.C, Queue.S].foldl (fun u q => if s.marked slot (engOf q) then u.cancelHead q else u) t
/-- Resume a strand stopped by SYSCALL or by a trap (R132): s3 takes the result of a SYSCALL, decoding resumes at `b`; each trapped entry
that the save area marks cancelled is removed, the others retry (R261); its stopped engine queues start again (R219). -/
def State.eretResume (s : State) (slot : Nat) (b c : Word) : State :=
  let t := s.strand slot
  let t1 := if t.st = .sysw then t.setS 3 c else t
  let t2 := s.cancelHeads slot t1
  let heldNow := (t2.lq ++ t2.sq).any (fun e => e.held.isSome)
  let st := if t.saved = .wrap then .wrap else if heldNow then .held else .run
  let s1 := s.setStrand slot { t2 with pc := b, st := st, trapped := [] }
  let s2 := s1.modCore (coreOf slot) (fun k => k.restart slot (s.marked slot 3) (s.marked slot 5))
  s2.mapQuads (fun _ d => d.restart slot (s.marked slot 6))

/-! ### Releases and acquires (R266 to R269) -/

/-- The strand as a party, and its place (R20, R263). -/
def Strand.party (t : Strand) : Party := .strand t.serial
def State.myParty (s : State) : Party := s.me.party
def State.myPlace (s : State) : Place := .core s.myCore
def Clocks.of (c : Clocks) : Queue → Clock
  | .L => c.l | .C => c.c | .S => c.s
def Clocks.set (c : Clocks) (q : Queue) (k : Clock) : Clocks :=
  match q with
  | .L => { c with l := k } | .C => { c with c := k } | .S => { c with s := k }
/-- What the tokens that an entry pops carry. -/
def Strand.tokenClocks (t : Strand) (q : Queue) (tk : BitVec 4) : Clock :=
  joinClock (if tk.getLsbD 3 then t.tokenClock q true else []) (if tk.getLsbD 2 then t.tokenClock q false else [])
/-- The atomics: an atomic counts as a read and as a write (R146). -/
def isAtomic : Instr → Bool
  | .aadd _ | .amin _ | .amax _ | .aminu _ | .amaxu _ | .aand _ | .aor _ | .axor _ | .axchg _ | .acas _ | .afadd _ | .aincw _ => true
  | _ => false
/-- All that happens before the event that acts (R266): what its queue has acquired, the result waits before its decode, its tokens. -/
def State.actClock (s : State) : Clock :=
  let t := s.me
  match s.acting with
  | .front => t.seen.front
  | .queue q => match t.queue q with
    | [] => t.seen.of q
    | e :: _ =>
      let c := joinClock (joinClock (t.seen.of q) e.clock) (t.tokenClocks q ((instrFields e.instr).elim 0 (fun f => f.tk)))
      if isAtomic e.instr then joinClock c t.seen.atom else c
/-- What a clock becomes behind an edge of the strand itself (R266). -/
def State.ownEdge (s : State) (scp : Nat) (c : Clock) : Clock := passClock scp s.myPlace s.myPlace c
/-- The acting queue, or the front, has acquired a clock. -/
def State.gains (s : State) (c : Clock) : State :=
  s.modStrand s.cur (fun t => { t with seen := match s.acting with
    | .front => { t.seen with front := joinClock t.seen.front c }
    | .queue q => t.seen.set q (joinClock (t.seen.of q) c) })
/-- All writes of a party up to now. -/
def State.ownWrites (s : State) (p : Party) (at_ : Place) : Seen := ⟨p, at_, 7, s.wcount⟩

/-- A release by a party at some bytes (R267). -/
def State.putRel (s : State) (keys : List Nat) (r : Rel) : State :=
  { s with rel := { s.rel with at_ := keys.foldl (fun t k =>
      tabPut t k ((tabGet t [] k).filter (fun x => x.owner != r.owner || x.scp != r.scp || x.tag != r.tag || x.mixed) ++ [r])) s.rel.at_ } }
/-- The scope that a code stands for: of a device in no league the ring scope is device scope (R19). -/
def State.scpNow (s : State) (scp : Nat) : Nat := if scp = 6 && !s.lgEn then 4 else scp
/-- The releases at some bytes that an acquire at a place and scope synchronises with (R18, R267); two events of one strand do at any scope. -/
def State.syncs (s : State) (keys : List Nat) (scp : Nat) (me : Party) (at_ : Place) (ok : Nat → Bool) : List Rel :=
  ((keys.flatMap (tabGet s.rel.at_ [])).eraseDups).filter (fun r =>
    ok r.tag && (r.owner.agent == me.agent || (inInst (s.scpNow r.scp) r.place at_ && inInst (s.scpNow scp) at_ r.place)))
/-- What the acquire takes from them (R269). -/
def acquired (scp : Nat) (at_ : Place) (l : List Rel) : Clock :=
  l.foldl (fun c r => joinClock c (passClock (meetScp r.scp scp) r.place at_ r.clock)) []
/-- A release of the strand that acts: it publishes all that happens before it, and the strand's own writes. -/
def State.releaseAs (s : State) (keys : List Nat) (scp tag size : Nat) : State :=
  s.putRel keys { owner := s.myParty, place := s.myPlace, scp := scp, tag := tag, size := size
                  clock := addSeen (s.ownWrites s.myParty s.myPlace) s.actClock }
def State.releaseAt (s : State) (keys : List Nat) (scp : Nat) : State := s.releaseAs keys scp 0 1
/-- The releases at a local-memory record are spent, or replaced by what follows. -/
def State.dropRels (s : State) (key : Nat) (gone : Nat → Bool) : State :=
  { s with rel := { s.rel with at_ := s.rel.at_.filterMap (fun x =>
      if x.1 = key then (match x.2.filter (fun r => !(gone r.tag)) with
        | [] => none
        | l => some (x.1, l)) else some x) } }
/-- An atomic of a party follows in the release sequences at some bytes (R268). -/
def State.mixRels (s : State) (party : Party) (keys : List Nat) (t : Tab (List Rel)) : State :=
  { s with rel := { s.rel with at_ := t.map (fun x => if keys.contains x.1 then (x.1, x.2.map (fun r => { r with mixed := r.mixed || r.owner.agent != party.agent })) else x) } }
/-- A FENCE or MARK between the queues L and S (R266): each takes over, at the scope, what the other has acquired; of the S queue the
atomics alone where only reads are ordered behind the L queue's reads (R146). -/
def State.orderQueues (s : State) (scp : Nat) (toS toAtom toL : Bool) : State :=
  s.modStrand s.cur (fun t => { t with seen := { t.seen with
    s := if toS then joinClock t.seen.s (s.ownEdge scp t.seen.l) else t.seen.s
    atom := if toAtom then joinClock t.seen.atom (s.ownEdge scp t.seen.l) else t.seen.atom
    l := if toL then joinClock t.seen.l (s.ownEdge scp t.seen.s) else t.seen.l } })
/-- The code of device scope. -/
def deviceScope : Nat := 4

/-- A waiting WFE ends: its predicate is written within its window and the event bit becomes 0 (R133). -/
def State.endWfe (s : State) (slot : Nat) (v : Bool) : State :=
  let t := s.strand slot
  match t.wfe with
  | none => s
  | some w =>
    let t1 := t.writeX s.cycle (s.fv + 8) (.p w.dst) (if v then 1 else 0)
    s.setStrand slot { t1 with
      wfe := none, event := false
      flight := t1.flight ++ [{ pos := w.pos, endsAt := some (s.cycle + w.bound), dsts := [.p w.dst] }] }
/-- The front waits for an event; from the cycle after a trap of another engine it does not, since the WFE is abandoned (R135). -/
def Strand.awaits (t : Strand) (cyc : Nat) : Bool := t.wfe.isSome && t.unstopped cyc
/-- Set a strand's event bit (R133); a WFE that waits for it ends at once. -/
def State.setEvent (s : State) (slot : Nat) : State :=
  if (s.strand slot).awaits s.cycle then s.endWfe slot true else s.modStrand slot (fun t => { t with event := true })
/-- A cause of UIS becomes 1 (R244). -/
def State.setCauseBit (s : State) (slot : Nat) (bit : Nat) : State := s.modStrand slot (fun t => { t with uisCause := setFld t.uisCause bit 1 1 })
/-- A cause of UIS becomes 1, which also sets the event bit (R133, R244). -/
def State.setCause (s : State) (slot : Nat) (bit : Nat) : State := (s.setCauseBit slot bit).setEvent slot

end Sys2Proof.Machine
end

