-- ==== Sys2Proof/Machine/Operands.lean ====
section
/-! DEFINITION. Every operand form: immediates (R64), constant windows (R65, R66), handles (R67 to R71, R404), LM operands (R138,
R253), addresses (R137), tile elements (R58) and masks (R61); and reading and writing the bytes that they name. -/

namespace Sys2Proof.Machine

/-- Ext(r): a W-bit result extended to 64 bits (R114). -/
def extInt (f : Fmt) (r : Nat) : Word :=
  if f.isSigned then BitVec.ofInt 64 (toSigned f.width r) else BitVec.ofNat 64 (r % 2 ^ f.width)

/-! ### Immediates and constant words (R64, R66) -/

/-- The byte of a pair that a column takes (R64): bits [7:0] for even columns, [15:8] for odd ones. -/
def pairByte (w : Nat) (odd : Bool) : Nat := if odd then w / 256 % 256 else w % 256

/-- R64: the container bits of an immediate in an element format; `odd` is the column's parity, false in a scalar operand. -/
def immCode (f : Fmt) (imm : Nat) (odd : Bool) : Nat :=
  match f with
  | .int4 | .int6 | .int8 | .int12 => f.fill (imm % 2 ^ f.width)
  | .int16 => imm % 2 ^ 16
  | .int32 => wrapTo 32 (toSigned 16 imm)
  | .int64 => wrapTo 64 (toSigned 16 imm)
  | .a56i => wrapTo 56 (toSigned 16 imm)
  | .uint8 => imm % 256
  | .uint16 | .uint32 | .uint64 => imm % 2 ^ 16
  | .fp32 => imm % 2 ^ 16 * 2 ^ 16
  | .fp16 | .bf16 | .cf16 => imm % 2 ^ 16
  | .a56f => (a56f.round .rne false (Fmt.bf16.value imm)).1
  | .e4m3 | .e5m2 | .e8m0 => pairByte imm odd
  | .e3m2 | .e2m3 => pairByte imm odd % 64
  | .e2m1 => pairByte imm odd % 16
  | .ci12 => Fmt.ci12.ofParts (wrapTo 12 (toSigned 8 (imm % 256))) (wrapTo 12 (toSigned 8 (imm / 256 % 256)))

/-- R66: the container bits of a constant word. -/
def constCode (f : Fmt) (w : Nat) (odd : Bool) : Nat :=
  match f with
  | .e4m3 | .e5m2 | .e8m0 => pairByte w odd
  | .e3m2 | .e2m3 => pairByte w odd % 64
  | .e2m1 => pairByte w odd % 16
  | .int64 | .uint64 | .a56i | .a56f => w
  | _ => f.fill (w % 2 ^ f.width)

/-- R66: formats whose constants are 64 bits wide. -/
def wideConst (f : Fmt) : Bool := f.regBytes == 0

/-! ### Handle entries (R67, R68) -/

def hSpace (e : BitVec 512) : Nat := fld e 1 3
def hLayout (e : BitVec 512) : Nat := fld e 4 2
def hRd (e : BitVec 512) : Bool := e.getLsbD 6
def hWr (e : BitVec 512) : Bool := e.getLsbD 7
def hMow (e : BitVec 512) : Bool := e.getLsbD 8
def hCpol (e : BitVec 512) : Nat := fld e 9 3
def hType (e : BitVec 512) : Option Fmt := Fmt.ofCode (fld e 12 5)
def hNdim (e : BitVec 512) : Nat := fld e 17 2
def hScaled (e : BitVec 512) : Bool := e.getLsbD 19
def hSclh (e : BitVec 512) : Nat := fld e 32 10
def hBase (e : BitVec 512) : Nat := fld e 64 64
def hDim (e : BitVec 512) (d : Nat) : Nat := fld e (128 + 32 * d) 32
/-- STRIDE1 to STRIDE3. -/
def hStride (e : BitVec 512) (d : Nat) : Nat := fld e (256 + 64 * (d - 1)) 64
def hLimit (e : BitVec 512) : Nat := fld e 448 48
/-- Memory element size in bits. -/
def hBits (e : BitVec 512) : Nat := match hType e with
  | some f => f.memBits
  | none => 0

/-- The entry checks of R68 (HANDLE_INVALID where they fail); R70 for SPACE CONST. -/
def hEntryOk (e : BitVec 512) : Bool :=
  e.getLsbD 0 && fld e 20 12 == 0 && fld e 42 22 == 0 && fld e 496 16 == 0 && hSpace e ≤ 5 && hLayout e != 3 && hCpol e ≤ 3 &&
  (hType e).isSome && (List.range (hNdim e + 1)).all (fun d => hDim e d != 0) && !(hMow e && hLayout e != 1) &&
  !(hSpace e == 2 && hCpol e != 3) && !(hSpace e == 5 && (hWr e || hLayout e != 0 || hBase e ≥ 8)) &&
  !(hScaled e && !(match hType e with | some f => Fmt.mxe.contains f | none => false))

/-- The permission check of R68: SUBC 0 for a missing RD, 1 for a missing WR. -/
def hPerm (e : BitVec 512) (rd wr : Bool) : Option Bad :=
  if rd && !(hRd e) then some (.trap .permission 0) else if wr && !(hWr e) then some (.trap .permission 1) else none

/-- Entry checks, the kind a description requires (R404), then permission, in order. -/
def hCheck (e : BitVec 512) (kindOk rd wr : Bool) : Option Bad :=
  if !(hEntryOk e) then some (.trap .handleInvalid 0) else if !kindOk then some (.trap .layoutMismatch 0) else hPerm e rd wr

/-- Coordinates of a tensor element. -/
structure Coord where
  x0 : Nat
  x1 : Nat := 0
  x2 : Nat := 0
  x3 : Nat := 0
  deriving DecidableEq, Repr

/-- The first dimension a coordinate leaves (R68). -/
def hCoordBad (e : BitVec 512) (x : Coord) : Option Nat :=
  let bad (d v : Nat) : Bool := if d ≤ hNdim e then v ≥ hDim e d else v != 0
  if bad 0 x.x0 then some 0 else if bad 1 x.x1 then some 1 else if bad 2 x.x2 then some 2 else if bad 3 x.x3 then some 3 else none

/-- Bits from BASE to the element (R68). -/
def hElemBit (e : BitVec 512) (x : Coord) : Nat :=
  x.x0 * hBits e + 8 * (x.x1 * hStride e 1 + x.x2 * hStride e 2 + x.x3 * hStride e 3)

/-- Bounds of one element: coordinates, then LIMIT for LAYOUT 0 and 2 (R68). -/
def hBounds (e : BitVec 512) (x : Coord) : Option Bad :=
  match hCoordBad e x with
  | some d => some (.trap .handleBounds d)
  | none =>
    if hLayout e != 1 && (hElemBit e x + hBits e + 7) / 8 > hLimit e then some (.trap .handleBounds 4) else none

/-- The packed start rule of R68. -/
def hPackedBad (e : BitVec 512) (x0 : Nat) : Option Bad :=
  if hLayout e == 1 then none
  else if hBits e == 6 && x0 % 4 != 0 then some (.trap .alignment 0x82)
  else if hBits e == 4 && x0 % 2 != 0 then some (.trap .alignment 0x81)
  else none

/-! ### Local memory (R138, R253, R254) -/

def BindRec.groups (r : BindRec) : List Nat := (List.range r.lmn.toNat).map (fun i => fld r.lmap (2 * i) 2)
/-- A strand's LM groups on a core have been bound to another launch. -/
def State.groupsLost (s : State) (core : Nat) (t : Strand) : Bool :=
  s.binds.any (fun x => coreOf x.1 == core && x.2.valid && (x.2.state == 1 || x.2.state == 2) && x.2.lnch != t.lnch &&
    x.2.groups.any (fun g => t.lmGroups.contains g))
/-- The strand of a launch on a core: one that lives, else one that has retired or been killed and whose slot and LM groups are not bound
again (log 84, DEDUCED). -/
def State.launchOn (s : State) (core : Nat) (lnch : Word) : Option Nat :=
  let l := ((List.range 4).map (fun k => 4 * core + k)).filter (fun n => (s.strand n).st != .unbound && (s.strand n).lnch == lnch)
  match l.find? (fun n => (s.strand n).st != .retired && (s.strand n).st != .killed) with
  | some n => some n
  | none => l.find? (fun n => !(s.groupsLost core (s.strand n)))

/-- Physical LM offset of a logical offset of a launch on a core; none where the group is not held (R253). -/
def State.lmPhys (s : State) (slot core : Nat) (o : Nat) : Option Nat :=
  let n := if coreOf slot = core then some slot else s.launchOn core (s.strand slot).lnch
  match n with
  | none => none
  | some n => match (s.strand n).lmGroups[o / 2 ^ 19]? with
    | some g => some (g * 2 ^ 19 + o % 2 ^ 19)
    | none => none

/-- Words of a byte range of LM. -/
def lmWords (off n : Nat) : List Nat := if n = 0 then [] else (List.range ((off + n - 1) / 4 - off / 4 + 1)).map (fun i => off / 4 + i)
/-- The words of a piece in local memory. -/
def pieceWords : Piece → List Nat
  | .lm _ off n => lmWords off n
  | _ => []
def Core.lmRead (c : Core) (off n : Nat) : List Byte := c.lm.read off n
/-- An uncorrectable error in a word of the range. -/
def Core.lmUe (c : Core) (off n : Nat) : Bool := (lmWords off n).any (fun w => c.lmBad.contains w || c.lmFresh.contains w)
def Core.lmFull (c : Core) (w : Nat) : Bool := c.full.contains w
/-- Store bytes; words that the list of offsets covers whole lose their error, and with it their full bit (R254). -/
def Core.lmWrite (c : Core) (off : Nat) (bs : List Byte) : Core := { c with lm := c.lm.write off bs }
def Core.lmHeal (c : Core) (ws : List Nat) : Core :=
  let healed := ws.filter (fun w => c.lmBad.contains w || c.lmFresh.contains w)
  { c with
    lmBad := c.lmBad.filter (fun w => !(ws.contains w)), lmFresh := c.lmFresh.filter (fun w => !(ws.contains w))
    lmCe := c.lmCe.filter (fun w => !(ws.contains w)), full := c.full.filter (fun w => !(healed.contains w)) }
/-- Words covered whole by a set of byte offsets. -/
def wholeWords (bytes : List Nat) : List Nat :=
  (bytes.map (· / 4)).eraseDups.filter (fun w => [0, 1, 2, 3].all (fun k => bytes.contains (4 * w + k)))
/-- A full word store (R254). -/
def Core.lmStore (c : Core) (off : Nat) (bs : List Byte) : Core :=
  (c.lmWrite off bs).lmHeal (wholeWords ((List.range bs.length).map (off + ·)))

/-- What a read of LM words does to the error state (R254, R387): a corrected error counts; the first read of an uncorrectable one posts
a Contained record, and the word stays marked. -/
def State.noteLm (s : State) (core off n : Nat) : State :=
  (lmWords off n).foldl (fun t w =>
    let c := t.core core
    if c.lmFresh.contains w then
      (t.modCore core (fun c => { c with lmFresh := setDel c.lmFresh w, lmBad := setAdd c.lmBad w })).postError
        { cls := 2, ukind := 0, unit := core, evt := 1, addr := 4 * w }
    else if c.lmCe.contains w && !(c.lmBad.contains w) then
      (t.modCore core (fun c => { c with lmErrors := satInc c.lmErrors })).countCorrected 0 core (satInc c.lmErrors)
    else t) s

/-- Where an LM operand lies, or its failure with OPND. -/
inductive LmRes where
  | ok (core off : Nat)
  | bad (b : Bad) (opnd : Nat)
  /-- another operation comes before it at one of the words (R256) -/
  | busy (core off : Nat)
  deriving DecidableEq, Repr

/-- One of the words has been taken in this cycle (R256). -/
def State.lmUsed (s : State) (core : Nat) (ws : List Nat) : Bool :=
  (s.core core).lmAt == s.cycle + 1 && ws.any (fun w => (s.core core).lmTaken.contains w)
/-- A head that may issue has arrived at one of the words before `at_`, or in that cycle from a lower slot (R256). -/
def State.lmAhead (s : State) (core : Nat) (ws : List Nat) (at_ slot : Nat) : Bool :=
  s.strands.any (fun x => mayIssue s.cycle x.2 && [x.2.lq, x.2.sq].any (fun l => match l.head?.bind (·.claim) with
    | some c => c.core == core && (c.at_ < at_ || (c.at_ == at_ && x.1 < slot)) && ws.any (fun w => c.words.contains w)
    | none => false))
/-- The cycle in which the operation that acts arrived at its bank. -/
def State.arrival (s : State) : Nat := match s.acting with
  | .front => s.cycle
  | .queue q => (((s.me.queue q).head?.bind (·.claim)).map (·.at_)).getD s.cycle
/-- The words are not this operation's in this cycle (R256). -/
def State.lmBusy (s : State) (core : Nat) (ws : List Nat) : Bool := s.lmUsed core ws || s.lmAhead core ws s.arrival s.cur
/-- An operation takes its words for this cycle. -/
def State.takeWords (s : State) (core : Nat) (ws : List Nat) : State :=
  s.modCore core (fun c => { c with lmAt := s.cycle + 1, lmTaken := (if c.lmAt = s.cycle + 1 then c.lmTaken else []) ++ ws })
def State.takeLm (s : State) (core off n : Nat) : State := s.takeWords core (lmWords off n)
/-- The checks of R138 in the order of its table; `sel` is the core selector, if named. The alignment is that of the byte reached, BASE + o,
which R138 does not set apart from that of the offset o (log 76, DESIGN CHOICE). -/
def State.lmOperand (s : State) (e : BitVec 512) (o : Word) (sel : Option Nat) (size align : Nat) (rd wr : Bool) : LmRes :=
  if (match sel with | some k => decide (k > 3) | none => false) then .bad (.trap .illegalOperand 0) 4
  else match hCheck e (hSpace e == 0 && hLayout e == 0) rd wr with
    | some b => .bad b 2
    | none =>
      let core := match sel with | some k => clusterCore s.myCore k | none => s.myCore
      if core != s.myCore && (s.launchOn core s.me.lnch).isNone then .bad (.trap .claimViolation 0) 0
      else if o.toNat + size > hLimit e then .bad (.trap .handleBounds 4) 2
      else if (hBase e + o.toNat) % align != 0 then .bad (.trap .alignment (Nat.log2 align)) 0
      else match s.lmPhys s.cur core (hBase e + o.toNat) with
        | some p => if s.lmBusy core (lmWords p size) then .busy core p else .ok core p
        | none => .bad (.trap .handleBounds 5) 2

/-- The words of an engine's access are free in this cycle: it comes after the strands' operations (R256). -/
def State.wordsFree (s : State) (ps : List Piece) : Bool := ps.all (fun p => match p with
  | .lm c off n => !(s.lmUsed c (lmWords off n))
  | _ => true)
def State.takePieces (s : State) (ps : List Piece) : State := ps.foldl (fun t p => match p with
  | .lm c off n => t.takeLm c off n
  | _ => t) s

/-! ### Constant windows (R65, R66) -/

/-- Key of a constant-cache line: the context and the line of the virtual address. -/
def constKey (pasid : BitVec 20) (va : Word) : Nat := pasid.toNat * 2 ^ 58 + va.toNat / 64

/-- The pieces of consecutive addresses, none of which crosses a 64-byte line, as reads of the constant cache. -/
def konsPieces (pasid : BitVec 20) : Word → List Piece → List Piece
  | _, [] => []
  | va, .mem sp off n _ :: r =>
    let a := min n (64 - va.toNat % 64)
    let va2 := va + BitVec.ofNat 64 a
    .kons (constKey pasid va) sp off a :: (if a < n then [.kons (constKey pasid va2) sp (off + a) (n - a)] else []) ++
      konsPieces pasid (va + BitVec.ofNat 64 n) r
  | va, p :: r => p :: konsPieces pasid va r
/-- Row and page states against an access (R231, R291, R303): checked at issue, before anything performs. -/
def State.piecesFate (s : State) (isWrite : Bool) : List Piece → Option Bad
  | [] => none
  | .mem sp off n _ :: r => match s.rowFate isWrite sp off n with
    | some c => some (.trap c 0)
    | none => s.piecesFate isWrite r
  | _ :: r => s.piecesFate isWrite r
/-- The translation of a constant or handle-table read: never held (R66, R71). -/
def State.constPlace (s : State) (slot : Nat) (sys : Bool) (va : Word) (n : Nat) : Except Bad (List Piece) :=
  let t := s.strand slot
  match s.translateRange (coreOf slot) t.pasid sys .const 3 va n with
  | .error e => .error e
  | .ok ps => match s.piecesFate false ps with
    | some b => .error b
    | none => .ok (konsPieces t.pasid va ps)

/-- Window checks of R66 before translation. -/
def constCheck (cwb : Word) (byteOff n : Nat) (odd : Bool) : Option Bad :=
  if !(cwb.getLsbD 0) then some (.trap .handleInvalid 0)
  else if odd then some (.trap .alignment 3)
  else if byteOff + n > (fld cwb 1 7 + 1) * 4096 then some (.trap .handleBounds 4)
  else none
def constVa (cwb : Word) (byteOff : Nat) : Word := BitVec.ofNat 64 (fld cwb 12 52 * 4096 + byteOff)

/-! ### Bytes behind pieces -/

/-- What a read of pieces gives: the state after it, the bytes, and the SUBC of DATA_POISON where poison was met (R262). -/
structure Got where
  s : State
  bytes : List Byte := []
  poison : Option Nat := none
  deriving DecidableEq, Repr

def firstSome (a b : Option Nat) : Option Nat := match a with
  | some x => some x
  | none => b

/-- Bytes of a line kept in a constant cache. -/
def lineBytes (d : BitVec 512) (off n : Nat) : List Byte := (List.range n).map (fun i => d.extractLsb' (8 * ((off + i) % 64)) 8)

/-- Read one piece on behalf of a core. A constant read returns its cached copy or the memory's bytes (R66; free choice, log 2, DESIGN CHOICE). What
comes from another device, and whether it is poisoned, is a free value (log 21, DESIGN CHOICE), as are bytes that no access reaches (log 89,
DESIGN CHOICE). -/
def State.readPiece (s : State) (core : Nat) (p : Piece) : Got :=
  match p with
  | .lm c off n => { s := s.noteLm c off n, bytes := (s.core c).lmRead off n, poison := if (s.core c).lmUe off n then some 0 else none }
  | .mem sp off n size =>
    let r := ((s.cxlRead sp off n size).noteL1 core sp off n).readMem sp off n
    { s := r.1, bytes := r.2.1, poison := if r.2.2 then some (s.poisonSub sp off n) else none }
  | .remote pos off n =>
    { s := s.askWindow pos (fun tag => .read tag s.cur off n)
      bytes := (List.range n).map (fun i => (Config.freeBits (s.fv + 620 + pos) (off + i)).extractLsb' 0 8)
      poison := if Config.freeBool (s.fv + 610 + pos) then some 2 else none }
  | .kons key sp off n =>
    let r := (s.cxlRead sp off n 64).readMem sp off n
    match tabFind (s.core core).ccache key with
    | some d => if Config.freeBool (s.fv + 42) then { s := s, bytes := lineBytes d off n }
      else { s := r.1, bytes := r.2.1, poison := if r.2.2 then some (s.poisonSub sp off n) else none }
    | none =>
      let line := lineFrom (fun a => r.1.physByte sp a) (off / 64)
      if r.2.2 then { s := r.1, bytes := r.2.1, poison := some (s.poisonSub sp off n) }
      else { s := r.1.modCore core (fun c => { c with ccache := tabPut c.ccache key line }), bytes := r.2.1 }
  | .fixed v n => { s := s, bytes := leBytes n v.toNat }
  | .hidden n => { s := s, bytes := (List.range n).map (fun i => (Config.freeBits (s.fv + 603) i).extractLsb' 0 8) }

def State.readPieces (s : State) (core : Nat) : List Piece → Got
  | [] => { s := s }
  | p :: r =>
    let a := s.readPiece core p
    let b := a.s.readPieces core r
    { s := b.s, bytes := a.bytes ++ b.bytes, poison := firstSome a.poison b.poison }

/-- A write to a page in host bias is performed at the memory port: it leaves no dirty line (R360); nor does one that is not to be cached (R90). -/
def State.writeThru (s : State) (party : Party) (whole : Bool) (sp : MemSpace) (off : Nat) (bs : List Byte) (size : Nat) : State :=
  let s1 := (s.cxlWrite sp off bs.length size).writeMem party whole sp off bs
  let us := unitsOf sp off bs.length
  if size ≠ 0 then s1
  else match sp with
    | .il => us.foldl (fun t u => t.flushDev u) s1
    | .bl => s1
    | .host => us.foldl (fun t u => t.flushHost u) s1
    | .pool => us.foldl (fun t u => t.flushPool u) s1
/-- Write bytes through pieces as `party`; `whole` as in `writeMem`. -/
def State.writePieces (s : State) (party : Party) (whole : Bool) (bs : List Byte) : List Piece → State
  | [] => s
  | .lm c off n :: r => ((s.endLocal party c off n).modCore c (fun k => k.lmStore off (bs.take n))).writePieces party whole (bs.drop n) r
  | .mem sp off n size :: r => (s.writeThru party whole sp off (bs.take n) size).writePieces party whole (bs.drop n) r
  | .remote pos off n :: r =>
    (s.askWindow pos (fun tag => .write tag s.cur off (bs.take n))).writePieces party whole (bs.drop n) r
  | .kons _ _ _ n :: r => s.writePieces party whole (bs.drop n) r
  | .fixed _ n :: r => s.writePieces party whole (bs.drop n) r
  | .hidden n :: r => s.writePieces party whole (bs.drop n) r

/-- Mark the memory behind pieces as poisoned (R223, R305). -/
def State.poisonPieces (s : State) : List Piece → State
  | [] => s
  | .mem sp off n _ :: r => (s.poisonRange sp off n).poisonPieces r
  | .lm c off n :: r => (s.modCore c (fun k => { k with lmBad := (lmWords off n).foldl setAdd k.lmBad })).poisonPieces r
  | _ :: r => s.poisonPieces r

/-- The place of every byte, as one number: the locations of an access (R264, R267). -/
def pieceLocs : List Piece → List Nat
  | [] => []
  | .lm c off n :: r => (List.range n).map (fun i => lmKey c (off + i)) ++ pieceLocs r
  | .mem sp off n _ :: r => (List.range n).map (fun i => locKey sp (off + i)) ++ pieceLocs r
  | .remote pos off n :: r => (List.range n).map (fun i => (6 + pos) * 2 ^ 60 + off + i) ++ pieceLocs r
  | .kons _ sp off n :: r => (List.range n).map (fun i => locKey sp (off + i)) ++ pieceLocs r
  | .fixed _ n :: r => List.replicate n (2 ^ 70) ++ pieceLocs r
  | .hidden n :: r => List.replicate n (2 ^ 70) ++ pieceLocs r
/-- Two accesses have a byte in common. -/
def sharesByte (a b : List Piece) : Bool := (pieceLocs a).any (fun k => (pieceLocs b).contains k)

/-- A stretch of pieces. -/
def slicePieces : List Piece → Nat → Nat → List Piece
  | [], _, _ => []
  | p :: r, o, n =>
    let cut (len : Nat) (mk : Nat → Nat → Piece) : List Piece :=
      if len ≤ o then slicePieces r (o - len) n
      else
        let k := min n (len - o)
        if n = 0 then [] else mk o k :: slicePieces r 0 (n - k)
    match p with
    | .lm c off len => cut len (fun a k => .lm c (off + a) k)
    | .mem sp off len size => cut len (fun a k => .mem sp (off + a) k size)
    | .remote pos off len => cut len (fun a k => .remote pos (off + a) k)
    | .kons key sp off len => cut len (fun a k => .kons key sp (off + a) k)
    | .fixed v len => cut len (fun _ k => .fixed v k)
    | .hidden len => cut len (fun _ k => .hidden k)
/-! ### When an access performs (R264 to R266)

A store performs when it issues or when its reply comes, a scalar load binds its value when it issues or when it is delivered: one free
choice for each (log 10, DESIGN CHOICE). Accesses of one queue to a common byte keep their order. -/

/-- Writes of the strand that are on their way and satisfy `hit` perform. -/
def State.settleLate (s : State) (slot : Nat) (hit : LateWrite → Bool) : State :=
  let t := s.strand slot
  match (t.flight.flatMap (fun f => f.late) ++ t.late).filter hit with
  | [] => s
  | l =>
    let rest (x : List LateWrite) : List LateWrite := x.filter (fun w => !(hit w))
    (l.foldl (fun u w => u.writePieces t.party false w.bytes w.pieces) s).setStrand slot
      { t with flight := t.flight.map (fun f => { f with late := rest f.late }), late := rest t.late }
/-- A load binds the values that satisfy `hit`: what it reads now, but where poison has come since. -/
def State.bindLoad (s : State) (slot : Nat) (hit : List Piece → Bool) (f : Flight) : Flight :=
  { f with
    rebind := f.rebind.filter (fun x => !(hit x.pieces))
    vals := (f.rebind.filter (fun x => hit x.pieces)).foldl (fun vs x =>
      let g := s.readPieces (coreOf slot) x.pieces
      if g.poison.isSome then vs else vs.set x.k (extInt x.fmt (leNat g.bytes))) f.vals }
/-- Loads of the strand that may still bind a value bind those that satisfy `hit`. -/
def State.settleLoads (s : State) (slot : Nat) (hit : List Piece → Bool) : State :=
  let t := s.strand slot
  if t.flight.any (fun f => f.rebind.any (fun x => hit x.pieces)) then
    s.setStrand slot { t with flight := t.flight.map (s.bindLoad slot hit) }
  else s
/-- Every access on its way performs: before a translation that it used may go (R134, R355). -/
def State.settleAll (s : State) : State :=
  s.strands.foldl (fun t x => (t.settleLate x.1 (fun _ => true)).settleLoads x.1 (fun _ => true)) s
/-- Before a release, the strand's earlier writes perform (R266). -/
def State.flushLate (s : State) : State := s.settleLate s.cur (fun _ => true)
/-- Before an access of the S queue, the earlier writes to its bytes perform (R266). -/
def State.flushFor (s : State) (ps : List Piece) : State := s.settleLate s.cur (fun w => sharesByte w.pieces ps)
/-- Before a load, earlier loads of its bytes bind their values (R266). -/
def State.bindFor (s : State) (ps : List Piece) : State := s.settleLoads s.cur (fun l => sharesByte l ps)
def Piece.inMemory : Piece → Bool
  | .mem _ _ _ _ => true
  | _ => false
/-- A store of the strand that acts. -/
def State.store (s : State) (bs : List Byte) (ps : List Piece) : State :=
  let s1 := s.flushFor ps
  if ps.all Piece.inMemory && (Config.freeBits (s.fv + 900) ((pieceLocs ps).headD 0)).getLsbD 0 then
    s1.modStrand s.cur (fun t => { t with late := t.late ++ [⟨ps, bs⟩] })
  else s1.writePieces s1.myParty false bs ps
/-- A scalar load of the strand that acts has read value `k`, and may bind it later. -/
def State.mayRebind (s : State) (k : Nat) (x : Fmt) (ps : List Piece) : State :=
  if ps.all Piece.inMemory && Config.freeBool (s.fv + 901 + k) then s.modStrand s.cur (fun t => { t with rebind := t.rebind ++ [⟨k, ps, x⟩] }) else s

/-! ### Caching (R67, R90) -/

/-- The policy of an access, as CPOL codes it: that of its hint, else that of its handle; pages have none of their own. `keep` and `last` follow the
default policy; they say which line the L2 evicts first, and a line may be evicted at any moment (log 99, DEDUCED). -/
def policyOf (hint : BitVec 3) (cpol : Nat) : Nat := match hint.toNat with
  | 1 => 0
  | 2 => 1
  | 3 => 2
  | 4 => 3
  | _ => cpol
/-- The units of a range lie in the L2 already. -/
def State.inL2 (s : State) (sp : MemSpace) (off n : Nat) : Bool :=
  let t := match sp with
    | .il => s.l2
    | .bl => []
    | .host => s.hostL2
    | .pool => s.poolL2
  (unitsOf sp off n).all (fun u => (tabFind t u).isSome)
/-- The pieces of an access under its policy: one that is not cached, or that streams past the L2, leaves no line there. -/
def State.cached (s : State) (pol : Nat) (ps : List Piece) : List Piece :=
  if pol < 2 then ps
  else ps.map (fun p => match p with
    | .mem sp off n size => .mem sp off n (if pol = 3 || !(s.inL2 sp off n) then 0 else size)
    | p => p)

/-! ### Accesses by address (R137) -/

/-- ALIGNMENT, translation, then row and page states of an access by address of the strand that acts. -/
def State.vaPlace (s : State) (va : Word) (n align : Nat) (acc : Acc) : Except Bad (List Piece) :=
  if va.toNat % align != 0 then .error (.trap .alignment (Nat.log2 align))
  else match s.translateRange s.myCore s.me.pasid s.me.sys acc 3 va n with
    | .error b => .error b
    | .ok ps => match s.piecesFate (acc != .read) ps with
      | some b => .error b
      | none => .ok ps

/-! ### Accesses through a handle (R68, R70, R289, R350, R351) -/

/-- BANKSTRIPE (R289): every touched page is a DEV.BL page of 2 MiB or more. -/
def stripeOk (ps : List Piece) : Bool := ps.all (fun p => match p with
  | .mem sp _ _ size => sp == .bl && size ≥ 2 ^ 21
  | _ => false)

/-- LM bytes of a launch, group by group. -/
def State.lmRange (s : State) (slot core off n : Nat) : Except Bad (List Piece) :=
  let k := min n (2 ^ 19 - off % 2 ^ 19)
  match s.lmPhys slot core off, (if n = k then some 0 else s.lmPhys slot core (off + k)) with
  | some p, some q => .ok (if n = k then [.lm core p n] else [.lm core p k, .lm core q (n - k)])
  | _, _ => .error (.trap .handleBounds 5)

/-- Bytes at an offset from a handle's BASE, for LAYOUT 0 and 2. `cwb` are the window registers in effect. -/
def State.hRange (s : State) (slot : Nat) (sys : Bool) (e : BitVec 512) (cwb : Tab Word) (acc : Acc) (off n : Nat) :
    Except Bad (List Piece) :=
  let t := s.strand slot
  match hSpace e with
  | 0 => s.lmRange slot (coreOf slot) (hBase e + off) n
  | 5 =>
    let w := tabGet cwb 0 (hBase e % 8)
    match constCheck w off n false with
    | some b => .error b
    | none => s.constPlace slot sys (constVa w off) n
  | _ =>
    match s.translateRange (coreOf slot) t.pasid sys acc (n / 4096 + 3) (BitVec.ofNat 64 (hBase e + off)) n with
    | .error b => .error b
    | .ok ps =>
      if hLayout e == 2 && !(stripeOk ps) then .error (.trap .layoutMismatch 0)
      else match s.piecesFate (acc != .read) ps with
        | some b => .error b
        | none => .ok ps

/-- Number of the tile that holds an element (R350). -/
def tileNumber (e : BitVec 512) (x : Coord) : Nat :=
  let t0 := (hDim e 0 + 63) / 64
  let t1 := (hDim e 1 + 63) / 64
  x.x0 / 64 + t0 * (x.x1 / 64 + t1 * (x.x2 + hDim e 2 * x.x3))

/-- A tile-table entry (R350), by its KIND. -/
inductive TileEntry where
  | absent
  | frame (sp : MemSpace) (at_ : Nat)
  | const (v : BitVec 32)
  | compressed (loc : Nat)
  | invalid
  deriving DecidableEq, Repr
def tileEntry (w : BitVec 64) : TileEntry :=
  match fld w 0 2 with
  | 0 => if fld w 4 5 != 0 || fld w 52 12 != 0 then .invalid else .absent
  | 1 => if fld w 4 5 != 0 || fld w 52 12 != 0 then .invalid else
    match fld w 2 2 with
    | 0 => .frame .il (fld w 9 43 * 512)
    | 1 => .frame .host (fld w 9 43 * 512)
    | 2 => .frame .pool (fld w 9 43 * 512)
    | _ => .invalid
  | 2 => if fld w 2 30 != 0 then .invalid else .const (w.extractLsb' 32 32)
  | _ => .compressed (fld w 2 62)

/-- A tile's entry as its layout unit has it, and its address (R350: the read needs R on its page); where an entry that the unit keeps differs
from memory's, either of them (R351; a free choice, log 2, DESIGN CHOICE). -/
def State.tileWord (s : State) (slot : Nat) (sys : Bool) (e : BitVec 512) (x : Coord) : Except Bad (BitVec 64 × Word) :=
  let va := BitVec.ofNat 64 (hBase e + 8 * tileNumber e x)
  let pasid := (s.strand slot).pasid
  match s.translateRange (coreOf slot) pasid sys .read 3 va 8 with
  | .error b => .error b
  | .ok ps => match s.piecesFate false ps with
    | some b => .error b
    | none =>
    let g := s.readPieces (coreOf slot) ps
    let now := BitVec.ofNat 64 (leNat g.bytes)
    let mine : Except Bad (BitVec 64 × Word) := match g.poison with
      | some c => .error (.trap .dataPoison c)
      | none => .ok (now, va)
    match (s.quad (quadOf (coreOf slot))).tiles.filter (fun k => k.pasid == pasid && k.va == va && k.entry != now) with
    | [] => mine
    | l => match l[(Config.freeBits (s.fv + 600) 0).toNat % (l.length + 1)]? with
      | some k => .ok (k.entry, va)
      | none => mine
def State.tileLookup (s : State) (slot : Nat) (sys : Bool) (e : BitVec 512) (x : Coord) : Except Bad (TileEntry × Word) :=
  (s.tileWord slot sys e x).map (fun r => (tileEntry r.1, r.2))
/-- The layout unit keeps the entry of an element's tile (R351). -/
def State.keepTile (s : State) (slot : Nat) (sys : Bool) (h : Nat) (e : BitVec 512) (x : Coord) : State :=
  if hLayout e != 1 then s
  else match s.tileWord slot sys e x with
    | .error _ => s
    | .ok (w, va) =>
      let k : TileCopy := ⟨(s.strand slot).pasid, h, va, w⟩
      let q := quadOf (coreOf slot)
      let d := s.quad q
      if d.tiles.contains k then s else s.setQuad q { d with tiles := d.tiles ++ [k] }

/-- Bits from the start of a tile to an element (R350). -/
def tileBit (e : BitVec 512) (x : Coord) : Nat := (x.x1 % 64 * 64 + x.x0 % 64) * hBits e

/-- An element's place: pieces that hold it, and its first bit within them. -/
structure ElemAt where
  pieces : List Piece
  shift : Nat := 0
  deriving DecidableEq, Repr

/-- The place of `w` elements of a row in a FRAME tile whose entry is at `va`; its home may lie beyond the ring (R350, R351, R378). -/
def State.frameAt (s : State) (e : BitVec 512) (sp : MemSpace) (o : Nat) (va : Word) (isWrite : Bool) (x : Coord) (w : Nat) : Except Bad ElemAt :=
  let b := tileBit e x
  let p := s.pieceAt sp (o + b / 8) ((b % 8 + w * hBits e + 7) / 8) 512
  if s.beyond p then .error (.held .league .dataPoison va (if isWrite then 1 else 0))
  else match s.piecesFate isWrite [p] with
  | some bad => .error bad
  | none => .ok { pieces := [p], shift := b % 8 }
/-- Where an element lies. A CONST tile gives its constant to a read; a write to it is refused, or held as MATERIALISE with MOW
(R292). A COMPRESSED tile traps (R292); an ABSENT one is held as TILE (R351). -/
def State.elemAt (s : State) (slot : Nat) (sys : Bool) (e : BitVec 512) (cwb : Tab Word) (isWrite : Bool) (x : Coord) :
    Except Bad ElemAt :=
  let acc : Acc := if isWrite then .write else .read
  if hLayout e == 1 then
    match s.tileLookup slot sys e x with
    | .error b => .error b
    | .ok (.invalid, _) => .error (.trap .handleInvalid 0)
    | .ok (.absent, va) => .error (.held .tile .pageFault va acc.code)
    | .ok (.compressed _, _) => .error (.trap .layoutMismatch 0)
    | .ok (.const v, va) =>
      if !isWrite then .ok { pieces := [.fixed v 4] }
      else if hMow e then .error (.held .materialise .constWrite va 1)
      else .error (.trap .constWrite 0)
    | .ok (.frame sp o, va) => s.frameAt e sp o va isWrite x 1
  else
    let b := hElemBit e x
    match s.hRange slot sys e cwb acc (b / 8) ((b % 8 + hBits e + 7) / 8) with
    | .error bad => .error bad
    | .ok ps => .ok { pieces := ps, shift := b % 8 }

/-- The element lies in a COMPRESSED tile. -/
def State.inCompressed (s : State) (slot : Nat) (sys : Bool) (e : BitVec 512) (x : Coord) : Bool :=
  hLayout e == 1 && match s.tileLookup slot sys e x with
    | .ok (.compressed _, _) => true
    | _ => false
/-- The failure of a write to a CONST tile (R292). -/
def Bad.ofConst : Bad → Bool
  | .trap .constWrite _ => true
  | .held .materialise _ _ _ => true
  | _ => false

/-- Memory-form bits of an element, as its pieces give them. -/
def State.elemRead (s : State) (core : Nat) (bits : Nat) (p : ElemAt) : Got × Nat :=
  let g := s.readPieces core p.pieces
  (g, leNat g.bytes / 2 ^ p.shift % 2 ^ bits)
/-- Store the memory-form bits of an element; the rest of a packed byte keeps its bits (R36, R37). -/
def State.elemWrite (s : State) (core : Nat) (party : Party) (bits : Nat) (p : ElemAt) (v : Nat) : State :=
  let old := leNat (s.readPieces core p.pieces).bytes
  let n := (p.shift + bits + 7) / 8
  let keep := old - old / 2 ^ p.shift % 2 ^ bits * 2 ^ p.shift
  s.writePieces party false (leBytes n (keep + v % 2 ^ bits * 2 ^ p.shift)) p.pieces

/-- Memory form to container (R25), and back: CI12 and the packed formats drop their fill, INT12, whose memory form has one, is filled. -/
def memToReg (f : Fmt) (bits : Nat) : Nat :=
  match f with
  | .ci12 => bits % 2 ^ 24
  | _ => f.fill (bits % 2 ^ f.memBits)
def regToMem (f : Fmt) (code : Nat) : Nat :=
  match f with
  | .int12 => f.fill code % 2 ^ f.memBits
  | _ => code % 2 ^ f.memBits

/-! ### Vector registers and masks (R56, R58, R61) -/

/-- Physical vector register of a name (R56). -/
def Strand.physV (t : Strand) (n : Nat) : Nat := 8 * t.wbase.toNat + n
/-- Columns that one mask bit governs (R61). -/
def maskGroup (cols : Nat) : Nat := if cols ≤ 64 then 1 else if cols ≤ 128 then 2 else 4

/-- The `n` elements of `eb` bytes of a register as the instruction of order `seq` reads them: a free value for an element that an
instruction inside its window has written, and for every element while a load into the register is not delivered (R87, R163). -/
def State.tileAt (s : State) (slot seq phys eb n : Nat) : List Nat :=
  let t := s.strand slot
  let bs := (s.core (coreOf slot)).vrf.read (16384 * phys) (n * eb)
  let all := t.loading seq (.v phys)
  (List.range n).map (fun k =>
    if all || t.writtenBy s.cycle (.v phys) (k * eb) eb then (Config.freeBits (s.fv + 43 + phys) k).toNat % 2 ^ (8 * eb)
    else leNat ((bs.drop (k * eb)).take eb))
/-- The place in program order of the queue's head that acts. -/
def State.actSeq (s : State) : Nat := match s.acting with
  | .front => 0
  | .queue q => ((s.me.queue q).head?.map (·.seq)).getD 0
/-- The elements of a register as the head that acts reads them. -/
def State.tile (s : State) (slot phys eb n : Nat) : List Nat := s.tileAt slot s.actSeq phys eb n

/-- Where two writes to a tile meet, each element ends with one of the two results (R88, R163; free choice, log 2, DESIGN CHOICE). -/
def State.meet (s : State) (phys eb : Nat) (vs : List (Option Nat)) : List (Option Nat) :=
  vs.zipIdx.map (fun v =>
    if s.me.writtenBy s.cycle (.v phys) (v.2 * eb) eb && (Config.freeBits (s.fv + 9 + phys) v.2).getLsbD 0 then none else v.1)
/-- The written elements as runs of bytes. -/
def runsOf (d : Dst) (eb : Nat) : Nat → List (Option Nat) → List Run
  | _, [] => []
  | k, none :: r => runsOf d eb (k + 1) r
  | k, some _ :: r => match runsOf d eb (k + 1) r with
    | x :: q => if x.lo = (k + 1) * eb then { x with lo := k * eb, n := x.n + eb } :: q else ⟨d, k * eb, eb⟩ :: x :: q
    | [] => [⟨d, k * eb, eb⟩]
/-- Replace a tile's elements; `none` keeps an element (R58, R61). -/
def State.putTile (s : State) (core phys eb : Nat) (vs : List (Option Nat)) : State :=
  s.modCore core (fun c =>
    let old := c.vrf.read (16384 * phys) (vs.length * eb)
    let bs := vs.zipIdx.flatMap (fun v => match v.1 with
      | some x => leBytes eb x
      | none => (old.drop (v.2 * eb)).take eb)
    { c with vrf := c.vrf.write (16384 * phys) bs })
/-- An instruction has written runs of tiles and masks: they belong to its window, and a load decoded before it that still waits has met
them (R88). -/
def Strand.noteRuns (t : Strand) (seq : Nat) (rs : List Run) : Strand :=
  { t with
    wrote := t.wrote ++ rs
    lq := t.lq.map (fun e => if e.seq < seq && rs.any (fun r => e.dsts.contains r.dst) then { e with met := e.met ++ rs } else e) }
/-- Write a tile's elements as the strand that acts; `none` keeps an element (R58, R61). -/
def State.writeTile (s : State) (core phys eb : Nat) (vs0 : List (Option Nat)) : State :=
  let vs := s.meet phys eb vs0
  (s.putTile core phys eb vs).modStrand s.cur (fun t => t.noteRuns s.actSeq (runsOf (.v phys) eb 0 vs))

/-- The bits of a mask's row that an instruction inside its window has written. -/
def Strand.maskWritten (t : Strand) (cyc k i : Nat) : Word :=
  if t.inFlight cyc (.m k) then
    (List.range 64).foldl (fun w j => if t.writtenBy cyc (.m k) (64 * i + j) 1 then setFld w j 1 1 else w) 0
  else 0
/-- Row `i` of a mask as an instruction reads it: a free value for the bits inside a window (R87). -/
def State.maskRow (s : State) (slot k i : Nat) : Word :=
  let t := s.strand slot
  let m := t.maskWritten s.cycle k i
  (t.getK k i &&& ~~~m) ||| (Config.freeWord (s.fv + 200 + 64 * k + i) &&& m)
/-- Is element (i, j) governed by a set bit; without a mask every element is active (R61). -/
def State.active (s : State) (slot : Nat) (m : Operand) (cols i j : Nat) : Bool :=
  match m with
  | .m k => (s.maskRow slot k.toNat i).getLsbD (j / maskGroup cols)
  | _ => true

end Sys2Proof.Machine
end

