-- ==== Sys2Proof/Machine/Flags.lean ====
section
/-! DEFINITION. Flag computations and conditions: FLG merges (R43), the rounding mode of an instruction (R92), latency bounds (R85),
the conditions of R119 and R124 and delivery of integer results (R169). -/

namespace Sys2Proof.Machine

/-- FLG takes the OR of the flags raised (R43). -/
def Strand.mergeFlags (t : Strand) (fl : Flags) : Strand := { t with flg := t.flg ||| fl }

/-- The bound B of a latency code (R85); code 15 has none. -/
def latBound : Nat → Nat
  | 0 => 1 | 1 => 2 | 2 => 3 | 3 => 4 | 4 => 6 | 5 => 8 | 6 => 12 | 7 => 16 | 8 => 24 | 9 => 32 | 10 => 48 | 11 => 64
  | 12 => 96 | 13 => 128 | 14 => 192 | _ => 0

/-- The rounding mode: RMODE, or the modifier of R92. -/
def modeOf (flags : BitVec 3) (rmode : Nat) : RMode :=
  if flags = 0 then RMode.ofCode rmode else RMode.ofCode (flags.toNat - 1)

/-- Width W of a scalar integer format (R114). -/
def intWidth (f : Fmt) : Nat := f.width

/-- The integer conditions (R119) on W-bit values. -/
def condInt (c w a b : Nat) : Bool :=
  let sa := toSigned w a
  let sb := toSigned w b
  let ua := a % 2 ^ w
  let ub := b % 2 ^ w
  match c with
  | 0 => ua == ub | 1 => ua != ub | 2 => decide (sa < sb) | 3 => decide (sa ≥ sb) | 4 => decide (sa ≤ sb)
  | 5 => decide (sa > sb) | 6 => decide (ua < ub) | 7 => decide (ua ≥ ub) | 8 => decide (ua ≤ ub) | 9 => decide (ua > ub)
  | _ => false

/-- The floating-point conditions (R124). -/
def condFloat (c : Nat) (a b : XReal) : Bool :=
  let un := a.isNaN || b.isNaN
  match c with
  | 0 => a.eq b | 1 => !un && a.lt b | 2 => !un && !(b.lt a) | 3 => un | 4 => un || !(a.eq b)
  | _ => false

/-- Delivery of an exact integer result into a format: wrapped, or saturated with .sat (R169). -/
def deliverInt (f : Fmt) (sat : Bool) (r : Int) : Nat × Flags :=
  if sat then (let (n, fl) := saturate f .rne (XReal.ofInt r); (f.fill (wrapTo f.width n), fl))
  else (f.fill (wrapTo f.width r), 0)

/-- A value rounded into a float format with FALSE for conv, with the Invalid flag of a NaN that the operands did not hold (R39,
R42). -/
def deliverFloat (f : Fmt) (mode : RMode) (operands : List XReal) (x : XReal) : Nat × Flags :=
  let nv : Flags := if XReal.newNaN operands x then flagNV else 0
  let (c, fl) := f.convert mode false x
  (c, fl ||| nv)

/-- `a × b + c` with one rounding: 0 × ∞ is invalid even where c is a NaN (R122, R171). -/
def fusedAdd (f : Fmt) (mode : RMode) (a b c : XReal) : Nat × Flags :=
  let p := XReal.mul a b
  let x := XReal.add (mode == .rdn) p c
  let nv : Flags := if XReal.newNaN [a, b] p || XReal.newNaN [p, c] x then flagNV else 0
  let (r, fl) := f.convert mode false x
  (r, fl ||| nv)

end Sys2Proof.Machine
end

