-- ==== Sys2Proof/Machine/Issue.lean ====
section
/-! DEFINITION. How an instruction passes the front (R102, R81, R248, R100) and issues from a queue (R83, R141): the checks in their
order, the sampling of operands (R59, R71, R86), and what becomes of each result (R84, R87, R139). -/

namespace Sys2Proof.Machine

abbrev Out := Host.Outcome State Fault Refusal

/-! ### Destinations and sources -/

/-- Does operand D name a destination register: not where D is read (STV, STG) and not a system register. -/
def writesD : Instr → Bool
  | .stv _ | .stg _ | .csrw _ => false
  | _ => true

/-- Physical destinations of an instruction, resolved at decode (R55, R56, R248). -/
def dstsOf (t : Strand) (i : Instr) (f : Fields) : List Dst :=
  if !(writesD i) then []
  else match f.d with
    | .s n => match i with
      | .ldq _ => [.s (t.physS n.toNat), .s (t.physS (n.toNat + 1))]
      | _ => [.s (t.physS n.toNat)]
    | .p n => [.p n.toNat]
    | .v n => match i, f.b with
      | .vqnt _, .v m => [.v (t.physV n.toNat), .v (t.physV m.toNat)]
      | _, _ => [.v (t.physV n.toNat)]
    | .m n => [.m n.toNat]
    | _ => []

/-- The scalar and predicate registers that the operands read (R248): A, B, C, E, and D where it is also a source. -/
def operandReg (t : Strand) : Operand → List Dst
  | .s n => [.s (t.physS n.toNat)]
  | .p n => [.p n.toNat]
  | _ => []
def readsOf (t : Strand) (i : Instr) (f : Fields) : List Dst :=
  operandReg t f.a ++ operandReg t f.b ++ operandReg t f.c ++ operandReg t f.e ++
  (match i with
  | .movK _ | .loop _ => operandReg t f.d
  | .stq _ => match f.c with
    | .s n => [.s (t.physS (n.toNat + 1))]
    | _ => []
  | .uiret _ => [.s 79]
  | _ => [])

/-! ### The decode checks -/

/-- Every tile that the instruction reads or writes spans at most 4,096 bytes under the sampled shape (R164): A has the element size of
SUB's format where SUB names the source. -/
def tilesSmall (i : Instr) (f : Fields) (shp : Word) : Bool :=
  let eb := match fieldFmt f with | some x => x.regBytes | none => 4
  let es := match i with
    | .vcvt _ | .vqnt _ | .vdqnt _ | .vmag2 _ => match subFmt f with | some x => x.regBytes | none => 4
    | _ => eb
  let fits (o : Operand) (n : Nat) : Bool := match o with
    | .v _ => shpRows shp * shpCols shp * n ≤ 4096
    | _ => true
  fits f.d eb && fits f.a es && fits f.b eb && fits f.c eb

/-- Step 4 of R102. -/
def latencyOk (i : Instr) (sp : ISpec) (f : Fields) (shp : Word) : Bool :=
  latOk sp.lat f.lat &&
  match sp.lat with
  | .g n => groupBasic n ≤ f.lat.toNat || tilesSmall i f shp
  | _ => true

/-- An index within the strand's vector window (R56). -/
def inWindow (t : Strand) : Operand → Bool
  | .v n => n.toNat < 8 * t.ngrp.toNat
  | _ => true

/-- Step 5 of R102, D to E: 0 where all pass. -/
def operandFaultAt (i : Instr) (sp : ISpec) (f : Fields) (t : Strand) : Nat :=
  let s0 := operandFault i sp f
  if (s0 == 0 || 1 < s0) && !(inWindow t f.d) then 1
  else if (s0 == 0 || 2 < s0) && !(inWindow t f.a) then 2
  else if (s0 == 0 || 3 < s0) && !(inWindow t f.b) then 3
  else if (s0 == 0 || 4 < s0) && !(inWindow t f.c) then 4
  else s0

/-- Steps 3 to 5 of R102 at a decode. -/
def decodeFault (i : Instr) (sp : ISpec) (f : Fields) (t : Strand) : Option (TrapCode × Nat) :=
  if !(upperOk sp f && sp.subOk) then some (.illegalEncoding, 0)
  else if !(latencyOk i sp f t.shp) then some (.illegalLatency, 0)
  else match operandFaultAt i sp f t with
    | 0 => none
    | n => some (.illegalOperand, n)

/-- Vector instructions and tile accesses: those whose format must fit SHP (R60, R144). -/
def shaped : Instr → Bool
  | .vadd _ | .vsub _ | .vmul _ | .vfma _ | .vfms _ | .vnfma _ | .vdiv _ | .vsqrt _ | .vmin _ | .vmax _ | .vabs _ | .vneg _ | .vcmp _
  | .vsel _ | .vand _ | .vor _ | .vxor _ | .vnot _ | .vshl _ | .vshr _ | .vshra _ | .vclamp _ | .vcvt _ | .vqnt _ | .vdqnt _
  | .vpack6 _ | .vunpk6 _ | .vpack4 _ | .vunpk4 _ | .vscale _ | .vredr _ | .vredc _ | .vmaxr _ | .vscan _ | .vexp _ | .vexp2 _
  | .vlog2 _ | .vrcp _ | .vrsq _ | .vtanh _ | .vsigm _ | .vsin _ | .vcos _ | .vtrn _ | .vshuf _ | .vbcr _ | .vbcc _ | .vmov _
  | .viota _ | .vcmul _ | .vcfma _ | .vconj _ | .vmag2 _ | .ldv _ | .stv _ | .ldg _ | .stg _ => true
  | _ => false

/-- Shape rules that a description adds at decode. -/
def shapeExtra (i : Instr) (f : Fields) (rows cols : Nat) : Bool :=
  let es := match subFmt f with | some x => x.regBytes | none => 0
  match i with
  | .vcvt _ => rows * cols * es ≤ 16384
  | .vqnt _ => cols % 32 == 0 && rows * cols * es ≤ 16384
  | .vdqnt _ => cols % 32 == 0 && rows * cols ≤ 16384
  | .vscale _ => f.sub == 0 || cols % 32 == 0
  | .vmaxr _ => 2 ≤ cols
  | .vtrn _ => cols ≤ 64
  | .ldg _ | .stg _ => f.sub != 0 || rows * cols * 4 ≤ 16384
  | _ => true

/-- Step 9 of R102. -/
def shapeFits (i : Instr) (f : Fields) (shp : Word) : Bool :=
  !(shaped i) ||
  ((match fieldFmt f, shpType shp with
    | some a, some b => a.regBytes == b.regBytes
    | _, _ => false) && shapeExtra i f (shpRows shp) (shpCols shp))

/-- An operand value as a signed number: an I operand as INT16, an S operand as its 64 bits. -/
def signedOf (o : Operand) (w : Word) : Int :=
  match o with
  | .i _ => toSigned 16 w.toNat
  | _ => w.toInt

/-- Core selectors: operand C of the LM instructions that accept a remote core (R138). -/
def lmRemote : Instr → Bool
  | .stff _ | .feset _ | .semwait _ | .sempost _ | .sracq _ | .srpub _ | .srtake _ | .srrel _ | .barinit _ | .bararr _ | .barexp _
  | .barwait _ | .bartest _ => true
  | _ => false

/-- The range that a description sets for an operand's value (R102 step 10; at issue for an S operand). `k` is the operand: 2 A,
3 B, 4 C, 5 E. The index of VBCR and VBCC in an S register is the whole register: R186 gives only the reading of an I operand (log 82,
DEDUCED). -/
def inRange (i : Instr) (f : Fields) (shp : Word) (nm1 : Nat) (k : Nat) (o : Operand) (w : Word) : Bool :=
  let n := w.toNat
  match i, k with
  | .radv _, 2 => n ≤ 255
  | .qfence _, 2 => n < 8
  | .vbcr _, 3 => n < shpRows shp
  | .vbcc _, 3 => n < shpCols shp
  | .mlev _, 2 => 1 ≤ n && n ≤ 2 ^ 20
  | .mbase _, 2 => f.sub != 3 || n ≤ 3
  | .mdrain _, 2 => n ≤ 3
  | .mdrain _, 4 => let s := signedOf o w; decide (-64 ≤ s) && decide (s ≤ 63)
  | .mzero _, 2 => n ≤ 15
  | .maccl _, 2 => n ≤ 3
  | .mtestIvl _, 2 => n ≤ 4096
  | .mfuse _, 2 => n ≤ 4
  | .bgmac _, 4 | .bgcpy _, 4 | .bgattn _, 4 | .kvput _, 4 | .kvtake _, 4 => n ≤ 3
  | .bgfence _, 2 => 1 ≤ n && n ≤ 15
  | .bgstat _, 2 => if f.sub = 2 then n ≤ 3 else n ≤ 63
  | .step _, 3 => n % 256 != 0 && n % 256 < 2 ^ (nm1 + 1)
  | .wuset _, 2 => n < 2 ^ 32
  | .wuset _, 3 => 1 ≤ n && n ≤ 2 ^ 24
  | .pval _, 2 => f.sub != 1 || n ≤ 63
  | .uien _, 2 => n ≤ 1
  | .uimask _, 2 => n ≤ 15
  | i, 4 => !(lmRemote i) || n ≤ 3
  | _, _ => true

/-- The first operand of the given kind of field out of its range. -/
def rangeFault (i : Instr) (f : Fields) (shp : Word) (nm1 : Nat) (want : Operand → Bool) (a b c e : Word) : Nat :=
  let bad (k : Nat) (o : Operand) (w : Word) : Bool := want o && !(inRange i f shp nm1 k o w)
  if bad 2 f.a a then 2 else if bad 3 f.b b then 3 else if bad 4 f.c c then 4 else if bad 5 f.e e then 5 else 0

def isImm : Operand → Bool
  | .i _ => true
  | _ => false
def isScalar : Operand → Bool
  | .s _ => true
  | _ => false

/-! ### Sampling -/

/-- The strand may decode (R246, R247): running, wrapping up or held, and no stop, drain or wait of the front in progress. -/
def frontReady (cyc : Nat) (t : Strand) : Bool := mayIssue cyc t && !t.halting && t.wfe.isNone && t.calling.isNone

/-- A guard field's predicate and its outcome (R80). -/
def guardIdx (g : BitVec 4) : Nat := fld g 0 3
def guardHolds (t : Strand) (cyc fv : Nat) (g : BitVec 4) : Bool := t.readP cyc fv (guardIdx g) != g.getLsbD 3
def guardsHold (t : Strand) (cyc fv : Nat) (f : Fields) : Bool := guardHolds t cyc (fv + 5) f.g0 && guardHolds t cyc (fv + 6) f.g1
def guardsPending (t : Strand) (f : Fields) : Bool :=
  t.pending.contains (.p (guardIdx f.g0)) || t.pending.contains (.p (guardIdx f.g1))

/-- Raw sample of an operand field at decode (R86): a register's value, an immediate's 16 bits, an index. -/
def sample (t : Strand) (cyc fv : Nat) (o : Operand) : Word :=
  match o with
  | .none => 0
  | .s n => t.readS cyc fv n.toNat
  | .p n => if t.readP cyc fv n.toNat then 1 else 0
  | .v n => BitVec.ofNat 64 (t.physV n.toNat)
  | .m n => n.zeroExtend 64
  | .k w o => BitVec.ofNat 64 (w.toNat * 2 ^ 17 + o.toNat)
  | .i v => v.zeroExtend 64
  | .h n => n.zeroExtend 64
  | .y n => n.zeroExtend 64
  | .off o => o.signExtend 64

/-- The handles an instruction names, with OPND (R71). TLBI.h names an entry without reading it. -/
def handlesOf (i : Instr) (f : Fields) : List (Nat × Nat) :=
  let h (o : Operand) (k : Nat) : List (Nat × Nat) := match o with
    | .h n => [(n.toNat, k)]
    | _ => []
  match i with
  | .tlbi _ => []
  | _ => h f.d 1 ++ h f.a 2 ++ h f.b 3 ++ h f.c 4

/-- Read a handle-table entry (R71): through the core's handle cache, at user privilege, never held. -/
def State.readHandle (s : State) (slot h : Nat) : Except Bad (State × BitVec 512) :=
  let t := s.strand slot
  let core := coreOf slot
  let va := t.htb + BitVec.ofNat 64 (64 * h)
  match s.constPlace slot false va 64 with
  | .error b => .error b
  | .ok ps =>
    let key := t.pasid.toNat * 2 ^ 64 + va.toNat / 64
    let plain := ps.map (fun p => match p with
      | .kons _ sp off n => Piece.mem sp off n 4096
      | p => p)
    let g := s.readPieces core plain
    match g.poison with
    | some c => .error (.trap .dataPoison c)
    | none =>
      let fresh := BitVec.ofNat 512 (leNat g.bytes)
      match tabFind (s.core core).hcache key with
      | some old => if Config.freeBool (s.fv + 44 + h) then .ok (s, old) else .ok (g.s.takeFresh, fresh)
      | none => .ok (g.s.takeFresh.modCore core (fun c => { c with hcache := tabPut c.hcache key fresh }), fresh)

/-- Sample the entries of a list of handles, in order; a failure names the operand. -/
def State.readHandles (s : State) (slot : Nat) : List (Nat × Nat) → Except (Bad × Nat) (State × Tab (BitVec 512))
  | [] => .ok (s, [])
  | (h, k) :: r =>
    match s.readHandle slot h with
    | .error b => .error (b, k)
    | .ok (s1, e) => match s1.readHandles slot r with
      | .error x => .error x
      | .ok (s2, m) => .ok (s2, tabPut m h e)

/-- Read a constant-window operand of format `f` (R66): the code for even columns and for odd ones. -/
def State.readConst (s : State) (slot : Nat) (cwb : Tab Word) (f : Fmt) (w o : Nat) : Except Bad (State × Nat × Nat) :=
  let n := if wideConst f then 8 else 4
  let win := tabGet cwb 0 w
  match constCheck win (4 * o) n (wideConst f && o % 2 == 1) with
  | some b => .error b
  | none => match s.constPlace slot (s.strand slot).sys (constVa win (4 * o)) n with
    | .error b => .error b
    | .ok ps =>
      let g := s.readPieces (coreOf slot) ps
      match g.poison with
      | some c => .error (.trap .dataPoison c)
      | none => .ok (g.s, constCode f (leNat g.bytes) false, constCode f (leNat g.bytes) true)

/-! ### The front -/

/-- What stands before an instruction at the front, in the order of R102, R81, R248 and R100. -/
inductive Stop where
  | trap (code : TrapCode) (opnd : Nat)
  | drop
  | stall
  deriving DecidableEq, Repr

/-- A queue has no free entry (R100). -/
def queueFull (t : Strand) (r : Route) : Bool :=
  match r with
  | .f => false
  | .l => decide (16 ≤ t.lq.length)
  | .c => decide (16 ≤ t.cq.length)
  | .s => decide (16 ≤ t.sq.length)
  | .ls => decide (16 ≤ t.lq.length) || decide (16 ≤ t.sq.length)

/-- A register that the decode would read, or a class-V destination, is pending (R248). -/
def resultWait (t : Strand) (i : Instr) (sp : ISpec) (f : Fields) : Bool :=
  (readsOf t i f).any (fun d => t.pending.contains d) || (sp.lat == .v && (dstsOf t i f).any (fun d => t.pending.contains d))

/-- Use of a resource that the claim does not grant (step 8 of R102: R62, R146). -/
def claimBad (t : Strand) (i : Instr) (sp : ISpec) : Bool :=
  (sp.matrix && !t.mown) || (match i with | .pubx _ => t.genpages == 0 | _ => false)

/-- The first thing that stops a decode before its operands are sampled. -/
def decodeStop (i : Instr) (sp : ISpec) (f : Fields) (s : State) : Option Stop :=
  let t := s.me
  match decodeFault i sp f t with
  | some (c, o) => some (.trap c o)
  | none =>
    if guardsPending t f then some .stall
    else if !(guardsHold t s.cycle s.fv f) then some .drop
    else if resultWait t i sp f || queueFull t sp.route then some .stall
    else if sp.priv && !t.sys then some (.trap .privileged 0)
    else if claimBad t i sp then some (.trap .claimViolation 0)
    else if !(shapeFits i f t.shp) then some (.trap .shapeInvalid 0)
    else
      let w (k : Nat) (o : Operand) : Word := sample t s.cycle (s.fv + k) o
      let want (o : Operand) : Bool := isImm o || (sp.route == .f && isScalar o)
      match rangeFault i f t.shp s.ringNm1 want (w 1 f.a) (w 2 f.b) (w 3 f.c) (w 4 f.e) with
      | 0 => none
      | n => some (.trap .illegalOperand n)

/-- The operand values of a front instruction: immediates decoded (R64), constants read (R66). -/
structure Vals where
  pos : Word
  d : Word := 0
  a : Word := 0
  b : Word := 0
  c : Word := 0
  e : Word := 0
  deriving DecidableEq, Repr

/-- One operand value of a front instruction. `f` is the format that immediates and constants take; without a format an
immediate is UINT16 (R136, R216). -/
def State.frontValue (s : State) (f : Option Fmt) (k : Nat) (o : Operand) : Except Bad (State × Word) :=
  let t := s.me
  match o with
  | .i v => .ok (s, match f with
    | some x => BitVec.ofNat 64 (immCode x v.toNat false)
    | none => v.zeroExtend 64)
  | .k w o => match s.readConst s.cur t.cwb (f.getD .uint32) w.toNat o.toNat with
    | .error b => .error b
    | .ok (s1, v, _) => .ok (s1, BitVec.ofNat 64 v)
  | o => .ok (s, sample t s.cycle (s.fv + k) o)

/-- All operand values, in the order D, A, B, C, E; a failure names the operand. -/
def State.frontValues (s : State) (f : Option Fmt) (x : Fields) : Except (Bad × Nat) (State × Vals) :=
  match s.frontValue f 1 x.a with
  | .error b => .error (b, 2)
  | .ok (s1, a) => match s1.frontValue f 2 x.b with
    | .error b => .error (b, 3)
    | .ok (s2, b) => match s2.frontValue f 3 x.c with
      | .error e => .error (e, 4)
      | .ok (s3, c) => .ok (s3, { pos := s.me.pc, d := sample s.me s.cycle s.fv x.d, a := a, b := b, c := c, e := sample s.me s.cycle (s.fv + 4) x.e })

/-- What a front instruction does. -/
inductive FRes where
  /-- performed: the state, the register results (by place), the flags -/
  | done (s : State) (w : List (Dst × Word)) (flags : Flags)
  | trap (code : TrapCode) (opnd : Nat) (word : Option (BitVec 32))
  /-- begun, and ended later (SYSCALL, R131; TLBI, R134): the front decodes nothing more until then -/
  | begin_ (c : Calling)
  deriving DecidableEq, Repr

/-- Open the window of a class-X instruction: the results are written, and are undefined to reads until it ends (R87). -/
def State.openWindow (s : State) (pos : Word) (stream : Option Queue) (ring seq bound : Nat) (tk : BitVec 4)
    (w : List (Dst × Word)) (flags : Flags) : State :=
  let t := s.me
  let t1 := w.foldl (fun t x => t.writeX s.cycle (s.fv + 8) x.1 x.2) t
  s.setMe { t1 with flight := t1.flight ++ [{ pos := pos, ring := ring, stream := stream, seq := seq, endsAt := some (s.cycle + bound)
                                              dsts := w.map (·.1), flags := flags, tk := tk }] }

/-- The decode of one instruction is over: the pc and the program order advance. -/
def Strand.advance (t : Strand) : Strand := { t with pc := t.pc + 1, seq := t.seq + 1 }

/-- A failure of a read at decode: a decode trap, or a wait for a move (R66, R71). -/
def State.decodeBad (s : State) (b : Bad) (opnd : Nat) : State :=
  match b with
  | .trap c sub => s.decodeTrap c opnd sub
  | .held _ c _ a => s.decodeTrap c opnd a
  | .moving => s

/-- Run a front instruction: the checks, the operands, its effect, its window. A strand that does not decode (R128, R260) runs none. -/
def runFront (i : Instr) (f : Fields) (fmt : Option Fmt) (body : Vals → State → FRes) (s : State) : Out :=
  match ispec i with
  | none => .fault .badArgument
  | some sp =>
    if s.acting != .front || !(frontReady s.cycle s.me) then .next s
    else match decodeStop i sp f s with
      | some (.trap c o) => .next (s.decodeTrap c o)
      | some .drop => .next (s.setMe s.me.advance)
      | some .stall => .next s
      | none => match s.frontValues fmt f with
        | .error (b, k) => .next (s.decodeBad b k)
        | .ok (s1, v) => match body v (s1.setMe s1.me.advance) with
          | .trap c o word => .next (s1.raiseTrap s1.cur { code := c, eng := 0, opnd := o, pos := v.pos, word := word })
          | .begin_ c => .next (s1.setMe { s1.me with calling := some c })
          | .done s2 w fl =>
            if w.isEmpty && fl == 0 then .next s2
            else .next (s2.openWindow v.pos none 0 s1.me.seq (latBound f.lat.toNat) 0 w fl)

/-- Enter an entry into a queue, and set the pending bits of a class-V instruction (R100, R248). -/
def Strand.enqueue (t : Strand) (q : Queue) (e : QEntry) : Strand :=
  let t1 := t.bumpRing q
  t1.setQueue q (t1.queue q ++ [{ e with ring := t.ringOf q }])

/-- Destinations that have a pending bit (R248). -/
def pendable : Dst → Bool
  | .s n => n != 0
  | .p n => n != 7
  | _ => false

/-- The entry an instruction becomes, with everything sampled (R59, R66, R71, R86). -/
def State.entryOf (s : State) (i : Instr) (f : Fields) (hs : Tab (BitVec 512)) : QEntry :=
  let t := s.me
  let w (k : Nat) (o : Operand) : Word := sample t s.cycle (s.fv + k) o
  { instr := i, pos := t.pc, seq := t.seq, shp := t.shp, rmode := t.rmode.toNat
    d := (match i, f.c with
      | .stq _, .s n => t.readS s.cycle (s.fv + 7) (n.toNat + 1)
      | _, _ => w 0 f.d)
    a := w 1 f.a, b := w 2 f.b, c := w 3 f.c, e := w 4 f.e, cwb := t.cwb, handles := hs, dsts := dstsOf t i f, clock := t.seen.front }

/-- A queue instruction at the front: checks, handle entries, then its entry (both entries of an L+S instruction). -/
def enterQueue (i : Instr) (f : Fields) (s : State) : Out :=
  match ispec i with
  | none => .fault .badArgument
  | some sp =>
    if !(frontReady s.cycle s.me) then .next s
    else match decodeStop i sp f s with
      | some (.trap c o) => .next (s.decodeTrap c o)
      | some .drop => .next (s.setMe s.me.advance)
      | some .stall => .next s
      | none => match s.readHandles s.cur (handlesOf i f) with
        | .error (b, k) => .next (s.decodeBad b k)
        | .ok (s1, hs) =>
          let e := s1.entryOf i f hs
          let t := s1.me
          let t1 := match sp.route with
            | .f => t
            | .l => t.enqueue .L e
            | .c => t.enqueue .C e
            | .s => t.enqueue .S e
            | .ls => (t.enqueue .L e).enqueue .S e
          let t2 := if sp.lat == .v then { t1 with pending := t1.pending ++ e.dsts.filter pendable } else t1
          .next (s1.setMe t2.advance)

/-! ### Issue from a queue -/

/-- What becomes of an instruction at the head of its queue. -/
inductive QRes where
  /-- performed: the state, the values of scalar and predicate destinations, the flags -/
  | done (s : State) (vals : List Word) (flags : Flags)
  /-- traps; the state holds what the failed access has counted (R304) -/
  | trap (s : State) (code : TrapCode) (opnd subc : Nat)
  /-- a waiting instruction whose condition is false (R141) -/
  | wait
  /-- a wait without a timer -/
  | stay
  /-- another operation comes before it at words of a core's local memory (R256) -/
  | busy (core : Nat) (words : List Nat)
  /-- held by a fault (R259), with the handle's number -/
  | held (kind : FaultKind) (code : TrapCode) (va : Word) (acc hdl : Nat)
  deriving DecidableEq, Repr

/-- A failure of an access as a result. -/
def Bad.res (b : Bad) (s : State) (opnd hdl : Nat) : QRes :=
  match b with
  | .trap c sub => .trap s c opnd sub
  | .held k c va a => .held k c va a hdl
  | .moving => .stay

/-- How an instruction without a register result ends (R84, R145, R265): with its performing at issue, with a reply, or with a
reply that holds the S queue until it comes. -/
inductive Ack where
  | none | reply | hold
  deriving DecidableEq, Repr

/-- Earlier accesses of a queue have performed at their scope: no reply or delivery of the queue is outstanding. -/
def queueQuiet (t : Strand) (q : Queue) : Bool := !(t.flight.any (fun f => f.stream == some q && f.endsAt.isNone))

/-- A number for each queue. -/
def queueNo : Queue → Nat
  | .L => 0 | .C => 1 | .S => 2
/-- A release whose scope instance holds the ring: it performs after the earlier window writes that it orders have been applied (R378). -/
def ringRelease : Instr → Bool
  | .strel f | .radv f | .commit f | .poisonclr f => decide (6 ≤ f.scp.toNat)
  | .aadd f | .amin f | .amax f | .aminu f | .amaxu f | .aand f | .aor f | .axor f | .axchg f | .acas f | .afadd f | .aincw f =>
    f.sub.getLsbD 1 && decide (6 ≤ f.scp.toNat)
  | .step _ | .qput _ | .qputNb _ => true
  | _ => false
/-- The head of queue `q` may issue `i` (R83, R145, R146, R259); a queue issues at most once a cycle (R82). `lg` says that the device is a
member of a league. -/
def headReady (lg : Bool) (t : Strand) (cyc : Nat) (q : Queue) (i : Instr) (tk : BitVec 4) (r : Route) (e : QEntry) : Bool :=
  mayIssue cyc t && e.instr == i && e.held.isNone && t.tokensReady q tk &&
  !(q == .S && t.flight.any (fun f => f.holdS)) && !(lg && ringRelease i && !(queueQuiet t .S)) && tabGet t.issuedAt 0 (queueNo q) != cyc + 1 &&
  (match r with
  | .ls => (t.lq.head?.map (·.seq)) == some e.seq && (t.sq.head?.map (·.seq)) == some e.seq && queueQuiet t .L && queueQuiet t .S &&
    tabGet t.issuedAt 0 (queueNo .L) != cyc + 1 && tabGet t.issuedAt 0 (queueNo .S) != cyc + 1
  | _ => true)

/-- Queues have issued in this cycle (R82). -/
def Strand.issueAt (t : Strand) (cyc : Nat) (qs : List Queue) : Strand :=
  { t with issuedAt := qs.foldl (fun m q => tabPut m (queueNo q) (cyc + 1)) t.issuedAt }
/-- Remove the head of a queue. -/
def Strand.popHead (t : Strand) (q : Queue) : Strand := t.setQueue q (t.queue q).tail
/-- Replace the head of a queue. -/
def Strand.setHead (t : Strand) (q : Queue) (e : QEntry) : Strand := t.setQueue q (e :: (t.queue q).tail)

/-- The trap of a queue entry, which stays at the head (R260); its queue issues nothing else in this cycle. -/
def State.queueTrap (s : State) (q : Queue) (e : QEntry) (code : TrapCode) (opnd subc : Nat) (word : Option (BitVec 32) := none) : State :=
  (s.takeFresh.setMe (s.me.issueAt s.cycle [q])).raiseTrap s.cur
    { code := code, eng := engOf q, opnd := opnd, subc := subc, behind := (s.me.queue q).length - 1, pos := e.pos, qent := e.ring, word := word }

/-- Push tokens and merge flags of an instruction of an engine whose result is final; a full FIFO traps TOKEN_OVERFLOW (R84, R43). `eng` is
the engine's code, `behind` how many of the strand's entries stand behind it (R104, R262), `clk` what happens before what the tokens order
(R266). -/
def State.settleAs (s : State) (eng behind : Nat) (slot : Nat) (q : Queue) (tk : BitVec 4) (clk : Clock) (flags : Flags) (pos : Word) (ring : Nat) : State :=
  let (t1, spill) := ((s.strand slot).mergeFlags flags).pushTokens q tk clk
  let s1 := s.setStrand slot t1
  if spill then s1.raiseTrap slot { code := .tokenOverflow, eng := eng, behind := behind, pos := pos, qent := ring, gone := true } else s1
/-- The same for an instruction of the front, which pushes no token, or of a queue. -/
def State.settle (s : State) (slot : Nat) (q : Option Queue) (tk : BitVec 4) (clk : Clock) (flags : Flags) (pos : Word) (ring : Nat) : State :=
  match q with
  | none => s.setStrand slot ((s.strand slot).mergeFlags flags)
  | some q => s.settleAs (engOf q) ((s.strand slot).queue q).length slot q tk clk flags pos ring

/-- An instruction has performed: it leaves its queue, its tokens are popped, and its result, window or reply is under way; one that has asked
another device of the league waits for the reply (R378). What happened before it happens before what follows in its queue, and before what its
result or its token orders (R266). -/
def State.perform (s0 : State) (q : Queue) (f : Fields) (sp : ISpec) (ack0 : Ack) (e : QEntry) (vals : List Word) (flags : Flags) : State :=
  let tags := s0.rel.fresh
  let s := s0.takeFresh
  let ack := if ack0 == .none && !tags.isEmpty then .reply else ack0
  let t := s.me
  let clk := s.actClock
  let t0 := match sp.route with
    | .ls => ((t.popHead .L).popHead .S).issueAt s.cycle [.L, .S]
    | _ => (t.popHead q).issueAt s.cycle [q]
  let u := t0.popTokens q f.tk
  let t1 := { u with wrote := [], late := [], rebind := [], seen := (match sp.route with
    | .ls => (u.seen.set .L (joinClock u.seen.l e.clock)).set .S (joinClock u.seen.s e.clock)
    | _ => u.seen.set q clk) }
  let fl : Flight := { pos := e.pos, ring := e.ring, stream := some q, seq := e.seq, dsts := e.dsts, wrote := t.wrote, vals := vals, flags := flags
                       tk := f.tk, clock := clk, late := t.late, rebind := t.rebind, tags := tags }
  match sp.lat with
  | .v => s.setMe { t1 with flight := t1.flight ++ [{ fl with holdS := ack == .hold }] }
  | .x _ | .g _ => s.setMe { t1 with flight := t1.flight ++ [{ fl with endsAt := some (s.cycle + latBound f.lat.toNat) }] }
  | .n => match ack with
    | .none => (s.setMe t1).settle s.cur (some q) f.tk clk flags e.pos e.ring
    | .reply => s.setMe { t1 with flight := t1.flight ++ [{ fl with ack := true }] }
    | .hold => s.setMe { t1 with flight := t1.flight ++ [{ fl with ack := true, holdS := true }] }

/-- A held access (R259): the record is posted when the fault queue has room, the entry remembers its SEQ, the strand is HELD. -/
def State.holdHead (s : State) (q : Queue) (e : QEntry) (kind : FaultKind) (code : TrapCode) (va : Word) (acc hdl : Nat) : State :=
  if s.holdFull kind then s
  else
    let t := s.me
    let (n, s1) := s.postHold (s.holdInfo s.cur
      { code := code, eng := engOf q, behind := (t.queue q).length - 1, pos := e.pos, qent := e.ring } kind va acc hdl)
    let t1 := t.setHead q { e with held := some n }
    let s2 := s1.setMe { t1 with st := if t1.st = .run then .held else t1.st }
    { s2 with held := s2.held ++ [{ seq := n, kind := kind, holder := .access s.cur q, pasid := t.pasid, va := va, acc := acc }] }

/-- The meaning of a queue instruction: at the front it enters its queue; at the head of its queue it issues, and until it may (R82, R141)
it stays there. -/
def runQueue (i : Instr) (f : Fields) (ack : Ack) (body : QEntry → State → QRes) (s : State) : Out :=
  match s.acting with
  | .front => enterQueue i f s
  | .queue q =>
    match ispec i, s.me.queue q with
    | some sp, e :: _ =>
      if !(headReady s.lgEn s.me s.cycle q i f.tk sp.route e) then .next s
      else match rangeFault i f e.shp s.ringNm1 isScalar e.a e.b e.c e.e with
        | 0 => match body e s with
          | .done s1 vals fl =>
            .next (s1.perform q f sp ack e vals fl)
          | .trap s1 c o sub => .next (s1.queueTrap q e c o sub)
          | .wait => .next (s.setMe (s.me.setHead q { e with waiting := some (e.waiting.getD s.cycle), tried := some s.cycle, claim := none }))
          | .busy k ws => .next (s.setMe (s.me.setHead q { e with tried := some s.cycle, claim := some ⟨s.arrival, k, ws⟩ }))
          | .stay => .next (s.setMe (s.me.setHead q { e with tried := some s.cycle }))
          | .held k c va a h => .next (s.holdHead q e k c va a h)
        | n => .next (s.queueTrap q e .illegalOperand n 0)
    | _, _ => .next s

end Sys2Proof.Machine
end

