-- ==== Sys2Proof/Machine/Memory.lean ====
section
/-! DEFINITION. The accesses by address, by handle and in rounds (R137, R143, R144, R158, R273 to R277). -/

namespace Sys2Proof.Machine

/-! ### Addresses and values -/

/-- Access width in bytes of a scalar format (R143). -/
def accBytes (f : Fmt) : Nat := f.width / 8
/-- An offset operand: an immediate is 16-bit two's complement, whatever the format (R137). -/
def offVal (o : Operand) (w : Word) : Word := match o with
  | .i v => v.signExtend 64
  | _ => w
/-- va := a + b (R137). -/
def eaOf (f : Fields) (e : QEntry) : Word := e.a + offVal f.b e.b
/-- A data operand of an instruction with a format: an immediate under R64 (R136). -/
def dataVal (x : Fmt) (o : Operand) (w : Word) : Word := match o with
  | .i v => BitVec.ofNat 64 (immCode x v.toNat false)
  | _ => w
/-- The format of an instruction whose format the decode checks have accepted. -/
def memFmt (f : Fields) : Fmt := (fieldFmt f).getD .int64
/-- What a load delivers: sign-extended for INT formats, else zero-extended (R143). -/
def loaded (x : Fmt) (bs : List Byte) : Word := extInt x (leNat bs)

/-- The place of an access by address, or its failure (R137). -/
def withPlace (s : State) (va : Word) (n align : Nat) (acc : Acc) (k : List Piece → State → QRes) : QRes :=
  match s.vaPlace va n align acc with
  | .error b => b.res s 0 0
  | .ok ps => k ps (s.tlbFill s.myCore s.me.pasid va)
/-- The bytes behind pieces, or DATA_POISON (R137, check 3). -/
def withBytes (s : State) (ps : List Piece) (k : List Byte → State → QRes) : QRes :=
  let g := s.readPieces s.myCore ps
  match g.poison with
  | some c => .trap g.s .dataPoison 0 c
  | none => k g.bytes g.s

/-! ### Scalar and pair loads and stores (R143) -/

/-- LDS: D := x, extended. -/
def ldsBody (f : Fields) (e : QEntry) (s : State) : QRes :=
  let x := memFmt f
  withPlace s (eaOf f e) (accBytes x) (accBytes x) .read (fun ps s =>
    let ps := s.cached (policyOf f.hint 0) ps
    withBytes (s.bindFor ps) ps (fun bs s => .done (s.mayRebind 0 x ps) [loaded x bs] 0))
def execLds (f : Fields) (s : State) : Out := runQueue (.lds f) f .none (ldsBody f) s
/-- STS: Mem(va, n) := c[8n−1:0]. -/
def stsBody (f : Fields) (e : QEntry) (s : State) : QRes :=
  let n := accBytes (memFmt f)
  withPlace s (eaOf f e) n n .write (fun ps s => .done (s.store (leBytes n e.c.toNat) (s.cached (policyOf f.hint 0) ps)) [] 0)
def execSts (f : Fields) (s : State) : Out := runQueue (.sts f) f .reply (stsBody f) s
/-- LDQ: 16 bytes at an 8-byte aligned address into a pair; a pair at s0 discards the low half. Only at a 16-byte aligned address are the
halves one access (R264). -/
def ldqBody (f : Fields) (e : QEntry) (s : State) : QRes :=
  withPlace s (eaOf f e) 16 8 .read (fun ps s =>
    let ps := s.cached (policyOf f.hint 0) ps
    withBytes (s.bindFor ps) ps (fun bs s =>
    let s1 := if (eaOf f e).toNat % 16 = 0 then s else (s.mayRebind 0 .int64 (slicePieces ps 0 8)).mayRebind 1 .int64 (slicePieces ps 8 8)
    .done s1 [BitVec.ofNat 64 (leNat (bs.take 8)), BitVec.ofNat 64 (leNat (bs.drop 8))] 0))
def execLdq (f : Fields) (s : State) : Out := runQueue (.ldq f) f .none (ldqBody f) s
/-- STQ: a register pair as 16 bytes; the entry holds s(C+1) beside sC. Only at a 16-byte aligned address do the halves perform as one
(R264). -/
def stqBody (f : Fields) (e : QEntry) (s : State) : QRes :=
  let lo := leBytes 8 e.c.toNat
  let hi := leBytes 8 e.d.toNat
  withPlace s (eaOf f e) 16 8 .write (fun ps s =>
    let ps := s.cached (policyOf f.hint 0) ps
    .done (if (eaOf f e).toNat % 16 = 0 then s.store (lo ++ hi) ps else (s.store lo (slicePieces ps 0 8)).store hi (slicePieces ps 8 8)) [] 0)
def execStq (f : Fields) (s : State) : Out := runQueue (.stq f) f .reply (stqBody f) s

/-! ### Round regions (R273 to R277) -/

/-- The key of region `n` of the strand's table: context, table address, number. -/
def regionKey (t : Strand) (n : Nat) : Nat := (t.pasid.toNat * 2 ^ 64 + t.rrt.toNat) * 256 + n
def regionPasid (key : Nat) : BitVec 20 := BitVec.ofNat 20 (key / 2 ^ 72)
def regionEntryVa (key : Nat) : Word := BitVec.ofNat 64 (key / 256 % 2 ^ 64 + 16 * (key % 256))
/-- An entry of the round-region table (R273). -/
def regionValid (e : BitVec 128) : Bool := e.getLsbD 0 && fld e 2 19 == 0 && fld e 64 32 != 0
def regionHolds (e : BitVec 128) (va : Word) : Bool :=
  let base := fld e 21 43 * 2 ^ 21
  base ≤ va.toNat && va.toNat < base + fld e 64 32 * 2 ^ 21
/-- The place of a region's entry; the hardware reads and advances it at system privilege. -/
def State.regionPlace (s : State) (core : Nat) (key : Nat) : Except Bad (List Piece) :=
  match s.translateRange core (regionPasid key) true .read 3 (regionEntryVa key) 16 with
  | .error b => .error b
  | .ok ps => match s.piecesFate false ps with
    | some b => .error b
    | none => .ok ps
def State.regionEntry (s : State) (core key : Nat) : Option (BitVec 128) :=
  match s.regionPlace core key with
  | .ok ps => some (BitVec.ofNat 128 (leNat (s.readPieces core ps).bytes))
  | .error _ => none
/-- The round-region table of a key as the core holds it: taken up whole at its first use since the last TLBI, so that a changed entry acts
only on what is decoded after one (R273; log 11, DEDUCED). Its rounds are not used. -/
def State.takeRegions (s : State) (core key : Nat) : State :=
  let k := key / 256
  if (tabFind (s.core core).regions k).isSome then s
  else
    let l := (List.range 256).map (fun n => (s.regionEntry core (256 * k + n)).getD 0)
    s.modCore core (fun c => { c with regions := tabPut c.regions k l })
/-- The entry of a key as the core holds it. -/
def State.heldRegion (s : State) (core key : Nat) : BitVec 128 := ((tabGet (s.core core).regions [] (key / 256))[key % 256]?).getD 0
def regionRound (e : BitVec 128) : BitVec 32 := e.extractLsb' 96 32
/-- An entry as the core holds it, with the round that memory holds now: RADV alone changes ROUND, the rest changes at a TLBI (R273). -/
def State.regionNow (s : State) (core key : Nat) : Option (BitVec 128) :=
  match s.regionEntry core key with
  | none => none
  | some x => match tabFind (s.core core).regions (key / 256) with
    | none => some x
    | some _ => some (setFld (s.heldRegion core key) 96 32 (regionRound x).toNat)
/-- The region that holds an address: the lowest-numbered valid one; a context without a table (RRT 0) has none (log 11, DEDUCED). -/
def State.regionOf (s : State) (va : Word) : Option (Nat × BitVec 128) :=
  let t := s.me
  if t.rrt = 0 then none
  else (List.range 256).findSome? (fun n =>
    let e := s.heldRegion s.myCore (regionKey t n)
    if regionValid e && regionHolds e va then (s.regionNow s.myCore (regionKey t n)).map (fun x => (regionKey t n, x)) else none)

/-- The core that keeps the known rounds: the first of its cluster where the L1s are fused (R258, R274). -/
def State.leadOf (s : State) (core : Nat) : Nat := if s.fusedAt core then core / 4 * 4 else core
/-- An acquire that takes a release raises the L1's known rounds to the current ones (R276). -/
def State.raiseKnown (s : State) : State :=
  let core := s.leadOf s.myCore
  s.modCore core (fun c => { c with known := c.known.map (fun x => match s.regionEntry core x.1 with
    | some e => (x.1, regionRound e)
    | none => x) })
/-- An acquire by the strand at some bytes (R267, R276). -/
def State.acquireOf (s : State) (keys : List Nat) (scp : Nat) (ok : Nat → Bool) : State :=
  match s.syncs keys scp s.myParty s.myPlace ok with
  | [] => s
  | l => (s.gains (acquired scp s.myPlace l)).raiseKnown
def State.acquireAt (s : State) (keys : List Nat) (scp : Nat) : State := s.acquireOf keys scp (fun _ => true)

/-- LDA: an acquire load. -/
def ldaBody (f : Fields) (e : QEntry) (s : State) : QRes :=
  let x := memFmt f
  withPlace s (eaOf f e) (accBytes x) (accBytes x) .read (fun ps s =>
    let ps := s.cached (policyOf f.hint 0) ps
    withBytes (s.bindFor ps) ps (fun bs s => .done (s.acquireAt (pieceLocs ps) f.scp.toNat) [loaded x bs] 0))
def execLda (f : Fields) (s : State) : Out := runQueue (.lda f) f .none (ldaBody f) s
/-- STREL: a release store; the strand's earlier stores perform before it. -/
def strelBody (f : Fields) (e : QEntry) (s : State) : QRes :=
  let n := accBytes (memFmt f)
  withPlace s (eaOf f e) n n .write (fun ps s =>
    .done ((s.flushLate.writePieces s.myParty false (leBytes n e.c.toNat) (s.cached (policyOf f.hint 0) ps)).releaseAt (pieceLocs ps) f.scp.toNat) [] 0)
def execStrel (f : Fields) (s : State) : Out := runQueue (.strel f) f .reply (strelBody f) s

/-- The stamped copy of a line, unless it has been evicted (free choice, log 2, DESIGN CHOICE). -/
def State.stampedCopy (s : State) (core line : Nat) : Option StampCopy :=
  match (s.core core).stamps.find? (fun c => c.line == line) with
  | none => none
  | some c => if Config.freeBool (s.fv + 46) then none else some c
/-- The known round of a region, loaded from ROUND when the L1 first serves it (R274). -/
def State.knownRound (s : State) (core key : Nat) (e : BitVec 128) : BitVec 32 := (tabFind (s.core core).known key).getD (regionRound e)
def lineSlice (d : BitVec 512) (off n : Nat) : List Byte := lineBytes d (off % 64) n
/-- A refetch from the home: the copy takes the stamp K (R275). -/
def ldbRefetch (x : Fmt) (sp : MemSpace) (off n core key : Nat) (k : BitVec 32) (s : State) : QRes :=
  let r := (s.cxlRead sp (off / 64 * 64) 64 64).readMem sp (off / 64 * 64) 64
  if r.2.2 then .trap r.1 .dataPoison 0 (s.poisonSub sp (off / 64 * 64) 64)
  else
    let d := BitVec.ofNat 512 (leNat r.2.1)
    let line := lineKey sp off
    let s1 := (r.1.modCore core (fun c => { c with known := tabPut c.known key k })).modCore (s.l1Core s.myCore off) (fun c => { c with
      stamps := c.stamps.filter (fun y => y.line != line) ++ [⟨line, key, k, d⟩] })
    .done s1 [loaded x (lineSlice d off n)] 0
/-- LDB.k (R275): a stamped copy within the bound, a refetch, or a wait for a push marker. An address in no valid region, or in a
page of the bank-linear window, or in the league's window, loads as LDS (R273, R378); so does an access that is not to be cached, and one that streams, or that allocates in
the L2 only, makes no copy in the L1 (R90). -/
def ldbBody (f : Fields) (e : QEntry) (s : State) : QRes :=
  let x := memFmt f
  let n := accBytes x
  let va := eaOf f e
  withPlace s va n n .read (fun ps s =>
    let s := s.bindFor ps
    let s := if s.me.rrt = 0 then s else s.takeRegions s.myCore (regionKey s.me 0)
    let pol := policyOf f.hint 0
    match s.regionOf va, ps with
    | some (key, ent), [.mem sp off _ size] =>
      if sp = .bl || size = 0 || pol = 3 || (sp == .il && s.inWindow off) then withBytes s (s.cached pol ps) (fun bs s => .done s [loaded x bs] 0)
      else
        let core := s.leadOf s.myCore
        let k := s.knownRound core key ent
        match s.stampedCopy (s.l1Core s.myCore off) (lineKey sp off) with
        | some c =>
          if (k - c.stamp).toNat ≤ f.sub.toNat then
            .done (s.modCore core (fun u => { u with known := tabPut u.known key k })) [loaded x (lineSlice c.data off n)] 0
          else if ent.getLsbD 1 then .stay
          else ldbRefetch x sp off n core key k s
        | none => if pol = 1 || pol = 2 then withBytes s (s.cached pol ps) (fun bs s => .done s [loaded x bs] 0) else ldbRefetch x sp off n core key k s
    | _, _ => withBytes s (s.cached pol ps) (fun bs s => .done s [loaded x bs] 0))
def execLdb (f : Fields) (s : State) : Out := runQueue (.ldb f) f .none (ldbBody f) s

/-- RADV (R146): the round of a region advances by one, at bytes 12 to 15 of its entry; a release at its scope. -/
def radvBody (f : Fields) (e : QEntry) (s : State) : QRes :=
  let key := regionKey s.me e.a.toNat
  if s.me.rrt = 0 then .trap s .handleInvalid 0 0
  else match s.regionPlace s.myCore key with
  | .error b => b.res s 0 0
  | .ok ps => withBytes (s.takeRegions s.myCore key) ps (fun bs s =>
    if !(regionValid (s.heldRegion s.myCore key)) then .trap s .handleInvalid 0 0
    else match s.piecesFate true ps with
    | some b => b.res s 0 0
    | none =>
      let at_ := slicePieces ps 12 4
      let s1 := s.flushLate.writePieces s.myParty false (leBytes 4 ((leNat (bs.drop 12) + 1) % 2 ^ 32)) at_
      .done (s1.releaseAt (pieceLocs at_) f.scp.toNat) [] 0)
def execRadv (f : Fields) (s : State) : Out := runQueue (.radv f) f .reply (radvBody f) s

/-- RADV_MESSAGE (R274): the L1 of a core raises its known round of a region, as far as the current one (free choice, log 2, DESIGN CHOICE). -/
def execRadvMessage (core region : Nat) (s : State) : Out :=
  if core ≥ 64 then .fault .badArgument
  else match tabFind (s.core core).known region, s.regionNow core region with
  | some k, some e =>
    let n := (Config.freeWord (s.fv + 47)).toNat % ((regionRound e - k).toNat + 1)
    .next (s.modCore core (fun c => { c with known := tabPut c.known region (k + BitVec.ofNat 32 n) }))
  | _, _ => .next s

/-- PUSH_MARKER (R275): the marker of a round that has been made; every copy of the region takes the home's line and the stamp. -/
def execPushMarker (core region : Nat) (round : BitVec 32) (s : State) : Out :=
  if core ≥ 64 then .fault .badArgument
  else match s.regionNow core region with
  | none => .next s
  | some e =>
    let cur := regionRound e
    let lead := s.leadOf core
    let k := s.knownRound lead region e
    if !(e.getLsbD 1) || (cur - round).toNat ≥ 2 ^ 31 then .next s
    else .next ((s.modCore lead (fun c => { c with
      known := tabPut c.known region (if (k - round).toNat < 2 ^ 31 then k else round) })).modCore core (fun c => { c with
      stamps := c.stamps.map (fun y => if y.region = region && (round - y.stamp).toNat < 2 ^ 31 then
        { y with stamp := round, data := BitVec.ofNat 512 (leNat (s.physRead (keyPlace y.line).1 (keyPlace y.line).2 64)) } else y) }))

/-! ### Tiles, gathers and scatters (R144) -/

def handleNum : Operand → Nat
  | .h n => n.toNat
  | _ => 0
/-- The handle entry that an operand named, as sampled at decode (R71). -/
def QEntry.entry (e : QEntry) (o : Operand) : BitVec 512 := tabGet e.handles 0 (handleNum o)

/-- Coordinates of an element under LDV and STV. -/
def tileCoord (f : Fields) (e : QEntry) (i j : Nat) : Coord :=
  let x0 := fld e.b 0 32
  let x1 := fld e.b 32 32
  let cz := f.c == .none
  let x2 := if cz then 0 else fld e.c 0 32
  let x3 := if cz then 0 else fld e.c 32 32
  if f.sub = 0 then ⟨x0 + j, x1 + i, x2, x3⟩ else ⟨x0 + i, x1 + j, x2, x3⟩
/-- The fixed coordinate of LDG and STG. -/
def fixedCoord (f : Fields) (e : QEntry) : Nat := match f.c with
  | .i v => v.toNat
  | .s _ => fld e.c 0 32
  | _ => 0
/-- Coordinates of an element under LDG and STG; `idx` are the index words of register B. -/
def gatherCoord (f : Fields) (c : Nat) (idx : List Nat) (cols i j : Nat) : Coord :=
  if f.sub = 0 then ⟨(idx[i * cols + j]?).getD 0, c, 0, 0⟩ else ⟨c + j, (idx[i]?).getD 0, 0, 0⟩
/-- Index words that the instruction reads. -/
def indexCount (f : Fields) (rows cols : Nat) : Nat := if f.sub = 0 then rows * cols else rows

/-- The active elements of a shape, in row-major order (R61, R144). -/
def State.activeElems (s : State) (m : Operand) (rows cols : Nat) : List (Nat × Nat) :=
  (List.range rows).flatMap (fun i => ((List.range cols).filter (fun j => s.active s.cur m cols i j)).map (fun j => (i, j)))

/-- Places of all elements, or the first failure; a COMPRESSED tile comes before a CONST one (R292). -/
def State.elemPlaces (s : State) (e : BitVec 512) (cwb : Tab Word) (isWrite : Bool) : List Coord → Except Bad (List ElemAt)
  | [] => .ok []
  | x :: r => match hBounds e x with
    | some b => .error b
    | none => match s.elemAt s.cur s.me.sys e cwb isWrite x with
      | .error b => .error (if b.ofConst && r.any (fun y => (hBounds e y).isNone && s.inCompressed s.cur s.me.sys e y) then .trap .layoutMismatch 0 else b)
      | .ok p => match s.elemPlaces e cwb isWrite r with
        | .error b => .error b
        | .ok ps => .ok (p :: ps)

/-- The packed start of a tile is the least x0 of its active elements; a gather of elements starts at each (R68, log 12, DEDUCED). -/
def packedBad (perElem : Bool) (e : BitVec 512) (xs : List Coord) : Option Bad :=
  if perElem then xs.findSome? (fun x => hPackedBad e x.x0)
  else match xs with
    | [] => none
    | x :: r => hPackedBad e (r.foldl (fun a y => min a y.x0) x.x0)

/-- All checks of a tile access: entry, format (LAYOUT_MISMATCH), permission, bounds, alignment, translation (R144, R404). -/
def State.tileChecks (s : State) (f : Fields) (e : QEntry) (isWrite perElem : Bool) (xs : List Coord) : Except Bad (List ElemAt) :=
  let h := e.entry f.a
  match hCheck h (hType h == fieldFmt f) (!isWrite) isWrite with
  | some b => .error b
  | none => match xs.findSome? (hBounds h) with
    | some b => .error b
    | none => match packedBad perElem h xs with
      | some b => .error b
      | none => (s.elemPlaces h e.cwb isWrite xs).map (fun l => l.map (fun p => { p with pieces := s.cached (policyOf f.hint (hCpol h)) p.pieces }))

/-- Read elements in order: the state, their memory bits, the first poison. -/
def State.readElems (s : State) (bits : Nat) : List ElemAt → Got × List Nat
  | [] => ({ s := s }, [])
  | p :: r =>
    let a := s.elemRead s.myCore bits p
    let b := a.1.s.readElems bits r
    ({ s := b.1.s, poison := firstSome a.1.poison b.1.poison }, a.2 :: b.2)
/-- Write elements in order: of two that reach the same place the later one stays (R144). Each performs for itself (R264); one that does not
fill its bytes performs at once. -/
def State.writeElems (s : State) (bits : Nat) : List (ElemAt × Nat) → State
  | [] => s
  | p :: r =>
    (if bits % 8 = 0 then s.store (leBytes (bits / 8) p.2) p.1.pieces
     else (s.flushFor p.1.pieces).elemWrite s.myCore s.myParty bits p.1 p.2).writeElems bits r

/-- A loaded value for an element, none where it keeps its value. -/
def scatterTo (at_ : List (Nat × Nat)) (vs : List Nat) (rows cols : Nat) : List (Option Nat) :=
  (List.range (rows * cols)).map (fun k => ((at_.zip vs).find? (fun x => x.1.1 * cols + x.1.2 == k)).map (·.2))

/-- What a load brings to elements that later instructions have written meanwhile: either result stays (R88, R163; free choice, log 2,
DESIGN CHOICE). -/
def State.metBy (s : State) (e : QEntry) (phys eb : Nat) (vs : List (Option Nat)) : List (Option Nat) :=
  vs.zipIdx.map (fun v =>
    if e.met.any (fun r => r.meets (.v phys) (v.2 * eb) eb) && (Config.freeBits (s.fv + 9 + phys) (16384 + v.2)).getLsbD 0 then none else v.1)
/-- What an access to elements leaves in the translation caches and, of a tiled tensor, in the layout unit (R349, R351). -/
def State.fillElems (s : State) (h : Nat) (e : BitVec 512) (xs : List Coord) : State :=
  if hSpace e = 0 ∨ hSpace e = 5 then s
  else xs.foldl (fun t x =>
    let at_ := if hLayout e = 1 then 8 * tileNumber e x else hElemBit e x / 8
    (t.tlbFill t.myCore t.me.pasid (BitVec.ofNat 64 (hBase e + at_))).keepTile t.cur t.me.sys h e x) s
/-- The words of local memory that elements lie in. -/
def lmTouched (ps : List ElemAt) : List Nat := ps.flatMap (fun p => p.pieces.flatMap pieceWords)
/-- A tile access takes its words for this cycle, where it is on local memory (R256). -/
def State.takeTile (s : State) (ws : List Nat) : State := if ws.isEmpty then s else s.takeWords s.myCore ws
/-- A tile load: every check, then every active element, converted to its container (R25). -/
def State.loadTile (s : State) (f : Fields) (e : QEntry) (perElem : Bool) (coord : Nat → Nat → Coord) : QRes :=
  let rows := shpRows e.shp
  let cols := shpCols e.shp
  let x := memFmt f
  let at_ := s.activeElems f.e rows cols
  match s.tileChecks f e false perElem (at_.map (fun p => coord p.1 p.2)) with
  | .error b => b.res s 2 (handleNum f.a)
  | .ok ps =>
    let ws := lmTouched ps
    if s.lmBusy s.myCore ws then .busy s.myCore ws
    else
    let s := (s.fillElems (handleNum f.a) (e.entry f.a) (at_.map (fun p => coord p.1 p.2))).takeTile ws
    let g := (s.bindFor (ps.flatMap (·.pieces))).readElems x.memBits ps
    match g.1.poison with
    | some c => .trap g.1.s .dataPoison 2 c
    | none => match e.dsts with
      | .v d :: _ => .done (g.1.s.writeTile s.myCore d x.regBytes (s.metBy e d x.regBytes (scatterTo at_ (g.2.map (memToReg x)) rows cols))) [] 0
      | _ => .done g.1.s [] 0

/-- An element of `bits` bits covers a bit of a core's local memory. -/
def ElemAt.covers (p : ElemAt) (bits core bit : Nat) : Bool :=
  let rec go : Nat → List Piece → Bool
    | _, [] => false
    | o, .lm c off n :: r =>
      (c == core && 8 * off ≤ bit && bit < 8 * (off + n) && p.shift ≤ bit - 8 * off + 8 * o && bit - 8 * off + 8 * o < p.shift + bits) || go (o + n) r
    | o, _ :: r => go o r
  go 0 p.pieces
/-- LM words whose 32 bits one tile store writes lose their error (R254). -/
def State.healWords (s : State) (bits : Nat) (ps : List ElemAt) : State :=
  let cores := (ps.flatMap (fun p => p.pieces.flatMap (fun q => match q with
    | .lm c _ _ => [c]
    | _ => []))).eraseDups
  cores.foldl (fun t c => t.modCore c (fun k =>
    k.lmHeal ((k.lmBad ++ k.lmFresh ++ k.lmCe).filter (fun w => (List.range 32).all (fun b => ps.any (fun p => p.covers bits c (32 * w + b))))))) s

/-- A tile store: every check, then every active element in row-major order. -/
def State.storeTile (s : State) (f : Fields) (e : QEntry) (perElem : Bool) (coord : Nat → Nat → Coord) : QRes :=
  let rows := shpRows e.shp
  let cols := shpCols e.shp
  let x := memFmt f
  let at_ := s.activeElems f.e rows cols
  match s.tileChecks f e true perElem (at_.map (fun p => coord p.1 p.2)) with
  | .error b => b.res s 2 (handleNum f.a)
  | .ok ps =>
    let ws := lmTouched ps
    if s.lmBusy s.myCore ws then .busy s.myCore ws
    else
    let s := (s.fillElems (handleNum f.a) (e.entry f.a) (at_.map (fun p => coord p.1 p.2))).takeTile ws
    let d := s.tile s.cur e.d.toNat x.regBytes (rows * cols)
    let vs := at_.map (fun p => regToMem x ((d[p.1 * cols + p.2]?).getD 0))
    .done ((s.writeElems x.memBits (ps.zip vs)).healWords x.memBits ps) [] 0

/-- LDV: loads a tile. -/
def ldvBody (f : Fields) (e : QEntry) (s : State) : QRes := s.loadTile f e false (tileCoord f e)
def execLdv (f : Fields) (s : State) : Out := runQueue (.ldv f) f .none (ldvBody f) s
/-- STV: stores a tile. -/
def stvBody (f : Fields) (e : QEntry) (s : State) : QRes := s.storeTile f e false (tileCoord f e)
def execStv (f : Fields) (s : State) : Out := runQueue (.stv f) f .reply (stvBody f) s
/-- The coordinate map of LDG and STG under the index register. -/
def State.gatherMap (s : State) (f : Fields) (e : QEntry) : Nat → Nat → Coord :=
  let rows := shpRows e.shp
  let cols := shpCols e.shp
  gatherCoord f (fixedCoord f e) (s.tile s.cur e.b.toNat 4 (indexCount f rows cols)) cols
/-- LDG: gathers a tile. -/
def ldgBody (f : Fields) (e : QEntry) (s : State) : QRes := s.loadTile f e (f.sub == 0) (s.gatherMap f e)
def execLdg (f : Fields) (s : State) : Out := runQueue (.ldg f) f .none (ldgBody f) s
/-- STG: scatters a tile. -/
def stgBody (f : Fields) (e : QEntry) (s : State) : QRes := s.storeTile f e (f.sub == 0) (s.gatherMap f e)
def execStg (f : Fields) (s : State) : Out := runQueue (.stg f) f .reply (stgBody f) s

/-! ### Clearing poison (R158) -/

/-- POISONCLR: the line becomes zero and loses its poison; a release at its scope. -/
def poisonclrBody (f : Fields) (e : QEntry) (s : State) : QRes :=
  withPlace s (eaOf f e) 64 64 .write (fun ps s =>
    .done ((s.flushLate.writePieces s.myParty true (leBytes 64 0) ps).releaseAt (pieceLocs ps) f.scp.toNat) [] 0)
def execPoisonclr (f : Fields) (s : State) : Out := runQueue (.poisonclr f) f .reply (poisonclrBody f) s

end Sys2Proof.Machine
end

