-- ==== Sys2Proof/Machine/Atomics.lean ====
section
/-! DEFINITION. Atomics (R147, R148) and fire-and-forget reductions (R149). -/

namespace Sys2Proof.Machine

/-- The new value of an operation on the old value m, the operand c and, for ACAS, e; none where nothing is written. -/
def newAdd (x : Fmt) (m c _e : Nat) : Option Nat × Flags := (some ((m + c) % 2 ^ x.width), 0)
def newMinS (x : Fmt) (m c _e : Nat) : Option Nat × Flags := (some (if toSigned x.width m ≤ toSigned x.width c then m else c), 0)
def newMaxS (x : Fmt) (m c _e : Nat) : Option Nat × Flags := (some (if toSigned x.width m ≤ toSigned x.width c then c else m), 0)
def newMinU (_x : Fmt) (m c _e : Nat) : Option Nat × Flags := (some (if m ≤ c then m else c), 0)
def newMaxU (_x : Fmt) (m c _e : Nat) : Option Nat × Flags := (some (if m ≤ c then c else m), 0)
def newAnd (_x : Fmt) (m c _e : Nat) : Option Nat × Flags := (some (m &&& c), 0)
def newOr (_x : Fmt) (m c _e : Nat) : Option Nat × Flags := (some (m ||| c), 0)
def newXor (_x : Fmt) (m c _e : Nat) : Option Nat × Flags := (some (m ^^^ c), 0)
def newXchg (_x : Fmt) (_m c _e : Nat) : Option Nat × Flags := (some c, 0)
def newCas (_x : Fmt) (m c e : Nat) : Option Nat × Flags := (if m = c then some e else none, 0)
/-- RoundTo(F, RNE, m + c, FALSE). -/
def newFadd (x : Fmt) (m c _e : Nat) : Option Nat × Flags :=
  let a := x.value m
  let b := x.value c
  let (r, fl) := deliverFloat x .rne [a, b] (XReal.add false a b)
  (some r, fl)
/-- 0 if m ≥ c, else m + 1. -/
def newIncw (_x : Fmt) (m c _e : Nat) : Option Nat × Flags := (some (if m ≥ c then 0 else m + 1), 0)
/-- REDMIN and REDMAX compare signed for INT formats, unsigned for UINT formats (R149). -/
def newMin (x : Fmt) : Nat → Nat → Nat → Option Nat × Flags := if x.isSigned then newMinS x else newMinU x
def newMax (x : Fmt) : Nat → Nat → Nat → Option Nat × Flags := if x.isSigned then newMaxS x else newMaxU x

/-- An atomic in the bank-linear window acts on the dies: the home slice first writes its line back (R148, R281). -/
def State.settleBl (s : State) : List Piece → State
  | .mem .bl off _ _ :: _ => s.flushDev (off / 64)
  | _ => s

/-- An atomic at the home of another device of the league (R148): a message leaves; the old value there is a free value, which a named D
takes and from which the flags follow (log 21, DESIGN CHOICE), and so is its poison. It keeps its roles at the bytes there. What R379 lets merge
on the way, a relaxed one that returns nothing, says so. -/
def remoteAtomic (op : Fmt → Nat → Nat → Nat → Option Nat × Flags) (quiet : Bool) (f : Fields) (e : QEntry) (opc pos off n c c2 : Nat) (s : State) : QRes :=
  let x := memFmt f
  let m := (Config.freeWord (s.fv + 604)).toNat % 2 ^ x.width
  let keys := pieceLocs [.remote pos off n]
  let s1 := if f.sub.getLsbD 0 then s.acquireAt keys f.scp.toNat else s
  let merges := quiet || (decide (opc ≤ 0xA7) && e.dsts.isEmpty && f.sub == 0)
  let s2 := s1.askWindow pos (fun tag => .atomic [(s1.lgPos.toNat, tag)] s1.cur off opc f.fmt.toNat (BitVec.ofNat 64 c) (BitVec.ofNat 64 c2) merges)
  let (v, fl) := op x m c c2
  let s3 := if f.sub.getLsbD 1 && v.isSome then s2.releaseAt keys f.scp.toNat else s2
  if !quiet && Config.freeBool (s.fv + 610 + pos) then .trap s2 .dataPoison 0 2
  else .done s3 (if e.dsts.isEmpty then [] else [extInt x m]) (if quiet then 0 else fl)

/-- The write of an atomic or of a reduction: other parties' release sequences go on behind an atomic (R268). -/
def State.writeAtomic (s : State) (party : Party) (reduction : Bool) (bs : List Byte) (ps : List Piece) : State :=
  let t := s.writePieces party false bs ps
  if reduction then t else t.mixRels party (pieceLocs ps) s.rel.at_
/-- AADD.ui64 by a unit of the device, at its home (R148). -/
def State.addAt (s : State) (core : Nat) (party : Party) (v : Nat) (ps : List Piece) : State := match ps with
  | [.remote pos off _] => s.askWindow pos (fun tag => .atomic [(s.lgPos.toNat, tag)] s.cur off 0x0A0 Fmt.uint64.code (BitVec.ofNat 64 v) 0 false)
  | _ =>
    let g := s.readPieces core ps
    g.s.writeAtomic party false (leBytes 8 ((leNat g.bytes + v) % 2 ^ 64)) ps
/-- One atomic: its checks, its indivisible read and write, its roles (R140, R147). `quiet` is a reduction, which discards the flags (R149). -/
def atomicBody (op : Fmt → Nat → Nat → Nat → Option Nat × Flags) (opc : Nat) (quiet : Bool) (f : Fields) (e : QEntry) (s : State) : QRes :=
  let x := memFmt f
  let n := accBytes x
  let c := (dataVal x f.c e.c).toNat % 2 ^ x.width
  let c2 := (dataVal x f.e e.e).toNat % 2 ^ x.width
  withPlace s (eaOf f e) n n .atomic (fun ps s =>
    let ps := s.cached (policyOf f.hint 0) ps
    let s := if f.sub.getLsbD 1 then s.flushLate else s.flushFor ps
    match ps with
    | [.remote pos off _] => remoteAtomic op quiet f e opc pos off n c c2 s
    | _ => withBytes (s.settleBl ps) ps (fun bs s =>
      let m := leNat bs
      let (v, fl) := op x m c c2
      let keys := pieceLocs ps
      let s1 := if f.sub.getLsbD 0 then s.acquireAt keys f.scp.toNat else s
      let s2 := match v with
        | some r => s1.writeAtomic s1.myParty quiet (leBytes n r) ps
        | none => s1
      let s3 := if f.sub.getLsbD 1 && v.isSome then s2.releaseAt keys f.scp.toNat else s2
      .done s3 [extInt x m] (if quiet then 0 else fl)))

def aaddBody (f : Fields) (e : QEntry) (s : State) : QRes := atomicBody newAdd 0x0A0 false f e s
/-- AADD: (m + c) mod 2^W. -/
def execAadd (f : Fields) (s : State) : Out := runQueue (.aadd f) f .reply (aaddBody f) s
def aminBody (f : Fields) (e : QEntry) (s : State) : QRes := atomicBody newMinS 0x0A1 false f e s
/-- AMIN: the signed minimum. -/
def execAmin (f : Fields) (s : State) : Out := runQueue (.amin f) f .reply (aminBody f) s
def amaxBody (f : Fields) (e : QEntry) (s : State) : QRes := atomicBody newMaxS 0x0A2 false f e s
/-- AMAX: the signed maximum. -/
def execAmax (f : Fields) (s : State) : Out := runQueue (.amax f) f .reply (amaxBody f) s
def aminuBody (f : Fields) (e : QEntry) (s : State) : QRes := atomicBody newMinU 0x0A3 false f e s
/-- AMINU: the unsigned minimum. -/
def execAminu (f : Fields) (s : State) : Out := runQueue (.aminu f) f .reply (aminuBody f) s
def amaxuBody (f : Fields) (e : QEntry) (s : State) : QRes := atomicBody newMaxU 0x0A4 false f e s
/-- AMAXU: the unsigned maximum. -/
def execAmaxu (f : Fields) (s : State) : Out := runQueue (.amaxu f) f .reply (amaxuBody f) s
def aandBody (f : Fields) (e : QEntry) (s : State) : QRes := atomicBody newAnd 0x0A5 false f e s
/-- AAND: m AND c. -/
def execAand (f : Fields) (s : State) : Out := runQueue (.aand f) f .reply (aandBody f) s
def aorBody (f : Fields) (e : QEntry) (s : State) : QRes := atomicBody newOr 0x0A6 false f e s
/-- AOR: m OR c. -/
def execAor (f : Fields) (s : State) : Out := runQueue (.aor f) f .reply (aorBody f) s
def axorBody (f : Fields) (e : QEntry) (s : State) : QRes := atomicBody newXor 0x0A7 false f e s
/-- AXOR: m XOR c. -/
def execAxor (f : Fields) (s : State) : Out := runQueue (.axor f) f .reply (axorBody f) s
def axchgBody (f : Fields) (e : QEntry) (s : State) : QRes := atomicBody newXchg 0x0A8 false f e s
/-- AXCHG: c. -/
def execAxchg (f : Fields) (s : State) : Out := runQueue (.axchg f) f .reply (axchgBody f) s
def acasBody (f : Fields) (e : QEntry) (s : State) : QRes := atomicBody newCas 0x0A9 false f e s
/-- ACAS: e if m == c; else nothing is written. -/
def execAcas (f : Fields) (s : State) : Out := runQueue (.acas f) f .reply (acasBody f) s
def afaddBody (f : Fields) (e : QEntry) (s : State) : QRes := atomicBody newFadd 0x0AA false f e s
/-- AFADD: m + c, rounded RNE. -/
def execAfadd (f : Fields) (s : State) : Out := runQueue (.afadd f) f .reply (afaddBody f) s
def aincwBody (f : Fields) (e : QEntry) (s : State) : QRes := atomicBody newIncw 0x0AB false f e s
/-- AINCW: m + 1, 0 from the bound on. -/
def execAincw (f : Fields) (s : State) : Out := runQueue (.aincw f) f .reply (aincwBody f) s
def redaddBody (f : Fields) (e : QEntry) (s : State) : QRes := atomicBody newAdd 0x0B0 true f e s
/-- REDADD: an addition that returns nothing. -/
def execRedadd (f : Fields) (s : State) : Out := runQueue (.redadd f) f .reply (redaddBody f) s
def redminBody (f : Fields) (e : QEntry) (s : State) : QRes := atomicBody newMin 0x0B1 true f e s
/-- REDMIN: a minimum that returns nothing. -/
def execRedmin (f : Fields) (s : State) : Out := runQueue (.redmin f) f .reply (redminBody f) s
def redmaxBody (f : Fields) (e : QEntry) (s : State) : QRes := atomicBody newMax 0x0B2 true f e s
/-- REDMAX: a maximum that returns nothing. -/
def execRedmax (f : Fields) (s : State) : Out := runQueue (.redmax f) f .reply (redmaxBody f) s
def redfaddBody (f : Fields) (e : QEntry) (s : State) : QRes := atomicBody newFadd 0x0B3 true f e s
/-- REDFADD: a floating-point addition that returns nothing; its flags are discarded. -/
def execRedfadd (f : Fields) (s : State) : Out := runQueue (.redfadd f) f .reply (redfaddBody f) s

end Sys2Proof.Machine
end

