-- ==== Sys2Proof/Machine/Result.lean ====
section
/-! DEFINITION. The result descriptor (R238): its 64 bytes, its write, and what retirement and a kill record. -/

namespace Sys2Proof.Machine

/-- The descriptor as a number (R238). -/
def rdWord (t : Strand) (slot : Nat) : Nat :=
  t.rdValid.toNat + t.rdStatus.toNat * 2 ^ 64 + t.rdCcnt.toNat * 2 ^ 72 + t.rdCsec.toNat * 2 ^ 80 + t.rdCnsec.toNat * 2 ^ 128 +
    t.rdUser.toNat * 2 ^ 160 + slot * 2 ^ 224

/-- Where the descriptor lies, or why it cannot be written now (R406). -/
def State.rdPlace (s : State) (slot : Nat) : Except Bad (List Piece) :=
  let t := s.strand slot
  match s.translateRange (coreOf slot) t.pasid t.sys .write 3 t.rdAddr 64 with
  | .error b => .error b
  | .ok ps => match s.piecesFate true ps with
    | some b => .error b
    | none => .ok ps

/-- Write the strand's descriptor at its home as one write (R238). -/
def State.writeRd (s : State) (slot : Nat) : Except Bad State :=
  match s.rdPlace slot with
  | .error b => .error b
  | .ok ps => .ok (s.writePieces (s.strand slot).party true (leBytes 64 (rdWord (s.strand slot) slot)) ps)

/-- The bundle of a strand gathers how the strand ended (R342): committed, expired, without commit. -/
def Bundle.count (b : Bundle) (status : Nat) : Bundle :=
  if status = 1 ∨ status = 2 then { b with ncom := b.ncom + 1 } else if status = 3 then { b with nexp := b.nexp + 1 } else { b with nnc := b.nnc + 1 }
def State.countEnd (s : State) (slot : Nat) : State :=
  let st := (s.strand slot).rdStatus.toNat
  { s with bundles := s.bundles.map (fun b => if b.slots.contains slot && b.lnch == (s.strand slot).lnch then b.count st else b) }
/-- A result write that is dropped after the end makes the trailer's CODE 3 (R406). -/
def State.rdDropped (s : State) (slot : Nat) : State :=
  { s with bundles := s.bundles.map (fun b => if b.slots.contains slot && b.lnch == (s.strand slot).lnch then { b with engineError := true } else b) }

/-- The write would be held now and the fault queue has no room: its poster waits (R352). -/
def State.rdBlocked (s : State) (slot : Nat) : Bool := s.fqFull && (match s.rdPlace slot with
  | .error (.held k _ _ _) => k != .league
  | _ => false)
/-- The write at or after retirement or a kill (R406): made, held with a record of ENG 4, waiting for a move or for room in the fault queue, or
dropped. -/
def State.finalRd (s : State) (slot : Nat) : State :=
  match s.writeRd slot with
  | .ok s1 => s1.modStrand slot (fun t => { t with rdWait := false })
  | .error (.held k c va a) =>
    if s.holdFull k then s.modStrand slot (fun t => { t with rdWait := true })
    else
      let t := s.strand slot
      let (n, s1) := s.postHold (s.holdInfo slot { code := c, eng := 4, pos := t.pc } k va a 0)
      { s1.setStrand slot { t with rdHeld := some n, rdWait := false } with
        held := s1.held ++ [{ seq := n, kind := k, holder := .result slot, pasid := t.pasid, va := va, acc := a }] }
  | .error .moving => s.modStrand slot (fun t => { t with rdWait := true })
  | .error (.trap _ _) => (s.modStrand slot (fun t => { t with rdWait := false })).rdDropped slot
/-- A write that waits is tried again, once nothing it waits for is left. -/
def resultRetry? (slot : Nat) (s : State) : Option State :=
  if !((s.strand slot).rdWait) || s.rdBlocked slot then none
  else match s.writeRd slot with
    | .error .moving => none
    | _ => some (s.finalRd slot)

end Sys2Proof.Machine
end

