-- ==== Sys2Proof/Machine/Sync.lean ====
section
/-! DEFINITION. The LM records: full/empty words (R145), semaphores (R150), firkin rings (R151, R152, R257) and barriers (R153, R154). -/

namespace Sys2Proof.Machine

/-- The core selector of an LM operand (R138). -/
def selOf (f : Fields) (e : QEntry) : Option Nat := match f.c with
  | .none => none
  | _ => some e.c.toNat
/-- The place of an LM operand: the core and the physical offset there (R138); the operation takes its words for this cycle (R256). Which of
RD and WR an instruction needs, the spec does not list: one that returns data RD, one that changes the record WR, one that does both in one
step on a count or a descriptor both, LDFE, whose word is only emptied, RD (log 76, DESIGN CHOICE). -/
def withLm (f : Fields) (e : QEntry) (size align : Nat) (rd wr : Bool) (s : State) (k : State → Nat → Nat → QRes) : QRes :=
  match s.lmOperand (e.entry f.a) (offVal f.b e.b) (selOf f e) size align rd wr with
  | .ok core off => k (s.takeLm core off size) core off
  | .busy core off => .busy core (lmWords off size)
  | .bad (.trap c sub) opnd => .trap s c opnd sub
  | .bad b opnd => b.res s opnd (handleNum f.a)
/-- An uncorrectable error in the words that are read traps DATA_POISON (R138). -/
def noUe (s : State) (core off n : Nat) (k : State → QRes) : QRes :=
  if (s.core core).lmUe off n then .trap (s.noteLm core off n) .dataPoison 0 0 else k (s.noteLm core off n)

/-! ### Full/empty words (R145) -/

def State.setFull (s : State) (core w : Nat) (b : Bool) : State := s.modCore core (fun c => { c with full := setPut c.full w b })
def State.isFull (s : State) (core w : Nat) : Bool := (s.core core).lmFull w
def State.lmWord (s : State) (core off : Nat) : Nat := leNat ((s.core core).lmRead off 4)
/-- All 32 bits of each word are written, which removes a corrected error (R254). -/
def State.lmPut (s : State) (core off n v : Nat) : State := s.modCore core (fun c => c.lmStore off (leBytes n v))
/-- A release at a record (R267): the strand's stores perform before it; `gone` are the releases that it replaces. -/
def State.releaseRec (s : State) (core off size scp tag : Nat) (gone : Nat → Bool) : State :=
  (s.flushLate.dropRels (lmKey core off) gone).releaseAs [lmKey core off] scp tag size
/-- The tag of what an engine releases in a phase, and the tags that an acquire of phase `w` takes: the arrivals of that phase, and what the engines
had released in it or in a phase before (R154). -/
def engineTag (phase : Nat) : Nat := 2 ^ 32 + phase
def phaseTag (w t : Nat) : Bool := t == w || (decide (2 ^ 32 ≤ t) && decide ((w + 2 ^ 33 - t) % 2 ^ 32 < 2 ^ 31))
/-- An acquire at a record: of the releases that `ok` names; those that `gone` names are taken. -/
def State.acquireRec (s : State) (core off scp : Nat) (ok gone : Nat → Bool) : State :=
  (s.acquireOf [lmKey core off] scp ok).dropRels (lmKey core off) gone
def everyTag (_ : Nat) : Bool := true
def noTag (_ : Nat) : Bool := false

/-- LDFE: waits until the word is full, takes its data and sets it empty; LDFE.T traps at once. -/
def ldfeBody (f : Fields) (e : QEntry) (s : State) : QRes :=
  withLm f e 4 4 true false s (fun s core off => noUe s core off 4 (fun s =>
    if s.isFull core (off / 4) then
      .done ((s.setFull core (off / 4) false).acquireRec core off f.scp.toNat everyTag everyTag) [BitVec.ofNat 64 (s.lmWord core off)] 0
    else if f.flags = 1 then .trap s .feTimeout 0 0x90
    else .wait))
def execLdfe (f : Fields) (s : State) : Out := runQueue (.ldfe f) f .none (ldfeBody f) s
/-- STFF: fills an empty word; a full one traps FE_OVERFLOW. -/
def stffBody (f : Fields) (e : QEntry) (s : State) : QRes :=
  withLm f e 4 4 false true s (fun s core off => noUe s core off 4 (fun s =>
    if s.isFull core (off / 4) then .trap s .feOverflow 0 0
    else .done (((s.lmPut core off 4 (dataVal .uint32 f.e e.e).toNat).setFull core (off / 4) true).releaseRec core off 0 f.scp.toNat 0 everyTag) [] 0))
def execStff (f : Fields) (s : State) : Out := runQueue (.stff f) f .hold (stffBody f) s
/-- FEQ: D := (full == 1). -/
def feqBody (f : Fields) (e : QEntry) (s : State) : QRes :=
  withLm f e 4 4 true false s (fun s core off => noUe s core off 4 (fun s => .done s [if s.isFull core (off / 4) then 1 else 0] 0))
def execFeq (f : Fields) (s : State) : Out := runQueue (.feq f) f .none (feqBody f) s
/-- FESET: the bit is set to SUB; nothing is read; what an LDFE then takes is no fill of an STFF. -/
def fesetBody (f : Fields) (e : QEntry) (s : State) : QRes :=
  withLm f e 4 4 false true s (fun s core off => .done ((s.setFull core (off / 4) (f.sub == 1)).dropRels (lmKey core off) everyTag) [] 0)
def execFeset (f : Fields) (s : State) : Out := runQueue (.feset f) f .hold (fesetBody f) s

/-! ### Semaphores (R150) -/

/-- E[31:0] of a count, slot, phase or byte operand. -/
def low32 (w : Word) : Nat := w.toNat % 2 ^ 32
/-- SEMWAIT: waits until the count is at least e, then subtracts e. Units are alike: it takes from every post since the count was last 0
(log 36, DEDUCED). -/
def semwaitBody (f : Fields) (e : QEntry) (s : State) : QRes :=
  withLm f e 4 4 true true s (fun s core off => noUe s core off 4 (fun s =>
    let n := low32 (dataVal .uint32 f.e e.e)
    let v := s.lmWord core off
    if n ≤ v then .done ((s.lmPut core off 4 (v - n)).acquireRec core off f.scp.toNat everyTag (fun _ => n == v)) [] 0 else .wait))
def execSemwait (f : Fields) (s : State) : Out := runQueue (.semwait f) f .none (semwaitBody f) s
/-- SEMPOST: adds, saturating. -/
def sempostBody (f : Fields) (e : QEntry) (s : State) : QRes :=
  withLm f e 4 4 true true s (fun s core off => noUe s core off 4 (fun s =>
    .done ((s.lmPut core off 4 (min (s.lmWord core off + low32 (dataVal .uint32 f.e e.e)) (2 ^ 32 - 1))).releaseRec core off 4 f.scp.toNat 0 noTag) [] 0))
def execSempost (f : Fields) (s : State) : Out := runQueue (.sempost f) f .reply (sempostBody f) s

/-! ### Firkin rings (R151, R152) -/

/-- A ring descriptor's 64 bytes. -/
def State.lmRecord (s : State) (core off n : Nat) : BitVec 512 := BitVec.ofNat 512 (leNat ((s.core core).lmRead off n))
def srBase (r : BitVec 512) : Nat := fld r 0 32
def srSlotBytes (r : BitVec 512) : Nat := 4 * (fld r 32 16 + 1)
def srN (r : BitVec 512) : Nat := fld r 48 6 + 1
def srM (r : BitVec 512) : Nat := srN r * 2 ^ 26
def srState (r : BitVec 512) (i : Nat) : Nat := fld r (192 + 2 * i) 2
/-- HANDLE_INVALID of R152. -/
def srBad (r : BitVec 512) : Bool :=
  fld r 54 10 != 0 || fld r 320 192 != 0 || srBase r % 4 != 0 || srBase r + srN r * srSlotBytes r > 2 ^ 32 || fld r 128 32 ≥ srM r ||
  fld r 160 32 ≥ srM r
/-- Add to a 32-bit field. -/
def addFld (r : BitVec 512) (lo : Nat) (n : Int) : BitVec 512 := setFld r lo 32 (wrapTo 32 ((fld r lo 32 : Int) + n))
/-- The word that names a slot: its index and its LM byte offset. -/
def srWord (r : BitVec 512) (i : Nat) : Word := BitVec.ofNat 64 (i * 2 ^ 32 + (srBase r + i * srSlotBytes r))

/-- The record behind a ring instruction, checked. -/
def withRing (f : Fields) (e : QEntry) (s : State) (k : State → Nat → Nat → BitVec 512 → QRes) : QRes :=
  withLm f e 64 64 true true s (fun s core off => noUe s core off 64 (fun s =>
    let r := s.lmRecord core off 64
    if srBad r then .trap s .handleInvalid 0 0 else k s core off r))
def State.putRecord (s : State) (core off n : Nat) (r : BitVec 512) : State := s.lmPut core off n r.toNat

/-- SRACQ: the next slot to acquire, once it is EMPTY. -/
def sracqBody (f : Fields) (e : QEntry) (s : State) : QRes :=
  withRing f e s (fun s core off r =>
    let i := fld r 128 32 % srN r
    if srState r i != 0 then .wait
    else
      let r1 := setFld (addFld (setFld r (192 + 2 * i) 2 1) 64 (-1)) 128 32 ((fld r 128 32 + 1) % srM r)
      .done ((s.putRecord core off 64 r1).acquireRec core off f.scp.toNat (· == 2 * i + 1) noTag) [srWord r i] 0)
def execSracq (f : Fields) (s : State) : Out := runQueue (.sracq f) f .none (sracqBody f) s
/-- SRPUB: a FILLING slot becomes FULL. -/
def srpubBody (f : Fields) (e : QEntry) (s : State) : QRes :=
  withRing f e s (fun s core off r =>
    let i := e.e.toNat
    if srN r ≤ i then .trap s .handleBounds 0 0
    else if srState r i != 1 then .trap s .feOverflow 0 0
    else .done ((s.putRecord core off 64 (addFld (setFld r (192 + 2 * i) 2 2) 96 1)).releaseRec core off 64 f.scp.toNat (2 * i) (· == 2 * i)) [] 0)
def execSrpub (f : Fields) (s : State) : Out := runQueue (.srpub f) f .hold (srpubBody f) s
/-- SRTAKE: the next slot to take, once it is FULL. -/
def srtakeBody (f : Fields) (e : QEntry) (s : State) : QRes :=
  withRing f e s (fun s core off r =>
    let i := fld r 160 32 % srN r
    if srState r i != 2 then .wait
    else
      let r1 := setFld (addFld (setFld r (192 + 2 * i) 2 3) 96 (-1)) 160 32 ((fld r 160 32 + 1) % srM r)
      .done ((s.putRecord core off 64 r1).acquireRec core off f.scp.toNat (· == 2 * i) noTag) [srWord r i] 0)
def execSrtake (f : Fields) (s : State) : Out := runQueue (.srtake f) f .none (srtakeBody f) s
/-- SRREL: a DRAINING slot becomes EMPTY. -/
def srrelBody (f : Fields) (e : QEntry) (s : State) : QRes :=
  withRing f e s (fun s core off r =>
    let i := e.e.toNat
    if srN r ≤ i then .trap s .handleBounds 0 0
    else if srState r i != 3 then .trap s .feOverflow 0 0
    else .done ((s.putRecord core off 64 (addFld (setFld r (192 + 2 * i) 2 0) 64 1)).releaseRec core off 64 f.scp.toNat (2 * i + 1) (· == 2 * i + 1)) [] 0)
def execSrrel (f : Fields) (s : State) : Out := runQueue (.srrel f) f .hold (srrelBody f) s

/-! ### Barriers (R153, R154) -/

def barExpect (r : BitVec 512) : Nat := fld r 0 32
def barArr (r : BitVec 512) : Nat := fld r 32 32
def barPend (r : BitVec 512) : Nat := fld r 64 48
def barPhase (r : BitVec 512) : Nat := fld r 128 32
def barDone (r : BitVec 512) : Nat := fld r 160 48
/-- The completion test of R154, at the end of every step that changes ARR or PEND. -/
def barTest (r : BitVec 512) : BitVec 512 :=
  if barArr r = barExpect r ∧ barPend r = 0 then setFld (setFld r 128 32 (barPhase r + 1)) 32 32 0 else r

/-- The record behind a barrier instruction; the words that it reads are without an uncorrectable error (R153): `lo` and `n` are their bytes. -/
def withBarrier (f : Fields) (e : QEntry) (rd wr : Bool) (lo n : Nat) (s : State) (k : State → Nat → Nat → BitVec 512 → QRes) : QRes :=
  withLm f e 32 32 rd wr s (fun s core off => noUe s core (off + lo) n (fun s => k s core off (s.lmRecord core off 32)))
/-- Write words of a record. -/
def State.putWords (s : State) (core off : Nat) (r : BitVec 512) (ws : List Nat) : State :=
  ws.foldl (fun t w => t.lmPut core (off + 4 * w) 4 (fld r (32 * w) 32)) s

/-- BARINIT: a new record, unless bytes are still pending or no arrival is expected. -/
def barinitBody (f : Fields) (e : QEntry) (s : State) : QRes :=
  withBarrier f e false true 8 8 s (fun s core off r =>
    if barPend r != 0 then .trap s .handleInvalid 0 0
    else if low32 e.e = 0 then .trap s .handleBounds 0 0
    else
      let r1 := setFld (setFld (setFld (setFld (setFld r 0 32 (low32 e.e)) 32 32 0) 128 32 0) 160 48 0) 208 3 0
      .done ((s.putWords core off r1 [0, 1, 4, 5, 6]).dropRels (lmKey core off) everyTag) [] 0)
def execBarinit (f : Fields) (s : State) : Out := runQueue (.barinit f) f .hold (barinitBody f) s
/-- BARARR: waits while the phase has all its arrivals, then arrives; D takes the phase. -/
def bararrBody (f : Fields) (e : QEntry) (s : State) : QRes :=
  withBarrier f e true true 0 20 s (fun s core off r =>
    if barArr r = barExpect r then .wait
    else
      let r1 := barTest (setFld r 32 32 (barArr r + 1))
      .done ((s.putWords core off r1 [1, 4]).releaseRec core off 32 deviceScope (barPhase r) noTag) [BitVec.ofNat 64 (barPhase r)] 0)
def execBararr (f : Fields) (s : State) : Out := runQueue (.bararr f) f .hold (bararrBody f) s
/-- BAREXP: PEND := (PEND + e[47:0]) mod 2^48, then the completion test. -/
def barexpBody (f : Fields) (e : QEntry) (s : State) : QRes :=
  withBarrier f e true true 0 20 s (fun s core off r =>
    .done (s.putWords core off (barTest (setFld r 64 48 (barPend r + e.e.toNat % 2 ^ 48))) [1, 2, 3, 4]) [] 0)
def execBarexp (f : Fields) (s : State) : Out := runQueue (.barexp f) f .hold (barexpBody f) s
/-- BARWAIT: waits until the phase differs from w; it takes what was released in phase w, and what the engines released before. -/
def barwaitBody (f : Fields) (e : QEntry) (s : State) : QRes :=
  withBarrier f e true false 16 4 s (fun s core off r =>
    if barPhase r = low32 e.e then .wait else .done (s.acquireRec core off deviceScope (phaseTag (low32 e.e)) noTag) [] 0)
def execBarwait (f : Fields) (s : State) : Out := runQueue (.barwait f) f .none (barwaitBody f) s
/-- BARTEST: D := (PHASE != w); an acquire when TRUE. -/
def bartestBody (f : Fields) (e : QEntry) (s : State) : QRes :=
  withBarrier f e true false 16 4 s (fun s core off r =>
    if barPhase r = low32 e.e then .done s [0] 0 else .done (s.acquireRec core off deviceScope (phaseTag (low32 e.e)) noTag) [1] 0)
def execBartest (f : Fields) (s : State) : Out := runQueue (.bartest f) f .none (bartestBody f) s

/-! ### The engines' updates of a barrier record (R153) -/

/-- An engine's update of a record, with what it releases into the present phase, if bytes leave PEND; a word with an uncorrectable error
keeps the record as it is, posts a Contained record for that word, and the command ends with CODE 3 (`false`). -/
def State.engineBar (s : State) (rel : Option Rel) (core off : Nat) (g : BitVec 512 → BitVec 512) : State × Bool :=
  match (lmWords off 32).find? (fun w => (s.core core).lmUe (4 * w) 4) with
  | some w =>
    ((s.modCore core (fun c => { c with lmFresh := setDel c.lmFresh w, lmBad := setAdd c.lmBad w })).postError
      { cls := 2, ukind := 0, unit := core, evt := 1, addr := 4 * w }, false)
  | none =>
    let s := (s.noteLm core off 32).takeLm core off 32
    let r := s.lmRecord core off 32
    let s1 := s.putWords core off (barTest (g r)) [1, 2, 3, 4, 5, 6]
    (match rel with
      | some x => s1.putRel [lmKey core off] { x with tag := engineTag (barPhase r), size := 32, scp := deviceScope }
      | none => s1, true)
/-- n more bytes or commands are pending. -/
def barAdd (n : Nat) (r : BitVec 512) : BitVec 512 := setFld r 64 48 (barPend r + n)
/-- n of PEND are complete; `done` is added to DONE. -/
def barSub (n done : Nat) (r : BitVec 512) : BitVec 512 := setFld (setFld r 64 48 (barPend r + 2 ^ 48 - n)) 160 48 (barDone r + done)

end Sys2Proof.Machine
end

