-- ==== Sys2Proof/Machine/Engines.lean ====
section
/-! DEFINITION. Engine commands (R216 to R220, R406): descriptors, the issue checks, acceptance, barrier counts, faults that hold a
command, and its completion steps. -/

namespace Sys2Proof.Machine

/-! ### Descriptors (R218, R222, R225, R226, R229, R230, R235) -/

def dCmd (d : BitVec 512) : Nat := fld d 0 8
def dIrq (d : BitVec 512) : Bool := d.getLsbD 8
def dBarv (d : BitVec 512) : Bool := d.getLsbD 9
def dBself (d : BitVec 512) : Bool := d.getLsbD 10
def dBk (d : BitVec 512) : Nat := fld d 11 2
def dBarh (d : BitVec 512) : Nat := fld d 16 10
def dBaroff (d : BitVec 512) : Nat := fld d 32 32

/-- Reserved fields of a command's descriptor: first bit and width. -/
def reservedOf (cmd : Nat) : List (Nat × Nat) :=
  let common := [(13, 3), (26, 6), (452, 4), (504, 8)]
  match cmd with
  | 0x01 => common ++ [(74, 6), (90, 38), (296, 24), (320, 128)]
  | 0x02 => common ++ [(74, 6), (90, 38)]
  | 0x03 => common ++ [(74, 6), (100, 28), (256, 192)]
  | 0x04 => common ++ [(74, 6), (90, 38), (296, 24)]
  | 0x11 => common ++ [(74, 6), (90, 6), (116, 12), (352, 96)]
  | 0x12 => common ++ [(74, 6), (80, 10), (91, 37), (228, 4), (240, 16), (320, 128)]
  | 0x13 => common ++ [(74, 6), (90, 6), (117, 11), (202, 22), (352, 96)]
  | 0x14 | 0x15 => common ++ [(74, 6), (91, 37), (228, 4), (240, 16), (320, 128)]
  | 0x21 => common ++ [(74, 6), (90, 38), (240, 208)]
  | _ => common
/-- Check 5 of R219: the instruction's own CMD, no reserved bit, and for LAYOUT no OP 3 (R368). -/
def descOk (cmd : Nat) (d : BitVec 512) : Bool :=
  dCmd d == cmd && (reservedOf cmd).all (fun r => fld d r.1 r.2 == 0) && !(cmd == 3 && fld d 90 2 == 3)
/-- CMD codes that a copy queue and a memory-command queue carry (R217). -/
def copyCodes : List Nat := [0x01, 0x02, 0x03, 0x04, 0x21]
def memoryCodes : List Nat := [0x11, 0x12, 0x13, 0x14, 0x15]

/-- ENG of a command's queue. -/
def Cmd.eng (c : Cmd) : Nat := if c.quad.isSome then 6 else 5
/-- Where its accesses stand: with the issuing strand, or, of a job, with the command processor (R20). -/
def Cmd.place (c : Cmd) : Place := if c.job.isSome then .device else .core c.core
/-- System privilege of a command's accesses: that of its strand. -/
def State.cmdSys (s : State) (c : Cmd) : Bool := (s.strand c.slot).sys
def State.cmdCwb (s : State) (c : Cmd) : Tab Word := (s.strand c.slot).cwb

/-! ### Counts of PEND (R153) -/

/-- Columns and rows of tile `n` of a tensor that lie inside its dimensions, with its first coordinates (R350, R367). -/
structure TileBox where
  x0 : Nat
  x1 : Nat
  x2 : Nat
  x3 : Nat
  w : Nat
  h : Nat
  deriving DecidableEq, Repr
def hDimOr1 (e : BitVec 512) (d : Nat) : Nat := if d ≤ hNdim e then hDim e d else 1
def tileBox (e : BitVec 512) (n : Nat) : TileBox :=
  let d0 := hDimOr1 e 0
  let d1 := hDimOr1 e 1
  let t0 := (d0 + 63) / 64
  let t1 := (d1 + 63) / 64
  let a := n % t0 * 64
  let b := n / t0 % t1 * 64
  { x0 := a, x1 := b, x2 := n / (t0 * t1) % hDimOr1 e 2, x3 := n / (t0 * t1 * hDimOr1 e 2), w := min 64 (d0 - a), h := min 64 (d1 - b) }
def tileCount (e : BitVec 512) : Nat := (hDimOr1 e 0 + 63) / 64 * ((hDimOr1 e 1 + 63) / 64) * hDimOr1 e 2 * hDimOr1 e 3
/-- Destination element bytes of a LAYOUT's tiles. -/
def tilesBytes (e : BitVec 512) (t0 n : Nat) : Nat :=
  ((List.range (min n (tileCount e - t0))).map (fun k => let b := tileBox e (t0 + k); (b.w * hBits e + 7) / 8 * b.h)).foldl (· + ·) 0
/-- The count a command adds to PEND: bytes of a copy, one for a memory command or AREDUCE. -/
def State.pendCount (s : State) (c : Cmd) : Nat :=
  let d := c.desc
  match dCmd d with
  | 0x01 | 0x04 => fld d 256 40
  | 0x02 => fld d 256 32 * fld d 288 32
  | 0x03 => (match s.readHandle c.slot (fld d 80 10) with
    | .ok (_, e) => tilesBytes e (fld d 128 64) (fld d 192 64)
    | .error _ => 0)
  | _ => 1

/-- Where a command stands: at the head of a copy queue or of a memory-command queue. -/
inductive Where where
  | copy (core : Nat)
  | mem (quad : Nat)
  deriving DecidableEq, Repr
/-- The queue of a command. -/
def Cmd.where_ (c : Cmd) : Where := match c.quad with
  | some q => .mem q
  | none => .copy c.core
/-- What happened before the last completion in a queue, and so before the next command's start (R271). -/
def State.queueClock (s : State) : Where → Clock
  | .copy k => (s.core k).copyClock
  | .mem q => (s.quad q).clock
/-- All that happens before a command's completion (R271): what happened before its issue and before the completion ahead of it, and its own
writes. -/
def State.cmdClock (s : State) (c : Cmd) : Clock :=
  addSeen (s.ownWrites c.party c.place) (joinClock c.clock (passClock deviceScope c.place c.place (s.queueClock c.where_)))
/-- A command's release (R267). -/
def State.cmdRel (s : State) (c : Cmd) (scp : Nat) : Rel := { owner := c.party, place := c.place, scp := scp, clock := s.cmdClock c }

/-- Update the barrier record of a command, with what a departure from PEND releases; a word in error keeps the record and makes CODE 3 of
CODE 1 (R153). -/
def State.cmdBar (s : State) (c : Cmd) (rel : Option Rel) (g : BitVec 512 → BitVec 512) : State × Cmd :=
  match c.bar with
  | none => (s, c)
  | some (core, off) => let r := s.engineBar rel core off g; (r.1, { c with barBad := c.barBad || !r.2 })
def barFlag (bit : Nat) (v : Bool) (r : BitVec 512) : BitVec 512 := setFld r bit 1 (if v then 1 else 0)
def barFault (v : Bool) : BitVec 512 → BitVec 512 := barFlag 208 v
def barRevoked : BitVec 512 → BitVec 512 := barFlag 209 true
def barPoison : BitVec 512 → BitVec 512 := barFlag 210 true
/-- The words of a command's barrier are free for an engine in this cycle (R256). -/
def State.barFree (s : State) (c : Cmd) : Bool := match c.bar with
  | none => true
  | some (core, off) => !(s.lmUsed core (lmWords off 32))
/-- Add a command's count to PEND. -/
def State.addPend (s : State) (c : Cmd) : State × Cmd :=
  let n := s.pendCount c
  match c.bar with
  | none => (s, c)
  | some _ => let r := s.cmdBar c none (barAdd n); (r.1, { r.2 with pend := n })
/-- Move bytes of a completed sector from PEND to DONE: none but the command's own leave. -/
def State.sectorPend (s : State) (c : Cmd) (n : Nat) : State × Cmd :=
  match c.bar with
  | none => (s, c)
  | some _ => let r := s.cmdBar c (some (s.cmdRel c deviceScope)) (barSub (min n c.pend) n); (r.1, { r.2 with pend := c.pend - n })

/-! ### Check 6 of R219 -/

/-- The barrier that a descriptor names, or why it cannot be used. -/
def State.barrierOf (s : State) (slot core : Nat) (d : BitVec 512) : Except Bad (State × Option (Nat × Nat) × Nat) :=
  if !(dBarv d) then .ok (s, none, 0)
  else match s.readHandle slot (dBarh d) with
  | .error b => .error b
  | .ok (s1, e) =>
    match hCheck e (hSpace e == 0 && hLayout e == 0) true true with
    | some b => .error b
    | none =>
      let o := dBaroff d
      let at_ := if dBself d then core else clusterCore core (dBk d)
      if o % 32 != 0 then .error (.trap .alignment 5)
      else if o + 32 > hLimit e then .error (.trap .handleBounds 4)
      else if at_ != core && (s.launchOn at_ (s.strand slot).lnch).isNone then .error (.trap .claimViolation 0)
      else match s.lmPhys slot at_ (hBase e + o) with
        | some p => .ok (s1, some (at_, p), hBase e + o)
        | none => .error (.trap .handleBounds 5)

/-! ### Who has joined an AREDUCE (R235, R236) -/

def arMask (d : BitVec 512) : BitVec 8 := d.extractLsb' 232 8
/-- The contribution of a position to an instance. An instance goes by its GMASK, so that contributions under different masks never meet: R236
ends a mask that differs with CODE 5, where the two forms are no one instance to compare (log 90, DESIGN CHOICE). -/
def State.contribOf (s : State) (m : BitVec 8) (k pos : Nat) : Option Contribution :=
  s.contribs.find? (fun c => c.mask == m && c.inst == k && c.pos == pos)
/-- A participant has joined with all of its data. -/
def State.hasJoined (s : State) (m : BitVec 8) (k pos : Nat) : Bool := match s.contribOf m k pos with
  | some c => decide (c.len ≤ c.data.length) && !c.aborted
  | none => false
/-- Every peer has joined the instance of an AREDUCE, `ahead` of whose mask are to start before it. -/
def State.peersJoined (s : State) (c : Cmd) (ahead : Nat) : Bool :=
  let m := arMask c.desc
  let k := if c.inst = 0 then tabGet s.arInst 0 m.toNat + 1 + ahead else c.inst
  (List.range 8).all (fun p => !(m.getLsbD p) || p == s.ringPos || s.hasJoined m k p)
/-- At a diversion, the strand's AREDUCEs that some peer has not joined are to end with CODE 6 (R236, R313). -/
def State.leaveReduces (s : State) (slot : Nat) (ahead : List Cmd) : List Cmd → List Cmd
  | [] => []
  | c :: r =>
    let isAr (x : Cmd) : Bool := dCmd x.desc == 0x21 && !x.finished
    let n := ahead.countP (fun x => isAr x && x.inst == 0 && arMask x.desc == arMask c.desc)
    (if c.slot = slot && c.job.isNone && isAr c && !(s.peersJoined c n) then { c with leaves := true } else c) :: s.leaveReduces slot (ahead ++ [c]) r

/-! ### Issue (R216, R217, R219) -/

/-- A descriptor's handle kind (R218). -/
def descKind (e : BitVec 512) : Bool := hLayout e == 0 && (hSpace e == 0 || hSpace e == 1 || hSpace e == 3 || hSpace e == 4)

/-- What happens before the reads of a command that the strand issues now (R220, R271): all before the instruction, at device scope. -/
def State.issueClock (s : State) : Clock := s.ownEdge deviceScope (addSeen (s.ownWrites s.myParty s.myPlace) s.actClock)
/-- The checks at issue and the command that they give: its state, the command, in the order of R219. -/
def issueCmd (cmd : Nat) (f : Fields) (e : QEntry) (s : State) (k : State → Cmd → QRes) : QRes :=
  let h := e.entry f.a
  let b := e.b.toNat
  match hCheck h (descKind h) true true with
  | some x => x.res s 2 (handleNum f.a)
  | none =>
    if b + 64 > hLimit h then .trap s .handleBounds 2 4
    else if b % 64 != 0 then .trap s .alignment 0 6
    else match s.hRange s.cur s.me.sys h e.cwb .read b 64 with
    | .error x => x.res s 2 (handleNum f.a)
    | .ok ps =>
      let ws := ps.flatMap pieceWords
      if s.lmBusy s.myCore ws then .busy s.myCore ws
      else
      let g := ((s.flushFor ps).takePieces ps).readPieces s.myCore ps
      match g.poison with
      | some p => .trap g.s .dataPoison 2 p
      | none =>
        let d : BitVec 512 := BitVec.ofNat 512 (leNat g.bytes)
        if !(descOk cmd d) then .trap g.s .illegalOperand 3 0
        else match g.s.barrierOf s.cur s.myCore d with
        | .error x => x.res g.s 0 0
        | .ok (s1, bar, log) =>
          k s1 { slot := s.cur, core := s.myCore, pos := e.pos, ring := 0, seq := e.seq, desc := d
                 descLm := if hSpace h = 0 then some (hBase h + b) else none, descVa := BitVec.ofNat 64 (hBase h + b)
                 bar := bar, barLog := log, accepted := s.cycle, clock := s.issueClock }

/-- Enter a core's copy queue (R217): 32 commands. -/
def State.enterCopy (s : State) (c : Cmd) : State :=
  let k := s.core c.core
  s.setCore c.core { k with copyq := k.copyq ++ [{ c with ring := k.cpring }], cpring := (k.cpring + 1) % 32 }
/-- Enter a quadrant's memory-command queue (R217): 64 commands. -/
def State.enterMemory (s : State) (q : Nat) (c : Cmd) : State :=
  let k := s.quad q
  s.setQuad q { k with q := k.q ++ [{ c with ring := k.ring, quad := some q }], ring := (k.ring + 1) % 64 }
def State.copyFull (s : State) (core : Nat) : Bool := decide ((s.core core).copyq.length ≥ 32)
def State.memoryFull (s : State) (q : Nat) : Bool := decide ((s.quad q).q.length ≥ 64)

/-- Another operation comes before the issue at a word of its barrier (R256). -/
def State.barBusy (s : State) (c : Cmd) : Bool := match c.bar with
  | none => false
  | some (core, off) => s.lmBusy core (lmWords off 32)
def Cmd.barWait (c : Cmd) : QRes := match c.bar with
  | none => .stay
  | some (core, off) => .busy core (lmWords off 32)
/-- An engine issue into the copy queue: accepted with its count in PEND, or waiting while the queue is full. -/
def copyIssue (cmd : Nat) (f : Fields) (e : QEntry) (s : State) : QRes :=
  issueCmd cmd f e s (fun s1 c =>
    if s1.copyFull c.core then .wait
    else if s.barBusy c then c.barWait
    else
      let (s2, c1) := s1.addPend { c with party := .copy s.me.serial }
      .done (s2.enterCopy c1) [] 0)
/-- The quadrant that operand C names, else the issuing one. -/
def quadOfC (f : Fields) (e : QEntry) (s : State) : Nat := match f.c with
  | .none => quadOf s.myCore
  | _ => e.c.toNat % 4
def memoryIssue (cmd : Nat) (f : Fields) (e : QEntry) (s : State) : QRes :=
  issueCmd cmd f e s (fun s1 c =>
    let q := quadOfC f e s
    if s1.memoryFull q then .wait
    else if s.barBusy c then c.barWait
    else
      let (s2, c1) := s1.addPend { c with party := .memory s.me.serial q, quad := some q }
      .done (s2.enterMemory q c1) [] 0)

def execCpy (f : Fields) (s : State) : Out := runQueue (.cpy f) f .none (copyIssue 0x01 f) s
def execCpys (f : Fields) (s : State) : Out := runQueue (.cpys f) f .none (copyIssue 0x02 f) s
def execLayout (f : Fields) (s : State) : Out := runQueue (.layout f) f .none (copyIssue 0x03 f) s
def execCpyq (f : Fields) (s : State) : Out := runQueue (.cpyq f) f .none (copyIssue 0x04 f) s
def execAreduce (f : Fields) (s : State) : Out := runQueue (.areduce f) f .none (copyIssue 0x21 f) s
def execBgmac (f : Fields) (s : State) : Out := runQueue (.bgmac f) f .none (memoryIssue 0x11 f) s
def execBgcpy (f : Fields) (s : State) : Out := runQueue (.bgcpy f) f .none (memoryIssue 0x12 f) s
def execBgattn (f : Fields) (s : State) : Out := runQueue (.bgattn f) f .none (memoryIssue 0x13 f) s
def execKvput (f : Fields) (s : State) : Out := runQueue (.kvput f) f .none (memoryIssue 0x14 f) s
def execKvtake (f : Fields) (s : State) : Out := runQueue (.kvtake f) f .none (memoryIssue 0x15 f) s

/-! ### User-mode queues of the context (R325, R326) -/

/-- The home index of a key, and the eight entries that a lookup examines (R325). -/
def qcbHome (pasid : BitVec 20) (qnum : BitVec 12) : Nat :=
  ((pasid.toNat % 8192) ^^^ (2 * qnum.toNat) ^^^ (pasid.toNat / 8192)) % 8192
def qcbProbe (pasid : BitVec 20) (qnum : BitVec 12) : List Nat := (List.range 8).map (fun k => (qcbHome pasid qnum + k) % 8192)
/-- R325: the first VALID entry with the key, before any EMPTY one. -/
def findQcb (t : Tab Qcb) (pasid : BitVec 20) (qnum : BitVec 12) : List Nat → Option Nat
  | [] => none
  | k :: r =>
    let q := tabGet t {} k
    if q.st = 0 then none
    else if q.st = 1 && q.pasid == pasid && q.qnum == qnum then some k else findQcb t pasid qnum r
def State.qcbOf (s : State) (pasid : BitVec 20) (qnum : BitVec 12) : Option Nat := findQcb s.qcbs pasid qnum (qcbProbe pasid qnum)
def State.qcb (s : State) (k : Nat) : Qcb := tabGet s.qcbs {} k
def State.setQcb (s : State) (k : Nat) (q : Qcb) : State := { s with qcbs := tabSet s.qcbs {} k q }
def State.thread (s : State) (n : Nat) : Thread := tabGet s.threads {} n
def State.setThread (s : State) (n : Nat) (t : Thread) : State := { s with threads := tabSet s.threads {} n t }
/-- Wake the thread that serves a queue, or set PEND and inform the policy (R326). -/
def State.wakeQueue (s : State) (k : Nat) : State :=
  let q := s.qcb k
  if q.mapped then s.setThread q.thread.toNat { s.thread q.thread.toNat with wake := true } else s.setQcb k { q with pend := true }
/-- The virtual address of ring slot `n` of a queue. -/
def Qcb.slotVa (q : Qcb) (n : Nat) : Word := q.ring + BitVec.ofNat 64 (64 * (n % 2 ^ q.log2n.toNat))

/-- The first slot in ring order from RIDX whose VALID is 0, of `n` slots still to look at; a failed read stops the search. -/
def State.freeSlot (s : State) (q : Qcb) (k : Nat) : Nat → Except Bad (Option (Nat × State))
  | 0 => .ok none
  | n + 1 =>
    match s.translateRange s.myCore s.me.pasid s.me.sys .read 3 (q.slotVa (q.ridx.toNat + k)) 8 with
    | .error b => .error b
    | .ok ps =>
      match s.piecesFate false ps with
      | some b => .error b
      | none =>
      let g := s.readPieces s.myCore ps
      if (leNat g.bytes / 256) % 2 = 0 then .ok (some (q.ridx.toNat + k, g.s)) else s.freeSlot q (k + 1) n

/-! ### QPUT (R156, R157) -/

/-- What a placement finds: the state with the packet placed, a full queue, or a failure. -/
inductive Placed where
  | done (s : State)
  | full
  | bad (b : Bad) (opnd : Nat)
  deriving DecidableEq, Repr

/-- The code of system scope. -/
def systemScope : Nat := 7
/-- QPUT into a user-mode queue (R326): one 64-byte write with VALID = 1, a release at system scope, which wakes the thread. -/
def State.putRing (s : State) (qnum : Nat) (pkt : Nat) : Placed :=
  match s.qcbOf s.me.pasid (BitVec.ofNat 12 qnum) with
  | none => .bad (.trap .claimViolation 0) 2
  | some k =>
    let q := s.qcb k
    if q.typ = 3 then .bad (.trap .claimViolation 0) 2
    else match s.freeSlot q 0 (2 ^ q.log2n.toNat) with
    | .error b => .bad b 0
    | .ok none => .full
    | .ok (some (n, s1)) =>
      match s1.vaPlace (q.slotVa n) 64 64 .write with
      | .error b => .bad b 0
      | .ok ps =>
        let s2 := s1.flushLate.writePieces s1.myParty true (leBytes 64 (pkt - pkt / 256 % 2 * 256 + 256)) ps
        .done ((s2.releaseAt (pieceLocs ps) systemScope).wakeQueue k)

/-- The command that a placed packet becomes; its checks are made when it starts (R217, R219). -/
def packetCmd (f : Fields) (e : QEntry) (pkt : BitVec 512) (s : State) : Cmd :=
  let h := e.entry f.b
  let o := (offVal f.c e.c).toNat
  { slot := s.cur, core := s.myCore, pos := e.pos, ring := 0, seq := e.seq, desc := pkt, descLm := some (hBase h + o)
    viaQput := true, accepted := s.cycle, clock := s.issueClock, party := .copy s.me.serial }
/-- The selector's checks, then the packet into its queue. -/
def State.placePacket (s : State) (f : Fields) (e : QEntry) (pkt : BitVec 512) : Placed :=
  let sel := e.a
  let tgt := fld sel 0 3
  let c := packetCmd f e pkt s
  if tgt > 3 || sel.getLsbD 3 || fld sel 6 10 != 0 || fld sel 28 36 != 0 then .bad (.trap .illegalOperand 0) 2
  else match tgt with
  | 0 => if s.copyFull s.myCore then .full else .done (s.enterCopy c)
  | 1 => if s.memoryFull (quadOf s.myCore) then .full else .done (s.enterMemory (quadOf s.myCore) { c with party := .memory s.me.serial (quadOf s.myCore) })
  | 2 => if s.memoryFull (fld sel 4 2) then .full else .done (s.enterMemory (fld sel 4 2) { c with party := .memory s.me.serial (fld sel 4 2) })
  | _ => s.putRing (fld sel 16 12) pkt.toNat
/-- Read the packet from the issuing core's LM and place it. -/
def qputPlace (f : Fields) (e : QEntry) (s : State) (k : Placed → State → QRes) : QRes :=
  let sel := e.a
  if fld sel 0 3 > 3 || sel.getLsbD 3 || fld sel 6 10 != 0 || fld sel 28 36 != 0 then .trap s .illegalOperand 2 0
  else match s.lmOperand (e.entry f.b) (offVal f.c e.c) none 64 64 true false with
  | .bad b o => b.res s (if o = 2 then 3 else o) (handleNum f.b)
  | .busy core off => .busy core (lmWords off 64)
  | .ok core off =>
    let t := (s.noteLm core off 64).takeLm core off 64
    if (s.core core).lmUe off 64 then .trap t .dataPoison 0 0
    else k (t.placePacket f e (BitVec.ofNat 512 (leNat ((t.core core).lmRead off 64)))) t
/-- QPUT: waits while the target is full. -/
def qputBody (f : Fields) (e : QEntry) (s : State) : QRes :=
  qputPlace f e s (fun p s => match p with
    | .done s1 => .done s1 [] 0
    | .full => .wait
    | .bad b o => b.res s o 0)
def execQput (f : Fields) (s : State) : Out := runQueue (.qput f) f .none (qputBody f) s
/-- QPUT.NB: tells in D whether the packet was placed. -/
def qputNbBody (f : Fields) (e : QEntry) (s : State) : QRes :=
  qputPlace f e s (fun p s => match p with
    | .done s1 => .done s1 [1] 0
    | .full => .done s [0] 0
    | .bad b o => b.res s o 0)
def execQputNb (f : Fields) (s : State) : Out := runQueue (.qputNb f) f .none (qputNbBody f) s

/-! ### Commands in their queues -/

def State.headCmd (s : State) : Where → Option Cmd
  | .copy c => (s.core c).copyq.head?
  | .mem q => (s.quad q).q.head?
def State.setHeadCmd (s : State) (w : Where) (c : Cmd) : State := match w with
  | .copy k => s.modCore k (fun x => { x with copyq := c :: x.copyq.tail })
  | .mem q => let x := s.quad q; s.setQuad q { x with q := c :: x.q.tail }
def State.dropHeadCmd (s : State) (w : Where) : State := match w with
  | .copy k => s.modCore k (fun x => { x with copyq := x.copyq.tail })
  | .mem q => let x := s.quad q; s.setQuad q { x with q := x.q.tail }
def Where.holder : Where → Holder
  | .copy c => .copy c
  | .mem q => .mem q
/-- The strand whose trap stops a queue (R219). -/
def State.stopOf (s : State) : Where → Option Nat
  | .copy c => (s.core c).copyStop
  | .mem q => (s.quad q).stop
def State.setStop (s : State) (w : Where) (n : Nat) : State := match w with
  | .copy c => s.modCore c (fun x => { x with copyStop := some n })
  | .mem q => s.setQuad q { s.quad q with stop := some n }

/-- The commands of a queue. -/
def State.cmdsOf (s : State) : Where → List Cmd
  | .copy k => (s.core k).copyq
  | .mem k => (s.quad k).q
/-- Commands of the strand that stand behind the head of a queue (R262). -/
def State.behindCmd (s : State) (w : Where) (c : Cmd) : Nat :=
  ((s.cmdsOf w).tail.filter (fun x => x.slot == c.slot && x.job.isNone && !x.failed)).length
/-- The handle of a tiled tensor that a LAYOUT reads or writes (R368). -/
def Cmd.tileHandle (c : Cmd) (k : FaultKind) (a : Nat) : Nat :=
  if (k = .tile ∨ k = .materialise) ∧ dCmd c.desc = 3 then fld c.desc (if a = 0 then 64 else 80) 10 else 0
/-- A fault holds a command (R219, R223, R406): a record of its engine, FAULT in its barrier. While the fault queue is full the command
waits. -/
def State.holdCmd (s : State) (w : Where) (c : Cmd) (k : FaultKind) (code : TrapCode) (va : Word) (a : Nat) : State :=
  if s.holdFull k then s
  else
    let t := s.strand c.slot
    let (n, s1) := s.postHold (s.holdInfo c.slot
      { code := code, eng := c.eng, behind := s.behindCmd w c, pos := c.pos, qent := c.ring } k va a (c.tileHandle k a))
    let (s2, c1) := s1.cmdBar c none (barFault true)
    { s2.setHeadCmd w { c1 with held := some n } with held := s2.held ++ [{ seq := n, kind := k, holder := w.holder, pasid := t.pasid, va := va, acc := a }] }

/-- A start failure, or a sector that ends its command (R219, R223): CODE 5, and a trap once the completion steps are taken. -/
def Cmd.fail (c : Cmd) (code : TrapCode) (sub : Nat) : Cmd :=
  { c with started := true, finished := true, code := 5, trap := some (code, sub) }
/-- A start failure, which performs nothing else: no signal (R219). -/
def Cmd.failStart (c : Cmd) (code : TrapCode) (sub : Nat) : Cmd := { c.fail code sub with signalled := true }

/-- What becomes of a command whose start or sector meets a failure; none where it is only to wait. `atStart` marks a start. -/
def State.cmdBad (s : State) (w : Where) (c : Cmd) (atStart : Bool) (b : Bad) : Option State :=
  match b with
  | .moving => none
  | .held k code va a => if s.holdFull k || !(s.barFree c) then none else some (s.holdCmd w c k code va a)
  | .trap .extentRevoked sub =>
    if !atStart && !(s.barFree c) then none
    else if atStart then some (s.setHeadCmd w (c.failStart .extentRevoked sub))
    else some (let r := s.cmdBar c none barRevoked; r.1.setHeadCmd w { r.2 with finished := true, code := 2 })
  | .trap code sub => some (s.setHeadCmd w (if atStart then c.failStart code sub else c.fail code sub))

/-- Read a list of handles at a command's start (R219): the entries, in order. -/
def State.startHandles (s : State) (slot : Nat) : List Nat → Except Bad (State × List (BitVec 512))
  | [] => .ok (s, [])
  | h :: r => match s.readHandle slot h with
    | .error b => .error b
    | .ok (s1, e) => match s1.startHandles slot r with
      | .error b => .error b
      | .ok (s2, es) => .ok (s2, e :: es)

/-- The first checks of a packet that QPUT placed: CMD among its queue's codes, reserved bits, the barrier; then its count (R219). -/
def State.startQput (s : State) (codes : List Nat) (c : Cmd) : Except Bad (State × Cmd) :=
  if !(codes.contains (dCmd c.desc) && descOk (dCmd c.desc) c.desc) then .error (.trap .illegalOperand 0)
  else if !c.viaQput || c.bar.isSome then .ok (s, c)
  else match s.barrierOf c.slot c.core c.desc with
    | .error b => .error b
    | .ok (s1, bar, log) =>
      let c1 := { c with bar := bar, barLog := log }
      if s1.barFree c1 then .ok (s1.addPend c1) else .error .moving

/-! ### Completion (R220, R224, R406) -/

/-- Where CODE and DONE lie: bytes 56 to 63 of the descriptor. -/
def State.codePlace (s : State) (c : Cmd) : Except Bad (List Piece) :=
  let t := s.strand c.slot
  match c.descLm with
  | some o => s.lmRange c.slot c.core (o + 56) 8
  | none => match s.translateRange c.core t.pasid t.sys .write 3 (c.descVa + 56) 8 with
    | .error b => .error b
    | .ok ps => match s.piecesFate true ps with
      | some b => .error b
      | none => .ok ps
/-- The bytes with CODE and DONE in place. -/
def codeBytes (c : Cmd) (code : Nat) : List Byte :=
  let old := (c.desc.extractLsb' 448 64)
  leBytes 8 (setFld (setFld old 0 4 code) 8 48 c.done).toNat
/-- CODE 1 becomes 3 where an update of the barrier has met a word in error, or the last one is to meet it (R153). -/
def State.finalCode (s : State) (c : Cmd) : Nat :=
  if c.code = 1 then (match c.bar with
    | some (core, off) => if c.barBad || (s.core core).lmUe off 32 then 3 else 1
    | none => 1) else c.code

/-- The command stands behind the stop of its queue until an ERET; in a drain no queue stops (R219, R317). -/
def State.staysFailed (s : State) (c : Cmd) : Bool :=
  let t := s.strand c.slot
  c.trap.isSome && c.job.isNone && !(t.diverting.isSome || t.killing)
/-- A command as it may start again (R261): what it had done is forgotten, its checks are made as for a packet, its count enters PEND anew
once they have passed (log 41, DEDUCED). -/
def Cmd.again (c : Cmd) : Cmd :=
  { slot := c.slot, core := c.core, pos := c.pos, ring := c.ring, seq := c.seq, desc := c.desc, descLm := c.descLm, descVa := c.descVa, viaQput := true
    quad := c.quad, accepted := c.accepted, party := c.party, clock := c.clock, failed := true }
/-- A trap of a command's engine; of a job it is recorded with the bundle (R342). -/
def State.cmdTrap (s : State) (w : Where) (c : Cmd) (stop : Bool) (code : TrapCode) (sub : Nat) : State :=
  if c.job.isSome then s
  else
    let behind := ((s.cmdsOf w).filter (fun x => x.slot == c.slot && x.job.isNone && !x.failed)).length
    (if stop then s.setStop w c.slot else s).raiseTrap c.slot { code := code, eng := c.eng, subc := sub, behind := behind, pos := c.pos, qent := c.ring }

/-- The cause of UIS that a queue's completion sets (R244). -/
def Cmd.cause (c : Cmd) : Nat := if c.quad.isSome then 1 else if dCmd c.desc == 0x21 then 2 else 0
/-- A job's completion in its bundle (R331). -/
def State.jobDone (s : State) (c : Cmd) (code : Nat) : State :=
  match c.job with
  | none => s
  | some id => { s with bundles := s.bundles.map (fun b => if b.id = id then { b with
      jobs := b.jobs.zipIdx.map (fun j => if j.2 = c.jobIx then { j.1 with code := some code } else j.1) } else b) }

/-- Pages that a command has looked up become free once nothing names them (R300, R302). -/
def State.pageNamed (s : State) (p : Nat) : Bool :=
  s.blocks.any (fun b => b.page == p || b.mirror == some p) ||
  s.quads.any (fun q => q.2.q.any (fun c => c.started && c.pages.any (fun r => r.page == p || r.mirror == some p)))
def State.releasePages (s : State) (c : Cmd) : State :=
  c.pages.foldl (fun t r => ([r.page] ++ r.mirror.toList).foldl (fun t p => if t.pageNamed p then t else { t with pages := tabErase t.pages p }) t) s

/-- A command has completed: what happened before that happens before the next command of its queue, and before a fence of its strand that
waits for it (R271). -/
def State.seenDone (s : State) (w : Where) (c : Cmd) : State :=
  let clk := s.cmdClock c
  let s1 := match w with
    | .copy k => s.modCore k (fun x => { x with copyClock := joinClock x.copyClock clk })
    | .mem q => s.setQuad q { s.quad q with clock := joinClock (s.quad q).clock clk }
  if c.job.isSome then s1
  else s1.modStrand c.slot (fun t => { t with seen := (match w with
    | .copy _ => { t.seen with copy := joinClock t.seen.copy clk }
    | .mem q => { t.seen with memory := tabPut t.seen.memory q (joinClock (tabGet t.seen.memory [] q) clk) }) })
/-- Steps 3 and 4 of R220, whose causes and event are one event (R133); then the command leaves its queue, or, having failed, stays at its head and traps (R260). -/
def State.endCmd (s : State) (w : Where) (c : Cmd) : State :=
  let isMem := dCmd c.desc ≥ 0x10
  let s1 := if c.pend = 0 && !isMem then s
    else (s.cmdBar c (some (s.cmdRel c deviceScope)) (barSub c.pend (if isMem then c.done else c.tail))).1
  let s2 := s1.seenDone w c
  let stays := s2.staysFailed c
  let s3 := (if stays then s2.setHeadCmd w c.again else s2.dropHeadCmd w).jobDone c c.code
  let s4 := match c.job with
    | some _ => s3
    | none =>
      let a := s3.modStrand c.slot (fun t => t.mergeFlags c.flags)
      let b := if dIrq c.desc then a.setCauseBit c.slot c.cause else a
      (if c.quad.isSome && c.code = 4 then b.setCauseBit c.slot 3 else b).setEvent c.slot
  let s5 := s4.releasePages c
  match c.trap with
  | some (x, sub) => s5.cmdTrap w c stays x sub
  | none => s5

/-- The signal of CPYQ (R224): AADD.ui64 at SIGVA, a release at system scope. -/
def State.signalPlace (s : State) (c : Cmd) : Except Bad (List Piece) :=
  let t := s.strand c.slot
  match s.translateRange c.core t.pasid t.sys .atomic 3 (c.desc.extractLsb' 320 64) 8 with
  | .error b => .error b
  | .ok ps => match s.piecesFate true ps with
    | some b => .error b
    | none => .ok ps
/-- AADD.ui64 of SIGVAL, a release at system scope. -/
def State.signalAdd (s : State) (c : Cmd) (ps : List Piece) : State :=
  let t := s.addAt c.core c.party (fld c.desc 384 64) ps
  t.putRel (pieceLocs ps) (t.cmdRel c systemScope)
/-- A command goes on, once the home of what it has asked of the league's window has answered (R378). -/
def State.onReply (t s : State) (w : Where) (c : Cmd) (k : Cmd → State) : State :=
  match newTags s t with
  | [] => k c
  | l => t.takeFresh.setHeadCmd w { c with tags := c.tags ++ l }
/-- The head of a queue has asked something of the window (R378). -/
def State.tagHead (t s : State) (w : Where) : State :=
  match newTags s t, t.headCmd w with
  | [], _ => t
  | l, some c => t.takeFresh.setHeadCmd w { c with tags := c.tags ++ l }
  | _, none => t.takeFresh
/-- The signal is still to be made. -/
def Cmd.toSignal (c : Cmd) : Bool := dCmd c.desc == 0x04 && !c.signalled
/-- The signal cannot be made: CODE is to be rewritten as 5, then steps 3 and 4 follow, and a trap (R224). -/
def State.signalFails (s : State) (w : Where) (c : Cmd) (x : TrapCode) (sub : Nat) : State :=
  s.setHeadCmd w { c with code := 5, delivered := none, signalled := true, coded := false, trap := some (x, sub) }
/-- CPYQ between steps 2 and 3 of R220 (R224). -/
def State.signal (s : State) (w : Where) (c : Cmd) : Option State :=
  match c.delivered with
  | some (x, sub) => some (s.signalFails w c x sub)
  | none => match s.signalPlace c with
    | .ok ps =>
      let t := s.signalAdd c ps
      some (t.onReply s w { c with signalled := true } (fun c1 => t.endCmd w c1))
    | .error .moving => none
    | .error (.held k x va a) => if s.holdFull k || !(s.barFree c) then none else some (s.holdCmd w c k x va a)
    | .error (.trap x sub) => some (s.signalFails w c x sub)
/-- After step 2 of R220. -/
def State.afterCode (s : State) (w : Where) (c : Cmd) : State :=
  let c1 := { c with coded := true }
  if c.toSignal then s.setHeadCmd w c1 else s.endCmd w c1
/-- Step 2 of R220, a release at device scope (R267); a write that is not made leaves the remaining steps and a trap (R406). -/
def State.writeCode (s : State) (w : Where) (c0 : Cmd) : Option State :=
  let c := { c0 with code := s.finalCode c0 }
  match c.delivered with
  | some (x, sub) => some (s.afterCode w { c with delivered := none, trap := c.trap.or (some (x, sub)) })
  | none => match s.codePlace c with
    | .ok ps =>
      if !(s.wordsFree ps) || !(s.barFree c) then none
      else
        let t := (s.takePieces ps).writePieces c.party false (codeBytes c c.code) ps
        let u := t.putRel (pieceLocs ps) (t.cmdRel c deviceScope)
        some (u.onReply s w { c with coded := true } (fun c1 => u.afterCode w c1))
    | .error .moving => none
    | .error (.held k x va a) => if s.holdFull k || !(s.barFree c) then none else some (s.holdCmd w c0 k x va a)
    | .error (.trap x sub) => some (s.afterCode w { c with trap := c.trap.or (some (x, sub)) })
/-- The completion steps that are left (R220, R224); they wait for replies of the league (R378), and at words in use (R256). -/
def State.complete (s : State) (w : Where) (c : Cmd) : Option State :=
  if s.awaitsReply c.tags || !(s.barFree c) then none
  else if !c.coded then s.writeCode w c else if c.toSignal then s.signal w c else some (s.endCmd w c)

end Sys2Proof.Machine
end

