-- ==== Sys2Proof/Machine/Scalar.lean ====
section
/-! DEFINITION. The scalar instructions (R114 to R124): integer, predicate and scalar floating-point. -/

namespace Sys2Proof.Machine

/-! ### Results of the integer instructions (R116, R117): functions of W and the W-bit operands -/

/-- a + b. -/
def addR (w a b : Nat) : Nat := wrapTo w ((a : Int) + b)
/-- a − b. -/
def subR (w a b : Nat) : Nat := wrapTo w ((a : Int) - b)
/-- the low W bits of a × b. -/
def mulR (w a b : Nat) : Nat := a * b % 2 ^ w
/-- bits [2W−1:W] of the unsigned product. -/
def mulhuR (w a b : Nat) : Nat := a * b / 2 ^ w
/-- bits [2W−1:W] of the signed product. -/
def mulhsR (w a b : Nat) : Nat := wrapTo w (toSigned w a * toSigned w b / 2 ^ w)
/-- unsigned quotient; all ones by zero (R117). -/
def divuR (w a b : Nat) : Nat := if b = 0 then 2 ^ w - 1 else a / b
/-- signed quotient toward zero; −1 by zero, −2^(W−1) on overflow (R117). -/
def divsR (w a b : Nat) : Nat := if b = 0 then 2 ^ w - 1 else wrapTo w (Int.tdiv (toSigned w a) (toSigned w b))
/-- unsigned remainder; a by zero (R117). -/
def remuR (_w a b : Nat) : Nat := if b = 0 then a else a % b
/-- signed remainder with the sign of the dividend; a by zero, 0 on overflow (R117). -/
def remsR (w a b : Nat) : Nat := if b = 0 then a else wrapTo w (Int.tmod (toSigned w a) (toSigned w b))
/-- a AND b. -/
def andR (_w a b : Nat) : Nat := a &&& b
/-- a OR b. -/
def orR (_w a b : Nat) : Nat := a ||| b
/-- a XOR b. -/
def xorR (_w a b : Nat) : Nat := a ^^^ b
/-- a AND NOT b. -/
def andnR (w a b : Nat) : Nat := a &&& (2 ^ w - 1 - b)
/-- a shifted left by b mod W. -/
def shlR (w a b : Nat) : Nat := a <<< (b % w) % 2 ^ w
/-- a shifted right by b mod W, zeros entering. -/
def shrlR (w a b : Nat) : Nat := a >>> (b % w)
/-- a shifted right by b mod W, copies of the sign entering. -/
def shraR (w a b : Nat) : Nat := wrapTo w (toSigned w a / 2 ^ (b % w))
/-- a rotated left by b mod W. -/
def rotlR (w a b : Nat) : Nat := (a <<< (b % w) ||| a >>> (w - b % w)) % 2 ^ w
/-- the smaller of the signed values. -/
def minR (w a b : Nat) : Nat := if toSigned w a ≤ toSigned w b then a else b
/-- the larger of the signed values. -/
def maxR (w a b : Nat) : Nat := if toSigned w a ≤ toSigned w b then b else a
/-- the smaller of the unsigned values. -/
def minuR (_w a b : Nat) : Nat := if a ≤ b then a else b
/-- the larger of the unsigned values. -/
def maxuR (_w a b : Nat) : Nat := if a ≤ b then b else a
/-- bits [n−1:0] of a sign-extended, n = b mod W with 0 read as W. -/
def sextR (w a b : Nat) : Nat := wrapTo w (toSigned (if b % w = 0 then w else b % w) a)
/-- bits [n−1:0] of a zero-extended, n = b mod W with 0 read as W. -/
def zextR (w a b : Nat) : Nat := a % 2 ^ (if b % w = 0 then w else b % w)
/-- number of zero bits above the highest one bit; W for 0. -/
def clzR (w a : Nat) : Nat := if a = 0 then w else w - 1 - Nat.log2 a
/-- number of zero bits below the lowest one bit; W for 0. -/
def ctzR (w a : Nat) : Nat := if a = 0 then w else Nat.log2 (a &&& (2 ^ w - a))
/-- number of one bits. -/
def popcR (w a : Nat) : Nat := (List.range w).countP (fun k => a.testBit k)
/-- the W/8 bytes in reverse order. -/
def bswapR (w a : Nat) : Nat := leNat (leBytes (w / 8) a).reverse
/-- the absolute value modulo 2^W. -/
def absR (w a : Nat) : Nat := (toSigned w a).natAbs % 2 ^ w

/-- The destination of operand D with a value: nothing where D names none. -/
def dstVal (s : State) (o : Operand) (v : Word) : List (Dst × Word) :=
  match o with
  | .s n => [(.s (s.me.physS n.toNat), v)]
  | .p n => [(.p n.toNat, v)]
  | _ => []

/-- The integer format of an instruction (R114). -/
def intFmt (f : Fields) : Fmt := (fieldFmt f).getD .int64

/-- D := Ext(r) for a two-operand integer instruction (R114, R116). -/
def intTwo (f : Fields) (r : Nat → Nat → Nat → Nat) (v : Vals) (s : State) : FRes :=
  let w := intWidth (intFmt f)
  .done s (dstVal s f.d (extInt (intFmt f) (r w (v.a.toNat % 2 ^ w) (v.b.toNat % 2 ^ w)))) 0
/-- D := Ext(r) for a one-operand integer instruction. -/
def intOne (f : Fields) (r : Nat → Nat → Nat) (v : Vals) (s : State) : FRes :=
  let w := intWidth (intFmt f)
  .done s (dstVal s f.d (extInt (intFmt f) (r w (v.a.toNat % 2 ^ w)))) 0

/-- ADD (R116): D := a + b. -/
def execAdd (f : Fields) (s : State) : Out := runFront (.add f) f (fieldFmt f) (intTwo f addR) s
/-- SUB (R116): D := a − b. -/
def execSub (f : Fields) (s : State) : Out := runFront (.sub f) f (fieldFmt f) (intTwo f subR) s
/-- MUL (R116): D := the low W bits of a × b. -/
def execMul (f : Fields) (s : State) : Out := runFront (.mul f) f (fieldFmt f) (intTwo f mulR) s
/-- MULHU (R116): D := bits [2W−1:W] of the unsigned product. -/
def execMulhu (f : Fields) (s : State) : Out := runFront (.mulhu f) f (fieldFmt f) (intTwo f mulhuR) s
/-- MULHS (R116): D := bits [2W−1:W] of the signed product. -/
def execMulhs (f : Fields) (s : State) : Out := runFront (.mulhs f) f (fieldFmt f) (intTwo f mulhsR) s
/-- DIVU (R116): D := unsigned quotient; all ones by zero (R117). -/
def execDivu (f : Fields) (s : State) : Out := runFront (.divu f) f (fieldFmt f) (intTwo f divuR) s
/-- DIVS (R116): D := signed quotient toward zero; −1 by zero, −2^(W−1) on overflow (R117). -/
def execDivs (f : Fields) (s : State) : Out := runFront (.divs f) f (fieldFmt f) (intTwo f divsR) s
/-- REMU (R116): D := unsigned remainder; a by zero (R117). -/
def execRemu (f : Fields) (s : State) : Out := runFront (.remu f) f (fieldFmt f) (intTwo f remuR) s
/-- REMS (R116): D := signed remainder with the sign of the dividend; a by zero, 0 on overflow (R117). -/
def execRems (f : Fields) (s : State) : Out := runFront (.rems f) f (fieldFmt f) (intTwo f remsR) s
/-- AND (R116): D := a AND b. -/
def execAnd (f : Fields) (s : State) : Out := runFront (.and f) f (fieldFmt f) (intTwo f andR) s
/-- OR (R116): D := a OR b. -/
def execOr (f : Fields) (s : State) : Out := runFront (.or f) f (fieldFmt f) (intTwo f orR) s
/-- XOR (R116): D := a XOR b. -/
def execXor (f : Fields) (s : State) : Out := runFront (.xor f) f (fieldFmt f) (intTwo f xorR) s
/-- ANDN (R116): D := a AND NOT b. -/
def execAndn (f : Fields) (s : State) : Out := runFront (.andn f) f (fieldFmt f) (intTwo f andnR) s
/-- SHL (R116): D := a shifted left by b mod W. -/
def execShl (f : Fields) (s : State) : Out := runFront (.shl f) f (fieldFmt f) (intTwo f shlR) s
/-- SHRL (R116): D := a shifted right by b mod W, zeros entering. -/
def execShrl (f : Fields) (s : State) : Out := runFront (.shrl f) f (fieldFmt f) (intTwo f shrlR) s
/-- SHRA (R116): D := a shifted right by b mod W, copies of the sign entering. -/
def execShra (f : Fields) (s : State) : Out := runFront (.shra f) f (fieldFmt f) (intTwo f shraR) s
/-- ROTL (R116): D := a rotated left by b mod W. -/
def execRotl (f : Fields) (s : State) : Out := runFront (.rotl f) f (fieldFmt f) (intTwo f rotlR) s
/-- MIN (R116): D := the smaller of the signed values. -/
def execMin (f : Fields) (s : State) : Out := runFront (.min f) f (fieldFmt f) (intTwo f minR) s
/-- MAX (R116): D := the larger of the signed values. -/
def execMax (f : Fields) (s : State) : Out := runFront (.max f) f (fieldFmt f) (intTwo f maxR) s
/-- MINU (R116): D := the smaller of the unsigned values. -/
def execMinu (f : Fields) (s : State) : Out := runFront (.minu f) f (fieldFmt f) (intTwo f minuR) s
/-- MAXU (R116): D := the larger of the unsigned values. -/
def execMaxu (f : Fields) (s : State) : Out := runFront (.maxu f) f (fieldFmt f) (intTwo f maxuR) s
/-- SEXT (R116): D := bits [n−1:0] of a sign-extended, n = b mod W with 0 read as W. -/
def execSext (f : Fields) (s : State) : Out := runFront (.sext f) f (fieldFmt f) (intTwo f sextR) s
/-- ZEXT (R116): D := bits [n−1:0] of a zero-extended, n = b mod W with 0 read as W. -/
def execZext (f : Fields) (s : State) : Out := runFront (.zext f) f (fieldFmt f) (intTwo f zextR) s
/-- CLZ (R116): D := number of zero bits above the highest one bit; W for 0. -/
def execClz (f : Fields) (s : State) : Out := runFront (.clz f) f (fieldFmt f) (intOne f clzR) s
/-- CTZ (R116): D := number of zero bits below the lowest one bit; W for 0. -/
def execCtz (f : Fields) (s : State) : Out := runFront (.ctz f) f (fieldFmt f) (intOne f ctzR) s
/-- POPC (R116): D := number of one bits. -/
def execPopc (f : Fields) (s : State) : Out := runFront (.popc f) f (fieldFmt f) (intOne f popcR) s
/-- BSWAP (R116): D := the W/8 bytes in reverse order. -/
def execBswap (f : Fields) (s : State) : Out := runFront (.bswap f) f (fieldFmt f) (intOne f bswapR) s
/-- ABS (R116): D := the absolute value modulo 2^W. -/
def execAbs (f : Fields) (s : State) : Out := runFront (.abs f) f (fieldFmt f) (intOne f absR) s
/-- SEL (R116): D := a where predicate C is true, else b. -/
def selBody (f : Fields) (v : Vals) (s : State) : FRes := .done s (dstVal s f.d (extInt (intFmt f) (if v.c.getLsbD 0 then v.a.toNat else v.b.toNat))) 0
def execSel (f : Fields) (s : State) : Out := runFront (.sel f) f (fieldFmt f) (selBody f) s
/-- MOV (R118): D := Ext(a). -/
def execMov (f : Fields) (s : State) : Out := runFront (.mov f) f (fieldFmt f) (intOne f (fun _ a => a)) s
/-- MOV.k1 to MOV.k3 (R118): the 16 raw immediate bits go to field SUB of D, whose other bits keep their values. -/
def movKBody (f : Fields) (v : Vals) (s : State) : FRes :=
  .done s (dstVal s f.d (setFld v.d (16 * f.sub.toNat) 16 (v.a.toNat % 2 ^ 16))) 0
def execMovK (f : Fields) (s : State) : Out := runFront (.movK f) f none (movKBody f) s
/-- CMP (R119): the predicate D takes the condition in SUB. -/
def cmpBody (f : Fields) (v : Vals) (s : State) : FRes :=
  .done s (dstVal s f.d (if condInt f.sub.toNat (intWidth (intFmt f)) v.a.toNat v.b.toNat then 1 else 0)) 0
def execCmp (f : Fields) (s : State) : Out := runFront (.cmp f) f (fieldFmt f) (cmpBody f) s
/-- LEA (R120): D := a + b × 2^SUB + c modulo 2^64. -/
def leaBody (f : Fields) (v : Vals) (s : State) : FRes :=
  .done s (dstVal s f.d (v.a + v.b * BitVec.ofNat 64 (2 ^ f.sub.toNat) + v.c)) 0
def execLea (f : Fields) (s : State) : Out := runFront (.lea f) f (fieldFmt f) (leaBody f) s

/-! ### Predicates (R121) -/

/-- D takes a Boolean function of the predicates. -/
def predBody (f : Fields) (op : Bool → Bool → Bool) (v : Vals) (s : State) : FRes :=
  .done s (dstVal s f.d (if op (v.a.getLsbD 0) (v.b.getLsbD 0) then 1 else 0)) 0
def execPand (f : Fields) (s : State) : Out := runFront (.pand f) f none (predBody f (· && ·)) s
def execPor (f : Fields) (s : State) : Out := runFront (.por f) f none (predBody f (· || ·)) s
def execPxor (f : Fields) (s : State) : Out := runFront (.pxor f) f none (predBody f (· != ·)) s
def execPnot (f : Fields) (s : State) : Out := runFront (.pnot f) f none (predBody f (fun a _ => !a)) s

/-! ### Scalar floating point (R122 to R124) -/

/-- The float format of an instruction. -/
def fltFmt (f : Fields) : Fmt := (fieldFmt f).getD .fp32
/-- The rounding mode in effect at a decode (R92, R122). -/
def frontMode (f : Fields) (s : State) : RMode := modeOf f.flags s.me.rmode.toNat
/-- The value of a scalar's low bits in a format. -/
def sval (x : Fmt) (w : Word) : XReal := x.value (w.toNat % 2 ^ x.width)

/-- SFADD: D := RoundTo(F, mode, a + b, FALSE). -/
def sfaddBody (f : Fields) (v : Vals) (s : State) : FRes :=
  let F := fltFmt f
  let m := frontMode f s
  let a := sval F v.a
  let b := sval F v.b
  let (c, fl) := deliverFloat F m [a, b] (XReal.add (m == .rdn) a b)
  .done s (dstVal s f.d (BitVec.ofNat 64 c)) fl
def execSfadd (f : Fields) (s : State) : Out := runFront (.sfadd f) f (fieldFmt f) (sfaddBody f) s
/-- SFMUL: D := RoundTo(F, mode, a × b, FALSE). -/
def sfmulBody (f : Fields) (v : Vals) (s : State) : FRes :=
  let F := fltFmt f
  let a := sval F v.a
  let b := sval F v.b
  let (c, fl) := deliverFloat F (frontMode f s) [a, b] (XReal.mul a b)
  .done s (dstVal s f.d (BitVec.ofNat 64 c)) fl
def execSfmul (f : Fields) (s : State) : Out := runFront (.sfmul f) f (fieldFmt f) (sfmulBody f) s
/-- SFFMA: D := RoundTo(F, mode, a × b + c, FALSE), one rounding. -/
def sffmaBody (f : Fields) (v : Vals) (s : State) : FRes :=
  let F := fltFmt f
  let (c, fl) := fusedAdd F (frontMode f s) (sval F v.a) (sval F v.b) (sval F v.c)
  .done s (dstVal s f.d (BitVec.ofNat 64 c)) fl
def execSffma (f : Fields) (s : State) : Out := runFront (.sffma f) f (fieldFmt f) (sffmaBody f) s
/-- SFCVT (R123): from the format in SUB to the format in TM; integers extended, floats zero-extended. -/
def sfcvtBody (f : Fields) (v : Vals) (s : State) : FRes :=
  let F := fltFmt f
  let G := (subFmt f).getD .fp32
  let (c, fl) := F.convert (frontMode f s) true (sval G v.a)
  .done s (dstVal s f.d (if F.isInt then extInt F c else BitVec.ofNat 64 c)) fl
def execSfcvt (f : Fields) (s : State) : Out := runFront (.sfcvt f) f (fieldFmt f) (sfcvtBody f) s
/-- SFCMP (R124): the condition in SUB, without flags. -/
def sfcmpBody (f : Fields) (v : Vals) (s : State) : FRes :=
  let F := fltFmt f
  .done s (dstVal s f.d (if condFloat f.sub.toNat (sval F v.a) (sval F v.b) then 1 else 0)) 0
def execSfcmp (f : Fields) (s : State) : Out := runFront (.sfcmp f) f (fieldFmt f) (sfcmpBody f) s

end Sys2Proof.Machine
end

