-- ==== Sys2Proof/Machine/System.lean ====
section
/-! DEFINITION. The system instructions (R129 to R134) and the system registers (R72 to R77). -/

namespace Sys2Proof.Machine

/-- UIS as a word (UIS map). -/
def Strand.uisWord (t : Strand) : Word :=
  BitVec.ofNat 64 (t.uisCause.toNat + t.uisMask.toNat * 2 ^ 8 + (if t.uisEn then 2 ^ 16 else 0) + (if t.uisInh then 2 ^ 17 else 0))

/-- The value of a system register at this moment (R72, R129). -/
def State.readCsr (s : State) (n : Nat) : Word :=
  let t := s.me
  match n with
  | 0x000 => t.shp
  | 0x001 => t.flg.zeroExtend 64
  | 0x002 => t.rmode.zeroExtend 64
  | 0x010 => t.dlns.zeroExtend 64
  | 0x011 => t.dlnn.zeroExtend 64
  | 0x012 => s.slack s.cur
  | 0x013 => t.wue.zeroExtend 64
  | 0x014 => t.wub.zeroExtend 64
  | 0x015 => t.dlst
  | 0x020 => t.trc
  | 0x021 => t.tri.zeroExtend 64
  | 0x022 => t.trx
  | 0x030 => s.stid s.cur
  | 0x031 => t.lnch
  | 0x040 => t.htb
  | 0x041 => t.rrt
  | 0x050 => t.uiv
  | 0x051 => t.uisWord
  | 0x060 => BitVec.ofInt 64 (s.cycle - t.cycBase)
  | 0x061 => BitVec.ofNat 64 s.nsec
  | 0x062 => match t.ptps with
    | some x => x.zeroExtend 64
    | none => BitVec.ofNat 64 (s.sec % 2 ^ 48)
  | _ => if 0x070 ≤ n ∧ n ≤ 0x077 then tabGet t.cwb 0 (n - 0x070) else 0

/-- CSRR (R129): D := the system register; a read of PTPN latches PTPS (R76). -/
def csrrBody (f : Fields) (v : Vals) (s : State) : FRes :=
  let n := v.a.toNat
  let s1 := if n = 0x061 then s.setMe { s.me with ptps := some (BitVec.ofNat 48 s.sec) } else s
  .done s1 (dstVal s f.d (s.readCsr n)) 0
def execCsrr (f : Fields) (s : State) : Out := runFront (.csrr f) f none (csrrBody f) s

/-- The constant-cache lines of a window (R66). -/
def inConstWindow (pasid : BitVec 20) (cwb : Word) (key : Nat) : Bool :=
  let lo := pasid.toNat * 2 ^ 58 + fld cwb 12 52 * 64
  lo ≤ key && key < lo + (fld cwb 1 7 + 1) * 64
/-- Write CWBn and invalidate its lines in the core's constant cache (R66, R129); bits [11:8] are discarded (R73). -/
def State.writeCwb (s : State) (n : Nat) (v : Word) : State :=
  let t := s.me
  let old := tabGet t.cwb 0 n
  let new := setFld v 8 4 0
  (s.setMe { t with cwb := tabSet t.cwb 0 n new }).modCore s.myCore (fun c =>
    { c with ccache := c.ccache.filter (fun x => !(inConstWindow t.pasid old x.1) && !(inConstWindow t.pasid new x.1)) })

/-- A write of SHP: reserved bits discarded, an invalid shape trapped (R57, R73). -/
def State.writeShp (s : State) (rows cols typ : Nat) : FRes :=
  if shapeOk rows cols typ then .done (s.setMe { s.me with shp := shpWord rows cols typ }) [] 0 else .trap .shapeInvalid 0 none

/-- CSRW (R129): RW fields are set, RO fields and registers ignored, W1C bits of UIS cleared where the value is 1. -/
def csrwBody (f : Fields) (v : Vals) (s : State) : FRes :=
  let t := s.me
  let n := (match f.d with | .y n => n.toNat | _ => 0)
  let a := v.a
  match n with
  | 0x000 => s.writeShp (fld a 0 7) (fld a 8 8 + 1) (fld a 16 5)
  | 0x001 => .done (s.setMe { t with flg := a.extractLsb' 0 6 }) [] 0
  | 0x002 => if 5 ≤ fld a 0 3 then .trap .illegalOperand 2 none else .done (s.setMe { t with rmode := a.extractLsb' 0 3 }) [] 0
  | 0x050 => .done (s.setMe { t with uiv := a }) [] 0
  | 0x051 => .done (s.setMe { t with uisCause := t.uisCause &&& ~~~(a.extractLsb' 0 4), uisMask := a.extractLsb' 8 4
                                     uisEn := a.getLsbD 16 }) [] 0
  | _ => if 0x070 ≤ n ∧ n ≤ 0x077 then .done (s.writeCwb (n - 0x070) a) [] 0 else .done s [] 0
def execCsrw (f : Fields) (s : State) : Out := runFront (.csrw f) f (fieldFmt f) (csrwBody f) s

/-- TRAP (R130): SOFTWARE, with the operand in TRI. -/
def execTrap (f : Fields) (s : State) : Out :=
  runFront (.trap f) f (fieldFmt f) (fun v _ => .trap .software 0 (some (v.a.extractLsb' 0 32))) s

/-- Every earlier instruction of the strand has performed, and its windows have ended (R131, step 2): no queue operation of the matrix
array is left but nests, which R128 counts with the engine commands. -/
def State.drained (s : State) (slot : Nat) : Bool :=
  let t := s.strand slot
  t.lq.isEmpty && t.cq.isEmpty && t.sq.isEmpty && t.flight.isEmpty &&
  (s.core (coreOf slot)).matq.all (fun o => o.slot != slot || (match o.instr with
    | .mgo _ => true
    | _ => false))

/-- The request is posted, and the strand waits for an ERET (R131, steps 2 and 3). -/
def State.postCall (s : State) (slot : Nat) (pos : Word) (number : BitVec 32) : State :=
  let t := s.strand slot
  let args := (List.range 8).map (fun k => t.getS (t.physS (3 + k)))
  { s.setStrand slot { t with st := .sysw, saved := t.st, calling := none } with
    outputs := s.outputs ++ [.syscall (s.stid slot) t.lnch pos number args] }
/-- SYSCALL (R131): once earlier work has performed, the request is posted and the strand waits for an ERET. -/
def syscallBody (v : Vals) (s : State) : FRes :=
  let n := v.a.extractLsb' 0 32
  if s.drained s.cur then .done (s.postCall s.cur v.pos n) [] 0 else .begin_ (.syscall n)
def execSyscall (f : Fields) (s : State) : Out := runFront (.syscall f) f (fieldFmt f) syscallBody s

/-- The strand in the slot is stopped by SYSCALL or by a trap (R132). -/
def stoppedForEret (t : Strand) : Bool := t.st == .sysw || t.st == .stop
/-- ERET (R132): resumes the strand in slot a at position b with result c, or writes FALSE. -/
def eretBody (f : Fields) (v : Vals) (s : State) : FRes :=
  let n := v.a.toNat
  if n ≥ 256 || !(stoppedForEret (s.strand n)) then .done s (dstVal s f.d 0) 0
  else .done (s.eretResume n v.b v.c) (dstVal s f.d 1) 0
def execEret (f : Fields) (s : State) : Out := runFront (.eret f) f (fieldFmt f) (eretBody f) s

/-- WFE (R133): returns at once where the event bit is set, else waits at the front up to the limit. -/
def wfeBody (f : Fields) (v : Vals) (s : State) : FRes :=
  let t := s.me
  if t.event then .done (s.setMe { t with event := false }) (dstVal s f.d 1) 0
  else
    let lim := if v.a.toNat % 2 ^ 32 = 0 then 2 ^ 24 else v.a.toNat % 2 ^ 32
    .done (s.setMe { t with wfe := some { until_ := s.cycle + lim, dst := (match f.d with | .p n => n.toNat | _ => 7)
                                          bound := latBound f.lat.toNat, pos := v.pos } }) [] 0
def execWfe (f : Fields) (s : State) : Out := runFront (.wfe f) f (fieldFmt f) (wfeBody f) s

/-- What a TLBI removes (R134). -/
structure TlbiSpec where
  sub : Nat
  pasid : BitVec 20
  va : Word
  entryKey : Nat
  deriving DecidableEq, Repr

def TlbiSpec.tlb (x : TlbiSpec) (e : TlbEntry) : Bool :=
  match x.sub with
  | 0 => e.pasid == x.pasid
  | 1 => e.pasid == x.pasid && e.base ≤ x.va.toNat && x.va.toNat < e.base + e.size
  | 3 => true
  | _ => false
/-- Handle-cache entries by key `pasid · 2^64 + entry address / 64`, constant-cache lines by `pasid · 2^58 + line`. -/
def TlbiSpec.handle (x : TlbiSpec) (key : Nat) : Bool :=
  match x.sub with
  | 0 => key / 2 ^ 64 == x.pasid.toNat
  | 2 => key == x.entryKey
  | 3 => true
  | _ => false
def TlbiSpec.const (x : TlbiSpec) (key : Nat) : Bool :=
  match x.sub with
  | 0 => key / 2 ^ 58 == x.pasid.toNat
  | 3 => true
  | _ => false
def Core.tlbi (c : Core) (x : TlbiSpec) : Core :=
  { c with hcache := c.hcache.filter (fun k => !(x.handle k.1)), ccache := c.ccache.filter (fun k => !(x.const k.1))
           regions := c.regions.filter (fun k => !(x.sub != 2 && x.handle k.1)) }

/-- Tile-table entries that a layout unit keeps (R351). -/
def TlbiSpec.tile (x : TlbiSpec) (k : TileCopy) : Bool := match x.sub with
  | 0 => k.pasid == x.pasid
  | 2 => k.pasid == x.pasid && k.handle == x.va.toNat
  | 3 => true
  | _ => false

/-- A command that the invalidation waits for: it has started with translations of its own, which it uses until it ends (R293, R349). -/
def tlbiWaits (s : State) (slot sub : Nat) (device : Bool) (c : Cmd) : Bool :=
  c.started && !c.finished && (!c.outs.isEmpty || !c.furl.isEmpty) && (device || c.core == coreOf slot) &&
  (sub == 3 || (s.strand c.slot).pasid == (s.strand slot).pasid)
def State.tlbiHeld (s : State) (slot sub : Nat) (device : Bool) : Bool := sub != 2 && s.quads.any (fun y => y.2.q.any (tlbiWaits s slot sub device))
/-- The invalidation (R134): of translations, handle entries, constant lines and tile entries, in every unit of the scope; with a core go the entries
of its quadrant that it uses (R349, R351). -/
def State.invalidate (s : State) (slot sub : Nat) (device : Bool) (va : Word) : State :=
  let t := s.strand slot
  let core := coreOf slot
  let x : TlbiSpec := { sub := sub, pasid := t.pasid, va := va
                        entryKey := t.pasid.toNat * 2 ^ 64 + (t.htb + BitVec.ofNat 64 (64 * va.toNat)).toNat / 64 }
  let s := if sub = 2 then s else s.settleAll
  let s1 : State := { s with
    tlb := s.tlb.filter (fun e => !((device || e.unit == core || e.unit == quadUnit core) && x.tlb e))
    quads := s.quads.map (fun y => if device || y.1 = quadOf core then (y.1, { y.2 with tiles := y.2.tiles.filter (fun k => !(x.tile k)) }) else y) }
  let s2 := if device then s1.mapCores (fun _ c => c.tlbi x) else s1.modCore core (fun c => c.tlbi x)
  if sub = 2 then s2 else s2.dropUncoded
/-- TLBI (R134): the invalidation is complete in every unit of the scope when the instruction ends; the front waits while a command that
translated its accesses at its start has not made them (R293, R349). -/
def tlbiBody (f : Fields) (v : Vals) (s : State) : FRes :=
  let sub := f.sub.toNat
  let device := f.scp == 4
  if s.tlbiHeld s.cur sub device then .begin_ (.tlbi sub device v.a) else .done (s.invalidate s.cur sub device v.a) [] 0
def execTlbi (f : Fields) (s : State) : Out := runFront (.tlbi f) f none (tlbiBody f) s

/-- What the front has begun ends (R131, R134): the strand's earlier work has performed, or nothing holds the invalidation. A SYSCALL whose
strand traps or is pre-empted first is not decoded; a TLBI completes (R135). -/
def frontEnds? (slot : Nat) (s : State) : Option State :=
  let t := s.strand slot
  match t.calling with
  | some (.syscall n) => if mayIssue s.cycle t && t.stopping.isNone && s.drained slot then some ((s.postCall slot t.pc n).modStrand slot Strand.advance) else none
  | some (.tlbi sub device va) =>
    if s.tlbiHeld slot sub device then none else some ((s.invalidate slot sub device va).modStrand slot (fun u => { u.advance with calling := none }))
  | none => none

end Sys2Proof.Machine
end

