-- ==== Sys2Proof/Machine/Transcend.lean ====
section
/-! DEFINITION. The transcendental functions of R52, correctly rounded: an enclosing interval in fixed point at `tp` fraction bits
is rounded at both ends, and where the ends disagree the value is free (log 3, DESIGN CHOICE). -/

namespace Sys2Proof.Machine

/-- The functions of R52. -/
inductive TFun where
  | exp | exp2 | log2 | rcp | rsq | tanh | sigm | sin | cos
  deriving DecidableEq, Repr

def TFun.number : TFun → Nat
  | .exp => 0 | .exp2 => 1 | .log2 => 2 | .rcp => 3 | .rsq => 4 | .tanh => 5 | .sigm => 6 | .sin => 7 | .cos => 8

/-- Fraction bits of the fixed-point evaluation. -/
def tp : Nat := 700
/-- Slack of an evaluation, in units of the last place: far above the truncation errors of the series below. -/
def slack : Nat := 2 ^ 40

/-- `2·Σ z^(2i+1)/(2i+1)`, the series of `2·atanh z`, for `zp = z^(2i+1)` and `z2 = z²` at `p` bits. -/
def atanhLoop (p z2 : Nat) : Nat → Nat → Nat → Nat → Nat
  | 0, _, _, acc => 2 * acc
  | k + 1, i, zp, acc => atanhLoop p z2 k (i + 1) (zp * z2 / 2 ^ p) (acc + zp / (2 * i + 1))
/-- `2·atanh z` at `p` bits. -/
def twoAtanh (p z : Nat) : Nat := atanhLoop p (z * z / 2 ^ p) 240 0 z 0
/-- ln 2 = 2·atanh(1/3). -/
def ln2 : Nat := twoAtanh tp (2 ^ tp / 3)

/-- `Σ (−1)^i z^(2i+1)/(2i+1)` for `z = 1/q`: arctangent of `1/q` at `p` bits (signed). -/
def atanLoop (q : Nat) : Nat → Nat → Nat → Int → Int
  | 0, _, _, acc => acc
  | k + 1, i, zp, acc => atanLoop q k (i + 1) (zp / (q * q)) (if i % 2 = 0 then acc + (zp / (2 * i + 1) : Nat) else acc - (zp / (2 * i + 1) : Nat))
/-- Fraction bits of π for the reduction of arguments up to 2^128. -/
def pq : Nat := tp + 160
/-- π/2 at `pq` bits, by Machin's formula. -/
def halfPi : Nat := (2 * (4 * atanLoop 5 200 0 (2 ^ pq / 5) 0 - atanLoop 239 200 0 (2 ^ pq / 239) 0)).toNat

/-- `Σ r^i / i!` at `tp` bits. -/
def expLoop (r : Nat) : Nat → Nat → Nat → Nat → Nat
  | 0, _, _, acc => acc
  | k + 1, i, term, acc => expLoop r k (i + 1) (term * r / 2 ^ tp / (i + 1)) (acc + term)
/-- `e^r` for `0 ≤ r < 1`, at `tp` bits. -/
def expFrac (r : Nat) : Nat := expLoop r 170 0 (2 ^ tp) 0

/-- Alternating series from `term`, stepping by `r²/((j+1)(j+2))`: sine from `(r, 1)`, cosine from `(1, 0)`. -/
def trigLoop (r2 : Nat) : Nat → Nat → Nat → Bool → Int → Int
  | 0, _, _, _, acc => acc
  | k + 1, j, term, neg, acc =>
    trigLoop r2 k (j + 2) (term * r2 / 2 ^ tp / ((j + 1) * (j + 2))) (!neg) (if neg then acc - (term : Int) else acc + (term : Int))
def sinFrac (r : Nat) : Nat := (trigLoop (r * r / 2 ^ tp) 110 1 r false 0).toNat
def cosFrac (r : Nat) : Nat := (trigLoop (r * r / 2 ^ tp) 110 0 (2 ^ tp) false 0).toNat

/-- An approximation: a sign, a centre and the exponent of its unit; the true magnitude lies within `slack` units. -/
structure Approx where
  neg : Bool
  c : Nat
  e : Int

/-- A magnitude below every positive number of the formats, and one above them all. -/
def tinyMark (neg : Bool) : XReal := .fin neg 1 (-2000) true
def hugeMark : XReal := .fin false 1 2000 true
/-- Just below one. -/
def belowOne (neg : Bool) : XReal := .fin neg (2 ^ 600 - 1) (-600) true

/-- `x` at `p` fraction bits (exact for every element of the formats of R52). -/
def fixedAt (p : Nat) (m : Nat) (e : Int) : Nat :=
  if e + p ≥ 0 then m <<< (e + p).toNat else m >>> (-(e + p)).toNat

/-- `e^x` as `mantissa · 2^(k − tp)`, for `x = ±m·2^e`. -/
def expParts (neg : Bool) (m : Nat) (e : Int) : Nat × Int :=
  let x : Int := if neg then -(fixedAt tp m e : Int) else fixedAt tp m e
  let k := x / (ln2 : Int)
  (expFrac (x - k * ln2).toNat, k)

/-- Sine (`q = 0`) or cosine (`q = 1`) of `x ≥ 0`: quadrant reduction. -/
def trigApprox (q0 : Nat) (m : Nat) (e : Int) : Approx :=
  let x := fixedAt pq m e
  let k := x / halfPi
  let r := (x % halfPi) >>> 160
  let q := (k + q0) % 4
  { neg := q ≥ 2, c := if q % 2 = 0 then sinFrac r else cosFrac r, e := -(tp : Int) }

/-- The result of R52 for a finite operand: exact values and marks, or an approximation to round at both ends. -/
def TFun.finite (t : TFun) (neg : Bool) (m : Nat) (e : Int) : Sum XReal Approx :=
  let lg : Int := (Nat.log2 m : Int) + e
  match t with
  | .rcp => .inl (XReal.divFin false 1 0 neg m e)
  | .rsq =>
    let sh := 2 * quotBits + 2 * (Nat.log2 m / 2)
    let m' := if e % 2 = 0 then m else 2 * m
    let e' := if e % 2 = 0 then e else e - 1
    let r := isqrt (2 ^ (2 * sh) / m')
    .inl (.fin false r (-(e' / 2) - sh) (r * r * m' != 2 ^ (2 * sh)))
  | .exp =>
    if lg ≥ 12 then .inl (if neg then tinyMark false else hugeMark)
    else let (c, k) := expParts neg m e; .inr ⟨false, c, k - tp⟩
  | .exp2 =>
    if lg ≥ 12 then .inl (if neg then tinyMark false else hugeMark)
    else
      let x : Int := if neg then -(fixedAt tp m e : Int) else fixedAt tp m e
      let k := x / (2 ^ tp : Int)
      let f := (x % (2 ^ tp : Int)).toNat
      if f = 0 then .inl (.fin false 1 k false) else .inr ⟨false, expFrac (f * ln2 / 2 ^ tp), k - tp⟩
  | .log2 =>
    let f := fixedAt tp m (-(Nat.log2 m : Int))
    if f = 2 ^ tp then .inl (XReal.ofInt lg)
    else
      let z := (f - 2 ^ tp) * 2 ^ tp / (f + 2 ^ tp)
      let v : Int := lg * (2 ^ tp : Int) + (twoAtanh tp z * 2 ^ tp / ln2 : Nat)
      .inr ⟨v < 0, v.natAbs, -(tp : Int)⟩
  | .tanh =>
    if lg ≥ 7 then .inl (belowOne neg)
    else
      let (c, k) := expParts true m (e + 1)
      let t := c >>> (-k).toNat
      .inr ⟨neg, (2 ^ tp - t) * 2 ^ tp / (2 ^ tp + t), -(tp : Int)⟩
  | .sigm =>
    if lg ≥ 8 then .inl (if neg then tinyMark false else belowOne false)
    else
      let (c, k) := expParts true m e
      let t := c >>> (-k).toNat
      if neg then .inr ⟨false, c * 2 ^ tp / (2 ^ tp + t), k - tp⟩
      else .inr ⟨false, 2 ^ tp * 2 ^ tp / (2 ^ tp + t), -(tp : Int)⟩
  | .sin => let a := trigApprox 0 m e; .inr { a with neg := a.neg != neg }
  | .cos => .inr (trigApprox 1 m e)

/-- RoundTo of `f x` (R52) for a format, a mode and an exact operand; `bits` names the operand where the value is free. -/
def TFun.applyReal (t : TFun) (f : Fmt) (mode : RMode) (modeCode : Nat) (bits : Nat) (x : XReal) : Nat × Flags :=
  let done (r : XReal) (fl : Flags) : Nat × Flags := let (c, g) := f.convert mode false r; (c, fl ||| g)
  match x with
  | .nan => (f.qnan, 0)
  | .inf neg =>
    match t with
    | .exp | .exp2 => done (if neg then .zero false else .inf false) 0
    | .log2 => if neg then (f.qnan, flagNV) else done (.inf false) 0
    | .rcp => done (.zero neg) 0
    | .rsq => if neg then (f.qnan, flagNV) else done (.zero false) 0
    | .tanh => done (.fin neg 1 0 false) 0
    | .sigm => done (if neg then .zero false else .fin false 1 0 false) 0
    | .sin | .cos => (f.qnan, flagNV)
  | .fin neg m e _ =>
    if m = 0 then
      match t with
      | .exp | .exp2 | .cos => done (.fin false 1 0 false) 0
      | .log2 => done (.inf true) flagDZ
      | .rcp | .rsq => done (.inf neg) flagDZ
      | .tanh | .sin => done (.zero neg) 0
      | .sigm => done (.fin false 1 (-1) false) 0
    else if neg ∧ (t = .log2 ∨ t = .rsq) then (f.qnan, flagNV)
    else
      match t.finite neg m e with
      | .inl r => done r 0
      | .inr a =>
        let lo := done (.fin a.neg (a.c - slack) a.e true) 0
        let hi := done (.fin a.neg (a.c + slack - 1) a.e true) 0
        if lo = hi then lo else (Config.freeTrans t.number f.code modeCode bits % 2 ^ f.width, flagNX)

/-- RoundTo of `f x` for the operand's bits. -/
def TFun.apply (t : TFun) (f : Fmt) (mode : RMode) (modeCode : Nat) (bits : Nat) : Nat × Flags :=
  t.applyReal f mode modeCode bits (f.value bits)

end Sys2Proof.Machine
end

