-- ==== Sys2Proof/Machine/Vector.lean ====
section
/-! DEFINITION. The vector instructions (R159 to R189). -/

namespace Sys2Proof.Machine

/-! ### Operands (R161, R162) -/

/-- An operand of a vector instruction: its field, its sample, OPND and the format it is read in. -/
structure VArg where
  o : Operand
  w : Word
  opnd : Nat
  fmt : Fmt
  deriving DecidableEq, Repr

/-- One value for the even columns and one for the odd ones, over the shape. -/
def spread (rows cols even odd : Nat) : List Nat :=
  (List.range rows).flatMap (fun _ => (List.range cols).map (fun j => if j % 2 = 1 then odd else even))
/-- The elements of an operand over the shape, in row-major order: a tile, or a broadcast value. An absent operand gives zeros. -/
def State.vArg (s : State) (e : QEntry) (rows cols : Nat) (a : VArg) : Except (Bad × Nat) (State × List Nat) :=
  match a.o with
  | .v _ => .ok (s, s.tile s.cur a.w.toNat a.fmt.regBytes (rows * cols))
  | .s _ => .ok (s, List.replicate (rows * cols) (a.w.toNat % 2 ^ (8 * a.fmt.regBytes)))
  | .i v => .ok (s, spread rows cols (immCode a.fmt v.toNat false) (immCode a.fmt v.toNat true))
  | .k w o => match s.readConst s.cur e.cwb a.fmt w.toNat o.toNat with
    | .error b => .error (b, a.opnd)
    | .ok (s1, x, y) => .ok (s1, spread rows cols x y)
  | _ => .ok (s, List.replicate (rows * cols) 0)
/-- Is each element governed by a set bit of the mask (R61). -/
def State.maskBits (s : State) (m : Operand) (rows cols : Nat) : List Bool :=
  match m with
  | .m k => (List.range rows).flatMap (fun i =>
      let w := s.maskRow s.cur k.toNat i
      (List.range cols).map (fun j => w.getLsbD (j / maskGroup cols)))
  | _ => List.replicate (rows * cols) true

/-- The sampled operands of an entry. -/
def argA (f : Fields) (e : QEntry) (x : Fmt) : VArg := ⟨f.a, e.a, 2, x⟩
def argB (f : Fields) (e : QEntry) (x : Fmt) : VArg := ⟨f.b, e.b, 3, x⟩
def argC (f : Fields) (e : QEntry) (x : Fmt) : VArg := ⟨f.c, e.c, 4, x⟩

/-- All three operands, read before anything is written (R163). -/
def withArgs (f : Fields) (e : QEntry) (fa fb fc : Fmt) (s : State) (k : State → List Nat → List Nat → List Nat → QRes) : QRes :=
  let rows := shpRows e.shp
  let cols := shpCols e.shp
  match s.vArg e rows cols (argA f e fa) with
  | .error (b, o) => b.res s o 0
  | .ok (s1, a) => match s1.vArg e rows cols (argB f e fb) with
    | .error (b, o) => b.res s1 o 0
    | .ok (s2, b) => match s2.vArg e rows cols (argC f e fc) with
      | .error (x, o) => x.res s2 o 0
      | .ok (s3, c) => k s3 a b c

/-- Zip three operands with the activity of each element. -/
def zip4 : List Bool → List Nat → List Nat → List Nat → List (Bool × Nat × Nat × Nat)
  | m :: ms, a :: as, b :: bs, c :: cs => (m, a, b, c) :: zip4 ms as bs cs
  | _, _, _, _ => []
/-- The results of a list of elements: written values and flags. -/
def collect : List (Option (Nat × Flags)) → List (Option Nat) × Flags
  | [] => ([], 0)
  | none :: r => let (v, fl) := collect r; (none :: v, fl)
  | some x :: r => let (v, fl) := collect r; (some x.1 :: v, x.2 ||| fl)
/-- The destination register of an entry. -/
def dstV (e : QEntry) (k : Nat) : Nat := match e.dsts[k]? with
  | some (.v n) => n
  | _ => 0
/-- Results to the destination tile, in its format. -/
def toTile (s : State) (e : QEntry) (eb : Nat) (rs : List (Option (Nat × Flags))) : QRes :=
  let r := collect rs
  .done (s.writeTile s.myCore (dstV e 0) eb r.1) [] r.2

/-- An effect per active element (R162). -/
def perElem (f : Fields) (fa fb fc fd : Fmt) (g : Nat → Nat → Nat → Nat × Flags) (e : QEntry) (s : State) : QRes :=
  withArgs f e fa fb fc s (fun s a b c =>
    toTile s e fd.regBytes ((zip4 (s.maskBits f.e (shpRows e.shp) (shpCols e.shp)) a b c).map
      (fun x => if x.1 then some (g x.2.1 x.2.2.1 x.2.2.2) else none)))
/-- The common case: one format throughout. -/
def perElem1 (f : Fields) (g : Fmt → Nat → Nat → Nat → Nat × Flags) (e : QEntry) (s : State) : QRes :=
  let x := memFmt f
  perElem f x x x x (g x) e s

/-- The rounding mode of an instruction (R51, R92). -/
def vMode (f : Fields) (e : QEntry) : RMode := modeOf f.flags e.rmode
/-- .sat -/
def vSat (f : Fields) : Bool := f.flags.getLsbD 0
def isFloat (x : Fmt) : Bool := Fmt.fltv.contains x

/-! ### VSHP (R168) -/

def vshpBody (f : Fields) (v : Vals) (s : State) : FRes := s.writeShp v.a.toNat v.b.toNat f.fmt.toNat
/-- VSHP: the shape register takes rows a, columns b and the type in TM. -/
def execVshp (f : Fields) (s : State) : Out := runFront (.vshp f) f none (vshpBody f) s

/-! ### Arithmetic (R169 to R171) -/

/-- A float sum of exact values, rounded once. -/
def fsum (x : Fmt) (m : RMode) (a b : XReal) : Nat × Flags := deliverFloat x m [a, b] (XReal.add (m == .rdn) a b)
def vaddEl (m : RMode) (sat : Bool) (x : Fmt) (a b _c : Nat) : Nat × Flags :=
  if isFloat x then fsum x m (x.value a) (x.value b) else deliverInt x sat (x.readInt a + x.readInt b)
def vsubEl (m : RMode) (sat : Bool) (x : Fmt) (a b _c : Nat) : Nat × Flags :=
  if isFloat x then fsum x m (x.value a) (x.value b).negate else deliverInt x sat (x.readInt a - x.readInt b)
def vmulEl (m : RMode) (sat : Bool) (x : Fmt) (a b _c : Nat) : Nat × Flags :=
  if isFloat x then deliverFloat x m [x.value a, x.value b] (XReal.mul (x.value a) (x.value b))
  else deliverInt x sat (x.readInt a * x.readInt b)
def vfmaEl (m : RMode) (x : Fmt) (a b c : Nat) : Nat × Flags := fusedAdd x m (x.value a) (x.value b) (x.value c)
def vfmsEl (m : RMode) (x : Fmt) (a b c : Nat) : Nat × Flags := fusedAdd x m (x.value a) (x.value b) (x.value c).negate
def vnfmaEl (m : RMode) (x : Fmt) (a b c : Nat) : Nat × Flags := fusedAdd x m (x.value a).negate (x.value b) (x.value c)
def vdivEl (m : RMode) (x : Fmt) (a b _c : Nat) : Nat × Flags :=
  let q := XReal.div (x.value a) (x.value b)
  let r := x.convert m false q.1
  (r.1, r.2 ||| q.2)
def vsqrtEl (m : RMode) (x : Fmt) (a _b _c : Nat) : Nat × Flags :=
  let q := XReal.sqrt (x.value a)
  let r := x.convert m false q.1
  (r.1, r.2 ||| q.2)
/-- R170 on codes. -/
def fpick (x : Fmt) (isMax : Bool) (a b : Nat) : Nat :=
  match minMaxPick isMax (x.value a) (x.value b) with
  | none => x.qnan
  | some true => a
  | some false => b
/-- An element's value as a result: the canonical NaN for any NaN (R28), an integer held under R25 whatever its unused bits were. -/
def asResult (x : Fmt) (a : Nat) : Nat :=
  if isFloat x then (if (x.value a).isNaN then x.qnan else a) else x.fill (a % 2 ^ x.width)
/-- The smaller or larger of two elements (R170), as a result. -/
def pick2 (isMax : Bool) (x : Fmt) (a b : Nat) : Nat :=
  if isFloat x then fpick x isMax a b
  else asResult x (if isMax then (if x.readInt a ≤ x.readInt b then b else a) else (if x.readInt a ≤ x.readInt b then a else b))
def vminEl (x : Fmt) (a b _c : Nat) : Nat × Flags := (pick2 false x a b, 0)
def vmaxEl (x : Fmt) (a b _c : Nat) : Nat × Flags := (pick2 true x a b, 0)
/-- A float with a new sign; a NaN gives the canonical NaN. -/
def withSign (x : Fmt) (a : Nat) (neg : Bool) : Nat :=
  if (x.value a).isNaN then x.qnan else a % 2 ^ (x.width - 1) + (if neg then 2 ^ (x.width - 1) else 0)
def vabsEl (sat : Bool) (x : Fmt) (a _b _c : Nat) : Nat × Flags :=
  if isFloat x then (withSign x a false, 0) else deliverInt x sat ((x.readInt a).natAbs : Int)
def vnegEl (sat : Bool) (x : Fmt) (a _b _c : Nat) : Nat × Flags :=
  if isFloat x then (withSign x a (!(a.testBit (x.width - 1))), 0) else deliverInt x sat (-(x.readInt a))

def vaddBody (f : Fields) (e : QEntry) (s : State) : QRes := perElem1 f (vaddEl (vMode f e) (vSat f)) e s
/-- VADD: a + b. -/
def execVadd (f : Fields) (s : State) : Out := runQueue (.vadd f) f .none (vaddBody f) s
def vsubBody (f : Fields) (e : QEntry) (s : State) : QRes := perElem1 f (vsubEl (vMode f e) (vSat f)) e s
/-- VSUB: a − b. -/
def execVsub (f : Fields) (s : State) : Out := runQueue (.vsub f) f .none (vsubBody f) s
def vmulBody (f : Fields) (e : QEntry) (s : State) : QRes := perElem1 f (vmulEl (vMode f e) (vSat f)) e s
/-- VMUL: a × b. -/
def execVmul (f : Fields) (s : State) : Out := runQueue (.vmul f) f .none (vmulBody f) s
def vfmaBody (f : Fields) (e : QEntry) (s : State) : QRes := perElem1 f (vfmaEl (vMode f e)) e s
/-- VFMA: a × b + c. -/
def execVfma (f : Fields) (s : State) : Out := runQueue (.vfma f) f .none (vfmaBody f) s
def vfmsBody (f : Fields) (e : QEntry) (s : State) : QRes := perElem1 f (vfmsEl (vMode f e)) e s
/-- VFMS: a × b − c. -/
def execVfms (f : Fields) (s : State) : Out := runQueue (.vfms f) f .none (vfmsBody f) s
def vnfmaBody (f : Fields) (e : QEntry) (s : State) : QRes := perElem1 f (vnfmaEl (vMode f e)) e s
/-- VNFMA: c − a × b. -/
def execVnfma (f : Fields) (s : State) : Out := runQueue (.vnfma f) f .none (vnfmaBody f) s
def vdivBody (f : Fields) (e : QEntry) (s : State) : QRes := perElem1 f (vdivEl (vMode f e)) e s
/-- VDIV: a / b. -/
def execVdiv (f : Fields) (s : State) : Out := runQueue (.vdiv f) f .none (vdivBody f) s
def vsqrtBody (f : Fields) (e : QEntry) (s : State) : QRes := perElem1 f (vsqrtEl (vMode f e)) e s
/-- VSQRT: √a. -/
def execVsqrt (f : Fields) (s : State) : Out := runQueue (.vsqrt f) f .none (vsqrtBody f) s
def vminBody (f : Fields) (e : QEntry) (s : State) : QRes := perElem1 f vminEl e s
/-- VMIN: the smaller. -/
def execVmin (f : Fields) (s : State) : Out := runQueue (.vmin f) f .none (vminBody f) s
def vmaxBody (f : Fields) (e : QEntry) (s : State) : QRes := perElem1 f vmaxEl e s
/-- VMAX: the larger. -/
def execVmax (f : Fields) (s : State) : Out := runQueue (.vmax f) f .none (vmaxBody f) s
def vabsBody (f : Fields) (e : QEntry) (s : State) : QRes := perElem1 f (vabsEl (vSat f)) e s
/-- VABS: |a|. -/
def execVabs (f : Fields) (s : State) : Out := runQueue (.vabs f) f .none (vabsBody f) s
def vnegBody (f : Fields) (e : QEntry) (s : State) : QRes := perElem1 f (vnegEl (vSat f)) e s
/-- VNEG: −a. -/
def execVneg (f : Fields) (s : State) : Out := runQueue (.vneg f) f .none (vnegBody f) s

/-! ### Compare and select (R172, R173) -/

/-- The condition of SUB on two elements. On a UINT format SUB alone says whether they compare as signed (R119) or not: R169 gives such elements the
other reading (log 87, DESIGN CHOICE). -/
def vCond (x : Fmt) (c a b : Nat) : Bool := if isFloat x then condFloat c (x.value a) (x.value b) else condInt c x.width a b
/-- The truth values of one row, grouped: all members, or any (R172). -/
def groupBits (any : Bool) (cols : Nat) (row : List Bool) : List Bool :=
  let g := maskGroup cols
  (List.range ((cols + g - 1) / g)).map (fun k =>
    let m := (row.drop (k * g)).take g
    if any then m.any id else m.all id)
/-- One row of the destination mask: group bits where E allows, the old bits elsewhere. -/
def maskRowOf (old allow : Word) (bits : List Bool) : Word :=
  bits.zipIdx.foldl (fun w b => if allow.getLsbD b.2 then setFld w b.2 1 (if b.1 then 1 else 0) else w) old
/-- The bits that E allows to be written in a row. -/
def State.allowRow (s : State) (m : Operand) (i : Nat) : Word := match m with
  | .m k => s.maskRow s.cur k.toNat i
  | _ => 0xFFFFFFFFFFFFFFFF
/-- The bits of a mask's rows that an instruction writes, as runs. -/
def maskRuns (d : Nat) (rows : List Word) : List Run :=
  rows.zipIdx.flatMap (fun r => ((List.range 64).filter (fun j => r.1.getLsbD j)).map (fun j => ⟨.m d, 64 * r.2 + j, 1⟩))
/-- VCMP: the mask D takes the condition, group by group. Where it meets another window, the bits that both write end with one of the two
results, the same one for all of them (R88; free choice, log 2, DESIGN CHOICE). -/
def vcmpBody (f : Fields) (e : QEntry) (s : State) : QRes :=
  let x := memFmt f
  let rows := shpRows e.shp
  let cols := shpCols e.shp
  withArgs f e x x x s (fun s a b _ =>
    let t := (a.zip b).map (fun p => vCond x f.sub.toNat p.1 p.2)
    match e.dsts with
    | .m d :: _ =>
      let earlier := Config.freeBool (s.fv + 9)
      let kept (i : Nat) : Word := if earlier then s.me.maskWritten s.cycle d i else 0
      let allow := (List.range rows).map (fun i => s.allowRow f.e i &&& ~~~(kept i))
      let u1 := allow.zipIdx.foldl (fun u r =>
        let bits := groupBits (f.flags == 1) cols ((t.drop (r.2 * cols)).take cols)
        u.setK d r.2 (maskRowOf (u.getK d r.2) r.1 bits)) s.me
      let region : Word := BitVec.ofNat 64 (2 ^ ((cols + maskGroup cols - 1) / maskGroup cols) - 1)
      .done (s.setMe (u1.noteRuns s.actSeq (maskRuns d (allow.map (· &&& region))))) [] 0
    | _ => .done s [] 0)
/-- VCMP. -/
def execVcmp (f : Fields) (s : State) : Out := runQueue (.vcmp f) f .none (vcmpBody f) s
/-- VSEL: a where the bit of mask C is set, else b, copied as bits: the whole container of a narrow format, its upper bits as they are
(R173 beside R25; log 82, DEDUCED). -/
def vselBody (f : Fields) (e : QEntry) (s : State) : QRes :=
  let x := memFmt f
  let rows := shpRows e.shp
  let cols := shpCols e.shp
  withArgs { f with c := .none } e x x x s (fun s a b c =>
    let pick := s.maskBits f.c rows cols
    let v := (zip4 pick a b c).map (fun y => if y.1 then y.2.1 else y.2.2.1)
    toTile s e x.regBytes ((zip4 (s.maskBits f.e rows cols) v v c).map (fun y => if y.1 then some (y.2.1, 0) else none)))
/-- VSEL. -/
def execVsel (f : Fields) (s : State) : Out := runQueue (.vsel f) f .none (vselBody f) s

/-! ### Logic, shifts, clamp (R174) -/

/-- Deliver a W-bit pattern into the container (R25). -/
def bitsOut (x : Fmt) (n : Nat) : Nat × Flags := (x.fill (n % 2 ^ x.width), 0)
def lowW (x : Fmt) (n : Nat) : Nat := n % 2 ^ x.width
def vandEl (x : Fmt) (a b _c : Nat) : Nat × Flags := bitsOut x (lowW x a &&& lowW x b)
def vorEl (x : Fmt) (a b _c : Nat) : Nat × Flags := bitsOut x (lowW x a ||| lowW x b)
def vxorEl (x : Fmt) (a b _c : Nat) : Nat × Flags := bitsOut x (lowW x a ^^^ lowW x b)
def vnotEl (x : Fmt) (a _b _c : Nat) : Nat × Flags := bitsOut x (2 ^ x.width - 1 - lowW x a)
def vshlEl (x : Fmt) (a b _c : Nat) : Nat × Flags := bitsOut x (lowW x a <<< (lowW x b % x.width))
def vshrEl (x : Fmt) (a b _c : Nat) : Nat × Flags := bitsOut x (lowW x a >>> (lowW x b % x.width))
def vshraEl (x : Fmt) (a b _c : Nat) : Nat × Flags := bitsOut x (wrapTo x.width (toSigned x.width a / 2 ^ (lowW x b % x.width)))
def vclampEl (x : Fmt) (a b c : Nat) : Nat × Flags := (pick2 false x (pick2 true x a b) c, 0)
def vandBody (f : Fields) (e : QEntry) (s : State) : QRes := perElem1 f vandEl e s
/-- VAND: a AND b. -/
def execVand (f : Fields) (s : State) : Out := runQueue (.vand f) f .none (vandBody f) s
def vorBody (f : Fields) (e : QEntry) (s : State) : QRes := perElem1 f vorEl e s
/-- VOR: a OR b. -/
def execVor (f : Fields) (s : State) : Out := runQueue (.vor f) f .none (vorBody f) s
def vxorBody (f : Fields) (e : QEntry) (s : State) : QRes := perElem1 f vxorEl e s
/-- VXOR: a XOR b. -/
def execVxor (f : Fields) (s : State) : Out := runQueue (.vxor f) f .none (vxorBody f) s
def vnotBody (f : Fields) (e : QEntry) (s : State) : QRes := perElem1 f vnotEl e s
/-- VNOT: NOT a. -/
def execVnot (f : Fields) (s : State) : Out := runQueue (.vnot f) f .none (vnotBody f) s
def vshlBody (f : Fields) (e : QEntry) (s : State) : QRes := perElem1 f vshlEl e s
/-- VSHL. -/
def execVshl (f : Fields) (s : State) : Out := runQueue (.vshl f) f .none (vshlBody f) s
def vshrBody (f : Fields) (e : QEntry) (s : State) : QRes := perElem1 f vshrEl e s
/-- VSHR. -/
def execVshr (f : Fields) (s : State) : Out := runQueue (.vshr f) f .none (vshrBody f) s
def vshraBody (f : Fields) (e : QEntry) (s : State) : QRes := perElem1 f vshraEl e s
/-- VSHRA. -/
def execVshra (f : Fields) (s : State) : Out := runQueue (.vshra f) f .none (vshraBody f) s
def vclampBody (f : Fields) (e : QEntry) (s : State) : QRes := perElem1 f vclampEl e s
/-- VCLAMP: Min(Max(a, b), c). -/
def execVclamp (f : Fields) (s : State) : Out := runQueue (.vclamp f) f .none (vclampBody f) s

/-! ### Conversions, quantising, packing (R175 to R179) -/

/-- The format in SUB. -/
def srcFmt (f : Fields) : Fmt := (subFmt f).getD .fp32
/-- VCVT: each element from the format in SUB to the format in TM. -/
def vcvtBody (f : Fields) (e : QEntry) (s : State) : QRes :=
  let x := memFmt f
  let y := srcFmt f
  perElem f y y y x (fun a _ _ => y.cvtElem x (vMode f e) a) e s
def execVcvt (f : Fields) (s : State) : Out := runQueue (.vcvt f) f .none (vcvtBody f) s

/-- One block of VQNT. -/
def quantBlock (src tgt : Fmt) (m : RMode) (xs : List Nat) : Nat × List Nat × Flags := mxQuantise tgt m (xs.map src.value)
/-- Blocks of 32 elements of a row-major tile whose rows hold a multiple of 32. -/
def blocks32 : Nat → List Nat → List (List Nat)
  | 0, _ => []
  | n + 1, l => l.take 32 :: blocks32 n (l.drop 32)
/-- VQNT: rows into MX blocks, with the scales in B (R33, R176). -/
def vqntBody (f : Fields) (e : QEntry) (s : State) : QRes :=
  let n := shpRows e.shp * shpCols e.shp
  let src := srcFmt f
  let qs := (blocks32 (n / 32) (s.tile s.cur e.a.toNat src.regBytes n)).map (quantBlock src (memFmt f) (vMode f e))
  let s1 := s.writeTile s.myCore (dstV e 0) 1 (qs.flatMap (fun q => q.2.1.map some))
  .done (s1.writeTile s1.myCore (dstV e 1) 1 (qs.map (fun q => some q.1))) [] (qs.foldl (fun a q => a ||| q.2.2) 0)
def execVqnt (f : Fields) (s : State) : Out := runQueue (.vqnt f) f .none (vqntBody f) s
/-- The scale bytes of a tile, one per element: byte (i × COLS/32 + j div 32). -/
def scaleBytes (n : Nat) (bs : List Nat) : List Nat := (List.range n).map (fun k => (bs[k / 32]?).getD 0)
/-- VDQNT: MX elements with their scales, rounded once. -/
def vdqntBody (f : Fields) (e : QEntry) (s : State) : QRes :=
  let x := memFmt f
  let y := srcFmt f
  let rows := shpRows e.shp
  let cols := shpCols e.shp
  let n := rows * cols
  let a := s.tile s.cur e.a.toNat 1 n
  let sc := scaleBytes n (s.tile s.cur e.b.toNat 1 (n / 32))
  toTile s e x.regBytes ((zip4 (s.maskBits f.e rows cols) a sc sc).map (fun v =>
    if v.1 then some (x.convert (vMode f e) true (mxValue y v.2.2.1 v.2.1)) else none))
def execVdqnt (f : Fields) (s : State) : Out := runQueue (.vdqnt f) f .none (vdqntBody f) s

/-- Codes of `w` bits as a byte stream of `n` bytes, element 0 lowest (R36, R37). -/
def packBits (w n : Nat) (cs : List Nat) : List Nat :=
  let v := cs.foldr (fun c acc => c % 2 ^ w + acc * 2 ^ w) 0
  (leBytes n v).map (fun b => b.toNat)
/-- Elements of `w` bits of a byte stream. -/
def unpackBits (w n : Nat) (bs : List Nat) : List Nat :=
  let v := bs.foldr (fun c acc => c + acc * 256) 0
  (List.range n).map (fun k => v / 2 ^ (w * k) % 2 ^ w)
/-- Bytes of a packed stream of `n` elements (R179). -/
def streamBytes (w n : Nat) : Nat := if w = 6 then 3 * ((n + 3) / 4) else (n + 1) / 2
def packBody (w : Nat) (e : QEntry) (s : State) : QRes :=
  let n := shpRows e.shp * shpCols e.shp
  .done (s.writeTile s.myCore (dstV e 0) 1 ((packBits w (streamBytes w n) (s.tile s.cur e.a.toNat 1 n)).map some)) [] 0
def unpackBody (w : Nat) (f : Fields) (e : QEntry) (s : State) : QRes :=
  let n := shpRows e.shp * shpCols e.shp
  let cs := unpackBits w n (s.tile s.cur e.a.toNat 1 (streamBytes w n))
  .done (s.writeTile s.myCore (dstV e 0) 1 (cs.map (fun c => some ((memFmt f).fill c % 256)))) [] 0
/-- VPACK6. -/
def execVpack6 (f : Fields) (s : State) : Out := runQueue (.vpack6 f) f .none (packBody 6) s
/-- VUNPK6. -/
def execVunpk6 (f : Fields) (s : State) : Out := runQueue (.vunpk6 f) f .none (unpackBody 6 f) s
/-- VPACK4. -/
def execVpack4 (f : Fields) (s : State) : Out := runQueue (.vpack4 f) f .none (packBody 4) s
/-- VUNPK4. -/
def execVunpk4 (f : Fields) (s : State) : Out := runQueue (.vunpk4 f) f .none (unpackBody 4 f) s

/-- The exponents of VSCALE, SUB 0: elements of B as signed integers of the container width. -/
def scaleExp (x : Fmt) (o : Operand) (w : Word) (tile : List Nat) (n : Nat) : List Int :=
  match o with
  | .v _ => tile.map (fun b => toSigned (8 * x.regBytes) b)
  | .i v => List.replicate n v.toInt
  | _ => List.replicate n (toSigned (8 * x.regBytes) w.toNat)
/-- VSCALE: a × 2^k, rounded once. -/
def vscaleBody (f : Fields) (e : QEntry) (s : State) : QRes :=
  let x := memFmt f
  let rows := shpRows e.shp
  let cols := shpCols e.shp
  let n := rows * cols
  match s.vArg e rows cols (argA f e x) with
  | .error (b, o) => b.res s o 0
  | .ok (s1, a) =>
    let act := s1.maskBits f.e rows cols
    let conv (v : XReal) : Nat × Flags := x.convert (vMode f e) false v
    if f.sub = 0 then
      let ks := scaleExp x f.b e.b (s1.tile s1.cur e.b.toNat x.regBytes n) n
      toTile s1 e x.regBytes ((act.zip (a.zip ks)).map (fun v => if v.1 then some (conv ((x.value v.2.1).scale v.2.2)) else none))
    else
      let sc := scaleBytes n (s1.tile s1.cur e.b.toNat 1 (n / 32))
      toTile s1 e x.regBytes ((act.zip (a.zip sc)).map (fun v =>
        if v.1 then some (if v.2.2 = 255 then (x.qnan, 0) else conv ((x.value v.2.1).scale ((v.2.2 : Int) - 127))) else none))
def execVscale (f : Fields) (s : State) : Out := runQueue (.vscale f) f .none (vscaleBody f) s

/-! ### Reductions and scans (R180 to R182) -/

/-- The A56 float running sums of a list, the first exact (R30, R180). -/
def floatSums (x : Fmt) : List Nat → List (Nat × Flags)
  | [] => []
  | c :: r =>
    let first := (a56f.round .rne false (x.value c)).1
    let step (acc : Nat × List (Nat × Flags)) (d : Nat) : Nat × List (Nat × Flags) :=
      let t := accFloat acc.1 (x.value d)
      (t.1, acc.2 ++ [t])
    (first, 0) :: (r.foldl step (first, [])).2
/-- Only Invalid and Inexact are raised by the A56 steps (R180). -/
def stepFlags (fl : Flags) : Flags := fl &&& (flagNV ||| flagNX)
/-- The result of an operation over a list of contributors: 0 add, 1 min, 2 max. -/
def reduceList (op : Nat) (m : RMode) (sat : Bool) (x : Fmt) (l : List Nat) : Option (Nat × Flags) :=
  match l with
  | [] => none
  | c :: r =>
    if op = 0 then
      if isFloat x then
        let ss := floatSums x l
        let fl := ss.foldl (fun a t => a ||| stepFlags t.2) 0
        let last := (ss.getLast?.map (·.1)).getD 0
        let q := x.convert m false (a56f.decode last)
        some (q.1, q.2 ||| fl)
      else some (deliverInt x sat (l.foldl (fun a b => a + x.readInt b) 0))
    else some (r.foldl (fun a b => pick2 (op == 2) x a b) (asResult x c), 0)
/-- The inclusive prefixes of a list of contributors. -/
def prefixesOf (op : Nat) (m : RMode) (sat : Bool) (x : Fmt) (l : List Nat) : List (Nat × Flags) :=
  if op = 0 ∧ isFloat x then (floatSums x l).map (fun t =>
    let q := x.convert m false (a56f.decode t.1)
    (q.1, q.2 ||| stepFlags t.2))
  else (List.range l.length).map (fun k => (reduceList op m sat x (l.take (k + 1))).getD (0, 0))

/-- Row i, or column j, of a row-major list. -/
def rowOf {α : Type} (l : List α) (cols i : Nat) : List α := (l.drop (i * cols)).take cols
def colOf {α : Type} (l : List α) (rows cols j : Nat) : List α := (List.range rows).filterMap (fun i => l[i * cols + j]?)
/-- The contributors of a line of elements with their activity. -/
def activeOf (l : List (Bool × Nat)) : List Nat := (l.filter (·.1)).map (·.2)
/-- A tile's elements with their activity. -/
def State.withMask (s : State) (f : Fields) (e : QEntry) : List (Bool × Nat) :=
  let rows := shpRows e.shp
  let cols := shpCols e.shp
  (s.maskBits f.e rows cols).zip (s.tile s.cur e.a.toNat (memFmt f).regBytes (rows * cols))

/-- VREDR: each row into column 0. -/
def vredrBody (f : Fields) (e : QEntry) (s : State) : QRes :=
  let x := memFmt f
  let cols := shpCols e.shp
  let l := s.withMask f e
  toTile s e x.regBytes ((List.range (shpRows e.shp)).flatMap (fun i =>
    reduceList f.sub.toNat (vMode f e) (vSat f) x (activeOf (rowOf l cols i)) :: List.replicate (cols - 1) none))
def execVredr (f : Fields) (s : State) : Out := runQueue (.vredr f) f .none (vredrBody f) s
/-- VREDC: each column into row 0. -/
def vredcBody (f : Fields) (e : QEntry) (s : State) : QRes :=
  let x := memFmt f
  let rows := shpRows e.shp
  let cols := shpCols e.shp
  let l := s.withMask f e
  toTile s e x.regBytes ((List.range cols).map (fun j => reduceList f.sub.toNat (vMode f e) (vSat f) x (activeOf (colOf l rows cols j))))
def execVredc (f : Fields) (s : State) : Out := runQueue (.vredc f) f .none (vredcBody f) s

/-- The maximum of a row and the lowest column that holds it; of NaNs only, the lowest contributing column (R181). -/
def rowMax (x : Fmt) (l : List (Bool × Nat)) : Option (Nat × Nat) :=
  match (l.zipIdx.filter (fun v => v.1.1)).map (fun v => (v.1.2, v.2)) with
  | [] => none
  | c :: r =>
    let m := r.foldl (fun a v => pick2 true x a v.1) c.1
    let same (v : Nat) : Bool := if isFloat x then (let a := x.value v; let b := x.value m; if b.isNaN then a.isNaN else a.eq b && a.neg? == b.neg?)
      else x.readInt v == x.readInt m
    some (asResult x m, (((c :: r).find? (fun v => same v.1)).map (·.2)).getD c.2)
/-- VMAXR: each row's maximum and its index. -/
def vmaxrBody (f : Fields) (e : QEntry) (s : State) : QRes :=
  let x := memFmt f
  let cols := shpCols e.shp
  let l := s.withMask f e
  toTile s e x.regBytes ((List.range (shpRows e.shp)).flatMap (fun i =>
    match rowMax x (rowOf l cols i) with
    | none => List.replicate cols none
    | some (m, j) => some (m, 0) :: some (j % 2 ^ (8 * x.regBytes), 0) :: List.replicate (cols - 2) none))
def execVmaxr (f : Fields) (s : State) : Out := runQueue (.vmaxr f) f .none (vmaxrBody f) s

/-- Put the prefixes back at the active places of a line. -/
def spreadActive : List (Bool × Nat) → List (Nat × Flags) → List (Option (Nat × Flags))
  | [], _ => []
  | (false, _) :: r, ps => none :: spreadActive r ps
  | (true, _) :: r, p :: ps => some p :: spreadActive r ps
  | (true, _) :: r, [] => none :: spreadActive r []
def scanLine (f : Fields) (e : QEntry) (x : Fmt) (l : List (Bool × Nat)) : List (Option (Nat × Flags)) :=
  spreadActive l (prefixesOf (f.sub.toNat % 4) (vMode f e) (vSat f) x (activeOf l))
/-- VSCAN: inclusive prefixes along rows or columns. -/
def vscanBody (f : Fields) (e : QEntry) (s : State) : QRes :=
  let x := memFmt f
  let rows := shpRows e.shp
  let cols := shpCols e.shp
  let l := s.withMask f e
  if f.sub.getLsbD 2 then
    let cs := (List.range cols).map (fun j => scanLine f e x (colOf l rows cols j))
    toTile s e x.regBytes ((List.range rows).flatMap (fun i => cs.map (fun ln => (ln[i]?).getD none)))
  else toTile s e x.regBytes ((List.range rows).flatMap (fun i => scanLine f e x (rowOf l cols i)))
def execVscan (f : Fields) (s : State) : Out := runQueue (.vscan f) f .none (vscanBody f) s

/-! ### Transcendental functions (R183) -/

def RMode.code : RMode → Nat
  | .rne => 0 | .rtz => 1 | .rdn => 2 | .rup => 3 | .rna => 4
def transBody (t : TFun) (f : Fields) (e : QEntry) (s : State) : QRes :=
  perElem1 f (fun x a _ _ => t.apply x (vMode f e) (vMode f e).code a) e s
def vexpBody : Fields → QEntry → State → QRes := transBody .exp
/-- VEXP. -/
def execVexp (f : Fields) (s : State) : Out := runQueue (.vexp f) f .none (vexpBody f) s
def vexp2Body : Fields → QEntry → State → QRes := transBody .exp2
/-- VEXP2. -/
def execVexp2 (f : Fields) (s : State) : Out := runQueue (.vexp2 f) f .none (vexp2Body f) s
def vlog2Body : Fields → QEntry → State → QRes := transBody .log2
/-- VLOG2. -/
def execVlog2 (f : Fields) (s : State) : Out := runQueue (.vlog2 f) f .none (vlog2Body f) s
def vrcpBody : Fields → QEntry → State → QRes := transBody .rcp
/-- VRCP. -/
def execVrcp (f : Fields) (s : State) : Out := runQueue (.vrcp f) f .none (vrcpBody f) s
def vrsqBody : Fields → QEntry → State → QRes := transBody .rsq
/-- VRSQ. -/
def execVrsq (f : Fields) (s : State) : Out := runQueue (.vrsq f) f .none (vrsqBody f) s
def vtanhBody : Fields → QEntry → State → QRes := transBody .tanh
/-- VTANH. -/
def execVtanh (f : Fields) (s : State) : Out := runQueue (.vtanh f) f .none (vtanhBody f) s
def vsigmBody : Fields → QEntry → State → QRes := transBody .sigm
/-- VSIGM. -/
def execVsigm (f : Fields) (s : State) : Out := runQueue (.vsigm f) f .none (vsigmBody f) s
def vsinBody : Fields → QEntry → State → QRes := transBody .sin
/-- VSIN. -/
def execVsin (f : Fields) (s : State) : Out := runQueue (.vsin f) f .none (vsinBody f) s
def vcosBody : Fields → QEntry → State → QRes := transBody .cos
/-- VCOS. -/
def execVcos (f : Fields) (s : State) : Out := runQueue (.vcos f) f .none (vcosBody f) s

/-! ### Movement (R184 to R187) -/

/-- VTRN: D(j, i) := A(i, j), a tile of COLS rows and ROWS columns. -/
def vtrnBody (f : Fields) (e : QEntry) (s : State) : QRes :=
  let x := memFmt f
  let rows := shpRows e.shp
  let cols := shpCols e.shp
  let a := s.tile s.cur e.a.toNat x.regBytes (rows * cols)
  toTile s e x.regBytes ((List.range cols).flatMap (fun j => (colOf a rows cols j).map (fun v => some (v, 0))))
def execVtrn (f : Fields) (s : State) : Out := runQueue (.vtrn f) f .none (vtrnBody f) s
/-- VSHUF: elements of a row or column by index; an index outside gives zero bits. An element is copied as its whole container (R185 beside
R25; log 82, DEDUCED). -/
def vshufBody (f : Fields) (e : QEntry) (s : State) : QRes :=
  let x := memFmt f
  let rows := shpRows e.shp
  let cols := shpCols e.shp
  let a := s.tile s.cur e.a.toNat x.regBytes (rows * cols)
  let b := s.tile s.cur e.b.toNat x.regBytes (rows * cols)
  toTile s e x.regBytes (((s.maskBits f.e rows cols).zip b).zipIdx.map (fun v =>
    let i := v.2 / cols
    let j := v.2 % cols
    let p := v.1.2
    if !v.1.1 then none
    else if f.sub = 0 then some (if p < cols then (a[i * cols + p]?).getD 0 else 0, 0)
    else some (if p < rows then (a[p * cols + j]?).getD 0 else 0, 0)))
def execVshuf (f : Fields) (s : State) : Out := runQueue (.vshuf f) f .none (vshufBody f) s
/-- VBCR: row r to every row, copied as whole containers (R186 beside R25; log 82, DEDUCED). -/
def vbcrBody (f : Fields) (e : QEntry) (s : State) : QRes :=
  let x := memFmt f
  let rows := shpRows e.shp
  let cols := shpCols e.shp
  let a := s.tile s.cur e.a.toNat x.regBytes (rows * cols)
  toTile s e x.regBytes ((s.maskBits f.e rows cols).zipIdx.map (fun v =>
    if v.1 then some ((a[e.b.toNat * cols + v.2 % cols]?).getD 0, 0) else none))
def execVbcr (f : Fields) (s : State) : Out := runQueue (.vbcr f) f .none (vbcrBody f) s
/-- VBCC: column c to every column, copied as whole containers (log 82, DEDUCED). -/
def vbccBody (f : Fields) (e : QEntry) (s : State) : QRes :=
  let x := memFmt f
  let rows := shpRows e.shp
  let cols := shpCols e.shp
  let a := s.tile s.cur e.a.toNat x.regBytes (rows * cols)
  toTile s e x.regBytes ((s.maskBits f.e rows cols).zipIdx.map (fun v =>
    if v.1 then some ((a[v.2 / cols * cols + e.b.toNat]?).getD 0, 0) else none))
def execVbcc (f : Fields) (s : State) : Out := runQueue (.vbcc f) f .none (vbccBody f) s
/-- VMOV: a copy, or a value to every element; a tile's elements are copied as whole containers (log 82, DEDUCED). -/
def vmovBody (f : Fields) (e : QEntry) (s : State) : QRes := perElem1 f (fun _ a _ _ => (a, 0)) e s
def execVmov (f : Fields) (s : State) : Out := runQueue (.vmov f) f .none (vmovBody f) s
/-- VIOTA: a + i × b + j × c. -/
def viotaBody (f : Fields) (e : QEntry) (s : State) : QRes :=
  let x := memFmt f
  let rows := shpRows e.shp
  let cols := shpCols e.shp
  let v (o : Operand) (w : Word) : Int := x.readInt (dataVal x o w).toNat
  let a := v f.a e.a
  let b := v f.b e.b
  let c := v f.c e.c
  toTile s e x.regBytes ((s.maskBits f.e rows cols).zipIdx.map (fun y =>
    if y.1 then some (deliverInt x (vSat f) (a + (y.2 / cols : Nat) * b + (y.2 % cols : Nat) * c)) else none))
def execViota (f : Fields) (s : State) : Out := runQueue (.viota f) f .none (viotaBody f) s

/-! ### Complex (R188, R189) -/

/-- One part of a complex product: p ± q of two exact products, plus c; the value, and Invalid where a step makes a NaN, each product by
itself (log 83, DESIGN CHOICE). -/
def cpart (m : RMode) (sub : Bool) (a b c d : XReal) (plus : Option XReal) (shift : Nat) : XReal × Flags :=
  let rdn := m == .rdn
  let p := XReal.mul a b
  let q := if sub then (XReal.mul c d).negate else XReal.mul c d
  let t := (XReal.add rdn p q).scale (-(shift : Int))
  let r := match plus with
    | some z => XReal.add rdn t z
    | none => t
  let bad := XReal.newNaN [a, b] p || XReal.newNaN [c, d] q || XReal.newNaN [p, q] t ||
    (match plus with | some z => XReal.newNaN [t, z] r | none => false)
  (r, if bad then flagNV else 0)
/-- A complex product with an optional addend, each part rounded or saturated once. -/
def cmulEl (f : Fields) (m : RMode) (withC : Bool) (x : Fmt) (a b c : Nat) : Nat × Flags :=
  let pf := x.partFmt
  let v (n : Nat) : XReal × XReal := let (r, i) := x.parts n; (pf.value r, pf.value i)
  let (ar, ai) := v a
  let (br, bi) := v b
  let (cr, ci) := v c
  let sh := if x = .ci12 then f.sub.toNat else 0
  let re := cpart m true ar br ai bi (if withC then some cr else none) sh
  let im := cpart m false ar bi ai br (if withC then some ci else none) sh
  let r := pf.convert m false re.1
  let i := pf.convert m false im.1
  (x.ofParts r.1 i.1, r.2 ||| i.2 ||| re.2 ||| im.2)
def vcmulBody (f : Fields) (e : QEntry) (s : State) : QRes := perElem1 f (cmulEl f (vMode f e) false) e s
/-- VCMUL. -/
def execVcmul (f : Fields) (s : State) : Out := runQueue (.vcmul f) f .none (vcmulBody f) s
def vcfmaBody (f : Fields) (e : QEntry) (s : State) : QRes := perElem1 f (cmulEl f (vMode f e) true) e s
/-- VCFMA. -/
def execVcfma (f : Fields) (s : State) : Out := runQueue (.vcfma f) f .none (vcfmaBody f) s
/-- The conjugate of an element. -/
def conjEl (x : Fmt) (a _b _c : Nat) : Nat × Flags :=
  let (r, i) := x.parts a
  if x = .ci12 then (let q := Fmt.int12.convert .rne true (Fmt.int12.value i).negate; (x.ofParts r q.1, q.2))
  else
    let can (n : Nat) : Nat := if (Fmt.fp16.value n).isNaN then Fmt.fp16.qnan else n
    (x.ofParts (can r) (withSign .fp16 i (!(i.testBit 15))), 0)
def vconjBody (f : Fields) (e : QEntry) (s : State) : QRes := perElem1 f conjEl e s
/-- VCONJ. -/
def execVconj (f : Fields) (s : State) : Out := runQueue (.vconj f) f .none (vconjBody f) s
/-- The squared magnitude of an element. -/
def mag2El (y x : Fmt) (m : RMode) (a : Nat) : Nat × Flags :=
  let pf := y.partFmt
  let (r, i) := y.parts a
  let p := XReal.mul (pf.value r) (pf.value r)
  let q := XReal.mul (pf.value i) (pf.value i)
  x.convert m false (XReal.add (m == .rdn) p q)
/-- The format in which VMAG2 reads its operand: a tile in SUB's format; R189 names no other reading of the rest than R161's. -/
def mag2Fmt (f : Fields) : Fmt := match f.a with
  | .v _ => srcFmt f
  | _ => memFmt f
def vmag2Body (f : Fields) (e : QEntry) (s : State) : QRes :=
  let y := mag2Fmt f
  perElem f y y y (memFmt f) (fun a _ _ => mag2El (srcFmt f) (memFmt f) (vMode f e) a) e s
/-- VMAG2. -/
def execVmag2 (f : Fields) (s : State) : Out := runQueue (.vmag2 f) f .none (vmag2Body f) s

end Sys2Proof.Machine
end

