-- ==== Sys2Proof/Machine/Matrix.lean ====
section
/-! DEFINITION. The matrix array: shadow configuration, planes, shapes, the checks of a nest (R190 to R198, R202, R205, R206, R211, R405)
and the matrix instructions as they issue from C. -/

namespace Sys2Proof.Machine

/-! ### Configuration (R194, R195) -/

def NestCfg.lvl (g : NestCfg) : Nat → Level
  | 0 => g.l0 | 1 => g.l1 | 2 => g.l2 | 3 => g.l3 | 4 => g.l4 | _ => g.l5
def NestCfg.setLvl (g : NestCfg) (n : Nat) (l : Level) : NestCfg :=
  match n with
  | 0 => { g with l0 := l } | 1 => { g with l1 := l } | 2 => { g with l2 := l } | 3 => { g with l3 := l } | 4 => { g with l4 := l }
  | _ => { g with l5 := l }
def NestCfg.levels (g : NestCfg) : List Level := [g.l0, g.l1, g.l2, g.l3, g.l4, g.l5]

/-- The fields of the mode word. -/
def mFA (m : BitVec 64) : Option Fmt := Fmt.ofCode (fld m 0 5)
def mFB (m : BitVec 64) : Option Fmt := Fmt.ofCode (fld m 5 5)
def mIacc (m : BitVec 64) : Bool := m.getLsbD 10
def mAutow (m : BitVec 64) : Bool := m.getLsbD 11
def mSw (m : BitVec 64) : Nat := fld m 12 3
def mSparse (m : BitVec 64) : Bool := m.getLsbD 15
def mRA (m : BitVec 64) : Nat := fld m 16 7 + 1
def mKE (m : BitVec 64) : Nat := fld m 23 7 + 1
def mCE (m : BitVec 64) : Nat := fld m 30 7 + 1
def mBmx (m : BitVec 64) : Bool := m.getLsbD 37
def isCpx (f : Fmt) : Bool := Fmt.cpxv.contains f

/-- A row of the table of accepted modes (R195); an extent above 64 has no row or column (log 14, DEDUCED). -/
def modeOk (m : BitVec 64) : Bool :=
  fld m 38 26 == 0 && mSw m ≤ 5 && mRA m ≤ 64 && mKE m ≤ 64 && mCE m ≤ 64 &&
  match mFA m, mFB m with
  | some a, some b =>
    let small := [Fmt.int8, .int4]
    if small.contains a && small.contains b then mIacc m && !(mBmx m)
    else if a = .int12 && b = .int12 then mIacc m && !(mBmx m) && !(mSparse m)
    else if Fmt.mxe.contains a && Fmt.mxe.contains b then !(mIacc m)
    else if (a = .fp16 && b = .fp16) || (a = .bf16 && b = .bf16) then !(mIacc m) && !(mBmx m)
    else if isCpx a && a == b then mIacc m == (a == .ci12) && !(mBmx m) && !(mSparse m) && mKE m ≤ 32 && mCE m ≤ 32
    else false
  | _, _ => false

/-- The classes of R405. -/
def planeClass (f : Fmt) : PlaneClass :=
  match f with
  | .int4 | .int8 | .int12 => .intReal
  | .e4m3 | .e5m2 | .e3m2 | .e2m3 | .e2m1 | .fp16 | .bf16 => .floatReal
  | .ci12 => .complexInt
  | .cf16 => .complexFloat
  | _ => .none

/-! ### Shapes (R211) -/

/-- The array's shape under a choice and the fenced sub-arrays: rows, columns, code. -/
def shapeFor (choice : Nat) (fenced : BitVec 4) : Option (Nat × Nat × Nat) :=
  let ok (k : Nat) : Bool := !(fenced.getLsbD k)
  let able : Nat → Bool
    | 0 => ok 0 && ok 1 && ok 2 && ok 3
    | 1 => (ok 0 && ok 2) || (ok 1 && ok 3)
    | 2 => (ok 0 && ok 1) || (ok 2 && ok 3)
    | _ => ok 0 || ok 1 || ok 2 || ok 3
  let dims : Nat → Nat × Nat × Nat
    | 0 => (64, 64, 0)
    | 1 => (64, 32, 1)
    | 2 => (32, 64, 2)
    | _ => (32, 32, 3)
  if choice = 0 then ((List.range 4).find? able).map dims
  else if able (choice - 1) then some (dims (choice - 1)) else none
def MatStat.shape (m : MatStat) : Option (Nat × Nat × Nat) := shapeFor m.fmode.toNat m.fenced

/-! ### Rectangles of LM elements -/

/-- LM elements of a strided LM tensor: `n` codes from (x0, x1), with the core's word errors. -/
def State.lmRow (s : State) (slot : Nat) (e : BitVec 512) (x0 x1 n : Nat) : Except (TrapCode × Nat) (List Nat) :=
  let bits := hBits e
  let b0 := hElemBit e ⟨x0, x1, 0, 0⟩
  let core := coreOf slot
  let len := (b0 % 8 + n * bits + 7) / 8
  match s.lmRange slot core (hBase e + b0 / 8) len with
  | .error _ => .error (.handleBounds, 5)
  | .ok ps =>
    let g := s.readPieces core ps
    match g.poison with
    | some c => .error (.dataPoison, c)
    | none =>
      let v := leNat g.bytes / 2 ^ (b0 % 8)
      .ok ((List.range n).map (fun k => v / 2 ^ (bits * k) % 2 ^ bits))
/-- `h` rows of `n` codes. -/
def State.lmRows (s : State) (slot : Nat) (e : BitVec 512) (x0 x1 n : Nat) : Nat → Except (TrapCode × Nat) (List (List Nat))
  | 0 => .ok []
  | h + 1 => match s.lmRow slot e x0 x1 n with
    | .error b => .error b
    | .ok r => match s.lmRows slot e x0 (x1 + 1) n h with
      | .error b => .error b
      | .ok rs => .ok (r :: rs)

/-- What the read of `h` rows of an LM tensor does to the error state (R254, R387). -/
def State.noteRows (s : State) (slot : Nat) (e : BitVec 512) (x0 x1 n h : Nat) : State :=
  (List.range h).foldl (fun t k =>
    let b0 := hElemBit e ⟨x0, x1 + k, 0, 0⟩
    match t.lmRange slot (coreOf slot) (hBase e + b0 / 8) ((b0 % 8 + n * hBits e + 7) / 8) with
    | .ok ps => (t.readPieces (coreOf slot) ps).s
    | .error _ => t) s
/-- A read of local memory with what it does to the error state; a read that fails before it reaches the words does nothing. -/
def State.noting {α : Type} (s : State) (note : State → State) (rd : State → Except (TrapCode × Nat) α) : State × Except (TrapCode × Nat) α :=
  match rd s with
  | .ok _ => (note s, rd (note s))
  | .error b => (if b.1 = .dataPoison then note s else s, .error b)

/-- The bytes of an LM tensor between two bit offsets lie inside LIMIT and inside held groups; the bank groups they touch (R198). -/
def State.lmExtent (s : State) (slot : Nat) (e : BitVec 512) (lo hi : Nat) : Except (TrapCode × Nat) (List Nat) :=
  let b0 := hBase e + lo / 8
  let b1 := hBase e + (hi + 7) / 8
  if (hi + 7) / 8 > hLimit e then .error (.handleBounds, 4)
  else
    let gs := (List.range ((b1 - 1) / 2 ^ 19 - b0 / 2 ^ 19 + 1)).map (fun k => b0 / 2 ^ 19 + k)
    if gs.all (fun g => (s.lmPhys slot (coreOf slot) (g * 2 ^ 19)).isSome) then .ok gs else .error (.handleBounds, 5)
/-- Coordinates of a rectangle inside the tensor (R68). -/
def rectBounds (e : BitVec 512) (x0 x1 : Int) (w h : Nat) : Option (TrapCode × Nat) :=
  if x0 < 0 then some (.handleBounds, 0)
  else if x1 < 0 then some (.handleBounds, 1)
  else (hCoordBad e ⟨x0.toNat + w - 1, x1.toNat + h - 1, 0, 0⟩).map (fun d => (.handleBounds, d))

/-- Entry, kind (LM, strided, element format) and permission of an H-form operand (R404). -/
def lmTensorBad (e : BitVec 512) (x : Fmt) (rd wr : Bool) : Option (TrapCode × Nat) :=
  match hCheck e (hSpace e == 0 && hLayout e == 0 && hType e == some x) rd wr with
  | some (.trap c sub) => some (c, sub)
  | _ => none
/-- All checks of a rectangle of an H-form operand. -/
def State.rectBad (s : State) (slot : Nat) (e : BitVec 512) (x : Fmt) (rd wr : Bool) (x0 x1 w h : Nat) : Option (TrapCode × Nat) :=
  match lmTensorBad e x rd wr with
  | some b => some b
  | none => match rectBounds e x0 x1 w h with
    | some b => some b
    | none => match hPackedBad e x0 with
      | some (.trap c sub) => some (c, sub)
      | _ =>
        let lo := hElemBit e ⟨x0, x1, 0, 0⟩
        match s.lmExtent slot e lo (hElemBit e ⟨x0 + w - 1, x1 + h - 1, 0, 0⟩ + hBits e) with
        | .error b => some b
        | .ok _ => none

/-! ### Planes (R202, R205, R206) -/

/-- Scale entries that an operation may take: pushed before it issued. -/
def Core.scalesFor (c : Core) (o : MatOp) : Nat := (c.scales.filter (fun x => x.1 < o.scaleSeq)).length
/-- Rows that a sparse column's kept weights take: the first n set bits. -/
def setBits (m : BitVec 64) : List Nat := (List.range 64).filter (fun k => m.getLsbD k)
/-- Masks of 64 columns from 512 bytes. -/
def masksOf (bs : List Byte) : List (BitVec 64) := (List.range 64).map (fun j => BitVec.ofNat 64 (leNat ((bs.drop (8 * j)).take 8)))
/-- Elements of a dense plane: row k, column j at key 64k + j. -/
def denseEls (f : Fmt) (rows : List (List Nat)) : Tab (BitVec 32) :=
  rows.zipIdx.flatMap (fun r => r.1.zipIdx.filterMap (fun c =>
    let v := BitVec.ofNat 32 (memToReg f c.1)
    if v = 0 then none else some (64 * r.2 + c.2, v)))
/-- Elements of a sparse plane: the m-th kept weight of column j stands in the row of the m-th set bit. -/
def sparseEls (f : Fmt) (masks : List (BitVec 64)) (rows : List (List Nat)) : Tab (BitVec 32) :=
  let cells := masks.zipIdx.flatMap (fun m => (setBits m.1).zipIdx.filterMap (fun k =>
    match rows[k.2]? with
    | some r => some (64 * k.1 + m.2, BitVec.ofNat 32 (memToReg f ((r[m.2]?).getD 0)))
    | none => none))
  cells.foldl (fun t c => tabSet t 0 c.1 c.2) []

/-- The error state after the read of a plane's elements. -/
def State.notePlane (slot : Nat) (e : BitVec 512) (x0 x1 : Int) (mode : BitVec 64) (s : State) : State :=
  let n := if isCpx ((mFB mode).getD .e4m3) then 32 else 64
  s.noteRows slot e x0.toNat x1.toNat n (if mSparse mode then 32 else n)
/-- Load a plane from (x0, x1) of an LM tensor under a mode word and column masks: the checks, then the plane and the core without
the scale entry it took. Of a mask limit and a scale entry that both fail, the mask limit is tested first, and both after the handle and
its bounds (log 37, DEDUCED). -/
def State.loadPlane (s : State) (slot : Nat) (e : BitVec 512) (x0 x1 : Int) (mode : BitVec 64) (masks : List (BitVec 64)) (o : MatOp) :
    Except (TrapCode × Nat) (Plane × Core) :=
  let f := (mFB mode).getD .e4m3
  let n := if isCpx f then 32 else 64
  let h := if mSparse mode then 32 else n
  let c := s.core (coreOf slot)
  if x0 < 0 then .error (.handleBounds, 0)
  else if x1 < 0 then .error (.handleBounds, 1)
  else match s.rectBad slot e f true false x0.toNat x1.toNat n h with
  | some b => .error b
  | none =>
    if mSparse mode && masks.any (fun m => (setBits m).length > 32) then .error (.sparsityMeta, 0)
    else if mBmx mode && c.scalesFor o = 0 then .error (.scaleQueueEmpty, 0)
    else match s.lmRows slot e x0.toNat x1.toNat n h with
    | .error b => .error b
    | .ok rows =>
      let els := if mSparse mode then sparseEls f masks rows else denseEls f rows
      let sc := if mBmx mode then (c.scales.head?).map (·.2) else none
      .ok ({ cls := planeClass f, fmt := f, el := els, scales := sc, rows := if mSparse mode then some masks else none },
           if mBmx mode then { c with scales := c.scales.tail } else c)

/-! ### The index space of a nest (R196, R198) -/

def NestCfg.counts (g : NestCfg) : List Nat := g.levels.map (fun l => l.cntm1.toNat + 1)
def NestCfg.total (g : NestCfg) : Nat := g.counts.foldl (· * ·) 1
/-- Mixed-radix digits of a number, least significant first. -/
def digitsOf : List Nat → Nat → List Nat
  | [], _ => []
  | [_], n => [n]
  | c :: r, n => n % c :: digitsOf r (n / c)
/-- Σ of index times stride over the levels from `lo`. -/
def affine (strides : List Int) (idx : List Nat) : Int := (strides.zip idx).foldl (fun (a : Int) x => a + x.1 * (x.2 : Int)) 0
def int32 (x : BitVec 32) : Int := x.toInt
def NestCfg.as0 (g : NestCfg) : List Int := g.levels.map (fun l => int32 l.as0)
def NestCfg.as1 (g : NestCfg) : List Int := g.levels.map (fun l => int32 l.as1)
def NestCfg.bs0 (g : NestCfg) : List Int := g.levels.map (fun l => int32 l.bs0)
def NestCfg.bs1 (g : NestCfg) : List Int := g.levels.map (fun l => int32 l.bs1)
/-- Zero the strides of levels below `sw` (R204). -/
def dropBelow (sw : Nat) (l : List Int) : List Int := l.zipIdx.map (fun x => if x.2 < sw then 0 else x.1)
/-- The least and greatest value of an affine function over the index space: its extreme corners. -/
def spanOf (base : Int) (strides : List Int) (counts : List Nat) : Int × Int :=
  (strides.zip counts).foldl (fun a x =>
    let d := x.1 * ((x.2 - 1 : Nat) : Int)
    (a.1 + min 0 d, a.2 + max 0 d)) (base, base)
/-- All rectangles (w × h) of a tensor over the index space: coordinates in bounds, bytes in LIMIT; the bank groups. -/
def State.spanCheck (s : State) (slot : Nat) (e : BitVec 512) (b0 b1 : Int) (s0 s1 : List Int) (counts : List Nat) (w h : Nat) :
    Except (TrapCode × Nat) (List Nat) :=
  let r0 := spanOf b0 s0 counts
  let r1 := spanOf b1 s1 counts
  if r0.1 < 0 then .error (.handleBounds, 0)
  else if r1.1 < 0 then .error (.handleBounds, 1)
  else match hCoordBad e ⟨r0.2.toNat + w - 1, r1.2.toNat + h - 1, 0, 0⟩ with
  | some d => .error (.handleBounds, d)
  | none =>
    let bits : Int := hBits e
    let row : Int := 8 * hStride e 1
    let r := spanOf (b0 * bits + b1 * row) ((s0.zip s1).map (fun x => x.1 * bits + x.2 * row)) counts
    s.lmExtent slot e r.1.toNat (r.2 + (w - 1 : Nat) * bits + (h - 1 : Nat) * row + bits).toNat
/-- The extreme corners of the index space. -/
def cornersOf : List Nat → List (List Nat)
  | [] => [[]]
  | c :: r => (cornersOf r).flatMap (fun t => if c ≤ 1 then [0 :: t] else [0 :: t, (c - 1) :: t])
/-- The scale coordinates of A (R69), (x0 div 32, x1), from the extreme corners of the index space (R198): the division is monotone, so each
coordinate and the byte offset take their least and greatest values there. -/
def State.scaleCheck (s : State) (slot : Nat) (e : BitVec 512) (g : NestCfg) (w h : Nat) : Except (TrapCode × Nat) (List Nat) :=
  let at_ := (cornersOf g.counts).map (fun i => ((g.ax0.toNat + affine g.as0 i).toNat, (g.ax1.toNat + affine g.as1 i).toNat))
  let top (l : List Nat) : Nat := l.foldl max 0
  let last (x : Nat × Nat) : Coord := ⟨(x.1 + w - 1) / 32, x.2 + h - 1, 0, 0⟩
  match hCoordBad e ⟨top (at_.map (fun x => (last x).x0)), top (at_.map (fun x => (last x).x1)), 0, 0⟩ with
  | some d => .error (.handleBounds, d)
  | none =>
    let hi := top (at_.map (fun x => hElemBit e (last x) + 8))
    s.lmExtent slot e (at_.foldl (fun m x => min m (hElemBit e ⟨x.1 / 32, x.2, 0, 0⟩)) hi) hi

/-- Does A carry block scales (R196). -/
def scaledA (g : NestCfg) : Bool := hScaled g.ahE && (match mFA g.mode with
  | some f => Fmt.mxe.contains f
  | none => false)
def oneGroup (gs : List Nat) : Bool := match gs with
  | [] => true
  | x :: r => r.all (· == x)

/-- The planes of an AUTOW nest. -/
def NestCfg.planeCount (g : NestCfg) : Nat := ((g.counts.drop (mSw g.mode))).foldl (· * ·) 1
/-- The first handle check of a list that fails. -/
def firstBad (l : List (Option (TrapCode × Nat))) : Option (TrapCode × Nat) := l.findSome? id
def trapOf (b : Option Bad) : Option (TrapCode × Nat) := match b with
  | some (.trap c sub) => some (c, sub)
  | _ => none
/-- Entry and permission of a handle that is read: the first row of R198. -/
def entryBad (e : BitVec 512) : Option (TrapCode × Nat) := trapOf (hCheck e true true false)
/-- A's scale tensor: entry, kind, then permission (R69, R404). -/
def sclBad (e : BitVec 512) : Option (TrapCode × Nat) :=
  trapOf (hCheck e (hSpace e == 0 && hLayout e == 0 && hType e == some .e8m0) true false)
/-- The packed starts of all passes (R68): the first and every stride in use lie on the format's step. -/
def packedStarts (e : BitVec 512) (b0 : Nat) (s0 : List Int) (counts : List Nat) : Option (TrapCode × Nat) :=
  firstBad ((trapOf (hPackedBad e b0)) :: (s0.zip counts).map (fun x => if x.2 ≤ 1 then none else trapOf (hPackedBad e (x.1 % 4).toNat)))
def kindBad (e : BitVec 512) (x : Fmt) : Option (TrapCode × Nat) :=
  if hSpace e == 0 && hLayout e == 0 && hType e == some x then none else some (.layoutMismatch, 0)

/-- The bank groups of A and of B with the metadata, with every bounds check (R198). `scl` is the entry of A's scale tensor. -/
def State.nestGroups (s : State) (slot : Nat) (g : NestCfg) (scl : BitVec 512) : Except (TrapCode × Nat) (List Nat × List Nat) :=
  let m := g.mode
  let fb := (mFB m).getD .e4m3
  let n := if isCpx fb then 32 else 64
  let sw := mSw m
  let cs := g.counts
  match s.spanCheck slot g.ahE g.ax0.toNat g.ax1.toNat g.as0 g.as1 cs (mKE m) (mRA m) with
  | .error b => .error b
  | .ok ga =>
    match (if scaledA g then s.scaleCheck slot scl g (mKE m) (mRA m) else .ok []) with
    | .error b => .error b
    | .ok gs =>
      if !(mAutow m) then .ok (ga ++ gs, [])
      else match s.spanCheck slot g.bhE g.bx0.toNat g.bx1.toNat (dropBelow sw g.bs0) (dropBelow sw g.bs1) cs n (if mSparse m then 32 else n) with
      | .error b => .error b
      | .ok gb => match packedStarts g.bhE g.bx0.toNat (dropBelow sw g.bs0) cs with
      | some b => .error b
      | none =>
        if !(mSparse m) then .ok (ga ++ gs, gb)
        else match rectBounds g.mhE 0 g.mx1.toNat 64 g.planeCount with
        | some b => .error b
        | none => match s.lmExtent slot g.mhE (hElemBit g.mhE ⟨0, g.mx1.toNat, 0, 0⟩)
            (hElemBit g.mhE ⟨63, g.mx1.toNat + g.planeCount - 1, 0, 0⟩ + 64) with
          | .error b => .error b
          | .ok gm => .ok (ga ++ gs, gb ++ gm)

/-- The first checks of R198: entries and permissions, kinds, the active plane's class, and A's coordinates, which
start where a packed format wants it (R68; log 12, DEDUCED). -/
def State.nestBadFirst (s : State) (o : MatOp) : Option (TrapCode × Nat) :=
  let g := o.cfg
  let m := g.mode
  let fa := (mFA m).getD .e4m3
  let fb := (mFB m).getD .e4m3
  let au := mAutow m
  let sp := au && mSparse m
  let act := (s.core (coreOf o.slot)).active.cls
  firstBad [entryBad g.ahE, if au then entryBad g.bhE else none, if sp then entryBad g.mhE else none,
    kindBad g.ahE fa, if au then kindBad g.bhE fb else none, if sp then kindBad g.mhE .uint64 else none,
    if !au && act != .none && act != planeClass fb then some (.layoutMismatch, 0) else none,
    match s.spanCheck o.slot g.ahE g.ax0.toNat g.ax1.toNat g.as0 g.as1 g.counts (mKE m) (mRA m) with
    | .error b => some b
    | .ok _ => packedStarts g.ahE g.ax0.toNat g.as0 g.counts]
/-- The checks of a nest in the order of R198; `scl` is the entry of A's scale tensor, which is read and checked where the nest's scale
coordinates are (R69). -/
def State.nestBad (s : State) (o : MatOp) (scl : BitVec 512) : Option (TrapCode × Nat) :=
  let g := o.cfg
  let m := g.mode
  let c := s.core (coreOf o.slot)
  let fa := (mFA m).getD .e4m3
  let au := mAutow m
  match firstBad [s.nestBadFirst o, if scaledA g then sclBad scl else none] with
  | some b => some b
  | none => match s.nestGroups o.slot g scl with
    | .error b => some b
    | .ok (ga, gb) =>
      if !(oneGroup ga) || (au && (!(oneGroup gb) || (match ga, gb with | a :: _, b :: _ => a == b | _, _ => false))) then some (.bankConflict, 0)
      else match c.mstat.shape with
      | none => some (.subarrayFenced, 0)
      | some (r, cc, _) =>
        let half := if isCpx fa then 2 else 1
        if c.mstat.fmode != 0 && (mKE m > r / half || mCE m > cc / half) then some (.shapeInvalid, 0)
        else if au && mBmx m && c.scalesFor o < g.planeCount then some (.scaleQueueEmpty, 0)
        else none

/-! ### Issue from C (R190, R194, R200, R201) -/

/-- The matrix unit of the acting strand's core. -/
def State.myMat (s : State) : Core := s.core s.myCore
/-- A low or high word of a stride or coordinate pair; kind 0 gives zeros. -/
def pairLo (w : Word) : BitVec 32 := w.extractLsb' 0 32
def pairHi (w : Word) : BitVec 32 := w.extractLsb' 32 32

/-- MLEV: one level entry. -/
def mlevBody (f : Fields) (e : QEntry) (s : State) : QRes :=
  let l : Level := { cntm1 := BitVec.ofNat 20 (e.a.toNat - 1), as0 := pairLo e.b, as1 := pairHi e.b, bs0 := pairLo e.c, bs1 := pairHi e.c
                     zs := e.e.extractLsb' 0 2 }
  .done (s.modCore s.myCore (fun c => { c with cfg := c.cfg.setLvl f.sub.toNat l })) [] 0
def execMlev (f : Fields) (s : State) : Out := runQueue (.mlev f) f .none (mlevBody f) s
/-- MBASE: the base of A, B, the metadata or z, with the handle entry sampled at decode. -/
def mbaseBody (f : Fields) (e : QEntry) (s : State) : QRes :=
  let h : BitVec 10 := BitVec.ofNat 10 (handleNum f.a)
  let x := e.entry f.a
  .done (s.modCore s.myCore (fun c => { c with cfg := match f.sub.toNat with
    | 0 => { c.cfg with ah := h, ahE := x, ax0 := pairLo e.b, ax1 := pairHi e.b }
    | 1 => { c.cfg with bh := h, bhE := x, bx0 := pairLo e.b, bx1 := pairHi e.b }
    | 2 => { c.cfg with mh := h, mhE := x, mx1 := pairHi e.b }
    | _ => { c.cfg with zt := e.a.extractLsb' 0 2 } })) [] 0
def execMbase (f : Fields) (s : State) : Out := runQueue (.mbase f) f .none (mbaseBody f) s
/-- MMODE: the mode word, after the check of R195. -/
def mmodeBody (e : QEntry) (s : State) : QRes :=
  if modeOk e.a then .done (s.modCore s.myCore (fun c => { c with cfg := { c.cfg with mode := e.a } })) [] 0
  else .trap s .illegalOperand 2 0
def execMmode (f : Fields) (s : State) : Out := runQueue (.mmode f) f .none mmodeBody s

/-- A queue-path instruction's pushes wait for its operation's completion (R190). -/
def popsOnly (f : Fields) : Fields := { f with tk := f.tk &&& 0b1100#4 }
/-- Enter the matrix queue, or wait at the head of C while it is full (R190). -/
def enterMatrix (f : Fields) (e : QEntry) (meta_ : List Byte) (s : State) : QRes :=
  let c := s.myMat
  if c.matq.length ≥ 8 then .stay
  else
    let o : MatOp := { instr := e.instr, slot := s.cur, pos := e.pos, ring := c.mring, seq := e.seq, tk := f.tk &&& 0b0011#4, rmode := e.rmode
                       a := e.a, b := e.b, c := e.c, e := e.e, handles := e.handles, dsts := e.dsts, cfg := c.cfg, meta_ := meta_
                       clock := s.actClock, scaleSeq := c.scaleSeq }
    .done (s.setCore s.myCore { c with matq := c.matq ++ [o], mring := (c.mring + 1) % 8 }) [] 0
/-- MPRE: a load of the shadow plane enters the queue. -/
def execMpre (f : Fields) (s : State) : Out := runQueue (.mpre f) (popsOnly f) .none (fun e s => enterMatrix f e [] s) s
/-- MSWAP: an exchange of the planes enters the queue. -/
def execMswap (f : Fields) (s : State) : Out := runQueue (.mswap f) (popsOnly f) .none (fun e s => enterMatrix f e [] s) s
/-- MGO: a nest with the configuration as it stands enters the queue. -/
def execMgo (f : Fields) (s : State) : Out := runQueue (.mgo f) (popsOnly f) .none (fun e s => enterMatrix f e [] s) s
/-- MDRAIN: a conversion of a tile enters the queue. -/
def execMdrain (f : Fields) (s : State) : Out := runQueue (.mdrain f) (popsOnly f) .none (fun e s => enterMatrix f e [] s) s
/-- MZERO: a clearing of tiles enters the queue. -/
def execMzero (f : Fields) (s : State) : Out := runQueue (.mzero f) (popsOnly f) .none (fun e s => enterMatrix f e [] s) s
/-- MACCL: a load of a tile enters the queue. -/
def execMaccl (f : Fields) (s : State) : Out := runQueue (.maccl f) (popsOnly f) .none (fun e s => enterMatrix f e [] s) s
/-- MSPMETA: the metadata, read at issue, enter the queue. -/
def execMspmeta (f : Fields) (s : State) : Out :=
  runQueue (.mspmeta f) (popsOnly f) .none (fun e s =>
    enterMatrix f e ((s.tile s.cur e.a.toNat 1 512).map (BitVec.ofNat 8)) s) s
/-- MTEST.now: a self-test enters the queue. -/
def execMtestNow (f : Fields) (s : State) : Out := runQueue (.mtestNow f) (popsOnly f) .none (fun e s => enterMatrix f e [] s) s
/-- MTEST.ivl: a change of the interval enters the queue. -/
def execMtestIvl (f : Fields) (s : State) : Out := runQueue (.mtestIvl f) (popsOnly f) .none (fun e s => enterMatrix f e [] s) s
/-- MFUSE: a choice of shape enters the queue. -/
def execMfuse (f : Fields) (s : State) : Out := runQueue (.mfuse f) (popsOnly f) .none (fun e s => enterMatrix f e [] s) s

/-- MSCALE: one entry of 128 bytes; waits while 64 are held. -/
def mscaleBody (e : QEntry) (s : State) : QRes :=
  let c := s.myMat
  if c.scales.length ≥ 64 then .wait
  else
    let bs := (s.tile s.cur e.a.toNat 1 128).map (BitVec.ofNat 8)
    .done (s.setCore s.myCore { c with scales := c.scales ++ [(c.scaleSeq, bs)], scaleSeq := c.scaleSeq + 1 }) [] 0
def execMscale (f : Fields) (s : State) : Out := runQueue (.mscale f) f .none mscaleBody s
/-- MWAIT: until every earlier operation of the strand has left the matrix queue. -/
def mwaitBody (e : QEntry) (s : State) : QRes :=
  if s.myMat.matq.any (fun o => o.slot == s.cur && o.seq < e.seq) then .stay else .done s [] 0
def execMwait (f : Fields) (s : State) : Out := runQueue (.mwait f) f .none mwaitBody s

/-- The status record (R201). -/
def Core.mstatWord (c : Core) : BitVec 512 :=
  let m := c.mstat
  let running := c.matq.any (fun o => o.running)
  let put (w : BitVec 512) (x : Nat × Nat × Nat) : BitVec 512 := setFld w x.1 x.2.1 x.2.2
  let fixed : List (Nat × Nat × Nat) :=
    [(0, 2, if running then 1 else m.state.toNat), (2, 1, if m.susp then 1 else 0), (3, 1, if m.tstok then 1 else 0),
     (4, 4, c.matq.length), (8, 7, c.scales.length), (16, 4, m.fenced.toNat),
     (20, 3, match m.shape with | some x => x.2.2 | none => 4), (23, 3, m.fmode.toNat), (32, 64, m.passes.toNat),
     (288, 32, m.suspn.toNat), (320, 6, m.flags.toNat), (352, 32, m.nslt.toNat), (384, 32, m.ivl.toNat), (416, 21, m.rlen.toNat),
     (437, 21, m.rpos.toNat), (458, 1, if m.prh then 1 else 0), (459, 1, if m.pch then 1 else 0), (460, 1, if m.split then 1 else 0)]
  let idx := m.idx.zipIdx.map (fun x => (96 + 32 * x.2, 32, x.1.toNat))
  (fixed ++ idx).foldl put 0
/-- MSTAT: the status record to bytes 0 to 63 of D. -/
def mstatBody (e : QEntry) (s : State) : QRes :=
  .done (s.writeTile s.myCore (dstV e 0) 1 ((leBytes 64 s.myMat.mstatWord.toNat).map (fun b => some b.toNat))) [] 0
def execMstat (f : Fields) (s : State) : Out := runQueue (.mstat f) f .none (mstatBody) s

end Sys2Proof.Machine
end

