-- ==== Sys2Proof/Machine/MatrixEvents.lean ====
section
/-! DEFINITION. What the matrix array does on its own (R190, R196 to R200, R203 to R215): starts, nests pass by pass, plane loads,
drains, self-tests, and the ends of its operations. -/

namespace Sys2Proof.Machine

/-! ### Accumulator tiles (R48, R207 to R209) -/

/-- The `n` entries of a table from key `lo`, where only the default is left out. -/
def denseFrom (t : Tab (BitVec 56)) (lo : Nat) : Nat → List Nat
  | 0 => []
  | n + 1 => match t with
    | [] => 0 :: denseFrom [] (lo + 1) n
    | (k, v) :: r => if k = lo then v.toNat :: denseFrom r (lo + 1) n else 0 :: denseFrom ((k, v) :: r) (lo + 1) n
/-- The 4,096 cells of a tile, row by row. -/
def Core.cells (c : Core) (t : Nat) : List Nat := denseFrom (c.z.filter (fun x => 4096 * t ≤ x.1 && x.1 < 4096 * t + 4096)) (4096 * t) 4096
/-- Replace a tile. -/
def Core.putCells (c : Core) (t : Nat) (vs : List Nat) : Core :=
  { c with z := c.z.filter (fun x => x.1 < 4096 * t) ++
      vs.zipIdx.filterMap (fun v => if v.1 = 0 then none else some (4096 * t + v.2, BitVec.ofNat 56 v.1)) ++
      c.z.filter (fun x => 4096 * t + 4096 ≤ x.1) }
/-- Rows of `n`. -/
def chunks (n : Nat) : Nat → List Nat → List (List Nat)
  | 0, _ => []
  | k + 1, l => l.take n :: chunks n k (l.drop n)

/-- An element: its real and imaginary parts. -/
abbrev Cpx := XReal × XReal
def XReal.toInt : XReal → Int
  | .fin neg m e _ => (if neg then -(m : Int) else m) * 2 ^ e.toNat
  | _ => 0
def cpxOf (f : Fmt) (scale : Option Nat) (code : Nat) : Cpx :=
  if isCpx f then (let p := f.parts code; (f.partFmt.value p.1, f.partFmt.value p.2))
  else match scale with
    | some x => (mxValue f x code, XReal.zero false)
    | none => (f.value code, XReal.zero false)

/-- One step of a cell that holds a real sum (R47, R48). -/
def stepCell (iacc : Bool) (acc : Nat) (a w : XReal) : Nat × Flags :=
  if iacc then (let r := accInt (toSigned 56 acc) (a.toInt * w.toInt); (wrapTo 56 r.1, r.2))
  else
    let p := XReal.mul a w
    let r := accFloat acc p
    (r.1, if XReal.newNaN [a, w] p then r.2 ||| flagNV else r.2)
/-- One part of a complex step (R35): `x·y − u·v`, or `x·y + u·v`. R42 does not say whether Invalid is raised where one product is 0 × ∞
and an operand of the other is NaN: the step raises none, a NaN having been among its operands (log 83, DESIGN CHOICE). -/
def stepPart (iacc minus : Bool) (acc : Nat) (x y u v : XReal) : Nat × Flags :=
  if iacc then
    let q := u.toInt * v.toInt
    let r := accInt (toSigned 56 acc) (x.toInt * y.toInt + (if minus then -q else q))
    (wrapTo 56 r.1, r.2)
  else
    let q := XReal.mul u v
    let p := XReal.add false (XReal.mul x y) (if minus then q.negate else q)
    let r := accFloat acc p
    (r.1, if XReal.newNaN [x, y, u, v] p then r.2 ||| flagNV else r.2)
/-- The steps of a cell over the rows that carry a term. -/
def runCell (iacc : Bool) (acc : Nat) (terms : List (Cpx × Option Cpx)) : Nat × Flags :=
  terms.foldl (fun r t => match t.2 with
    | none => r
    | some w => (let q := stepCell iacc r.1 t.1.1 w.1; (q.1, r.2 ||| q.2))) (acc, 0)
def runPart (iacc im : Bool) (acc : Nat) (terms : List (Cpx × Option Cpx)) : Nat × Flags :=
  terms.foldl (fun r t => match t.2 with
    | none => r
    | some w =>
      let q := if im then stepPart iacc false r.1 t.1.1 w.2 t.1.2 w.1 else stepPart iacc true r.1 t.1.1 w.1 t.1.2 w.2
      (q.1, r.2 ||| q.2)) (acc, 0)

/-- The row a plane's column gives for row k: none where the row carries no term (R206). -/
def Plane.weight (p : Plane) (fb : Fmt) (dense : List Nat) (k j : Nat) : Option Cpx :=
  let live := match p.rows with
    | some ms => (ms[j]?.getD 0).getLsbD k
    | none => true
  let f := if p.cls == .none then fb else p.fmt
  let sc := p.scales.map (fun bs => (bs[2 * j + k / 32]?.getD 0).toNat)
  if live then some (cpxOf f sc (dense[j]?.getD 0)) else none

/-! ### Configuration of the running operation -/

/-- The handle entry of A's scales, kept with the operation once its nest has started. -/
def sclKey : Nat := 1024
def MatOp.scl (o : MatOp) : BitVec 512 := tabGet o.handles 0 sclKey
def NestCfg.fa (g : NestCfg) : Fmt := (mFA g.mode).getD .e4m3
def NestCfg.fb (g : NestCfg) : Fmt := (mFB g.mode).getD .e4m3
/-- Halves of the reduction and of the columns under the shape in use (R197): how many, and how wide. -/
def halvesOf (g : NestCfg) (m : MatStat) : (Nat × Nat) × Nat × Nat :=
  let d := if isCpx g.fa then 2 else 1
  match m.shape with
  | none => ((1, mKE g.mode), 1, mCE g.mode)
  | some (r, c, _) =>
    let half := 32 / d
    (if mKE g.mode > r / d then (2, half) else (1, mKE g.mode), if mCE g.mode > c / d then (2, half) else (1, mCE g.mode))
/-- Passes of a run (R197). -/
def runLen (g : NestCfg) : Nat := if mAutow g.mode && mSw g.mode == 0 then 1 else g.counts.headD 1

/-- A part: its pass, its row half, its column half. -/
structure Part where
  pass : Nat
  rh : Nat
  ch : Nat
  /-- the pass is split -/
  split : Bool
  /-- index within the run -/
  pos : Nat
  /-- the part ends its pass, or its run where split -/
  last : Bool
  deriving DecidableEq, Repr
/-- The part that comes next, in the order of R197. -/
def nextPart (o : MatOp) (m : MatStat) : Part :=
  let h := halvesOf o.cfg m
  let nr := h.1.1
  let nc := h.2.1
  let rl := runLen o.cfg
  if nr * nc = 1 then { pass := o.passes, rh := 0, ch := 0, split := false, pos := 0, last := true }
  else { pass := o.passes + o.unit % rl, rh := o.unit / (nc * rl), ch := o.unit / rl % nc, split := true, pos := o.unit % rl
         last := o.unit + 1 == nr * nc * rl }

/-! ### Reads of A, of its scales and of planes -/

/-- A's row i: its elements k0 to k0 + n − 1 with their scales (R196, R69). -/
def State.rowA (s : State) (o : MatOp) (x0 x1 k0 n : Nat) : Except (TrapCode × Nat) (List Cpx) :=
  let g := o.cfg
  match s.lmRow o.slot g.ahE (x0 + k0) x1 n with
  | .error b => .error b
  | .ok cs =>
    if !(scaledA g) then .ok (cs.map (fun c => cpxOf g.fa none (memToReg g.fa c)))
    else
      let b0 := (x0 + k0) / 32
      match s.lmRow o.slot o.scl b0 x1 ((x0 + k0 + n - 1) / 32 - b0 + 1) with
      | .error b => .error b
      | .ok sc => .ok (cs.zipIdx.map (fun c => cpxOf g.fa (some (sc[(x0 + k0 + c.2) / 32 - b0]?.getD 0)) (memToReg g.fa c.1)))
def State.rowsA (s : State) (o : MatOp) (x0 x1 k0 n : Nat) : Nat → Except (TrapCode × Nat) (List (List Cpx))
  | 0 => .ok []
  | h + 1 => match s.rowA o x0 x1 k0 n with
    | .error b => .error b
    | .ok r => match s.rowsA o x0 (x1 + 1) k0 n h with
      | .error b => .error b
      | .ok rs => .ok (r :: rs)

/-- The column masks of plane p of a sparse AUTOW nest (R206). -/
def State.nestMasks (s : State) (o : MatOp) (p : Nat) : Except (TrapCode × Nat) (List (BitVec 64)) :=
  if mSparse o.cfg.mode then
    match s.lmRow o.slot o.cfg.mhE 0 (o.cfg.mx1.toNat + p) 64 with
    | .error b => .error b
    | .ok ms => .ok (ms.map (BitVec.ofNat 64))
  else .ok []
/-- MSWAP, and a nest's swap: the planes change places, their scale vectors, classes and metadata with them (R202, R405). -/
def Core.swapPlanes (c : Core) : Core := { c with active := c.shadow, shadow := c.active, meta_ := c.activeMeta, activeMeta := c.meta_ }
/-- The place of plane p of an AUTOW nest in its B tensor. -/
def NestCfg.planeX (g : NestCfg) (p : Nat) : Int × Int :=
  let d := digitsOf (g.counts.drop (mSw g.mode)) p
  (g.bx0.toNat + affine (g.bs0.drop (mSw g.mode)) d, g.bx1.toNat + affine (g.bs1.drop (mSw g.mode)) d)
/-- Load plane p of an AUTOW nest into the shadow (R204). The masks that it reads from MH stand in the plane's rows; R206 does not say that they
become the shadow metadata, and `meta_` keeps what MSPMETA put there (log 86, DESIGN CHOICE). -/
def State.nestPlane (s : State) (o : MatOp) (p : Nat) : Except (TrapCode × Nat) Core :=
  let g := o.cfg
  let x := g.planeX p
  match s.nestMasks o p with
  | .error b => .error b
  | .ok ms => match s.loadPlane o.slot g.bhE x.1 x.2 g.mode ms o with
    | .error b => .error b
    | .ok (pl, c) => .ok { c with shadow := pl }

/-- Its load, with what the read does to the error state (R254). -/
def State.takePlane (s : State) (o : MatOp) (p : Nat) : State × Except (TrapCode × Nat) Core :=
  let g := o.cfg
  s.noting (fun t => (if mSparse g.mode then t.noteRows o.slot g.mhE 0 (g.mx1.toNat + p) 64 1 else t).notePlane o.slot g.bhE (g.planeX p).1 (g.planeX p).2 g.mode)
    (fun t => t.nestPlane o p)
/-- The rows of A that a part reads, and their scales, with what the read does to the error state. -/
def State.takeRows (s : State) (o : MatOp) (x0 x1 k0 n h : Nat) : State × Except (TrapCode × Nat) (List (List Cpx)) :=
  let g := o.cfg
  let b0 := (x0 + k0) / 32
  s.noting (fun t =>
    let t1 := t.noteRows o.slot g.ahE (x0 + k0) x1 n h
    if scaledA g then t1.noteRows o.slot o.scl b0 x1 ((x0 + k0 + n - 1) / 32 - b0 + 1) h else t1) (fun t => t.rowsA o x0 x1 k0 n h)

/-- One part of a pass on the cells (R196, R197): the tile after it, with the flags. -/
def partCells (g : NestCfg) (c : Core) (a : List (List Cpx)) (t k0 kn j0 jn : Nat) : List Nat × Flags :=
  let iacc := mIacc g.mode
  let fb := g.fb
  let plane := chunks 64 64 (((List.range 64).flatMap (fun k => (List.range 64).map (fun j => (64 * k + j))))
    |>.zip (denseFrom (c.active.el.map (fun x => (x.1, x.2.setWidth 56))) 0 4096) |>.map (·.2))
  let col (j : Nat) : List (Option Cpx) := ((plane.drop k0).take kn).zipIdx.map (fun r => c.active.weight fb r.1 (k0 + r.2) j)
  let cols := (List.range jn).map (fun j => col (j0 + j))
  let rows := chunks 64 64 (c.cells t)
  let newRow (i : Nat) (row : List Nat) : List (Nat × Flags) :=
    match a[i]? with
    | none => row.map (fun v => (v, 0))
    | some ar => row.zipIdx.map (fun v =>
        let j := if isCpx g.fa then v.2 / 2 else v.2
        if j < j0 || j0 + jn ≤ j then (v.1, 0)
        else
          let terms := ar.zip (cols[j - j0]?.getD [])
          if isCpx g.fa then runPart iacc (v.2 % 2 == 1) v.1 terms else runCell iacc v.1 terms)
  let out := rows.zipIdx.flatMap (fun r => newRow r.2 r.1)
  (out.map (·.1), out.foldl (fun f v => f ||| v.2) 0)

/-! ### The life of an operation (R190, R200, R214, R215) -/

/-- The head of a core's queue. -/
def Core.headOp (c : Core) : Option MatOp := c.matq.head?
def Core.setHeadOp (c : Core) (o : MatOp) : Core := { c with matq := o :: c.matq.tail }
def isNest (o : MatOp) : Bool := match o.instr with
  | .mgo _ => true
  | _ => false

/-- A self-test is due (R212, R213). -/
def State.testDue (s : State) (c : Core) : Bool :=
  c.mstat.fenced != 15 &&
  (c.mstat.nslt.toNat ≥ (if c.mstat.ivl = 0 then 4096 else c.mstat.ivl.toNat) || s.time ≥ c.mstat.testedAt + 1000000)

/-- The operations of a strand in the matrix queue. -/
def State.opsOf (s : State) (core slot : Nat) : List MatOp := (s.core core).matq.filter (fun x => x.slot == slot)
/-- The strand's unissued work is being discarded: its engines only finish what they have (R313, R315). -/
def Strand.draining (t : Strand) : Bool := t.diverting.isSome || t.killing
/-- The head may begin: it is not running, no test is due, and its strand performs work. A nest that a trap stopped is an operation that
has not ended, so a test that is due waits for it (R212). -/
def State.opMayStart (s : State) (core : Nat) (c : Core) (o : MatOp) : Bool :=
  let t := s.strand o.slot
  !o.running && (o.started || !(s.testDue c)) && (mayIssue s.cycle t || (o.loaded && t.draining)) && c.matStop != some o.slot && coreOf o.slot == core

/-- A trap of the operation at the head, which stays there (R190, R260); in a drain it leaves, as every operation does that is not running
(R214, R317). -/
def State.matrixTrap (s : State) (core : Nat) (o : MatOp) (b : TrapCode × Nat) : State :=
  let s1 := s.modCore core (fun c =>
    if (s.strand o.slot).draining then { c with matq := c.matq.tail } else { c.setHeadOp { o with running := false } with matStop := some o.slot })
  let behind := ((s.opsOf core o.slot).length - 1)
  s1.raiseTrap o.slot { code := b.1, eng := 3, subc := b.2, behind := behind, pos := o.pos, qent := o.ring }

/-- MATRIX_OP_START (R190): an operation that is no nest begins. -/
def matrixOpStart? (core : Nat) (s : State) : Option State :=
  let c := s.core core
  match c.headOp with
  | none => none
  | some o => if !(isNest o) && s.opMayStart core c o then some (s.setCore core (c.setHeadOp { o with running := true })) else none
/-- An event of a core; one whose conditions do not hold does not happen. -/
def whenCore (core : Nat) (s : State) (r : Option State) : Out := if core ≥ 64 then .fault .badArgument else .next (r.getD s)
def execMatrixOpStart (core : Nat) (s : State) : Out := whenCore core s (matrixOpStart? core s)

/-- NEST_START (R198): the checks, before the first pass; a nest that a trap stopped goes on where it stopped. A nest that fails its checks
leaves STATE and the counters of MSTAT as the nest before it left them (log 37, DEDUCED). -/
def nestStart? (core : Nat) (s : State) : Option State :=
  let c := s.core core
  match c.headOp with
  | none => none
  | some o =>
    if !(isNest o && s.opMayStart core c o) then none
    else if o.started then some (s.setCore core (c.setHeadOp { o with running := true }))
    else
      match s.nestBadFirst o with
      | some b => some (s.matrixTrap core o b)
      | none =>
      let sclR : Except Bad (State × BitVec 512) := if scaledA o.cfg then s.readHandle o.slot (hSclh o.cfg.ahE) else .ok (s, 0)
      match sclR with
      | .error (.trap x sub) => some (s.matrixTrap core o (x, sub))
      | .error (.held _ x _ a) => some (s.matrixTrap core o (x, a))
      | .error .moving => none
      | .ok (s1, scl) =>
        match s1.nestBad o scl with
        | some b => some (s1.matrixTrap core o b)
        | none => some (s1.modCore core (fun k => { k.setHeadOp { o with running := true, started := true, handles := tabPut o.handles sclKey scl } with
            mstat := { k.mstat with susp := false } }))
def execNestStart (core : Nat) (s : State) : Out := whenCore core s (nestStart? core s)

/-- The counters of the nest that completed or stopped (R201). -/
def MatStat.counted (m : MatStat) (o : MatOp) (st : BitVec 2) : MatStat :=
  { m with state := st, passes := BitVec.ofNat 64 o.passes, idx := (digitsOf o.cfg.counts o.passes).map (BitVec.ofNat 32)
           split := false, rlen := 0, rpos := 0, prh := false, pch := false }

/-- A nest stops by a trap of its pass or plane load (R199): its flags merge, MSTAT names the failing part of a split run. -/
def State.nestTrap (s : State) (core : Nat) (o : MatOp) (pt : Part) (inRun : Bool) (b : TrapCode × Nat) : State :=
  let s1 := s.modCore core (fun c =>
    let m := c.mstat.counted o 3
    { c with mstat := if pt.split && inRun then { m with
        split := true, rlen := BitVec.ofNat 21 (runLen o.cfg), rpos := BitVec.ofNat 21 pt.pos, prh := pt.rh == 1, pch := pt.ch == 1 } else m })
  let s2 := s1.modStrand o.slot (fun t => t.mergeFlags o.flags)
  s2.matrixTrap core { o with flags := 0, told := o.told ||| o.flags } b

/-- A diversion stops the nest at the end of its pass or run, the last one among them (R214); DLST records it (R314). -/
def State.nestDiverted (s : State) (core : Nat) (o : MatOp) : State :=
  let s1 := s.modCore core (fun c => { c with matq := c.matq.tail, mstat := c.mstat.counted o 2 })
  s1.modStrand o.slot (fun t => { t.mergeFlags o.flags with dlstAcc := t.dlstAcc ||| 0x80 })

/-- The nest after a part. -/
def MatOp.afterPart (o : MatOp) (pt : Part) (fl : Flags) : MatOp :=
  let o1 := { o with flags := o.flags ||| fl }
  let o2 := if !pt.split then { o1 with passes := o.passes + 1 }
    else if pt.last then { o1 with passes := o.passes + runLen o.cfg, unit := 0 }
    else { o1 with unit := o.unit + 1 }
  { o2 with finished := o2.passes ≥ o.cfg.total }

/-- The AUTOW plane that the next pass uses: loaded unless it was loaded ahead, and swapped in (R204). -/
def State.planeFor (s : State) (core : Nat) (o : MatOp) (p : Nat) : State × Except (TrapCode × Nat) MatOp :=
  if !(mAutow o.cfg.mode) || p < o.swapped then (s, .ok o)
  else if p < o.planes then (s.modCore core Core.swapPlanes, .ok { o with swapped := p + 1 })
  else match s.takePlane o p with
    | (s1, .error b) => (s1, .error b)
    | (s1, .ok c1) => (s1.setCore core c1.swapPlanes, .ok { o with planes := p + 1, swapped := p + 1 })
/-- While the passes of plane p run, plane p + 1 is loaded into the shadow (R204, step 2); in which of them is timing (free choice, log 2,
DESIGN CHOICE). A load that fails belongs to the first pass that uses the plane (R199). -/
def State.loadAhead (s : State) (core : Nat) (o : MatOp) : State :=
  if mAutow o.cfg.mode && o.planes == o.swapped && o.planes < o.cfg.planeCount && Config.freeBool (s.fv + 49) then
    match s.takePlane o o.planes with
    | (_, .error _) => s
    | (s1, .ok c) => s1.setCore core (c.setHeadOp { o with planes := o.planes + 1 })
  else s

/-- NEST_PASS (R196, R197, R204): the plane where it is due, then one pass or one part of a split run. -/
def nestPass? (core : Nat) (s : State) : Option State :=
  let c := s.core core
  match c.headOp with
  | none => none
  | some o =>
    if !(isNest o && o.running && o.started) || o.finished then none
    else
      let g := o.cfg
      let pt := nextPart o c.mstat
      let p := pt.pass / (g.counts.take (mSw g.mode)).foldl (· * ·) 1
      match s.planeFor core o p with
      | (s1, .error b) => some (s1.nestTrap core o pt false b)
      | (s1, .ok o1) =>
        let h := halvesOf g c.mstat
        let idx := digitsOf g.counts pt.pass
        let k0 := pt.rh * h.1.2
        let kn := min h.1.2 (mKE g.mode - k0)
        let j0 := pt.ch * h.2.2
        let jn := min h.2.2 (mCE g.mode - j0)
        let x0 := (g.ax0.toNat + affine g.as0 idx).toNat
        let x1 := (g.ax1.toNat + affine g.as1 idx).toNat
        let t := (g.zt.toNat + (idx.zip (g.levels.map (fun l => l.zs.toNat))).foldl (fun a x => a + x.1 * x.2) 0) % 4
        match (s1.modCore core (fun k => k.setHeadOp o1)).takeRows o1 x0 x1 k0 kn (mRA g.mode) with
        | (s2, .error b) => some (s2.nestTrap core o1 pt true b)
        | (s2, .ok a) =>
          let c2 := s2.core core
          let r := partCells g c2 a t k0 kn j0 jn
          let o2 := o1.afterPart pt r.2
          let s3 := (s2.setCore core ((c2.putCells t r.1).setHeadOp o2)).loadAhead core o2
          some (if o2.divert && pt.last then s3.nestDiverted core o2 else s3)
def execNestPass (core : Nat) (s : State) : Out := whenCore core s (nestPass? core s)

/-! ### Loads, drains and clears (R202, R203, R207 to R209) -/

/-- Fields of a queue operation's word. -/
def MatOp.flds (o : MatOp) : Fields := (instrFields o.instr).getD {}
/-- A coordinate pair of an operand (R192). -/
def pairX0 (w : Word) : Nat := (pairLo w).toNat
def pairX1 (w : Word) : Nat := (pairHi w).toNat
def handleEntry (o : MatOp) (x : Operand) : BitVec 512 := match x with
  | .h n => tabGet o.handles 0 n.toNat
  | _ => 0
def opFmt (o : MatOp) : Fmt := (fieldFmt o.flds).getD .int8
def tileCols (f : Fmt) : Nat := if isCpx f then 32 else 64

/-- MPRE (R202, R205, R206): load the shadow plane. -/
def mpreWork (core : Nat) (o : MatOp) (s : State) : State × Except (TrapCode × Nat) State :=
  if o.loaded then (s, .ok s)
  else
    let e := handleEntry o o.flds.a
    match s.noting (State.notePlane o.slot e (pairX0 o.b) (pairX1 o.b) o.cfg.mode)
        (fun t => t.loadPlane o.slot e (pairX0 o.b) (pairX1 o.b) o.cfg.mode (masksOf (t.core core).meta_) o) with
    | (s1, .error b) => (s1, .error b)
    | (s1, .ok (p, c1)) => (s1, .ok (s1.setCore core { c1 with shadow := p }))

/-- One output of MDRAIN from cells (R209). -/
def drainVal (asInt : Bool) (sh : Int) (cell : Nat) : XReal :=
  (if asInt then XReal.ofInt (toSigned 56 cell) else a56f.decode cell).scale (-sh)
def drainOut (f : Fmt) (mode : RMode) (asInt : Bool) (sh : Int) (row : List Nat) : List (Nat × Flags) :=
  let v := row.map (fun c => f.partFmt.convert mode true (drainVal asInt sh c))
  if isCpx f then (List.range 32).map (fun j =>
    let re := v[2 * j]?.getD (0, 0)
    let im := v[2 * j + 1]?.getD (0, 0)
    (f.ofParts re.1 im.1, re.2 ||| im.2))
  else row.map (fun c => f.convert mode true (drainVal asInt sh c))

/-- Store a row of `codes` of a strided LM tensor from (x0, x1): bytes that it covers in part keep their other bits (R36, R37). -/
def State.putLmRow (s : State) (slot : Nat) (e : BitVec 512) (x0 x1 : Nat) (codes : List Nat) : State :=
  let bits := hBits e
  let b0 := hElemBit e ⟨x0, x1, 0, 0⟩
  let n := (b0 % 8 + codes.length * bits + 7) / 8
  match s.lmRange slot (coreOf slot) (hBase e + b0 / 8) n with
  | .error _ => s
  | .ok ps =>
    let g := s.readPieces (coreOf slot) ps
    let old := leNat g.bytes
    let v := codes.zipIdx.foldl (fun a c => a + c.1 % 2 ^ bits * 2 ^ (bits * c.2)) 0
    let w := 2 ^ (codes.length * bits)
    let keep := old - old / 2 ^ (b0 % 8) % w * 2 ^ (b0 % 8)
    (if b0 % 8 = 0 && codes.length * bits % 8 = 0 then s else g.s).writePieces (s.strand slot).party false (leBytes n (keep + v * 2 ^ (b0 % 8))) ps

/-- MDRAIN (R209). R193 lets a reader of the vector register find either value from the issue on: the whole register changes here, at the
completion (log 2, DESIGN CHOICE). -/
def mdrainWork (core : Nat) (o : MatOp) (s : State) : Except (TrapCode × Nat) (State × Flags) :=
  let fl := o.flds
  let f := opFmt o
  let c := s.core core
  let t := o.a.toNat % 4
  let clr := fl.sub.getLsbD 0
  let sh := signedOf fl.c o.c
  let rows := (chunks 64 64 (c.cells t)).map (drainOut f (modeOf fl.flags o.rmode) (fl.sub.getLsbD 1) sh)
  let flags := rows.foldl (fun a r => r.foldl (fun a x => a ||| x.2) a) 0
  let clear (k : State) : State := if clr then k.modCore core (fun x => x.putCells t (List.replicate 4096 0)) else k
  match fl.d with
  | .h _ =>
    let e := handleEntry o fl.d
    match s.rectBad o.slot e f false true (pairX0 o.b) (pairX1 o.b) (tileCols f) 64 with
    | some b => .error b
    | none =>
      let s1 := rows.zipIdx.foldl (fun k r => k.putLmRow o.slot e (pairX0 o.b) (pairX1 o.b + r.2) (r.1.map (fun x => regToMem f x.1))) s
      .ok (clear s1, flags)
  | _ =>
    let phys := match o.dsts.head? with
      | some (.v n) => n
      | _ => 0
    .ok (clear (s.putTile core phys f.regBytes (({ s with cur := o.slot } : State).meet phys f.regBytes (rows.flatMap (fun r => r.map (fun x => some x.1))))), flags)

/-- The cells that an element of MACCL writes (R208). -/
def accCells (f : Fmt) (code : Nat) : List Nat :=
  let fl (x : XReal) : Nat := (a56f.round .rne false x).1
  if f = .ci12 then (let p := f.parts code; [wrapTo 56 (toSigned 12 p.1), wrapTo 56 (toSigned 12 p.2)])
  else if isCpx f then (let p := f.parts code; [fl (f.partFmt.value p.1), fl (f.partFmt.value p.2)])
  else if f.isInt then [wrapTo 56 (f.readInt code)]
  else [fl (f.value code)]
/-- MACCL (R208). Its source is read here, whole, at the completion, where R193 lets each element be either value of an instruction that writes
it meanwhile (log 2, DESIGN CHOICE). -/
def macclWork (core : Nat) (o : MatOp) (s : State) : State × Except (TrapCode × Nat) State :=
  let fl := o.flds
  let f := opFmt o
  let put (s : State) (codes : List Nat) : State := s.modCore core (fun c => c.putCells (o.a.toNat % 4) (codes.flatMap (accCells f)))
  match fl.b with
  | .h _ =>
    let e := handleEntry o fl.b
    match s.rectBad o.slot e f true false (pairX0 o.c) (pairX1 o.c) (tileCols f) 64 with
    | some b => (s, .error b)
    | none => match s.noting (fun t => t.noteRows o.slot e (pairX0 o.c) (pairX1 o.c) (tileCols f) 64)
        (fun t => t.lmRows o.slot e (pairX0 o.c) (pairX1 o.c) (tileCols f) 64) with
      | (s1, .error b) => (s1, .error b)
      | (s1, .ok rs) => (s1, .ok (put s1 (rs.flatMap (fun r => r.map (memToReg f)))))
  | _ => (s, .ok (put s (s.tileAt o.slot o.seq o.b.toNat f.regBytes (64 * tileCols f))))

/-! ### Self-test (R212, R213) -/

/-- A test of the core's healthy sub-arrays: those in `failing` are fenced until the next cold reset and recorded (R394). -/
def State.runTest (s : State) (core : Nat) (failing : BitVec 4) : State :=
  let m := (s.core core).mstat
  let bad := failing &&& ~~~m.fenced
  let base := { m with testedAt := s.time, nslt := 0 }
  let m1 := if bad = 0 then { base with tstok := true, nsp := 0 }
    else { base with fenced := m.fenced ||| bad, tstok := false, susp := true, suspn := m.nsp }
  let s1 := s.modCore core (fun c => { c with mstat := m1 })
  ((List.range 4).filter (fun q => bad.getLsbD q)).foldl (fun t q =>
    t.postError { cls := 3, ukind := 8, unit := 4 * core + q, evt := 4, count := m.nsp.toNat }) s1
def isTestNow (o : MatOp) : Bool := match o.instr with
  | .mtestNow _ => true
  | _ => false
/-- SELF_TEST (R212): a test that is due between operations, or the one of an MTEST.now at the head. -/
def selfTest? (core : Nat) (failing : BitVec 4) (s : State) : Option State :=
  let c := s.core core
  match c.headOp with
  | some o =>
    if isTestNow o && o.running && !o.finished then
      some ((s.runTest core failing).modCore core (fun k => k.setHeadOp { o with finished := true }))
    else if s.testDue c && !(c.matq.any (fun x => x.running || x.started)) then some (s.runTest core failing) else none
  | none => if s.testDue c then some (s.runTest core failing) else none
def execSelfTest (core : Nat) (failing : BitVec 4) (s : State) : Out := whenCore core s (selfTest? core failing s)

/-! ### Completion -/

/-- What the running operation does as it completes: the state as its reads leave it, and then its effect and its flags. -/
def matrixWork (core : Nat) (o : MatOp) (s : State) : State × Except (TrapCode × Nat) (State × Flags) :=
  let quiet (r : State × Except (TrapCode × Nat) State) : State × Except (TrapCode × Nat) (State × Flags) := (r.1, r.2.map (fun t => (t, 0)))
  let done (t : State) : State × Except (TrapCode × Nat) (State × Flags) := (s, .ok (t, 0))
  match o.instr with
  | .mpre _ => quiet (mpreWork core o s)
  | .mswap _ => done (s.modCore core Core.swapPlanes)
  | .mgo _ => (s, .ok (s.modCore core (fun c => { c with mstat := { c.mstat.counted o 0 with nslt := c.mstat.nslt + 1, nsp := c.mstat.nsp + 1 } }), o.flags))
  | .mdrain _ => (s, mdrainWork core o s)
  | .mzero _ => done (s.modCore core (fun c => ((List.range 4).filter (fun t => o.a.getLsbD t)).foldl (fun c t => c.putCells t (List.replicate 4096 0)) c))
  | .maccl _ => quiet (macclWork core o s)
  | .mspmeta _ => done (s.modCore core (fun c => { c with meta_ := o.meta_ }))
  | .mtestNow _ => done (if o.finished then s else s.runTest core 0)
  | .mtestIvl _ => done (s.modCore core (fun c => { c with mstat := { c.mstat with ivl := o.a.setWidth 32 } }))
  | .mfuse _ =>
    let n := o.a.toNat
    if n != 0 && (shapeFor n (s.core core).mstat.fenced).isNone then (s, .error (.subarrayFenced, 0))
    else done (s.modCore core (fun c => { c with mstat := { c.mstat with fmode := BitVec.ofNat 3 n } }))
  | _ => done s

/-- The words of local memory that an MDRAIN writes (R193). -/
def State.drainWords (s : State) (o : MatOp) : List Nat :=
  let e := handleEntry o o.flds.d
  let row (x0 x1 n : Nat) : List Nat :=
    let b0 := hElemBit e ⟨x0, x1, 0, 0⟩
    match s.lmRange o.slot (coreOf o.slot) (hBase e + b0 / 8) ((b0 % 8 + n * hBits e + 7) / 8) with
    | .ok ps => ps.flatMap pieceWords
    | .error _ => []
  match o.instr, o.flds.d with
  | .mdrain _, .h _ => (List.range 64).flatMap (fun i => row (pairX0 o.b) (pairX1 o.b + i) (tileCols (opFmt o)))
  | _, _ => []
/-- They are this operation's for the cycle: an engine write waits behind those that strands have taken (R256). -/
def State.takeDrain (s : State) (core : Nat) (o : MatOp) : State := match s.drainWords o with
  | [] => s
  | ws => s.takeWords core ws
/-- MATRIX_OP_COMPLETE (R190, R215): its writes are made, its flags merge, its tokens are pushed, the event bit is set. A nest that a diversion
meets in its last pass ends as stopped (R214). -/
def matrixOpComplete? (core : Nat) (s : State) : Option State :=
  match (s.core core).headOp with
  | none => none
  | some o =>
    if !o.running || (isNest o && !o.finished) || s.lmUsed core (s.drainWords o) then none
    else if isNest o && o.divert then some (s.nestDiverted core o)
    else match matrixWork core o (s.takeDrain core o) with
      | (s1, .error b) => some (s1.matrixTrap core o b)
      | (_, .ok (s1, fl)) =>
        let s2 := s1.modCore core (fun c => { c with matq := c.matq.tail, mstat := { c.mstat with flags := fl ||| o.told } })
        some ((s2.settleAs 3 (s2.opsOf core o.slot).length o.slot .C o.tk o.clock fl o.pos o.ring).setEvent o.slot)
def execMatrixOpComplete (core : Nat) (s : State) : Out := whenCore core s (matrixOpComplete? core s)

/-! ### Early start (R203) -/

/-- Bank groups of a rectangle of an H-form operand. -/
def State.rectGroups (s : State) (o : MatOp) (e : BitVec 512) (x0 x1 w h : Nat) : Option (List Nat) :=
  match s.lmExtent o.slot e (hElemBit e ⟨x0, x1, 0, 0⟩) (hElemBit e ⟨x0 + w - 1, x1 + h - 1, 0, 0⟩ + hBits e) with
  | .ok gs => some gs
  | .error _ => none
/-- Bank groups that an operation ahead touches; none where an MPRE may not pass it. -/
def State.aheadGroups (s : State) (o : MatOp) : Option (List Nat) :=
  let fl := o.flds
  match o.instr with
  | .mgo _ => if mAutow o.cfg.mode then none else match s.nestGroups o.slot o.cfg o.scl with
    | .ok (ga, _) => some ga
    | .error _ => none
  | .mdrain _ => (match fl.d with
    | .h _ => s.rectGroups o (handleEntry o fl.d) (pairX0 o.b) (pairX1 o.b) (tileCols (opFmt o)) 64
    | _ => some [])
  | .mzero _ => some []
  | .maccl _ => (match fl.b with
    | .h _ => s.rectGroups o (handleEntry o fl.b) (pairX0 o.c) (pairX1 o.c) (tileCols (opFmt o)) 64
    | _ => some [])
  | _ => none
/-- The operations before the first MPRE, and it. -/
def splitMpre : List MatOp → List MatOp × Option MatOp
  | [] => ([], none)
  | o :: r => match o.instr with
    | .mpre _ => ([], some o)
    | _ => let x := splitMpre r; (o :: x.1, x.2)
/-- MPRE_EARLY_START (R203): its plane loads; it completes in its turn. -/
def mpreEarlyStart? (core : Nat) (s : State) : Option State :=
  let c := s.core core
  match splitMpre c.matq with
  | ([], _) => none
  | (_, none) => none
  | (ahead, some o) =>
    if o.loaded || !(mayIssue s.cycle (s.strand o.slot)) then none
    else
      let n := if isCpx o.cfg.fb then 32 else 64
      match s.rectGroups o (handleEntry o o.flds.a) (pairX0 o.b) (pairX1 o.b) n (if mSparse o.cfg.mode then 32 else n) with
      | none => none
      | some mine =>
        if ahead.all (fun x => match s.aheadGroups x with
          | some gs => !(gs.any (fun g => mine.contains g))
          | none => false)
        then match (mpreWork core o s).2 with
          | .error _ => none
          | .ok s1 => some (s1.modCore core (fun k => { k with matq := k.matq.map (fun x => if x = o then { x with loaded := true } else x) }))
        else none
def execMpreEarlyStart (core : Nat) (s : State) : Out := whenCore core s (mpreEarlyStart? core s)

end Sys2Proof.Machine
end

