-- ==== Sys2Proof/Machine/Copy.lean ====
section
/-! DEFINITION. The copy queue (R219, R222 to R224) and AREDUCE (R235, R236, R380): starts, sectors and completions. -/

namespace Sys2Proof.Machine

/-! ### Starts -/

/-- A job's bundle is not being saved (R336). -/
def State.jobRuns (s : State) (id : Word) : Bool := !(s.bundles.any (fun b => b.id == id && b.st == .saving))
/-- The head may start (R219, R221): it has not failed, nothing holds it, and its strand, or the bundle of a job, is not being pre-empted. -/
def State.mayStart (s : State) (c : Cmd) : Bool :=
  !c.started && !c.failed && c.held.isNone && ((match c.job with
    | some id => s.jobRuns id
    | none => false) || (c.job.isNone && (!(s.strand c.slot).preempting || (s.strand c.slot).diverting.isSome || (s.strand c.slot).stopping.isSome || (s.strand c.slot).killing) && (s.strand c.slot).st != .killed))

/-- A copy's handle (R222). -/
def copyHandleBad (e : BitVec 512) (rd wr : Bool) : Option Bad :=
  hCheck e ((hLayout e == 0 || hLayout e == 2) && hSpace e != 5) rd wr
/-- Rows of a copy: their length, their number, and the strides. -/
structure CopyShape where
  len : Nat
  rows : Nat
  ss : Int
  ds : Int
  deriving DecidableEq, Repr
def copyShape (d : BitVec 512) : CopyShape :=
  if dCmd d = 2 then { len := fld d 256 32, rows := fld d 288 32, ss := (d.extractLsb' 320 64).toInt, ds := (d.extractLsb' 384 64).toInt }
  else { len := fld d 256 40, rows := 1, ss := 0, ds := 0 }
/-- All rows inside [0, LIMIT), and the LM groups of the extremes held. -/
def State.copyRange (s : State) (c : Cmd) (e : BitVec 512) (o : Nat) (st : Int) (h : CopyShape) : Option Bad :=
  let last : Int := o + st * ((h.rows - 1 : Nat) : Int)
  let lo := min (o : Int) last
  let hi := max (o : Int) last + h.len
  if lo < 0 || hi > hLimit e then some (.trap .handleBounds 4)
  else if hSpace e == 0 && ((s.lmPhys c.slot c.core (hBase e + lo.toNat)).isNone || (s.lmPhys c.slot c.core (hBase e + hi.toNat - 1)).isNone)
  then some (.trap .handleBounds 5)
  else none
def firstBadOf (l : List (Option Bad)) : Option Bad := l.findSome? id
/-- The start checks of CPY, CPYS and CPYQ (R219, R222). -/
def State.startCopy (s : State) (c : Cmd) : Except Bad (State × Cmd) :=
  let d := c.desc
  match s.startHandles c.slot [fld d 64 10, fld d 80 10] with
  | .error b => .error b
  | .ok (s1, [a, b]) =>
    let h := copyShape d
    (match firstBadOf [copyHandleBad a true false, copyHandleBad b false true,
        if h.len = 0 ∨ h.rows = 0 then some (.trap .illegalOperand 0) else none,
        if dCmd d == 0x04 && fld d 320 3 != 0 then some (.trap .alignment 3) else none,
        s1.copyRange c a (fld d 128 64) h.ss h, s1.copyRange c b (fld d 192 64) h.ds h] with
    | some x => .error x
    | none => .ok (s1, { c with src := a, dst := b, started := true }))
  | .ok _ => .error (.trap .handleInvalid 0)

/-! ### AREDUCE -/

def arH (d : BitVec 512) : Nat := fld d 64 10
def arFmt (d : BitVec 512) : Option Fmt := (Fmt.ofCode (fld d 80 5)).filter (fun f => [Fmt.int32, .int64, .a56i, .fp32, .bf16, .a56f].contains f)
def arRnd (d : BitVec 512) : Nat := fld d 85 3
def arOp (d : BitVec 512) : Nat := fld d 88 2
def arOff (d : BitVec 512) : Nat := fld d 128 64
def arLen (d : BitVec 512) : Nat := fld d 192 40
/-- GMASK includes this device and names no position above NM1 (R235); in no league it is 0x01. -/
def State.maskFits (s : State) (m : BitVec 8) : Bool := m.getLsbD s.ringPos && m.toNat < 2 ^ (s.ringNm1 + 1)
/-- A piece inside the mirrored part of the window (R380). -/
def State.inMirror (s : State) (p : Piece) : Bool := match p with
  | .mem .il off n _ => !s.lgEn || (alignedBase 21 s.lwpbase ≤ off && off + n ≤ alignedBase 21 s.lwpbase + s.lmsize.toNat)
  | _ => false
/-- A part of a range that translates lies outside the mirrored part: found before anything is held (R219, R380). -/
def State.offMirror (s : State) (core : Nat) (t : Strand) : Nat → Word → Nat → Bool
  | 0, _, _ => false
  | fuel + 1, va, n =>
    if n = 0 then false
    else match s.translate core t.pasid t.sys va .read with
      | .ok sp off left size =>
        let k := min n (min left (2 ^ 21 - off % 2 ^ 21))
        !(s.inMirror (s.pieceAt sp off k size)) || s.offMirror core t fuel (va + BitVec.ofNat 64 k) (n - k)
      | _ =>
        let k := min n (4096 - va.toNat % 4096)
        s.offMirror core t fuel (va + BitVec.ofNat 64 k) (n - k)
/-- The place of an AREDUCE's range, for reading or for writing. -/
def State.arPlace (s : State) (c : Cmd) (e : BitVec 512) (acc : Acc) : Except Bad (List Piece) :=
  let t := s.strand c.slot
  match s.translateRange c.core t.pasid t.sys acc (arLen c.desc / 4096 + 3) (BitVec.ofNat 64 (hBase e + arOff c.desc)) (arLen c.desc) with
  | .error b => .error b
  | .ok ps => match s.piecesFate (acc != .read) ps with
    | some b => .error b
    | none => .ok ps
/-- The start of an AREDUCE: its checks, the pages it reads and writes, its own contribution, which goes to every peer (R235, R380). -/
def State.startAreduce (s : State) (c : Cmd) : Except Bad (State × Cmd) :=
  let d := c.desc
  match s.readHandle c.slot (arH d) with
  | .error b => .error b
  | .ok (s1, e) =>
    let es := match arFmt d with
      | some f => f.memBits / 8
      | none => 1
    match firstBadOf [hCheck e (hSpace e == 1 && hLayout e == 0) true true,
        if (arFmt d).isNone || arRnd d > 4 || arOp d == 3 || arLen d == 0 || arLen d % es != 0 || !(s1.maskFits (arMask d))
        then some (.trap .illegalOperand 0) else none,
        if arOff d % es != 0 then some (.trap .alignment (Nat.log2 es)) else none,
        if arOff d + arLen d > hLimit e then some (.trap .handleBounds 4) else none,
        if s1.offMirror c.core (s1.strand c.slot) (arLen d / 4096 + 3) (BitVec.ofNat 64 (hBase e + arOff d)) (arLen d) then some (.trap .handleBounds 4) else none] with
    | some b => .error b
    | none => match s1.arPlace c e .read, s1.arPlace c e .write with
      | .error b, _ => .error b
      | _, .error b => .error b
      | .ok ps, .ok _ =>
        let g := s1.readPieces c.core ps
        let m := arMask d
        let k := if c.inst = 0 then tabGet s1.arInst 0 m.toNat + 1 else c.inst
        let mine : Contribution := { mask := m, inst := k, pos := s1.ringPos, fmt := fld d 80 5, op := arOp d, len := arLen d, data := g.bytes }
        let s2 : State := { g.s with
          arInst := if c.inst = 0 then tabSet g.s.arInst 0 m.toNat k else g.s.arInst
          contribs := mine :: g.s.contribs }
        .ok (s2.sendGroup m (.contribution m.toNat k mine.pos mine.fmt mine.op mine.len g.bytes), { c with src := e, started := true, inst := k, poisoned := g.poison.isSome })

/-- The start of a command behind the checks of a QPUT packet. LAYOUT's is the Ell's. -/
def State.startIn (s : State) (layout : State → Cmd → Except Bad (State × Cmd)) (c : Cmd) : Except Bad (State × Cmd) :=
  match dCmd c.desc with
  | 0x03 => layout s c
  | 0x21 => s.startAreduce c
  | _ => s.startCopy c
/-- A start: the first checks of a QPUT packet, which add its count to PEND (R153, R219), then those of the command. A command that is held
or waits for a move keeps what the first checks did. -/
def State.startCmd (s : State) (w : Where) (codes : List Nat) (start : State → Cmd → Except Bad (State × Cmd)) (c : Cmd) : Option State :=
  match c.delivered with
  | some (x, sub) => some (s.setHeadCmd w { c.failStart x sub with delivered := none })
  | none => match s.startQput codes c with
    | .error b => s.cmdBad w c true b
    | .ok (s1, c1) => match start s1 c1 with
      | .ok (s2, c2) => some (s2.setHeadCmd w c2)
      | .error b => match s1.cmdBad w c1 true b with
        | some t => some t
        | none => if c1.bar = c.bar then none else some (s1.setHeadCmd w c1)
/-- COPY_COMMAND_START (R219). -/
def copyCommandStart? (layout : State → Cmd → Except Bad (State × Cmd)) (core : Nat) (s : State) : Option State :=
  let w : Where := .copy core
  match s.headCmd w with
  | none => none
  | some c =>
    if !(s.mayStart c) then none else s.startCmd w copyCodes (fun t c => t.startIn layout c) c

/-! ### Sectors (R223) -/

/-- Bytes of a forward byte-by-byte copy: a source byte that the copy has written already gives what was written. -/
def forwardBytes : List Nat → List Nat → List Byte → List (Nat × Byte) → List Byte
  | a :: as, b :: bs, x :: xs, w =>
    let v := match w.find? (fun p => p.1 == a) with
      | some p => p.2
      | none => x
    v :: forwardBytes as bs xs ((b, v) :: w)
  | _, _, _, _ => []
/-- Source stretches in error: offset in the sector and length (units of 64 bytes in memory, words of 4 in LM). -/
def State.poisonedParts (s : State) (core : Nat) (ps : List Piece) (n : Nat) (unit : Nat) (base : Nat) : List (Nat × Nat) :=
  let starts := (List.range (n / unit + 2)).map (fun k => if k = 0 then 0 else k * unit - base % unit)
  (starts.zip starts.tail).filterMap (fun x =>
    let o := x.1
    let k := min x.2 n - o
    if o < n && k > 0 && (s.readPieces core (slicePieces ps o k)).poison.isSome then some (o, k) else none)

/-- The next sector of a copy: source offset, destination offset, bytes. -/
def sectorOf (c : Cmd) : Nat × Nat × Nat :=
  let h := copyShape c.desc
  let so := (fld c.desc 128 64 + h.ss * c.row).toNat + c.off
  let d0 := (fld c.desc 192 64 + h.ds * c.row).toNat + c.off
  (so, d0, min (h.len - c.off) (512 - (hBase c.dst + d0) % 512))
/-- A sector's effect once both sides are placed: bytes, poison, counts; the last sector's bytes stay in PEND (R153). -/
def State.moveSector (s : State) (w : Where) (c : Cmd) (src dst : List Piece) (so n : Nat) : State :=
  let g := s.readPieces c.core src
  let a := pieceLocs src
  let b := pieceLocs dst
  let data := if a.any (fun x => b.contains x) then forwardBytes a b g.bytes [] else g.bytes
  let unit := if hSpace c.src = 0 then 4 else 64
  let bad := if g.poison.isSome then s.poisonedParts c.core src n unit (hBase c.src + so) else []
  let s1 := ((g.s.takePieces src).takePieces dst).writePieces c.party true data dst
  let s2 := bad.foldl (fun t x => t.poisonPieces (slicePieces dst x.1 x.2)) s1
  let (s3, c0) := if bad.isEmpty then (s2, c) else s2.cmdBar c none barPoison
  let h := copyShape c.desc
  let off := c.off + n
  let c1 := { c0 with
    done := c.done + n, poisoned := c.poisoned || g.poison.isSome, row := if off = h.len then c.row + 1 else c.row, off := if off = h.len then 0 else off }
  if c1.row = h.rows then s3.setHeadCmd w { c1 with finished := true, tail := n, code := if c1.poisoned then 3 else 1 }
  else
    let (s4, c2) := s3.sectorPend c1 n
    s4.setHeadCmd w c2
/-- COPY_SECTOR (R223): one sector is translated, read and written, held, refused, or stopped by a revoke; it comes after the strands'
operations at its words (R256). -/
def copySector? (core : Nat) (s : State) : Option State :=
  let w : Where := .copy core
  match s.headCmd w with
  | none => none
  | some c =>
    if !c.started || c.finished || c.held.isSome || !([1, 2, 4].contains (dCmd c.desc)) then none
    else match c.delivered with
    | some (x, sub) => some (s.setHeadCmd w { c.fail x sub with delivered := none })
    | none =>
      let x := sectorOf c
      match s.hRange c.slot (s.cmdSys c) c.src (s.cmdCwb c) .read x.1 x.2.2 with
      | .error b => s.cmdBad w c false b
      | .ok src => match s.hRange c.slot (s.cmdSys c) c.dst (s.cmdCwb c) .write x.2.1 x.2.2 with
        | .error b => s.cmdBad w c false b
        | .ok dst =>
          if s.wordsFree src && s.wordsFree dst && s.barFree c then some ((s.moveSector w c src dst x.1 x.2.2).tagHead s w) else none
def execCopySector (core : Nat) (s : State) : Out := whenCore core s (copySector? core s)

/-- COPY_COMMAND_COMPLETE (R220, R224). -/
def copyCommandComplete? (core : Nat) (s : State) : Option State :=
  match s.headCmd (.copy core) with
  | none => none
  | some c => if !c.finished || c.held.isSome then none else s.complete (.copy core) c
def execCopyCommandComplete (core : Nat) (s : State) : Out := whenCore core s (copyCommandComplete? core s)

/-! ### The reduction (R235) -/

/-- A codes' value in its accumulator: an integer, or an A56 float code. -/
inductive RedAcc where
  | int (n : Int)
  | flt (code : Nat)
  deriving DecidableEq, Repr
/-- A contribution taken exactly (step 1); a NaN is the canonical one (R28). -/
def redFirst (f : Fmt) (code : Nat) : RedAcc :=
  match f with
  | .int32 | .int64 => .int (f.readInt code)
  | .a56i => .int (toSigned 56 code)
  | .a56f => .flt (a56f.round .rne false (a56f.decode (code % 2 ^ 56))).1
  | _ => .flt (a56f.round .rne false (f.value code)).1
/-- Step 2: add, minimum or maximum. -/
def redStep (f : Fmt) (op : Nat) (a b : RedAcc) : RedAcc × Flags :=
  match a, b with
  | .int x, .int y =>
    if op = 1 then (.int (min x y), 0)
    else if op = 2 then (.int (max x y), 0)
    else if f = .int64 then
      (let r := x + y
       if r > Fmt.int64.intMax then (.int Fmt.int64.intMax, flagSA) else if r < Fmt.int64.intMin then (.int Fmt.int64.intMin, flagSA) else (.int r, 0))
    else (let r := accInt x y; (.int r.1, r.2))
  | .flt x, .flt y =>
    if op = 0 then (let r := accFloat x (a56f.decode y); (.flt r.1, r.2))
    else (match minMaxPick (op == 2) (a56f.decode x) (a56f.decode y) with
      | none => (.flt a56f.qnan, 0)
      | some true => (.flt x, 0)
      | some false => (.flt y, 0))
  | x, _ => (x, 0)
/-- The A56 memory form of an integer (R25). -/
def a56Mem (n : Int) : Nat := wrapTo 64 n
/-- Step 3: converted once into the format, in memory form. -/
def redLast (f : Fmt) (mode : RMode) (a : RedAcc) : Nat × Flags :=
  match a with
  | .int n => (match f with
    | .int32 => (let r := saturate f mode (XReal.ofInt n); (wrapTo 32 r.1, r.2))
    | _ => (wrapTo 64 n, 0))
  | .flt c => (match f with
    | .a56f => (c, 0)
    | _ => f.convert mode true (a56f.decode c))
/-- The codes of a byte string. -/
def codesOf (eb : Nat) (bs : List Byte) : List Nat := (List.range (bs.length / eb)).map (fun i => leNat ((bs.drop (eb * i)).take eb))
/-- The reduction of one element over contributions in ascending position. -/
def reduceOne (f : Fmt) (op : Nat) (mode : RMode) (codes : List Nat) : Nat × Flags :=
  match codes with
  | [] => (0, 0)
  | x :: r =>
    let a := r.foldl (fun acc y => let q := redStep f op acc.1 (redFirst f y); (q.1, acc.2 ||| q.2)) (redFirst f x, (0 : Flags))
    let z := redLast f mode a.1
    (z.1, a.2 ||| z.2)
def transpose (n : Nat) (ls : List (List Nat)) : List (List Nat) := (List.range n).map (fun i => ls.map (fun l => l[i]?.getD 0))

/-- A part of a contribution comes after what has come of it (R236, R337). -/
def State.joinContrib (s : State) (c : Contribution) : State := match s.contribOf c.mask c.inst c.pos with
  | none => { s with contribs := c :: s.contribs }
  | some x => { s with contribs := s.contribs.map (fun y => if y = x then
      { x with data := x.data ++ c.data, seqs := x.seqs ++ c.seqs, aborted := x.aborted || c.aborted } else y) }
/-- A part that came before what is here of its contribution. -/
def State.joinFirst (s : State) (c : Contribution) : State := match s.contribOf c.mask c.inst c.pos with
  | none => { s with contribs := c :: s.contribs }
  | some x => { s with contribs := s.contribs.map (fun y => if y = x then
      { c with data := c.data ++ x.data, seqs := c.seqs ++ x.seqs, aborted := c.aborted || x.aborted } else y) }
def State.arAborted (s : State) (c : Cmd) : Bool := s.contribs.any (fun x => x.mask == arMask c.desc && x.inst == c.inst && x.aborted)
/-- The contributions of an instance that every participant has joined, in ascending position. -/
def State.arJoined (s : State) (c : Cmd) : Option (List Contribution) :=
  let ps := (List.range 8).filter (fun p => (arMask c.desc).getLsbD p)
  if ps.all (s.hasJoined (arMask c.desc) c.inst) then some (ps.filterMap (s.contribOf (arMask c.desc) c.inst)) else none
def State.dropInstance (s : State) (c : Cmd) : State :=
  { s with contribs := s.contribs.filter (fun x => !(x.mask == arMask c.desc && x.inst == c.inst)) }
/-- An AREDUCE at the head, started and not finished. -/
def State.runningAr (s : State) (core : Nat) : Option Cmd :=
  match s.headCmd (.copy core) with
  | some c => if dCmd c.desc == 0x21 && c.started && !c.finished && c.held.isNone then some c else none
  | none => none
/-- AREDUCE_COMPLETE (R235, R406): the result goes into the participant's own range. -/
def areduceComplete? (core : Nat) (s : State) : Option State :=
  let w : Where := .copy core
  match s.runningAr core with
  | none => none
  | some c => if c.leaves || c.aborted then none else match s.arJoined c with
    | none => none
    | some cs =>
      let d := c.desc
      let f := (arFmt d).getD .int32
      if cs.any (fun k => k.fmt != fld d 80 5 || k.op != arOp d || k.len != arLen d) then
        some ((s.dropInstance c).setHeadCmd w (c.failStart .illegalOperand 0))
      else
        let eb := f.memBits / 8
        let rs := (transpose (arLen d / eb) (cs.map (fun k => codesOf eb k.data))).map (reduceOne f (arOp d) (RMode.ofCode (arRnd d)))
        let out := rs.flatMap (fun r => leBytes eb r.1)
        let c1 := { c with finished := true, code := if c.poisoned then 3 else 1, done := arLen d, flags := rs.foldl (fun a r => a ||| r.2) 0 }
        let unmade (x : TrapCode) (sub : Nat) : Option State :=
          some ((s.dropInstance c).setHeadCmd w { c1 with done := 0, delivered := none, trap := some (x, sub) })
        match c.delivered with
        | some (x, sub) => unmade x sub
        | none => match s.arPlace c c.src .write with
          | .ok ps =>
            let s1 := (s.writePieces c.party true out ps).dropInstance c
            some ((if c.poisoned then s1.poisonPieces ps else s1).setHeadCmd w c1)
          | .error .moving => none
          | .error (.held k x va a) => if s.holdFull k || !(s.barFree c) then none else some (s.holdCmd w c k x va a)
          | .error (.trap x sub) => unmade x sub
def execAreduceComplete (core : Nat) (s : State) : Out := whenCore core s (areduceComplete? core s)

/-- AREDUCE_ABORT (R236): an abort of the instance, or a diversion before every peer had joined, ends the command with CODE 6; a
diverted participant sends the abort to its peers. -/
def areduceAbort? (core : Nat) (s : State) : Option State :=
  let w : Where := .copy core
  match s.headCmd w with
  | none => none
  | some c =>
    if dCmd c.desc != 0x21 || c.finished || c.held.isSome || c.failed then none
    else if c.leaves || c.aborted || (c.started && s.arAborted c) then
      let k := if c.inst = 0 then tabGet s.arInst 0 (arMask c.desc).toNat + 1 else c.inst
      let m := arMask c.desc
      let s1 : State := if c.leaves then
          ({ s with arInst := if c.inst = 0 then tabSet s.arInst 0 m.toNat k else s.arInst } : State).sendGroup m (.instanceAbort m.toNat k s.ringPos) else s
      some ((s1.dropInstance c).setHeadCmd w { c with started := true, finished := true, code := 6, aborted := true })
    else none
def execAreduceAbort (core : Nat) (s : State) : Out := whenCore core s (areduceAbort? core s)

end Sys2Proof.Machine
end

