-- ==== Sys2Proof/Machine/Queues.lean ====
section
/-! DEFINITION. The command processor's threads (R325 to R330, R407): accesses in the queue's context, packets, host events, NOP, WAIT,
SIGNAL, MAPQ, UNMAPQ and the notify register. -/

namespace Sys2Proof.Machine

/-- The device is running: in ON or THROTTLE. -/
def State.up (s : State) : Bool := s.power == .on || s.power == .throttle
/-- The boot has ended: the kernel has started, the links, the command processor and the rest of the device are at work (R399). -/
def State.running (s : State) : Bool := s.up && s.fwState == 1
/-- The kernel and the policy run on the leader, while that has not stopped (R396). -/
def State.leaderRuns (s : State) : Bool := s.running && s.healthy.getLsbD s.leader.toNat

/-! ### Host events (R327) -/

/-- A write to host memory by the device, over CXL.io: the device's own copies of the lines go home first. -/
def State.writeHostPhys (s : State) (a : Nat) (bs : List Byte) : State :=
  let lines := (List.range ((a + bs.length) / 64 - a / 64 + 1)).map (a / 64 + ·)
  let s1 := lines.foldl (fun t l => (t.evictHost l).flushHost l) s
  { s1 with host := s1.host.write a bs }
def hevStall : Nat := 1
def hevDropped : Nat := 2
def hevFault : Nat := 3
/-- Post a host event record (R327): lost and counted where the ring is full or off. -/
def State.hostEvent (s : State) (kind : Nat) (pasid : BitVec 20) (qnum : BitVec 12) (ridx : Nat) : State :=
  if !(s.hevbase.getLsbD 0) || (s.hevhead - s.hevtail.setWidth 32).toNat == 2 ^ s.hevsize.toNat then
    { s with hevlost := if s.hevlost = BitVec.allOnes 64 then s.hevlost else s.hevlost + 1 }
  else
    let r := kind + pasid.toNat * 2 ^ 8 + qnum.toNat * 2 ^ 28 + ridx * 2 ^ 64 + s.hevhead.toNat * 2 ^ 96 + s.sec % 2 ^ 48 * 2 ^ 128 + s.nsec * 2 ^ 176
    let s1 := s.writeHostPhys (fld s.hevbase 12 52 * 4096 + 32 * (s.hevhead.toNat % 2 ^ s.hevsize.toNat)) (leBytes 32 r)
    let s2 : State := { s1 with hevhead := s.hevhead + 1 }
    if s.hevmsi.getLsbD 11 then { s2 with outputs := s2.outputs ++ [.msix (fld s.hevmsi 0 11)] } else s2

/-! ### Accesses of a thread (R326) -/

/-- The unit whose translations the command processor uses. -/
def cpUnit : Nat := 64
/-- Translate for a queue's context, at user privilege, with the row and page states (R326). -/
def State.cpPlace (s : State) (pasid : BitVec 20) (acc : Acc) (va : Word) (n : Nat) : Except Bad (List Piece) :=
  match s.translateRange cpUnit pasid false acc (n / 4096 + 3) va n with
  | .error b => .error b
  | .ok ps => match s.piecesFate (acc != .read) ps with
    | some b => .error b
    | none => .ok ps
/-- The queue is stalled, with its event (R326, R330). -/
def State.stallQueue (s : State) (k : Nat) (kind : Nat) : State :=
  let q := s.qcb k
  (s.setQcb k { q with stall := true }).hostEvent kind q.pasid q.qnum q.ridx.toNat
/-- What becomes of a thread whose access fails: held with a record of ENG 7, or waiting for a move; any other failure is dealt
with as a delivery is. -/
def State.threadBad (s : State) (n k : Nat) (b : Bad) : Option State :=
  let q := s.qcb k
  match b with
  | .moving => none
  | .held kind code va a =>
    if s.holdFull kind then none
    else
      let (seq, s1) := s.postHold { kind := kind, eng := 7, acc := a, code := code.value, va := va, pasid := q.pasid }
      some { s1.setThread n { s1.thread n with held := some seq } with
        held := s1.held ++ [{ seq := seq, kind := kind, holder := .thread n, pasid := q.pasid, va := va, acc := a }] }
  | .trap _ _ => some (s.stallQueue k hevFault)
/-- A release of one of the device's agents, and an acquire of the command processor, at system scope (R20, R267). -/
def State.hwRelease (s : State) (a : Agent) (ps : List Piece) (clock : Clock) : State :=
  s.putRel (pieceLocs ps) { owner := .device a, place := .device, scp := systemScope, clock := addSeen (s.ownWrites (.device a) .device) clock }
def State.hwAcquired (s : State) (ps : List Piece) : Clock :=
  acquired systemScope .device (s.syncs (pieceLocs ps) systemScope (.device .processor) .device (fun _ => true))
/-- A thread's acquire of what it has read. -/
def State.threadGains (s : State) (n : Nat) (ps : List Piece) : State :=
  s.setThread n { s.thread n with seen := joinClock (s.thread n).seen (s.hwAcquired ps) }

/-! ### Packets (R326, R328) -/

/-- A packet at the head of its ring: its thread, the entry of its QCB, the QCB, the packet, the state after its read. -/
structure Packet where
  n : Nat
  k : Nat
  q : Qcb
  d : BitVec 512
  s : State
def pktType (d : BitVec 512) : Nat := fld d 0 8
def pktValid (d : BitVec 512) : Bool := d.getLsbD 8
/-- Read the slot `j` after RIDX. -/
def State.readSlot (s : State) (q : Qcb) (j : Nat) : Except Bad (State × BitVec 512) :=
  match s.cpPlace q.pasid .read (q.slotVa (q.ridx.toNat + j)) 64 with
  | .error b => .error b
  | .ok ps =>
    let g := s.readPieces cpUnit ps
    if g.poison.isSome then .error (.trap .dataPoison 0) else .ok (g.s, BitVec.ofNat 512 (leNat g.bytes))
/-- The acquire by which a thread reads the slot `j` after RIDX (R326). -/
def State.slotGains (s : State) (n : Nat) (q : Qcb) (j : Nat) : State :=
  match s.cpPlace q.pasid .read (q.slotVa (q.ridx.toNat + j)) 64 with
  | .ok ps => s.threadGains n ps
  | .error _ => s
/-- The thread looks at its next slot: finding VALID = 0 it waits for a notify. -/
def State.look (s : State) (n : Nat) : State :=
  match (s.thread n).qcb with
  | none => s
  | some k => match s.readSlot (s.qcb k) 0 with
    | .ok (_, d) => if pktValid d then s else s.setThread n { s.thread n with wake := false }
    | .error _ => s
/-- Bytes of a slot: from byte `at_`. -/
def State.slotPlace (s : State) (q : Qcb) (j at_ n : Nat) : Except Bad (List Piece) :=
  s.cpPlace q.pasid .write (q.slotVa (q.ridx.toNat + j) + BitVec.ofNat 64 at_) n
/-- Write VALID := 0 into `m` slots and advance RIDX by `m`. -/
def State.clearSlots (s : State) (q : Qcb) : Nat → Except Bad State
  | 0 => .ok s
  | m + 1 => match s.clearSlots q m with
    | .error b => .error b
    | .ok s1 => match s1.slotPlace q m 0 8 with
      | .error b => .error b
      | .ok ps =>
        let g := s1.readPieces cpUnit ps
        let w : Word := BitVec.ofNat 64 (leNat g.bytes)
        .ok ((g.s.writePieces (.device .processor) false (leBytes 8 (setFld w 8 1 0).toNat) ps).hwRelease .processor ps [])
/-- The packet is done: its slots are free, RIDX moves on and the thread looks at the next slot. -/
def Packet.consume (p : Packet) (s : State) (m : Nat) : Except Bad State :=
  match s.clearSlots p.q m with
  | .error b => .error b
  | .ok s1 =>
    let q := s1.qcb p.k
    .ok ((s1.setQcb p.k { q with ridx := q.ridx + BitVec.ofNat 32 m }).look p.n)
/-- The thread serves the packet at its head, where `ok` says that the event is this packet's. -/
def State.serve (s : State) (n : Nat) (ok : Packet → Bool) (body : Packet → Except Bad (Option State)) : Option State :=
  let t := s.thread n
  match t.qcb with
  | none => none
  | some k =>
    let q := s.qcb k
    if n ≥ 32 || q.st != 1 || q.stall || t.held.isSome || !t.wake then none
    else match s.readSlot q 0 with
    | .error b => s.threadBad n k b
    | .ok (s1, d) =>
      let p : Packet := { n := n, k := k, q := q, d := d, s := s1.slotGains n q 0 }
      if !(pktValid d) || !(ok p) then none
      else match body p with
      | .error b => s.threadBad n k b
      | .ok r => r
/-- An event of a thread: 32 threads. One whose conditions do not hold does not happen. -/
def whenThread (n : Nat) (s : State) (r : Option State) : Out := if n ≥ 32 then .fault .badArgument else .next (r.getD s)

/-- The packet types that a queue's type allows (R328); SUB only behind a LAUNCH. -/
def typeAllowed (qtyp typ : Nat) : Bool := typ == 0 || (if qtyp = 3 then 0x10 ≤ typ && typ ≤ 0x15 else typ == 1 || typ == 3 || typ == 4)
def isType (typ : Nat) (p : Packet) : Bool := pktType p.d == typ && typeAllowed p.q.typ.toNat typ

/-! ### Refusal (R342, R343) -/

/-- The trailer word (R342). -/
def trailerWord (ncom nexp nnc nkill code : Nat) : Nat := ncom + nexp * 2 ^ 9 + nnc * 2 ^ 18 + nkill * 2 ^ 27 + code * 2 ^ 36
/-- What R343 does at the end of a launch: trailer, signal, message, under the mask; the first `skip` of them are not made again. A failure comes
with the number of the write that meets it. -/
def State.announce (s : State) (pasid : BitVec 20) (slotVa : Word) (sigva : Word) (trail : BitVec 16) (msiv trailer code skip : Nat) (clock : Clock) :
    Except (Nat × Bad) State :=
  let wr : Except Bad State := if trail.getLsbD 0 && skip == 0 then
      (match s.cpPlace pasid .write (slotVa + 48) 8 with
      | .error b => .error b
      | .ok ps => .ok (s.writePieces (.device .processor) false (leBytes 8 trailer) ps)) else .ok s
  match wr with
  | .error b => .error (1, b)
  | .ok s1 =>
    let sg : Except Bad State := if trail.getLsbD 1 && sigva != 0 && decide (skip < 2) then
        (match s1.cpPlace pasid .atomic sigva 8 with
        | .error b => .error b
        | .ok ps => .ok ((s1.addAt cpUnit (.device .processor) (2 ^ 64 - 1) ps).hwRelease .processor ps clock)) else .ok s1
    match sg with
    | .error b => .error (2, b)
    | .ok s2 => .ok (if trail.getLsbD 2 && !(trail.getLsbD 3 && code == 1) then { s2 with outputs := s2.outputs ++ [.msix msiv] } else s2)
/-- A packet that completes as refused: CODE 5. -/
def Packet.refuse (p : Packet) (s : State) (trail : BitVec 16) (m : Nat) : Except Bad (Option State) :=
  match s.announce p.q.pasid (p.q.slotVa p.q.ridx.toNat) (p.d.extractLsb' 320 64) trail p.q.msiv.toNat (trailerWord 0 0 0 0 5) 5 0 (s.thread p.n).seen with
  | .error b => .error b.2
  | .ok s1 => (p.consume s1 m).map some

def State.imageFind (s : State) (pasid : BitVec 20) (id : BitVec 16) : Option Image := s.images.find? (fun i => i.pasid == pasid && i.id == id)
def lnImage (d : BitVec 512) : BitVec 16 := d.extractLsb' 32 16
/-- TRAIL of a packet that is refused: that of the image that a LAUNCH names, where the context has it (R343). -/
def Packet.trail (p : Packet) : BitVec 16 := match (if pktType p.d = 1 then p.s.imageFind p.q.pasid (lnImage p.d) else none) with
  | some i => i.trail
  | none => 3
/-- NOP_PACKET (R328): a NOP is consumed; a packet of a type that the queue does not allow completes as refused. -/
def nopPacket? (n : Nat) (s : State) : Option State :=
  s.serve n (fun p => pktType p.d == 0 || !(typeAllowed p.q.typ.toNat (pktType p.d)))
    (fun p => if pktType p.d = 0 then (p.consume p.s 1).map some else p.refuse p.s p.trail 1)
def execNopPacket (thread : Nat) (s : State) : Out := whenThread thread s (nopPacket? thread s)

/-! ### WAIT and SIGNAL (R330) -/

/-- COND of a WAIT. -/
def waitHolds (d : BitVec 512) (v : Nat) : Bool :=
  let x := fld d 128 64
  match fld d 9 2 with
  | 0 => v == x
  | 1 => v != x
  | 2 => v ≥ x
  | _ => v < x
/-- The word that a WAIT tests; poison in it, of which R330 says nothing, does not stop the WAIT (log 91, DESIGN CHOICE). -/
def Packet.waitWord (p : Packet) : Except Bad Got :=
  match p.s.cpPlace p.q.pasid .read (p.d.extractLsb' 64 64) 8 with
  | .error b => .error b
  | .ok ps => .ok (p.s.readPieces cpUnit ps)
/-- The acquire by which a WAIT's read is made (R330). -/
def Packet.waitGains (p : Packet) (s : State) : State :=
  match p.s.cpPlace p.q.pasid .read (p.d.extractLsb' 64 64) 8 with
  | .ok ps => s.threadGains p.n ps
  | .error _ => s
/-- WAIT_PACKET: the condition holds and the packet is consumed, or the thread begins to wait. -/
def waitPacket? (n : Nat) (s : State) : Option State :=
  s.serve n (isType 3) (fun p => match p.waitWord with
    | .error b => .error b
    | .ok g =>
      if waitHolds p.d (leNat g.bytes) then (p.consume (p.waitGains (g.s.setThread n { g.s.thread n with waitSince := none })) 1).map some
      else if (s.thread n).waitSince.isSome then .ok none
      else .ok (some (g.s.setThread n { g.s.thread n with waitSince := some s.time })))
def execWaitPacket (thread : Nat) (s : State) : Out := whenThread thread s (waitPacket? thread s)
/-- QUEUE_WAIT_TIMEOUT: the time is over and the condition does not hold; the queue sets STALL. -/
def queueWaitTimeout? (n : Nat) (s : State) : Option State :=
  s.serve n (isType 3) (fun p => match p.waitWord, (s.thread n).waitSince with
    | .ok g, some t0 =>
      let tmo := fld p.d 192 32
      if tmo != 0 && t0 + 1000 * tmo ≤ s.time && !(waitHolds p.d (leNat g.bytes)) then
        .ok (some ((g.s.setThread n { g.s.thread n with waitSince := none }).stallQueue p.k hevStall))
      else .ok none
    | .error b, _ => .error b
    | _, none => .ok none)
def execQueueWaitTimeout (thread : Nat) (s : State) : Out := whenThread thread s (queueWaitTimeout? thread s)
/-- SIGNAL_PACKET: AADD.ui64, a release at system scope. -/
def signalPacket? (n : Nat) (s : State) : Option State :=
  s.serve n (isType 4) (fun p => match p.s.cpPlace p.q.pasid .atomic (p.d.extractLsb' 64 64) 8 with
    | .error b => .error b
    | .ok ps =>
      (p.consume ((p.s.addAt cpUnit (.device .processor) (fld p.d 128 64) ps).hwRelease .processor ps (p.s.thread n).seen) 1).map some)
def execSignalPacket (thread : Nat) (s : State) : Out := whenThread thread s (signalPacket? thread s)

/-! ### Control packets (R407) -/

/-- Fields of each control packet beside the shared frame: first bit and width. -/
def ctlFields (typ : Nat) : List (Nat × Nat) :=
  [(0, 9), (16, 20), (192, 8)] ++ match typ with
  | 0x10 => [(64, 64), (128, 64), (200, 16)]
  | 0x11 => [(200, 16)]
  | 0x12 => [(64, 64), (128, 12), (140, 2), (142, 2), (144, 4), (148, 11)]
  | 0x13 => [(128, 12)]
  | 0x14 => [(64, 64), (128, 64)]
  | _ => [(256, 64)]
/-- No reserved bit is set. -/
def ctlReservedOk (typ : Nat) (d : BitVec 512) : Bool := (ctlFields typ).foldl (fun x f => setFld x f.1 f.2 0) d == 0
def ctlPasid (d : BitVec 512) : BitVec 20 := d.extractLsb' 16 20
/-- A control packet's end: CODE, then VALID := 0 as a release, then RIDX. -/
def Packet.finish (p : Packet) (s : State) (code : Nat) : Except Bad (Option State) :=
  match s.slotPlace p.q 0 24 1 with
  | .error b => .error b
  | .ok ps => (p.consume (s.writePieces (.device .processor) false [BitVec.ofNat 8 code] ps) 1).map some
/-- A control packet: BAD_FIELD where a field is bad, else what the packet does and its code. -/
def State.control (s : State) (n typ : Nat) (fieldsOk : BitVec 512 → Bool) (act : Packet → Except Bad (Option (State × Nat))) : Option State :=
  s.serve n (isType typ) (fun p =>
    if !(ctlReservedOk typ p.d && fieldsOk p.d) then p.finish p.s 0x0C
    else match act p with
      | .error b => .error b
      | .ok none => .ok none
      | .ok (some (s1, code)) => p.finish s1 code)

/-- The first entry among the eight that is EMPTY or TOMB. -/
def State.freeQcb (s : State) (pasid : BitVec 20) (qnum : BitVec 12) : Option Nat := (qcbProbe pasid qnum).find? (fun k => (s.qcb k).st != 1)
def mapqOk (d : BitVec 512) : Bool := fld d 64 12 == 0 && fld d 144 4 ≥ 4 && !(fld d 140 2 == 1 && fld d 142 2 > 1)
/-- MAPQ (R325): a new QCB, or STALL cleared, which wakes the thread that serves the queue. -/
def mapq? (n : Nat) (s : State) : Option State :=
  s.control n 0x12 mapqOk (fun p =>
    let d := p.d
    let pasid := ctlPasid d
    let qnum : BitVec 12 := d.extractLsb' 128 12
    match p.s.qcbOf pasid qnum with
    | some k =>
      if (p.s.qcb k).stall then .ok (some ((p.s.setQcb k { p.s.qcb k with stall := false }).wakeQueue k, 0)) else .ok (some (p.s, 1))
    | none => match p.s.freeQcb pasid qnum with
      | none => .ok (some (p.s, 9))
      | some k => .ok (some (p.s.setQcb k
          { st := 1, typ := d.extractLsb' 140 2, prio := d.extractLsb' 142 2, pasid := pasid, qnum := qnum, log2n := d.extractLsb' 144 4,
            msiv := d.extractLsb' 148 11, ring := d.extractLsb' 64 64, ctxd := p.s.ctxdOf pasid }, 0)))
def execMapq (thread : Nat) (s : State) : Out := whenThread thread s (mapq? thread s)
/-- UNMAPQ (R325): the entry becomes TOMB and its thread serves no queue. -/
def State.dropQcb (s : State) (k : Nat) : State :=
  let s1 := s.setQcb k { st := 2 }
  { s1 with threads := s1.threads.filter (fun t => t.2.qcb != some k) }
def unmapq? (n : Nat) (s : State) : Option State :=
  s.serve n (isType 0x13) (fun p =>
    if !(ctlReservedOk 0x13 p.d) then p.finish p.s 0x0C
    else match p.s.qcbOf (ctlPasid p.d) (p.d.extractLsb' 128 12) with
    | none => p.finish p.s 0x0B
    | some k => (p.finish p.s 0).map (fun r => r.map (fun s1 => s1.dropQcb k)))
def execUnmapq (thread : Nat) (s : State) : Out := whenThread thread s (unmapq? thread s)

/-- NOTIFY_WRITE (R326): the thread of the queue wakes and looks, PEND is set, or the write is dropped and counted. -/
def execNotifyWrite (pasid : BitVec 20) (qnum : BitVec 12) (s : State) : Out :=
  match s.qcbOf pasid qnum with
  | some k =>
    let s1 := s.wakeQueue k
    let q := s.qcb k
    .next (if q.mapped && !q.stall && (s.thread q.thread.toNat).waitSince.isNone then s1.look q.thread.toNat else s1)
  | none => .next (({ s with ndrop := if s.ndrop = BitVec.allOnes 64 then s.ndrop else s.ndrop + 1 } : State).hostEvent hevDropped pasid qnum 0)

end Sys2Proof.Machine
end

