-- ==== Sys2Proof/Machine/Images.lean ====
section
/-! DEFINITION. Contexts and schedule images (R322 to R324, R407): the context descriptor, the loader's checks, mapping and copying. -/

namespace Sys2Proof.Machine

/-! ### Context descriptor (R322) -/

def cSys (c : BitVec 1024) : Bool := c.getLsbD 20
/-- The wait-timer limit: exponents 1 to 15 are read as 16, 31 as 30, 0 is the basic limit (R250, R322). -/
def cLimit (c : BitVec 1024) : Nat := match fld c 21 5 with
  | 0 => Config.waitLimit
  | n => 2 ^ (min 30 (max 16 n))
def cQstr (c : BitVec 1024) : Nat := fld c 64 9
def cQvg (c : BitVec 1024) : Nat := fld c 73 10
def cQlm (c : BitVec 1024) : Nat := fld c 83 9
def cHtb (c : BitVec 1024) : Word := setFld (c.extractLsb' 128 64) 0 16 0
def cRrt (c : BitVec 1024) : Word := setFld (c.extractLsb' 192 64) 0 12 0
def cSave (c : BitVec 1024) : Word := c.extractLsb' 256 64
def cKeyh (c : BitVec 1024) : BitVec 256 := c.extractLsb' 448 256

/-! ### Image header (R323) -/

def sigBytes : Nat := 7856
def headOf (bs : List Byte) : BitVec 2048 := BitVec.ofNat 2048 (leNat (bs.take 256))
def hdStrands (h : BitVec 2048) : Nat := fld h 128 8
def hdSections (h : BitVec 2048) : Nat := fld h 136 8
def hdSysa (h : BitVec 2048) : Bool := h.getLsbD 144
def hdTrail (h : BitVec 2048) : BitVec 16 := h.extractLsb' 160 16
def hdCstr (h : BitVec 2048) : Nat := fld h 256 9
def hdCvg (h : BitVec 2048) : Nat := fld h 265 4
def hdClm (h : BitVec 2048) : Nat := fld h 269 3
def hdCgen (h : BitVec 2048) : Nat := fld h 281 31
def hdOstr (h : BitVec 2048) : Nat := fld h 576 32
def hdOsec (h : BitVec 2048) : Nat := fld h 608 32
def hdOrec (h : BitVec 2048) : Nat := fld h 640 32
def hdNrec (h : BitVec 2048) : Nat := fld h 672 32
/-- Reserved fields of the header. -/
def hdReserved : List (Nat × Nat) := [(48, 16), (145, 15), (176, 16), (312, 8), (704, 1344)]
def bytesAt (bs : List Byte) (o n : Nat) : List Byte := (bs.drop o).take n
/-- The strand table: entry, wrap-up position, budget. -/
def strandDecl (bs : List Byte) (o : Nat) : StrandDecl :=
  let w : BitVec 128 := BitVec.ofNat 128 (leNat (bytesAt bs o 16))
  { entry := w.extractLsb' 0 64, wrapup := w.extractLsb' 64 32, budget := w.extractLsb' 96 25 }
def imageStrands (bs : List Byte) : List StrandDecl :=
  let h := headOf bs
  (List.range (hdStrands h)).map (fun k => strandDecl bs (hdOstr h + 16 * k))
def imageSections (bs : List Byte) : List Config.Section :=
  let h := headOf bs
  Config.sectionsOf (bytesAt bs (hdOsec h) (32 * hdSections h)) (hdSections h)
def imageRecords (bs : List Byte) : List Config.LoadRec :=
  let h := headOf bs
  Config.recordsOf (bytesAt bs (hdOrec h) (bs.length - sigBytes - hdOrec h)) (hdNrec h)

/-! ### The loader's checks (R324) -/

/-- Check 2: FORMAT. A header field outside the range that R323 declares for it is found here: R324 names no check for it (log 92, DESIGN
CHOICE). -/
def imageFormatOk (bs : List Byte) : Bool :=
  let h := headOf bs
  let body := bs.length - sigBytes
  bs.length ≥ 256 + sigBytes && fld h 0 32 == 0x4E4C5349 && fld h 32 16 == 1 && fld h 64 64 == bs.length &&
  hdReserved.all (fun r => fld h r.1 r.2 == 0) && 1 ≤ hdStrands h && hdStrands h ≤ 64 && 1 ≤ hdSections h && hdSections h ≤ 64 &&
  1 ≤ hdCstr h && hdCstr h ≤ 256 && hdCvg h ≤ 12 && hdClm h ≤ 4 && (hdTrail h).toNat < 16 &&
  hdOstr h + 16 * hdStrands h ≤ body && hdOsec h + 32 * hdSections h ≤ body && hdOrec h ≤ body &&
  (List.range (hdStrands h)).all (fun k => fld (BitVec.ofNat 128 (leNat (bytesAt bs (hdOstr h + 16 * k) 16))) 121 7 == 0) &&
  (imageSections bs).all (fun x => x.kind ≤ 2 && x.off + x.size ≤ body)
/-- Check 5: CLAIM. -/
def claimOk (c : BitVec 1024) (bs : List Byte) : Bool :=
  let h := headOf bs
  hdCstr h ≤ cQstr c && hdCvg h * hdCstr h ≤ cQvg c && hdClm h ≤ cQlm c && hdCgen h ≤ cQgen c && (!(hdSysa h) || cSys c) &&
  (imageStrands bs).all (fun d => 1 ≤ d.budget.toNat && d.budget.toNat ≤ 2 ^ 24)
/-- Check 6: a handle record. -/
def State.handleRecOk (s : State) (pasid : BitVec 20) (n : Nat) (e : BitVec 512) : Bool :=
  hEntryOk e && n < 1024 && s.images.all (fun i => i.pasid != pasid || (match tabFind i.handles n with
    | some x => x == e
    | none => true))
/-- Check 7: a region record. -/
def regionRecOk (n : Nat) (e : BitVec 128) : Bool := n < 256 && fld e 64 32 ≥ 1 && fld e 2 19 == 0
/-- The first check that fails, in order; 0 where all pass. -/
def State.loaderCode (s : State) (pasid : BitVec 20) (bs : List Byte) : Nat :=
  let c := s.context pasid
  let pk := bytesAt bs 40 32
  let recs := imageRecords bs
  if !(imageFormatOk bs) then 2
  else if Config.sha256 pk != cKeyh c then 3
  else if !(Config.slhDsaVerify pk (bs.take (bs.length - sigBytes)) (bs.drop (bs.length - sigBytes))) then 4
  else if !(claimOk c bs) then 5
  else if !(recs.all (fun r => match r with
    | .handle n e => s.handleRecOk pasid n e
    | _ => true)) then 6
  else if !(recs.all (fun r => match r with
    | .region n e => regionRecOk n e
    | _ => true)) then 7
  else 0

/-! ### Mapping and copying -/

/-- Write a table entry. -/
def State.putPte (s : State) (o : Nat) (p : BitVec 64) : State := s.writeIl (.device .processor) false o (leBytes 8 p.toNat)
/-- PTE permission bits of a section kind (R323): R, W, X and USR. -/
def kindBits (kind : Nat) : Nat := match kind with
  | 0 => 2 ^ 4 + 2 ^ 5
  | 1 => 2 ^ 2 + 2 ^ 3 + 2 ^ 5
  | _ => 2 ^ 2 + 2 ^ 5
/-- A leaf with other permissions. -/
def withPerm (p : BitVec 64) (kind : Nat) : BitVec 64 := setFld p 2 4 (kindBits kind / 4)
/-- Map the page of an address from a table down (R347): a leaf that exists keeps its frame, a page or table that is missing takes a
frame that the loader is given; `k` counts those. -/
def State.mapFrom (s : State) (va kind : Nat) : Nat → Nat → Nat → State × Nat
  | lvl, table, k =>
    let o := table + 8 * (va / 2 ^ (12 + 9 * lvl) % 512)
    let p := s.ilWord o
    if p.getLsbD 0 && p.getLsbD 1 then (s.putPte o (withPerm p kind), k)
    else match lvl with
    | 0 => (s.putPte o (BitVec.ofNat 64 (3 + kindBits kind + (Config.loaderFrame k).toNat * 4096)), k + 1)
    | l + 1 =>
      if p.getLsbD 0 then s.mapFrom va kind l (pteFrame p) k
      else
        let t := (Config.loaderFrame k).toNat * 4096
        let s1 := s.writeIl (.device .processor) true t (List.replicate 4096 0)
        (s1.putPte o (BitVec.ofNat 64 (1 + t))).mapFrom va kind l t (k + 1)
def State.rootOf (s : State) (pasid : BitVec 20) : Nat := fld (s.pasidEntry pasid) 12 40 * 4096
/-- 4 KiB pages of a range. -/
def pagesOf (va n : Nat) : List Nat := if n = 0 then [] else (List.range ((va + n - 1) / 4096 - va / 4096 + 1)).map (fun i => va / 4096 * 4096 + 4096 * i)
def State.mapPages (s : State) (pasid : BitVec 20) (kind k : Nat) (vas : List Nat) : State × Nat :=
  vas.foldl (fun a va => a.1.mapFrom va kind 4 (a.1.rootOf pasid) a.2) (s, k)
/-- The place behind an address, whatever its permissions. -/
def State.rawPlace (s : State) (pasid : BitVec 20) (va : Nat) : Option (MemSpace × Nat × Nat) :=
  match s.walkCanonical pasid (BitVec.ofNat 64 va) with
  | .leaf p _ => some (pteSpace p, pteFrame p + va % pteSize p, if fld p 52 2 = 1 then 0 else pteSize p)
  | _ => none
/-- Write bytes at an address, page by page. A record whose page is not mapped is not written: R324 has no check that would find it (log 92,
DESIGN CHOICE). -/
def State.rawWrite (s : State) (pasid : BitVec 20) (va : Nat) (bs : List Byte) : State :=
  (pagesOf va bs.length).foldl (fun t pg =>
    let lo := max pg va
    let n := min (pg + 4096) (va + bs.length) - lo
    match t.rawPlace pasid lo with
    | some (sp, off, size) => t.writePieces (.device .processor) true (bytesAt bs (lo - va) n) [t.pieceAt sp off n size]
    | none => t) s
/-- The lines of a code range are published (R278, R324): U is clear and no older fetch copy remains. -/
def State.publishCode (s : State) (pasid : BitVec 20) (va n : Nat) : State :=
  (pagesOf va n).foldl (fun t pg => match t.rawPlace pasid pg with
    | some (sp, off, _) =>
      let gone (l : Nat) : Bool := (List.range 64).any (fun i => l == lineKey sp (off + 64 * i))
      ({ t with ubits := t.ubits.filter (fun u => !(gone u.line)) } : State).mapCores
        (fun _ c => { c with icache := c.icache.filter (fun x => !(gone x.1)) })
    | none => t) s
/-- One section: mapped, copied, published where it is code. -/
def State.loadSection (s : State) (pasid : BitVec 20) (bs : List Byte) (k : Nat) (x : Config.Section) : State × Nat :=
  let m := s.mapPages pasid x.kind k (pagesOf x.va x.size)
  let s1 := m.1.rawWrite pasid x.va (bytesAt bs x.off x.size)
  (if x.kind = 0 then s1.publishCode pasid x.va x.size else s1, m.2)
/-- One record. -/
def State.loadRec (s : State) (pasid : BitVec 20) (r : Config.LoadRec) : State :=
  let c := s.context pasid
  match r with
  | .handle n e => s.rawWrite pasid ((cHtb c).toNat + 64 * n) (leBytes 64 e.toNat)
  | .region n e => s.rawWrite pasid ((cRrt c).toNat + 16 * n) (leBytes 16 (setFld e 96 32 0).toNat)
  | .tile va e => s.rawWrite pasid va.toNat (leBytes 8 e.toNat)
  | .window _ _ => s
/-- The image as it is stored. -/
def imageOf (pasid : BitVec 20) (id : BitVec 16) (bs : List Byte) : Image :=
  let h := headOf bs
  let recs := imageRecords bs
  { pasid := pasid, id := id, sysa := hdSysa h, trail := hdTrail h, est := fld h 192 64, cstr := hdCstr h, cvg := hdCvg h
    clm := hdClm h, cfuse := h.getLsbD 272, cmat := fld h 273 8, cgen := hdCgen h, strands := imageStrands bs
    cwb := recs.foldl (fun t r => match r with
      | .window n w => tabSet t 0 n w
      | _ => t) []
    handles := recs.foldl (fun t r => match r with
      | .handle n e => tabPut t n e
      | _ => t) []
    regions := recs.foldl (fun t r => match r with
      | .region n e => tabPut t n e
      | _ => t) [] }
def State.loadImage (s : State) (pasid : BitVec 20) (id : BitVec 16) (bs : List Byte) : State :=
  let x := (imageSections bs).foldl (fun a y => a.1.loadSection pasid bs a.2 y) (s, s.fv)
  let s1 := (imageRecords bs).foldl (fun t r => t.loadRec pasid r) x.1
  { s1 with images := s1.images ++ [imageOf pasid id bs], tlb := s1.tlb.filter (fun e => e.pasid != pasid) }

/-! ### The packets -/

def ctlImage (d : BitVec 512) : BitVec 16 := d.extractLsb' 200 16
/-- REGISTER (R324). An image with poisoned bytes is no image: FORMAT (log 92, DESIGN CHOICE). -/
def register? (n : Nat) (s : State) : Option State :=
  s.control n 0x10 (fun d => fld d 64 6 == 0) (fun p =>
    let d := p.d
    let pasid := ctlPasid d
    let len := fld d 128 64
    if (p.s.imageFind pasid (ctlImage d)).isSome then .ok (some (p.s, 1))
    else if len < 256 + sigBytes then .ok (some (p.s, 2))
    else match p.s.cpPlace pasid .read (d.extractLsb' 64 64) len with
    | .error b => .error b
    | .ok ps =>
      let g := p.s.readPieces cpUnit ps
      let code := if g.poison.isSome then 2 else g.s.loaderCode pasid g.bytes
      .ok (some (if code = 0 then (g.s.loadImage pasid (ctlImage d) g.bytes, 0) else (g.s, code))))
def execRegister (thread : Nat) (s : State) : Out := whenThread thread s (register? thread s)
/-- UNREGISTER (R407): refused while a bundle of the image is not complete. -/
def unregister? (n : Nat) (s : State) : Option State :=
  s.control n 0x11 (fun _ => true) (fun p =>
    let pasid := ctlPasid p.d
    let id := ctlImage p.d
    if (p.s.imageFind pasid id).isNone then .ok (some (p.s, 0x0B))
    else if p.s.bundles.any (fun b => b.pasid == pasid && b.image == id) then .ok (some (p.s, 8))
    else .ok (some ({ p.s with images := p.s.images.filter (fun i => !(i.pasid == pasid && i.id == id)) }, 0)))
def execUnregister (thread : Nat) (s : State) : Out := whenThread thread s (unregister? thread s)

end Sys2Proof.Machine
end

