-- ==== Sys2Proof/Machine/Front.lean ====
section
/-! DEFINITION. Instruction fetch (R94 to R97, R278 to R280) and the INSTRUCTION_DECODE event. -/

namespace Sys2Proof.Machine

/-- The line of a position, and the slot within it (R95). -/
def linePos (p : Word) : Nat := p.toNat / 3
def slotPos (p : Word) : Nat := p.toNat % 3

/-- What a fetch gives: the state after it, and the 64 bytes of the line. -/
inductive Fetched where
  | ok (s : State) (line : BitVec 512)
  | trap (code : TrapCode) (subc : Nat)
  | moving
  deriving DecidableEq, Repr

/-- The fetch checks in order, and the line (R97). A line whose address leaves the address space is not canonical (R127). Where the
core holds an older published copy, either may be returned (R280; free choice, log 2, DESIGN CHOICE). A line whose home in the league's window
cannot be reached is waited for (R378). -/
def State.fetchLine (s : State) (slot : Nat) (p : Word) : Fetched :=
  let t := s.strand slot
  let core := coreOf slot
  if linePos p ≥ 2 ^ 58 then .trap .pageFault 2
  else
    match s.translate core t.pasid t.sys (BitVec.ofNat 64 (64 * linePos p)) .fetch with
    | .trap c => .trap c (transSubc c .fetch)
    | .held _ c => .trap c 2
    | .moving => .moving
    | .ok sp off _ _ =>
      let key := lineKey sp off
      if s.ubits.any (fun u => u.line == key) then .trap .fetchUnpublished 0
      else
        let ps := [s.pieceAt sp off 64 64]
        let g := s.readPieces core ps
        if ps.any s.beyond then .moving
        else if (s.piecesFate false ps).isSome then .trap .layoutMismatch 0
        else if g.poison.isSome then .trap .dataPoison 5
        else
          let fresh := BitVec.ofNat 512 (leNat g.bytes)
          let line := match tabFind (s.core core).icache key with
            | some old => if old = fresh then fresh else if Config.freeBool (s.fv + 45) then old else fresh
            | none => fresh
          if line.extractLsb' 0 32 != 0xC9000000#32 then .trap .illegalLine 0
          else
            .ok (g.s.takeFresh.modCore core (fun c => { c with icache := tabPut c.icache key line })) line

/-- The word of a slot of a line (R94). -/
def lineWord (line : BitVec 512) (k : Nat) : IWord := line.extractLsb' (32 + 160 * k) 160

/-- The line of the strand's pc is in its core's instruction cache, or is just being brought in (R247); a position whose fetch traps is
ready to trap. When a missing line arrives is timing (free choice, log 10, DESIGN CHOICE). -/
def State.linePresent (s : State) (slot : Nat) : Bool :=
  let t := s.strand slot
  match s.translate (coreOf slot) t.pasid t.sys (BitVec.ofNat 64 (64 * linePos t.pc)) .fetch with
  | .ok sp off _ _ => (tabFind (s.core (coreOf slot)).icache (lineKey sp off)).isSome || Config.freeBool (s.fv + 700 + slot % 4)
  | .moving => false
  | _ => true
/-- The instruction at the strand's pc would only wait: a full queue or a result wait (R100, R248). -/
def State.frontStalled (s : State) (slot : Nat) : Bool :=
  match ({ s with cur := slot, acting := .front } : State).fetchLine slot (s.strand slot).pc with
  | .ok s1 line => (match decodeWord (lineWord line (slotPos (s.strand slot).pc)) with
    | .ok i => (match ispec i, instrFields i with
      | some sp, some f => decodeStop i sp f s1 == some .stall
      | _, _ => false)
    | _ => false)
  | _ => false
/-- A strand is ready to decode, but for a YIELD of its own (R247). -/
def State.mayDecode (s : State) (slot : Nat) : Bool := frontReady s.cycle (s.strand slot) && s.linePresent slot && !(s.frontStalled slot)
/-- YIELD has withdrawn the strand: four cycles have not passed, and a strand that it gave way to is ready and has not decoded (R127). -/
def State.withdrawn (s : State) (slot : Nat) : Bool :=
  let t := s.strand slot
  decide (s.cycle < t.yieldUntil) && t.yieldTo.any s.mayDecode
/-- A strand may decode now (R247): YIELD has not withdrawn it, and its core has not decoded in this cycle. -/
def State.decodeReady (s : State) (slot : Nat) : Bool :=
  frontReady s.cycle (s.strand slot) && !(s.withdrawn slot) && (s.core (coreOf slot)).decAt != s.cycle + 1
/-- LAG (R314). -/
def lagOf (s : State) (t : Strand) : Nat := min (s.time - t.divertAt) (2 ^ 32 - 1)
/-- The first decode at WUE starts the wrap-up budget and ends the lag (R313, R314). -/
def State.wrapDecode (s : State) (slot : Nat) : State :=
  let t := s.strand slot
  if t.wrapFirst then s.setStrand slot { t with
    wrapFirst := false, budget := some (s.cycle + t.wub.toNat), dlst := t.dlst ||| BitVec.ofNat 64 (lagOf s t * 2 ^ 32) }
  else s
/-- The core decodes for the strand in this cycle: it counts for those that have yielded to it. -/
def State.decodes (s : State) (slot : Nat) : State :=
  let s1 := (({ s with cur := slot, acting := .front, latched := none } : State).modCore (coreOf slot) (fun c => { c with lastDec := slot % 4, decAt := s.cycle + 1 })).wrapDecode slot
  s1.mapStrands (fun n t => if coreOf n = coreOf slot ∧ t.yieldTo ≠ [] then { t with yieldTo := setDel t.yieldTo slot } else t)

/-- INSTRUCTION_DECODE: fetch the position of the strand, decode its word; `step` then runs the instruction, whose own checks
(R102 steps 3 to 10), guards and sampling follow within the same step. -/
def execInstructionDecode (slot : Nat) (s : State) : Out :=
  if slot ≥ 256 then .fault .badArgument
  else if !(s.decodeReady slot) then .next s
  else
    let s0 := s.decodes slot
    let p := (s.strand slot).pc
    match s0.fetchLine slot p with
    | .trap c sub => .next (s0.decodeTrap c 0 sub)
    | .moving => .next s0
    | .ok s1 line =>
      match decodeWord (lineWord line (slotPos p)) with
      | .bad c o => .next (s1.decodeTrap c o)
      | .ok i => .next { s1 with latched := some i }

end Sys2Proof.Machine
end

