-- ==== Sys2Proof/Machine/StrandEvents.lean ====
section
/-! DEFINITION. The events of a strand: windows, deliveries and replies (R84, R87, R139, R265), timers (R133, R141), the user
interrupt (R244), stops and retirement (R128, R260), diversion and wrap-up (R312 to R317). -/

namespace Sys2Proof.Machine

/-- The first element that satisfies a test, and the list without it. -/
def takeFirst {α : Type} (p : α → Bool) : List α → Option (α × List α)
  | [] => none
  | x :: r => if p x then some (x, r) else match takeFirst p r with
    | some (y, q) => some (y, x :: q)
    | none => none

/-- An event of a strand slot; one whose conditions do not hold does not happen. -/
def whenSlot (slot : Nat) (s : State) (r : Option State) : Out := if slot ≥ 256 then .fault .badArgument else .next (r.getD s)

/-! ### Windows, deliveries, replies -/

def windowDue (cyc : Nat) (f : Flight) : Bool := match f.endsAt with
  | some e => decide (e ≤ cyc)
  | none => false
/-- WINDOW_END (R87): the result has landed; flags merge and tokens are pushed. -/
def windowEnd? (slot : Nat) (s : State) : Option State :=
  match takeFirst (windowDue s.cycle) (s.strand slot).flight with
  | none => none
  | some (f, r) => some ((s.modStrand slot (fun t => { t with flight := r })).settle slot f.stream f.tk f.clock f.flags f.pos f.ring)
def execWindowEnd (slot : Nat) (s : State) : Out := whenSlot slot s (windowEnd? slot s)

/-- One scalar or predicate destination takes its delivered value; where a class-X write has met it, either result stays (R88,
R248). -/
def Strand.deliver (t : Strand) (cyc fv : Nat) (d : Dst) (v : Word) : Strand :=
  let clash := t.contested.contains d || t.inWindowX cyc d
  let t1 := if clash && Config.freeBool fv then t else t.writeDst d v
  { t1 with pending := t1.pending.filter (· != d), contested := t1.contested.filter (· != d) }
def isDelivery (f : Flight) : Bool := f.endsAt.isNone && !f.ack
/-- No access of the flight's queue waits for a reply of another device of the league (R378). -/
def State.replied (s : State) (slot : Nat) (f : Flight) : Bool :=
  !((s.strand slot).flight.any (fun g => g.stream == f.stream && s.awaitsReply g.tags))
/-- The front waits on one of these destinations: the position's instruction reads it, or is of class V and writes it (R248). -/
def State.frontWaits (s : State) (slot : Nat) (ds : List Dst) : Bool :=
  let t := s.strand slot
  frontReady s.cycle t && match s.translate (coreOf slot) t.pasid t.sys (BitVec.ofNat 64 (64 * linePos t.pc)) .fetch with
  | .ok sp off _ _ => match tabFind (s.core (coreOf slot)).icache (lineKey sp off) with
    | some line => match decodeWord (lineWord line (slotPos t.pc)) with
      | .ok i => match ispec i, instrFields i with
        | some sp, some f => let u := { t with pending := ds }; guardsPending u f || resultWait u i sp f
        | _, _ => false
      | _ => false
    | none => false
  | _ => false
/-- RESULT_DELIVERY (R139, R248): the destinations are written, their pending bits clear, flags merge, tokens are pushed; a front
that waited for it comes after it (R266). -/
def resultDelivery? (slot : Nat) (s : State) : Option State :=
  match takeFirst (fun f => isDelivery f && s.replied slot f) (s.strand slot).flight with
  | none => none
  | some (f0, r) =>
    let f := s.bindLoad slot (fun _ => true) f0
    let t := { s.strand slot with flight := r }
    let t1 := (f.dsts.zip f.vals).foldl (fun t x => t.deliver s.cycle (s.fv + 10) x.1 x.2) t
    let at_ : Place := .core (coreOf slot)
    let t2 := if s.frontWaits slot f.dsts then { t1 with seen := { t1.seen with front := joinClock t1.seen.front (passClock deviceScope at_ at_ f.clock) } } else t1
    some ((s.setStrand slot t2).settle slot f.stream f.tk f.clock f.flags f.pos f.ring)
def execResultDelivery (slot : Nat) (s : State) : Out := whenSlot slot s (resultDelivery? slot s)

/-- ACKNOWLEDGEMENT (R265): writes on their way perform; a reply ends the hold of the S queue, merges flags and pushes tokens. -/
def acknowledgement? (slot : Nat) (s : State) : Option State :=
  match takeFirst (fun f => f.ack && s.replied slot f) (s.strand slot).flight with
  | none => none
  | some (f, r) =>
    let s1 := f.late.foldl (fun u w => u.writePieces (u.strand slot).party false w.bytes w.pieces) s
    some ((s1.modStrand slot (fun t => { t with flight := r })).settle slot f.stream f.tk f.clock f.flags f.pos f.ring)
def execAcknowledgement (slot : Nat) (s : State) : Out := whenSlot slot s (acknowledgement? slot s)

/-! ### Timers -/

/-- A trap of the head of a queue of any strand. -/
def State.headTrap (s : State) (slot : Nat) (q : Queue) (e : QEntry) (code : TrapCode) (subc : Nat) : State :=
  s.raiseTrap slot { code := code, eng := engOf q, subc := subc, behind := ((s.strand slot).queue q).length - 1, pos := e.pos, qent := e.ring }
/-- WAIT_TIMER_EXPIRY (R141, R249): LDFE traps FE_TIMEOUT, every other waiting instruction WAIT_TIMEOUT; the condition was still false at
the expiry. -/
def waitTimerExpiry? (slot : Nat) (q : Queue) (s : State) : Option State :=
  let t := s.strand slot
  match t.queue q with
  | [] => none
  | e :: r => match e.waiting with
    | none => none
    | some w =>
      if w + t.limit ≤ s.cycle && w + t.limit ≤ e.tried.getD 0 && t.stopping.isNone && t.diverting.isNone && !t.preempting then
        let code : TrapCode := match e.instr with
          | .ldfe _ => .feTimeout
          | _ => .waitTimeout
        let opc := match ispec e.instr with
          | some sp => sp.opc % 256
          | none => 0
        some ((s.setStrand slot (t.setQueue q ({ e with waiting := none } :: r))).headTrap slot q e code opc)
      else none
def execWaitTimerExpiry (slot : Nat) (q : Queue) (s : State) : Out := whenSlot slot s (waitTimerExpiry? slot q s)

/-- WFE_LIMIT_EXPIRY (R133): the limit has passed without an event; D takes FALSE. -/
def wfeLimitExpiry? (slot : Nat) (s : State) : Option State :=
  match (s.strand slot).wfe with
  | none => none
  | some w => if w.until_ ≤ s.cycle && (s.strand slot).awaits s.cycle then some (s.endWfe slot false) else none
def execWfeLimitExpiry (slot : Nat) (s : State) : Out := whenSlot slot s (wfeLimitExpiry? slot s)

/-! ### The user interrupt (R244) -/

/-- A cause is pending and unmasked. -/
def uiPending (t : Strand) : Bool := t.uisEn && !t.uisInh && t.uisCause &&& ~~~t.uisMask != 0
/-- USER_INTERRUPT_ENTRY: shadow s63 takes the next position, shadow s62 the unmasked causes; decoding continues at UIV. -/
def userInterruptEntry? (slot : Nat) (s : State) : Option State :=
  let t := s.strand slot
  if frontReady s.cycle t && t.st != .wrap && uiPending t then
    some (s.setStrand slot { (t.setS 79 t.pc).setS 78 ((t.uisCause &&& ~~~t.uisMask).zeroExtend 64) with uisInh := true, pc := t.uiv })
  else none
def execUserInterruptEntry (slot : Nat) (s : State) : Out := whenSlot slot s (userInterruptEntry? slot s)

/-! ### Stop and retirement -/

/-- STRAND_STOP (R260, steps 4 to 6), after the cycle of the trap (R105); in a diversion's drain, the record of its trap (R317). -/
def strandStop? (slot : Nat) (s : State) : Option State :=
  let t := s.strand slot
  match t.stopping with
  | none => none
  | some r =>
    if !s.fqFull && r.before s.cycle && (t.diverting.isSome || s.quiet slot) then some (s.finishTrap slot) else none
def execStrandStop (slot : Nat) (s : State) : Out := whenSlot slot s (strandStop? slot s)

/-- No matrix operation of the strand is left in its core's queue. -/
def State.matrixLeft (s : State) (slot : Nat) : Bool := (s.core (coreOf slot)).matq.any (fun o => o.slot == slot)
/-- Steps 2 to 4 of R128 are over. -/
def State.haltDone (s : State) (slot : Nat) : Bool :=
  let t := s.strand slot
  t.lq.isEmpty && t.cq.isEmpty && t.sq.isEmpty && t.flight.isEmpty && !(s.commandsLeft slot) && !(s.matrixLeft slot)
/-- STRAND_RETIRE (R128, R240): a STATUS of 0 becomes 4. -/
def strandRetire? (slot : Nat) (s : State) : Option State :=
  let t := s.strand slot
  if t.halting && (t.st == .run || t.st == .wrap || t.st == .held) && t.stopping.isNone && !t.preempting && !t.killing && s.haltDone slot && !(s.rdBlocked slot) then
    let t1 := { t.noTokens with st := .retired, halting := false, rdStatus := if t.rdStatus = 0 then 4 else t.rdStatus }
    some (((s.setStrand slot t1).countEnd slot).finalRd slot)
  else none
def execStrandRetire (slot : Nat) (s : State) : Out := whenSlot slot s (strandRetire? slot s)

/-! ### Diversion (R312 to R317) -/

/-- The effective deadline has been reached (R308). -/
def State.deadlineReached (s : State) (slot : Nat) : Bool :=
  match (s.strand slot).deadline with
  | some d => decide (d ≤ s.time)
  | none => false
/-- CAUSE of DLST (R314). -/
def divertCause (t : Strand) : BitVec 3 :=
  match t.deadline with
  | none => 0
  | some d => if d ≤ t.boundAt then 3 else match t.sub, t.launchDeadline with
    | some a, some b => if a < b then 2 else 1
    | some _, none => 2
    | none, _ => 1

/-- Discard the unissued entries of the three queues: their pending bits clear, their registers keep their values (R248, R313). -/
def Strand.discardQueues (t : Strand) : Strand :=
  let gone := (t.lq ++ t.cq ++ t.sq).flatMap (fun e => e.dsts)
  { t with
    lq := [], cq := [], sq := [], pending := t.pending.filter (fun d => !(gone.contains d))
    contested := t.contested.filter (fun d => !(gone.contains d)) }
/-- At a diversion: the strand's queued matrix operations are discarded, a running nest is to stop, any other operation that has begun, an
MPRE that loads early among them, finishes (R214). -/
def Core.divertMatrix (c : Core) (slot : Nat) : Core :=
  { c with
    matq := (c.matq.filter (fun o => o.slot != slot || o.running || o.loaded)).map (fun o => if o.slot = slot then { o with divert := true } else o)
    copyq := c.copyq.filter (fun x => !(x.slot == slot && x.failed))
    matStop := if c.matStop = some slot then none else c.matStop, copyStop := if c.copyStop = some slot then none else c.copyStop }
/-- The parts of a strand that stop at once at a diversion or a budget kill. -/
def State.discardWork (s : State) (slot : Nat) : State :=
  let t := s.strand slot
  let s1 := s.setStrand slot { t.discardQueues with wfe := none, trapped := [], calling := if t.inTlbi then t.calling else none }
  let s2 := s1.modCore (coreOf slot) (fun c => c.divertMatrix slot)
  let s3 := s2.mapQuads (fun _ d => { d with
    q := d.q.filter (fun x => !(x.slot == slot && x.failed)), stop := if d.stop = some slot then none else d.stop })
  { s3 with held := s3.held.filter (fun h => match h.holder with
    | .access n _ => n != slot
    | _ => true) }

def bitWord (b : Bool) (k : Nat) : Word := if b then BitVec.ofNat 64 (2 ^ k) else 0
/-- DEADLINE_DIVERSION (R312, R313): the main stream ends and the drain begins; DLST is gathered. -/
def deadlineDiversion? (slot : Nat) (s : State) : Option State :=
  let t := s.strand slot
  if (t.st == .run || t.st == .held || t.st == .stop || t.st == .sysw) && !t.halting && !t.killing && t.diverting.isNone && t.stopping.isNone &&
      !t.inWrap && !t.inTlbi && s.deadlineReached slot then
    let acc : Word := (divertCause t).zeroExtend 64 ||| bitWord (t.st == .stop) 4 ||| bitWord (t.st == .sysw) 5 |||
      bitWord ((t.lq ++ t.sq).any (fun e => e.held.isSome)) 6 ||| bitWord t.uisInh 8 |||
      BitVec.ofNat 64 (t.lq.length * 2 ^ 16 + t.cq.length * 2 ^ 21 + t.sq.length * 2 ^ 26)
    let s1 := (s.discardWork slot).modCore (coreOf slot) (fun c => { c with copyq := s.leaveReduces slot [] c.copyq })
    some (s1.modStrand slot (fun u => { u with
      st := .run, diverting := some (divertCause t), divertAt := t.deadline.getD 0, dlstAcc := acc, uisEn := false, uisInh := false, yieldUntil := 0, yieldTo := [] }))
  else none
def execDeadlineDiversion (slot : Nat) (s : State) : Out := whenSlot slot s (deadlineDiversion? slot s)

/-- WRAPUP_START (R309, R313): the drain is over; the FIFOs are emptied, DLST is written, but for LAG, which ends with the first decode at WUE,
as the budget begins with it. -/
def wrapupStart? (slot : Nat) (s : State) : Option State :=
  let t := s.strand slot
  if t.diverting.isSome && t.stopping.isNone && !t.preempting && s.quiet slot && !(s.matrixLeft slot) then
    some (s.setStrand slot { t.noTokens with
      st := .wrap, diverting := none, pc := t.wue.zeroExtend 64, budget := none, wrapFirst := true, committedWrap := false
      dlst := t.dlstAcc ||| 8 })
  else none
def execWrapupStart (slot : Nat) (s : State) : Out := whenSlot slot s (wrapupStart? slot s)

/-- The budget of a strand in wrap-up, stopped in it or draining toward HALT, has run out (R313, R315). -/
def budgetOut (t : Strand) (cyc : Nat) : Bool :=
  t.inWrap && t.stopping.isNone && !t.preempting &&
  match t.budget with
  | some e => decide (e ≤ cyc)
  | none => false
/-- The record of a budget kill (R315). -/
def budgetTrap (t : Strand) : TrapRec := { code := .budgetExhausted, eng := 0, pos := t.pc }
/-- BUDGET_EXHAUSTED (R315): unissued entries are discarded; once issued work is complete the record is written and posted and the
strand is KILLED. -/
def budgetExhausted? (slot : Nat) (s : State) : Option State :=
  let t := s.strand slot
  if !(t.killing || budgetOut t s.cycle) then none
  else
    let s1 := if t.killing then s else (s.discardWork slot).modStrand slot (fun u => { u with killing := true })
    if !(s1.quiet slot) || s1.matrixLeft slot || s1.fqFull || s1.rdBlocked slot then (if t.killing then none else some s1)
    else
      let u := s1.strand slot
      let r := budgetTrap t
      let s2 := s1.postFault (s1.trapInfo slot r .trap)
      let u1 := { (u.recordTrap r true).noTokens with
        st := .killed, killing := false, halting := false, budget := none, rdStatus := if u.committedWrap then u.rdStatus else 3 }
      some (((s2.setStrand slot u1).countEnd slot).finalRd slot)
def execBudgetExhausted (slot : Nat) (s : State) : Out := whenSlot slot s (budgetExhausted? slot s)

end Sys2Proof.Machine
end

