-- ==== Sys2Proof/Machine/Bundles.lean ====
section
/-! DEFINITION. Bundles (R329 to R344): the LAUNCH packet, the bind group's checks and commit, the start, completion and teardown. -/

namespace Sys2Proof.Machine

def State.bundle (s : State) (id : Word) : Option Bundle := s.bundles.find? (fun b => b.id == id)
def State.setBundle (s : State) (b : Bundle) : State := { s with bundles := s.bundles.map (fun x => if x.id = b.id then b else x) }
def State.dropBundle (s : State) (id : Word) : State := { s with bundles := s.bundles.filter (fun x => x.id != id) }

/-! ### LAUNCH (R328, R329, R331) -/


def lnStrd (d : BitVec 512) : Nat := fld d 48 8
def lnCount (d : BitVec 512) : Nat := fld d 56 9
def lnNsub (d : BitVec 512) : Nat := fld d 16 4
def subKind (d : BitVec 512) : Nat := fld d 9 2
def subIsStrands (d : BitVec 512) : Bool := subKind d == 0
/-- The SUB slots behind a LAUNCH; none while one is not VALID. -/
def State.readSubs (s : State) (q : Qcb) (j : Nat) : Nat → Except Bad (Option (List (BitVec 512)))
  | 0 => .ok (some [])
  | m + 1 => match s.readSlot q j with
    | .error b => .error b
    | .ok (s1, d) =>
      if !(pktValid d) then .ok none
      else match s1.readSubs q (j + 1) m with
      | .error b => .error b
      | .ok none => .ok none
      | .ok (some r) => .ok (some (d :: r))
/-- R331: a bundle is refused. -/
def launchRefused (q : Qcb) (img : Option Image) (d : BitVec 512) (subs : List (BitVec 512)) : Bool :=
  match img with
  | none => true
  | some i =>
    let n := i.strands.length
    let total := lnCount d + (subs.filter subIsStrands).foldl (fun a x => a + fld x 40 9) 0
    lnStrd d ≥ n || fld d 160 32 ≥ nsPerSec || subs.any (fun x => pktType x != 2 || subKind x == 3 || (subIsStrands x && fld x 32 8 ≥ n)) ||
    total > i.cstr || (q.typ == 1 && (subs.any (fun x => subKind x != 1) || lnCount d != 0)) ||
    (q.typ == 2 && (subs.any (fun x => subKind x != 2) || lnCount d != 0))
/-- LNCH (R329): the count includes this LAUNCH. -/
def launchId (q : Qcb) : Word := BitVec.ofNat 64 ((q.seq + 1).toNat * 2 ^ 32 + q.pasid.toNat * 2 ^ 12 + q.qnum.toNat)
def Packet.bundle (p : Packet) (subs : List (BitVec 512)) : Bundle :=
  let d := p.d
  let id := launchId p.q
  { id := id, lnch := id, pasid := p.q.pasid, image := lnImage d, qcb := some p.k, prio := p.q.prio.toNat, typ := p.q.typ.toNat
    bar := d.getLsbD 9, packet := p.q.slotVa p.q.ridx.toNat
    subs := { strd := lnStrd d, count := lnCount d } :: (subs.filter subIsStrands).map (fun x => { strd := fld x 32 8, count := fld x 40 9 })
    jobs := (subs.filter (fun x => !(subIsStrands x))).map (fun x => { kind := subKind x, pro := subKind x == 1 && x.getLsbD 11, qn := fld x 12 2, descVa := x.extractLsb' 64 64 })
    dlsec := d.extractLsb' 112 48, dlnsec := d.extractLsb' 160 32, argva := d.extractLsb' 192 64, rdbase := d.extractLsb' 256 64
    sigva := d.extractLsb' 320 64, presentedAt := p.s.time, msiv := p.q.msiv.toNat
    seen := ((List.range subs.length).foldl (fun t j => t.slotGains p.n p.q (j + 1)) p.s).thread p.n |>.seen }
/-- LAUNCH: the packets are read whole, then the bundle is presented or refused; BAR waits for the queue's earlier bundles. -/
def launch? (n : Nat) (s : State) : Option State :=
  s.serve n (isType 1) (fun p => match p.s.readSubs p.q 1 (lnNsub p.d) with
    | .error b => .error b
    | .ok none => .ok none
    | .ok (some subs) =>
      let img := p.s.imageFind p.q.pasid (lnImage p.d)
      if launchRefused p.q img p.d subs then p.refuse p.s ((img.map (fun i => i.trail)).getD 3) (1 + subs.length)
      else if p.d.getLsbD 9 && p.s.bundles.any (fun b => b.qcb == some p.k && b.pasid == p.q.pasid && b.id.toNat % 4096 == p.q.qnum.toNat) then .ok none
      else
        let s1 := p.s.setQcb p.k { p.q with seq := p.q.seq + 1 }
        (p.consume { s1 with bundles := s1.bundles ++ [p.bundle subs], timeLocked := true } (1 + subs.length)).map some)
def execLaunch (thread : Nat) (s : State) : Out := whenThread thread s (launch? thread s)

/-! ### The bind group (R333, R334) -/

def State.bind (s : State) (slot : Nat) : BindRec := tabGet s.binds {} slot
/-- The records that a GO commits. -/
def State.groupOf (s : State) (bndl : Word) : List (Nat × BindRec) :=
  s.binds.filter (fun x => x.2.valid && x.2.bndl == bndl && x.2.state == 0 && !x.2.rfsd)
def ended (t : Strand) : Bool := t.st == .retired || t.st == .killed
/-- The records whose strands hold resources. -/
def State.occupying (s : State) : List (Nat × BindRec) := s.binds.filter (fun x => x.2.valid && (x.2.state == 1 || x.2.state == 2) && !(ended (s.strand x.1)))
/-- Nothing of an earlier strand is left in the slot. -/
def State.slotFree (s : State) (slot : Nat) : Bool :=
  let t := s.strand slot
  let c := s.core (coreOf slot)
  (t.st == .unbound || ended t) && t.rdHeld.isNone && !t.rdWait && s.occupying.all (fun x => x.1 != slot) &&
  !(c.copyq.any (fun x => x.slot == slot)) && !(c.matq.any (fun x => x.slot == slot)) && !(s.quads.any (fun x => x.2.q.any (fun y => y.slot == slot)))
/-- Windows of one core: disjoint, within 12 groups. -/
def windowsOk (l : List BindRec) : Bool :=
  let used := l.flatMap (fun r => (List.range r.ngrp.toNat).map (r.wbase.toNat + ·))
  used.all (· < 12) && used.eraseDups.length == used.length
/-- LM groups of one core, once for each launch: distinct, at most 4. -/
def lmOk (l : List BindRec) : Bool :=
  let per := (l.map (fun r => (r.lnch, r.groups))).eraseDups
  let used := per.flatMap (fun x => x.2)
  used.length ≤ 4 && used.eraseDups.length == used.length
def healthyArray (c : Core) : Bool := c.mstat.fenced != 0xF
def State.mownOk (s : State) (core : Nat) (l : List BindRec) : Bool :=
  let m := l.filter (fun r => r.mown)
  m.length ≤ 1 && m.all (fun r => healthyArray (s.core core) && (match s.imageFind r.pasid r.image with
    | some i => i.cmat == r.strd.toNat
    | none => false))
/-- FUSE records fill their cluster: its strands are all of one launch, and FUSE records of it lie on each of its cores. A record of the group joins
no cluster that another launch has fused. -/
def fuseOk (all g : List (Nat × BindRec)) (x : Nat × BindRec) : Bool :=
  let near (l : List (Nat × BindRec)) : List (Nat × BindRec) := l.filter (fun y => coreOf y.1 / 4 == coreOf x.1 / 4)
  if x.2.fuse then
    (near all).all (fun y => y.2.lnch == x.2.lnch) && (List.range 4).all (fun k => (near g).any (fun y => y.2.fuse && coreOf y.1 == coreOf x.1 / 4 * 4 + k))
  else (near all).all (fun y => !y.2.fuse || y.2.lnch == x.2.lnch)
/-- Totals of a context against its quotas. -/
def quotaOk (c : BitVec 1024) (l : List (Nat × BindRec)) : Bool :=
  let lm := ((l.map (fun x => (coreOf x.1, x.2.lnch, x.2.lmn.toNat))).eraseDups.map (fun y => y.2.2)).foldl (· + ·) 0
  l.length ≤ cQstr c && (l.map (fun x => x.2.ngrp.toNat)).foldl (· + ·) 0 ≤ cQvg c && lm ≤ cQlm c
/-- Every check of R334. -/
def State.groupOk (s : State) (g : List (Nat × BindRec)) : Bool :=
  let all := s.occupying ++ g
  let cores := (g.map (fun x => coreOf x.1)).eraseDups
  let on (k : Nat) : List BindRec := (all.filter (fun x => coreOf x.1 == k)).map Prod.snd
  g.all (fun x => x.1 < 256 && s.slotFree x.1) && cores.all (fun k => windowsOk (on k) && lmOk (on k) && s.mownOk k (on k)) &&
  g.all (fuseOk all g) &&
  (g.map (fun x => x.2.pasid)).eraseDups.all (fun p => quotaOk (s.context p) (all.filter (fun x => x.2.pasid == p)))
def State.setBinds (s : State) (g : List (Nat × BindRec)) (f : BindRec → BindRec) : State :=
  { s with binds := g.foldl (fun t x => tabPut t x.1 (f x.2)) s.binds }
/-- Records in instance order: by result descriptor. -/
def insertByRd (x : Nat × BindRec) : List (Nat × BindRec) → List (Nat × BindRec)
  | [] => [x]
  | y :: r => if x.2.rdva.toNat < y.2.rdva.toNat then x :: y :: r else y :: insertByRd x r
def byInstance (g : List (Nat × BindRec)) : List (Nat × BindRec) := g.foldl (fun l x => insertByRd x l) []
/-- What a slot holds between its bind record's commit and its strand's start: the context that prologue jobs use. It is at user privilege, as are
the jobs of a bundle without strands: R115 gives system privilege to the strands of an image (log 93, DESIGN CHOICE). -/
def State.claimSlot (s : State) (x : Nat × BindRec) : State :=
  let c := s.context x.2.pasid
  s.setStrand x.1 { pasid := x.2.pasid, lnch := x.2.lnch, htb := cHtb c, rrt := cRrt c, lmGroups := x.2.groups }
/-- The bundle of a group that no LAUNCH presented (R329). -/
def policyBundle (id : Word) (r : BindRec) : Bundle :=
  { id := id, lnch := r.lnch, pasid := r.pasid, image := r.image, dlsec := 0xFFFFFFFFFFFF, subs := [{ strd := r.strd.toNat, count := 1 }] }
def Bundle.total (b : Bundle) : Nat := b.subs.foldl (fun a x => a + x.count) 0
/-- The first place of a context's save area that no bundle of the context has (log 18, DESIGN CHOICE). -/
def State.freeArea (s : State) (pasid : BitVec 20) : Nat :=
  ((List.range (s.bundles.length + 1)).find? (fun k => s.bundles.all (fun b => b.pasid != pasid || b.st == .presented || b.area != k))).getD 0
/-- GO := 1 in the last record of a group (R333). -/
def State.writeGo (s : State) (id : Word) : State := match (s.groupOf id).getLast? with
  | some x => { s with binds := tabPut s.binds x.1 { x.2 with go := true } }
  | none => s
/-- The commit of a fresh group, by GO: bound whole, or refused whole with RFSD. -/
def State.commitGroup (s : State) (id : Word) : Option State :=
  let g := byInstance (s.groupOf id)
  match g with
  | [] => none
  | x :: _ =>
    if !(g.any (fun y => y.2.go)) then none
    else if !(s.groupOk g) then some (s.setBinds g (fun r => { r with rfsd := true }))
    else
      let s1 := s.setBinds g (fun r => { r with state := 1 })
      let s2 := if (s1.bundle id).isSome then s1 else { s1 with bundles := s1.bundles ++ [policyBundle id x.2] }
      let b := (s2.bundle id).getD (policyBundle id x.2)
      let s3 := g.foldl (fun t y => t.claimSlot y) s2
      some (s3.setBundle { b with st := .bound, slots := if b.total = 0 then [] else g.map Prod.fst, home := x.1, area := s.freeArea b.pasid })

/-! ### The start (R332) -/

/-- Where a job's descriptor lies. -/
def State.jobPlace (s : State) (b : Bundle) (j : Job) : Except Bad (List Piece) := s.translateRange (coreOf b.home) b.pasid (s.strand b.home).sys .read 3 j.descVa 64
/-- A descriptor among the jobs that are to be issued whose page holds the access: the start waits for it (R219, R326, R348; log 94, DEDUCED). -/
def State.jobsHeld (s : State) (b : Bundle) (p : Job → Bool) : Option Bad :=
  (b.jobs.filter (fun j => p j && !j.issued)).findSome? (fun j => match s.jobPlace b j with
    | .error (.trap _ _) => none
    | .error x => some x
    | .ok _ => none)
/-- A job of a bundle becomes a command; a descriptor that cannot be read is an engine error of the bundle, and poison in it makes no difference
(log 91, DESIGN CHOICE). -/
def State.issueJob (s : State) (b : Bundle) (i : Nat) (j : Job) : State :=
  let core := coreOf b.home
  let mark (t : State) (j : Job) : State := match t.bundle b.id with
    | some x => t.setBundle { x with jobs := x.jobs.set i j }
    | none => t
  match s.jobPlace b j with
  | .error _ => mark s { j with issued := true, code := some 5 }
  | .ok ps =>
    let g := s.readPieces core ps
    let c : Cmd := { slot := b.home, core := core, pos := 0, ring := 0, seq := 0, desc := BitVec.ofNat 512 (leNat g.bytes), descVa := j.descVa
                     viaQput := true, job := some b.id, jobIx := i, accepted := s.cycle, party := .device .processor, clock := addSeen (s.ownWrites (.device .processor) .device) b.seen }
    mark (if j.kind = 1 then g.s.enterCopy c else g.s.enterMemory j.qn c) { j with issued := true }
def issueJobs (s : State) (b : Bundle) (p : Job → Bool) : State :=
  b.jobs.zipIdx.foldl (fun t x => if p x.1 && !x.1.issued then t.issueJob b x.2 x.1 else t) s
/-- Room for jobs in the queues that they go to. -/
def State.jobRoom (s : State) (b : Bundle) (js : List Job) : Bool :=
  (s.core (coreOf b.home)).copyq.length + js.countP (fun j => j.kind == 1) ≤ 32 &&
  (List.range 4).all (fun q => (s.quad q).q.length + js.countP (fun j => j.kind == 2 && j.qn == q) ≤ 64)
/-- Clear the LM groups of a bind (R255). -/
def Core.clearLm (c : Core) (gs : List Nat) : Core :=
  let inside (o : Nat) : Bool := gs.contains (o / 2 ^ 19)
  { c with lm := c.lm.filter (fun x => !(inside x.1)), full := c.full.filter (fun w => !(inside (4 * w))), lmBad := c.lmBad.filter (fun w => !(inside (4 * w)))
           lmFresh := c.lmFresh.filter (fun w => !(inside (4 * w))), lmCe := c.lmCe.filter (fun w => !(inside (4 * w))) }
def Core.clearWindow (c : Core) (wb n : Nat) : Core :=
  { c with vrf := c.vrf.filter (fun x => !(8 * wb ≤ x.1 / 16384 && x.1 / 16384 < 8 * (wb + n))) }
/-- The matrix state that a bind gives its owner (R62, R194, R405); what the self-tests have found stays. -/
def Core.clearMatrix (c : Core) : Core :=
  { c with
    z := [], active := {}, shadow := {}, meta_ := [], activeMeta := [], cfg := {}, scales := [], scaleSeq := 0, matStop := none
    mstat := { fenced := c.mstat.fenced, susp := c.mstat.susp, tstok := c.mstat.tstok, suspn := c.mstat.suspn, nslt := c.mstat.nslt,
               nsp := c.mstat.nsp, testedAt := c.mstat.testedAt } }
/-- The strand as bound (R53, R72, R246, R308). -/
def State.boundAs (s : State) (b : Bundle) (img : Image) (r : BindRec) : Strand :=
  let c := s.context r.pasid
  let d := (img.strands[r.strd.toNat]?).getD { entry := 0, wrapup := 0, budget := 1 }
  { st := .run, pc := d.entry, s := tabSet (tabSet [] 0 1 r.argva) 0 2 (r.idx.zeroExtend 64), dlns := b.dlsec, dlnn := b.dlnsec, wue := d.wrapup
    wub := d.budget, lnch := r.lnch, htb := cHtb c, rrt := cRrt c, cwb := img.cwb.map (fun x => (x.1, setFld x.2 8 4 0)), ngrp := r.ngrp, wbase := r.wbase, mown := r.mown
    lpos := if s.lgEn then s.lgPos else 0, sys := img.sysa, pasid := r.pasid, genpages := img.cgen, lmGroups := r.groups, fuse := r.fuse, cycBase := s.cycle
    runBase := s.time, est := img.est, limit := cLimit c, boundAt := s.time, rdAddr := r.rdva, serial := s.wcount + 1
    seen := { l := b.seen, c := b.seen, s := b.seen, front := b.seen } }
/-- What a bind takes from the caches of its core: constant lines, known rounds, stamped copies and region entries of the context (R66, R273,
R274). -/
def Core.forget (c : Core) (pasid : BitVec 20) : Core :=
  { c with
    ccache := c.ccache.filter (fun x => x.1 / 2 ^ 58 != pasid.toNat), known := c.known.filter (fun x => regionPasid x.1 != pasid)
    stamps := c.stamps.filter (fun x => regionPasid x.region != pasid), regions := c.regions.filter (fun x => x.1 / 2 ^ 64 != pasid.toNat) }
def State.bindStrand (s : State) (b : Bundle) (img : Image) (slot : Nat) : State :=
  let r := s.bind slot
  let s0 := (({ s with wcount := s.wcount + 1 } : State).setStrand slot (s.boundAs b img r)).clearL1s slot
  let s1 := s0.modCore (coreOf slot) (fun c =>
    let c1 := ((c.clearLm r.groups).clearWindow r.wbase.toNat r.ngrp.toNat).forget r.pasid
    if r.mown then c1.clearMatrix else c1)
  match s1.writeRd slot with
  | .ok s2 => s2
  | .error _ => s1
/-- A bundle's start meets a page that holds its access: the thread of its queue holds it, where it has one (R326). -/
def State.startHeld (s : State) (b : Bundle) (x : Bad) : Option State := match b.qcb with
  | some k => if (s.qcb k).mapped && (s.thread (s.qcb k).thread.toNat).held.isNone && !(s.qcb k).stall then s.threadBad (s.qcb k).thread.toNat k x else none
  | none => none
/-- The strands of a bundle bind. -/
def State.bindAll (s : State) (b : Bundle) (img : Image) : State := b.slots.foldl (fun t n => t.bindStrand b img n) s
/-- BUNDLE_START: prologue copies are issued; once they have completed with CODE 1, the strands start and the other jobs are issued, in
one step; a prologue that failed stops the bundle. A page under move or flip that a descriptor or a result descriptor lies in delays the step
(R348). -/
def bundleStart? (id : Word) (s : State) : Option State :=
  match s.bundle id with
  | none => none
  | some b =>
    let pro := b.jobs.filter (fun j => j.pro)
    let rest := b.jobs.filter (fun j => !j.pro)
    if b.st != .bound then none
    else if pro.any (fun j => !j.issued) then
      (if !(s.jobRoom b pro) then none
       else match s.jobsHeld b (fun j => j.pro) with
         | some x => s.startHeld b x
         | none => some (issueJobs s b (fun j => j.pro)))
    else if pro.any (fun j => j.code.isNone) then none
    else if pro.any (fun j => j.code != some 1) then
      some (s.setBundle { b with st := .started, slots := [], engineError := true, jobs := pro })
    else if !(s.jobRoom b rest) then none
    else match s.imageFind b.pasid b.image with
    | none => none
    | some img =>
      let s1 := s.bindAll b img
      if b.slots.any (fun n => match s1.rdPlace n with
        | .error .moving => true
        | _ => false) then none
      else match s1.jobsHeld b (fun j => !j.pro) with
      | some x => s.startHeld b x
      | none => some (issueJobs (s1.setBundle { b with st := .started }) b (fun j => !j.pro))
/-- An event whose conditions do not hold does not happen: nothing changes. -/
def whenSome (s : State) (r : Option State) : Out := .next (r.getD s)
def execBundleStart (bndl : BitVec 64) (s : State) : Out := whenSome s (bundleStart? bndl s)

/-! ### Completion (R341 to R343) -/

/-- Work of a slot's own strand is left in an engine queue. -/
def State.workLeft (s : State) (slot : Nat) : Bool :=
  let c := s.core (coreOf slot)
  c.matq.any (fun x => x.slot == slot) || c.copyq.any (fun x => x.slot == slot && x.job.isNone) ||
  s.quads.any (fun x => x.2.q.any (fun y => y.slot == slot && y.job.isNone))
/-- Every strand has ended and its result is written, and every job has completed. -/
def State.bundleOver (s : State) (b : Bundle) : Bool :=
  b.st == .started && b.jobs.all (fun j => j.code.isSome) &&
  b.slots.all (fun n => (s.strand n).lnch != b.lnch || (ended (s.strand n) && (s.strand n).rdHeld.isNone && !(s.strand n).rdWait && !(s.workLeft n)))
/-- CODE of the trailer. -/
def Bundle.code (b : Bundle) : Nat :=
  if b.torn then 4 else if b.engineError || b.jobs.any (fun j => j.code != some 1) then 3 else if b.nexp + b.nnc + b.nkill > 0 then 2 else 1
/-- What the bundle's parties have written. -/
def State.bundleClock (s : State) (b : Bundle) : Clock :=
  b.slots.foldl (fun c n =>
    let t := s.strand n
    let at_ : Place := .core (coreOf n)
    let own := [t.party, .copy t.serial] ++ (List.range 4).map (Party.memory t.serial)
    let took := [t.seen.l, t.seen.c, t.seen.s, t.seen.front, t.seen.copy] ++ t.seen.memory.map Prod.snd
    own.foldl (fun k p => addSeen (s.ownWrites p at_) k) (took.foldl joinClock c)) (addSeen (s.ownWrites (.device .processor) .device) b.seen)
/-- Step 4 of R343, the end of the launch's holds (R233) and of its fused L1s (R258). -/
def State.retireBundle (s : State) (b : Bundle) : State :=
  let s1 : State := { s with holds := s.holds.filter (fun h => h.lnch != b.lnch), binds := s.binds.filter (fun x => x.2.bndl != b.id) }
  (b.slots.foldl (fun t n => if (s.strand n).lnch = b.lnch then t.clearL1s n else t) s1).dropBundle b.id
def Bundle.trail (b : Bundle) (s : State) : BitVec 16 := match s.imageFind b.pasid b.image with
  | some i => i.trail
  | none => 3
/-- The queue of a bundle is still mapped in the table under its key. -/
def State.queueHas (s : State) (b : Bundle) (k : Nat) : Bool :=
  (s.qcb k).st == 1 && (s.qcb k).pasid == b.pasid && (s.qcb k).qnum.toNat == b.id.toNat % 4096
/-- A write of a bundle's completion fails after its queue has been unmapped: it is held by a record of its own, waits for a move, or is not made (log
95, DESIGN CHOICE). -/
def State.completionBad (s : State) (b : Bundle) (step : Nat) (x : Bad) : Option State :=
  match x with
  | .moving => none
  | .held kind code va a =>
    if s.holdFull kind then none
    else
      let (seq, s1) := s.postHold { kind := kind, eng := 7, acc := a, code := code.value, va := va, pasid := b.pasid }
      let h : Held := { seq := seq, kind := kind, holder := .completion b.id, pasid := b.pasid, va := va, acc := a }
      some (({ s1 with held := s1.held ++ [h] } : State).setBundle { b with heldBy := some seq, failing := step })
  | .trap _ _ => some (s.setBundle { b with skip := step })
/-- BUNDLE_COMPLETE. A stall that a WAIT's timeout made stops the queue's packets alone (R330); one that a delivery to a write of this completion made
stops the write until it is cleared (R326). The message goes to MSIV of the queue as the LAUNCH found it, mapped or not (log 95, DESIGN CHOICE). -/
def bundleComplete? (id : Word) (s : State) : Option State :=
  match s.bundle id with
  | none => none
  | some b =>
    if !(s.bundleOver b) || b.heldBy.isSome then none
    else match b.qcb with
    | none => some (s.retireBundle b)
    | some k =>
      let q := s.qcb k
      if s.queueHas b k && ((b.heldUp && q.stall) || (q.mapped && (s.thread q.thread.toNat).held.isSome)) then none
      else match s.announce b.pasid b.packet b.sigva (b.trail s) b.msiv (trailerWord b.ncom b.nexp b.nnc b.nkill b.code) b.code b.skip (s.bundleClock b) with
      | .ok s1 => some (s1.retireBundle b)
      | .error (step, x) =>
        if s.queueHas b k then (if q.mapped then (s.threadBad q.thread.toNat k x).map (fun t => t.setBundle { b with heldUp := true }) else none)
        else s.completionBad b step x
def execBundleComplete (bndl : BitVec 64) (s : State) : Out := whenSome s (bundleComplete? bndl s)

/-! ### Teardown (R344) -/

/-- A strand is killed where it stands: its unissued entries and its queued commands are discarded. -/
def State.tearStrand (s : State) (slot : Nat) : State :=
  let t := s.strand slot
  if ended t || t.st == .unbound then s
  else
    let keep (c : Cmd) : Bool := !(c.slot == slot && c.job.isNone && !c.started)
    let s1 := s.setStrand slot { t.discardQueues.noTokens with
      st := .killed, wfe := none, stopping := none, diverting := none, preempting := false, halting := false, killing := false, budget := none
      calling := none, trapped := [] }
    let s2 := s1.modCore (coreOf slot) (fun c => { c with
      matq := c.matq.filter (fun o => o.slot != slot || o.running), copyq := c.copyq.filter keep
      matStop := if c.matStop = some slot then none else c.matStop, copyStop := if c.copyStop = some slot then none else c.copyStop })
    let s3 := s2.mapQuads (fun _ d => { d with q := d.q.filter keep, stop := if d.stop = some slot then none else d.stop })
    { s3 with held := s3.held.filter (fun h => match h.holder with
      | .access n _ => n != slot
      | _ => true) }
/-- Jobs that have not started are discarded. -/
def State.tearJobs (s : State) (b : Bundle) : State :=
  let gone (c : Cmd) : Bool := c.job == some b.id && !c.started
  let live := (s.core (coreOf b.home)).copyq ++ s.quads.flatMap (fun x => x.2.q)
  let started (i : Nat) : Bool := live.any (fun c => c.job == some b.id && c.started && c.jobIx == i)
  let s1 := s.modCore (coreOf b.home) (fun c => { c with copyq := c.copyq.filter (fun x => !(gone x)) })
  let s2 := s1.mapQuads (fun _ d => { d with q := d.q.filter (fun x => !(gone x)) })
  s2.setBundle { b with jobs := b.jobs.zipIdx.map (fun j =>
    if j.1.code.isSome || (j.1.issued && started j.2) then j.1 else { j.1 with code := some 6, issued := true }) }
/-- Tear a bundle down, its accesses performed; the masks that its launch has stepped are aborted (R392). -/
def State.tearDown (s0 : State) (b : Bundle) : State :=
  let s := s0.settleAll
  let live := b.slots.countP (fun n => (s.strand n).lnch == b.lnch && !(ended (s.strand n)) && (s.strand n).st != .unbound)
  let waiting := b.saved.countP (fun x => x.2.2.behind != .retired && x.2.2.behind != .killed && x.2.2.behind != .unbound)
  let s1 := b.slots.foldl (fun t n => if (t.strand n).lnch == b.lnch then t.tearStrand n else t) s
  let b1 := { b with st := .started, torn := true, nkill := b.nkill + live + waiting, saved := [], savedCores := [], savedCmds := [], log := []
                     slots := if b.st = .bound || b.st = .saved then [] else b.slots }
  let masks := (s1.stepped.filter (fun x => x.1 == b.lnch)).map (fun x => x.2.toNat)
  ({ s1 with abortDue := (masks.filter (fun m => s1.stepMasks.contains m)).foldl setAdd s1.abortDue }.setBundle b1).tearJobs b1
/-- A context that is gone: its PASID entry is not valid, and bundles, key-value blocks or row entries are still its own (log 80, DEDUCED). -/
def State.goneContext (s : State) : Option (BitVec 20) :=
  let owners := (s.bundles.filter (fun b => !b.torn)).map (·.pasid) ++ s.blocks.map (·.pasid) ++ s.rows.filterMap (fun r => match r.2 with
    | .const _ p => some p
    | .compressed p => some p)
  owners.find? (fun p => !((s.pasidEntry p).getLsbD 0))
/-- The teardown of a context (R290, R302, R344): its bundles, the pages of its blocks, its blocks and its row entries. -/
def State.endContext (s : State) (p : BitVec 20) : State :=
  let s1 := (s.bundles.filter (fun b => b.pasid == p && !b.torn)).foldl (fun t b => t.tearDown b) s
  let pages := (s1.blocks.filter (fun b => b.pasid == p)).flatMap (fun b => b.page :: b.mirror.toList)
  { s1 with
    rel := { s1.rel with published := s1.rel.published.filter (fun x => x.1 != p.toNat) }
    pages := s1.pages.filter (fun x => !(pages.contains x.1)), blocks := s1.blocks.filter (fun b => b.pasid != p)
    rows := s1.rows.filter (fun r => match r.2 with
      | .const _ o => o != p
      | .compressed o => o != p) }
/-- KILL (R407). -/
def kill? (n : Nat) (s : State) : Option State :=
  s.control n 0x15 (fun _ => true) (fun p =>
    match p.s.bundles.find? (fun b => b.pasid == ctlPasid p.d && b.lnch == p.d.extractLsb' 256 64) with
    | none => .ok (some (p.s, 0x0B))
    | some b => .ok (some (p.s.tearDown b, 0)))
def execKill (thread : Nat) (s : State) : Out := whenThread thread s (kill? thread s)

end Sys2Proof.Machine
end

