-- ==== Sys2Proof/Machine/Deadline.lean ====
section
/-! DEFINITION. Steps, results, deadlines and user interrupts (R237 to R245). -/

namespace Sys2Proof.Machine

/-! ### The result descriptor (R238 to R240, R406) -/

/-- Write the changed result descriptor at its home as one write, or be held (R238, R406). -/
def writeResult (t : Strand) (s : State) (k : State → State) : QRes :=
  match (s.setMe t).writeRd s.cur with
  | .ok s2 => .done (k s2) [] 0
  | .error b => b.res s 0 0

/-- COMMIT (R240): status, user word, time and count; a release at its scope. -/
def commitBody (f : Fields) (e : QEntry) (s : State) : QRes :=
  let s := s.flushLate
  let t := s.me
  writeResult { t with
      rdStatus := if t.st = .wrap then 2 else 1
      rdUser := e.a
      rdCsec := BitVec.ofNat 48 s.sec, rdCnsec := BitVec.ofNat 32 s.nsec
      rdCcnt := if t.rdCcnt = 0xFF then 0xFF else t.rdCcnt + 1
      committedWrap := t.committedWrap || t.st == .wrap } s
    (fun s => match s.rdPlace s.cur with
      | .ok ps => s.releaseAt (pieceLocs ps) f.scp.toNat
      | .error _ => s)
def execCommit (f : Fields) (s : State) : Out := runQueue (.commit f) f .reply (commitBody f) s
/-- PVAL (R239): VALID gains the bits of a, gains bit a, or loses the bits of a. -/
def pvalWord (sub : Nat) (valid a : Word) : Word :=
  match sub with
  | 0 => valid ||| a
  | 1 => valid ||| BitVec.ofNat 64 (2 ^ a.toNat)
  | _ => valid &&& ~~~a
def pvalBody (f : Fields) (e : QEntry) (s : State) : QRes :=
  let t := s.me
  writeResult { t with rdValid := pvalWord f.sub.toNat t.rdValid e.a } s id
def execPval (f : Fields) (s : State) : Out := runQueue (.pval f) f .reply (pvalBody f) s

/-! ### Steps (R237) -/

/-- Positions that a mask names. -/
def maskMembers (mask : BitVec 8) : List Nat := (List.range 8).filter (fun k => mask.getLsbD k)
/-- The least step committed by every member, as known here; `own` is this device's. -/
def GroupState.agreed (g : GroupState) (me : Nat) (mask : BitVec 8) : BitVec 48 :=
  (maskMembers mask).foldl (fun a k =>
    let v := if k = me then g.own else tabGet g.views 0 k
    if v.toNat < a.toNat then v else a) 0xFFFFFFFFFFFF
/-- What happens before the last commits of the members that have committed the agreed step: an acquire of the ring (R19, R267). -/
def State.stepClock (s : State) (g : GroupState) (agreed : BitVec 48) (mask : BitVec 8) : Clock :=
  ((maskMembers mask).filter (fun m => m != s.ringPos && decide (agreed.toNat ≤ (tabGet g.views 0 m).toNat))).foldl (fun c m =>
    joinClock c (passClock 6 (.peer m) s.myPlace (tabGet g.clocks [] m))) []
/-- STEP: commits a step for a group, a release at ring scope; D takes the agreed step, an acquire of what its members had done. -/
def stepBody (e : QEntry) (s : State) : QRes :=
  let mask := e.b.extractLsb' 0 8
  let g := tabGet s.groups {} mask.toNat
  let n := e.a.extractLsb' 0 48
  if g.frozen then .trap s .stepAbort 0 0
  else if n.toNat ≤ g.own.toNat then .trap s .illegalOperand 2 0
  else
    let s := s.flushLate
    let g1 := { g with own := n, views := tabSet g.views 0 s.ringPos n }
    let used := (s.me.lnch, mask)
    let agreed := g1.agreed s.ringPos mask
    let s1 := if e.dsts.isEmpty then s else s.gains (s.stepClock g1 agreed mask)
    let s2 : State := { s1 with
      groups := tabSet s.groups {} mask.toNat g1
      stepped := if s.stepped.contains used then s.stepped else s.stepped ++ [used] }
    .done (s2.sendGroup mask (.stepCommit mask.toNat s.ringPos n)) [agreed.zeroExtend 64] 0
def execStep (f : Fields) (s : State) : Out := runQueue (.step f) f .reply stepBody s

/-! ### Deadlines (R241 to R243) -/

/-- The remaining time of .rem. -/
def State.remaining (s : State) (slot : Nat) : Word :=
  match (s.strand slot).deadline with
  | none => satInt64 (2 ^ 63 - 1)
  | some d => satInt64 ((d : Int) - s.time)
/-- DLGET: remaining time, slack or budget, when it executes. -/
def dlgetBody (f : Fields) (_v : Vals) (s : State) : FRes :=
  let x := match f.sub.toNat with
    | 0 => s.remaining s.cur
    | 1 => s.slack s.cur
    | _ => BitVec.ofNat 64 (s.budgetLeft s.cur)
  .done s (dstVal s f.d x) 0
def execDlget (f : Fields) (s : State) : Out := runFront (.dlget f) f none (dlgetBody f) s
/-- WUSET: WUE := a[31:0], WUB := b. -/
def wusetBody (v : Vals) (s : State) : FRes :=
  .done (s.setMe { s.me with wue := v.a.extractLsb' 0 32, wub := v.b.extractLsb' 0 25 }) [] 0
def execWuset (f : Fields) (s : State) : Out := runFront (.wuset f) f none wusetBody s
/-- DLARM: a sub-deadline earlier than the launch deadline; 0 disarms; nothing in wrap-up. -/
def dlarmBody (f : Fields) (v : Vals) (s : State) : FRes :=
  let t := s.me
  let at_ := s.time + v.a.toNat
  if t.st = .wrap then .done s (dstVal s f.d 0) 0
  else if v.a = 0 then .done (s.setMe { t with sub := none }) (dstVal s f.d 1) 0
  else
    let earlier := match t.launchDeadline with
      | some d => decide (at_ < d)
      | none => true
    if earlier then .done (s.setMe { t with sub := some at_ }) (dstVal s f.d 1) 0 else .done s (dstVal s f.d 0) 0
def execDlarm (f : Fields) (s : State) : Out := runFront (.dlarm f) f none (dlarmBody f) s

/-! ### User interrupts (R245) -/

/-- UIEN: EN := a[0]. -/
def execUien (f : Fields) (s : State) : Out :=
  runFront (.uien f) f none (fun v s => .done (s.setMe { s.me with uisEn := v.a.getLsbD 0 }) [] 0) s
/-- UIMASK: the mask is set, gains or loses bits. -/
def uimaskBody (f : Fields) (v : Vals) (s : State) : FRes :=
  let t := s.me
  let a := v.a.extractLsb' 0 4
  let m := match f.sub.toNat with
    | 0 => a
    | 1 => t.uisMask ||| a
    | _ => t.uisMask &&& ~~~a
  .done (s.setMe { t with uisMask := m }) [] 0
def execUimask (f : Fields) (s : State) : Out := runFront (.uimask f) f none (uimaskBody f) s
/-- UIRET: continues at the position in shadow s63; outside a handler it traps. -/
def uiretBody (s : State) : FRes :=
  let t := s.me
  if !t.uisInh then .trap .illegalOperand 0 none
  else .done (s.setMe { t with uisInh := false, pc := t.readS s.cycle (s.fv + 12) 63 }) [] 0
def execUiret (f : Fields) (s : State) : Out := runFront (.uiret f) f none (fun _ s => uiretBody s) s

end Sys2Proof.Machine
end

