-- ==== Sys2Proof/Machine/SaveArea.lean ====
section
/-! DEFINITION. The context save area (R338): what a strand save record and a core save record hold, written and read back. Parts whose
bytes R338 does not lay out stay with the bundle (log 18, DESIGN CHOICE). -/

namespace Sys2Proof.Machine

/-! ### The strand save record -/

/-- The system registers in the order of R72. -/
def sysNumbers : List Nat :=
  [0x000, 0x001, 0x002, 0x010, 0x011, 0x012, 0x013, 0x014, 0x015, 0x020, 0x021, 0x022, 0x030, 0x031, 0x040, 0x041, 0x050, 0x051,
   0x060, 0x061, 0x062, 0x070, 0x071, 0x072, 0x073, 0x074, 0x075, 0x076, 0x077]
def State.sysBytes (s : State) (slot : Nat) : List Byte := pad 256 (wordsBytes (sysNumbers.map (fun n => ({ s with cur := slot } : State).readCsr n)))
/-- Pending bits: [63:1] s1 to s63, [70:64] p0 to p6. -/
def pendingNat (t : Strand) : Nat :=
  ((List.range 64).map (fun n => if t.pending.contains (.s n) then 2 ^ n else 0)).foldl (· + ·) 0 +
    ((List.range 7).map (fun n => if t.pending.contains (.p n) then 2 ^ (64 + n) else 0)).foldl (· + ·) 0
def queueBytes (l : List QEntry) : List Byte := pad 2560 (l.flatMap entryBytes)
/-- A vector group of the core: 128 KiB. -/
def groupBytes : Nat := 2 ^ 17
/-- A number for each state of R246, in the table's order (log 9, DESIGN CHOICE). -/
def SState.number : SState → Nat
  | .run => 0 | .held => 1 | .stop => 2 | .sysw => 3 | .wrap => 4 | .pre => 5 | .retired => 6 | .killed => 7 | .unbound => 8
/-- The parts of a strand save record: offset and bytes. -/
def State.strandParts (s : State) (slot : Nat) : List (Nat × List Byte) :=
  let t := s.strand slot
  let c := s.core (coreOf slot)
  let mine (x : Cmd) : Bool := x.slot == slot && x.job.isNone
  let flags := (if t.halting then 1 else 0) + (if t.diverting.isSome then 2 else 0) + (if t.st == .sysw then 4 else 0)
  [(0, pad 256 (wordsBytes [BitVec.ofNat 64 t.st.number, t.pc, BitVec.ofNat 64 (s.budgetLeft slot), (if t.event then 1 else 0), BitVec.ofNat 64 flags,
     BitVec.ofNat 64 t.limit])), (0x100, s.sysBytes slot), (0x200, wordsBytes ((List.range 64).map t.getS)), (0x400, wordsBytes ((List.range 16).map (fun n => t.getS (64 + n)))),
   (0x480, leBytes 8 t.p.toNat), (0x488, leBytes 16 (pendingNat t)), (0x498, [t.tlc, t.tcl, t.tcs, t.tsc].map (BitVec.ofNat 8)),
   (0x500, queueBytes t.lq ++ queueBytes t.cq ++ queueBytes t.sq), (0x2300, pad 4096 ((c.copyq.filter mine).flatMap cmdBytes)),
   (0x3300, pad 8192 ((s.quads.flatMap (fun x => x.2.q.filter mine)).flatMap cmdBytes)),
   (0x5300, wordsBytes ((List.range 16).flatMap (fun k => (List.range 64).map (fun i => t.getK k i)))),
   (0x8000, c.vrf.read (groupBytes * t.wbase.toNat) (groupBytes * t.ngrp.toNat))]

/-! ### The core save record -/

def lmGroupBytes : Nat := 2 ^ 19
def lmSaveStride : Nat := 0x84000
/-- Full/empty bits of an LM group: bit w for word w. -/
def fullBytes (c : Core) (g : Nat) : List Byte :=
  let ws := (c.full.filter (fun w => w / 2 ^ 17 == g)).map (· % 2 ^ 17)
  (List.range 16384).map (fun i => BitVec.ofNat 8 (((List.range 8).map (fun k => if ws.contains (8 * i + k) then 2 ^ k else 0)).foldl (· + ·) 0))
def planeBytes (p : Plane) : List Byte := (List.range 4096).flatMap (fun k => leBytes 4 (tabGet p.el 0 k).toNat)
/-- Level entries, bases and mode word: six entries of 24 bytes, then 32 and 8 (R194, R338). -/
def cfgBytes (g : NestCfg) : List Byte :=
  let lvl (l : Level) : Nat := l.cntm1.toNat + l.as0.toNat * 2 ^ 32 + l.as1.toNat * 2 ^ 64 + l.bs0.toNat * 2 ^ 96 + l.bs1.toNat * 2 ^ 128 + l.zs.toNat * 2 ^ 160
  let bases : Nat := g.ah.toNat + g.bh.toNat * 2 ^ 10 + g.mh.toNat * 2 ^ 20 + g.zt.toNat * 2 ^ 30 + g.ax0.toNat * 2 ^ 64 + g.ax1.toNat * 2 ^ 96 +
    g.bx0.toNat * 2 ^ 128 + g.bx1.toNat * 2 ^ 160 + g.mx1.toNat * 2 ^ 192
  pad 256 (g.levels.flatMap (fun l => leBytes 24 (lvl l)) ++ leBytes 32 bases ++ leBytes 8 g.mode.toNat)
/-- One matrix operation: 512 bytes, laid out as a queue entry with its snapshots after it (log 9, DESIGN CHOICE). -/
def opBytes (o : MatOp) : List Byte :=
  let h := match o.handles with
    | (_, x) :: _ => leBytes 64 x.toNat
    | [] => []
  pad 512 (pad 24 (leBytes 20 (encode o.instr).toNat) ++ pad 128 (wordsBytes [o.pos, 0, BitVec.ofNat 64 o.rmode, o.a, o.b, o.c, o.e] ++ h) ++
    cfgBytes o.cfg)
/-- MSTAT record, shape and MFUSE value: 128 bytes. -/
def statBytes (c : Core) : List Byte :=
  pad 128 (leBytes 64 c.mstatWord.toNat ++ leBytes 8 (match c.mstat.shape with | some x => x.2.2 | none => 4) ++ leBytes 8 c.mstat.fmode.toNat)
/-- The parts of a core save record, for the groups that the launch holds and the matrix state where it owns it. The memory form of a cell
is its 56 bits with the upper byte zero, since a cell has no mode that would give it a sign (R25, R62; log 18, DESIGN CHOICE). -/
def coreParts (c : Core) (groups : List Nat) (mown : Bool) : List (Nat × List Byte) :=
  groups.zipIdx.flatMap (fun x => [(lmSaveStride * x.2, c.lm.read (lmGroupBytes * x.1) lmGroupBytes), (lmSaveStride * x.2 + 0x80000, fullBytes c x.1)]) ++
  (if mown then
    [(0x210000, (List.range 4).flatMap (fun t => (c.cells t).flatMap (leBytes 8))), (0x230000, planeBytes c.active ++ planeBytes c.shadow),
     (0x238000, cfgBytes c.cfg), (0x238100, pad 512 c.activeMeta ++ pad 512 c.meta_),
     (0x238500, pad 8192 (c.scales.flatMap (fun x => pad 128 x.2)) ++ leBytes 64 c.scales.length),
     (saveMatrix 0, pad 4096 (c.matq.flatMap opBytes)), (0x23B540, statBytes c)] else [])

def State.writeParts (s : State) (base : Nat) (ps : List (Nat × List Byte)) : State :=
  ps.foldl (fun t p => t.writeIl (.device .service) true (base + p.1) p.2) s
/-- The entries of a flit log: one for each flit, with its sequence number, the position and instance of its message (R337, R338; log 18, DESIGN
CHOICE). -/
def logEntries (l : List Contribution) : List (List Byte) :=
  l.flatMap (fun c => c.seqs.map (fun q => pad 32 (leBytes 2 q.toNat ++ leBytes 1 c.pos ++ leBytes 1 c.mask.toNat ++ leBytes 4 c.inst)))
/-- Most entries that a bundle record holds. -/
def logRoom : Nat := 2046
/-- The bundle record: BNDL, LNCH, the count of its flit log, and the log. -/
def bundleRecord (b : Bundle) : List Byte :=
  pad 64 (leBytes 8 b.id.toNat ++ leBytes 8 b.lnch.toNat ++ leBytes 8 (logEntries b.log).length) ++ (logEntries b.log).flatten

/-! ### Reading back -/

def State.ilLe (s : State) (a n : Nat) : Nat := leNat (s.ilRead a n)
def State.savedWord (s : State) (a : Nat) : Word := BitVec.ofNat 64 (s.ilLe a 8)
/-- A system register of a save record, by its place in the order of R72. -/
def State.savedSys (s : State) (base k : Nat) : Word := s.savedWord (base + 0x100 + 8 * k)
/-- A register with some of its fields as they read whatever is written: reserved bits and aligned bases as zero (R57, R65, R72). -/
def clearBits (w : Word) (lo n : Nat) : Word := setFld w lo n 0
/-- The register state of a save record, over what the bundle kept. -/
def State.readRegs (s : State) (base : Nat) (t : Strand) : Strand :=
  let y (k : Nat) : Word := s.savedSys base k
  let s0 := (List.range 80).foldl (fun (u : Strand) n => u.setS n (s.savedWord (if n < 64 then base + 0x200 + 8 * n else base + 0x400 + 8 * (n - 64)))) t
  let s1 := (List.range 16).foldl (fun (u : Strand) k => (List.range 64).foldl (fun (u : Strand) i => u.setK k i (s.savedWord (base + 0x5300 + 512 * k + 8 * i))) u) s0
  { s1 with
    p := BitVec.ofNat 8 (s.ilLe (base + 0x480) 1) ||| 0x80
    shp := clearBits (clearBits (y 0) 7 1) 21 43, flg := (y 1).extractLsb' 0 6, rmode := (y 2).extractLsb' 0 3, dlns := (y 3).extractLsb' 0 48, dlnn := (y 4).extractLsb' 0 32
    wue := (y 6).extractLsb' 0 32, wub := (y 7).extractLsb' 0 25, dlst := y 8, trc := y 9, tri := (y 10).extractLsb' 0 32, trx := y 11
    htb := clearBits (y 14) 0 16, rrt := clearBits (y 15) 0 12, uiv := y 16, uisCause := (y 17).extractLsb' 0 4, uisMask := (y 17).extractLsb' 8 4, uisEn := (y 17).getLsbD 16
    uisInh := (y 17).getLsbD 17, ptps := t.ptps.map (fun _ => (y 20).extractLsb' 0 48)
    cwb := (List.range 8).foldl (fun w n => tabSet w 0 n (clearBits (y (21 + n)) 8 4)) t.cwb }
/-- Vector groups into the new window. -/
def Core.readGroups (c : Core) (s : State) (base wb n : Nat) : Core :=
  { c with vrf := c.vrf.write (groupBytes * wb) (s.ilRead (base + 0x8000) (groupBytes * n)) }
/-- Logical LM group i into the physical group g; words in error come with it. -/
def Core.readLm (c : Core) (s : State) (base i g : Nat) (bad : List Nat) : Core :=
  let out (w : Nat) : Bool := w / 2 ^ 17 != g
  let bits := s.ilRead (base + lmSaveStride * i + 0x80000) 16384
  let ws := (List.range (2 ^ 17)).filter (fun w => (bits[w / 8]?.getD 0).getLsbD (w % 8))
  { c with
    lm := c.lm.write (lmGroupBytes * g) (s.ilRead (base + lmSaveStride * i) lmGroupBytes)
    full := ws.foldl (fun l w => setAdd l (g * 2 ^ 17 + w)) (c.full.filter out)
    lmBad := bad.foldl (fun l w => setAdd l (g * 2 ^ 17 + w % 2 ^ 17)) (c.lmBad.filter out)
    lmFresh := c.lmFresh.filter out, lmCe := c.lmCe.filter out }
def Core.readCells (c : Core) (s : State) (base : Nat) : Core :=
  (List.range 4).foldl (fun (k : Core) t => k.putCells t ((List.range 4096).map (fun i => s.ilLe (base + 0x210000 + 32768 * t + 8 * i) 8 % 2 ^ 56))) c

end Sys2Proof.Machine
end

