-- ==== Sys2Proof/Machine/Preempt.lean ====
section
/-! DEFINITION. Pre-emption of a bundle (R336 to R338) and its resume (R339); the write of GO (R334). -/

namespace Sys2Proof.Machine

/-! ### The request -/

/-- STATE of a group's records passes from one value to the next. -/
def State.markBinds (s : State) (id : Word) (v w : BitVec 2) : State :=
  { s with binds := s.binds.map (fun (x : Nat × BindRec) => if x.2.valid && x.2.bndl == id && x.2.state == v then (x.1, { x.2 with state := w }) else x) }
/-- PREEMPT_REQUEST (R336): STATE := 2 in the group's records; every front stops at its next boundary, a WFE is abandoned, a SYSCALL that was
still to post its request is not decoded (R135; log 85, DEDUCED). -/
def preemptRequest? (id : Word) (s : State) : Option State :=
  match s.bundle id with
  | none => none
  | some b =>
    if !(b.st == .started || b.st == .bound) || !(s.binds.any (fun x => x.2.valid && x.2.bndl == id && x.2.state == 1)) then none
    else
      let s1 := s.markBinds id 1 2
      let s2 := b.slots.foldl (fun t n => t.modStrand n (fun u =>
        if u.lnch = b.lnch && !(ended u) then { u.abandonWfe with preempting := true, calling := if u.inTlbi then u.calling else none } else u)) s1
      some (s2.setBundle { b with st := .saving })
def execPreemptRequest (bndl : BitVec 64) (s : State) : Out := whenSome s (if s.leaderRuns then preemptRequest? bndl s else none)

/-! ### The save -/

/-- A command of the bundle. -/
def State.cmdOf (s : State) (b : Bundle) (c : Cmd) : Bool :=
  c.job == some b.id || (c.job.isNone && b.slots.contains c.slot && (s.strand c.slot).lnch == b.lnch)
/-- An AREDUCE that has started and waits for peers. -/
def State.waitsForPeers (s : State) (c : Cmd) : Bool := dCmd c.desc == 0x21 && c.started && !c.finished && (s.arJoined c).isNone && !(s.arAborted c)
/-- A command that the save waits for: held, or started and still to complete. -/
def State.delaysSave (s : State) (c : Cmd) : Bool := c.held.isSome || c.delivered.isSome || (c.started && !(s.waitsForPeers c))
/-- The commands of the bundle in a copy queue and in a quadrant's queue. -/
def State.bundleCmds (s : State) (b : Bundle) : List Cmd :=
  (s.cores.flatMap (fun x => x.2.copyq) ++ s.quads.flatMap (fun x => x.2.q)).filter (s.cmdOf b)
/-- A strand is ready to be saved (R135, R142, R214, R221, R316). -/
def State.saveReady (s : State) (slot : Nat) : Bool :=
  let t := s.strand slot
  let c := s.core (coreOf slot)
  t.st == .unbound || ended t ||
  (t.st != .sysw && t.stopping.isNone && t.flight.isEmpty && !t.killing && !t.inTlbi && (t.lq ++ t.cq ++ t.sq).all (fun e => e.held.isNone) &&
   !(c.matq.any (fun o => o.slot == slot && o.running)) &&
   (t.diverting.isNone || (!(s.commandsLeft slot) && !(s.matrixLeft slot))))
def State.bundleReady (s : State) (b : Bundle) : Bool :=
  b.st == .saving && (b.home :: b.slots).all s.saveReady && (s.bundleCmds b).all (fun c => !(s.delaysSave c)) &&
  b.slots.all (fun n => (s.strand n).lnch != b.lnch || ((s.strand n).rdHeld.isNone && !(s.strand n).rdWait))
/-- The queues that the strand's trap has stopped. -/
def State.stopsOf (s : State) (slot : Nat) : List Nat :=
  let c := s.core (coreOf slot)
  (List.range 4).filter (fun q => (s.quad q).stop == some slot) ++ (if c.copyStop = some slot then [4] else []) ++ (if c.matStop = some slot then [5] else [])
/-- The strand as it is kept. -/
def State.keepStrand (s : State) (slot : Nat) : Strand :=
  let t := s.strand slot
  let fresh (l : List QEntry) : List QEntry := l.map (fun e => { e with waiting := none, tried := none, claim := none })
  { t with
    st := .pre, behind := t.st, preempting := false, yieldUntil := 0, yieldTo := [], lq := fresh t.lq, cq := fresh t.cq, sq := fresh t.sq
    stops := s.stopsOf slot }
/-- The slots of the bundle that are to be saved: of strands that have ended too, whose local memory others of the launch may use. -/
def State.liveSlots (s : State) (b : Bundle) : List Nat := (b.home :: b.slots).eraseDups.filter (fun n => (s.strand n).lnch == b.lnch)
/-- The messages of the group that no unit of it has taken: contributions of peers to its AREDUCEs that are saved (R337). -/
def State.groupMessage (s : State) (b : Bundle) (x : Contribution) : Bool :=
  x.pos != s.ringPos && (s.bundleCmds b).any (fun c => dCmd c.desc == 0x21 && c.started && arMask c.desc == x.mask && c.inst == x.inst)
/-- Everything of the bundle leaves the cores. -/
def State.clearOut (s : State) (b : Bundle) (slots : List Nat) : State :=
  let mine := s.cmdOf b
  let free (o : Option Nat) : Option Nat := match o with
    | some n => if slots.contains n then none else some n
    | none => none
  let s1 := s.mapCores (fun _ c => { c with
    copyq := c.copyq.filter (fun x => !(mine x)), matq := c.matq.filter (fun o => !(slots.contains o.slot))
    copyStop := free c.copyStop, matStop := free c.matStop })
  let s2 := s1.mapQuads (fun _ q => { q with q := q.q.filter (fun x => !(mine x)), stop := free q.stop })
  slots.foldl (fun t n => t.setStrand n {}) s2
/-- The save records in memory (R338). -/
def State.writeSave (s : State) (b : Bundle) (slots : List Nat) : State :=
  let s1 := slots.foldl (fun t n => if (s.strand n).st = .unbound then t else t.writeParts (s.bind n).ssave.toNat (s.strandParts n)) s
  let s2 := slots.foldl (fun t n =>
    let u := s.strand n
    if u.st = .unbound then t else t.writeParts (s.bind n).csave.toNat (coreParts (s.core (coreOf n)) u.lmGroups u.mown)) s1
  s2.writeIl (.device .service) true ((cSave (s.context b.pasid)).toNat + b.area * 2 ^ 33) (bundleRecord b)
/-- PREEMPT_SAVE_COMPLETE (R336, step 4). A flit log that the bundle record does not hold fails the pre-emption: the bundle is torn down (R338). -/
def preemptSaveComplete? (id : Word) (s : State) : Option State :=
  match s.bundle id with
  | none => none
  | some b =>
    if !(s.bundleReady b) then none
    else
      let slots := s.liveSlots b
      let log := s.contribs.filter (s.groupMessage b)
      let b0 := { b with log := log }
      let b1 := { b0 with
        st := .saved, savedCycle := s.cycle, savedTime := s.time, savedCmds := s.bundleCmds b
        saved := slots.map (fun n => ((s.bind n).ssave, n, s.keepStrand n))
        savedCores := slots.map (fun n => ((s.bind n).csave, s.core (coreOf n))), savedRecs := slots.map s.bind }
      let s0 : State := { s with contribs := s.contribs.filter (fun x => !(s.groupMessage b x)) }
      let s1 := (slots.foldl (fun t n => t.clearL1s n) (s0.writeSave b0 slots)).clearOut b slots
      if (logEntries log).length > logRoom then some (s.tearDown b) else some ((s1.markBinds id 2 3).setBundle b1)
def execPreemptSaveComplete (bndl : BitVec 64) (s : State) : Out := whenSome s (preemptSaveComplete? bndl s)

/-! ### Resume (R339) -/

/-- The new slot of each saved strand: its record has the strand's SSAVE. -/
def newSlots (b : Bundle) (g : List (Nat × BindRec)) : List (Nat × Nat) :=
  b.saved.filterMap (fun x => (g.find? (fun y => y.2.ssave == x.1)).map (fun y => (x.2.1, y.1)))
def mapSlot (m : List (Nat × Nat)) (n : Nat) : Nat := ((m.find? (fun x => x.1 == n)).map Prod.snd).getD n
def mapCore (m : List (Nat × Nat)) (k : Nat) : Nat := ((m.find? (fun x => coreOf x.1 == k)).map (fun x => coreOf x.2)).getD k
/-- A vector destination in the new window. -/
def rebase (old new : Nat) (d : Dst) : Dst := match d with
  | .v n => .v (n - 8 * old + 8 * new)
  | x => x
/-- The sample of an operand in the new window: a vector register's number moves with it (R56). -/
def rebaseWord (old new : Nat) (o : Operand) (w : Word) : Word := match o with
  | .v _ => w - BitVec.ofNat 64 (8 * old) + BitVec.ofNat 64 (8 * new)
  | _ => w
/-- An unissued entry in the new window: its destinations and its vector sources (R56, R166). -/
def rebaseEntry (old new : Nat) (e : QEntry) : QEntry :=
  let f := (instrFields e.instr).getD {}
  let mv := rebaseWord old new
  { e with
    d := mv f.d e.d, a := mv f.a e.a, b := mv f.b e.b, c := mv f.c e.c, e := mv f.e e.e, dsts := e.dsts.map (rebase old new)
    met := e.met.map (fun r => { r with dst := rebase old new r.dst }) }
def rebaseQueue (old new : Nat) (l : List QEntry) : List QEntry := l.map (rebaseEntry old new)
/-- A queued matrix operation in the new window. -/
def rebaseOp (old new : Nat) (o : MatOp) : MatOp :=
  let f := o.flds
  let mv := rebaseWord old new
  { o with a := mv f.a o.a, b := mv f.b o.b, c := mv f.c o.c, e := mv f.e o.e, dsts := o.dsts.map (rebase old new) }
/-- The state a strand resumes in: a HELD strand's fault is over. -/
def resumeState (t : Strand) : SState := match t.behind with
  | .held => if t.saved = .wrap then .wrap else .run
  | x => x
/-- One strand in its new slot: registers from its record, timers on from where they stopped. -/
def State.resumeStrand (s : State) (b : Bundle) (slot : Nat) (r : BindRec) (t : Strand) : State :=
  if t.behind = .unbound then s.claimSlot (slot, r)
  else
    let base := r.ssave.toNat
    let old := t.wbase.toNat
    let new := r.wbase.toNat
    let u := s.readRegs base t
    s.setStrand slot { u with
      st := resumeState t, ngrp := r.ngrp, wbase := r.wbase, mown := r.mown, fuse := r.fuse, lmGroups := r.groups, lnch := r.lnch
      lq := rebaseQueue old new u.lq, cq := rebaseQueue old new u.cq, sq := rebaseQueue old new u.sq
      cycBase := s.cycle - ((s.savedSys base 18).toNat : Int), runBase := t.runBase + (s.time - b.savedTime)
      budget := t.budget.map (· + (s.cycle - b.savedCycle)), limit := cLimit (s.context r.pasid), boundAt := s.time, rdAddr := r.rdva, stops := [], event := true }
/-- The core records into the new groups, the matrix state into its new owner's core. -/
def State.resumeCore (s : State) (m : List (Nat × Nat)) (slot : Nat) (r : BindRec) (t : Strand) (k0 : Core) : State :=
  if t.behind = .unbound then s
  else
    s.modCore (coreOf slot) (fun c =>
      let c1 := (r.groups.zip t.lmGroups).zipIdx.foldl (fun (c : Core) x =>
        c.readLm s r.csave.toNat x.2 x.1.1 ((k0.lmBad ++ k0.lmFresh).filter (fun w => w / 2 ^ 17 == x.1.2))) c
      let c2 := (c1.readGroups s r.ssave.toNat r.wbase.toNat (min r.ngrp.toNat t.ngrp.toNat)).forget r.pasid
      let c3 := if !r.mown then c2 else
        { c2.readCells s r.csave.toNat with
          active := k0.active, shadow := k0.shadow, meta_ := k0.meta_, activeMeta := k0.activeMeta, cfg := k0.cfg, scales := k0.scales, scaleSeq := k0.scaleSeq, mring := k0.mring
          matq := c2.matq ++ (k0.matq.filter (fun o => mapSlot m o.slot == slot)).map (fun o => { rebaseOp t.wbase.toNat r.wbase.toNat o with slot := slot })
          mstat := { k0.mstat with fenced := c2.mstat.fenced, tstok := c2.mstat.tstok, suspn := c2.mstat.suspn, nslt := c2.mstat.nslt, nsp := c2.mstat.nsp, testedAt := c2.mstat.testedAt } }
      { c3 with copyStop := if t.stops.contains 4 then some slot else c3.copyStop, matStop := if t.stops.contains 5 then some slot else c3.matStop })
/-- A saved command at the tail of its queue; its barrier is where its launch's local memory now lies. -/
def State.reenter (s : State) (m : List (Nat × Nat)) (c : Cmd) : State :=
  let slot := mapSlot m c.slot
  let bar := match c.bar with
    | some (k, off) => let k1 := mapCore m k; some (k1, (s.lmPhys slot k1 c.barLog).getD off)
    | none => none
  let c1 := { c with slot := slot, core := coreOf slot, bar := bar }
  match c.quad with
  | some q => s.enterMemory q c1
  | none => s.enterCopy c1
/-- Queues that saved traps had stopped. -/
def State.restop (s : State) (slot : Nat) (t : Strand) : State :=
  t.stops.foldl (fun u q => if q < 4 then u.setQuad q { u.quad q with stop := some slot } else u) s
/-- Strands that shared a core share one again, and no others: a core save record goes to one core, and a core takes one (R255, R338). -/
def coresKept (g : List (Nat × BindRec)) : Bool := g.all (fun x => g.all (fun y => (x.2.csave == y.2.csave) == (coreOf x.1 == coreOf y.1)))
/-- New bind records of a saved bundle: resumed whole, or refused whole; records that join or part saved cores are refused (log 18, DESIGN
CHOICE). -/
def State.resumeGroup (s : State) (b : Bundle) : Option State :=
  let g := s.groupOf b.id
  let m := newSlots b g
  if !(g.any (fun y => y.2.go)) then none
  else if m.length != b.saved.length || g.length != b.saved.length || !(coresKept g) || !(s.groupOk g) then some (s.setBinds g (fun r => { r with rfsd := true }))
  else
    let s1 := s.setBinds g (fun r => { r with state := 1 })
    let all := b.saved.zip b.savedCores
    let s2 := all.foldl (fun u x => let n := mapSlot m x.1.2.1; u.resumeStrand b n (u.bind n) x.1.2.2) s1
    let s3 := all.foldl (fun u x => let n := mapSlot m x.1.2.1; u.resumeCore m n (u.bind n) x.1.2.2 x.2.2) s2
    let s4 := b.log.foldl State.joinFirst (b.savedCmds.foldl (fun u c => u.reenter m c) s3)
    let s5 := all.foldl (fun u x => u.restop (mapSlot m x.1.2.1) x.1.2.2) s4
    let prologue := b.saved.all (fun x => x.2.2.behind == .unbound) && (!b.slots.isEmpty || b.jobs.any (fun j => !j.issued))
    let home := if m.any (fun x => x.1 == b.home) then mapSlot m b.home else ((m.head?).map Prod.snd).getD b.home
    some (s5.setBundle { b with
      st := if prologue then .bound else .started, slots := b.slots.filterMap (fun n => (m.find? (fun x => x.1 == n)).map Prod.snd), home := home
      saved := [], savedCores := [], savedCmds := [], savedRecs := [], log := [] })
/-- RESUME: GO in the new records of a saved bundle. -/
def resume? (id : Word) (s : State) : Option State :=
  match s.bundle id with
  | some b => if b.st = .saved && s.leaderRuns then (s.writeGo id).resumeGroup b else none
  | none => none
def execResume (bndl : BitVec 64) (s : State) : Out := whenSome s (resume? bndl s)

/-- The write of GO has been made: the group is committed (R334); that of a saved bundle is a resume. -/
def State.commit (s : State) (id : Word) : Option State :=
  match s.bundle id with
  | some b => if b.st = .presented then s.commitGroup id else if b.st = .saved then s.resumeGroup b else none
  | none => s.commitGroup id
/-- BIND_GROUP_COMMIT (R334): the leader writes GO into the last record of a group. -/
def bindGroupCommit? (id : Word) (s : State) : Option State := if s.leaderRuns then (s.writeGo id).commit id else none
def execBindGroupCommit (bndl : BitVec 64) (s : State) : Out := whenSome s (bindGroupCommit? bndl s)

end Sys2Proof.Machine
end

