-- ==== Sys2Proof/Machine/Migration.lean ====
section
/-! DEFINITION. The migration engine (R354 to R356), bias flips (R361) and what invalidates a page's device copies. -/

namespace Sys2Proof.Machine

/-! ### Leaves and copies -/

/-- Replica entries of a leaf (R347). -/
def replicaCount (sz : Nat) : Nat := if sz < 4 then 4 ^ sz else if sz < 9 then 4 ^ (sz - 4) else 4 ^ (sz - 9)
/-- The entries that hold a leaf and its replicas. -/
def leafEntries (p : BitVec 64) (at_ : Nat) : List Nat :=
  let n := replicaCount (fld p 8 4)
  (List.range n).map (fun i => at_ / (8 * n) * (8 * n) + 8 * i)
/-- Rewrite a leaf in all of its replicas. -/
def State.putLeaf (s : State) (p : BitVec 64) (at_ : Nat) (new : BitVec 64) : State := (leafEntries p at_).foldl (fun t o => t.putPte o new) s
/-- Change a leaf in all of its replicas. -/
def State.modLeaf (s : State) (p : BitVec 64) (at_ : Nat) (f : BitVec 64 → BitVec 64) : State :=
  (leafEntries p at_).foldl (fun t o => t.putPte o (f (t.ilWord o))) s
/-- TLBI.va at device scope, the aperture walker included (R349). -/
def State.dropTlb (s : State) (pasid : BitVec 20) (va size : Nat) : State :=
  { s with tlb := s.tlb.filter (fun e => !(e.pasid == pasid && e.base < va + size && va < e.base + e.size)) }
/-- What the device's caches hold of a physical range goes home, dirty lines written back. -/
def State.cleanRange (s : State) (sp : MemSpace) (off size : Nat) : State :=
  let us := unitsOf sp off size
  let mine (l : List Nat) : List Nat := l.filter (us.contains ·)
  match sp with
  | .il | .bl => (mine (s.l2.map Prod.fst)).foldl (fun t x => t.flushDev x) s
  | .host => (mine (s.arr.cxl.shared ++ s.arr.cxl.exclusive ++ s.hostL2.map Prod.fst)).foldl (fun t x => (t.evictHost x).flushHost x) s
  | .pool => (mine (s.arr.cxl.pool ++ s.poolL2.map Prod.fst)).foldl (fun t x => t.dropPool x) s
/-- The host gives up its copies of the lines of a range of DEV.IL (R355, R361). -/
def State.recallRange (s : State) (sp : MemSpace) (off size : Nat) : State := match sp with
  | .il => (s.arr.cxl.hostHeld.filter ((unitsOf .il off size).contains ·)).foldl (fun t u => t.recallLine true u) s
  | _ => s
/-- The pieces of a frame, each within one 2 MiB unit of the league's window. -/
def State.framePieces (s : State) (sp : MemSpace) (off n : Nat) : List Piece :=
  (List.range ((n + 2 ^ 21 - 1) / 2 ^ 21)).map (fun i => s.pieceAt sp (off + i * 2 ^ 21) (min (2 ^ 21) (n - i * 2 ^ 21)) n)
/-- Every device copy of a page is invalidated: fetch copies and stamped copies by physical line, constants and handle entries by
address. -/
def State.dropCopies (s : State) (pasid : BitVec 20) (va : Nat) (sp : MemSpace) (off size : Nat) : State :=
  let phys (l : Nat) : Bool := lineIn sp off size l
  let virt (l : Nat) : Bool := va / 64 ≤ l && l < (va + size + 63) / 64
  s.mapCores (fun _ c => { c with
    icache := c.icache.filter (fun x => !(phys x.1)), stamps := c.stamps.filter (fun x => !(phys x.line))
    ccache := c.ccache.filter (fun x => !(x.1 / 2 ^ 58 == pasid.toNat && virt (x.1 % 2 ^ 58)))
    hcache := c.hcache.filter (fun x => !(x.1 / 2 ^ 64 == pasid.toNat && virt (x.1 % 2 ^ 64))) })

/-! ### Descriptors (R354) -/

def mvOp (d : BitVec 256) : Nat := fld d 0 2
def mvPasid (d : BitVec 256) : BitVec 20 := d.extractLsb' 8 20
def mvVa (d : BitVec 256) : Nat := fld d 64 64
def mvSpace (d : BitVec 256) : MemSpace := match fld d 128 2 with
  | 0 => .il | 1 => .bl | 2 => .host | _ => .pool
def mvFrame (d : BitVec 256) : Nat := fld d 140 40 * 4096
def mvReservedOk (d : BitVec 256) : Bool :=
  [(2, 6), (28, 36), (130, 10), (180, 12), (200, 24), (232, 24)].all (fun (r : Nat × Nat) => fld d r.1 r.2 == 0)
def State.mvAddr (s : State) : Nat := alignedBase 12 s.mqbase + 32 * (s.mqhead.toNat % 256)
/-- The descriptor at MQHEAD, while one is waiting and no move runs. -/
def State.mvHead (s : State) : Option (BitVec 256) :=
  if s.mqhead = s.mqtail || s.moving.isSome then none else some (BitVec.ofNat 256 (s.ilLe s.mvAddr 32))
/-- STATUS and MCNT are written and MQHEAD advances. -/
def State.mvEnd (s : State) (status mcnt : Nat) : State :=
  let s1 := s.writeIl (.device .service) false (s.mvAddr + 24) [BitVec.ofNat 8 status]
  let s2 := if mcnt = 0 then s1 else s1.writeIl (.device .service) false (s.mvAddr + 28) [BitVec.ofNat 8 mcnt]
  ({ s2 with mqhead := s2.mqhead + 1 } : State).hwRelease .service [s.pieceAt .il (s.mvAddr + 24) 8 0] []
/-- The leaf that a descriptor names. -/
def State.mvLeaf (s : State) (d : BitVec 256) : Option (BitVec 64 × Nat) :=
  if !(canonical (d.extractLsb' 64 64)) || !((s.pasidEntry (mvPasid d)).getLsbD 0) then none
  else match s.walk (mvPasid d) (d.extractLsb' 64 64) with
  | .leaf p o => some (p, o)
  | _ => none
/-- Step 1 of R354: BADARG. -/
def mvBad (d : BitVec 256) (p : BitVec 64) : Bool :=
  let size := pteSize p
  !(mvReservedOk d) || mvVa d % size != 0 || pteSpace p == .bl || fld d 128 2 == 1 ||
  (mvOp d == 0 && (mvFrame d % size != 0 || (fld d 128 2 == 0 && mvFrame d + size > 2 ^ 38) || (mvSpace d == pteSpace p && mvFrame d == pteFrame p))) ||
  ((mvOp d == 1 || mvOp d == 2) && pteSpace p != .il)
/-- Step 2 of R354: the page is under a move or flip. -/
def leafBusy (p : BitVec 64) : Bool := p.getLsbD 54 || fld p 52 2 == 2
/-- The test of a descriptor of one operation: none while it waits, BADARG, or its page. -/
def State.mvTest (s : State) (op : Nat) (k : BitVec 256 → BitVec 64 → Nat → Option State) : Option State :=
  match s.mvHead with
  | none => none
  | some d =>
    if mvOp d != op then none
    else match s.mvLeaf d with
    | none => some (s.mvEnd 4 0)
    | some (p, o) => if mvBad d p then some (s.mvEnd 4 0) else if leafBusy p then none else k d p o

/-! ### History (R356) -/

def histWindow : Nat := 2000000
def histLive (t : Nat) (h : MoveHist) : Bool := match h.times with
  | x :: _ => decide (t ≤ x + histWindow)
  | [] => false
/-- Completions of a page within the last 2 ms. -/
def State.movesOf (s : State) (pasid : BitVec 20) (va : Word) : List Nat :=
  match s.hist.find? (fun h => h.pasid == pasid && h.va == va) with
  | some h => h.times.filter (fun x => decide (s.time ≤ x + histWindow))
  | none => []
/-- No entry is free for a page that needs one. -/
def State.histFull (s : State) (pasid : BitVec 20) (va : Word) : Bool :=
  let live := s.hist.filter (histLive s.time)
  decide (live.length ≥ 4096) && !(live.any (fun h => h.pasid == pasid && h.va == va))
/-- Enter a completion; entries that are free leave. -/
def State.addMove (s : State) (pasid : BitVec 20) (va : Word) : State :=
  { s with hist := { pasid := pasid, va := va, times := s.time :: s.movesOf pasid va } ::
      s.hist.filter (fun h => histLive s.time h && !(h.pasid == pasid && h.va == va)) }

/-! ### The events -/

/-- The releases at a page's bytes go with the page, as the engine's acquire and release at system scope have them (R283). -/
def State.moveRels (s : State) (sp : MemSpace) (off : Nat) (nsp : MemSpace) (noff size : Nat) : State :=
  let place (k : Nat) : Nat := match sp with
    | .il => blToIl k - off
    | sp => k - locKey sp off
  { s with rel := { s.rel with at_ := s.rel.at_.foldl (fun t x =>
      tabPut t (if keyIn sp off size x.1 then locKey nsp (noff + place x.1) else x.1) x.2) [] } }
/-- The accesses of the migration engine. -/
def svcUnit : Nat := 64
/-- MOVE (R283, R355, steps 1 to 4), or the outcome that ends its descriptor (R354). Accesses that used the translation perform first
(R349). -/
def move? (s0 : State) : Option State :=
  let s := s0.settleAll
  s.mvTest 0 (fun d p o =>
    if p.getLsbD 55 then some (s.mvEnd 2 0)
    else if s.histFull (mvPasid d) (d.extractLsb' 64 64) then some (s.mvEnd 3 0)
    else if s.outsIn (pteSpace p) (pteFrame p) (pteSize p) then none
    else
      let size := pteSize p
      let sp := pteSpace p
      let off := pteFrame p
      let s1 := (s.modLeaf p o (fun x => setFld x 54 1 1)).dropTlb (mvPasid d) (mvVa d) size
      let s2 := ((s1.cleanRange sp off size).dropCopies (mvPasid d) (mvVa d) sp off size).recallRange sp off size
      let g := s2.readPieces svcUnit (s2.framePieces sp off size)
      let s3 := g.s.writePieces (.device .service) true g.bytes (g.s.framePieces (mvSpace d) (mvFrame d) size)
      let bad := (List.range (size / 64)).filter (fun i => (s2.readPieces svcUnit (s2.framePieces sp (off + 64 * i) 64)).poison.isSome)
      let s4 := bad.foldl (fun (t : State) i => t.poisonPieces (t.framePieces (mvSpace d) (mvFrame d + 64 * i) 64)) s3
      some { s4.moveRels sp off (mvSpace d) (mvFrame d) size with moving := some { desc := setFld d 192 8 (if bad.isEmpty then 1 else 5) } })
def execMove (s : State) : Out := whenSome s (move? s)

/-- Result-descriptor writes that waited for a move are made (R406). -/
def State.retryResults (s : State) : State :=
  s.strands.foldl (fun t x => if x.2.rdWait then t.finalRd x.1 else t) s
/-- MOVE_COMPLETE (R355, step 5; R356): the new leaf, STATUS and MCNT, lines that are code no more leave tracking (R278); at the bound the page settles, with a record. -/
def moveComplete? (s : State) : Option State :=
  match s.moving with
  | none => none
  | some m =>
    let d := m.desc
    if mvOp d != 0 then none
    else match s.mvLeaf d with
    | none => some ({ s with moving := none } : State)
    | some (p, o) =>
      let n := (s.movesOf (mvPasid d) (d.extractLsb' 64 64)).length + 1
      let settle := decide (n ≥ s.lim.toNat)
      if settle && s.fqFull then none
      else
        let new (x : BitVec 64) : BitVec 64 :=
          let a := setFld (setFld (setFld (setFld x 6 2 (fld d 128 2)) 12 40 (fld d 140 40)) 54 1 0) 52 2 0
          let b := if mvSpace d = .il || settle then setFld a 56 1 0 else a
          if settle then setFld b 55 1 1 else b
        let s1 := (s.modLeaf p o new).dropUncoded.addMove (mvPasid d) (d.extractLsb' 64 64)
        let s2 := if settle then s1.postFault { kind := .settled, va := d.extractLsb' 64 64, pasid := mvPasid d } else s1
        some (({ s2 with moving := none }.mvEnd (fld d 192 8) n).retryResults)
def execMoveComplete (s : State) : Out := whenSome s (moveComplete? s)

/-- UNSETTLE (R356): SHR and the page's history are cleared. -/
def unsettle? (s : State) : Option State :=
  s.mvTest 3 (fun d p o =>
    let s1 := s.modLeaf p o (fun x => setFld x 55 1 0)
    some ({ s1 with hist := s1.hist.filter (fun h => !(h.pasid == mvPasid d && h.va == d.extractLsb' 64 64)) }.mvEnd 1 0))
def execUnsettle (s : State) : Out := whenSome s (unsettle? s)
/-- A flip in steps 2 to 4: its descriptor and its page. -/
def State.flipping (s : State) (op : Nat) : Option (BitVec 256 × BitVec 64 × Nat) := match s.moving with
  | some m => if mvOp m.desc != op then none else (s.mvLeaf m.desc).map (fun x => (m.desc, x.1, x.2))
  | none => none
/-- Step 1 of a flip (R361): BIAS := FLIPPING; accesses already translated complete. -/
def State.flipStart (s0 : State) (op : Nat) : Option State :=
  let s := s0.settleAll
  s.mvTest op (fun d p o => some { (s.modLeaf p o (fun x => setFld x 52 2 2)).dropTlb (mvPasid d) (mvVa d) (pteSize p) with moving := some { desc := d } })
/-- Step 4: the new bias; accesses held go on, STATUS is written. -/
def State.flipEnd (s : State) (p : BitVec 64) (o bias : Nat) : State :=
  (({ s.modLeaf p o (fun x => setFld x 52 2 bias) with moving := none } : State).mvEnd 1 0).retryResults
/-- FLIPH (R361): step 1; then dirty lines go home, every device copy is invalidated, the page is in host bias. -/
def fliph? (s : State) : Option State := match s.flipping 1 with
  | none => s.flipStart 1
  | some (d, p, o) =>
    if s.outsIn .il (pteFrame p) (pteSize p) then none
    else some (((s.cleanRange .il (pteFrame p) (pteSize p)).dropCopies (mvPasid d) (mvVa d) .il (pteFrame p) (pteSize p)).flipEnd p o 1)
def execFliph (s : State) : Out := whenSome s (fliph? s)
/-- FLIPD (R361): step 1; then host-held lines are recalled, the page is in device bias. -/
def flipd? (s : State) : Option State := match s.flipping 2 with
  | none => s.flipStart 2
  | some (_, p, o) => if s.outsIn .il (pteFrame p) (pteSize p) then none else some ((s.recallRange .il (pteFrame p) (pteSize p)).flipEnd p o 0)
def execFlipd (s : State) : Out := whenSome s (flipd? s)

end Sys2Proof.Machine
end

