-- ==== Sys2Proof/Machine/HostMemory.lean ====
section
/-! DEFINITION. The host's side (R272, R357 to R362): CXL.mem reads and writes through the aperture, snoops of host and pool lines, dead agents
(R390) and evictions of dirty lines (R281). -/

namespace Sys2Proof.Machine

/-! ### The aperture (R357) -/

/-- The walker of the host aperture. -/
def hostUnit : Nat := 64
def apValid (w : Word) : Bool := w.getLsbD 0
def apPasid (w : Word) : BitVec 20 := w.extractLsb' 1 20
/-- The virtual address of a host offset. -/
def apVa (w : Word) (off : Nat) : Word := BitVec.ofNat 64 (fld w 36 28 * 2 ^ 36 + off % 2 ^ 36)
def State.apSlot (s : State) (off : Nat) : Word := tabGet s.apslot 0 (off / 2 ^ 36)
/-- What a host request meets. -/
inductive Aperture where
  | place (ps : List Piece)
  | error
  | held (kind : FaultKind) (va : Word)
  | moving
  deriving DecidableEq, Repr
/-- The table of R357, in its order, with the row and page states of R291 and R303, and the window's homes beyond a port (R378, R393). An address that is not canonical and a context whose PASID
entry is not valid are never held (R345, R346): an error completion (log 20, DESIGN CHOICE). -/
def State.aperture (s : State) (acc : Acc) (off len : Nat) : Aperture :=
  let w := s.apSlot off
  let va := apVa w off
  if !(apValid w) then .error
  else if !(canonical va) || !((s.pasidEntry (apPasid w)).getLsbD 0) then .error
  else match s.leafFor hostUnit (apPasid w) va with
  | .absent | .format => .held .host va
  | .leaf p _ =>
    if pteSpace p == .host || pteSpace p == .pool || p.getLsbD 57 then .error
    else if !(permOk false p acc) then .held .host va
    else if leafBusy p then .moving
    else
      let ps := [s.pieceAt (pteSpace p) (pteFrame p + va.toNat % pteSize p) len (if fld p 52 2 = 1 then 0 else pteSize p)]
      if (s.piecesFate (acc != .read) ps).isSome then .error else if ps.any s.beyond then .held .league va else .place ps
/-- An error completion and its machine error record, EVT 11; the spec names no class for it (log 20, DESIGN CHOICE). -/
def State.hostError (s : State) (off : Nat) : State :=
  ({ s with outputs := s.outputs ++ [.hostError off] } : State).postError
    { cls := (Config.freeWord (s.fv + 48)).toNat % 5 + 1, ukind := 5, unit := 0, evt := 11 }
/-- A host request held: with a record of kind HOST, or a League record where its home in the window is out of reach. -/
def State.holdHost (s : State) (h : Holder) (off : Nat) (kind : FaultKind) (va : Word) (a : Nat) : Option State :=
  if s.holdFull kind then none
  else
    let pasid := apPasid (s.apSlot off)
    let r := s.postHold { kind := kind, eng := 7, acc := a, va := va, pasid := pasid }
    some { r.2 with held := r.2.held ++ [{ seq := r.1, kind := kind, holder := h, pasid := pasid, va := va, acc := a }] }
/-- A thread of the host at the host's place: its read is an acquire and its write a release, at system scope (R20, R263, R272; log 36,
DEDUCED). -/
def State.hostGains (s : State) (thread : Nat) (ps : List Piece) : State :=
  let c := acquired systemScope .host (s.syncs (pieceLocs ps) systemScope (.host thread) .host (fun _ => true))
  { s with rel := { s.rel with host := tabPut s.rel.host thread (joinClock (tabGet s.rel.host [] thread) c) } }
def State.hostReleases (s : State) (thread : Nat) (ps : List Piece) : State :=
  s.putRel (pieceLocs ps) { owner := .host thread, place := .host, scp := systemScope
                            clock := addSeen (s.ownWrites (.host thread) .host) (tabGet s.rel.host [] thread) }
/-- The lines of DEV.IL that a host request names. -/
def hostLines : List Piece → List Nat
  | .mem .il off n _ :: r => unitsOf .il off n ++ hostLines r
  | _ :: r => hostLines r
  | [] => []
/-- The host asks for a line: it has no copy of its own any more, which the request stands for (log 88, DESIGN CHOICE). -/
def State.hostAsks (s : State) (us : List Nat) : State :=
  let c := s.arr.cxl
  s.setCxl { c with hostHeld := us.foldl setDel c.hostHeld, hostOwned := us.foldl setDel c.hostOwned }
/-- The answer's state is I in device bias; in host bias it may be any (free; log 88, DESIGN CHOICE). -/
def State.hostGrant (s : State) (ps : List Piece) : HostGrant := match ps with
  | [.mem .il _ _ 0] => match (Config.freeWord (s.fv + 605)).toNat % 3 with
    | 0 => .i
    | 1 => .s
    | _ => .a
  | _ => .i
/-- The host snoop filter takes lines that the host may keep. How many it takes the spec does not say: that it is full, and that the line
granted first is recalled for the new one, is a free choice (R360; log 98, DESIGN CHOICE). -/
def State.grantLines (s : State) (g : HostGrant) (us : List Nat) : State :=
  if g = .i then s
  else us.foldl (fun t u =>
    let t1 := if Config.freeBool (s.fv + 606) then (match t.arr.cxl.hostHeld with
      | x :: _ => t.recallLine true x
      | [] => t) else t
    let c := t1.arr.cxl
    t1.setCxl { c with hostHeld := c.hostHeld ++ [u], hostOwned := if g = .a then setAdd c.hostOwned u else c.hostOwned }) s
/-- A request of the host waits (R352, R357). -/
def State.hostWait (s : State) (h : Holder) : State := { s with rel := { s.rel with hostWaits := s.rel.hostWaits ++ [h] } }
/-- The walker's caches take the translation of a request that goes on (R349). -/
def State.hostFill (s : State) (off : Nat) : State := s.tlbFill hostUnit (apPasid (s.apSlot off)) (apVa (s.apSlot off) off)
/-- A host read; none where it has to wait. -/
def State.hostRead (s : State) (thread off len : Nat) : Option State :=
  match s.aperture .read off len with
  | .error => some (s.hostError off)
  | .held k va => s.holdHost (.hostRead thread off len) off k va 0
  | .moving => none
  | .place ps =>
    let us := hostLines ps
    let g := (((s.hostFill off).hostAsks us).hostGains thread ps).readPieces hostUnit ps
    let grant := s.hostGrant ps
    let s1 := (g.s.grantLines grant us).takeFresh
    some { s1 with outputs := s1.outputs ++ [.hostData off g.bytes g.poison.isSome grant] }
/-- A host write; none where it has to wait. -/
def State.hostWrite (s : State) (thread off : Nat) (data : List Byte) : Option State :=
  match s.aperture .write off data.length with
  | .error => some (s.hostError off)
  | .held k va => s.holdHost (.hostWrite thread off data) off k va 1
  | .moving => none
  | .place ps =>
    let s0 := (s.hostFill off).hostAsks (hostLines ps)
    let s1 := ((s0.writePieces (.host thread) (data.length == 64) data ps).hostReleases thread ps).takeFresh
    some { s1 with outputs := s1.outputs ++ [.hostDone off] }
/-- A host request lies in one line of the 1 TiB range. -/
def hostRequestOk (off len : Nat) : Bool := decide (off < 2 ^ 40) && decide (1 ≤ len) && decide (off % 64 + len ≤ 64)
/-- CXL_MEM_READ (R357). -/
def execCxlMemRead (addr : HostAddr) (len : Nat) (s : State) : Out :=
  if !(hostRequestOk addr.off len) then .fault .badArgument
  else .next ((s.hostRead addr.thread addr.off len).getD (s.hostWait (.hostRead addr.thread addr.off len)))
/-- CXL_MEM_WRITE (R357). -/
def execCxlMemWrite (addr : HostAddr) (data : List Byte) (s : State) : Out :=
  if !(hostRequestOk addr.off data.length) then .fault .badArgument
  else .next ((s.hostWrite addr.thread addr.off data).getD (s.hostWait (.hostWrite addr.thread addr.off data)))

/-- A request that has waited, made again without its place in the line. -/
def State.hostAgain (s0 : State) (h : Holder) : Option State :=
  let s : State := { s0 with rel := { s0.rel with hostWaits := s0.rel.hostWaits.erase h } }
  match h with
  | .hostRead n off len => s.hostRead n off len
  | .hostWrite n off data => s.hostWrite n off data
  | _ => none
/-- The first waiting request that can go on does (R357). -/
def hostRetry? (s : State) : Option State := s.rel.hostWaits.findSome? s.hostAgain

/-! ### Snoops (R359, R362) -/

/-- The data of a line of host or pool memory as the device has it. -/
def State.lineData (s : State) (sp : MemSpace) (line : Nat) : BitVec 512 := lineFrom (s.physByte sp) line
def State.answer (s : State) (sp : MemSpace) (line : Nat) (data : Option (BitVec 512)) : State :=
  { s with outputs := s.outputs ++ [.snoopAnswer sp line data (s.poisoned sp line)] }
def lineOk (line : Nat) : Bool := decide (line < 2 ^ 46)
/-- A slice looks a line up for a snoop: the L1 copies it tracks come home, and errors of its own are met (R359, R389, R391). -/
def State.snooped (s : State) (sp : MemSpace) (line : Nat) : State := (s.noteDir sp line).noteL2 sp line
/-- Fetched copies of a line go with it; stamped copies stay under R274. -/
def State.dropFetched (s : State) (sp : MemSpace) (line : Nat) : State :=
  s.mapCores (fun _ c => { c with icache := c.icache.filter (fun x => x.1 != unitKey sp line) })
/-- SNPDATA: a dirty line is returned; the device keeps a shared, clean copy of what it had. -/
def execSnpdata (line : Nat) (s : State) : Out :=
  if !(lineOk line) then .fault .badArgument
  else
    let s0 := s.snooped .host line
    let s1 := (s0.answer .host line (tabFind s0.hostL2 line)).writeBackHost line
    let c := s1.arr.cxl
    .next (if c.exclusive.contains line then s1.setCxl { c with exclusive := setDel c.exclusive line, shared := setAdd c.shared line } else s1)
/-- SNPINV: a dirty line is returned; the line is invalidated, its stamped copies stay (R274). -/
def execSnpinv (line : Nat) (s : State) : Out :=
  if !(lineOk line) then .fault .badArgument
  else
    let s0 := s.snooped .host line
    let s1 := ((s0.answer .host line (tabFind s0.hostL2 line)).writeBackHost line).dropFetched .host line
    let c := s1.arr.cxl
    .next (s1.setCxl { c with exclusive := setDel c.exclusive line, shared := setDel c.shared line })
/-- SNPCUR: the current data, with no change of state. -/
def execSnpcur (line : Nat) (s : State) : Out :=
  if !(lineOk line) then .fault .badArgument
  else
    let s0 := s.snooped .host line
    .next (s0.answer .host line (some (s0.lineData .host line)))
/-- BISNPINV: a pool line is written back and invalidated, and leaves the pool snoop filter. -/
def execBisnpinv (line : Nat) (s : State) : Out :=
  if !(lineOk line) then .fault .badArgument
  else
    let s0 := s.snooped .pool line
    let s1 := ((s0.answer .pool line (tabFind s0.poolL2 line)).flushPool line).dropFetched .pool line
    let c := s1.arr.cxl
    .next (s1.setCxl { c with pool := setDel c.pool line })
/-- BISNPDATA: a pool line's data are returned and a shared copy is kept. -/
def execBisnpdata (line : Nat) (s : State) : Out :=
  if !(lineOk line) then .fault .badArgument
  else
    let s0 := s.snooped .pool line
    .next ((s0.answer .pool line (some (s0.lineData .pool line))).writeBackPool line)

/-! ### Dead agents and evictions -/

/-- The agents that can die with the only copy of a line: an L1 with a line of any space, the host with a line of DEV.IL that it holds, a pool
device with a line of its own (R390). -/
def ownerOk : Owner → MemSpace → Bool
  | .l1 core, _ => decide (core < 64)
  | .host, sp => sp == .il
  | .pool, sp => sp == .pool
/-- The lines of a space. -/
def spaceLine (sp : MemSpace) (line : Nat) : Bool := match sp with
  | .il | .bl => decide (line < 2 ^ 32)
  | .host | .pool => lineOk line
/-- UKIND and UNIT of an owner that is lost (R387). -/
def ownerUnit : Owner → Nat × Nat
  | .l1 core => (1, core)
  | .host => (5, 0)
  | .pool => (6, 0)
/-- DEAD_AGENT (R390): the home's copy of the line is poisoned, it records no owner or sharer, and a Contained record of EVT 3 is posted. A line is
named as in unitsOf: a device line by its bank-linear number. -/
def execDeadAgent (held : LineOwner) (line : Nat) (s : State) : Out :=
  let space := held.space
  if !(spaceLine space line && ownerOk held.owner space) then .fault .badArgument
  else
    let s1 := s.markUnit space true line
    let c := s1.arr.cxl
    let s2 : State := { s1 with arr := { s1.arr with
      l1Bad := s1.arr.l1Bad.filter (fun x => x.2 != unitKey space line)
      cxl := { c with hostHeld := if space = .il then setDel c.hostHeld line else c.hostHeld
                      hostOwned := if space = .il then setDel c.hostOwned line else c.hostOwned } } }
    .next (s2.postError { cls := 2, ukind := (ownerUnit held.owner).1, unit := (ownerUnit held.owner).2, evt := 3, addr := 64 * line })
/-- L2_WRITE_BACK (R281): a dirty line leaves the slice for the dies, the host or the pool; `line` is its key as in unitKey. -/
def execL2WriteBack (line : Nat) (s : State) : Out :=
  let u := line % 2 ^ 46
  .next (match line / 2 ^ 46 with
    | 0 => s.flushDev u
    | 1 => if (tabFind s.hostL2 u).isSome then (s.evictHost u).flushHost u else s
    | 2 => if (tabFind s.poolL2 u).isSome then
        (let s1 := s.flushPool u
         s1.setCxl { s1.arr.cxl with pool := setDel s1.arr.cxl.pool u }) else s
    | _ => s)

end Sys2Proof.Machine
end

