-- ==== Sys2Proof/Machine/FaultResponse.lean ====
section
/-! DEFINITION. FRESP (R353) and REVOKE (R363, R364). -/

namespace Sys2Proof.Machine

/-! ### What waits behind a record -/

def unholdQueue (seq : BitVec 32) (l : List QEntry) : List QEntry := l.map (fun e => if e.held = some seq then { e with held := none } else e)
/-- A strand's access is free to retry; a HELD strand with no other held access runs again (R259). -/
def State.unholdStrand (s : State) (slot : Nat) (seq : BitVec 32) : State :=
  s.modStrand slot (fun t =>
    let l := unholdQueue seq t.lq
    let q := unholdQueue seq t.sq
    { t with lq := l, sq := q, st := if t.st = .held && (l ++ q).all (fun e => e.held.isNone) then .run else t.st })
/-- A command is held no longer; FAULT := 0 in its barrier (R223, R224, R406). -/
def State.unholdCmd (s : State) (w : Where) (seq : BitVec 32) (d : Option (TrapCode × Nat)) : State :=
  match s.headCmd w with
  | none => s
  | some c =>
    if c.held != some seq then s
    else
      let r := s.cmdBar c none (barFault false)
      r.1.setHeadCmd w { r.2 with held := none, delivered := d }
def State.dropHeld (s : State) (seq : BitVec 32) : State := { s with held := s.held.filter (fun h => h.seq != seq) }
/-- The trap of a delivery (R353) with its sub-cause. -/
def deliverCode (h : Held) : TrapCode × Nat := match h.kind with
  | .perm => (.permission, h.acc)
  | .materialise => (.constWrite, 0)
  | .league => (.dataPoison, 2)
  | _ => (.pageFault, h.acc)

/-! ### Requests into the window that find no home (R378, R393) -/

/-- The home of a request into the window cannot be reached, or is no member: the request is held, with a League record. -/
def State.refuseWindow (s : State) (tag : Nat) : State :=
  if !(s.rel.window.any (fun w => w.tag == tag && !w.refused)) then s
  else
    let r := s.postHold { kind := .league }
    { r.2 with
      rel := { r.2.rel with window := r.2.rel.window.map (fun w => if w.tag = tag then { w with refused := true } else w) }
      held := r.2.held ++ [{ seq := r.1, kind := .league, holder := .window tag, pasid := 0, va := 0 }] }
/-- Every request whose home lies beyond a port that has gone down. -/
def State.refuseBeyond (s : State) (port : Port) : State :=
  (s.rel.window.filter (fun w => s.sideTo w.home == port)).foldl (fun t w => t.refuseWindow w.tag) s

/-- A request into the window ends without an answer. -/
def State.dropTag (s : State) (tag : Nat) : State :=
  { s with rel := { s.rel with window := s.rel.window.filter (fun w => w.tag != tag) } }
/-- A resolve makes the request again; it asks every member afresh. A home beyond a down port is still out of reach. -/
def State.askAgain (s : State) (tag : Nat) : State :=
  match s.rel.window.find? (fun w => w.tag == tag) with
  | none => s
  | some w =>
    let s1 : State := { s with rel := { s.rel with
      window := s.rel.window.map (fun x => if x.tag = tag then { x with refused := false } else x) } }
    if (s1.port (s1.sideTo w.home)).up then s1.sendMessage w.home w.msg else s1.refuseWindow tag
/-- A delivery ends the request: the instruction that made it traps, its result never comes; a command's write fails as a held one's. -/
def State.failTag (s : State) (tag : Nat) (code : TrapCode) (sub : Nat) : State :=
  let s1 := s.dropTag tag
  match s1.strands.find? (fun x => x.2.flight.any (fun f => f.tags.contains tag)) with
  | some (slot, t) => match takeFirst (fun f => f.tags.contains tag) t.flight with
    | some (f, r) =>
      let keep (d : Dst) : Bool := !(f.dsts.contains d)
      let q := f.stream.getD .L
      (s1.setStrand slot { t with flight := r, pending := t.pending.filter keep, contested := t.contested.filter keep }).raiseTrap slot
        { code := code, eng := engOf q, subc := sub, behind := (t.queue q).length, pos := f.pos, qent := f.ring, gone := true }
    | none => s1
  | none =>
    (s1.cores.map (fun x => Where.copy x.1) ++ s1.quads.map (fun x => Where.mem x.1)).foldl (fun u w => match u.headCmd w with
      | some c => if c.tags.contains tag then u.setHeadCmd w { c with delivered := some (code, sub), tags := c.tags.filter (fun x => x != tag) } else u
      | none => u) s1
/-- The members that have answered that they are none are asked again after an answer to a League record. -/
def State.forgiveLeague (s : State) (h : Held) : State := if h.kind = .league then { s with rel := { s.rel with strangers := [] } } else s
/-- The bundle whose completion a record holds. -/
def State.modBundle (s : State) (id : Word) (f : Bundle → Bundle) : State := { s with bundles := s.bundles.map (fun b => if b.id = id then f b else b) }

/-! ### FRESP -/

/-- Resolve: the held access retries. -/
def State.resolve (s0 : State) (h : Held) : State :=
  let s := (s0.forgiveLeague h).dropHeld h.seq
  match h.holder with
  | .access slot _ => s.unholdStrand slot h.seq
  | .copy core => s.unholdCmd (.copy core) h.seq none
  | .mem quad => s.unholdCmd (.mem quad) h.seq none
  | .result slot => (s.modStrand slot (fun t => { t with rdHeld := none })).finalRd slot
  | .hostRead n off len => (s.hostRead n off len).getD (s.hostWait h.holder)
  | .hostWrite n off data => (s.hostWrite n off data).getD (s.hostWait h.holder)
  | .thread n => s.setThread n { s.thread n with held := none }
  | .window tag => s.askAgain tag
  | .completion id => s.modBundle id (fun b => { b with heldBy := none })
/-- Deliver a trap to what waits, with a code and sub-cause. -/
def State.deliver (s : State) (h : Held) (code : TrapCode) (sub : Nat) : State :=
  let s1 := s.dropHeld h.seq
  match h.holder with
  | .access slot q => match (s1.strand slot).queue q with
    | e :: _ => if e.held = some h.seq then (s1.unholdStrand slot h.seq).headTrap slot q { e with held := none } code sub else s1
    | [] => s1
  | .copy core => s1.unholdCmd (.copy core) h.seq (some (code, sub))
  | .mem quad => s1.unholdCmd (.mem quad) h.seq (some (code, sub))
  | .result slot => (s1.modStrand slot (fun t => { t with rdHeld := none })).rdDropped slot
  | .hostRead _ off _ | .hostWrite _ off _ => s1.hostError off
  | .window tag => s1.failTag tag code sub
  | .completion id => s1.modBundle id (fun b => { b with heldBy := none, skip := b.failing })
  | .thread n =>
    let s2 := s1.setThread n { s1.thread n with held := none }
    match (s1.thread n).qcb with
    | some k => s2.stallQueue k hevFault
    | none => s2
def State.heldBy (s : State) (seq : BitVec 32) : Option Held := s.held.find? (fun h => h.seq == seq)
/-- ACT 0 (R353): a SEQ that names no held access does nothing. -/
def State.answerRetry (s : State) (seq : BitVec 32) : State := match s.heldBy seq with
  | some h => s.resolve h
  | none => s
/-- ACT 1 (R353). -/
def State.answerDeliver (s : State) (seq : BitVec 32) : State := match s.heldBy seq with
  | some h => s.deliver h (deliverCode h).1 (deliverCode h).2
  | none => s
/-- FRESP_RESOLVE. -/
def execFrespResolve (seq : BitVec 32) (s : State) : Out := .next (s.answerRetry seq)
/-- FRESP_DELIVER. -/
def execFrespDeliver (seq : BitVec 32) (s : State) : Out := .next (s.answerDeliver seq)
/-- A write of FRESP; ACT 2 and 3 are ignored. -/
def State.writeFresp (s : State) (v : Word) : State := match fld v 32 2 with
  | 0 => s.answerRetry (v.setWidth 32)
  | 1 => s.answerDeliver (v.setWidth 32)
  | _ => s

/-! ### REVOKE (R363, R364) -/

/-- The whole leaves of a range, or none where one is not valid, not whole, or not in HOST or POOL space. -/
def State.revokeLeaves (s : State) (pasid : BitVec 20) (hi : Nat) : Nat → Nat → Option (List (Nat × BitVec 64 × Nat))
  | 0, _ => none
  | fuel + 1, va =>
    if va = hi then some []
    else match s.walkCanonical pasid (BitVec.ofNat 64 va) with
    | .leaf p o =>
      if va % pteSize p != 0 || va + pteSize p > hi || !(pteSpace p == .host || pteSpace p == .pool) then none
      else (s.revokeLeaves pasid hi fuel (va + pteSize p)).map (fun r => (va, p, o) :: r)
    | _ => none
/-- Steps 1, 2 and 4 for one page. -/
def State.revokePage (s : State) (pasid : BitVec 20) (x : Nat × BitVec 64 × Nat) : State :=
  let p := x.2.1
  let s1 := (s.modLeaf p x.2.2 (fun q => setFld q 57 1 1)).dropTlb pasid x.1 (pteSize p)
  (s1.cleanRange (pteSpace p) (pteFrame p) (pteSize p)).dropCopies pasid x.1 (pteSpace p) (pteFrame p) (pteSize p)
/-- Step 5: accesses held in the range are delivered as EXTENT_REVOKED. A held command's sector or start fails as it would on meeting
the range afresh. -/
def State.revokeHeld (s : State) (pasid : BitVec 20) (lo hi : Nat) : State :=
  (s.held.filter (fun h => h.pasid == pasid && lo ≤ h.va.toNat && h.va.toNat < hi)).foldl (fun t h => match h.holder with
    | .copy _ | .mem _ => t.resolve h
    | .window _ => t
    | _ => t.deliver h .extentRevoked 0) s
def revokeRange (d : BitVec 512) : Nat × Nat := (fld d 64 64, fld d 64 64 + fld d 128 64)
/-- REVOKE. Accesses already translated perform first: late stores and loads, and the copies out of a running command (R349, R293). -/
def revoke? (n : Nat) (s : State) : Option State :=
  s.control n 0x14 (fun _ => true) (fun p =>
    let pasid := ctlPasid p.d
    let (lo, hi) := revokeRange p.d
    if lo % 4096 != 0 || hi % 4096 != 0 || lo = hi || hi > 2 ^ 64 || !((p.s.pasidEntry pasid).getLsbD 0) then .ok (some (p.s, 0x0A))
    else match p.s.revokeLeaves pasid hi ((hi - lo) / 4096 + 1) lo with
    | none => .ok (some (p.s, 0x0A))
    | some ls =>
      let s1 := p.s.settleAll
      if ls.any (fun x => leafBusy x.2.1 || s1.outsIn (pteSpace x.2.1) (pteFrame x.2.1) (pteSize x.2.1)) then .ok none
      else .ok (some ((ls.foldl (fun t x => t.revokePage pasid x) s1).revokeHeld pasid lo hi, 0)))
def execRevoke (thread : Nat) (s : State) : Out := whenThread thread s (revoke? thread s)

end Sys2Proof.Machine
end

