-- ==== Sys2Proof/Machine/Ports.lean ====
section
/-! DEFINITION. The Bruloth ports (R376, R378, R395): requests that find no home, lanes, sparing, port control. -/

namespace Sys2Proof.Machine

/-- UNIT of a port's records. -/
def portUnit : Port → Nat
  | .east => 0
  | .west => 1
def State.ifUp (s : State) (port : Port) (r : Option State) : Option State := if (s.port port).up then r else none
def whenUp (s : State) (port : Port) (r : Option State) : Out := whenSome s (s.ifUp port r)

/-! ### Lanes (R376, R395): 0 to 15 data lanes, 16 and 17 the spares -/

def popCount {w : Nat} (x : BitVec w) : Nat := (List.range w).countP (fun k => x.getLsbD k)
def laneBit (lane : Nat) : BitVec 16 := BitVec.ofNat 16 (2 ^ lane)
def lane18 (lane : Nat) : BitVec 18 := BitVec.ofNat 18 (2 ^ lane)
def spareBit (sp : Nat) : BitVec 2 := BitVec.ofNat 2 (2 ^ sp)
/-- Lanes, spares among them, that neither failed nor fail now. -/
def healthyLanes (x : PortState) : Nat := 18 - (popCount x.failed + popCount x.failing + popCount x.deadSpares)
/-- A spare that carries no lane and is well. -/
def freeSpare (x : PortState) : Option Nat :=
  [0, 1].find? (fun k => (tabFind x.carries k).isNone && !(x.deadSpares.getLsbD k) && !(x.failing.getLsbD (16 + k)))
/-- SPUSED: spares in use. -/
def PortState.spused (x : PortState) : BitVec 2 := BitVec.ofNat 2 x.carries.length
/-- PEND: a lane is failing and no spare is free. -/
def PortState.settlePend (x : PortState) : PortState := { x with pend := x.failing != 0 && (freeSpare x).isNone }
def State.lanePost (s : State) (port : Port) (cls evt : Nat) : State :=
  s.postError { cls := cls, ukind := 7, unit := portUnit port, evt := evt, count := (s.port port).failed.toNat }
/-- The lane carries no data: one that has failed, or a spare that is idle or has failed. -/
def laneIdle (x : PortState) (lane : Nat) : Bool := if lane < 16 then x.failed.getLsbD lane else (tabFind x.carries (lane - 16)).isNone
/-- A lane becomes failing: an idle spare is not to be used any more; with no spare free PEND is set; a lane that is not to be spared by itself is
reported. -/
def State.laneFails (s : State) (port : Port) (lane : Nat) : State :=
  let x := s.port port
  if laneIdle x lane then
    (if lane < 16 then s else s.setPort port { x with deadSpares := x.deadSpares ||| spareBit (lane - 16) }.settlePend)
  else if x.failing.getLsbD lane then s
  else
    let y := { x with failing := x.failing ||| lane18 lane }.settlePend
    let s1 := s.setPort port y
    if y.pend || y.noauto then s1.lanePost port 3 5 else s1
/-- A lane is idled: a data lane has failed, of a spare the lane that it carries needs another. -/
def PortState.idle (x : PortState) (lane : Nat) : PortState :=
  if lane < 16 then { x with failed := x.failed ||| laneBit lane, failing := x.failing &&& ~~~(lane18 lane) }
  else { x with deadSpares := x.deadSpares ||| spareBit (lane - 16), failing := x.failing &&& ~~~(lane18 lane), carries := x.carries.filter (fun y => y.1 != lane - 16) }
/-- Sparing: the two ends agree through a control slot on the lane, the spare and the flit from which the receiver takes it (steps 1 to 3); the lane
is failed and idled (step 4). -/
def State.spareLane (s : State) (port : Port) (lane sp : Nat) : State :=
  let x := s.port port
  let data := if lane < 16 then lane else tabGet x.carries 0 (lane - 16)
  let y := x.idle lane
  ((s.setPort port { y with carries := tabPut y.carries sp data }.settlePend).sendNext port (.spare lane sp x.rxNext.toNat)).lanePost port 1 5
def whenLane (s : State) (port : Port) (lane : Nat) (r : Option State) : Out := if lane ≥ 18 then .fault .badArgument else whenUp s port r
/-- LANE_INTERVAL: failing above 2^THR. -/
def execLaneInterval (port : Port) (lane count : Nat) (s : State) : Out :=
  whenLane s port lane (some (if count > 2 ^ (s.port port).thr.toNat then s.laneFails port lane else s))
/-- LOSS_OF_LOCK: failing at once. -/
def execLossOfLock (port : Port) (lane : Nat) (s : State) : Out := whenLane s port lane (some (s.laneFails port lane))
/-- LANE_SPARE: a failing lane takes a free spare, unless automatic sparing is forbidden. -/
def laneSpare? (port : Port) (lane : Nat) (s : State) : Option State :=
  let x := s.port port
  if x.failing.getLsbD lane && !x.noauto then (freeSpare x).map (s.spareLane port lane) else none
def execLaneSpare (port : Port) (lane : Nat) (s : State) : Out := whenLane s port lane (laneSpare? port lane s)
/-- Every lane that is failing is idled. -/
def PortState.idleAll (x : PortState) : PortState := ((List.range 18).filter (fun k => x.failing.getLsbD k)).foldl PortState.idle x
/-- HALF_WIDTH_RETRAIN: no spare is free for a failing lane, and 8 lanes are healthy; the flits of the replay buffer are resent. -/
def halfWidthRetrain? (port : Port) (s : State) : Option State :=
  let x := s.port port
  if x.pend && healthyLanes x ≥ 8 then some (((s.setPort port { x.idleAll with half := true }.settlePend).lanePost port 3 6).resend port) else none
def execHalfWidthRetrain (port : Port) (s : State) : Out := whenUp s port (halfWidthRetrain? port s)
/-- PORT_DOWN: fewer than 8 healthy lanes; a League record, then the aborts of R392; requests whose home lies beyond are held (R393). -/
def portDown? (port : Port) (s : State) : Option State :=
  let x := s.port port
  if healthyLanes x < 8 then
    (let s1 := (s.setPort port { x.idleAll with up := false, locked := true, out := [], replay := [] }.settlePend).lanePost port 4 7
     some (({ s1 with abortDue := s1.stepMasks.foldl setAdd s1.abortDue } : State).refuseBeyond port)) else none
def execPortDown (port : Port) (s : State) : Out := whenUp s port (portDown? port s)
/-- PORT_TRAINED (R395): a port that did not go down since the league was enabled trains; its link starts afresh. -/
def portTrained? (port : Port) (s : State) : Option State :=
  let x := s.port port
  if x.up || x.locked || s.power = .off || s.power = .trip then none
  else some ((s.setPort port { thr := x.thr, noauto := x.noauto, up := true, delay := x.delay, out := x.out }).drain port false x.out.length)
def execPortTrained (port : Port) (s : State) : Out := whenSome s (portTrained? port s)

/-- A write of LKCTLE or LKCTLW: THR in 4 to 24, NOAUTO, and FORCE, which spares FLANE where a spare is free. -/
def State.writeLkctl (s : State) (port : Port) (v : Word) : State :=
  let x := s.port port
  let t := fld v 0 5
  let s1 := s.setPort port { x with thr := if 4 ≤ t ∧ t ≤ 24 then BitVec.ofNat 5 t else x.thr, noauto := v.getLsbD 5 }
  let lane := fld v 7 4
  match freeSpare x with
  | some sp => if v.getLsbD 6 && !(x.failed.getLsbD lane) && x.up then s1.spareLane port lane sp else s1
  | none => s1
/-- LKCTL_FORCE. -/
def execLkctlForce (port : Port) (value : Word) (s : State) : Out := .next (s.writeLkctl port value)

end Sys2Proof.Machine
end

