-- ==== Sys2Proof/Machine/League.lean ====
section
/-! DEFINITION. The league: its control register (R373), the sources of device time (R307, R381, R382) and the aborts of a collective
(R392, R393). -/

namespace Sys2Proof.Machine

/-! ### League control (R373) -/

def mib2 : Nat := 2 ^ 21
/-- The sizes and the position allow EN := 1. -/
def State.leagueOk (s : State) (v : Word) : Bool :=
  s.lwsize.toNat % mib2 == 0 && s.lmsize.toNat % mib2 == 0 && s.lmsize.toNat ≤ s.lwsize.toNat && s.lwsize.toNat ≤ 2 ^ 36 && fld v 1 3 ≤ fld v 4 3
/-- Steps and views are 0 again (R237). -/
def State.clearSteps (s : State) : State :=
  { s with groups := s.groups.filterMap (fun g => if g.2.frozen then some (g.1, { frozen := true, contribution := g.2.contribution }) else none), abortDue := [] }
/-- Fields other than EN, writable while EN is 0. -/
def State.leagueFields (s : State) (v : Word) : State :=
  { s with lgPos := v.extractLsb' 1 3, lgNm1 := v.extractLsb' 4 3, lgTmpos := v.extractLsb' 7 3, lgTmen := v.getLsbD 10 }
/-- LGCTL_WRITE. -/
def State.writeLgctl (s : State) (v : Word) : State :=
  let ask : Releases := { s.rel with strangers := [] }
  if s.lgEn then (if v.getLsbD 0 then s else { s.clearSteps with lgEn := false, rel := ask })
  else if !(v.getLsbD 0) then s.leagueFields v
  else if s.leagueOk v then
    { (s.leagueFields v).clearSteps with
      lgEn := true, rel := ask, east := { s.east with locked := false }, west := { s.west with locked := false } }
  else s
def execLgctlWrite (value : Word) (s : State) : Out := .next (s.writeLgctl value)

/-! ### Device time (R306, R307, R381, R382) -/

def leagueQuiet : Nat := 1000000
def timePeriod : Nat := 125000
/-- TIME messages came in at the port within the last 1 ms. -/
def State.timeLive (s : State) (p : Port) : Bool := match (s.port p).timeAt with
  | some t => decide (s.time < t + leagueQuiet)
  | none => false
def State.isTimeMaster (s : State) : Bool := s.lgEn && s.lgPos == s.lgTmpos
/-- The league can supply time: a follower with TMEN, TIME arriving. -/
def State.leagueTime (s : State) : Bool := s.lgEn && s.lgTmen && !s.isTimeMaster && (s.timeLive .east || s.timeLive .west)
/-- A source is available. -/
def State.sourceUp (s : State) : TimeSource → Bool
  | .ptp => s.ptpUp
  | .league => s.leagueTime
  | .pps => s.ppsSeen
  | .holdover => true
/-- The first source of R307 that is available; of a pinned one, that one or holdover. -/
def State.bestSource (s : State) : TimeSource :=
  match s.slew.pinned with
  | some x => if s.sourceUp x then x else .holdover
  | none => if s.ptpUp then .ptp else if s.leagueTime then .league else if s.ppsSeen then .pps else .holdover
/-- The source changes: what another has said is no base of a rate (R307). -/
def State.chooseSource (s : State) : State :=
  if s.bestSource = s.source then s else { s with source := s.bestSource, slew := { s.slew with last := none } }
/-- The rate of a source beside the oscillator, from two of its messages, within 200 ppm (log 81, DESIGN CHOICE). -/
def Discipline.measure (d : Discipline) (target : Nat) : Int := match d.last with
  | some (m, r) =>
    let n : Int := (d.raw - r : Nat)
    if n = 0 then d.rate else max (-200000) (min 200000 (((target : Int) - m - n) * 1000000000 / n))
  | none => d.rate
/-- What a source that supplies its rate too has said. -/
def Discipline.hears (d : Discipline) (target : Nat) : Discipline := { d with rate := d.measure target, last := some (target, d.raw) }
/-- A source says what the time is: stepped before the first launch packet is accepted, slewed after (R306); `rated` where its rate is taken
(R307). -/
def State.discipline (s : State) (rated : Bool) (target : Nat) : State :=
  let d := if rated then s.slew.hears target else s.slew
  if s.timeLocked then { s with slew := { d with phase := (target : Int) - s.time } } else { s with
      time := target, slew := { d with phase := 0 }
      ppsSec := if target % nsPerSec = 0 then target / nsPerSec + 1 else target / nsPerSec }
/-- A source has gone: what it had still to correct goes with it, the rate stays (R307, holdover). -/
def Discipline.lose (d : Discipline) : Discipline := { d with phase := 0, last := none }
/-- PTP_MESSAGE. -/
def execPtpMessage (masterNs : Nat) (s : State) : Out :=
  let s1 := ({ s with ptpUp := true } : State).chooseSource
  .next (if s1.source = .ptp then s1.discipline true masterNs else s1)
/-- PTP_SOURCE_LOSS. -/
def execPtpSourceLoss (s : State) : Out :=
  whenSome s (if s.ptpUp then some ({ s with ptpUp := false, slew := if s.source = .ptp then s.slew.lose else s.slew } : State).chooseSource else none)
/-- PPS_IN_EDGE: the phase of the second, where no better source is available. -/
def execPpsInEdge (s : State) : Out :=
  let s1 := ({ s with ppsSeen := true } : State).chooseSource
  .next (if s1.source = .pps then s1.discipline false ((s1.time + nsPerSec / 2) / nsPerSec * nsPerSec) else s1)
/-- PPS_OUT: device time has come to a whole second; a step into the midst of a second comes to none. -/
def ppsOut? (s : State) : Option State :=
  if s.power != .off && s.sec != s.ppsSec then some { s with ppsSec := s.sec, outputs := s.outputs ++ [.pps (BitVec.ofNat 48 s.sec)] } else none
def execPpsOut (s : State) : Out := whenSome s (ppsOut? s)
/-- TIME_SEND: the master, every 125 µs, from both ports. -/
def timeSend? (s : State) : Option State :=
  let due := match s.timeSentAt with
    | some t => decide (t + timePeriod ≤ s.time)
    | none => true
  if s.isTimeMaster && due then
    some ((({ s with timeSentAt := some s.time } : State).sendTime .east s.time).sendTime .west s.time) else none
def execTimeSend (s : State) : Out := whenSome s (timeSend? s)
/-- The port whose TIME a follower takes: the direction with fewer hops from the master, east on a tie, the other when that one stops. -/
def State.timePort (s : State) : Port :=
  let p : Port := if s.hopsEast s.lgTmpos.toNat ≤ s.hopsWest s.lgTmpos.toNat then .east else .west
  if (s.port p).timeAt.isNone || s.timeLive p then p else otherPort p
/-- The next member on the way is the time master, where the message has come from. -/
def State.lastHop (s : State) (out : Port) : Bool :=
  s.neighbour out == s.lgTmpos.toNat
/-- TIME_RECEIVE: forwarded with the delay of its link and the time that it stays here, and applied by a follower that takes time from this side. -/
def timeReceive? (port : Port) (ns : Nat) (s : State) : Option State :=
  if !s.lgEn || !(s.port port).up then none
  else if s.isTimeMaster then some s
  else
    let p := s.timePort
    let t := ns + (s.port port).delay
    let s1 := s.setPort port { s.port port with timeAt := some s.time }
    let s2 := if s.lastHop (otherPort port) then s1 else s1.sendTime (otherPort port) t
    let s3 := s2.chooseSource
    some (if s3.source = .league && (p == port || !(s3.timeLive p)) then s3.discipline true t else s3)
def execTimeReceive (port : Port) (masterNs : Nat) (s : State) : Out := whenSome s (timeReceive? port masterNs s)
/-- LINK_DELAY_EXCHANGE: half of the round trip. -/
def State.takeDelay (s : State) (port : Port) (roundTripNs : Nat) : State := s.setPort port { s.port port with delay := roundTripNs / 2 }
def execLinkDelayExchange (port : Port) (roundTripNs : Nat) (s : State) : Out := whenUp s port (some (s.takeDelay port roundTripNs))
/-- Every 125 µs a member asks the neighbour at a port for a timestamped exchange. -/
def delayAsk? (port : Port) (s : State) : Option State :=
  let x := s.port port
  let due := match x.askedAt with
    | some t => decide (t + timePeriod ≤ s.time)
    | none => true
  if s.lgEn && x.up && due then some ((s.setPort port { x with askedAt := some s.time }).sendNext port (.delayAsk s.time)) else none
/-- TIME_SOURCE_LOSS: TMEN is 0, or no TIME came for 1 ms from either side. -/
def timeSourceLoss? (s : State) : Option State :=
  if s.source = .league && !s.leagueTime then some ({ s with slew := s.slew.lose } : State).chooseSource else none
def execTimeSourceLoss (s : State) : Out := whenSome s (timeSourceLoss? s)

/-! ### Aborts (R392, R393) -/

def State.group (s : State) (mask : BitVec 8) : GroupState := tabGet s.groups {} mask.toNat
def State.setGroup (s : State) (mask : BitVec 8) (g : GroupState) : State := { s with groups := tabSet s.groups {} mask.toNat g }
/-- Freeze a mask: its contribution is the least step in this device's view, kept for the rest of the abort. -/
def State.freeze (s : State) (mask : BitVec 8) : State :=
  let g := s.group mask
  if g.frozen then s else s.setGroup mask { g with frozen := true, contribution := g.agreed s.ringPos mask }
def min48 (a b : BitVec 48) : BitVec 48 := if a.toNat ≤ b.toNat then a else b
/-- Another member can be reached. -/
def State.ringAlive (s : State) : Bool := s.lgEn && s.lgNm1 != 0 && (s.east.up || s.west.up)
/-- AREDUCEs of the mask end with CODE 6, saved ones among them. -/
def State.abortReduces (s : State) (mask : BitVec 8) : State :=
  let hit (c : Cmd) : Cmd := if dCmd c.desc == 0x21 && arMask c.desc == mask then { c with aborted := true } else c
  { s.mapCores (fun _ c => { c with copyq := c.copyq.map hit }) with bundles := s.bundles.map (fun b => { b with savedCmds := b.savedCmds.map hit }) }
/-- The strands whose launch has issued STEP for the mask. -/
def State.usesMask (s : State) (mask : BitVec 8) (t : Strand) : Bool := s.stepped.contains (t.lnch, mask) && !(ended t) && t.st != .unbound
def State.stepUsers (s : State) (mask : BitVec 8) : List Nat := (s.strands.filter (fun x => s.usesMask mask x.2)).map Prod.fst
/-- STEP_ABORT at the front of a strand. -/
def State.stepAbort (s : State) (slot : Nat) : State := s.raiseTrap slot { code := .stepAbort, eng := 0, pos := (s.strand slot).pc }
/-- STEP_ABORT at the front of a saved strand, which traps when it resumes: the trap that its slot would take, its slot as it was. -/
def State.abortSaved (s : State) (x : Word × Nat × Strand) : State × (Word × Nat × Strand) :=
  let (save, slot, t) := x
  let s1 := (s.setStrand slot { t with st := t.behind }).stepAbort slot
  (s1.setStrand slot (s.strand slot), (save, slot, { s1.strand slot with st := t.st }))
def State.abortBundle (s : State) (mask : BitVec 8) (b : Bundle) : State :=
  let r := b.saved.foldl (fun (u : State × List (Word × Nat × Strand)) x =>
    if u.1.usesMask mask { x.2.2 with st := x.2.2.behind } then (let v := u.1.abortSaved x; (v.1, u.2 ++ [v.2])) else (u.1, u.2 ++ [x])) (s, [])
  { r.1 with bundles := r.1.bundles.map (fun y => if y.id = b.id then { y with saved := r.2 } else y) }
/-- The agreed step has arrived before. -/
def State.hasAgreed (s : State) (mask : BitVec 8) (orig : BitVec 3) (agreed : BitVec 48) : Bool :=
  s.lgabtV && s.lgabtMask == mask && s.lgabtOrig == orig && s.lgabtStep == agreed
/-- The agreed step arrives (R393): LGABT, a League record, CODE 6, STEP_ABORT at the front of each user. A message that comes by twice is taken
once. -/
def State.takeAgreed (s : State) (mask : BitVec 8) (orig : BitVec 3) (agreed : BitVec 48) : State :=
  if s.hasAgreed mask orig agreed then s
  else
    let s1 := { s.freeze mask with lgabtStep := agreed, lgabtMask := mask, lgabtOrig := orig, lgabtV := true }
    let s2 := s1.postError { cls := 4, ukind := 7, unit := 0, evt := if orig = s.lgPos then 13 else 14, stepv := agreed.toNat, gmask := mask.toNat }
    let s3 := s2.abortReduces mask
    let s4 := (s3.stepUsers mask).foldl State.stepAbort s3
    s4.bundles.foldl (fun t b => t.abortBundle mask b) s4
/-- A pass leaves its origin: east where that port is up, else west; on a broken ring it is reflected at the end of the path, comes back, and
goes the other way (R392). -/
def State.sendPass (s : State) (m : Config.RingMsg) : State := if s.east.up then s.sendNext .east m else if s.west.up then s.sendNext .west m else s
/-- A pass goes on at a member that is not its origin, or back at the end of the path. -/
def State.passOn (s : State) (port : Port) (m : Config.RingMsg) : State :=
  s.sendNext (if (s.port (otherPort port)).up then otherPort port else port) m
/-- Back at its origin by the east port, from the end of the eastern path, it has still to go west. -/
def State.passLeft (s : State) (port : Port) : Bool := port == .east && s.west.up
/-- ABORT_ORIGINATE (R392): pass 1 leaves; a device that reaches no other member agrees with itself. -/
def abortOriginate? (mask : BitVec 8) (s : State) : Option State :=
  if !(s.abortDue.contains mask.toNat) then none
  else
    let s1 := ({ s with abortDue := setDel s.abortDue mask.toNat } : State).freeze mask
    let k := (s1.group mask).contribution
    some (if s1.ringAlive then s1.sendPass (.abort1 mask s1.lgPos k) else s1.takeAgreed mask s1.lgPos k)
def execAbortOriginate (mask : BitVec 8) (s : State) : Out := whenSome s (abortOriginate? mask s)
/-- This device is a member of the group. -/
def State.inMask (s : State) (mask : BitVec 8) : Bool := mask.getLsbD s.lgPos.toNat
/-- Pass 1 comes in at a port (R392): a member of the group freezes and contributes, the message goes on; once it has been everywhere it becomes
pass 2 at its origin. -/
def State.abortPass1 (s : State) (port : Port) (mask : BitVec 8) (orig : BitVec 3) (acc : BitVec 48) : State :=
  let mine := s.inMask mask || orig == s.lgPos
  let s1 := if mine then s.freeze mask else s
  let k := if mine then min48 acc (s1.group mask).contribution else acc
  if orig != s.lgPos then s1.passOn port (.abort1 mask orig k)
  else if s.passLeft port then s1.sendNext .west (.abort1 mask orig k)
  else (s1.sendPass (.abort2 mask orig k)).takeAgreed mask orig k
def execAbortPass1 (came : PassAt) (orig : BitVec 3) (acc : BitVec 48) (s : State) : Out :=
  whenUp s came.port (some (s.abortPass1 came.port came.mask orig acc))
/-- Pass 2 comes in at a port (R393): taken by a member of the group, and passed on; back at its origin, which took it when it sent it, it ends. -/
def State.abortPass2 (s : State) (port : Port) (mask : BitVec 8) (orig : BitVec 3) (agreed : BitVec 48) : State :=
  let m : Config.RingMsg := .abort2 mask orig agreed
  if orig = s.lgPos then (if s.passLeft port then s.sendNext .west m else s)
  else
    let s1 := s.passOn port m
    if s.inMask mask then s1.takeAgreed mask orig agreed else s1
def execAbortPass2 (came : PassAt) (orig : BitVec 3) (agreed : BitVec 48) (s : State) : Out :=
  whenUp s came.port (some (s.abortPass2 came.port came.mask orig agreed))
/-- LGABT_CLEAR (R393): the mask is free, and this device's last committed step for it is STEPV. -/
def State.clearAbort (s : State) : State :=
  let g := s.group s.lgabtMask
  { s.setGroup s.lgabtMask { own := s.lgabtStep, views := tabSet g.views 0 s.ringPos s.lgabtStep } with lgabtV := false }
def execLgabtClear (s : State) : Out := whenSome s (if s.lgabtV then some s.clearAbort else none)

end Sys2Proof.Machine
end

