-- ==== Sys2Proof/Machine/Errors.lean ====
section
/-! DEFINITION. The service pairs (R396, R397) and the device's firmware (R398). -/

namespace Sys2Proof.Machine

/-! ### Service pairs -/

def pairBit (p : Nat) : BitVec 4 := BitVec.ofNat 4 (2 ^ p)
/-- The healthy pair with the lowest quadrant number, the pair `no` apart (R396). -/
def lowestHealthy (h : BitVec 4) (no : Option Nat) : Option Nat := (List.range 4).find? (fun p => h.getLsbD p && no != some p)
def State.postPair (s : State) (cls evt pair : Nat) : State := s.postError { cls := cls, ukind := 9, unit := pair, evt := evt }

/-- LOCKSTEP_MISMATCH (R396): the pair stops, a Unit record; with no healthy pair left, a Fatal one (R397). -/
def lockstepMismatch? (pair : Nat) (s : State) : Option State :=
  if !(s.up && s.healthy.getLsbD pair) then none
  else
    let s1 := ({ s with healthy := s.healthy &&& ~~~(pairBit pair) } : State).postPair 3 8 pair
    some (if s1.healthy = 0 then s1.postPair 5 8 pair else s1)
def execLockstepMismatch (pair : Nat) (s : State) : Out := if pair ≥ 4 then .fault .badArgument else whenSome s (lockstepMismatch? pair s)

/-- One period of the heartbeat: 1 ms of device time. -/
def heartbeatNs : Nat := 1000000
/-- HEARTBEAT (R397). -/
def heartbeat? (s : State) : Option State :=
  if s.leaderRuns && s.hbAt + heartbeatNs ≤ s.time then some { s with hbcnt := s.hbcnt + 1, hbAt := s.time } else none
def execHeartbeat (s : State) : Out := whenSome s (heartbeat? s)

/-- The count has not changed for HBMISS periods. -/
def State.heartbeatLost (s : State) : Bool := s.hbAt + s.hbmiss.toNat * heartbeatNs ≤ s.time
/-- TAKEOVER (R397). First TKOVER is set, which holds off the other standbys; then the standby with the lowest quadrant number resets the old
leader's pair and becomes LEADER, with a Unit record, and TKOVER is clear. The journal that it replays between, out of memory at JBASE, is the
kernel's own: the spec gives its entries no layout and no effect on the device (log 71, DESIGN CHOICE). Without a healthy pair a Fatal record is
posted. -/
def takeover? (s : State) : Option State :=
  let old := s.leader.toNat
  let rest := lowestHealthy s.healthy (some old)
  if s.tkover then
    (let s1 := { s with healthy := s.healthy &&& ~~~(pairBit old), hbAt := s.time, tkover := false }
     some (match rest with
      | some p => ({ s1 with leader := BitVec.ofNat 2 p } : State).postPair 3 10 p
      | none => s1.postPair 5 9 old))
  else if !(s.running && s.healthy != 0 && s.heartbeatLost) then none
  else if rest.isSome then some { s with tkover := true }
  else some (({ s with healthy := 0, hbAt := s.time } : State).postPair 5 9 old)
def execTakeover (s : State) : Out := whenSome s (takeover? s)

/-! ### Firmware -/

/-- FWSTAT.FAIL of an image, 0 where it is accepted (R398). -/
def firmwareFail (svnf : BitVec 8) (image : List Byte) : BitVec 4 := match Config.firmwareOf image with
  | none => 4
  | some f =>
    if f.svn.toNat > 128 then 4
    else if Config.sha256 f.key != Config.rootHash () then 1
    else if !(Config.slhDsaVerify f.key f.body f.sig) then 2
    else if f.svn.toNat < svnf.toNat then 3
    else 0
/-- The firmware has failed: a Fatal record (R387). -/
def State.postFirmware (s : State) : State := s.postError { cls := 5, ukind := 10, unit := 0, evt := 12 }
/-- Step 4 of R399: local memory, the L2 and its directory are initialised, the logs are cleared. -/
def State.initialise (s : State) : State :=
  { s with
    cores := s.cores.map (fun x => (x.1, { x.2 with lm := [], full := [], lmBad := [], lmFresh := [], lmCe := [] }))
    l2 := [], hostL2 := [], poolL2 := [], arr := {}
    fqhead := 0, fqtail := 0, fqlost := 0, mehead := 0, metail := 0, melost := 0, hevhead := 0, hevtail := 0, hevlost := 0 }
/-- The device runs an accepted image: steps 4 to 7 of R399; the leader is elected. -/
def State.runFirmware (s : State) (image : List Byte) : State :=
  let f := (Config.firmwareOf image).getD default
  { s.initialise with
    fwState := 1
    fwFail := 0
    svni := f.svn
    fwAdvance := f.advance
    leader := BitVec.ofNat 2 ((lowestHealthy s.healthy none).getD 0)
    hbAt := s.time }
/-- FUSE_ADVANCE (R398): after the first heartbeat, where the image says so and its SVN is above the count. -/
def fuseAdvance? (s : State) : Option State :=
  if s.running && s.fwAdvance && s.hbcnt != 0 && s.svni.toNat > s.svnf.toNat then some { s with svnf := s.svni } else none
def execFuseAdvance (s : State) : Out := whenSome s (fuseAdvance? s)
/-- RECOVERY_IMAGE (R398): an accepted image is written over the flash and booted; another is refused, with a record. -/
def execRecoveryImage (image : List Byte) (s : State) : Out :=
  whenSome s (if !(s.up && s.fwState == 2) then none
    else if firmwareFail s.svnf image = 0 then some (({ s with flash := image } : State).runFirmware image)
    else some ({ s with fwFail := 5 } : State).postFirmware)

end Sys2Proof.Machine
end

