-- ==== Sys2Proof/Machine/Power.lean ====
section
/-! DEFINITION. Power states (R402) and the change of operating point (R401, R403). -/

namespace Sys2Proof.Machine

/-- VCORE of an operating point in mV (R401). -/
def vcoreOf (opt : BitVec 3) : Nat := 360 + 40 * opt.toNat

/-! ### Change of operating point (R403) -/

/-- A change begins if none runs and another point is wanted: to a higher point VCORE slews first, to a lower one the clock stops first. -/
def State.beginChange (s : State) : State := if s.chg.isSome || s.want = s.opt then s else { s with chg := some s.want }
/-- The clock is to stop at the end of the cycle: a change to a lower point has begun, or VCORE has reached a higher one. -/
def State.stopDue (s : State) : Bool := match s.chg with
  | some p => p != s.opt && (decide (p.toNat < s.opt.toNat) || s.vcoreMv == vcoreOf p)
  | none => false
/-- A point is requested; a request made during a change takes effect after it. -/
def State.request (s : State) (p : BitVec 3) : State := ({ s with want := p } : State).beginChange
/-- The change ends; the next may begin. -/
def State.endChange (s : State) : State := ({ s with chg := none } : State).beginChange
/-- VCORE_SLEW_DONE: step 1 of a change upward, after which the clock stops; step 3 of a change downward. -/
def vcoreSlewDone? (s : State) : Option State := match s.chg with
  | none => none
  | some p =>
    if s.clockStopped || s.vcoreMv = vcoreOf p || !s.up then none
    else if p = s.opt then some ({ s with vcoreMv := vcoreOf p } : State).endChange
    else if s.stopDue then none
    else some { s with vcoreMv := vcoreOf p }
def execVcoreSlewDone (s : State) : Out := whenSome s (vcoreSlewDone? s)
/-- CLOCK_RESTART: the clock runs at the new frequency. -/
def clockRestart? (s : State) : Option State := match s.chg with
  | none => none
  | some p =>
    if !s.clockStopped || !s.up then none
    else
      let s1 := { s with opt := p, clockStopped := false }
      some (if s.vcoreMv = vcoreOf p then s1.endChange else s1)
def execClockRestart (s : State) : Out := whenSome s (clockRestart? s)

/-- The point that the management core's firmware chooses: OPTR where pinned, else any up to it; 0 in THROTTLE (R403). -/
def State.chosenPoint (s : State) : BitVec 3 :=
  if s.power = .throttle then 0
  else if s.pin then s.optr
  else BitVec.ofNat 3 ((Config.freeWord (s.fv + 50)).toNat % (s.optr.toNat + 1))
/-- The management core's firmware chooses a point, whenever it will (R403). -/
def choosePoint? (s : State) : Option State := if s.up && s.chosenPoint != s.want then some (s.request s.chosenPoint) else none
/-- PWRCTL: fields outside their ranges are discarded (R403). -/
def State.writePwrctl (s : State) (v : Word) : State :=
  let o := fld v 0 3
  let l := fld v 16 9
  let s1 := { s with
    optr := if o ≤ 4 then BitVec.ofNat 3 o else s.optr
    pin := v.getLsbD 3
    plim := if 100 ≤ l ∧ l ≤ 320 then BitVec.ofNat 9 l else s.plim }
  s1.request s1.chosenPoint
def execPwrctlWrite (value : Word) (s : State) : Out := .next (s.writePwrctl value)

/-! ### Power states (R402) -/

/-- The bounds under which THROTTLE is left are not kept: 100 °C, PLIM; temperatures are in units of 0.125 °C. -/
def State.tooHot (s : State) : Bool := decide (s.tj.toNat ≥ 8 * 100) || decide (s.pwr.toNat ≥ s.plim.toNat)
/-- The sensors say something new: inputs of the device, any value at any moment. In THROTTLE the 10 ms begin again where a bound is not kept. -/
def State.sense (s : State) : State :=
  let s1 := { s with
    tj := (Config.freeWord (s.fv + 51)).setWidth 12
    tmem := (Config.freeWord (s.fv + 52)).setWidth 12
    pwr := (Config.freeWord (s.fv + 53)).setWidth 16 }
  if s1.tooHot then { s1 with throttledAt := s1.time } else s1
/-- POWER_OFF: the device is in OFF. The board flash, the fuses, the host's and the pools' memory and what has left the device remain. -/
def State.turnOff (s : State) : State :=
  { State.reset with
    flash := s.flash
    svnf := s.svnf
    host := s.host
    hostPoison := s.hostPoison
    pool := s.pool
    poolPoison := s.poolPoison
    outputs := s.outputs
    agenda := s.agenda
    fv := s.fv }
def execPowerOff (s : State) : Out := whenSome s (if s.power = .off then none else some s.turnOff)
/-- THROTTLE_ENTRY: at 105 °C, or with power above PLIM over the last 10 ms; point 0. -/
def throttleEntry? (s : State) : Option State :=
  if s.power = .on && (decide (s.tj.toNat ≥ 8 * 105) || decide (s.pwr.toNat > s.plim.toNat)) then
    some (({ s with power := .throttle, throttledAt := s.time } : State).request 0) else none
def execThrottleEntry (s : State) : Out := whenSome s (throttleEntry? s)
/-- The 10 ms of R402. -/
def throttleNs : Nat := 10000000
/-- THROTTLE_EXIT: the bounds have been kept for 10 ms; into ON at the requested point. -/
def throttleExit? (s : State) : Option State :=
  if s.power = .throttle && !s.tooHot && s.throttledAt + throttleNs ≤ s.time then some (({ s with power := .on } : State).request s.optr) else none
def execThrottleExit (s : State) : Out := whenSome s (throttleExit? s)
/-- THERMAL_TRIP: at 115 °C, or a die at 105 °C; the compute clock stops, THERMTRIP_N is asserted. -/
def thermalTrip? (s : State) : Option State :=
  if s.up && (decide (s.tj.toNat ≥ 8 * 115) || decide (s.tmem.toNat ≥ 8 * 105)) then
    some { s with power := .trip, clockStopped := true, outputs := s.outputs ++ [.thermtrip] } else none
def execThermalTrip (s : State) : Out := whenSome s (thermalTrip? s)

/-- The class of the record in slot k of the machine error log. -/
def State.recordClass (s : State) (k : Nat) : Nat :=
  leNat (s.readMem .il (alignedBase 12 s.mebase + 64 * (k % 2 ^ s.mesize)) 1).2.1 % 16
/-- ALERT_N is low: in THROTTLE, or while a Unit, League or Fatal record is unconsumed. -/
def State.alert (s : State) : Bool :=
  s.power == .throttle ||
  (List.range (s.mehead - s.metail.setWidth 32).toNat).any (fun k => s.recordClass ((s.metail.setWidth 32).toNat + k) ≥ 3)

end Sys2Proof.Machine
end

