-- ==== Sys2Proof/Machine/Boot.lean ====
section
/-! DEFINITION. Boot (R399): what the release of RESET_N does. -/

namespace Sys2Proof.Machine

/-- Steps 2 and 3 of R399: every pair passes lock-step; the firmware of the flash is checked; a refused image means recovery and a Fatal record (R387). -/
def State.boot (s : State) : State :=
  let s1 := { s with power := .on, healthy := 0xF }
  let f := firmwareFail s.svnf s.flash
  if f = 0 then s1.runFirmware s.flash else ({ s1 with fwState := 2, fwFail := f } : State).postFirmware
/-- RESET_N_RELEASE. -/
def execResetNRelease (s : State) : Out := whenSome s (if s.power = .off then some s.boot else none)

end Sys2Proof.Machine
end

