-- ==== Sys2Proof/Machine/Control.lean ====
section
/-! DEFINITION. The control instructions (R125 to R128). -/

namespace Sys2Proof.Machine

/-- Continue at a position. -/
def State.goTo (s : State) (p : Word) : State := s.setMe { s.me with pc := p }

/-- JMP: NextPC := PC + off. -/
def execJmp (f : Fields) (s : State) : Out :=
  runFront (.jmp f) f none (fun v s => .done (s.goTo (v.pos + v.e)) [] 0) s
/-- BR: NextPC := PC + off where the condition in SUB holds (R119). -/
def brBody (f : Fields) (v : Vals) (s : State) : FRes :=
  .done (if condInt f.sub.toNat (intWidth (intFmt f)) v.a.toNat v.b.toNat then s.goTo (v.pos + v.e) else s) [] 0
def execBr (f : Fields) (s : State) : Out := runFront (.br f) f (fieldFmt f) (brBody f) s
/-- JIDX: NextPC := a + b. -/
def execJidx (f : Fields) (s : State) : Out :=
  runFront (.jidx f) f (fieldFmt f) (fun v s => .done (s.goTo (v.a + v.b)) [] 0) s
/-- CALL: D := PC + 1; NextPC := PC + off. -/
def execCall (f : Fields) (s : State) : Out :=
  runFront (.call f) f none (fun v s => .done (s.goTo (v.pos + v.e)) (dstVal s f.d (v.pos + 1)) 0) s
/-- RET: NextPC := a. -/
def execRet (f : Fields) (s : State) : Out :=
  runFront (.ret f) f none (fun v s => .done (s.goTo v.a) [] 0) s
/-- LOOP (R126): D counts down; the branch is taken while it stays nonzero; D = 0 falls through and writes nothing. -/
def loopBody (f : Fields) (v : Vals) (s : State) : FRes :=
  if v.d = 0 then .done s [] 0
  else .done (if v.d - 1 = 0 then s else s.goTo (v.pos + v.e)) (dstVal s f.d (v.d - 1)) 0
def execLoop (f : Fields) (s : State) : Out := runFront (.loop f) f none (loopBody f) s
/-- NOP: nothing. -/
def execNop (f : Fields) (s : State) : Out := runFront (.nop f) f none (fun _ s => .done s [] 0) s

/-- The other strands of the core that are ready to decode (R247). -/
def State.othersReady (s : State) : List Nat :=
  ((List.range 4).map (fun k => 4 * s.myCore + k)).filter (fun n => n != s.cur && s.mayDecode n && !(s.withdrawn n))
/-- YIELD (R127): the strand leaves front selection until the other ready strands have decoded once, for 4 cycles at most. -/
def execYield (f : Fields) (s : State) : Out :=
  runFront (.yield f) f none (fun _ s => .done (s.setMe { s.me with yieldUntil := s.cycle + 4, yieldTo := s.othersReady }) [] 0) s
/-- HALT (R128): the front decodes nothing more; the strand drains, and STRAND_RETIRE retires it. -/
def execHalt (f : Fields) (s : State) : Out :=
  runFront (.halt f) f none (fun _ s => .done (s.setMe { s.me with halting := true }) [] 0) s

end Sys2Proof.Machine
end

