-- ==== Sys2Proof/Machine/Ell.lean ====
section
/-! DEFINITION. The Ell (R225, R365 to R370): the start checks of LAYOUT, its sources with CONST and COMPRESSED tiles, its destination
rows with constant rows, and in-place expansion. A step of the Ell is the part of one tile that falls in one 512-byte block of destination
address (R223, R367; log 16, DESIGN CHOICE). -/

namespace Sys2Proof.Machine

def ellOp (d : BitVec 512) : Nat := fld d 90 2
def ellFmt (d : BitVec 512) : Option Fmt := Fmt.ofCode (fld d 92 5)
def ellRnd (d : BitVec 512) : Nat := fld d 97 3
def ellTile0 (d : BitVec 512) : Nat := fld d 128 64
def ellTiles (d : BitVec 512) : Nat := fld d 192 64
def farSpace (e : BitVec 512) : Bool := 1 ≤ hSpace e && hSpace e ≤ 4

/-! ### Start (R367, R368) -/

/-- NDIM and every DIM agree. -/
def sameDims (a b : BitVec 512) : Bool := hNdim a == hNdim b && [0, 1, 2, 3].all (fun k => hDim a k == hDim b k)
/-- The scale tensor of a SCALED handle: an E8M0 tensor outside LM (R69). -/
def State.scaleEntry (s : State) (slot : Nat) (e : BitVec 512) (wr : Bool) : Except Bad (State × BitVec 512) :=
  if !(hScaled e) then .ok (s, 0)
  else match s.readHandle slot (hSclh e) with
    | .error b => .error b
    | .ok (s1, x) => match hCheck x (farSpace x && hLayout x != 1 && hType x == some .e8m0) (!wr) wr with
      | some b => .error b
      | none => .ok (s1, x)
/-- Bytes of a row of `w` elements from a coordinate, for LAYOUT 0 and 2: first bit and byte count. -/
def rowBits (e : BitVec 512) (x : Coord) (w : Nat) : Nat × Nat × Nat :=
  let b := hElemBit e x
  (b / 8, b % 8, (b % 8 + w * hBits e + 7) / 8)
/-- The bytes of a tile's rows, for LAYOUT 0 and 2, lie inside LIMIT (R68). -/
def tileFits (e : BitVec 512) (n : Nat) : Bool :=
  let b := tileBox e n
  let x := rowBits e ⟨b.x0, b.x1 + b.h - 1, b.x2, b.x3⟩ b.w
  hLayout e == 1 || decide (x.1 + x.2.2 ≤ hLimit e)
/-- A COMPRESSED row lies in a range (R290). -/
def State.compressedIn (s : State) (ps : List Piece) : Bool := s.rows.any (fun r => r.2.isCompressed) && ps.any (fun p => match p with
  | .mem sp off n _ => s.rowFate false sp off n == some .layoutMismatch
  | _ => false)
/-- Some destination row of the command is COMPRESSED (R367); pages that do not translate are looked at when they are written. -/
def State.dstCompressed (s : State) (c : Cmd) (e : BitVec 512) (tiles : List Nat) : Bool :=
  hLayout e == 2 && s.rows.any (fun r => r.2.isCompressed) &&
  tiles.any (fun n =>
    let b := tileBox e n
    (List.range b.h).any (fun r =>
      let x := rowBits e ⟨b.x0, b.x1 + r, b.x2, b.x3⟩ b.w
      match s.translateRange c.core (s.strand c.slot).pasid (s.cmdSys c) .write 3 (BitVec.ofNat 64 (hBase e + x.1)) x.2.2 with
      | .ok ps => s.compressedIn ps
      | .error _ => false))
def State.startLayout (s : State) (c : Cmd) : Except Bad (State × Cmd) :=
  let d := c.desc
  match s.startHandles c.slot [fld d 64 10, fld d 80 10] with
  | .error b => .error b
  | .ok (s1, [a, b]) =>
    let f := (ellFmt d).getD .int8
    let mis : Option Bad := some (.trap .layoutMismatch 0)
    let op := ellOp d
    let src := (hType a).getD .int8
    (match firstBadOf [
        hCheck a (farSpace a && hType a != some .a56i && hType a != some .a56f) true false,
        if op = 2 then (if fld d 64 10 = fld d 80 10 ∧ hLayout b = 1 ∧ hWr b then none else mis)
        else hCheck b (farSpace b && (hLayout b == 1 || hLayout b == 2) && ellFmt d == hType b) false true,
        if ellTiles d = 0 then some (.trap .illegalOperand 0) else none,
        if sameDims a b then none else mis,
        if ellFmt d == hType b then none else mis,
        if ellTile0 d + ellTiles d > tileCount a then some (.trap .handleBounds 4) else none,
        if (List.range (ellTiles d)).all (fun k => tileFits a (ellTile0 d + k) && tileFits b (ellTile0 d + k)) then none else some (.trap .handleBounds 4),
        if op = 0 && !(ellFmt d == hType a && hScaled a == hScaled b) then mis else none,
        if op = 1 && (Fmt.convIllegal src f || (hScaled b && hDim b 0 % 32 != 0)) then mis else none,
        if op = 1 && ellRnd d > 4 then some (.trap .illegalOperand 0) else none,
        if op != 2 && s1.dstCompressed c b ((List.range (ellTiles d)).map (ellTile0 d + ·)) then mis else none] with
    | some x => .error x
    | none => match s1.scaleEntry c.slot a false with
      | .error x => .error x
      | .ok (s2, sa) => match (if op = 2 then .ok (s2, 0) else s2.scaleEntry c.slot b true) with
        | .error x => .error x
        | .ok (s3, sb) => .ok (s3, { c with src := a, dst := b, aux := sa, input := [sb.toNat], started := true }))
  | .ok _ => .error (.trap .handleInvalid 0)
/-- COPY_COMMAND_START (R219). -/
def execCopyCommandStart (core : Nat) (s : State) : Out := whenCore core s (copyCommandStart? State.startLayout core s)

/-! ### Sources (R365, R366) -/

/-- Elements from a bit string: `n` codes of `bits` bits. -/
def unpackCodes (bits n v : Nat) : List Nat := (List.range n).map (fun k => v / 2 ^ (bits * k) % 2 ^ bits)
/-- A row of source elements: the codes, whether each comes from a CONST tile or an elided block, and the poison met. -/
structure SrcRow where
  s : State
  codes : List Nat
  const : List Bool
  poison : Bool := false
  deriving DecidableEq, Repr
/-- Read bytes by address for a command. -/
def State.cmdBytes (s : State) (c : Cmd) (va : Word) (n : Nat) : Except Bad Got :=
  match s.translateRange c.core (s.strand c.slot).pasid (s.cmdSys c) .read 4 va n with
  | .error b => .error b
  | .ok ps => match s.piecesFate false ps with
    | some b => .error b
    | none => .ok (s.readPieces c.core ps)
/-- A compressed record's head, checked (R366). -/
def State.recordHead (s : State) (c : Cmd) (loc : Nat) : Except Bad (Got × BitVec 256 × Word) :=
  let va : Word := BitVec.ofNat 64 (loc / 16 * 64)
  if loc % 16 != 0 then .error (.trap .layoutMismatch 0)
  else match s.cmdBytes c va 32 with
    | .error b => .error b
    | .ok g =>
      let h : BitVec 256 := BitVec.ofNat 256 (leNat g.bytes)
      if fld h 205 51 != 0 || fld h 203 2 == 3 then .error (.trap .layoutMismatch 0) else .ok (g, h, va)
/-- Columns `lo` to `hi` of row r of a compressed tile, which has two blocks, each stored or elided. -/
def State.recordRow (s : State) (c : Cmd) (loc bits r lo hi : Nat) : Except Bad SrcRow :=
  match s.recordHead c loc with
  | .error b => .error b
  | .ok (g, h, va) =>
    let stored (n : Nat) : Bool := h.getLsbD n
    let before (n : Nat) : Nat := (List.range n).countP stored
    let fill := fld h 128 32 % 2 ^ bits
    let block (k : Nat) : Except Bad (List Nat × Bool × Bool) :=
      let n := 2 * r + k
      if stored n && lo < 32 * k + 32 && 32 * k < hi then
        match s.cmdBytes c (va + BitVec.ofNat 64 (32 + before n * 4 * bits)) (4 * bits) with
        | .error b => .error b
        | .ok x => .ok (unpackCodes bits 32 (leNat x.bytes), false, x.poison.isSome)
      else .ok (List.replicate 32 fill, !(stored n), false)
    match block 0, block 1 with
    | .error b, _ => .error b
    | _, .error b => .error b
    | .ok x, .ok y => .ok { s := g.s, codes := ((x.1 ++ y.1).drop lo).take (hi - lo)
                            const := ((List.replicate 32 x.2.1 ++ List.replicate 32 y.2.1).drop lo).take (hi - lo)
                            poison := g.poison.isSome || x.2.2 || y.2.2 }
/-- A row of `w` source elements from a coordinate. -/
def State.srcRow (s : State) (c : Cmd) (x : Coord) (w : Nat) : Except Bad SrcRow :=
  let e := c.src
  let bits := hBits e
  let plain (ps : List Piece) (shift : Nat) : SrcRow :=
    let g := s.readPieces c.core ps
    { s := g.s, codes := unpackCodes bits w (leNat g.bytes / 2 ^ shift), const := List.replicate w false, poison := g.poison.isSome }
  if hLayout e = 1 then
    match s.tileLookup c.slot (s.cmdSys c) e x with
    | .error b => .error b
    | .ok (.invalid, _) => .error (.trap .handleInvalid 0)
    | .ok (.absent, va) => .error (.held .tile .pageFault va 0)
    | .ok (.const v, _) => .ok { s := s, codes := List.replicate w (v.toNat % 2 ^ bits), const := List.replicate w true }
    | .ok (.compressed loc, _) => s.recordRow c loc bits (x.x1 % 64) (x.x0 % 64) (x.x0 % 64 + w)
    | .ok (.frame sp o, va) => (s.frameAt e sp o va false x w).map (fun p => plain p.pieces p.shift)
  else
    let r := rowBits e x w
    match s.hRange c.slot (s.cmdSys c) e (s.cmdCwb c) .read r.1 r.2.2 with
    | .error b => .error b
    | .ok ps => .ok (plain ps r.2.1)
/-- Blocks of 32 columns that columns from x0 on reach into. -/
def blocksOf (x0 w : Nat) : Nat := (x0 % 32 + w + 31) / 32
/-- Coordinates and bytes of a row's scales inside their tensor (R68, R69). -/
def scaleSpan (e : BitVec 512) (x : Coord) (n : Nat) : Option Bad :=
  let y : Coord := { x with x0 := x.x0 / 32 }
  let r := rowBits e y n
  match hCoordBad e { y with x0 := y.x0 + n - 1 } with
  | some d => some (.trap .handleBounds d)
  | none => if r.1 + r.2.2 > hLimit e then some (.trap .handleBounds 4) else none
/-- Where the `n` scales of a row lie. -/
def State.scalePlace (s : State) (c : Cmd) (e : BitVec 512) (x : Coord) (n : Nat) (acc : Acc) : Except Bad (List Piece) :=
  match scaleSpan e x n with
  | some b => .error b
  | none => let r := rowBits e { x with x0 := x.x0 / 32 } n; s.hRange c.slot (s.cmdSys c) e (s.cmdCwb c) acc r.1 r.2.2
/-- The scales of `w` columns, one per block: the state after their read, the scales, the poison met. -/
def State.srcScales (s : State) (c : Cmd) (x : Coord) (w : Nat) : Except Bad (State × List Nat × Bool) :=
  if !(hScaled c.src) then .ok (s, [], false)
  else match s.scalePlace c c.aux x (blocksOf x.x0 w) .read with
    | .error b => .error b
    | .ok ps => let g := s.readPieces c.core ps; .ok (g.s, g.bytes.map (·.toNat), g.poison.isSome)

/-! ### Conversion (R368) -/

/-- The value of a source element under its scale. -/
def srcValue (f : Fmt) (scale : Option Nat) (code : Nat) : XReal := match scale with
  | some x => mxValue f x (memToReg f code)
  | none => f.value (memToReg f code)
/-- Convert columns, the first of them at column `at_` of its block: destination codes in memory form, and the scales of their blocks. -/
def ellRow (op : Nat) (src dst : Fmt) (mode : RMode) (scales : List Nat) (scaledDst : Bool) (at_ : Nat) (codes : List Nat) : List Nat × List Nat :=
  if op = 0 then (codes, scales)
  else
    let sc (k : Nat) : Option Nat := if scales.isEmpty then none else scales[(at_ + k) / 32]?
    if scaledDst then
      let vs := codes.zipIdx.map (fun v => srcValue src (sc v.2) v.1)
      let qs := (List.range ((codes.length + 31) / 32)).map (fun k => mxQuantise dst mode ((vs.drop (32 * k)).take 32))
      (qs.flatMap (fun q => q.2.1.map (regToMem dst)), qs.map (·.1))
    else (codes.zipIdx.map (fun v => regToMem dst (if isCpx src then (Fmt.cvtElem src dst mode (memToReg src v.1)).1
        else (dst.convert mode true (srcValue src (sc v.2) v.1)).1)), [])

/-! ### Destination rows (R302, R367, R369) -/

/-- A CONST row becomes PLAIN: its bytes take the constant (R369). -/
def State.expandRow (s : State) (off : Nat) : State :=
  let base := off / 1024 * 1024
  match tabFind s.rows (rowKey base) with
  | some (.const v _) =>
    (List.range 16).foldl (fun t k => t.dieWritten false (base / 64 + k)) { s with
      dev := s.dev.write base ((List.range 1024).map (fun i => BitVec.ofNat 8 (v.toNat / 256 ^ (i % 4)))), rows := tabErase s.rows (rowKey base) }
  | _ => s
/-- Rows of the dies that a range touches. -/
def rowStarts (off n : Nat) : List Nat := if n = 0 then [] else (List.range ((off + n - 1) / 1024 - off / 1024 + 1)).map (fun k => (off / 1024 + k) * 1024)
/-- Write bytes at a bank-linear place: CONST rows are expanded first. -/
def State.ellWrite (s : State) (party : Party) (off : Nat) (bs : List Byte) : State :=
  ((rowStarts off bs.length).foldl (fun t r => t.expandRow r) s).writeMem party true .bl off bs
/-- Bytes by ascending place, as stretches without a gap. -/
def byteRuns : List (Nat × Nat) → List (Nat × List Byte)
  | [] => []
  | x :: r => match byteRuns r with
    | y :: q => if y.1 = x.1 + 1 then (x.1, BitVec.ofNat 8 x.2 :: y.2) :: q else (x.1, [BitVec.ofNat 8 x.2]) :: y :: q
    | [] => [(x.1, [BitVec.ofNat 8 x.2])]
/-- A row of pending bytes is settled. -/
def Cmd.forgetRow (c : Cmd) (row : Nat) : Cmd :=
  { c with acc := c.acc.filter (fun p => p.1 / 1024 != row / 1024), status := c.status.filter (fun p => p.1 / 1024 != row / 1024) }
/-- Pending bytes of a command, written out. -/
def State.flushRow (s : State) (c : Cmd) (row : Nat) : State × Cmd :=
  let mine := c.acc.filter (fun p => p.1 / 1024 == row / 1024)
  ((byteRuns mine).foldl (fun t p => t.ellWrite c.party p.1 p.2) s, c.forgetRow row)
/-- A pattern of four bytes that a whole row repeats. -/
def rowPattern (bs : List Nat) : Option (BitVec 32) :=
  let v := leNat ((bs.take 4).map (BitVec.ofNat 8))
  if bs.zipIdx.all (fun b => b.1 == v / 256 ^ (b.2 % 4) % 256) then some (BitVec.ofNat 32 v) else none
/-- Entries of a die's row-state table. -/
def State.rowEntries (s : State) (die : Nat) : Nat := (s.rows.filter (fun r => r.1 / 2 ^ 17 / 32 == die)).length
/-- Enter a row as CONST (R369, R290): its lines leave the L2, its stored bits are not written. -/
def State.enterConst (s : State) (party : Party) (owner : BitVec 20) (row : Nat) (v : BitVec 32) : State :=
  let s1 := (List.range 16).foldl (fun t k => t.flushDev (row / 64 + k)) s
  let s2 := s1.touchCode party .bl row 1024
  (List.range 16).foldl (fun t k => t.dieWritten false (row / 64 + k)) { s2 with rows := tabPut s2.rows (rowKey row) (.const v owner) }
/-- A pending row, complete in every bit, is entered as CONST where it repeats a pattern and its die's table has room, else written. -/
def State.settleRow (s : State) (c : Cmd) (row : Nat) : State × Cmd :=
  let mine := c.acc.filter (fun p => p.1 / 1024 == row / 1024)
  if mine.length < 1024 || !(mine.all (fun p => tabGet c.status 0 p.1 == 0xFF)) then (s, c)
  else match rowPattern (mine.map (·.2)) with
    | some v => if (tabFind s.rows (rowKey row)).isSome || s.rowEntries (blDie row) < 16384 then
        (s.enterConst c.party (s.strand c.slot).pasid row v, c.forgetRow row)
      else s.flushRow c row
    | none => s.flushRow c row
/-- A byte of a destination row: what memory holds there, the bits written and their mask, whether what they come from is constant. -/
structure EllByte where
  old : Byte
  bits : Byte
  mask : Byte
  const : Bool
  deriving DecidableEq, Repr
def EllByte.onto (b : EllByte) (x : Byte) : Byte := (x &&& ~~~b.mask) ||| (b.bits &&& b.mask)
/-- Bytes of a piece of a destination row: at the expert level those of a row that is constant so far are kept back, with the bits of each that
have been written. -/
def State.ellPiece (s : State) (c : Cmd) (off : Nat) (bs : List EllByte) : State × Cmd :=
  if s.ellctl = 0 then (s.ellWrite c.party off (bs.map (fun b => b.onto b.old)), c)
  else
    let at_ := bs.zipIdx.map (fun b => (off + b.2, b.1))
    let c1 := { c with
      acc := at_.foldl (fun t b => tabPut t b.1 (b.2.onto (match tabFind t b.1 with
        | some v => BitVec.ofNat 8 v
        | none => b.2.old)).toNat) c.acc
      status := at_.foldl (fun t b => tabPut t b.1 (tabGet t 0 b.1 ||| b.2.mask)) c.status }
    (rowStarts off bs.length).foldl (fun x row =>
      if at_.all (fun b => b.1 / 1024 != row / 1024 || b.2.const) then x.1.settleRow x.2 row else x.1.flushRow x.2 row) (s, c1)
def State.ellPieces (s : State) (c : Cmd) : List Piece → List EllByte → State × Cmd
  | [], _ => (s, c)
  | .mem .bl off n _ :: r, bs => let x := s.ellPiece c off (bs.take n); x.1.ellPieces x.2 r (bs.drop n)
  | p :: r, bs =>
    let n := match p with
      | .lm _ _ n | .mem _ _ n _ | .remote _ _ n | .kons _ _ _ n | .fixed _ n | .hidden n => n
    (s.writePieces c.party true ((bs.take n).map (fun b => b.onto b.old)) [p]).ellPieces c r (bs.drop n)
/-- A key-value page in the range refuses the sector (R231, R303). -/
def State.ownedIn (s : State) (ps : List Piece) : Bool := ps.any (fun p => match p with
  | .mem sp off n _ => (sp == .il || sp == .bl) && (unitsOf sp off n).any (fun u => (tabFind s.pages (pageKey (64 * u))).isSome)
  | _ => false)
/-- Where a destination row lies: its pieces and its first bit within them. -/
def State.dstRow (s : State) (c : Cmd) (x : Coord) (w : Nat) : Except Bad ElemAt :=
  let e := c.dst
  if hLayout e = 1 then
    match s.elemAt c.slot (s.cmdSys c) e (s.cmdCwb c) true x with
    | .error b => .error b
    | .ok p =>
      let n := (p.shift + w * hBits e + 7) / 8
      .ok { p with pieces := p.pieces.map (fun q => match q with
        | .mem sp o _ z => .mem sp o n z
        | .remote pos o _ => .remote pos o n
        | q => q) }
  else
    let r := rowBits e x w
    match s.translateRange c.core (s.strand c.slot).pasid (s.cmdSys c) .write 4 (BitVec.ofNat 64 (hBase e + r.1)) r.2.2 with
    | .error b => .error b
    | .ok ps =>
      if !(stripeOk ps) then .error (.trap .layoutMismatch 0)
      else if s.compressedIn ps then .error (.trap .layoutMismatch 0)
      else if s.ownedIn ps then .error (.trap .pimOwned 0)
      else .ok { pieces := ps, shift := r.2.1 }
/-- Store a row's codes: bits outside the row keep their values. -/
def State.putRow (s : State) (c : Cmd) (p : ElemAt) (bits : Nat) (codes : List Nat) (const : List Bool) : State × Cmd :=
  let total := codes.length * bits
  let n := (p.shift + total + 7) / 8
  let old := (s.readPieces c.core p.pieces).bytes
  let v := leBytes n (codes.zipIdx.foldl (fun a k => a + k.1 % 2 ^ bits * 2 ^ (bits * k.2)) 0 * 2 ^ p.shift)
  let m := leBytes n ((2 ^ total - 1) * 2 ^ p.shift)
  let constAt (k : Nat) : Bool := const.zipIdx.all (fun x => x.1 || decide (p.shift + bits * (x.2 + 1) ≤ 8 * k) || decide (8 * k + 8 ≤ p.shift + bits * x.2))
  s.ellPieces c p.pieces ((List.range n).map (fun k => ⟨(old[k]?).getD 0, (v[k]?).getD 0, (m[k]?).getD 0, constAt k⟩))
/-! ### Steps -/

/-- A LAYOUT of an operation at the head, under way. -/
def State.runningEll (s : State) (core op : Nat) : Option Cmd :=
  match s.headCmd (.copy core) with
  | some c => if dCmd c.desc == 3 && c.started && !c.finished && c.held.isNone && ellOp c.desc == op && s.barFree c then some c else none
  | none => none
/-- The kept-back bytes whose page a key-value space has taken since (R302). -/
def State.keptOwned (s : State) (c : Cmd) : Bool := c.acc.any (fun p => s.ownedIn [.mem .bl p.1 1 0])
/-- Write out the constant bytes that a command has kept back, but for those. -/
def State.flushAll (s : State) (c : Cmd) : State :=
  (byteRuns (c.acc.filter (fun p => !(s.ownedIn [.mem .bl p.1 1 0])))).foldl (fun t p => t.ellWrite c.party p.1 p.2) s
/-- The command after a sector of `n` element bytes: its counts, its next place, its end. -/
def State.afterSector (s : State) (w : Where) (c : Cmd) (row off n : Nat) (poison : Bool) : State :=
  let c1 := { c with done := c.done + n, poisoned := c.poisoned || poison, row := row, off := off }
  let (s1, c2) := if poison then s.cmdBar c1 none barPoison else (s, c1)
  if row = ellTiles c.desc then
    let c3 := { c2 with finished := true, tail := n, acc := [], status := [], code := if c2.poisoned then 3 else 1 }
    (s1.flushAll c2).setHeadCmd w (if s1.keptOwned c2 then c3.fail .pimOwned 0 else c3)
  else
    let x := s1.sectorPend c2 n
    x.1.setHeadCmd w x.2
/-- A failure of a sector: where it ends the command, what earlier ones kept back is written first (R223, R369). -/
def State.ellBad (s : State) (w : Where) (c : Cmd) (b : Bad) : Option State :=
  match b with
  | .trap _ _ => (s.flushAll c).cmdBad w { c with acc := [], status := [] } false b
  | _ => s.cmdBad w c false b
/-- A part of a row of a tile: its row, its first column, its columns. -/
structure Frag where
  r : Nat
  o : Nat
  n : Nat
  deriving DecidableEq, Repr
/-- The destination bit of an element, from a 512-byte boundary (R350, R367). -/
def sectorBit (e : BitVec 512) (x : Coord) : Nat := if hLayout e = 1 then tileBit e x else 8 * hBase e + hElemBit e x
/-- The parts of a tile's rows, from a row and a column, whose elements begin in one 512-byte block of the destination. -/
def fragsIn (e : BitVec 512) (b : TileBox) (block : Nat) : Nat → Nat → Nat → List Frag
  | 0, _, _ => []
  | k + 1, r, o =>
    let n := ((List.range (b.w - o)).takeWhile (fun j => sectorBit e ⟨b.x0 + o + j, b.x1 + r, b.x2, b.x3⟩ / 4096 == block)).length
    if r ≥ b.h || n = 0 then [] else ⟨r, o, n⟩ :: (if o + n < b.w then [] else fragsIn e b block k (r + 1) 0)
/-- The next sector of a tile: from row `at_ / 64`, column `at_ mod 64`. -/
def sectorFrags (e : BitVec 512) (b : TileBox) (at_ : Nat) : List Frag :=
  fragsIn e b (sectorBit e ⟨b.x0 + at_ % 64, b.x1 + at_ / 64, b.x2, b.x3⟩ / 4096) 64 (at_ / 64) (at_ % 64)
/-- Element bytes of a part: what its end adds to the bytes of its row. -/
def Frag.bytes (f : Frag) (bits : Nat) : Nat := ((f.o + f.n) * bits + 7) / 8 - (f.o * bits + 7) / 8
/-- Where the tile goes on behind a part: the next tile, or the same. -/
def Frag.next (f : Frag) (b : TileBox) (row : Nat) : Nat × Nat :=
  if f.o + f.n < b.w then (row, 64 * f.r + f.o + f.n) else if f.r + 1 < b.h then (row, 64 * (f.r + 1)) else (row + 1, 0)

/-- What a part writes: the place of its first element, its codes, which of them are constant; the scales of the blocks that begin in it, and the
column of the first; what of either met poison. -/
structure EllPart where
  x : Coord
  codes : List Nat
  const : List Bool
  sx : Coord
  scales : List Nat
  poison : Bool
  scalePoison : Bool
  deriving DecidableEq, Repr
/-- Read and convert a part (R368): the elements that it writes, and where the destination is scaled those of the blocks that they lie in. -/
def State.ellRead (s : State) (c : Cmd) (b : TileBox) (f : Frag) : Except Bad (State × EllPart) :=
  let scaled := hScaled c.dst && ellOp c.desc = 1
  let lo := if scaled then f.o / 32 * 32 else f.o
  let hi := if scaled then min b.w ((f.o + f.n + 31) / 32 * 32) else f.o + f.n
  let x : Coord := ⟨b.x0 + lo, b.x1 + f.r, b.x2, b.x3⟩
  match s.srcRow c x (hi - lo) with
  | .error e => .error e
  | .ok q => match q.s.srcScales c x (hi - lo) with
    | .error e => .error e
    | .ok (t, sc, bad) =>
      let out := ellRow (ellOp c.desc) ((hType c.src).getD .int8) ((hType c.dst).getD .int8) (RMode.ofCode (ellRnd c.desc)) sc (hScaled c.dst) (lo % 32) q.codes
      let from_ := (f.o + 31) / 32
      let relay := ellOp c.desc = 0
      .ok (t, { x := { x with x0 := b.x0 + f.o }, codes := (out.1.drop (f.o - lo)).take f.n, const := (q.const.drop (f.o - lo)).take f.n
                sx := { x with x0 := b.x0 + 32 * from_ }
                scales := if hScaled c.dst then (out.2.drop (from_ - lo / 32)).take ((f.o + f.n + 31) / 32 - from_) else []
                poison := q.poison || (bad && !relay), scalePoison := bad || (q.poison && !relay) })
def State.ellReads (s : State) (c : Cmd) (b : TileBox) : List Frag → Except Bad (State × List EllPart)
  | [] => .ok (s, [])
  | f :: r => match s.ellRead c b f with
    | .error e => .error e
    | .ok (t, p) => match t.ellReads c b r with
      | .error e => .error e
      | .ok (u, l) => .ok (u, p :: l)
/-- Where the parts go, and their scales. -/
def State.ellPlaces (s : State) (c : Cmd) : List EllPart → Except Bad (List (EllPart × ElemAt × List Piece))
  | [] => .ok []
  | p :: r => match s.dstRow c p.x p.codes.length with
    | .error e => .error e
    | .ok a => match (if p.scales.isEmpty then .ok [] else s.scalePlace c (BitVec.ofNat 512 (c.input.headD 0)) p.sx p.scales.length .write) with
      | .error e => .error e
      | .ok sp => match s.ellPlaces c r with
        | .error e => .error e
        | .ok l => .ok ((p, a, sp) :: l)
/-- Write a part: the destination bytes of a part that met poison are poisoned (R223). -/
def State.putEllPart (x : State × Cmd) (p : EllPart × ElemAt × List Piece) : State × Cmd :=
  let s1 := x.1.writePieces x.2.party true (p.1.scales.map (BitVec.ofNat 8)) p.2.2
  let s2 := if p.1.scalePoison then s1.poisonPieces p.2.2 else s1
  let y := s2.putRow x.2 p.2.1 (hBits x.2.dst) p.1.codes p.1.const
  (if p.1.poison then y.1.poisonPieces p.2.1.pieces else y.1, y.2)
/-- The layout unit keeps the entries of the tiles that a part reads and writes (R351). -/
def State.keepTiles (s : State) (c : Cmd) (b : TileBox) : State :=
  let x : Coord := ⟨b.x0, b.x1, b.x2, b.x3⟩
  (s.keepTile c.slot (s.cmdSys c) (fld c.desc 64 10) c.src x).keepTile c.slot (s.cmdSys c) (fld c.desc 80 10) c.dst x
/-- One sector of a re-lay or a conversion: everything is read and placed before anything is written. -/
def ellStep (op core : Nat) (s : State) : Option State :=
  let w : Where := .copy core
  match s.runningEll core op with
  | none => none
  | some c => match c.delivered with
    | some (x, sub) => some ((s.flushAll c).setHeadCmd w { c.fail x sub with delivered := none, acc := [], status := [] })
    | none =>
      let b := tileBox c.src (ellTile0 c.desc + c.row)
      let fs := sectorFrags c.dst b c.off
      match s.ellReads c b fs with
      | .error bad => s.ellBad w c bad
      | .ok (s1, ps) => match s1.ellPlaces c ps with
        | .error bad => s.ellBad w c bad
        | .ok l =>
          let y := l.foldl State.putEllPart (s1.keepTiles c b, c)
          let at_ := (fs.getLastD ⟨0, 0, 0⟩).next b c.row
          some ((y.1.afterSector w y.2 at_.1 at_.2 ((fs.map (fun f => f.bytes (hBits c.dst))).foldl (· + ·) 0)
            (ps.any (fun p => p.poison || (p.scalePoison && !p.scales.isEmpty)))).tagHead s w)
/-- ELL_RELAY (R368): element bits, and scales, go to the same coordinates of the destination. -/
def execEllRelay (core : Nat) (s : State) : Out := whenCore core s (ellStep 0 core s)
/-- ELL_CONVERT (R368): each value is converted or quantised into the target format. -/
def execEllConvert (core : Nat) (s : State) : Out := whenCore core s (ellStep 1 core s)

/-- Elements of a compressed tile from `lo` to `hi`, row by row: their codes at their places, and the poison met. -/
def State.recordPart (s : State) (c : Cmd) (loc bits lo hi r : Nat) : Nat → Except Bad (Nat × Bool)
  | 0 => .ok (0, false)
  | n + 1 =>
    let a := max lo (64 * r)
    let b := min hi (64 * r + 64)
    match s.recordPart c loc bits lo hi (r + 1) n with
    | .error e => .error e
    | .ok y => if b ≤ a then .ok y else match s.recordRow c loc bits r (a - 64 * r) (b - 64 * r) with
      | .error e => .error e
      | .ok x => .ok (y.1 + x.codes.zipIdx.foldl (fun t k => t + k.1 % 2 ^ bits * 2 ^ (bits * (a + k.2))) 0, y.2 || x.poison)
/-- The tile entry of an expanded tile: FRAME with the record's space and frame (R350, R370). -/
def frameEntry (xspc xfrm : Nat) : Nat := 1 + xspc * 4 + xfrm * 512
/-- Element bytes inside the dimensions that one sector of a tile holds. -/
def clippedBytes (e : BitVec 512) (b : TileBox) (block : Nat) : Nat :=
  ((List.range b.h).map (fun r =>
    let inside := (List.range b.w).filter (fun k => tileBit e ⟨b.x0 + k, b.x1 + r, b.x2, b.x3⟩ / 4096 == block)
    (⟨r, inside.headD 0, inside.length⟩ : Frag).bytes (hBits e))).foldl (· + ·) 0
/-- ELL_EXPAND (R370): one sector of a tile, the last one with its tile-table entry; tiles that are not COMPRESSED are skipped. -/
def ellExpand? (core : Nat) (s : State) : Option State :=
  let w : Where := .copy core
  match s.runningEll core 2 with
  | none => none
  | some c => match c.delivered with
    | some (x, sub) => some ((s.flushAll c).setHeadCmd w { c.fail x sub with delivered := none, acc := [], status := [] })
    | none =>
      let b := tileBox c.src (ellTile0 c.desc + c.row)
      let bits := hBits c.src
      match s.tileLookup c.slot (s.cmdSys c) c.src ⟨b.x0, b.x1, b.x2, b.x3⟩ with
      | .error bad => s.ellBad w c bad
      | .ok (.compressed loc, va) => (match s.recordHead c loc with
        | .error bad => s.ellBad w c bad
        | .ok (_, h, _) =>
          let frm := fld h 160 43
          let sp : MemSpace := match fld h 203 2 with
            | 0 => .il | 1 => .host | _ => .pool
          if frm = 0 then some (s.setHeadCmd w (c.fail .layoutMismatch 0))
          else match s.recordPart c loc bits (4096 * c.off / bits) ((4096 * (c.off + 1) + bits - 1) / bits) 0 64 with
          | .error bad => s.ellBad w c bad
          | .ok (v, poison) =>
            let ps := [s.pieceAt sp (frm * 512 + 512 * c.off) 512 512]
            if ps.any s.beyond then s.ellBad w c (.held .league .dataPoison va 1)
            else match s.piecesFate true ps with
            | some bad => s.ellBad w c bad
            | none => match s.translateRange c.core (s.strand c.slot).pasid (s.cmdSys c) .write 3 va 8 with
              | .error bad => s.ellBad w c bad
              | .ok es => match s.piecesFate true es with
                | some bad => s.ellBad w c bad
                | none =>
                let s1 := s.writePieces c.party true (leBytes 512 (v / 2 ^ (4096 * c.off))) ps
                let s2 := if poison then s1.poisonPieces ps else s1
                let n := clippedBytes c.src b c.off
                if c.off + 1 < bits then some ((s2.afterSector w c c.row (c.off + 1) n poison).tagHead s w)
                else
                  let s3 := s2.writePieces c.party false (leBytes 8 (frameEntry (fld h 203 2) frm)) es
                  some (((s3.putRel (pieceLocs es) (s3.cmdRel c deviceScope)).afterSector w c (c.row + 1) 0 n poison).tagHead s w))
      | .ok _ => some (s.afterSector w c (c.row + 1) 0 0 false)
def execEllExpand (core : Nat) (s : State) : Out := whenCore core s (ellExpand? core s)

end Sys2Proof.Machine
end

