-- ==== Sys2Proof/Machine/Order.lean ====
section
/-! DEFINITION. Ordering, code publish and engine fences (R146, R155, R266, R271). An L+S instruction issues when every earlier access of both
queues has performed, whatever its scope (log 10, DESIGN CHOICE); its scope and kinds say what happens before what. -/

namespace Sys2Proof.Machine

/-- A scope field; 0 where the instruction has no scope 0 stands for device, its default. -/
def scopeOr (f : Fields) : Nat := if f.scp = 0 then deviceScope else f.scp.toNat
/-- MARK: both halves at the heads, every earlier access performed; each queue comes after the other, at MARK's scope. -/
def markBody (f : Fields) (_e : QEntry) (s : State) : QRes := .done (s.orderQueues f.scp.toNat true true true) [] 0
def execMark (f : Fields) (s : State) : Out := runQueue (.mark f) f .none (markBody f) s
/-- The kinds of FENCE.xy (R146): the S queue's later accesses are writes, its atomics reads and writes, the L queue's are reads; what a queue
has acquired, it has read. -/
def fenceToS (sub : Nat) : Bool := sub == 1 || sub == 4 || sub == 5
def fenceToAtom (sub : Nat) : Bool := sub == 0 || sub == 1 || sub == 4 || sub == 5
def fenceToL (sub : Nat) : Bool := sub == 0 || sub == 2 || sub == 4 || sub == 5
/-- FENCE.rr to FENCE.all: as MARK, for its kinds. -/
def fenceBody (f : Fields) (_e : QEntry) (s : State) : QRes := .done (s.orderQueues (scopeOr f) (fenceToS f.sub.toNat) (fenceToAtom f.sub.toNat) (fenceToL f.sub.toNat)) [] 0
def execFence (f : Fields) (s : State) : Out := runQueue (.fence f) f .none (fenceBody f) s

/-- Furlongs of device memory. -/
def numFurlongs : Nat := 131072
/-- The dirty interleaved lines of a furlong range; a count of 0 takes every furlong. -/
def State.dirtyIn (s : State) (a b : Nat) : List Nat :=
  (s.l2.map (·.1)).filter (fun l => b == 0 || (a ≤ 64 * l / 2 ^ 21 && 64 * l / 2 ^ 21 < a + b))
/-- Write back the dirty lines of a furlong range (R146, R232). -/
def State.writeBackRange (s : State) (a b : Nat) : State := (s.dirtyIn a b).foldl (fun t l => t.flushDev l) s
/-- FENCE.mem: as FENCE.all, then every dirty line of the range is written back to the dies. -/
def fenceMemBody (e : QEntry) (s : State) : QRes :=
  let a := e.a.toNat
  let b := e.b.toNat
  if b != 0 && a + b > numFurlongs then .trap s .handleBounds 0 0 else .done ((s.orderQueues deviceScope true true true).writeBackRange a b) [] 0
def execFenceMem (f : Fields) (s : State) : Out := runQueue (.fenceMem f) f .none fenceMemBody s

/-- A write happens before what the strand does now: its own, or one in its clock (R269, R278). -/
def State.hasSeen (s : State) (p : Party) (stamp : Nat) : Bool := p == s.myParty || clockHas s.actClock p stamp
/-- The lines that a PUBX of the strand publishes: lines of its context's code frames whose setters all happen before it. -/
def State.publishes (s : State) (u : UnpubLine) : Bool :=
  codeLine (s.execMaps.filter (fun m => m.pasid == s.me.pasid.toNat)) u.line && u.setters.all (fun x => s.hasSeen x.1 x.2)
/-- The pages of the context that publishes have made executable, those of some lines among them (R340; log 97, DEDUCED). -/
def State.pagesMade (s : State) (lines : List Nat) : List (Nat × Nat) :=
  let maps := s.execMaps.filter (fun m => m.pasid == s.me.pasid.toNat)
  let page (m : ExecMap) : Nat × Nat := (m.pasid, lineKey m.space m.base)
  (s.rel.published.filter ((maps.map page).contains ·) ++ (maps.filter (fun m => lines.any (codeLine [m]))).map page).eraseDups
/-- PUBX: clears U of the lines it may publish, and removes their fetch copies within its scope. It waits for the strand's stores
under the wait timer, as every instruction whose description says that it waits (R141; log 77, DEDUCED). A publish that would bring the context's
pages above its licence traps (R340). -/
def pubxBody (f : Fields) (_e : QEntry) (s : State) : QRes :=
  if !(queueQuiet s.me .S) then .wait
  else
    let gone := (s.ubits.filter s.publishes).map (·.line)
    let made := s.pagesMade gone
    let s1 : State := { s with
      ubits := s.ubits.filter (fun u => !(gone.contains u.line))
      rel := { s.rel with published := s.rel.published.filter (fun x => x.1 != s.me.pasid.toNat) ++ made } }
    if made.length > cQgen (s.context s.me.pasid) then .trap s .claimViolation 0 0
    else .done (s1.mapCores (fun n c => if inScope f.scp.toNat s.myCore n then { c with icache := c.icache.filter (fun x => !(gone.contains x.1)) } else c)) [] 0
def execPubx (f : Fields) (s : State) : Out := runQueue (.pubx f) f .reply (pubxBody f) s

/-- Instructions whose operations go through the matrix queue. -/
def matrixQueued : Instr → Bool
  | .mpre _ | .mswap _ | .mgo _ | .mdrain _ | .mzero _ | .maccl _ | .mspmeta _ | .mtestNow _ | .mtestIvl _ | .mfuse _ => true
  | _ => false
/-- An operation of the strand from an instruction before `seq` has not performed in a queue that the mask selects (R155). -/
def State.fencePending (s : State) (mask seq : Nat) : Bool :=
  let c := s.core s.myCore
  (mask % 2 == 1 && c.copyq.any (fun x => x.slot == s.cur && x.job.isNone && x.seq < seq)) ||
  (mask / 2 % 2 == 1 && (s.quad (quadOf s.myCore)).q.any (fun x => x.slot == s.cur && x.job.isNone && x.seq < seq)) ||
  (mask / 4 % 2 == 1 && (c.matq.any (fun x => x.slot == s.cur && x.seq < seq) ||
    s.me.cq.any (fun x => matrixQueued x.instr && x.seq < seq)))
/-- The completions that a fence has waited for happen before it, at its scope (R271): of the copy queue, of the memory commands of some
quadrants. -/
def State.seeEngines (s : State) (scp : Nat) (copy : Bool) (quads : List Nat) : State :=
  let t := s.me
  let c := if copy then t.seen.copy else []
  s.gains (s.ownEdge scp (quads.foldl (fun c q => joinClock c (tabGet t.seen.memory [] q)) c))
/-- QFENCE: waits for the earlier operations of the selected engine queues, which then happen before it (R271). -/
def qfenceBody (f : Fields) (e : QEntry) (s : State) : QRes :=
  if s.fencePending e.a.toNat e.seq then .wait
  else .done (s.seeEngines (scopeOr f) (e.a.getLsbD 0) (if e.a.getLsbD 1 then [quadOf s.myCore] else [])) [] 0
def execQfence (f : Fields) (s : State) : Out := runQueue (.qfence f) f .none (qfenceBody f) s

end Sys2Proof.Machine
end

