-- ==== Sys2Proof/Machine/InMemory.lean ====
section
/-! DEFINITION. In-memory commands (R226 to R230, R293 to R305): the checks, translations and lookups of their starts. -/

namespace Sys2Proof.Machine

/-! ### Descriptor fields (R226, R229, R230) -/

def mH0 (d : BitVec 512) : Nat := fld d 64 10
def mH1 (d : BitVec 512) : Nat := fld d 80 10
def mOH (d : BitVec 512) : Nat := fld d 96 10
def mOfmt (d : BitVec 512) : Nat := fld d 106 5
def mRnd (d : BitVec 512) : Nat := fld d 111 3
def mRepl (d : BitVec 512) : Bool := d.getLsbD 114
def mTrapu (d : BitVec 512) : Bool := d.getLsbD 115
def mNorm (d : BitVec 512) : Bool := d.getLsbD 116
/-- ROW0, SEQ or F0; NROWS, NTOK, F1 or BLK0; K or NCNT; HEAD of BGATTN; HDIM. -/
def mA (d : BitVec 512) : Nat := fld d 128 32
def mB (d : BitVec 512) : Nat := fld d 160 32
def mC (d : BitVec 512) : Nat := fld d 192 32
def mHead (d : BitVec 512) : Nat := fld d 192 8
def mHdim (d : BitVec 512) : Nat := fld d 200 2
/-- XOFF or QOFF; OOFF; SOFF; REPF or SCALE. -/
def mXoff (d : BitVec 512) : Nat := fld d 224 32
def mOoff (d : BitVec 512) : Nat := fld d 256 32
def mSoff (d : BitVec 512) : Nat := fld d 288 32
def mRepf (d : BitVec 512) : Nat := fld d 320 32
/-- COPYO; SBK and DBK; HEAD of KVPUT and KVTAKE; OFF. -/
def mCopyo (d : BitVec 512) : Bool := d.getLsbD 90
def mSbk (d : BitVec 512) : Nat := fld d 224 2
def mDbk (d : BitVec 512) : Nat := fld d 226 2
def mKvHead (d : BitVec 512) : Nat := fld d 232 8
def mOff (d : BitVec 512) : Nat := fld d 256 64

def ownLm (e : BitVec 512) : Bool := hSpace e == 0 && hLayout e == 0
def stripe (e : BitVec 512) : Bool := hSpace e == 2 && hLayout e == 2
def isTrue (b : Bool) (x : Bad) : Option Bad := if b then none else some x
/-- A range inside a handle, its LM groups held. -/
def State.rangeBad (s : State) (c : Cmd) (e : BitVec 512) (off n : Nat) : Option Bad :=
  if off + n > hLimit e then some (.trap .handleBounds 4)
  else if hSpace e == 0 && n != 0 && ((s.lmPhys c.slot c.core (hBase e + off)).isNone || (s.lmPhys c.slot c.core (hBase e + off + n - 1)).isNone)
  then some (.trap .handleBounds 5)
  else none
/-- Bytes of local memory, group by group. -/
def State.lmSpan (s : State) (slot core : Nat) : Nat → Nat → Nat → Except Bad (List Piece)
  | 0, _, _ => .ok []
  | fuel + 1, off, n =>
    let k := min n (2 ^ 19 - off % 2 ^ 19)
    if n = 0 then .ok []
    else match s.lmPhys slot core off, s.lmSpan slot core fuel (off + k) (n - k) with
      | some p, .ok r => .ok (.lm core p k :: r)
      | none, _ => .error (.trap .handleBounds 5)
      | _, .error b => .error b

/-! ### Furlongs (R287, R289, R293) -/

/-- Furlongs of addresses from `lo` up to `hi`, both included. -/
def furlongsOf (lo hi : Nat) : List Nat := (List.range (hi / 2 ^ 21 - lo / 2 ^ 21 + 1)).map (lo / 2 ^ 21 + ·)
/-- The bank-linear furlong behind a furlong of addresses; a page of another kind traps LAYOUT_MISMATCH (R289). -/
def State.furlongAt (s : State) (c : Cmd) (acc : Acc) (v : Nat) : Except Bad Nat :=
  let va : Word := BitVec.ofNat 64 (v * 2 ^ 21)
  let t := s.strand c.slot
  match s.translate c.core t.pasid t.sys va acc with
  | .ok sp off _ size => if sp = .bl && size ≥ 2 ^ 21 then .ok (off / 2 ^ 21) else .error (.trap .layoutMismatch 0)
  | r => match r.bad va acc with
    | some b => .error b
    | none => .error .moving
/-- Translate furlongs, in order. -/
def State.furlongs (s : State) (c : Cmd) (acc : Acc) : List Nat → Except Bad (Tab Nat)
  | [] => .ok []
  | v :: r => match s.furlongAt c acc v with
    | .error b => .error b
    | .ok x => match s.furlongs c acc r with
      | .error b => .error b
      | .ok t => .ok (tabPut t v x)
def valsOf (t : Tab Nat) : List Nat := t.map Prod.snd
/-- The bank-linear offset behind an address, by the furlongs translated at the start. -/
def Cmd.bl (c : Cmd) (va : Nat) : Nat := tabGet c.furl 0 (va / 2 ^ 21) * 2 ^ 21 + va % 2 ^ 21

/-- Does a bank row that is COMPRESSED, or that is not PLAIN, lie among these bank-linear offsets. -/
def State.anyCompressed (s : State) (ls : List Nat) : Bool :=
  !s.rows.isEmpty && ls.any (fun l => (tabFind s.rows (rowKey l)).any RowState.isCompressed)
def State.anyMarked (s : State) (ls : List Nat) : Bool := !s.rows.isEmpty && ls.any (fun l => (tabFind s.rows (rowKey l)).isSome)

/-! ### BGMAC (R226, R296) -/

/-- Address bytes of element (k, r) of a stripe tensor: first address, bit within it, bytes. -/
def elemSpan (e : BitVec 512) (k r : Nat) : Nat × Nat × Nat :=
  let b := hElemBit e ⟨k, r, 0, 0⟩
  (hBase e + b / 8, b % 8, (b % 8 + hBits e + 7) / 8)
def macRows (d : BitVec 512) : List Nat := (List.range (mB d)).map (mA d + ·)
/-- Furlongs of the first `n` columns of the rows. -/
def rowFurlongs (e : BitVec 512) (rows : List Nat) (n : Nat) : List Nat :=
  (rows.flatMap (fun r => let z := elemSpan e (n - 1) r; furlongsOf (elemSpan e 0 r).1 (z.1 + z.2.2 - 1))).eraseDups
def macBlocks (d : BitVec 512) : Nat := (mC d + 31) / 32
/-- Address of a replica of an address (R228): the same offset in furlong REPF plus the distance from the furlong of WH.BASE. -/
def replicaVa (d wh : BitVec 512) (va : Nat) : Nat := (mRepf d + (va / 2 ^ 21 - hBase wh / 2 ^ 21)) * 2 ^ 21 + va % 2 ^ 21
/-- Address furlongs that a BGMAC reads. -/
def macReads (d wh sc : BitVec 512) : List Nat :=
  let w := rowFurlongs wh (macRows d) (mC d)
  (w ++ (if hScaled wh then rowFurlongs sc (macRows d) (macBlocks d) else []) ++
    (if mRepl d then w.map (fun v => replicaVa d wh (v * 2 ^ 21) / 2 ^ 21) else [])).eraseDups
def dieOfVa (va : Nat) : Nat := va / 2 ^ 15 % 64
/-- Each MX block, to the last byte of its elements, and its scale byte on one die (R296). -/
def blocksTogether (d wh sc : BitVec 512) : Bool :=
  !(hScaled wh) || (macRows d).all (fun r => (List.range (macBlocks d)).all (fun b =>
    let z := dieOfVa (elemSpan sc b r).1
    (List.range (min 32 (hDim wh 0 - 32 * b))).all (fun j =>
      let x := elemSpan wh (32 * b + j) r
      dieOfVa x.1 == z && dieOfVa (x.1 + x.2.2 - 1) == z)))
def macInt : List Fmt := [.int4, .int8, .int16]
def macFlt : List Fmt := Fmt.mxe ++ [.fp16, .bf16]
def bothIn (l : List Fmt) (a b : BitVec 512) : Bool := match hType a, hType b with
  | some x, some y => l.contains x && l.contains y
  | _, _ => false
def outFmt (d : BitVec 512) : Option Fmt := Fmt.ofCode (mOfmt d)
def outBytes (d : BitVec 512) : Nat := match outFmt d with
  | some f => f.memBits / 8
  | none => 0
/-- First element of x. -/
def macX0 (d xh : BitVec 512) : Nat := mXoff d * 8 / hBits xh
/-- The fixed checks of a BGMAC, in the order handles and formats, alignment, field rules, ranges (log 16, DESIGN CHOICE). -/
def State.macBad (s : State) (c : Cmd) (wh xh oh : BitVec 512) : Option Bad :=
  let d := c.desc
  let iacc := bothIn macInt wh xh
  firstBadOf [hCheck wh (stripe wh && bothIn (macInt ++ macFlt) wh wh) true false, hCheck xh (ownLm xh && (iacc || bothIn macFlt wh xh)) true false,
    hCheck oh (ownLm oh) false true,
    isTrue (hBase wh % 64 == 0 && hStride wh 1 % 64 == 0) (.trap .layoutMismatch 0),
    isTrue (mXoff d * 8 % hBits xh == 0 && (!(hScaled xh) || macX0 d xh % 32 == 0)) (.trap .alignment 0),
    isTrue ((outFmt d == some (if iacc then .a56i else .a56f) || [some .int32, some .fp32, some .bf16].contains (outFmt d)) && mRnd d ≤ 4 &&
      1 ≤ mB d && mB d ≤ 65536 && 1 ≤ mC d) (.trap .illegalOperand 0),
    hBounds wh ⟨0, mA d, 0, 0⟩, hBounds wh ⟨mC d - 1, mA d + mB d - 1, 0, 0⟩,
    hBounds xh ⟨macX0 d xh, 0, 0, 0⟩, hBounds xh ⟨macX0 d xh + mC d - 1, 0, 0, 0⟩,
    s.rangeBad c xh (mXoff d) ((mC d * hBits xh + 7) / 8), s.rangeBad c oh (mOoff d) (mB d * outBytes d), s.rangeBad c oh (mSoff d) (mB d)]
/-- Elements of a vector that starts at a byte. -/
def vecCodes (f : Fmt) (n : Nat) (bs : List Byte) : List Nat :=
  let v := leNat bs
  (List.range n).map (fun k => memToReg f (v / 2 ^ (f.memBits * k) % 2 ^ f.memBits))
/-- Read `n` elements of a vector in LM at a byte offset; words that another operation has taken are waited for (R256). -/
def State.readVec (s : State) (c : Cmd) (e : BitVec 512) (off n : Nat) : Except Bad (State × List Nat × Bool) :=
  match s.lmSpan c.slot c.core 6 (hBase e + off) ((n * hBits e + 7) / 8) with
  | .error b => .error b
  | .ok ps =>
    if !(s.wordsFree ps) then .error .moving
    else
    let g := (s.takePieces ps).readPieces c.core ps
    .ok (g.s, vecCodes ((hType e).getD .int8) n g.bytes, g.poison.isSome)
/-- The scale tensor of x and its checks: element (x0b + k) div 32 for element k (R226, R69). -/
def State.xScales (s : State) (c : Cmd) (xh : BitVec 512) : Except Bad (State × BitVec 512) :=
  if !(hScaled xh) then .ok (s, 0)
  else match s.readHandle c.slot (hSclh xh) with
    | .error b => .error b
    | .ok (s1, sc) =>
      let a := macX0 c.desc xh / 32
      match firstBadOf [hCheck sc (hLayout sc == 0 && hSpace sc != 5 && hType sc == some .e8m0) true false, hBounds sc ⟨a, 0, 0, 0⟩,
          hBounds sc ⟨a + macBlocks c.desc - 1, 0, 0, 0⟩] with
      | some b => .error b
      | none => .ok (s1, sc)
/-- The scales of x, read. -/
def State.readXScales (s : State) (c : Cmd) (xh sc : BitVec 512) : Except Bad (State × List Nat × Bool) :=
  if !(hScaled xh) then .ok (s, [], false)
  else match s.hRange c.slot (s.cmdSys c) sc (s.cmdCwb c) .read (macX0 c.desc xh / 32) (macBlocks c.desc) with
    | .error b => .error b
    | .ok ps =>
      if !(s.wordsFree ps) then .error .moving
      else
      let g := (s.takePieces ps).readPieces c.core ps
      .ok (g.s, g.bytes.map (·.toNat), g.poison.isSome)
/-- The scale tensor of the weights. -/
def State.weightScales (s : State) (c : Cmd) (wh : BitVec 512) : Except Bad (State × BitVec 512) :=
  let d := c.desc
  if !(hScaled wh) then .ok (s, 0)
  else match s.readHandle c.slot (hSclh wh) with
    | .error b => .error b
    | .ok (s1, sc) => match firstBadOf [hCheck sc (stripe sc && hType sc == some .e8m0) true false, hBounds sc ⟨0, mA d, 0, 0⟩,
        hBounds sc ⟨macBlocks d - 1, mA d + mB d - 1, 0, 0⟩, isTrue (blocksTogether d wh sc) (.trap .layoutMismatch 0)] with
      | some b => .error b
      | none => .ok (s1, sc)
/-- The dies of the elements. -/
def macDies (d wh : BitVec 512) : List Nat :=
  ((macRows d).flatMap (fun r => (List.range (mC d)).map (fun k => dieOfVa (elemSpan wh k r).1))).eraseDups
/-- The bank-linear bytes of a BGMAC's weights, of their replicas and of their scales. -/
def macBytes (c : Cmd) : List Nat :=
  let d := c.desc
  (macRows d).flatMap (fun r =>
    ((List.range (mC d)).flatMap (fun k =>
      let z := elemSpan c.src k r
      let vs := (List.range z.2.2).map (z.1 + ·)
      (vs ++ (if mRepl d then vs.map (replicaVa d c.src) else [])).map c.bl)) ++
    (if hScaled c.src then (List.range (macBlocks d)).map (fun b => c.bl (elemSpan c.aux b r).1) else []))
/-- A BGMAC's start: every check, the furlongs it reads, the row states, its input (R219, R293). -/
def State.startBgmac (s : State) (c : Cmd) : Except Bad (State × Cmd) :=
  let d := c.desc
  match s.startHandles c.slot [mH0 d, mH1 d, mOH d] with
  | .error b => .error b
  | .ok (s1, [wh, xh, oh]) => (match s1.macBad c wh xh oh with
    | some b => .error b
    | none => match s1.weightScales c wh with
      | .error b => .error b
      | .ok (s2, sc) => match s2.xScales c xh with
        | .error b => .error b
        | .ok (s3, xsc) => match s3.furlongs c .read (macReads d wh sc) with
          | .error b => .error b
          | .ok fu =>
            let c1 := { c with src := wh, dst := oh, aux := sc, furl := fu, reads := (valsOf fu).eraseDups }
            if s3.rows.any (fun x => x.2.isCompressed) && s3.anyCompressed (macBytes c1) then .error (.trap .layoutMismatch 0)
            else match s3.readVec c xh (mXoff d) (mC d) with
              | .error b => .error b
              | .ok (s4, xs, p) => match s4.readXScales c xh xsc with
                | .error b => .error b
                | .ok (s5, sx, q) => .ok (s5, { c1 with
                    started := true, input := xs, marks := sx, poisoned := p || q, parts := macDies d wh, row := ((hType xh).map Fmt.code).getD 0 }))
  | .ok _ => .error (.trap .handleInvalid 0)

/-! ### Key-value spaces (R298 to R300) -/

/-- A key-value space: head dimension, bytes of an element, furlongs, mirrored. -/
structure KvSpace where
  hd : Nat
  eb : Nat
  furlongs : Nat
  mirrored : Bool
  deriving DecidableEq, Repr
def kvSpace (e : BitVec 512) : KvSpace :=
  { hd := hDim e 0, eb := hBits e / 8, furlongs := hLimit e / 2 ^ 21, mirrored := hDim e 1 == 2 }
def kvOk (e : BitVec 512) : Bool :=
  stripe e && [some Fmt.e4m3, some .bf16, some .fp16].contains (hType e) && [64, 128, 256].contains (hDim e 0) &&
  (hDim e 1 == 1 || hDim e 1 == 2) && hBase e % 2 ^ 21 == 0 && hLimit e != 0 && hLimit e % 2 ^ 21 == 0 &&
  !(hDim e 1 == 2 && hLimit e / 2 ^ 21 % 2 == 1)
/-- Tokens of a block. -/
def KvSpace.tokens (k : KvSpace) : Nat := 2048 / (k.hd * k.eb)
/-- The bank-linear offset of byte `c` of the key area (0) or the value area (2) of a page (R299). -/
def pageByte (page area c : Nat) : Nat := page * 4096 + (area + c / 64 % 2) * 1024 + 64 * (c / 128) + c % 64
def findBlock (l : List Block) (pasid : BitVec 20) (space seq head num : Nat) : Option Block :=
  l.find? (fun b => b.pasid == pasid && b.space == space && b.seq == seq && b.head == head && b.num == num)
def State.blockOf (s : State) (c : Cmd) (e : BitVec 512) (seq head num : Nat) : Option Block :=
  findBlock s.blocks (s.strand c.slot).pasid (hBase e) seq head num
def Block.ref (b : Block) (n : Nat) : PageRef := { n := n, page := b.page, mirror := b.mirror, rel := b.rel }
/-- The rows of a page are PLAIN (R291). -/
def State.pagePlain (s : State) (p : Nat) : Bool := !(s.anyMarked ([0, 1, 2, 3].map (fun a => p * 4096 + 1024 * a)))
def refPages (r : PageRef) : List Nat := r.page :: r.mirror.toList
def diesOf (l : List PageRef) : List Nat := (l.map (fun r => r.page % 512 / 8)).eraseDups
def mirrorHalf (k : KvSpace) : Nat := k.furlongs / 2

/-! ### BGATTN (R229, R301) -/

def attnBlocks (d kv : BitVec 512) : Nat := (mB d + (kvSpace kv).tokens - 1) / (kvSpace kv).tokens
def attnOut (d : BitVec 512) (k : KvSpace) : Nat := if mNorm d then k.hd * outBytes d else 16 + 8 * k.hd
def State.attnBad (s : State) (c : Cmd) (qh kv oh : BitVec 512) : Option Bad :=
  let d := c.desc
  let k := kvSpace kv
  firstBadOf [hCheck qh (ownLm qh && [some Fmt.fp32, some .bf16, some .fp16, some .e4m3].contains (hType qh)) true false,
    hCheck kv (kvOk kv) true false, hCheck oh (ownLm oh) false true,
    isTrue (mHdim d != 3) (.trap .illegalOperand 0), isTrue (64 * 2 ^ mHdim d == k.hd) (.trap .layoutMismatch 0),
    isTrue (!(mRepl d) || k.mirrored) (.trap .layoutMismatch 0),
    isTrue (1 ≤ mB d && mB d ≤ 2 ^ 20 && mRnd d ≤ 4 && (!(mNorm d) || [some Fmt.fp32, some .fp16, some .bf16].contains (outFmt d))) (.trap .illegalOperand 0),
    s.rangeBad c qh (mXoff d) (k.hd * hBits qh / 8), s.rangeBad c oh (mOoff d) (attnOut d k), s.rangeBad c oh (mSoff d) 1]
/-- The pages of the sequence's blocks, in order; none where one is missing. -/
def State.attnPages (s : State) (c : Cmd) (kv : BitVec 512) : Option (List PageRef) :=
  let l := (List.range (attnBlocks c.desc kv)).map (fun b => (s.blockOf c kv (mA c.desc) (mHead c.desc) b).map (fun x => x.ref b))
  if l.all Option.isSome then some (l.filterMap id) else none
/-- Address furlongs of pages, and those of their mirrors. -/
def refFurlongs (kv : BitVec 512) (mirrors : Bool) (l : List PageRef) : List Nat :=
  let f := hBase kv / 2 ^ 21
  (l.flatMap (fun r => (f + r.rel) :: (if mirrors && r.mirror.isSome then [f + r.rel + mirrorHalf (kvSpace kv)] else []))).eraseDups
def State.startBgattn (s : State) (c : Cmd) : Except Bad (State × Cmd) :=
  let d := c.desc
  match s.startHandles c.slot [mH0 d, mH1 d, mOH d] with
  | .error b => .error b
  | .ok (s1, [qh, kv, oh]) => (match s1.attnBad c qh kv oh with
    | some b => .error b
    | none => match s1.attnPages c kv with
      | none => .error (.trap .handleBounds 0)
      | some ps =>
        if !(ps.all (fun r => s1.pagePlain r.page && (!(mRepl d) || r.mirror.toList.all s1.pagePlain))) then .error (.trap .layoutMismatch 0)
        else match s1.furlongs c .read (refFurlongs kv (mRepl d) ps) with
          | .error b => .error b
          | .ok fu => match s1.readVec c qh (mXoff d) (kvSpace kv).hd with
            | .error b => .error b
            | .ok (s2, q, p) => .ok (s2, { c with
                started := true, src := kv, dst := oh, furl := fu, reads := (valsOf fu).eraseDups, pages := ps, input := q
                poisoned := p, parts := diesOf ps, row := ((hType qh).map Fmt.code).getD 0 }))
  | .ok _ => .error (.trap .handleInvalid 0)

/-! ### BGCPY (R230, R294) -/

/-- The furlongs of one side: inside the handle, by the bytes of its bank. -/
def bgcpyRangeOk (e : BitVec 512) (f n bk : Nat) : Bool :=
  let v := hBase e / 2 ^ 21 + f
  hBase e ≤ v * 2 ^ 21 + 1024 * bk && (v + n) * 2 ^ 21 - 4096 + 1024 * bk + 1024 ≤ hBase e + hLimit e
def bgcpyFurlongs (e : BitVec 512) (f n : Nat) : List Nat := (List.range n).map (hBase e / 2 ^ 21 + f + ·)
/-- Some row of a bank number in a furlong is not PLAIN; some page of a furlong is not FREE. -/
def State.bankMarked (s : State) (fs : List Nat) (bk : Nat) : Bool :=
  s.rows.any (fun x => fs.contains (x.1 % 2 ^ 17) && x.1 / 2 ^ 17 % 4 == bk)
def State.furlongOwned (s : State) (fs : List Nat) : Bool := s.pages.any (fun x => fs.contains (x.1 / 512))
def State.startBgcpy (s : State) (c : Cmd) : Except Bad (State × Cmd) :=
  let d := c.desc
  match s.readHandle c.slot (mH0 d) with
  | .error b => .error b
  | .ok (s1, e) => match firstBadOf [hCheck e (stripe e) true true, isTrue (mC d != 0) (.trap .illegalOperand 0),
      isTrue (bgcpyRangeOk e (mA d) (mC d) (mSbk d) && bgcpyRangeOk e (mB d) (mC d) (mDbk d)) (.trap .handleBounds 4)] with
    | some b => .error b
    | none => match s1.furlongs c .read (bgcpyFurlongs e (mA d) (mC d)), s1.furlongs c .write (bgcpyFurlongs e (mB d) (mC d)) with
      | .error b, _ => .error b
      | _, .error b => .error b
      | .ok fs, .ok fd =>
        let ss := valsOf fs
        let ds := valsOf fd
        if s1.bankMarked ss (mSbk d) || s1.bankMarked ds (mDbk d) then .error (.trap .layoutMismatch 0)
        else if s1.furlongOwned ds then .error (.trap .pimOwned 0)
        else .ok (s1, { c with started := true, src := e, furl := fd.foldl (fun t x => tabPut t x.1 x.2) fs, reads := ss.eraseDups, parts := List.range 64 })

/-! ### KVPUT and KVTAKE (R230, R300, R302) -/

/-- The source of a KVPUT, and the destination of a KVTAKE, whose memory R230 leaves to the handle. -/
def ioKind (e : BitVec 512) : Bool := hLayout e == 0 && (hSpace e == 0 || hSpace e == 1)
def outKind (e : BitVec 512) : Bool := hLayout e == 0 && hSpace e != 5
def kvBgau (d : BitVec 512) (b : Nat) : Nat := (mA d + 64 * mKvHead d + b) % 512
/-- The free page of a BGAU at the lowest furlong of the space, of `n` furlongs still to look at (R300). -/
def State.freePage (s : State) (c : Cmd) (kv : BitVec 512) (g : Nat) (taken : List Nat) (n0 : Nat) : Nat → Except Bad (Option PageRef)
  | 0 => .ok none
  | left + 1 =>
    let k := kvSpace kv
    let rel := n0 - (left + 1)
    let v := hBase kv / 2 ^ 21 + rel
    let free (p : Nat) : Bool := (tabFind s.pages p).isNone && !(s.pageNamed p) && !(taken.contains p)
    match s.furlongAt c .write v, (if k.mirrored then (s.furlongAt c .write (v + mirrorHalf k)).map some else .ok none) with
    | .error b, _ => .error b
    | _, .error b => .error b
    | .ok f, .ok m =>
      let p := f * 512 + g
      let q := m.map (fun x => x * 512 + g)
      if free p && (match q with
        | some x => free x
        | none => true) then .ok (some { n := 0, page := p, mirror := q, rel := rel })
      else s.freePage c kv g taken n0 left
/-- Pages for the blocks of a KVPUT, in order. -/
def State.placeBlocks (s : State) (c : Cmd) (kv : BitVec 512) (taken : List Nat) : List Nat → Except Bad (List PageRef)
  | [] => .ok []
  | b :: r =>
    let k := kvSpace kv
    let n := if k.mirrored then mirrorHalf k else k.furlongs
    match s.freePage c kv (kvBgau c.desc b) taken n n with
    | .error e => .error e
    | .ok none => .error (.trap .handleBounds 0)
    | .ok (some p) => match s.placeBlocks c kv (refPages p ++ taken) r with
      | .error e => .error e
      | .ok l => .ok ({ p with n := b } :: l)
def kvBlocks (d : BitVec 512) : List Nat := (List.range (mC d)).map (mB d + ·)
/-- Pages of a KVPUT that take an entry of their own: those of blocks that the tables do not name now. -/
def State.newEntries (s : State) (c : Cmd) (kv : BitVec 512) (l : List PageRef) : List PageRef :=
  l.filter (fun r => !r.old && (s.blockOf c kv (mA c.desc) (mKvHead c.desc) r.n).isNone)
/-- Entries that running KVPUTs will make. -/
def State.entriesDue (s : State) : List PageRef :=
  s.quads.flatMap (fun x => x.2.q.flatMap (fun c => if dCmd c.desc = 0x14 && c.started && !c.finished then s.newEntries c c.dst c.pages else []))
/-- Every die has a block-table entry left for its new blocks: 65,536 of them, with those that running KVPUTs will take (R300). -/
def State.tableRoom (s : State) (c : Cmd) (kv : BitVec 512) (new : List PageRef) : Bool :=
  let due := s.newEntries c kv new ++ s.entriesDue
  (diesOf due).all (fun die => s.blocks.countP (fun b => b.page % 512 / 8 == die) + due.countP (fun r => r.page % 512 / 8 == die) ≤ 65536)
/-- The bytes of the source, with the numbers of its poisoned 64-byte units. -/
def State.readBlocks (s : State) (c : Cmd) (e : BitVec 512) (off : Nat) : Nat → Except Bad (State × List Byte × List Nat)
  | 0 => .ok (s, [], [])
  | n + 1 => match s.hRange c.slot (s.cmdSys c) e [] .read off 64 with
    | .error b => .error b
    | .ok ps =>
      if !(s.wordsFree ps) then .error .moving
      else
      let g := (s.takePieces ps).readPieces c.core ps
      match g.s.readBlocks c e (off + 64) n with
      | .error b => .error b
      | .ok (s2, bs, ms) => .ok (s2, g.bytes ++ bs, if g.poison.isSome then n :: ms else ms)
/-- A stretch of bytes in a page of a key-value space. -/
def Piece.inPage (p : Nat) : Piece → Bool
  | .mem sp off n _ => (sp == .il || sp == .bl) && (unitsOf sp off n).any (fun u => pageKey (64 * u) == p)
  | _ => false
/-- Write back the interleaved lines of a page, and its new state. Writes that were let into it while it was FREE perform first (R302). -/
def State.takePage (s : State) (st : PageState) (p : Nat) : State :=
  let s0 := if st = .reserved then s.strands.foldl (fun t x => t.settleLate x.1 (fun w => w.pieces.any (Piece.inPage p))) s else s
  let s1 : State := { s0 with pages := tabPut s0.pages p st }
  if st = .reserved then (List.range 64).foldl (fun t i => t.flushDev (64 * p + i)) s1 else s1
def State.takePages (s : State) (st : PageState) (l : List PageRef) : State := (l.flatMap refPages).foldl (fun t p => t.takePage st p) s
/-- KVPUT's start: its pages are found and reserved, those it replaces are being released, its source is read. Of KVH it needs RD (log 78,
DESIGN CHOICE), as KVTAKE does. -/
def State.startKvput (s : State) (c : Cmd) : Except Bad (State × Cmd) :=
  let d := c.desc
  match s.startHandles c.slot [mH0 d, mH1 d] with
  | .error b => .error b
  | .ok (s1, [e, kv]) => (match firstBadOf [hCheck e (ioKind e) true false, hCheck kv (kvOk kv) true false, isTrue (mC d != 0) (.trap .illegalOperand 0),
        s1.rangeBad c e (mOff d) (4096 * mC d), isTrue (mB d + mC d ≤ 2 ^ 20) (.trap .handleBounds 0)] with
    | some b => .error b
    | none => match s1.placeBlocks c kv [] (kvBlocks d) with
      | .error b => .error b
      | .ok new =>
        let old := (kvBlocks d).filterMap (fun b => (s1.blockOf c kv (mA d) (mKvHead d) b).map (fun x => { x.ref b with old := true }))
        if !(s1.tableRoom c kv new) then .error (.trap .handleBounds 0)
        else if !(new.all (fun r => (refPages r).all s1.pagePlain)) then .error (.trap .layoutMismatch 0)
        else match s1.readBlocks c e (mOff d) (64 * mC d) with
          | .error b => .error b
          | .ok (s2, bs, ms) => .ok ((s2.takePages .releasing old).takePages .reserved new,
              { c with started := true, src := e, dst := kv, pages := new ++ old, input := bs.map (·.toNat), marks := ms.map (fun n => 64 * mC d - 1 - n)
                       parts := diesOf new }))
  | .ok _ => .error (.trap .handleInvalid 0)
/-- The places of a KVTAKE's copy-out, one for each block that is present (R230, R293). -/
def State.copyOuts (s : State) (c : Cmd) (e : BitVec 512) : List PageRef → Except Bad (Tab (List Piece))
  | [] => .ok []
  | x :: r => match s.hRange c.slot (s.cmdSys c) e [] .write (mOff c.desc + 4096 * (x.n - mB c.desc)) 4096 with
    | .error b => .error b
    | .ok ps => match s.copyOuts c e r with
      | .error b => .error b
      | .ok t => .ok (tabPut t (x.n - mB c.desc) ps)
/-- KVTAKE: a block that is not present is skipped (R230). -/
def State.startKvtake (s : State) (c : Cmd) : Except Bad (State × Cmd) :=
  let d := c.desc
  match s.startHandles c.slot ([mH1 d] ++ (if mCopyo d then [mH0 d] else [])) with
  | .error b => .error b
  | .ok (_, []) => .error (.trap .handleInvalid 0)
  | .ok (s1, kv :: r) =>
    let e := r.headD 0
    match firstBadOf [hCheck kv (kvOk kv) true false, if mCopyo d then hCheck e (outKind e) false true else none,
        isTrue (mC d != 0) (.trap .illegalOperand 0), if mCopyo d then s1.rangeBad c e (mOff d) (4096 * mC d) else none] with
    | some b => .error b
    | none =>
      let refs := (kvBlocks d).filterMap (fun b => (s1.blockOf c kv (mA d) (mKvHead d) b).map (fun x => x.ref b))
      let outs := if mCopyo d then s1.copyOuts c e refs else .ok []
      match s1.furlongs c .read (if mCopyo d then refFurlongs kv false refs else []), outs with
      | .error b, _ => .error b
      | _, .error b => .error b
      | .ok fu, .ok os => .ok (s1.takePages .releasing refs,
          { c with started := true, src := kv, dst := e, furl := fu, outs := os, reads := (valsOf fu).eraseDups, pages := refs
                   parts := if mCopyo d then diesOf refs else [] })

/-! ### Starts (R293) -/

/-- The start of a command behind the checks of a QPUT packet; the serial number is its place among arrivals (R295). -/
def State.startMemory (s : State) (c0 : Cmd) : Except Bad (State × Cmd) :=
  let c := { c0 with sent := s.fv }
  match dCmd c.desc with
  | 0x11 => s.startBgmac c
  | 0x12 => s.startBgcpy c
  | 0x13 => s.startBgattn c
  | 0x14 => s.startKvput c
  | _ => s.startKvtake c
/-- MEMORY_COMMAND_START (R293). -/
def memoryCommandStart? (quad : Nat) (s : State) : Option State :=
  let w : Where := .mem quad
  match s.headCmd w with
  | none => none
  | some c => if !(s.mayStart c) then none else s.startCmd w memoryCodes State.startMemory c

/-- The bank-linear furlongs that a command reads, or would read if it started now (R233). -/
def State.cmdReads (s : State) (c : Cmd) : List Nat :=
  if c.started then c.reads
  else
    let h (n : Nat) : BitVec 512 := match s.readHandle c.slot n with
      | .ok (_, e) => e
      | .error _ => 0
    let d := c.desc
    let vs : List Nat := match dCmd d with
      | 0x11 => if mB d = 0 || mC d = 0 || mB d > 65536 then [] else macReads d (h (mH0 d)) (h (hSclh (h (mH0 d))))
      | 0x12 => bgcpyFurlongs (h (mH0 d)) (mA d) (mC d)
      | 0x13 => refFurlongs (h (mH1 d)) (mRepl d) ((s.attnPages c (h (mH1 d))).getD [])
      | 0x15 => if mCopyo d then refFurlongs (h (mH1 d)) false ((kvBlocks d).filterMap (fun b => (s.blockOf c (h (mH1 d)) (mA d) (mKvHead d) b).map (fun x => x.ref b))) else []
      | _ => []
    vs.filterMap (fun v => match s.furlongAt c .read v with
      | .ok f => some f
      | .error _ => none)

end Sys2Proof.Machine
end

