-- ==== Sys2Proof/Machine/MemoryEvents.lean ====
section
/-! DEFINITION. The parts and completions of in-memory commands (R226 to R230, R293 to R305), the events of the dies, and the
instructions BGFENCE, BGBAR and BGSTAT (R232 to R234). -/

namespace Sys2Proof.Machine

/-! ### Reads of the dies (R290, R304) -/

def State.unitPlain (s : State) (u : Nat) : Bool := (tabFind s.rows (rowKey (64 * u))).isNone
def State.unitBad (s : State) (u : Nat) : Bool := s.unitPlain u && (s.devPoison.contains u || s.devUe.contains u)
def State.unitCe (s : State) (u : Nat) : Bool := s.unitPlain u && s.devCe.contains u && !(s.unitBad u)
/-- The effect of a part's reads on the error state: counts rise; units read with a corrected error are to be scrubbed. -/
def State.noteUnits (s : State) (us : List Nat) : State :=
  us.eraseDups.foldl (fun t u => let t1 := t.noteUnit .bl u; if s.unitCe u then { t1 with scrubDue := setAdd t1.scrubDue u } else t1) s
def State.dieBytes (s : State) (ls : List Nat) : List Byte := ls.map s.dieByte
/-- Status bits of R227 for the units that an output depends on. -/
def stCe : Nat := 1
def stUe : Nat := 2
def stRpl : Nat := 4
def stCnst : Nat := 8
def bitIf (b : Bool) (n : Nat) : Nat := if b then n else 0

/-! ### BGMAC parts (R47, R49, R296, R297) -/

/-- A term of a row: its BGAU, the bank-linear bytes of its weight, the bit within them, and the byte of its scale. -/
structure MacTerm where
  k : Nat
  g : Nat
  bytes : List Nat
  shift : Nat
  scale : Option Nat
  deriving DecidableEq, Repr
def macTerm (c : Cmd) (replica : Bool) (r k : Nat) : MacTerm :=
  let z := elemSpan c.src k r
  let at_ (va : Nat) : Nat := c.bl (if replica then replicaVa c.desc c.src va else va)
  { k := k, g := z.1 / 4096 % 512, bytes := (List.range z.2.2).map (fun i => at_ (z.1 + i)), shift := z.2.1
    scale := if hScaled c.src then some (c.bl (elemSpan c.aux (k / 32) r).1) else none }
def MacTerm.units (t : MacTerm) : List Nat := (t.bytes ++ t.scale.toList).map (· / 64)
/-- The exact values of a term. -/
def State.macValue (s : State) (f : Fmt) (t : MacTerm) : XReal :=
  let code := memToReg f (leNat (s.dieBytes t.bytes) / 2 ^ t.shift % 2 ^ f.memBits)
  match t.scale with
  | some a => mxValue f (s.dieByte a).toNat code
  | none => f.value code
def xValue (c : Cmd) (k : Nat) : XReal :=
  let f := (Fmt.ofCode c.row).getD .int8
  let code := c.input[k]?.getD 0
  if c.marks.isEmpty then f.value code else mxValue f (c.marks[k / 32]?.getD 0) code
def macIsInt (c : Cmd) : Bool := match hType c.src with
  | some f => macInt.contains f
  | none => false
/-- A first term, taken exactly (R49). -/
def firstCell (iacc : Bool) (a w : XReal) : Nat :=
  if iacc then wrapTo 56 (a.toInt * w.toInt) else (a56f.round .rne false (XReal.mul a w)).1
/-- The partial of a BGAU over its terms, in ascending k. -/
def State.macPartial (s : State) (c : Cmd) (ts : List MacTerm) : Nat :=
  let f := (hType c.src).getD .int8
  match ts with
  | [] => 0
  | t :: r => r.foldl (fun acc x => (stepCell (macIsInt c) acc (xValue c x.k) (s.macValue f x)).1)
      (firstCell (macIsInt c) (xValue c t.k) (s.macValue f t))
/-- One BGAU's part of one row: its partial, the status bits, the units read. With REPL, a failing part runs again on the replica,
and RPL stays set where that fails as well (R228; log 79, DESIGN CHOICE). -/
def State.macBgau (s : State) (c : Cmd) (r : Nat) (ts : List MacTerm) : Nat × Nat × List Nat :=
  let us := ts.flatMap MacTerm.units
  let st (us : List Nat) : Nat := bitIf (us.any s.unitCe) stCe + bitIf (us.any (fun u => !(s.unitPlain u))) stCnst
  if !(us.any s.unitBad) then (s.macPartial c ts, st us, us)
  else if !(mRepl c.desc) then (s.macPartial c ts, st us + stUe, us)
  else
    let ts2 := ts.map (fun t => macTerm c true r t.k)
    let us2 := ts2.flatMap MacTerm.units
    (s.macPartial c ts2, (st us ||| st us2) + stRpl + bitIf (us2.any s.unitBad) stUe, us ++ us2)
def orStatus (c : Cmd) (k n : Nat) : Cmd := { c with status := tabPut c.status k (tabGet c.status 0 k ||| BitVec.ofNat 8 n) }
/-- The part of a die: every row, its BGAUs in order. -/
def State.macPart (s : State) (c : Cmd) (die : Nat) : State × Cmd :=
  let x := (List.range (mB c.desc)).foldl (fun (a : Cmd × List Nat) i =>
    let r := mA c.desc + i
    let ts := ((List.range (mC c.desc)).map (macTerm c false r)).filter (fun t => t.g / 8 == die)
    (List.range 8).foldl (fun (a : Cmd × List Nat) j =>
      let mine := ts.filter (fun t => t.g == 8 * die + j)
      if mine.isEmpty then a
      else
        let o := s.macBgau c r mine
        (orStatus { a.1 with acc := tabPut a.1.acc (512 * i + 8 * die + j) o.1 } i o.2.1, o.2.2 ++ a.2)) a) (c, [])
  (s.noteUnits x.2, x.1)
/-- Combine partials in BGAU index order (R49). -/
def macCombine (iacc : Bool) (ps : List Nat) : Nat := match ps with
  | [] => 0
  | p :: r => r.foldl (fun acc x => if iacc then wrapTo 56 (accInt (toSigned 56 acc) (toSigned 56 x)).1 else (accFloat acc (a56f.decode x)).1) p
/-- The output of a row in memory form (R226). -/
def macOut (d : BitVec 512) (iacc : Bool) (acc : Nat) : Nat × Flags :=
  let y := if iacc then XReal.ofInt (toSigned 56 acc) else a56f.decode acc
  match outFmt d with
  | some .a56i => (a56Mem (toSigned 56 acc), 0)
  | some .int32 => (let z := saturate .int32 (RMode.ofCode (mRnd d)) y; (wrapTo 32 z.1, z.2))
  | some .fp32 => Fmt.fp32.convert (RMode.ofCode (mRnd d)) true y
  | some .bf16 => Fmt.bf16.convert (RMode.ofCode (mRnd d)) true y
  | _ => (acc, 0)

/-! ### Outputs in local memory (R305) -/

/-- Write an output range of OH, then poison the stretches that are lost. -/
def State.putOut (s : State) (c : Cmd) (off : Nat) (bs : List Byte) (bad : List (Nat × Nat)) : State :=
  match s.lmSpan c.slot c.core 6 (hBase c.dst + off) bs.length with
  | .error _ => s
  | .ok ps =>
    let s1 := (s.takePieces ps).writePieces c.party true bs ps
    bad.foldl (fun t x => t.poisonPieces (slicePieces ps x.1 x.2)) s1
/-- The words of local memory that a command's end writes are free (R256). -/
def State.outFree (s : State) (c : Cmd) : Bool :=
  let d := c.desc
  let free (off n : Nat) : Bool := match s.lmSpan c.slot c.core 6 (hBase c.dst + off) n with
    | .ok ps => s.wordsFree ps
    | .error _ => true
  match dCmd d with
  | 0x11 => free (mOoff d) (mB d * outBytes d) && free (mSoff d) (mB d)
  | 0x13 => free (mOoff d) (attnOut d (kvSpace c.src)) && free (mSoff d) 1
  | 0x15 => c.outs.all (fun o => s.wordsFree o.2)
  | _ => true
/-- The end of a command with outputs: CODE 4 where one is lost, CODE 3 where its input was, and TRAPU's trap where any is poisoned (R228). -/
def outCode (c : Cmd) (bad : Bool) : Cmd :=
  { c with
    code := if bad then 4 else if c.poisoned then 3 else 1
    trap := if mTrapu c.desc && (bad || c.poisoned) then some (.pimUncorrectable, 0) else none }
def State.finishBgmac (s : State) (c : Cmd) : State × Cmd :=
  let d := c.desc
  let n := mB d
  let eb := outBytes d
  let iacc := macIsInt c
  let rs := (List.range n).map (fun i => macOut d iacc (macCombine iacc ((c.acc.filter (fun x => 512 * i ≤ x.1 && x.1 < 512 * i + 512)).map Prod.snd)))
  let lost := (List.range n).filter (fun i => (tabGet c.status 0 i).getLsbD 1)
  let s1 := s.putOut c (mOoff d) (rs.flatMap (fun r => leBytes eb r.1)) ((if c.poisoned then List.range n else lost).map (fun i => (eb * i, eb)))
  let s2 := s1.putOut c (mSoff d) ((List.range n).map (fun i => tabGet c.status 0 i)) []
  (s2, { outCode c (!lost.isEmpty) with done := n * eb, flags := rs.foldl (fun a r => a ||| r.2) 0 })

/-! ### BGATTN parts (R229, R299, R301) -/

/-- The running state of an attention sequence: m FP32, l and o A56 float. -/
structure Attn where
  m : Nat
  l : Nat
  o : List Nat
  deriving DecidableEq, Repr
def fp32Of (x : XReal) : Nat := (Fmt.fp32.convert .rne false x).1
def a56Of (x : XReal) : Nat := (a56f.round .rne false x).1
def fp32Val (n : Nat) : XReal := Fmt.fp32.value n
/-- Max of two FP32 codes (R170). -/
def maxFp32 (a b : Nat) : Nat := match minMaxPick true (fp32Val a) (fp32Val b) with
  | some true => a
  | some false => b
  | none => Fmt.fp32.qnan
/-- RoundTo(FP32, RNE, Exp(a − b)); two −∞ give a difference of 0 (R229). -/
def expDiff (a b : Nat) : XReal :=
  let x := fp32Val a
  let y := fp32Val b
  let z := if x == .inf true && y == .inf true then XReal.zero false else XReal.add false x y.negate
  fp32Val (TFun.exp.applyReal .fp32 .rne 0 (2 ^ 64 + a * 2 ^ 32 + b) z).1
/-- One token (R229). -/
def attnToken (scale : XReal) (q k v : List XReal) (a : Attn) : Attn :=
  let dot := match q.zip k with
    | [] => 0
    | x :: r => r.foldl (fun acc y => (stepCell false acc y.1 y.2).1) (firstCell false x.1 x.2)
  let sc := fp32Of (XReal.mul scale (a56f.decode dot))
  let mn := maxFp32 a.m sc
  let c := expDiff a.m mn
  let p := expDiff sc mn
  { m := mn, l := a56Of (XReal.add false (XReal.mul (a56f.decode a.l) c) p)
    o := (a.o.zip v).map (fun x => a56Of (XReal.add false (XReal.mul (a56f.decode x.1) c) (XReal.mul p x.2))) }
/-- Merge a partial into the running state (R229). -/
def attnMerge (a b : Attn) : Attn :=
  let mn := maxFp32 a.m b.m
  let c := expDiff a.m mn
  let c2 := expDiff b.m mn
  let mix (x y : Nat) : Nat := a56Of (XReal.add false (XReal.mul (a56f.decode x) c) (XReal.mul (a56f.decode y) c2))
  { m := mn, l := mix a.l b.l, o := (a.o.zip b.o).map (fun x => mix x.1 x.2) }
/-- The bank-linear bytes of token row i of an area. -/
def rowBytes (page area i n : Nat) : List Nat := (List.range n).map (fun j => pageByte page area (i * n + j))
/-- Tokens of a block below NTOK. -/
def blockTokens (c : Cmd) (r : PageRef) : List Nat :=
  let t := (kvSpace c.src).tokens
  (List.range t).filter (fun i => r.n * t + i < mB c.desc)
def pageUnits (c : Cmd) (page : Nat) (is : List Nat) : List Nat :=
  let n := (kvSpace c.src).hd * (kvSpace c.src).eb
  (is.flatMap (fun i => (rowBytes page 0 i n ++ rowBytes page 2 i n).map (· / 64))).eraseDups
/-- The page that a BGAU reads: the mirror where REPL is set and the page fails (R305). -/
def State.attnPage (s : State) (c : Cmd) (r : PageRef) : Nat × Nat × List Nat :=
  let is := blockTokens c r
  let us := pageUnits c r.page is
  let ce (us : List Nat) : Nat := bitIf (us.any s.unitCe) stCe
  if !(us.any s.unitBad) then (r.page, ce us, us)
  else match r.mirror, mRepl c.desc with
    | some m, true =>
      let us2 := pageUnits c m is
      (m, (ce us ||| ce us2) + stRpl + bitIf (us2.any s.unitBad) stUe, us ++ us2)
    | _, _ => (r.page, ce us + stUe, us)
/-- The tokens of one block. -/
def State.attnBlock (s : State) (c : Cmd) (r : PageRef) (page : Nat) (a : Attn) : Attn :=
  let f := (hType c.src).getD .e4m3
  let k := kvSpace c.src
  let qf := (Fmt.ofCode c.row).getD .fp32
  let q := c.input.map qf.value
  let row (area i : Nat) : List XReal := (codesOf k.eb (s.dieBytes (rowBytes page area i (k.hd * k.eb)))).map f.value
  (blockTokens c r).foldl (fun a i => attnToken (fp32Val (mRepf c.desc)) q (row 0 i) (row 2 i) a) a
/-- A partial in the command's table: at 1024·BGAU, m, l, o and a mark. -/
def putAttn (t : Tab Nat) (g : Nat) (a : Attn) : Tab Nat :=
  ([a.m, a.l] ++ a.o).zipIdx.foldl (fun t x => tabPut t (1024 * g + x.2) x.1) t
def getAttn (t : Tab Nat) (hd g : Nat) : Option Attn :=
  match tabFind t (1024 * g) with
  | none => none
  | some m => some { m := m, l := tabGet t 0 (1024 * g + 1), o := (List.range hd).map (fun d => tabGet t 0 (1024 * g + 2 + d)) }
def State.attnPart (s : State) (c : Cmd) (die : Nat) : State × Cmd :=
  let k := kvSpace c.src
  let x := (List.range 8).foldl (fun (a : Cmd × List Nat) j =>
    let g := 8 * die + j
    let rs := c.pages.filter (fun r => r.page % 512 == g)
    if rs.isEmpty then a
    else
      let z := rs.foldl (fun (b : Attn × Nat × List Nat) r =>
        let p := s.attnPage c r
        (s.attnBlock c r p.1 b.1, b.2.1 ||| p.2.1, p.2.2 ++ b.2.2)) ({ m := 0xFF800000, l := 0, o := List.replicate k.hd 0 }, 0, [])
      (orStatus { a.1 with acc := putAttn a.1.acc g z.1 } 0 z.2.1, z.2.2 ++ a.2)) (c, [])
  (s.noteUnits x.2, x.1)
def State.finishBgattn (s : State) (c : Cmd) : State × Cmd :=
  let d := c.desc
  let k := kvSpace c.src
  let a := match (List.range 512).filterMap (getAttn c.acc k.hd) with
    | [] => ({ m := 0xFF800000, l := 0, o := List.replicate k.hd 0 } : Attn)
    | p :: r => r.foldl attnMerge p
  let lost := (tabGet c.status 0 0).getLsbD 1
  let bad := lost || c.poisoned
  let f := (outFmt d).getD .fp32
  let st := [tabGet c.status 0 0]
  if mNorm d then
    let rs := a.o.map (fun x => let q := XReal.div (a56f.decode x) (a56f.decode a.l); let z := f.convert (RMode.ofCode (mRnd d)) true q.1; (z.1, z.2 ||| q.2))
    let bs := rs.flatMap (fun r => leBytes (outBytes d) r.1)
    let s1 := s.putOut c (mOoff d) bs (if bad then [(0, bs.length)] else [])
    (s1.putOut c (mSoff d) st [], { outCode c lost with done := bs.length, flags := rs.foldl (fun x r => x ||| r.2) 0 })
  else
    let bs := leBytes 8 a.l ++ a.o.flatMap (leBytes 8)
    let s1 := s.putOut c (mOoff d) (leBytes 4 a.m) (if bad then [(0, 4)] else [])
    let s2 := s1.putOut c (mOoff d + 8) bs (if bad then [(0, bs.length)] else [])
    (s2.putOut c (mSoff d) st [], { outCode c lost with done := 4 + bs.length })

/-! ### BGCPY parts (R230) -/

/-- Write one unit of a die as a command, poisoned where its source was (R305). -/
def State.putUnit (s : State) (c : Cmd) (l : Nat) (bs : List Byte) (bad : Bool) : State :=
  let s1 := s.writeMem c.party true .bl l bs
  if bad then s1.poisonRange .bl l 64 else s1
/-- One row of one bank group, unit by unit. -/
def State.copyRow (s : State) (c : Cmd) (src dst : Nat) : State × Cmd :=
  (List.range 16).foldl (fun (a : State × Cmd) i =>
    let u := src / 64 + i
    let bad := a.1.unitBad u
    let bs := a.1.dieBytes ((List.range 64).map (64 * u + ·))
    ((a.1.noteUnits [u]).putUnit c (dst + 64 * i) bs bad, { a.2 with poisoned := a.2.poisoned || bad })) (s, c)
def State.copyPart (s : State) (c : Cmd) (die : Nat) : State × Cmd :=
  let d := c.desc
  let f0 := hBase c.src / 2 ^ 21
  (List.range (mC d)).foldl (fun a i => (List.range 8).foldl (fun (a : State × Cmd) j =>
    let g := 4096 * (8 * die + j)
    a.1.copyRow a.2 (tabGet c.furl 0 (f0 + mA d + i) * 2 ^ 21 + g + 1024 * mSbk d) (tabGet c.furl 0 (f0 + mB d + i) * 2 ^ 21 + g + 1024 * mDbk d)) a) (s, c)

/-! ### KVPUT and KVTAKE parts (R230, R299) -/

/-- The bank-linear address of unit n (0 to 63) of a block outside the dies: units 0 to 31 are keys, 32 to 63 values. -/
def blockUnit (page n : Nat) : Nat := pageByte page (if n < 32 then 0 else 2) (64 * (n % 32))
def State.putPart (s : State) (c : Cmd) (die : Nat) : State × Cmd :=
  (c.pages.filter (fun r => !r.old && r.page % 512 / 8 == die)).foldl (fun a r => (List.range 64).foldl (fun (a : State × Cmd) n =>
    let u := 64 * (r.n - mB c.desc) + n
    let bs := (List.range 64).map (fun i => BitVec.ofNat 8 (c.input[64 * u + i]?.getD 0))
    let bad := c.marks.contains u
    ((refPages r).foldl (fun t p => t.putUnit c (blockUnit p n) bs bad) a.1, { a.2 with poisoned := a.2.poisoned || bad })) a) (s, c)
/-- Copy-out reads: the bytes of unit n of block b at key 64·b + n; the lost units are marked. -/
def State.takePart (s : State) (c : Cmd) (die : Nat) : State × Cmd :=
  (c.pages.filter (fun r => r.page % 512 / 8 == die)).foldl (fun a r => (List.range 64).foldl (fun (a : State × Cmd) n =>
    let u := blockUnit r.page n / 64
    let key := 64 * (r.n - mB c.desc) + n
    let v := leNat (a.1.dieBytes ((List.range 64).map (64 * u + ·)))
    let bad := a.1.unitBad u
    (a.1.noteUnits [u], { a.2 with
      acc := tabPut a.2.acc key v, marks := if bad then key :: a.2.marks else a.2.marks, poisoned := a.2.poisoned || bad })) a) (s, c)
/-- KVPUT's completion: its pages are owned, the block tables name them, the pages it replaces are named no more, those among them that another
KVPUT has placed since its start as well. -/
def State.finishKvput (s : State) (c : Cmd) : State × Cmd :=
  let d := c.desc
  let new := c.pages.filter (fun r => !r.old)
  let pasid := (s.strand c.slot).pasid
  let mine (b : Block) : Bool := b.pasid == pasid && b.space == hBase c.dst && b.seq == mA d && b.head == mKvHead d && new.any (fun r => r.n == b.num)
  let s1 := s.takePages .owned new
  let blocks := s1.blocks.filter (fun b => !(mine b)) ++ new.map (fun r =>
    { pasid := pasid, space := hBase c.dst, seq := mA d, head := mKvHead d, num := r.n, page := r.page, mirror := r.mirror, rel := r.rel })
  let dropped := s1.blocks.filter (fun b => mine b && !(c.pages.any (fun r => r.page == b.page)))
  ({ s1 with blocks := blocks }, { c with pages := c.pages ++ dropped.map (fun b => { b.ref b.num with old := true }), code := if c.poisoned then 3 else 1, done := 4096 * new.length })
/-- KVTAKE's completion: the copies out, to the places translated at the start, then the blocks are removed. -/
def State.finishKvtake (s : State) (c : Cmd) : State × Cmd :=
  let s1 := c.acc.foldl (fun t x =>
      let ps := slicePieces (tabGet c.outs [] (x.1 / 64)) (64 * (x.1 % 64)) 64
      let t1 := (t.takePieces ps).writePieces c.party true (leBytes 64 x.2) ps
      if c.marks.contains x.1 then t1.poisonPieces ps else t1) s
  ({ s1 with blocks := s1.blocks.filter (fun b => !(c.pages.any (fun r => r.page == b.page))) },
    { c with code := if c.poisoned then 3 else 1, done := if mCopyo c.desc then 4096 * c.pages.length else 0 })

/-! ### The events (R293 to R295) -/

/-- A hold keeps the command's parts waiting (R233). -/
def State.heldBack (s : State) (c : Cmd) : Bool := s.holds.any (fun h => h.furlongs.any (fun f => c.reads.contains f))
/-- A part may run: no hold keeps it, and no earlier arrival waits on the same sequencer. -/
def State.partReady (s : State) (c : Cmd) (die : Nat) : Bool :=
  c.started && !c.finished && c.parts.contains die && !(s.heldBack c) &&
  s.quads.all (fun x => match x.2.q.head? with
    | some o => !(o.started && o.parts.contains die && o.sent < c.sent && s.heldBack o)
    | none => true)
/-- MEMORY_PART (R294). -/
def memoryPart? (quad die : Nat) (s : State) : Option State :=
  let w : Where := .mem quad
  match s.headCmd w with
  | none => none
  | some c =>
    if !(s.partReady c die) then none
    else
      let x : State × Cmd := match dCmd c.desc with
        | 0x11 => s.macPart c die
        | 0x12 => s.copyPart c die
        | 0x13 => s.attnPart c die
        | 0x14 => s.putPart c die
        | _ => s.takePart c die
      some (x.1.setHeadCmd w { x.2 with parts := x.2.parts.filter (· != die) })
/-- The work of the memory port once every part has returned. -/
def State.finishMemory (s : State) (c : Cmd) : State × Cmd :=
  if c.finished then (s, c)
  else
    let x : State × Cmd := match dCmd c.desc with
      | 0x11 => s.finishBgmac c
      | 0x12 => (s, { c with code := if c.poisoned then 3 else 1, done := mC c.desc * 2 ^ 19 })
      | 0x13 => s.finishBgattn c
      | 0x14 => s.finishKvput c
      | _ => s.finishKvtake c
    (x.1, { x.2 with finished := true })
/-- MEMORY_COMMAND_COMPLETE (R220, R293). -/
def memoryCommandComplete? (quad : Nat) (s : State) : Option State :=
  let w : Where := .mem quad
  match s.headCmd w with
  | none => none
  | some c =>
    if !c.started || !c.parts.isEmpty || c.held.isSome then none
    else if c.finished then s.complete w c
    else if !(s.outFree c) then none
    else
      let x := s.finishMemory c
      let t := (x.1.setHeadCmd w x.2).tagHead s w
      some (((t.headCmd w).bind (t.complete w)).getD t)
/-- An event of a quadrant; one whose conditions do not hold does not happen. -/
def whenQuad (quad : Nat) (s : State) (r : Option State) : Out := if quad ≥ 4 then .fault .badArgument else .next (r.getD s)
def execMemoryCommandStart (quad : Nat) (s : State) : Out := whenQuad quad s (memoryCommandStart? quad s)
def execMemoryPart (quad die : Nat) (s : State) : Out := whenQuad quad s (memoryPart? quad die s)
def execMemoryCommandComplete (quad : Nat) (s : State) : Out := whenQuad quad s (memoryCommandComplete? quad s)

/-- XPWR_POISON_WRITE (R304): the unit takes the die's poison mark; not an event of a coherence order. -/
def execXpwrPoisonWrite (unit : Nat) (s : State) : Out :=
  .next (if s.xpwrDue.contains unit then s.dieWritten true unit else s)
/-- SCRUB (R304): the corrected value is written back; no value changes. -/
def execScrub (unit : Nat) (s : State) : Out :=
  .next (if s.scrubDue.contains unit then { s with devCe := setDel s.devCe unit, scrubDue := setDel s.scrubDue unit } else s)
/-- REFRESH (R286): changes timing only. -/
def execRefresh (die bank : Nat) (s : State) : Out := if die < 64 ∧ bank < 32 then .next s else .fault .badArgument

/-! ### BGFENCE, BGBAR, BGSTAT (R232 to R234) -/

/-- A memory command of the strand, issued earlier to a quadrant of the mask, has not performed. -/
def State.memoryPending (s : State) (mask seq : Nat) : Bool :=
  (List.range 4).any (fun q => mask / 2 ^ q % 2 == 1 && (s.quad q).q.any (fun x => x.slot == s.cur && x.job.isNone && x.seq < seq))
/-- Dirty lines of the scope: quadrant 3, the issuing quadrant's slice; device 4, all slices (R232). -/
def State.dirtyOf (s : State) (scp : Nat) : List Nat :=
  (s.l2.map Prod.fst).filter (fun l => scp != 3 || (Config.homeQuad l).toNat == quadOf s.myCore)
/-- The scope as encoded; 0 is the default, device. -/
def fenceScope (f : Fields) : Nat := if f.scp = 0 then 4 else f.scp.toNat
def bgfenceBody (f : Fields) (e : QEntry) (s : State) : QRes :=
  if s.memoryPending e.a.toNat e.seq then .wait
  else .done (((s.dirtyOf (fenceScope f)).foldl (fun t l => t.flushDev l) s).seeEngines (fenceScope f) false
    ((List.range 4).filter (fun q => e.a.getLsbD q))) [] 0
def execBgfence (f : Fields) (s : State) : Out := runQueue (.bgfence f) f .none (bgfenceBody f) s

/-- The furlongs that a handle covers. -/
def State.coveredFurlongs (s : State) (h : BitVec 512) : Except Bad (List Nat) :=
  let c : Cmd := { slot := s.cur, core := s.myCore, pos := 0, ring := 0, seq := 0, desc := 0 }
  if hLimit h = 0 then .ok [] else (s.furlongs c .write (furlongsOf (hBase h) (hBase h + hLimit h - 1))).map (fun t => (valsOf t).eraseDups)
/-- BGBAR.hold: 16 holds; it waits for the commands that read the furlongs and that had been accepted when it first issued, or have started
since: none of them is to read on behind it (R233, R371; log 48, DEDUCED). -/
def bgbarHoldBody (f : Fields) (e : QEntry) (s : State) : QRes :=
  let h := e.entry f.a
  match hCheck h (stripe h) false true with
  | some b => b.res s 2 (handleNum f.a)
  | none =>
    if s.holds.length ≥ 16 then .trap s .claimViolation 0 0
    else match s.coveredFurlongs h with
    | .error b => b.res s 2 (handleNum f.a)
    | .ok fs =>
      let t0 := e.waiting.getD s.cycle
      if s.quads.any (fun x => x.2.q.any (fun c => (c.accepted ≤ t0 || c.started) && (s.cmdReads c).any (fun r => fs.contains r))) then .wait
      else .done { s with holds := s.holds ++ [{ lnch := s.me.lnch, pasid := s.me.pasid, base := hBase h, limit := hLimit h, furlongs := fs }] } [] 0
def execBgbarHold (f : Fields) (s : State) : Out := runQueue (.bgbarHold f) f .none (bgbarHoldBody f) s
/-- BGBAR.rel: the hold of the same handle ends; a range that is not held is left as it is. -/
def bgbarRelBody (f : Fields) (e : QEntry) (s : State) : QRes :=
  let h := e.entry f.a
  match hCheck h (stripe h) false true with
  | some b => b.res s 2 (handleNum f.a)
  | none => .done { s with holds := s.holds.filter (fun x => !(x.pasid == s.me.pasid && x.base == hBase h && x.limit == hLimit h)) } [] 0
def execBgbarRel (f : Fields) (s : State) : Out := runQueue (.bgbarRel f) f .none (bgbarRelBody f) s
/-- BGSTAT: error counts of a die, or the commands in a quadrant's queue. -/
def bgstatBody (f : Fields) (e : QEntry) (s : State) : QRes :=
  let n := e.a.toNat
  let d := tabGet s.dieErr {} n
  .done s [match f.sub with
    | 0 => d.ce.zeroExtend 64
    | 1 => d.ue.zeroExtend 64
    | _ => BitVec.ofNat 64 (s.quad n).q.length] 0
def execBgstat (f : Fields) (s : State) : Out := runQueue (.bgstat f) f .none (bgstatBody f) s

end Sys2Proof.Machine
end

