-- ==== Sys2Proof/Machine/Messages.lean ====
section
/-! DEFINITION. Messages of the league at their destination, and the flits that bring them (R236, R237, R374, R375, R378 to R381). -/

namespace Sys2Proof.Machine

/-! ### The home of a window access (R378) -/

/-- The operation of an atomic's opcode (R147, R149). -/
def linkOp (opc : Nat) : Fmt → Nat → Nat → Nat → Option Nat × Flags := match opc with
  | 0x0A0 | 0x0B0 => newAdd | 0x0A1 => newMinS | 0x0A2 => newMaxS | 0x0A3 => newMinU | 0x0A4 => newMaxU | 0x0A5 => newAnd
  | 0x0A6 => newOr | 0x0A7 => newXor | 0x0A8 => newXchg | 0x0A9 => newCas | 0x0AA | 0x0B3 => newFadd | 0x0AB => newIncw
  | 0x0B1 => newMin | _ => newMax
/-- The bytes at `off` are this device's own piece of the window's shared part: a member with other league values does not have them there
(R377, R378). -/
def State.ownsWindow (s : State) (off n : Nat) : Bool :=
  let b := alignedBase 21 s.lwpbase + s.lmsize.toNat
  let unit := (s.lgNm1.toNat + 1) * 2 ^ 21
  s.lgEn && decide (b ≤ off) && decide (off + n ≤ b + (s.lwsize.toNat - s.lmsize.toNat + unit - 1) / unit * 2 ^ 21)
/-- One strand of a peer as a party of this device. -/
def peerKey (pos who : Nat) : Nat := pos * 2 ^ 64 + who
/-- Its access acquires and releases at system scope (R19; log 36, DEDUCED). -/
def State.peerGains (s : State) (pos who : Nat) (ps : List Piece) : State :=
  let c := acquired systemScope (.peer pos) (s.syncs (pieceLocs ps) systemScope (.peer pos who) (.peer pos) (fun _ => true))
  { s with rel := { s.rel with peers := tabPut s.rel.peers (peerKey pos who) (joinClock (tabGet s.rel.peers [] (peerKey pos who)) c) } }
/-- What happens before the next event of the peer's strand. -/
def State.peerClock (s : State) (pos who : Nat) : Clock := addSeen (s.ownWrites (.peer pos who) (.peer pos)) (tabGet s.rel.peers [] (peerKey pos who))
def State.peerReleases (s : State) (pos who : Nat) (ps : List Piece) : State :=
  s.putRel (pieceLocs ps) { owner := .peer pos who, place := .peer pos, scp := systemScope, clock := s.peerClock pos who }
/-- A write of a peer: one that a row or page state refuses is not made (R291, R303; log 21, DESIGN CHOICE). -/
def State.peerWrite (s : State) (pos who off : Nat) (data : List Byte) : State :=
  let ps := [Piece.mem .il off data.length (2 ^ 21)]
  if (s.piecesFate true ps).isSome then s
  else ((s.peerGains pos who ps).writePieces (.peer pos who) false data ps).peerReleases pos who ps
/-- A read of a peer, with its poison. -/
def State.peerRead (s : State) (pos who off n : Nat) : Got :=
  let ps := [Piece.mem .il off n (2 ^ 21)]
  (s.peerGains pos who ps).readPieces svcUnit ps
/-- An atomic of a peer: what it has read, and whether that was poisoned, in which case it writes nothing (R389). -/
def State.peerAtomic (s : State) (pos who off opc fmt : Nat) (a b : BitVec 64) : Got :=
  let x := (Fmt.ofCode fmt).getD .int64
  let n := accBytes x
  let ps := [Piece.mem .il off n (2 ^ 21)]
  let g := s.peerRead pos who off n
  if g.poison.isSome || (s.piecesFate true ps).isSome then g
  else match (linkOp opc x (leNat g.bytes) (a.toNat % 2 ^ x.width) (b.toNat % 2 ^ x.width)).1 with
    | some w => { g with s := (g.s.writeAtomic (.peer pos who) false (leBytes n w) ps).peerReleases pos who ps }
    | none => g
/-- A request of a peer: at a member its home, and its completion, one for each original operation (R379); elsewhere the answer that this
device is none (R378). -/
def State.serveWindow (s : State) (pos : Nat) (m : Config.RingMsg) : State := match m with
  | .write tag who off data =>
    if s.ownsWindow off data.length then (s.peerWrite pos who off data).sendMessage pos (.done tag) else s.sendMessage pos (.stranger tag)
  | .read tag who off n =>
    if s.ownsWindow off n then
      (let g := s.peerRead pos who off n
       g.s.sendMessage pos (.reply tag g.bytes g.poison.isSome))
    else s.sendMessage pos (.stranger tag)
  | .atomic ops who off opc fmt a b merges =>
    if s.ownsWindow off (accBytes ((Fmt.ofCode fmt).getD .int64)) then
      (let g := s.peerAtomic pos who off opc fmt a b
       ops.foldl (fun t x => t.sendMessage x.1 (if merges && g.poison.isNone then .done x.2 else .reply x.2 g.bytes g.poison.isSome)) g.s)
    else ops.foldl (fun t x => t.sendMessage x.1 (.stranger x.2)) s
  | _ => s

/-! ### Messages at their destination -/

/-- The step that a member has committed, with all that happens before its commit (R237, R267). -/
def State.takeStep (s : State) (mask pos : Nat) (step : BitVec 48) : State :=
  let g := tabGet s.groups {} (mask % 256)
  let c := ((s.rel.peers.map Prod.fst).filter (fun k => k / 2 ^ 64 == pos)).foldl (fun c k => joinClock c (s.peerClock pos (k % 2 ^ 64))) []
  { s with groups := tabSet s.groups {} (mask % 256) { g with views := tabSet g.views 0 pos step, clocks := tabPut g.clocks pos c } }
/-- A request's answer has come: no access waits for it any more. -/
def State.answered (s : State) (tag : Nat) : State := s.dropTag tag
/-- Messages that only a member of the league takes. -/
def memberOnly : Config.RingMsg → Bool
  | .contribution .. | .instanceAbort .. | .stepCommit .. | .abort1 .. | .abort2 .. => true
  | _ => false
/-- A message for this device, from position `src`, in a flit of a port with number `seq`. -/
def State.linkMessage (s : State) (port : Port) (src : Nat) (seq : BitVec 16) (m : Config.RingMsg) : State := if memberOnly m && !s.lgEn then s else match m with
  | .write .. | .read .. | .atomic .. => s.serveWindow src m
  | .reply tag _ _ | .done tag => s.answered tag
  | .stranger tag => ({ s with rel := { s.rel with strangers := setAdd s.rel.strangers src } } : State).refuseWindow tag
  | .contribution mask inst pos fmt op len data =>
    s.joinContrib { mask := BitVec.ofNat 8 mask, inst := inst, pos := pos % 8, fmt := fmt, op := op, len := len, data := data, seqs := [seq] }
  | .instanceAbort mask inst pos => s.joinContrib { mask := BitVec.ofNat 8 mask, inst := inst, pos := pos % 8, aborted := true, seqs := [seq] }
  | .stepCommit mask pos step => s.takeStep mask (pos % 8) step
  | .abort1 mask orig acc => s.abortPass1 port mask orig acc
  | .abort2 mask orig agreed => s.abortPass2 port mask orig agreed
  | .time ns => (timeReceive? port ns s).getD s
  | .delayAsk stamp => s.sendNext port (.delayAnswer stamp)
  | .delayAnswer stamp => s.takeDelay port (s.time - stamp)
  | .spare _ _ _ | .other => s

/-! ### Flits (R375) -/

/-- FLIT_RECEIVE: accepted once and in order; its slots are routed to their destination, or on the same way (R373). -/
def flitReceive? (port : Port) (bs : List Byte) (s : State) : Option State :=
  let x := s.port port
  if !(flitOk x bs) then none
  else
    let d := flitNum bs
    let s1 := (s.setPort port { x with rxNext := x.rxNext + 1 }).takeAck port d
    let slots := ((List.range 5).map (flitSlot bs)).filter (fun b => slotClass b != 3)
    if flDst d = s.lgPos.toNat then some (slots.foldl (fun t b => t.linkMessage port (flSrc d) (flSeq d) (Config.slotMessage b)) s1)
    else some (s1.sendSlots (otherPort port) (slots.map (fun b => { cls := slotClass b, src := flSrc d, dst := flDst d, bytes := b })))
/-- A port's flit has 256 bytes. -/
def whenFlit (s : State) (port : Port) (bs : List Byte) (r : Option State) : Out :=
  if bs.length != flitBytes then .fault .badArgument else whenUp s port r
def execFlitReceive (port : Port) (flit : List Byte) (s : State) : Out := whenFlit s port flit (flitReceive? port flit s)
/-- FLIT_NAK: a bad or out-of-order flit is discarded; a NAK goes back. -/
def flitNak? (port : Port) (bs : List Byte) (s : State) : Option State := if flitOk (s.port port) bs then none else some (s.sendNak port)
def execFlitNak (port : Port) (flit : List Byte) (s : State) : Out := whenFlit s port flit (flitNak? port flit s)

end Sys2Proof.Machine
end

