-- ==== Sys2Proof/Machine/Policy.lean ====
section
/-! DEFINITION. The policy firmware at its basic level (R325, R326, R335): queues onto threads, bundles onto slots, pre-emption. Where
R335 leaves a placement open the first that fits is taken (log 19, DESIGN CHOICE). -/

namespace Sys2Proof.Machine

/-! ### Queues and threads -/

def State.freeThread (s : State) : Option Nat := (List.range 32).find? (fun n => (s.thread n).qcb.isNone)
/-- A thread that waits for a notify and whose queue has no bundle left. -/
def State.parked (s : State) : Option Nat :=
  (List.range 32).find? (fun n =>
    let t := s.thread n
    !t.wake && t.held.isNone && t.waitSince.isNone && t.qcb.isSome && s.bundles.all (fun b => b.qcb != t.qcb))
def State.mapThread (s : State) (n k : Nat) : State :=
  let q := s.qcb k
  (s.setQcb k { q with mapped := true, thread := BitVec.ofNat 5 n, pend := false }).setThread n { qcb := some k, wake := true }
def State.unmapThread (s : State) (n : Nat) : State :=
  match (s.thread n).qcb with
  | some k => (s.setQcb k { s.qcb k with mapped := false, thread := 0 }).setThread n {}
  | none => s
/-- Map one VALID queue that no thread serves; one with PEND may take a parked thread. -/
def State.mapQueue (s : State) : Option State :=
  let idle := s.qcbs.filter (fun x => x.2.st == 1 && !x.2.mapped)
  match s.freeThread, idle.head? with
  | some n, some x => some (s.mapThread n x.1)
  | _, _ => match s.parked, idle.find? (fun x => x.2.pend) with
    | some n, some x => some ((s.unmapThread n).mapThread n x.1)
    | _, _ => none

/-! ### The order of R335 -/

def Bundle.deadline (b : Bundle) : Option Nat := if b.dlsec = 0xFFFFFFFFFFFF then none else some (b.dlsec.toNat * nsPerSec + b.dlnsec.toNat)
def State.estOf (s : State) (b : Bundle) : Nat := match s.imageFind b.pasid b.image with
  | some i => i.est
  | none => 0
/-- slackq: whole microseconds, rounded down, saturated; 2^62 without a deadline. -/
def State.slackq (s : State) (b : Bundle) : Int :=
  match b.deadline with
  | none => 2 ^ 62
  | some d => max (-(2 ^ 63)) (min (2 ^ 63 - 1) (((d : Int) - s.time - s.estOf b) / 1000))
def State.ageOf (s : State) (b : Bundle) : Nat := (s.time - b.presentedAt) / 1000
def State.lvlOf (s : State) (b : Bundle) : Nat := b.prio - s.ageOf b / 10000
def Bundle.qnum (b : Bundle) : Nat := b.id.toNat % 4096
/-- The order of types: compute, memory command, copy. -/
def typeRank (typ : Nat) : Nat := if typ = 0 then 0 else if typ = 2 then 1 else 2
/-- The key of a bundle in the policy's order. -/
def State.rankOf (s : State) (b : Bundle) : List Int :=
  [typeRank b.typ, s.lvlOf b, s.slackq b, -(s.ageOf b : Int), b.qnum, b.pasid.toNat]
def lexLt : List Int → List Int → Bool
  | a :: r, b :: q => a < b || (a == b && lexLt r q)
  | _, _ => false
def State.insertRank (s : State) (b : Bundle) : List Bundle → List Bundle
  | [] => [b]
  | c :: r => if lexLt (s.rankOf b) (s.rankOf c) then b :: c :: r else c :: s.insertRank b r
/-- Presented bundles, and saved ones, which are to be bound again. -/
def State.candidates (s : State) : List Bundle :=
  (s.bundles.filter (fun b => b.st == .presented || b.st == .saved)).foldl (fun l b => s.insertRank b l) []

/-! ### Placement -/

/-- What a record is to say, before its place is chosen: one for each instance, or one for a bundle without strands. -/
def Bundle.template (b : Bundle) (img : Image) : List BindRec :=
  let base : BindRec := { valid := true, pasid := b.pasid, image := b.image, lnch := b.lnch, bndl := b.id, argva := b.argva }
  let is := (b.subs.flatMap (fun x => (List.range x.count).map (fun i => (x.strd, i)))).zipIdx
  if is.isEmpty then [base]
  else is.map (fun x => { base with
    strd := BitVec.ofNat 8 x.1.1, idx := BitVec.ofNat 8 x.1.2, ngrp := BitVec.ofNat 4 img.cvg, lmn := BitVec.ofNat 3 img.clm, fuse := img.cfuse
    mown := x.1.1 == img.cmat, rdva := b.rdbase + BitVec.ofNat 64 (64 * x.2) })
/-- Physical LM groups for a record on a core: those of its launch there, else the first free ones. -/
def lmapFor (here : List BindRec) (r : BindRec) : Option (BitVec 8) :=
  match here.find? (fun x => x.lnch == r.lnch) with
  | some x => some x.lmap
  | none =>
    let free := (List.range 4).filter (fun g => here.all (fun x => !(x.groups.contains g)))
    let mine := free.take r.lmn.toNat
    if mine.length < r.lmn.toNat then none else some (BitVec.ofNat 8 ((mine.zipIdx.map (fun x => x.1 * 4 ^ x.2)).foldl (· + ·) 0))
/-- The record at a slot, where it fits beside the others. -/
def State.fitAt (s : State) (used : List (Nat × BindRec)) (area : Nat) (r : BindRec) (n : Nat) : Option (Nat × BindRec) :=
  let here := (used.filter (fun x => coreOf x.1 == coreOf n)).map Prod.snd
  if used.any (fun x => x.1 == n) || !(s.slotFree n) then none
  else match lmapFor here r, (List.range (13 - r.ngrp.toNat)).find? (fun w => windowsOk ({ r with wbase := BitVec.ofNat 4 w } :: here)) with
    | some m, some w =>
      let save := (cSave (s.context r.pasid)).toNat + area * 2 ^ 33
      let r1 := { r with wbase := BitVec.ofNat 4 w, lmap := m, state := 0, rfsd := false
                         ssave := if r.ssave = 0 then BitVec.ofNat 64 (save + 2 ^ 24 * (1 + n)) else r.ssave
                         csave := if r.csave = 0 then BitVec.ofNat 64 (save + 2 ^ 24 * (257 + coreOf n)) else r.csave }
      if s.mownOk (coreOf n) (r1 :: here) then some (n, r1) else none
    | _, _ => none
/-- Slots in the order of the search; a fused launch fills the four cores of a cluster in turn. -/
def slotOrder (fuse : Bool) : List Nat :=
  if fuse then (List.range 256).map (fun i => i / 16 * 16 + i % 4 * 4 + i / 4 % 4) else List.range 256
/-- Records for all of a bundle's instances, in order; those of a saved bundle keep its cores apart and together (R255). -/
def State.placeAll (s : State) (area : Nat) (room : Nat → Bool) : List (Nat × BindRec) → List BindRec → Option (List (Nat × BindRec))
  | done, [] => some done
  | done, r :: rest => match (slotOrder r.fuse).findSome? (fun n =>
      if !(room n) || r.csave != 0 && !(done.all (fun y => (y.2.csave == r.csave) == (coreOf y.1 == coreOf n))) then none else s.fitAt (s.occupying ++ done) area r n) with
    | some x => s.placeAll area room (done ++ [x]) rest
    | none => none
/-- The records that a bundle would get now, if its resources are free; one without strands needs room in the engine queues of its record's core. -/
def State.planFor (s : State) (b : Bundle) : Option (List (Nat × BindRec)) :=
  let ts := if b.st = .saved then b.savedRecs else match s.imageFind b.pasid b.image with
    | some img => b.template img
    | none => []
  let room (n : Nat) : Bool := b.total != 0 || s.jobRoom { b with home := n } (b.jobs.filter (fun j => !j.issued))
  match s.placeAll (s.freeArea b.pasid) room [] ts with
  | some g => if !g.isEmpty && s.groupOk g then some g else none
  | none => none
/-- Write a bundle's records, GO last, which commits them. -/
def State.bindPlan (s : State) (b : Bundle) (g : List (Nat × BindRec)) : Option State :=
  let s1 : State := { s with binds := g.zipIdx.foldl (fun t x => tabPut t x.1.1 { x.1.2 with go := x.2 + 1 == g.length }) (s.binds.filter (fun x => x.2.bndl != b.id)) }
  if b.st = .saved then s1.resumeGroup b else s1.commitGroup b.id

/-! ### Pre-emption by the policy -/

/-- The machine as it would be with `v` saved, for the search of resources. -/
def State.without (s : State) (v : Bundle) : State :=
  let s1 := s.clearOut v (s.liveSlots v)
  { s1 with binds := s1.binds.filter (fun x => x.2.bndl != v.id) }
/-- The bundle to pre-empt for `b`: the greatest level, then the greatest slack. -/
def State.victim (s : State) (b : Bundle) : Option Bundle :=
  let ok (v : Bundle) : Bool := v.st == .started && v.id != b.id &&
    (s.lvlOf v > s.lvlOf b || (s.lvlOf v == s.lvlOf b && decide (s.slackq v ≥ s.slackq b + 1000))) && ((s.without v).planFor b).isSome
  (s.bundles.filter ok).foldl (fun (best : Option Bundle) v => match best with
    | none => some v
    | some w => if lexLt [s.lvlOf w, s.slackq w] [s.lvlOf v, s.slackq v] then some v else best) none
/-- The bundle that is being pre-empted for `b` is not saved yet. -/
def State.victimLeft (s : State) (b : Bundle) : Bool := b.waitsFor.any (fun v => s.bundles.any (fun x => x.id == v && x.st == .saving))
/-- What the policy does for one candidate: no record of it is bound while one of its victim is in STATE 2. -/
def State.dispatchOne (s : State) (b : Bundle) : Option State :=
  if s.victimLeft b then none
  else match s.planFor b with
  | some g => s.bindPlan b g
  | none =>
    if s.slackq b < 100 then
      match s.victim b with
      | some v => preemptRequest? v.id (s.setBundle { b with waitsFor := some v.id })
      | none => none
    else none
/-- POLICY_DISPATCH: a context that is gone is torn down (R344), else the first of the policy's actions that can be taken. The firmware runs on the
leader. -/
def policyDispatch? (s : State) : Option State :=
  if !s.leaderRuns then none
  else match s.goneContext with
  | some p => some (s.endContext p)
  | none => match s.mapQueue with
    | some t => some t
    | none => s.candidates.findSome? s.dispatchOne
def execPolicyDispatch (s : State) : Out := whenSome s (policyDispatch? s)


/-! ### The expert level (R335) -/

/-- A bind record as 512 bits have it (R333). -/
def recordOf (w : BitVec 512) : BindRec :=
  { valid := w.getLsbD 0, go := w.getLsbD 1, pasid := w.extractLsb' 8 20, image := w.extractLsb' 28 16, strd := w.extractLsb' 44 8
    idx := w.extractLsb' 52 8, wbase := w.extractLsb' 60 4, ngrp := w.extractLsb' 64 4, mown := w.getLsbD 68, fuse := w.getLsbD 69
    lmn := w.extractLsb' 70 3, lmap := w.extractLsb' 73 8, lnch := w.extractLsb' 128 64, bndl := w.extractLsb' 192 64, ssave := w.extractLsb' 256 64
    csave := w.extractLsb' 320 64, argva := w.extractLsb' 384 64, rdva := w.extractLsb' 448 64 }
/-- A policy that the device operating system has loaded writes a bind record: into a free one any contents, committed where it sets GO; into one that
runs the request of a pre-emption. What it writes, and when, is its own: a free value (log 96, DESIGN CHOICE). -/
def policyWrite? (slot : Nat) (s : State) : Option State :=
  let r := s.bind slot
  let w : BitVec 512 := BitVec.ofNat 512 (((List.range 16).map (fun i => (Config.freeBits (s.fv + 640) i).toNat * 2 ^ (32 * i))).foldl (· + ·) 0)
  let x := recordOf w
  if !(s.leaderRuns && Config.expertPolicy ()) || slot ≥ 256 then none
  else if r.valid && (r.state == 1 || r.state == 2) then preemptRequest? r.bndl s
  else
    let s1 : State := { s with binds := tabSet s.binds {} slot x }
    some (if x.valid && x.go then (s1.commit x.bndl).getD s1 else s1)

end Sys2Proof.Machine
end

