-- ==== Sys2Proof/Machine/Registers.lean ====
section
/-! DEFINITION. The device registers under the access codes of R7: the service-pair registers (R352, R356, R357, R369, R373, R376,
R388, R403) and the host-event registers (R327). -/

namespace Sys2Proof.Machine

/-! ### Writes -/

/-- A field that keeps its value where the write lies outside its range. -/
def keepRange (lo hi : Nat) (v : Word) (old : Nat) : Nat := if lo ≤ v.toNat ∧ v.toNat ≤ hi then v.toNat else old
/-- Translation and migration registers (R352). -/
def writeTranslation (off : Nat) (v : Word) (s : State) : Option State := match off with
  | 0x000 => some { s with ptbase := v }
  | 0x008 => some { s with fqbase := v }
  | 0x010 => some { s with fqsize := keepRange 6 16 v s.fqsize }
  | 0x020 => some { s with fqtail := v }
  | 0x030 => some (s.writeFresp v)
  | 0x040 => some { s with lim := if fld v 0 4 = 0 then s.lim else v.extractLsb' 0 4 }
  | 0x048 => some { s with mqbase := v }
  | 0x050 => some { s with mqtail := v.setWidth 32 }
  | 0x018 | 0x028 | 0x058 => some s
  | _ => none
/-- League, port and Ell registers (R373, R376, R369). -/
def writeLeague (off : Nat) (v : Word) (s : State) : Option State := match off with
  | 0x200 => some (s.writeLgctl v)
  | 0x208 => some (if s.lgEn then s else { s with lwpbase := v })
  | 0x210 => some (if s.lgEn then s else { s with lwsize := v })
  | 0x218 => some (if s.lgEn then s else { s with lmsize := v })
  | 0x220 => some (s.writeLkctl .east v)
  | 0x228 => some (s.writeLkctl .west v)
  | 0x230 | 0x238 => some s
  | 0x240 => some { s with ellctl := v.extractLsb' 0 1 }
  | _ => none
/-- Error, service-pair and power registers (R388, R397, R403). -/
def writeErrors (off : Nat) (v : Word) (s : State) : Option State := match off with
  | 0x300 => some { s with mebase := v }
  | 0x308 => some { s with mesize := keepRange 6 12 v s.mesize }
  | 0x318 => some { s with metail := v }
  | 0x328 => some { s with cethr := v.extractLsb' 0 5 }
  | 0x330 => some (if v.getLsbD 59 && s.lgabtV then s.clearAbort else s)
  | 0x408 => some { s with hbcnt := v, hbAt := s.time }
  | 0x410 => some { s with jbase := v }
  | 0x418 => some { s with hbmiss := BitVec.ofNat 4 (keepRange 2 15 (v &&& 0xF) s.hbmiss.toNat) }
  | 0x600 => some (s.writePwrctl v)
  | 0x310 | 0x320 | 0x400 | 0x500 | 0x608 => some s
  | _ => none
/-- Host-event registers, written by the host driver (R327). -/
def writeHostEvent (off : Nat) (v : Word) (s : State) : Option State := match off with
  | 0x1000 => some { s with hevbase := v &&& ~~~(0xFFE : Word) }
  | 0x1008 => some { s with hevsize := BitVec.ofNat 4 (keepRange 4 12 (v &&& 0xF) s.hevsize.toNat) }
  | 0x1018 => some { s with hevtail := v }
  | 0x1028 => some { s with hevmsi := v.extractLsb' 0 12 }
  | 0x1010 | 0x1020 | 0x1030 => some s
  | _ => none
/-- An aperture slot (R357). -/
def apslotValue (v : Word) : Word := v &&& ~~~(0xFFFE00000 : Word)
/-- The slot of an aperture register. -/
def apslotOf (off : Nat) : Option Nat := if 0x100 ≤ off ∧ off ≤ 0x178 ∧ off % 8 = 0 then some ((off - 0x100) / 8) else none
/-- A write to the register at an offset; none where no register lies there. -/
def State.writeReg (s : State) (off : Nat) (v : Word) : Option State := match apslotOf off with
  | some k => some { s with apslot := tabSet s.apslot 0 k (apslotValue v) }
  | none => (((writeTranslation off v s).orElse fun _ => writeLeague off v s).orElse fun _ => writeErrors off v s).orElse
      fun _ => writeHostEvent off v s
/-- Registers that only the leader's writes reach (R396): PTBASE, FRESP, MQTAIL. -/
def leaderOnly (off : Nat) : Bool := off == 0x000 || off == 0x030 || off == 0x050
/-- REGISTER_WRITE by a service pair, or by the host driver where the register is its own. Of those registers only the leader's write, and of a
leader that runs, performs; any other pair's is discarded. -/
def execRegisterWrite (reg : RegAt) (value : Word) (s : State) : Out :=
  if leaderOnly reg.offset.toNat && !(reg.pair == s.leader && s.healthy.getLsbD s.leader.toNat) then .next s
  else match s.writeReg reg.offset.toNat value with
    | some t => .next t
    | none => .fault .badArgument

/-! ### Reads -/

def flag (b : Bool) (k : Nat) : Nat := if b then 2 ^ k else 0
/-- LGCTL, LKCTL, LKSTAT, LGABT, SPROLE, FWSTAT, PWRCTL, PWRSTAT as words. -/
def State.lgctl (s : State) : Nat := flag s.lgEn 0 + s.lgPos.toNat * 2 + s.lgNm1.toNat * 16 + s.lgTmpos.toNat * 128 + flag s.lgTmen 10
def lkctl (x : PortState) : Nat := x.thr.toNat + flag x.noauto 5
def lkstat (x : PortState) : Nat := x.failed.toNat + x.spused.toNat * 2 ^ 16 + flag x.half 18 + flag x.up 19 + flag x.pend 20
def State.lgabt (s : State) : Nat := s.lgabtStep.toNat + s.lgabtMask.toNat * 2 ^ 48 + s.lgabtOrig.toNat * 2 ^ 56 + flag s.lgabtV 59
def State.sprole (s : State) : Nat := s.leader.toNat + s.healthy.toNat * 4 + flag s.tkover 6
def State.fwstat (s : State) : Nat := s.fwState.toNat + s.svnf.toNat * 4 + s.svni.toNat * 2 ^ 10 + s.fwFail.toNat * 2 ^ 18
def State.pwrctl (s : State) : Nat := s.optr.toNat + flag s.pin 3 + s.plim.toNat * 2 ^ 16
def State.pwrstat (s : State) : Nat :=
  s.opt.toNat + flag (s.power == .throttle) 3 + flag s.chg.isSome 4 + s.tj.toNat * 2 ^ 16 + s.tmem.toNat * 2 ^ 28 + s.pwr.toNat * 2 ^ 40
/-- Registers up to 0x240 as they read; FRESP is write-only and reads as zero (R7). -/
def State.readLow (s : State) (off : Nat) : Option Nat := match off with
  | 0x000 => some s.ptbase.toNat
  | 0x008 => some s.fqbase.toNat
  | 0x010 => some s.fqsize
  | 0x018 => some s.fqhead.toNat
  | 0x020 => some s.fqtail.toNat
  | 0x028 => some s.fqlost.toNat
  | 0x030 => some 0
  | 0x040 => some s.lim.toNat
  | 0x048 => some s.mqbase.toNat
  | 0x050 => some s.mqtail.toNat
  | 0x058 => some s.mqhead.toNat
  | 0x200 => some s.lgctl
  | 0x208 => some s.lwpbase.toNat
  | 0x210 => some s.lwsize.toNat
  | 0x218 => some s.lmsize.toNat
  | 0x220 => some (lkctl s.east)
  | 0x228 => some (lkctl s.west)
  | 0x230 => some (lkstat s.east)
  | 0x238 => some (lkstat s.west)
  | 0x240 => some s.ellctl.toNat
  | _ => none
/-- Registers from 0x300 on as they read. -/
def State.readHigh (s : State) (off : Nat) : Option Nat := match off with
  | 0x300 => some s.mebase.toNat
  | 0x308 => some s.mesize
  | 0x310 => some s.mehead.toNat
  | 0x318 => some s.metail.toNat
  | 0x320 => some s.melost.toNat
  | 0x328 => some s.cethr.toNat
  | 0x330 => some s.lgabt
  | 0x400 => some s.sprole
  | 0x408 => some s.hbcnt.toNat
  | 0x410 => some s.jbase.toNat
  | 0x418 => some s.hbmiss.toNat
  | 0x500 => some s.fwstat
  | 0x600 => some s.pwrctl
  | 0x608 => some s.pwrstat
  | 0x1000 => some s.hevbase.toNat
  | 0x1008 => some s.hevsize.toNat
  | 0x1010 => some s.hevhead.toNat
  | 0x1018 => some s.hevtail.toNat
  | 0x1020 => some s.hevlost.toNat
  | 0x1028 => some s.hevmsi.toNat
  | 0x1030 => some s.ndrop.toNat
  | _ => none
/-- What a device register reads as (R7). -/
def State.readReg (s : State) (off : Nat) : Option Word := match apslotOf off with
  | some k => some (tabGet s.apslot 0 k)
  | none => ((s.readLow off).orElse fun _ => s.readHigh off).map (BitVec.ofNat 64)

end Sys2Proof.Machine
end

