-- ==== Sys2Proof/Machine/Dispatch.lean ====
section
/-! DEFINITION. exec: one arm per constructor of Instr, each one direct call of its meaning. -/

namespace Sys2Proof.Machine

/-- The meaning of every instruction and event. -/
def exec (i : Instr) (s : State) : Host.Outcome State Fault Refusal :=
  match i with
  | .instructionDecode slot => Sys2Proof.Machine.execInstructionDecode slot s
  | .windowEnd slot => Sys2Proof.Machine.execWindowEnd slot s
  | .resultDelivery slot => Sys2Proof.Machine.execResultDelivery slot s
  | .waitTimerExpiry slot q => Sys2Proof.Machine.execWaitTimerExpiry slot q s
  | .wfeLimitExpiry slot => Sys2Proof.Machine.execWfeLimitExpiry slot s
  | .userInterruptEntry slot => Sys2Proof.Machine.execUserInterruptEntry slot s
  | .strandStop slot => Sys2Proof.Machine.execStrandStop slot s
  | .strandRetire slot => Sys2Proof.Machine.execStrandRetire slot s
  | .deadlineDiversion slot => Sys2Proof.Machine.execDeadlineDiversion slot s
  | .wrapupStart slot => Sys2Proof.Machine.execWrapupStart slot s
  | .budgetExhausted slot => Sys2Proof.Machine.execBudgetExhausted slot s
  | .add f => Sys2Proof.Machine.execAdd f s
  | .sub f => Sys2Proof.Machine.execSub f s
  | .mul f => Sys2Proof.Machine.execMul f s
  | .mulhu f => Sys2Proof.Machine.execMulhu f s
  | .mulhs f => Sys2Proof.Machine.execMulhs f s
  | .divu f => Sys2Proof.Machine.execDivu f s
  | .divs f => Sys2Proof.Machine.execDivs f s
  | .remu f => Sys2Proof.Machine.execRemu f s
  | .rems f => Sys2Proof.Machine.execRems f s
  | .and f => Sys2Proof.Machine.execAnd f s
  | .or f => Sys2Proof.Machine.execOr f s
  | .xor f => Sys2Proof.Machine.execXor f s
  | .andn f => Sys2Proof.Machine.execAndn f s
  | .shl f => Sys2Proof.Machine.execShl f s
  | .shrl f => Sys2Proof.Machine.execShrl f s
  | .shra f => Sys2Proof.Machine.execShra f s
  | .rotl f => Sys2Proof.Machine.execRotl f s
  | .clz f => Sys2Proof.Machine.execClz f s
  | .ctz f => Sys2Proof.Machine.execCtz f s
  | .popc f => Sys2Proof.Machine.execPopc f s
  | .bswap f => Sys2Proof.Machine.execBswap f s
  | .min f => Sys2Proof.Machine.execMin f s
  | .max f => Sys2Proof.Machine.execMax f s
  | .minu f => Sys2Proof.Machine.execMinu f s
  | .maxu f => Sys2Proof.Machine.execMaxu f s
  | .abs f => Sys2Proof.Machine.execAbs f s
  | .sext f => Sys2Proof.Machine.execSext f s
  | .zext f => Sys2Proof.Machine.execZext f s
  | .sel f => Sys2Proof.Machine.execSel f s
  | .mov f => Sys2Proof.Machine.execMov f s
  | .movK f => Sys2Proof.Machine.execMovK f s
  | .cmp f => Sys2Proof.Machine.execCmp f s
  | .lea f => Sys2Proof.Machine.execLea f s
  | .pand f => Sys2Proof.Machine.execPand f s
  | .por f => Sys2Proof.Machine.execPor f s
  | .pxor f => Sys2Proof.Machine.execPxor f s
  | .pnot f => Sys2Proof.Machine.execPnot f s
  | .sfadd f => Sys2Proof.Machine.execSfadd f s
  | .sfmul f => Sys2Proof.Machine.execSfmul f s
  | .sffma f => Sys2Proof.Machine.execSffma f s
  | .sfcvt f => Sys2Proof.Machine.execSfcvt f s
  | .sfcmp f => Sys2Proof.Machine.execSfcmp f s
  | .jmp f => Sys2Proof.Machine.execJmp f s
  | .br f => Sys2Proof.Machine.execBr f s
  | .jidx f => Sys2Proof.Machine.execJidx f s
  | .call f => Sys2Proof.Machine.execCall f s
  | .ret f => Sys2Proof.Machine.execRet f s
  | .loop f => Sys2Proof.Machine.execLoop f s
  | .nop f => Sys2Proof.Machine.execNop f s
  | .yield f => Sys2Proof.Machine.execYield f s
  | .halt f => Sys2Proof.Machine.execHalt f s
  | .csrr f => Sys2Proof.Machine.execCsrr f s
  | .csrw f => Sys2Proof.Machine.execCsrw f s
  | .trap f => Sys2Proof.Machine.execTrap f s
  | .syscall f => Sys2Proof.Machine.execSyscall f s
  | .eret f => Sys2Proof.Machine.execEret f s
  | .wfe f => Sys2Proof.Machine.execWfe f s
  | .tlbi f => Sys2Proof.Machine.execTlbi f s
  | .lds f => Sys2Proof.Machine.execLds f s
  | .sts f => Sys2Proof.Machine.execSts f s
  | .ldq f => Sys2Proof.Machine.execLdq f s
  | .stq f => Sys2Proof.Machine.execStq f s
  | .ldb f => Sys2Proof.Machine.execLdb f s
  | .lda f => Sys2Proof.Machine.execLda f s
  | .strel f => Sys2Proof.Machine.execStrel f s
  | .ldv f => Sys2Proof.Machine.execLdv f s
  | .stv f => Sys2Proof.Machine.execStv f s
  | .ldg f => Sys2Proof.Machine.execLdg f s
  | .stg f => Sys2Proof.Machine.execStg f s
  | .ldfe f => Sys2Proof.Machine.execLdfe f s
  | .stff f => Sys2Proof.Machine.execStff f s
  | .feq f => Sys2Proof.Machine.execFeq f s
  | .feset f => Sys2Proof.Machine.execFeset f s
  | .mark f => Sys2Proof.Machine.execMark f s
  | .fence f => Sys2Proof.Machine.execFence f s
  | .fenceMem f => Sys2Proof.Machine.execFenceMem f s
  | .pubx f => Sys2Proof.Machine.execPubx f s
  | .radv f => Sys2Proof.Machine.execRadv f s
  | .aadd f => Sys2Proof.Machine.execAadd f s
  | .amin f => Sys2Proof.Machine.execAmin f s
  | .amax f => Sys2Proof.Machine.execAmax f s
  | .aminu f => Sys2Proof.Machine.execAminu f s
  | .amaxu f => Sys2Proof.Machine.execAmaxu f s
  | .aand f => Sys2Proof.Machine.execAand f s
  | .aor f => Sys2Proof.Machine.execAor f s
  | .axor f => Sys2Proof.Machine.execAxor f s
  | .axchg f => Sys2Proof.Machine.execAxchg f s
  | .acas f => Sys2Proof.Machine.execAcas f s
  | .afadd f => Sys2Proof.Machine.execAfadd f s
  | .aincw f => Sys2Proof.Machine.execAincw f s
  | .redadd f => Sys2Proof.Machine.execRedadd f s
  | .redmin f => Sys2Proof.Machine.execRedmin f s
  | .redmax f => Sys2Proof.Machine.execRedmax f s
  | .redfadd f => Sys2Proof.Machine.execRedfadd f s
  | .semwait f => Sys2Proof.Machine.execSemwait f s
  | .sempost f => Sys2Proof.Machine.execSempost f s
  | .sracq f => Sys2Proof.Machine.execSracq f s
  | .srpub f => Sys2Proof.Machine.execSrpub f s
  | .srtake f => Sys2Proof.Machine.execSrtake f s
  | .srrel f => Sys2Proof.Machine.execSrrel f s
  | .barinit f => Sys2Proof.Machine.execBarinit f s
  | .bararr f => Sys2Proof.Machine.execBararr f s
  | .barexp f => Sys2Proof.Machine.execBarexp f s
  | .barwait f => Sys2Proof.Machine.execBarwait f s
  | .bartest f => Sys2Proof.Machine.execBartest f s
  | .qfence f => Sys2Proof.Machine.execQfence f s
  | .qput f => Sys2Proof.Machine.execQput f s
  | .qputNb f => Sys2Proof.Machine.execQputNb f s
  | .poisonclr f => Sys2Proof.Machine.execPoisonclr f s
  | .vshp f => Sys2Proof.Machine.execVshp f s
  | .vadd f => Sys2Proof.Machine.execVadd f s
  | .vsub f => Sys2Proof.Machine.execVsub f s
  | .vmul f => Sys2Proof.Machine.execVmul f s
  | .vfma f => Sys2Proof.Machine.execVfma f s
  | .vfms f => Sys2Proof.Machine.execVfms f s
  | .vnfma f => Sys2Proof.Machine.execVnfma f s
  | .vdiv f => Sys2Proof.Machine.execVdiv f s
  | .vsqrt f => Sys2Proof.Machine.execVsqrt f s
  | .vmin f => Sys2Proof.Machine.execVmin f s
  | .vmax f => Sys2Proof.Machine.execVmax f s
  | .vabs f => Sys2Proof.Machine.execVabs f s
  | .vneg f => Sys2Proof.Machine.execVneg f s
  | .vcmp f => Sys2Proof.Machine.execVcmp f s
  | .vsel f => Sys2Proof.Machine.execVsel f s
  | .vand f => Sys2Proof.Machine.execVand f s
  | .vor f => Sys2Proof.Machine.execVor f s
  | .vxor f => Sys2Proof.Machine.execVxor f s
  | .vnot f => Sys2Proof.Machine.execVnot f s
  | .vshl f => Sys2Proof.Machine.execVshl f s
  | .vshr f => Sys2Proof.Machine.execVshr f s
  | .vshra f => Sys2Proof.Machine.execVshra f s
  | .vclamp f => Sys2Proof.Machine.execVclamp f s
  | .vcvt f => Sys2Proof.Machine.execVcvt f s
  | .vqnt f => Sys2Proof.Machine.execVqnt f s
  | .vdqnt f => Sys2Proof.Machine.execVdqnt f s
  | .vpack6 f => Sys2Proof.Machine.execVpack6 f s
  | .vunpk6 f => Sys2Proof.Machine.execVunpk6 f s
  | .vpack4 f => Sys2Proof.Machine.execVpack4 f s
  | .vunpk4 f => Sys2Proof.Machine.execVunpk4 f s
  | .vscale f => Sys2Proof.Machine.execVscale f s
  | .vredr f => Sys2Proof.Machine.execVredr f s
  | .vredc f => Sys2Proof.Machine.execVredc f s
  | .vmaxr f => Sys2Proof.Machine.execVmaxr f s
  | .vscan f => Sys2Proof.Machine.execVscan f s
  | .vexp f => Sys2Proof.Machine.execVexp f s
  | .vexp2 f => Sys2Proof.Machine.execVexp2 f s
  | .vlog2 f => Sys2Proof.Machine.execVlog2 f s
  | .vrcp f => Sys2Proof.Machine.execVrcp f s
  | .vrsq f => Sys2Proof.Machine.execVrsq f s
  | .vtanh f => Sys2Proof.Machine.execVtanh f s
  | .vsigm f => Sys2Proof.Machine.execVsigm f s
  | .vsin f => Sys2Proof.Machine.execVsin f s
  | .vcos f => Sys2Proof.Machine.execVcos f s
  | .vtrn f => Sys2Proof.Machine.execVtrn f s
  | .vshuf f => Sys2Proof.Machine.execVshuf f s
  | .vbcr f => Sys2Proof.Machine.execVbcr f s
  | .vbcc f => Sys2Proof.Machine.execVbcc f s
  | .vmov f => Sys2Proof.Machine.execVmov f s
  | .viota f => Sys2Proof.Machine.execViota f s
  | .vcmul f => Sys2Proof.Machine.execVcmul f s
  | .vcfma f => Sys2Proof.Machine.execVcfma f s
  | .vconj f => Sys2Proof.Machine.execVconj f s
  | .vmag2 f => Sys2Proof.Machine.execVmag2 f s
  | .mlev f => Sys2Proof.Machine.execMlev f s
  | .mbase f => Sys2Proof.Machine.execMbase f s
  | .mmode f => Sys2Proof.Machine.execMmode f s
  | .mpre f => Sys2Proof.Machine.execMpre f s
  | .mswap f => Sys2Proof.Machine.execMswap f s
  | .mgo f => Sys2Proof.Machine.execMgo f s
  | .mwait f => Sys2Proof.Machine.execMwait f s
  | .mstat f => Sys2Proof.Machine.execMstat f s
  | .mdrain f => Sys2Proof.Machine.execMdrain f s
  | .mzero f => Sys2Proof.Machine.execMzero f s
  | .maccl f => Sys2Proof.Machine.execMaccl f s
  | .mspmeta f => Sys2Proof.Machine.execMspmeta f s
  | .mscale f => Sys2Proof.Machine.execMscale f s
  | .mtestNow f => Sys2Proof.Machine.execMtestNow f s
  | .mtestIvl f => Sys2Proof.Machine.execMtestIvl f s
  | .mfuse f => Sys2Proof.Machine.execMfuse f s
  | .matrixOpStart core => Sys2Proof.Machine.execMatrixOpStart core s
  | .mpreEarlyStart core => Sys2Proof.Machine.execMpreEarlyStart core s
  | .nestStart core => Sys2Proof.Machine.execNestStart core s
  | .nestPass core => Sys2Proof.Machine.execNestPass core s
  | .matrixOpComplete core => Sys2Proof.Machine.execMatrixOpComplete core s
  | .cpy f => Sys2Proof.Machine.execCpy f s
  | .cpys f => Sys2Proof.Machine.execCpys f s
  | .layout f => Sys2Proof.Machine.execLayout f s
  | .cpyq f => Sys2Proof.Machine.execCpyq f s
  | .copyCommandStart core => Sys2Proof.Machine.execCopyCommandStart core s
  | .copySector core => Sys2Proof.Machine.execCopySector core s
  | .copyCommandComplete core => Sys2Proof.Machine.execCopyCommandComplete core s
  | .bgmac f => Sys2Proof.Machine.execBgmac f s
  | .bgcpy f => Sys2Proof.Machine.execBgcpy f s
  | .bgattn f => Sys2Proof.Machine.execBgattn f s
  | .kvput f => Sys2Proof.Machine.execKvput f s
  | .kvtake f => Sys2Proof.Machine.execKvtake f s
  | .memoryCommandStart quad => Sys2Proof.Machine.execMemoryCommandStart quad s
  | .memoryPart quad die => Sys2Proof.Machine.execMemoryPart quad die s
  | .memoryCommandComplete quad => Sys2Proof.Machine.execMemoryCommandComplete quad s
  | .xpwrPoisonWrite unit => Sys2Proof.Machine.execXpwrPoisonWrite unit s
  | .bgfence f => Sys2Proof.Machine.execBgfence f s
  | .bgbarHold f => Sys2Proof.Machine.execBgbarHold f s
  | .bgbarRel f => Sys2Proof.Machine.execBgbarRel f s
  | .bgstat f => Sys2Proof.Machine.execBgstat f s
  | .areduce f => Sys2Proof.Machine.execAreduce f s
  | .areduceComplete core => Sys2Proof.Machine.execAreduceComplete core s
  | .step f => Sys2Proof.Machine.execStep f s
  | .dlget f => Sys2Proof.Machine.execDlget f s
  | .wuset f => Sys2Proof.Machine.execWuset f s
  | .commit f => Sys2Proof.Machine.execCommit f s
  | .pval f => Sys2Proof.Machine.execPval f s
  | .dlarm f => Sys2Proof.Machine.execDlarm f s
  | .uien f => Sys2Proof.Machine.execUien f s
  | .uimask f => Sys2Proof.Machine.execUimask f s
  | .uiret f => Sys2Proof.Machine.execUiret f s
  | .launch thread => Sys2Proof.Machine.execLaunch thread s
  | .nopPacket thread => Sys2Proof.Machine.execNopPacket thread s
  | .waitPacket thread => Sys2Proof.Machine.execWaitPacket thread s
  | .queueWaitTimeout thread => Sys2Proof.Machine.execQueueWaitTimeout thread s
  | .signalPacket thread => Sys2Proof.Machine.execSignalPacket thread s
  | .register thread => Sys2Proof.Machine.execRegister thread s
  | .unregister thread => Sys2Proof.Machine.execUnregister thread s
  | .mapq thread => Sys2Proof.Machine.execMapq thread s
  | .unmapq thread => Sys2Proof.Machine.execUnmapq thread s
  | .revoke thread => Sys2Proof.Machine.execRevoke thread s
  | .kill thread => Sys2Proof.Machine.execKill thread s
  | .policyDispatch => Sys2Proof.Machine.execPolicyDispatch s
  | .bundleStart bndl => Sys2Proof.Machine.execBundleStart bndl s
  | .preemptSaveComplete bndl => Sys2Proof.Machine.execPreemptSaveComplete bndl s
  | .bundleComplete bndl => Sys2Proof.Machine.execBundleComplete bndl s
  | .resetNRelease => Sys2Proof.Machine.execResetNRelease s
  | .acknowledgement slot => Sys2Proof.Machine.execAcknowledgement slot s
  | .frespResolve seq => Sys2Proof.Machine.execFrespResolve seq s
  | .frespDeliver seq => Sys2Proof.Machine.execFrespDeliver seq s
  | .selfTest core failing => Sys2Proof.Machine.execSelfTest core failing s
  | .refresh die bank => Sys2Proof.Machine.execRefresh die bank s
  | .scrub unit => Sys2Proof.Machine.execScrub unit s
  | .radvMessage core region => Sys2Proof.Machine.execRadvMessage core region s
  | .pushMarker core region round => Sys2Proof.Machine.execPushMarker core region round s
  | .deadAgent held line => Sys2Proof.Machine.execDeadAgent held line s
  | .cxlMemRead addr len => Sys2Proof.Machine.execCxlMemRead addr len s
  | .cxlMemWrite addr data => Sys2Proof.Machine.execCxlMemWrite addr data s
  | .snpdata line => Sys2Proof.Machine.execSnpdata line s
  | .snpinv line => Sys2Proof.Machine.execSnpinv line s
  | .snpcur line => Sys2Proof.Machine.execSnpcur line s
  | .bisnpinv line => Sys2Proof.Machine.execBisnpinv line s
  | .bisnpdata line => Sys2Proof.Machine.execBisnpdata line s
  | .notifyWrite pasid qnum => Sys2Proof.Machine.execNotifyWrite pasid qnum s
  | .bindGroupCommit bndl => Sys2Proof.Machine.execBindGroupCommit bndl s
  | .preemptRequest bndl => Sys2Proof.Machine.execPreemptRequest bndl s
  | .resume bndl => Sys2Proof.Machine.execResume bndl s
  | .flitReceive port flit => Sys2Proof.Machine.execFlitReceive port flit s
  | .flitNak port flit => Sys2Proof.Machine.execFlitNak port flit s
  | .laneInterval port lane count => Sys2Proof.Machine.execLaneInterval port lane count s
  | .laneSpare port lane => Sys2Proof.Machine.execLaneSpare port lane s
  | .halfWidthRetrain port => Sys2Proof.Machine.execHalfWidthRetrain port s
  | .portDown port => Sys2Proof.Machine.execPortDown port s
  | .lkctlForce port value => Sys2Proof.Machine.execLkctlForce port value s
  | .lgctlWrite value => Sys2Proof.Machine.execLgctlWrite value s
  | .timeSend => Sys2Proof.Machine.execTimeSend s
  | .timeReceive port masterNs => Sys2Proof.Machine.execTimeReceive port masterNs s
  | .linkDelayExchange port roundTripNs => Sys2Proof.Machine.execLinkDelayExchange port roundTripNs s
  | .timeSourceLoss => Sys2Proof.Machine.execTimeSourceLoss s
  | .ptpMessage masterNs => Sys2Proof.Machine.execPtpMessage masterNs s
  | .ppsInEdge => Sys2Proof.Machine.execPpsInEdge s
  | .ppsOut => Sys2Proof.Machine.execPpsOut s
  | .abortOriginate mask => Sys2Proof.Machine.execAbortOriginate mask s
  | .abortPass1 came orig acc => Sys2Proof.Machine.execAbortPass1 came orig acc s
  | .abortPass2 came orig agreed => Sys2Proof.Machine.execAbortPass2 came orig agreed s
  | .lgabtClear => Sys2Proof.Machine.execLgabtClear s
  | .lockstepMismatch pair => Sys2Proof.Machine.execLockstepMismatch pair s
  | .heartbeat => Sys2Proof.Machine.execHeartbeat s
  | .takeover => Sys2Proof.Machine.execTakeover s
  | .fuseAdvance => Sys2Proof.Machine.execFuseAdvance s
  | .recoveryImage image => Sys2Proof.Machine.execRecoveryImage image s
  | .powerOff => Sys2Proof.Machine.execPowerOff s
  | .throttleEntry => Sys2Proof.Machine.execThrottleEntry s
  | .throttleExit => Sys2Proof.Machine.execThrottleExit s
  | .thermalTrip => Sys2Proof.Machine.execThermalTrip s
  | .pwrctlWrite value => Sys2Proof.Machine.execPwrctlWrite value s
  | .vcoreSlewDone => Sys2Proof.Machine.execVcoreSlewDone s
  | .clockRestart => Sys2Proof.Machine.execClockRestart s
  | .registerWrite reg value => Sys2Proof.Machine.execRegisterWrite reg value s
  | .ptpSourceLoss => Sys2Proof.Machine.execPtpSourceLoss s
  | .lossOfLock port lane => Sys2Proof.Machine.execLossOfLock port lane s
  | .portTrained port => Sys2Proof.Machine.execPortTrained port s
  | .areduceAbort core => Sys2Proof.Machine.execAreduceAbort core s
  | .ellRelay core => Sys2Proof.Machine.execEllRelay core s
  | .ellConvert core => Sys2Proof.Machine.execEllConvert core s
  | .ellExpand core => Sys2Proof.Machine.execEllExpand core s
  | .unsettle => Sys2Proof.Machine.execUnsettle s
  | .fliph => Sys2Proof.Machine.execFliph s
  | .flipd => Sys2Proof.Machine.execFlipd s
  | .move => Sys2Proof.Machine.execMove s
  | .moveComplete => Sys2Proof.Machine.execMoveComplete s
  | .l2WriteBack line => Sys2Proof.Machine.execL2WriteBack line s

end Sys2Proof.Machine
end

