-- ==== Sys2Proof/Machine/Schedule.lean ====
section
/-! DEFINITION. What acts next (R247, log 10, DESIGN CHOICE): which strand a core's front decodes for, and which actions may happen now. -/

namespace Sys2Proof.Machine

/-- The strands of a core that its front may serve (R247). -/
def State.decodable (s : State) (core : Nat) : List Nat :=
  ((List.range 4).map (fun k => 4 * core + k)).filter (fun n => s.decodeReady n && s.linePresent n && !(s.frontStalled n))
/-- Of some strands the one of least slack; a tie goes to the first after the one that decoded last (R247, steps 2 and 3; R165, R311). -/
def State.leastSlack (s : State) (core : Nat) (ready : List Nat) : Option Nat :=
  let last := (s.core core).lastDec
  let order := ((List.range 4).map (fun k => 4 * core + (last + 1 + k) % 4)).filter (fun n => ready.contains n)
  order.foldl (fun best n => match best with
    | none => some n
    | some b => if (s.slack n).toInt < (s.slack b).toInt then some n else some b) none

/-- R247: the strand in slot `cycle mod 4` where it is ready, else the one of least slack. -/
def State.frontPick (s : State) (core : Nat) : Option Nat :=
  let ready := s.decodable core
  let t := 4 * core + s.cycle % 4
  if ready.contains t then some t else s.leastSlack core ready

/-- Cores that hold a strand, in order. -/
def State.busyCores (s : State) : List Nat := (s.strands.map (fun x => coreOf x.1)).eraseDups
/-- The front that decodes next in this cycle. -/
def State.nextFront (s : State) : Option Nat := s.busyCores.findSome? (fun c => s.frontPick c)

/-! ### The phases of a cycle (R87, R247, R256; log 10, DESIGN CHOICE)

A cycle takes the issues from L and S, those on local memory by ascending slot; then what the engines do; then the issues from C, whose
results nothing of this cycle reads; then the decodes, one for each core with a ready strand. `turn` is the slot or the phase reached. -/

def enginePhase : Nat := 256
def vectorPhase : Nat := 257
def frontPhase : Nat := 258

/-- Where the issue stage of a queue takes its head. -/
structure IssueOf where
  slot : Nat
  queue : Queue
  instr : Instr
  /-- an operation on local memory (R256) -/
  onLm : Bool := false
  deriving DecidableEq, Repr

/-- An operation on local memory: an LM-record instruction, or a tile access through a handle of SPACE LM. -/
def onLocal (e : QEntry) : Bool := match e.instr with
  | .ldfe _ | .feq _ => true
  | .ldv f | .stv f | .ldg f | .stg f => hSpace (e.entry f.a) == 0
  | i => lmRemote i
/-- The head of a queue, where it may issue (R83, R145, R146, R259). -/
def State.readyHead (s : State) (slot : Nat) (q : Queue) : Option (QEntry × IssueOf) :=
  let t := s.strand slot
  match t.queue q with
  | [] => none
  | e :: _ => match ispec e.instr, instrFields e.instr with
    | some sp, some f =>
      if headReady s.lgEn t s.cycle q e.instr f.tk sp.route e && !(sp.route == .ls && q == .S) then
        some (e, { slot := slot, queue := q, instr := e.instr, onLm := onLocal e })
      else none
    | _, _ => none
/-- The heads of a strand that may issue now; one that has waited in this cycle tries again in the next. -/
def State.issuable (s : State) (slot : Nat) : List IssueOf :=
  ([Queue.L, Queue.C, Queue.S].filterMap (s.readyHead slot)).filterMap (fun x => if x.1.tried = some s.cycle then none else some x.2)
/-- Of a core's heads that want one shared unit, those of the strand that R247's steps 2 and 3 put first. -/
def State.firstInLine (s : State) (core : Nat) (l : List IssueOf) : List IssueOf :=
  match s.leastSlack core (l.map (·.slot)) with
  | some n => l.filter (fun x => x.slot == n)
  | none => []
/-- The issues that a core may make next in this cycle (R165, R247, R256). -/
def State.offers (s : State) (core : Nat) : List IssueOf :=
  let l := ((List.range 4).map (fun k => 4 * core + k)).flatMap s.issuable
  (if s.turn < enginePhase then
    l.filter (fun x => x.queue != .C && x.onLm && decide (s.turn ≤ x.slot)) ++ s.firstInLine core (l.filter (fun x => x.queue != .C && !x.onLm))
   else []) ++
  (if s.turn ≤ vectorPhase then s.firstInLine core (l.filter (fun x => x.queue == .C)) else [])
/-- The heads whose wait timer runs out in this cycle: they are tried once more at its end (R141); one that keeps its place at a bank that
another operation has taken is tried in the next (R256). -/
def State.expiring (s : State) : List IssueOf :=
  s.strands.flatMap (fun y => ([Queue.L, Queue.C, Queue.S].filterMap (s.readyHead y.1)).filterMap (fun x => match x.1.waiting with
    | some w => if w + y.2.limit ≤ s.cycle && !(x.1.claim.isSome && x.1.tried == some s.cycle) then some x.2 else none
    | none => none))

/-- Events that take place as soon as they are due: ends of windows, deadlines, timers (R87, R312, R315, R133, R244). -/
def dueEvents (slot : Nat) : List Instr :=
  [.windowEnd slot, .deadlineDiversion slot, .budgetExhausted slot, .wfeLimitExpiry slot, .userInterruptEntry slot]
/-- Events that take place at some moment after they become possible. -/
def laterEvents (slot : Nat) : List Instr :=
  [.resultDelivery slot, .acknowledgement slot, .strandStop slot, .strandRetire slot, .wrapupStart slot]
/-- The events of a core's engines. -/
def coreEvents (core : Nat) : List Instr :=
  [.matrixOpStart core, .mpreEarlyStart core, .nestStart core, .nestPass core, .matrixOpComplete core, .copyCommandStart core,
   .copySector core, .copyCommandComplete core, .areduceComplete core]
/-- The events of a quadrant's memory port. -/
def quadEvents (q : Nat) : List Instr :=
  [.memoryCommandStart q, .memoryCommandComplete q] ++ (List.range 64).map (fun d => .memoryPart q d)
/-- An event of an engine that the compute clock drives. -/
def isEngineEvent : Instr → Bool
  | .matrixOpStart _ | .mpreEarlyStart _ | .nestStart _ | .nestPass _ | .matrixOpComplete _ | .copyCommandStart _ | .copySector _
  | .copyCommandComplete _ | .areduceComplete _ | .memoryCommandStart _ | .memoryCommandComplete _ | .memoryPart _ _ => true
  | _ => false
/-- Marks that the sequencers owe (R304). -/
def markEvents (s : State) : List Instr := s.xpwrDue.map (fun u => .xpwrPoisonWrite u)
/-- Events of cores, strands, caches, sequencers and engines, which take place while the compute clock runs (R23, R400, R403). -/
def clockDriven (i : Instr) : Bool := isEngineEvent i || match i with
  | .instructionDecode _ | .windowEnd _ | .deadlineDiversion _ | .budgetExhausted _ | .wfeLimitExpiry _ | .waitTimerExpiry _ _ | .userInterruptEntry _
  | .resultDelivery _ | .acknowledgement _ | .strandStop _ | .strandRetire _ | .wrapupStart _ | .selfTest _ _ | .areduceAbort _ | .ellRelay _
  | .ellConvert _ | .ellExpand _ | .xpwrPoisonWrite _ | .scrub _ | .radvMessage _ _ | .pushMarker _ _ _ | .preemptSaveComplete _ | .l2WriteBack _ => true
  | _ => false
/-- The events of the command processor and the other engines of the device. -/
def deviceEvents (s : State) : List Instr :=
  s.bundles.flatMap (fun b => [.bundleStart b.id, .bundleComplete b.id]) ++
  s.threads.flatMap (fun t => [.launch t.1, .nopPacket t.1, .waitPacket t.1, .queueWaitTimeout t.1, .signalPacket t.1, .register t.1,
    .unregister t.1, .mapq t.1, .unmapq t.1, .revoke t.1, .kill t.1]) ++
  [.policyDispatch]

/-- The compute clock in MHz at an operating point (R401). -/
def clockMHz (opt : Nat) : Nat := match opt with
  | 0 => 1200 | 1 => 1400 | 2 => 1550 | 3 => 1700 | _ => 1850
/-- The slew of a cycle: at most 200 ppm, one nanosecond in every 5,000 of device time, toward the target (R306). -/
def slewStep (x : Int) (due : Bool) : Int := if !due then 0 else if x > 0 then 1 else if x < 0 then -1 else 0
/-- One compute cycle passes: device time advances by the clock's period (R23, R306); a stopped clock leaves cycles still (R402)
while device time goes on. Where a change of point asks for it the clock stops here (R403). -/
def State.tick (s : State) : State :=
  if s.power = .off then s
  else
    let f := clockMHz s.opt.toNat
    let n := s.timeFrac + 1000
    let k := n / f
    let raw := s.slew.raw + k
    let drift := s.slew.drift + k * s.slew.rate
    let phase := s.slew.phase + drift / 1000000000
    let d := slewStep phase (s.slew.raw / 5000 != raw / 5000)
    { s with
      cycle := if s.clockStopped then s.cycle else s.cycle + 1, clockStopped := s.clockStopped || s.stopDue, turn := 0, timeFrac := n % f, time := (s.time + k + d).toNat
      slew := { s.slew with phase := phase - d, drift := drift % 1000000000, raw := raw } }

/-- Actions of the units around the strands, each by the event that it is; the end of what a front has begun; the retry of a host request that
waits. -/
inductive UnitAction where
  | frontEnds (slot : Nat)
  | selfTest (core : Nat)
  | areduceAbort (core : Nat)
  | ellRelay (core : Nat)
  | ellConvert (core : Nat)
  | ellExpand (core : Nat)
  | scrub (unit : Nat)
  | l2WriteBack (line : Nat)
  | unsettle
  | fliph
  | flipd
  | move
  | moveComplete
  | timeSend
  | timeSourceLoss
  | laneSpare (port : Port) (lane : Nat)
  | halfWidthRetrain (port : Port)
  | portDown (port : Port)
  | abortOriginate (mask : BitVec 8)
  | fuseAdvance
  | vcoreSlewDone
  | clockRestart
  | throttleExit
  | heartbeat
  | takeover
  | ppsOut
  | hostRetry
  | resultRetry (slot : Nat)
  | delayAsk (port : Port)
  | policyWrite
  | sense
  | choosePoint
  | throttleEntry
  | thermalTrip
  | upset
  deriving DecidableEq, Repr

/-- Stored bits flip somewhere: in a die, an L1, the L2, its directory or local memory, with a corrected or an uncorrectable error; an input of the
device, any place at any moment (R254, R304, R387). -/
def State.upset (s : State) : State :=
  let u := (Config.freeWord (s.fv + 608)).toNat
  let e := s.arr
  match (Config.freeWord (s.fv + 607)).toNat % 8 with
  | 0 => { s with devCe := setAdd s.devCe (u % 2 ^ 32) }
  | 1 => { s with devUe := setAdd s.devUe (u % 2 ^ 32) }
  | 2 => { s with arr := { e with l1Bad := (u % 64, u / 64) :: e.l1Bad } }
  | 3 => { s with arr := { e with l2Ue := setAdd e.l2Ue u } }
  | 4 => { s with arr := { e with l2Ce := setAdd e.l2Ce u } }
  | 5 => { s with arr := { e with dirBad := setAdd e.dirBad u } }
  | 6 => s.modCore (u % 64) (fun c => { c with lmFresh := setAdd c.lmFresh (u / 64 % 2 ^ 19) })
  | _ => s.modCore (u % 64) (fun c => { c with lmCe := setAdd c.lmCe (u / 64 % 2 ^ 19) })
/-- The slot that an expert policy writes. -/
def State.policySlot (s : State) : Nat := (Config.freeWord (s.fv + 609)).toNat % 256
/-- What such an action does: the meaning of its event; a self-test that no sub-array fails. -/
def UnitAction.run (u : UnitAction) (s : State) : Out := match u with
  | .frontEnds n => whenSome s (frontEnds? n s)
  | .selfTest c => execSelfTest c 0 s
  | .areduceAbort c => execAreduceAbort c s
  | .ellRelay c => execEllRelay c s
  | .ellConvert c => execEllConvert c s
  | .ellExpand c => execEllExpand c s
  | .scrub n => execScrub n s
  | .l2WriteBack n => execL2WriteBack n s
  | .unsettle => execUnsettle s
  | .fliph => execFliph s
  | .flipd => execFlipd s
  | .move => execMove s
  | .moveComplete => execMoveComplete s
  | .timeSend => execTimeSend s
  | .timeSourceLoss => execTimeSourceLoss s
  | .laneSpare p l => execLaneSpare p l s
  | .halfWidthRetrain p => execHalfWidthRetrain p s
  | .portDown p => execPortDown p s
  | .abortOriginate m => execAbortOriginate m s
  | .fuseAdvance => execFuseAdvance s
  | .vcoreSlewDone => execVcoreSlewDone s
  | .clockRestart => execClockRestart s
  | .throttleExit => execThrottleExit s
  | .heartbeat => execHeartbeat s
  | .takeover => execTakeover s
  | .ppsOut => execPpsOut s
  | .hostRetry => whenSome s (hostRetry? s)
  | .resultRetry n => whenSome s (resultRetry? n s)
  | .delayAsk p => whenSome s (delayAsk? p s)
  | .policyWrite => whenSome s (policyWrite? s.policySlot s)
  | .sense => .next s.sense
  | .choosePoint => whenSome s (choosePoint? s)
  | .throttleEntry => execThrottleEntry s
  | .thermalTrip => execThermalTrip s
  | .upset => .next s.upset

/-- The conditions of such an action hold. -/
def UnitAction.enabled (u : UnitAction) (s : State) : Bool := match u with
  | .frontEnds n => (frontEnds? n s).isSome
  | .selfTest c => (selfTest? c 0 s).isSome
  | .areduceAbort c => (areduceAbort? c s).isSome
  | .ellRelay c => (ellStep 0 c s).isSome
  | .ellConvert c => (ellStep 1 c s).isSome
  | .ellExpand c => (ellExpand? c s).isSome
  | .scrub n => s.scrubDue.contains n
  | .l2WriteBack _ => true
  | .unsettle => (unsettle? s).isSome
  | .fliph => (fliph? s).isSome
  | .flipd => (flipd? s).isSome
  | .move => (move? s).isSome
  | .moveComplete => (moveComplete? s).isSome
  | .timeSend => (timeSend? s).isSome
  | .timeSourceLoss => (timeSourceLoss? s).isSome
  | .laneSpare p l => (s.ifUp p (laneSpare? p l s)).isSome
  | .halfWidthRetrain p => (s.ifUp p (halfWidthRetrain? p s)).isSome
  | .portDown p => (s.ifUp p (portDown? p s)).isSome
  | .abortOriginate m => (abortOriginate? m s).isSome
  | .fuseAdvance => (fuseAdvance? s).isSome
  | .vcoreSlewDone => (vcoreSlewDone? s).isSome
  | .clockRestart => (clockRestart? s).isSome
  | .throttleExit => (throttleExit? s).isSome
  | .heartbeat => (heartbeat? s).isSome
  | .takeover => (takeover? s).isSome
  | .ppsOut => (ppsOut? s).isSome
  | .hostRetry => (hostRetry? s).isSome
  | .resultRetry n => (resultRetry? n s).isSome
  | .delayAsk p => (delayAsk? p s).isSome
  | .policyWrite => (policyWrite? s.policySlot s).isSome
  | .sense | .upset => true
  | .choosePoint => (choosePoint? s).isSome
  | .throttleEntry => (throttleEntry? s).isSome
  | .thermalTrip => (thermalTrip? s).isSome

/-- The conditions of an event of the lists above hold: one whose conditions do not hold does not happen (log 67, DESIGN CHOICE). -/
def enabled (s : State) (i : Instr) : Bool := match i with
  | .windowEnd n => (windowEnd? n s).isSome
  | .deadlineDiversion n => (deadlineDiversion? n s).isSome
  | .budgetExhausted n => (budgetExhausted? n s).isSome
  | .wfeLimitExpiry n => (wfeLimitExpiry? n s).isSome
  | .userInterruptEntry n => (userInterruptEntry? n s).isSome
  | .resultDelivery n => (resultDelivery? n s).isSome
  | .acknowledgement n => (acknowledgement? n s).isSome
  | .strandStop n => (strandStop? n s).isSome
  | .strandRetire n => (strandRetire? n s).isSome
  | .wrapupStart n => (wrapupStart? n s).isSome
  | .matrixOpStart c => (matrixOpStart? c s).isSome
  | .mpreEarlyStart c => (mpreEarlyStart? c s).isSome
  | .nestStart c => (nestStart? c s).isSome
  | .nestPass c => (nestPass? c s).isSome
  | .matrixOpComplete c => (matrixOpComplete? c s).isSome
  | .copyCommandStart c => (copyCommandStart? State.startLayout c s).isSome
  | .copySector c => (copySector? c s).isSome
  | .copyCommandComplete c => (copyCommandComplete? c s).isSome
  | .areduceComplete c => (areduceComplete? c s).isSome
  | .memoryCommandStart q => (memoryCommandStart? q s).isSome
  | .memoryPart q d => (memoryPart? q d s).isSome
  | .memoryCommandComplete q => (memoryCommandComplete? q s).isSome
  | .xpwrPoisonWrite u => s.xpwrDue.contains u
  | .bundleStart b => (bundleStart? b s).isSome
  | .preemptSaveComplete b => (preemptSaveComplete? b s).isSome
  | .bundleComplete b => (bundleComplete? b s).isSome
  | .launch n => (launch? n s).isSome
  | .nopPacket n => (nopPacket? n s).isSome
  | .waitPacket n => (waitPacket? n s).isSome
  | .queueWaitTimeout n => (queueWaitTimeout? n s).isSome
  | .signalPacket n => (signalPacket? n s).isSome
  | .register n => (register? n s).isSome
  | .unregister n => (unregister? n s).isSome
  | .mapq n => (mapq? n s).isSome
  | .unmapq n => (unmapq? n s).isSome
  | .revoke n => (revoke? n s).isSome
  | .kill n => (kill? n s).isSome
  | .policyDispatch => (policyDispatch? s).isSome
  | _ => false

/-- Power states are entered as soon as their conditions hold (R402). -/
def powerDue : List UnitAction := [.thermalTrip, .throttleEntry]
/-- What the management core and the sensors do, from the first boot step on (R399, R402, R403). -/
def powerUnits : List UnitAction := [.sense, .choosePoint, .vcoreSlewDone, .clockRestart, .throttleExit]
/-- Unit actions that take place as soon as they are due: those that device time sets (R397, R307, R381). -/
def dueUnits : List UnitAction := [.heartbeat, .takeover, .ppsOut, .timeSend, .timeSourceLoss, .delayAsk .east, .delayAsk .west]
/-- Unit actions that the compute clock drives: cores, Ell, sequencers, L2 (R23). -/
def clockedUnits (s : State) : List UnitAction :=
  s.strands.map (fun t => .frontEnds t.1) ++ s.cores.flatMap (fun c => [.selfTest c.1, .areduceAbort c.1, .ellRelay c.1, .ellConvert c.1, .ellExpand c.1]) ++
  s.scrubDue.map .scrub ++ s.l2.map (fun x => .l2WriteBack x.1) ++ s.hostL2.map (fun x => .l2WriteBack (unitKey .host x.1)) ++
  s.poolL2.map (fun x => .l2WriteBack (unitKey .pool x.1)) ++ s.strands.map (fun t => .resultRetry t.1)
/-- The other unit actions. -/
def freeUnits (s : State) : List UnitAction :=
  [.hostRetry, .unsettle, .fliph, .flipd, .move, .moveComplete, .fuseAdvance, .halfWidthRetrain .east, .halfWidthRetrain .west, .portDown .east,
   .portDown .west, .policyWrite, .upset] ++ powerUnits ++
  (List.range 18).flatMap (fun l => [.laneSpare .east l, .laneSpare .west l]) ++ s.abortDue.map (fun m => .abortOriginate (BitVec.ofNat 8 m))

/-- What happens in a step. -/
inductive Action where
  | event (i : Instr)
  | unit (u : UnitAction)
  | issue (x : IssueOf)
  /-- the last try of a waiting head whose timer runs out -/
  | lastTry (x : IssueOf)
  | tick
  deriving DecidableEq, Repr

/-- The free values that a step may use end where the next step's begin. -/
def freeStride : Nat := 4096

end Sys2Proof.Machine
end

