-- ==== Sys2Proof/Machine/Step.lean ====
section
/-! DEFINITION. One step: the next action (log 10, DESIGN CHOICE) and what it does; and how a word is placed to run next (log 7, DESIGN CHOICE). -/

namespace Sys2Proof.Machine

/-- The slots in use. -/
def State.slots (s : State) : List Nat := s.strands.map (·.1)

/-- The compute clock runs: no strand, core or sequencer acts while it is stopped (R403). -/
def State.clocked (s : State) : Bool := s.running && !s.clockStopped

/-- The first action that is due now: out of OFF the boot; in TRIP none (R402); in recovery what concerns power alone (R399). -/
def State.due (s : State) : Option Action :=
  if s.power = .off then some (.event .resetNRelease)
  else if !s.up then none
  else
    let l := ((powerDue ++ (if s.running then dueUnits else [])).filter (·.enabled s)).map Action.unit
    (l ++ (if s.clocked then ((s.slots.flatMap dueEvents).filter (enabled s)).map Action.event else [])).head?

/-- The events that the compute clock drives, besides a decode; the engines' while their phase lasts. -/
def State.clockedEvents (s : State) : List Instr :=
  s.slots.flatMap laterEvents ++ markEvents s ++ s.bundles.map (fun b => .preemptSaveComplete b.id) ++
  (if s.turn ≤ enginePhase then (s.cores.map (·.1)).flatMap coreEvents ++ (s.quads.map (·.1)).flatMap quadEvents else [])
/-- The actions that may happen now besides a decode. -/
def State.choices (s : State) : List Action :=
  if !s.up then []
  else if !s.running then (powerUnits.filter (·.enabled s)).map Action.unit
  else
    (((if s.clocked then s.clockedEvents else []) ++ deviceEvents s).filter (enabled s)).map Action.event ++
    (((if s.clocked && s.turn ≤ enginePhase then clockedUnits s else []) ++ freeUnits s).filter (·.enabled s)).map Action.unit ++
    (if s.clocked then (s.busyCores.flatMap s.offers).map Action.issue else [])

/-- The front's action, if a front has one left in this cycle. -/
def State.frontAction (s : State) : Option Action := if s.clocked then s.nextFront.map (fun n => .event (.instructionDecode n)) else none
/-- The end of the cycle, once every core with a ready strand has decoded (R247); before it, what waits for the last time (R141). -/
def State.cycleEnd (s : State) : Action := match (if s.clocked then s.expiring else []) with
  | x :: _ => .lastTry x
  | [] => .tick

/-- The next action: an input or chosen action of the agenda; then what is due; then any one of the actions that may happen, a front's
decode among them, and the end of the cycle once no front is left (a free choice, log 10, DESIGN CHOICE). -/
def State.nextAction (s : State) : Action :=
  match s.agenda with
  | i :: _ => .event i
  | [] => match s.due with
    | some x => x
    | none =>
      let last := s.frontAction.getD s.cycleEnd
      match s.choices with
      | [] => last
      | l => ((l ++ [last])[(Config.freeWord (s.fv + 3)).toNat % (l.length + 1)]?).getD last

/-- Consume the head of the agenda. -/
def State.dropAgenda (s : State) : State := { s with agenda := s.agenda.tail }

/-- The phase of the cycle that an action leads to. -/
def Action.phase (a : Action) (turn : Nat) : Nat := match a with
  | .event (.instructionDecode _) => frontPhase
  | .event i => if isEngineEvent i then max turn enginePhase else turn
  | .unit (.ellRelay _) | .unit (.ellConvert _) | .unit (.ellExpand _) => max turn enginePhase
  | .issue x => if x.queue == .C then max turn vectorPhase else if x.onLm then max turn x.slot else turn
  | .unit _ | .lastTry _ | .tick => turn
/-- The phase that the action has reached; the free values move on. -/
def State.after (s : State) (a : Action) : State := { s with fv := s.fv + freeStride, turn := a.phase s.turn }

/-- A decoded instruction runs within the step that decoded it. -/
def runLatched (s : State) : Out :=
  match s.latched with
  | none => .next s
  | some i => exec i { s with latched := none }

/-- Events that recovery does not shut out (R398, R399, R402). -/
def inRecovery : Instr → Bool
  | .recoveryImage _ | .powerOff | .throttleEntry | .throttleExit | .thermalTrip | .vcoreSlewDone | .clockRestart | .lockstepMismatch _ => true
  | _ => false
/-- Whether an event may happen in the power state: in OFF only the boot, in TRIP only POWER_OFF (R402); in recovery what does not need the steps
of the boot that are still to come (R399); while the clock stands still, what the compute clock does not drive (R403). -/
def State.allows (s : State) (i : Instr) : Bool := match s.power with
  | .off => match i with
    | .resetNRelease => true
    | _ => false
  | .trip => match i with
    | .powerOff => true
    | _ => false
  | _ => if s.fwState = 1 then !(s.clockStopped && clockDriven i) else inRecovery i

/-- One action. An instruction of the opcode map acts only through a decode or a queue: one in the agenda, and an event that the power state
shuts out, does not happen (log 67, DESIGN CHOICE). -/
def act (s : State) (a : Action) : Out :=
  match a with
  | .tick => .next s.tick
  | .unit u => u.run s
  | .issue x => exec x.instr { s with cur := x.slot, acting := .queue x.queue }
  | .lastTry x => match exec x.instr { s with cur := x.slot, acting := .queue x.queue } with
    | .next t => if ((t.strand x.slot).queue x.queue).head?.any (fun e => e.waiting.isSome && e.claim.isNone) then exec (.waitTimerExpiry x.slot x.queue) t else .next t
    | .fault r => .fault r
    | .refused r => .refused r
  | .event i =>
    if i.isWord || !s.allows i then .next s.dropAgenda
    else match exec i s.dropAgenda with
      | .next t => runLatched t
      | .fault r => .fault r
      | .refused r => .refused r

/-- One step of the machine. -/
def step (s : State) : Host.Outcome State Fault Refusal :=
  let a := s.nextAction
  match act s a with
  | .next t => .next (t.after a)
  | .fault r => .fault r
  | .refused r => .refused r

/-! ### A program in place (log 7, DESIGN CHOICE) -/

/-- Bytes at an interleaved offset, kept within one 256-byte chunk, put into the dies. -/
def State.placeIl (s : State) (off n v : Nat) : State := { s with dev := s.dev.write (ilToBl off) (leBytes n v) }

/-- A leaf of 1 GiB at frame 0 of DEV.IL: readable, writable, executable and code-published by its loader; an EXEC page may not be
writable (R348), so the code is mapped by its own leaf. -/
def codeLeaf : Nat := 1 + 2 + 4 + 16 + 32 + 9 * 2 ^ 8
def dataLeaf : Nat := 1 + 2 + 4 + 8 + 32 + 9 * 2 ^ 8

/-- What a loader puts in place before a program runs: the PASID table with one context, its tables, the code at 1 MiB and a data
page; and the line with the word in its first slot, the rest of the line zero. -/
def State.withImage (s : State) (w : Nat) : State :=
  let s1 := { s with ptbase := 0x1000000 }
  let s2 := s1.placeIl 0x1000010 16 (1 + 0x11000)
  let s3 := s2.placeIl 0x11000 8 (1 + 0x12000)
  let s4 := s3.placeIl 0x12000 8 (1 + 0x13000)
  let s5 := s4.placeIl 0x13000 8 codeLeaf
  let s6 := s5.placeIl 0x13008 8 dataLeaf
  s6.placeIl 0x100000 64 (0xC9000000 + w % 2 ^ 160 * 2 ^ 32)

/-- The position of the first slot of the code line. -/
def imagePos : Word := BitVec.ofNat 64 (3 * (0x100000 / 64))

/-- A strand as a launch binds it: in RUN, with the whole core claimed, the deadline NEVER. -/
def boundStrand : Strand :=
  { st := .run, pasid := 1, ngrp := 12, mown := true, genpages := 1, lmGroups := [0, 1, 2, 3], sys := true, dlns := 0xFFFFFFFFFFFF
    lnch := 1 }

/-- `s` with the word where `step` fetches its next instruction: the image is loaded, strand 0 runs at it (a strand that runs there
already keeps its registers and claims), and its decode is the next action. -/
def State.withFetchWord (s : State) (_nbits w : Nat) : State :=
  let t := if (s.strand 0).st = .run then s.strand 0 else boundStrand
  let s1 := (s.withImage w).setStrand 0 { t with
    pasid := 1, pc := imagePos, wrapFirst := false, stopping := none, diverting := none, preempting := false, halting := false, killing := false, wfe := none
    yieldUntil := 0, yieldTo := [], calling := none }
  { s1 with power := .on, fwState := 1, clockStopped := false, chg := none, agenda := [.instructionDecode 0], l2 := [], rows := [], ubits := [], tlb := []
            cores := (s1.cores.filter (fun c => c.1 != 0)) ++ [], lgEn := false, devPoison := [], devUe := [], devCe := [] }

end Sys2Proof.Machine
end

