-- ==== Sys2Proof/Safety.lean ====
section
/-! DEFINITION. The terms that claims use: when an instruction runs at the front or at the head of its queue, what is left of a state
when one thing changes, and the invariant of memory. -/

namespace Sys2Proof.Machine

/-! ### When an instruction runs -/

/-- The front of the acting strand takes `i` now: it is ready, and nothing stops the decode (R102, R81, R248, R100). -/
def frontTakes (i : Instr) (f : Fields) (s : State) : Bool :=
  s.acting == .front && frontReady s.cycle s.me && (match ispec i with
    | some sp => (decodeStop i sp f s).isNone
    | none => false)

/-- The strand has passed the instruction: the pc and the program order are one further. -/
def State.passed (s : State) : State := s.setMe s.me.advance

/-- A front instruction has ended with the register results `w` and the flags `fl`: their window opens (R87). -/
def frontEnds (f : Fields) (v : Vals) (s1 s2 : State) (w : List (Dst × Word)) (fl : Flags) : State :=
  if w.isEmpty && fl == 0 then s2 else s2.openWindow v.pos none 0 s1.me.seq (latBound f.lat.toNat) 0 w fl

/-- The front takes `i` in state `s`; reading its operands gives the values `v` and leaves `s1`. `fmt` is the format of immediates. -/
def FrontRuns (i : Instr) (f : Fields) (fmt : Option Fmt) (s s1 : State) (v : Vals) : Prop :=
  frontTakes i f s = true ∧ s.frontValues fmt f = .ok (s1, v)

/-- The head of queue `q` is `e`, it may issue as `i`, and its scalar operands are in range (R83, R102 step 10). -/
def headTakes (i : Instr) (f : Fields) (q : Queue) (sp : ISpec) (e : QEntry) (s : State) : Bool :=
  s.acting == .queue q && ispec i == some sp && (s.me.queue q).head? == some e && headReady s.lgEn s.me s.cycle q i f.tk sp.route e &&
  rangeFault i f e.shp s.ringNm1 isScalar e.a e.b e.c e.e == 0

/-! ### What an instruction may read and write -/

/-- No uncorrectable or corrected error waits in any memory, and the host holds no line of the device (R360): reads leave the state as it is but for
the caches. -/
def NoErrors (s : State) : Prop :=
  s.devUe = [] ∧ s.devCe = [] ∧ { s.arr with l2Poison := [], cxl := { s.arr.cxl with shared := [], exclusive := [], pool := [] } } = {} ∧ ∀ n, (s.core n).lmFresh = [] ∧ (s.core n).lmCe = []

/-- No write of the strand is on its way, and no load of it may still bind another value (R264, R266). -/
def NoneLate (t : Strand) : Prop := t.late = [] ∧ t.rebind = [] ∧ ∀ x ∈ t.flight, x.late = [] ∧ x.rebind = []
/-- The memory of the device, of the host and of the pool, with everything that says what a read of it gives. -/
def SameMemory (s t : State) : Prop :=
  (∀ sp a, t.physByte sp a = s.physByte sp a) ∧ t.devPoison = s.devPoison ∧ t.hostPoison = s.hostPoison ∧ t.poolPoison = s.poolPoison ∧
  t.arr.l2Poison = s.arr.l2Poison ∧ t.rows = s.rows
/-- The local memory of every core, with its full bits. -/
def SameLm (s t : State) : Prop := ∀ n, (t.core n).lm = (s.core n).lm ∧ (t.core n).full = (s.core n).full
/-- Every other strand of the machine. -/
def SameOthers (s t : State) : Prop := ∀ n, n ≠ s.cur → t.strand n = s.strand n

/-- The three memories are in canonical form (log 5, DESIGN CHOICE), and so are the tables of dirty lines above them and of the cores. -/
def MemOk (s : State) : Prop :=
  s.dev.wf = true ∧ s.host.wf = true ∧ s.pool.wf = true ∧ tabWf s.l2 = true ∧ tabWf s.hostL2 = true ∧ tabWf s.poolL2 = true ∧ tabWf s.cores = true

end Sys2Proof.Machine

/-! ## The terms of the statements -/

namespace Sys2Proof.Claims

open Sys2Proof.Machine

/-! ### Results of the integer instructions (R114, R116, R117) -/

/-- The two-operand integer instructions with the result that R116 and R117 give them, as functions of the width and the operands. -/
def intTwoOps : List ((Fields → Instr) × ((w : Nat) → BitVec w → BitVec w → BitVec w)) :=
  [(.add, fun _ a b => a + b), (.sub, fun _ a b => a - b), (.mul, fun _ a b => a * b)
  , (.mulhu, fun w a b => (a.setWidth (2 * w) * b.setWidth (2 * w)).extractLsb' w w)
  , (.mulhs, fun w a b => (a.signExtend (2 * w) * b.signExtend (2 * w)).extractLsb' w w)
  , (.divu, fun w a b => if b = 0 then BitVec.allOnes w else a / b)
  , (.divs, fun w a b => if b = 0 then BitVec.allOnes w else a.sdiv b)
  , (.remu, fun _ a b => if b = 0 then a else a % b)
  , (.rems, fun _ a b => if b = 0 then a else a.srem b)
  , (.and, fun _ a b => a &&& b), (.or, fun _ a b => a ||| b), (.xor, fun _ a b => a ^^^ b), (.andn, fun _ a b => a &&& ~~~b)
  , (.shl, fun w a b => a <<< (b.toNat % w)), (.shrl, fun w a b => a >>> (b.toNat % w)), (.shra, fun w a b => a.sshiftRight (b.toNat % w))
  , (.rotl, fun w a b => a.rotateLeft (b.toNat % w))
  , (.min, fun _ a b => if a.sle b then a else b), (.max, fun _ a b => if a.sle b then b else a)
  , (.minu, fun _ a b => if a ≤ b then a else b), (.maxu, fun _ a b => if a ≤ b then b else a)
  , (.sext, fun w a b => (a.setWidth (if b.toNat % w = 0 then w else b.toNat % w)).signExtend w)
  , (.zext, fun w a b => (a.setWidth (if b.toNat % w = 0 then w else b.toNat % w)).setWidth w)]

/-- Ext (R114): a W-bit result extended under the format. -/
def ext (F : Fmt) (r : BitVec F.width) : Word := if F.isSigned then r.signExtend 64 else r.setWidth 64

/-- The one-operand integer instructions (R116, R118). -/
def intOneOps : List ((Fields → Instr) × ((w : Nat) → BitVec w → BitVec w)) :=
  [(.clz, fun _ a => a.clz), (.ctz, fun _ a => a.ctz), (.popc, fun _ a => a.cpop), (.abs, fun _ a => a.abs), (.mov, fun _ a => a)]

/-- The conditions of R119 on the W-bit operands. -/
def condOf (sub w : Nat) (a b : BitVec w) : Bool :=
  match sub with
  | 0 => a == b | 1 => a != b | 2 => a.slt b | 3 => !(a.slt b) | 4 => a.sle b | 5 => !(a.sle b)
  | 6 => a.ult b | 7 => !(a.ult b) | 8 => a.ule b | 9 => !(a.ule b) | _ => false
/-- A truth value as the operand of a predicate. -/
def bit (b : Bool) : Word := if b then 1 else 0
/-! ### Queues and accesses -/

/-- The instructions that issue from a queue (R99, R100). -/
def queueInstrs : List (Fields → Instr) :=
  [.lds, .sts, .ldq, .stq, .ldb, .lda, .strel, .ldv, .stv, .ldg, .stg, .ldfe, .stff, .feq, .feset, .mark, .fence, .fenceMem, .pubx,
   .radv, .aadd, .amin, .amax, .aminu, .amaxu, .aand, .aor, .axor, .axchg, .acas, .afadd, .aincw, .redadd, .redmin, .redmax, .redfadd,
   .semwait, .sempost, .sracq, .srpub, .srtake, .srrel, .barinit, .bararr, .barexp, .barwait, .bartest, .qfence, .qput, .qputNb,
   .poisonclr, .vadd, .vsub, .vmul, .vfma, .vfms, .vnfma, .vdiv, .vsqrt, .vmin, .vmax, .vabs, .vneg, .vcmp, .vsel, .vand, .vor, .vxor,
   .vnot, .vshl, .vshr, .vshra, .vclamp, .vcvt, .vqnt, .vdqnt, .vpack6, .vunpk6, .vpack4, .vunpk4, .vscale, .vredr, .vredc, .vmaxr,
   .vscan, .vexp, .vexp2, .vlog2, .vrcp, .vrsq, .vtanh, .vsigm, .vsin, .vcos, .vtrn, .vshuf, .vbcr, .vbcc, .vmov, .viota, .vcmul,
   .vcfma, .vconj, .vmag2, .mlev, .mbase, .mmode, .mpre, .mswap, .mgo, .mwait, .mstat, .mdrain, .mzero, .maccl, .mspmeta, .mscale,
   .mtestNow, .mtestIvl, .mfuse, .cpy, .cpys, .layout, .cpyq, .bgmac, .bgcpy, .bgattn, .kvput, .kvtake, .bgfence, .bgbarHold,
   .bgbarRel, .bgstat, .areduce, .step, .commit, .pval]

/-- The acting strand with the entry in the queue of its route; both queues for L+S (R100). -/
def entered (t : Strand) (r : Route) (e : QEntry) : Strand :=
  match r with
  | .f => t
  | .l => t.enqueue .L e
  | .c => t.enqueue .C e
  | .s => t.enqueue .S e
  | .ls => (t.enqueue .L e).enqueue .S e
/-- Pending bits of a class-V instruction's destinations (R248). -/
def marked (t : Strand) (sp : ISpec) (e : QEntry) : Strand :=
  if sp.lat = .v then { t with pending := t.pending ++ e.dsts.filter pendable } else t

/-- The access of `n` bytes at `va` has a place; `s1` is the state with its translation kept (R137, R349). -/
def Places (s : State) (va : Word) (n align : Nat) (acc : Acc) (s1 : State) (ps : List Piece) : Prop :=
  s.vaPlace va n align acc = .ok ps ∧ s.tlbFill s.myCore s.me.pasid va = s1
/-- The access reads the bytes `bs` under its policy (R90), no poison among them, and leaves `s1`; earlier loads of its bytes have bound their values (R266). -/
def Reads (f : Fields) (s : State) (va : Word) (n align : Nat) (acc : Acc) (s1 : State) (ps : List Piece) (bs : List Byte) : Prop :=
  ∃ s0 ps0, Places s va n align acc s0 ps0 ∧ s0.cached (policyOf f.hint 0) ps0 = ps ∧ ((s0.bindFor ps).readPieces s.myCore ps).poison = none ∧
    ((s0.bindFor ps).readPieces s.myCore ps).bytes = bs ∧ ((s0.bindFor ps).readPieces s.myCore ps).s = s1
/-- Where LDB looks for its region: earlier loads of its bytes have bound their values, and the table has been taken up (R266, R273). -/
def ldbState (s0 : State) (ps : List Piece) : State :=
  let t := s0.bindFor ps
  if t.me.rrt = 0 then t else t.takeRegions t.myCore (regionKey t.me 0)
/-- What a load delivers (R143): sign-extended for INT formats, else zero-extended. -/
def loadValue (F : Fmt) (bs : List Byte) : Word := ext F (BitVec.ofNat F.width (leNat bs))
/-! ### Atomics (R147 to R149) -/

/-- The integer atomics and reductions with the new value of the location, none where nothing is written: functions of the format,
the old value `m`, the operand `c` and, for ACAS, `e`. -/
def intAtomics : List ((Fields → Instr) × ((F : Fmt) → BitVec F.width → BitVec F.width → BitVec F.width → Option (BitVec F.width))) :=
  [(.aadd, fun _ m c _ => some (m + c)), (.amin, fun _ m c _ => some (if m.sle c then m else c))
  , (.amax, fun _ m c _ => some (if m.sle c then c else m)), (.aminu, fun _ m c _ => some (if m ≤ c then m else c))
  , (.amaxu, fun _ m c _ => some (if m ≤ c then c else m)), (.aand, fun _ m c _ => some (m &&& c)), (.aor, fun _ m c _ => some (m ||| c))
  , (.axor, fun _ m c _ => some (m ^^^ c)), (.axchg, fun _ _ c _ => some c), (.acas, fun _ m c e => if m = c then some e else none)
  , (.aincw, fun _ m c _ => some (if c ≤ m then 0 else m + 1)), (.redadd, fun _ m c _ => some (m + c))
  , (.redmin, fun F m c _ => some (if F.isSigned then (if m.sle c then m else c) else (if m ≤ c then m else c)))
  , (.redmax, fun F m c _ => some (if F.isSigned then (if m.sle c then c else m) else (if m ≤ c then c else m)))]

/-- The floating-point atomics; REDFADD discards the flags. -/
def floatAtomics : List ((Fields → Instr) × Bool) := [(.afadd, false), (.redfadd, true)]

/-- A data operand of an atomic: an immediate under R64. -/
def dataBits (F : Fmt) (o : Operand) (w : Word) : BitVec F.width := BitVec.ofNat F.width (dataVal F o w).toNat

/-- The atomic reads the bytes `bs` at its place, in a state where the strand's earlier writes to them, before a release all of them, have
performed, and the home of a bank-linear place has gone to the dies (R148, R266). -/
def AtomicReads (f : Fields) (e : QEntry) (F : Fmt) (s s1 : State) (ps : List Piece) (bs : List Byte) : Prop :=
  ∃ (s0 t : State) (ps0 : List Piece), Places s (eaOf f e) (F.width / 8) (F.width / 8) .atomic s0 ps0 ∧
    s0.cached (policyOf f.hint 0) ps0 = ps ∧ (∀ pos off n, ps ≠ [.remote pos off n]) ∧ bs.length = F.width / 8 ∧
    (if f.sub.getLsbD 1 then s0.flushLate else s0.flushFor ps).settleBl ps = t ∧
    (t.readPieces t.myCore ps).poison = none ∧ (t.readPieces t.myCore ps).bytes = bs ∧ (t.readPieces t.myCore ps).s = s1
/-- The opcode of an atomic (spec/opcode_table.json), as its message to another device carries it. -/
def atomicCode : Instr → Nat
  | .aadd _ => 0xA0 | .amin _ => 0xA1 | .amax _ => 0xA2 | .aminu _ => 0xA3 | .amaxu _ => 0xA4 | .aand _ => 0xA5 | .aor _ => 0xA6 | .axor _ => 0xA7
  | .axchg _ => 0xA8 | .acas _ => 0xA9 | .afadd _ => 0xAA | .aincw _ => 0xAB | .redadd _ => 0xB0 | .redmin _ => 0xB1 | .redmax _ => 0xB2
  | .redfadd _ => 0xB3 | _ => 0
/-! ### Local-memory records (R138, R145, R150 to R154) -/

/-- The LM operand of an instruction, a record of `size` bytes, lies at `off` of core `core`, and of its words those that the instruction
reads, `n` bytes from `lo` on, have no uncorrectable error; `s1` is the state after the words are taken for the cycle and the read's errors
counted (R138, R254, R256). -/
def LmReads (f : Fields) (e : QEntry) (size lo n : Nat) (rd wr : Bool) (s s1 : State) (core off : Nat) : Prop :=
  s.lmOperand (e.entry f.a) (offVal f.b e.b) (selOf f e) size size rd wr = .ok core off ∧ (s.core core).lmUe (off + lo) n = false ∧
    (s.takeLm core off size).noteLm core (off + lo) n = s1
/-- The low 32 bits of operand E: a count, a slot, a phase. -/
def lowE (f : Fields) (e : QEntry) : Nat := (dataVal .uint32 f.e e.e).toNat % 2 ^ 32
/-! ### Tiles and vectors (R144, R159 to R189) -/

/-- The element-by-element vector instructions: the format of their operands, and the result of one element with its flags. -/
def elementOps : List ((Fields → Instr) × (Fields → Fmt) × (Fields → QEntry → Fmt → Nat → Nat → Nat → Nat × Flags)) :=
  [(.vadd, memFmt, fun f e => vaddEl (vMode f e) (vSat f)), (.vsub, memFmt, fun f e => vsubEl (vMode f e) (vSat f))
  , (.vmul, memFmt, fun f e => vmulEl (vMode f e) (vSat f)), (.vfma, memFmt, fun f e => vfmaEl (vMode f e))
  , (.vfms, memFmt, fun f e => vfmsEl (vMode f e)), (.vnfma, memFmt, fun f e => vnfmaEl (vMode f e))
  , (.vdiv, memFmt, fun f e => vdivEl (vMode f e)), (.vsqrt, memFmt, fun f e => vsqrtEl (vMode f e))
  , (.vmin, memFmt, fun _ _ => vminEl), (.vmax, memFmt, fun _ _ => vmaxEl)
  , (.vabs, memFmt, fun f _ => vabsEl (vSat f)), (.vneg, memFmt, fun f _ => vnegEl (vSat f))
  , (.vand, memFmt, fun _ _ => vandEl), (.vor, memFmt, fun _ _ => vorEl), (.vxor, memFmt, fun _ _ => vxorEl), (.vnot, memFmt, fun _ _ => vnotEl)
  , (.vshl, memFmt, fun _ _ => vshlEl), (.vshr, memFmt, fun _ _ => vshrEl), (.vshra, memFmt, fun _ _ => vshraEl)
  , (.vclamp, memFmt, fun _ _ => vclampEl), (.vmov, memFmt, fun _ _ _ a _ _ => (a, 0))
  , (.vcvt, srcFmt, fun f e F a _ _ => (srcFmt f).cvtElem F (vMode f e) a), (.vmag2, mag2Fmt, fun f e F a _ _ => mag2El (srcFmt f) F (vMode f e) a)
  , (.vcmul, memFmt, fun f e => cmulEl f (vMode f e) false), (.vcfma, memFmt, fun f e => cmulEl f (vMode f e) true)
  , (.vconj, memFmt, fun _ _ => conjEl)
  , (.vexp, memFmt, fun f e F a _ _ => TFun.exp.apply F (vMode f e) (vMode f e).code a)
  , (.vexp2, memFmt, fun f e F a _ _ => TFun.exp2.apply F (vMode f e) (vMode f e).code a)
  , (.vlog2, memFmt, fun f e F a _ _ => TFun.log2.apply F (vMode f e) (vMode f e).code a)
  , (.vrcp, memFmt, fun f e F a _ _ => TFun.rcp.apply F (vMode f e) (vMode f e).code a)
  , (.vrsq, memFmt, fun f e F a _ _ => TFun.rsq.apply F (vMode f e) (vMode f e).code a)
  , (.vtanh, memFmt, fun f e F a _ _ => TFun.tanh.apply F (vMode f e) (vMode f e).code a)
  , (.vsigm, memFmt, fun f e F a _ _ => TFun.sigm.apply F (vMode f e) (vMode f e).code a)
  , (.vsin, memFmt, fun f e F a _ _ => TFun.sin.apply F (vMode f e) (vMode f e).code a)
  , (.vcos, memFmt, fun f e F a _ _ => TFun.cos.apply F (vMode f e) (vMode f e).code a)]

/-- The elements of the three operands over the shape, in row-major order, all in format `x`; `s1` is the state after reading them. -/
def VecArgs (f : Fields) (e : QEntry) (x : Fmt) (s s1 : State) (a b c : List Nat) : Prop :=
  ∃ sa sb, s.vArg e (shpRows e.shp) (shpCols e.shp) (argA f e x) = .ok (sa, a) ∧
    sa.vArg e (shpRows e.shp) (shpCols e.shp) (argB f e x) = .ok (sb, b) ∧
    sb.vArg e (shpRows e.shp) (shpCols e.shp) (argC f e x) = .ok (s1, c)
/-- The elements of one tile operand. -/
def tileOf (s : State) (e : QEntry) (reg : Word) (eb : Nat) : List Nat := s.tile s.cur reg.toNat eb (shpRows e.shp * shpCols e.shp)
/-- The destination tile of the entry has taken the listed results; `none` keeps an element. -/
def intoTile (s : State) (e : QEntry) (eb : Nat) (rs : List (Option (Nat × Flags))) : State := s.writeTile s.myCore (dstV e 0) eb (collect rs).1
/-- A value for every element of the shape by row and column, where the mask allows it. -/
def byElement (s : State) (f : Fields) (e : QEntry) (g : Nat → Nat → Nat × Flags) : List (Option (Nat × Flags)) :=
  (s.maskBits f.e (shpRows e.shp) (shpCols e.shp)).zipIdx.map (fun y =>
    if y.1 then some (g (y.2 / shpCols e.shp) (y.2 % shpCols e.shp)) else none)
/-- The state in which a tile load or store accesses its elements, at the coordinates `xs` with the places `ps`: the translation caches and the layout
unit keep what the access has looked up, and its words of local memory are taken for the cycle (R256, R349, R351). -/
def tileReady (f : Fields) (e : QEntry) (xs : List Coord) (ps : List ElemAt) (s s1 : State) : Prop :=
  s.lmBusy s.myCore (lmTouched ps) = false ∧ (s.fillElems (handleNum f.a) (e.entry f.a) xs).takeTile (lmTouched ps) = s1
/-! ### Matrix queue and engine queues (R190, R216 to R219) -/

/-- The instructions whose operations go through the matrix queue, but for MSPMETA, which brings data along (R190, R191). -/
def matrixInstrs : List (Fields → Instr) := [.mpre, .mswap, .mgo, .mdrain, .mzero, .maccl, .mtestNow, .mtestIvl, .mfuse]
/-- The core with the instruction's operation at the end of its matrix queue: the configuration as it stands, the operands as sampled; `clk`
is what happens before it (R266). -/
def withOp (c : Core) (slot : Nat) (clk : Clock) (f : Fields) (e : QEntry) (meta_ : List Byte) : Core :=
  let o : MatOp := { instr := e.instr, slot := slot, pos := e.pos, ring := c.mring, seq := e.seq, tk := f.tk &&& 0b0011#4, rmode := e.rmode
                     a := e.a, b := e.b, c := e.c, e := e.e, handles := e.handles, dsts := e.dsts, cfg := c.cfg, meta_ := meta_
                     clock := clk, scaleSeq := c.scaleSeq }
  { c with matq := c.matq ++ [o], mring := (c.mring + 1) % 8 }

/-- The engine commands with their CMD codes, by the queue they go to (R216, R217). -/
def copyCommands : List ((Fields → Instr) × Nat) := [(.cpy, 0x01), (.cpys, 0x02), (.layout, 0x03), (.cpyq, 0x04), (.areduce, 0x21)]
def memoryCommands : List ((Fields → Instr) × Nat) := [(.bgmac, 0x11), (.bgcpy, 0x12), (.bgattn, 0x13), (.kvput, 0x14), (.kvtake, 0x15)]
/-- The issue checks of R219 pass: the descriptor lies in a range of its handle, aligned and free of poison, is well formed for `cmd`, and
its barrier has a place; the words of both in local memory are free in this cycle (R256). `c` is the command that they give, `s1` the state after the reads. -/
def IssueChecks (cmd : Nat) (f : Fields) (e : QEntry) (s s1 : State) (c : Cmd) : Prop :=
  ∃ (ps : List Piece) (d : BitVec 512) (s0 : State) (bar : Option (Nat × Nat)) (log : Nat),
    let h := e.entry f.a
    hCheck h (descKind h) true true = none ∧ e.b.toNat + 64 ≤ hLimit h ∧ e.b.toNat % 64 = 0 ∧
    s.hRange s.cur s.me.sys h e.cwb .read e.b.toNat 64 = .ok ps ∧ s.lmBusy s.myCore (ps.flatMap pieceWords) = false ∧
    let g := ((s.flushFor ps).takePieces ps).readPieces s.myCore ps
    g.poison = none ∧ g.s = s0 ∧ BitVec.ofNat 512 (leNat g.bytes) = d ∧ descOk cmd d = true ∧
    s0.barrierOf s.cur s.myCore d = .ok (s1, bar, log) ∧ s.barBusy c = false ∧
    c = { slot := s.cur, core := s.myCore, pos := e.pos, ring := 0, seq := e.seq, desc := d
          descLm := if hSpace h = 0 then some (hBase h + e.b.toNat) else none, descVa := BitVec.ofNat 64 (hBase h + e.b.toNat)
          bar := bar, barLog := log, accepted := s.cycle, clock := s.issueClock }

/-- QPUT's selector is sound, its packet lies at `off` of the issuing core's local memory without error; `s1` is the state after the
read, `pkt` the packet (R156). -/
def PacketReads (f : Fields) (e : QEntry) (s s1 : State) (pkt : BitVec 512) : Prop :=
  ∃ core off, fld e.a 0 3 ≤ 3 ∧ e.a.getLsbD 3 = false ∧ fld e.a 6 10 = 0 ∧ fld e.a 28 36 = 0 ∧
    s.lmOperand (e.entry f.b) (offVal f.c e.c) none 64 64 true false = .ok core off ∧ (s.core core).lmUe off 64 = false ∧
    (s.noteLm core off 64).takeLm core off 64 = s1 ∧ BitVec.ofNat 512 (leNat ((s1.core core).lmRead off 64)) = pkt

/-! ### Events of the strands -/

/-- The strand without the flight between `pre` and `post`. -/
def landed (s : State) (slot : Nat) (pre post : List Flight) : State := s.modStrand slot (fun t => { t with flight := pre ++ post })
/-- The strand is up and about: none of a trap, a pre-emption or a kill has begun to stop it. -/
def Unstopped (t : Strand) : Prop := t.stopping = none ∧ t.preempting = false ∧ t.halting = false ∧ t.killing = false
/-- The budget of a strand in wrap-up, or stopped, held or in a system call in it, has run out (R315). -/
def BudgetOut (t : Strand) (cyc : Nat) : Prop :=
  (t.st = .wrap ∨ ((t.st = .stop ∨ t.st = .held ∨ t.st = .sysw) ∧ t.saved = .wrap)) ∧ t.stopping = none ∧ t.preempting = false ∧
  ∃ b, t.budget = some b ∧ b ≤ cyc

/-! ### Events of the matrix array -/

/-- The head of the core's matrix queue may begin: it is not running, no self-test is due but where a nest goes on (R212), and its strand
performs work, or drains and the plane of its MPRE is loaded (R190, R214). -/
def MayStart (s : State) (core : Nat) (o : MatOp) (r : List MatOp) : Prop :=
  (s.core core).matq = o :: r ∧ o.running = false ∧ (s.testDue (s.core core) = false ∨ o.started = true) ∧
  (mayIssue s.cycle (s.strand o.slot) = true ∨ o.loaded = true ∧ (s.strand o.slot).draining = true) ∧
  (s.core core).matStop ≠ some o.slot ∧ coreOf o.slot = core
/-- The core with another head of its matrix queue. -/
def withHead (s : State) (core : Nat) (o : MatOp) (r : List MatOp) : State := s.modCore core (fun c => { c with matq := o :: r })
/-- The core with an operation gone and FLAGS of MSTAT written; its strand has its tokens, its flags and its event (R190, R215). -/
def opEnds (s : State) (core : Nat) (o : MatOp) (fl : Flags) : State :=
  let t := s.modCore core (fun c => { c with matq := c.matq.tail, mstat := { c.mstat with flags := fl ||| o.told } })
  (t.settleAs 3 (t.opsOf core o.slot).length o.slot .C o.tk o.clock fl o.pos o.ring).setEvent o.slot
/-- The MSTAT record after a test at time `now` in which the healthy sub-arrays `bad` failed (R212). -/
def tested (m : MatStat) (now : Nat) (bad : BitVec 4) : MatStat :=
  if bad = 0 then { m with testedAt := now, nslt := 0, tstok := true, nsp := 0 }
  else { m with testedAt := now, nslt := 0, fenced := m.fenced ||| bad, tstok := false, susp := true, suspn := m.nsp }
/-- The head is a nest that runs and has a pass left: the array takes a part of it next (R196, R197). -/
def NestRuns (s : State) (core : Nat) (o : MatOp) (r : List MatOp) (f : Fields) : Prop :=
  (s.core core).matq = o :: r ∧ o.instr = .mgo f ∧ o.running = true ∧ o.started = true ∧ o.finished = false

/-! ### Engines -/

/-- A command at the head of its queue may start, and no fault's end is waiting for it (R219). -/
def Waits (s : State) (w : Where) (c : Cmd) : Prop := s.headCmd w = some c ∧ s.mayStart c = true ∧ c.delivered = none
/-- A command at the head of its queue is under way: not finished, not held. -/
def UnderWay (s : State) (w : Where) (c : Cmd) : Prop :=
  s.headCmd w = some c ∧ c.started = true ∧ c.finished = false ∧ c.held = none ∧ c.delivered = none
/-- A command whose work is done, with its completion steps ahead (R220). -/
def Finished (s : State) (w : Where) (c : Cmd) : Prop :=
  s.headCmd w = some c ∧ c.started = true ∧ c.finished = true ∧ c.held = none ∧ c.delivered = none ∧ c.coded = false
/-- The first checks pass, of the packet where QPUT brought it: CMD and the reserved bits (R219). -/
def Sound (codes : List Nat) (c : Cmd) : Prop := dCmd c.desc ∈ codes ∧ descOk (dCmd c.desc) c.desc = true ∧ (c.viaQput = false ∨ c.bar.isSome = true)
/-- The last steps of a strand's command with barrier, flags and event, no trap and no pages (R220): it leaves its queue. -/
def cmdEnds (s : State) (w : Where) (c : Cmd) : State :=
  let s1 := if c.pend = 0 ∧ dCmd c.desc < 0x10 then s
    else (s.cmdBar c (some (s.cmdRel c deviceScope)) (barSub c.pend (if dCmd c.desc ≥ 0x10 then c.done else c.tail))).1
  let a := ((s1.seenDone w c).dropHeadCmd w).modStrand c.slot (fun t => t.mergeFlags c.flags)
  let b := if dIrq c.desc then a.setCauseBit c.slot c.cause else a
  (if c.quad.isSome && c.code = 4 then b.setCauseBit c.slot 3 else b).setEvent c.slot
/-- No trap, no job and no page goes with the command. -/
def Plain (c : Cmd) : Prop := c.trap = none ∧ c.job = none ∧ c.pages = []

/-! ### The command processor -/

/-- Thread `n` serves queue `k`, is awake and not held, and the packet `d` of a kind in `types` is at the head of the ring: `p` is the packet with
its place and the state after its read, an acquire (R326). -/
def Serves (s : State) (n : Nat) (p : Packet) (types : Nat → Bool) : Prop :=
  n < 32 ∧ (s.thread n).qcb = some p.k ∧ (s.thread n).wake = true ∧ (s.thread n).held = none ∧ s.qcb p.k = p.q ∧ p.q.st = 1 ∧ p.q.stall = false ∧
  (∃ s1, s.readSlot p.q 0 = .ok (s1, p.d) ∧ p.s = s1.slotGains n p.q 0) ∧ pktValid p.d = true ∧ p.n = n ∧ types (pktType p.d) = true
/-- A control packet of the kernel's queue with no reserved bit set. -/
def Controls (s : State) (n : Nat) (p : Packet) (typ : Nat) : Prop :=
  Serves s n p (· == typ) ∧ p.q.typ = 3 ∧ ctlReservedOk typ p.d = true
/-- The packet ends with `code` in its CODE, its slot free and RIDX one further: `t` (R407). -/
def EndsWith (p : Packet) (s : State) (code : Nat) (t : State) : Prop := p.finish s code = .ok (some t)

/-! ### Ports, league, power -/

/-- The port trains again with nothing pending, in its old settings (R395). -/
def freshPort (x : PortState) : PortState := { thr := x.thr, noauto := x.noauto, up := true, delay := x.delay, out := x.out }
/-- PEND is set where a lane is failing and no spare is free (R376). -/
def pended (x : PortState) : PortState := { x with pend := x.failing != 0 && (freeSpare x).isNone }
/-- A lane has been spared: a data lane has failed, and of a spare the data lane that it carried goes on; the spare `sp` carries the data lane, the
neighbour is told, and a Corrected record posted (R376). -/
def spared (s : State) (port : Port) (lane sp : Nat) : State :=
  let x := s.port port
  let y : PortState := if lane < 16 then
      { x with failed := x.failed ||| laneBit lane, failing := x.failing &&& ~~~(lane18 lane), carries := tabPut x.carries sp lane }
    else
      { x with
        deadSpares := x.deadSpares ||| spareBit (lane - 16), failing := x.failing &&& ~~~(lane18 lane)
        carries := tabPut (x.carries.filter (fun y => y.1 != lane - 16)) sp (tabGet x.carries 0 (lane - 16)) }
  ((s.setPort port (pended y)).sendNext port (.spare lane sp x.rxNext.toNat)).lanePost port 1 5
/-- A read-only device register (R7), and one whose whole value a write gives. -/
def readOnlyRegs : List Nat := [0x018, 0x028, 0x058, 0x230, 0x238, 0x310, 0x320, 0x400, 0x500, 0x608, 0x1010, 0x1020, 0x1030]
/-- A running device, in ON or THROTTLE (R402). -/
def Running (s : State) : Prop := s.power = .on ∨ s.power = .throttle

/-! ### Waits, tokens and frames (R83, R84, R141) -/

/-- The head of the queue waits: its timer runs from its first attempt, and this cycle's attempt is over (R141). -/
def waits (s : State) (q : Queue) (e : QEntry) : State :=
  s.setMe (s.me.setHead q { e with waiting := some (e.waiting.getD s.cycle), tried := some s.cycle, claim := none })
/-- The front instructions that only compute a register. -/
def frontPlain : List (Fields → Instr) :=
  intTwoOps.map (·.1) ++ intOneOps.map (·.1) ++ [.bswap, .sel, .movK, .cmp, .lea, .pand, .por, .pxor, .pnot, .sfadd, .sfmul, .sffma, .sfcvt, .sfcmp]
/-- The queue instructions that write no memory: the loads, and the instructions of the vector unit. -/
def readers : List (Fields → Instr) :=
  [.lds, .ldq, .ldb, .lda, .ldv, .ldg, .feq, .vadd, .vsub, .vmul, .vfma, .vfms, .vnfma, .vdiv, .vsqrt, .vmin, .vmax, .vabs, .vneg, .vcmp,
   .vsel, .vand, .vor, .vxor, .vnot, .vshl, .vshr, .vshra, .vclamp, .vcvt, .vqnt, .vdqnt, .vpack6, .vunpk6, .vpack4, .vunpk4, .vscale, .vredr,
   .vredc, .vmaxr, .vscan, .vexp, .vexp2, .vlog2, .vrcp, .vrsq, .vtanh, .vsigm, .vsin, .vcos, .vtrn, .vshuf, .vbcr, .vbcc, .vmov, .viota,
   .vcmul, .vcfma, .vconj, .vmag2]
/-- The stores by address, with the bytes and the alignment of each form. -/
def plainStores : List ((Fields → Instr) × (Fields → Nat × Nat)) :=
  [(.sts, fun f => ((memFmt f).width / 8, (memFmt f).width / 8)), (.stq, fun _ => (16, 8))
  , (.strel, fun f => ((memFmt f).width / 8, (memFmt f).width / 8)), (.poisonclr, fun _ => (64, 64))]
/-- The instructions on local-memory records, with the record's size and alignment and the permissions that they need. -/
def lmInstrs : List ((Fields → Instr) × Nat × Bool × Bool) :=
  [(.ldfe, 4, true, false), (.stff, 4, false, true), (.feset, 4, false, true), (.semwait, 4, true, true), (.sempost, 4, true, true)
  , (.sracq, 64, true, true), (.srpub, 64, true, true), (.srtake, 64, true, true), (.srrel, 64, true, true), (.barinit, 32, false, true)
  , (.bararr, 32, true, true), (.barexp, 32, true, true), (.barwait, 32, true, false), (.bartest, 32, true, false)]
/-- The entry has left its queue: the instruction has performed. -/
def leaves (q : Queue) (s t : State) : Prop := (t.me.queue q).length < (s.me.queue q).length
/-- The byte at `a` of the space `sp` as a reader of that space sees it lies outside every piece; in the bank-linear window, whose writes first
send the line home (R281), outside every line of a piece. -/
def Outside (ps : List Piece) (sp : MemSpace) (a : Nat) : Prop :=
  ∀ m off n size, Piece.mem m off n size ∈ ps → ∀ i < n,
    locKey m (off + i) ≠ locKey sp a ∧ (sp = .bl → lineKey m (off + i) ≠ lineKey .bl a)
/-- The byte at `a` of a core's local memory lies outside every piece. -/
def OutsideLm (ps : List Piece) (core a : Nat) : Prop := ∀ off n, Piece.lm core off n ∈ ps → a < off ∨ off + n ≤ a
/-- The tiles of every core. -/
def SameTiles (s t : State) : Prop := ∀ n, (t.core n).vrf = (s.core n).vrf

end Sys2Proof.Claims
end

