-- ==== Sys2Proof/Certificates/Slice0/Obligations.lean ====
section
/-! DEFINITION. The statements for the provers. Each docstring names the rules of spec/ that it formalises. -/

open Sys2Proof Sys2Proof.Machine Sys2Proof.Claims

/-! ## Encoding -/

/-- The worked words of the spec (R98, and the examples of chapters 5 to 9) decode to the instructions that they stand for; opcode 0 is
unassigned. -/
def Obligations.SpecWordsDecode : Prop :=
  decodeWord 0x0D9DC00000000000000000000000000000000000 = .ok (.nop {}) ∧
  decodeWord 0x4129C68052000040000520020000040001302513 = .ok (.vfma
    { g0 := 0b1010, g1 := 7, tk := 1, lat := 10, flags := 2, fmt := 0x12, d := .v 4, a := .v 5, b := .k 1 0x20, c := .v 4, e := .m 3 }) ∧
  decodeWord 0x285DC3C4060000C00014000100000D0000001348 = .ok (.amin
    { lat := 15, scp := 4, fmt := 6, d := .s 12, a := .s 20, b := .i 16, c := .s 13 }) ∧
  decodeWord 0x809DC00000000000000500000000000000000200 = .ok (.mmode { a := .s 5 }) ∧
  decodeWord 0xA01DC00000000000000300000000000000000D40 = .ok (.cpy { a := .h 3, b := .i 0 }) ∧
  decodeWord 0x0D5DC0000000006000000000000000FFFFF01005 = .ok (.loop { d := .s 6, e := .off 0xFFFFF }) ∧
  decodeWord 0 = .bad .illegalOpcode 0

/-- R63, R78, R96, R99: the words of the well-formed instructions and the words that decode are the same, one word to one instruction. -/
def Obligations.DecodingInvertsEncoding : Prop :=
  (∀ i : Instr, i.isWord = true → i.wellFormed = true → decodeWord (encode i) = .ok i) ∧
  (∀ (w : IWord) (i : Instr), decodeWord w = .ok i → i.isWord = true ∧ encode i = w)

/-! ## The step -/

/-- R94, R102: where the front's turn has come, a step fetches the line of the position and runs the instruction that its word decodes to;
a queue's turn runs the instruction at its head. The model's own choices in it: that a step is one action (log 10). -/
def Obligations.StepRunsTheDecodedInstruction : Prop :=
  (∀ (s s1 : State) (slot : Nat) (line : BitVec 512) (i : Instr),
    s.nextAction = .event (.instructionDecode slot) → (s.power = .on ∨ s.power = .throttle) → s.fwState = 1 → s.clockStopped = false → slot < 256 →
    s.dropAgenda.decodeReady slot = true → (s.dropAgenda.decodes slot).fetchLine slot (s.strand slot).pc = .ok s1 line →
    decodeWord (lineWord line (slotPos (s.strand slot).pc)) = .ok i →
    step s = match exec i { s1 with latched := none } with
      | .next t => .next (t.after (.event (.instructionDecode slot)))
      | .fault r => .fault r
      | .refused r => .refused r) ∧
  (∀ (s : State) (x : IssueOf), act s (.issue x) = exec x.instr { s with cur := x.slot, acting := .queue x.queue }) ∧
  (∀ s : State, step s = match act s s.nextAction with
      | .next t => .next (t.after s.nextAction)
      | .fault r => .fault r
      | .refused r => .refused r)

/-- The memories of the device, of the host and of the pools stay in canonical form, whatever a step does. -/
def Obligations.EveryStepKeepsMemoryCanonical : Prop :=
  ∀ s t : State, MemOk s → step s = .next t → MemOk t

/-- R402: nothing but the boot leaves OFF; out of TRIP the device goes only into OFF; and where it stays in OFF or TRIP no strand, core,
command or record moves and no byte of memory changes. -/
def Obligations.PowerStatesAreLeftAsR402Says : Prop :=
  ∀ s t : State, s.latched = none → step s = .next t →
    let still := t.power = s.power ∧ t.strands = s.strands ∧ t.cores = s.cores ∧ t.quads = s.quads ∧ t.bundles = s.bundles ∧
      t.fqhead = s.fqhead ∧ t.mehead = s.mehead ∧ t.hevhead = s.hevhead ∧ SameMemory s t
    (s.power = .off → t.power = .on ∨ still) ∧ (s.power = .trip → t.power = .off ∨ still)

/-- What reset leaves (R7, R8, R352, R356, R388, R397, R402, R403): the device in OFF with no strand bound, the memories in canonical
form, and the device registers at the values of their maps. The model's own choices in it: the reset values that the maps do not give (log
6). -/
def Obligations.ResetIsAsTheMapsSay : Prop :=
  MemOk State.reset ∧ State.reset.power = .off ∧ (∀ n, (State.reset.strand n).st = .unbound) ∧
  (∀ n, (State.reset.core n).mstat.tstok = true) ∧
  (∀ x ∈ [(0x010, 6), (0x018, 0), (0x020, 0), (0x028, 0), (0x040, 3), (0x200, 0), (0x308, 6), (0x310, 0), (0x318, 0), (0x320, 0), (0x328, 10),
    (0x330, 0), (0x408, 0), (0x418, 3), (0x600, 1 + 320 * 2 ^ 16)], State.reset.readReg x.1 = some (BitVec.ofNat 64 x.2))

/-- R281, R287, R288, R360: where no memory error waits, a byte reads as it was last written, in every space and, for device memory,
through the interleaved window; a write leaves every other byte alone. The two windows number the same bytes. A write through the
bank-linear window leaves every other line alone. The model's own choices in it: what an unwritten byte reads as (log 5). -/
def Obligations.MemoryIsReadAsWritten : Prop :=
  (∀ i, blToIl (ilToBl i) = i ∧ ilToBl (blToIl i) = i ∧ blRow (ilToBl i) = blRow (ilToBl (i / 256 * 256)) ∧
    blBank (ilToBl i) = blBank (ilToBl (i / 256 * 256))) ∧
  (∀ (s : State) (party : Party) (whole : Bool) (sp : MemSpace) (off : Nat) (bs : List Byte), NoErrors s → sp ≠ .bl →
    (∀ i b, bs[i]? = some b → (s.writeMem party whole sp off bs).physByte sp (off + i) = b) ∧
    (∀ sp' a, (sp' ≠ sp ∨ a < off ∨ off + bs.length ≤ a) → (s.writeMem party whole sp off bs).physByte sp' a = s.physByte sp' a)) ∧
  (∀ (s : State) (party : Party) (whole : Bool) (off : Nat) (bs : List Byte), NoErrors s → tabWf s.l2 = true →
    (∀ i b, bs[i]? = some b → tabFind s.rows (rowKey (off + i)) = none → (s.writeMem party whole .bl off bs).physByte .bl (off + i) = b) ∧
    (∀ sp a, (sp ≠ .host ∧ sp ≠ .pool → ∀ i < bs.length, (off + i) / 64 ≠ physLoc sp a / 64) →
      (s.writeMem party whole .bl off bs).physByte sp a = s.physByte sp a))

/-! ## Constants and guards -/

/-- R54: s0 reads as zero, p7 reads as true; a write to either is discarded, and an instruction that names it as its destination ends as
any other does. -/
def Obligations.ConstantRegisters : Prop :=
  (∀ (t : Strand) (cyc fv : Nat), t.readS cyc fv 0 = 0 ∧ t.readP cyc fv 7 = true ∧ t.getS 0 = 0 ∧ t.getP 7 = true) ∧
  (∀ (t : Strand) (v : Word) (b : Bool), t.setS 0 v = t ∧ t.setP 7 b = t ∧ t.writeDst (.s 0) v = t ∧ t.writeDst (.p 7) v = t) ∧
  (∀ op ∈ intTwoOps, ∀ (f : Fields) (s s1 : State) (v : Vals) (F : Fmt),
    f.d = .s 0 → fieldFmt f = some F → FrontRuns (op.1 f) f (some F) s s1 v →
    ∃ t, exec (op.1 f) s = .next t ∧ t.me.st = s.me.st ∧ t.me.stopping = none ∧ (∀ n, t.me.getS n = s.me.getS n)) ∧
  (∀ (f : Fields) (s s1 : State) (v : Vals) (F : Fmt), f.d = .p 7 → fieldFmt f = some F → FrontRuns (.cmp f) f (some F) s s1 v →
    ∃ t, exec (.cmp f) s = .next t ∧ t.me.st = s.me.st ∧ t.me.stopping = none ∧ (∀ n, t.me.getP n = s.me.getP n))

/-- R80, R81: a guard holds where its predicate, read at this moment, differs from its negate bit; an instruction with a guard that fails
is dropped at the front: only the position and the program order advance. -/
def Obligations.GuardedInstructions : Prop :=
  (∀ (t : Strand) (cyc fv : Nat) (g : BitVec 4),
    guardHolds t cyc fv g = (t.readP cyc fv (g.extractLsb' 0 3).toNat ^^ g.getLsbD 3)) ∧
  (∀ (t : Strand) (cyc fv : Nat), guardHolds t cyc fv 0b0111 = true ∧ guardHolds t cyc fv 0b1111 = false) ∧
  (∀ (i : Instr) (f : Fields) (sp : ISpec) (s : State), ispec i = some sp → instrFields i = some f → s.acting = .front →
    frontReady s.cycle s.me = true → decodeFault i sp f s.me = none → guardsPending s.me f = false →
    (guardHolds s.me s.cycle (s.fv + 5) f.g0 = false ∨ guardHolds s.me s.cycle (s.fv + 6) f.g1 = false) →
    exec i s = .next (s.setMe { s.me with pc := s.me.pc + 1, seq := s.me.seq + 1 }))

/-! ## Traps -/

/-- R102, R104, R105, R260, R262: an instruction that a decode check stops is the trap of that check, at the same position: it starts the
trap procedure, and of two traps of one cycle the one of the lower ENG is kept. The stop, in a later cycle and with no work outstanding,
writes its TRC, TRI and TRX. R62, R102, R115, R164, R248: which check stops an instruction of a strand whose guards hold: an illegal
latency; a pending register, a full queue, then the privilege of ERET and TLBI, then a claim without the matrix array; a result wait and a
full queue leave the state as it is. The model's own choices in it: the pc of a strand that traps (log 32). -/
def Obligations.DecodeChecksAndTraps : Prop :=
  ((∀ (i : Instr) (f : Fields) (sp : ISpec) (s : State) (c : TrapCode) (o : Nat), ispec i = some sp → instrFields i = some f →
    s.acting = .front → frontReady s.cycle s.me = true → decodeStop i sp f s = some (.trap c o) →
    (s.me.stopping = none → exec i s = .next (s.setMe { s.me with
      stopping := some { code := c, eng := 0, opnd := o, pos := s.me.pc, cyc := some s.cycle } })) ∧
    (∀ x, s.me.stopping = some x → x.eng ≠ 0 → exec i s = .next (s.setMe { s.me with
      stopping := some { code := c, eng := 0, opnd := o, pos := s.me.pc, cyc := some s.cycle } }))) ∧
  (∀ (slot : Nat) (s : State) (c : TrapCode) (o : Nat) (p : Word) (k : Option Nat), let t := s.strand slot
    slot < 256 → t.stopping = some { code := c, eng := 0, opnd := o, pos := p, cyc := k } → k ≠ some s.cycle → t.diverting = none → t.wfe = none →
    s.quiet slot = true → s.fqFull = false →
    ∃ u, exec (.strandStop slot) s = .next u ∧ u.strand slot = { t with
      st := .stop, saved := if t.inWrap then .wrap else .run, stopping := none, halting := false, calling := none
      trc := BitVec.ofNat 64 (c.value + (if t.inWrap then 2 ^ 11 else 0) + o * 2 ^ 12), tri := 0
      trx := BitVec.ofNat 64 (p.toNat % 2 ^ 56) })) ∧
  ((∀ (i : Instr) (f : Fields) (sp : ISpec) (s : State), ispec i = some sp → instrFields i = some f → s.acting = .front →
    frontReady s.cycle s.me = true → decodeFault i sp f s.me = none → guardsPending s.me f = false → guardsHold s.me s.cycle s.fv f = true →
    ((resultWait s.me i sp f = true ∨ queueFull s.me sp.route = true) → exec i s = .next s) ∧
    (resultWait s.me i sp f = false → queueFull s.me sp.route = false → s.me.sys = false → (i = .eret f ∨ i = .tlbi f) →
      decodeStop i sp f s = some (.trap .privileged 0)) ∧
    (resultWait s.me i sp f = false → queueFull s.me sp.route = false → (i = .mgo f ∨ i = .mpre f ∨ i = .mmode f ∨ i = .mdrain f) → s.me.mown = false →
      decodeStop i sp f s = some (.trap .claimViolation 0))) ∧
  (∀ (f : Fields) (sp : ISpec) (s : State), ispec (.add f) = some sp → upperOk sp f = true → sp.subOk = true → f.lat = 15 →
    decodeStop (.add f) sp f s = some (.trap .illegalLatency 0)))

/-! ## Waits and tokens -/

/-- R141: an instruction that waits stays at the head of its queue with its timer running: LDFE while the word is empty, SEMWAIT while the
count is too small, SRACQ and SRTAKE while their slot is not ready, BARARR while all have arrived, BARWAIT while the phase is the same,
QFENCE and BGFENCE while an earlier operation of theirs is queued, QPUT and an engine command while the queue is full, MSCALE while 64
entries are held, BGBAR.hold while a command reads its furlongs, PUBX while a store of the strand is on its way. R82 to R84: a head
without its tokens does not issue; what the pops take from and the pushes give to the four FIFOs, which hold eight tokens each, with what
happens before it (R266); a push onto a full FIFO is not made. The model's own choices in it: which permissions an operation needs and
what its alignment is (log 76), PUBX's timer (log 77) and a QPUT's packet (log 43). -/
def Obligations.WaitsAndTokens : Prop :=
  ((∀ (f : Fields) (q : Queue) (sp : ISpec) (e : QEntry) (s s1 : State) (core off : Nat),
    headTakes (.ldfe f) f q sp e s = true → LmReads f e 4 0 4 true false s s1 core off → s1.isFull core (off / 4) = false → f.flags = 0 →
    exec (.ldfe f) s = .next (waits s q e)) ∧
  (∀ (f : Fields) (q : Queue) (sp : ISpec) (e : QEntry) (s s1 : State) (core off : Nat),
    headTakes (.semwait f) f q sp e s = true → LmReads f e 4 0 4 true true s s1 core off → s1.lmWord core off < lowE f e →
    exec (.semwait f) s = .next (waits s q e)) ∧
  (∀ (f : Fields) (q : Queue) (sp : ISpec) (e : QEntry) (s s1 : State) (core off : Nat),
    headTakes (.sracq f) f q sp e s = true → LmReads f e 64 0 64 true true s s1 core off →
    let r := s1.lmRecord core off 64
    srBad r = false → srState r (fld r 128 32 % srN r) ≠ 0 → exec (.sracq f) s = .next (waits s q e)) ∧
  (∀ (f : Fields) (q : Queue) (sp : ISpec) (e : QEntry) (s s1 : State) (core off : Nat),
    headTakes (.srtake f) f q sp e s = true → LmReads f e 64 0 64 true true s s1 core off →
    let r := s1.lmRecord core off 64
    srBad r = false → srState r (fld r 160 32 % srN r) ≠ 2 → exec (.srtake f) s = .next (waits s q e)) ∧
  (∀ (f : Fields) (q : Queue) (sp : ISpec) (e : QEntry) (s s1 : State) (core off : Nat),
    headTakes (.bararr f) f q sp e s = true → LmReads f e 32 0 20 true true s s1 core off →
    barArr (s1.lmRecord core off 32) = barExpect (s1.lmRecord core off 32) → exec (.bararr f) s = .next (waits s q e)) ∧
  (∀ (f : Fields) (q : Queue) (sp : ISpec) (e : QEntry) (s s1 : State) (core off : Nat),
    headTakes (.barwait f) f q sp e s = true → LmReads f e 32 16 4 true false s s1 core off →
    barPhase (s1.lmRecord core off 32) = (e.e.setWidth 32).toNat → exec (.barwait f) s = .next (waits s q e)) ∧
  (∀ (f : Fields) (q : Queue) (sp : ISpec) (e : QEntry) (s : State),
    (headTakes (.qfence f) f q sp e s = true → s.fencePending e.a.toNat e.seq = true → exec (.qfence f) s = .next (waits s q e)) ∧
    (headTakes (.bgfence f) f q sp e s = true → s.memoryPending e.a.toNat e.seq = true → exec (.bgfence f) s = .next (waits s q e)) ∧
    (headTakes (.mscale f) f q sp e s = true → 64 ≤ (s.core s.myCore).scales.length → exec (.mscale f) s = .next (waits s q e)) ∧
    (headTakes (.pubx f) f q sp e s = true → (∃ x ∈ s.me.flight, x.stream = some .S ∧ x.endsAt = none) → exec (.pubx f) s = .next (waits s q e))) ∧
  (∀ (f : Fields) (q : Queue) (sp : ISpec) (e : QEntry) (s s1 : State) (pkt : BitVec 512), headTakes (.qput f) f q sp e s = true →
    PacketReads f e s s1 pkt → s1.placePacket f e pkt = .full → exec (.qput f) s = .next (waits s q e)) ∧
  (∀ op ∈ copyCommands, ∀ (f : Fields) (q : Queue) (sp : ISpec) (e : QEntry) (s s1 : State) (c : Cmd),
    headTakes (op.1 f) f q sp e s = true → IssueChecks op.2 f e s s1 c → 32 ≤ (s1.core s.myCore).copyq.length →
    exec (op.1 f) s = .next (waits s q e)) ∧
  (∀ op ∈ memoryCommands, ∀ (f : Fields) (q : Queue) (sp : ISpec) (e : QEntry) (s s1 : State) (c : Cmd),
    headTakes (op.1 f) f q sp e s = true → IssueChecks op.2 f e s s1 c → 64 ≤ (s1.quad (quadOfC f e s)).q.length →
    exec (op.1 f) s = .next (waits s q e)) ∧
  (∀ (f : Fields) (q : Queue) (sp : ISpec) (e : QEntry) (s : State) (fs : List Nat), headTakes (.bgbarHold f) f q sp e s = true →
    hCheck (e.entry f.a) (stripe (e.entry f.a)) false true = none → s.holds.length < 16 → s.coveredFurlongs (e.entry f.a) = .ok fs →
    (∃ x ∈ s.quads, ∃ c ∈ x.2.q, (c.accepted ≤ e.waiting.getD s.cycle ∨ c.started = true) ∧ ∃ r ∈ s.cmdReads c, r ∈ fs) →
    exec (.bgbarHold f) s = .next (waits s q e))) ∧
  ((∀ (i : Instr) (f : Fields) (q : Queue) (e : QEntry) (r : List QEntry) (s : State), instrFields i = some f → (∃ sp, ispec i = some sp ∧ sp.route ≠ .f) →
    s.acting = .queue q → s.me.queue q = e :: r → s.me.tokensReady q f.tk = false → exec i s = .next s) ∧
  (∀ (t : Strand) (tk : BitVec 4),
    let n (k : Nat) : Nat := if tk.getLsbD k then 1 else 0
    t.popTokens .L tk = { t with tcl := t.tcl - n 2, seen := { t.seen with cl := t.seen.cl.drop (n 2) } } ∧
    t.popTokens .C tk = { t with tlc := t.tlc - n 3, tsc := t.tsc - n 2
                                 seen := { t.seen with lc := t.seen.lc.drop (n 3), sc := t.seen.sc.drop (n 2) } } ∧
    t.popTokens .S tk = { t with tcs := t.tcs - n 3, seen := { t.seen with cs := t.seen.cs.drop (n 3) } }) ∧
  (∀ (t : Strand) (tk : BitVec 4) (k : Clock), t.tlc < 8 → t.tcl < 8 → t.tcs < 8 → t.tsc < 8 →
    let n (x : Nat) : Nat := if tk.getLsbD x then 1 else 0
    let l (x : Nat) : List Clock := if tk.getLsbD x then [k] else []
    t.pushTokens .L tk k = ({ t with tlc := t.tlc + n 0, seen := { t.seen with lc := t.seen.lc ++ l 0 } }, false) ∧
    t.pushTokens .C tk k = ({ t with tcl := t.tcl + n 1, tcs := t.tcs + n 0
                                     seen := { t.seen with cl := t.seen.cl ++ l 1, cs := t.seen.cs ++ l 0 } }, false) ∧
    t.pushTokens .S tk k = ({ t with tsc := t.tsc + n 1, seen := { t.seen with sc := t.seen.sc ++ l 1 } }, false)) ∧
  (∀ (t : Strand) (k : Clock), (8 ≤ t.tlc → t.pushTokens .L 1 k = (t, true)) ∧ (8 ≤ t.tcl → t.pushTokens .C 2 k = (t, true)) ∧
    (8 ≤ t.tcs → t.pushTokens .C 1 k = (t, true)) ∧ (8 ≤ t.tsc → t.pushTokens .S 2 k = (t, true))))

/-! ## Scalar instructions -/

/-- R114, R116, R117: every two-operand integer instruction that the front takes ends in a next state; its destination's window opens with
Ext of the result, computed on the low W bits of the operands. R116, R118: the one-operand integer instructions. The result of CLZ, CTZ,
POPC, BSWAP, ABS and MOV on the low W bits of `a`. -/
def Obligations.IntegerResults : Prop :=
  (∀ op ∈ intTwoOps, ∀ (f : Fields) (s s1 : State) (v : Vals) (F : Fmt),
    fieldFmt f = some F → FrontRuns (op.1 f) f (some F) s s1 v →
    exec (op.1 f) s = .next (frontEnds f v s1 s1.passed
      (dstVal s1.passed f.d (ext F (op.2 F.width (v.a.setWidth F.width) (v.b.setWidth F.width)))) 0)) ∧
  ((∀ op ∈ intOneOps, ∀ (f : Fields) (s s1 : State) (v : Vals) (F : Fmt),
    fieldFmt f = some F → FrontRuns (op.1 f) f (some F) s s1 v →
    exec (op.1 f) s = .next (frontEnds f v s1 s1.passed (dstVal s1.passed f.d (ext F (op.2 F.width (v.a.setWidth F.width)))) 0)) ∧
  (∀ (f : Fields) (s s1 : State) (v : Vals) (F : Fmt),
    fieldFmt f = some F → FrontRuns (.bswap f) f (some F) s s1 v →
    ∃ r : BitVec F.width, (∀ k < F.width / 8, r.extractLsb' (8 * k) 8 = (v.a.setWidth F.width).extractLsb' (F.width - 8 - 8 * k) 8) ∧
      exec (.bswap f) s = .next (frontEnds f v s1 s1.passed (dstVal s1.passed f.d (ext F r)) 0)))

/-- R116, R118, R119, R120, R121: SEL, MOV.k, CMP, LEA and the predicate instructions end with the result in their destination. -/
def Obligations.SelectMoveCompareResults : Prop :=
  (∀ (f : Fields) (s s1 : State) (v : Vals) (F : Fmt), fieldFmt f = some F → FrontRuns (.sel f) f (some F) s s1 v →
    exec (.sel f) s = .next (frontEnds f v s1 s1.passed
      (dstVal s1.passed f.d (ext F (if v.c.getLsbD 0 then v.a.setWidth F.width else v.b.setWidth F.width))) 0)) ∧
  (∀ (f : Fields) (s s1 : State) (v : Vals), FrontRuns (.movK f) f none s s1 v →
    exec (.movK f) s = .next (frontEnds f v s1 s1.passed (dstVal s1.passed f.d
      ((v.d &&& ~~~(0xFFFF#64 <<< (16 * f.sub.toNat))) ||| ((v.a &&& 0xFFFF) <<< (16 * f.sub.toNat)))) 0)) ∧
  (∀ (f : Fields) (s s1 : State) (v : Vals) (F : Fmt), fieldFmt f = some F → FrontRuns (.cmp f) f (some F) s s1 v →
    exec (.cmp f) s = .next (frontEnds f v s1 s1.passed (dstVal s1.passed f.d
      (bit (condOf f.sub.toNat F.width (v.a.setWidth F.width) (v.b.setWidth F.width)))) 0)) ∧
  (∀ (f : Fields) (s s1 : State) (v : Vals), FrontRuns (.lea f) f (fieldFmt f) s s1 v →
    exec (.lea f) s = .next (frontEnds f v s1 s1.passed (dstVal s1.passed f.d (v.a + (v.b <<< f.sub.toNat) + v.c)) 0)) ∧
  (∀ (f : Fields) (s s1 : State) (v : Vals), FrontRuns (.pand f) f none s s1 v →
    exec (.pand f) s = .next (frontEnds f v s1 s1.passed (dstVal s1.passed f.d (bit (v.a.getLsbD 0 && v.b.getLsbD 0))) 0)) ∧
  (∀ (f : Fields) (s s1 : State) (v : Vals), FrontRuns (.por f) f none s s1 v →
    exec (.por f) s = .next (frontEnds f v s1 s1.passed (dstVal s1.passed f.d (bit (v.a.getLsbD 0 || v.b.getLsbD 0))) 0)) ∧
  (∀ (f : Fields) (s s1 : State) (v : Vals), FrontRuns (.pxor f) f none s s1 v →
    exec (.pxor f) s = .next (frontEnds f v s1 s1.passed (dstVal s1.passed f.d (bit (v.a.getLsbD 0 ^^ v.b.getLsbD 0))) 0)) ∧
  (∀ (f : Fields) (s s1 : State) (v : Vals), FrontRuns (.pnot f) f none s s1 v →
    exec (.pnot f) s = .next (frontEnds f v s1 s1.passed (dstVal s1.passed f.d (bit (!v.a.getLsbD 0))) 0))

/-- R122 to R124: the scalar floating-point instructions round once under the mode in effect, write the result to the low bits of D with
zeros above (SFCVT to an integer format: extended), and raise the flags of the rounding; SFCMP raises none. -/
def Obligations.ScalarFloatResults : Prop :=
  (∀ (f : Fields) (s s1 : State) (v : Vals) (F : Fmt), fieldFmt f = some F → FrontRuns (.sfadd f) f (some F) s s1 v →
    let m := frontMode f s1
    let r := deliverFloat F m [sval F v.a, sval F v.b] (XReal.add (m == .rdn) (sval F v.a) (sval F v.b))
    exec (.sfadd f) s = .next (frontEnds f v s1 s1.passed (dstVal s1.passed f.d (BitVec.ofNat 64 r.1)) r.2)) ∧
  (∀ (f : Fields) (s s1 : State) (v : Vals) (F : Fmt), fieldFmt f = some F → FrontRuns (.sfmul f) f (some F) s s1 v →
    let r := deliverFloat F (frontMode f s1) [sval F v.a, sval F v.b] (XReal.mul (sval F v.a) (sval F v.b))
    exec (.sfmul f) s = .next (frontEnds f v s1 s1.passed (dstVal s1.passed f.d (BitVec.ofNat 64 r.1)) r.2)) ∧
  (∀ (f : Fields) (s s1 : State) (v : Vals) (F : Fmt), fieldFmt f = some F → FrontRuns (.sffma f) f (some F) s s1 v →
    let r := fusedAdd F (frontMode f s1) (sval F v.a) (sval F v.b) (sval F v.c)
    exec (.sffma f) s = .next (frontEnds f v s1 s1.passed (dstVal s1.passed f.d (BitVec.ofNat 64 r.1)) r.2)) ∧
  (∀ (f : Fields) (s s1 : State) (v : Vals) (F G : Fmt), fieldFmt f = some F → subFmt f = some G → FrontRuns (.sfcvt f) f (some F) s s1 v →
    let r := F.convert (frontMode f s1) true (sval G v.a)
    exec (.sfcvt f) s = .next (frontEnds f v s1 s1.passed
      (dstVal s1.passed f.d (if F.isInt then ext F (BitVec.ofNat F.width r.1) else BitVec.ofNat 64 r.1)) r.2)) ∧
  (∀ (f : Fields) (s s1 : State) (v : Vals) (F : Fmt), fieldFmt f = some F → FrontRuns (.sfcmp f) f (some F) s s1 v →
    exec (.sfcmp f) s = .next (frontEnds f v s1 s1.passed (dstVal s1.passed f.d (bit (condFloat f.sub.toNat (sval F v.a) (sval F v.b)))) 0))

/-! ## Control and system instructions -/

/-- R125 to R128: where each control instruction continues, what CALL and LOOP write, and what YIELD and HALT do to the front. The model's
own choices in it: how long a YIELD stays out (log 30). -/
def Obligations.ControlInstructions : Prop :=
  (∀ (f : Fields) (s s1 : State) (v : Vals), FrontRuns (.jmp f) f none s s1 v →
    exec (.jmp f) s = .next (s1.passed.goTo (s.me.pc + v.e))) ∧
  (∀ (f : Fields) (s s1 : State) (v : Vals) (F : Fmt), fieldFmt f = some F → FrontRuns (.br f) f (some F) s s1 v →
    exec (.br f) s = .next (if condOf f.sub.toNat F.width (v.a.setWidth F.width) (v.b.setWidth F.width)
      then s1.passed.goTo (s.me.pc + v.e) else s1.passed)) ∧
  (∀ (f : Fields) (s s1 : State) (v : Vals), FrontRuns (.jidx f) f (fieldFmt f) s s1 v →
    exec (.jidx f) s = .next (s1.passed.goTo (v.a + v.b))) ∧
  (∀ (f : Fields) (s s1 : State) (v : Vals), FrontRuns (.call f) f none s s1 v →
    exec (.call f) s = .next (frontEnds f v s1 (s1.passed.goTo (s.me.pc + v.e)) (dstVal s1.passed f.d (s.me.pc + 1)) 0)) ∧
  (∀ (f : Fields) (s s1 : State) (v : Vals), FrontRuns (.ret f) f none s s1 v →
    exec (.ret f) s = .next (s1.passed.goTo v.a)) ∧
  (∀ (f : Fields) (s s1 : State) (v : Vals), FrontRuns (.loop f) f none s s1 v →
    exec (.loop f) s = .next (
      if v.d = 0 then s1.passed
      else if v.d = 1 then frontEnds f v s1 s1.passed (dstVal s1.passed f.d 0) 0
      else frontEnds f v s1 (s1.passed.goTo (s.me.pc + v.e)) (dstVal s1.passed f.d (v.d - 1)) 0)) ∧
  (∀ (f : Fields) (s s1 : State) (v : Vals), FrontRuns (.nop f) f none s s1 v → exec (.nop f) s = .next s1.passed) ∧
  (∀ (f : Fields) (s s1 : State) (v : Vals), FrontRuns (.yield f) f none s s1 v →
    exec (.yield f) s = .next (s1.passed.setMe { s1.passed.me with
      yieldUntil := s1.cycle + 4, yieldTo := s1.passed.othersReady })) ∧
  (∀ (f : Fields) (s s1 : State) (v : Vals), FrontRuns (.halt f) f none s s1 v →
    exec (.halt f) s = .next (s1.passed.setMe { s1.passed.me with halting := true }))

/-- R73, R76, R129, R57, R168, R241 to R245: reads and writes of the system registers, the shape, the deadline and the user-interrupt
instructions. A CSRW of a register that is read-only changes nothing but the pc. -/
def Obligations.SystemRegisterInstructions : Prop :=
  (∀ (f : Fields) (s s1 : State) (v : Vals), FrontRuns (.csrr f) f none s s1 v →
    exec (.csrr f) s = .next (frontEnds f v s1
      (if v.a = 0x061 then s1.passed.setMe { s1.passed.me with ptps := some (BitVec.ofNat 48 s1.sec) } else s1.passed)
      (dstVal s1.passed f.d (s1.passed.readCsr v.a.toNat)) 0)) ∧
  (∀ (f : Fields) (s s1 : State) (v : Vals) (n : BitVec 12), f.d = .y n → FrontRuns (.csrw f) f (fieldFmt f) s s1 v →
    (n = 0x000 → shapeOk (fld v.a 0 7) (fld v.a 8 8 + 1) (fld v.a 16 5) = true → exec (.csrw f) s =
      .next (s1.passed.setMe { s1.passed.me with shp := shpWord (fld v.a 0 7) (fld v.a 8 8 + 1) (fld v.a 16 5) })) ∧
    (n = 0x001 → exec (.csrw f) s = .next (s1.passed.setMe { s1.passed.me with flg := v.a.setWidth 6 })) ∧
    (n = 0x002 → (v.a.setWidth 3).toNat < 5 → exec (.csrw f) s = .next (s1.passed.setMe { s1.passed.me with rmode := v.a.setWidth 3 })) ∧
    (n = 0x050 → exec (.csrw f) s = .next (s1.passed.setMe { s1.passed.me with uiv := v.a })) ∧
    (n = 0x051 → exec (.csrw f) s = .next (s1.passed.setMe { s1.passed.me with
      uisCause := s1.passed.me.uisCause &&& ~~~(v.a.setWidth 4), uisMask := v.a.extractLsb' 8 4, uisEn := v.a.getLsbD 16 })) ∧
    (0x070 ≤ n.toNat → n.toNat ≤ 0x077 → exec (.csrw f) s = .next (s1.passed.writeCwb (n.toNat - 0x070) v.a)) ∧
    (n ∈ [0x010#12, 0x011, 0x012, 0x013, 0x014, 0x015, 0x020, 0x021, 0x022, 0x030, 0x031, 0x040, 0x041, 0x060, 0x061, 0x062] →
      exec (.csrw f) s = .next s1.passed)) ∧
  (∀ (f : Fields) (s s1 : State) (v : Vals), FrontRuns (.vshp f) f none s s1 v → shapeOk v.a.toNat v.b.toNat f.fmt.toNat = true →
    exec (.vshp f) s = .next (s1.passed.setMe { s1.passed.me with shp := shpWord v.a.toNat v.b.toNat f.fmt.toNat })) ∧
  (∀ (f : Fields) (s s1 : State) (v : Vals), FrontRuns (.dlget f) f none s s1 v →
    exec (.dlget f) s = .next (frontEnds f v s1 s1.passed (dstVal s1.passed f.d
      (if f.sub = 0 then s1.passed.remaining s1.cur else if f.sub = 1 then s1.passed.slack s1.cur
        else BitVec.ofNat 64 (s1.passed.budgetLeft s1.cur))) 0)) ∧
  (∀ (f : Fields) (s s1 : State) (v : Vals), FrontRuns (.wuset f) f none s s1 v →
    exec (.wuset f) s = .next (s1.passed.setMe { s1.passed.me with wue := v.a.setWidth 32, wub := v.b.setWidth 25 })) ∧
  (∀ (f : Fields) (s s1 : State) (v : Vals), FrontRuns (.dlarm f) f none s s1 v →
    (s1.me.st = .wrap → exec (.dlarm f) s = .next (frontEnds f v s1 s1.passed (dstVal s1.passed f.d 0) 0)) ∧
    (s1.me.st ≠ .wrap → v.a = 0 → exec (.dlarm f) s =
      .next (frontEnds f v s1 (s1.passed.setMe { s1.passed.me with sub := none }) (dstVal s1.passed f.d 1) 0)) ∧
    (s1.me.st ≠ .wrap → v.a ≠ 0 → (∀ d, s1.me.launchDeadline = some d → s1.time + v.a.toNat < d) → exec (.dlarm f) s =
      .next (frontEnds f v s1 (s1.passed.setMe { s1.passed.me with sub := some (s1.time + v.a.toNat) }) (dstVal s1.passed f.d 1) 0)) ∧
    (s1.me.st ≠ .wrap → v.a ≠ 0 → (∃ d, s1.me.launchDeadline = some d ∧ d ≤ s1.time + v.a.toNat) → exec (.dlarm f) s =
      .next (frontEnds f v s1 s1.passed (dstVal s1.passed f.d 0) 0))) ∧
  (∀ (f : Fields) (s s1 : State) (v : Vals), FrontRuns (.uien f) f none s s1 v →
    exec (.uien f) s = .next (s1.passed.setMe { s1.passed.me with uisEn := v.a.getLsbD 0 })) ∧
  (∀ (f : Fields) (s s1 : State) (v : Vals), FrontRuns (.uimask f) f none s s1 v →
    exec (.uimask f) s = .next (s1.passed.setMe { s1.passed.me with
      uisMask := if f.sub = 0 then v.a.setWidth 4 else if f.sub = 1 then s1.me.uisMask ||| v.a.setWidth 4
        else s1.me.uisMask &&& ~~~(v.a.setWidth 4) })) ∧
  (∀ (f : Fields) (s s1 : State) (v : Vals), FrontRuns (.uiret f) f none s s1 v → s1.me.uisInh = true →
    exec (.uiret f) s = .next (s1.passed.setMe { s1.passed.me with uisInh := false, pc := s1.passed.me.readS s1.cycle (s1.fv + 12) 63 }))

/-- R130 to R134: TRAP takes the trap SOFTWARE with its operand in TRI; SYSCALL posts its request and stops the strand once earlier work
has performed; ERET resumes a stopped strand and says whether there was one; WFE ends at once where the event bit is set, else waits at
the front; TLBI removes what its SUB names from every translation cache of its scope. A SYSCALL that finds earlier work unfinished waits
at the front. R132, R261: where the strand that an ERET resumes goes on, that its trap record stays, and that a head which the save area
marks cancelled leaves its queue with its pending bits. The model's own choices in it: the pc of TRAP (log 32), when SYSCALL posts (log
33) and the cancel marks (log 9). -/
def Obligations.TrapSyscallEretWfeTlbi : Prop :=
  (∀ (f : Fields) (s s1 : State) (v : Vals), FrontRuns (.trap f) f (fieldFmt f) s s1 v →
    exec (.trap f) s = .next (s1.raiseTrap s1.cur { code := .software, eng := 0, pos := s.me.pc, word := some (v.a.setWidth 32) })) ∧
  (∀ (f : Fields) (s s1 : State) (v : Vals), FrontRuns (.syscall f) f (fieldFmt f) s s1 v →
    s1.passed.drained s1.cur = true →
    ∃ t, exec (.syscall f) s = .next t ∧ t.me = { s1.passed.me with st := .sysw, saved := s1.me.st, calling := none } ∧
      t.outputs = s1.outputs ++ [.syscall (s1.stid s1.cur) s1.me.lnch s.me.pc (v.a.setWidth 32)
        ((List.range 8).map (fun k => s1.me.getS (s1.me.physS (3 + k))))]) ∧
  (∀ (f : Fields) (s s1 : State) (v : Vals), FrontRuns (.syscall f) f (fieldFmt f) s s1 v → s1.passed.drained s1.cur = false →
    exec (.syscall f) s = .next (s1.setMe { s1.me with calling := some (.syscall (v.a.setWidth 32)) })) ∧
  (∀ (f : Fields) (s s1 : State) (v : Vals), FrontRuns (.eret f) f (fieldFmt f) s s1 v →
    (v.a.toNat < 256 ∧ ((s1.passed.strand v.a.toNat).st = .stop ∨ (s1.passed.strand v.a.toNat).st = .sysw) →
      exec (.eret f) s = .next (frontEnds f v s1 (s1.passed.eretResume v.a.toNat v.b v.c) (dstVal s1.passed f.d 1) 0)) ∧
    (v.a.toNat ≥ 256 ∨ ((s1.passed.strand v.a.toNat).st ≠ .stop ∧ (s1.passed.strand v.a.toNat).st ≠ .sysw) →
      exec (.eret f) s = .next (frontEnds f v s1 s1.passed (dstVal s1.passed f.d 0) 0))) ∧
  (∀ (f : Fields) (s s1 t : State) (v : Vals) (n : Nat), FrontRuns (.eret f) f (fieldFmt f) s s1 v → exec (.eret f) s = .next t →
    v.a.toNat = n → n < 256 → n ≠ s.cur → (s1.strand n).st = .stop ∨ (s1.strand n).st = .sysw →
    let a := s1.strand n
    let b := t.strand n
    b.pc = v.b ∧ b.trc = a.trc ∧ b.tri = a.tri ∧ b.trx = a.trx ∧
    b.st = (if a.saved = .wrap then .wrap else if (b.lq ++ b.sq).any (fun e => e.held.isSome) then .held else .run) ∧
    (a.st = .sysw → b.getS 3 = v.c) ∧ (∀ r < 128, a.st = .stop ∨ r ≠ 3 → b.getS r = a.getS r) ∧
    ((∀ q, s1.marked n (engOf q) = false) → b.lq = a.lq ∧ b.cq = a.cq ∧ b.sq = a.sq ∧ b.pending = a.pending) ∧
    (∀ q e, (a.queue q).head? = some e → s1.marked n (engOf q) = true → (∀ p, p ≠ q → s1.marked n (engOf p) = false) →
      b.lq = a.lq.filter (fun x => x.seq != e.seq) ∧ b.cq = a.cq.filter (fun x => x.seq != e.seq) ∧
      b.sq = a.sq.filter (fun x => x.seq != e.seq) ∧ b.pending = a.pending.filter (fun d => !(e.dsts.contains d)))) ∧
  (∀ (f : Fields) (s s1 : State) (v : Vals) (n : BitVec 3), f.d = .p n → FrontRuns (.wfe f) f (fieldFmt f) s s1 v →
    (s1.me.event = true → exec (.wfe f) s =
      .next (frontEnds f v s1 (s1.passed.setMe { s1.passed.me with event := false }) [(.p n.toNat, 1)] 0)) ∧
    (s1.me.event = false → exec (.wfe f) s = .next (s1.passed.setMe { s1.passed.me with
      wfe := some ⟨s1.cycle + (if v.a.setWidth 32 = 0#32 then 2 ^ 24 else (v.a.setWidth 32).toNat), n.toNat, latBound f.lat.toNat, s.me.pc⟩ }))) ∧
  (∀ (f : Fields) (s s1 : State) (v : Vals), FrontRuns (.tlbi f) f none s s1 v → (∀ x ∈ s1.quads, ∀ c ∈ x.2.q, c.outs = [] ∧ c.furl = []) →
    ∃ t, exec (.tlbi f) s = .next t ∧
      (∀ e ∈ t.tlb, e ∈ s1.tlb) ∧
      (∀ e ∈ s1.tlb, e.unit ≠ s1.myCore → e.unit ≠ quadUnit s1.myCore → f.scp ≠ 4 → e ∈ t.tlb) ∧
      (∀ e ∈ t.tlb, e.unit = s1.myCore ∨ e.unit = quadUnit s1.myCore ∨ f.scp = 4 → f.sub ≠ 3 ∧ (f.sub = 0 → e.pasid ≠ s1.me.pasid) ∧
        (f.sub = 1 → ¬(e.pasid = s1.me.pasid ∧ e.base ≤ v.a.toNat ∧ v.a.toNat < e.base + e.size))))

/-! ## Queues -/

/-- R99, R100, R59, R71, R86, R248: a queue instruction that the front takes enters its queue with everything sampled (both queues for an
L+S instruction), its class-V destinations become pending, and the front goes on. Its own effect follows when it issues. -/
def Obligations.QueueInstructionsEnterTheirQueue : Prop :=
  ∀ op ∈ queueInstrs, ∀ (f : Fields) (s s1 : State) (sp : ISpec) (hs : Tab (BitVec 512)),
    ispec (op f) = some sp → frontTakes (op f) f s = true → s.readHandles s.cur (handlesOf (op f) f) = .ok (s1, hs) →
    let e := s1.entryOf (op f) f hs
    exec (op f) s = .next (s1.setMe (marked (entered s1.me sp.route e) sp e).advance)

/-! ## Memory instructions -/

/-- R137, R143, R267, R273 to R275: the loads by address deliver the bytes at va, extended; those of LDS and of an LDQ that is not 16-byte
aligned may still bind a later value (R266). LDB takes a stamped copy within its bound, or else, without PUSH, refetches the line; outside
every region it loads as LDS (an RRT of 0 has none, log 11). The model's own choices in it: whether a stamped copy is still there (log 2),
the region table (log 11), reads of another device (log 13), the known rounds that an acquire raises (log 36) and the hints keep and last
(log 99). -/
def Obligations.LoadsByAddress : Prop :=
  (∀ (f : Fields) (q : Queue) (sp : ISpec) (e : QEntry) (s s1 : State) (F : Fmt) (ps : List Piece) (bs : List Byte),
    fieldFmt f = some F → headTakes (.lds f) f q sp e s = true → Reads f s (eaOf f e) (F.width / 8) (F.width / 8) .read s1 ps bs →
    exec (.lds f) s = .next ((s1.mayRebind 0 F ps).perform q f sp .none e [loadValue F bs] 0)) ∧
  (∀ (f : Fields) (q : Queue) (sp : ISpec) (e : QEntry) (s s1 : State) (ps : List Piece) (bs : List Byte),
    headTakes (.ldq f) f q sp e s = true → Reads f s (eaOf f e) 16 8 .read s1 ps bs →
    exec (.ldq f) s = .next ((if (eaOf f e).toNat % 16 = 0 then s1
      else (s1.mayRebind 0 .int64 (slicePieces ps 0 8)).mayRebind 1 .int64 (slicePieces ps 8 8)).perform q f sp .none e [BitVec.ofNat 64 (leNat (bs.take 8)), BitVec.ofNat 64 (leNat (bs.drop 8))] 0)) ∧
  (∀ (f : Fields) (q : Queue) (sp : ISpec) (e : QEntry) (s s1 : State) (F : Fmt) (ps : List Piece) (bs : List Byte),
    fieldFmt f = some F → headTakes (.lda f) f q sp e s = true → Reads f s (eaOf f e) (F.width / 8) (F.width / 8) .read s1 ps bs →
    exec (.lda f) s = .next ((s1.acquireAt (pieceLocs ps) f.scp.toNat).perform q f sp .none e [loadValue F bs] 0)) ∧
  (∀ (f : Fields) (q : Queue) (sp : ISpec) (e : QEntry) (s s0 : State) (F : Fmt) (ps : List Piece),
    fieldFmt f = some F → headTakes (.ldb f) f q sp e s = true → Places s (eaOf f e) (F.width / 8) (F.width / 8) .read s0 ps →
    let t := ldbState s0 ps
    let g := t.readPieces t.myCore (t.cached (policyOf f.hint 0) ps)
    t.regionOf (eaOf f e) = none → g.poison = none → exec (.ldb f) s = .next (g.s.perform q f sp .none e [loadValue F g.bytes] 0)) ∧
  (∀ (f : Fields) (q : Queue) (sp : ISpec) (e : QEntry) (s s0 : State) (F : Fmt) (m : MemSpace) (off n size key : Nat)
      (ent : BitVec 128) (c : StampCopy),
    fieldFmt f = some F → headTakes (.ldb f) f q sp e s = true →
    Places s (eaOf f e) (F.width / 8) (F.width / 8) .read s0 [.mem m off n size] → m ≠ .bl → size ≠ 0 → policyOf f.hint 0 ≠ 3 →
    let t := ldbState s0 [.mem m off n size]
    let lead := t.leadOf t.myCore
    t.regionOf (eaOf f e) = some (key, ent) → (m = .il → t.inWindow off = false) →
    t.stampedCopy (t.l1Core t.myCore off) (lineKey m off) = some c →
    (t.knownRound lead key ent - c.stamp).toNat ≤ f.sub.toNat →
    exec (.ldb f) s = .next ((t.modCore lead (fun u => { u with known := tabPut u.known key (t.knownRound lead key ent) })).perform
      q f sp .none e [loadValue F (lineBytes c.data (off % 64) (F.width / 8))] 0)) ∧
  (∀ (f : Fields) (q : Queue) (sp : ISpec) (e : QEntry) (s s0 : State) (F : Fmt) (m : MemSpace) (off n size key : Nat)
      (ent : BitVec 128),
    fieldFmt f = some F → headTakes (.ldb f) f q sp e s = true →
    Places s (eaOf f e) (F.width / 8) (F.width / 8) .read s0 [.mem m off n size] → m ≠ .bl → size ≠ 0 → policyOf f.hint 0 ≠ 3 →
    let t := ldbState s0 [.mem m off n size]
    t.regionOf (eaOf f e) = some (key, ent) → (m = .il → t.inWindow off = false) →
    (match t.stampedCopy (t.l1Core t.myCore off) (lineKey m off) with
      | none => policyOf f.hint 0 = 0
      | some c => f.sub.toNat < (t.knownRound (t.leadOf t.myCore) key ent - c.stamp).toNat ∧ ent.getLsbD 1 = false) →
    let v := t.cxlRead m (off / 64 * 64) 64 64
    (v.readMem m (off / 64 * 64) 64).2.2 = false →
    ∃ u : State, u.strands = t.strands ∧ exec (.ldb f) s = .next (u.perform q f sp .none e [loadValue F (lineBytes
      (BitVec.ofNat 512 (leNat (v.physRead m (off / 64 * 64) 64))) (off % 64) (F.width / 8))] 0))

/-- R137, R143, R146, R158, R265 to R267: the stores by address write their bytes at va, at once or, one of STS or STQ, until the reply
comes; STREL, RADV and POISONCLR are releases there as well, after the strand's earlier stores; RADV advances the round of a valid region
by one. The model's own choices in it: stores to another device (log 13), the region table (log 11) and what happens before what (logs 36
and 70). -/
def Obligations.StoresByAddress : Prop :=
  (∀ (s : State) (bs : List Byte) (ps : List Piece), let t := s.flushFor ps
    s.store bs ps = t.writePieces t.myParty false bs ps ∨ s.store bs ps = t.modStrand s.cur (fun u => { u with late := u.late ++ [⟨ps, bs⟩] })) ∧
  (∀ (f : Fields) (q : Queue) (sp : ISpec) (e : QEntry) (s s1 : State) (F : Fmt) (ps : List Piece),
    fieldFmt f = some F → headTakes (.sts f) f q sp e s = true → Places s (eaOf f e) (F.width / 8) (F.width / 8) .write s1 ps →
    exec (.sts f) s = .next ((s1.store (leBytes (F.width / 8) e.c.toNat) (s1.cached (policyOf f.hint 0) ps)).perform q f sp .reply e [] 0)) ∧
  (∀ (f : Fields) (q : Queue) (sp : ISpec) (e : QEntry) (s s1 : State) (ps0 : List Piece),
    headTakes (.stq f) f q sp e s = true → Places s (eaOf f e) 16 8 .write s1 ps0 →
    let ps := s1.cached (policyOf f.hint 0) ps0
    exec (.stq f) s = .next ((if (eaOf f e).toNat % 16 = 0 then s1.store (leBytes 8 e.c.toNat ++ leBytes 8 e.d.toNat) ps
      else (s1.store (leBytes 8 e.c.toNat) (slicePieces ps 0 8)).store (leBytes 8 e.d.toNat) (slicePieces ps 8 8)).perform q f sp .reply e [] 0)) ∧
  (∀ (f : Fields) (q : Queue) (sp : ISpec) (e : QEntry) (s s1 : State) (F : Fmt) (ps : List Piece),
    fieldFmt f = some F → headTakes (.strel f) f q sp e s = true → Places s (eaOf f e) (F.width / 8) (F.width / 8) .write s1 ps →
    exec (.strel f) s = .next (((s1.flushLate.writePieces s1.myParty false (leBytes (F.width / 8) e.c.toNat)
      (s1.cached (policyOf f.hint 0) ps)).releaseAt (pieceLocs ps) f.scp.toNat).perform q f sp .reply e [] 0)) ∧
  (∀ (f : Fields) (q : Queue) (sp : ISpec) (e : QEntry) (s s1 : State) (ps : List Piece),
    headTakes (.poisonclr f) f q sp e s = true → Places s (eaOf f e) 64 64 .write s1 ps →
    exec (.poisonclr f) s = .next (((s1.flushLate.writePieces s1.myParty true (List.replicate 64 0) ps).releaseAt (pieceLocs ps)
      f.scp.toNat).perform q f sp .reply e [] 0)) ∧
  (∀ (f : Fields) (q : Queue) (sp : ISpec) (e : QEntry) (s : State) (ps : List Piece),
    headTakes (.radv f) f q sp e s = true → s.me.rrt ≠ 0 → s.regionPlace s.myCore (regionKey s.me e.a.toNat) = .ok ps →
    let g := (s.takeRegions s.myCore (regionKey s.me e.a.toNat)).readPieces s.myCore ps
    let round := slicePieces ps 12 4
    g.poison = none → regionValid (g.s.heldRegion s.myCore (regionKey s.me e.a.toNat)) = true → g.s.piecesFate true ps = none →
    exec (.radv f) s = .next (((g.s.flushLate.writePieces g.s.myParty false (leBytes 4 ((leNat (g.bytes.drop 12) + 1) % 2 ^ 32)) round).releaseAt
      (pieceLocs round) f.scp.toNat).perform q f sp .reply e [] 0))

/-- R147 to R149: an atomic reads its location and writes the new value as one access; its result is the old value, extended; where ACAS
does not match nothing is written; the roles of acquire and release change no memory. An atomic at the home of another device of the
league (R378) sends one message there; the old value, which its D takes, is a free value (log 21). The model's own choices in it: atomics
at another device (logs 13 and 21) and what happens before what (log 36). -/
def Obligations.AtomicResults : Prop :=
  (∀ op ∈ intAtomics, ∀ (f : Fields) (q : Queue) (sp : ISpec) (e : QEntry) (s s1 : State) (F : Fmt) (ps : List Piece) (bs : List Byte),
    fieldFmt f = some F → headTakes (op.1 f) f q sp e s = true → AtomicReads f e F s s1 ps bs →
    let m := BitVec.ofNat F.width (leNat bs)
    ∃ t : State, exec (op.1 f) s = .next (t.perform q f sp .reply e [ext F m] 0) ∧
      (∀ r, op.2 F m (dataBits F f.c e.c) (dataBits F f.e e.e) = some r →
        SameMemory (s1.writePieces s1.myParty false (leBytes (F.width / 8) r.toNat) ps) t) ∧
      (op.2 F m (dataBits F f.c e.c) (dataBits F f.e e.e) = none → SameMemory s1 t)) ∧
  (∀ op ∈ floatAtomics, ∀ (f : Fields) (q : Queue) (sp : ISpec) (e : QEntry) (s s1 : State) (F : Fmt) (ps : List Piece) (bs : List Byte),
    fieldFmt f = some F → headTakes (op.1 f) f q sp e s = true → AtomicReads f e F s s1 ps bs →
    let a := F.value (leNat bs)
    let b := F.value (dataBits F f.c e.c).toNat
    let r := deliverFloat F .rne [a, b] (XReal.add false a b)
    ∃ t : State, exec (op.1 f) s = .next (t.perform q f sp .reply e [ext F (BitVec.ofNat F.width (leNat bs))] (if op.2 then 0 else r.2)) ∧
      SameMemory (s1.writePieces s1.myParty false (leBytes (F.width / 8) r.1) ps) t) ∧
  (∀ op ∈ intAtomics, ∀ (f : Fields) (q : Queue) (sp : ISpec) (e : QEntry) (s s0 : State) (F : Fmt) (ps : List Piece) (pos off n : Nat),
    fieldFmt f = some F → headTakes (op.1 f) f q sp e s = true → Places s (eaOf f e) (F.width / 8) (F.width / 8) .atomic s0 ps →
    s0.cached (policyOf f.hint 0) ps = [.remote pos off n] →
    let code := atomicCode (op.1 f)
    let v := (if f.sub.getLsbD 1 then s0.flushLate else s0.flushFor [.remote pos off n])
    let u := if f.sub.getLsbD 0 then v.acquireAt (pieceLocs [.remote pos off (F.width / 8)]) f.scp.toNat else v
    let m := BitVec.ofNat F.width (Config.freeWord (v.fv + 604)).toNat
    (0xB0 ≤ code ∨ Config.freeBool (v.fv + 610 + pos) = false) →
    let w := u.askWindow pos (fun tag => .atomic [(s0.lgPos.toNat, tag)] s0.cur off code f.fmt.toNat ((dataBits F f.c e.c).setWidth 64)
      ((dataBits F f.e e.e).setWidth 64) (decide (0xB0 ≤ code) || (decide (code ≤ 0xA7) && e.dsts.isEmpty && f.sub == 0)))
    let t := if f.sub.getLsbD 1 && (op.2 F m (dataBits F f.c e.c) (dataBits F f.e e.e)).isSome then
      w.releaseAt (pieceLocs [.remote pos off (F.width / 8)]) f.scp.toNat else w
    exec (op.1 f) s = .next (t.perform q f sp .reply e (if e.dsts = [] then [] else [ext F m]) 0))

/-! ## Synchronising through local memory -/

/-- R145, R150: LDFE takes the data of a full word and leaves it empty; STFF fills an empty one; FEQ reads the full bit; FESET sets it;
SEMWAIT takes from a count that is large enough; SEMPOST adds, saturating at 2^32 − 1. The model's own choices in it: which permissions an
operation needs and what its alignment is (log 76), and the releases that a word keeps (log 36). -/
def Obligations.FullEmptyAndSemaphores : Prop :=
  (∀ (f : Fields) (q : Queue) (sp : ISpec) (e : QEntry) (s s1 : State) (core off : Nat),
    headTakes (.ldfe f) f q sp e s = true → LmReads f e 4 0 4 true false s s1 core off → s1.isFull core (off / 4) = true →
    exec (.ldfe f) s = .next (((s1.setFull core (off / 4) false).acquireRec core off f.scp.toNat everyTag everyTag).perform q f sp .none e
      [BitVec.ofNat 64 (s1.lmWord core off)] 0)) ∧
  (∀ (f : Fields) (q : Queue) (sp : ISpec) (e : QEntry) (s s1 : State) (core off : Nat),
    headTakes (.stff f) f q sp e s = true → LmReads f e 4 0 4 false true s s1 core off → s1.isFull core (off / 4) = false →
    exec (.stff f) s = .next ((((s1.lmPut core off 4 (dataVal .uint32 f.e e.e).toNat).setFull core (off / 4) true).releaseRec
      core off 0 f.scp.toNat 0 everyTag).perform q f sp .hold e [] 0)) ∧
  (∀ (f : Fields) (q : Queue) (sp : ISpec) (e : QEntry) (s s1 : State) (core off : Nat),
    headTakes (.feq f) f q sp e s = true → LmReads f e 4 0 4 true false s s1 core off →
    exec (.feq f) s = .next (s1.perform q f sp .none e [bit (s1.isFull core (off / 4))] 0)) ∧
  (∀ (f : Fields) (q : Queue) (sp : ISpec) (e : QEntry) (s : State) (core off : Nat),
    headTakes (.feset f) f q sp e s = true →
    s.lmOperand (e.entry f.a) (offVal f.b e.b) (selOf f e) 4 4 false true = .ok core off →
    exec (.feset f) s = .next ((((s.takeLm core off 4).setFull core (off / 4) (f.sub == 1)).dropRels (lmKey core off) everyTag).perform
      q f sp .hold e [] 0)) ∧
  (∀ (f : Fields) (q : Queue) (sp : ISpec) (e : QEntry) (s s1 : State) (core off : Nat),
    headTakes (.semwait f) f q sp e s = true → LmReads f e 4 0 4 true true s s1 core off → lowE f e ≤ s1.lmWord core off →
    exec (.semwait f) s = .next (((s1.lmPut core off 4 (s1.lmWord core off - lowE f e)).acquireRec core off f.scp.toNat everyTag
      (fun _ => lowE f e == s1.lmWord core off)).perform q f sp .none e [] 0)) ∧
  (∀ (f : Fields) (q : Queue) (sp : ISpec) (e : QEntry) (s s1 : State) (core off : Nat),
    headTakes (.sempost f) f q sp e s = true → LmReads f e 4 0 4 true true s s1 core off →
    exec (.sempost f) s = .next (((s1.lmPut core off 4 (min (s1.lmWord core off + lowE f e) (2 ^ 32 - 1))).releaseRec core off 4
      f.scp.toNat 0 noTag).perform q f sp .reply e [] 0))

/-- R151, R152: on a sound ring descriptor, SRACQ takes the next EMPTY slot to FILLING, SRPUB a FILLING one to FULL, SRTAKE the next FULL
one to DRAINING, SRREL a DRAINING one to EMPTY, with the counts and positions of R152. R153, R154: BARINIT starts a record whose last
phase is over; BARARR arrives and gives the phase; BAREXP adds to PEND; both end with the completion test; BARWAIT ends and BARTEST
answers TRUE, as acquires, once the phase differs. The model's own choices in it: which permissions an operation needs and what its
alignment is (log 76), and the releases of each slot and phase (log 36). -/
def Obligations.RingsAndBarriers : Prop :=
  ((∀ (f : Fields) (q : Queue) (sp : ISpec) (e : QEntry) (s s1 : State) (core off : Nat),
    headTakes (.sracq f) f q sp e s = true → LmReads f e 64 0 64 true true s s1 core off →
    let r := s1.lmRecord core off 64
    let i := fld r 128 32 % srN r
    srBad r = false → srState r i = 0 →
    let r1 := setFld (addFld (setFld r (192 + 2 * i) 2 1) 64 (-1)) 128 32 ((fld r 128 32 + 1) % (srN r * 2 ^ 26))
    exec (.sracq f) s = .next (((s1.putRecord core off 64 r1).acquireRec core off f.scp.toNat (· == 2 * i + 1) noTag).perform q f sp .none e [srWord r i] 0)) ∧
  (∀ (f : Fields) (q : Queue) (sp : ISpec) (e : QEntry) (s s1 : State) (core off : Nat),
    headTakes (.srpub f) f q sp e s = true → LmReads f e 64 0 64 true true s s1 core off →
    let r := s1.lmRecord core off 64
    srBad r = false → e.e.toNat < srN r → srState r e.e.toNat = 1 →
    exec (.srpub f) s = .next (((s1.putRecord core off 64 (addFld (setFld r (192 + 2 * e.e.toNat) 2 2) 96 1)).releaseRec core off 64
      f.scp.toNat (2 * e.e.toNat) (· == 2 * e.e.toNat)).perform q f sp .hold e [] 0)) ∧
  (∀ (f : Fields) (q : Queue) (sp : ISpec) (e : QEntry) (s s1 : State) (core off : Nat),
    headTakes (.srtake f) f q sp e s = true → LmReads f e 64 0 64 true true s s1 core off →
    let r := s1.lmRecord core off 64
    let i := fld r 160 32 % srN r
    srBad r = false → srState r i = 2 →
    let r1 := setFld (addFld (setFld r (192 + 2 * i) 2 3) 96 (-1)) 160 32 ((fld r 160 32 + 1) % (srN r * 2 ^ 26))
    exec (.srtake f) s = .next (((s1.putRecord core off 64 r1).acquireRec core off f.scp.toNat (· == 2 * i) noTag).perform q f sp .none e [srWord r i] 0)) ∧
  (∀ (f : Fields) (q : Queue) (sp : ISpec) (e : QEntry) (s s1 : State) (core off : Nat),
    headTakes (.srrel f) f q sp e s = true → LmReads f e 64 0 64 true true s s1 core off →
    let r := s1.lmRecord core off 64
    srBad r = false → e.e.toNat < srN r → srState r e.e.toNat = 3 →
    exec (.srrel f) s = .next (((s1.putRecord core off 64 (addFld (setFld r (192 + 2 * e.e.toNat) 2 0) 64 1)).releaseRec core off 64
      f.scp.toNat (2 * e.e.toNat + 1) (· == 2 * e.e.toNat + 1)).perform q f sp .hold e [] 0))) ∧
  ((∀ (f : Fields) (q : Queue) (sp : ISpec) (e : QEntry) (s s1 : State) (core off : Nat),
    headTakes (.barinit f) f q sp e s = true → LmReads f e 32 8 8 false true s s1 core off →
    let r := s1.lmRecord core off 32
    barPend r = 0 → e.e.setWidth 32 ≠ 0 →
    exec (.barinit f) s = .next (((s1.putWords core off (setFld (setFld (setFld (setFld (setFld r 0 32 (e.e.setWidth 32).toNat) 32 32 0)
      128 32 0) 160 48 0) 208 3 0) [0, 1, 4, 5, 6]).dropRels (lmKey core off) everyTag).perform q f sp .hold e [] 0)) ∧
  (∀ (f : Fields) (q : Queue) (sp : ISpec) (e : QEntry) (s s1 : State) (core off : Nat),
    headTakes (.bararr f) f q sp e s = true → LmReads f e 32 0 20 true true s s1 core off →
    let r := s1.lmRecord core off 32
    barArr r ≠ barExpect r →
    exec (.bararr f) s = .next (((s1.putWords core off (barTest (setFld r 32 32 (barArr r + 1))) [1, 4]).releaseRec core off 32 4 (barPhase r) noTag).perform
      q f sp .hold e [BitVec.ofNat 64 (barPhase r)] 0)) ∧
  (∀ (f : Fields) (q : Queue) (sp : ISpec) (e : QEntry) (s s1 : State) (core off : Nat),
    headTakes (.barexp f) f q sp e s = true → LmReads f e 32 0 20 true true s s1 core off →
    let r := s1.lmRecord core off 32
    exec (.barexp f) s = .next ((s1.putWords core off (barTest (setFld r 64 48 (barPend r + (e.e.setWidth 48).toNat))) [1, 2, 3, 4]).perform
      q f sp .hold e [] 0)) ∧
  (∀ (f : Fields) (q : Queue) (sp : ISpec) (e : QEntry) (s s1 : State) (core off : Nat),
    headTakes (.barwait f) f q sp e s = true → LmReads f e 32 16 4 true false s s1 core off →
    barPhase (s1.lmRecord core off 32) ≠ (e.e.setWidth 32).toNat →
    exec (.barwait f) s = .next ((s1.acquireRec core off 4 (phaseTag (e.e.setWidth 32).toNat) noTag).perform q f sp .none e [] 0)) ∧
  (∀ (f : Fields) (q : Queue) (sp : ISpec) (e : QEntry) (s s1 : State) (core off : Nat),
    headTakes (.bartest f) f q sp e s = true → LmReads f e 32 16 4 true false s s1 core off →
    (barPhase (s1.lmRecord core off 32) ≠ (e.e.setWidth 32).toNat →
      exec (.bartest f) s = .next ((s1.acquireRec core off 4 (phaseTag (e.e.setWidth 32).toNat) noTag).perform q f sp .none e [1] 0)) ∧
    (barPhase (s1.lmRecord core off 32) = (e.e.setWidth 32).toNat → exec (.bartest f) s = .next (s1.perform q f sp .none e [0] 0))))

/-- R146, R155, R271, R278, R340: MARK and FENCE end once both queues are quiet; FENCE.mem also writes the dirty lines of its range back;
PUBX publishes the lines it may and removes their fetch copies within its scope, and traps where the context's executable pages would
exceed QGEN (R340); QFENCE ends once the selected engine queues hold no earlier operation of the strand. R232 to R234: BGFENCE ends once
the memory commands it selects have performed, and writes the dirty lines of its scope back; BGBAR.hold makes a hold on its handle's
furlongs once no command that was accepted when it first issued, or that has started, reads them; BGBAR.rel ends the hold of the same
handle; BGSTAT reads an error count of a die or the length of a queue. The model's own choices in it: when accesses perform (log 10), a
line's home slice (log 15), the translation of BGBAR (log 44), PUBX's timer (log 77), the pages that a licence counts (log 97) and what
happens before what (log 36). -/
def Obligations.OrderingInstructions : Prop :=
  ((∀ (f : Fields) (q : Queue) (sp : ISpec) (e : QEntry) (s : State), headTakes (.mark f) f q sp e s = true →
    exec (.mark f) s = .next ((s.orderQueues f.scp.toNat true true true).perform q f sp .none e [] 0)) ∧
  (∀ (f : Fields) (q : Queue) (sp : ISpec) (e : QEntry) (s : State), headTakes (.fence f) f q sp e s = true →
    exec (.fence f) s = .next ((s.orderQueues (if f.scp = 0 then 4 else f.scp.toNat) (fenceToS f.sub.toNat) (fenceToAtom f.sub.toNat) (fenceToL f.sub.toNat)).perform
      q f sp .none e [] 0)) ∧
  (∀ (f : Fields) (q : Queue) (sp : ISpec) (e : QEntry) (s : State), headTakes (.fenceMem f) f q sp e s = true →
    (e.b = 0 ∨ e.a.toNat + e.b.toNat ≤ 131072) →
    exec (.fenceMem f) s = .next (((s.orderQueues 4 true true true).writeBackRange e.a.toNat e.b.toNat).perform q f sp .none e [] 0)) ∧
  (∀ (f : Fields) (q : Queue) (sp : ISpec) (e : QEntry) (s : State), headTakes (.pubx f) f q sp e s = true → queueQuiet s.me .S = true →
    let gone := (s.ubits.filter s.publishes).map (·.line)
    let made := s.pagesMade gone
    let s1 : State := { s with
      ubits := s.ubits.filter (fun u => !(gone.contains u.line))
      rel := { s.rel with published := s.rel.published.filter (fun x => x.1 != s.me.pasid.toNat) ++ made } }
    exec (.pubx f) s = .next (if made.length ≤ fld (s.context s.me.pasid) 92 32 then (s1.mapCores (fun n c => if inScope f.scp.toNat s.myCore n then
      { c with icache := c.icache.filter (fun x => !(gone.contains x.1)) } else c)).perform q f sp .reply e [] 0
      else s.queueTrap q e .claimViolation 0 0)) ∧
  (∀ (f : Fields) (q : Queue) (sp : ISpec) (e : QEntry) (s : State), headTakes (.qfence f) f q sp e s = true →
    s.fencePending e.a.toNat e.seq = false → exec (.qfence f) s = .next
      ((s.seeEngines (if f.scp = 0 then 4 else f.scp.toNat) (e.a.getLsbD 0) (if e.a.getLsbD 1 then [quadOf s.myCore] else [])).perform q f sp .none e [] 0))) ∧
  ((∀ (f : Fields) (q : Queue) (sp : ISpec) (e : QEntry) (s : State), headTakes (.bgfence f) f q sp e s = true →
    s.memoryPending e.a.toNat e.seq = false →
    exec (.bgfence f) s = .next ((((s.dirtyOf (if f.scp = 0 then 4 else f.scp.toNat)).foldl (fun t l => t.flushDev l) s).seeEngines
      (if f.scp = 0 then 4 else f.scp.toNat) false ((List.range 4).filter (fun k => e.a.getLsbD k))).perform q f sp .none e [] 0)) ∧
  (∀ (f : Fields) (q : Queue) (sp : ISpec) (e : QEntry) (s : State) (fs : List Nat), headTakes (.bgbarHold f) f q sp e s = true →
    hCheck (e.entry f.a) (stripe (e.entry f.a)) false true = none → s.holds.length < 16 → s.coveredFurlongs (e.entry f.a) = .ok fs →
    (∀ x ∈ s.quads, ∀ c ∈ x.2.q, (c.accepted ≤ e.waiting.getD s.cycle ∨ c.started = true) → ∀ r ∈ s.cmdReads c, r ∉ fs) →
    exec (.bgbarHold f) s = .next (({ s with holds := s.holds ++ [⟨s.me.lnch, s.me.pasid, hBase (e.entry f.a), hLimit (e.entry f.a), fs⟩] } :
      State).perform q f sp .none e [] 0)) ∧
  (∀ (f : Fields) (q : Queue) (sp : ISpec) (e : QEntry) (s : State), headTakes (.bgbarRel f) f q sp e s = true →
    hCheck (e.entry f.a) (stripe (e.entry f.a)) false true = none →
    exec (.bgbarRel f) s = .next (({ s with holds := s.holds.filter (fun x =>
      !(x.pasid == s.me.pasid && x.base == hBase (e.entry f.a) && x.limit == hLimit (e.entry f.a))) } : State).perform q f sp .none e [] 0)) ∧
  (∀ (f : Fields) (q : Queue) (sp : ISpec) (e : QEntry) (s : State), headTakes (.bgstat f) f q sp e s = true →
    exec (.bgstat f) s = .next (s.perform q f sp .none e
      [if f.sub = 0 then (tabGet s.dieErr {} e.a.toNat).ce.setWidth 64 else if f.sub = 1 then (tabGet s.dieErr {} e.a.toNat).ue.setWidth 64
        else BitVec.ofNat 64 (s.quad e.a.toNat).q.length] 0)))

/-! ## Tiles and vectors -/

/-- R144, R25, R58, R61: LDV and LDG deliver every active element, converted to its container, and leave the others (of one that a later
instruction has written meanwhile, either result stays, R88); STV and STG write every active element, in row-major order. The model's own
choices in it: the packed start of a tile (log 12), the fill of a stored element (log 82). -/
def Obligations.TileLoadsAndStores : Prop :=
  (∀ (f : Fields) (q : Queue) (sp : ISpec) (e : QEntry) (s s1 : State) (F : Fmt) (d : Nat) (ps : List ElemAt),
    let at_ := s.activeElems f.e (shpRows e.shp) (shpCols e.shp)
    fieldFmt f = some F → headTakes (.ldv f) f q sp e s = true → e.dsts = [.v d] →
    s.tileChecks f e false false (at_.map (fun p => tileCoord f e p.1 p.2)) = .ok ps →
    tileReady f e (at_.map (fun p => tileCoord f e p.1 p.2)) ps s s1 →
    let g := (s1.bindFor (ps.flatMap (·.pieces))).readElems F.memBits ps
    g.1.poison = none →
    exec (.ldv f) s = .next ((g.1.s.writeTile s.myCore d F.regBytes (s1.metBy e d F.regBytes (scatterTo at_
      (g.2.map (memToReg F)) (shpRows e.shp) (shpCols e.shp)))).perform q f sp .none e [] 0)) ∧
  (∀ (f : Fields) (q : Queue) (sp : ISpec) (e : QEntry) (s s1 : State) (F : Fmt) (d : Nat) (ps : List ElemAt),
    let at_ := s.activeElems f.e (shpRows e.shp) (shpCols e.shp)
    fieldFmt f = some F → headTakes (.ldg f) f q sp e s = true → e.dsts = [.v d] →
    s.tileChecks f e false (f.sub == 0) (at_.map (fun p => s.gatherMap f e p.1 p.2)) = .ok ps →
    tileReady f e (at_.map (fun p => s.gatherMap f e p.1 p.2)) ps s s1 →
    let g := (s1.bindFor (ps.flatMap (·.pieces))).readElems F.memBits ps
    g.1.poison = none →
    exec (.ldg f) s = .next ((g.1.s.writeTile s.myCore d F.regBytes (s1.metBy e d F.regBytes (scatterTo at_
      (g.2.map (memToReg F)) (shpRows e.shp) (shpCols e.shp)))).perform q f sp .none e [] 0)) ∧
  (∀ (f : Fields) (q : Queue) (sp : ISpec) (e : QEntry) (s s1 : State) (F : Fmt) (ps : List ElemAt),
    let at_ := s.activeElems f.e (shpRows e.shp) (shpCols e.shp)
    fieldFmt f = some F → headTakes (.stv f) f q sp e s = true →
    s.tileChecks f e true false (at_.map (fun p => tileCoord f e p.1 p.2)) = .ok ps →
    tileReady f e (at_.map (fun p => tileCoord f e p.1 p.2)) ps s s1 →
    exec (.stv f) s = .next (((s1.writeElems F.memBits (ps.zip (at_.map (fun p =>
      regToMem F (((tileOf s1 e e.d F.regBytes)[p.1 * shpCols e.shp + p.2]?).getD 0))))).healWords F.memBits ps).perform q f sp .reply e [] 0)) ∧
  (∀ (f : Fields) (q : Queue) (sp : ISpec) (e : QEntry) (s s1 : State) (F : Fmt) (ps : List ElemAt),
    let at_ := s.activeElems f.e (shpRows e.shp) (shpCols e.shp)
    fieldFmt f = some F → headTakes (.stg f) f q sp e s = true →
    s.tileChecks f e true (f.sub == 0) (at_.map (fun p => s.gatherMap f e p.1 p.2)) = .ok ps →
    tileReady f e (at_.map (fun p => s.gatherMap f e p.1 p.2)) ps s s1 →
    exec (.stg f) s = .next (((s1.writeElems F.memBits (ps.zip (at_.map (fun p =>
      regToMem F (((tileOf s1 e e.d F.regBytes)[p.1 * shpCols e.shp + p.2]?).getD 0))))).healWords F.memBits ps).perform q f sp .reply e [] 0))

/-- R162, R43 and the rules of each instruction: an element-by-element vector instruction writes each active element with the result of
its operands' elements, keeps the others, and raises exactly the flags that some active element raises. R169, R170, R174: what one element
of the integer formats is: sums, differences and products wrap at the width (the fill of R25 above it); the smaller and larger are by
value; the logic and the shifts act on the low W bits. The model's own choices in it: the order in which writes that meet end (log 2), the
precision of a transcendental value (log 3), a conjugate of a NaN (log 38), bit copies (log 82), Invalid in a complex product (log 83). -/
def Obligations.ElementwiseVectorResults : Prop :=
  (∀ op ∈ elementOps, ∀ (f : Fields) (q : Queue) (sp : ISpec) (e : QEntry) (s s1 : State) (F : Fmt) (a b c : List Nat),
    fieldFmt f = some F → headTakes (op.1 f) f q sp e s = true → VecArgs f e (op.2.1 f) s s1 a b c →
    ∃ (vs : List (Option Nat)) (fl : Flags),
      exec (op.1 f) s = .next ((s1.writeTile s1.myCore (dstV e 0) F.regBytes vs).perform q f sp .none e [] fl) ∧
      (∀ (k x y z : Nat) (m : Bool), (s1.maskBits f.e (shpRows e.shp) (shpCols e.shp))[k]? = some m → a[k]? = some x → b[k]? = some y →
        (c)[k]? = some z → vs[k]? = some (if m then some (op.2.2 f e F x y z).1 else none)) ∧
      (∀ n, fl.getLsbD n = true ↔ ∃ k x y z : Nat, (s1.maskBits f.e (shpRows e.shp) (shpCols e.shp))[k]? = some true ∧ a[k]? = some x ∧
        b[k]? = some y ∧ (c)[k]? = some z ∧ (op.2.2 f e F x y z).2.getLsbD n = true)) ∧
  (∀ (F : Fmt) (m : RMode) (a b c : Nat), F ∈ Fmt.intv →
    let x := BitVec.ofNat F.width a
    let y := BitVec.ofNat F.width b
    let out (r : BitVec F.width) : Nat × Flags := (F.fill r.toNat, 0)
    vaddEl m false F a b c = out (x + y) ∧ vsubEl m false F a b c = out (x - y) ∧ vmulEl m false F a b c = out (x * y) ∧
    vnegEl false F a b c = out (-x) ∧ vabsEl false F a b c = (if F.isSigned then out x.abs else out x) ∧
    vandEl F a b c = out (x &&& y) ∧ vorEl F a b c = out (x ||| y) ∧ vxorEl F a b c = out (x ^^^ y) ∧ vnotEl F a b c = out (~~~x) ∧
    vshlEl F a b c = out (x <<< (y.toNat % F.width)) ∧ vshrEl F a b c = out (x >>> (y.toNat % F.width)) ∧
    vshraEl F a b c = out (x.sshiftRight (y.toNat % F.width)) ∧
    vminEl F a b c = out (if (if F.isSigned then x.sle y else decide (x ≤ y)) then x else y) ∧
    vmaxEl F a b c = out (if (if F.isSigned then x.sle y else decide (x ≤ y)) then y else x))

/-- R172 to R187: the vector instructions that compare, select, quantise, pack, scale, reduce, scan and move. Each clause gives the values
that the destination takes, by row and column. The model's own choices in it: the signedness of VCMP on UINT formats (log 87), bit copies
(log 82) and writes that meet (log 2). -/
def Obligations.VectorTileResults : Prop :=
  (∀ (f : Fields) (q : Queue) (sp : ISpec) (e : QEntry) (s s1 : State) (F : Fmt) (a b c : List Nat) (d : Nat),
    fieldFmt f = some F → headTakes (.vcmp f) f q sp e s = true → VecArgs f e F s s1 a b c → e.dsts = [.m d] →
    s1.me.inFlight s1.cycle (.m d) = false →
    let g := maskGroup (shpCols e.shp)
    let u := (List.range (shpRows e.shp)).foldl (fun u i => u.setK d i (maskRowOf (u.getK d i) (s1.allowRow f.e i)
      (groupBits (f.flags == 1) (shpCols e.shp) ((((a.zip b).map (fun p => vCond F f.sub.toNat p.1 p.2)).drop (i * shpCols e.shp)).take
        (shpCols e.shp))))) s1.me
    let written := maskRuns d ((List.range (shpRows e.shp)).map (fun i =>
      s1.allowRow f.e i &&& BitVec.ofNat 64 (2 ^ ((shpCols e.shp + g - 1) / g) - 1)))
    exec (.vcmp f) s = .next ((s1.setMe (u.noteRuns s1.actSeq written)).perform q f sp .none e [] 0)) ∧
  (∀ (f : Fields) (q : Queue) (sp : ISpec) (e : QEntry) (s s1 : State) (F : Fmt) (a b c : List Nat),
    fieldFmt f = some F → headTakes (.vsel f) f q sp e s = true → VecArgs { f with c := .none } e F s s1 a b c →
    ∃ vs : List (Option Nat), exec (.vsel f) s = .next ((s1.writeTile s1.myCore (dstV e 0) F.regBytes vs).perform q f sp .none e [] 0) ∧
      ∀ (k x y z : Nat) (p m : Bool), (s1.maskBits f.c (shpRows e.shp) (shpCols e.shp))[k]? = some p →
        (s1.maskBits f.e (shpRows e.shp) (shpCols e.shp))[k]? = some m → a[k]? = some x → b[k]? = some y → (c)[k]? = some z →
        vs[k]? = some (if m then some (if p then x else y) else none)) ∧
  (∀ (f : Fields) (q : Queue) (sp : ISpec) (e : QEntry) (s : State) (F : Fmt), fieldFmt f = some F → headTakes (.vqnt f) f q sp e s = true →
    let qs := (blocks32 (shpRows e.shp * shpCols e.shp / 32) (tileOf s e e.a (srcFmt f).regBytes)).map (fun l =>
      mxQuantise F (vMode f e) (l.map (srcFmt f).value))
    let s1 := s.writeTile s.myCore (dstV e 0) 1 (qs.flatMap (fun b => b.2.1.map some))
    exec (.vqnt f) s = .next ((s1.writeTile s1.myCore (dstV e 1) 1 (qs.map (fun b => some b.1))).perform q f sp .none e []
      (qs.foldl (fun a b => a ||| b.2.2) 0))) ∧
  (∀ (f : Fields) (q : Queue) (sp : ISpec) (e : QEntry) (s : State) (F : Fmt), fieldFmt f = some F → headTakes (.vdqnt f) f q sp e s = true →
    ∃ (vs : List (Option Nat)) (fl : Flags), exec (.vdqnt f) s =
        .next ((s.writeTile s.myCore (dstV e 0) F.regBytes vs).perform q f sp .none e [] fl) ∧
      (∀ (k x y : Nat) (m : Bool), (s.maskBits f.e (shpRows e.shp) (shpCols e.shp))[k]? = some m → (tileOf s e e.a 1)[k]? = some x →
        (s.tile s.cur e.b.toNat 1 (shpRows e.shp * shpCols e.shp / 32))[k / 32]? = some y →
        vs[k]? = some (if m then some (F.convert (vMode f e) true (mxValue (srcFmt f) y x)).1 else none)) ∧
      ∀ n, fl.getLsbD n = true ↔ ∃ k x y : Nat, (s.maskBits f.e (shpRows e.shp) (shpCols e.shp))[k]? = some true ∧ (tileOf s e e.a 1)[k]? = some x ∧
        (scaleBytes (shpRows e.shp * shpCols e.shp) (s.tile s.cur e.b.toNat 1 (shpRows e.shp * shpCols e.shp / 32)))[k]? = some y ∧
        (F.convert (vMode f e) true (mxValue (srcFmt f) y x)).2.getLsbD n = true) ∧
  (∀ w : Nat, ∀ op : Fields → Instr, (op, w) ∈ [(Instr.vpack6, 6), (Instr.vpack4, 4)] →
    ∀ (f : Fields) (q : Queue) (sp : ISpec) (e : QEntry) (s : State), headTakes (op f) f q sp e s = true →
    exec (op f) s = .next ((s.writeTile s.myCore (dstV e 0) 1 ((packBits w (streamBytes w (shpRows e.shp * shpCols e.shp))
      (tileOf s e e.a 1)).map some)).perform q f sp .none e [] 0)) ∧
  (∀ w : Nat, ∀ op : Fields → Instr, (op, w) ∈ [(Instr.vunpk6, 6), (Instr.vunpk4, 4)] →
    ∀ (f : Fields) (q : Queue) (sp : ISpec) (e : QEntry) (s : State) (F : Fmt), fieldFmt f = some F → headTakes (op f) f q sp e s = true →
    exec (op f) s = .next ((s.writeTile s.myCore (dstV e 0) 1 ((unpackBits w (shpRows e.shp * shpCols e.shp)
      (s.tile s.cur e.a.toNat 1 (streamBytes w (shpRows e.shp * shpCols e.shp)))).map (fun c => some (F.fill c % 256)))).perform
      q f sp .none e [] 0)) ∧
  (∀ (f : Fields) (q : Queue) (sp : ISpec) (e : QEntry) (s s1 : State) (F : Fmt) (a : List Nat), fieldFmt f = some F →
    headTakes (.vscale f) f q sp e s = true → s.vArg e (shpRows e.shp) (shpCols e.shp) (argA f e F) = .ok (s1, a) →
    ∃ (vs : List (Option Nat)) (fl : Flags), exec (.vscale f) s =
        .next ((s1.writeTile s1.myCore (dstV e 0) F.regBytes vs).perform q f sp .none e [] fl) ∧
      (f.sub = 0 → ∀ (k x : Nat) (y : Int) (m : Bool), (s1.maskBits f.e (shpRows e.shp) (shpCols e.shp))[k]? = some m → a[k]? = some x →
        (scaleExp F f.b e.b (tileOf s1 e e.b F.regBytes) (shpRows e.shp * shpCols e.shp))[k]? = some y →
        vs[k]? = some (if m then some (F.convert (vMode f e) false ((F.value x).scale y)).1 else none)) ∧
      (f.sub ≠ 0 → ∀ (k x y : Nat) (m : Bool), (s1.maskBits f.e (shpRows e.shp) (shpCols e.shp))[k]? = some m → a[k]? = some x →
        (scaleBytes (shpRows e.shp * shpCols e.shp) (s1.tile s1.cur e.b.toNat 1 (shpRows e.shp * shpCols e.shp / 32)))[k]? = some y →
        vs[k]? = some (if m then some (if y = 255 then F.qnan else
          (F.convert (vMode f e) false ((F.value x).scale ((y : Int) - 127))).1) else none)) ∧
      (f.sub = 0 → ∀ n, fl.getLsbD n = true ↔ ∃ (k x : Nat) (y : Int), (s1.maskBits f.e (shpRows e.shp) (shpCols e.shp))[k]? = some true ∧
        a[k]? = some x ∧ (scaleExp F f.b e.b (tileOf s1 e e.b F.regBytes) (shpRows e.shp * shpCols e.shp))[k]? = some y ∧
        (F.convert (vMode f e) false ((F.value x).scale y)).2.getLsbD n = true) ∧
      (f.sub ≠ 0 → ∀ n, fl.getLsbD n = true ↔ ∃ k x y : Nat, (s1.maskBits f.e (shpRows e.shp) (shpCols e.shp))[k]? = some true ∧
        a[k]? = some x ∧ (scaleBytes (shpRows e.shp * shpCols e.shp) (s1.tile s1.cur e.b.toNat 1 (shpRows e.shp * shpCols e.shp / 32)))[k]? = some y ∧
        y ≠ 255 ∧ (F.convert (vMode f e) false ((F.value x).scale ((y : Int) - 127))).2.getLsbD n = true)) ∧
  (∀ (f : Fields) (q : Queue) (sp : ISpec) (e : QEntry) (s : State) (F : Fmt), fieldFmt f = some F →
    let l := s.withMask f e
    let red (x : List (Bool × Nat)) : Option (Nat × Flags) := reduceList f.sub.toNat (vMode f e) (vSat f) F (activeOf x)
    let scan (x : List (Bool × Nat)) : List (Option (Nat × Flags)) := scanLine f e F x
    let ends (rs : List (Option (Nat × Flags))) : Out := .next ((intoTile s e F.regBytes rs).perform q f sp .none e [] (collect rs).2)
    (headTakes (.vredr f) f q sp e s = true → exec (.vredr f) s = ends ((List.range (shpRows e.shp)).flatMap (fun i =>
      red (rowOf l (shpCols e.shp) i) :: List.replicate (shpCols e.shp - 1) none))) ∧
    (headTakes (.vredc f) f q sp e s = true → exec (.vredc f) s = ends ((List.range (shpCols e.shp)).map (fun j =>
      red (colOf l (shpRows e.shp) (shpCols e.shp) j)))) ∧
    (headTakes (.vmaxr f) f q sp e s = true → exec (.vmaxr f) s = ends ((List.range (shpRows e.shp)).flatMap (fun i =>
      match rowMax F (rowOf l (shpCols e.shp) i) with
      | none => List.replicate (shpCols e.shp) none
      | some (m, j) => some (m, 0) :: some (j % 2 ^ (8 * F.regBytes), 0) :: List.replicate (shpCols e.shp - 2) none))) ∧
    (headTakes (.vscan f) f q sp e s = true → f.sub.getLsbD 2 = false → exec (.vscan f) s = ends ((List.range (shpRows e.shp)).flatMap (fun i =>
      scan (rowOf l (shpCols e.shp) i)))) ∧
    (headTakes (.vscan f) f q sp e s = true → f.sub.getLsbD 2 = true → exec (.vscan f) s = ends ((List.range (shpRows e.shp)).flatMap (fun i =>
      ((List.range (shpCols e.shp)).map (fun j => scan (colOf l (shpRows e.shp) (shpCols e.shp) j))).map (fun l => (l[i]?).getD none))))) ∧
  (∀ (f : Fields) (q : Queue) (sp : ISpec) (e : QEntry) (s : State) (F : Fmt), fieldFmt f = some F →
    let a := tileOf s e e.a F.regBytes
    let cols := shpCols e.shp
    let at_ (i j : Nat) : Nat := (a[i * cols + j]?).getD 0
    let ends (rs : List (Option (Nat × Flags))) : Out := .next ((intoTile s e F.regBytes rs).perform q f sp .none e [] (collect rs).2)
    (headTakes (.vtrn f) f q sp e s = true → exec (.vtrn f) s = ends ((List.range cols).flatMap (fun j =>
      (colOf a (shpRows e.shp) cols j).map (fun v => some (v, 0))))) ∧
    (headTakes (.vshuf f) f q sp e s = true → ∃ vs : List (Option Nat), exec (.vshuf f) s =
        .next ((s.writeTile s.myCore (dstV e 0) F.regBytes vs).perform q f sp .none e [] 0) ∧
      ∀ (k p : Nat) (m : Bool), (s.maskBits f.e (shpRows e.shp) cols)[k]? = some m → (tileOf s e e.b F.regBytes)[k]? = some p →
        vs[k]? = some (if m then some (if f.sub = 0 then (if p < cols then at_ (k / cols) p else 0)
          else if p < shpRows e.shp then at_ p (k % cols) else 0) else none)) ∧
    (headTakes (.vbcr f) f q sp e s = true → exec (.vbcr f) s = ends (byElement s f e (fun _ j => (at_ e.b.toNat j, 0)))) ∧
    (headTakes (.vbcc f) f q sp e s = true → exec (.vbcc f) s = ends (byElement s f e (fun i _ => (at_ i e.b.toNat, 0)))) ∧
    (headTakes (.viota f) f q sp e s = true → exec (.viota f) s = ends (byElement s f e (fun i j => deliverInt F (vSat f)
      (F.readInt (dataVal F f.a e.a).toNat + i * F.readInt (dataVal F f.b e.b).toNat + j * F.readInt (dataVal F f.c e.c).toNat)))))

/-! ## The matrix array's instructions -/

/-- R194, R195, R200, R201, R205: MLEV, MBASE and MMODE write the shadow configuration; MSCALE pushes a scale entry of 128 bytes; MWAIT
ends once no earlier operation of the strand is queued; MSTAT writes the status record. R190, R203, R206: an operation of the matrix queue
enters it with the configuration as it stands, while fewer than eight are there; its tokens are popped now and pushed when the operation
completes; MSPMETA carries the 512 bytes of its register. The model's own choices in it: an extent above 64 (log 14) and what happens
before what (log 36). -/
def Obligations.MatrixSetupAndQueue : Prop :=
  ((∀ (f : Fields) (q : Queue) (sp : ISpec) (e : QEntry) (s : State), headTakes (.mlev f) f q sp e s = true →
    exec (.mlev f) s = .next ((s.modCore s.myCore (fun c =>
      let l : Level := ⟨BitVec.ofNat 20 (e.a.toNat - 1), e.b.extractLsb' 0 32, e.b.extractLsb' 32 32, e.c.extractLsb' 0 32, e.c.extractLsb' 32 32, e.e.extractLsb' 0 2⟩
      { c with cfg := c.cfg.setLvl f.sub.toNat l })).perform q f sp .none e [] 0)) ∧
  (∀ (f : Fields) (q : Queue) (sp : ISpec) (e : QEntry) (s : State), headTakes (.mbase f) f q sp e s = true →
    let h := BitVec.ofNat 10 (handleNum f.a)
    let x := e.entry f.a
    let lo := e.b.extractLsb' 0 32
    let hi := e.b.extractLsb' 32 32
    exec (.mbase f) s = .next ((s.modCore s.myCore (fun c => { c with cfg :=
      if f.sub = 0 then { c.cfg with ah := h, ahE := x, ax0 := lo, ax1 := hi } else if f.sub = 1 then { c.cfg with bh := h, bhE := x, bx0 := lo, bx1 := hi }
      else if f.sub = 2 then { c.cfg with mh := h, mhE := x, mx1 := hi } else { c.cfg with zt := e.a.extractLsb' 0 2 } })).perform
      q f sp .none e [] 0)) ∧
  (∀ (f : Fields) (q : Queue) (sp : ISpec) (e : QEntry) (s : State), headTakes (.mmode f) f q sp e s = true → modeOk e.a = true →
    exec (.mmode f) s = .next ((s.modCore s.myCore (fun c => { c with cfg := { c.cfg with mode := e.a } })).perform q f sp .none e [] 0)) ∧
  (∀ (f : Fields) (q : Queue) (sp : ISpec) (e : QEntry) (s : State), headTakes (.mscale f) f q sp e s = true →
    (s.core s.myCore).scales.length < 64 →
    exec (.mscale f) s = .next ((s.modCore s.myCore (fun c => { c with
      scales := c.scales ++ [(c.scaleSeq, (s.tile s.cur e.a.toNat 1 128).map (BitVec.ofNat 8))], scaleSeq := c.scaleSeq + 1 })).perform
      q f sp .none e [] 0)) ∧
  (∀ (f : Fields) (q : Queue) (sp : ISpec) (e : QEntry) (s : State), headTakes (.mwait f) f q sp e s = true →
    (∀ o ∈ (s.core s.myCore).matq, o.slot = s.cur → e.seq ≤ o.seq) →
    exec (.mwait f) s = .next (s.perform q f sp .none e [] 0)) ∧
  (∀ (f : Fields) (q : Queue) (sp : ISpec) (e : QEntry) (s : State), headTakes (.mstat f) f q sp e s = true →
    exec (.mstat f) s = .next ((s.writeTile s.myCore (dstV e 0) 1 ((leBytes 64 (s.core s.myCore).mstatWord.toNat).map (fun b =>
      some b.toNat))).perform q f sp .none e [] 0))) ∧
  ((∀ op ∈ matrixInstrs, ∀ (f : Fields) (q : Queue) (sp : ISpec) (e : QEntry) (s : State), headTakes (op f) f q sp e s = true →
    (s.core s.myCore).matq.length < 8 →
    exec (op f) s = .next ((s.setCore s.myCore (withOp (s.core s.myCore) s.cur s.actClock f e [])).perform q { f with tk := f.tk &&& 0b1100#4 } sp
      .none e [] 0)) ∧
  (∀ (f : Fields) (q : Queue) (sp : ISpec) (e : QEntry) (s : State), headTakes (.mspmeta f) f q sp e s = true →
    (s.core s.myCore).matq.length < 8 →
    exec (.mspmeta f) s = .next ((s.setCore s.myCore (withOp (s.core s.myCore) s.cur s.actClock f e
      ((s.tile s.cur e.a.toNat 1 512).map (BitVec.ofNat 8)))).perform q { f with tk := f.tk &&& 0b1100#4 } sp .none e [] 0)))

/-! ## Engine instructions -/

/-- R216, R217, R219, R153: an engine command whose issue checks pass is accepted into its queue while there is room: 32 commands in a
core's copy queue, 64 in the memory-command queue of the quadrant; its count is in PEND by then. R156, R157, R326: QPUT and QPUT.NB place
a packet in the queue that the selector names: an engine queue with room, or the first free slot of a user-mode queue of the context, with
VALID = 1 and as a release at system scope, which wakes the queue's thread. At a full queue QPUT waits and QPUT.NB answers FALSE. The
model's own choices in it: a QPUT's packet (log 43), the order of the checks (log 41) and what happens before what (logs 36 and 70). -/
def Obligations.CommandsAndPacketsAreQueued : Prop :=
  ((∀ op ∈ copyCommands, ∀ (f : Fields) (q : Queue) (sp : ISpec) (e : QEntry) (s s1 : State) (c : Cmd),
    headTakes (op.1 f) f q sp e s = true → IssueChecks op.2 f e s s1 c → (s1.core s.myCore).copyq.length < 32 →
    let a := s1.addPend { c with party := .copy s.me.serial }
    exec (op.1 f) s = .next ((a.1.enterCopy a.2).perform q f sp .none e [] 0)) ∧
  (∀ op ∈ memoryCommands, ∀ (f : Fields) (q : Queue) (sp : ISpec) (e : QEntry) (s s1 : State) (c : Cmd),
    headTakes (op.1 f) f q sp e s = true → IssueChecks op.2 f e s s1 c → (s1.quad (quadOfC f e s)).q.length < 64 →
    let a := s1.addPend { c with party := .memory s.me.serial (quadOfC f e s), quad := some (quadOfC f e s) }
    exec (op.1 f) s = .next ((a.1.enterMemory (quadOfC f e s) a.2).perform q f sp .none e [] 0))) ∧
  ((∀ (f : Fields) (q : Queue) (sp : ISpec) (e : QEntry) (s s1 s2 : State) (pkt : BitVec 512), headTakes (.qput f) f q sp e s = true →
    PacketReads f e s s1 pkt → s1.placePacket f e pkt = .done s2 → exec (.qput f) s = .next (s2.perform q f sp .none e [] 0)) ∧
  (∀ (f : Fields) (q : Queue) (sp : ISpec) (e : QEntry) (s s1 : State) (pkt : BitVec 512), headTakes (.qput f) f q sp e s = true →
    PacketReads f e s s1 pkt → s1.placePacket f e pkt = .full → exec (.qput f) s = .next (waits s q e)) ∧
  (∀ (f : Fields) (q : Queue) (sp : ISpec) (e : QEntry) (s s1 s2 : State) (pkt : BitVec 512), headTakes (.qputNb f) f q sp e s = true →
    PacketReads f e s s1 pkt → s1.placePacket f e pkt = .done s2 → exec (.qputNb f) s = .next (s2.perform q f sp .none e [1] 0)) ∧
  (∀ (f : Fields) (q : Queue) (sp : ISpec) (e : QEntry) (s s1 : State) (pkt : BitVec 512), headTakes (.qputNb f) f q sp e s = true →
    PacketReads f e s s1 pkt → s1.placePacket f e pkt = .full → exec (.qputNb f) s = .next (s1.perform q f sp .none e [0] 0)) ∧
  (∀ (f : Fields) (e : QEntry) (s : State) (pkt : BitVec 512), e.a.getLsbD 3 = false → fld e.a 6 10 = 0 → fld e.a 28 36 = 0 →
    (fld e.a 0 3 = 0 → (s.core s.myCore).copyq.length < 32 → s.placePacket f e pkt = .done (s.enterCopy (packetCmd f e pkt s))) ∧
    (fld e.a 0 3 = 1 → (s.quad (quadOf s.myCore)).q.length < 64 →
      s.placePacket f e pkt = .done (s.enterMemory (quadOf s.myCore)
        { packetCmd f e pkt s with party := .memory s.me.serial (quadOf s.myCore) })) ∧
    (fld e.a 0 3 = 2 → (s.quad (fld e.a 4 2)).q.length < 64 →
      s.placePacket f e pkt = .done (s.enterMemory (fld e.a 4 2) { packetCmd f e pkt s with party := .memory s.me.serial (fld e.a 4 2) })) ∧
    (fld e.a 0 3 = 3 → let k := s.qcbOf s.me.pasid (BitVec.ofNat 12 (fld e.a 16 12))
      ((k = none ∨ ∃ n, k = some n ∧ (s.qcb n).typ = 3) → s.placePacket f e pkt = .bad (.trap .claimViolation 0) 2) ∧
      ∀ n, k = some n → (s.qcb n).typ ≠ 3 →
        (s.freeSlot (s.qcb n) 0 (2 ^ (s.qcb n).log2n.toNat) = .ok none → s.placePacket f e pkt = .full) ∧
        (∀ i s1 ps, s.freeSlot (s.qcb n) 0 (2 ^ (s.qcb n).log2n.toNat) = .ok (some (i, s1)) →
          s1.vaPlace ((s.qcb n).slotVa i) 64 64 .write = .ok ps → s.placePacket f e pkt = .done (((s1.flushLate.writePieces s1.myParty true
            (leBytes 64 (pkt.toNat - pkt.toNat / 256 % 2 * 256 + 256)) ps).releaseAt (pieceLocs ps) 7).wakeQueue n))) ∧
    (fld e.a 0 3 = 0 ∧ 32 ≤ (s.core s.myCore).copyq.length ∨ fld e.a 0 3 = 1 ∧ 64 ≤ (s.quad (quadOf s.myCore)).q.length ∨
      fld e.a 0 3 = 2 ∧ 64 ≤ (s.quad (fld e.a 4 2)).q.length → s.placePacket f e pkt = .full)))

/-! ## Steps and results -/

/-- R237 to R240: STEP commits a step above this device's own and gives the agreed step, an acquire where D is named; COMMIT writes the
result descriptor with its new status, user word, time and count, a release; PVAL changes VALID. The model's own choices in it: a STEP on
a frozen mask (log 39) and what happens before what (logs 36 and 70). -/
def Obligations.StepsAndResults : Prop :=
  (∀ (f : Fields) (q : Queue) (sp : ISpec) (e : QEntry) (s : State), headTakes (.step f) f q sp e s = true →
    let mask : BitVec 8 := e.b.setWidth 8
    let n : BitVec 48 := e.a.setWidth 48
    let g := tabGet s.groups {} mask.toNat
    let t := s.flushLate
    let g1 := { g with own := n, views := tabSet g.views 0 t.ringPos n }
    let agreed := g1.agreed t.ringPos mask
    let t1 := if e.dsts = [] then t else t.gains (t.stepClock g1 agreed mask)
    g.frozen = false → g.own < n →
    let t2 : State := { t1 with
      groups := tabSet t.groups {} mask.toNat g1
      stepped := if (t.me.lnch, mask) ∈ t.stepped then t.stepped else t.stepped ++ [(t.me.lnch, mask)] }
    exec (.step f) s = .next ((t2.sendGroup mask (.stepCommit mask.toNat t.ringPos n)).perform q f sp .reply e [agreed.setWidth 64] 0)) ∧
  (∀ (f : Fields) (q : Queue) (sp : ISpec) (e : QEntry) (s : State), headTakes (.commit f) f q sp e s = true →
    let t := s.flushLate.me
    let t1 := { t with
      rdStatus := if t.st = .wrap then 2 else 1
      rdUser := e.a
      rdCsec := BitVec.ofNat 48 s.flushLate.sec
      rdCnsec := BitVec.ofNat 32 s.flushLate.nsec
      rdCcnt := if t.rdCcnt = 0xFF then 0xFF else t.rdCcnt + 1
      committedWrap := t.committedWrap || t.st == .wrap }
    ∀ s1 ps, (s.flushLate.setMe t1).writeRd s.flushLate.cur = .ok s1 → s1.rdPlace s1.cur = .ok ps →
      exec (.commit f) s = .next ((s1.releaseAt (pieceLocs ps) f.scp.toNat).perform q f sp .reply e [] 0)) ∧
  (∀ (f : Fields) (q : Queue) (sp : ISpec) (e : QEntry) (s s1 : State), headTakes (.pval f) f q sp e s = true →
    let t := s.me
    let t1 := { t with rdValid := if f.sub = 0 then t.rdValid ||| e.a else if f.sub = 1 then t.rdValid ||| (1 <<< e.a.toNat) else t.rdValid &&& ~~~e.a }
    (s.setMe t1).writeRd s.cur = .ok s1 → exec (.pval f) s = .next (s1.perform q f sp .reply e [] 0))

/-! ## Events of the strands -/

/-- R94, R95, R97, R102: a decode fetches the line of the strand's position, executable and published, and takes the word of its slot; a
word that does not decode traps at once. -/
def Obligations.DecodeTakesTheWordOfItsSlot : Prop :=
  ∀ (slot : Nat) (s : State) (sp : MemSpace) (off left size : Nat) (line : BitVec 512),
    let s0 := s.decodes slot
    let t := s.strand slot
    let g := s0.readPieces (coreOf slot) [s0.pieceAt sp off 64 64]
    let s1 := g.s.takeFresh.modCore (coreOf slot) (fun c => { c with icache := tabPut c.icache (lineKey sp off) line })
    slot < 256 → s.decodeReady slot = true → t.pc.toNat / 3 < 2 ^ 58 →
    s0.translate (coreOf slot) t.pasid t.sys (BitVec.ofNat 64 (64 * (t.pc.toNat / 3))) .fetch = .ok sp off left size →
    (∀ u ∈ s.ubits, u.line ≠ lineKey sp off) → s0.piecesFate false [s0.pieceAt sp off 64 64] = none → s0.beyond (s0.pieceAt sp off 64 64) = false →
    g.poison = none → BitVec.ofNat 512 (leNat g.bytes) = line → line.setWidth 32 = 0xC9000000#32 →
    tabFind (s0.core (coreOf slot)).icache (lineKey sp off) = none →
    (∀ i, decodeWord (line.extractLsb' (32 + 160 * (t.pc.toNat % 3)) 160) = .ok i →
      exec (.instructionDecode slot) s = .next { s1 with latched := some i }) ∧
    (∀ c o, decodeWord (line.extractLsb' (32 + 160 * (t.pc.toNat % 3)) 160) = .bad c o →
      exec (.instructionDecode slot) s = .next (s1.raiseTrap slot { code := c, eng := 0, opnd := o, pos := t.pc }))

/-- R84, R87, R139, R248, R265, R266: a window that is over ends; a delivery writes its destinations, with what a load that may still bind
reads now, and a front that waited for it comes after it; with a reply the writes on their way perform; a queue whose access waits for
another device of the league delivers and acknowledges nothing (R378). Each then merges its flags and pushes its tokens. R43, R84: what
follows a final result: its flags are merged into FLG; its tokens are pushed, and a push onto a full FIFO is the trap TOKEN_OVERFLOW. The
model's own choices in it: the order of deliveries (log 29), when accesses perform (log 10) and what happens before what (logs 36 and 70). -/
def Obligations.ResultsBecomeFinal : Prop :=
  (∀ (slot : Nat) (s : State) (pre post : List Flight) (f : Flight),
    slot < 256 → (s.strand slot).flight = pre ++ f :: post →
    ((∃ e, f.endsAt = some e ∧ e ≤ s.cycle) → (∀ x ∈ pre, ∀ e, x.endsAt = some e → s.cycle < e) →
      exec (.windowEnd slot) s = .next ((landed s slot pre post).settle slot f.stream f.tk f.clock f.flags f.pos f.ring)) ∧
    (f.endsAt = none → f.ack = false → s.replied slot f = true → (∀ x ∈ pre, x.endsAt ≠ none ∨ x.ack = true ∨ s.replied slot x = false) →
      (∀ d ∈ f.dsts, d ∉ (s.strand slot).contested ∧ ∀ x ∈ pre ++ post, d ∉ x.dsts) →
      let at_ : Place := .core (coreOf slot)
      let t := (f.dsts.zip (s.bindLoad slot (fun _ => true) f).vals).foldl (fun t x =>
        let t1 := t.writeDst x.1 x.2
        { t1 with pending := t1.pending.filter (· != x.1), contested := t1.contested.filter (· != x.1) })
        { s.strand slot with flight := pre ++ post }
      let t1 := if s.frontWaits slot f.dsts then { t with seen := { t.seen with front := joinClock t.seen.front (passClock 4 at_ at_ f.clock) } } else t
      exec (.resultDelivery slot) s = .next ((s.setStrand slot t1).settle slot f.stream f.tk f.clock f.flags f.pos f.ring)) ∧
    (f.ack = true → s.replied slot f = true → (∀ x ∈ pre, x.ack = false ∨ s.replied slot x = false) →
      let s1 := f.late.foldl (fun u w => u.writePieces (u.strand slot).party false w.bytes w.pieces) s
      exec (.acknowledgement slot) s = .next ((landed s1 slot pre post).settle slot f.stream f.tk f.clock f.flags f.pos f.ring))) ∧
  (∀ (slot : Nat) (s : State) (tk : BitVec 4) (k : Clock) (fl : Flags) (pos : Word) (ring : Nat),
    let t := { s.strand slot with flg := (s.strand slot).flg ||| fl }
    s.settle slot none tk k fl pos ring = s.setStrand slot t ∧
    (∀ q, (t.pushTokens q tk k).2 = false → s.settle slot (some q) tk k fl pos ring = s.setStrand slot (t.pushTokens q tk k).1) ∧
    (∀ q, (t.pushTokens q tk k).2 = true → s.settle slot (some q) tk k fl pos ring = (s.setStrand slot (t.pushTokens q tk k).1).raiseTrap slot
      { code := .tokenOverflow, eng := engOf q, behind := (t.queue q).length, pos := pos, qent := ring, gone := true }))

/-- R133, R141, R244: a wait whose timer has run out traps, FE_TIMEOUT for LDFE and WAIT_TIMEOUT for the others, with the opcode in SUBC;
a WFE ends with FALSE at its limit; a user interrupt enters the handler with its position and causes in the shadow registers. -/
def Obligations.TimersAndUserInterrupts : Prop :=
  (∀ (slot : Nat) (q : Queue) (s : State) (e : QEntry) (r : List QEntry) (w x : Nat) (sp : ISpec) (code : TrapCode),
    let t := s.strand slot
    slot < 256 → t.queue q = e :: r → e.waiting = some w → w + t.limit ≤ s.cycle → e.tried = some x → w + t.limit ≤ x →
    t.stopping = none → t.diverting = none → t.preempting = false → ispec e.instr = some sp →
    ((∃ f, e.instr = .ldfe f) → code = .feTimeout) → ((∀ f, e.instr ≠ .ldfe f) → code = .waitTimeout) →
    exec (.waitTimerExpiry slot q) s = .next ((s.setStrand slot (t.setQueue q ({ e with waiting := none } :: r))).raiseTrap slot
      { code := code, eng := engOf q, subc := sp.opc % 256, behind := r.length
        pos := e.pos, qent := e.ring })) ∧
  (∀ (slot : Nat) (s : State) (w : WfeWait), slot < 256 → (s.strand slot).wfe = some w → w.until_ ≤ s.cycle → (s.strand slot).unstopped s.cycle = true →
    exec (.wfeLimitExpiry slot) s = .next (s.endWfe slot false)) ∧
  (∀ (slot : Nat) (s : State), let t := s.strand slot
    slot < 256 → frontReady s.cycle t = true → t.st ≠ .wrap → t.uisEn = true → t.uisInh = false → t.uisCause &&& ~~~t.uisMask ≠ 0 →
    exec (.userInterruptEntry slot) s = .next (s.setStrand slot
      { (t.setS 79 t.pc).setS 78 ((t.uisCause &&& ~~~t.uisMask).setWidth 64) with uisInh := true, pc := t.uiv }))

/-- R128, R240, R260, R317: a stopping strand whose work is complete enters STOP with TRC, TRI and TRX written, the record posted and the
position saved; one that drains for a diversion goes on with its trap recorded; a strand that halts retires once its queues are empty and
its commands complete, its tokens discarded, STATUS 0 becoming 4. R308, R312 to R315: at the effective deadline the main stream ends:
unissued work goes, the cause is recorded and the strand drains; then it decodes at WUE, the first decode there loading its budget and
ending LAG; a budget that runs out kills the strand, with its record. The model's own choices in it: the stop as a drain (log 33), the
cause where both deadlines end together (log 35), a held command (log 42), a SYSCALL that is overtaken (log 85). -/
def Obligations.StopsRetirementAndDeadlines : Prop :=
  ((∀ (slot : Nat) (s : State) (r : TrapRec), let t := s.strand slot
    slot < 256 → t.stopping = some r → s.fqFull = false → r.cyc ≠ some s.cycle →
    (t.diverting = none → s.quiet slot = true →
      exec (.strandStop slot) s = .next ((((s.postFault (s.trapInfo slot r .trap)).setStrand slot t.abandonWfe).saveStop slot).setStrand slot
       { t.abandonWfe with
        trc := trcWord r t.inWrap, tri := triWord r, trx := trxWord r, stopping := none, st := .stop
        saved := if t.inWrap then .wrap else .run, halting := false, calling := none })) ∧
    (t.diverting ≠ none →
      exec (.strandStop slot) s = .next ((s.postFault (s.trapInfo slot r .trap)).setStrand slot { t with
        trc := trcWord r false, tri := triWord r, trx := trxWord r, stopping := none, dlstAcc := t.dlstAcc ||| 0x200 }))) ∧
  (∀ (slot : Nat) (s : State), let t := s.strand slot
    slot < 256 → t.halting = true → t.stopping = none → t.preempting = false → t.killing = false → s.haltDone slot = true → t.st ∈ [SState.run, .wrap, .held] →
    s.rdBlocked slot = false →
    exec (.strandRetire slot) s = .next (((s.setStrand slot { t with
      tlc := 0, tcl := 0, tcs := 0, tsc := 0, seen := { t.seen with lc := [], cl := [], cs := [], sc := [] }, st := .retired, halting := false
      rdStatus := if t.rdStatus = 0 then 4 else t.rdStatus }).countEnd slot).finalRd slot))) ∧
  ((∀ (slot : Nat) (s : State) (d : Nat), let t := s.strand slot
    slot < 256 → t.stopping = none → t.halting = false → t.killing = false → t.diverting = none → t.st ∈ [SState.run, .held, .stop, .sysw] →
    (t.st = .run ∨ t.saved ≠ .wrap) → t.inTlbi = false → t.deadline = some d → d ≤ s.time →
    let s1 := (s.discardWork slot).modCore (coreOf slot) (fun c => { c with copyq := s.leaveReduces slot [] c.copyq })
    ∃ u, exec (.deadlineDiversion slot) s = .next (s1.setStrand slot u) ∧
      u.st = .run ∧ u.divertAt = d ∧ u.lq = [] ∧ u.cq = [] ∧ u.sq = [] ∧ u.uisEn = false ∧ u.uisInh = false ∧ u.s = t.s ∧ u.p = t.p ∧
      (∃ c, u.diverting = some c ∧ (d ≤ t.boundAt → c = 3) ∧ (t.boundAt < d → t.sub = none → c = 1) ∧
        (t.boundAt < d → t.launchDeadline = none → c = 2) ∧ u.dlstAcc.extractLsb' 0 3 = c) ∧
      u.dlstAcc.getLsbD 4 = (t.st == .stop) ∧ u.dlstAcc.getLsbD 5 = (t.st == .sysw)) ∧
  (∀ (slot : Nat) (s : State) (c : BitVec 3), let t := s.strand slot
    slot < 256 → t.diverting = some c → t.stopping = none → t.preempting = false → s.quiet slot = true → s.matrixLeft slot = false →
    exec (.wrapupStart slot) s = .next (s.setStrand slot { t with
      tlc := 0, tcl := 0, tcs := 0, tsc := 0, seen := { t.seen with lc := [], cl := [], cs := [], sc := [] }, st := .wrap, diverting := none, pc := t.wue.setWidth 64
      budget := none, wrapFirst := true, committedWrap := false, dlst := t.dlstAcc ||| 8 })) ∧
  (∀ (slot : Nat) (s : State), let t := s.strand slot
    let u := (s.decodes slot).strand slot
    t.wrapFirst = true → u.wrapFirst = false ∧ u.budget = some (s.cycle + t.wub.toNat) ∧
      u.dlst = t.dlst ||| BitVec.ofNat 64 (min (s.time - t.divertAt) (2 ^ 32 - 1) * 2 ^ 32)) ∧
  (∀ (slot : Nat) (s : State), let t := s.strand slot
    let s1 := (s.discardWork slot).modStrand slot (fun u => { u with killing := true })
    let u := s1.strand slot
    let r : TrapRec := { code := .budgetExhausted, eng := 0, pos := t.pc }
    slot < 256 → t.killing = false → BudgetOut t s.cycle →
    s1.quiet slot = true → s1.matrixLeft slot = false → s1.fqFull = false → s1.rdBlocked slot = false →
    exec (.budgetExhausted slot) s = .next ((((s1.postFault (s1.trapInfo slot r .trap)).setStrand slot { u with
      trc := trcWord r true, tri := triWord r, trx := trxWord r, tlc := 0, tcl := 0, tcs := 0, tsc := 0, seen := { u.seen with lc := [], cl := [], cs := [], sc := [] }
      st := .killed, killing := false, halting := false, budget := none, rdStatus := if u.committedWrap then u.rdStatus else 3 }).countEnd slot).finalRd slot)))

/-! ## Events of the matrix array -/

/-- R190, R198, R212: the operations of a core's queue start in order, and none while a self-test is due; a nest starts once every check
of R198 passes, and one that a trap stopped goes on where it stood; a check that fails traps with the operation at the head. R203, R212,
R213, R394: an MPRE loads early past operations whose bank groups it does not share; a self-test that is due, or that MTEST.now asks for,
fences the sub-arrays that fail and records each in the error log. The model's own choices in it: the order of the checks (log 37), an
early load (log 40). -/
def Obligations.MatrixOperationsStart : Prop :=
  ((∀ (core : Nat) (s : State) (o : MatOp) (r : List MatOp), core < 64 → MayStart s core o r → (∀ f, o.instr ≠ .mgo f) →
    exec (.matrixOpStart core) s = .next (s.setCore core { s.core core with matq := { o with running := true } :: r })) ∧
  (∀ (core : Nat) (s : State) (o : MatOp) (r : List MatOp) (f : Fields), core < 64 → MayStart s core o r → o.instr = .mgo f →
    (o.started = true → exec (.nestStart core) s = .next (s.setCore core { s.core core with matq := { o with running := true } :: r })) ∧
    (o.started = false → ∀ b, s.nestBadFirst o = some b → exec (.nestStart core) s = .next (s.matrixTrap core o b)) ∧
    (o.started = false → scaledA o.cfg = false → s.nestBad o 0 = none →
      exec (.nestStart core) s = .next (s.modCore core (fun c => { c with
        matq := { o with running := true, started := true, handles := tabPut o.handles sclKey 0 } :: r, mstat := { c.mstat with susp := false } }))) ∧
    (o.started = false → scaledA o.cfg = true → s.nestBadFirst o = none → ∀ s1 scl, s.readHandle o.slot (hSclh o.cfg.ahE) = .ok (s1, scl) → s1.nestBad o scl = none →
      (s1.core core).matq = o :: r →
      exec (.nestStart core) s = .next (s1.modCore core (fun c => { c with
        matq := { o with running := true, started := true, handles := tabPut o.handles sclKey scl } :: r, mstat := { c.mstat with susp := false } }))) ∧
    (o.started = false → scaledA o.cfg = false → ∀ c sub, s.nestBad o 0 = some (c, sub) →
      exec (.nestStart core) s = .next (s.matrixTrap core o (c, sub))))) ∧
  ((∀ (core : Nat) (s s1 : State) (x o : MatOp) (ahead : List MatOp) (mine : List Nat), core < 64 →
    splitMpre (s.core core).matq = (x :: ahead, some o) → o.loaded = false → mayIssue s.cycle (s.strand o.slot) = true →
    (let n := if isCpx o.cfg.fb then 32 else 64
     s.rectGroups o (handleEntry o o.flds.a) (pairX0 o.b) (pairX1 o.b) n (if mSparse o.cfg.mode then 32 else n) = some mine) →
    (∀ y ∈ x :: ahead, ∃ gs, s.aheadGroups y = some gs ∧ ∀ g ∈ gs, g ∉ mine) → (mpreWork core o s).2 = .ok s1 →
    exec (.mpreEarlyStart core) s = .next (s1.modCore core (fun c => { c with
      matq := c.matq.map (fun y => if y = o then { y with loaded := true } else y) }))) ∧
  (∀ (core : Nat) (failing : BitVec 4) (s : State), core < 64 →
    let c := s.core core
    let bad := failing &&& ~~~c.mstat.fenced
    let after := ((List.range 4).filter (fun q => bad.getLsbD q)).foldl (fun (t : State) q =>
      t.postError { cls := 3, ukind := 8, unit := 4 * core + q, evt := 4, count := c.mstat.nsp.toNat })
      (s.modCore core (fun c => { c with mstat := tested c.mstat s.time bad }))
    (s.testDue c = true → (∀ o ∈ c.matq, o.running = false ∧ o.started = false) → exec (.selfTest core failing) s = .next after) ∧
    (∀ o r f, c.matq = o :: r → o.instr = .mtestNow f → o.running = true → o.finished = false →
      exec (.selfTest core failing) s = .next (after.modCore core (fun k => { k with matq := { o with finished := true } :: k.matq.tail })))))

/-- R196, R197, R199, R214: a nest that runs takes one part after another: the rows of A at the part's place are multiplied into the cells
of its tile; a nest that a diversion meets stops at the end of its pass or run, the last one among them, with its counters in MSTAT, and
DLST records it; a read that fails traps. The model's own choices in it: where a nest goes on (log 37) and the masks of an AUTOW load (log
86). -/
def Obligations.NestPasses : Prop :=
  ∀ (core : Nat) (s : State) (o : MatOp) (r : List MatOp) (f : Fields), core < 64 → NestRuns s core o r f → mAutow o.cfg.mode = false →
    let g := o.cfg
    let c := s.core core
    let pt := nextPart o c.mstat
    let h := halvesOf g c.mstat
    let idx := digitsOf g.counts pt.pass
    let k0 := pt.rh * h.1.2
    let kn := min h.1.2 (mKE g.mode - k0)
    let j0 := pt.ch * h.2.2
    let jn := min h.2.2 (mCE g.mode - j0)
    let t := (g.zt.toNat + (idx.zip (g.levels.map (fun l => l.zs.toNat))).foldl (fun a x => a + x.1 * x.2) 0) % 4
    let s0 := s.modCore core (fun k => k.setHeadOp o)
    let rows := s0.takeRows o (g.ax0.toNat + affine g.as0 idx).toNat (g.ax1.toNat + affine g.as1 idx).toNat k0 kn (mRA g.mode)
    (∀ s1 a, rows = (s1, .ok a) →
      let z := partCells g (s1.core core) a t k0 kn j0 jn
      let o1 := o.afterPart pt z.2
      let s2 := s1.setCore core (((s1.core core).putCells t z.1).setHeadOp o1)
      ((o.divert && pt.last) = false → exec (.nestPass core) s = .next s2) ∧
      ((o.divert && pt.last) = true → exec (.nestPass core) s = .next ((s2.modCore core (fun c => { c with
        matq := c.matq.tail, mstat := c.mstat.counted o1 2 })).modStrand o.slot (fun t => { t.mergeFlags o1.flags with dlstAcc := t.dlstAcc ||| 0x80 })))) ∧
    (∀ s1 b, rows = (s1, .error b) → exec (.nestPass core) s = .next (s1.nestTrap core o pt true b))

/-- R190, R200, R202, R206 to R209, R211, R213, R215: what an operation of the matrix queue has done when it completes: it leaves the
queue, its tokens are pushed, its flags merge into FLG and stand in MSTAT, and its strand's event bit is set. MDRAIN writes each output
element, its cell scaled and rounded once, to its register or, packed, to its tensor, and clears the tile under .clr (R209); a loaded
plane holds the elements of its rectangle, or, SPARSE, each kept weight in the row of its set bit and zero elsewhere, with the scale entry
that it takes (R202, R206). The model's own choices in it: when MDRAIN and MACCL reach their register (log 2). -/
def Obligations.MatrixOperationsComplete : Prop :=
  (∀ (core : Nat) (s : State) (o : MatOp) (r : List MatOp), core < 64 → (s.core core).matq = o :: r → o.running = true →
    let ends (k : Core → Core) (fl : Flags) : Out := .next (opEnds (s.modCore core k) core o fl)
    let t := o.a.toNat % 4
    (∀ f, o.instr = .mpre f → o.loaded = true → exec (.matrixOpComplete core) s = .next (opEnds s core o 0)) ∧
    (∀ f s1 p c, o.instr = .mpre f → o.loaded = false → coreOf o.slot = core →
      s.noting (State.notePlane o.slot (handleEntry o f.a) (pairX0 o.b) (pairX1 o.b) o.cfg.mode)
        (fun t => t.loadPlane o.slot (handleEntry o f.a) (pairX0 o.b) (pairX1 o.b) o.cfg.mode (masksOf (t.core core).meta_) o) = (s1, .ok (p, c)) →
      exec (.matrixOpComplete core) s = .next (opEnds (s1.setCore core { c with shadow := p }) core o 0)) ∧
    (∀ f, o.instr = .mswap f → exec (.matrixOpComplete core) s = ends (fun c => { c with
      active := c.shadow, shadow := c.active, meta_ := c.activeMeta, activeMeta := c.meta_ }) 0) ∧
    (∀ f, o.instr = .mgo f → o.finished = true → o.divert = false → exec (.matrixOpComplete core) s = ends (fun c => { c with
      mstat := { c.mstat.counted o 0 with nslt := c.mstat.nslt + 1, nsp := c.mstat.nsp + 1 } }) o.flags) ∧
    (∀ f s1 fl, o.instr = .mdrain f → s.lmUsed core (s.drainWords o) = false → mdrainWork core o (s.takeDrain core o) = .ok (s1, fl) → exec (.matrixOpComplete core) s = .next (opEnds s1 core o fl)) ∧
    (∀ f, o.instr = .mzero f → exec (.matrixOpComplete core) s = ends (fun c =>
      ((List.range 4).filter (fun t => o.a.getLsbD t)).foldl (fun c t => c.putCells t (List.replicate 4096 0)) c) 0) ∧
    (∀ f n, o.instr = .maccl f → f.b = .v n → exec (.matrixOpComplete core) s = ends (fun c => c.putCells t
      ((s.tileAt o.slot o.seq o.b.toNat (opFmt o).regBytes (64 * tileCols (opFmt o))).flatMap (accCells (opFmt o)))) 0) ∧
    (∀ f n s1 rs, o.instr = .maccl f → f.b = .h n →
      s.rectBad o.slot (handleEntry o f.b) (opFmt o) true false (pairX0 o.c) (pairX1 o.c) (tileCols (opFmt o)) 64 = none →
      s.noting (fun t => t.noteRows o.slot (handleEntry o f.b) (pairX0 o.c) (pairX1 o.c) (tileCols (opFmt o)) 64)
        (fun t => t.lmRows o.slot (handleEntry o f.b) (pairX0 o.c) (pairX1 o.c) (tileCols (opFmt o)) 64) = (s1, .ok rs) →
      exec (.matrixOpComplete core) s = .next (opEnds (s1.modCore core (fun c => c.putCells t
        ((rs.flatMap (fun r => r.map (memToReg (opFmt o)))).flatMap (accCells (opFmt o))))) core o 0)) ∧
    (∀ f, o.instr = .mspmeta f → exec (.matrixOpComplete core) s = ends (fun c => { c with meta_ := o.meta_ }) 0) ∧
    (∀ f, o.instr = .mtestNow f → o.finished = true → exec (.matrixOpComplete core) s = .next (opEnds s core o 0)) ∧
    (∀ f, o.instr = .mtestIvl f → exec (.matrixOpComplete core) s = ends (fun c => { c with mstat := { c.mstat with ivl := o.a.setWidth 32 } }) 0) ∧
    (∀ f, o.instr = .mfuse f → (o.a = 0 ∨ (shapeFor o.a.toNat (s.core core).mstat.fenced).isSome = true) →
      exec (.matrixOpComplete core) s = ends (fun c => { c with mstat := { c.mstat with fmode := BitVec.ofNat 3 o.a.toNat } }) 0) ∧
    (∀ f, o.instr = .mfuse f → o.a ≠ 0 → shapeFor o.a.toNat (s.core core).mstat.fenced = none →
      exec (.matrixOpComplete core) s = .next (s.matrixTrap core o (.subarrayFenced, 0)))) ∧
  (∀ (core : Nat) (s : State) (o : MatOp) (f : Fields), o.instr = .mdrain f →
    let F := opFmt o
    let P := if isCpx F then F.partFmt else F
    let t := o.a.toNat % 4
    let conv (k : Nat) : Nat × Flags :=
      let z := (((s.core core).cells t)[k]?).getD 0
      P.convert (modeOf f.flags o.rmode) true ((if f.sub.getLsbD 1 then XReal.ofInt (toSigned 56 z) else a56f.decode z).scale (-(signedOf f.c o.c)))
    let code (i j : Nat) : Nat := if isCpx F then F.ofParts (conv (64 * i + 2 * j)).1 (conv (64 * i + 2 * j + 1)).1 else (conv (64 * i + j)).1
    let n := if isCpx F then 32 else 64
    let cleared (u : State) : State := if f.sub.getLsbD 0 then u.modCore core (fun c => c.putCells t (List.replicate 4096 0)) else u
    let raised (fl : Flags) : Prop := ∀ b, fl.getLsbD b = true ↔ ∃ k < 4096, (conv k).2.getLsbD b = true
    (∀ v p, f.d = .v v → o.dsts = [.v p] → ∃ fl, raised fl ∧ mdrainWork core o s = .ok (cleared (s.putTile core p F.regBytes
      (({ s with cur := o.slot } : State).meet p F.regBytes ((List.range (64 * n)).map (fun k => some (code (k / n) (k % n)))))), fl)) ∧
    (∀ h, f.d = .h h → s.rectBad o.slot (handleEntry o f.d) F false true (pairX0 o.b) (pairX1 o.b) n 64 = none → ∃ fl, raised fl ∧
      mdrainWork core o s = .ok (cleared ((List.range 64).foldl (fun u i => u.putLmRow o.slot (handleEntry o f.d) (pairX0 o.b) (pairX1 o.b + i)
        ((List.range n).map (fun j => regToMem F (code i j)))) s), fl))) ∧
  (∀ (s : State) (slot : Nat) (e : BitVec 512) (x0 x1 : Nat) (codes : List Nat) (ps : List Piece),
    let b0 := hElemBit e ⟨x0, x1, 0, 0⟩
    let n := (b0 % 8 + codes.length * hBits e + 7) / 8
    let g := s.readPieces (coreOf slot) ps
    s.lmRange slot (coreOf slot) (hBase e + b0 / 8) n = .ok ps →
    ∃ w : Nat, s.putLmRow slot e x0 x1 codes = (if b0 % 8 = 0 ∧ codes.length * hBits e % 8 = 0 then s else g.s).writePieces
        (s.strand slot).party false (leBytes n w) ps ∧
      ∀ i < 8 * n, w.testBit i = if b0 % 8 ≤ i ∧ i < b0 % 8 + codes.length * hBits e then
        ((codes[(i - b0 % 8) / hBits e]?).getD 0).testBit ((i - b0 % 8) % hBits e) else (leNat g.bytes).testBit i) ∧
  (∀ (s : State) (slot : Nat) (e : BitVec 512) (x0 x1 : Int) (mode : BitVec 64) (masks : List (BitVec 64)) (o : MatOp) (p : Plane) (c : Core)
      (rows : List (List Nat)),
    let f := (mFB mode).getD .e4m3
    let n := if isCpx f then 32 else 64
    let at_ (k j : Nat) : Nat := ((rows[k]?).bind (fun r => r[j]?)).getD 0
    s.lmRows slot e x0.toNat x1.toNat n (if mSparse mode then 32 else n) = .ok rows → s.loadPlane slot e x0 x1 mode masks o = .ok (p, c) →
    p.cls = planeClass f ∧ p.fmt = f ∧
    (mSparse mode = false → p.rows = none ∧ ∀ k < n, ∀ j < n, tabGet p.el 0 (64 * k + j) = BitVec.ofNat 32 (memToReg f (at_ k j))) ∧
    (mSparse mode = true → p.rows = some masks ∧ ∀ j w, masks.length ≤ 64 → j < 64 → masks[j]? = some w →
      (∀ m k, m < 32 → (setBits w)[m]? = some k → tabGet p.el 0 (64 * k + j) = BitVec.ofNat 32 (memToReg f (at_ m j))) ∧
      (∀ k < 64, w.getLsbD k = false → tabGet p.el 0 (64 * k + j) = 0)) ∧
    (if mBmx mode then p.scales = (s.core (coreOf slot)).scales.head?.map (·.2) ∧ c = { s.core (coreOf slot) with scales := (s.core (coreOf slot)).scales.tail }
      else p.scales = none ∧ c = s.core (coreOf slot)))

/-! ## Events of the engines -/

/-- R219, R222, R225, R235, R367, R368, R380: the command at the head of a copy queue starts once its handles and its checks pass. A
LAYOUT's tensors agree in their dimensions, its tiles lie in them, a re-lay keeps the format and a conversion is one that R368 allows; an
AREDUCE's handle is plain device memory with RD and WR, its fields are in range, its bytes lie in the mirrored part, and its contribution
then goes to every peer. A check that fails ends the command with CODE 5 and its trap to follow. The model's own choices in it: the order
of the checks and a failure's end (log 41). -/
def Obligations.CopyCommandsStart : Prop :=
  ∀ (core : Nat) (s : State) (c : Cmd), core < 64 → Waits s (.copy core) c →
    (Sound [0x01, 0x02, 0x04] c → ∀ s1 a b, s.startHandles c.slot [fld c.desc 64 10, fld c.desc 80 10] = .ok (s1, [a, b]) →
      copyHandleBad a true false = none → copyHandleBad b false true = none → (copyShape c.desc).len ≠ 0 → (copyShape c.desc).rows ≠ 0 →
      (dCmd c.desc = 4 → fld c.desc 320 3 = 0) → s1.copyRange c a (fld c.desc 128 64) (copyShape c.desc).ss (copyShape c.desc) = none →
      s1.copyRange c b (fld c.desc 192 64) (copyShape c.desc).ds (copyShape c.desc) = none →
      exec (.copyCommandStart core) s = .next (s1.setHeadCmd (.copy core) { c with src := a, dst := b, started := true })) ∧
    (Sound [0x03] c → ∀ s1 s2 s3 a b sa sb, s.startHandles c.slot [fld c.desc 64 10, fld c.desc 80 10] = .ok (s1, [a, b]) →
      let d := c.desc
      let tiles := (List.range (ellTiles d)).map (ellTile0 d + ·)
      hCheck a (farSpace a && hType a != some .a56i && hType a != some .a56f) true false = none →
      (ellOp d = 2 → fld d 64 10 = fld d 80 10 ∧ hLayout b = 1 ∧ hWr b = true) →
      (ellOp d ≠ 2 → hCheck b (farSpace b && (hLayout b == 1 || hLayout b == 2) && ellFmt d == hType b) false true = none) →
      ellTiles d ≠ 0 → hNdim a = hNdim b → (∀ k < 4, hDim a k = hDim b k) → ellFmt d = hType b → ellTile0 d + ellTiles d ≤ tileCount a →
      (∀ n ∈ tiles, tileFits a n = true ∧ tileFits b n = true) → (ellOp d = 0 → ellFmt d = hType a ∧ hScaled a = hScaled b) →
      (ellOp d = 1 → Fmt.convIllegal ((hType a).getD .int8) ((ellFmt d).getD .int8) = false ∧ (hScaled b = true → hDim b 0 % 32 = 0) ∧ ellRnd d ≤ 4) →
      (ellOp d ≠ 2 → s1.dstCompressed c b tiles = false) → s1.scaleEntry c.slot a false = .ok (s2, sa) →
      (ellOp d = 2 → s3 = s2 ∧ sb = 0) → (ellOp d ≠ 2 → s2.scaleEntry c.slot b true = .ok (s3, sb)) →
      exec (.copyCommandStart core) s = .next (s3.setHeadCmd (.copy core) { c with src := a, dst := b, aux := sa, input := [sb.toNat], started := true })) ∧
    (Sound [0x21] c → ∀ s1 e f ps qs, s.readHandle c.slot (arH c.desc) = .ok (s1, e) →
      let d := c.desc
      let es := f.memBits / 8
      let m := arMask d
      let va := BitVec.ofNat 64 (hBase e + arOff d)
      hCheck e (hSpace e == 1 && hLayout e == 0) true true = none → arFmt d = some f → arRnd d ≤ 4 → arOp d ≠ 3 → arLen d ≠ 0 → arLen d % es = 0 →
      s1.maskFits m = true → arOff d % es = 0 → arOff d + arLen d ≤ hLimit e →
      s1.offMirror c.core (s1.strand c.slot) (arLen d / 4096 + 3) va (arLen d) = false → s1.arPlace c e .read = .ok ps → s1.arPlace c e .write = .ok qs →
      let g := s1.readPieces c.core ps
      let k := if c.inst = 0 then tabGet s1.arInst 0 m.toNat + 1 else c.inst
      let mine : Contribution := { mask := m, inst := k, pos := s1.ringPos, fmt := fld d 80 5, op := arOp d, len := arLen d, data := g.bytes }
      let s2 : State := { g.s with arInst := (if c.inst = 0 then tabSet g.s.arInst 0 m.toNat k else g.s.arInst), contribs := mine :: g.s.contribs }
      exec (.copyCommandStart core) s = .next ((s2.sendGroup m (.contribution m.toNat k s1.ringPos (fld d 80 5) (arOp d) (arLen d) g.bytes)).setHeadCmd
        (.copy core) { c with src := e, started := true, inst := k, poisoned := g.poison.isSome })) ∧
    (Sound [0x01, 0x02, 0x03, 0x04, 0x21] c → ∀ code sub, s.startIn State.startLayout c = .error (.trap code sub) →
      exec (.copyCommandStart core) s = .next (s.setHeadCmd (.copy core) { c with
        started := true, finished := true, code := 5, trap := some (code, sub), signalled := true }))

/-- R223, R153, R256, R378: a sector of a copy moves min(row's rest, bytes to the next 512-byte boundary of the destination) as one write,
where no other operation has taken its words in this cycle; its bytes go from PEND to DONE but for the last sector's, which the completion
counts. What it has asked of the league's window is noted with the command. The model's own choices in it: what happens before what (logs
36 and 70). -/
def Obligations.CopySectors : Prop :=
  ∀ (core : Nat) (s : State) (c : Cmd) (src dst : List Piece), core < 64 → UnderWay s (.copy core) c → dCmd c.desc ∈ [1, 2, 4] →
    let h := copyShape c.desc
    let so := (fld c.desc 128 64 + h.ss * c.row).toNat + c.off
    let d0 := (fld c.desc 192 64 + h.ds * c.row).toNat + c.off
    let n := min (h.len - c.off) (512 - (hBase c.dst + d0) % 512)
    s.hRange c.slot (s.cmdSys c) c.src (s.cmdCwb c) .read so n = .ok src → s.hRange c.slot (s.cmdSys c) c.dst (s.cmdCwb c) .write d0 n = .ok dst →
    s.wordsFree src = true → s.wordsFree dst = true → s.barFree c = true →
    (s.readPieces c.core src).poison = none → (∀ x ∈ pieceLocs src, x ∉ pieceLocs dst) →
    let s1 := (((s.readPieces c.core src).s.takePieces src).takePieces dst).writePieces c.party true (s.readPieces c.core src).bytes dst
    let c1 := { c with
      done := c.done + n, row := if c.off + n = h.len then c.row + 1 else c.row, off := if c.off + n = h.len then 0 else c.off + n }
    (c1.row = h.rows → exec (.copySector core) s =
      .next ((s1.setHeadCmd (.copy core) { c1 with finished := true, tail := n, code := if c.poisoned then 3 else 1 }).tagHead s (.copy core))) ∧
    (c1.row ≠ h.rows → c.bar = none → exec (.copySector core) s = .next ((s1.setHeadCmd (.copy core) c1).tagHead s (.copy core))) ∧
    (c1.row ≠ h.rows → c.bar ≠ none →
      let b := s1.cmdBar c1 (some (s1.cmdRel c1 deviceScope)) (barSub (min n c.pend) n)
      exec (.copySector core) s = .next ((b.1.setHeadCmd (.copy core) { b.2 with pend := c.pend - n }).tagHead s (.copy core)))

/-- R220, R224, R244, R256, R267, R293, R378: a finished command writes CODE and DONE into its descriptor, a release, and a CPYQ then adds
to its signal; it leaves its queue with the rest of its count, its flags in FLG, the causes that it sets and its one event. It first waits
for the homes of the window and for the words that it writes. The model's own choices in it: a CPYQ's signal (log 68) and what happens
before what (logs 36 and 70). -/
def Obligations.CommandsComplete : Prop :=
  (∀ (core : Nat) (s : State) (c : Cmd) (ps : List Piece), core < 64 → Finished s (.copy core) c → Plain c →
    s.awaitsReply c.tags = false → s.barFree c = true → s.codePlace c = .ok ps → s.wordsFree ps = true →
    let c1 := { c with code := s.finalCode c }
    let t := (s.takePieces ps).writePieces c.party false (codeBytes c1 c1.code) ps
    let s1 := t.putRel (pieceLocs ps) (t.cmdRel c1 deviceScope)
    let c2 := { c1 with coded := true }
    newTags s s1 = [] →
    (dCmd c.desc ≠ 4 ∨ c.signalled = true → exec (.copyCommandComplete core) s = .next (cmdEnds s1 (.copy core) c2)) ∧
    (dCmd c.desc = 4 → c.signalled = false → exec (.copyCommandComplete core) s = .next (s1.setHeadCmd (.copy core) c2))) ∧
  (∀ (core : Nat) (s : State) (c : Cmd) (ps : List Piece), core < 64 → s.headCmd (.copy core) = some c → c.finished = true → c.held = none →
    c.delivered = none → c.coded = true → dCmd c.desc = 4 → c.signalled = false → Plain c → s.awaitsReply c.tags = false → s.barFree c = true →
    s.signalPlace c = .ok ps → newTags s (s.signalAdd c ps) = [] →
    exec (.copyCommandComplete core) s = .next (cmdEnds (s.signalAdd c ps) (.copy core) { c with signalled := true })) ∧
  (∀ (core : Nat) (s : State) (c : Cmd), core < 64 → s.headCmd (.copy core) = some c → s.awaitsReply c.tags = true →
    exec (.copyCommandComplete core) s = .next s) ∧
  (∀ (q : Nat) (s s1 t : State) (c c1 : Cmd) (ps : List Piece), q < 4 →
    s.headCmd (.mem q) = some c → c.started = true → c.parts = [] → c.held = none →
    (c.finished = false ∧ s.outFree c = true ∧ s.finishMemory c = (s1, c1) ∧ newTags s s1 = [] ∧ t = s1.setHeadCmd (.mem q) c1 ∨
      c.finished = true ∧ c1 = c ∧ t = s) →
    c1.coded = false → c1.delivered = none → dCmd c1.desc ≠ 4 → t.awaitsReply c1.tags = false → t.barFree c1 = true → t.codePlace c1 = .ok ps →
    t.wordsFree ps = true →
    let c2 := { c1 with code := t.finalCode c1 }
    let u := (t.takePieces ps).writePieces c1.party false (codeBytes c2 c2.code) ps
    let v := u.putRel (pieceLocs ps) (u.cmdRel c2 deviceScope)
    newTags t v = [] →
    exec (.memoryCommandComplete q) s = .next (v.endCmd (.mem q) { c2 with coded := true }) ∧
    (Plain c2 → v.endCmd (.mem q) { c2 with coded := true } = cmdEnds v (.mem q) { c2 with coded := true }))

/-- R235, R236, R380: an AREDUCE whose participants have all joined writes the reduction of their contributions, element by element;
participants that differ in format, operation or length end with CODE 5. An aborted instance, or one that its strand's diversion leaves,
ends with CODE 6, and a diverted participant tells its peers. The model's own choices in it: poisoned contributions (log 45), the mask of
an instance (log 90) and the cycle's words (log 10). -/
def Obligations.ReductionsEnd : Prop :=
  (∀ (core : Nat) (s : State) (c : Cmd) (cs : List Contribution), core < 64 → UnderWay s (.copy core) c →
    dCmd c.desc = 0x21 → c.leaves = false → c.aborted = false → s.arJoined c = some cs →
    (∀ (ps : List Piece) (f : Fmt), arFmt c.desc = some f → (∀ k ∈ cs, k.fmt = fld c.desc 80 5 ∧ k.op = arOp c.desc ∧ k.len = arLen c.desc) →
      s.arPlace c c.src .write = .ok ps →
      let eb := f.memBits / 8
      let rs := (transpose (arLen c.desc / eb) (cs.map (fun k => codesOf eb k.data))).map (reduceOne f (arOp c.desc) (RMode.ofCode (arRnd c.desc)))
      let t := (s.writePieces c.party true (rs.flatMap (fun r => leBytes eb r.1)) ps).dropInstance c
      exec (.areduceComplete core) s = .next ((if c.poisoned = true then t.poisonPieces ps else t).setHeadCmd (.copy core) { c with
        finished := true, code := (if c.poisoned = true then 3 else 1), done := arLen c.desc, flags := rs.foldl (fun a r => a ||| r.2) 0 })) ∧
    ((∃ k ∈ cs, k.fmt ≠ fld c.desc 80 5 ∨ k.op ≠ arOp c.desc ∨ k.len ≠ arLen c.desc) →
      exec (.areduceComplete core) s = .next ((s.dropInstance c).setHeadCmd (.copy core) { c with
        started := true, finished := true, code := 5, trap := some (.illegalOperand, 0), signalled := true }))) ∧
  (∀ (core : Nat) (s : State) (c : Cmd), core < 64 → s.headCmd (.copy core) = some c → dCmd c.desc = 0x21 → c.finished = false → c.held = none →
    c.failed = false →
    let ended (t : State) : Out := .next ((t.dropInstance c).setHeadCmd (.copy core) { c with
      started := true, finished := true, code := 6, aborted := true })
    (c.leaves = false → c.aborted = true ∨ (c.started = true ∧ s.arAborted c = true) → exec (.areduceAbort core) s = ended s) ∧
    (c.leaves = true →
      let m := arMask c.desc
      let k := if c.inst = 0 then tabGet s.arInst 0 m.toNat + 1 else c.inst
      exec (.areduceAbort core) s = ended (({ s with arInst := (if c.inst = 0 then tabSet s.arInst 0 m.toNat k else s.arInst) } : State).sendGroup m
        (.instanceAbort m.toNat k s.ringPos))))

/-- R351, R365, R367, R368, R370: the Ell takes a re-lay or a conversion by the parts of a tile's rows that fall into one 512-byte block
of the destination, each read, converted and then written: a re-lay writes the codes that it reads, a conversion each value in the target
format. An expansion writes a COMPRESSED tile's elements to its frame, block by block, and with the last its entry becomes FRAME; a record
without a frame traps LAYOUT_MISMATCH, other tiles are skipped. The model's own choices in it: the size of a step (log 16) and the scale
tensor (log 46). -/
def Obligations.EllSteps : Prop :=
  (∀ op : Nat, ∀ ev : Nat → Instr, (op, ev) ∈ [(0, Instr.ellRelay), (1, Instr.ellConvert)] →
    ∀ (core : Nat) (s s1 : State) (c : Cmd) (ps : List EllPart) (l : List (EllPart × ElemAt × List Piece)), core < 64 →
    UnderWay s (.copy core) c → dCmd c.desc = 3 → ellOp c.desc = op → s.barFree c = true →
    let b := tileBox c.src (ellTile0 c.desc + c.row)
    let fs := sectorFrags c.dst b c.off
    s.ellReads c b fs = .ok (s1, ps) → s1.ellPlaces c ps = .ok l →
    let y := l.foldl State.putEllPart (s1.keepTiles c b, c)
    let at_ := (fs.getLastD ⟨0, 0, 0⟩).next b c.row
    exec (ev core) s = .next ((y.1.afterSector (.copy core) y.2 at_.1 at_.2 ((fs.map (fun f => f.bytes (hBits c.dst))).foldl (· + ·) 0)
      (ps.any (fun p => p.poison || (p.scalePoison && !p.scales.isEmpty)))).tagHead s (.copy core))) ∧
  (∀ (s t : State) (c : Cmd) (b : TileBox) (f : Frag) (q : SrcRow) (sc : List Nat) (bad : Bool),
    let blocks := hScaled c.dst = true ∧ ellOp c.desc = 1
    let lo := if blocks then f.o / 32 * 32 else f.o
    let hi := if blocks then min b.w ((f.o + f.n + 31) / 32 * 32) else f.o + f.n
    let x : Coord := ⟨b.x0 + lo, b.x1 + f.r, b.x2, b.x3⟩
    let src := (hType c.src).getD .int8
    let dst := (hType c.dst).getD .int8
    let mode := RMode.ofCode (ellRnd c.desc)
    s.srcRow c x (hi - lo) = .ok q → q.s.srcScales c x (hi - lo) = .ok (t, sc, bad) → ∃ p, s.ellRead c b f = .ok (t, p) ∧
      p.x = ⟨b.x0 + f.o, b.x1 + f.r, b.x2, b.x3⟩ ∧
      (ellOp c.desc = 0 → p.codes = q.codes.take f.n ∧ p.poison = q.poison) ∧
      (ellOp c.desc = 1 → hScaled c.dst = false → isCpx src = false → p.poison = (q.poison || bad) ∧
        p.codes = (q.codes.zipIdx.map (fun v => regToMem dst (dst.convert mode true (srcValue src
          (if sc.isEmpty then none else sc[(lo % 32 + v.2) / 32]?) v.1)).1)).take f.n) ∧
      (ellOp c.desc = 1 → hScaled c.dst = true → p.poison = (q.poison || bad) ∧
        let vs := q.codes.zipIdx.map (fun v => srcValue src (if sc.isEmpty then none else sc[(lo % 32 + v.2) / 32]?) v.1)
        let qs := (List.range ((q.codes.length + 31) / 32)).map (fun k => mxQuantise dst mode ((vs.drop (32 * k)).take 32))
        p.codes = ((qs.flatMap (fun z => z.2.1.map (regToMem dst))).drop (f.o - lo)).take f.n ∧
        p.scales = ((qs.map (·.1)).drop ((f.o + 31) / 32 - lo / 32)).take ((f.o + f.n + 31) / 32 - (f.o + 31) / 32))) ∧
  (∀ (core : Nat) (s : State) (c : Cmd), core < 64 → UnderWay s (.copy core) c → dCmd c.desc = 3 → ellOp c.desc = 2 → s.barFree c = true →
    let b := tileBox c.src (ellTile0 c.desc + c.row)
    let found := s.tileLookup c.slot (s.cmdSys c) c.src ⟨b.x0, b.x1, b.x2, b.x3⟩
    (∀ t va, found = .ok (t, va) → (∀ loc, t ≠ .compressed loc) →
      exec (.ellExpand core) s = .next (s.afterSector (.copy core) c (c.row + 1) 0 0 false)) ∧
    (∀ loc va g h x, found = .ok (.compressed loc, va) → s.recordHead c loc = .ok (g, h, x) → fld h 160 43 = 0 →
      exec (.ellExpand core) s = .next (s.setHeadCmd (.copy core) { c with
        started := true, finished := true, code := 5, trap := some (.layoutMismatch, 0) })) ∧
    (∀ loc va g h x v es, found = .ok (.compressed loc, va) → s.recordHead c loc = .ok (g, h, x) → fld h 160 43 ≠ 0 →
      let bits := hBits c.src
      let sp : MemSpace := if fld h 203 2 = 0 then .il else if fld h 203 2 = 1 then .host else .pool
      let ps := [s.pieceAt sp (fld h 160 43 * 512 + 512 * c.off) 512 512]
      let n := clippedBytes c.src b c.off
      s.recordPart c loc bits (4096 * c.off / bits) ((4096 * (c.off + 1) + bits - 1) / bits) 0 64 = .ok (v, false) → ps.any s.beyond = false →
      s.piecesFate true ps = none → s.translateRange c.core (s.strand c.slot).pasid (s.cmdSys c) .write 3 va 8 = .ok es →
      s.piecesFate true es = none →
      let s1 := s.writePieces c.party true (leBytes 512 (v / 2 ^ (4096 * c.off))) ps
      let s2 := s1.writePieces c.party false (leBytes 8 (1 + fld h 203 2 * 4 + fld h 160 43 * 512)) es
      (c.off + 1 < bits → exec (.ellExpand core) s = .next ((s1.afterSector (.copy core) c c.row (c.off + 1) n false).tagHead s (.copy core))) ∧
      (bits ≤ c.off + 1 → exec (.ellExpand core) s =
        .next (((s2.putRel (pieceLocs es) (s2.cmdRel c deviceScope)).afterSector (.copy core) c (c.row + 1) 0 n false).tagHead s (.copy core)))))

/-- R226 to R230, R293 to R305: a memory command starts at the head of its quadrant's queue once its checks pass, and runs in one part per
die; a part that a hold keeps back, or that an arrival before it keeps waiting on the same sequencer, does not run. A BGMAC part leaves
for each row and BGAU of its die the partial over its elements in ascending k, from the replica where the weights fail, and the status of
R227; a BGATTN part leaves the running m, l and o of each BGAU over the tokens of its pages in order, from the mirror where a page fails;
a BGCPY part writes the rows of each BGAU unit by unit from one bank to the other; a KVPUT part writes its blocks to their pages and their
mirrors; a KVTAKE part reads the blocks out. The model's own choices in it: the parts of a command (log 16), how it fails (log 41), the
units of its fields (log 47), holds and full tables (log 48) and a replica that fails (log 79). -/
def Obligations.MemoryCommandsRun : Prop :=
  (∀ (q : Nat) (s s1 : State) (c c1 : Cmd), q < 4 → Waits s (.mem q) c → Sound [0x11, 0x12, 0x13, 0x14, 0x15] c →
    (dCmd c.desc = 0x11 → s.startBgmac { c with sent := s.fv } = .ok (s1, c1) → exec (.memoryCommandStart q) s = .next (s1.setHeadCmd (.mem q) c1)) ∧
    (dCmd c.desc = 0x12 → s.startBgcpy { c with sent := s.fv } = .ok (s1, c1) → exec (.memoryCommandStart q) s = .next (s1.setHeadCmd (.mem q) c1)) ∧
    (dCmd c.desc = 0x13 → s.startBgattn { c with sent := s.fv } = .ok (s1, c1) → exec (.memoryCommandStart q) s = .next (s1.setHeadCmd (.mem q) c1)) ∧
    (dCmd c.desc = 0x14 → s.startKvput { c with sent := s.fv } = .ok (s1, c1) → exec (.memoryCommandStart q) s = .next (s1.setHeadCmd (.mem q) c1)) ∧
    (dCmd c.desc = 0x15 → s.startKvtake { c with sent := s.fv } = .ok (s1, c1) → exec (.memoryCommandStart q) s = .next (s1.setHeadCmd (.mem q) c1))) ∧
  (∀ (q die : Nat) (s : State) (c : Cmd), q < 4 → s.headCmd (.mem q) = some c → c.started = true → c.finished = false → die ∈ c.parts →
    (∀ h ∈ s.holds, ∀ f ∈ h.furlongs, f ∉ c.reads) →
    (∀ x ∈ s.quads, ∀ o, x.2.q.head? = some o → o.started = true → die ∈ o.parts → o.sent < c.sent → ∀ h ∈ s.holds, ∀ f ∈ h.furlongs, f ∉ o.reads) →
    let ran (x : State × Cmd) : Out := .next (x.1.setHeadCmd (.mem q) { x.2 with parts := x.2.parts.filter (· != die) })
    (dCmd c.desc = 0x11 → exec (.memoryPart q die) s = ran (s.macPart c die)) ∧
    (dCmd c.desc = 0x12 → exec (.memoryPart q die) s = ran (s.copyPart c die)) ∧
    (dCmd c.desc = 0x13 → exec (.memoryPart q die) s = ran (s.attnPart c die)) ∧
    (dCmd c.desc = 0x14 → exec (.memoryPart q die) s = ran (s.putPart c die)) ∧
    (dCmd c.desc = 0x15 → exec (.memoryPart q die) s = ran (s.takePart c die))) ∧
  (∀ (q die : Nat) (s : State) (c : Cmd), q < 4 → s.headCmd (.mem q) = some c →
    (die ∉ c.parts ∨ (∃ h ∈ s.holds, ∃ f ∈ h.furlongs, f ∈ c.reads) ∨
      (∃ x ∈ s.quads, ∃ o, x.2.q.head? = some o ∧ o.started = true ∧ die ∈ o.parts ∧ o.sent < c.sent ∧ ∃ h ∈ s.holds, ∃ f ∈ h.furlongs, f ∈ o.reads)) →
    exec (.memoryPart q die) s = .next s) ∧
  (∀ (s : State) (c : Cmd) (die : Nat), die < 64 →
    let part (i j : Nat) : List MacTerm := ((List.range (mC c.desc)).map (macTerm c false (mA c.desc + i))).filter (fun t => t.g == 8 * die + j)
    let got (i j : Nat) := s.macBgau c (mA c.desc + i) (part i j)
    let x := s.macPart c die
    (∀ i < mB c.desc, ∀ j < 8, tabFind x.2.acc (512 * i + 8 * die + j) =
      if part i j = [] then tabFind c.acc (512 * i + 8 * die + j) else some (got i j).1) ∧
    (∀ i < mB c.desc, tabGet x.2.status 0 i =
      (List.range 8).foldl (fun z j => if part i j = [] then z else z ||| BitVec.ofNat 8 (got i j).2.1) (tabGet c.status 0 i)) ∧
    (∃ us, x.1 = s.noteUnits us ∧ ∀ u, u ∈ us ↔ ∃ i < mB c.desc, ∃ j < 8, part i j ≠ [] ∧ u ∈ (got i j).2.2)) ∧
  (∀ (c : Cmd) (copy : Bool) (r k : Nat),
    let z := elemSpan c.src k r
    let place (va : Nat) : Nat := c.bl (if copy then (mRepf c.desc + (va / 2 ^ 21 - hBase c.src / 2 ^ 21)) * 2 ^ 21 + va % 2 ^ 21 else va)
    let t := macTerm c copy r k
    t.k = k ∧ t.g = z.1 / 4096 % 512 ∧ t.shift = z.2.1 ∧ t.bytes = (List.range z.2.2).map (fun i => place (z.1 + i)) ∧
    (hScaled c.src = true → t.scale = some (c.bl (elemSpan c.aux (k / 32) r).1))) ∧
  (∀ (s : State) (c : Cmd) (r : Nat) (t : MacTerm) (ts : List MacTerm),
    let f := (hType c.src).getD .int8
    let sum (l : List MacTerm) : Nat := match l with
      | [] => 0
      | a :: b => b.foldl (fun acc x => (stepCell (macIsInt c) acc (xValue c x.k) (s.macValue f x)).1) (firstCell (macIsInt c) (xValue c a.k) (s.macValue f a))
    let seen (us : List Nat) : Nat := (if us.any s.unitCe then 1 else 0) + (if us.any (fun u => !(s.unitPlain u)) then 8 else 0)
    let us := (t :: ts).flatMap MacTerm.units
    let again := (t :: ts).map (fun x => macTerm c true r x.k)
    let us2 := again.flatMap MacTerm.units
    (us.any s.unitBad = false → s.macBgau c r (t :: ts) = (sum (t :: ts), seen us, us)) ∧
    (us.any s.unitBad = true → mRepl c.desc = false → s.macBgau c r (t :: ts) = (sum (t :: ts), seen us + 2, us)) ∧
    (us.any s.unitBad = true → mRepl c.desc = true →
      s.macBgau c r (t :: ts) = (sum again, (seen us ||| seen us2) + 4 + (if us2.any s.unitBad then 2 else 0), us ++ us2))) ∧
  (∀ (s : State) (c : Cmd) (die : Nat), die < 64 → kvOk c.src = true →
    let hd := (kvSpace c.src).hd
    let mine (j : Nat) : List PageRef := c.pages.filter (fun r => r.page % 512 == 8 * die + j)
    let x := s.attnPart c die
    (∀ j < 8, getAttn x.2.acc hd (8 * die + j) = if mine j = [] then getAttn c.acc hd (8 * die + j)
      else some ((mine j).foldl (fun a r => s.attnBlock c r (s.attnPage c r).1 a) { m := 0xFF800000, l := 0, o := List.replicate hd 0 })) ∧
    tabGet x.2.status 0 0 = (List.range 8).foldl (fun z j => if mine j = [] then z
      else z ||| BitVec.ofNat 8 ((mine j).foldl (fun b r => b ||| (s.attnPage c r).2.1) 0)) (tabGet c.status 0 0) ∧
    ∃ us, x.1 = s.noteUnits us) ∧
  (∀ (s : State) (c : Cmd) (r : PageRef) (page : Nat) (a : Attn),
    let k := kvSpace c.src
    let row (area i : Nat) : List XReal := (codesOf k.eb (s.dieBytes ((List.range (k.hd * k.eb)).map (fun j =>
      pageByte page area (i * (k.hd * k.eb) + j))))).map ((hType c.src).getD .e4m3).value
    let q := c.input.map ((Fmt.ofCode c.row).getD .fp32).value
    s.attnBlock c r page a = ((List.range k.tokens).filter (fun i => r.n * k.tokens + i < mB c.desc)).foldl (fun a i =>
      let dot := match q.zip (row 0 i) with
        | [] => 0
        | x :: l => l.foldl (fun acc y => (stepCell false acc y.1 y.2).1) (firstCell false x.1 x.2)
      let sc := fp32Of (XReal.mul (fp32Val (mRepf c.desc)) (a56f.decode dot))
      let mn := maxFp32 a.m sc
      { m := mn, l := a56Of (XReal.add false (XReal.mul (a56f.decode a.l) (expDiff a.m mn)) (expDiff sc mn))
        o := (a.o.zip (row 2 i)).map (fun x => a56Of (XReal.add false (XReal.mul (a56f.decode x.1) (expDiff a.m mn)) (XReal.mul (expDiff sc mn) x.2))) }) a) ∧
  (∀ (s : State) (c : Cmd) (r : PageRef),
    let us := pageUnits c r.page (blockTokens c r)
    let ce (us : List Nat) : Nat := if us.any s.unitCe then 1 else 0
    (us.any s.unitBad = false → s.attnPage c r = (r.page, ce us, us)) ∧
    (us.any s.unitBad = true → r.mirror = none ∨ mRepl c.desc = false → s.attnPage c r = (r.page, ce us + 2, us)) ∧
    (us.any s.unitBad = true → mRepl c.desc = true → ∀ m, r.mirror = some m →
      let us2 := pageUnits c m (blockTokens c r)
      s.attnPage c r = (m, (ce us ||| ce us2) + 4 + (if us2.any s.unitBad then 2 else 0), us ++ us2))) ∧
  (∀ (s : State) (c : Cmd) (die : Nat),
    let put (t : State) (l : Nat) (bs : List Byte) (bad : Bool) : State :=
      let t1 := t.writeMem c.party true .bl l bs
      if bad then t1.poisonRange .bl l 64 else t1
    let f0 := hBase c.src / 2 ^ 21
    let row (f i bk g : Nat) : Nat := tabGet c.furl 0 (f0 + f + i) * 2 ^ 21 + 4096 * g + 1024 * bk
    let units := (List.range (mC c.desc)).flatMap (fun i => (List.range 8).flatMap (fun j => (List.range 16).map (fun k =>
      (row (mA c.desc) i (mSbk c.desc) (8 * die + j) / 64 + k, row (mB c.desc) i (mDbk c.desc) (8 * die + j) + 64 * k))))
    s.copyPart c die = units.foldl (fun x u =>
      (put (x.1.noteUnits [u.1]) u.2 (x.1.dieBytes ((List.range 64).map (64 * u.1 + ·))) (x.1.unitBad u.1),
        { x.2 with poisoned := x.2.poisoned || x.1.unitBad u.1 })) (s, c) ∧
    (let blocks := (c.pages.filter (fun r => !r.old && r.page % 512 / 8 == die)).flatMap (fun r => (List.range 64).map (fun n => (r, n)))
     s.putPart c die = blocks.foldl (fun x b =>
      let u := 64 * (b.1.n - mB c.desc) + b.2
      let bs := (List.range 64).map (fun i => BitVec.ofNat 8 (c.input[64 * u + i]?.getD 0))
      ((b.1.page :: b.1.mirror.toList).foldl (fun t p => put t (pageByte p (if b.2 < 32 then 0 else 2) (64 * (b.2 % 32))) bs (c.marks.contains u)) x.1,
        { x.2 with poisoned := x.2.poisoned || c.marks.contains u })) (s, c)) ∧
    (let blocks := (c.pages.filter (fun r => r.page % 512 / 8 == die)).flatMap (fun r => (List.range 64).map (fun n => (r, n)))
     s.takePart c die = blocks.foldl (fun x b =>
      let u := pageByte b.1.page (if b.2 < 32 then 0 else 2) (64 * (b.2 % 32)) / 64
      let key := 64 * (b.1.n - mB c.desc) + b.2
      (x.1.noteUnits [u], { x.2 with
        acc := tabPut x.2.acc key (leNat (x.1.dieBytes ((List.range 64).map (64 * u + ·))))
        marks := (if x.1.unitBad u then key :: x.2.marks else x.2.marks), poisoned := x.2.poisoned || x.1.unitBad u })) (s, c)))

/-- R286, R304: a die writes the mark of a unit whose read failed, a scrub clears a corrected error, and a refresh changes nothing. R274
to R276, R281, R358, R362, R390: a round's message raises a known round, at most to the current one; a push marker raises it to the
marker's round and refreshes the stamped copies of the region; a dirty line of the L2 goes home, to the dies, the host or the pool; a line
whose owner, an L1, the host or a pool device, is dead is poisoned at its home, which records no owner, with a Contained record of EVT 3
that names the owner. The model's own choices in it: the records of a die's error (log 23), of a lost line (log 20) and the known rounds
(log 36). -/
def Obligations.DiesLinesAndRounds : Prop :=
  ((∀ (u : Nat) (s : State), u ∈ s.xpwrDue → exec (.xpwrPoisonWrite u) s = .next { s with
    devPoison := setPut s.devPoison u true, devUe := setDel s.devUe u, devCe := setDel s.devCe u, xpwrDue := setDel s.xpwrDue u
    scrubDue := setDel s.scrubDue u }) ∧
  (∀ (u : Nat) (s : State), u ∈ s.scrubDue → exec (.scrub u) s = .next { s with
    devCe := setDel s.devCe u, scrubDue := setDel s.scrubDue u }) ∧
  (∀ (die bank : Nat) (s : State), die < 64 → bank < 32 → exec (.refresh die bank) s = .next s)) ∧
  ((∀ (line : Nat) (s : State) (x : BitVec 512), line < 2 ^ 46 →
    (tabFind s.l2 line = some x → exec (.l2WriteBack line) s = .next (s.flushDev line)) ∧
    (tabFind s.hostL2 line = some x → exec (.l2WriteBack (2 ^ 46 + line)) s = .next ((s.evictHost line).flushHost line)) ∧
    (tabFind s.poolL2 line = some x → exec (.l2WriteBack (2 * 2 ^ 46 + line)) s = .next (let t := s.flushPool line
      t.setCxl { t.arr.cxl with pool := setDel t.arr.cxl.pool line }))) ∧
  (∀ (o : Owner) (sp : MemSpace) (line : Nat) (s : State), spaceLine sp line = true → ownerOk o sp = true →
    ∃ t : State, exec (.deadAgent ⟨o, sp⟩ line) s = .next (t.postError { cls := 2, evt := 3, addr := 64 * line
                                                                         ukind := match o with | .l1 _ => 1 | .host => 5 | .pool => 6
                                                                         unit := match o with | .l1 core => core | _ => 0 }) ∧
      t.poisoned sp line = true ∧ (∀ x ∈ t.arr.l1Bad, x.2 ≠ unitKey sp line) ∧
      (sp = .il → line ∉ t.arr.cxl.hostHeld ∧ line ∉ t.arr.cxl.hostOwned) ∧ t.dev = s.dev ∧ t.l2 = s.l2) ∧
  (∀ (core region : Nat) (s : State) (k : BitVec 32) (ent : BitVec 128), core < 64 → tabFind (s.core core).known region = some k →
    s.regionNow core region = some ent →
    ∃ n ≤ (regionRound ent - k).toNat, exec (.radvMessage core region) s = .next (s.modCore core (fun c => { c with
      known := tabPut c.known region (k + BitVec.ofNat 32 n) }))) ∧
  (∀ (core region : Nat) (round : BitVec 32) (s : State) (ent : BitVec 128), core < 64 → s.regionNow core region = some ent →
    ent.getLsbD 1 = true → (regionRound ent - round).toNat < 2 ^ 31 →
    let lead := s.leadOf core
    let k := s.knownRound lead region ent
    exec (.pushMarker core region round) s = .next ((s.modCore lead (fun c => { c with
      known := tabPut c.known region (if (k - round).toNat < 2 ^ 31 then k else round) })).modCore core (fun c => { c with
      stamps := c.stamps.map (fun y => if y.region = region ∧ (round - y.stamp).toNat < 2 ^ 31 then
        { y with stamp := round, data := BitVec.ofNat 512 (leNat (s.physRead (keyPlace y.line).1 (keyPlace y.line).2 64)) } else y) }))))

/-- R219, R293, R298 to R302: a memory command whose checks pass starts: what its part of the state is then, for each of the five
commands; a part of a running command that no hold keeps back runs and is no longer awaited. R274, R275, R281, R286, R304, R390: the
poison write of a unit that is due, a scrub that is due, a refresh, the write-back of a dirty line, the death of a line's owner, a round's
message and a push marker complete. The model's own choices in it: the parts of a command (log 16), the units of its fields (log 47),
holds and full tables (log 48), the permission of a key-value space (log 78), the records of a lost line (log 20), of a die's error (log
23) the known rounds (log 36) and events whose conditions do not hold (log 67). -/
def Obligations.MemoryAndLineEventsComplete : Prop :=
  (∀ (q : Nat) (s : State) (c0 : Cmd), q < 4 → Waits s (.mem q) c0 → Sound [0x11, 0x12, 0x13, 0x14, 0x15] c0 →
    let c := { c0 with sent := s.fv }
    let d := c.desc
    let starts (t : State) (x : Cmd) : Prop := exec (.memoryCommandStart q) s = .next (t.setHeadCmd (.mem q) { x with started := true })
    (dCmd d = 0x11 → ∀ s1 s2 s3 s4 s5 wh xh oh sc xsc fu xs sx p r,
      s.startHandles c.slot [mH0 d, mH1 d, mOH d] = .ok (s1, [wh, xh, oh]) → s1.macBad c wh xh oh = none →
      s1.weightScales c wh = .ok (s2, sc) → s2.xScales c xh = .ok (s3, xsc) → s3.furlongs c .read (macReads d wh sc) = .ok fu →
      (∀ x ∈ s3.rows, x.2.isCompressed = false) → s3.readVec c xh (mXoff d) (mC d) = .ok (s4, xs, p) → s4.readXScales c xh xsc = .ok (s5, sx, r) →
      starts s5 { c with
        src := wh, dst := oh, aux := sc, furl := fu, reads := (valsOf fu).eraseDups, input := xs, marks := sx, poisoned := p || r
        parts := macDies d wh, row := ((hType xh).map Fmt.code).getD 0 }) ∧
    (dCmd d = 0x12 → ∀ s1 e fs fd, s.readHandle c.slot (mH0 d) = .ok (s1, e) → hCheck e (stripe e) true true = none → mC d ≠ 0 →
      bgcpyRangeOk e (mA d) (mC d) (mSbk d) = true → bgcpyRangeOk e (mB d) (mC d) (mDbk d) = true →
      s1.furlongs c .read (bgcpyFurlongs e (mA d) (mC d)) = .ok fs → s1.furlongs c .write (bgcpyFurlongs e (mB d) (mC d)) = .ok fd →
      s1.bankMarked (valsOf fs) (mSbk d) = false → s1.bankMarked (valsOf fd) (mDbk d) = false → s1.furlongOwned (valsOf fd) = false →
      starts s1 { c with
        src := e, furl := fd.foldl (fun t x => tabPut t x.1 x.2) fs, reads := (valsOf fs).eraseDups, parts := List.range 64 }) ∧
    (dCmd d = 0x13 → ∀ s1 s2 qh kv oh ps fu x p, s.startHandles c.slot [mH0 d, mH1 d, mOH d] = .ok (s1, [qh, kv, oh]) →
      s1.attnBad c qh kv oh = none → s1.attnPages c kv = some ps → (∀ r ∈ ps, s1.pagePlain r.page = true ∧ (mRepl d = true → ∀ n ∈ r.mirror, s1.pagePlain n = true)) →
      s1.furlongs c .read (refFurlongs kv (mRepl d) ps) = .ok fu → s1.readVec c qh (mXoff d) (kvSpace kv).hd = .ok (s2, x, p) →
      starts s2 { c with
        src := kv, dst := oh, furl := fu, reads := (valsOf fu).eraseDups, pages := ps, input := x, poisoned := p, parts := diesOf ps
        row := ((hType qh).map Fmt.code).getD 0 }) ∧
    (dCmd d = 0x14 → ∀ s1 s2 e kv new bs ms, s.startHandles c.slot [mH0 d, mH1 d] = .ok (s1, [e, kv]) →
      hCheck e (ioKind e) true false = none → hCheck kv (kvOk kv) true false = none → mC d ≠ 0 → s1.rangeBad c e (mOff d) (4096 * mC d) = none →
      mB d + mC d ≤ 2 ^ 20 → s1.placeBlocks c kv [] (kvBlocks d) = .ok new →
      let old := (kvBlocks d).filterMap (fun b => (s1.blockOf c kv (mA d) (mKvHead d) b).map (fun x => { x.ref b with old := true }))
      s1.tableRoom c kv new = true → (∀ r ∈ new, ∀ n ∈ refPages r, s1.pagePlain n = true) →
      s1.readBlocks c e (mOff d) (64 * mC d) = .ok (s2, bs, ms) →
      starts ((s2.takePages .releasing old).takePages .reserved new) { c with
        src := e, dst := kv, pages := new ++ old, input := bs.map (·.toNat), marks := ms.map (fun n => 64 * mC d - 1 - n), parts := diesOf new }) ∧
    (dCmd d = 0x15 → mCopyo d = false → ∀ s1 kv, s.startHandles c.slot [mH1 d] = .ok (s1, [kv]) →
      hCheck kv (kvOk kv) true false = none → mC d ≠ 0 →
      let refs := (kvBlocks d).filterMap (fun b => (s1.blockOf c kv (mA d) (mKvHead d) b).map (fun x => x.ref b))
      starts (s1.takePages .releasing refs) { c with src := kv, dst := 0, furl := [], outs := [], reads := [], pages := refs, parts := [] }) ∧
    (dCmd d = 0x15 → mCopyo d = true → ∀ s1 kv e fu os, s.startHandles c.slot [mH1 d, mH0 d] = .ok (s1, [kv, e]) →
      hCheck kv (kvOk kv) true false = none → hCheck e (outKind e) false true = none → mC d ≠ 0 → s1.rangeBad c e (mOff d) (4096 * mC d) = none →
      let refs := (kvBlocks d).filterMap (fun b => (s1.blockOf c kv (mA d) (mKvHead d) b).map (fun x => x.ref b))
      s1.furlongs c .read (refFurlongs kv false refs) = .ok fu →
      s1.copyOuts c e refs = .ok os →
      starts (s1.takePages .releasing refs) { c with
        src := kv, dst := e, furl := fu, outs := os, reads := (valsOf fu).eraseDups, pages := refs, parts := diesOf refs })) ∧
  (∀ (q die : Nat) (s : State) (c : Cmd), q < 4 → s.headCmd (.mem q) = some c → c.started = true → c.finished = false → die ∈ c.parts →
    (∀ h ∈ s.holds, ∀ f ∈ h.furlongs, f ∉ c.reads) →
    (∀ x ∈ s.quads, ∀ o, x.2.q.head? = some o → o.started = true → die ∈ o.parts → o.sent < c.sent → ∀ h ∈ s.holds, ∀ f ∈ h.furlongs, f ∉ o.reads) →
    ∃ (t : State) (c1 : Cmd), exec (.memoryPart q die) s = .next (t.setHeadCmd (.mem q) c1) ∧ c1.parts = c.parts.filter (· != die) ∧
      c1.desc = c.desc ∧ c1.slot = c.slot ∧ c1.started = true ∧ c1.finished = false) ∧
  (∀ (u : Nat) (s : State), u ∈ s.xpwrDue → ∃ t, exec (.xpwrPoisonWrite u) s = .next t ∧ u ∈ t.devPoison ∧ u ∉ t.devUe ∧ u ∉ t.devCe ∧ u ∉ t.xpwrDue ∧
    t.dev = s.dev ∧ t.l2 = s.l2) ∧
  (∀ (u : Nat) (s : State), u ∈ s.scrubDue → ∃ t, exec (.scrub u) s = .next t ∧ u ∉ t.devCe ∧ u ∉ t.scrubDue ∧ t.dev = s.dev ∧
    t.devPoison = s.devPoison ∧ t.devUe = s.devUe) ∧
  (∀ (die bank : Nat) (s : State), die < 64 → bank < 32 → exec (.refresh die bank) s = .next s) ∧
  (∀ (line : Nat) (s : State) (x : BitVec 512), line < 2 ^ 46 → tabWf s.l2 = true → tabFind s.l2 line = some x → line ∉ s.arr.l2Ue → line ∉ s.arr.l2Ce →
    ∃ t, exec (.l2WriteBack line) s = .next t ∧ t.dev = s.dev.write (64 * line) (leBytes 64 x.toNat) ∧ tabFind t.l2 line = none ∧
      (∀ k, k ≠ line → tabFind t.l2 k = tabFind s.l2 k) ∧ (line ∈ t.devPoison ↔ line ∈ s.arr.l2Poison)) ∧
  (∀ (o : Owner) (sp : MemSpace) (line : Nat) (s : State), spaceLine sp line = true → ownerOk o sp = true →
    ∃ t, exec (.deadAgent ⟨o, sp⟩ line) s = .next t ∧ (sp = .host → line ∈ t.hostPoison) ∧ (sp = .pool → line ∈ t.poolPoison)) ∧
  (∀ (core region : Nat) (s : State), core < 64 →
    (∀ k ent, tabFind (s.core core).known region = some k → s.regionNow core region = some ent →
      ∃ n ≤ (regionRound ent - k).toNat, exec (.radvMessage core region) s = .next (s.modCore core (fun c => { c with
        known := tabPut c.known region (k + BitVec.ofNat 32 n) }))) ∧
    (tabFind (s.core core).known region = none → exec (.radvMessage core region) s = .next s)) ∧
  (∀ (core region : Nat) (round : BitVec 32) (s : State) (ent : BitVec 128), core < 64 → s.regionNow core region = some ent →
    (ent.getLsbD 1 = false → exec (.pushMarker core region round) s = .next s) ∧
    (ent.getLsbD 1 = true → (regionRound ent - round).toNat < 2 ^ 31 → ∃ (n : BitVec 32) (f : StampCopy → StampCopy),
      exec (.pushMarker core region round) s = .next ((s.modCore (s.leadOf core) (fun c => { c with known := tabPut c.known region n })).modCore core
        (fun c => { c with stamps := c.stamps.map f })) ∧
      (n = round ∨ n = s.knownRound (s.leadOf core) region ent) ∧
      (∀ y, y.region = region → (round - y.stamp).toNat < 2 ^ 31 → (f y).stamp = round ∧ (f y).line = y.line) ∧
      (∀ y, y.region ≠ region → f y = y)))

/-! ## Events of the command processor -/

/-- R326, R328, R330: a NOP is consumed; a packet of a type that its queue does not allow is refused; WAIT is consumed once its condition
holds and else begins to wait, until its time is over and the queue stalls; its read is an acquire; SIGNAL adds, a release at system
scope. R326, R329, R331: a notify wakes the thread of its queue, which looks at its next slot and sleeps again where that is not VALID, or
sets PEND, or is dropped and counted; a LAUNCH with its SUB packets presents a bundle named by the queue and its count of launches, or is
refused. The model's own choices in it: the threads' accesses (log 49), the code of a refusal (log 50), poison (log 91) and what happens
before what (logs 36 and 70). -/
def Obligations.QueuePacketsAndLaunches : Prop :=
  ((∀ (n : Nat) (s t : State) (p : Packet), Serves s n p (· == 0) → p.consume p.s 1 = .ok t → exec (.nopPacket n) s = .next t) ∧
  (∀ (n : Nat) (s s1 t : State) (p : Packet), Serves s n p (fun x => !(typeAllowed p.q.typ.toNat x)) →
    let img := if pktType p.d = 1 then p.s.imageFind p.q.pasid (p.d.extractLsb' 32 16) else none
    p.s.announce p.q.pasid (p.q.slotVa p.q.ridx.toNat) (p.d.extractLsb' 320 64) ((img.map (fun i => i.trail)).getD 3) p.q.msiv.toNat (5 * 2 ^ 36) 5 0
      (p.s.thread n).seen = .ok s1 → p.consume s1 1 = .ok t → exec (.nopPacket n) s = .next t) ∧
  (∀ (n : Nat) (s : State) (p : Packet) (ps : List Piece), Serves s n p (· == 3) → p.q.typ ≠ 3 →
    p.s.cpPlace p.q.pasid .read (p.d.extractLsb' 64 64) 8 = .ok ps →
    let g := p.s.readPieces cpUnit ps
    (waitHolds p.d (leNat g.bytes) = true → ∀ t,
      p.consume ((g.s.setThread n { g.s.thread n with waitSince := none }).threadGains n ps) 1 = .ok t → exec (.waitPacket n) s = .next t) ∧
    (waitHolds p.d (leNat g.bytes) = false → (s.thread n).waitSince = none →
      exec (.waitPacket n) s = .next (g.s.setThread n { g.s.thread n with waitSince := some s.time })) ∧
    (waitHolds p.d (leNat g.bytes) = false → ∀ t0, (s.thread n).waitSince = some t0 → fld p.d 192 32 ≠ 0 → t0 + 1000 * fld p.d 192 32 ≤ s.time →
      exec (.queueWaitTimeout n) s = .next ((g.s.setThread n { g.s.thread n with waitSince := none }).stallQueue p.k 1))) ∧
  (∀ (n : Nat) (s t : State) (p : Packet) (ps : List Piece), Serves s n p (· == 4) → p.q.typ ≠ 3 →
    p.s.cpPlace p.q.pasid .atomic (p.d.extractLsb' 64 64) 8 = .ok ps → (∀ a b c, ps ≠ [.remote a b c]) →
    let g := p.s.readPieces cpUnit ps
    p.consume ((g.s.writeAtomic (.device .processor) false (leBytes 8 ((leNat g.bytes + fld p.d 128 64) % 2 ^ 64)) ps).hwRelease .processor ps
      (p.s.thread n).seen) 1 = .ok t →
    exec (.signalPacket n) s = .next t)) ∧
  ((∀ (pasid : BitVec 20) (qnum : BitVec 12) (s : State) (k : Nat), s.qcbOf pasid qnum = some k →
    ((s.qcb k).mapped = false → exec (.notifyWrite pasid qnum) s = .next (s.setQcb k { s.qcb k with pend := true })) ∧
    ((s.qcb k).mapped = true →
      let n := (s.qcb k).thread.toNat
      let woken := s.setThread n { s.thread n with wake := true }
      ((s.qcb k).stall = true ∨ (s.thread n).waitSince.isSome = true → exec (.notifyWrite pasid qnum) s = .next woken) ∧
      ((s.qcb k).stall = false → (s.thread n).waitSince = none → (s.thread n).qcb = some k →
        (∀ s1 d, woken.readSlot (s.qcb k) 0 = .ok (s1, d) →
          (pktValid d = true → exec (.notifyWrite pasid qnum) s = .next woken) ∧
          (pktValid d = false → exec (.notifyWrite pasid qnum) s = .next (woken.setThread n { s.thread n with wake := false }))) ∧
        (∀ b, woken.readSlot (s.qcb k) 0 = .error b → exec (.notifyWrite pasid qnum) s = .next woken)))) ∧
  (∀ (pasid : BitVec 20) (qnum : BitVec 12) (s : State), s.qcbOf pasid qnum = none → s.ndrop ≠ BitVec.allOnes 64 →
    exec (.notifyWrite pasid qnum) s = .next (({ s with ndrop := s.ndrop + 1 } : State).hostEvent 2 pasid qnum 0)) ∧
  (∀ (n : Nat) (s : State) (p : Packet) (subs : List (BitVec 512)), Serves s n p (· == 1) → p.q.typ ≠ 3 →
    p.s.readSubs p.q 1 (fld p.d 16 4) = .ok (some subs) →
    let img := p.s.imageFind p.q.pasid (p.d.extractLsb' 32 16)
    let ahead (b : Bundle) : Prop := b.qcb = some p.k ∧ b.pasid = p.q.pasid ∧ b.id.toNat % 4096 = p.q.qnum.toNat
    (launchRefused p.q img p.d subs = false → p.d.getLsbD 9 = true → (∃ b ∈ p.s.bundles, ahead b) → exec (.launch n) s = .next s) ∧
    (launchRefused p.q img p.d subs = false → (p.d.getLsbD 9 = true → ∀ b ∈ p.s.bundles, ¬ahead b) →
      let s1 := p.s.setQcb p.k { p.q with seq := p.q.seq + 1 }
      ∀ b t, b = p.bundle subs → p.consume { s1 with bundles := s1.bundles ++ [b], timeLocked := true } (1 + subs.length) = .ok t →
        exec (.launch n) s = .next t ∧ b.st = .presented ∧ b.pasid = p.q.pasid ∧ b.lnch = b.id ∧ b.dlsec = p.d.extractLsb' 112 48 ∧
        b.id = BitVec.ofNat 64 ((p.q.seq + 1).toNat * 2 ^ 32 + p.q.pasid.toNat * 2 ^ 12 + p.q.qnum.toNat)) ∧
    (launchRefused p.q img p.d subs = true → ∀ s1 t,
      p.s.announce p.q.pasid (p.q.slotVa p.q.ridx.toNat) (p.d.extractLsb' 320 64) ((img.map (fun i => i.trail)).getD 3) p.q.msiv.toNat
        (5 * 2 ^ 36) 5 0 (p.s.thread n).seen = .ok s1 → p.consume s1 (1 + subs.length) = .ok t → exec (.launch n) s = .next t)))

/-- R324, R325, R344, R363, R364, R407: what the control packets do, each with the code that it ends with. The model's own choices in it:
the tables of an image (log 17), the loader's order (log 52) and its checks (log 92). -/
def Obligations.ControlPackets : Prop :=
  (∀ (n : Nat) (s : State) (p : Packet), Controls s n p 0x10 → fld p.d 64 6 = 0 →
    let img := p.s.imageFind (ctlPasid p.d) (ctlImage p.d)
    (img.isSome = true → ∀ t, EndsWith p p.s 1 t → exec (.register n) s = .next t) ∧
    (img = none → ∀ ps, sigBytes + 256 ≤ fld p.d 128 64 →
      p.s.cpPlace (ctlPasid p.d) .read (p.d.extractLsb' 64 64) (fld p.d 128 64) = .ok ps → (p.s.readPieces cpUnit ps).poison = none →
      let g := p.s.readPieces cpUnit ps
      (g.s.loaderCode (ctlPasid p.d) g.bytes = 0 → ∀ t, EndsWith p (g.s.loadImage (ctlPasid p.d) (ctlImage p.d) g.bytes) 0 t →
        exec (.register n) s = .next t) ∧
      (g.s.loaderCode (ctlPasid p.d) g.bytes ≠ 0 → ∀ t, EndsWith p g.s (g.s.loaderCode (ctlPasid p.d) g.bytes) t →
        exec (.register n) s = .next t))) ∧
  (∀ (n : Nat) (s : State) (p : Packet), Controls s n p 0x11 →
    let pasid := ctlPasid p.d
    let id := ctlImage p.d
    (p.s.imageFind pasid id = none → ∀ t, EndsWith p p.s 0x0B t → exec (.unregister n) s = .next t) ∧
    ((p.s.imageFind pasid id).isSome = true → (∃ b ∈ p.s.bundles, b.pasid = pasid ∧ b.image = id) →
      ∀ t, EndsWith p p.s 8 t → exec (.unregister n) s = .next t) ∧
    ((p.s.imageFind pasid id).isSome = true → (∀ b ∈ p.s.bundles, ¬(b.pasid = pasid ∧ b.image = id)) → ∀ t,
      EndsWith p { p.s with images := p.s.images.filter (fun i => !(i.pasid == pasid && i.id == id)) } 0 t → exec (.unregister n) s = .next t)) ∧
  (∀ (n : Nat) (s : State) (p : Packet), Controls s n p 0x12 → fld p.d 64 12 = 0 → 4 ≤ fld p.d 144 4 → fld p.d 140 2 ≠ 1 →
    let key := p.s.qcbOf (ctlPasid p.d) (p.d.extractLsb' 128 12)
    (∀ k t, key = some k → (p.s.qcb k).stall = true → EndsWith p ((p.s.setQcb k { p.s.qcb k with stall := false }).wakeQueue k) 0 t →
      exec (.mapq n) s = .next t) ∧
    (∀ k t, key = some k → (p.s.qcb k).stall = false → EndsWith p p.s 1 t → exec (.mapq n) s = .next t) ∧
    (∀ k t, key = none → p.s.freeQcb (ctlPasid p.d) (p.d.extractLsb' 128 12) = some k →
      EndsWith p (p.s.setQcb k { st := 1, typ := p.d.extractLsb' 140 2, prio := p.d.extractLsb' 142 2, pasid := ctlPasid p.d
                                 qnum := p.d.extractLsb' 128 12, log2n := p.d.extractLsb' 144 4, msiv := p.d.extractLsb' 148 11
                                 ring := p.d.extractLsb' 64 64, ctxd := p.s.ctxdOf (ctlPasid p.d) }) 0 t →
      exec (.mapq n) s = .next t)) ∧
  (∀ (n : Nat) (s : State) (p : Packet), Controls s n p 0x13 →
    let key := p.s.qcbOf (ctlPasid p.d) (p.d.extractLsb' 128 12)
    (∀ k t, key = some k → EndsWith p p.s 0 t → exec (.unmapq n) s = .next (t.dropQcb k)) ∧
    (∀ t, key = none → EndsWith p p.s 0x0B t → exec (.unmapq n) s = .next t)) ∧
  (∀ (n : Nat) (s : State) (p : Packet), Controls s n p 0x14 →
    let lo := fld p.d 64 64
    let hi := lo + fld p.d 128 64
    lo % 4096 = 0 → hi % 4096 = 0 → lo < hi → hi ≤ 2 ^ 64 → (p.s.pasidEntry (ctlPasid p.d)).getLsbD 0 = true →
    (p.s.revokeLeaves (ctlPasid p.d) hi ((hi - lo) / 4096 + 1) lo = none → ∀ t, EndsWith p p.s 0x0A t → exec (.revoke n) s = .next t) ∧
    (∀ ls t, p.s.revokeLeaves (ctlPasid p.d) hi ((hi - lo) / 4096 + 1) lo = some ls → (∀ x ∈ ls, leafBusy x.2.1 = false) →
      (∀ x ∈ ls, p.s.settleAll.outsIn (pteSpace x.2.1) (pteFrame x.2.1) (pteSize x.2.1) = false) →
      EndsWith p ((ls.foldl (fun t x => t.revokePage (ctlPasid p.d) x) p.s.settleAll).revokeHeld (ctlPasid p.d) lo hi) 0 t →
      exec (.revoke n) s = .next t)) ∧
  (∀ (n : Nat) (s : State) (p : Packet), Controls s n p 0x15 →
    let b? := p.s.bundles.find? (fun b => b.pasid == ctlPasid p.d && b.lnch == p.d.extractLsb' 256 64)
    (∀ b t, b? = some b → EndsWith p (p.s.tearDown b) 0 t → exec (.kill n) s = .next t) ∧
    (∀ t, b? = none → EndsWith p p.s 0x0B t → exec (.kill n) s = .next t))

/-- R325, R326, R332 to R339, R341, R343, R344: by GO a group's records are bound whole or refused whole; a bundle's prologue copies are
issued first, and once they have completed with CODE 1 all its strands start and its other jobs are issued in one step, while a prologue
that failed stops it; a bundle that is over is announced and retired; a pre-emption asks, saves, with the messages of the group that it
has not taken, and resumes the group as a whole, all by the leader's policy, which dispatches a bundle or pre-empts one for it. The
model's own choices in it: placement (log 19), the saved bundles (log 18), the order of an instance's records (log 54), the bind and its
result descriptor (log 53), the end of a context (log 80), a pre-emption during a held access (log 69), a SYSCALL that is overtaken (log
85), the privilege and the descriptors of jobs (logs 91, 93 and 94), a queue that is gone (log 95). -/
def Obligations.BundlesRunAsOne : Prop :=
  (∀ (id : Word) (s : State) (l x : Nat × BindRec) (g : List (Nat × BindRec)), s.leaderRuns = true → (s.groupOf id).getLast? = some l →
    let s0 : State := { s with binds := tabPut s.binds l.1 { l.2 with go := true } }
    byInstance (s0.groupOf id) = x :: g → (x :: g).any (fun y => y.2.go) = true →
    ((∀ b, s.bundle id = some b → b.st = .presented) → s0.groupOk (x :: g) = false →
      exec (.bindGroupCommit id) s = .next (s0.setBinds (x :: g) (fun r => { r with rfsd := true }))) ∧
    (∀ b, s.bundle id = some b → b.st = .presented → s0.groupOk (x :: g) = true →
      let s1 := (x :: g).foldl (fun t y => t.claimSlot y) (s0.setBinds (x :: g) (fun r => { r with state := 1 }))
      exec (.bindGroupCommit id) s = .next (s1.setBundle { b with
        st := .bound, slots := if b.total = 0 then [] else (x :: g).map Prod.fst, home := x.1, area := s0.freeArea b.pasid })) ∧
    (s.bundle id = none → s0.groupOk (x :: g) = true →
      let b : Bundle := { id := id, lnch := x.2.lnch, pasid := x.2.pasid, image := x.2.image, dlsec := 0xFFFFFFFFFFFF, subs := [⟨x.2.strd.toNat, 1⟩] }
      let s1 := s0.setBinds (x :: g) (fun r => { r with state := 1 })
      let s2 := (x :: g).foldl (fun t y => t.claimSlot y) { s1 with bundles := s1.bundles ++ [b] }
      exec (.bindGroupCommit id) s = .next (s2.setBundle { b with st := .bound, slots := (x :: g).map Prod.fst, home := x.1, area := s0.freeArea b.pasid }))) ∧
  (∀ (id : Word) (s : State) (b : Bundle), s.bundle id = some b → b.st = .bound →
    let pro := b.jobs.filter (fun j => j.pro)
    ((∃ j ∈ pro, j.issued = false) → s.jobRoom b pro = true → s.jobsHeld b (fun j => j.pro) = none →
      exec (.bundleStart id) s = .next (issueJobs s b (fun j => j.pro))) ∧
    ((∃ j ∈ pro, j.issued = false) → s.jobRoom b pro = false → exec (.bundleStart id) s = .next s) ∧
    ((∀ j ∈ pro, j.issued = true) → (∃ j ∈ pro, j.code = none) → exec (.bundleStart id) s = .next s) ∧
    ((∀ j ∈ pro, j.issued = true ∧ j.code ≠ none) → (∃ j ∈ pro, j.code ≠ some 1) →
      exec (.bundleStart id) s = .next (s.setBundle { b with st := .started, slots := [], engineError := true, jobs := pro })) ∧
    ((∀ j ∈ pro, j.issued = true ∧ j.code = some 1) → ∀ img, s.jobRoom b (b.jobs.filter (fun j => !j.pro)) = true →
      s.imageFind b.pasid b.image = some img →
      let s1 := b.slots.foldl (fun t n => t.bindStrand b img n) s
      (∀ n ∈ b.slots, s1.rdPlace n ≠ .error .moving) → s1.jobsHeld b (fun j => !j.pro) = none →
      exec (.bundleStart id) s = .next (issueJobs (s1.setBundle { b with st := .started }) b (fun j => !j.pro)))) ∧
  (∀ (id : Word) (s s1 : State) (b : Bundle), s.bundle id = some b → s.bundleOver b = true → b.heldBy = none →
    (b.qcb = none → exec (.bundleComplete id) s = .next (s.retireBundle b)) ∧
    (∀ k, b.qcb = some k → (s.queueHas b k = true → ¬(b.heldUp = true ∧ (s.qcb k).stall = true) ∧
        ((s.qcb k).mapped = true → (s.thread (s.qcb k).thread.toNat).held = none)) →
      s.announce b.pasid b.packet b.sigva (b.trail s) b.msiv (trailerWord b.ncom b.nexp b.nnc b.nkill b.code) b.code b.skip
        (s.bundleClock b) = .ok s1 → exec (.bundleComplete id) s = .next (s1.retireBundle b))) ∧
  (∀ (id : Word) (s : State) (b : Bundle), s.leaderRuns = true → s.bundle id = some b → b.st = .started ∨ b.st = .bound →
    (∃ x ∈ s.binds, x.2.valid = true ∧ x.2.bndl = id ∧ x.2.state = 1) →
    exec (.preemptRequest id) s = .next ((b.slots.foldl (fun t n => t.modStrand n (fun u =>
      if u.lnch = b.lnch && !(ended u) then { u.abandonWfe with preempting := true, calling := if u.inTlbi then u.calling else none } else u))
        (s.markBinds id 1 2)).setBundle { b with st := .saving })) ∧
  (∀ (id : Word) (s : State) (b : Bundle), s.bundle id = some b → s.bundleReady b = true →
    let log := s.contribs.filter (s.groupMessage b)
    let s0 : State := { s with contribs := s.contribs.filter (fun x => !(s.groupMessage b x)) }
    ((logEntries log).length > 2046 → exec (.preemptSaveComplete id) s = .next (s.tearDown b)) ∧
    ((logEntries log).length ≤ 2046 →
      ∃ b1, exec (.preemptSaveComplete id) s = .next (((((s.liveSlots b).foldl (fun t n => t.clearL1s n)
          (s0.writeSave { b with log := log } (s.liveSlots b))).clearOut b (s.liveSlots b)).markBinds id 2 3).setBundle b1) ∧
        b1.st = .saved ∧ b1.id = b.id ∧ b1.savedTime = s.time ∧ b1.savedCmds = s.bundleCmds b ∧ b1.savedRecs = (s.liveSlots b).map s.bind ∧ b1.log = log)) ∧
  (∀ (id : Word) (s : State) (b : Bundle) (l : Nat × BindRec), s.leaderRuns = true → s.bundle id = some b → b.st = .saved →
    (s.groupOf id).getLast? = some l →
    let s0 : State := { s with binds := tabPut s.binds l.1 { l.2 with go := true } }
    let g := s0.groupOf b.id
    g.any (fun y => y.2.go) = true →
    (s0.groupOk g = false ∨ coresKept g = false ∨ g.length ≠ b.saved.length →
      exec (.resume id) s = .next (s0.setBinds g (fun r => { r with rfsd := true }))) ∧
    (s0.groupOk g = true → coresKept g = true → g.length = b.saved.length → (newSlots b g).length = b.saved.length → ∃ (t : State) (b1 : Bundle),
      exec (.resume id) s = .next (t.setBundle b1) ∧ b1.id = b.id ∧ b1.saved = [] ∧ b1.savedCmds = [] ∧ b1.log = [] ∧
        (b1.st = .started ∨ b1.st = .bound))) ∧
  (∀ (s : State) (p : BitVec 20), s.leaderRuns = true → s.goneContext = some p → exec .policyDispatch s = .next (s.endContext p)) ∧
  (∀ (s : State) (n : Nat) (k : Nat) (q : Qcb) (r : Tab Qcb), s.leaderRuns = true → s.goneContext = none → s.freeThread = some n →
    s.qcbs.filter (fun x => x.2.st == 1 && !x.2.mapped) = (k, q) :: r →
    exec .policyDispatch s = .next ((s.setQcb k { s.qcb k with mapped := true, thread := BitVec.ofNat 5 n, pend := false }).setThread n
      { qcb := some k, wake := true })) ∧
  (∀ (s t : State) (b : Bundle) (r : List Bundle), s.leaderRuns = true → s.goneContext = none → s.mapQueue = none → s.candidates = b :: r →
    s.victimLeft b = false →
    (∀ g, s.planFor b = some g → s.bindPlan b g = some t → exec .policyDispatch s = .next t) ∧
    (∀ v, s.planFor b = none → s.slackq b < 100 → s.victim b = some v →
      preemptRequest? v.id (s.setBundle { b with waitsFor := some v.id }) = some t → exec .policyDispatch s = .next t)) ∧
  (∀ (s : State), s.leaderRuns = false → exec .policyDispatch s = .next s ∧ ∀ id, exec (.bindGroupCommit id) s = .next s ∧
    exec (.preemptRequest id) s = .next s ∧ exec (.resume id) s = .next s)

/-! ## Faults, moves and the host -/

/-- R353, R378: "resolve" lets what a record's SEQ holds run again: a queue's head, a command, a thread of the command processor, a
bundle's completion; "deliver" raises the trap of the record's kind in its place, and a thread's queue stalls; a SEQ that names none does
nothing. R354 to R356, R361: a descriptor of the migration engine moves a page whole and then rewrites its leaf in all of its replicas,
settles it, unsettles it, or changes its bias in two steps with the page FLIPPING between them; a descriptor that fails ends with BADARG,
a settled page with STATUS 2, a full history with STATUS 3; a page under a move or a flip, or that a running command writes, is waited
for. The model's own choices in it: descriptor checks and the steps of a move (log 56) and the log's SEQ (log 58). -/
def Obligations.HoldsMovesAndFlips : Prop :=
  ((∀ (seq : BitVec 32) (s : State), (∀ h ∈ s.held, h.seq ≠ seq) →
    exec (.frespResolve seq) s = .next s ∧ exec (.frespDeliver seq) s = .next s) ∧
  (∀ (s : State) (h : Held), s.held.find? (fun x => x.seq == h.seq) = some h →
    let asked : State := if h.kind = .league then { s with rel := { s.rel with strangers := [] } } else s
    let r1 : State := { asked with held := asked.held.filter (fun x => x.seq != h.seq) }
    let d1 : State := { s with held := s.held.filter (fun x => x.seq != h.seq) }
    (∀ (slot : Nat) (q : Queue), h.holder = .access slot q →
      let free (l : List QEntry) : List QEntry := l.map (fun e => if e.held = some h.seq then { e with held := none } else e)
      let t := s.strand slot
      let t1 : Strand := { t with
        lq := free t.lq, sq := free t.sq
        st := if t.st = .held && (free t.lq ++ free t.sq).all (fun e => e.held.isNone) then .run else t.st }
      exec (.frespResolve h.seq) s = .next (r1.setStrand slot t1) ∧
      (∀ e r, t.queue q = e :: r → e.held = some h.seq →
        let d2 := d1.setStrand slot t1
        exec (.frespDeliver h.seq) s = .next (d2.raiseTrap slot
          { code := match h.kind with | .perm => .permission | .materialise => .constWrite | .league => .dataPoison | _ => .pageFault
            eng := engOf q, subc := match h.kind with | .materialise => 0 | .league => 2 | _ => h.acc
            behind := ((d2.strand slot).queue q).length - 1, pos := e.pos, qent := e.ring }))) ∧
    (∀ (w : Where) (c : Cmd), h.holder = w.holder → s.headCmd w = some c → c.held = some h.seq →
      let r2 := r1.cmdBar c none (barFlag 208 false)
      let d2 := d1.cmdBar c none (barFlag 208 false)
      exec (.frespResolve h.seq) s = .next (r2.1.setHeadCmd w { r2.2 with held := none, delivered := none }) ∧
      exec (.frespDeliver h.seq) s = .next (d2.1.setHeadCmd w { d2.2 with held := none, delivered := some (deliverCode h) })) ∧
    (∀ n, h.holder = .thread n → exec (.frespResolve h.seq) s = .next (r1.setThread n { s.thread n with held := none }) ∧
      ∀ k, (s.thread n).qcb = some k →
        exec (.frespDeliver h.seq) s = .next ((d1.setThread n { s.thread n with held := none }).stallQueue k hevFault)) ∧
    (∀ id, h.holder = .completion id →
      exec (.frespResolve h.seq) s = .next { r1 with bundles := r1.bundles.map (fun b => if b.id = id then { b with heldBy := none } else b) } ∧
      exec (.frespDeliver h.seq) s = .next { d1 with
        bundles := d1.bundles.map (fun b => if b.id = id then { b with heldBy := none, skip := b.failing } else b) }))) ∧
  ((∀ (op : Nat) (ev : Instr), (op, ev) ∈ [(0, Instr.move), (1, .fliph), (2, .flipd), (3, .unsettle)] → ∀ (s : State) (d : BitVec 256),
    let u := if op = 3 then s else s.settleAll
    u.mvHead = some d → mvOp d = op → (u.mvLeaf d = none ∨ ∃ p o, u.mvLeaf d = some (p, o) ∧ mvBad d p = true) →
    exec ev s = .next (u.mvEnd 4 0)) ∧
  (∀ (s0 s : State) (d : BitVec 256) (p : BitVec 64) (o : Nat), s = s0.settleAll → s.mvHead = some d → s.mvLeaf d = some (p, o) →
    mvBad d p = false →
    let size := pteSize p
    let pasid := mvPasid d
    (mvOp d = 0 → leafBusy p = true → exec .move s0 = .next s0) ∧
    (mvOp d = 0 → leafBusy p = false → p.getLsbD 55 = true → exec .move s0 = .next (s.mvEnd 2 0)) ∧
    (mvOp d = 0 → leafBusy p = false → p.getLsbD 55 = false → s.histFull pasid (d.extractLsb' 64 64) = true → exec .move s0 = .next (s.mvEnd 3 0)) ∧
    (mvOp d = 0 → leafBusy p = false → p.getLsbD 55 = false → s.histFull pasid (d.extractLsb' 64 64) = false →
      s.outsIn (pteSpace p) (pteFrame p) size = false →
      let s2 := ((((s.modLeaf p o (fun x => setFld x 54 1 1)).dropTlb pasid (mvVa d) size).cleanRange (pteSpace p) (pteFrame p) size).dropCopies
        pasid (mvVa d) (pteSpace p) (pteFrame p) size).recallRange (pteSpace p) (pteFrame p) size
      let g := s2.readPieces svcUnit (s2.framePieces (pteSpace p) (pteFrame p) size)
      (∀ i < size / 64, (s2.readPieces svcUnit (s2.framePieces (pteSpace p) (pteFrame p + 64 * i) 64)).poison = none) →
      exec .move s0 = .next { (g.s.writePieces (.device .service) true g.bytes (g.s.framePieces (mvSpace d) (mvFrame d) size)).moveRels (pteSpace p)
        (pteFrame p) (mvSpace d) (mvFrame d) size with moving := some { desc := setFld d 192 8 1 } }) ∧
    (∀ ev : Instr, (mvOp d, ev) ∈ [(1, Instr.fliph), (2, .flipd)] → (leafBusy p = true → exec ev s0 = .next s0) ∧
      (leafBusy p = false → exec ev s0 = .next { (s.modLeaf p o (fun x => setFld x 52 2 2)).dropTlb pasid (mvVa d) size with
        moving := some { desc := d } }))) ∧
  (∀ (s : State) (m : Moving) (p : BitVec 64) (o : Nat), s.moving = some m → s.mvLeaf m.desc = some (p, o) →
    let size := pteSize p
    let ended (t : State) (bias : Nat) : Out :=
      .next ((State.mvEnd { t.modLeaf p o (fun x => setFld x 52 2 bias) with moving := none } 1 0).retryResults)
    (mvOp m.desc = 1 → s.outsIn .il (pteFrame p) size = false → exec .fliph s =
      ended ((s.cleanRange .il (pteFrame p) size).dropCopies (mvPasid m.desc) (mvVa m.desc) .il (pteFrame p) size) 1) ∧
    (mvOp m.desc = 2 → s.outsIn .il (pteFrame p) size = false → exec .flipd s = ended (s.recallRange .il (pteFrame p) size) 0)) ∧
  (∀ (s : State) (d : BitVec 256) (p : BitVec 64) (o : Nat), s.mvHead = some d → s.mvLeaf d = some (p, o) → mvBad d p = false → leafBusy p = false →
    let pasid := mvPasid d
    (mvOp d = 3 → ∃ s1 : State, s1 = s.modLeaf p o (fun x => setFld x 55 1 0) ∧ exec .unsettle s = .next (State.mvEnd { s1 with
      hist := s1.hist.filter (fun h => !(h.pasid == pasid && h.va == d.extractLsb' 64 64)) } 1 0))) ∧
  (∀ (s : State) (m : Moving) (p : BitVec 64) (o : Nat), s.moving = some m → mvOp m.desc = 0 → s.mvLeaf m.desc = some (p, o) →
    let d := m.desc
    let va : Word := d.extractLsb' 64 64
    let n := (s.movesOf (mvPasid d) va).length + 1
    let placed (x : BitVec 64) : BitVec 64 := setFld (setFld (setFld (setFld x 6 2 (fld d 128 2)) 12 40 (fld d 140 40)) 54 1 0) 52 2 0
    let ended (t : State) : Out := .next ((State.mvEnd { t with moving := none } (fld d 192 8) n).retryResults)
    (n < s.lim.toNat → exec .moveComplete s = ended ((s.modLeaf p o (fun x =>
      if mvSpace d = .il then setFld (placed x) 56 1 0 else placed x)).dropUncoded.addMove (mvPasid d) va)) ∧
    (s.lim.toNat ≤ n → s.fqFull = true → exec .moveComplete s = .next s) ∧
    (s.lim.toNat ≤ n → s.fqFull = false → exec .moveComplete s = ended (((s.modLeaf p o (fun x =>
      setFld (setFld (placed x) 56 1 0) 55 1 1)).dropUncoded.addMove (mvPasid d) va).postFault { kind := .settled, va := va, pasid := mvPasid d }))))

/-- R352, R357, R359, R360, R362, R378: a host read or write through the aperture takes the bytes at the place that the aperture gives,
with a state of the line that in device bias is I, is answered with an error, or is held with a record, or waits for a move or for room; a
snoop answers with a dirty line, which goes home, and takes the state that its kind leaves. The model's own choices in it: the class of
the record (log 20), the host's caches (log 57), the state granted (log 88), a full filter (log 98) and what happens before what (logs 36
and 70). -/
def Obligations.HostAccesses : Prop :=
  (∀ (n off len : Nat) (s : State), off < 2 ^ 40 → 1 ≤ len → off % 64 + len ≤ 64 →
    let waits : State := { s with rel := { s.rel with hostWaits := s.rel.hostWaits ++ [.hostRead n off len] } }
    (∀ ps, s.aperture .read off len = .place ps →
      let us := hostLines ps
      let g := (((s.hostFill off).hostAsks us).hostGains n ps).readPieces hostUnit ps
      let t := (g.s.grantLines (s.hostGrant ps) us).takeFresh
      exec (.cxlMemRead ⟨n, off⟩ len) s = .next { t with outputs := t.outputs ++ [.hostData off g.bytes g.poison.isSome (s.hostGrant ps)] } ∧
      (∀ sp o k size, ps = [.mem sp o k size] → size ≠ 0 → s.hostGrant ps = .i)) ∧
    (s.aperture .read off len = .error → exec (.cxlMemRead ⟨n, off⟩ len) s = .next (s.hostError off)) ∧
    (∀ kind va, s.aperture .read off len = .held kind va → (s.holdFull kind = true → exec (.cxlMemRead ⟨n, off⟩ len) s = .next waits) ∧
      (s.holdFull kind = false →
        let r := s.postHold { kind := kind, eng := 7, acc := 0, va := va, pasid := apPasid (s.apSlot off) }
        exec (.cxlMemRead ⟨n, off⟩ len) s = .next { r.2 with
          held := r.2.held ++ [⟨r.1, kind, .hostRead n off len, apPasid (s.apSlot off), va, 0⟩] })) ∧
    (s.aperture .read off len = .moving → exec (.cxlMemRead ⟨n, off⟩ len) s = .next waits)) ∧
  (∀ (n off : Nat) (data : List Byte) (s : State), off < 2 ^ 40 → 1 ≤ data.length → off % 64 + data.length ≤ 64 →
    let waits : State := { s with rel := { s.rel with hostWaits := s.rel.hostWaits ++ [.hostWrite n off data] } }
    (∀ ps, s.aperture .write off data.length = .place ps →
      let s1 := ((((s.hostFill off).hostAsks (hostLines ps)).writePieces (.host n) (data.length == 64) data ps).hostReleases n ps).takeFresh
      exec (.cxlMemWrite ⟨n, off⟩ data) s = .next { s1 with outputs := s1.outputs ++ [.hostDone off] }) ∧
    (s.aperture .write off data.length = .error → exec (.cxlMemWrite ⟨n, off⟩ data) s = .next (s.hostError off)) ∧
    (∀ kind va, s.aperture .write off data.length = .held kind va → (s.holdFull kind = true → exec (.cxlMemWrite ⟨n, off⟩ data) s = .next waits) ∧
      (s.holdFull kind = false →
        let r := s.postHold { kind := kind, eng := 7, acc := 1, va := va, pasid := apPasid (s.apSlot off) }
        exec (.cxlMemWrite ⟨n, off⟩ data) s = .next { r.2 with
          held := r.2.held ++ [⟨r.1, kind, .hostWrite n off data, apPasid (s.apSlot off), va, 1⟩] })) ∧
    (s.aperture .write off data.length = .moving → exec (.cxlMemWrite ⟨n, off⟩ data) s = .next waits)) ∧
  (∀ (line : Nat) (s : State), line < 2 ^ 46 →
    let h := (s.noteDir .host line).noteL2 .host line
    let p := (s.noteDir .pool line).noteL2 .pool line
    let a := (h.answer .host line (tabFind h.hostL2 line)).writeBackHost line
    let b := (p.answer .pool line (tabFind p.poolL2 line)).flushPool line
    let unfetched (t : State) (k : Nat) : State := t.mapCores (fun _ c => { c with icache := c.icache.filter (fun x => x.1 != k) })
    (line ∈ a.arr.cxl.exclusive → exec (.snpdata line) s = .next (a.setCxl { a.arr.cxl with
      exclusive := setDel a.arr.cxl.exclusive line, shared := setAdd a.arr.cxl.shared line })) ∧
    (line ∉ a.arr.cxl.exclusive → exec (.snpdata line) s = .next a) ∧
    (let a1 := unfetched a (unitKey .host line)
     exec (.snpinv line) s = .next (a1.setCxl { a1.arr.cxl with exclusive := setDel a1.arr.cxl.exclusive line, shared := setDel a1.arr.cxl.shared line })) ∧
    exec (.snpcur line) s = .next (h.answer .host line (some (lineFrom (h.physByte .host) line))) ∧
    (let b1 := unfetched b (unitKey .pool line)
     exec (.bisnpinv line) s = .next (b1.setCxl { b1.arr.cxl with pool := setDel b1.arr.cxl.pool line })) ∧
    exec (.bisnpdata line) s = .next ((p.answer .pool line (some (lineFrom (p.physByte .pool) line))).writeBackPool line))

/-! ## Ports and league -/

/-- R373 to R375: a flit with a good CRC and the next sequence number is accepted once: what it acknowledges leaves the replay buffer, its
NAK has the rest resent, its slots are taken in order where it is for this device and go on the same way where it is not; any other flit
is discarded and a NAK goes back. A port sends its waiting slots, up to five of one origin and destination in a flit, with the next
sequence number and the number last accepted, keeps each flit in its replay buffer, and sends none while that holds 1,024. R376, R395: a
lane, a spare among them, is failing above 2^THR errors in an interval or on loss of lock; a free spare takes its place, by agreement with
the neighbour, with a Corrected record; with none left PEND is set, and the port goes to half width, its flits resent, or down; it trains
again only if it is not locked out. FORCE spares FLANE at once where a spare is free, and a THR outside 4 to 24 is discarded. The model's
own choices in it: the CRC (log 100), the slots (log 21) and the lanes (log 59). -/
def Obligations.FlitsLanesAndPorts : Prop :=
  ((∀ (port : Port) (flit : List Byte) (s : State), flit.length = 256 → (s.port port).up = true → flitOk (s.port port) flit = true →
    let x := s.port port
    let s1 := (s.setPort port { x with rxNext := x.rxNext + 1 }).takeAck port (flitNum flit)
    let slots := ((List.range 5).map (flitSlot flit)).filter (fun b => slotClass b != 3)
    (flDst (flitNum flit) = s.lgPos.toNat → exec (.flitReceive port flit) s = .next (slots.foldl (fun t b =>
      t.linkMessage port (flSrc (flitNum flit)) (flSeq (flitNum flit)) (Config.slotMessage b)) s1)) ∧
    (flDst (flitNum flit) ≠ s.lgPos.toNat → exec (.flitReceive port flit) s = .next (s1.sendSlots (otherPort port) (slots.map (fun b =>
      { cls := slotClass b, src := flSrc (flitNum flit), dst := flDst (flitNum flit), bytes := b })))) ∧
    exec (.flitNak port flit) s = .next s) ∧
  (∀ (port : Port) (flit : List Byte) (s : State), flit.length = 256 → (s.port port).up = true → flitOk (s.port port) flit = false →
    let x := s.port port
    let s1 := s.setPort port { x with
      nak := true, out := if x.out.isEmpty then [{ cls := 3, src := s.lgPos.toNat, dst := s.lgPos.toNat, bytes := emptySlot }] else x.out }
    exec (.flitReceive port flit) s = .next s ∧ exec (.flitNak port flit) s = .next (s1.drain port true (s1.port port).out.length)) ∧
  (∀ (port : Port) (d : BitVec 2048) (s : State),
    let x := s.port port
    let s1 := s.setPort port { x with replay := dropAcked (flAck d) x.replay }
    (flNak d = false → s.takeAck port d = s1.drain port false x.out.length) ∧
    (flNak d = true → s.takeAck port d = ({ s1 with
      outputs := s1.outputs ++ (dropAcked (flAck d) x.replay).map (fun f => .flit port f) } : State).drain port false x.out.length)) ∧
  (∀ (port : Port) (nak : Bool) (n : Nat) (s : State),
    let x := s.port port
    (x.out = [] ∨ x.up = false ∨ 1024 ≤ x.replay.length → s.drain port nak (n + 1) = s) ∧
    (∀ h r, x.out = h :: r → x.up = true → x.replay.length < 1024 →
      let mine (y : RingSlot) : Bool := y.src == h.src && y.dst == h.dst
      let f := flitMake x.txNext (x.rxNext - 1) (nak || x.nak) h.src h.dst (((x.out.filter mine).take 5).map (fun y => y.leave s.time))
      let s1 := s.setPort port { x with
        txNext := x.txNext + 1, replay := x.replay ++ [f], nak := false, out := (x.out.filter mine).drop 5 ++ x.out.filter (fun y => !(mine y)) }
      s.drain port nak (n + 1) = ({ s1 with outputs := s1.outputs ++ [.flit port f] } : State).drain port false n))) ∧
  ((∀ (port : Port) (lane count : Nat) (s : State), lane < 18 → (s.port port).up = true →
    let x := s.port port
    (count ≤ 2 ^ x.thr.toNat → exec (.laneInterval port lane count) s = .next s) ∧
    (∀ ev : Instr, ev = .lossOfLock port lane ∨ (ev = .laneInterval port lane count ∧ 2 ^ x.thr.toNat < count) →
      (laneIdle x lane = true → lane < 16 → exec ev s = .next s) ∧
      (laneIdle x lane = true → 16 ≤ lane → exec ev s = .next (s.setPort port (pended { x with deadSpares := x.deadSpares ||| spareBit (lane - 16) }))) ∧
      (laneIdle x lane = false → x.failing.getLsbD lane = true → exec ev s = .next s) ∧
      (laneIdle x lane = false → x.failing.getLsbD lane = false →
        let s1 := s.setPort port (pended { x with failing := x.failing ||| lane18 lane })
        ((s1.port port).pend = false → x.noauto = false → exec ev s = .next s1) ∧
        ((s1.port port).pend = true ∨ x.noauto = true → exec ev s = .next (s1.lanePost port 3 5))))) ∧
  (∀ (port : Port) (lane : Nat) (s : State), lane < 18 → (s.port port).up = true →
    let x := s.port port
    (∀ sp, x.failing.getLsbD lane = true → x.noauto = false → freeSpare x = some sp → exec (.laneSpare port lane) s = .next (spared s port lane sp)) ∧
    (x.failing.getLsbD lane = false ∨ x.noauto = true ∨ freeSpare x = none → exec (.laneSpare port lane) s = .next s)) ∧
  (∀ (port : Port) (s : State), (s.port port).up = true →
    let x := s.port port
    (x.pend = true → healthyLanes x ≥ 8 →
      exec (.halfWidthRetrain port) s = .next (((s.setPort port (pended { x.idleAll with half := true })).lanePost port 3 6).resend port)) ∧
    (x.pend = false ∨ healthyLanes x < 8 → exec (.halfWidthRetrain port) s = .next s) ∧
    (healthyLanes x < 8 →
      let s1 := (s.setPort port (pended { x.idleAll with up := false, locked := true, out := [], replay := [] })).lanePost port 4 7
      exec (.portDown port) s = .next (({ s1 with abortDue := s1.stepMasks.foldl setAdd s1.abortDue } : State).refuseBeyond port)) ∧
    (healthyLanes x ≥ 8 → exec (.portDown port) s = .next s)) ∧
  (∀ (port : Port) (s : State),
    ((s.port port).up = false → (s.port port).locked = false → Running s →
      exec (.portTrained port) s = .next ((s.setPort port (freshPort (s.port port))).drain port false (s.port port).out.length)) ∧
    ((s.port port).locked = true → exec (.portTrained port) s = .next s)) ∧
  (∀ (port : Port) (v : Word) (s : State),
    let x := s.port port
    let lane := fld v 7 4
    let s1 := s.setPort port { x with thr := if 4 ≤ fld v 0 5 ∧ fld v 0 5 ≤ 24 then BitVec.ofNat 5 (fld v 0 5) else x.thr, noauto := v.getLsbD 5 }
    (v.getLsbD 6 = false ∨ freeSpare x = none ∨ x.failed.getLsbD lane = true ∨ x.up = false → exec (.lkctlForce port v) s = .next s1) ∧
    (∀ sp, v.getLsbD 6 = true → freeSpare x = some sp → x.failed.getLsbD lane = false → x.up = true →
      exec (.lkctlForce port v) s = .next (spared s1 port lane sp))))

/-- R306, R307, R373, R381, R382: LGCTL's fields are written while EN is 0, and EN is set only with sizes and a position that fit; the
master sends the time every 125 µs, the members take and forward it with the time that it stays and the delay of its link, which a
timestamped exchange gives; a source that is lost gives way to the next, and its rate stays; a target steps the time before the first
launch and slews it after; a whole second raises PPS. The model's own choices in it: a failed LGCTL (log 60), the sources of time (log 61)
and the rate of one (log 81). -/
def Obligations.LeagueControlAndTime : Prop :=
  (∀ (v : Word) (s : State),
    (s.lgEn = true → v.getLsbD 0 = true → exec (.lgctlWrite v) s = .next s) ∧
    (s.lgEn = true → v.getLsbD 0 = false →
      exec (.lgctlWrite v) s = .next { s.clearSteps with lgEn := false, rel := { s.rel with strangers := [] } }) ∧
    (s.lgEn = false → v.getLsbD 0 = false → exec (.lgctlWrite v) s = .next { s with
      lgPos := v.extractLsb' 1 3, lgNm1 := v.extractLsb' 4 3, lgTmpos := v.extractLsb' 7 3, lgTmen := v.getLsbD 10 }) ∧
    (s.lgEn = false → v.getLsbD 0 = true → s.leagueOk v = false → exec (.lgctlWrite v) s = .next s) ∧
    (s.lgEn = false → v.getLsbD 0 = true → s.leagueOk v = true → ∃ t, exec (.lgctlWrite v) s = .next t ∧ t.lgEn = true ∧
      t.lgPos = v.extractLsb' 1 3 ∧ t.lgNm1 = v.extractLsb' 4 3 ∧ t.east = { s.east with locked := false } ∧
      t.west = { s.west with locked := false } ∧ (∀ g ∈ t.groups, g.2.own = 0 ∧ g.2.views = []))) ∧
  (∀ (s : State) (p : Port) (t : Nat),
    let slots := (slotsOf s.lgPos.toNat (s.neighbour p) (.time t)).map (fun x => { x with stamp := some (t, s.time) })
    s.sendTime p t = s.sendSlots p slots ∧
    ∀ x ∈ slots, ∀ now, x.leave now = (msgSlots (.time (t + (now - s.time)))).headD x.bytes) ∧
  (∀ s : State, (s.isTimeMaster = true → (∀ t, s.timeSentAt = some t → t + 125000 ≤ s.time) →
      exec .timeSend s = .next ((({ s with timeSentAt := some s.time } : State).sendTime .east s.time).sendTime .west s.time)) ∧
    (s.isTimeMaster = false ∨ (∃ t, s.timeSentAt = some t ∧ s.time < t + 125000) → exec .timeSend s = .next s)) ∧
  (∀ (port : Port) (ns : Nat) (s : State), s.lgEn = true → (s.port port).up = true →
    (s.isTimeMaster = true → exec (.timeReceive port ns) s = .next s) ∧
    (s.isTimeMaster = false →
      let t := ns + (s.port port).delay
      let s1 := s.setPort port { s.port port with timeAt := some s.time }
      let s2 := (if s.lastHop (otherPort port) then s1 else s1.sendTime (otherPort port) t).chooseSource
      exec (.timeReceive port ns) s = .next (if s2.source = .league ∧ (s.timePort = port ∨ s2.timeLive s.timePort = false) then s2.discipline true t
        else s2))) ∧
  (∀ s : State, s.source = .league → s.leagueTime = false →
    exec .timeSourceLoss s = .next { s with slew := s.slew.lose, source := ({ s with slew := s.slew.lose } : State).bestSource }) ∧
  (∀ (port : Port) (rtt : Nat) (s : State), (s.port port).up = true →
    exec (.linkDelayExchange port rtt) s = .next (s.setPort port { s.port port with delay := rtt / 2 })) ∧
  (∀ (port : Port) (src stamp : Nat) (seq : BitVec 16) (s : State),
    s.linkMessage port src seq (.delayAsk stamp) = s.sendNext port (.delayAnswer stamp) ∧
    s.linkMessage port src seq (.delayAnswer stamp) = s.setPort port { s.port port with delay := (s.time - stamp) / 2 }) ∧
  (∀ (ns : Nat) (s : State), s.slew.pinned = none →
    let w := if s.source = .ptp then s.slew else { s.slew with last := none }
    (s.timeLocked = false → exec (.ptpMessage ns) s = .next { s with
      ptpUp := true, source := .ptp, time := ns, slew := { w.hears ns with phase := 0 }
      ppsSec := if ns % 1000000000 = 0 then ns / 1000000000 + 1 else ns / 1000000000 }) ∧
    (s.timeLocked = true → exec (.ptpMessage ns) s = .next { s with
      ptpUp := true, source := .ptp, slew := { w.hears ns with phase := (ns : Int) - s.time } })) ∧
  (∀ s : State, s.ptpUp = true → ∃ t, exec .ptpSourceLoss s = .next t ∧ t.ptpUp = false ∧ t.time = s.time ∧ t.source ≠ .ptp ∧
    (s.source = .ptp → t.slew = s.slew.lose) ∧ (s.source ≠ .ptp → t.slew.rate = s.slew.rate ∧ t.slew.phase = s.slew.phase)) ∧
  (∀ s : State, s.slew.pinned = none →
    let fresh (x : TimeSource) : Discipline := if s.source = x then s.slew else { s.slew with last := none }
    let second := (s.time + 500000000) / 1000000000 * 1000000000
    (s.ptpUp = true → exec .ppsInEdge s = .next { s with ppsSeen := true, source := .ptp, slew := fresh .ptp }) ∧
    (s.ptpUp = false → s.leagueTime = false → s.timeLocked = false → exec .ppsInEdge s = .next { s with
      ppsSeen := true, source := .pps, slew := { fresh .pps with phase := 0 }, time := second, ppsSec := second / 1000000000 + 1 }) ∧
    (s.ptpUp = false → s.leagueTime = false → s.timeLocked = true → exec .ppsInEdge s = .next { s with
      ppsSeen := true, source := .pps, slew := { fresh .pps with phase := (second : Int) - s.time } })) ∧
  (∀ s : State, (s.power ≠ .off → s.sec ≠ s.ppsSec →
      exec .ppsOut s = .next { s with ppsSec := s.sec, outputs := s.outputs ++ [.pps (BitVec.ofNat 48 s.sec)] }) ∧
    (s.sec = s.ppsSec → exec .ppsOut s = .next s))

/-- R392, R393: an abort's pass 1 gathers the least step of every member of the group, each of which freezes the mask; it goes the way
round, or on a broken ring to the end of one path, back, and to the end of the other; back at its origin it becomes pass 2, which every
member takes into LGABT with a League record, its AREDUCEs of the mask ending and its users trapping STEP_ABORT; LGABT's clear makes the
agreed step this device's own. The model's own choices in it: a device alone, and the way of a pass on a broken ring (log 60). -/
def Obligations.AbortsAgreeOnAStep : Prop :=
  (∀ (mask : BitVec 8) (s : State), mask.toNat ∈ s.abortDue →
    let s1 := ({ s with abortDue := setDel s.abortDue mask.toNat } : State).freeze mask
    (s1.ringAlive = true → exec (.abortOriginate mask) s = .next (s1.sendPass (.abort1 mask s1.lgPos (s1.group mask).contribution))) ∧
    (s1.ringAlive = false → exec (.abortOriginate mask) s = .next (s1.takeAgreed mask s1.lgPos (s1.group mask).contribution))) ∧
  (∀ (m : Config.RingMsg) (s : State),
    (s.east.up = true → s.sendPass m = s.sendNext .east m) ∧ (s.east.up = false → s.west.up = true → s.sendPass m = s.sendNext .west m)) ∧
  (∀ (port : Port) (mask : BitVec 8) (orig : BitVec 3) (acc : BitVec 48) (s : State), (s.port port).up = true →
    let onward := if (s.port (otherPort port)).up then otherPort port else port
    let left := port = .east ∧ s.west.up = true
    let s1 := if mask.getLsbD s.lgPos.toNat = true ∨ orig = s.lgPos then s.freeze mask else s
    let k := if (mask.getLsbD s.lgPos.toNat = true ∨ orig = s.lgPos) ∧ ((s1.group mask).contribution).toNat < acc.toNat then (s1.group mask).contribution else acc
    (orig ≠ s.lgPos → exec (.abortPass1 ⟨port, mask⟩ orig acc) s = .next (s1.sendNext onward (.abort1 mask orig k))) ∧
    (orig = s.lgPos → left → exec (.abortPass1 ⟨port, mask⟩ orig acc) s = .next (s1.sendNext .west (.abort1 mask orig k))) ∧
    (orig = s.lgPos → ¬left → exec (.abortPass1 ⟨port, mask⟩ orig acc) s = .next ((s1.sendPass (.abort2 mask orig k)).takeAgreed mask orig k))) ∧
  (∀ (port : Port) (mask : BitVec 8) (orig : BitVec 3) (k : BitVec 48) (s : State), (s.port port).up = true →
    let onward := if (s.port (otherPort port)).up then otherPort port else port
    let m : Config.RingMsg := .abort2 mask orig k
    (orig = s.lgPos → (port = .east ∧ s.west.up = true) → exec (.abortPass2 ⟨port, mask⟩ orig k) s = .next (s.sendNext .west m)) ∧
    (orig = s.lgPos → ¬(port = .east ∧ s.west.up = true) → exec (.abortPass2 ⟨port, mask⟩ orig k) s = .next s) ∧
    (orig ≠ s.lgPos → mask.getLsbD s.lgPos.toNat = true → exec (.abortPass2 ⟨port, mask⟩ orig k) s = .next ((s.sendNext onward m).takeAgreed mask orig k)) ∧
    (orig ≠ s.lgPos → mask.getLsbD s.lgPos.toNat = false → exec (.abortPass2 ⟨port, mask⟩ orig k) s = .next (s.sendNext onward m))) ∧
  (∀ (mask : BitVec 8) (orig : BitVec 3) (k : BitVec 48) (s : State),
    let again := s.lgabtV = true ∧ s.lgabtMask = mask ∧ s.lgabtOrig = orig ∧ s.lgabtStep = k
    (again → s.takeAgreed mask orig k = s) ∧
    (¬again →
      let s1 := (({ s.freeze mask with lgabtStep := k, lgabtMask := mask, lgabtOrig := orig, lgabtV := true } : State).postError
        { cls := 4, ukind := 7, unit := 0, evt := if orig = s.lgPos then 13 else 14, stepv := k.toNat, gmask := mask.toNat }).abortReduces mask
      let s2 := (s1.stepUsers mask).foldl (fun t n => t.raiseTrap n { code := .stepAbort, eng := 0, pos := (t.strand n).pc }) s1
      s.takeAgreed mask orig k = s2.bundles.foldl (fun t b => t.abortBundle mask b) s2)) ∧
  (∀ s : State, s.lgabtV = true → ∃ t, exec .lgabtClear s = .next t ∧ t.lgabtV = false ∧
    (t.group s.lgabtMask).own = s.lgabtStep ∧ (t.group s.lgabtMask).frozen = false)

/-- R401 to R403: the power states, which are left and entered where the temperatures and the power say so, the requests of an operating
point and the steps of its change: upward VCORE slews first, downward the clock stops first. The model's own choices in it: the operating
point that the firmware takes and the sensors (log 63), a field out of range (log 64) and the stopped clock (log 66). -/
def Obligations.PowerAndClock : Prop :=
  (∀ s : State, s.power ≠ .off → ∃ t, exec .powerOff s = .next t ∧ t.power = .off ∧ t.flash = s.flash ∧ t.svnf = s.svnf ∧ t.host = s.host ∧
    t.strands = State.reset.strands ∧ t.dev = State.reset.dev) ∧
  (∀ s : State,
    let hot := 105 * 8 ≤ s.tj.toNat ∨ s.plim.toNat < s.pwr.toNat
    let cool := s.tj.toNat < 100 * 8 ∧ s.pwr.toNat < s.plim.toNat
    let trips := 115 * 8 ≤ s.tj.toNat ∨ 105 * 8 ≤ s.tmem.toNat
    (s.power = .on → hot → ∃ t, exec .throttleEntry s = .next t ∧ t.power = .throttle ∧ t.want = 0 ∧ t.throttledAt = s.time) ∧
    (¬hot → exec .throttleEntry s = .next s) ∧
    (s.power = .throttle → cool → s.throttledAt + 10000000 ≤ s.time → ∃ t, exec .throttleExit s = .next t ∧ t.power = .on ∧ t.want = s.optr) ∧
    (¬cool ∨ s.time < s.throttledAt + 10000000 → exec .throttleExit s = .next s) ∧
    (Running s → trips → ∃ t, exec .thermalTrip s = .next t ∧ t.power = .trip ∧ t.clockStopped = true ∧ t.outputs = s.outputs ++ [.thermtrip]) ∧
    (¬trips → exec .thermalTrip s = .next s)) ∧
  (∀ (v : Word) (s : State), ∃ t, exec (.pwrctlWrite v) s = .next t ∧ t.pin = v.getLsbD 3 ∧
    t.optr = (if fld v 0 3 ≤ 4 then BitVec.ofNat 3 (fld v 0 3) else s.optr) ∧
    t.plim = (if 100 ≤ fld v 16 9 ∧ fld v 16 9 ≤ 320 then BitVec.ofNat 9 (fld v 16 9) else s.plim) ∧
    (s.power = .throttle → t.want = 0) ∧ (s.power ≠ .throttle → v.getLsbD 3 = true → t.want = t.optr) ∧
    (s.power ≠ .throttle → v.getLsbD 3 = false → t.want.toNat ≤ t.optr.toNat)) ∧
  (∀ (s : State) (p : BitVec 3), s.chg = some p → Running s → s.clockStopped = false → s.vcoreMv ≠ 360 + 40 * p.toNat →
    (s.opt.toNat < p.toNat → exec .vcoreSlewDone s = .next { s with vcoreMv := 360 + 40 * p.toNat }) ∧
    (p.toNat < s.opt.toNat → exec .vcoreSlewDone s = .next s) ∧
    (p = s.opt → s.want = s.opt → exec .vcoreSlewDone s = .next { s with vcoreMv := 360 + 40 * p.toNat, chg := none })) ∧
  (∀ (s : State) (p : BitVec 3), s.chg = some p → Running s → s.clockStopped = true →
    (s.vcoreMv ≠ 360 + 40 * p.toNat → exec .clockRestart s = .next { s with opt := p, clockStopped := false }) ∧
    (s.vcoreMv = 360 + 40 * p.toNat → s.want = p → exec .clockRestart s = .next { s with opt := p, clockStopped := false, chg := none }))

/-- R387, R396 to R399: a pair whose lock-step fails leaves the healthy pairs; the leader counts its heartbeat every millisecond, and a
healthy pair takes over in two steps when it is lost, TKOVER set between them; a release of RESET_N boots the flash's image, or enters
recovery with a Fatal record, where an image that passes is run. The model's own choices in it: the parts of a firmware image (log 22),
the boot's order of checks and the takeover's steps (log 62), the journal (log 71). -/
def Obligations.ServicePairsAndFirmware : Prop :=
  (∀ (pair : Nat) (s : State), pair < 4 → Running s → s.healthy.getLsbD pair = true →
    let s1 := ({ s with healthy := s.healthy &&& ~~~(pairBit pair) } : State).postError { cls := 3, ukind := 9, unit := pair, evt := 8 }
    (s1.healthy ≠ 0 → exec (.lockstepMismatch pair) s = .next s1) ∧
    (s1.healthy = 0 → exec (.lockstepMismatch pair) s = .next (s1.postError { cls := 5, ukind := 9, unit := pair, evt := 8 }))) ∧
  (∀ s : State, s.leaderRuns = true → s.hbAt + 1000000 ≤ s.time →
    exec .heartbeat s = .next { s with hbcnt := s.hbcnt + 1, hbAt := s.time }) ∧
  (∀ s : State, Running s → s.fwState = 1 → s.healthy ≠ 0 → s.tkover = false → s.hbAt + s.hbmiss.toNat * 1000000 ≤ s.time →
    let old := s.leader.toNat
    ((∃ p < 4, s.healthy.getLsbD p = true ∧ p ≠ old) → exec .takeover s = .next { s with tkover := true }) ∧
    ((∀ p < 4, s.healthy.getLsbD p = true → p = old) →
      exec .takeover s = .next (({ s with healthy := 0, hbAt := s.time } : State).postError { cls := 5, ukind := 9, unit := old, evt := 9 }))) ∧
  (∀ s : State, s.tkover = true →
    let old := s.leader.toNat
    let s1 : State := { s with healthy := s.healthy &&& ~~~(pairBit old), hbAt := s.time, tkover := false }
    (∀ p, (List.range 4).find? (fun p => s.healthy.getLsbD p && some old != some p) = some p →
      exec .takeover s = .next (({ s1 with leader := BitVec.ofNat 2 p } : State).postError { cls := 3, ukind := 9, unit := p, evt := 10 })) ∧
    ((∀ p < 4, s.healthy.getLsbD p = true → p = old) →
      exec .takeover s = .next (s1.postError { cls := 5, ukind := 9, unit := old, evt := 9 }))) ∧
  (∀ s : State, s.power = .off →
    (firmwareFail s.svnf s.flash = 0 → ∃ t, exec .resetNRelease s = .next t ∧ t.power = .on ∧ t.healthy = 0xF ∧ t.fwState = 1 ∧ t.fwFail = 0 ∧
      t.leader = 0 ∧ t.mehead = 0 ∧ t.metail = 0 ∧ t.fqhead = 0 ∧ t.fqtail = 0 ∧ t.l2 = [] ∧ t.hostL2 = [] ∧ t.poolL2 = []) ∧
    (firmwareFail s.svnf s.flash ≠ 0 → exec .resetNRelease s = .next (({ s with
      power := .on, healthy := 0xF, fwState := 2, fwFail := firmwareFail s.svnf s.flash } : State).postError { cls := 5, ukind := 10, unit := 0, evt := 12 }))) ∧
  (∀ s : State, Running s → s.fwState = 1 → s.fwAdvance = true → s.hbcnt ≠ 0 → s.svnf.toNat < s.svni.toNat →
    exec .fuseAdvance s = .next { s with svnf := s.svni }) ∧
  (∀ (image : List Byte) (s : State), Running s → s.fwState = 2 →
    (firmwareFail s.svnf image ≠ 0 → exec (.recoveryImage image) s =
      .next (({ s with fwFail := 5 } : State).postError { cls := 5, ukind := 10, unit := 0, evt := 12 })) ∧
    (firmwareFail s.svnf image = 0 → ∃ t, exec (.recoveryImage image) s = .next t ∧ t.flash = image ∧ t.fwState = 1 ∧ t.fwFail = 0))

/-- R7, R327, R352, R356, R357, R369, R373, R376, R388, R393, R396, R397: writes of device registers by a service pair or the host driver:
a read-only register keeps its value, a field outside its range keeps its value; PTBASE, FRESP and MQTAIL take only the writes of a leader
that runs; where no register lies the write faults. The model's own choices in it: what a write drops (log 65). -/
def Obligations.DeviceRegisterWrites : Prop :=
  ∀ (pair : BitVec 2) (v : Word) (s : State),
    let ends (off : BitVec 16) (t : State) : Prop := exec (.registerWrite ⟨pair, off⟩ v) s = .next t
    let leads := pair = s.leader ∧ s.healthy.getLsbD s.leader.toNat = true
    (¬leads → ends 0x000 s ∧ ends 0x030 s ∧ ends 0x050 s) ∧
    (leads → ends 0x000 { s with ptbase := v } ∧ ends 0x050 { s with mqtail := v.setWidth 32 } ∧
      (fld v 32 2 = 0 → ∀ t, exec (.frespResolve (v.setWidth 32)) s = .next t → ends 0x030 t) ∧
      (fld v 32 2 = 1 → ∀ t, exec (.frespDeliver (v.setWidth 32)) s = .next t → ends 0x030 t) ∧ (2 ≤ fld v 32 2 → ends 0x030 s)) ∧
    (∀ off : BitVec 16, off.toNat ∈ readOnlyRegs → ends off s) ∧
    (∀ off : BitVec 16, s.readReg off.toNat = none → exec (.registerWrite ⟨pair, off⟩ v) s = .fault .badArgument) ∧
    ends 0x008 { s with fqbase := v } ∧
    ends 0x010 { s with fqsize := if 6 ≤ v.toNat ∧ v.toNat ≤ 16 then v.toNat else s.fqsize } ∧
    ends 0x020 { s with fqtail := v } ∧ ends 0x048 { s with mqbase := v } ∧
    (fld v 0 4 = 0 → ends 0x040 s) ∧ (fld v 0 4 ≠ 0 → ends 0x040 { s with lim := v.extractLsb' 0 4 }) ∧
    (∀ k < 16, ends (BitVec.ofNat 16 (0x100 + 8 * k)) { s with apslot := tabSet s.apslot 0 k (v &&& ~~~(0xFFFE00000 : Word)) }) ∧
    (s.lgEn = false → ends 0x208 { s with lwpbase := v } ∧ ends 0x210 { s with lwsize := v } ∧ ends 0x218 { s with lmsize := v }) ∧
    (s.lgEn = true → ends 0x208 s ∧ ends 0x210 s ∧ ends 0x218 s) ∧
    (∀ t, exec (.lgctlWrite v) s = .next t → ends 0x200 t) ∧ (∀ t, exec (.lkctlForce .east v) s = .next t → ends 0x220 t) ∧
    (∀ t, exec (.lkctlForce .west v) s = .next t → ends 0x228 t) ∧ (∀ t, exec (.pwrctlWrite v) s = .next t → ends 0x600 t) ∧
    ends 0x240 { s with ellctl := v.extractLsb' 0 1 } ∧ ends 0x300 { s with mebase := v } ∧
    ends 0x308 { s with mesize := if 6 ≤ v.toNat ∧ v.toNat ≤ 12 then v.toNat else s.mesize } ∧ ends 0x318 { s with metail := v } ∧
    ends 0x328 { s with cethr := v.extractLsb' 0 5 } ∧
    (v.getLsbD 59 = false ∨ s.lgabtV = false → ends 0x330 s) ∧
    (v.getLsbD 59 = true → s.lgabtV = true → ∀ t, exec .lgabtClear s = .next t → ends 0x330 t) ∧
    ends 0x408 { s with hbcnt := v, hbAt := s.time } ∧ ends 0x410 { s with jbase := v } ∧
    (2 ≤ fld v 0 4 → ends 0x418 { s with hbmiss := v.extractLsb' 0 4 }) ∧ (fld v 0 4 < 2 → ends 0x418 s) ∧
    ends 0x1000 { s with hevbase := v &&& ~~~(0xFFE : Word) } ∧
    (4 ≤ fld v 0 4 ∧ fld v 0 4 ≤ 12 → ends 0x1008 { s with hevsize := v.extractLsb' 0 4 }) ∧
    (¬(4 ≤ fld v 0 4 ∧ fld v 0 4 ≤ 12) → ends 0x1008 s) ∧
    ends 0x1018 { s with hevtail := v } ∧ ends 0x1028 { s with hevmsi := v.extractLsb' 0 12 }

/-! ## Frames -/

/-- The frame of the front: an instruction that only computes a register, or that enters a queue, changes no memory, no tile, no other
strand; of its own strand it changes the position, and its destination, whose window opens, or the queues, with the pending bits of its
destinations. -/
def Obligations.FrontInstructionsChangeNothingElse : Prop :=
  (∀ op ∈ frontPlain, ∀ (f : Fields) (s t : State), NoErrors s → MemOk s → frontTakes (op f) f s = true → exec (op f) s = .next t →
    t.me.seq = s.me.seq + 1 →
    SameMemory s t ∧ SameLm s t ∧ SameTiles s t ∧ SameOthers s t ∧
    t.me = { s.me with pc := s.me.pc + 1, seq := s.me.seq + 1, s := t.me.s, p := t.me.p, flight := t.me.flight, contested := t.me.contested } ∧
    (∀ n, Dst.s n ∉ dstsOf s.me (op f) f → t.me.getS n = s.me.getS n) ∧ (∀ n, Dst.p n ∉ dstsOf s.me (op f) f → t.me.getP n = s.me.getP n)) ∧
  (∀ op ∈ queueInstrs, ∀ (f : Fields) (s t : State), NoErrors s → MemOk s → frontTakes (op f) f s = true → exec (op f) s = .next t →
    t.me.seq = s.me.seq + 1 →
    SameMemory s t ∧ SameLm s t ∧ SameTiles s t ∧ SameOthers s t ∧
    t.me = { s.me with
      pc := s.me.pc + 1, seq := s.me.seq + 1, lq := t.me.lq, cq := t.me.cq, sq := t.me.sq, lring := t.me.lring, cring := t.me.cring
      sring := t.me.sring, pending := t.me.pending })

/-- The frame of the loads and of the vector unit: once the instruction has performed, no memory and no local memory has changed, no other
strand, and of its own strand no scalar register, predicate, flag, special register or position: those of its results follow at the end of
its window or at its delivery. The frame of the element-by-element vector instructions: no byte of the vector registers changes but those
of the destination tile, and no mask. -/
def Obligations.LoadsAndVectorsWriteNoMemory : Prop :=
  (∀ op ∈ readers, ∀ (f : Fields) (q : Queue) (sp : ISpec) (e : QEntry) (s t : State), NoErrors s → MemOk s → NoneLate s.me →
    headTakes (op f) f q sp e s = true → exec (op f) s = .next t → leaves q s t →
    SameMemory s t ∧ SameLm s t ∧ SameOthers s t ∧
    t.me = { s.me with
      lq := t.me.lq, cq := t.me.cq, sq := t.me.sq, tlc := t.me.tlc, tcl := t.me.tcl, tcs := t.me.tcs, tsc := t.me.tsc, flight := t.me.flight
      k := t.me.k, s := t.me.s, p := t.me.p, contested := t.me.contested, seen := t.me.seen, wrote := t.me.wrote, issuedAt := t.me.issuedAt } ∧
    (∀ n, Dst.s n ∉ e.dsts → t.me.getS n = s.me.getS n) ∧ (∀ n, Dst.p n ∉ e.dsts → t.me.getP n = s.me.getP n)) ∧
  (∀ op ∈ elementOps, ∀ (f : Fields) (q : Queue) (sp : ISpec) (e : QEntry) (s s1 t : State) (F : Fmt) (a b c : List Nat),
    fieldFmt f = some F → NoErrors s → MemOk s → headTakes (op.1 f) f q sp e s = true → VecArgs f e (op.2.1 f) s s1 a b c →
    exec (op.1 f) s = .next t →
    t.me.k = s.me.k ∧ (∀ n, n ≠ s.myCore → (t.core n).vrf = (s.core n).vrf) ∧
    ∀ x, (x < 16384 * dstV e 0 ∨ 16384 * dstV e 0 + shpRows e.shp * shpCols e.shp * F.regBytes ≤ x) →
      Memory.get (t.core s.myCore).vrf x = Memory.get (s.core s.myCore).vrf x)

/-- The frame of the stores by address and of the atomics: with the stored bytes computed from the address operands, every byte outside
them reads as before through the window that it is read by, no local memory, no tile and no register changes. Writes to the bank-linear
window first send the line home. The same of RADV, which stores the round of its region's entry, and of the tile stores STV and STG, which
may store to local memory. The model's own choices in it: when a store performs (log 10). -/
def Obligations.StoresWriteTheirBytesOnly : Prop :=
  (∀ op ∈ plainStores, ∀ (f : Fields) (q : Queue) (sp : ISpec) (e : QEntry) (s s1 t : State) (ps : List Piece),
    NoErrors s → MemOk s → NoneLate s.me → headTakes (op.1 f) f q sp e s = true → Places s (eaOf f e) (op.2 f).1 (op.2 f).2 .write s1 ps →
    exec (op.1 f) s = .next t →
    (∀ m a, Outside ps m a → t.physByte m a = s.physByte m a) ∧ SameLm s t ∧ SameTiles s t ∧ SameOthers s t ∧ t.rows = s.rows ∧
    (∀ n, t.me.getS n = s.me.getS n) ∧ t.me.p = s.me.p ∧ t.me.k = s.me.k ∧ t.me.flg = s.me.flg ∧ t.me.pc = s.me.pc) ∧
  (∀ op ∈ (intAtomics.map (·.1)) ++ (floatAtomics.map (·.1)), ∀ (f : Fields) (q : Queue) (sp : ISpec) (e : QEntry) (s s1 t : State) (F : Fmt)
      (ps : List Piece) (bs : List Byte),
    fieldFmt f = some F → NoErrors s → MemOk s → NoneLate s.me → headTakes (op f) f q sp e s = true → AtomicReads f e F s s1 ps bs →
    exec (op f) s = .next t →
    (∀ m a, Outside ps m a → t.physByte m a = s.physByte m a) ∧ SameLm s t ∧ SameTiles s t ∧ SameOthers s t ∧ t.rows = s.rows ∧
    (∀ n, t.me.getS n = s.me.getS n) ∧ t.me.p = s.me.p ∧ t.me.k = s.me.k ∧ t.me.flg = s.me.flg ∧ t.me.pc = s.me.pc) ∧
  (∀ (f : Fields) (q : Queue) (sp : ISpec) (e : QEntry) (s t : State) (ps : List Piece),
    NoErrors s → MemOk s → NoneLate s.me → headTakes (.radv f) f q sp e s = true → s.regionPlace s.myCore (regionKey s.me e.a.toNat) = .ok ps →
    exec (.radv f) s = .next t → leaves q s t →
    (∀ m a, Outside (slicePieces ps 12 4) m a → t.physByte m a = s.physByte m a) ∧ SameLm s t ∧ SameTiles s t ∧ SameOthers s t ∧ t.rows = s.rows ∧
    (∀ n, t.me.getS n = s.me.getS n) ∧ t.me.p = s.me.p ∧ t.me.k = s.me.k ∧ t.me.flg = s.me.flg ∧ t.me.pc = s.me.pc) ∧
  (∀ (f : Fields) (q : Queue) (sp : ISpec) (e : QEntry) (s t : State) (ps : List ElemAt),
    NoErrors s → MemOk s → NoneLate s.me →
    (headTakes (.stv f) f q sp e s = true ∧ exec (.stv f) s = .next t ∧ s.tileChecks f e true false
        ((s.activeElems f.e (shpRows e.shp) (shpCols e.shp)).map (fun p => tileCoord f e p.1 p.2)) = .ok ps ∨
      headTakes (.stg f) f q sp e s = true ∧ exec (.stg f) s = .next t ∧ s.tileChecks f e true (f.sub == 0)
        ((s.activeElems f.e (shpRows e.shp) (shpCols e.shp)).map (fun p => s.gatherMap f e p.1 p.2)) = .ok ps) →
    let pcs := ps.flatMap (·.pieces)
    (∀ m a, Outside pcs m a → t.physByte m a = s.physByte m a) ∧ SameTiles s t ∧ SameOthers s t ∧ t.rows = s.rows ∧
    (∀ n a, OutsideLm pcs n a → Memory.get (t.core n).lm a = Memory.get (s.core n).lm a) ∧
    (∀ n w, (∀ k < 4, OutsideLm pcs n (4 * w + k)) → (t.core n).full.contains w = (s.core n).full.contains w) ∧
    (∀ n, t.me.getS n = s.me.getS n) ∧ t.me.p = s.me.p ∧ t.me.k = s.me.k ∧ t.me.flg = s.me.flg ∧ t.me.pc = s.me.pc)

/-- The frame of the local-memory records: an instruction that has performed on the record at `off` of a core changes no memory, no byte
of local memory outside the record, no full bit but its own words', no tile and no register; its push finds room. The model's own choices
in it: the releases that a record keeps (log 36). -/
def Obligations.RecordsAreWrittenAlone : Prop :=
  ∀ op ∈ lmInstrs, ∀ (f : Fields) (q : Queue) (sp : ISpec) (e : QEntry) (s t : State) (core off : Nat),
    NoErrors s → MemOk s → NoneLate s.me → headTakes (op.1 f) f q sp e s = true →
    s.lmOperand (e.entry f.a) (offVal f.b e.b) (selOf f e) op.2.1 op.2.1 op.2.2.1 op.2.2.2 = .ok core off →
    (s.me.pushTokens q f.tk []).2 = false → exec (op.1 f) s = .next t → leaves q s t →
    SameMemory s t ∧ SameTiles s t ∧ SameOthers s t ∧
    (∀ n a, (n ≠ core ∨ a < off ∨ off + op.2.1 ≤ a) → Memory.get (t.core n).lm a = Memory.get (s.core n).lm a) ∧
    (∀ n w, (n ≠ core ∨ w < off / 4 ∨ off / 4 + op.2.1 / 4 ≤ w) → (t.core n).full.contains w = (s.core n).full.contains w) ∧
    (∀ n, t.me.getS n = s.me.getS n) ∧ t.me.p = s.me.p ∧ t.me.k = s.me.k ∧ t.me.flg = s.me.flg ∧ t.me.pc = s.me.pc
end

