-- ==== Sys2Proof/Laws/Front.lean ====
section
/-! SUPPORT. What the front and the head of a queue do with an instruction: one lemma for the way through, one for everything a run
can answer. -/

namespace Sys2Proof.Machine

theorem frontTakes_iff (i : Instr) (f : Fields) (s : State) : frontTakes i f s = true ↔
    s.acting = .front ∧ frontReady s.cycle s.me = true ∧ ∃ sp, ispec i = some sp ∧ decodeStop i sp f s = none := by
  unfold frontTakes
  cases h : ispec i <;> simp [and_assoc]

/-- The way through the front: the body decides. -/
theorem runFront_takes {i : Instr} {f : Fields} {fmt : Option Fmt} {body : Vals → State → FRes} {s s1 : State} {v : Vals}
    (h : frontTakes i f s = true) (hv : s.frontValues fmt f = .ok (s1, v)) :
    runFront i f fmt body s = match body v s1.passed with
      | .done s2 w fl => .next (frontEnds f v s1 s2 w fl)
      | .trap c o word => .next (s1.raiseTrap s1.cur { code := c, eng := 0, opnd := o, pos := v.pos, word := word })
      | .begin_ c => .next (s1.setMe { s1.me with calling := some c }) := by
  obtain ⟨ha, hr, sp, hsp, hd⟩ := (frontTakes_iff i f s).1 h
  simp only [runFront, hsp, ha, hr, hd, hv, State.passed, frontEnds]
  cases body v (s1.setMe s1.me.advance) <;> simp only [bne_self_eq_false, Bool.not_true, Bool.or_self, Bool.false_eq_true, if_false]
  split <;> rfl

theorem runFront_done {i : Instr} {f : Fields} {fmt : Option Fmt} {body : Vals → State → FRes} {s s1 s2 : State} {v : Vals}
    {w : List (Dst × Word)} {fl : Flags} (h : frontTakes i f s = true) (hv : s.frontValues fmt f = .ok (s1, v))
    (hb : body v s1.passed = .done s2 w fl) : runFront i f fmt body s = .next (frontEnds f v s1 s2 w fl) := by
  rw [runFront_takes h hv, hb]

/-- A front instruction always answers a next state where the front is ready for it. -/
theorem runFront_next {i : Instr} {f : Fields} {fmt : Option Fmt} {body : Vals → State → FRes} {s : State} {sp : ISpec}
    (hsp : ispec i = some sp) (ha : s.acting = .front) (hr : frontReady s.cycle s.me = true) : ∃ t, runFront i f fmt body s = .next t := by
  simp only [runFront, hsp, ha, hr]
  simp only [bne_self_eq_false, Bool.not_true, Bool.or_self, Bool.false_eq_true, if_false]
  repeat' first | exact ⟨_, rfl⟩ | split

theorem headTakes_iff (i : Instr) (f : Fields) (q : Queue) (sp : ISpec) (e : QEntry) (s : State) : headTakes i f q sp e s = true ↔
    s.acting = .queue q ∧ ispec i = some sp ∧ (s.me.queue q).head? = some e ∧ headReady s.lgEn s.me s.cycle q i f.tk sp.route e = true ∧
    rangeFault i f e.shp s.ringNm1 isScalar e.a e.b e.c e.e = 0 := by
  simp [headTakes, and_assoc]

/-- The head of a queue issues: the body decides. -/
theorem runQueue_takes {i : Instr} {f : Fields} {q : Queue} {sp : ISpec} {e : QEntry} {s : State} {ack : Ack}
    {body : QEntry → State → QRes} (h : headTakes i f q sp e s = true) :
    runQueue i f ack body s = match body e s with
      | .done s1 vals fl => .next (s1.perform q f sp ack e vals fl)
      | .trap s1 c o sub => .next (s1.queueTrap q e c o sub)
      | .wait => .next (s.setMe (s.me.setHead q { e with waiting := some (e.waiting.getD s.cycle), tried := some s.cycle, claim := none }))
      | .busy k ws => .next (s.setMe (s.me.setHead q { e with tried := some s.cycle, claim := some ⟨s.arrival, k, ws⟩ }))
      | .stay => .next (s.setMe (s.me.setHead q { e with tried := some s.cycle }))
      | .held k c va a hd => .next (s.holdHead q e k c va a hd) := by
  obtain ⟨ha, hsp, hh, hr, hf⟩ := (headTakes_iff i f q sp e s).1 h
  obtain ⟨r, hq⟩ : ∃ r, s.me.queue q = e :: r := by
    cases hl : s.me.queue q with
    | nil => simp [hl] at hh
    | cons a r => exact ⟨r, by simpa [hl] using hh⟩
  simp only [runQueue, ha, hsp, hq, hr, hf]
  cases body e s <;> simp

theorem runQueue_done {i : Instr} {f : Fields} {q : Queue} {sp : ISpec} {e : QEntry} {s s1 : State} {ack : Ack} {vals : List Word}
    {fl : Flags} {body : QEntry → State → QRes} (h : headTakes i f q sp e s = true) (hb : body e s = .done s1 vals fl) :
    runQueue i f ack body s = .next (s1.perform q f sp ack e vals fl) := by
  rw [runQueue_takes h, hb]

end Sys2Proof.Machine
end

