-- ==== Sys2Proof/Laws/Reads.lean ====
section
/-! SUPPORT. What an access to memory leaves alone: the strands, the clocks and the queues of the quadrants. -/

namespace Sys2Proof.Machine

/-- The parts of the state that no access to memory changes. -/
structure Kept where
  cur : Nat
  acting : Acting
  cycle : Nat
  fv : Nat
  time : Nat
  strands : Tab Strand
  quads : Tab Quad
  bundles : List Bundle
  binds : Tab BindRec
  lgNm1 : BitVec 3
  lgEn : Bool

def State.kept (s : State) : Kept := ⟨s.cur, s.acting, s.cycle, s.fv, s.time, s.strands, s.quads, s.bundles, s.binds, s.lgNm1, s.lgEn⟩

theorem kept_cur {s t : State} (h : t.kept = s.kept) : t.cur = s.cur := congrArg Kept.cur h
theorem kept_me {s t : State} (h : t.kept = s.kept) : t.me = s.me := by
  have h1 : t.cur = s.cur := congrArg Kept.cur h
  have h2 : t.strands = s.strands := congrArg Kept.strands h
  simp [State.me, State.strand, h1, h2]
theorem kept_strand {s t : State} (h : t.kept = s.kept) (n : Nat) : t.strand n = s.strand n := by
  have h2 : t.strands = s.strands := congrArg Kept.strands h
  simp [State.strand, h2]
theorem kept_cycle {s t : State} (h : t.kept = s.kept) : t.cycle = s.cycle := congrArg Kept.cycle h

/-- A fold keeps what each of its steps keeps. -/
theorem foldl_kept {α : Type} (l : List α) (g : State → α → State) (h : ∀ t x, (g t x).kept = t.kept) (s : State) :
    (l.foldl g s).kept = s.kept := by
  induction l generalizing s with
  | nil => rfl
  | cons a r ih => rw [List.foldl_cons, ih, h]

@[simp] theorem writeBackDev_kept (s : State) (l : Nat) : (s.writeBackDev l).kept = s.kept := by
  unfold State.writeBackDev; split <;> rfl
@[simp] theorem dieWritten_kept (s : State) (b : Bool) (u : Nat) : (s.dieWritten b u).kept = s.kept := rfl
@[simp] theorem markUnit_kept (s : State) (sp : MemSpace) (b : Bool) (u : Nat) : (s.markUnit sp b u).kept = s.kept := by
  cases sp <;> simp only [State.markUnit] <;> first | rfl | (split <;> rfl)
@[simp] theorem putByte_kept (s : State) (sp : MemSpace) (o : Nat) (b : Byte) : (s.putByte sp o b).kept = s.kept := by
  cases sp <;> simp only [State.putByte] <;> first | rfl | exact writeBackDev_kept s _
@[simp] theorem touchCode_kept (s : State) (p : Party) (sp : MemSpace) (o n : Nat) : (s.touchCode p sp o n).kept = s.kept := by
  unfold State.touchCode; split <;> rfl
@[simp] theorem endSequences_kept (s : State) (p : Party) (sp : MemSpace) (o n : Nat) : (s.endSequences p sp o n).kept = s.kept := rfl
@[simp] theorem endLocal_kept (s : State) (p : Party) (c o n : Nat) : (s.endLocal p c o n).kept = s.kept := rfl
@[simp] theorem putBytes_kept (s : State) (sp : MemSpace) (o : Nat) (bs : List Byte) : (s.putBytes sp o bs).kept = s.kept :=
  foldl_kept _ _ (fun t _ => putByte_kept t _ _ _) s
@[simp] theorem cleanUnit_kept (s : State) (sp : MemSpace) (u : Nat) : (s.cleanUnit sp u).kept = s.kept := by
  cases sp <;> simp only [State.cleanUnit, markUnit_kept, dieWritten_kept] <;> rfl
@[simp] theorem cleanUnits_kept (s : State) (sp : MemSpace) (us : List Nat) : (s.cleanUnits sp us).kept = s.kept :=
  foldl_kept _ _ (fun t _ => cleanUnit_kept t _ _) s
@[simp] theorem storeMem_kept (s : State) (p : Party) (w : Bool) (sp : MemSpace) (o : Nat) (bs : List Byte) :
    (s.storeMem p w sp o bs).kept = s.kept := by
  unfold State.storeMem; dsimp only; split <;> simp
@[simp] theorem signalError_kept (s : State) (c : Nat) : (s.signalError c).kept = s.kept := by unfold State.signalError; split <;> rfl
@[simp] theorem setMehead_kept (s : State) (n : BitVec 32) : (s.setMehead n).kept = s.kept := rfl
@[simp] theorem setMelost_kept (s : State) (n : Word) : (s.setMelost n).kept = s.kept := rfl
/-- What a message that leaves changes: the ports, and what has left the device. -/
theorem drain_sends (s : State) (p : Port) (nak : Bool) (n : Nat) :
    ∃ e w o, s.drain p nak n = { s with east := e, west := w, outputs := o } := by
  induction n generalizing s nak with
  | zero => exact ⟨s.east, s.west, s.outputs, rfl⟩
  | succ n ih =>
    simp only [State.drain]; split
    · exact ⟨s.east, s.west, s.outputs, rfl⟩
    · split
      · exact ⟨s.east, s.west, s.outputs, rfl⟩
      · obtain ⟨e, w, o, h⟩ := ih _ false
        rw [h]
        cases p <;> exact ⟨e, w, o, rfl⟩
theorem sendSlots_sends (s : State) (p : Port) (l : List RingSlot) :
    ∃ e w o, s.sendSlots p l = { s with east := e, west := w, outputs := o } := by
  unfold State.sendSlots; dsimp only
  obtain ⟨e, w, o, h⟩ := drain_sends (s.setPort p { s.port p with out := l.foldl enqueue (s.port p).out }) p false (l.foldl enqueue (s.port p).out).length
  rw [h]
  cases p <;> exact ⟨e, w, o, rfl⟩
/-- A request changes these and what is known of requests. -/
theorem askWindow_sends (s : State) (k : Nat) (mk : Nat → Config.RingMsg) :
    ∃ r e w o, s.askWindow k mk = { s with rel := r, east := e, west := w, outputs := o } := by
  unfold State.askWindow State.sendMessage; dsimp only
  obtain ⟨e, w, o, h⟩ := sendSlots_sends ({ s with rel := { s.rel with
    nextTag := s.rel.nextTag + 1, fresh := s.rel.fresh ++ [s.rel.nextTag]
    window := s.rel.window ++ [{ tag := s.rel.nextTag, home := k, msg := mk s.rel.nextTag }] } } : State) _ _
  exact ⟨_, e, w, o, h⟩
theorem tellWindow_sends (s : State) (k a : Nat) (bs : List Byte) :
    ∃ r e w o, s.tellWindow k a bs = { s with rel := r, east := e, west := w, outputs := o } := by
  obtain ⟨r, e, w, o, h⟩ := askWindow_sends s k (fun tag => .write tag s.cur a bs)
  unfold State.tellWindow; rw [h]; exact ⟨_, e, w, o, rfl⟩
@[simp] theorem askWindow_kept (s : State) (k : Nat) (mk : Nat → Config.RingMsg) : (s.askWindow k mk).kept = s.kept := by
  obtain ⟨r, e, w, o, h⟩ := askWindow_sends s k mk; rw [h]; rfl
@[simp] theorem tellWindow_kept (s : State) (k a : Nat) (bs : List Byte) : (s.tellWindow k a bs).kept = s.kept := by
  obtain ⟨r, e, w, o, h⟩ := tellWindow_sends s k a bs; rw [h]; rfl
@[simp] theorem storeIl_kept (s : State) (p : Party) (w : Bool) (o : Nat) (bs : List Byte) : (s.storeIl p w o bs).kept = s.kept := by
  unfold State.storeIl; split <;> simp
@[simp] theorem postError_kept (s : State) (i : ErrInfo) : (s.postError i).kept = s.kept := by
  unfold State.postError; split
  · rw [setMelost_kept, signalError_kept]
  · rw [setMehead_kept, storeIl_kept, signalError_kept]
@[simp] theorem countCorrected_kept (s : State) (k u : Nat) (n : BitVec 32) : (s.countCorrected k u n).kept = s.kept := by
  unfold State.countCorrected; split <;> simp
@[simp] theorem modCore_kept (s : State) (n : Nat) (f : Core → Core) : (s.modCore n f).kept = s.kept := rfl
@[simp] theorem noteDie_kept (s : State) (u : Nat) : (s.noteDie u).kept = s.kept := by
  unfold State.noteDie
  repeat' (first | rfl | split | (rw [postError_kept]; rfl) | (rw [countCorrected_kept]; rfl))
@[simp] theorem noteDir_kept (s : State) (sp : MemSpace) (u : Nat) : (s.noteDir sp u).kept = s.kept := by
  unfold State.noteDir; dsimp only; split
  · rfl
  · split
    · rw [postError_kept, markUnit_kept]; split <;> rfl
    · rw [countCorrected_kept, postError_kept]; rfl
@[simp] theorem countL2_kept (s : State) (u : Nat) : (s.countL2 u).kept = s.kept := by
  unfold State.countL2; dsimp only; rw [countCorrected_kept]; rfl
@[simp] theorem noteL2_kept (s : State) (sp : MemSpace) (u : Nat) : (s.noteL2 sp u).kept = s.kept := by
  unfold State.noteL2
  dsimp only; split
  · split
    · rw [postError_kept, markUnit_kept]; rfl
    · rw [countL2_kept]; rfl
  · split
    · exact countL2_kept s u
    · rfl
@[simp] theorem flushDev_kept (s : State) (l : Nat) : (s.flushDev l).kept = s.kept := by
  unfold State.flushDev; split <;> simp
@[simp] theorem writeBackHost_kept (s : State) (l : Nat) : (s.writeBackHost l).kept = s.kept := by unfold State.writeBackHost; split <;> rfl
@[simp] theorem writeBackPool_kept (s : State) (l : Nat) : (s.writeBackPool l).kept = s.kept := by unfold State.writeBackPool; split <;> rfl
@[simp] theorem flushHost_kept (s : State) (l : Nat) : (s.flushHost l).kept = s.kept := by unfold State.flushHost; split <;> simp
@[simp] theorem flushPool_kept (s : State) (l : Nat) : (s.flushPool l).kept = s.kept := by unfold State.flushPool; split <;> simp
@[simp] theorem noteUnit_kept (s : State) (sp : MemSpace) (u : Nat) : (s.noteUnit sp u).kept = s.kept := by
  unfold State.noteUnit; dsimp only; repeat' (first | rfl | (simp; done) | split)
@[simp] theorem takeUnit_kept (s : State) (sp : MemSpace) (u : Nat) : (s.takeUnit sp u).kept = s.kept := by
  have h := (noteUnit_kept (s.noteDir sp u) sp u).trans (noteDir_kept s sp u)
  cases sp <;> simp only [State.takeUnit, reduceCtorEq, if_false, if_true]
  · split
    · simp
    · exact h
  · simp
  · split
    · simp
    · exact h
  · split
    · simp
    · exact h
@[simp] theorem writeMem_kept (s : State) (p : Party) (w : Bool) (sp : MemSpace) (o : Nat) (bs : List Byte) :
    (s.writeMem p w sp o bs).kept = s.kept := by
  rw [State.writeMem, storeMem_kept, foldl_kept]
  intro t u
  cases w
  · exact takeUnit_kept t sp u
  · simp only [if_true]; split
    · exact noteDir_kept t _ u
    · exact takeUnit_kept t sp u
@[simp] theorem readMem_kept (s : State) (sp : MemSpace) (o n : Nat) : (s.readMem sp o n).1.kept = s.kept :=
  foldl_kept _ _ (fun t _ => noteUnit_kept t _ _) s
@[simp] theorem noteL1_kept (s : State) (c : Nat) (sp : MemSpace) (o n : Nat) : (s.noteL1 c sp o n).kept = s.kept := by
  unfold State.noteL1; split
  · rfl
  · refine foldl_kept _ _ (fun t _ => ?_) s
    dsimp only; split
    · rw [countCorrected_kept]; rfl
    · rfl
@[simp] theorem noteLm_kept (s : State) (c o n : Nat) : (s.noteLm c o n).kept = s.kept := by
  refine foldl_kept _ _ (fun t _ => ?_) s
  dsimp only; repeat' (first | rfl | (simp; done) | split)
@[simp] theorem hostLine_kept (s : State) (a b : Bool) (u : Nat) : (s.hostLine a b u).kept = s.kept := by
  unfold State.hostLine; dsimp only; repeat' (first | rfl | split)
@[simp] theorem evictHost_kept (s : State) (u : Nat) : (s.evictHost u).kept = s.kept := by
  unfold State.evictHost; split
  · rfl
  · exact flushHost_kept s u
@[simp] theorem dropPool_kept (s : State) (u : Nat) : (s.dropPool u).kept = s.kept := flushPool_kept s u
@[simp] theorem poolLine_kept (s : State) (u : Nat) : (s.poolLine u).kept = s.kept := by
  unfold State.poolLine; split
  · rfl
  · dsimp only; split
    · exact dropPool_kept s _
    · rfl
@[simp] theorem recallLine_kept (s : State) (i : Bool) (u : Nat) : (s.recallLine i u).kept = s.kept := by
  unfold State.recallLine; dsimp only; split
  · rfl
  · split
    · exact (flushDev_kept _ u).trans (storeMem_kept _ _ _ _ _ _)
    · rfl
@[simp] theorem cxlRead_kept (s : State) (sp : MemSpace) (o n z : Nat) : (s.cxlRead sp o n z).kept = s.kept := by
  cases sp <;> simp only [State.cxlRead]
  · split
    · rfl
    · exact foldl_kept _ _ (fun t _ => recallLine_kept t _ _) s
  · refine foldl_kept _ _ (fun t u => ?_) s
    repeat' (first | rfl | (simp; done) | split)
  · split
    · rfl
    · exact foldl_kept _ _ (fun t _ => poolLine_kept t _) s
@[simp] theorem cxlWrite_kept (s : State) (sp : MemSpace) (o n z : Nat) : (s.cxlWrite sp o n z).kept = s.kept := by
  cases sp <;> simp only [State.cxlWrite]
  · split
    · rfl
    · exact foldl_kept _ _ (fun t _ => recallLine_kept t _ _) s
  · refine foldl_kept _ _ (fun t u => ?_) s
    split
    · exact hostLine_kept t _ _ u
    · exact evictHost_kept t u
  · split
    · rfl
    · exact foldl_kept _ _ (fun t _ => poolLine_kept t _) s
@[simp] theorem readPiece_kept (s : State) (c : Nat) (p : Piece) : (s.readPiece c p).s.kept = s.kept := by
  cases p <;> simp only [State.readPiece] <;> first | rfl | (simp; done) | skip
  repeat' (first | rfl | (simp; done) | split)
@[simp] theorem readPieces_kept (s : State) (c : Nat) (ps : List Piece) : (s.readPieces c ps).s.kept = s.kept := by
  induction ps generalizing s with
  | nil => rfl
  | cons p r ih => simp only [State.readPieces]; rw [ih, readPiece_kept]
@[simp] theorem noteWalk_kept (s : State) (p : BitVec 20) (va : Word) : (s.noteWalk p va).kept = s.kept := by
  refine foldl_kept _ _ (fun t o => ?_) s
  split
  · exact foldl_kept _ _ (fun t _ => noteUnit_kept t _ _) t
  · rfl
@[simp] theorem tlbFill_kept (s : State) (u : Nat) (p : BitVec 20) (va : Word) : (s.tlbFill u p va).kept = s.kept := by
  unfold State.tlbFill; dsimp only; split
  · rfl
  · split
    · exact noteWalk_kept s p va
    · rfl
@[simp] theorem writeThru_kept (s : State) (p : Party) (w : Bool) (sp : MemSpace) (o : Nat) (bs : List Byte) (n : Nat) :
    (s.writeThru p w sp o bs n).kept = s.kept := by
  have h : ∀ (l : List Nat) (s : State), (l.foldl (fun t u => t.flushDev u) s).kept = s.kept :=
    fun l s => foldl_kept _ _ (fun t _ => flushDev_kept t _) s
  have h2 : ∀ (l : List Nat) (s : State), (l.foldl (fun t u => t.flushHost u) s).kept = s.kept :=
    fun l s => foldl_kept _ _ (fun t _ => flushHost_kept t _) s
  have h3 : ∀ (l : List Nat) (s : State), (l.foldl (fun t u => t.flushPool u) s).kept = s.kept :=
    fun l s => foldl_kept _ _ (fun t _ => flushPool_kept t _) s
  unfold State.writeThru; dsimp only; split
  · simp
  · cases sp <;> simp only [h, h2, h3, writeMem_kept, cxlWrite_kept]
@[simp] theorem writePieces_kept (s : State) (p : Party) (w : Bool) (bs : List Byte) (ps : List Piece) :
    (s.writePieces p w bs ps).kept = s.kept := by
  induction ps generalizing s bs with
  | nil => rfl
  | cons x r ih => cases x <;> simp only [State.writePieces] <;> rw [ih] <;> first | rfl | (simp; done)

/-- Reading the operands of a front instruction keeps the strands. -/
theorem readConst_kept {s s1 : State} {n : Nat} {c : Tab Word} {f : Fmt} {w o x y : Nat} (h : s.readConst n c f w o = .ok (s1, x, y)) :
    s1.kept = s.kept := by
  unfold State.readConst at h; dsimp only at h
  repeat' split at h
  all_goals first | (simp only [reduceCtorEq] at h; done) | skip
  simp only [Except.ok.injEq, Prod.mk.injEq] at h
  rw [← h.1, readPieces_kept]
theorem frontValue_kept {s s1 : State} {f : Option Fmt} {k : Nat} {o : Operand} {v : Word} (h : s.frontValue f k o = .ok (s1, v)) :
    s1.kept = s.kept := by
  cases o <;> simp only [State.frontValue, Except.ok.injEq, Prod.mk.injEq] at h <;> try (rw [← h.1])
  split at h
  · simp at h
  · rename_i h1; simp only [Except.ok.injEq, Prod.mk.injEq] at h; rw [← h.1]; exact readConst_kept h1
theorem frontValues_kept {s s1 : State} {f : Option Fmt} {x : Fields} {v : Vals} (h : s.frontValues f x = .ok (s1, v)) :
    s1.kept = s.kept ∧ v.pos = s.me.pc ∧ v.d = sample s.me s.cycle s.fv x.d := by
  unfold State.frontValues at h
  repeat' split at h
  all_goals first | (simp only [reduceCtorEq] at h; done) | skip
  rename_i s2 a h1 _ s3 b h2 _ s4 c h3
  have k1 := frontValue_kept h1
  have k2 := (frontValue_kept h2).trans k1
  have k3 := (frontValue_kept h3).trans k2
  simp only [Except.ok.injEq, Prod.mk.injEq] at h
  obtain ⟨h0, rfl⟩ := h
  exact ⟨h0 ▸ k3, rfl, rfl⟩

end Sys2Proof.Machine
end

