-- ==== Sys2Proof/Laws/Tables.lean ====
section
/-! SUPPORT. Tables and memories: what a read after a write gives, and that every operation keeps the canonical form. -/

namespace Sys2Proof.Machine

/-! ### Tables -/

theorem tabFind_put {α : Type} (t : Tab α) (k j : Nat) (v : α) : tabFind (tabPut t k v) j = if k = j then some v else tabFind t j := by
  induction t with
  | nil => simp [tabPut, tabFind]
  | cons x r ih =>
    obtain ⟨i, w⟩ := x
    simp only [tabPut]
    repeat' split
    all_goals simp only [tabFind, ih]
    all_goals (repeat' split) <;> first | rfl | omega | simp_all

theorem tabGet_put {α : Type} (t : Tab α) (d : α) (k j : Nat) (v : α) : tabGet (tabPut t k v) d j = if k = j then v else tabGet t d j := by
  induction t with
  | nil => simp [tabPut, tabGet]
  | cons x r ih =>
    obtain ⟨i, w⟩ := x
    simp only [tabPut]
    repeat' split
    all_goals simp only [tabGet, ih]
    all_goals (repeat' split) <;> first | rfl | omega | simp_all

theorem tabGet_erase_ne {α : Type} (t : Tab α) (d : α) (k j : Nat) (h : k ≠ j) : tabGet (tabErase t k) d j = tabGet t d j := by
  induction t with
  | nil => rfl
  | cons x r ih =>
    obtain ⟨i, w⟩ := x
    simp only [tabErase, tabGet]
    repeat' split
    all_goals first | omega | (simp only [tabGet, ih]; done) | (simp only [tabGet, ih]; simp_all)

theorem tabFind_erase_ne {α : Type} (t : Tab α) (k j : Nat) (h : k ≠ j) : tabFind (tabErase t k) j = tabFind t j := by
  induction t with
  | nil => rfl
  | cons x r ih =>
    obtain ⟨i, w⟩ := x
    simp only [tabErase, tabFind]
    repeat' split
    all_goals first | omega | (simp only [tabFind, ih]; done) | (simp only [tabFind, ih]; simp_all)

/-- A value that is not the default is read back. -/
theorem tabGet_set {α : Type} [DecidableEq α] (t : Tab α) (d : α) (k : Nat) (v : α) (h : v ≠ d) : tabGet (tabSet t d k v) d k = v := by
  simp [tabSet, h, tabGet_put]
theorem tabGet_set_ne {α : Type} [DecidableEq α] (t : Tab α) (d : α) (k j : Nat) (v : α) (h : k ≠ j) :
    tabGet (tabSet t d k v) d j = tabGet t d j := by
  unfold tabSet; split
  · exact tabGet_erase_ne t d k j h
  · simp [tabGet_put, h]

theorem tabWfFrom_le {α : Type} (t : Tab α) {a b : Nat} (h : a ≤ b) (hw : tabWfFrom b t = true) : tabWfFrom a t = true := by
  cases t with
  | nil => rfl
  | cons x r => simp only [tabWfFrom, Bool.and_eq_true, decide_eq_true_eq] at hw ⊢; exact ⟨by omega, hw.2⟩

/-- No key below the bound is listed. -/
theorem tabGet_below {α : Type} (t : Tab α) (d : α) {a k : Nat} (hw : tabWfFrom a t = true) (h : k < a) : tabGet t d k = d := by
  induction t generalizing a with
  | nil => rfl
  | cons x r ih =>
    simp only [tabWfFrom, Bool.and_eq_true, decide_eq_true_eq] at hw
    simp only [tabGet]; split
    · omega
    · exact ih hw.2 (by omega)

theorem tabWfFrom_put {α : Type} (t : Tab α) (a k : Nat) (v : α) (hk : a ≤ k) (hw : tabWfFrom a t = true) :
    tabWfFrom a (tabPut t k v) = true := by
  induction t generalizing a with
  | nil => simp [tabPut, tabWfFrom, hk]
  | cons x r ih =>
    simp only [tabWfFrom, Bool.and_eq_true, decide_eq_true_eq] at hw
    simp only [tabPut]
    split
    · simp only [tabWfFrom, Bool.and_eq_true, decide_eq_true_eq]; exact ⟨hk, by omega, hw.2⟩
    · split
      · rename_i h1 h2; simp only [tabWfFrom, Bool.and_eq_true, decide_eq_true_eq]; exact ⟨hk, h2 ▸ hw.2⟩
      · simp only [tabWfFrom, Bool.and_eq_true, decide_eq_true_eq]; exact ⟨hw.1, ih _ (by omega) hw.2⟩
theorem tabWfFrom_erase {α : Type} (t : Tab α) (a k : Nat) (hw : tabWfFrom a t = true) : tabWfFrom a (tabErase t k) = true := by
  induction t generalizing a with
  | nil => rfl
  | cons x r ih =>
    simp only [tabWfFrom, Bool.and_eq_true, decide_eq_true_eq] at hw
    simp only [tabErase]; split
    · exact tabWfFrom_le r (by omega) hw.2
    · simp only [tabWfFrom, Bool.and_eq_true, decide_eq_true_eq]; exact ⟨hw.1, ih _ hw.2⟩
theorem tabWf_put {α : Type} (t : Tab α) (k : Nat) (v : α) (hw : tabWf t = true) : tabWf (tabPut t k v) = true :=
  tabWfFrom_put t 0 k v (Nat.zero_le k) hw
theorem tabWf_erase {α : Type} (t : Tab α) (k : Nat) (hw : tabWf t = true) : tabWf (tabErase t k) = true := tabWfFrom_erase t 0 k hw
theorem tabWf_set {α : Type} [DecidableEq α] (t : Tab α) (d : α) (k : Nat) (v : α) (hw : tabWf t = true) : tabWf (tabSet t d k v) = true := by
  unfold tabSet; split
  · exact tabWf_erase t k hw
  · exact tabWf_put t k v hw
/-- In a canonical table an erased key is gone, so a set value is read back whatever it is. -/
theorem tabWfFrom_map {α β : Type} (t : Tab α) (g : Nat × α → β) (a : Nat) (hw : tabWfFrom a t = true) :
    tabWfFrom a (t.map (fun x => (x.1, g x))) = true := by
  induction t generalizing a with
  | nil => rfl
  | cons x r ih => simp only [tabWfFrom, List.map_cons, Bool.and_eq_true] at hw ⊢; exact ⟨hw.1, ih _ hw.2⟩
theorem tabWf_map {α β : Type} (t : Tab α) (g : Nat × α → β) (hw : tabWf t = true) : tabWf (t.map (fun x => (x.1, g x))) = true := tabWfFrom_map t g 0 hw
theorem tabGet_erase {α : Type} (t : Tab α) (d : α) (k : Nat) (hw : tabWf t = true) : tabGet (tabErase t k) d k = d := by
  suffices h : ∀ a, tabWfFrom a t = true → tabGet (tabErase t k) d k = d from h 0 hw
  induction t with
  | nil => intros; rfl
  | cons x r ih =>
    intro a h
    simp only [tabWfFrom, Bool.and_eq_true, decide_eq_true_eq] at h
    simp only [tabErase]; split
    · rename_i e; exact tabGet_below r d h.2 (by omega)
    · rename_i e; simp only [tabGet, e, if_false]; exact ih (tabWfFrom_le r (by omega) h.2) _ h.2
theorem tabGet_set_wf {α : Type} [DecidableEq α] (t : Tab α) (d : α) (k j : Nat) (v : α) (hw : tabWf t = true) :
    tabGet (tabSet t d k v) d j = if k = j then v else tabGet t d j := by
  by_cases h : k = j
  · subst h; unfold tabSet; split
    · rename_i e; simp [e, tabGet_erase t d k hw]
    · simp [tabGet_put]
  · simp [tabGet_set_ne t d k j v h, h]

/-! ### Memory -/

theorem get_filter (m : Memory) (a : Nat) (p : Host.Cell → Bool) (h : ∀ b, p (a, b) = true) :
    Memory.get (m.filter p) a = Memory.get m a := by
  induction m with
  | nil => rfl
  | cons c r ih =>
    obtain ⟨k, b⟩ := c
    by_cases hk : k = a
    · subst hk; simp [h b, Memory.get]
    · simp only [List.filter_cons]; split <;> simp [Memory.get, hk, ih]
theorem get_absent (m : Memory) (a : Nat) (h : ∀ c ∈ m, c.1 ≠ a) : Memory.get m a = 0 := by
  induction m with
  | nil => rfl
  | cons c r ih =>
    simp only [Memory.get]
    rw [if_neg (h c (List.mem_cons_self ..))]
    exact ih (fun x hx => h x (List.mem_cons_of_mem _ hx))
theorem get_append (l m : Memory) (a : Nat) (h : ∀ c ∈ l, c.1 ≠ a) : Memory.get (l ++ m) a = Memory.get m a := by
  induction l with
  | nil => rfl
  | cons c r ih =>
    simp only [List.cons_append, Memory.get]
    rw [if_neg (h c (List.mem_cons_self ..))]
    exact ih (fun x hx => h x (List.mem_cons_of_mem _ hx))
theorem get_append_absent (l m : Memory) (a : Nat) (h : ∀ c ∈ m, c.1 ≠ a) : Memory.get (l ++ m) a = Memory.get l a := by
  induction l with
  | nil => exact get_absent m a h
  | cons c r ih => simp only [List.cons_append, Memory.get, ih]
theorem cellsOf_range (a : Nat) (bs : List Byte) : ∀ c ∈ cellsOf a bs, a ≤ c.1 ∧ c.1 < a + bs.length ∧ c.2 ≠ 0 := by
  induction bs generalizing a with
  | nil => simp [cellsOf]
  | cons b r ih =>
    intro c hc
    simp only [cellsOf] at hc
    split at hc
    · have := ih _ c hc; simp only [List.length_cons]; exact ⟨by omega, by omega, this.2.2⟩
    · rename_i hb
      rcases List.mem_cons.1 hc with rfl | hc
      · exact ⟨Nat.le_refl _, by simp, hb⟩
      · have := ih _ c hc; simp only [List.length_cons]; exact ⟨by omega, by omega, this.2.2⟩
theorem cellsOf_get (a : Nat) (bs : List Byte) (i : Nat) (b : Byte) (h : bs[i]? = some b) : Memory.get (cellsOf a bs) (a + i) = b := by
  induction bs generalizing a i with
  | nil => simp at h
  | cons c r ih =>
    cases i with
    | zero =>
      simp only [List.getElem?_cons_zero, Option.some.injEq] at h
      subst h
      simp only [cellsOf, Nat.add_zero]; split
      · rename_i hc; rw [hc]; exact get_absent _ _ (fun x hx => by have := cellsOf_range _ _ x hx; omega)
      · simp [Memory.get]
    | succ n =>
      simp only [List.getElem?_cons_succ] at h
      have := ih (a + 1) n h
      rw [show a + 1 + n = a + (n + 1) by omega] at this
      simp only [cellsOf]; split
      · exact this
      · simp only [Memory.get]; rw [if_neg (by omega)]; exact this

/-- Reading a byte that a write gave. -/
theorem get_write (m : Memory) (a : Nat) (bs : List Byte) (i : Nat) (b : Byte) (h : bs[i]? = some b) :
    Memory.get (m.write a bs) (a + i) = b := by
  have hi : i < bs.length := (List.getElem?_eq_some_iff.1 h).1
  unfold Memory.write
  rw [get_append_absent _ _ _ (fun c hc => by simp only [List.mem_filter, decide_eq_true_eq] at hc; omega),
    get_append _ _ _ (fun c hc => by simp only [List.mem_filter, decide_eq_true_eq] at hc; omega)]
  exact cellsOf_get a bs i b h
/-- Reading a byte that a write left alone. -/
theorem get_write_ne (m : Memory) (a : Nat) (bs : List Byte) (x : Nat) (h : x < a ∨ a + bs.length ≤ x) :
    Memory.get (m.write a bs) x = Memory.get m x := by
  unfold Memory.write
  rcases h with h | h
  · rw [List.append_assoc, get_append_absent]
    · exact get_filter m x _ (fun b => by simp [h])
    · intro c hc
      simp only [List.mem_append, List.mem_filter, decide_eq_true_eq] at hc
      rcases hc with hc | hc
      · have := cellsOf_range _ _ c hc; omega
      · omega
  · rw [List.append_assoc, get_append, get_append]
    · exact get_filter m x _ (fun b => by simp [h])
    · intro c hc; have := cellsOf_range _ _ c hc; omega
    · intro c hc; simp only [List.mem_filter, decide_eq_true_eq] at hc; omega

theorem wfFrom_le (m : Memory) {a b : Nat} (h : a ≤ b) (hw : Memory.wfFrom b m = true) : Memory.wfFrom a m = true := by
  cases m with
  | nil => rfl
  | cons c r => simp only [Memory.wfFrom, Bool.and_eq_true, decide_eq_true_eq] at hw ⊢; exact ⟨⟨by omega, hw.1.2⟩, hw.2⟩
/-- Two canonical stretches, the first below the second. -/
theorem wfFrom_append (l m : Memory) (a b : Nat) (h : ∀ c ∈ l, c.1 < b) (hab : a ≤ b) (hl : Memory.wfFrom a l = true)
    (hm : Memory.wfFrom b m = true) : Memory.wfFrom a (l ++ m) = true := by
  induction l generalizing a with
  | nil => exact wfFrom_le m hab hm
  | cons c r ih =>
    simp only [List.cons_append, Memory.wfFrom, Bool.and_eq_true] at hl ⊢
    exact ⟨hl.1, ih _ (fun x hx => h x (List.mem_cons_of_mem _ hx)) (h c (List.mem_cons_self ..)) hl.2⟩
theorem wfFrom_filter (m : Memory) (a : Nat) (p : Host.Cell → Bool) (hw : Memory.wfFrom a m = true) : Memory.wfFrom a (m.filter p) = true := by
  induction m generalizing a with
  | nil => rfl
  | cons c r ih =>
    simp only [Memory.wfFrom, Bool.and_eq_true, decide_eq_true_eq] at hw
    simp only [List.filter_cons]; split
    · simp only [Memory.wfFrom, Bool.and_eq_true, decide_eq_true_eq]; exact ⟨hw.1, ih _ hw.2⟩
    · exact wfFrom_le _ (by omega) (ih _ hw.2)
theorem wfFrom_above (m : Memory) (a b : Nat) (hw : Memory.wfFrom a m = true) (h : ∀ c ∈ m, b ≤ c.1) : Memory.wfFrom b m = true := by
  cases m with
  | nil => rfl
  | cons c r =>
    simp only [Memory.wfFrom, Bool.and_eq_true, decide_eq_true_eq] at hw ⊢
    exact ⟨⟨h c (List.mem_cons_self ..), hw.1.2⟩, hw.2⟩
theorem wfFrom_cellsOf (a : Nat) (bs : List Byte) : Memory.wfFrom a (cellsOf a bs) = true := by
  induction bs generalizing a with
  | nil => rfl
  | cons b r ih =>
    simp only [cellsOf]; split
    · exact wfFrom_le _ (by omega) (ih _)
    · rename_i hb; simp only [Memory.wfFrom, ih, Bool.and_true, Bool.and_eq_true, decide_eq_true_eq, bne_iff_ne]; exact ⟨Nat.le_refl a, hb⟩

/-- A write keeps the canonical form of any memory: of the dies, of the host and the pools, of a core's local memory and vector registers. -/
theorem write_wf (m : Memory) (a : Nat) (bs : List Byte) (hw : m.wf = true) : (m.write a bs).wf = true := by
  unfold Memory.write Memory.wf
  refine wfFrom_append _ _ 0 (a + bs.length) (fun c hc => ?_) (Nat.zero_le _) ?_ ?_
  · simp only [List.mem_append, List.mem_filter, decide_eq_true_eq] at hc
    rcases hc with hc | hc
    · omega
    · exact (cellsOf_range _ _ c hc).2.1
  · refine wfFrom_append _ _ 0 a (fun c hc => ?_) (Nat.zero_le _) (wfFrom_filter m 0 _ hw) (wfFrom_cellsOf a bs)
    simp only [List.mem_filter, decide_eq_true_eq] at hc; exact hc.2
  · refine wfFrom_above _ 0 _ (wfFrom_filter m 0 _ hw) (fun c hc => ?_)
    simp only [List.mem_filter, decide_eq_true_eq] at hc; exact hc.2
/-- Forgetting bytes keeps the canonical form (the vector registers of a bind, R325). -/
theorem filter_wf (m : Memory) (p : Host.Cell → Bool) (hw : m.wf = true) : Memory.wf (m.filter p) = true := wfFrom_filter m 0 p hw

end Sys2Proof.Machine
end

