-- ==== Sys2Proof/Laws/Memory.lean ====
section
/-! SUPPORT. Every memory operation keeps the canonical form of the memories (log 5, DESIGN CHOICE), and reset has it. -/

namespace Sys2Proof.Machine

theorem memOk_reset : MemOk State.reset := ⟨rfl, rfl, rfl, rfl, rfl, rfl, rfl⟩

/-- A fold keeps what each of its steps keeps. -/
theorem foldl_memOk {α : Type} (l : List α) (g : State → α → State) (h : ∀ t x, MemOk t → MemOk (g t x)) {s : State} (hs : MemOk s) :
    MemOk (l.foldl g s) := by
  induction l generalizing s with
  | nil => exact hs
  | cons a r ih => exact ih (h s a hs)

/-- An operation that keeps the memories, their dirty lines and the cores keeps the form. -/
theorem memOk_of_eq {s t : State} (hs : MemOk s) (h1 : t.dev = s.dev) (h2 : t.host = s.host) (h3 : t.pool = s.pool) (h4 : t.l2 = s.l2)
    (h5 : t.hostL2 = s.hostL2) (h6 : t.poolL2 = s.poolL2) (h7 : t.cores = s.cores) : MemOk t := by
  unfold MemOk at hs ⊢; rw [h1, h2, h3, h4, h5, h6, h7]; exact hs

variable {s : State}

theorem setCore_memOk (hs : MemOk s) (n : Nat) (c : Core) : MemOk (s.setCore n c) :=
  ⟨hs.1, hs.2.1, hs.2.2.1, hs.2.2.2.1, hs.2.2.2.2.1, hs.2.2.2.2.2.1, tabWf_set s.cores {} n c hs.2.2.2.2.2.2⟩
theorem modCore_memOk (hs : MemOk s) (n : Nat) (f : Core → Core) : MemOk (s.modCore n f) := setCore_memOk hs n _
theorem setStrand_memOk (hs : MemOk s) (n : Nat) (t : Strand) : MemOk (s.setStrand n t) := hs
theorem modStrand_memOk (hs : MemOk s) (n : Nat) (f : Strand → Strand) : MemOk (s.modStrand n f) := hs
theorem setMe_memOk (hs : MemOk s) (t : Strand) : MemOk (s.setMe t) := hs
theorem setQuad_memOk (hs : MemOk s) (n : Nat) (q : Quad) : MemOk (s.setQuad n q) := hs
theorem mapCores_memOk (hs : MemOk s) (f : Nat → Core → Core) : MemOk (s.mapCores f) :=
  foldl_memOk _ _ (fun _ _ h => setCore_memOk h _ _) hs
theorem mapStrands_memOk (hs : MemOk s) (f : Nat → Strand → Strand) : MemOk (s.mapStrands f) := foldl_memOk _ _ (fun _ _ h => setStrand_memOk h _ _) hs
theorem mapQuads_memOk (hs : MemOk s) (f : Nat → Quad → Quad) : MemOk (s.mapQuads f) := foldl_memOk _ _ (fun _ _ h => setQuad_memOk h _ _) hs

theorem writeBackDev_memOk (hs : MemOk s) (l : Nat) : MemOk (s.writeBackDev l) := by
  unfold State.writeBackDev; split
  · exact ⟨write_wf _ _ _ hs.1, hs.2.1, hs.2.2.1, tabWf_erase _ _ hs.2.2.2.1, hs.2.2.2.2.1, hs.2.2.2.2.2.1, hs.2.2.2.2.2.2⟩
  · exact hs
theorem writeBackHost_memOk (hs : MemOk s) (l : Nat) : MemOk (s.writeBackHost l) := by
  unfold State.writeBackHost; split
  · exact ⟨hs.1, write_wf _ _ _ hs.2.1, hs.2.2.1, hs.2.2.2.1, tabWf_erase _ _ hs.2.2.2.2.1, hs.2.2.2.2.2.1, hs.2.2.2.2.2.2⟩
  · exact hs
theorem writeBackPool_memOk (hs : MemOk s) (l : Nat) : MemOk (s.writeBackPool l) := by
  unfold State.writeBackPool; split
  · exact ⟨hs.1, hs.2.1, write_wf _ _ _ hs.2.2.1, hs.2.2.2.1, hs.2.2.2.2.1, tabWf_erase _ _ hs.2.2.2.2.2.1, hs.2.2.2.2.2.2⟩
  · exact hs
theorem patchOver_wf (t : Tab (BitVec 512)) (rd : Nat → Byte) (l : Nat) (b : Byte) (h : tabWf t = true) : tabWf (patchOver t rd l b) = true :=
  tabWf_put t _ _ h
theorem putByte_memOk (hs : MemOk s) (sp : MemSpace) (o : Nat) (b : Byte) : MemOk (s.putByte sp o b) := by
  cases sp with
  | il => exact ⟨hs.1, hs.2.1, hs.2.2.1, patchOver_wf _ _ _ _ hs.2.2.2.1, hs.2.2.2.2.1, hs.2.2.2.2.2.1, hs.2.2.2.2.2.2⟩
  | bl =>
    have h := writeBackDev_memOk hs (physLoc .bl o / 64)
    exact ⟨write_wf _ _ _ h.1, h.2.1, h.2.2.1, h.2.2.2.1, h.2.2.2.2.1, h.2.2.2.2.2.1, h.2.2.2.2.2.2⟩
  | host => exact ⟨hs.1, hs.2.1, hs.2.2.1, hs.2.2.2.1, patchOver_wf _ _ _ _ hs.2.2.2.2.1, hs.2.2.2.2.2.1, hs.2.2.2.2.2.2⟩
  | pool => exact ⟨hs.1, hs.2.1, hs.2.2.1, hs.2.2.2.1, hs.2.2.2.2.1, patchOver_wf _ _ _ _ hs.2.2.2.2.2.1, hs.2.2.2.2.2.2⟩
theorem putBytes_memOk (hs : MemOk s) (sp : MemSpace) (o : Nat) (bs : List Byte) : MemOk (s.putBytes sp o bs) :=
  foldl_memOk _ _ (fun _ _ h => putByte_memOk h _ _ _) hs
theorem dieWritten_memOk (hs : MemOk s) (b : Bool) (u : Nat) : MemOk (s.dieWritten b u) := hs
theorem markUnit_memOk (hs : MemOk s) (sp : MemSpace) (b : Bool) (u : Nat) : MemOk (s.markUnit sp b u) := by
  cases sp with
  | il => simp only [State.markUnit]; split <;> exact memOk_of_eq hs rfl rfl rfl rfl rfl rfl rfl
  | bl => exact memOk_of_eq hs rfl rfl rfl rfl rfl rfl rfl
  | host => exact memOk_of_eq hs rfl rfl rfl rfl rfl rfl rfl
  | pool => exact memOk_of_eq hs rfl rfl rfl rfl rfl rfl rfl
theorem cleanUnit_memOk (hs : MemOk s) (sp : MemSpace) (u : Nat) : MemOk (s.cleanUnit sp u) := by
  cases sp with
  | il => simp only [State.cleanUnit]; refine markUnit_memOk ?_ _ _ _; exact memOk_of_eq hs rfl rfl rfl rfl rfl rfl rfl
  | bl => exact dieWritten_memOk hs _ _
  | host => simp only [State.cleanUnit]; refine markUnit_memOk ?_ _ _ _; exact memOk_of_eq hs rfl rfl rfl rfl rfl rfl rfl
  | pool => simp only [State.cleanUnit]; refine markUnit_memOk ?_ _ _ _; exact memOk_of_eq hs rfl rfl rfl rfl rfl rfl rfl
theorem cleanUnits_memOk (hs : MemOk s) (sp : MemSpace) (us : List Nat) : MemOk (s.cleanUnits sp us) :=
  foldl_memOk _ _ (fun _ _ h => cleanUnit_memOk h _ _) hs
theorem poisonRange_memOk (hs : MemOk s) (sp : MemSpace) (o n : Nat) : MemOk (s.poisonRange sp o n) :=
  foldl_memOk _ _ (fun _ _ h => markUnit_memOk h _ _ _) hs
theorem mapEach_memOk (hs : MemOk s) (g : Nat × Core → Core) : MemOk { s with cores := s.cores.map (fun x => (x.1, g x)) } :=
  ⟨hs.1, hs.2.1, hs.2.2.1, hs.2.2.2.1, hs.2.2.2.2.1, hs.2.2.2.2.2.1, tabWf_map s.cores g hs.2.2.2.2.2.2⟩
theorem untrack_memOk (hs : MemOk s) (ls : List Nat) : MemOk (s.untrack ls) := memOk_of_eq (mapEach_memOk hs _) rfl rfl rfl rfl rfl rfl rfl
theorem touchCode_memOk (hs : MemOk s) (p : Party) (sp : MemSpace) (o n : Nat) : MemOk (s.touchCode p sp o n) := by
  unfold State.touchCode; split
  · exact hs
  · exact memOk_of_eq (untrack_memOk hs _) rfl rfl rfl rfl rfl rfl rfl
theorem endSequences_memOk (hs : MemOk s) (p : Party) (sp : MemSpace) (o n : Nat) : MemOk (s.endSequences p sp o n) := hs
theorem endLocal_memOk (hs : MemOk s) (p : Party) (c o n : Nat) : MemOk (s.endLocal p c o n) := hs
theorem storeMem_memOk (hs : MemOk s) (p : Party) (w : Bool) (sp : MemSpace) (o : Nat) (bs : List Byte) : MemOk (s.storeMem p w sp o bs) := by
  have h := endSequences_memOk (touchCode_memOk (putBytes_memOk hs sp o bs) p sp o bs.length) p sp o bs.length
  unfold State.storeMem; dsimp only; split
  · exact cleanUnits_memOk h _ _
  · exact h
theorem signalError_memOk (hs : MemOk s) (c : Nat) : MemOk (s.signalError c) := by unfold State.signalError; split <;> exact hs
theorem setMehead_memOk (hs : MemOk s) (n : BitVec 32) : MemOk (s.setMehead n) := hs
theorem setMelost_memOk (hs : MemOk s) (n : Word) : MemOk (s.setMelost n) := hs
theorem askWindow_memOk (hs : MemOk s) (k : Nat) (mk : Nat → Config.RingMsg) : MemOk (s.askWindow k mk) := by
  obtain ⟨r, e, w, o, h⟩ := askWindow_sends s k mk; rw [h]; exact memOk_of_eq hs rfl rfl rfl rfl rfl rfl rfl
theorem tellWindow_memOk (hs : MemOk s) (k a : Nat) (bs : List Byte) : MemOk (s.tellWindow k a bs) := by
  obtain ⟨r, e, w, o, h⟩ := tellWindow_sends s k a bs; rw [h]; exact memOk_of_eq hs rfl rfl rfl rfl rfl rfl rfl
theorem storeIl_memOk (hs : MemOk s) (p : Party) (w : Bool) (o : Nat) (bs : List Byte) : MemOk (s.storeIl p w o bs) := by
  unfold State.storeIl; split
  · exact storeMem_memOk hs _ _ _ _ _
  · exact tellWindow_memOk hs _ _ _
theorem postError_memOk (hs : MemOk s) (i : ErrInfo) : MemOk (s.postError i) := by
  unfold State.postError; split
  · exact setMelost_memOk (signalError_memOk hs _) _
  · exact setMehead_memOk (storeIl_memOk (signalError_memOk hs _) _ _ _ _) _
theorem countCorrected_memOk (hs : MemOk s) (k u : Nat) (n : BitVec 32) : MemOk (s.countCorrected k u n) := by
  unfold State.countCorrected; split
  · exact postError_memOk hs _
  · exact hs
theorem noteDie_memOk (hs : MemOk s) (u : Nat) : MemOk (s.noteDie u) := by
  unfold State.noteDie; dsimp only; split
  · exact hs
  · split
    · refine postError_memOk ?_ _; exact memOk_of_eq hs rfl rfl rfl rfl rfl rfl rfl
    · split
      · refine countCorrected_memOk ?_ _ _ _; exact memOk_of_eq hs rfl rfl rfl rfl rfl rfl rfl
      · exact hs
theorem snoopL1s_memOk (hs : MemOk s) (sp : MemSpace) (u : Nat) : MemOk (s.snoopL1s sp u) :=
  memOk_of_eq (mapEach_memOk hs _) rfl rfl rfl rfl rfl rfl rfl
theorem noteDir_memOk (hs : MemOk s) (sp : MemSpace) (u : Nat) : MemOk (s.noteDir sp u) := by
  have h := snoopL1s_memOk (s := { s with arr := { s.arr with dirBad := setDel s.arr.dirBad (unitKey sp u) } })
    (memOk_of_eq hs rfl rfl rfl rfl rfl rfl rfl) sp u
  unfold State.noteDir; dsimp only; split
  · exact hs
  · split
    · refine postError_memOk (markUnit_memOk ?_ _ _ _) _
      split <;> exact memOk_of_eq h rfl rfl rfl rfl rfl rfl rfl
    · refine countCorrected_memOk (postError_memOk ?_ _) _ _ _; exact memOk_of_eq h rfl rfl rfl rfl rfl rfl rfl
theorem countL2_memOk (hs : MemOk s) (u : Nat) : MemOk (s.countL2 u) := by
  unfold State.countL2; refine countCorrected_memOk ?_ _ _ _; exact memOk_of_eq hs rfl rfl rfl rfl rfl rfl rfl
theorem noteL2_memOk (hs : MemOk s) (sp : MemSpace) (u : Nat) : MemOk (s.noteL2 sp u) := by
  have h : MemOk ({ s with arr := { s.arr with l2Ue := setDel s.arr.l2Ue (unitKey sp u) } } : State) := memOk_of_eq hs rfl rfl rfl rfl rfl rfl rfl
  unfold State.noteL2; dsimp only; split
  · split
    · exact postError_memOk (markUnit_memOk h _ _ _) _
    · exact countL2_memOk h u
  · split
    · exact countL2_memOk hs u
    · exact hs
theorem flushDev_memOk (hs : MemOk s) (l : Nat) : MemOk (s.flushDev l) := by
  unfold State.flushDev; split
  · exact writeBackDev_memOk (noteL2_memOk hs _ l) l
  · exact hs
theorem flushHost_memOk (hs : MemOk s) (l : Nat) : MemOk (s.flushHost l) := by
  unfold State.flushHost; split
  · exact writeBackHost_memOk (noteL2_memOk hs _ l) l
  · exact hs
theorem flushPool_memOk (hs : MemOk s) (l : Nat) : MemOk (s.flushPool l) := by
  unfold State.flushPool; split
  · exact writeBackPool_memOk (noteL2_memOk hs _ l) l
  · exact hs
theorem noteUnit_memOk (hs : MemOk s) (sp : MemSpace) (u : Nat) : MemOk (s.noteUnit sp u) := by
  have h : MemOk (if sp = .bl then s else (s.noteDir sp u).noteL2 sp u) := by
    split
    · exact hs
    · exact noteL2_memOk (noteDir_memOk hs sp u) sp u
  unfold State.noteUnit
  generalize (if sp = .bl then s else (s.noteDir sp u).noteL2 sp u) = x at h
  dsimp only; split
  · exact noteDie_memOk h u
  · exact h
theorem takeUnit_memOk (hs : MemOk s) (sp : MemSpace) (u : Nat) : MemOk (s.takeUnit sp u) := by
  have h := noteDir_memOk hs sp u
  have h1 := noteUnit_memOk h sp u
  cases sp <;> simp only [State.takeUnit, reduceCtorEq, if_false, if_true]
  · split
    · exact h
    · exact memOk_of_eq h1 rfl rfl rfl rfl rfl rfl rfl
  · exact dieWritten_memOk (noteDie_memOk (flushDev_memOk hs u) u) _ _
  · split
    · exact h
    · exact h1
  · split
    · exact h
    · exact h1
theorem writeMem_memOk (hs : MemOk s) (p : Party) (w : Bool) (sp : MemSpace) (o : Nat) (bs : List Byte) : MemOk (s.writeMem p w sp o bs) :=
  storeMem_memOk (foldl_memOk _ _ (fun t u h => by
    cases w
    · exact takeUnit_memOk h sp u
    · simp only [if_true]; split
      · exact noteDir_memOk h _ u
      · exact takeUnit_memOk h sp u) hs) _ _ _ _ _
theorem writeIl_memOk (hs : MemOk s) (p : Party) (w : Bool) (o : Nat) (bs : List Byte) : MemOk (s.writeIl p w o bs) := by
  unfold State.writeIl; split
  · exact writeMem_memOk hs _ _ _ _ _
  · exact tellWindow_memOk hs _ _ _
theorem setCxl_memOk (hs : MemOk s) (c : CxlLines) : MemOk (s.setCxl c) := memOk_of_eq hs rfl rfl rfl rfl rfl rfl rfl
theorem cxlAsk_memOk (hs : MemOk s) (r : CxlRequest) (u : Nat) : MemOk (s.cxlAsk r u) := memOk_of_eq hs rfl rfl rfl rfl rfl rfl rfl
theorem hostLine_memOk (hs : MemOk s) (a b : Bool) (u : Nat) : MemOk (s.hostLine a b u) := by
  unfold State.hostLine; dsimp only
  repeat' (first | exact hs | exact cxlAsk_memOk (setCxl_memOk hs _) _ _ | split)
theorem evictHost_memOk (hs : MemOk s) (u : Nat) : MemOk (s.evictHost u) := by
  unfold State.evictHost; split
  · exact hs
  · exact cxlAsk_memOk (setCxl_memOk (flushHost_memOk hs u) _) _ _
theorem dropPool_memOk (hs : MemOk s) (u : Nat) : MemOk (s.dropPool u) :=
  setCxl_memOk (untrack_memOk (snoopL1s_memOk (flushPool_memOk hs u) _ _) _) _
theorem poolLine_memOk (hs : MemOk s) (u : Nat) : MemOk (s.poolLine u) := by
  unfold State.poolLine; split
  · exact hs
  · dsimp only; split
    · exact setCxl_memOk (dropPool_memOk hs _) _
    · exact setCxl_memOk hs _
theorem recallLine_memOk (hs : MemOk s) (i : Bool) (u : Nat) : MemOk (s.recallLine i u) := by
  have h : MemOk ({ s with outputs := s.outputs ++ [.backSnoop i u] } : State) := memOk_of_eq hs rfl rfl rfl rfl rfl rfl rfl
  unfold State.recallLine; dsimp only; split
  · exact hs
  · refine setCxl_memOk ?_ _
    split
    · exact flushDev_memOk (storeMem_memOk h _ _ _ _ _) u
    · exact h
theorem cxlRead_memOk (hs : MemOk s) (sp : MemSpace) (o n z : Nat) : MemOk (s.cxlRead sp o n z) := by
  cases sp <;> simp only [State.cxlRead]
  · split
    · exact hs
    · exact foldl_memOk _ _ (fun _ _ h => recallLine_memOk h _ _) hs
  · exact hs
  · refine foldl_memOk _ _ (fun t u h => ?_) hs
    repeat' (first | exact h | exact hostLine_memOk h _ _ _ | exact cxlAsk_memOk h _ _ | split)
  · split
    · exact hs
    · exact foldl_memOk _ _ (fun _ _ h => poolLine_memOk h _) hs
theorem cxlWrite_memOk (hs : MemOk s) (sp : MemSpace) (o n z : Nat) : MemOk (s.cxlWrite sp o n z) := by
  cases sp <;> simp only [State.cxlWrite]
  · split
    · exact hs
    · exact foldl_memOk _ _ (fun _ _ h => recallLine_memOk h _ _) hs
  · exact hs
  · refine foldl_memOk _ _ (fun t u h => ?_) hs
    split
    · exact hostLine_memOk h _ _ _
    · exact cxlAsk_memOk (evictHost_memOk h u) _ _
  · split
    · exact hs
    · exact foldl_memOk _ _ (fun _ _ h => poolLine_memOk h _) hs
theorem setFqhead_memOk (hs : MemOk s) (n : BitVec 32) : MemOk { s with fqhead := n } := hs
theorem setFqlost_memOk (hs : MemOk s) (n : Word) : MemOk { s with fqlost := n } := hs
theorem postFault_memOk (hs : MemOk s) (i : FaultInfo) : MemOk (s.postFault i) := by
  unfold State.postFault; split
  · exact setFqlost_memOk hs _
  · exact memOk_of_eq (writeIl_memOk hs _ _ _ _) rfl rfl rfl rfl rfl rfl rfl
theorem readMem_memOk (hs : MemOk s) (sp : MemSpace) (o n : Nat) : MemOk (s.readMem sp o n).1 :=
  foldl_memOk _ _ (fun _ _ h => noteUnit_memOk h _ _) hs
theorem noteL1_memOk (hs : MemOk s) (c : Nat) (sp : MemSpace) (o n : Nat) : MemOk (s.noteL1 c sp o n) := by
  unfold State.noteL1; split
  · exact hs
  · refine foldl_memOk _ _ (fun t _ h => ?_) hs
    dsimp only; split
    · refine countCorrected_memOk ?_ _ _ _; exact memOk_of_eq h rfl rfl rfl rfl rfl rfl rfl
    · exact h
theorem noteLm_memOk (hs : MemOk s) (c o n : Nat) : MemOk (s.noteLm c o n) := by
  refine foldl_memOk _ _ (fun t _ h => ?_) hs
  dsimp only; split
  · exact postError_memOk (modCore_memOk h _ _) _
  · split
    · exact countCorrected_memOk (modCore_memOk h _ _) _ _ _
    · exact h
theorem readPiece_memOk (hs : MemOk s) (c : Nat) (p : Piece) : MemOk (s.readPiece c p).s := by
  cases p with
  | lm k o n => exact noteLm_memOk hs k o n
  | mem sp o n z => exact readMem_memOk (noteL1_memOk (cxlRead_memOk hs sp o n z) c sp o n) sp o n
  | remote k o n => exact askWindow_memOk hs _ _
  | fixed v n => exact hs
  | hidden n => exact hs
  | kons k sp o n =>
    have h := readMem_memOk (cxlRead_memOk hs sp o n 64) sp o n
    unfold State.readPiece; dsimp only; split
    · split
      · exact hs
      · exact h
    · split
      · exact h
      · exact modCore_memOk h _ _
theorem readPieces_memOk (hs : MemOk s) (c : Nat) (ps : List Piece) : MemOk (s.readPieces c ps).s := by
  induction ps generalizing s with
  | nil => exact hs
  | cons p r ih => exact ih (readPiece_memOk hs c p)
theorem tlbFill_memOk (hs : MemOk s) (u : Nat) (p : BitVec 20) (va : Word) : MemOk (s.tlbFill u p va) := by
  have h : MemOk (s.noteWalk p va) := foldl_memOk _ _ (fun t o h => by
    split
    · exact foldl_memOk _ _ (fun _ _ h => noteUnit_memOk h _ _) h
    · exact h) hs
  unfold State.tlbFill; dsimp only
  repeat' (first | exact hs | exact memOk_of_eq h rfl rfl rfl rfl rfl rfl rfl | split)
theorem writeThru_memOk (hs : MemOk s) (p : Party) (w : Bool) (sp : MemSpace) (o : Nat) (bs : List Byte) (n : Nat) :
    MemOk (s.writeThru p w sp o bs n) := by
  have h := writeMem_memOk (cxlWrite_memOk hs sp o bs.length n) p w sp o bs
  unfold State.writeThru; dsimp only; split
  · exact h
  · cases sp with
    | il => exact foldl_memOk _ _ (fun _ _ h => flushDev_memOk h _) h
    | bl => exact h
    | host => exact foldl_memOk _ _ (fun _ _ h => flushHost_memOk h _) h
    | pool => exact foldl_memOk _ _ (fun _ _ h => flushPool_memOk h _) h
theorem writePieces_memOk (hs : MemOk s) (p : Party) (w : Bool) (bs : List Byte) (ps : List Piece) : MemOk (s.writePieces p w bs ps) := by
  induction ps generalizing s bs with
  | nil => exact hs
  | cons x r ih =>
    cases x with
    | lm c o n => exact ih (modCore_memOk (endLocal_memOk hs p c o n) c _) _
    | mem sp o n z => exact ih (writeThru_memOk hs _ _ _ _ _ _) _
    | remote k o n => exact ih (askWindow_memOk hs _ _) _
    | kons k sp o n => exact ih hs _
    | fixed v n => exact ih hs _
    | hidden n => exact ih hs _
theorem poisonPieces_memOk (hs : MemOk s) (ps : List Piece) : MemOk (s.poisonPieces ps) := by
  induction ps generalizing s with
  | nil => exact hs
  | cons x r ih =>
    cases x with
    | mem sp o n z => exact ih (poisonRange_memOk hs sp o n)
    | lm c o n => exact ih (modCore_memOk hs c _)
    | remote k o n => exact ih hs
    | kons k sp o n => exact ih hs
    | fixed v n => exact ih hs
    | hidden n => exact ih hs
theorem lmPut_memOk (hs : MemOk s) (c o n v : Nat) : MemOk (s.lmPut c o n v) := modCore_memOk hs c _
theorem setFull_memOk (hs : MemOk s) (c w : Nat) (b : Bool) : MemOk (s.setFull c w b) := modCore_memOk hs c _
theorem putTile_memOk (hs : MemOk s) (c p eb : Nat) (vs : List (Option Nat)) : MemOk (s.putTile c p eb vs) := modCore_memOk hs c _
theorem writeTile_memOk (hs : MemOk s) (c p eb : Nat) (vs : List (Option Nat)) : MemOk (s.writeTile c p eb vs) :=
  modStrand_memOk (putTile_memOk hs c p eb _) _ _
theorem clearL1s_memOk (hs : MemOk s) (n : Nat) : MemOk (s.clearL1s n) := by
  unfold State.clearL1s; split
  · exact hs
  · refine memOk_of_eq (mapEach_memOk hs (fun x => if x.1 / 4 == n / 16 then { x.2 with known := [], stamps := [] } else x.2)) rfl rfl rfl rfl rfl rfl ?_
    exact List.map_congr_left (fun x _ => by dsimp only; split <;> rfl)

/-! ### A core's own memories -/

theorem lmWrite_wf (c : Core) (o : Nat) (bs : List Byte) (h : c.lm.wf = true) : (c.lmWrite o bs).lm.wf = true := write_wf _ _ _ h
theorem lmStore_wf (c : Core) (o : Nat) (bs : List Byte) (h : c.lm.wf = true) : (c.lmStore o bs).lm.wf = true := write_wf _ _ _ h

end Sys2Proof.Machine
end

