-- ==== Sys2Proof/Laws/PerInstr.lean ====
section
/-! SUPPORT. Per instruction: the opcode fits its field (R78, R99), and exactly the instructions of the opcode map have fields. -/

namespace Sys2Proof.Laws.Encoding

open Sys2Proof.Machine

/-- An instruction of the opcode map has an opcode of ten bits other than 0, which is unassigned, and fields; an event has neither. -/
def Statement (i : Instr) : Prop :=
  (match ispec i, instrFields i with
  | some sp, some _ => 0 < sp.opc && sp.opc < 1024
  | none, none => true
  | _, _ => false) = true

theorem instructionDecode (slot : Nat) : Statement (.instructionDecode slot) := (rfl)
theorem windowEnd (slot : Nat) : Statement (.windowEnd slot) := (rfl)
theorem resultDelivery (slot : Nat) : Statement (.resultDelivery slot) := (rfl)
theorem waitTimerExpiry (slot : Nat) (q : Queue) : Statement (.waitTimerExpiry slot q) := (rfl)
theorem wfeLimitExpiry (slot : Nat) : Statement (.wfeLimitExpiry slot) := (rfl)
theorem userInterruptEntry (slot : Nat) : Statement (.userInterruptEntry slot) := (rfl)
theorem strandStop (slot : Nat) : Statement (.strandStop slot) := (rfl)
theorem strandRetire (slot : Nat) : Statement (.strandRetire slot) := (rfl)
theorem deadlineDiversion (slot : Nat) : Statement (.deadlineDiversion slot) := (rfl)
theorem wrapupStart (slot : Nat) : Statement (.wrapupStart slot) := (rfl)
theorem budgetExhausted (slot : Nat) : Statement (.budgetExhausted slot) := (rfl)
theorem add (f : Fields) : Statement (.add f) := (rfl)
theorem sub (f : Fields) : Statement (.sub f) := (rfl)
theorem mul (f : Fields) : Statement (.mul f) := (rfl)
theorem mulhu (f : Fields) : Statement (.mulhu f) := (rfl)
theorem mulhs (f : Fields) : Statement (.mulhs f) := (rfl)
theorem divu (f : Fields) : Statement (.divu f) := (rfl)
theorem divs (f : Fields) : Statement (.divs f) := (rfl)
theorem remu (f : Fields) : Statement (.remu f) := (rfl)
theorem rems (f : Fields) : Statement (.rems f) := (rfl)
theorem and (f : Fields) : Statement (.and f) := (rfl)
theorem or (f : Fields) : Statement (.or f) := (rfl)
theorem xor (f : Fields) : Statement (.xor f) := (rfl)
theorem andn (f : Fields) : Statement (.andn f) := (rfl)
theorem shl (f : Fields) : Statement (.shl f) := (rfl)
theorem shrl (f : Fields) : Statement (.shrl f) := (rfl)
theorem shra (f : Fields) : Statement (.shra f) := (rfl)
theorem rotl (f : Fields) : Statement (.rotl f) := (rfl)
theorem clz (f : Fields) : Statement (.clz f) := (rfl)
theorem ctz (f : Fields) : Statement (.ctz f) := (rfl)
theorem popc (f : Fields) : Statement (.popc f) := (rfl)
theorem bswap (f : Fields) : Statement (.bswap f) := (rfl)
theorem min (f : Fields) : Statement (.min f) := (rfl)
theorem max (f : Fields) : Statement (.max f) := (rfl)
theorem minu (f : Fields) : Statement (.minu f) := (rfl)
theorem maxu (f : Fields) : Statement (.maxu f) := (rfl)
theorem abs (f : Fields) : Statement (.abs f) := (rfl)
theorem sext (f : Fields) : Statement (.sext f) := (rfl)
theorem zext (f : Fields) : Statement (.zext f) := (rfl)
theorem sel (f : Fields) : Statement (.sel f) := (rfl)
theorem mov (f : Fields) : Statement (.mov f) := (rfl)
theorem movK (f : Fields) : Statement (.movK f) := (rfl)
theorem cmp (f : Fields) : Statement (.cmp f) := (rfl)
theorem lea (f : Fields) : Statement (.lea f) := (rfl)
theorem pand (f : Fields) : Statement (.pand f) := (rfl)
theorem por (f : Fields) : Statement (.por f) := (rfl)
theorem pxor (f : Fields) : Statement (.pxor f) := (rfl)
theorem pnot (f : Fields) : Statement (.pnot f) := (rfl)
theorem sfadd (f : Fields) : Statement (.sfadd f) := (rfl)
theorem sfmul (f : Fields) : Statement (.sfmul f) := (rfl)
theorem sffma (f : Fields) : Statement (.sffma f) := (rfl)
theorem sfcvt (f : Fields) : Statement (.sfcvt f) := (rfl)
theorem sfcmp (f : Fields) : Statement (.sfcmp f) := (rfl)
theorem jmp (f : Fields) : Statement (.jmp f) := (rfl)
theorem br (f : Fields) : Statement (.br f) := (rfl)
theorem jidx (f : Fields) : Statement (.jidx f) := (rfl)
theorem call (f : Fields) : Statement (.call f) := (rfl)
theorem ret (f : Fields) : Statement (.ret f) := (rfl)
theorem loop (f : Fields) : Statement (.loop f) := (rfl)
theorem nop (f : Fields) : Statement (.nop f) := (rfl)
theorem yield (f : Fields) : Statement (.yield f) := (rfl)
theorem halt (f : Fields) : Statement (.halt f) := (rfl)
theorem csrr (f : Fields) : Statement (.csrr f) := (rfl)
theorem csrw (f : Fields) : Statement (.csrw f) := (rfl)
theorem trap (f : Fields) : Statement (.trap f) := (rfl)
theorem syscall (f : Fields) : Statement (.syscall f) := (rfl)
theorem eret (f : Fields) : Statement (.eret f) := (rfl)
theorem wfe (f : Fields) : Statement (.wfe f) := (rfl)
theorem tlbi (f : Fields) : Statement (.tlbi f) := (rfl)
theorem lds (f : Fields) : Statement (.lds f) := (rfl)
theorem sts (f : Fields) : Statement (.sts f) := (rfl)
theorem ldq (f : Fields) : Statement (.ldq f) := (rfl)
theorem stq (f : Fields) : Statement (.stq f) := (rfl)
theorem ldb (f : Fields) : Statement (.ldb f) := (rfl)
theorem lda (f : Fields) : Statement (.lda f) := (rfl)
theorem strel (f : Fields) : Statement (.strel f) := (rfl)
theorem ldv (f : Fields) : Statement (.ldv f) := (rfl)
theorem stv (f : Fields) : Statement (.stv f) := (rfl)
theorem ldg (f : Fields) : Statement (.ldg f) := (rfl)
theorem stg (f : Fields) : Statement (.stg f) := (rfl)
theorem ldfe (f : Fields) : Statement (.ldfe f) := (rfl)
theorem stff (f : Fields) : Statement (.stff f) := (rfl)
theorem feq (f : Fields) : Statement (.feq f) := (rfl)
theorem feset (f : Fields) : Statement (.feset f) := (rfl)
theorem mark (f : Fields) : Statement (.mark f) := (rfl)
theorem fence (f : Fields) : Statement (.fence f) := (rfl)
theorem fenceMem (f : Fields) : Statement (.fenceMem f) := (rfl)
theorem pubx (f : Fields) : Statement (.pubx f) := (rfl)
theorem radv (f : Fields) : Statement (.radv f) := (rfl)
theorem aadd (f : Fields) : Statement (.aadd f) := (rfl)
theorem amin (f : Fields) : Statement (.amin f) := (rfl)
theorem amax (f : Fields) : Statement (.amax f) := (rfl)
theorem aminu (f : Fields) : Statement (.aminu f) := (rfl)
theorem amaxu (f : Fields) : Statement (.amaxu f) := (rfl)
theorem aand (f : Fields) : Statement (.aand f) := (rfl)
theorem aor (f : Fields) : Statement (.aor f) := (rfl)
theorem axor (f : Fields) : Statement (.axor f) := (rfl)
theorem axchg (f : Fields) : Statement (.axchg f) := (rfl)
theorem acas (f : Fields) : Statement (.acas f) := (rfl)
theorem afadd (f : Fields) : Statement (.afadd f) := (rfl)
theorem aincw (f : Fields) : Statement (.aincw f) := (rfl)
theorem redadd (f : Fields) : Statement (.redadd f) := (rfl)
theorem redmin (f : Fields) : Statement (.redmin f) := (rfl)
theorem redmax (f : Fields) : Statement (.redmax f) := (rfl)
theorem redfadd (f : Fields) : Statement (.redfadd f) := (rfl)
theorem semwait (f : Fields) : Statement (.semwait f) := (rfl)
theorem sempost (f : Fields) : Statement (.sempost f) := (rfl)
theorem sracq (f : Fields) : Statement (.sracq f) := (rfl)
theorem srpub (f : Fields) : Statement (.srpub f) := (rfl)
theorem srtake (f : Fields) : Statement (.srtake f) := (rfl)
theorem srrel (f : Fields) : Statement (.srrel f) := (rfl)
theorem barinit (f : Fields) : Statement (.barinit f) := (rfl)
theorem bararr (f : Fields) : Statement (.bararr f) := (rfl)
theorem barexp (f : Fields) : Statement (.barexp f) := (rfl)
theorem barwait (f : Fields) : Statement (.barwait f) := (rfl)
theorem bartest (f : Fields) : Statement (.bartest f) := (rfl)
theorem qfence (f : Fields) : Statement (.qfence f) := (rfl)
theorem qput (f : Fields) : Statement (.qput f) := (rfl)
theorem qputNb (f : Fields) : Statement (.qputNb f) := (rfl)
theorem poisonclr (f : Fields) : Statement (.poisonclr f) := (rfl)
theorem vshp (f : Fields) : Statement (.vshp f) := (rfl)
theorem vadd (f : Fields) : Statement (.vadd f) := (rfl)
theorem vsub (f : Fields) : Statement (.vsub f) := (rfl)
theorem vmul (f : Fields) : Statement (.vmul f) := (rfl)
theorem vfma (f : Fields) : Statement (.vfma f) := (rfl)
theorem vfms (f : Fields) : Statement (.vfms f) := (rfl)
theorem vnfma (f : Fields) : Statement (.vnfma f) := (rfl)
theorem vdiv (f : Fields) : Statement (.vdiv f) := (rfl)
theorem vsqrt (f : Fields) : Statement (.vsqrt f) := (rfl)
theorem vmin (f : Fields) : Statement (.vmin f) := (rfl)
theorem vmax (f : Fields) : Statement (.vmax f) := (rfl)
theorem vabs (f : Fields) : Statement (.vabs f) := (rfl)
theorem vneg (f : Fields) : Statement (.vneg f) := (rfl)
theorem vcmp (f : Fields) : Statement (.vcmp f) := (rfl)
theorem vsel (f : Fields) : Statement (.vsel f) := (rfl)
theorem vand (f : Fields) : Statement (.vand f) := (rfl)
theorem vor (f : Fields) : Statement (.vor f) := (rfl)
theorem vxor (f : Fields) : Statement (.vxor f) := (rfl)
theorem vnot (f : Fields) : Statement (.vnot f) := (rfl)
theorem vshl (f : Fields) : Statement (.vshl f) := (rfl)
theorem vshr (f : Fields) : Statement (.vshr f) := (rfl)
theorem vshra (f : Fields) : Statement (.vshra f) := (rfl)
theorem vclamp (f : Fields) : Statement (.vclamp f) := (rfl)
theorem vcvt (f : Fields) : Statement (.vcvt f) := (rfl)
theorem vqnt (f : Fields) : Statement (.vqnt f) := (rfl)
theorem vdqnt (f : Fields) : Statement (.vdqnt f) := (rfl)
theorem vpack6 (f : Fields) : Statement (.vpack6 f) := (rfl)
theorem vunpk6 (f : Fields) : Statement (.vunpk6 f) := (rfl)
theorem vpack4 (f : Fields) : Statement (.vpack4 f) := (rfl)
theorem vunpk4 (f : Fields) : Statement (.vunpk4 f) := (rfl)
theorem vscale (f : Fields) : Statement (.vscale f) := (rfl)
theorem vredr (f : Fields) : Statement (.vredr f) := (rfl)
theorem vredc (f : Fields) : Statement (.vredc f) := (rfl)
theorem vmaxr (f : Fields) : Statement (.vmaxr f) := (rfl)
theorem vscan (f : Fields) : Statement (.vscan f) := (rfl)
theorem vexp (f : Fields) : Statement (.vexp f) := (rfl)
theorem vexp2 (f : Fields) : Statement (.vexp2 f) := (rfl)
theorem vlog2 (f : Fields) : Statement (.vlog2 f) := (rfl)
theorem vrcp (f : Fields) : Statement (.vrcp f) := (rfl)
theorem vrsq (f : Fields) : Statement (.vrsq f) := (rfl)
theorem vtanh (f : Fields) : Statement (.vtanh f) := (rfl)
theorem vsigm (f : Fields) : Statement (.vsigm f) := (rfl)
theorem vsin (f : Fields) : Statement (.vsin f) := (rfl)
theorem vcos (f : Fields) : Statement (.vcos f) := (rfl)
theorem vtrn (f : Fields) : Statement (.vtrn f) := (rfl)
theorem vshuf (f : Fields) : Statement (.vshuf f) := (rfl)
theorem vbcr (f : Fields) : Statement (.vbcr f) := (rfl)
theorem vbcc (f : Fields) : Statement (.vbcc f) := (rfl)
theorem vmov (f : Fields) : Statement (.vmov f) := (rfl)
theorem viota (f : Fields) : Statement (.viota f) := (rfl)
theorem vcmul (f : Fields) : Statement (.vcmul f) := (rfl)
theorem vcfma (f : Fields) : Statement (.vcfma f) := (rfl)
theorem vconj (f : Fields) : Statement (.vconj f) := (rfl)
theorem vmag2 (f : Fields) : Statement (.vmag2 f) := (rfl)
theorem mlev (f : Fields) : Statement (.mlev f) := (rfl)
theorem mbase (f : Fields) : Statement (.mbase f) := (rfl)
theorem mmode (f : Fields) : Statement (.mmode f) := (rfl)
theorem mpre (f : Fields) : Statement (.mpre f) := (rfl)
theorem mswap (f : Fields) : Statement (.mswap f) := (rfl)
theorem mgo (f : Fields) : Statement (.mgo f) := (rfl)
theorem mwait (f : Fields) : Statement (.mwait f) := (rfl)
theorem mstat (f : Fields) : Statement (.mstat f) := (rfl)
theorem mdrain (f : Fields) : Statement (.mdrain f) := (rfl)
theorem mzero (f : Fields) : Statement (.mzero f) := (rfl)
theorem maccl (f : Fields) : Statement (.maccl f) := (rfl)
theorem mspmeta (f : Fields) : Statement (.mspmeta f) := (rfl)
theorem mscale (f : Fields) : Statement (.mscale f) := (rfl)
theorem mtestNow (f : Fields) : Statement (.mtestNow f) := (rfl)
theorem mtestIvl (f : Fields) : Statement (.mtestIvl f) := (rfl)
theorem mfuse (f : Fields) : Statement (.mfuse f) := (rfl)
theorem matrixOpStart (core : Nat) : Statement (.matrixOpStart core) := (rfl)
theorem mpreEarlyStart (core : Nat) : Statement (.mpreEarlyStart core) := (rfl)
theorem nestStart (core : Nat) : Statement (.nestStart core) := (rfl)
theorem nestPass (core : Nat) : Statement (.nestPass core) := (rfl)
theorem matrixOpComplete (core : Nat) : Statement (.matrixOpComplete core) := (rfl)
theorem cpy (f : Fields) : Statement (.cpy f) := (rfl)
theorem cpys (f : Fields) : Statement (.cpys f) := (rfl)
theorem layout (f : Fields) : Statement (.layout f) := (rfl)
theorem cpyq (f : Fields) : Statement (.cpyq f) := (rfl)
theorem copyCommandStart (core : Nat) : Statement (.copyCommandStart core) := (rfl)
theorem copySector (core : Nat) : Statement (.copySector core) := (rfl)
theorem copyCommandComplete (core : Nat) : Statement (.copyCommandComplete core) := (rfl)
theorem bgmac (f : Fields) : Statement (.bgmac f) := (rfl)
theorem bgcpy (f : Fields) : Statement (.bgcpy f) := (rfl)
theorem bgattn (f : Fields) : Statement (.bgattn f) := (rfl)
theorem kvput (f : Fields) : Statement (.kvput f) := (rfl)
theorem kvtake (f : Fields) : Statement (.kvtake f) := (rfl)
theorem memoryCommandStart (quad : Nat) : Statement (.memoryCommandStart quad) := (rfl)
theorem memoryPart (quad : Nat) (die : Nat) : Statement (.memoryPart quad die) := (rfl)
theorem memoryCommandComplete (quad : Nat) : Statement (.memoryCommandComplete quad) := (rfl)
theorem xpwrPoisonWrite (unit : Nat) : Statement (.xpwrPoisonWrite unit) := (rfl)
theorem bgfence (f : Fields) : Statement (.bgfence f) := (rfl)
theorem bgbarHold (f : Fields) : Statement (.bgbarHold f) := (rfl)
theorem bgbarRel (f : Fields) : Statement (.bgbarRel f) := (rfl)
theorem bgstat (f : Fields) : Statement (.bgstat f) := (rfl)
theorem areduce (f : Fields) : Statement (.areduce f) := (rfl)
theorem areduceComplete (core : Nat) : Statement (.areduceComplete core) := (rfl)
theorem step (f : Fields) : Statement (.step f) := (rfl)
theorem dlget (f : Fields) : Statement (.dlget f) := (rfl)
theorem wuset (f : Fields) : Statement (.wuset f) := (rfl)
theorem commit (f : Fields) : Statement (.commit f) := (rfl)
theorem pval (f : Fields) : Statement (.pval f) := (rfl)
theorem dlarm (f : Fields) : Statement (.dlarm f) := (rfl)
theorem uien (f : Fields) : Statement (.uien f) := (rfl)
theorem uimask (f : Fields) : Statement (.uimask f) := (rfl)
theorem uiret (f : Fields) : Statement (.uiret f) := (rfl)
theorem launch (thread : Nat) : Statement (.launch thread) := (rfl)
theorem nopPacket (thread : Nat) : Statement (.nopPacket thread) := (rfl)
theorem waitPacket (thread : Nat) : Statement (.waitPacket thread) := (rfl)
theorem queueWaitTimeout (thread : Nat) : Statement (.queueWaitTimeout thread) := (rfl)
theorem signalPacket (thread : Nat) : Statement (.signalPacket thread) := (rfl)
theorem register (thread : Nat) : Statement (.register thread) := (rfl)
theorem unregister (thread : Nat) : Statement (.unregister thread) := (rfl)
theorem mapq (thread : Nat) : Statement (.mapq thread) := (rfl)
theorem unmapq (thread : Nat) : Statement (.unmapq thread) := (rfl)
theorem revoke (thread : Nat) : Statement (.revoke thread) := (rfl)
theorem kill (thread : Nat) : Statement (.kill thread) := (rfl)
theorem policyDispatch : Statement .policyDispatch := (rfl)
theorem bundleStart (bndl : BitVec 64) : Statement (.bundleStart bndl) := (rfl)
theorem preemptSaveComplete (bndl : BitVec 64) : Statement (.preemptSaveComplete bndl) := (rfl)
theorem bundleComplete (bndl : BitVec 64) : Statement (.bundleComplete bndl) := (rfl)
theorem resetNRelease : Statement .resetNRelease := (rfl)
theorem acknowledgement (slot : Nat) : Statement (.acknowledgement slot) := (rfl)
theorem frespResolve (seq : BitVec 32) : Statement (.frespResolve seq) := (rfl)
theorem frespDeliver (seq : BitVec 32) : Statement (.frespDeliver seq) := (rfl)
theorem selfTest (core : Nat) (failing : BitVec 4) : Statement (.selfTest core failing) := (rfl)
theorem refresh (die : Nat) (bank : Nat) : Statement (.refresh die bank) := (rfl)
theorem scrub (unit : Nat) : Statement (.scrub unit) := (rfl)
theorem radvMessage (core : Nat) (region : Nat) : Statement (.radvMessage core region) := (rfl)
theorem pushMarker (core : Nat) (region : Nat) (round : BitVec 32) : Statement (.pushMarker core region round) := (rfl)
theorem deadAgent (held : LineOwner) (line : Nat) : Statement (.deadAgent held line) := (rfl)
theorem cxlMemRead (addr : HostAddr) (len : Nat) : Statement (.cxlMemRead addr len) := (rfl)
theorem cxlMemWrite (addr : HostAddr) (data : List Byte) : Statement (.cxlMemWrite addr data) := (rfl)
theorem snpdata (line : Nat) : Statement (.snpdata line) := (rfl)
theorem snpinv (line : Nat) : Statement (.snpinv line) := (rfl)
theorem snpcur (line : Nat) : Statement (.snpcur line) := (rfl)
theorem bisnpinv (line : Nat) : Statement (.bisnpinv line) := (rfl)
theorem bisnpdata (line : Nat) : Statement (.bisnpdata line) := (rfl)
theorem notifyWrite (pasid : BitVec 20) (qnum : BitVec 12) : Statement (.notifyWrite pasid qnum) := (rfl)
theorem bindGroupCommit (bndl : BitVec 64) : Statement (.bindGroupCommit bndl) := (rfl)
theorem preemptRequest (bndl : BitVec 64) : Statement (.preemptRequest bndl) := (rfl)
theorem resume (bndl : BitVec 64) : Statement (.resume bndl) := (rfl)
theorem flitReceive (port : Port) (flit : List Byte) : Statement (.flitReceive port flit) := (rfl)
theorem flitNak (port : Port) (flit : List Byte) : Statement (.flitNak port flit) := (rfl)
theorem laneInterval (port : Port) (lane : Nat) (count : Nat) : Statement (.laneInterval port lane count) := (rfl)
theorem laneSpare (port : Port) (lane : Nat) : Statement (.laneSpare port lane) := (rfl)
theorem halfWidthRetrain (port : Port) : Statement (.halfWidthRetrain port) := (rfl)
theorem portDown (port : Port) : Statement (.portDown port) := (rfl)
theorem lkctlForce (port : Port) (value : Word) : Statement (.lkctlForce port value) := (rfl)
theorem lgctlWrite (value : Word) : Statement (.lgctlWrite value) := (rfl)
theorem timeSend : Statement .timeSend := (rfl)
theorem timeReceive (port : Port) (masterNs : Nat) : Statement (.timeReceive port masterNs) := (rfl)
theorem linkDelayExchange (port : Port) (roundTripNs : Nat) : Statement (.linkDelayExchange port roundTripNs) := (rfl)
theorem timeSourceLoss : Statement .timeSourceLoss := (rfl)
theorem ptpMessage (masterNs : Nat) : Statement (.ptpMessage masterNs) := (rfl)
theorem ppsInEdge : Statement .ppsInEdge := (rfl)
theorem ppsOut : Statement .ppsOut := (rfl)
theorem abortOriginate (mask : BitVec 8) : Statement (.abortOriginate mask) := (rfl)
theorem abortPass1 (came : PassAt) (orig : BitVec 3) (acc : BitVec 48) : Statement (.abortPass1 came orig acc) := (rfl)
theorem abortPass2 (came : PassAt) (orig : BitVec 3) (agreed : BitVec 48) : Statement (.abortPass2 came orig agreed) := (rfl)
theorem lgabtClear : Statement .lgabtClear := (rfl)
theorem lockstepMismatch (pair : Nat) : Statement (.lockstepMismatch pair) := (rfl)
theorem heartbeat : Statement .heartbeat := (rfl)
theorem takeover : Statement .takeover := (rfl)
theorem fuseAdvance : Statement .fuseAdvance := (rfl)
theorem recoveryImage (image : List Byte) : Statement (.recoveryImage image) := (rfl)
theorem powerOff : Statement .powerOff := (rfl)
theorem throttleEntry : Statement .throttleEntry := (rfl)
theorem throttleExit : Statement .throttleExit := (rfl)
theorem thermalTrip : Statement .thermalTrip := (rfl)
theorem pwrctlWrite (value : Word) : Statement (.pwrctlWrite value) := (rfl)
theorem vcoreSlewDone : Statement .vcoreSlewDone := (rfl)
theorem clockRestart : Statement .clockRestart := (rfl)
theorem registerWrite (reg : RegAt) (value : Word) : Statement (.registerWrite reg value) := (rfl)
theorem ptpSourceLoss : Statement .ptpSourceLoss := (rfl)
theorem lossOfLock (port : Port) (lane : Nat) : Statement (.lossOfLock port lane) := (rfl)
theorem portTrained (port : Port) : Statement (.portTrained port) := (rfl)
theorem areduceAbort (core : Nat) : Statement (.areduceAbort core) := (rfl)
theorem ellRelay (core : Nat) : Statement (.ellRelay core) := (rfl)
theorem ellConvert (core : Nat) : Statement (.ellConvert core) := (rfl)
theorem ellExpand (core : Nat) : Statement (.ellExpand core) := (rfl)
theorem unsettle : Statement .unsettle := (rfl)
theorem fliph : Statement .fliph := (rfl)
theorem flipd : Statement .flipd := (rfl)
theorem move : Statement .move := (rfl)
theorem moveComplete : Statement .moveComplete := (rfl)
theorem l2WriteBack (line : Nat) : Statement (.l2WriteBack line) := (rfl)

end Sys2Proof.Laws.Encoding
end

