-- ==== Sys2Proof/Laws/State.lean ====
section
/-! SUPPORT. What each shared update of the state leaves in each field. The proofs are by `rfl`, in parentheses, so that `simp` rewrites with
them one by one. -/

namespace Sys2Proof.Machine

/-! ### One strand, core or quadrant changes -/

@[simp] theorem setStrand_cur (s : State) (n : Nat) (t : Strand) : (s.setStrand n t).cur = s.cur := (rfl)
@[simp] theorem setStrand_acting (s : State) (n : Nat) (t : Strand) : (s.setStrand n t).acting = s.acting := (rfl)
@[simp] theorem setStrand_agenda (s : State) (n : Nat) (t : Strand) : (s.setStrand n t).agenda = s.agenda := (rfl)
@[simp] theorem setStrand_latched (s : State) (n : Nat) (t : Strand) : (s.setStrand n t).latched = s.latched := (rfl)
@[simp] theorem setStrand_cycle (s : State) (n : Nat) (t : Strand) : (s.setStrand n t).cycle = s.cycle := (rfl)
@[simp] theorem setStrand_turn (s : State) (n : Nat) (t : Strand) : (s.setStrand n t).turn = s.turn := (rfl)
@[simp] theorem setStrand_fv (s : State) (n : Nat) (t : Strand) : (s.setStrand n t).fv = s.fv := (rfl)
@[simp] theorem setStrand_strands (s : State) (n : Nat) (t : Strand) : (s.setStrand n t).strands = tabSet s.strands {} n t := (rfl)
@[simp] theorem setStrand_cores (s : State) (n : Nat) (t : Strand) : (s.setStrand n t).cores = s.cores := (rfl)
@[simp] theorem setStrand_quads (s : State) (n : Nat) (t : Strand) : (s.setStrand n t).quads = s.quads := (rfl)
@[simp] theorem setStrand_dev (s : State) (n : Nat) (t : Strand) : (s.setStrand n t).dev = s.dev := (rfl)
@[simp] theorem setStrand_host (s : State) (n : Nat) (t : Strand) : (s.setStrand n t).host = s.host := (rfl)
@[simp] theorem setStrand_pool (s : State) (n : Nat) (t : Strand) : (s.setStrand n t).pool = s.pool := (rfl)
@[simp] theorem setStrand_l2 (s : State) (n : Nat) (t : Strand) : (s.setStrand n t).l2 = s.l2 := (rfl)
@[simp] theorem setStrand_hostL2 (s : State) (n : Nat) (t : Strand) : (s.setStrand n t).hostL2 = s.hostL2 := (rfl)
@[simp] theorem setStrand_poolL2 (s : State) (n : Nat) (t : Strand) : (s.setStrand n t).poolL2 = s.poolL2 := (rfl)
@[simp] theorem setStrand_devPoison (s : State) (n : Nat) (t : Strand) : (s.setStrand n t).devPoison = s.devPoison := (rfl)
@[simp] theorem setStrand_hostPoison (s : State) (n : Nat) (t : Strand) : (s.setStrand n t).hostPoison = s.hostPoison := (rfl)
@[simp] theorem setStrand_poolPoison (s : State) (n : Nat) (t : Strand) : (s.setStrand n t).poolPoison = s.poolPoison := (rfl)
@[simp] theorem setStrand_devUe (s : State) (n : Nat) (t : Strand) : (s.setStrand n t).devUe = s.devUe := (rfl)
@[simp] theorem setStrand_devCe (s : State) (n : Nat) (t : Strand) : (s.setStrand n t).devCe = s.devCe := (rfl)
@[simp] theorem setStrand_xpwrDue (s : State) (n : Nat) (t : Strand) : (s.setStrand n t).xpwrDue = s.xpwrDue := (rfl)
@[simp] theorem setStrand_scrubDue (s : State) (n : Nat) (t : Strand) : (s.setStrand n t).scrubDue = s.scrubDue := (rfl)
@[simp] theorem setStrand_arr (s : State) (n : Nat) (t : Strand) : (s.setStrand n t).arr = s.arr := (rfl)
@[simp] theorem setStrand_rows (s : State) (n : Nat) (t : Strand) : (s.setStrand n t).rows = s.rows := (rfl)
@[simp] theorem setStrand_blocks (s : State) (n : Nat) (t : Strand) : (s.setStrand n t).blocks = s.blocks := (rfl)
@[simp] theorem setStrand_pages (s : State) (n : Nat) (t : Strand) : (s.setStrand n t).pages = s.pages := (rfl)
@[simp] theorem setStrand_holds (s : State) (n : Nat) (t : Strand) : (s.setStrand n t).holds = s.holds := (rfl)
@[simp] theorem setStrand_dieErr (s : State) (n : Nat) (t : Strand) : (s.setStrand n t).dieErr = s.dieErr := (rfl)
@[simp] theorem setStrand_ubits (s : State) (n : Nat) (t : Strand) : (s.setStrand n t).ubits = s.ubits := (rfl)
@[simp] theorem setStrand_rel (s : State) (n : Nat) (t : Strand) : (s.setStrand n t).rel = s.rel := (rfl)
@[simp] theorem setStrand_wcount (s : State) (n : Nat) (t : Strand) : (s.setStrand n t).wcount = s.wcount := (rfl)
@[simp] theorem setStrand_ptbase (s : State) (n : Nat) (t : Strand) : (s.setStrand n t).ptbase = s.ptbase := (rfl)
@[simp] theorem setStrand_fqbase (s : State) (n : Nat) (t : Strand) : (s.setStrand n t).fqbase = s.fqbase := (rfl)
@[simp] theorem setStrand_fqsize (s : State) (n : Nat) (t : Strand) : (s.setStrand n t).fqsize = s.fqsize := (rfl)
@[simp] theorem setStrand_fqhead (s : State) (n : Nat) (t : Strand) : (s.setStrand n t).fqhead = s.fqhead := (rfl)
@[simp] theorem setStrand_fqtail (s : State) (n : Nat) (t : Strand) : (s.setStrand n t).fqtail = s.fqtail := (rfl)
@[simp] theorem setStrand_fqlost (s : State) (n : Nat) (t : Strand) : (s.setStrand n t).fqlost = s.fqlost := (rfl)
@[simp] theorem setStrand_lim (s : State) (n : Nat) (t : Strand) : (s.setStrand n t).lim = s.lim := (rfl)
@[simp] theorem setStrand_mqbase (s : State) (n : Nat) (t : Strand) : (s.setStrand n t).mqbase = s.mqbase := (rfl)
@[simp] theorem setStrand_mqtail (s : State) (n : Nat) (t : Strand) : (s.setStrand n t).mqtail = s.mqtail := (rfl)
@[simp] theorem setStrand_mqhead (s : State) (n : Nat) (t : Strand) : (s.setStrand n t).mqhead = s.mqhead := (rfl)
@[simp] theorem setStrand_apslot (s : State) (n : Nat) (t : Strand) : (s.setStrand n t).apslot = s.apslot := (rfl)
@[simp] theorem setStrand_tlb (s : State) (n : Nat) (t : Strand) : (s.setStrand n t).tlb = s.tlb := (rfl)
@[simp] theorem setStrand_held (s : State) (n : Nat) (t : Strand) : (s.setStrand n t).held = s.held := (rfl)
@[simp] theorem setStrand_hist (s : State) (n : Nat) (t : Strand) : (s.setStrand n t).hist = s.hist := (rfl)
@[simp] theorem setStrand_moving (s : State) (n : Nat) (t : Strand) : (s.setStrand n t).moving = s.moving := (rfl)
@[simp] theorem setStrand_lgEn (s : State) (n : Nat) (t : Strand) : (s.setStrand n t).lgEn = s.lgEn := (rfl)
@[simp] theorem setStrand_lgPos (s : State) (n : Nat) (t : Strand) : (s.setStrand n t).lgPos = s.lgPos := (rfl)
@[simp] theorem setStrand_lgNm1 (s : State) (n : Nat) (t : Strand) : (s.setStrand n t).lgNm1 = s.lgNm1 := (rfl)
@[simp] theorem setStrand_lgTmpos (s : State) (n : Nat) (t : Strand) : (s.setStrand n t).lgTmpos = s.lgTmpos := (rfl)
@[simp] theorem setStrand_lgTmen (s : State) (n : Nat) (t : Strand) : (s.setStrand n t).lgTmen = s.lgTmen := (rfl)
@[simp] theorem setStrand_lwpbase (s : State) (n : Nat) (t : Strand) : (s.setStrand n t).lwpbase = s.lwpbase := (rfl)
@[simp] theorem setStrand_lwsize (s : State) (n : Nat) (t : Strand) : (s.setStrand n t).lwsize = s.lwsize := (rfl)
@[simp] theorem setStrand_lmsize (s : State) (n : Nat) (t : Strand) : (s.setStrand n t).lmsize = s.lmsize := (rfl)
@[simp] theorem setStrand_east (s : State) (n : Nat) (t : Strand) : (s.setStrand n t).east = s.east := (rfl)
@[simp] theorem setStrand_west (s : State) (n : Nat) (t : Strand) : (s.setStrand n t).west = s.west := (rfl)
@[simp] theorem setStrand_groups (s : State) (n : Nat) (t : Strand) : (s.setStrand n t).groups = s.groups := (rfl)
@[simp] theorem setStrand_stepped (s : State) (n : Nat) (t : Strand) : (s.setStrand n t).stepped = s.stepped := (rfl)
@[simp] theorem setStrand_contribs (s : State) (n : Nat) (t : Strand) : (s.setStrand n t).contribs = s.contribs := (rfl)
@[simp] theorem setStrand_abortDue (s : State) (n : Nat) (t : Strand) : (s.setStrand n t).abortDue = s.abortDue := (rfl)
@[simp] theorem setStrand_timeSentAt (s : State) (n : Nat) (t : Strand) : (s.setStrand n t).timeSentAt = s.timeSentAt := (rfl)
@[simp] theorem setStrand_arInst (s : State) (n : Nat) (t : Strand) : (s.setStrand n t).arInst = s.arInst := (rfl)
@[simp] theorem setStrand_ellctl (s : State) (n : Nat) (t : Strand) : (s.setStrand n t).ellctl = s.ellctl := (rfl)
@[simp] theorem setStrand_mebase (s : State) (n : Nat) (t : Strand) : (s.setStrand n t).mebase = s.mebase := (rfl)
@[simp] theorem setStrand_mesize (s : State) (n : Nat) (t : Strand) : (s.setStrand n t).mesize = s.mesize := (rfl)
@[simp] theorem setStrand_mehead (s : State) (n : Nat) (t : Strand) : (s.setStrand n t).mehead = s.mehead := (rfl)
@[simp] theorem setStrand_metail (s : State) (n : Nat) (t : Strand) : (s.setStrand n t).metail = s.metail := (rfl)
@[simp] theorem setStrand_melost (s : State) (n : Nat) (t : Strand) : (s.setStrand n t).melost = s.melost := (rfl)
@[simp] theorem setStrand_cethr (s : State) (n : Nat) (t : Strand) : (s.setStrand n t).cethr = s.cethr := (rfl)
@[simp] theorem setStrand_lgabtStep (s : State) (n : Nat) (t : Strand) : (s.setStrand n t).lgabtStep = s.lgabtStep := (rfl)
@[simp] theorem setStrand_lgabtMask (s : State) (n : Nat) (t : Strand) : (s.setStrand n t).lgabtMask = s.lgabtMask := (rfl)
@[simp] theorem setStrand_lgabtOrig (s : State) (n : Nat) (t : Strand) : (s.setStrand n t).lgabtOrig = s.lgabtOrig := (rfl)
@[simp] theorem setStrand_lgabtV (s : State) (n : Nat) (t : Strand) : (s.setStrand n t).lgabtV = s.lgabtV := (rfl)
@[simp] theorem setStrand_leader (s : State) (n : Nat) (t : Strand) : (s.setStrand n t).leader = s.leader := (rfl)
@[simp] theorem setStrand_healthy (s : State) (n : Nat) (t : Strand) : (s.setStrand n t).healthy = s.healthy := (rfl)
@[simp] theorem setStrand_tkover (s : State) (n : Nat) (t : Strand) : (s.setStrand n t).tkover = s.tkover := (rfl)
@[simp] theorem setStrand_hbcnt (s : State) (n : Nat) (t : Strand) : (s.setStrand n t).hbcnt = s.hbcnt := (rfl)
@[simp] theorem setStrand_hbAt (s : State) (n : Nat) (t : Strand) : (s.setStrand n t).hbAt = s.hbAt := (rfl)
@[simp] theorem setStrand_jbase (s : State) (n : Nat) (t : Strand) : (s.setStrand n t).jbase = s.jbase := (rfl)
@[simp] theorem setStrand_hbmiss (s : State) (n : Nat) (t : Strand) : (s.setStrand n t).hbmiss = s.hbmiss := (rfl)
@[simp] theorem setStrand_fwState (s : State) (n : Nat) (t : Strand) : (s.setStrand n t).fwState = s.fwState := (rfl)
@[simp] theorem setStrand_svnf (s : State) (n : Nat) (t : Strand) : (s.setStrand n t).svnf = s.svnf := (rfl)
@[simp] theorem setStrand_svni (s : State) (n : Nat) (t : Strand) : (s.setStrand n t).svni = s.svni := (rfl)
@[simp] theorem setStrand_fwFail (s : State) (n : Nat) (t : Strand) : (s.setStrand n t).fwFail = s.fwFail := (rfl)
@[simp] theorem setStrand_fwAdvance (s : State) (n : Nat) (t : Strand) : (s.setStrand n t).fwAdvance = s.fwAdvance := (rfl)
@[simp] theorem setStrand_flash (s : State) (n : Nat) (t : Strand) : (s.setStrand n t).flash = s.flash := (rfl)
@[simp] theorem setStrand_power (s : State) (n : Nat) (t : Strand) : (s.setStrand n t).power = s.power := (rfl)
@[simp] theorem setStrand_optr (s : State) (n : Nat) (t : Strand) : (s.setStrand n t).optr = s.optr := (rfl)
@[simp] theorem setStrand_pin (s : State) (n : Nat) (t : Strand) : (s.setStrand n t).pin = s.pin := (rfl)
@[simp] theorem setStrand_plim (s : State) (n : Nat) (t : Strand) : (s.setStrand n t).plim = s.plim := (rfl)
@[simp] theorem setStrand_opt (s : State) (n : Nat) (t : Strand) : (s.setStrand n t).opt = s.opt := (rfl)
@[simp] theorem setStrand_chg (s : State) (n : Nat) (t : Strand) : (s.setStrand n t).chg = s.chg := (rfl)
@[simp] theorem setStrand_want (s : State) (n : Nat) (t : Strand) : (s.setStrand n t).want = s.want := (rfl)
@[simp] theorem setStrand_clockStopped (s : State) (n : Nat) (t : Strand) : (s.setStrand n t).clockStopped = s.clockStopped := (rfl)
@[simp] theorem setStrand_throttledAt (s : State) (n : Nat) (t : Strand) : (s.setStrand n t).throttledAt = s.throttledAt := (rfl)
@[simp] theorem setStrand_tj (s : State) (n : Nat) (t : Strand) : (s.setStrand n t).tj = s.tj := (rfl)
@[simp] theorem setStrand_tmem (s : State) (n : Nat) (t : Strand) : (s.setStrand n t).tmem = s.tmem := (rfl)
@[simp] theorem setStrand_pwr (s : State) (n : Nat) (t : Strand) : (s.setStrand n t).pwr = s.pwr := (rfl)
@[simp] theorem setStrand_vcoreMv (s : State) (n : Nat) (t : Strand) : (s.setStrand n t).vcoreMv = s.vcoreMv := (rfl)
@[simp] theorem setStrand_time (s : State) (n : Nat) (t : Strand) : (s.setStrand n t).time = s.time := (rfl)
@[simp] theorem setStrand_timeFrac (s : State) (n : Nat) (t : Strand) : (s.setStrand n t).timeFrac = s.timeFrac := (rfl)
@[simp] theorem setStrand_timeLocked (s : State) (n : Nat) (t : Strand) : (s.setStrand n t).timeLocked = s.timeLocked := (rfl)
@[simp] theorem setStrand_slew (s : State) (n : Nat) (t : Strand) : (s.setStrand n t).slew = s.slew := (rfl)
@[simp] theorem setStrand_source (s : State) (n : Nat) (t : Strand) : (s.setStrand n t).source = s.source := (rfl)
@[simp] theorem setStrand_ptpUp (s : State) (n : Nat) (t : Strand) : (s.setStrand n t).ptpUp = s.ptpUp := (rfl)
@[simp] theorem setStrand_ppsSeen (s : State) (n : Nat) (t : Strand) : (s.setStrand n t).ppsSeen = s.ppsSeen := (rfl)
@[simp] theorem setStrand_ppsSec (s : State) (n : Nat) (t : Strand) : (s.setStrand n t).ppsSec = s.ppsSec := (rfl)
@[simp] theorem setStrand_qcbs (s : State) (n : Nat) (t : Strand) : (s.setStrand n t).qcbs = s.qcbs := (rfl)
@[simp] theorem setStrand_threads (s : State) (n : Nat) (t : Strand) : (s.setStrand n t).threads = s.threads := (rfl)
@[simp] theorem setStrand_images (s : State) (n : Nat) (t : Strand) : (s.setStrand n t).images = s.images := (rfl)
@[simp] theorem setStrand_bundles (s : State) (n : Nat) (t : Strand) : (s.setStrand n t).bundles = s.bundles := (rfl)
@[simp] theorem setStrand_binds (s : State) (n : Nat) (t : Strand) : (s.setStrand n t).binds = s.binds := (rfl)
@[simp] theorem setStrand_hevbase (s : State) (n : Nat) (t : Strand) : (s.setStrand n t).hevbase = s.hevbase := (rfl)
@[simp] theorem setStrand_hevsize (s : State) (n : Nat) (t : Strand) : (s.setStrand n t).hevsize = s.hevsize := (rfl)
@[simp] theorem setStrand_hevhead (s : State) (n : Nat) (t : Strand) : (s.setStrand n t).hevhead = s.hevhead := (rfl)
@[simp] theorem setStrand_hevtail (s : State) (n : Nat) (t : Strand) : (s.setStrand n t).hevtail = s.hevtail := (rfl)
@[simp] theorem setStrand_hevlost (s : State) (n : Nat) (t : Strand) : (s.setStrand n t).hevlost = s.hevlost := (rfl)
@[simp] theorem setStrand_hevmsi (s : State) (n : Nat) (t : Strand) : (s.setStrand n t).hevmsi = s.hevmsi := (rfl)
@[simp] theorem setStrand_ndrop (s : State) (n : Nat) (t : Strand) : (s.setStrand n t).ndrop = s.ndrop := (rfl)
@[simp] theorem setStrand_outputs (s : State) (n : Nat) (t : Strand) : (s.setStrand n t).outputs = s.outputs := (rfl)

@[simp] theorem setCore_cur (s : State) (n : Nat) (c : Core) : (s.setCore n c).cur = s.cur := (rfl)
@[simp] theorem setCore_acting (s : State) (n : Nat) (c : Core) : (s.setCore n c).acting = s.acting := (rfl)
@[simp] theorem setCore_agenda (s : State) (n : Nat) (c : Core) : (s.setCore n c).agenda = s.agenda := (rfl)
@[simp] theorem setCore_latched (s : State) (n : Nat) (c : Core) : (s.setCore n c).latched = s.latched := (rfl)
@[simp] theorem setCore_cycle (s : State) (n : Nat) (c : Core) : (s.setCore n c).cycle = s.cycle := (rfl)
@[simp] theorem setCore_turn (s : State) (n : Nat) (c : Core) : (s.setCore n c).turn = s.turn := (rfl)
@[simp] theorem setCore_fv (s : State) (n : Nat) (c : Core) : (s.setCore n c).fv = s.fv := (rfl)
@[simp] theorem setCore_strands (s : State) (n : Nat) (c : Core) : (s.setCore n c).strands = s.strands := (rfl)
@[simp] theorem setCore_cores (s : State) (n : Nat) (c : Core) : (s.setCore n c).cores = tabSet s.cores {} n c := (rfl)
@[simp] theorem setCore_quads (s : State) (n : Nat) (c : Core) : (s.setCore n c).quads = s.quads := (rfl)
@[simp] theorem setCore_dev (s : State) (n : Nat) (c : Core) : (s.setCore n c).dev = s.dev := (rfl)
@[simp] theorem setCore_host (s : State) (n : Nat) (c : Core) : (s.setCore n c).host = s.host := (rfl)
@[simp] theorem setCore_pool (s : State) (n : Nat) (c : Core) : (s.setCore n c).pool = s.pool := (rfl)
@[simp] theorem setCore_l2 (s : State) (n : Nat) (c : Core) : (s.setCore n c).l2 = s.l2 := (rfl)
@[simp] theorem setCore_hostL2 (s : State) (n : Nat) (c : Core) : (s.setCore n c).hostL2 = s.hostL2 := (rfl)
@[simp] theorem setCore_poolL2 (s : State) (n : Nat) (c : Core) : (s.setCore n c).poolL2 = s.poolL2 := (rfl)
@[simp] theorem setCore_devPoison (s : State) (n : Nat) (c : Core) : (s.setCore n c).devPoison = s.devPoison := (rfl)
@[simp] theorem setCore_hostPoison (s : State) (n : Nat) (c : Core) : (s.setCore n c).hostPoison = s.hostPoison := (rfl)
@[simp] theorem setCore_poolPoison (s : State) (n : Nat) (c : Core) : (s.setCore n c).poolPoison = s.poolPoison := (rfl)
@[simp] theorem setCore_devUe (s : State) (n : Nat) (c : Core) : (s.setCore n c).devUe = s.devUe := (rfl)
@[simp] theorem setCore_devCe (s : State) (n : Nat) (c : Core) : (s.setCore n c).devCe = s.devCe := (rfl)
@[simp] theorem setCore_xpwrDue (s : State) (n : Nat) (c : Core) : (s.setCore n c).xpwrDue = s.xpwrDue := (rfl)
@[simp] theorem setCore_scrubDue (s : State) (n : Nat) (c : Core) : (s.setCore n c).scrubDue = s.scrubDue := (rfl)
@[simp] theorem setCore_arr (s : State) (n : Nat) (c : Core) : (s.setCore n c).arr = s.arr := (rfl)
@[simp] theorem setCore_rows (s : State) (n : Nat) (c : Core) : (s.setCore n c).rows = s.rows := (rfl)
@[simp] theorem setCore_blocks (s : State) (n : Nat) (c : Core) : (s.setCore n c).blocks = s.blocks := (rfl)
@[simp] theorem setCore_pages (s : State) (n : Nat) (c : Core) : (s.setCore n c).pages = s.pages := (rfl)
@[simp] theorem setCore_holds (s : State) (n : Nat) (c : Core) : (s.setCore n c).holds = s.holds := (rfl)
@[simp] theorem setCore_dieErr (s : State) (n : Nat) (c : Core) : (s.setCore n c).dieErr = s.dieErr := (rfl)
@[simp] theorem setCore_ubits (s : State) (n : Nat) (c : Core) : (s.setCore n c).ubits = s.ubits := (rfl)
@[simp] theorem setCore_rel (s : State) (n : Nat) (c : Core) : (s.setCore n c).rel = s.rel := (rfl)
@[simp] theorem setCore_wcount (s : State) (n : Nat) (c : Core) : (s.setCore n c).wcount = s.wcount := (rfl)
@[simp] theorem setCore_ptbase (s : State) (n : Nat) (c : Core) : (s.setCore n c).ptbase = s.ptbase := (rfl)
@[simp] theorem setCore_fqbase (s : State) (n : Nat) (c : Core) : (s.setCore n c).fqbase = s.fqbase := (rfl)
@[simp] theorem setCore_fqsize (s : State) (n : Nat) (c : Core) : (s.setCore n c).fqsize = s.fqsize := (rfl)
@[simp] theorem setCore_fqhead (s : State) (n : Nat) (c : Core) : (s.setCore n c).fqhead = s.fqhead := (rfl)
@[simp] theorem setCore_fqtail (s : State) (n : Nat) (c : Core) : (s.setCore n c).fqtail = s.fqtail := (rfl)
@[simp] theorem setCore_fqlost (s : State) (n : Nat) (c : Core) : (s.setCore n c).fqlost = s.fqlost := (rfl)
@[simp] theorem setCore_lim (s : State) (n : Nat) (c : Core) : (s.setCore n c).lim = s.lim := (rfl)
@[simp] theorem setCore_mqbase (s : State) (n : Nat) (c : Core) : (s.setCore n c).mqbase = s.mqbase := (rfl)
@[simp] theorem setCore_mqtail (s : State) (n : Nat) (c : Core) : (s.setCore n c).mqtail = s.mqtail := (rfl)
@[simp] theorem setCore_mqhead (s : State) (n : Nat) (c : Core) : (s.setCore n c).mqhead = s.mqhead := (rfl)
@[simp] theorem setCore_apslot (s : State) (n : Nat) (c : Core) : (s.setCore n c).apslot = s.apslot := (rfl)
@[simp] theorem setCore_tlb (s : State) (n : Nat) (c : Core) : (s.setCore n c).tlb = s.tlb := (rfl)
@[simp] theorem setCore_held (s : State) (n : Nat) (c : Core) : (s.setCore n c).held = s.held := (rfl)
@[simp] theorem setCore_hist (s : State) (n : Nat) (c : Core) : (s.setCore n c).hist = s.hist := (rfl)
@[simp] theorem setCore_moving (s : State) (n : Nat) (c : Core) : (s.setCore n c).moving = s.moving := (rfl)
@[simp] theorem setCore_lgEn (s : State) (n : Nat) (c : Core) : (s.setCore n c).lgEn = s.lgEn := (rfl)
@[simp] theorem setCore_lgPos (s : State) (n : Nat) (c : Core) : (s.setCore n c).lgPos = s.lgPos := (rfl)
@[simp] theorem setCore_lgNm1 (s : State) (n : Nat) (c : Core) : (s.setCore n c).lgNm1 = s.lgNm1 := (rfl)
@[simp] theorem setCore_lgTmpos (s : State) (n : Nat) (c : Core) : (s.setCore n c).lgTmpos = s.lgTmpos := (rfl)
@[simp] theorem setCore_lgTmen (s : State) (n : Nat) (c : Core) : (s.setCore n c).lgTmen = s.lgTmen := (rfl)
@[simp] theorem setCore_lwpbase (s : State) (n : Nat) (c : Core) : (s.setCore n c).lwpbase = s.lwpbase := (rfl)
@[simp] theorem setCore_lwsize (s : State) (n : Nat) (c : Core) : (s.setCore n c).lwsize = s.lwsize := (rfl)
@[simp] theorem setCore_lmsize (s : State) (n : Nat) (c : Core) : (s.setCore n c).lmsize = s.lmsize := (rfl)
@[simp] theorem setCore_east (s : State) (n : Nat) (c : Core) : (s.setCore n c).east = s.east := (rfl)
@[simp] theorem setCore_west (s : State) (n : Nat) (c : Core) : (s.setCore n c).west = s.west := (rfl)
@[simp] theorem setCore_groups (s : State) (n : Nat) (c : Core) : (s.setCore n c).groups = s.groups := (rfl)
@[simp] theorem setCore_stepped (s : State) (n : Nat) (c : Core) : (s.setCore n c).stepped = s.stepped := (rfl)
@[simp] theorem setCore_contribs (s : State) (n : Nat) (c : Core) : (s.setCore n c).contribs = s.contribs := (rfl)
@[simp] theorem setCore_abortDue (s : State) (n : Nat) (c : Core) : (s.setCore n c).abortDue = s.abortDue := (rfl)
@[simp] theorem setCore_timeSentAt (s : State) (n : Nat) (c : Core) : (s.setCore n c).timeSentAt = s.timeSentAt := (rfl)
@[simp] theorem setCore_arInst (s : State) (n : Nat) (c : Core) : (s.setCore n c).arInst = s.arInst := (rfl)
@[simp] theorem setCore_ellctl (s : State) (n : Nat) (c : Core) : (s.setCore n c).ellctl = s.ellctl := (rfl)
@[simp] theorem setCore_mebase (s : State) (n : Nat) (c : Core) : (s.setCore n c).mebase = s.mebase := (rfl)
@[simp] theorem setCore_mesize (s : State) (n : Nat) (c : Core) : (s.setCore n c).mesize = s.mesize := (rfl)
@[simp] theorem setCore_mehead (s : State) (n : Nat) (c : Core) : (s.setCore n c).mehead = s.mehead := (rfl)
@[simp] theorem setCore_metail (s : State) (n : Nat) (c : Core) : (s.setCore n c).metail = s.metail := (rfl)
@[simp] theorem setCore_melost (s : State) (n : Nat) (c : Core) : (s.setCore n c).melost = s.melost := (rfl)
@[simp] theorem setCore_cethr (s : State) (n : Nat) (c : Core) : (s.setCore n c).cethr = s.cethr := (rfl)
@[simp] theorem setCore_lgabtStep (s : State) (n : Nat) (c : Core) : (s.setCore n c).lgabtStep = s.lgabtStep := (rfl)
@[simp] theorem setCore_lgabtMask (s : State) (n : Nat) (c : Core) : (s.setCore n c).lgabtMask = s.lgabtMask := (rfl)
@[simp] theorem setCore_lgabtOrig (s : State) (n : Nat) (c : Core) : (s.setCore n c).lgabtOrig = s.lgabtOrig := (rfl)
@[simp] theorem setCore_lgabtV (s : State) (n : Nat) (c : Core) : (s.setCore n c).lgabtV = s.lgabtV := (rfl)
@[simp] theorem setCore_leader (s : State) (n : Nat) (c : Core) : (s.setCore n c).leader = s.leader := (rfl)
@[simp] theorem setCore_healthy (s : State) (n : Nat) (c : Core) : (s.setCore n c).healthy = s.healthy := (rfl)
@[simp] theorem setCore_tkover (s : State) (n : Nat) (c : Core) : (s.setCore n c).tkover = s.tkover := (rfl)
@[simp] theorem setCore_hbcnt (s : State) (n : Nat) (c : Core) : (s.setCore n c).hbcnt = s.hbcnt := (rfl)
@[simp] theorem setCore_hbAt (s : State) (n : Nat) (c : Core) : (s.setCore n c).hbAt = s.hbAt := (rfl)
@[simp] theorem setCore_jbase (s : State) (n : Nat) (c : Core) : (s.setCore n c).jbase = s.jbase := (rfl)
@[simp] theorem setCore_hbmiss (s : State) (n : Nat) (c : Core) : (s.setCore n c).hbmiss = s.hbmiss := (rfl)
@[simp] theorem setCore_fwState (s : State) (n : Nat) (c : Core) : (s.setCore n c).fwState = s.fwState := (rfl)
@[simp] theorem setCore_svnf (s : State) (n : Nat) (c : Core) : (s.setCore n c).svnf = s.svnf := (rfl)
@[simp] theorem setCore_svni (s : State) (n : Nat) (c : Core) : (s.setCore n c).svni = s.svni := (rfl)
@[simp] theorem setCore_fwFail (s : State) (n : Nat) (c : Core) : (s.setCore n c).fwFail = s.fwFail := (rfl)
@[simp] theorem setCore_fwAdvance (s : State) (n : Nat) (c : Core) : (s.setCore n c).fwAdvance = s.fwAdvance := (rfl)
@[simp] theorem setCore_flash (s : State) (n : Nat) (c : Core) : (s.setCore n c).flash = s.flash := (rfl)
@[simp] theorem setCore_power (s : State) (n : Nat) (c : Core) : (s.setCore n c).power = s.power := (rfl)
@[simp] theorem setCore_optr (s : State) (n : Nat) (c : Core) : (s.setCore n c).optr = s.optr := (rfl)
@[simp] theorem setCore_pin (s : State) (n : Nat) (c : Core) : (s.setCore n c).pin = s.pin := (rfl)
@[simp] theorem setCore_plim (s : State) (n : Nat) (c : Core) : (s.setCore n c).plim = s.plim := (rfl)
@[simp] theorem setCore_opt (s : State) (n : Nat) (c : Core) : (s.setCore n c).opt = s.opt := (rfl)
@[simp] theorem setCore_chg (s : State) (n : Nat) (c : Core) : (s.setCore n c).chg = s.chg := (rfl)
@[simp] theorem setCore_want (s : State) (n : Nat) (c : Core) : (s.setCore n c).want = s.want := (rfl)
@[simp] theorem setCore_clockStopped (s : State) (n : Nat) (c : Core) : (s.setCore n c).clockStopped = s.clockStopped := (rfl)
@[simp] theorem setCore_throttledAt (s : State) (n : Nat) (c : Core) : (s.setCore n c).throttledAt = s.throttledAt := (rfl)
@[simp] theorem setCore_tj (s : State) (n : Nat) (c : Core) : (s.setCore n c).tj = s.tj := (rfl)
@[simp] theorem setCore_tmem (s : State) (n : Nat) (c : Core) : (s.setCore n c).tmem = s.tmem := (rfl)
@[simp] theorem setCore_pwr (s : State) (n : Nat) (c : Core) : (s.setCore n c).pwr = s.pwr := (rfl)
@[simp] theorem setCore_vcoreMv (s : State) (n : Nat) (c : Core) : (s.setCore n c).vcoreMv = s.vcoreMv := (rfl)
@[simp] theorem setCore_time (s : State) (n : Nat) (c : Core) : (s.setCore n c).time = s.time := (rfl)
@[simp] theorem setCore_timeFrac (s : State) (n : Nat) (c : Core) : (s.setCore n c).timeFrac = s.timeFrac := (rfl)
@[simp] theorem setCore_timeLocked (s : State) (n : Nat) (c : Core) : (s.setCore n c).timeLocked = s.timeLocked := (rfl)
@[simp] theorem setCore_slew (s : State) (n : Nat) (c : Core) : (s.setCore n c).slew = s.slew := (rfl)
@[simp] theorem setCore_source (s : State) (n : Nat) (c : Core) : (s.setCore n c).source = s.source := (rfl)
@[simp] theorem setCore_ptpUp (s : State) (n : Nat) (c : Core) : (s.setCore n c).ptpUp = s.ptpUp := (rfl)
@[simp] theorem setCore_ppsSeen (s : State) (n : Nat) (c : Core) : (s.setCore n c).ppsSeen = s.ppsSeen := (rfl)
@[simp] theorem setCore_ppsSec (s : State) (n : Nat) (c : Core) : (s.setCore n c).ppsSec = s.ppsSec := (rfl)
@[simp] theorem setCore_qcbs (s : State) (n : Nat) (c : Core) : (s.setCore n c).qcbs = s.qcbs := (rfl)
@[simp] theorem setCore_threads (s : State) (n : Nat) (c : Core) : (s.setCore n c).threads = s.threads := (rfl)
@[simp] theorem setCore_images (s : State) (n : Nat) (c : Core) : (s.setCore n c).images = s.images := (rfl)
@[simp] theorem setCore_bundles (s : State) (n : Nat) (c : Core) : (s.setCore n c).bundles = s.bundles := (rfl)
@[simp] theorem setCore_binds (s : State) (n : Nat) (c : Core) : (s.setCore n c).binds = s.binds := (rfl)
@[simp] theorem setCore_hevbase (s : State) (n : Nat) (c : Core) : (s.setCore n c).hevbase = s.hevbase := (rfl)
@[simp] theorem setCore_hevsize (s : State) (n : Nat) (c : Core) : (s.setCore n c).hevsize = s.hevsize := (rfl)
@[simp] theorem setCore_hevhead (s : State) (n : Nat) (c : Core) : (s.setCore n c).hevhead = s.hevhead := (rfl)
@[simp] theorem setCore_hevtail (s : State) (n : Nat) (c : Core) : (s.setCore n c).hevtail = s.hevtail := (rfl)
@[simp] theorem setCore_hevlost (s : State) (n : Nat) (c : Core) : (s.setCore n c).hevlost = s.hevlost := (rfl)
@[simp] theorem setCore_hevmsi (s : State) (n : Nat) (c : Core) : (s.setCore n c).hevmsi = s.hevmsi := (rfl)
@[simp] theorem setCore_ndrop (s : State) (n : Nat) (c : Core) : (s.setCore n c).ndrop = s.ndrop := (rfl)
@[simp] theorem setCore_outputs (s : State) (n : Nat) (c : Core) : (s.setCore n c).outputs = s.outputs := (rfl)

@[simp] theorem setQuad_cur (s : State) (n : Nat) (q : Quad) : (s.setQuad n q).cur = s.cur := (rfl)
@[simp] theorem setQuad_acting (s : State) (n : Nat) (q : Quad) : (s.setQuad n q).acting = s.acting := (rfl)
@[simp] theorem setQuad_agenda (s : State) (n : Nat) (q : Quad) : (s.setQuad n q).agenda = s.agenda := (rfl)
@[simp] theorem setQuad_latched (s : State) (n : Nat) (q : Quad) : (s.setQuad n q).latched = s.latched := (rfl)
@[simp] theorem setQuad_cycle (s : State) (n : Nat) (q : Quad) : (s.setQuad n q).cycle = s.cycle := (rfl)
@[simp] theorem setQuad_turn (s : State) (n : Nat) (q : Quad) : (s.setQuad n q).turn = s.turn := (rfl)
@[simp] theorem setQuad_fv (s : State) (n : Nat) (q : Quad) : (s.setQuad n q).fv = s.fv := (rfl)
@[simp] theorem setQuad_strands (s : State) (n : Nat) (q : Quad) : (s.setQuad n q).strands = s.strands := (rfl)
@[simp] theorem setQuad_cores (s : State) (n : Nat) (q : Quad) : (s.setQuad n q).cores = s.cores := (rfl)
@[simp] theorem setQuad_quads (s : State) (n : Nat) (q : Quad) : (s.setQuad n q).quads = tabSet s.quads {} n q := (rfl)
@[simp] theorem setQuad_dev (s : State) (n : Nat) (q : Quad) : (s.setQuad n q).dev = s.dev := (rfl)
@[simp] theorem setQuad_host (s : State) (n : Nat) (q : Quad) : (s.setQuad n q).host = s.host := (rfl)
@[simp] theorem setQuad_pool (s : State) (n : Nat) (q : Quad) : (s.setQuad n q).pool = s.pool := (rfl)
@[simp] theorem setQuad_l2 (s : State) (n : Nat) (q : Quad) : (s.setQuad n q).l2 = s.l2 := (rfl)
@[simp] theorem setQuad_hostL2 (s : State) (n : Nat) (q : Quad) : (s.setQuad n q).hostL2 = s.hostL2 := (rfl)
@[simp] theorem setQuad_poolL2 (s : State) (n : Nat) (q : Quad) : (s.setQuad n q).poolL2 = s.poolL2 := (rfl)
@[simp] theorem setQuad_devPoison (s : State) (n : Nat) (q : Quad) : (s.setQuad n q).devPoison = s.devPoison := (rfl)
@[simp] theorem setQuad_hostPoison (s : State) (n : Nat) (q : Quad) : (s.setQuad n q).hostPoison = s.hostPoison := (rfl)
@[simp] theorem setQuad_poolPoison (s : State) (n : Nat) (q : Quad) : (s.setQuad n q).poolPoison = s.poolPoison := (rfl)
@[simp] theorem setQuad_devUe (s : State) (n : Nat) (q : Quad) : (s.setQuad n q).devUe = s.devUe := (rfl)
@[simp] theorem setQuad_devCe (s : State) (n : Nat) (q : Quad) : (s.setQuad n q).devCe = s.devCe := (rfl)
@[simp] theorem setQuad_xpwrDue (s : State) (n : Nat) (q : Quad) : (s.setQuad n q).xpwrDue = s.xpwrDue := (rfl)
@[simp] theorem setQuad_scrubDue (s : State) (n : Nat) (q : Quad) : (s.setQuad n q).scrubDue = s.scrubDue := (rfl)
@[simp] theorem setQuad_arr (s : State) (n : Nat) (q : Quad) : (s.setQuad n q).arr = s.arr := (rfl)
@[simp] theorem setQuad_rows (s : State) (n : Nat) (q : Quad) : (s.setQuad n q).rows = s.rows := (rfl)
@[simp] theorem setQuad_blocks (s : State) (n : Nat) (q : Quad) : (s.setQuad n q).blocks = s.blocks := (rfl)
@[simp] theorem setQuad_pages (s : State) (n : Nat) (q : Quad) : (s.setQuad n q).pages = s.pages := (rfl)
@[simp] theorem setQuad_holds (s : State) (n : Nat) (q : Quad) : (s.setQuad n q).holds = s.holds := (rfl)
@[simp] theorem setQuad_dieErr (s : State) (n : Nat) (q : Quad) : (s.setQuad n q).dieErr = s.dieErr := (rfl)
@[simp] theorem setQuad_ubits (s : State) (n : Nat) (q : Quad) : (s.setQuad n q).ubits = s.ubits := (rfl)
@[simp] theorem setQuad_rel (s : State) (n : Nat) (q : Quad) : (s.setQuad n q).rel = s.rel := (rfl)
@[simp] theorem setQuad_wcount (s : State) (n : Nat) (q : Quad) : (s.setQuad n q).wcount = s.wcount := (rfl)
@[simp] theorem setQuad_ptbase (s : State) (n : Nat) (q : Quad) : (s.setQuad n q).ptbase = s.ptbase := (rfl)
@[simp] theorem setQuad_fqbase (s : State) (n : Nat) (q : Quad) : (s.setQuad n q).fqbase = s.fqbase := (rfl)
@[simp] theorem setQuad_fqsize (s : State) (n : Nat) (q : Quad) : (s.setQuad n q).fqsize = s.fqsize := (rfl)
@[simp] theorem setQuad_fqhead (s : State) (n : Nat) (q : Quad) : (s.setQuad n q).fqhead = s.fqhead := (rfl)
@[simp] theorem setQuad_fqtail (s : State) (n : Nat) (q : Quad) : (s.setQuad n q).fqtail = s.fqtail := (rfl)
@[simp] theorem setQuad_fqlost (s : State) (n : Nat) (q : Quad) : (s.setQuad n q).fqlost = s.fqlost := (rfl)
@[simp] theorem setQuad_lim (s : State) (n : Nat) (q : Quad) : (s.setQuad n q).lim = s.lim := (rfl)
@[simp] theorem setQuad_mqbase (s : State) (n : Nat) (q : Quad) : (s.setQuad n q).mqbase = s.mqbase := (rfl)
@[simp] theorem setQuad_mqtail (s : State) (n : Nat) (q : Quad) : (s.setQuad n q).mqtail = s.mqtail := (rfl)
@[simp] theorem setQuad_mqhead (s : State) (n : Nat) (q : Quad) : (s.setQuad n q).mqhead = s.mqhead := (rfl)
@[simp] theorem setQuad_apslot (s : State) (n : Nat) (q : Quad) : (s.setQuad n q).apslot = s.apslot := (rfl)
@[simp] theorem setQuad_tlb (s : State) (n : Nat) (q : Quad) : (s.setQuad n q).tlb = s.tlb := (rfl)
@[simp] theorem setQuad_held (s : State) (n : Nat) (q : Quad) : (s.setQuad n q).held = s.held := (rfl)
@[simp] theorem setQuad_hist (s : State) (n : Nat) (q : Quad) : (s.setQuad n q).hist = s.hist := (rfl)
@[simp] theorem setQuad_moving (s : State) (n : Nat) (q : Quad) : (s.setQuad n q).moving = s.moving := (rfl)
@[simp] theorem setQuad_lgEn (s : State) (n : Nat) (q : Quad) : (s.setQuad n q).lgEn = s.lgEn := (rfl)
@[simp] theorem setQuad_lgPos (s : State) (n : Nat) (q : Quad) : (s.setQuad n q).lgPos = s.lgPos := (rfl)
@[simp] theorem setQuad_lgNm1 (s : State) (n : Nat) (q : Quad) : (s.setQuad n q).lgNm1 = s.lgNm1 := (rfl)
@[simp] theorem setQuad_lgTmpos (s : State) (n : Nat) (q : Quad) : (s.setQuad n q).lgTmpos = s.lgTmpos := (rfl)
@[simp] theorem setQuad_lgTmen (s : State) (n : Nat) (q : Quad) : (s.setQuad n q).lgTmen = s.lgTmen := (rfl)
@[simp] theorem setQuad_lwpbase (s : State) (n : Nat) (q : Quad) : (s.setQuad n q).lwpbase = s.lwpbase := (rfl)
@[simp] theorem setQuad_lwsize (s : State) (n : Nat) (q : Quad) : (s.setQuad n q).lwsize = s.lwsize := (rfl)
@[simp] theorem setQuad_lmsize (s : State) (n : Nat) (q : Quad) : (s.setQuad n q).lmsize = s.lmsize := (rfl)
@[simp] theorem setQuad_east (s : State) (n : Nat) (q : Quad) : (s.setQuad n q).east = s.east := (rfl)
@[simp] theorem setQuad_west (s : State) (n : Nat) (q : Quad) : (s.setQuad n q).west = s.west := (rfl)
@[simp] theorem setQuad_groups (s : State) (n : Nat) (q : Quad) : (s.setQuad n q).groups = s.groups := (rfl)
@[simp] theorem setQuad_stepped (s : State) (n : Nat) (q : Quad) : (s.setQuad n q).stepped = s.stepped := (rfl)
@[simp] theorem setQuad_contribs (s : State) (n : Nat) (q : Quad) : (s.setQuad n q).contribs = s.contribs := (rfl)
@[simp] theorem setQuad_abortDue (s : State) (n : Nat) (q : Quad) : (s.setQuad n q).abortDue = s.abortDue := (rfl)
@[simp] theorem setQuad_timeSentAt (s : State) (n : Nat) (q : Quad) : (s.setQuad n q).timeSentAt = s.timeSentAt := (rfl)
@[simp] theorem setQuad_arInst (s : State) (n : Nat) (q : Quad) : (s.setQuad n q).arInst = s.arInst := (rfl)
@[simp] theorem setQuad_ellctl (s : State) (n : Nat) (q : Quad) : (s.setQuad n q).ellctl = s.ellctl := (rfl)
@[simp] theorem setQuad_mebase (s : State) (n : Nat) (q : Quad) : (s.setQuad n q).mebase = s.mebase := (rfl)
@[simp] theorem setQuad_mesize (s : State) (n : Nat) (q : Quad) : (s.setQuad n q).mesize = s.mesize := (rfl)
@[simp] theorem setQuad_mehead (s : State) (n : Nat) (q : Quad) : (s.setQuad n q).mehead = s.mehead := (rfl)
@[simp] theorem setQuad_metail (s : State) (n : Nat) (q : Quad) : (s.setQuad n q).metail = s.metail := (rfl)
@[simp] theorem setQuad_melost (s : State) (n : Nat) (q : Quad) : (s.setQuad n q).melost = s.melost := (rfl)
@[simp] theorem setQuad_cethr (s : State) (n : Nat) (q : Quad) : (s.setQuad n q).cethr = s.cethr := (rfl)
@[simp] theorem setQuad_lgabtStep (s : State) (n : Nat) (q : Quad) : (s.setQuad n q).lgabtStep = s.lgabtStep := (rfl)
@[simp] theorem setQuad_lgabtMask (s : State) (n : Nat) (q : Quad) : (s.setQuad n q).lgabtMask = s.lgabtMask := (rfl)
@[simp] theorem setQuad_lgabtOrig (s : State) (n : Nat) (q : Quad) : (s.setQuad n q).lgabtOrig = s.lgabtOrig := (rfl)
@[simp] theorem setQuad_lgabtV (s : State) (n : Nat) (q : Quad) : (s.setQuad n q).lgabtV = s.lgabtV := (rfl)
@[simp] theorem setQuad_leader (s : State) (n : Nat) (q : Quad) : (s.setQuad n q).leader = s.leader := (rfl)
@[simp] theorem setQuad_healthy (s : State) (n : Nat) (q : Quad) : (s.setQuad n q).healthy = s.healthy := (rfl)
@[simp] theorem setQuad_tkover (s : State) (n : Nat) (q : Quad) : (s.setQuad n q).tkover = s.tkover := (rfl)
@[simp] theorem setQuad_hbcnt (s : State) (n : Nat) (q : Quad) : (s.setQuad n q).hbcnt = s.hbcnt := (rfl)
@[simp] theorem setQuad_hbAt (s : State) (n : Nat) (q : Quad) : (s.setQuad n q).hbAt = s.hbAt := (rfl)
@[simp] theorem setQuad_jbase (s : State) (n : Nat) (q : Quad) : (s.setQuad n q).jbase = s.jbase := (rfl)
@[simp] theorem setQuad_hbmiss (s : State) (n : Nat) (q : Quad) : (s.setQuad n q).hbmiss = s.hbmiss := (rfl)
@[simp] theorem setQuad_fwState (s : State) (n : Nat) (q : Quad) : (s.setQuad n q).fwState = s.fwState := (rfl)
@[simp] theorem setQuad_svnf (s : State) (n : Nat) (q : Quad) : (s.setQuad n q).svnf = s.svnf := (rfl)
@[simp] theorem setQuad_svni (s : State) (n : Nat) (q : Quad) : (s.setQuad n q).svni = s.svni := (rfl)
@[simp] theorem setQuad_fwFail (s : State) (n : Nat) (q : Quad) : (s.setQuad n q).fwFail = s.fwFail := (rfl)
@[simp] theorem setQuad_fwAdvance (s : State) (n : Nat) (q : Quad) : (s.setQuad n q).fwAdvance = s.fwAdvance := (rfl)
@[simp] theorem setQuad_flash (s : State) (n : Nat) (q : Quad) : (s.setQuad n q).flash = s.flash := (rfl)
@[simp] theorem setQuad_power (s : State) (n : Nat) (q : Quad) : (s.setQuad n q).power = s.power := (rfl)
@[simp] theorem setQuad_optr (s : State) (n : Nat) (q : Quad) : (s.setQuad n q).optr = s.optr := (rfl)
@[simp] theorem setQuad_pin (s : State) (n : Nat) (q : Quad) : (s.setQuad n q).pin = s.pin := (rfl)
@[simp] theorem setQuad_plim (s : State) (n : Nat) (q : Quad) : (s.setQuad n q).plim = s.plim := (rfl)
@[simp] theorem setQuad_opt (s : State) (n : Nat) (q : Quad) : (s.setQuad n q).opt = s.opt := (rfl)
@[simp] theorem setQuad_chg (s : State) (n : Nat) (q : Quad) : (s.setQuad n q).chg = s.chg := (rfl)
@[simp] theorem setQuad_want (s : State) (n : Nat) (q : Quad) : (s.setQuad n q).want = s.want := (rfl)
@[simp] theorem setQuad_clockStopped (s : State) (n : Nat) (q : Quad) : (s.setQuad n q).clockStopped = s.clockStopped := (rfl)
@[simp] theorem setQuad_throttledAt (s : State) (n : Nat) (q : Quad) : (s.setQuad n q).throttledAt = s.throttledAt := (rfl)
@[simp] theorem setQuad_tj (s : State) (n : Nat) (q : Quad) : (s.setQuad n q).tj = s.tj := (rfl)
@[simp] theorem setQuad_tmem (s : State) (n : Nat) (q : Quad) : (s.setQuad n q).tmem = s.tmem := (rfl)
@[simp] theorem setQuad_pwr (s : State) (n : Nat) (q : Quad) : (s.setQuad n q).pwr = s.pwr := (rfl)
@[simp] theorem setQuad_vcoreMv (s : State) (n : Nat) (q : Quad) : (s.setQuad n q).vcoreMv = s.vcoreMv := (rfl)
@[simp] theorem setQuad_time (s : State) (n : Nat) (q : Quad) : (s.setQuad n q).time = s.time := (rfl)
@[simp] theorem setQuad_timeFrac (s : State) (n : Nat) (q : Quad) : (s.setQuad n q).timeFrac = s.timeFrac := (rfl)
@[simp] theorem setQuad_timeLocked (s : State) (n : Nat) (q : Quad) : (s.setQuad n q).timeLocked = s.timeLocked := (rfl)
@[simp] theorem setQuad_slew (s : State) (n : Nat) (q : Quad) : (s.setQuad n q).slew = s.slew := (rfl)
@[simp] theorem setQuad_source (s : State) (n : Nat) (q : Quad) : (s.setQuad n q).source = s.source := (rfl)
@[simp] theorem setQuad_ptpUp (s : State) (n : Nat) (q : Quad) : (s.setQuad n q).ptpUp = s.ptpUp := (rfl)
@[simp] theorem setQuad_ppsSeen (s : State) (n : Nat) (q : Quad) : (s.setQuad n q).ppsSeen = s.ppsSeen := (rfl)
@[simp] theorem setQuad_ppsSec (s : State) (n : Nat) (q : Quad) : (s.setQuad n q).ppsSec = s.ppsSec := (rfl)
@[simp] theorem setQuad_qcbs (s : State) (n : Nat) (q : Quad) : (s.setQuad n q).qcbs = s.qcbs := (rfl)
@[simp] theorem setQuad_threads (s : State) (n : Nat) (q : Quad) : (s.setQuad n q).threads = s.threads := (rfl)
@[simp] theorem setQuad_images (s : State) (n : Nat) (q : Quad) : (s.setQuad n q).images = s.images := (rfl)
@[simp] theorem setQuad_bundles (s : State) (n : Nat) (q : Quad) : (s.setQuad n q).bundles = s.bundles := (rfl)
@[simp] theorem setQuad_binds (s : State) (n : Nat) (q : Quad) : (s.setQuad n q).binds = s.binds := (rfl)
@[simp] theorem setQuad_hevbase (s : State) (n : Nat) (q : Quad) : (s.setQuad n q).hevbase = s.hevbase := (rfl)
@[simp] theorem setQuad_hevsize (s : State) (n : Nat) (q : Quad) : (s.setQuad n q).hevsize = s.hevsize := (rfl)
@[simp] theorem setQuad_hevhead (s : State) (n : Nat) (q : Quad) : (s.setQuad n q).hevhead = s.hevhead := (rfl)
@[simp] theorem setQuad_hevtail (s : State) (n : Nat) (q : Quad) : (s.setQuad n q).hevtail = s.hevtail := (rfl)
@[simp] theorem setQuad_hevlost (s : State) (n : Nat) (q : Quad) : (s.setQuad n q).hevlost = s.hevlost := (rfl)
@[simp] theorem setQuad_hevmsi (s : State) (n : Nat) (q : Quad) : (s.setQuad n q).hevmsi = s.hevmsi := (rfl)
@[simp] theorem setQuad_ndrop (s : State) (n : Nat) (q : Quad) : (s.setQuad n q).ndrop = s.ndrop := (rfl)
@[simp] theorem setQuad_outputs (s : State) (n : Nat) (q : Quad) : (s.setQuad n q).outputs = s.outputs := (rfl)

/-! ### Reading back -/

@[simp] theorem strand_setStrand (s : State) (n : Nat) (t : Strand) (h : t ≠ {}) : (s.setStrand n t).strand n = t := tabGet_set s.strands {} n t h
@[simp] theorem strand_setStrand_ne (s : State) (n m : Nat) (t : Strand) (h : n ≠ m) : (s.setStrand n t).strand m = s.strand m :=
  tabGet_set_ne s.strands {} n m t h
@[simp] theorem strand_setCore (s : State) (n m : Nat) (c : Core) : (s.setCore n c).strand m = s.strand m := (rfl)
@[simp] theorem strand_setQuad (s : State) (n m : Nat) (q : Quad) : (s.setQuad n q).strand m = s.strand m := (rfl)
@[simp] theorem core_setStrand (s : State) (n m : Nat) (t : Strand) : (s.setStrand n t).core m = s.core m := (rfl)
@[simp] theorem core_setQuad (s : State) (n m : Nat) (q : Quad) : (s.setQuad n q).core m = s.core m := (rfl)
@[simp] theorem core_setCore_ne (s : State) (n m : Nat) (c : Core) (h : n ≠ m) : (s.setCore n c).core m = s.core m :=
  tabGet_set_ne s.cores {} n m c h
theorem core_setCore (s : State) (n m : Nat) (c : Core) (h : tabWf s.cores = true) : (s.setCore n c).core m = if n = m then c else s.core m :=
  tabGet_set_wf s.cores {} n m c h
@[simp] theorem quad_setStrand (s : State) (n m : Nat) (t : Strand) : (s.setStrand n t).quad m = s.quad m := (rfl)
@[simp] theorem quad_setCore (s : State) (n m : Nat) (c : Core) : (s.setCore n c).quad m = s.quad m := (rfl)
@[simp] theorem me_setMe (s : State) (t : Strand) (h : t ≠ {}) : (s.setMe t).me = t := strand_setStrand s s.cur t h
@[simp] theorem cur_setMe (s : State) (t : Strand) : (s.setMe t).cur = s.cur := (rfl)
@[simp] theorem core_setMe (s : State) (t : Strand) (m : Nat) : (s.setMe t).core m = s.core m := (rfl)
/-- A strand that is in use is no default entry of the table. -/
theorem strand_ne_default (t : Strand) (h : t.st ≠ .unbound) : t ≠ {} := fun e => h (by rw [e])
theorem mayIssue_ne_default (cyc : Nat) (t : Strand) (h : mayIssue cyc t = true) : t ≠ {} := by
  intro e; rw [e] at h; exact absurd h (by simp [mayIssue])
theorem frontReady_ne_default (cyc : Nat) (t : Strand) (h : frontReady cyc t = true) : t ≠ {} :=
  mayIssue_ne_default cyc t (by simp only [frontReady, Bool.and_eq_true] at h; exact h.1.1.1)

/-! ### A decode is over -/

@[simp] theorem advance_st (t : Strand) : t.advance.st = t.st := (rfl)
@[simp] theorem advance_saved (t : Strand) : t.advance.saved = t.saved := (rfl)
@[simp] theorem advance_behind (t : Strand) : t.advance.behind = t.behind := (rfl)
@[simp] theorem advance_pc (t : Strand) : t.advance.pc = t.pc + 1 := (rfl)
@[simp] theorem advance_seq (t : Strand) : t.advance.seq = t.seq + 1 := (rfl)
@[simp] theorem advance_s (t : Strand) : t.advance.s = t.s := (rfl)
@[simp] theorem advance_p (t : Strand) : t.advance.p = t.p := (rfl)
@[simp] theorem advance_k (t : Strand) : t.advance.k = t.k := (rfl)
@[simp] theorem advance_shp (t : Strand) : t.advance.shp = t.shp := (rfl)
@[simp] theorem advance_flg (t : Strand) : t.advance.flg = t.flg := (rfl)
@[simp] theorem advance_rmode (t : Strand) : t.advance.rmode = t.rmode := (rfl)
@[simp] theorem advance_dlns (t : Strand) : t.advance.dlns = t.dlns := (rfl)
@[simp] theorem advance_dlnn (t : Strand) : t.advance.dlnn = t.dlnn := (rfl)
@[simp] theorem advance_wue (t : Strand) : t.advance.wue = t.wue := (rfl)
@[simp] theorem advance_wub (t : Strand) : t.advance.wub = t.wub := (rfl)
@[simp] theorem advance_dlst (t : Strand) : t.advance.dlst = t.dlst := (rfl)
@[simp] theorem advance_trc (t : Strand) : t.advance.trc = t.trc := (rfl)
@[simp] theorem advance_tri (t : Strand) : t.advance.tri = t.tri := (rfl)
@[simp] theorem advance_trx (t : Strand) : t.advance.trx = t.trx := (rfl)
@[simp] theorem advance_lnch (t : Strand) : t.advance.lnch = t.lnch := (rfl)
@[simp] theorem advance_htb (t : Strand) : t.advance.htb = t.htb := (rfl)
@[simp] theorem advance_rrt (t : Strand) : t.advance.rrt = t.rrt := (rfl)
@[simp] theorem advance_uiv (t : Strand) : t.advance.uiv = t.uiv := (rfl)
@[simp] theorem advance_uisCause (t : Strand) : t.advance.uisCause = t.uisCause := (rfl)
@[simp] theorem advance_uisMask (t : Strand) : t.advance.uisMask = t.uisMask := (rfl)
@[simp] theorem advance_uisEn (t : Strand) : t.advance.uisEn = t.uisEn := (rfl)
@[simp] theorem advance_uisInh (t : Strand) : t.advance.uisInh = t.uisInh := (rfl)
@[simp] theorem advance_ptps (t : Strand) : t.advance.ptps = t.ptps := (rfl)
@[simp] theorem advance_cwb (t : Strand) : t.advance.cwb = t.cwb := (rfl)
@[simp] theorem advance_ngrp (t : Strand) : t.advance.ngrp = t.ngrp := (rfl)
@[simp] theorem advance_wbase (t : Strand) : t.advance.wbase = t.wbase := (rfl)
@[simp] theorem advance_mown (t : Strand) : t.advance.mown = t.mown := (rfl)
@[simp] theorem advance_lpos (t : Strand) : t.advance.lpos = t.lpos := (rfl)
@[simp] theorem advance_sys (t : Strand) : t.advance.sys = t.sys := (rfl)
@[simp] theorem advance_pasid (t : Strand) : t.advance.pasid = t.pasid := (rfl)
@[simp] theorem advance_genpages (t : Strand) : t.advance.genpages = t.genpages := (rfl)
@[simp] theorem advance_lmGroups (t : Strand) : t.advance.lmGroups = t.lmGroups := (rfl)
@[simp] theorem advance_fuse (t : Strand) : t.advance.fuse = t.fuse := (rfl)
@[simp] theorem advance_cycBase (t : Strand) : t.advance.cycBase = t.cycBase := (rfl)
@[simp] theorem advance_runBase (t : Strand) : t.advance.runBase = t.runBase := (rfl)
@[simp] theorem advance_est (t : Strand) : t.advance.est = t.est := (rfl)
@[simp] theorem advance_sub (t : Strand) : t.advance.sub = t.sub := (rfl)
@[simp] theorem advance_lq (t : Strand) : t.advance.lq = t.lq := (rfl)
@[simp] theorem advance_cq (t : Strand) : t.advance.cq = t.cq := (rfl)
@[simp] theorem advance_sq (t : Strand) : t.advance.sq = t.sq := (rfl)
@[simp] theorem advance_lring (t : Strand) : t.advance.lring = t.lring := (rfl)
@[simp] theorem advance_cring (t : Strand) : t.advance.cring = t.cring := (rfl)
@[simp] theorem advance_sring (t : Strand) : t.advance.sring = t.sring := (rfl)
@[simp] theorem advance_tlc (t : Strand) : t.advance.tlc = t.tlc := (rfl)
@[simp] theorem advance_tcl (t : Strand) : t.advance.tcl = t.tcl := (rfl)
@[simp] theorem advance_tcs (t : Strand) : t.advance.tcs = t.tcs := (rfl)
@[simp] theorem advance_tsc (t : Strand) : t.advance.tsc = t.tsc := (rfl)
@[simp] theorem advance_pending (t : Strand) : t.advance.pending = t.pending := (rfl)
@[simp] theorem advance_contested (t : Strand) : t.advance.contested = t.contested := (rfl)
@[simp] theorem advance_flight (t : Strand) : t.advance.flight = t.flight := (rfl)
@[simp] theorem advance_wrote (t : Strand) : t.advance.wrote = t.wrote := (rfl)
@[simp] theorem advance_late (t : Strand) : t.advance.late = t.late := (rfl)
@[simp] theorem advance_rebind (t : Strand) : t.advance.rebind = t.rebind := (rfl)
@[simp] theorem advance_issuedAt (t : Strand) : t.advance.issuedAt = t.issuedAt := (rfl)
@[simp] theorem advance_event (t : Strand) : t.advance.event = t.event := (rfl)
@[simp] theorem advance_wfe (t : Strand) : t.advance.wfe = t.wfe := (rfl)
@[simp] theorem advance_yieldUntil (t : Strand) : t.advance.yieldUntil = t.yieldUntil := (rfl)
@[simp] theorem advance_yieldTo (t : Strand) : t.advance.yieldTo = t.yieldTo := (rfl)
@[simp] theorem advance_halting (t : Strand) : t.advance.halting = t.halting := (rfl)
@[simp] theorem advance_calling (t : Strand) : t.advance.calling = t.calling := (rfl)
@[simp] theorem advance_stopping (t : Strand) : t.advance.stopping = t.stopping := (rfl)
@[simp] theorem advance_trapped (t : Strand) : t.advance.trapped = t.trapped := (rfl)
@[simp] theorem advance_diverting (t : Strand) : t.advance.diverting = t.diverting := (rfl)
@[simp] theorem advance_preempting (t : Strand) : t.advance.preempting = t.preempting := (rfl)
@[simp] theorem advance_dlstAcc (t : Strand) : t.advance.dlstAcc = t.dlstAcc := (rfl)
@[simp] theorem advance_boundAt (t : Strand) : t.advance.boundAt = t.boundAt := (rfl)
@[simp] theorem advance_killing (t : Strand) : t.advance.killing = t.killing := (rfl)
@[simp] theorem advance_divertAt (t : Strand) : t.advance.divertAt = t.divertAt := (rfl)
@[simp] theorem advance_budget (t : Strand) : t.advance.budget = t.budget := (rfl)
@[simp] theorem advance_wrapFirst (t : Strand) : t.advance.wrapFirst = t.wrapFirst := (rfl)
@[simp] theorem advance_limit (t : Strand) : t.advance.limit = t.limit := (rfl)
@[simp] theorem advance_rdAddr (t : Strand) : t.advance.rdAddr = t.rdAddr := (rfl)
@[simp] theorem advance_rdValid (t : Strand) : t.advance.rdValid = t.rdValid := (rfl)
@[simp] theorem advance_rdStatus (t : Strand) : t.advance.rdStatus = t.rdStatus := (rfl)
@[simp] theorem advance_rdCcnt (t : Strand) : t.advance.rdCcnt = t.rdCcnt := (rfl)
@[simp] theorem advance_rdCsec (t : Strand) : t.advance.rdCsec = t.rdCsec := (rfl)
@[simp] theorem advance_rdCnsec (t : Strand) : t.advance.rdCnsec = t.rdCnsec := (rfl)
@[simp] theorem advance_rdUser (t : Strand) : t.advance.rdUser = t.rdUser := (rfl)
@[simp] theorem advance_committedWrap (t : Strand) : t.advance.committedWrap = t.committedWrap := (rfl)
@[simp] theorem advance_rdHeld (t : Strand) : t.advance.rdHeld = t.rdHeld := (rfl)
@[simp] theorem advance_rdWait (t : Strand) : t.advance.rdWait = t.rdWait := (rfl)
@[simp] theorem advance_stops (t : Strand) : t.advance.stops = t.stops := (rfl)
@[simp] theorem advance_serial (t : Strand) : t.advance.serial = t.serial := (rfl)
@[simp] theorem advance_seen (t : Strand) : t.advance.seen = t.seen := (rfl)

/-! ### Memory behind a change of a strand, core or quadrant -/

@[simp] theorem physByte_setStrand (s : State) (n : Nat) (t : Strand) (sp : MemSpace) (a : Nat) : (s.setStrand n t).physByte sp a = s.physByte sp a := by
  cases sp <;> rfl
@[simp] theorem physByte_setCore (s : State) (n : Nat) (c : Core) (sp : MemSpace) (a : Nat) : (s.setCore n c).physByte sp a = s.physByte sp a := by
  cases sp <;> rfl
@[simp] theorem physByte_setQuad (s : State) (n : Nat) (q : Quad) (sp : MemSpace) (a : Nat) : (s.setQuad n q).physByte sp a = s.physByte sp a := by
  cases sp <;> rfl

end Sys2Proof.Machine
end

