-- ==== Sys2Proof/Tests/Bench.lean ====
section
/-! SUPPORT. The bench of the tests: small states on which an instruction stands at the front or at the head of its queue, and what it takes
to show that the hypotheses of a statement hold there. -/

namespace Sys2Proof.Tests

open Sys2Proof.Machine Sys2Proof.Claims

/-! ### States -/

/-- A device that runs, with the image of log 7 in place: code at 1 MiB, data from 1 GiB on, strand 0 bound. -/
def bench : State := { State.reset.withFetchWord 160 0 with agenda := [] }
/-- The first address of the data page of the image: frame 0 of the device's memory. -/
def dataVa : Word := 0x40000000
/-- Strand 0 of the bench with some scalars. -/
def regs (l : Tab Word) : Strand := { bench.strand 0 with s := l }
/-- The front of strand 0, which is `t`. -/
def front (t : Strand) : State := bench.setStrand 0 t
/-- An entry as a decode makes it. -/
def entry (i : Instr) (a b c e : Word) : QEntry := { instr := i, pos := imagePos, a := a, b := b, c := c, e := e, shp := 0x103F40 }
/-- The entry at the head of queue `q` of strand 0. -/
def atHead (s : State) (q : Queue) (x : QEntry) : State := { s.setMe (s.me.setQueue q [x]) with acting := .queue q }
/-- The entry at the heads of L and S, acting in L. -/
def atBoth (s : State) (x : QEntry) : State := { s.setMe ((s.me.setQueue .L [x]).setQueue .S [x]) with acting := .queue .L }
/-- What the description of an instruction fixes. -/
def specOf (i : Instr) : ISpec := (ispec i).getD (base {})
def okOr {ε α : Type} (x : Except ε α) (p : α → Bool) : Bool := match x with
  | .ok a => p a
  | .error _ => false
theorem okOr_iff {ε α : Type} {x : Except ε α} {p : α → Bool} (h : okOr x p = true) : ∃ a, x = .ok a ∧ p a = true := by
  cases x with
  | ok a => exact ⟨a, rfl, h⟩
  | error e => simp [okOr] at h

/-- A core that is written reads as written. -/
theorem core_modCore {s : State} (hw : tabWf s.cores = true) (n : Nat) (f : Core → Core) : (s.modCore n f).core n = f (s.core n) := by
  unfold State.modCore State.core State.setCore
  dsimp only
  rw [tabGet_set_wf _ _ _ _ _ hw, if_pos rfl]
theorem bench_cores : tabWf bench.cores = true := by decide +kernel

/-- What a table gives is the default or an entry. -/
theorem tabGet_mem {α : Type} (t : Tab α) (d : α) (k : Nat) : tabGet t d k = d ∨ ∃ x ∈ t, tabGet t d k = x.2 := by
  induction t with
  | nil => exact .inl rfl
  | cons x r ih =>
    simp only [tabGet]
    split
    · exact .inr ⟨x, List.mem_cons_self, rfl⟩
    · rcases ih with h | ⟨y, hy, h⟩
      · exact .inl h
      · exact .inr ⟨y, List.mem_cons_of_mem _ hy, h⟩
/-- No error waits in any memory, as a check of the cores that are listed. -/
def noErrorsOk (s : State) : Bool :=
  s.devUe.isEmpty && s.devCe.isEmpty && decide ({ s.arr with l2Poison := [], cxl := { s.arr.cxl with shared := [], exclusive := [], pool := [] } } = {}) && s.cores.all (fun x => x.2.lmFresh.isEmpty && x.2.lmCe.isEmpty)
theorem noErrors_of {s : State} (h : noErrorsOk s = true) : NoErrors s := by
  simp only [noErrorsOk, Bool.and_eq_true, List.isEmpty_iff, decide_eq_true_eq] at h
  refine ⟨h.1.1.1, h.1.1.2, h.1.2, fun n => ?_⟩
  rcases tabGet_mem s.cores {} n with h0 | ⟨x, hx, h0⟩
  · rw [State.core, h0]; exact ⟨rfl, rfl⟩
  · have := List.all_eq_true.1 h.2 x hx
    rw [State.core, h0]
    simpa [List.isEmpty_iff] using this

/-! ### Hypotheses that are computed -/

theorem all_of {α : Type} {l : List α} {p : α → Bool} (h : l.all p = true) : ∀ x ∈ l, p x = true := by
  intro x hx; exact List.all_eq_true.1 h x hx

/-- The front takes `i`, its operands are read, and they are as `p` says. -/
def frontOk (i : Instr) (f : Fields) (fmt : Option Fmt) (s : State) (p : State → Vals → Bool) : Bool :=
  frontTakes i f s && okOr (s.frontValues fmt f) (fun x => p x.1 x.2)
theorem frontRuns_of {i : Instr} {f : Fields} {fmt : Option Fmt} {s : State} {p : State → Vals → Bool} (h : frontOk i f fmt s p = true) :
    ∃ s1 v, FrontRuns i f fmt s s1 v ∧ p s1 v = true := by
  simp only [frontOk, Bool.and_eq_true] at h
  obtain ⟨⟨s1, v⟩, hv, hp⟩ := okOr_iff h.2
  exact ⟨s1, v, ⟨h.1, hv⟩, hp⟩
/-- A well-formed instruction at the head of its queue, free to issue. -/
def headOk (i : Instr) (f : Fields) (q : Queue) (e : QEntry) (s : State) : Bool := i.wellFormed && headTakes i f q (specOf i) e s
theorem head_of {i : Instr} {f : Fields} {q : Queue} {e : QEntry} {s : State} (h : headOk i f q e s = true) :
    ∃ sp, headTakes i f q sp e s = true := by
  simp only [headOk, Bool.and_eq_true] at h; exact ⟨_, h.2⟩
theorem headTakes_of {i : Instr} {f : Fields} {q : Queue} {e : QEntry} {s : State} (h : headTakes i f q (specOf i) e s = true) :
    ∃ sp, headTakes i f q sp e s = true := ⟨_, h⟩

/-- The access has a place. -/
def placesOk (s : State) (va : Word) (n align : Nat) (acc : Acc) (p : State → List Piece → Bool) : Bool :=
  okOr (s.vaPlace va n align acc) (fun ps => p (s.tlbFill s.myCore s.me.pasid va) ps)
theorem places_of {s : State} {va : Word} {n align : Nat} {acc : Acc} {p : State → List Piece → Bool} (h : placesOk s va n align acc p = true) :
    ∃ s1 ps, Places s va n align acc s1 ps ∧ p s1 ps = true := by
  obtain ⟨ps, hv, hp⟩ := okOr_iff h
  exact ⟨_, ps, ⟨hv, rfl⟩, hp⟩
/-- The access reads without poison, under the policy of its operands (R90). -/
def readsOk (f : Fields) (s : State) (va : Word) (n align : Nat) (acc : Acc) (p : State → List Piece → List Byte → Bool) : Bool :=
  placesOk s va n align acc (fun s0 ps0 =>
    let ps := s0.cached (policyOf f.hint 0) ps0
    let g := (s0.bindFor ps).readPieces s.myCore ps
    g.poison.isNone && p g.s ps g.bytes)
theorem reads_of {f : Fields} {s : State} {va : Word} {n align : Nat} {acc : Acc} {p : State → List Piece → List Byte → Bool}
    (h : readsOk f s va n align acc p = true) : ∃ s1 ps bs, Reads f s va n align acc s1 ps bs ∧ p s1 ps bs = true := by
  obtain ⟨s0, ps, h0, hp⟩ := places_of h
  simp only [Bool.and_eq_true, Option.isNone_iff_eq_none] at hp
  exact ⟨_, _, _, ⟨s0, ps, h0, rfl, hp.1, rfl, rfl⟩, hp.2⟩
/-- An LM record lies where the operands say, without error. -/
def lmReadsOk (f : Fields) (e : QEntry) (size lo n : Nat) (rd wr : Bool) (s : State) (p : State → Nat → Nat → Bool) : Bool :=
  match s.lmOperand (e.entry f.a) (offVal f.b e.b) (selOf f e) size size rd wr with
  | .ok core off => !((s.core core).lmUe (off + lo) n) && p ((s.takeLm core off size).noteLm core (off + lo) n) core off
  | .busy _ _ => false
  | .bad _ _ => false
theorem lmReads_of {f : Fields} {e : QEntry} {size lo n : Nat} {rd wr : Bool} {s : State} {p : State → Nat → Nat → Bool}
    (h : lmReadsOk f e size lo n rd wr s p = true) : ∃ s1 core off, LmReads f e size lo n rd wr s s1 core off ∧ p s1 core off = true := by
  unfold lmReadsOk at h
  split at h
  · rename_i core off hl
    simp only [Bool.and_eq_true, Bool.not_eq_true'] at h
    exact ⟨_, core, off, ⟨hl, h.1, rfl⟩, h.2⟩
  · simp at h
  · simp at h

end Sys2Proof.Tests
end

