-- ==== Sys2Proof/Tests/Slice0.lean ====
section
/-! SUPPORT. Tests: ill-formed terms, one word of every instruction laid out by hand from R78 with the opcodes of R99, and single steps whose
results come from the rules' own examples or from hand calculation. -/

set_option Elab.async false

namespace Sys2Proof.Tests

open Sys2Proof.Machine Sys2Proof.Claims

/-! ### Ill-formed terms: one for each check -/

theorem wellformed_ok : (Instr.wellFormed (.add { lat := 3, fmt := 6, d := .s 5, a := .s 6, b := .i 7 })) = true := by decide +kernel
theorem wf_refuses_tokens_at_the_front : Instr.wellFormed (.add { tk := 1, fmt := 6, d := .s 5, a := .s 6, b := .i 7 }) = false := by decide +kernel
theorem wf_refuses_pop_prev_in_L : Instr.wellFormed (.lds { tk := 8, lat := 15, fmt := 6, d := .s 5, a := .s 6, b := .i 8 }) = false := by decide +kernel
theorem wf_refuses_push_next_in_S : Instr.wellFormed (.sts { tk := 1, fmt := 6, a := .s 6, b := .i 8, c := .s 7 }) = false := by decide +kernel
theorem wf_refuses_hint_off_an_access : Instr.wellFormed (.add { hint := 1, fmt := 6, d := .s 5, a := .s 6, b := .i 7 }) = false := by decide +kernel
theorem wf_refuses_hint_7 : Instr.wellFormed (.lds { hint := 7, lat := 15, fmt := 6, d := .s 5, a := .s 6, b := .i 8 }) = false := by decide +kernel
theorem wf_refuses_scope : Instr.wellFormed (.lda { scp := 0, lat := 15, fmt := 6, d := .s 5, a := .s 6, b := .i 8 }) = false := by decide +kernel
theorem wf_refuses_flags : Instr.wellFormed (.sfadd { lat := 2, flags := 6, fmt := 0x10, d := .s 5, a := .s 6, b := .s 7 }) = false := by decide +kernel
theorem wf_refuses_format : Instr.wellFormed (.add { fmt := 0x10, d := .s 5, a := .s 6, b := .i 7 }) = false := by decide +kernel
theorem wf_refuses_reserved_format : Instr.wellFormed (.vmov { lat := 14, fmt := 0x1C, d := .v 5, a := .v 6 }) = false := by decide +kernel
theorem wf_refuses_sub : Instr.wellFormed (.lea { lat := 3, fmt := 6, d := .s 5, a := .s 6, b := .s 7, sub := 7 }) = false := by decide +kernel
theorem wf_refuses_latency_15_of_class_X : Instr.wellFormed (.add { lat := 15, fmt := 6, d := .s 5, a := .s 6, b := .i 7 }) = false := by decide +kernel
theorem wf_refuses_short_latency : Instr.wellFormed (.mul { lat := 1, fmt := 6, d := .s 5, a := .s 6, b := .i 7 }) = false := by decide +kernel
theorem wf_refuses_latency_of_class_V : Instr.wellFormed (.lds { lat := 14, fmt := 6, d := .s 5, a := .s 6, b := .i 8 }) = false := by decide +kernel
theorem wf_refuses_operand_kind : Instr.wellFormed (.add { fmt := 6, d := .v 5, a := .s 6, b := .i 7 }) = false := by decide +kernel
theorem wf_refuses_vector_index_96 : Instr.wellFormed (.vmov { lat := 14, fmt := 5, d := .v 96, a := .v 6 }) = false := by decide +kernel
theorem wf_refuses_unassigned_register : Instr.wellFormed (.csrr { d := .s 5, a := .y 0x003 }) = false := by decide +kernel
theorem wf_refuses_odd_pair : Instr.wellFormed (.ldq { lat := 15, d := .s 5, a := .s 6, b := .i 8 }) = false := by decide +kernel
theorem wf_refuses_equal_quantised_pair : Instr.wellFormed (.vqnt { lat := 14, fmt := 0x14, d := .v 5, a := .v 6, b := .v 5, sub := 0x10 }) = false := by decide +kernel
theorem wf_refuses_immediate_as_offset : Instr.wellFormed (.jmp { e := .i 2 }) = false := by decide +kernel
theorem wf_refuses_offset_as_immediate : Instr.wellFormed (.acas { lat := 15, scp := 4, fmt := 6, d := .s 5, a := .s 6, b := .i 8, c := .s 7, e := .off 1 }) = false := by decide +kernel
theorem wf_refuses_wrong_variant : Instr.wellFormed (.mov { fmt := 6, d := .s 5, a := .s 6, sub := 2 }) = false := by decide +kernel
theorem wf_refuses_slot_256 : Instr.wellFormed (.windowEnd 256) = false := by decide +kernel
theorem wf_refuses_core_64 : Instr.wellFormed (.matrixOpStart 64) = false := by decide +kernel

/-! ### One word of every instruction, field by field from R78, R80, R85, R92 and the descriptions -/

theorem decode_scalar : ([
    (0x005F0380060000A0000C0000E000000000001240, .add { g0 := 7, g1 := 12, lat := 14, fmt := 6, d := .s 10, a := .s 12, b := .s 14 }),
    (0x008E8380060000A2000520005000000000001900, .sub { g0 := 3, g1 := 10, lat := 14, fmt := 6, d := .s 10, a := .k 1 5, b := .k 1 5 }),
    (0x00DF0380060000A0123101232000000000001B40, .mul { g0 := 7, g1 := 12, lat := 14, fmt := 6, d := .s 10, a := .i 4657, b := .i 4658 }),
    (0x010E8380060000A0000C0000E000000000001240, .mulhu { g0 := 3, g1 := 10, lat := 14, fmt := 6, d := .s 10, a := .s 12, b := .s 14 }),
    (0x015F0380060000A2000520005000000000001900, .mulhs { g0 := 7, g1 := 12, lat := 14, fmt := 6, d := .s 10, a := .k 1 5, b := .k 1 5 }),
    (0x018E8380060000A0123101232000000000001B40, .divu { g0 := 3, g1 := 10, lat := 14, fmt := 6, d := .s 10, a := .i 4657, b := .i 4658 }),
    (0x01DF0380060000A0000C0000E000000000001240, .divs { g0 := 7, g1 := 12, lat := 14, fmt := 6, d := .s 10, a := .s 12, b := .s 14 }),
    (0x020E8380060000A2000520005000000000001900, .remu { g0 := 3, g1 := 10, lat := 14, fmt := 6, d := .s 10, a := .k 1 5, b := .k 1 5 }),
    (0x025F0380060000A0123101232000000000001B40, .rems { g0 := 7, g1 := 12, lat := 14, fmt := 6, d := .s 10, a := .i 4657, b := .i 4658 }),
    (0x028E8380060000A0000C0000E000000000001240, .and { g0 := 3, g1 := 10, lat := 14, fmt := 6, d := .s 10, a := .s 12, b := .s 14 }),
    (0x02DF0380060000A2000520005000000000001900, .or { g0 := 7, g1 := 12, lat := 14, fmt := 6, d := .s 10, a := .k 1 5, b := .k 1 5 }),
    (0x030E8380060000A0123101232000000000001B40, .xor { g0 := 3, g1 := 10, lat := 14, fmt := 6, d := .s 10, a := .i 4657, b := .i 4658 }),
    (0x035F0380060000A0000C0000E000000000001240, .andn { g0 := 7, g1 := 12, lat := 14, fmt := 6, d := .s 10, a := .s 12, b := .s 14 }),
    (0x038E8380060000A2000520005000000000001900, .shl { g0 := 3, g1 := 10, lat := 14, fmt := 6, d := .s 10, a := .k 1 5, b := .k 1 5 }),
    (0x03DF0380060000A0123101232000000000001B40, .shrl { g0 := 7, g1 := 12, lat := 14, fmt := 6, d := .s 10, a := .i 4657, b := .i 4658 }),
    (0x040E8380060000A0000C0000E000000000001240, .shra { g0 := 3, g1 := 10, lat := 14, fmt := 6, d := .s 10, a := .s 12, b := .s 14 }),
    (0x045F0380060000A2000520005000000000001900, .rotl { g0 := 7, g1 := 12, lat := 14, fmt := 6, d := .s 10, a := .k 1 5, b := .k 1 5 }),
    (0x048E8380060000A0123100000000000000001A00, .clz { g0 := 3, g1 := 10, lat := 14, fmt := 6, d := .s 10, a := .i 4657 }),
    (0x04DF0380060000A0000C00000000000000001200, .ctz { g0 := 7, g1 := 12, lat := 14, fmt := 6, d := .s 10, a := .s 12 }),
    (0x050E8380060000A2000500000000000000001800, .popc { g0 := 3, g1 := 10, lat := 14, fmt := 6, d := .s 10, a := .k 1 5 }),
    (0x055F0380060000A0123100000000000000001A00, .bswap { g0 := 7, g1 := 12, lat := 14, fmt := 6, d := .s 10, a := .i 4657 }),
    (0x058E8380060000A0000C0000E000000000001240, .min { g0 := 3, g1 := 10, lat := 14, fmt := 6, d := .s 10, a := .s 12, b := .s 14 }),
    (0x05DF0380060000A2000520005000000000001900, .max { g0 := 7, g1 := 12, lat := 14, fmt := 6, d := .s 10, a := .k 1 5, b := .k 1 5 }),
    (0x060E8380060000A0123101232000000000001B40, .minu { g0 := 3, g1 := 10, lat := 14, fmt := 6, d := .s 10, a := .i 4657, b := .i 4658 }),
    (0x065F0380060000A0000C0000E000000000001240, .maxu { g0 := 7, g1 := 12, lat := 14, fmt := 6, d := .s 10, a := .s 12, b := .s 14 })] : List (IWord × Instr)).all (fun x => decodeWord x.1 == .ok x.2 && encode x.2 == x.1) = true := by decide +kernel
theorem decode_scalar2 : ([
    (0x068E8380060000A2000500000000000000001800, .abs { g0 := 3, g1 := 10, lat := 14, fmt := 6, d := .s 10, a := .k 1 5 }),
    (0x06DF0380060000A0123101232000000000001B40, .sext { g0 := 7, g1 := 12, lat := 14, fmt := 6, d := .s 10, a := .i 4657, b := .i 4658 }),
    (0x070E8380060000A0000C0000E000000000001240, .zext { g0 := 3, g1 := 10, lat := 14, fmt := 6, d := .s 10, a := .s 12, b := .s 14 }),
    (0x075F0380060000A2000520005000040000001918, .sel { g0 := 7, g1 := 12, lat := 14, fmt := 6, d := .s 10, a := .k 1 5, b := .k 1 5, c := .p 4 }),
    (0x078E8380060000A0123100000000000000001A00, .mov { g0 := 3, g1 := 10, lat := 14, fmt := 6, d := .s 10, a := .i 4657 }),
    (0x079F03800B0000A0123100000000000000011A00, .movK { g0 := 7, g1 := 12, lat := 14, fmt := 11, d := .s 10, a := .i 4657, sub := 2 }),
    (0x07CE83800600001200052000500000000001B900, .cmp { g0 := 3, g1 := 10, lat := 14, fmt := 6, d := .p 1, a := .k 1 5, b := .k 1 5, sub := 3 }),
    (0x081F0380060000A0000C0000E000100000011248, .lea { g0 := 7, g1 := 12, lat := 14, fmt := 6, d := .s 10, a := .s 12, b := .s 14, c := .s 16, sub := 2 }),
    (0x084E8380000000100002000030000000000036C0, .pand { g0 := 3, g1 := 10, lat := 14, d := .p 1, a := .p 2, b := .p 3 }),
    (0x089F0380000000100002000030000000000036C0, .por { g0 := 7, g1 := 12, lat := 14, d := .p 1, a := .p 2, b := .p 3 }),
    (0x08CE8380000000100002000030000000000036C0, .pxor { g0 := 3, g1 := 10, lat := 14, d := .p 1, a := .p 2, b := .p 3 }),
    (0x091F038000000010000200000000000000003600, .pnot { g0 := 7, g1 := 12, lat := 14, d := .p 1, a := .p 2 }),
    (0x0A0E8380100000A2000520005000000000001900, .sfadd { g0 := 3, g1 := 10, lat := 14, fmt := 16, d := .s 10, a := .k 1 5, b := .k 1 5 }),
    (0x0A5F0380100000A0123101232000000000001B40, .sfmul { g0 := 7, g1 := 12, lat := 14, fmt := 16, d := .s 10, a := .i 4657, b := .i 4658 }),
    (0x0A8E8380100000A0000C0000E000100000001248, .sffma { g0 := 3, g1 := 10, lat := 14, fmt := 16, d := .s 10, a := .s 12, b := .s 14, c := .s 16 }),
    (0x0ADF0380110000A0000C00000000000000081200, .sfcvt { g0 := 7, g1 := 12, lat := 14, fmt := 17, d := .s 10, a := .s 12, sub := 16 }),
    (0x0B0E83801000001012310123200000000000BB40, .sfcmp { g0 := 3, g1 := 10, lat := 14, fmt := 16, d := .p 1, a := .i 4657, b := .i 4658, sub := 1 }),
    (0x0C1F00000000000000000000000000FFFFE00005, .jmp { g0 := 7, g1 := 12, e := .off 0xFFFFE }),
    (0x0C4E800006000000000C2000500000FFFFE10305, .br { g0 := 3, g1 := 10, fmt := 6, a := .s 12, b := .k 1 5, e := .off 0xFFFFE, sub := 2 }),
    (0x0C9F000006000000000C0000E000000000000240, .jidx { g0 := 7, g1 := 12, fmt := 6, a := .s 12, b := .s 14 }),
    (0x0CCE8380000000A000000000000000FFFFE01005, .call { g0 := 3, g1 := 10, lat := 14, d := .s 10, e := .off 0xFFFFE }),
    (0x0D1F000000000000000C00000000000000000200, .ret { g0 := 7, g1 := 12, a := .s 12 }),
    (0x0D4E8380000000A000000000000000FFFFE01005, .loop { g0 := 3, g1 := 10, lat := 14, d := .s 10, e := .off 0xFFFFE }),
    (0x0D9F000000000000000000000000000000000000, .nop { g0 := 7, g1 := 12 }),
    (0x0DCE800000000000000000000000000000000000, .yield { g0 := 3, g1 := 10 }),
    (0x0E1F000000000000000000000000000000000000, .halt { g0 := 7, g1 := 12 })] : List (IWord × Instr)).all (fun x => decodeWord x.1 == .ok x.2 && encode x.2 == x.1) = true := by decide +kernel
theorem decode_system : ([
    (0xC00E8380000000A0005000000000000000001E00, .csrr { g0 := 3, g1 := 10, lat := 14, d := .s 10, a := .y 0x050 }),
    (0xC05F00000B000500000C00000000000000007200, .csrw { g0 := 7, g1 := 12, fmt := 11, d := .y 0x050, a := .s 12 }),
    (0xC08E80000A000000123100000000000000000A00, .trap { g0 := 3, g1 := 10, fmt := 10, a := .i 4657 }),
    (0xC0DF00000A000000000C00000000000000000200, .syscall { g0 := 7, g1 := 12, fmt := 10, a := .s 12 }),
    (0xC10E838006000010000C0000E012330000003268, .eret { g0 := 3, g1 := 10, lat := 14, fmt := 6, d := .p 1, a := .s 12, b := .s 14, c := .i 4659 }),
    (0xC15F03800A000010000C00000000000000003200, .wfe { g0 := 7, g1 := 12, lat := 14, fmt := 10, d := .p 1, a := .s 12 }),
    (0xC18E800400000000000000000000000000000000, .tlbi { g0 := 3, g1 := 10, scp := 4 })] : List (IWord × Instr)).all (fun x => decodeWord x.1 == .ok x.2 && encode x.2 == x.1) = true := by decide +kernel
theorem decode_memory : ([
    (0x201F17D0050000A0000C0000E000000000001240, .lds { g0 := 7, g1 := 12, tk := 5, lat := 15, hint := 2, fmt := 5, d := .s 10, a := .s 12, b := .s 14 }),
    (0x204EA81005000000000C01232000100000000348, .sts { g0 := 3, g1 := 10, tk := 10, hint := 2, fmt := 5, a := .s 12, b := .i 4658, c := .s 16 }),
    (0x209F17D0000000A0000C0000E000000000001240, .ldq { g0 := 7, g1 := 12, tk := 5, lat := 15, hint := 2, d := .s 10, a := .s 12, b := .s 14 }),
    (0x20CEA81000000000000C01232000100000000348, .stq { g0 := 3, g1 := 10, tk := 10, hint := 2, a := .s 12, b := .i 4658, c := .s 16 }),
    (0x221F17D0050000A0000C0000E000000000021240, .ldb { g0 := 7, g1 := 12, tk := 5, lat := 15, hint := 2, fmt := 5, d := .s 10, a := .s 12, b := .s 14, sub := 4 }),
    (0x224E97D7050000A0000C01232000000000001340, .lda { g0 := 3, g1 := 10, tk := 5, lat := 15, hint := 2, scp := 7, fmt := 5, d := .s 10, a := .s 12, b := .i 4658 }),
    (0x229F281705000000000C0000E000100000000248, .strel { g0 := 7, g1 := 12, tk := 10, hint := 2, scp := 7, fmt := 5, a := .s 12, b := .s 14, c := .s 16 }),
    (0x210E97D00400014000650000E00010000160AC4B, .ldv { g0 := 3, g1 := 10, tk := 5, lat := 15, hint := 2, fmt := 4, d := .v 20, a := .h 101, b := .s 14, c := .s 16, e := .m 6, sub := 1 }),
    (0x215F28100400014000650000E000100001602C4B, .stv { g0 := 7, g1 := 12, tk := 10, hint := 2, fmt := 4, d := .v 20, a := .h 101, b := .s 14, c := .s 16, e := .m 6 }),
    (0x218E97D004000140006500016012330001602CAB, .ldg { g0 := 3, g1 := 10, tk := 5, lat := 15, hint := 2, fmt := 4, d := .v 20, a := .h 101, b := .v 22, c := .i 4659, e := .m 6 }),
    (0x21DF28100400014000650001600010000160AC8B, .stg { g0 := 7, g1 := 12, tk := 10, hint := 2, fmt := 4, d := .v 20, a := .h 101, b := .v 22, c := .s 16, e := .m 6, sub := 1 })] : List (IWord × Instr)).all (fun x => decodeWord x.1 == .ok x.2 && encode x.2 == x.1) = true := by decide +kernel
theorem decode_atomics : ([
    (0x240E97C2200000A0006501232000000000001D40, .ldfe { g0 := 3, g1 := 10, tk := 5, lat := 15, scp := 2, flags := 1, d := .s 10, a := .h 101, b := .i 4658 }),
    (0x245F28020A00000000650000E000100001200C49, .stff { g0 := 7, g1 := 12, tk := 10, scp := 2, fmt := 10, a := .h 101, b := .s 14, c := .s 16, e := .s 18 }),
    (0x248E97C000000010006501232000000000003D40, .feq { g0 := 3, g1 := 10, tk := 5, lat := 15, d := .p 1, a := .h 101, b := .i 4658 }),
    (0x24DF28000000000000650000E000100000008C48, .feset { g0 := 7, g1 := 12, tk := 10, a := .h 101, b := .s 14, c := .s 16, sub := 1 }),
    (0x260E800700000000000000000000000000000000, .mark { g0 := 3, g1 := 10, scp := 7 }),
    (0x265F000700000000000000000000000000008000, .fence { g0 := 7, g1 := 12, scp := 7, sub := 1 }),
    (0x264E800400000000000C01232000000000028340, .fenceMem { g0 := 3, g1 := 10, scp := 4, a := .s 12, b := .i 4658, sub := 5 }),
    (0x269F280400000000000000000000000000000000, .pubx { g0 := 7, g1 := 12, tk := 10, scp := 4 }),
    (0x26CEA80400000000123100000000000000000A00, .radv { g0 := 3, g1 := 10, tk := 10, scp := 4, a := .i 4657 }),
    (0x281F2BD7060000A0000C0000E000100000001248, .aadd { g0 := 7, g1 := 12, tk := 10, lat := 15, hint := 2, scp := 7, fmt := 6, d := .s 10, a := .s 12, b := .s 14, c := .s 16 }),
    (0x284EABD7060000A0000C01232012330000001368, .amin { g0 := 3, g1 := 10, tk := 10, lat := 15, hint := 2, scp := 7, fmt := 6, d := .s 10, a := .s 12, b := .i 4658, c := .i 4659 }),
    (0x289F2BD7060000A0000C0000E000100000001248, .amax { g0 := 7, g1 := 12, tk := 10, lat := 15, hint := 2, scp := 7, fmt := 6, d := .s 10, a := .s 12, b := .s 14, c := .s 16 }),
    (0x28CEABD70B0000A0000C01232012330000001368, .aminu { g0 := 3, g1 := 10, tk := 10, lat := 15, hint := 2, scp := 7, fmt := 11, d := .s 10, a := .s 12, b := .i 4658, c := .i 4659 }),
    (0x291F2BD70B0000A0000C0000E000100000001248, .amaxu { g0 := 7, g1 := 12, tk := 10, lat := 15, hint := 2, scp := 7, fmt := 11, d := .s 10, a := .s 12, b := .s 14, c := .s 16 }),
    (0x294EABD7060000A0000C01232012330000001368, .aand { g0 := 3, g1 := 10, tk := 10, lat := 15, hint := 2, scp := 7, fmt := 6, d := .s 10, a := .s 12, b := .i 4658, c := .i 4659 }),
    (0x299F2BD7060000A0000C0000E000100000001248, .aor { g0 := 7, g1 := 12, tk := 10, lat := 15, hint := 2, scp := 7, fmt := 6, d := .s 10, a := .s 12, b := .s 14, c := .s 16 }),
    (0x29CEABD7060000A0000C01232012330000001368, .axor { g0 := 3, g1 := 10, tk := 10, lat := 15, hint := 2, scp := 7, fmt := 6, d := .s 10, a := .s 12, b := .i 4658, c := .i 4659 }),
    (0x2A1F2BD7060000A0000C0000E000100000001248, .axchg { g0 := 7, g1 := 12, tk := 10, lat := 15, hint := 2, scp := 7, fmt := 6, d := .s 10, a := .s 12, b := .s 14, c := .s 16 }),
    (0x2A4EABD7060000A0000C0123201233012340136D, .acas { g0 := 3, g1 := 10, tk := 10, lat := 15, hint := 2, scp := 7, fmt := 6, d := .s 10, a := .s 12, b := .i 4658, c := .i 4659, e := .i 4660 }),
    (0x2A9F2BD7100000A0000C0000E000100000001248, .afadd { g0 := 7, g1 := 12, tk := 10, lat := 15, hint := 2, scp := 7, fmt := 16, d := .s 10, a := .s 12, b := .s 14, c := .s 16 }),
    (0x2ACEABD70B0000A0000C01232012330000001368, .aincw { g0 := 3, g1 := 10, tk := 10, lat := 15, hint := 2, scp := 7, fmt := 11, d := .s 10, a := .s 12, b := .i 4658, c := .i 4659 }),
    (0x2C1F281006000000000C0000E000100000000248, .redadd { g0 := 7, g1 := 12, tk := 10, hint := 2, fmt := 6, a := .s 12, b := .s 14, c := .s 16 }),
    (0x2C4EA81006000000000C01232012330000000368, .redmin { g0 := 3, g1 := 10, tk := 10, hint := 2, fmt := 6, a := .s 12, b := .i 4658, c := .i 4659 }),
    (0x2C9F281006000000000C0000E000100000000248, .redmax { g0 := 7, g1 := 12, tk := 10, hint := 2, fmt := 6, a := .s 12, b := .s 14, c := .s 16 }),
    (0x2CCEA81010000000000C01232012330000000368, .redfadd { g0 := 3, g1 := 10, tk := 10, hint := 2, fmt := 16, a := .s 12, b := .i 4658, c := .i 4659 }),
    (0x2E1F14020A00000000650000E000100001200C49, .semwait { g0 := 7, g1 := 12, tk := 5, scp := 2, fmt := 10, a := .h 101, b := .s 14, c := .s 16, e := .s 18 }),
    (0x2E4EA8020A000000006501232012330123400D6D, .sempost { g0 := 3, g1 := 10, tk := 10, scp := 2, fmt := 10, a := .h 101, b := .i 4658, c := .i 4659, e := .i 4660 }),
    (0x301F17C2000000A000650000E000100000001C48, .sracq { g0 := 7, g1 := 12, tk := 5, lat := 15, scp := 2, d := .s 10, a := .h 101, b := .s 14, c := .s 16 }),
    (0x304EA80200000000006501232012330123400D6D, .srpub { g0 := 3, g1 := 10, tk := 10, scp := 2, a := .h 101, b := .i 4658, c := .i 4659, e := .i 4660 }),
    (0x309F17C2000000A000650000E000100000001C48, .srtake { g0 := 7, g1 := 12, tk := 5, lat := 15, scp := 2, d := .s 10, a := .h 101, b := .s 14, c := .s 16 }),
    (0x30CEA80200000000006501232012330123400D6D, .srrel { g0 := 3, g1 := 10, tk := 10, scp := 2, a := .h 101, b := .i 4658, c := .i 4659, e := .i 4660 }),
    (0x321F28000000000000650000E000100001200C49, .barinit { g0 := 7, g1 := 12, tk := 10, a := .h 101, b := .s 14, c := .s 16, e := .s 18 }),
    (0x324EABC0000000A0006501232012330000001D68, .bararr { g0 := 3, g1 := 10, tk := 10, lat := 15, d := .s 10, a := .h 101, b := .i 4658, c := .i 4659 }),
    (0x329F28000000000000650000E000100001200C49, .barexp { g0 := 7, g1 := 12, tk := 10, a := .h 101, b := .s 14, c := .s 16, e := .s 18 }),
    (0x32CE940000000000006501232012330123400D6D, .barwait { g0 := 3, g1 := 10, tk := 5, a := .h 101, b := .i 4658, c := .i 4659, e := .i 4660 }),
    (0x331F17C00000001000650000E000100001203C49, .bartest { g0 := 7, g1 := 12, tk := 5, lat := 15, d := .p 1, a := .h 101, b := .s 14, c := .s 16, e := .s 18 }),
    (0x340EA80700000000123100000000000000000A00, .qfence { g0 := 3, g1 := 10, tk := 10, scp := 7, a := .i 4657 }),
    (0x345F280000000000000C00066000100000000388, .qput { g0 := 7, g1 := 12, tk := 10, a := .s 12, b := .h 102, c := .s 16 }),
    (0x344EABC020000010123100066012330000003BA8, .qputNb { g0 := 3, g1 := 10, tk := 10, lat := 15, flags := 1, d := .p 1, a := .i 4657, b := .h 102, c := .i 4659 }),
    (0x3C1F280700000000000C0000E000000000000240, .poisonclr { g0 := 7, g1 := 12, tk := 10, scp := 7, a := .s 12, b := .s 14 })] : List (IWord × Instr)).all (fun x => decodeWord x.1 == .ok x.2 && encode x.2 == x.1) = true := by decide +kernel
theorem decode_vector : ([
    (0x400E800004000000123101232000000000000B40, .vshp { g0 := 3, g1 := 10, fmt := 4, a := .i 4657, b := .i 4658 }),
    (0x405F2F8005000142000520005000000001602903, .vadd { g0 := 7, g1 := 12, tk := 11, lat := 14, fmt := 5, d := .v 20, a := .k 1 5, b := .k 1 5, e := .m 6 }),
    (0x408EAF8005000140123101232000000001602B43, .vsub { g0 := 3, g1 := 10, tk := 11, lat := 14, fmt := 5, d := .v 20, a := .i 4657, b := .i 4658, e := .m 6 }),
    (0x40DF2F8005000140001500016000000001602483, .vmul { g0 := 7, g1 := 12, tk := 11, lat := 14, fmt := 5, d := .v 20, a := .v 21, b := .v 22, e := .m 6 }),
    (0x410EAF8010000140000C0000E00010000160224B, .vfma { g0 := 3, g1 := 10, tk := 11, lat := 14, fmt := 16, d := .v 20, a := .s 12, b := .s 14, c := .s 16, e := .m 6 }),
    (0x415F2F8010000142000520005200050001602923, .vfms { g0 := 7, g1 := 12, tk := 11, lat := 14, fmt := 16, d := .v 20, a := .k 1 5, b := .k 1 5, c := .k 1 5, e := .m 6 }),
    (0x418EAF8010000140123101232012330001602B6B, .vnfma { g0 := 3, g1 := 10, tk := 11, lat := 14, fmt := 16, d := .v 20, a := .i 4657, b := .i 4658, c := .i 4659, e := .m 6 }),
    (0x41DF2F8010000140001500016000000001602483, .vdiv { g0 := 7, g1 := 12, tk := 11, lat := 14, fmt := 16, d := .v 20, a := .v 21, b := .v 22, e := .m 6 }),
    (0x420EAF8010000140000C00000000000001602203, .vsqrt { g0 := 3, g1 := 10, tk := 11, lat := 14, fmt := 16, d := .v 20, a := .s 12, e := .m 6 }),
    (0x425F2F8005000142000520005000000001602903, .vmin { g0 := 7, g1 := 12, tk := 11, lat := 14, fmt := 5, d := .v 20, a := .k 1 5, b := .k 1 5, e := .m 6 }),
    (0x428EAF8005000140123101232000000001602B43, .vmax { g0 := 3, g1 := 10, tk := 11, lat := 14, fmt := 5, d := .v 20, a := .i 4657, b := .i 4658, e := .m 6 }),
    (0x42DF2F8005000140001500000000000001602403, .vabs { g0 := 7, g1 := 12, tk := 11, lat := 14, fmt := 5, d := .v 20, a := .v 21, e := .m 6 }),
    (0x430EAF8005000140000C00000000000001602203, .vneg { g0 := 3, g1 := 10, tk := 11, lat := 14, fmt := 5, d := .v 20, a := .s 12, e := .m 6 }),
    (0x435F2F800500012200052000500000000163B903, .vcmp { g0 := 7, g1 := 12, tk := 11, lat := 14, fmt := 5, d := .m 2, a := .k 1 5, b := .k 1 5, e := .m 6, sub := 7 }),
    (0x438EAF8004000140123101232000150001602B5B, .vsel { g0 := 3, g1 := 10, tk := 11, lat := 14, fmt := 4, d := .v 20, a := .i 4657, b := .i 4658, c := .m 5, e := .m 6 }),
    (0x441F2F8005000140001500016000000001602483, .vand { g0 := 7, g1 := 12, tk := 11, lat := 14, fmt := 5, d := .v 20, a := .v 21, b := .v 22, e := .m 6 }),
    (0x444EAF8005000140000C0000E000000001602243, .vor { g0 := 3, g1 := 10, tk := 11, lat := 14, fmt := 5, d := .v 20, a := .s 12, b := .s 14, e := .m 6 }),
    (0x449F2F8005000142000520005000000001602903, .vxor { g0 := 7, g1 := 12, tk := 11, lat := 14, fmt := 5, d := .v 20, a := .k 1 5, b := .k 1 5, e := .m 6 }),
    (0x44CEAF8005000140123100000000000001602A03, .vnot { g0 := 3, g1 := 10, tk := 11, lat := 14, fmt := 5, d := .v 20, a := .i 4657, e := .m 6 }),
    (0x451F2F8005000140001500016000000001602483, .vshl { g0 := 7, g1 := 12, tk := 11, lat := 14, fmt := 5, d := .v 20, a := .v 21, b := .v 22, e := .m 6 }),
    (0x454EAF8005000140000C0000E000000001602243, .vshr { g0 := 3, g1 := 10, tk := 11, lat := 14, fmt := 5, d := .v 20, a := .s 12, b := .s 14, e := .m 6 }),
    (0x459F2F8005000142000520005000000001602903, .vshra { g0 := 7, g1 := 12, tk := 11, lat := 14, fmt := 5, d := .v 20, a := .k 1 5, b := .k 1 5, e := .m 6 }),
    (0x45CEAF8005000140123101232012330001602B6B, .vclamp { g0 := 3, g1 := 10, tk := 11, lat := 14, fmt := 5, d := .v 20, a := .i 4657, b := .i 4658, c := .i 4659, e := .m 6 }),
    (0x481F2F8004000140001500000000000001682403, .vcvt { g0 := 7, g1 := 12, tk := 11, lat := 14, fmt := 4, d := .v 20, a := .v 21, e := .m 6, sub := 16 }),
    (0x484EAF8014000140001500016000000000092480, .vqnt { g0 := 3, g1 := 10, tk := 11, lat := 14, fmt := 20, d := .v 20, a := .v 21, b := .v 22, sub := 18 }),
    (0x489F2F80100001400015000160000000016AA483, .vdqnt { g0 := 7, g1 := 12, tk := 11, lat := 14, fmt := 16, d := .v 20, a := .v 21, b := .v 22, e := .m 6, sub := 21 }),
    (0x48CEAF8016000140001500000000000000002400, .vpack6 { g0 := 3, g1 := 10, tk := 11, lat := 14, fmt := 22, d := .v 20, a := .v 21 }),
    (0x491F2F8016000140001500000000000000002400, .vunpk6 { g0 := 7, g1 := 12, tk := 11, lat := 14, fmt := 22, d := .v 20, a := .v 21 }),
    (0x494EAF8018000140001500000000000000002400, .vpack4 { g0 := 3, g1 := 10, tk := 11, lat := 14, fmt := 24, d := .v 20, a := .v 21 }),
    (0x499F2F8018000140001500000000000000002400, .vunpk4 { g0 := 7, g1 := 12, tk := 11, lat := 14, fmt := 24, d := .v 20, a := .v 21 }),
    (0x49CEAF801000014012310000E000000001602A43, .vscale { g0 := 3, g1 := 10, tk := 11, lat := 14, fmt := 16, d := .v 20, a := .i 4657, b := .s 14, e := .m 6 }),
    (0x4C1F2F800500014000150000000000000160A403, .vredr { g0 := 7, g1 := 12, tk := 11, lat := 14, fmt := 5, d := .v 20, a := .v 21, e := .m 6, sub := 1 }),
    (0x4C4EAF8005000140001500000000000001612403, .vredc { g0 := 3, g1 := 10, tk := 11, lat := 14, fmt := 5, d := .v 20, a := .v 21, e := .m 6, sub := 2 }),
    (0x4C9F2F8005000140001500000000000001602403, .vmaxr { g0 := 7, g1 := 12, tk := 11, lat := 14, fmt := 5, d := .v 20, a := .v 21, e := .m 6 }),
    (0x4CCEAF800500014000150000000000000162A403, .vscan { g0 := 3, g1 := 10, tk := 11, lat := 14, fmt := 5, d := .v 20, a := .v 21, e := .m 6, sub := 5 })] : List (IWord × Instr)).all (fun x => decodeWord x.1 == .ok x.2 && encode x.2 == x.1) = true := by decide +kernel
theorem decode_vector2 : ([
    (0x501F2F8010000140001500000000000001602403, .vexp { g0 := 7, g1 := 12, tk := 11, lat := 14, fmt := 16, d := .v 20, a := .v 21, e := .m 6 }),
    (0x504EAF8010000140000C00000000000001602203, .vexp2 { g0 := 3, g1 := 10, tk := 11, lat := 14, fmt := 16, d := .v 20, a := .s 12, e := .m 6 }),
    (0x509F2F8010000142000500000000000001602803, .vlog2 { g0 := 7, g1 := 12, tk := 11, lat := 14, fmt := 16, d := .v 20, a := .k 1 5, e := .m 6 }),
    (0x50CEAF8010000140123100000000000001602A03, .vrcp { g0 := 3, g1 := 10, tk := 11, lat := 14, fmt := 16, d := .v 20, a := .i 4657, e := .m 6 }),
    (0x511F2F8010000140001500000000000001602403, .vrsq { g0 := 7, g1 := 12, tk := 11, lat := 14, fmt := 16, d := .v 20, a := .v 21, e := .m 6 }),
    (0x514EAF8010000140000C00000000000001602203, .vtanh { g0 := 3, g1 := 10, tk := 11, lat := 14, fmt := 16, d := .v 20, a := .s 12, e := .m 6 }),
    (0x519F2F8010000142000500000000000001602803, .vsigm { g0 := 7, g1 := 12, tk := 11, lat := 14, fmt := 16, d := .v 20, a := .k 1 5, e := .m 6 }),
    (0x51CEAF8010000140123100000000000001602A03, .vsin { g0 := 3, g1 := 10, tk := 11, lat := 14, fmt := 16, d := .v 20, a := .i 4657, e := .m 6 }),
    (0x521F2F8010000140001500000000000001602403, .vcos { g0 := 7, g1 := 12, tk := 11, lat := 14, fmt := 16, d := .v 20, a := .v 21, e := .m 6 }),
    (0x540EAF8004000140001500000000000000002400, .vtrn { g0 := 3, g1 := 10, tk := 11, lat := 14, fmt := 4, d := .v 20, a := .v 21 }),
    (0x545F2F800400014000150001600000000160A483, .vshuf { g0 := 7, g1 := 12, tk := 11, lat := 14, fmt := 4, d := .v 20, a := .v 21, b := .v 22, e := .m 6, sub := 1 }),
    (0x548EAF8004000140001501232000000001602543, .vbcr { g0 := 3, g1 := 10, tk := 11, lat := 14, fmt := 4, d := .v 20, a := .v 21, b := .i 4658, e := .m 6 }),
    (0x54DF2F800400014000150000E000000001602443, .vbcc { g0 := 7, g1 := 12, tk := 11, lat := 14, fmt := 4, d := .v 20, a := .v 21, b := .s 14, e := .m 6 }),
    (0x550EAF8004000140000C00000000000001602203, .vmov { g0 := 3, g1 := 10, tk := 11, lat := 14, fmt := 4, d := .v 20, a := .s 12, e := .m 6 }),
    (0x555F2F8025000140000C0000E00010000160224B, .viota { g0 := 7, g1 := 12, tk := 11, lat := 14, flags := 1, fmt := 5, d := .v 20, a := .s 12, b := .s 14, c := .s 16, e := .m 6 }),
    (0x580EAF801B000140123101232000000001602B43, .vcmul { g0 := 3, g1 := 10, tk := 11, lat := 14, fmt := 27, d := .v 20, a := .i 4657, b := .i 4658, e := .m 6 }),
    (0x585F2F801B000140001500016000170001602493, .vcfma { g0 := 7, g1 := 12, tk := 11, lat := 14, fmt := 27, d := .v 20, a := .v 21, b := .v 22, c := .v 23, e := .m 6 }),
    (0x588EAF801B000140000C00000000000001602203, .vconj { g0 := 3, g1 := 10, tk := 11, lat := 14, fmt := 27, d := .v 20, a := .s 12, e := .m 6 }),
    (0x58DF2F80050001420005000000000000016D2803, .vmag2 { g0 := 7, g1 := 12, tk := 11, lat := 14, fmt := 5, d := .v 20, a := .k 1 5, e := .m 6, sub := 26 })] : List (IWord × Instr)).all (fun x => decodeWord x.1 == .ok x.2 && encode x.2 == x.1) = true := by decide +kernel
theorem decode_matrix : ([
    (0x800EAC000000000012310000E000100123418A4D, .mlev { g0 := 3, g1 := 10, tk := 11, a := .i 4657, b := .s 14, c := .s 16, e := .i 4660, sub := 3 }),
    (0x805F2C000000000000650000E000000000008C40, .mbase { g0 := 7, g1 := 12, tk := 11, a := .h 101, b := .s 14, sub := 1 }),
    (0x808EAC0000000000123100000000000000000A00, .mmode { g0 := 3, g1 := 10, tk := 11, a := .i 4657 }),
    (0x80DF2C000000000000650000E000000000000C40, .mpre { g0 := 7, g1 := 12, tk := 11, a := .h 101, b := .s 14 }),
    (0x810EAC0000000000000000000000000000000000, .mswap { g0 := 3, g1 := 10, tk := 11 }),
    (0x815F2C0000000000000000000000000000000000, .mgo { g0 := 7, g1 := 12, tk := 11 }),
    (0x818EAC0000000000000000000000000000000000, .mwait { g0 := 3, g1 := 10, tk := 11 }),
    (0x81DF2F8000000140000000000000000000002000, .mstat { g0 := 7, g1 := 12, tk := 11, lat := 14, d := .v 20 }),
    (0x820EAC000500064012310000E012330000016A68, .mdrain { g0 := 3, g1 := 10, tk := 11, fmt := 5, d := .h 100, a := .i 4657, b := .s 14, c := .i 4659, sub := 2 }),
    (0x825F2C0000000000000C00000000000000000200, .mzero { g0 := 7, g1 := 12, tk := 11, a := .s 12 }),
    (0x828EAC0005000000123100016000000000000A80, .maccl { g0 := 3, g1 := 10, tk := 11, fmt := 5, a := .i 4657, b := .v 22 }),
    (0x82DF2C0000000000001500000000000000000400, .mspmeta { g0 := 7, g1 := 12, tk := 11, a := .v 21 }),
    (0x830EAC0000000000001500000000000000000400, .mscale { g0 := 3, g1 := 10, tk := 11, a := .v 21 }),
    (0x835F2C0000000000000000000000000000000000, .mtestNow { g0 := 7, g1 := 12, tk := 11 }),
    (0x834EAC0000000000123100000000000000008A00, .mtestIvl { g0 := 3, g1 := 10, tk := 11, a := .i 4657, sub := 1 }),
    (0x839F2C0000000000000C00000000000000000200, .mfuse { g0 := 7, g1 := 12, tk := 11, a := .s 12 })] : List (IWord × Instr)).all (fun x => decodeWord x.1 == .ok x.2 && encode x.2 == x.1) = true := by decide +kernel
theorem decode_engine : ([
    (0xA00EA80000000000006501232000000000000D40, .cpy { g0 := 3, g1 := 10, tk := 10, a := .h 101, b := .i 4658 }),
    (0xA05F28000000000000650000E000000000000C40, .cpys { g0 := 7, g1 := 12, tk := 10, a := .h 101, b := .s 14 }),
    (0xA08EA80000000000006501232000000000000D40, .layout { g0 := 3, g1 := 10, tk := 10, a := .h 101, b := .i 4658 }),
    (0xA0DF28000000000000650000E000000000000C40, .cpyq { g0 := 7, g1 := 12, tk := 10, a := .h 101, b := .s 14 }),
    (0xA20EA80000000000006501232012330000000D68, .bgmac { g0 := 3, g1 := 10, tk := 10, a := .h 101, b := .i 4658, c := .i 4659 }),
    (0xA25F28000000000000650000E000100000000C48, .bgcpy { g0 := 7, g1 := 12, tk := 10, a := .h 101, b := .s 14, c := .s 16 }),
    (0xA28EA80000000000006501232012330000000D68, .bgattn { g0 := 3, g1 := 10, tk := 10, a := .h 101, b := .i 4658, c := .i 4659 }),
    (0xA2DF28000000000000650000E000100000000C48, .kvput { g0 := 7, g1 := 12, tk := 10, a := .h 101, b := .s 14, c := .s 16 }),
    (0xA30EA80000000000006501232012330000000D68, .kvtake { g0 := 3, g1 := 10, tk := 10, a := .h 101, b := .i 4658, c := .i 4659 }),
    (0xA35F280400000000000C00000000000000000200, .bgfence { g0 := 7, g1 := 12, tk := 10, scp := 4, a := .s 12 }),
    (0xA38EA80000000000006500000000000000000C00, .bgbarHold { g0 := 3, g1 := 10, tk := 10, a := .h 101 }),
    (0xA39F280000000000006500000000000000008C00, .bgbarRel { g0 := 7, g1 := 12, tk := 10, a := .h 101, sub := 1 }),
    (0xA3CEABC0000000A0123100000000000000011A00, .bgstat { g0 := 3, g1 := 10, tk := 10, lat := 15, d := .s 10, a := .i 4657, sub := 2 }),
    (0xA41F28000000000000650000E000000000000C40, .areduce { g0 := 7, g1 := 12, tk := 10, a := .h 101, b := .s 14 }),
    (0xA44EABC0000000A0000C01232000000000001340, .step { g0 := 3, g1 := 10, tk := 10, lat := 15, d := .s 10, a := .s 12, b := .i 4658 }),
    (0xA61F0380000000A0000000000000000000009000, .dlget { g0 := 7, g1 := 12, lat := 14, d := .s 10, sub := 1 }),
    (0xA64E800000000000000C01232000000000000340, .wuset { g0 := 3, g1 := 10, a := .s 12, b := .i 4658 }),
    (0xA69F280700000000000C00000000000000000200, .commit { g0 := 7, g1 := 12, tk := 10, scp := 7, a := .s 12 }),
    (0xA6CEA80000000000123100000000000000010A00, .pval { g0 := 3, g1 := 10, tk := 10, a := .i 4657, sub := 2 }),
    (0xA71F038000000010000C00000000000000003200, .dlarm { g0 := 7, g1 := 12, lat := 14, d := .p 1, a := .s 12 }),
    (0xA80E800000000000123100000000000000000A00, .uien { g0 := 3, g1 := 10, a := .i 4657 }),
    (0xA85F000000000000000C00000000000000010200, .uimask { g0 := 7, g1 := 12, a := .s 12, sub := 2 }),
    (0xA88E800000000000000000000000000000000000, .uiret { g0 := 3, g1 := 10 })] : List (IWord × Instr)).all (fun x => decodeWord x.1 == .ok x.2 && encode x.2 == x.1) = true := by decide +kernel

/-! ### Words that do not decode (R63, R79, R99, R101) -/

theorem decode_refuses_unassigned_opcode : decodeWord (0x025#10 ++ 0x77#8 ++ 0#142) = .bad .illegalOpcode 0 := by decide +kernel
theorem decode_refuses_opcode_above_the_map : decodeWord (0x380#10 ++ 0x77#8 ++ 0#142) = .bad .illegalOpcode 0 := by decide +kernel
/-- ADD.i64 s10, s12, s14 with bit 6 of its A field set: reserved under R63, operand A. -/
theorem decode_refuses_reserved_operand_bit : decodeWord
    (0x001#10 ++ 0x77#8 ++ 0#14 ++ 6#8 ++ 10#20 ++ 0x4C#20 ++ 14#20 ++ 0#40 ++ 0#5 ++ 0b001001001000000#15) = .bad .illegalEncoding 2 := by decide +kernel
/-- A kind-0 operand with a nonzero field. -/
theorem decode_refuses_field_of_kind_0 : decodeWord (0x036#10 ++ 0x77#8 ++ 0#14 ++ 0#8 ++ 1#20 ++ 0#80 ++ 0#20) = .bad .illegalEncoding 1 := by decide +kernel
/-- The bytes of NOP in memory (R98): sixteen zeros, then 0x00, 0xC0, 0x9D, 0x0D. -/
theorem nop_bytes : bytesOfWord (encode (.nop {})) = List.replicate 16 0 ++ [0x00, 0xC0, 0x9D, 0x0D] := by decide +kernel
/-- The bytes of CPY h3, 0 in its slot (chapter 9's example). -/
theorem cpy_bytes : let b := bytesOfWord (encode (.cpy { a := .h 3, b := .i 0 }))
    (b[0]?, b[1]?, b[10]?, b.drop 16) = (some 0x40, some 0x0D, some 0x03, [0x00, 0xC0, 0x1D, 0xA0]) := by decide +kernel

/-! ### Single steps at the front -/

/-- What s5 holds after the instruction, at the front of a strand with these scalars. -/
def s5After (i : Instr) (l : Tab Word) : Option Word := match exec i (front (regs l)) with
  | .next t => some (t.me.getS 5)
  | _ => none
/-- What the strand is after the instruction. -/
def after (i : Instr) (t : Strand) : Option Strand := match exec i (front t) with
  | .next t => some t.me
  | _ => none
/-- What the strand is after the instruction's trap has stopped it in the next cycle (R105, R260). -/
def stopped (i : Instr) (t : Strand) : Option Strand := match exec i (front t) with
  | .next u => (match exec (.strandStop 0) { u with cycle := u.cycle + 1 } with
    | .next v => some v.me
    | _ => none)
  | _ => none
/-- A two-operand form into s5 from s6 and s7, in a format. -/
def two (fmt : BitVec 5) : Fields := { lat := 14, fmt := fmt, d := .s 5, a := .s 6, b := .s 7 }

/-- INT32: 0x7FFFFFFF + 1 wraps and is extended from bit 31 (R114). -/
theorem test_add_wraps : s5After (.add (two 5)) [(6, 0x7FFFFFFF), (7, 1)] = some 0xFFFFFFFF80000000 := by decide +kernel
/-- UINT32 extends with zeros (R114). -/
theorem test_sub_uint32 : s5After (.sub (two 10)) [(6, 0), (7, 1)] = some 0xFFFFFFFF := by decide +kernel
theorem test_mul_wraps : s5After (.mul (two 6)) [(6, 0x8000000000000001), (7, 2)] = some 2 := by decide +kernel
theorem test_mulhs : s5After (.mulhs (two 6)) [(6, 0xFFFFFFFFFFFFFFFF), (7, 2)] = some 0xFFFFFFFFFFFFFFFF := by decide +kernel
theorem test_mulhu : s5After (.mulhu (two 6)) [(6, 0xFFFFFFFFFFFFFFFF), (7, 2)] = some 1 := by decide +kernel
/-- R117: division by zero gives all ones, the least number by −1 itself. -/
theorem test_divs_by_zero : s5After (.divs (two 5)) [(6, 7), (7, 0)] = some 0xFFFFFFFFFFFFFFFF := by decide +kernel
theorem test_divs_least : s5After (.divs (two 6)) [(6, 0x8000000000000000), (7, 0xFFFFFFFFFFFFFFFF)] = some 0x8000000000000000 := by decide +kernel
theorem test_divs_truncates : s5After (.divs (two 6)) [(6, 0xFFFFFFFFFFFFFFF9), (7, 2)] = some 0xFFFFFFFFFFFFFFFD := by decide +kernel
theorem test_rems_by_zero : s5After (.rems (two 6)) [(6, 9), (7, 0)] = some 9 := by decide +kernel
theorem test_rems_sign : s5After (.rems (two 6)) [(6, 0xFFFFFFFFFFFFFFF9), (7, 2)] = some 0xFFFFFFFFFFFFFFFF := by decide +kernel
theorem test_shra : s5After (.shra (two 5)) [(6, 0x80000000), (7, 33)] = some 0xFFFFFFFFC0000000 := by decide +kernel
theorem test_rotl : s5After (.rotl (two 10)) [(6, 0x80000001), (7, 4)] = some 0x18 := by decide +kernel
theorem test_clz_zero : s5After (.clz { lat := 14, fmt := 5, d := .s 5, a := .s 6 }) [(6, 0xFFFFFFFF00000000)] = some 32 := by decide +kernel
theorem test_bswap : s5After (.bswap { lat := 14, fmt := 10, d := .s 5, a := .s 6 }) [(6, 0x0102030405060708)] = some 0x08070605 := by decide +kernel
theorem test_sext : s5After (.sext { lat := 14, fmt := 6, d := .s 5, a := .s 6, b := .i 8 }) [(6, 0x180)] = some 0xFFFFFFFFFFFFFF80 := by decide +kernel
/-- MOV.k2 puts 16 bits at bit 32 and keeps the rest (R118). -/
theorem test_movK : s5After (.movK { lat := 14, fmt := 11, d := .s 5, a := .i 0xBEEF, sub := 2 }) [(5, 0x1111222233334444)] = some 0x1111BEEF33334444 := by decide +kernel
theorem test_lea : s5After (.lea { lat := 14, fmt := 6, d := .s 5, a := .s 6, b := .s 7, c := .i 0xFFFF, sub := 3 }) [(6, 0x1000), (7, 2)] = some 0x100F := by decide +kernel
/-- FP32: 1 + 2^-24 ties to even (R39); 1.5 × 1.5 = 2.25. -/
theorem test_sfadd_ties_to_even : s5After (.sfadd (two 16)) [(6, 0x3F800000), (7, 0x33800000)] = some 0x3F800000 := by decide +kernel
theorem test_sfmul : s5After (.sfmul (two 16)) [(6, 0x3FC00000), (7, 0x3FC00000)] = some 0x40100000 := by decide +kernel
/-- 3.7 to INT32 toward zero under rtz (R40). -/
theorem test_sfcvt_to_int : s5After (.sfcvt { lat := 14, flags := 2, fmt := 5, d := .s 5, a := .s 6, sub := 16 }) [(6, 0x406CCCCD)] = some 3 := by decide +kernel
/-- A write to s0 is discarded (R54). -/
theorem test_s0 : (after (.add { (two 6) with d := .s 0 }) (regs [(6, 1), (7, 2)])).map (·.getS 0) = some 0 := by decide +kernel
/-- A guard that fails drops the instruction and advances (R81). -/
theorem test_guard_drops : (after (.add { (two 6) with g0 := 0b1111 }) (regs [(5, 9), (6, 1), (7, 2)])).map (fun t => (t.getS 5, t.pc)) =
    some (9, imagePos + 1) := by decide +kernel
/-- Unsigned and signed conditions differ (R119). -/
theorem test_cmp_signed : (after (.cmp { lat := 14, fmt := 6, d := .p 1, a := .s 6, b := .s 7, sub := 2 }) (regs [(6, 0xFFFFFFFFFFFFFFFF), (7, 1)])).map (·.getP 1) =
    some true := by decide +kernel
theorem test_cmp_unsigned : (after (.cmp { lat := 14, fmt := 6, d := .p 1, a := .s 6, b := .s 7, sub := 6 }) (regs [(6, 0xFFFFFFFFFFFFFFFF), (7, 1)])).map (·.getP 1) =
    some false := by decide +kernel
/-- LOOP with D = 2 goes back by one position, with D = 0 it writes nothing and falls through (R126). -/
theorem test_loop : (after (.loop { lat := 14, d := .s 6, e := .off 0xFFFFF }) (regs [(6, 2)])).map (fun t => (t.getS 6, t.pc)) = some (1, imagePos - 1) := by decide +kernel
theorem test_loop_zero : (after (.loop { lat := 14, d := .s 6, e := .off 0xFFFFF }) (regs [])).map (fun t => (t.getS 6, t.pc)) = some (0, imagePos + 1) := by decide +kernel
theorem test_call : (after (.call { lat := 14, d := .s 5, e := .off 3 }) (regs [])).map (fun t => (t.getS 5, t.pc)) = some (imagePos + 1, imagePos + 3) := by decide +kernel
/-- TRAP 0x51: TRC is SOFTWARE of the front, TRI the operand, the strand stops at its position (R130, R260). -/
theorem test_trap : (stopped (.trap { fmt := 10, a := .i 0x51 }) (regs [])).map (fun t => (t.trc, t.tri, t.pc, t.st)) = some (0x20, 0x51, imagePos, .stop) := by decide +kernel
/-- ERET at user privilege is PRIVILEGED (R115). -/
theorem test_eret_user : (stopped (.eret { lat := 3, fmt := 6, d := .p 1, a := .s 6, b := .s 7, c := .i 0 }) { regs [] with sys := false }).map (·.trc) = some 0x06 := by decide +kernel
/-- An invalid shape traps SHAPE_INVALID (R57): 3 rows of 256 FP32 columns are too long. -/
theorem test_vshp_invalid : (stopped (.vshp { fmt := 16, a := .i 3, b := .i 256 }) (regs [])).map (·.trc) = some 0x0C := by decide +kernel

/-! ### Single steps of the queues -/

/-- The state after the entry at the head of its queue issues. -/
def issued (s : State) (q : Queue) (x : QEntry) : Option State := match exec x.instr (atHead s q x) with
  | .next t => some t
  | _ => none
def stsF : Fields := { fmt := 5, a := .s 6, b := .i 4, c := .s 7 }
/-- STREL.i32 stores four bytes, the least significant first (R5, R143). -/
theorem test_strel : (issued bench .S (entry (.strel { stsF with scp := 4 }) dataVa 4 0xAABBCCDD11223344 0)).map (fun t => t.physRead .il 3 6) =
    some [0, 0x44, 0x33, 0x22, 0x11, 0] := by decide +kernel
/-- A load, here LDA, sign-extends an INT8 and waits for its delivery (R143, R139). -/
theorem test_lda_int8 : ((issued (bench.writeMem (.device .service) false .il 9 [0x80]) .L (entry (.lda { lat := 15, scp := 4, fmt := 2, d := .s 5, a := .s 6, b := .i 9 }) dataVa 9 0 0)).bind
    (fun t => t.me.flight.head?)).map (fun x => (x.vals, x.endsAt)) = some ([0xFFFFFFFFFFFFFF80], none) := by decide +kernel
/-- A misaligned access traps ALIGNMENT and performs nothing (R137). -/
theorem test_sts_misaligned : (issued bench .S (entry (.sts stsF) (dataVa + 1) 4 7 0)).map (fun t => (t.me.stopping.map (·.code) == some .alignment || t.me.trc == 0x000B + 4 * 256, t.physRead .il 4 4)) =
    some (true, [0, 0, 0, 0]) := by decide +kernel
/-- AADD gives the old value and adds at the location (R147). -/
theorem test_aadd : (issued (bench.writeMem (.device .service) false .il 8 [0xFF, 0, 0, 0]) .S
    (entry (.aadd { lat := 15, scp := 4, fmt := 10, d := .s 5, a := .s 6, b := .i 8, c := .s 7 }) dataVa 8 2 0)).map
    (fun t => (t.physRead .il 8 4, (t.me.flight.head?).map (·.vals))) = some ([1, 1, 0, 0], some [255]) := by decide +kernel
/-- VADD.i32 on a 1 × 2 shape: elements add and wrap (R169). -/
def twoTiles : State := bench.modCore 0 (fun c => { c with vrf := (c.vrf.write 16384 (leBytes 4 0xFFFFFFFF ++ leBytes 4 5)).write 32768 (leBytes 4 2 ++ leBytes 4 6) })
theorem test_vadd : (issued twoTiles .C { entry (.vadd { lat := 14, fmt := 5, d := .v 3, a := .v 1, b := .v 2 }) 1 2 0 0 with shp := shpWord 1 2 5, dsts := [.v 3] }).map
    (fun t => t.tile 0 1 4 2) = some [0xFFFFFFFF, 5] ∧
    (issued twoTiles .C { entry (.vadd { lat := 14, fmt := 5, d := .v 3, a := .v 1, b := .v 2 }) 1 2 0 0 with shp := shpWord 1 2 5, dsts := [.v 3] }).map
    (fun t => (t.core 0).vrf.read (16384 * 3) 8) = some [1, 0, 0, 0, 11, 0, 0, 0] := by decide +kernel

/-! ### Power (R402) and the step -/

/-- Out of reset the first action is the boot. -/
theorem test_first_action_boots : State.reset.nextAction = .event .resetNRelease := by decide +kernel
/-- A placed word is the very next instruction: ADD.i64 s5, s0, 9. -/
theorem test_step_runs_a_placed_word : (match step (State.reset.withFetchWord 160 (encode (.add { lat := 1, fmt := 6, d := .s 5, a := .s 0, b := .i 9 })).toNat) with
  | .next t => (t.strand 0).getS 5
  | _ => 0) = 9 := by decide +kernel
/-- The reset values of the maps (R352, R356, R388, R397, R403). -/
theorem test_reset_registers : (State.reset.readReg 0x010, State.reset.readReg 0x040, State.reset.readReg 0x308, State.reset.readReg 0x328, State.reset.readReg 0x418,
    State.reset.readReg 0x600) = (some 6, some 3, some 6, some 10, some 3, some 0x1400001) := by decide +kernel

end Sys2Proof.Tests
end

