-- ==== Sys2Proof/Tests/Witness1.lean ====
section
/-! SUPPORT. Witnesses for the statements about encoding, the step, the front and traps: states and operands that meet their hypotheses. -/

set_option Elab.async false

namespace Sys2Proof.Tests

open Sys2Proof.Machine Sys2Proof.Claims

/-! ### Encoding and the step -/

theorem wit_DecodingInvertsEncoding : (∃ i : Instr, i.isWord = true ∧ i.wellFormed = true) ∧ ∃ (w : IWord) (i : Instr), decodeWord w = .ok i :=
  ⟨⟨.nop {}, by decide +kernel, by decide +kernel⟩, ⟨0x0D9DC00000000000000000000000000000000000, .nop {}, by decide +kernel⟩⟩

/-- The bench whose next action is the decode of strand 0. -/
def decoding : State := { bench with agenda := [.instructionDecode 0] }
def lineOk (x : Fetched) (p : State → BitVec 512 → Bool) : Bool := match x with
  | .ok s l => p s l
  | _ => false
theorem lineOk_iff {x : Fetched} {p : State → BitVec 512 → Bool} (h : lineOk x p = true) : ∃ s l, x = .ok s l ∧ p s l = true := by
  cases x with
  | ok s l => exact ⟨s, l, rfl, h⟩
  | trap c n => simp [lineOk] at h
  | moving => simp [lineOk] at h
/-- The bench with NOP in its first slot. -/
def nopBench : State := { State.reset.withFetchWord 160 0x0D9DC00000000000000000000000000000000000 with agenda := [.instructionDecode 0] }
theorem wit_StepRunsTheDecodedInstruction : ∃ (s s1 : State) (slot : Nat) (line : BitVec 512) (i : Instr),
    s.nextAction = .event (.instructionDecode slot) ∧ (s.power = .on ∨ s.power = .throttle) ∧ s.fwState = 1 ∧ s.clockStopped = false ∧ slot < 256 ∧
    s.dropAgenda.decodeReady slot = true ∧ (s.dropAgenda.decodes slot).fetchLine slot (s.strand slot).pc = .ok s1 line ∧
    decodeWord (lineWord line (slotPos (s.strand slot).pc)) = .ok i := by
  obtain ⟨s1, line, h, hp⟩ := lineOk_iff (show lineOk ((nopBench.dropAgenda.decodes 0).fetchLine 0 (nopBench.strand 0).pc)
    (fun _ l => decodeWord (lineWord l (slotPos (nopBench.strand 0).pc)) == .ok (.nop {})) = true by decide +kernel)
  exact ⟨nopBench, s1, 0, line, .nop {}, by decide +kernel, .inl (by decide +kernel), by decide +kernel, by decide +kernel, by decide, by decide +kernel, h,
    by simpa using hp⟩

def tripped : State := { State.reset with power := .trip }
theorem wit_EveryStepKeepsMemoryCanonical : ∃ s t : State, MemOk s ∧ step s = .next t := ⟨tripped, _, ⟨rfl, rfl, rfl, rfl, rfl, rfl, rfl⟩, rfl⟩
theorem wit_Power_trip : ∃ s t : State, s.latched = none ∧ step s = .next t ∧ s.power = .trip := ⟨tripped, _, rfl, rfl, rfl⟩
theorem wit_Power_trip_off : ∃ s t : State, s.latched = none ∧ step s = .next t ∧ s.power = .trip ∧ t.power = .off :=
  ⟨{ tripped with agenda := [.powerOff] }, _, rfl, rfl, rfl, rfl⟩
theorem wit_Power_off : ∃ s t : State, s.latched = none ∧ step s = .next t ∧ s.power = .off := by
  have h : step State.reset = match runLatched State.reset.boot with
      | .next t => .next (t.after (.event .resetNRelease))
      | .fault r => .fault r
      | .refused r => .refused r := rfl
  have hl : State.reset.boot.latched = none := by unfold State.boot; dsimp only; split <;> rfl
  have hr : runLatched State.reset.boot = .next State.reset.boot := by unfold runLatched; rw [hl]
  exact ⟨State.reset, _, rfl, by rw [h, hr], rfl⟩
theorem wit_MemoryIsReadAsWritten : ∃ (s : State) (sp : MemSpace) (bs : List Byte) (i : Nat) (b : Byte), NoErrors s ∧ sp ≠ .bl ∧ bs[i]? = some b :=
  ⟨bench, .il, [1, 2], 1, 2, noErrors_of (by decide +kernel), by decide, rfl⟩
theorem wit_MemoryIsReadAsWritten_bl : ∃ (s : State) (off : Nat) (bs : List Byte) (i : Nat) (b : Byte), NoErrors s ∧ tabWf s.l2 = true ∧ bs[i]? = some b ∧
    tabFind s.rows (rowKey (off + i)) = none := ⟨bench, 63, [1, 2], 1, 2, noErrors_of (by decide +kernel), by decide +kernel, rfl, by decide +kernel⟩

/-! ### Constants and guards -/

def frontF (fmt : BitVec 5) : Fields := { lat := 14, fmt := fmt, d := .s 5, a := .s 6, b := .s 7 }
def anyOk : State → Vals → Bool := fun _ _ => true
/-- Strand 0 with 9 in s6 and 5 in s7. -/
def two9 : State := front (regs [(6, 9), (7, 5)])

theorem wit_ConstantRegisters_s0 : ∀ op ∈ intTwoOps, ∃ (f : Fields) (s s1 : State) (v : Vals) (F : Fmt),
    f.d = .s 0 ∧ fieldFmt f = some F ∧ FrontRuns (op.1 f) f (some F) s s1 v := by
  intro op ho
  have h := all_of (show intTwoOps.all (fun op => frontOk (op.1 { frontF 6 with d := .s 0 }) { frontF 6 with d := .s 0 } (some .int64) two9 anyOk) = true by
    decide +kernel) op ho
  obtain ⟨s1, v, hr, -⟩ := frontRuns_of h
  exact ⟨_, two9, s1, v, .int64, rfl, rfl, hr⟩
def cmpF : Fields := { lat := 14, fmt := 6, d := .p 7, a := .s 6, b := .s 7 }
theorem wit_ConstantRegisters_p7 : ∃ (f : Fields) (s s1 : State) (v : Vals) (F : Fmt),
    f.d = .p 7 ∧ fieldFmt f = some F ∧ FrontRuns (.cmp f) f (some F) s s1 v := by
  obtain ⟨s1, v, h, -⟩ := frontRuns_of (show frontOk (.cmp cmpF) cmpF (some .int64) two9 anyOk = true by decide +kernel)
  exact ⟨cmpF, two9, s1, v, .int64, rfl, rfl, h⟩
theorem wit_GuardedInstructions_g0 : ∃ (i : Instr) (f : Fields) (sp : ISpec) (s : State), ispec i = some sp ∧ instrFields i = some f ∧ s.acting = .front ∧
    frontReady s.cycle s.me = true ∧ decodeFault i sp f s.me = none ∧ guardsPending s.me f = false ∧ guardHolds s.me s.cycle (s.fv + 5) f.g0 = false :=
  ⟨.add { frontF 6 with g0 := 15 }, _, _, two9, rfl, rfl, by decide +kernel, by decide +kernel, by decide +kernel, by decide +kernel, by decide +kernel⟩
theorem wit_GuardedInstructions_g1 : ∃ (i : Instr) (f : Fields) (sp : ISpec) (s : State), ispec i = some sp ∧ instrFields i = some f ∧ s.acting = .front ∧
    frontReady s.cycle s.me = true ∧ decodeFault i sp f s.me = none ∧ guardsPending s.me f = false ∧ guardHolds s.me s.cycle (s.fv + 6) f.g1 = false :=
  ⟨.mgo { g1 := 1 }, _, _, two9, rfl, rfl, by decide +kernel, by decide +kernel, by decide +kernel, by decide +kernel, by decide +kernel⟩

/-! ### Decode checks and traps -/

theorem wit_DecodeTraps : ∃ (i : Instr) (f : Fields) (sp : ISpec) (s : State) (c : TrapCode) (o : Nat), ispec i = some sp ∧ instrFields i = some f ∧
    s.acting = .front ∧ frontReady s.cycle s.me = true ∧ decodeStop i sp f s = some (.trap c o) ∧ s.me.stopping = none :=
  ⟨.add { frontF 6 with lat := 15 }, _, _, two9, .illegalLatency, 0, rfl, rfl, by decide +kernel, by decide +kernel, by decide +kernel, by decide +kernel⟩
/-- The same where queue S has trapped in this cycle (R105). -/
def sTrapped : State := front { regs [] with stopping := some { code := .alignment, eng := 4, cyc := some bench.cycle } }
theorem wit_DecodeTraps_lower : ∃ (i : Instr) (f : Fields) (sp : ISpec) (s : State) (c : TrapCode) (o : Nat) (x : TrapRec), ispec i = some sp ∧
    instrFields i = some f ∧ s.acting = .front ∧ frontReady s.cycle s.me = true ∧ decodeStop i sp f s = some (.trap c o) ∧ s.me.stopping = some x ∧ x.eng ≠ 0 :=
  ⟨.add { frontF 6 with lat := 15 }, _, _, sTrapped, .illegalLatency, 0, { code := .alignment, eng := 4, cyc := some bench.cycle }, rfl, rfl, by decide +kernel,
    by decide +kernel, by decide +kernel, by decide +kernel, by decide⟩
theorem wit_DecodeTraps_stop : ∃ (slot : Nat) (s : State) (c : TrapCode) (o : Nat) (p : Word) (k : Option Nat), slot < 256 ∧
    (s.strand slot).stopping = some { code := c, eng := 0, opnd := o, pos := p, cyc := k } ∧ k ≠ some s.cycle ∧ (s.strand slot).diverting = none ∧
    (s.strand slot).wfe = none ∧ s.quiet slot = true ∧ s.fqFull = false :=
  ⟨0, { front { regs [] with stopping := some { code := .illegalLatency, eng := 0, opnd := 2, pos := 7, cyc := some 0 } } with cycle := 1 }, .illegalLatency, 2, 7, some 0,
    by decide, by decide +kernel, by decide +kernel, by decide +kernel, by decide +kernel, by decide +kernel, by decide +kernel⟩
/-- The two conditions of a decode that waits. -/
theorem wit_Decode_result_wait : ∃ (i : Instr) (f : Fields) (sp : ISpec) (s : State), ispec i = some sp ∧ instrFields i = some f ∧ s.acting = .front ∧
    frontReady s.cycle s.me = true ∧ decodeFault i sp f s.me = none ∧ guardsPending s.me f = false ∧ guardsHold s.me s.cycle s.fv f = true ∧
    resultWait s.me i sp f = true :=
  ⟨.add (frontF 6), _, _, front { regs [] with pending := [.s 6] }, rfl, rfl, by decide +kernel, by decide +kernel, by decide +kernel, by decide +kernel,
    by decide +kernel, by decide +kernel⟩
theorem wit_Decode_queue_full : ∃ (i : Instr) (f : Fields) (sp : ISpec) (s : State), ispec i = some sp ∧ instrFields i = some f ∧ s.acting = .front ∧
    frontReady s.cycle s.me = true ∧ decodeFault i sp f s.me = none ∧ guardsPending s.me f = false ∧ guardsHold s.me s.cycle s.fv f = true ∧
    queueFull s.me sp.route = true :=
  ⟨.mgo {}, _, _, front { regs [] with cq := List.replicate 16 (entry (.mgo {}) 0 0 0 0) }, rfl, rfl, by decide +kernel, by decide +kernel, by decide +kernel,
    by decide +kernel, by decide +kernel, by decide +kernel⟩
def eretF : Fields := { lat := 3, fmt := 6, d := .p 1, a := .s 6, b := .s 7, c := .i 0 }
theorem wit_Decode_privileged : ∃ (i : Instr) (f : Fields) (sp : ISpec) (s : State), ispec i = some sp ∧ instrFields i = some f ∧ s.acting = .front ∧
    frontReady s.cycle s.me = true ∧ decodeFault i sp f s.me = none ∧ guardsPending s.me f = false ∧ guardsHold s.me s.cycle s.fv f = true ∧
    resultWait s.me i sp f = false ∧ queueFull s.me sp.route = false ∧ s.me.sys = false ∧ (i = .eret f ∨ i = .tlbi f) :=
  ⟨.eret eretF, _, _, front { regs [] with sys := false }, rfl, rfl, by decide +kernel, by decide +kernel, by decide +kernel, by decide +kernel, by decide +kernel,
    by decide +kernel, by decide +kernel, by decide +kernel, .inl rfl⟩
theorem wit_Decode_claim : ∃ (i : Instr) (f : Fields) (sp : ISpec) (s : State), ispec i = some sp ∧ instrFields i = some f ∧ s.acting = .front ∧
    frontReady s.cycle s.me = true ∧ decodeFault i sp f s.me = none ∧ guardsPending s.me f = false ∧ guardsHold s.me s.cycle s.fv f = true ∧
    resultWait s.me i sp f = false ∧ queueFull s.me sp.route = false ∧ (i = .mgo f ∨ i = .mpre f ∨ i = .mmode f ∨ i = .mdrain f) ∧ s.me.mown = false :=
  ⟨.mgo {}, _, _, front { regs [] with mown := false }, rfl, rfl, by decide +kernel, by decide +kernel, by decide +kernel, by decide +kernel, by decide +kernel,
    by decide +kernel, by decide +kernel, .inl rfl, by decide +kernel⟩
theorem wit_Decode_latency : ∃ (f : Fields) (sp : ISpec), ispec (.add f) = some sp ∧ upperOk sp f = true ∧ sp.subOk = true ∧ f.lat = 15 :=
  ⟨{ frontF 6 with lat := 15 }, _, rfl, by decide, by decide, rfl⟩

/-! ### Scalar instructions -/

theorem wit_IntegerResults_two : ∀ op ∈ intTwoOps, ∃ (f : Fields) (s s1 : State) (v : Vals) (F : Fmt),
    fieldFmt f = some F ∧ FrontRuns (op.1 f) f (some F) s s1 v := by
  intro op ho
  have h := all_of (show intTwoOps.all (fun op => frontOk (op.1 (frontF 5)) (frontF 5) (some .int32) two9 anyOk) = true by decide +kernel) op ho
  obtain ⟨s1, v, hr, -⟩ := frontRuns_of h
  exact ⟨_, two9, s1, v, .int32, rfl, hr⟩
def oneF (fmt : BitVec 5) : Fields := { lat := 14, fmt := fmt, d := .s 5, a := .s 6 }
theorem wit_IntegerResults_one : ∀ op ∈ intOneOps, ∃ (f : Fields) (s s1 : State) (v : Vals) (F : Fmt),
    fieldFmt f = some F ∧ FrontRuns (op.1 f) f (some F) s s1 v := by
  intro op ho
  have h := all_of (show intOneOps.all (fun op => frontOk (op.1 (oneF 10)) (oneF 10) (some .uint32) two9 anyOk) = true by decide +kernel) op ho
  obtain ⟨s1, v, hr, -⟩ := frontRuns_of h
  exact ⟨_, two9, s1, v, .uint32, rfl, hr⟩
/-- One instruction whose format its fields give. -/
theorem run1 {i : Instr} {f : Fields} {F : Fmt} {s : State} (h : frontOk i f (some F) s anyOk = true) (hf : fieldFmt f = some F) :
    ∃ (s s1 : State) (v : Vals) (F : Fmt), fieldFmt f = some F ∧ FrontRuns i f (some F) s s1 v := by
  obtain ⟨s1, v, hr, -⟩ := frontRuns_of h
  exact ⟨s, s1, v, F, hf, hr⟩
/-- One instruction whose immediates take the format `fmt`. -/
theorem run0 {i : Instr} {f : Fields} {fmt : Option Fmt} {s : State} (p : State → Vals → Bool) (h : frontOk i f fmt s p = true) :
    ∃ (s s1 : State) (v : Vals), FrontRuns i f fmt s s1 v ∧ p s1 v = true := by
  obtain ⟨s1, v, hr, hp⟩ := frontRuns_of h
  exact ⟨s, s1, v, hr, hp⟩
theorem wit_IntegerResults_bswap : ∃ (f : Fields) (s s1 : State) (v : Vals) (F : Fmt), fieldFmt f = some F ∧ FrontRuns (.bswap f) f (some F) s s1 v :=
  ⟨oneF 6, run1 (F := .int64) (s := two9) (by decide +kernel) rfl⟩
theorem wit_Select_sel : ∃ (f : Fields) (s s1 : State) (v : Vals) (F : Fmt), fieldFmt f = some F ∧ FrontRuns (.sel f) f (some F) s s1 v :=
  ⟨{ frontF 6 with c := .p 1 }, run1 (F := .int64) (s := two9) (by decide +kernel) rfl⟩
theorem wit_Select_movK : ∃ (f : Fields) (s s1 : State) (v : Vals), FrontRuns (.movK f) f none s s1 v ∧ true = true :=
  ⟨{ lat := 14, fmt := 11, d := .s 5, a := .i 0xBEEF, sub := 3 }, run0 (s := two9) anyOk (by decide +kernel)⟩
theorem wit_Select_cmp : ∃ (f : Fields) (s s1 : State) (v : Vals) (F : Fmt), fieldFmt f = some F ∧ FrontRuns (.cmp f) f (some F) s s1 v :=
  ⟨{ cmpF with d := .p 1, sub := 9 }, run1 (F := .int64) (s := two9) (by decide +kernel) rfl⟩
theorem wit_Select_lea : ∃ (f : Fields) (s s1 : State) (v : Vals), FrontRuns (.lea f) f (fieldFmt f) s s1 v ∧ true = true :=
  ⟨{ frontF 6 with sub := 6 }, run0 (s := two9) anyOk (by decide +kernel)⟩
def predF : Fields := { lat := 14, d := .p 1, a := .p 2, b := .p 7 }
theorem wit_Select_pand : ∃ (f : Fields) (s s1 : State) (v : Vals), FrontRuns (.pand f) f none s s1 v ∧ true = true := ⟨predF, run0 (s := two9) anyOk (by decide +kernel)⟩
theorem wit_Select_por : ∃ (f : Fields) (s s1 : State) (v : Vals), FrontRuns (.por f) f none s s1 v ∧ true = true := ⟨predF, run0 (s := two9) anyOk (by decide +kernel)⟩
theorem wit_Select_pxor : ∃ (f : Fields) (s s1 : State) (v : Vals), FrontRuns (.pxor f) f none s s1 v ∧ true = true := ⟨predF, run0 (s := two9) anyOk (by decide +kernel)⟩
theorem wit_Select_pnot : ∃ (f : Fields) (s s1 : State) (v : Vals), FrontRuns (.pnot f) f none s s1 v ∧ true = true :=
  ⟨{ predF with b := .none }, run0 (s := two9) anyOk (by decide +kernel)⟩
theorem wit_Float_sfadd : ∃ (f : Fields) (s s1 : State) (v : Vals) (F : Fmt), fieldFmt f = some F ∧ FrontRuns (.sfadd f) f (some F) s s1 v :=
  ⟨frontF 16, run1 (F := .fp32) (s := two9) (by decide +kernel) rfl⟩
theorem wit_Float_sfmul : ∃ (f : Fields) (s s1 : State) (v : Vals) (F : Fmt), fieldFmt f = some F ∧ FrontRuns (.sfmul f) f (some F) s s1 v :=
  ⟨frontF 17, run1 (F := .fp16) (s := two9) (by decide +kernel) rfl⟩
theorem wit_Float_sffma : ∃ (f : Fields) (s s1 : State) (v : Vals) (F : Fmt), fieldFmt f = some F ∧ FrontRuns (.sffma f) f (some F) s s1 v :=
  ⟨{ frontF 18 with c := .s 6, flags := 5 }, run1 (F := .bf16) (s := two9) (by decide +kernel) rfl⟩
theorem wit_Float_sfcvt : ∃ (f : Fields) (s s1 : State) (v : Vals) (F G : Fmt), fieldFmt f = some F ∧ subFmt f = some G ∧ FrontRuns (.sfcvt f) f (some F) s s1 v := by
  obtain ⟨s1, v, h, -⟩ := frontRuns_of (show frontOk (.sfcvt { oneF 5 with sub := 16 }) { oneF 5 with sub := 16 } (some .int32) two9 anyOk = true by decide +kernel)
  exact ⟨_, two9, s1, v, .int32, .fp32, rfl, rfl, h⟩
theorem wit_Float_sfcmp : ∃ (f : Fields) (s s1 : State) (v : Vals) (F : Fmt), fieldFmt f = some F ∧ FrontRuns (.sfcmp f) f (some F) s s1 v :=
  ⟨{ frontF 16 with d := .p 1, sub := 4 }, run1 (F := .fp32) (s := two9) (by decide +kernel) rfl⟩

/-! ### Control -/

theorem wit_Control_jmp : ∃ (f : Fields) (s s1 : State) (v : Vals), FrontRuns (.jmp f) f none s s1 v ∧ true = true :=
  ⟨{ e := .off 0x80000 }, run0 (s := two9) anyOk (by decide +kernel)⟩
theorem wit_Control_br : ∃ (f : Fields) (s s1 : State) (v : Vals) (F : Fmt), fieldFmt f = some F ∧ FrontRuns (.br f) f (some F) s s1 v :=
  ⟨{ fmt := 6, a := .s 6, b := .s 7, e := .off 0x7FFFF, sub := 3 }, run1 (F := .int64) (s := two9) (by decide +kernel) rfl⟩
theorem wit_Control_jidx : ∃ (f : Fields) (s s1 : State) (v : Vals), FrontRuns (.jidx f) f (fieldFmt f) s s1 v ∧ true = true :=
  ⟨{ fmt := 6, a := .s 6, b := .i 0xFFFF }, run0 (s := two9) anyOk (by decide +kernel)⟩
theorem wit_Control_call : ∃ (f : Fields) (s s1 : State) (v : Vals), FrontRuns (.call f) f none s s1 v ∧ true = true :=
  ⟨{ lat := 14, d := .s 5, e := .off 3 }, run0 (s := two9) anyOk (by decide +kernel)⟩
theorem wit_Control_ret : ∃ (f : Fields) (s s1 : State) (v : Vals), FrontRuns (.ret f) f none s s1 v ∧ true = true :=
  ⟨{ a := .s 6 }, run0 (s := two9) anyOk (by decide +kernel)⟩
/-- LOOP at each of its three cases. -/
def loopF : Fields := { lat := 14, d := .s 6, e := .off 0xFFFFF }
theorem wit_Control_loop_0 : ∃ (f : Fields) (s s1 : State) (v : Vals), FrontRuns (.loop f) f none s s1 v ∧ (v.d == 0) = true :=
  ⟨loopF, run0 (s := front (regs [])) (fun _ v => v.d == 0) (by decide +kernel)⟩
theorem wit_Control_loop_1 : ∃ (f : Fields) (s s1 : State) (v : Vals), FrontRuns (.loop f) f none s s1 v ∧ (v.d == 1) = true :=
  ⟨loopF, run0 (s := front (regs [(6, 1)])) (fun _ v => v.d == 1) (by decide +kernel)⟩
theorem wit_Control_loop_2 : ∃ (f : Fields) (s s1 : State) (v : Vals), FrontRuns (.loop f) f none s s1 v ∧ (v.d == 2) = true :=
  ⟨loopF, run0 (s := front (regs [(6, 2)])) (fun _ v => v.d == 2) (by decide +kernel)⟩
theorem wit_Control_nop : ∃ (f : Fields) (s s1 : State) (v : Vals), FrontRuns (.nop f) f none s s1 v ∧ true = true := ⟨{}, run0 (s := two9) anyOk (by decide +kernel)⟩
theorem wit_Control_yield : ∃ (f : Fields) (s s1 : State) (v : Vals), FrontRuns (.yield f) f none s s1 v ∧ true = true := ⟨{}, run0 (s := two9) anyOk (by decide +kernel)⟩
theorem wit_Control_halt : ∃ (f : Fields) (s s1 : State) (v : Vals), FrontRuns (.halt f) f none s s1 v ∧ true = true := ⟨{}, run0 (s := two9) anyOk (by decide +kernel)⟩

/-! ### System registers -/

theorem wit_System_csrr : ∃ (f : Fields) (s s1 : State) (v : Vals), FrontRuns (.csrr f) f none s s1 v ∧ (v.a == 0x061) = true :=
  ⟨{ lat := 14, d := .s 5, a := .y 0x061 }, run0 (s := two9) (fun _ v => v.a == 0x061) (by decide +kernel)⟩
def csrwF (n : BitVec 12) : Fields := { fmt := 11, d := .y n, a := .s 6 }
theorem csrw_runs (n : BitVec 12) (x : Word) (p : Vals → Bool)
    (h : frontOk (.csrw (csrwF n)) (csrwF n) (fieldFmt (csrwF n)) (front (regs [(6, x)])) (fun _ v => p v) = true) :
    ∃ (f : Fields) (s s1 : State) (v : Vals), f.d = .y n ∧ FrontRuns (.csrw f) f (fieldFmt f) s s1 v ∧ p v = true := by
  obtain ⟨s1, v, hr, hp⟩ := frontRuns_of h
  exact ⟨csrwF n, _, s1, v, rfl, hr, hp⟩
theorem wit_System_csrw_shp : ∃ (f : Fields) (s s1 : State) (v : Vals), f.d = .y 0x000 ∧ FrontRuns (.csrw f) f (fieldFmt f) s s1 v ∧ shapeOk (fld v.a 0 7) (fld v.a 8 8 + 1) (fld v.a 16 5) = true :=
  csrw_runs 0x000 0x50F10 (fun v => shapeOk (fld v.a 0 7) (fld v.a 8 8 + 1) (fld v.a 16 5)) (by decide +kernel)
theorem wit_System_csrw_flg : ∃ (f : Fields) (s s1 : State) (v : Vals), f.d = .y 0x001 ∧ FrontRuns (.csrw f) f (fieldFmt f) s s1 v ∧ true = true :=
  csrw_runs 0x001 0x3F (fun _ => true) (by decide +kernel)
theorem wit_System_csrw_rmode : ∃ (f : Fields) (s s1 : State) (v : Vals), f.d = .y 0x002 ∧ FrontRuns (.csrw f) f (fieldFmt f) s s1 v ∧ decide ((v.a.setWidth 3).toNat < 5) = true :=
  csrw_runs 0x002 4 (fun v => decide ((v.a.setWidth 3).toNat < 5)) (by decide +kernel)
theorem wit_System_csrw_uiv : ∃ (f : Fields) (s s1 : State) (v : Vals), f.d = .y 0x050 ∧ FrontRuns (.csrw f) f (fieldFmt f) s s1 v ∧ true = true :=
  csrw_runs 0x050 9 (fun _ => true) (by decide +kernel)
theorem wit_System_csrw_uis : ∃ (f : Fields) (s s1 : State) (v : Vals), f.d = .y 0x051 ∧ FrontRuns (.csrw f) f (fieldFmt f) s s1 v ∧ true = true :=
  csrw_runs 0x051 0x10F0F (fun _ => true) (by decide +kernel)
theorem wit_System_csrw_cwb0 : ∃ (f : Fields) (s s1 : State) (v : Vals), f.d = .y 0x070 ∧ FrontRuns (.csrw f) f (fieldFmt f) s s1 v ∧ true = true :=
  csrw_runs 0x070 1 (fun _ => true) (by decide +kernel)
theorem wit_System_csrw_cwb7 : ∃ (f : Fields) (s s1 : State) (v : Vals), f.d = .y 0x077 ∧ FrontRuns (.csrw f) f (fieldFmt f) s s1 v ∧ true = true :=
  csrw_runs 0x077 1 (fun _ => true) (by decide +kernel)
theorem wit_System_csrw_readonly : [0x010#12, 0x011, 0x012, 0x013, 0x014, 0x015, 0x020, 0x021, 0x022, 0x030, 0x031, 0x040, 0x041, 0x060, 0x061, 0x062].all
    (fun n => frontOk (.csrw (csrwF n)) (csrwF n) (fieldFmt (csrwF n)) two9 anyOk) = true := by decide +kernel
theorem wit_System_vshp : ∃ (f : Fields) (s s1 : State) (v : Vals), FrontRuns (.vshp f) f none s s1 v ∧ shapeOk v.a.toNat v.b.toNat f.fmt.toNat = true :=
  ⟨{ fmt := 16, a := .i 64, b := .i 64 }, run0 (s := two9) (fun _ v => shapeOk v.a.toNat v.b.toNat 16) (by decide +kernel)⟩
theorem wit_System_dlget : [0#5, 1, 2].all (fun k => frontOk (.dlget { lat := 14, d := .s 5, sub := k }) { lat := 14, d := .s 5, sub := k } none two9 anyOk) = true := by
  decide +kernel
theorem wit_System_wuset : ∃ (f : Fields) (s s1 : State) (v : Vals), FrontRuns (.wuset f) f none s s1 v ∧ true = true :=
  ⟨{ a := .s 6, b := .s 7 }, run0 (s := two9) anyOk (by decide +kernel)⟩
def dlarmF : Fields := { lat := 14, d := .p 1, a := .s 6 }
/-- A strand with a launch deadline 100 ns ahead of the device time. -/
def deadline100 : Strand := { regs [(6, 9)] with dlns := 0, dlnn := 100 }
theorem wit_System_dlarm_wrap : ∃ (f : Fields) (s s1 : State) (v : Vals), FrontRuns (.dlarm f) f none s s1 v ∧ (s1.me.st == .wrap) = true :=
  ⟨dlarmF, run0 (s := front { regs [] with st := .wrap }) (fun s1 _ => s1.me.st == .wrap) (by decide +kernel)⟩
theorem wit_System_dlarm_off : ∃ (f : Fields) (s s1 : State) (v : Vals), FrontRuns (.dlarm f) f none s s1 v ∧ (s1.me.st != .wrap && v.a == 0) = true :=
  ⟨dlarmF, run0 (s := front (regs [])) (fun s1 v => s1.me.st != .wrap && v.a == 0) (by decide +kernel)⟩
theorem wit_System_dlarm_armed : ∃ (f : Fields) (s s1 : State) (v : Vals), FrontRuns (.dlarm f) f none s s1 v ∧
    (s1.me.st != .wrap && v.a != 0 && s1.me.launchDeadline.any (fun d => s1.time + v.a.toNat < d)) = true :=
  ⟨dlarmF, run0 (s := front deadline100) (fun s1 v => s1.me.st != .wrap && v.a != 0 && s1.me.launchDeadline.any (fun d => s1.time + v.a.toNat < d)) (by decide +kernel)⟩
theorem wit_System_dlarm_refused : ∃ (f : Fields) (s s1 : State) (v : Vals), FrontRuns (.dlarm f) f none s s1 v ∧
    (s1.me.st != .wrap && v.a != 0 && s1.me.launchDeadline.any (fun d => d ≤ s1.time + v.a.toNat)) = true :=
  ⟨dlarmF, run0 (s := front { deadline100 with s := [(6, 100)] }) (fun s1 v => s1.me.st != .wrap && v.a != 0 && s1.me.launchDeadline.any (fun d => d ≤ s1.time + v.a.toNat))
    (by decide +kernel)⟩
theorem wit_System_uien : ∃ (f : Fields) (s s1 : State) (v : Vals), FrontRuns (.uien f) f none s s1 v ∧ true = true :=
  ⟨{ a := .i 1 }, run0 (s := two9) anyOk (by decide +kernel)⟩
theorem wit_System_uimask : ∃ (f : Fields) (s s1 : State) (v : Vals), FrontRuns (.uimask f) f none s s1 v ∧ true = true :=
  ⟨{ a := .i 15, sub := 2 }, run0 (s := two9) anyOk (by decide +kernel)⟩
theorem wit_System_uiret : ∃ (f : Fields) (s s1 : State) (v : Vals), FrontRuns (.uiret f) f none s s1 v ∧ s1.me.uisInh = true :=
  ⟨{}, run0 (s := front { regs [] with uisInh := true }) (fun s1 _ => s1.me.uisInh) (by decide +kernel)⟩

/-! ### TRAP, SYSCALL, ERET, WFE, TLBI -/

def trapF : Fields := { fmt := 10, a := .i 0x51 }
theorem wit_System_trap : ∃ (f : Fields) (s s1 : State) (v : Vals), FrontRuns (.trap f) f (fieldFmt f) s s1 v ∧ true = true :=
  ⟨trapF, run0 (s := two9) anyOk (by decide +kernel)⟩
theorem wit_System_syscall : ∃ (f : Fields) (s s1 : State) (v : Vals), FrontRuns (.syscall f) f (fieldFmt f) s s1 v ∧ s1.passed.drained s1.cur = true :=
  ⟨trapF, run0 (s := two9) (fun s1 _ => s1.passed.drained s1.cur) (by decide +kernel)⟩
/-- A load before it is still to deliver. -/
theorem wit_System_syscall_waits : ∃ (f : Fields) (s s1 : State) (v : Vals), FrontRuns (.syscall f) f (fieldFmt f) s s1 v ∧ (!(s1.passed.drained s1.cur)) = true :=
  ⟨trapF, run0 (s := front { regs [] with flight := [{ pos := 0, ring := 0, stream := some .L, seq := 0, endsAt := none, dsts := [.s 9], flags := 0, tk := 0 }] })
    (fun s1 _ => !(s1.passed.drained s1.cur)) (by decide +kernel)⟩
/-- Strand 4, stopped with two heads, of which that of L is marked cancelled in its save record. -/
def cancelled : State :=
  let s := (front (regs [(6, 4), (7, 99)])).setStrand 4 { st := .stop, trapped := [engOf .L, engOf .S]
                                                          lq := [entry (.lds { d := .s 5 }) 0 0 0 0], sq := [{ entry (.sts {}) 0 0 0 0 with seq := 5 }] }
  let s1 : State := { s with binds := tabPut s.binds 4 { tabGet s.binds {} 4 with ssave := 0x2000000 } }
  s1.writeMem (.device .service) false .il (0x2000000 + saveHead .L + 20) [1]
theorem wit_System_eret_cancels : (match exec (.eret eretF) cancelled with
  | .next t => frontOk (.eret eretF) eretF (fieldFmt eretF) cancelled (fun s1 v => v.a == 4 && (s1.strand 4).st == .stop && s1.marked 4 (engOf .L) &&
      !(s1.marked 4 (engOf .C)) && !(s1.marked 4 (engOf .S)) && (s1.strand 4).lq.length == 1) && (t.strand 4).pc == 99 && (t.strand 4).lq.isEmpty &&
      (t.strand 4).sq.length == 1
  | _ => false) = true := by decide +kernel
theorem wit_System_eret_resumes : ∃ (f : Fields) (s s1 : State) (v : Vals), FrontRuns (.eret f) f (fieldFmt f) s s1 v ∧
    (decide (v.a.toNat < 256) && (s1.passed.strand v.a.toNat).st == .stop) = true :=
  ⟨eretF, run0 (s := (front (regs [(6, 255)])).setStrand 255 { st := .stop }) (fun s1 v => decide (v.a.toNat < 256) && (s1.passed.strand v.a.toNat).st == .stop)
    (by decide +kernel)⟩
theorem wit_System_eret_none : ∃ (f : Fields) (s s1 : State) (v : Vals), FrontRuns (.eret f) f (fieldFmt f) s s1 v ∧ decide (v.a.toNat ≥ 256) = true :=
  ⟨eretF, run0 (s := front (regs [(6, 256)])) (fun _ v => decide (v.a.toNat ≥ 256)) (by decide +kernel)⟩
def wfeF : Fields := { lat := 3, fmt := 10, d := .p 1, a := .i 0 }
theorem wit_System_wfe_event : ∃ (f : Fields) (s s1 : State) (v : Vals), FrontRuns (.wfe f) f (fieldFmt f) s s1 v ∧ s1.me.event = true :=
  ⟨wfeF, run0 (s := front { regs [] with event := true }) (fun s1 _ => s1.me.event) (by decide +kernel)⟩
theorem wit_System_wfe_waits : ∃ (f : Fields) (s s1 : State) (v : Vals), FrontRuns (.wfe f) f (fieldFmt f) s s1 v ∧ (!s1.me.event) = true :=
  ⟨wfeF, run0 (s := two9) (fun s1 _ => !s1.me.event) (by decide +kernel)⟩
theorem wit_System_tlbi : [(0#5, Operand.none), (1, .s 6), (2, .h 3), (3, .none)].all (fun x =>
    let f : Fields := { scp := 4, a := x.2, sub := x.1 }
    frontOk (.tlbi f) f none two9 (fun s1 _ => s1.quads.all (fun x => x.2.q.all (fun c => c.outs.isEmpty && c.furl.isEmpty)))) = true := by decide +kernel

/-! ### Entering a queue -/

def handlesOk (i : Instr) (f : Fields) (s : State) : Bool := (ispec i).isSome && frontTakes i f s && okOr (s.readHandles s.cur (handlesOf i f)) (fun _ => true)
theorem handles_of {i : Instr} {f : Fields} {s : State} (h : handlesOk i f s = true) : ∃ (s1 : State) (sp : ISpec) (hs : Tab (BitVec 512)),
    ispec i = some sp ∧ frontTakes i f s = true ∧ s.readHandles s.cur (handlesOf i f) = .ok (s1, hs) := by
  simp only [handlesOk, Bool.and_eq_true] at h
  obtain ⟨sp, hsp⟩ := Option.isSome_iff_exists.1 h.1.1
  obtain ⟨⟨s1, hs⟩, hh, -⟩ := okOr_iff h.2
  exact ⟨s1, sp, hs, hsp, h.1.2, hh⟩
/-- Strand 0 with a handle table at the data page. -/
def handled : State := front { regs [(6, dataVa)] with htb := dataVa }
theorem wit_Queues_load : ∃ (f : Fields) (s s1 : State) (sp : ISpec) (hs : Tab (BitVec 512)),
    ispec (.lds f) = some sp ∧ frontTakes (.lds f) f s = true ∧ s.readHandles s.cur (handlesOf (.lds f) f) = .ok (s1, hs) :=
  ⟨{ lat := 15, fmt := 6, d := .s 5, a := .s 6, b := .i 8 }, handled, handles_of (by decide +kernel)⟩
theorem wit_Queues_both : ∃ (f : Fields) (s s1 : State) (sp : ISpec) (hs : Tab (BitVec 512)),
    ispec (.fence f) = some sp ∧ frontTakes (.fence f) f s = true ∧ s.readHandles s.cur (handlesOf (.fence f) f) = .ok (s1, hs) :=
  ⟨{ scp := 4, sub := 1 }, handled, handles_of (by decide +kernel)⟩
theorem wit_Queues_handle : ∃ (f : Fields) (s s1 : State) (sp : ISpec) (hs : Tab (BitVec 512)),
    ispec (.cpy f) = some sp ∧ frontTakes (.cpy f) f s = true ∧ s.readHandles s.cur (handlesOf (.cpy f) f) = .ok (s1, hs) :=
  ⟨{ a := .h 1023, b := .i 0 }, handled, handles_of (by decide +kernel)⟩

end Sys2Proof.Tests
end

