-- ==== Sys2Proof/Tests/Witness2.lean ====
section
/-! SUPPORT. Witnesses for the statements about waits, tokens, records of local memory, loads, stores, atomics and ordering. -/

set_option Elab.async false

namespace Sys2Proof.Tests

open Sys2Proof.Machine Sys2Proof.Claims

/-! ### Records in local memory -/

/-- A handle of the local memory, bytes from its start, readable and writable. -/
def lmHandle : BitVec 512 := BitVec.ofNat 512 (1 + 64 + 128 + 2 * 2 ^ 12 + 4096 * 2 ^ 128 + 65536 * 2 ^ 448)
/-- Operands on the record at byte 64 of local memory. -/
def recF : Fields := { lat := 15, fmt := 10, scp := 1, d := .s 5, a := .h 3, b := .s 6, e := .i 2 }
/-- An entry with the handle sampled and B = 64, E = `x`. -/
def recE (i : Instr) (x : Word) : QEntry := { entry i 0 64 0 x with handles := [(3, lmHandle)] }
/-- A core whose record at byte 64 holds `n` bytes of value `v`, and whose word 16 is full where `full`. -/
def withRec (n v : Nat) (full : Bool) : State := ((bench.lmPut 0 64 n v).setFull 0 16 full)
def recOk (i : Instr) (f : Fields) (q : Queue) (x : Word) (size lo n : Nat) (rd wr : Bool) (s : State) (p : State → Nat → Nat → Bool) : Bool :=
  headOk i f q (recE i x) (atHead s q (recE i x)) && lmReadsOk f (recE i x) size lo n rd wr (atHead s q (recE i x)) p
/-- What the statements about records assume. -/
def RecWit (i : Fields → Instr) (size lo n : Nat) (rd wr : Bool) (p : Fields → QEntry → State → Nat → Nat → Bool) : Prop :=
  ∃ (f : Fields) (q : Queue) (sp : ISpec) (e : QEntry) (s s1 : State) (core off : Nat), headTakes (i f) f q sp e s = true ∧
    LmReads f e size lo n rd wr s s1 core off ∧ p f e s1 core off = true
theorem rec_of {i : Fields → Instr} {f : Fields} {q : Queue} {x : Word} {size lo n : Nat} {rd wr : Bool} {s : State}
    {p : Fields → QEntry → State → Nat → Nat → Bool}
    (h : recOk (i f) f q x size lo n rd wr s (p f (recE (i f) x)) = true) : RecWit i size lo n rd wr p := by
  simp only [recOk, Bool.and_eq_true] at h
  obtain ⟨sp, hs⟩ := head_of h.1
  obtain ⟨s1, c, o, hl, hp⟩ := lmReads_of h.2
  exact ⟨f, q, sp, _, _, s1, c, o, hs, hl, hp⟩

theorem wit_Waits_ldfe : RecWit .ldfe 4 0 4 true false (fun f _ s1 core off => !(s1.isFull core (off / 4)) && f.flags == 0) :=
  rec_of (f := { recF with fmt := 0, e := .none }) (q := .L) (x := 0) (s := withRec 4 7 false) (by decide +kernel)
theorem wit_FullEmpty_ldfe : RecWit .ldfe 4 0 4 true false (fun _ _ s1 core off => s1.isFull core (off / 4)) :=
  rec_of (f := { recF with fmt := 0, e := .none }) (q := .L) (x := 0) (s := withRec 4 7 true) (by decide +kernel)
theorem wit_FullEmpty_stff : RecWit .stff 4 0 4 false true (fun _ _ s1 core off => !(s1.isFull core (off / 4))) :=
  rec_of (f := { recF with lat := 0, d := .none }) (q := .S) (x := 9) (s := withRec 4 7 false) (by decide +kernel)
theorem wit_FullEmpty_feq : RecWit .feq 4 0 4 true false (fun _ _ _ _ _ => true) :=
  rec_of (f := { recF with fmt := 0, scp := 0, d := .p 1, e := .none }) (q := .L) (x := 0) (s := bench) (by decide +kernel)
theorem wit_FullEmpty_feset : RecWit .feset 4 0 0 false true (fun _ _ _ _ _ => true) :=
  rec_of (f := { recF with lat := 0, fmt := 0, scp := 0, d := .none, e := .none, sub := 1 }) (q := .S) (x := 0) (s := bench) (by decide +kernel)
def semF : Fields := { recF with lat := 0, d := .none }
theorem wit_Waits_semwait : RecWit .semwait 4 0 4 true true (fun f e s1 core off => decide (s1.lmWord core off < lowE f e)) :=
  rec_of (f := semF) (q := .L) (x := 2) (s := withRec 4 1 false) (by decide +kernel)
theorem wit_FullEmpty_semwait : RecWit .semwait 4 0 4 true true (fun f e s1 core off => decide (lowE f e ≤ s1.lmWord core off)) :=
  rec_of (f := semF) (q := .L) (x := 2) (s := withRec 4 2 false) (by decide +kernel)
theorem wit_FullEmpty_sempost : RecWit .sempost 4 0 4 true true (fun _ _ _ _ _ => true) :=
  rec_of (f := semF) (q := .S) (x := 2) (s := withRec 4 0xFFFFFFFF false) (by decide +kernel)

/-- A ring of two slots: their states, and the counts. -/
def ring (st0 st1 : Nat) : Nat :=
  4096 + 15 * 2 ^ 32 + 2 ^ 48 + (if st0 = 0 then 1 else 0) * 2 ^ 64 + (if st0 = 2 then 1 else 0) * 2 ^ 96 + st0 * 2 ^ 192 + st1 * 2 ^ 194
def ringF : Fields := { recF with fmt := 0 }
theorem wit_Rings_sracq : RecWit .sracq 64 0 64 true true (fun _ _ s1 core off =>
    let r := s1.lmRecord core off 64
    !(srBad r) && srState r (fld r 128 32 % srN r) == 0) :=
  rec_of (f := { ringF with e := .none }) (q := .L) (x := 0) (s := withRec 64 (ring 0 0) false) (by decide +kernel)
theorem wit_Waits_sracq : RecWit .sracq 64 0 64 true true (fun _ _ s1 core off =>
    let r := s1.lmRecord core off 64
    !(srBad r) && srState r (fld r 128 32 % srN r) != 0) :=
  rec_of (f := { ringF with e := .none }) (q := .L) (x := 0) (s := withRec 64 (ring 1 0) false) (by decide +kernel)
theorem wit_Rings_srpub : RecWit .srpub 64 0 64 true true (fun _ e s1 core off =>
    let r := s1.lmRecord core off 64
    !(srBad r) && decide (e.e.toNat < srN r) && srState r e.e.toNat == 1) :=
  rec_of (f := { ringF with lat := 0, d := .none }) (q := .S) (x := 1) (s := withRec 64 (ring 0 1) false) (by decide +kernel)
theorem wit_Rings_srtake : RecWit .srtake 64 0 64 true true (fun _ _ s1 core off =>
    let r := s1.lmRecord core off 64
    !(srBad r) && srState r (fld r 160 32 % srN r) == 2) :=
  rec_of (f := { ringF with e := .none }) (q := .L) (x := 0) (s := withRec 64 (ring 2 0) false) (by decide +kernel)
theorem wit_Waits_srtake : RecWit .srtake 64 0 64 true true (fun _ _ s1 core off =>
    let r := s1.lmRecord core off 64
    !(srBad r) && srState r (fld r 160 32 % srN r) != 2) :=
  rec_of (f := { ringF with e := .none }) (q := .L) (x := 0) (s := withRec 64 (ring 0 0) false) (by decide +kernel)
theorem wit_Rings_srrel : RecWit .srrel 64 0 64 true true (fun _ e s1 core off =>
    let r := s1.lmRecord core off 64
    !(srBad r) && decide (e.e.toNat < srN r) && srState r e.e.toNat == 3) :=
  rec_of (f := { ringF with lat := 0, d := .none }) (q := .S) (x := 1) (s := withRec 64 (ring 2 3) false) (by decide +kernel)

/-- A barrier of two: the arrivals and the phase. -/
def barrier (arr phase : Nat) : Nat := 2 + arr * 2 ^ 32 + phase * 2 ^ 128
def barF : Fields := { recF with lat := 0, fmt := 0, scp := 0, d := .none }
theorem wit_Bar_init : RecWit .barinit 32 8 8 false true (fun _ e s1 core off =>
    barPend (s1.lmRecord core off 32) == 0 && e.e.setWidth 32 != 0) :=
  rec_of (f := barF) (q := .S) (x := 2) (s := bench) (by decide +kernel)
theorem wit_Bar_arr : RecWit .bararr 32 0 20 true true (fun _ _ s1 core off =>
    let r := s1.lmRecord core off 32
    barArr r != barExpect r) :=
  rec_of (f := { barF with lat := 15, d := .s 5, e := .none }) (q := .S) (x := 0) (s := withRec 32 (barrier 1 5) false) (by decide +kernel)
theorem wit_Waits_bararr : RecWit .bararr 32 0 20 true true (fun _ _ s1 core off =>
    barArr (s1.lmRecord core off 32) == barExpect (s1.lmRecord core off 32)) :=
  rec_of (f := { barF with lat := 15, d := .s 5, e := .none }) (q := .S) (x := 0) (s := withRec 32 (barrier 2 5) false) (by decide +kernel)
theorem wit_Bar_exp : RecWit .barexp 32 0 20 true true (fun _ _ _ _ _ => true) :=
  rec_of (f := barF) (q := .S) (x := 512) (s := withRec 32 (barrier 1 5) false) (by decide +kernel)
theorem wit_Waits_barwait : RecWit .barwait 32 16 4 true false (fun _ e s1 core off =>
    barPhase (s1.lmRecord core off 32) == (e.e.setWidth 32).toNat) :=
  rec_of (f := barF) (q := .L) (x := 5) (s := withRec 32 (barrier 1 5) false) (by decide +kernel)
theorem wit_Bar_wait : RecWit .barwait 32 16 4 true false (fun _ e s1 core off =>
    barPhase (s1.lmRecord core off 32) != (e.e.setWidth 32).toNat) :=
  rec_of (f := barF) (q := .L) (x := 4) (s := withRec 32 (barrier 1 5) false) (by decide +kernel)
theorem wit_Bar_test_true : RecWit .bartest 32 16 4 true false (fun _ e s1 core off =>
    barPhase (s1.lmRecord core off 32) != (e.e.setWidth 32).toNat) :=
  rec_of (f := { barF with lat := 15, d := .p 1 }) (q := .L) (x := 4) (s := withRec 32 (barrier 1 5) false) (by decide +kernel)
theorem wit_Bar_test_false : RecWit .bartest 32 16 4 true false (fun _ e s1 core off =>
    barPhase (s1.lmRecord core off 32) == (e.e.setWidth 32).toNat) :=
  rec_of (f := { barF with lat := 15, d := .p 1 }) (q := .L) (x := 5) (s := withRec 32 (barrier 1 5) false) (by decide +kernel)

/-! ### Tokens -/

theorem wit_Tokens_notReady : ∃ (i : Instr) (f : Fields) (q : Queue) (e : QEntry) (r : List QEntry) (s : State), instrFields i = some f ∧
    (∃ sp, ispec i = some sp ∧ sp.route ≠ .f) ∧ s.acting = .queue q ∧ s.me.queue q = e :: r ∧ s.me.tokensReady q f.tk = false :=
  ⟨.mgo { tk := 8 }, _, .C, entry (.mgo { tk := 8 }) 0 0 0 0, _, atHead bench .C (entry (.mgo { tk := 8 }) 0 0 0 0), rfl, ⟨_, rfl, by decide⟩, rfl, rfl,
    by decide +kernel⟩
theorem wit_Tokens_room : ∃ t : Strand, t.tlc < 8 ∧ t.tcl < 8 ∧ t.tcs < 8 ∧ t.tsc < 8 := ⟨{ tlc := 7, tcl := 7, tcs := 7, tsc := 7 }, by decide⟩
theorem wit_Tokens_full : ∃ t : Strand, 8 ≤ t.tlc ∧ 8 ≤ t.tcl ∧ 8 ≤ t.tcs ∧ 8 ≤ t.tsc := ⟨{ tlc := 8, tcl := 8, tcs := 8, tsc := 8 }, by decide⟩

/-! ### Loads and stores by address -/

/-- The instruction is at the head with A = `va`, and its access has a place. -/
def accOk (i : Instr) (f : Fields) (q : Queue) (va c : Word) (n align : Nat) (acc : Acc) (s : State) (p : State → List Piece → Bool) : Bool :=
  headOk i f q (entry i va 0 c 0) (atHead s q (entry i va 0 c 0)) && eaOf f (entry i va 0 c 0) == va &&
  placesOk (atHead s q (entry i va 0 c 0)) va n align acc p
/-- It also reads without poison. -/
def rdOk (i : Instr) (f : Fields) (q : Queue) (va : Word) (n align : Nat) (s : State) (p : State → List Piece → List Byte → Bool) : Bool :=
  headOk i f q (entry i va 0 0 0) (atHead s q (entry i va 0 0 0)) && eaOf f (entry i va 0 0 0) == va &&
  readsOk f (atHead s q (entry i va 0 0 0)) va n align .read p
def LoadWit (i : Fields → Instr) (n align : Nat) (F : Fmt) (more : Fields → QEntry → State → List Byte → Bool) : Prop :=
  ∃ (f : Fields) (q : Queue) (sp : ISpec) (e : QEntry) (s s1 : State) (ps : List Piece) (bs : List Byte), fieldFmt f = some F ∧
    headTakes (i f) f q sp e s = true ∧ Reads f s (eaOf f e) n align .read s1 ps bs ∧ more f e s bs = true
theorem load_of {i : Fields → Instr} {f : Fields} {q : Queue} {va : Word} {n align : Nat} {F : Fmt} {s : State}
    {more : Fields → QEntry → State → List Byte → Bool} (hf : fieldFmt f = some F)
    (h : rdOk (i f) f q va n align s (fun _ _ bs => more f (entry (i f) va 0 0 0) (atHead s q (entry (i f) va 0 0 0)) bs) = true) :
    LoadWit i n align F more := by
  simp only [rdOk, Bool.and_eq_true, beq_iff_eq] at h
  obtain ⟨sp, hs⟩ := head_of h.1.1
  obtain ⟨s1, ps, bs, hr, hp⟩ := reads_of h.2
  exact ⟨f, q, sp, _, _, s1, ps, bs, hf, hs, by rw [h.1.2]; exact hr, hp⟩
def ldF : Fields := { lat := 15, fmt := 2, d := .s 5, a := .s 6, b := .i 0 }
def loaded : State := bench.writeMem (.device .service) false .il 15 [0x80]
theorem wit_Loads_lds : LoadWit .lds 1 1 .int8 (fun _ _ _ bs => bs == [0x80]) := load_of (f := ldF) (q := .L) (va := dataVa + 15) (s := loaded) rfl (by decide +kernel)
theorem wit_Loads_ldq : ∃ (f : Fields) (q : Queue) (sp : ISpec) (e : QEntry) (s s1 : State) (ps : List Piece) (bs : List Byte),
    headTakes (.ldq f) f q sp e s = true ∧ Reads f s (eaOf f e) 16 8 .read s1 ps bs := by
  have h : rdOk (.ldq { ldF with fmt := 0, d := .s 4 }) { ldF with fmt := 0, d := .s 4 } .L (dataVa + 8) 16 8 loaded (fun _ _ _ => true) = true := by decide +kernel
  simp only [rdOk, Bool.and_eq_true, beq_iff_eq] at h
  obtain ⟨sp, hs⟩ := head_of h.1.1
  obtain ⟨s1, ps, bs, hr, -⟩ := reads_of h.2
  exact ⟨_, .L, sp, _, _, s1, ps, bs, hs, by rw [h.1.2]; exact hr⟩
theorem wit_Loads_lda : LoadWit .lda 8 8 .int64 (fun _ _ _ _ => true) :=
  load_of (f := { ldF with fmt := 6, scp := 1 }) (q := .L) (va := dataVa + 8) (s := loaded) rfl (by decide +kernel)
/-- LDB of the byte at `va` on the bench has a place; `t` is the state in which it looks for its region. -/
def ldbOk (f : Fields) (e : QEntry) (s : State) (p : State → List Piece → Bool) : Bool :=
  placesOk s (eaOf f e) 1 1 .read (fun s0 ps => p (ldbState s0 ps) ps)
theorem wit_Loads_ldb_outside : ∃ (f : Fields) (q : Queue) (sp : ISpec) (e : QEntry) (s s0 : State) (ps : List Piece), fieldFmt f = some .int8 ∧
    headTakes (.ldb f) f q sp e s = true ∧ Places s (eaOf f e) 1 1 .read s0 ps ∧ (ldbState s0 ps).regionOf (eaOf f e) = none ∧
    ((ldbState s0 ps).readPieces (ldbState s0 ps).myCore ((ldbState s0 ps).cached (policyOf f.hint 0) ps)).poison = none := by
  let e := entry (.ldb ldF) (dataVa + 15) 0 0 0
  have h0 : headOk (.ldb ldF) ldF .L e (atHead loaded .L e) = true := by decide +kernel
  have h1 : ldbOk ldF e (atHead loaded .L e) (fun t ps => (t.regionOf (eaOf ldF e)).isNone && (t.readPieces t.myCore (t.cached (policyOf ldF.hint 0) ps)).poison.isNone) = true := by decide +kernel
  obtain ⟨sp, hs⟩ := head_of h0
  obtain ⟨s0, ps, hp, hq⟩ := places_of h1
  simp only [Bool.and_eq_true, Option.isNone_iff_eq_none] at hq
  exact ⟨ldF, .L, sp, e, _, s0, ps, rfl, hs, hp, hq.1, hq.2⟩

def StoreWit (i : Fields → Instr) (n align : Nat) : Prop :=
  ∃ (f : Fields) (q : Queue) (sp : ISpec) (e : QEntry) (s s1 : State) (ps : List Piece),
    headTakes (i f) f q sp e s = true ∧ Places s (eaOf f e) n align .write s1 ps
theorem store_of {i : Fields → Instr} {f : Fields} {va c : Word} {n align : Nat} (h : accOk (i f) f .S va c n align .write bench (fun _ _ => true) = true) :
    StoreWit i n align := by
  simp only [accOk, Bool.and_eq_true, beq_iff_eq] at h
  obtain ⟨sp, hs⟩ := head_of h.1.1
  obtain ⟨s1, ps, hr, -⟩ := places_of h.2
  exact ⟨f, .S, sp, _, _, s1, ps, hs, by rw [h.1.2]; exact hr⟩
def stF : Fields := { fmt := 6, a := .s 6, b := .i 0, c := .s 7 }
theorem wit_Stores_sts : fieldFmt stF = some .int64 ∧ StoreWit .sts 8 8 := ⟨rfl, store_of (f := stF) (va := dataVa + 248) (c := 7) (by decide +kernel)⟩
theorem wit_Stores_stq : StoreWit .stq 16 8 := store_of (f := { stF with fmt := 0, c := .s 8 }) (va := dataVa + 248) (c := 7) (by decide +kernel)
theorem wit_Stores_strel : StoreWit .strel 8 8 := store_of (f := { stF with scp := 7 }) (va := dataVa) (c := 7) (by decide +kernel)
theorem wit_Stores_poisonclr : StoreWit .poisonclr 64 64 :=
  store_of (f := { scp := 4, a := .s 6, b := .i 0 }) (va := dataVa + 64) (c := 0) (by decide +kernel)

/-! ### Regions -/

/-- A region table in the data page, with one region of two mebibytes from its start: current round 7. -/
def regional : State :=
  let s := bench.writeMem (.device .service) false .il 1024 (leBytes 16 (3 + dataVa.toNat + 2 ^ 64 + 7 * 2 ^ 96))
  s.setMe { s.me with rrt := dataVa + 1024 }
def radvF : Fields := { scp := 4, a := .i 0 }
theorem wit_Stores_radv : ∃ (f : Fields) (q : Queue) (sp : ISpec) (e : QEntry) (s : State) (ps : List Piece),
    headTakes (.radv f) f q sp e s = true ∧ s.me.rrt ≠ 0 ∧ s.regionPlace s.myCore (regionKey s.me e.a.toNat) = .ok ps ∧
    ((s.takeRegions s.myCore (regionKey s.me e.a.toNat)).readPieces s.myCore ps).poison = none ∧
    regionValid (((s.takeRegions s.myCore (regionKey s.me e.a.toNat)).readPieces s.myCore ps).s.heldRegion s.myCore (regionKey s.me e.a.toNat)) = true ∧
    ((s.takeRegions s.myCore (regionKey s.me e.a.toNat)).readPieces s.myCore ps).s.piecesFate true ps = none := by
  let e := entry (.radv radvF) 0 0 0 0
  let s := atHead regional .S e
  have h : (headOk (.radv radvF) radvF .S e s && s.me.rrt != 0 && okOr (s.regionPlace s.myCore (regionKey s.me e.a.toNat)) (fun ps =>
    let g := (s.takeRegions s.myCore (regionKey s.me e.a.toNat)).readPieces s.myCore ps
    g.poison.isNone && regionValid (g.s.heldRegion s.myCore (regionKey s.me e.a.toNat)) && (g.s.piecesFate true ps).isNone)) = true := by decide +kernel
  simp only [Bool.and_eq_true] at h
  obtain ⟨sp, hs⟩ := head_of h.1.1
  obtain ⟨ps, hp, hq⟩ := okOr_iff h.2
  simp only [Bool.and_eq_true, Option.isNone_iff_eq_none] at hq
  exact ⟨radvF, .S, sp, e, s, ps, hs, by simpa using h.1.2, hp, hq.1.1, hq.1.2, hq.2⟩

/-- LDB at the head, on a line of the region whose stamped copies are `cs`. -/
def bounded (cs : List StampCopy) : State :=
  atHead (regional.modCore 0 (fun c => { c with stamps := cs })) .L (entry (.ldb ldF) (dataVa + 4096) 0 0 0)
/-- The access lies in a region, which LDB finds in the state `ldbState`. -/
def regionHere (s : State) (e : QEntry) (p : State → MemSpace → Nat → Nat → BitVec 128 → Bool) : Bool :=
  placesOk s (eaOf ldF e) 1 1 .read (fun s0 ps => match ps, (ldbState s0 ps).regionOf (eaOf ldF e) with
    | [.mem m off _ size], some (key, ent) => m != .bl && size != 0 && p (ldbState s0 ps) m off key ent
    | _, _ => false)
theorem region_of {s : State} {e : QEntry} {p : State → MemSpace → Nat → Nat → BitVec 128 → Bool} (h : regionHere s e p = true) :
    ∃ (s0 : State) (m : MemSpace) (off n size key : Nat) (ent : BitVec 128), Places s (eaOf ldF e) 1 1 .read s0 [.mem m off n size] ∧
      m ≠ .bl ∧ size ≠ 0 ∧ (ldbState s0 [.mem m off n size]).regionOf (eaOf ldF e) = some (key, ent) ∧
      p (ldbState s0 [.mem m off n size]) m off key ent = true := by
  obtain ⟨s0, ps, hp, hq⟩ := places_of h
  split at hq
  · rename_i m off n size key ent hr
    simp only [Bool.and_eq_true, bne_iff_ne, ne_eq] at hq
    exact ⟨s0, m, off, n, size, key, ent, hp, hq.1.1, hq.1.2, hr, hq.2⟩
  · simp at hq
/-- A copy of the line with stamp 7, the round itself. Whether an evicted copy is still there is free (log 2, DESIGN CHOICE), so the state
meets the hypotheses where the free choice keeps it. -/
theorem wit_Loads_ldb_copy : ∃ (q : Queue) (sp : ISpec) (e : QEntry) (s s0 : State) (m : MemSpace) (off n size key : Nat) (ent : BitVec 128) (c : StampCopy),
    fieldFmt ldF = some .int8 ∧ headTakes (.ldb ldF) ldF q sp e s = true ∧ Places s (eaOf ldF e) 1 1 .read s0 [.mem m off n size] ∧
    m ≠ .bl ∧ size ≠ 0 ∧ policyOf ldF.hint 0 ≠ 3 ∧
    let t := ldbState s0 [.mem m off n size]
    t.regionOf (eaOf ldF e) = some (key, ent) ∧ (m = .il → t.inWindow off = false) ∧
    (Config.freeBool (t.fv + 46) = false → t.stampedCopy (t.l1Core t.myCore off) (lineKey m off) = some c) ∧
    (t.knownRound (t.leadOf t.myCore) key ent - c.stamp).toNat ≤ ldF.sub.toNat := by
  let e := entry (.ldb ldF) (dataVa + 4096) 0 0 0
  let c : StampCopy := ⟨lineKey .il 4096, 0, 7, 0⟩
  have h0 : headOk (.ldb ldF) ldF .L e (bounded [c]) = true := by decide +kernel
  have h1 : regionHere (bounded [c]) e (fun t m off key ent =>
    !(t.inWindow off) && (t.core (t.l1Core t.myCore off)).stamps.find? (fun c => c.line == lineKey m off) == some c &&
    decide ((t.knownRound (t.leadOf t.myCore) key ent - c.stamp).toNat ≤ ldF.sub.toNat)) = true := by decide +kernel
  obtain ⟨sp, hs⟩ := head_of h0
  obtain ⟨s0, m, off, n, size, key, ent, hp, hm, hz, hr, hq⟩ := region_of h1
  simp only [Bool.and_eq_true, beq_iff_eq, decide_eq_true_eq, Bool.not_eq_true'] at hq
  refine ⟨.L, sp, e, _, s0, m, off, n, size, key, ent, c, rfl, hs, hp, hm, hz, by decide, hr, fun _ => hq.1.1, ?_, hq.2⟩
  intro hf
  unfold State.stampedCopy
  rw [hq.1.2, hf]
  rfl
/-- The line is fetched: no copy is there, or the one that is there is too old and its region asks for no push. -/
theorem wit_Loads_ldb_refetch : ∃ (q : Queue) (sp : ISpec) (e : QEntry) (s s0 : State) (m : MemSpace) (off n size key : Nat) (ent : BitVec 128),
    fieldFmt ldF = some .int8 ∧ headTakes (.ldb ldF) ldF q sp e s = true ∧ Places s (eaOf ldF e) 1 1 .read s0 [.mem m off n size] ∧
    m ≠ .bl ∧ size ≠ 0 ∧ policyOf ldF.hint 0 = 0 ∧
    let t := ldbState s0 [.mem m off n size]
    t.regionOf (eaOf ldF e) = some (key, ent) ∧ (m = .il → t.inWindow off = false) ∧ t.stampedCopy (t.l1Core t.myCore off) (lineKey m off) = none ∧
    ((t.cxlRead m (off / 64 * 64) 64 64).readMem m (off / 64 * 64) 64).2.2 = false := by
  let e := entry (.ldb ldF) (dataVa + 4096) 0 0 0
  have h0 : headOk (.ldb ldF) ldF .L e (bounded []) = true := by decide +kernel
  have h1 : regionHere (bounded []) e (fun t m off _ _ => !(t.inWindow off) && (t.stampedCopy (t.l1Core t.myCore off) (lineKey m off)).isNone &&
    !((t.cxlRead m (off / 64 * 64) 64 64).readMem m (off / 64 * 64) 64).2.2) = true := by decide +kernel
  obtain ⟨sp, hs⟩ := head_of h0
  obtain ⟨s0, m, off, n, size, key, ent, hp, hm, hz, hr, hq⟩ := region_of h1
  simp only [Bool.and_eq_true, Option.isNone_iff_eq_none, Bool.not_eq_true'] at hq
  exact ⟨.L, sp, e, _, s0, m, off, n, size, key, ent, rfl, hs, hp, hm, hz, by decide, hr, fun _ => hq.1.1, hq.1.2, hq.2⟩
/-- A copy of round 3 under a bound of 0, in a region without PUSH, where the free choice keeps the copy. -/
def oldCopy : StampCopy := ⟨lineKey .il 4096, 0, 3, 0⟩
theorem wit_Loads_ldb_old : ∃ (q : Queue) (sp : ISpec) (e : QEntry) (s s0 : State) (m : MemSpace) (off n size key : Nat) (ent : BitVec 128) (c : StampCopy),
    headTakes (.ldb ldF) ldF q sp e s = true ∧ Places s (eaOf ldF e) 1 1 .read s0 [.mem m off n size] ∧
    let t := ldbState s0 [.mem m off n size]
    t.regionOf (eaOf ldF e) = some (key, ent) ∧
    (Config.freeBool (t.fv + 46) = false → t.stampedCopy (t.l1Core t.myCore off) (lineKey m off) = some c) ∧
    ldF.sub.toNat < (t.knownRound (t.leadOf t.myCore) key ent - c.stamp).toNat ∧ ent.getLsbD 1 = false := by
  let plain : State := { regional.writeMem (.device .service) false .il 1024 [1] with cur := 0 }
  let e := entry (.ldb ldF) (dataVa + 4096) 0 0 0
  let s := atHead (plain.modCore 0 (fun c => { c with stamps := [oldCopy] })) .L e
  have h0 : headOk (.ldb ldF) ldF .L e s = true := by decide +kernel
  have h1 : regionHere s e (fun t m off key ent =>
    (t.core (t.l1Core t.myCore off)).stamps.find? (fun c => c.line == lineKey m off) == some oldCopy &&
    decide (ldF.sub.toNat < (t.knownRound (t.leadOf t.myCore) key ent - oldCopy.stamp).toNat) && ent.getLsbD 1 == false) = true := by decide +kernel
  obtain ⟨sp, hs⟩ := head_of h0
  obtain ⟨s0, m, off, n, size, key, ent, hp, hm, hz, hr, hq⟩ := region_of h1
  simp only [Bool.and_eq_true, beq_iff_eq, decide_eq_true_eq] at hq
  refine ⟨.L, sp, e, _, s0, m, off, n, size, key, ent, oldCopy, hs, hp, hr, ?_, hq.1.2, hq.2⟩
  intro hf
  unfold State.stampedCopy
  rw [hq.1.1, hf]
  rfl

/-! ### Atomics -/

def atF (fmt : BitVec 5) (red : Bool) (e : Operand) : Fields :=
  if red then { fmt := fmt, a := .s 6, b := .i 0, c := .s 7 } else { lat := 15, scp := 4, fmt := fmt, d := .s 5, a := .s 6, b := .i 0, c := .s 7, e := e }
/-- The forms tried: signed and unsigned, atomics, reductions, and the compare with its fourth operand. -/
def atForms : List Fields := [atF 6 false .none, atF 11 false .none, atF 6 true .none, atF 6 false (.s 8), atF 16 false .none, atF 16 true .none]
/-- The state in which an atomic reads its place. -/
def atomicAt (f : Fields) (s0 : State) (ps : List Piece) : State := (if f.sub.getLsbD 1 then s0.flushLate else s0.flushFor ps).settleBl ps
def atomicOk (op : Fields → Instr) (f : Fields) : Bool :=
  let e := entry (op f) dataVa 0 1 0
  let s := atHead loaded .S e
  headOk (op f) f .S e s && (match fieldFmt f with
    | some F => placesOk s (eaOf f e) (F.width / 8) (F.width / 8) .atomic (fun s0 ps0 =>
        let ps := s0.cached (policyOf f.hint 0) ps0
        let t := atomicAt f s0 ps
        ps.all (fun x => match x with | .remote .. => false | _ => true) && (t.readPieces t.myCore ps).bytes.length == F.width / 8 &&
        (t.readPieces t.myCore ps).poison.isNone)
    | none => false)
theorem atomic_of {op : Fields → Instr} (h : atForms.any (atomicOk op) = true) : ∃ (f : Fields) (q : Queue) (sp : ISpec) (e : QEntry) (s s1 : State)
    (F : Fmt) (ps : List Piece) (bs : List Byte), fieldFmt f = some F ∧ headTakes (op f) f q sp e s = true ∧ AtomicReads f e F s s1 ps bs := by
  obtain ⟨f, -, hf⟩ := List.any_eq_true.1 h
  simp only [atomicOk, Bool.and_eq_true] at hf
  obtain ⟨sp, hs⟩ := head_of hf.1
  have h2 := hf.2
  split at h2
  · rename_i F hF
    obtain ⟨s0, ps0, hp, hq⟩ := places_of h2
    simp only [Bool.and_eq_true, Option.isNone_iff_eq_none, beq_iff_eq] at hq
    refine ⟨f, .S, sp, _, _, _, F, _, _, hF, hs, s0, _, ps0, hp, rfl, ?_, hq.1.2, rfl, hq.2, rfl, rfl⟩
    intro pos off n hps
    simp [hps] at hq
  · simp at h2
theorem wit_AtomicResults_int : ∀ op ∈ intAtomics, ∃ (f : Fields) (q : Queue) (sp : ISpec) (e : QEntry) (s s1 : State)
    (F : Fmt) (ps : List Piece) (bs : List Byte), fieldFmt f = some F ∧ headTakes (op.1 f) f q sp e s = true ∧ AtomicReads f e F s s1 ps bs := by
  intro op ho
  exact atomic_of (all_of (show intAtomics.all (fun op => atForms.any (atomicOk op.1)) = true by decide +kernel) op ho)
theorem wit_AtomicResults_float : ∀ op ∈ floatAtomics, ∃ (f : Fields) (q : Queue) (sp : ISpec) (e : QEntry) (s s1 : State)
    (F : Fmt) (ps : List Piece) (bs : List Byte), fieldFmt f = some F ∧ headTakes (op.1 f) f q sp e s = true ∧ AtomicReads f e F s s1 ps bs := by
  intro op ho
  exact atomic_of (all_of (show floatAtomics.all (fun op => atForms.any (atomicOk op.1)) = true by decide +kernel) op ho)

/-- The bench as position 0 of a league of two, with a window at 2 MiB; the other device is home to its second stretch of 2 MiB. -/
def ringed : State := { bench with lgEn := true, lgNm1 := 1, lwpbase := 0x200000, lwsize := 0x800000, east := { bench.east with up := true }
                                   west := { bench.west with up := true } }
def remoteOk (op : Fields → Instr) (f : Fields) : Bool :=
  let e := entry (op f) (dataVa + 0x400000) 0 1 0
  let s := atHead ringed .S e
  headOk (op f) f .S e s && (match fieldFmt f with
    | some F => placesOk s (eaOf f e) (F.width / 8) (F.width / 8) .atomic (fun s0 ps => match s0.cached (policyOf f.hint 0) ps with
      | [.remote _ _ _] => true
      | _ => false)
    | none => false)
/-- Reductions meet every hypothesis; of the atomics with a result, the reply is without poison where the free choice says so. -/
theorem wit_AtomicResults_remote : ∀ op ∈ intAtomics, ∃ (f : Fields) (q : Queue) (sp : ISpec) (e : QEntry) (s s0 : State) (F : Fmt) (ps : List Piece)
    (pos off n : Nat), fieldFmt f = some F ∧ headTakes (op.1 f) f q sp e s = true ∧ Places s (eaOf f e) (F.width / 8) (F.width / 8) .atomic s0 ps ∧
    s0.cached (policyOf f.hint 0) ps = [.remote pos off n] := by
  intro op ho
  have h := all_of (show intAtomics.all (fun op => atForms.any (remoteOk op.1)) = true by decide +kernel) op ho
  obtain ⟨f, -, hf⟩ := List.any_eq_true.1 h
  simp only [remoteOk, Bool.and_eq_true] at hf
  obtain ⟨sp, hs⟩ := head_of hf.1
  have h2 := hf.2
  split at h2
  · rename_i F hF
    obtain ⟨s0, ps, hp, hq⟩ := places_of h2
    split at hq
    · rename_i pos off n hr
      exact ⟨f, .S, sp, _, _, s0, F, ps, pos, off, n, hF, hs, hp, hr⟩
    · simp at hq
  · simp at h2

/-! ### Ordering -/

/-- An instruction at the head that meets a condition on its entry and the state. -/
def HeadWit (i : Fields → Instr) (p : Fields → QEntry → State → Bool) : Prop :=
  ∃ (f : Fields) (q : Queue) (sp : ISpec) (e : QEntry) (s : State), headTakes (i f) f q sp e s = true ∧ p f e s = true
theorem headWit_of {i : Fields → Instr} {f : Fields} {q : Queue} {e : QEntry} {s : State} {p : Fields → QEntry → State → Bool}
    (h : (headOk (i f) f q e s && p f e s) = true) : HeadWit i p := by
  simp only [Bool.and_eq_true] at h
  obtain ⟨sp, hs⟩ := head_of h.1
  exact ⟨f, q, sp, e, s, hs, h.2⟩
theorem wit_Order_mark : HeadWit .mark (fun _ _ _ => true) := headWit_of (f := {}) (q := .L) (e := entry (.mark {}) 0 0 0 0) (s := atBoth bench (entry (.mark {}) 0 0 0 0)) (by decide +kernel)
def fenF : Fields := { scp := 4, sub := 1 }
theorem wit_Order_fence : HeadWit .fence (fun _ _ _ => true) :=
  headWit_of (f := fenF) (q := .L) (e := entry (.fence fenF) 0 0 0 0) (s := atBoth bench (entry (.fence fenF) 0 0 0 0)) (by decide +kernel)
def fenMemF : Fields := { scp := 4, a := .s 6, b := .s 7, sub := 5 }
theorem wit_Order_fenceMem_empty : HeadWit .fenceMem (fun _ e _ => e.b == 0) :=
  headWit_of (f := fenMemF) (q := .L) (e := entry (.fenceMem fenMemF) 9 0 0 0) (s := atBoth bench (entry (.fenceMem fenMemF) 9 0 0 0)) (by decide +kernel)
theorem wit_Order_fenceMem_all : HeadWit .fenceMem (fun _ e _ => decide (e.a.toNat + e.b.toNat ≤ 131072)) :=
  headWit_of (f := fenMemF) (q := .L) (e := entry (.fenceMem fenMemF) 131071 1 0 0) (s := atBoth bench (entry (.fenceMem fenMemF) 131071 1 0 0)) (by decide +kernel)
def pubF : Fields := { scp := 4 }
theorem wit_Order_pubx : HeadWit .pubx (fun _ _ s => queueQuiet s.me .S) :=
  headWit_of (f := pubF) (q := .S) (e := entry (.pubx pubF) 0 0 0 0) (s := atHead bench .S (entry (.pubx pubF) 0 0 0 0)) (by decide +kernel)
def aF : Fields := { scp := 1, a := .i 7 }
theorem wit_Order_qfence : HeadWit .qfence (fun _ e s => !(s.fencePending e.a.toNat e.seq)) :=
  headWit_of (f := aF) (q := .S) (e := entry (.qfence aF) 7 0 0 0) (s := atHead bench .S (entry (.qfence aF) 7 0 0 0)) (by decide +kernel)
def bgfF : Fields := { scp := 4, a := .i 15 }
theorem wit_Order_bgfence : HeadWit .bgfence (fun _ e s => !(s.memoryPending e.a.toNat e.seq)) :=
  headWit_of (f := bgfF) (q := .S) (e := entry (.bgfence bgfF) 15 0 0 0) (s := atHead bench .S (entry (.bgfence bgfF) 15 0 0 0)) (by decide +kernel)
def bgsF : Fields := { lat := 15, d := .s 5, a := .i 3, sub := 2 }
theorem wit_Order_bgstat : HeadWit .bgstat (fun _ _ _ => true) :=
  headWit_of (f := bgsF) (q := .S) (e := entry (.bgstat bgsF) 3 0 0 0) (s := atHead bench .S (entry (.bgstat bgsF) 3 0 0 0)) (by decide +kernel)
/-- Each wait of an ordering instruction, and of MSCALE. -/
def oneCmd : Cmd := { slot := 0, core := 0, pos := 0, ring := 0, seq := 0, desc := 0 }
theorem wit_Waits_qfence : HeadWit .qfence (fun _ e s => s.fencePending e.a.toNat e.seq) :=
  headWit_of (f := aF) (q := .S) (e := { entry (.qfence aF) 7 0 0 0 with seq := 1 })
    (s := atHead (bench.modCore 0 (fun c => { c with copyq := [oneCmd] })) .S { entry (.qfence aF) 7 0 0 0 with seq := 1 }) (by decide +kernel)
theorem wit_Waits_bgfence : HeadWit .bgfence (fun _ e s => s.memoryPending e.a.toNat e.seq) :=
  headWit_of (f := bgfF) (q := .S) (e := { entry (.bgfence bgfF) 15 0 0 0 with seq := 1 })
    (s := atHead (bench.setQuad 3 { q := [oneCmd] }) .S { entry (.bgfence bgfF) 15 0 0 0 with seq := 1 }) (by decide +kernel)
def mscF : Fields := { fmt := 0, a := .v 1 }
theorem wit_Waits_mscale : HeadWit .mscale (fun _ _ s => decide (64 ≤ (s.core s.myCore).scales.length)) :=
  headWit_of (f := mscF) (q := .C) (e := entry (.mscale mscF) 1 0 0 0)
    (s := atHead (bench.modCore 0 (fun c => { c with scales := List.replicate 64 (0, []) })) .C (entry (.mscale mscF) 1 0 0 0)) (by decide +kernel)
theorem wit_Waits_pubx : HeadWit .pubx (fun _ _ s => s.me.flight.any (fun x => x.stream == some .S && x.endsAt.isNone)) :=
  headWit_of (f := pubF) (q := .S) (e := entry (.pubx pubF) 0 0 0 0)
    (s := atHead (bench.setMe { bench.me with flight := [{ pos := 0, stream := some .S, ack := true }] }) .S (entry (.pubx pubF) 0 0 0 0)) (by decide +kernel)
/-- A context whose QGEN is 0 and that has one executable page with an unpublished line: PUBX traps. -/
theorem wit_Order_pubx_claim : HeadWit .pubx (fun _ _ s => queueQuiet s.me .S &&
    decide (fld (s.context s.me.pasid) 92 32 < (s.pagesMade ((s.ubits.filter s.publishes).map (·.line))).length)) :=
  headWit_of (f := pubF) (q := .S) (e := entry (.pubx pubF) 0 0 0 0)
    (s := atHead { bench with ubits := [{ line := lineKey .il 0x100000, setters := [] }] } .S (entry (.pubx pubF) 0 0 0 0)) (by decide +kernel)
/-- A stripe handle in the bank-linear window that covers no furlong. -/
def stripeHandle : BitVec 512 := BitVec.ofNat 512 (1 + 2 * 2 + 2 * 16 + 64 + 128 + 3 * 2 ^ 9 + 2 * 2 ^ 12 + 2 ^ 128)
def bgbF (sub : BitVec 5) : Fields := { a := .h 3, sub := sub }
def bgbE (sub : BitVec 5) : QEntry := { entry (if sub = 0 then .bgbarHold (bgbF sub) else .bgbarRel (bgbF sub)) 0 0 0 0 with handles := [(3, stripeHandle)] }
theorem wit_Order_bgbarHold : HeadWit .bgbarHold (fun f e s => (hCheck (e.entry f.a) (stripe (e.entry f.a)) false true).isNone && decide (s.holds.length < 16) &&
    okOr (s.coveredFurlongs (e.entry f.a)) (fun _ => s.quads.isEmpty)) :=
  headWit_of (f := bgbF 0) (q := .S) (e := bgbE 0) (s := atHead bench .S (bgbE 0)) (by decide +kernel)
theorem wit_Order_bgbarRel : HeadWit .bgbarRel (fun f e _ => (hCheck (e.entry f.a) (stripe (e.entry f.a)) false true).isNone) :=
  headWit_of (f := bgbF 1) (q := .S) (e := bgbE 1) (s := atHead bench .S (bgbE 1)) (by decide +kernel)

end Sys2Proof.Tests
end

