-- ==== Sys2Proof/Tests/Witness3.lean ====
section
/-! SUPPORT. Witnesses for the statements about tiles, vectors, the matrix array's instructions, engine instructions and results. -/

set_option Elab.async false

namespace Sys2Proof.Tests

open Sys2Proof.Machine Sys2Proof.Claims

/-! ### Tiles by handle -/

/-- A tensor of INT32, 8 by 8, in the data page. -/
def tensorHandle : BitVec 512 :=
  BitVec.ofNat 512 (1 + 2 + 64 + 128 + 5 * 2 ^ 12 + 2 ^ 17 + dataVa.toNat * 2 ^ 64 + 8 * 2 ^ 128 + 8 * 2 ^ 160 + 32 * 2 ^ 256 + 4096 * 2 ^ 448)
/-- Shape two by two of INT32, the tensor's handle sampled; D and B as given. -/
def tileE (i : Instr) (d b : Word) (ds : List Dst) : QEntry :=
  { entry i 0 b 0 0 with d := d, shp := shpWord 2 2 5, handles := [(3, tensorHandle)], dsts := ds }
def tileF (b : Operand) (load : Bool) : Fields := { lat := if load then 15 else 0, fmt := 5, d := .v 4, a := .h 3, b := b }
def elemsOf (e : QEntry) (s : State) (f : Fields) : List (Nat × Nat) := s.activeElems f.e (shpRows e.shp) (shpCols e.shp)
def LoadTileWit (i : Fields → Instr) (per : Fields → Bool) (at_ : State → Fields → QEntry → Nat × Nat → Coord) : Prop :=
  ∃ (f : Fields) (q : Queue) (sp : ISpec) (e : QEntry) (s : State) (F : Fmt) (d : Nat) (ps : List ElemAt), fieldFmt f = some F ∧
    headTakes (i f) f q sp e s = true ∧ e.dsts = [.v d] ∧ s.tileChecks f e false (per f) ((elemsOf e s f).map (at_ s f e)) = .ok ps ∧
    ((s.bindFor (ps.flatMap (·.pieces))).readElems F.memBits ps).1.poison = none
theorem loadTile_of {i : Fields → Instr} {per : Fields → Bool} {at_ : State → Fields → QEntry → Nat × Nat → Coord} {f : Fields} {e : QEntry} {s : State}
    {d : Nat} (hf : fieldFmt f = some .int32) (hd : e.dsts = [.v d]) (h : (headOk (i f) f .L e s &&
      okOr (s.tileChecks f e false (per f) ((elemsOf e s f).map (at_ s f e))) (fun ps => ((s.bindFor (ps.flatMap (·.pieces))).readElems 32 ps).1.poison.isNone)) = true) :
    LoadTileWit i per at_ := by
  simp only [Bool.and_eq_true] at h
  obtain ⟨sp, hs⟩ := head_of h.1
  obtain ⟨ps, hp, hq⟩ := okOr_iff h.2
  exact ⟨f, .L, sp, e, s, .int32, d, ps, hf, hs, hd, hp, Option.isNone_iff_eq_none.1 hq⟩
theorem wit_Tiles_ldv : LoadTileWit .ldv (fun _ => false) (fun _ f e p => tileCoord f e p.1 p.2) :=
  loadTile_of (f := tileF (.s 7) true) (e := tileE (.ldv (tileF (.s 7) true)) 0 0x600000006 [.v 4])
    (s := atHead bench .L (tileE (.ldv (tileF (.s 7) true)) 0 0x600000006 [.v 4])) rfl rfl (by decide +kernel)
theorem wit_Tiles_ldg : LoadTileWit .ldg (fun f => f.sub == 0) (fun s f e p => s.gatherMap f e p.1 p.2) :=
  loadTile_of (f := tileF (.v 6) true) (e := tileE (.ldg (tileF (.v 6) true)) 0 6 [.v 4])
    (s := atHead bench .L (tileE (.ldg (tileF (.v 6) true)) 0 6 [.v 4])) rfl rfl (by decide +kernel)
def StoreTileWit (i : Fields → Instr) (per : Fields → Bool) (at_ : State → Fields → QEntry → Nat × Nat → Coord) : Prop :=
  ∃ (f : Fields) (q : Queue) (sp : ISpec) (e : QEntry) (s : State) (F : Fmt) (ps : List ElemAt), fieldFmt f = some F ∧
    headTakes (i f) f q sp e s = true ∧ s.tileChecks f e true (per f) ((elemsOf e s f).map (at_ s f e)) = .ok ps
theorem storeTile_of {i : Fields → Instr} {per : Fields → Bool} {at_ : State → Fields → QEntry → Nat × Nat → Coord} {f : Fields} {e : QEntry} {s : State}
    (hf : fieldFmt f = some .int32) (h : (headOk (i f) f .S e s &&
      okOr (s.tileChecks f e true (per f) ((elemsOf e s f).map (at_ s f e))) (fun _ => true)) = true) : StoreTileWit i per at_ := by
  simp only [Bool.and_eq_true] at h
  obtain ⟨sp, hs⟩ := head_of h.1
  obtain ⟨ps, hp, -⟩ := okOr_iff h.2
  exact ⟨f, .S, sp, e, s, .int32, ps, hf, hs, hp⟩
theorem wit_Tiles_stv : StoreTileWit .stv (fun _ => false) (fun _ f e p => tileCoord f e p.1 p.2) :=
  storeTile_of (f := tileF (.s 7) false) (e := tileE (.stv (tileF (.s 7) false)) 4 0x600000006 [])
    (s := atHead bench .S (tileE (.stv (tileF (.s 7) false)) 4 0x600000006 [])) rfl (by decide +kernel)
theorem wit_Tiles_stg : StoreTileWit .stg (fun f => f.sub == 0) (fun s f e p => s.gatherMap f e p.1 p.2) :=
  storeTile_of (f := tileF (.v 6) false) (e := tileE (.stg (tileF (.v 6) false)) 4 6 [])
    (s := atHead bench .S (tileE (.stg (tileF (.v 6) false)) 4 6 [])) rfl (by decide +kernel)

/-! ### Vectors -/

def vecF (fmt sub : BitVec 5) (b c : Operand) : Fields := { lat := 14, fmt := fmt, d := .v 4, a := .v 5, b := b, c := c, sub := sub }
/-- An entry of two by two elements under a fp32 shape. -/
def vecE (i : Instr) : QEntry := { entry i 5 6 7 0 with d := 4, shp := shpWord 2 2 16, dsts := [.v 4] }
/-- The forms tried for an element-by-element instruction. -/
def vecForms : List Fields :=
  ([(5, 0), (16, 0), (16, 5), (27, 0), (16, 27)] : List (BitVec 5 × BitVec 5)).flatMap (fun x =>
    [vecF x.1 x.2 .none .none, vecF x.1 x.2 (.v 6) .none, vecF x.1 x.2 (.v 6) (.v 7)])
def vecOk (op : Fields → Instr) (x : Fields → Fmt) (f : Fields) : Bool :=
  let e := vecE (op f)
  let s := atHead bench .C e
  headOk (op f) f .C e s && (fieldFmt f).isSome && okOr (s.vArg e (shpRows e.shp) (shpCols e.shp) (argA f e (x f))) (fun sa =>
    okOr (sa.1.vArg e (shpRows e.shp) (shpCols e.shp) (argB f e (x f))) (fun sb =>
      okOr (sb.1.vArg e (shpRows e.shp) (shpCols e.shp) (argC f e (x f))) (fun _ => true)))
theorem vec_of {op : Fields → Instr} {x : Fields → Fmt} {l : List Fields} (h : l.any (vecOk op x) = true) :
    ∃ (f : Fields) (q : Queue) (sp : ISpec) (e : QEntry) (s s1 : State) (F : Fmt) (a b c : List Nat), f ∈ l ∧
      fieldFmt f = some F ∧ headTakes (op f) f q sp e s = true ∧ VecArgs f e (x f) s s1 a b c := by
  obtain ⟨f, hm, hf⟩ := List.any_eq_true.1 h
  simp only [vecOk, Bool.and_eq_true] at hf
  obtain ⟨sp, hs⟩ := head_of hf.1.1
  obtain ⟨F, hF⟩ := Option.isSome_iff_exists.1 hf.1.2
  obtain ⟨⟨sa, a⟩, ha, hb⟩ := okOr_iff hf.2
  obtain ⟨⟨sb, b⟩, hb, hc⟩ := okOr_iff hb
  obtain ⟨⟨sc, c⟩, hc, -⟩ := okOr_iff hc
  exact ⟨f, .C, sp, _, _, sc, F, a, b, c, hm, hF, hs, sa, sb, ha, hb, hc⟩
theorem wit_ElementwiseVectorResults : ∀ op ∈ elementOps, ∃ (f : Fields) (q : Queue) (sp : ISpec) (e : QEntry) (s s1 : State) (F : Fmt) (a b c : List Nat),
    fieldFmt f = some F ∧ headTakes (op.1 f) f q sp e s = true ∧ VecArgs f e (op.2.1 f) s s1 a b c := by
  intro op ho
  obtain ⟨f, q, sp, e, s, s1, F, a, b, c, -, h⟩ := vec_of (l := vecForms)
    (all_of (show elementOps.all (fun op => vecForms.any (vecOk op.1 op.2.1)) = true by decide +kernel) op ho)
  exact ⟨f, q, sp, e, s, s1, F, a, b, c, h⟩
theorem wit_Elementwise_format : ∃ F : Fmt, F ∈ Fmt.intv := ⟨.int8, by decide⟩

def vcmpF : Fields := { vecF 5 9 (.v 6) .none with d := .m 3, e := .m 2 }
def vcmpE : QEntry := { vecE (.vcmp vcmpF) with dsts := [.m 3] }
theorem wit_Vector_vcmp : ∃ (q : Queue) (sp : ISpec) (s s1 : State) (a b c : List Nat), headTakes (.vcmp vcmpF) vcmpF q sp vcmpE s = true ∧
    VecArgs vcmpF vcmpE .int32 s s1 a b c ∧ vcmpE.dsts = [.m 3] ∧ s1.me.inFlight s1.cycle (.m 3) = false := by
  have h : headOk (.vcmp vcmpF) vcmpF .C vcmpE (atHead bench .C vcmpE) = true := by decide +kernel
  obtain ⟨sp, hs⟩ := head_of h
  exact ⟨.C, sp, atHead bench .C vcmpE, atHead bench .C vcmpE, _, _, _, hs, ⟨_, _, rfl, rfl, rfl⟩, rfl, by decide +kernel⟩
def selF : Fields := { vecF 16 0 (.v 6) .none with c := .m 1, e := .m 2 }
theorem wit_Vector_vsel : ∃ (q : Queue) (sp : ISpec) (e : QEntry) (s s1 : State) (a b c : List Nat),
    headTakes (.vsel selF) selF q sp e s = true ∧ VecArgs { selF with c := .none } e .fp32 s s1 a b c := by
  have h : headOk (.vsel selF) selF .C (vecE (.vsel selF)) (atHead bench .C (vecE (.vsel selF))) = true := by decide +kernel
  obtain ⟨sp, hs⟩ := head_of h
  exact ⟨.C, sp, _, _, _, _, _, _, hs, _, _, rfl, rfl, rfl⟩
/-- Every instruction of a list is at the head under some form. -/
def headsOk (q : Queue) (e : Instr → QEntry) (s : QEntry → State) (l : List ((Fields → Instr) × Fields)) : Bool :=
  l.all (fun x => headOk (x.1 x.2) x.2 q (e (x.1 x.2)) (s (e (x.1 x.2))))
theorem heads_of {q : Queue} {e : Instr → QEntry} {s : QEntry → State} {l : List ((Fields → Instr) × Fields)} (h : headsOk q e s l = true) :
    ∀ x ∈ l, ∃ (f : Fields) (q : Queue) (sp : ISpec) (e : QEntry) (s : State), headTakes (x.1 f) f q sp e s = true := by
  intro x hx
  obtain ⟨sp, hs⟩ := head_of (all_of h x hx)
  exact ⟨x.2, q, sp, _, _, hs⟩
/-- Two rows of 32 elements: whole blocks for the MX instructions. -/
def mxE (i : Instr) : QEntry := { vecE i with shp := shpWord 2 32 16, dsts := [.v 4, .v 6] }
def mxForms : List ((Fields → Instr) × Fields) :=
  [(.vqnt, { vecF 20 16 (.v 6) .none with a := .v 5 }), (.vdqnt, vecF 16 24 (.v 6) .none), (.vpack6, vecF 1 0 .none .none), (.vpack4, vecF 24 0 .none .none),
   (.vunpk6, vecF 23 0 .none .none), (.vunpk4, vecF 0 0 .none .none), (.vscale, vecF 16 0 (.v 6) .none), (.vscale, vecF 16 0 (.i 0xFFFF) .none),
   (.vscale, vecF 16 1 (.v 6) .none)]
theorem wit_Vector_mx : ∀ x ∈ mxForms, ∃ (f : Fields) (q : Queue) (sp : ISpec) (e : QEntry) (s : State), headTakes (x.1 f) f q sp e s = true :=
  heads_of (q := .C) (e := mxE) (s := fun e => atHead bench .C e) (by decide +kernel)
theorem wit_Vector_vscale_args : (mxForms.filter (fun x => x.2.fmt == 16)).all (fun x => okOr ((atHead bench .C (mxE (x.1 x.2))).vArg (mxE (x.1 x.2)) 2 32
    (argA x.2 (mxE (x.1 x.2)) .fp32)) (fun r => r.2.length == 64)) = true := by decide +kernel
def rowForms : List ((Fields → Instr) × Fields) :=
  [(.vredr, vecF 16 2 .none .none), (.vredc, vecF 5 1 .none .none), (.vmaxr, vecF 16 0 .none .none), (.vscan, vecF 5 2 .none .none), (.vscan, vecF 5 4 .none .none),
   (.vtrn, vecF 16 0 .none .none), (.vshuf, vecF 16 0 (.v 6) .none), (.vshuf, vecF 16 1 (.v 6) .none), (.vbcr, vecF 16 0 (.i 1) .none), (.vbcc, vecF 16 0 (.i 1) .none),
   (.viota, { vecF 5 0 (.i 3) (.i 0xFFFF) with a := .i 7, flags := 1 })]
theorem wit_Vector_rows : ∀ x ∈ rowForms, ∃ (f : Fields) (q : Queue) (sp : ISpec) (e : QEntry) (s : State), headTakes (x.1 f) f q sp e s = true :=
  heads_of (q := .C) (e := fun i => { vecE i with b := 1 }) (s := fun e => atHead bench .C e) (by decide +kernel)

/-! ### The matrix array's instructions -/

def matE (i : Instr) : QEntry := { entry i 1 0 0 0 with handles := [(3, tensorHandle)] }
def setForms : List ((Fields → Instr) × Fields) :=
  [(.mlev, { a := .s 6, b := .s 7, c := .s 8, e := .i 3, sub := 5 }), (.mbase, { a := .h 3, b := .s 7, sub := 0 }), (.mbase, { a := .h 3, b := .s 7, sub := 1 }),
   (.mbase, { a := .h 3, b := .s 7, sub := 2 }), (.mbase, { a := .i 3, sub := 3 }), (.mwait, {}), (.mstat, { lat := 14, d := .v 4 })]
theorem wit_Matrix_setup : ∀ x ∈ setForms, ∃ (f : Fields) (q : Queue) (sp : ISpec) (e : QEntry) (s : State), headTakes (x.1 f) f q sp e s = true :=
  heads_of (q := .C) (e := matE) (s := fun e => atHead bench .C e) (by decide +kernel)
/-- MWAIT behind a later operation of its own strand and an earlier one of another strand. -/
theorem wit_Matrix_mwait : ∃ (f : Fields) (q : Queue) (sp : ISpec) (e : QEntry) (s : State), headTakes (.mwait f) f q sp e s = true ∧
    ∀ o ∈ (s.core s.myCore).matq, o.slot = s.cur → e.seq ≤ o.seq := by
  let e : QEntry := { entry (.mwait {}) 0 0 0 0 with seq := 5 }
  let o : MatOp := { instr := .mgo {}, slot := 1, pos := 0, ring := 0, seq := 2 }
  let s := atHead (bench.modCore 0 (fun c => { c with matq := [o, { o with slot := 0, seq := 6 }] })) .C e
  have h : headOk (.mwait {}) {} .C e s = true := by decide +kernel
  obtain ⟨sp, hs⟩ := head_of h
  refine ⟨{}, .C, sp, e, s, hs, ?_⟩
  have hq : (s.core s.myCore).matq.all (fun o => !(o.slot == s.cur) || decide (e.seq ≤ o.seq)) = true := by decide +kernel
  intro o ho hslot
  have := List.all_eq_true.1 hq o ho
  simpa [hslot] using this
theorem wit_Matrix_mmode : ∃ (f : Fields) (q : Queue) (sp : ISpec) (e : QEntry) (s : State), headTakes (.mmode f) f q sp e s = true ∧ modeOk e.a = true := by
  have h : headOk (.mmode { a := .s 6 }) { a := .s 6 } .C { matE (.mmode { a := .s 6 }) with a := 68178346545 } (atHead bench .C { matE (.mmode { a := .s 6 }) with a := 68178346545 }) = true := by decide +kernel
  obtain ⟨sp, hs⟩ := head_of h
  exact ⟨_, .C, sp, _, _, hs, by decide +kernel⟩
theorem wit_Matrix_mscale : ∃ (f : Fields) (q : Queue) (sp : ISpec) (e : QEntry) (s : State), headTakes (.mscale f) f q sp e s = true ∧
    (s.core s.myCore).scales.length < 64 := by
  let f : Fields := { a := .v 5 }
  let s := atHead (bench.modCore 0 (fun c => { c with scales := List.replicate 63 (0, []) })) .C (matE (.mscale f))
  have h : headOk (.mscale f) f .C (matE (.mscale f)) s = true := by decide +kernel
  obtain ⟨sp, hs⟩ := head_of h
  exact ⟨f, .C, sp, _, s, hs, by decide +kernel⟩
/-- The operations of the matrix queue, with a queue of seven. -/
def opForms : List ((Fields → Instr) × Fields) :=
  [(.mpre, { a := .h 3, b := .s 7 }), (.mswap, {}), (.mgo, {}), (.mdrain, { fmt := 16, d := .v 4, a := .i 1 }), (.mzero, { a := .i 15 }),
   (.maccl, { fmt := 5, a := .i 1, b := .v 6 }), (.mtestNow, {}), (.mtestIvl, { a := .i 100, sub := 1 }), (.mfuse, { a := .i 0 })]
def seven : State := bench.modCore 0 (fun c => { c with matq := List.replicate 7 { instr := .mswap {}, slot := 0, pos := 0, ring := 0, seq := 0 } })
theorem wit_Matrix_names : opForms.map (fun x => (x.1 {})) = matrixInstrs.map (fun i => i {}) := by decide +kernel
theorem wit_Matrix_ops : ∀ x ∈ opForms, ∃ (f : Fields) (q : Queue) (sp : ISpec) (e : QEntry) (s : State), headTakes (x.1 f) f q sp e s = true ∧
    (s.core s.myCore).matq.length < 8 := by
  intro x hx
  have h := all_of (show opForms.all (fun x => headOk (x.1 x.2) x.2 .C (matE (x.1 x.2)) (atHead seven .C (matE (x.1 x.2))) &&
    decide (((atHead seven .C (matE (x.1 x.2))).core (atHead seven .C (matE (x.1 x.2))).myCore).matq.length < 8)) = true by decide +kernel) x hx
  simp only [Bool.and_eq_true, decide_eq_true_eq] at h
  obtain ⟨sp, hs⟩ := head_of h.1
  exact ⟨_, .C, sp, _, _, hs, h.2⟩
theorem wit_Matrix_mspmeta : ∃ (f : Fields) (q : Queue) (sp : ISpec) (e : QEntry) (s : State), headTakes (.mspmeta f) f q sp e s = true ∧
    (s.core s.myCore).matq.length < 8 := by
  have h : headOk (.mspmeta { a := .v 5 }) { a := .v 5 } .C (matE (.mspmeta { a := .v 5 })) (atHead seven .C (matE (.mspmeta { a := .v 5 }))) = true := by decide +kernel
  obtain ⟨sp, hs⟩ := head_of h
  exact ⟨_, .C, sp, _, _, hs, by decide +kernel⟩

/-! ### Engine instructions -/

/-- A handle of bytes in the data page. -/
def bytesHandle : BitVec 512 := BitVec.ofNat 512 (1 + 2 + 64 + 128 + 2 * 2 ^ 12 + dataVa.toNat * 2 ^ 64 + 4096 * 2 ^ 128 + 4096 * 2 ^ 448)
/-- The data page with a descriptor of command `cmd` at its second line, no barrier. -/
def described (cmd : Nat) : State := bench.writeMem (.device .service) false .il 64 [BitVec.ofNat 8 cmd]
def cmdE (i : Instr) : QEntry := { entry i 0 64 0 0 with handles := [(3, bytesHandle)] }
def cmdF : Fields := { a := .h 3, b := .i 64 }
/-- The command that issue makes. -/
def issuedCmd (f : Fields) (e : QEntry) (s : State) (d : BitVec 512) (bar : Option (Nat × Nat)) (log : Nat) : Cmd :=
  let h := e.entry f.a
  { slot := s.cur, core := s.myCore, pos := e.pos, ring := 0, seq := e.seq, desc := d
    descLm := if hSpace h = 0 then some (hBase h + e.b.toNat) else none, descVa := BitVec.ofNat 64 (hBase h + e.b.toNat)
    bar := bar, barLog := log, accepted := s.cycle, clock := s.issueClock }
def issueOk (op : Fields → Instr) (cmd : Nat) (s0 : State) (room : State → State → Bool) : Bool :=
  let e := cmdE (op cmdF)
  let s := atHead s0 .S e
  let h := e.entry cmdF.a
  headOk (op cmdF) cmdF .S e s && ((hCheck h (descKind h) true true).isNone && decide (e.b.toNat + 64 ≤ hLimit h) && decide (e.b.toNat % 64 = 0)) &&
  okOr (s.hRange s.cur s.me.sys h e.cwb .read e.b.toNat 64) (fun ps =>
    let g := ((s.flushFor ps).takePieces ps).readPieces s.myCore ps
    let d := BitVec.ofNat 512 (leNat g.bytes)
    (!s.lmBusy s.myCore (ps.flatMap pieceWords) && g.poison.isNone) && descOk cmd d && okOr (g.s.barrierOf s.cur s.myCore d)
      (fun x => !s.barBusy (issuedCmd cmdF e s d x.2.1 x.2.2) && room s x.1))
theorem issue_of {op : Fields → Instr} {cmd : Nat} {s0 : State} {room : State → State → Bool} (h : issueOk op cmd s0 room = true) :
    ∃ (f : Fields) (q : Queue) (sp : ISpec) (e : QEntry) (s s1 : State) (c : Cmd), f = cmdF ∧ headTakes (op f) f q sp e s = true ∧ IssueChecks cmd f e s s1 c ∧
      room s s1 = true := by
  simp only [issueOk, Bool.and_eq_true] at h
  obtain ⟨sp, hs⟩ := head_of h.1.1
  obtain ⟨ps, hp, hq⟩ := okOr_iff h.2
  simp only [Bool.and_eq_true] at hq
  obtain ⟨⟨s1, bar, log⟩, hb, hr⟩ := okOr_iff hq.2
  simp only [Bool.and_eq_true, Bool.not_eq_true'] at hr
  obtain ⟨⟨h1, h2⟩, h3⟩ := h.1.2
  have hl := hq.1.1.1
  simp only [Bool.not_eq_true'] at hl
  exact ⟨cmdF, .S, sp, _, _, s1, _, rfl, hs, ⟨ps, _, _, bar, log, Option.isNone_iff_eq_none.1 h1, of_decide_eq_true h2, of_decide_eq_true h3, hp, hl,
    Option.isNone_iff_eq_none.1 hq.1.1.2, rfl, rfl, hq.1.2, hb, hr.1, rfl⟩, hr.2⟩
theorem wit_Commands_copy : ∀ op ∈ copyCommands, ∃ (f : Fields) (q : Queue) (sp : ISpec) (e : QEntry) (s s1 : State) (c : Cmd),
    headTakes (op.1 f) f q sp e s = true ∧ IssueChecks op.2 f e s s1 c ∧ (s1.core s.myCore).copyq.length < 32 := by
  intro op ho
  obtain ⟨f, q, sp, e, s, s1, c, -, h1, h2, h3⟩ := issue_of (all_of (show copyCommands.all (fun op => issueOk op.1 op.2 (described op.2) (fun s s1 =>
    decide ((s1.core s.myCore).copyq.length < 32))) = true by decide +kernel) op ho)
  exact ⟨f, q, sp, e, s, s1, c, h1, h2, of_decide_eq_true h3⟩
theorem wit_Commands_memory : ∀ op ∈ memoryCommands, ∃ (f : Fields) (q : Queue) (sp : ISpec) (e : QEntry) (s s1 : State) (c : Cmd),
    headTakes (op.1 f) f q sp e s = true ∧ IssueChecks op.2 f e s s1 c ∧ (s1.quad (quadOfC f e s)).q.length < 64 := by
  intro op ho
  obtain ⟨f, q, sp, e, s, s1, c, rfl, h1, h2, h3⟩ := issue_of (all_of (show memoryCommands.all (fun op => issueOk op.1 op.2 (described op.2) (fun s s1 =>
    decide ((s1.quad (quadOf s.myCore)).q.length < 64))) = true by decide +kernel) op ho)
  exact ⟨cmdF, q, sp, e, s, s1, c, h1, h2, of_decide_eq_true h3⟩

/-- A handle of local memory, for a packet. -/
def packetHandle : BitVec 512 := BitVec.ofNat 512 (1 + 64 + 2 * 2 ^ 12 + 4096 * 2 ^ 128 + 4096 * 2 ^ 448)
def putF (flags : BitVec 3) : Fields := { lat := if flags = 0 then 0 else 15, flags := flags, d := if flags = 0 then .none else .p 1, a := .s 6, b := .h 3, c := .i 64 }
def putE (i : Instr) (sel : Word) : QEntry := { entry i sel 0 64 0 with handles := [(3, packetHandle)] }
def putOk (op : Fields → Instr) (f : Fields) (sel : Word) (s0 : State) (p : Placed → Bool) : Bool :=
  let e := putE (op f) sel
  let s := atHead s0 .S e
  headOk (op f) f .S e s && decide (fld e.a 0 3 ≤ 3 ∧ e.a.getLsbD 3 = false ∧ fld e.a 6 10 = 0 ∧ fld e.a 28 36 = 0) &&
  (match s.lmOperand (e.entry f.b) (offVal f.c e.c) none 64 64 true false with
   | .ok core off => !((s.core core).lmUe off 64) &&
      (let s1 := (s.noteLm core off 64).takeLm core off 64
       p (s1.placePacket f e (BitVec.ofNat 512 (leNat ((s1.core core).lmRead off 64)))))
   | .busy _ _ => false
   | .bad _ _ => false)
theorem put_of {op : Fields → Instr} {f : Fields} {sel : Word} {s0 : State} {p : Placed → Bool} (h : putOk op f sel s0 p = true) :
    ∃ (q : Queue) (sp : ISpec) (e : QEntry) (s s1 : State) (pkt : BitVec 512), headTakes (op f) f q sp e s = true ∧ PacketReads f e s s1 pkt ∧
      p (s1.placePacket f e pkt) = true := by
  simp only [putOk, Bool.and_eq_true, decide_eq_true_eq] at h
  obtain ⟨sp, hs⟩ := head_of h.1.1
  have h2 := h.2
  split at h2
  · rename_i core off hl
    simp only [Bool.and_eq_true, Bool.not_eq_true'] at h2
    exact ⟨.S, sp, _, _, _, _, hs, ⟨core, off, h.1.2.1, h.1.2.2.1, h.1.2.2.2.1, h.1.2.2.2.2, hl, h2.1, rfl, rfl⟩, h2.2⟩
  · simp at h2
  · simp at h2
def placed (p : Placed) : Bool := match p with
  | .done _ => true
  | _ => false
theorem placed_iff {p : Placed} (h : placed p = true) : ∃ s, p = .done s := by
  cases p with
  | done s => exact ⟨s, rfl⟩
  | _ => simp [placed] at h
theorem wit_Packets_qput : ∃ (f : Fields) (q : Queue) (sp : ISpec) (e : QEntry) (s s1 s2 : State) (pkt : BitVec 512), headTakes (.qput f) f q sp e s = true ∧
    PacketReads f e s s1 pkt ∧ s1.placePacket f e pkt = .done s2 := by
  obtain ⟨q, sp, e, s, s1, pkt, h1, h2, h3⟩ := put_of (show putOk .qput (putF 0) 0 bench placed = true by decide +kernel)
  obtain ⟨s2, h3⟩ := placed_iff h3
  exact ⟨_, q, sp, e, s, s1, s2, pkt, h1, h2, h3⟩
theorem wit_Packets_qputNb : ∃ (f : Fields) (q : Queue) (sp : ISpec) (e : QEntry) (s s1 s2 : State) (pkt : BitVec 512), headTakes (.qputNb f) f q sp e s = true ∧
    PacketReads f e s s1 pkt ∧ s1.placePacket f e pkt = .done s2 := by
  obtain ⟨q, sp, e, s, s1, pkt, h1, h2, h3⟩ := put_of (show putOk .qputNb (putF 1) 0x32 bench placed = true by decide +kernel)
  obtain ⟨s2, h3⟩ := placed_iff h3
  exact ⟨_, q, sp, e, s, s1, s2, pkt, h1, h2, h3⟩
/-- A copy queue of 32 commands. -/
def fullCopyq : State := bench.modCore 0 (fun c => { c with copyq := List.replicate 32 { slot := 0, core := 0, pos := 0, ring := 0, seq := 0, desc := 0 } })
theorem wit_Packets_qputNb_full : ∃ (f : Fields) (q : Queue) (sp : ISpec) (e : QEntry) (s s1 : State) (pkt : BitVec 512), headTakes (.qputNb f) f q sp e s = true ∧
    PacketReads f e s s1 pkt ∧ s1.placePacket f e pkt = .full := by
  obtain ⟨q, sp, e, s, s1, pkt, h1, h2, h3⟩ := put_of (show putOk .qputNb (putF 1) 0 fullCopyq (fun p => match p with | .full => true | _ => false) = true by decide +kernel)
  refine ⟨_, q, sp, e, s, s1, pkt, h1, h2, ?_⟩
  split at h3
  · assumption
  · simp at h3
/-- QPUT, and the engine instructions, at a full queue. -/
theorem wit_Waits_qput : ∃ (f : Fields) (q : Queue) (sp : ISpec) (e : QEntry) (s s1 : State) (pkt : BitVec 512), headTakes (.qput f) f q sp e s = true ∧
    PacketReads f e s s1 pkt ∧ s1.placePacket f e pkt = .full := by
  obtain ⟨q, sp, e, s, s1, pkt, h1, h2, h3⟩ := put_of (show putOk .qput (putF 0) 0 fullCopyq (fun p => match p with | .full => true | _ => false) = true by decide +kernel)
  refine ⟨_, q, sp, e, s, s1, pkt, h1, h2, ?_⟩
  split at h3
  · assumption
  · simp at h3
def waitCmd : Cmd := { slot := 0, core := 0, pos := 0, ring := 0, seq := 0, desc := 0 }
theorem wit_Waits_copy : ∀ op ∈ copyCommands, ∃ (f : Fields) (q : Queue) (sp : ISpec) (e : QEntry) (s s1 : State) (c : Cmd),
    headTakes (op.1 f) f q sp e s = true ∧ IssueChecks op.2 f e s s1 c ∧ 32 ≤ (s1.core s.myCore).copyq.length := by
  intro op ho
  obtain ⟨f, q, sp, e, s, s1, c, -, h1, h2, h3⟩ := issue_of (all_of (show copyCommands.all (fun op => issueOk op.1 op.2
    ((described op.2).modCore 0 (fun k => { k with copyq := List.replicate 32 waitCmd })) (fun s s1 =>
    decide (32 ≤ (s1.core s.myCore).copyq.length))) = true by decide +kernel) op ho)
  exact ⟨f, q, sp, e, s, s1, c, h1, h2, of_decide_eq_true h3⟩
theorem wit_Waits_memory : ∀ op ∈ memoryCommands, ∃ (f : Fields) (q : Queue) (sp : ISpec) (e : QEntry) (s s1 : State) (c : Cmd),
    headTakes (op.1 f) f q sp e s = true ∧ IssueChecks op.2 f e s s1 c ∧ 64 ≤ (s1.quad (quadOfC f e s)).q.length := by
  intro op ho
  obtain ⟨f, q, sp, e, s, s1, c, rfl, h1, h2, h3⟩ := issue_of (all_of (show memoryCommands.all (fun op => issueOk op.1 op.2
    ((described op.2).setQuad 0 { q := List.replicate 64 waitCmd }) (fun s s1 =>
    decide (64 ≤ (s1.quad (quadOf s.myCore)).q.length))) = true by decide +kernel) op ho)
  exact ⟨cmdF, q, sp, e, s, s1, c, h1, h2, of_decide_eq_true h3⟩
/-- The three selectors at queues with one place left. -/
theorem wit_Packets_targets : [0#64, 1, 0x32].all (fun a => !(a.getLsbD 3) && fld a 6 10 == 0 && fld a 28 36 == 0 &&
    Nat.blt (bench.core bench.myCore).copyq.length 32 && Nat.blt (bench.quad (quadOf bench.myCore)).q.length 64 &&
    Nat.blt (bench.quad (fld a 4 2)).q.length 64) = true := by decide +kernel

/-! ### Steps and results -/

def stepF : Fields := { lat := 15, d := .s 5, a := .s 6, b := .i 1 }
theorem wit_Steps_step : ∃ (f : Fields) (q : Queue) (sp : ISpec) (e : QEntry) (s : State), headTakes (.step f) f q sp e s = true ∧
    (tabGet s.groups {} (e.b.setWidth 8).toNat).frozen = false ∧ (tabGet s.groups {} (e.b.setWidth 8).toNat).own < (e.a.setWidth 48 : BitVec 48) := by
  have h : headOk (.step stepF) stepF .S (entry (.step stepF) 1 1 0 0) (atHead bench .S (entry (.step stepF) 1 1 0 0)) = true := by decide +kernel
  obtain ⟨sp, hs⟩ := head_of h
  exact ⟨stepF, .S, sp, _, _, hs, by decide +kernel, by decide +kernel⟩
def comF : Fields := { scp := 4, a := .s 6 }
def comE : QEntry := entry (.commit comF) 9 0 0 0
/-- COMMIT with the result descriptor in the data page. -/
def committing : State := atHead (bench.setMe { bench.me with rdAddr := dataVa }) .S comE
/-- The strand after the new status, user word, time and count. -/
def comNext (s : State) : Strand :=
  let t := s.flushLate.me
  { t with
      rdStatus := if t.st = .wrap then 2 else 1
      rdUser := comE.a
      rdCsec := BitVec.ofNat 48 s.flushLate.sec
      rdCnsec := BitVec.ofNat 32 s.flushLate.nsec
      rdCcnt := if t.rdCcnt = 0xFF then 0xFF else t.rdCcnt + 1
      committedWrap := t.committedWrap || t.st == .wrap }
theorem wit_Steps_commit : ∃ (q : Queue) (sp : ISpec) (s s1 : State) (ps : List Piece), headTakes (.commit comF) comF q sp comE s = true ∧
    (s.flushLate.setMe (comNext s)).writeRd s.flushLate.cur = .ok s1 ∧ s1.rdPlace s1.cur = .ok ps := by
  have h : (headOk (.commit comF) comF .S comE committing && okOr ((committing.flushLate.setMe (comNext committing)).writeRd committing.flushLate.cur)
    (fun s1 => okOr (s1.rdPlace s1.cur) (fun _ => true))) = true := by decide +kernel
  simp only [Bool.and_eq_true] at h
  obtain ⟨sp, hs⟩ := head_of h.1
  obtain ⟨s1, h1, h2⟩ := okOr_iff h.2
  obtain ⟨ps, h2, -⟩ := okOr_iff h2
  exact ⟨.S, sp, committing, s1, ps, hs, h1, h2⟩
def pvalF (sub : BitVec 5) : Fields := { a := .s 6, sub := sub }
def pvalE (sub : BitVec 5) : QEntry := entry (.pval (pvalF sub)) 63 0 0 0
def pvalNext (sub : BitVec 5) (t : Strand) : Strand :=
  { t with rdValid := if sub = 0 then t.rdValid ||| 63 else if sub = 1 then t.rdValid ||| (1 <<< (63 : Word).toNat) else t.rdValid &&& ~~~63 }
def pvalAt (k : BitVec 5) : State := atHead (bench.setMe { bench.me with rdAddr := dataVa }) .S (pvalE k)
theorem wit_Steps_pval : ∀ k ∈ [0#5, 1, 2], ∃ (q : Queue) (sp : ISpec) (s1 : State), headTakes (.pval (pvalF k)) (pvalF k) q sp (pvalE k) (pvalAt k) = true ∧
    ((pvalAt k).setMe (pvalNext k (pvalAt k).me)).writeRd (pvalAt k).cur = .ok s1 := by
  intro k hk
  have h := all_of (show [0#5, 1, 2].all (fun k => headOk (.pval (pvalF k)) (pvalF k) .S (pvalE k) (pvalAt k) &&
    okOr (((pvalAt k).setMe (pvalNext k (pvalAt k).me)).writeRd (pvalAt k).cur) (fun _ => true)) = true by decide +kernel) k hk
  rw [Bool.and_eq_true] at h
  obtain ⟨sp, hs⟩ := head_of h.1
  obtain ⟨s1, h1, -⟩ := okOr_iff h.2
  exact ⟨.S, sp, s1, hs, h1⟩

end Sys2Proof.Tests
end

