-- ==== Sys2Proof/Tests/Witness10.lean ====
section
/-! SUPPORT. Witnesses for the frames: instructions that perform in states without errors whose memory is in canonical form. -/

set_option Elab.async false

namespace Sys2Proof.Tests

open Sys2Proof.Machine Sys2Proof.Claims

/-! ### What every frame assumes -/

def noneLateOk (t : Strand) : Bool := t.late.isEmpty && t.rebind.isEmpty && t.flight.all (fun x => x.late.isEmpty && x.rebind.isEmpty)
theorem noneLate_of {t : Strand} (h : noneLateOk t = true) : NoneLate t := by
  simp only [noneLateOk, Bool.and_eq_true, List.isEmpty_iff, List.all_eq_true] at h
  exact ⟨h.1.1, h.1.2, h.2⟩
def canonicalOk (s : State) : Bool := s.dev.wf && s.host.wf && s.pool.wf && tabWf s.l2 && tabWf s.hostL2 && tabWf s.poolL2 && tabWf s.cores
theorem memOk_of {s : State} (h : canonicalOk s = true) : MemOk s := by
  simp only [canonicalOk, Bool.and_eq_true] at h
  exact ⟨h.1.1.1.1.1.1, h.1.1.1.1.1.2, h.1.1.1.1.2, h.1.1.1.2, h.1.1.2, h.1.2, h.2⟩
/-- The instruction answers a next state, which is as `p` says. -/
def nextOk (x : Host.Outcome State Fault Refusal) (p : State → Bool) : Bool := match x with
  | .next t => p t
  | _ => false
theorem nextOk_iff {x : Host.Outcome State Fault Refusal} {p : State → Bool} (h : nextOk x p = true) : ∃ t, x = .next t ∧ p t = true := by
  cases x with
  | next t => exact ⟨t, rfl, h⟩
  | fault _ => simp [nextOk] at h
  | refused _ => simp [nextOk] at h
def leavesOk (q : Queue) (s t : State) : Bool := decide ((t.me.queue q).length < (s.me.queue q).length)
theorem leaves_of {q : Queue} {s t : State} (h : leavesOk q s t = true) : leaves q s t := by
  unfold leavesOk at h
  exact @of_decide_eq_true ((t.me.queue q).length < (s.me.queue q).length) _ h

/-! ### The frames -/

def frontRun (i : Instr) (f : Fields) (s : State) : Bool := noErrorsOk s && canonicalOk s && frontTakes i f s && nextOk (exec i s) (fun t => decide (t.me.seq = s.me.seq + 1))
theorem frontRun_of {op : Fields → Instr} {l : List Fields} {s : State} (h : l.any (fun f => frontRun (op f) f s) = true) :
    ∃ (f : Fields) (t : State), NoErrors s ∧ MemOk s ∧ frontTakes (op f) f s = true ∧ exec (op f) s = .next t ∧ t.me.seq = s.me.seq + 1 := by
  obtain ⟨f, -, h⟩ := List.any_eq_true.1 h
  simp only [frontRun, Bool.and_eq_true] at h
  obtain ⟨t, ht, hs⟩ := nextOk_iff h.2
  exact ⟨f, t, noErrors_of h.1.1.1, memOk_of h.1.1.2, h.1.2, ht, of_decide_eq_true hs⟩
/-- The forms tried. -/
def plainForms : List Fields := [frontF 6, oneF 6, predF, { predF with b := .none }, { frontF 16 with c := .s 8 }, { frontF 6 with c := .p 2 }, cmpF, { cmpF with d := .p 1 },
  frontF 16, { oneF 16 with sub := 16 }, { frontF 16 with d := .p 1 }, { frontF 6 with e := .p 2 }]
theorem wit_FrontFrame : ∀ op ∈ [Instr.add, .mul, .pand, .por, .pxor, .cmp, .sfadd, .sfmul], ∃ (f : Fields) (s t : State), NoErrors s ∧ MemOk s ∧ frontTakes (op f) f s = true ∧
    exec (op f) s = .next t ∧ t.me.seq = s.me.seq + 1 := by
  intro op ho
  obtain ⟨f, t, h⟩ := frontRun_of (all_of (show [Instr.add, .mul, .pand, .por, .pxor, .cmp, .sfadd, .sfmul].all (fun op => plainForms.any (fun f => frontRun (op f) f two9)) =
    true by decide +kernel) op ho)
  exact ⟨f, two9, t, h⟩
theorem wit_FrontFrame_queue : ∀ op ∈ [Instr.mgo, .mark], ∃ (f : Fields) (s t : State), NoErrors s ∧ MemOk s ∧ frontTakes (op f) f s = true ∧ exec (op f) s = .next t ∧
    t.me.seq = s.me.seq + 1 := by
  intro op ho
  obtain ⟨f, t, h⟩ := frontRun_of (l := [{}]) (all_of (show [Instr.mgo, .mark].all (fun op => [({} : Fields)].any (fun f => frontRun (op f) f two9)) = true by decide +kernel) op ho)
  exact ⟨f, two9, t, h⟩
theorem wit_ReadersFrame : ∃ (f : Fields) (q : Queue) (sp : ISpec) (e : QEntry) (s t : State), NoErrors s ∧ MemOk s ∧ NoneLate s.me ∧
    headTakes (.lda f) f q sp e s = true ∧ exec (.lda f) s = .next t ∧ leaves q s t := by
  let f : Fields := { ldF with scp := 4 }
  let e := entry (.lda f) (dataVa + 15) 0 0 0
  let s := atHead loaded .L e
  have h : (noErrorsOk s && canonicalOk s && noneLateOk s.me && headOk (.lda f) f .L e s && nextOk (exec (.lda f) s) (leavesOk .L s)) = true := by decide +kernel
  simp only [Bool.and_eq_true] at h
  obtain ⟨sp, hs⟩ := head_of h.1.2
  obtain ⟨t, ht, hl⟩ := nextOk_iff h.2
  exact ⟨f, .L, sp, e, s, t, noErrors_of h.1.1.1.1, memOk_of h.1.1.1.2, noneLate_of h.1.1.2, hs, ht, leaves_of hl⟩
theorem wit_ElementFrame : ∃ (f : Fields) (q : Queue) (sp : ISpec) (e : QEntry) (s s1 t : State) (F : Fmt) (a b c : List Nat), fieldFmt f = some F ∧ NoErrors s ∧ MemOk s ∧
    headTakes (.vadd f) f q sp e s = true ∧ VecArgs f e F s s1 a b c ∧ exec (.vadd f) s = .next t := by
  let f := vecF 5 0 (.v 6) .none
  let e := vecE (.vadd f)
  let s := atHead bench .C e
  have h : (noErrorsOk s && canonicalOk s && headOk (.vadd f) f .C e s && nextOk (exec (.vadd f) s) (fun _ => true) &&
      okOr (s.vArg e (shpRows e.shp) (shpCols e.shp) (argA f e .int32)) (fun sa => okOr (sa.1.vArg e (shpRows e.shp) (shpCols e.shp) (argB f e .int32)) (fun sb =>
        okOr (sb.1.vArg e (shpRows e.shp) (shpCols e.shp) (argC f e .int32)) (fun _ => true)))) = true := by decide +kernel
  simp only [Bool.and_eq_true] at h
  obtain ⟨⟨⟨⟨h1, h2⟩, h3⟩, h4⟩, h5⟩ := h
  obtain ⟨sp, hs⟩ := head_of h3
  obtain ⟨t, ht, -⟩ := nextOk_iff h4
  obtain ⟨⟨sa, a⟩, ha, hb⟩ := okOr_iff h5
  obtain ⟨⟨sb, b⟩, hb, hc⟩ := okOr_iff hb
  obtain ⟨⟨sc, c⟩, hc, -⟩ := okOr_iff hc
  exact ⟨f, .C, sp, e, s, sc, t, .int32, a, b, c, rfl, noErrors_of h1, memOk_of h2, hs, ⟨sa, sb, ha, hb, hc⟩, ht⟩
theorem wit_StoresFrame : ∃ (f : Fields) (q : Queue) (sp : ISpec) (e : QEntry) (s s1 t : State) (ps : List Piece), NoErrors s ∧ MemOk s ∧ NoneLate s.me ∧
    headTakes (.strel f) f q sp e s = true ∧ Places s (eaOf f e) 8 8 .write s1 ps ∧ exec (.strel f) s = .next t := by
  let f : Fields := { stF with scp := 4 }
  let e := entry (.strel f) (dataVa + 248) 0 7 0
  let s := atHead bench .S e
  have h : (noErrorsOk s && canonicalOk s && noneLateOk s.me && headOk (.strel f) f .S e s && nextOk (exec (.strel f) s) (fun _ => true) &&
      placesOk s (eaOf f e) 8 8 .write (fun _ _ => true)) = true := by
    decide +kernel
  simp only [Bool.and_eq_true] at h
  obtain ⟨⟨⟨⟨⟨h1, h2⟩, h0⟩, h3⟩, h4⟩, h5⟩ := h
  obtain ⟨sp, hs⟩ := head_of h3
  obtain ⟨t, ht, -⟩ := nextOk_iff h4
  obtain ⟨s1, ps, hp, -⟩ := places_of h5
  exact ⟨f, .S, sp, e, s, s1, t, ps, noErrors_of h1, memOk_of h2, noneLate_of h0, hs, hp, ht⟩
theorem wit_AtomicFrame : ∃ (f : Fields) (q : Queue) (sp : ISpec) (e : QEntry) (s s1 t : State) (F : Fmt) (ps : List Piece) (bs : List Byte), fieldFmt f = some F ∧ NoErrors s ∧
    MemOk s ∧ NoneLate s.me ∧ headTakes (.aadd f) f q sp e s = true ∧ AtomicReads f e F s s1 ps bs ∧ exec (.aadd f) s = .next t := by
  let f := atF 6 false .none
  let e := entry (.aadd f) dataVa 0 1 0
  let s := atHead loaded .S e
  have h : (noErrorsOk s && canonicalOk s && noneLateOk s.me && headOk (.aadd f) f .S e s && nextOk (exec (.aadd f) s) (fun _ => true) &&
      placesOk s (eaOf f e) 8 8 .atomic (fun s0 ps0 =>
        let ps := s0.cached (policyOf f.hint 0) ps0
        let t := atomicAt f s0 ps
        ps.all (fun x => match x with | .remote .. => false | _ => true) && (t.readPieces t.myCore ps).bytes.length == 8 &&
        (t.readPieces t.myCore ps).poison.isNone)) = true := by decide +kernel
  simp only [Bool.and_eq_true] at h
  obtain ⟨⟨⟨⟨⟨h1, h2⟩, h0⟩, h3⟩, h4⟩, h5⟩ := h
  obtain ⟨sp, hs⟩ := head_of h3
  obtain ⟨t, ht, -⟩ := nextOk_iff h4
  obtain ⟨s0, ps0, hp, hq⟩ := places_of h5
  simp only [Bool.and_eq_true, Option.isNone_iff_eq_none, beq_iff_eq] at hq
  refine ⟨f, .S, sp, e, s, _, t, .int64, _, _, rfl, noErrors_of h1, memOk_of h2, noneLate_of h0, hs, ⟨s0, _, ps0, hp, rfl, ?_, hq.1.2, rfl, hq.2, rfl, rfl⟩, ht⟩
  intro pos off n hps
  simp [hps] at hq
theorem wit_RadvFrame : ∃ (f : Fields) (q : Queue) (sp : ISpec) (e : QEntry) (s t : State) (ps : List Piece), NoErrors s ∧ MemOk s ∧ NoneLate s.me ∧
    headTakes (.radv f) f q sp e s = true ∧ s.regionPlace s.myCore (regionKey s.me e.a.toNat) = .ok ps ∧ exec (.radv f) s = .next t ∧ leaves q s t := by
  let e := entry (.radv radvF) 0 0 0 0
  let s := atHead regional .S e
  have h : (noErrorsOk s && canonicalOk s && noneLateOk s.me && headOk (.radv radvF) radvF .S e s && nextOk (exec (.radv radvF) s) (leavesOk .S s) &&
      okOr (s.regionPlace s.myCore (regionKey s.me e.a.toNat)) (fun _ => true)) = true := by decide +kernel
  simp only [Bool.and_eq_true] at h
  obtain ⟨⟨⟨⟨⟨h1, h2⟩, h0⟩, h3⟩, h4⟩, h5⟩ := h
  obtain ⟨sp, hs⟩ := head_of h3
  obtain ⟨t, ht, hl⟩ := nextOk_iff h4
  obtain ⟨ps, hp, -⟩ := okOr_iff h5
  exact ⟨radvF, .S, sp, e, s, t, ps, noErrors_of h1, memOk_of h2, noneLate_of h0, hs, hp, ht, leaves_of hl⟩
/-- A tile store that performs on the bench, its elements at the coordinates `at_` gives. -/
def TileFrameWit (i : Fields → Instr) (per : Fields → Bool) (at_ : State → Fields → QEntry → Nat × Nat → Coord) : Prop :=
  ∃ (f : Fields) (q : Queue) (sp : ISpec) (e : QEntry) (s t : State) (ps : List ElemAt), NoErrors s ∧ MemOk s ∧ NoneLate s.me ∧
    headTakes (i f) f q sp e s = true ∧ exec (i f) s = .next t ∧ s.tileChecks f e true (per f) ((elemsOf e s f).map (at_ s f e)) = .ok ps
theorem tileFrame_of {i : Fields → Instr} {per : Fields → Bool} {at_ : State → Fields → QEntry → Nat × Nat → Coord} {f : Fields} {e : QEntry} {s : State}
    (h : (noErrorsOk s && canonicalOk s && noneLateOk s.me && headOk (i f) f .S e s && nextOk (exec (i f) s) (fun _ => true) &&
      okOr (s.tileChecks f e true (per f) ((elemsOf e s f).map (at_ s f e))) (fun _ => true)) = true) : TileFrameWit i per at_ := by
  simp only [Bool.and_eq_true] at h
  obtain ⟨⟨⟨⟨⟨h1, h2⟩, h0⟩, h3⟩, h4⟩, h5⟩ := h
  obtain ⟨sp, hs⟩ := head_of h3
  obtain ⟨t, ht, -⟩ := nextOk_iff h4
  obtain ⟨ps, hp, -⟩ := okOr_iff h5
  exact ⟨f, .S, sp, e, s, t, ps, noErrors_of h1, memOk_of h2, noneLate_of h0, hs, ht, hp⟩
theorem wit_StvFrame : TileFrameWit .stv (fun _ => false) (fun _ f e p => tileCoord f e p.1 p.2) :=
  tileFrame_of (f := tileF (.s 7) false) (e := tileE (.stv (tileF (.s 7) false)) 4 0x600000006 [])
    (s := atHead bench .S (tileE (.stv (tileF (.s 7) false)) 4 0x600000006 [])) (by decide +kernel)
theorem wit_StgFrame : TileFrameWit .stg (fun f => f.sub == 0) (fun s f e p => s.gatherMap f e p.1 p.2) :=
  tileFrame_of (f := tileF (.v 6) false) (e := tileE (.stg (tileF (.v 6) false)) 4 6 [])
    (s := atHead bench .S (tileE (.stg (tileF (.v 6) false)) 4 6 [])) (by decide +kernel)
def postE : QEntry := recE (.sempost semF) 3
def postS : State := atHead (withRec 4 2 true) .S postE
def placedOk (x : LmRes) : Bool := match x with
  | .ok _ _ => true
  | .busy _ _ | .bad _ _ => false
theorem placedOk_iff {x : LmRes} (h : placedOk x = true) : ∃ c o, x = .ok c o := by
  cases x with
  | ok c o => exact ⟨c, o, rfl⟩
  | busy _ _ => simp [placedOk] at h
  | bad _ _ => simp [placedOk] at h
theorem wit_RecordsFrame : ∃ (f : Fields) (q : Queue) (sp : ISpec) (e : QEntry) (s t : State) (core off : Nat), NoErrors s ∧ MemOk s ∧ NoneLate s.me ∧ headTakes (.sempost f) f q sp e s = true ∧
    s.lmOperand (e.entry f.a) (offVal f.b e.b) (selOf f e) 4 4 true true = .ok core off ∧ (s.me.pushTokens q f.tk []).2 = false ∧ exec (.sempost f) s = .next t ∧ leaves q s t := by
  have h : (noErrorsOk postS && canonicalOk postS && noneLateOk postS.me && headOk (.sempost semF) semF .S postE postS && !((postS.me.pushTokens .S semF.tk []).2) &&
      nextOk (exec (.sempost semF) postS) (leavesOk .S postS) && placedOk (postS.lmOperand (postE.entry semF.a) (offVal semF.b postE.b) (selOf semF postE) 4 4 true true)) = true := by
    decide +kernel
  simp only [Bool.and_eq_true, Bool.not_eq_true'] at h
  obtain ⟨⟨⟨⟨⟨⟨h1, h2⟩, h0⟩, h3⟩, h4⟩, h5⟩, h6⟩ := h
  obtain ⟨sp, hs⟩ := head_of h3
  obtain ⟨t, ht, hl⟩ := nextOk_iff h5
  obtain ⟨core, off, ho⟩ := placedOk_iff h6
  exact ⟨semF, .S, sp, postE, postS, t, core, off, noErrors_of h1, memOk_of h2, noneLate_of h0, hs, ho, h4, ht, leaves_of hl⟩

end Sys2Proof.Tests
end

