-- ==== Sys2Proof/Tests/Witness4.lean ====
section
/-! SUPPORT. Witnesses for the statements about the events of the strands and of the matrix array. -/

set_option Elab.async false

namespace Sys2Proof.Tests

open Sys2Proof.Machine Sys2Proof.Claims

/-! ### Decode, results, timers -/

/-- The decode of slot 0 finds its line; `p` looks at the line. -/
def lineHere (s : State) (p : BitVec 512 → Bool) : Bool :=
  let s0 := s.decodes 0
  let t := s.strand 0
  s.decodeReady 0 && decide (t.pc.toNat / 3 < 2 ^ 58) &&
  (match s0.translate (coreOf 0) t.pasid t.sys (BitVec.ofNat 64 (64 * (t.pc.toNat / 3))) .fetch with
   | .ok sp off _ _ =>
     let g := s0.readPieces (coreOf 0) [s0.pieceAt sp off 64 64]
     let line := BitVec.ofNat 512 (leNat g.bytes)
     s.ubits.all (fun u => u.line != lineKey sp off) && (s0.piecesFate false [s0.pieceAt sp off 64 64]).isNone && !(s0.beyond (s0.pieceAt sp off 64 64)) && g.poison.isNone && line.setWidth 32 == 0xC9000000#32 &&
     (tabFind (s0.core (coreOf 0)).icache (lineKey sp off)).isNone && p line
   | _ => false)
def LineWit (p : BitVec 512 → Bool) : Prop := ∃ (s : State) (sp : MemSpace) (off left size : Nat) (line : BitVec 512),
  let s0 := s.decodes 0
  let t := s.strand 0
  let g := s0.readPieces (coreOf 0) [s0.pieceAt sp off 64 64]
  s.decodeReady 0 = true ∧ t.pc.toNat / 3 < 2 ^ 58 ∧
    s0.translate (coreOf 0) t.pasid t.sys (BitVec.ofNat 64 (64 * (t.pc.toNat / 3))) .fetch = .ok sp off left size ∧
    (∀ u ∈ s.ubits, u.line ≠ lineKey sp off) ∧ s0.piecesFate false [s0.pieceAt sp off 64 64] = none ∧ s0.beyond (s0.pieceAt sp off 64 64) = false ∧ g.poison = none ∧ BitVec.ofNat 512 (leNat g.bytes) = line ∧ line.setWidth 32 = 0xC9000000#32 ∧
    tabFind (s0.core (coreOf 0)).icache (lineKey sp off) = none ∧ p line = true
theorem line_of {s : State} {p : BitVec 512 → Bool} (h : lineHere s p = true) : LineWit p := by
  simp only [lineHere, Bool.and_eq_true, decide_eq_true_eq] at h
  obtain ⟨⟨h1, h2⟩, h3⟩ := h
  split at h3
  · rename_i sp off left size ht
    simp only [Bool.and_eq_true, Option.isNone_iff_eq_none, beq_iff_eq, Bool.not_eq_true'] at h3
    obtain ⟨⟨⟨⟨⟨⟨h3, h0⟩, hb⟩, h4⟩, h5⟩, h6⟩, h7⟩ := h3
    exact ⟨s, sp, off, left, size, _, h1, h2, ht, fun u hu => by simpa using List.all_eq_true.1 h3 u hu, h0, hb, h4, rfl, h5, h6, h7⟩
  · simp at h3
def lineDecodes (line : BitVec 512) : Bool := match decodeWord (line.extractLsb' 32 160) with
  | .ok _ => true
  | .bad _ _ => false
theorem wit_Decode_word : LineWit lineDecodes :=
  line_of (s := { State.reset.withFetchWord 160 0x0D9DC00000000000000000000000000000000000 with agenda := [] }) (by decide +kernel)
theorem wit_Decode_bad : LineWit (fun l => !(lineDecodes l)) := line_of (s := bench) (by decide +kernel)

/-- A window that is over, and one that is not. -/
def windowOver : Flight := { pos := 0, endsAt := some 0, dsts := [.s 5] }
def open_ : Flight := { pos := 0, endsAt := some 7, dsts := [.s 6] }
def inFlight (l : List Flight) : State := bench.setStrand 0 { regs [] with flight := l }
theorem wit_Results_windowEnd : ∃ (s : State) (pre post : List Flight) (f : Flight), (s.strand 0).flight = pre ++ f :: post ∧
    (∃ e, f.endsAt = some e ∧ e ≤ s.cycle) ∧ (∀ x ∈ pre, ∀ e, x.endsAt = some e → s.cycle < e) := by
  refine ⟨inFlight [open_, windowOver], [open_], [], windowOver, rfl, ⟨0, rfl, Nat.zero_le _⟩, ?_⟩
  intro x hx e he
  simp only [List.mem_singleton] at hx
  subst hx
  cases he
  decide +kernel
theorem wit_Results_delivery : ∃ (s : State) (pre post : List Flight) (f : Flight), (s.strand 0).flight = pre ++ f :: post ∧
    f.endsAt = none ∧ f.ack = false ∧ s.replied 0 f = true ∧ (∀ x ∈ pre, x.endsAt ≠ none ∨ x.ack = true ∨ s.replied 0 x = false) ∧
    (∀ d ∈ f.dsts, d ∉ (s.strand 0).contested ∧ ∀ x ∈ pre ++ post, d ∉ x.dsts) := by
  refine ⟨inFlight [open_, { open_ with endsAt := none, dsts := [.s 9], vals := [4] }], [open_], [], _, rfl, rfl, rfl, by decide +kernel, ?_, ?_⟩
  · intro x hx; simp only [List.mem_singleton] at hx; subst hx; left; decide
  · decide +kernel
theorem wit_Results_reply : ∃ (s : State) (pre post : List Flight) (f : Flight), (s.strand 0).flight = pre ++ f :: post ∧ f.ack = true ∧ s.replied 0 f = true ∧
    ∀ x ∈ pre, x.ack = false ∨ s.replied 0 x = false :=
  ⟨inFlight [windowOver, { windowOver with ack := true }], [windowOver], [], _, rfl, rfl, by decide +kernel, by simp [windowOver]⟩
theorem wit_Results_room : ∀ q ∈ [Queue.L, .C, .S], (({} : Strand).pushTokens q 3 []).2 = false ∧
    (({ tlc := 8, tcl := 8, tcs := 8, tsc := 8 } : Strand).pushTokens q 3 []).2 = true := by decide

def waiter (i : Instr) : QEntry := { entry i 0 0 0 0 with waiting := some 0, tried := some 1 }
/-! ### Stops, retirement, deadlines -/

theorem wit_Stop : ∃ (s : State) (r : TrapRec), (s.strand 0).stopping = some r ∧ s.fqFull = false ∧ r.cyc ≠ some s.cycle ∧ (s.strand 0).diverting = none ∧ s.quiet 0 = true :=
  ⟨bench.setStrand 0 { regs [] with stopping := some { code := .software, eng := 0 } }, _, rfl, by decide +kernel, by decide, rfl, by decide +kernel⟩
theorem wit_Stop_draining : ∃ (s : State) (r : TrapRec), (s.strand 0).stopping = some r ∧ s.fqFull = false ∧ (s.strand 0).diverting ≠ none ∧ r.cyc ≠ some s.cycle :=
  ⟨bench.setStrand 0 { regs [] with diverting := some 1, stopping := some { code := .software, eng := 0 } }, _, rfl, by decide +kernel, by decide, by decide⟩
theorem wit_Retire : ∃ s : State, (s.strand 0).halting = true ∧ (s.strand 0).stopping = none ∧ (s.strand 0).preempting = false ∧ (s.strand 0).killing = false ∧ s.haltDone 0 = true ∧
    (s.strand 0).st ∈ [SState.run, .wrap, .held] ∧ s.rdBlocked 0 = false :=
  ⟨bench.setStrand 0 { regs [] with halting := true, tlc := 3 }, rfl, rfl, rfl, rfl, by decide +kernel, by decide +kernel, by decide +kernel⟩
/-- A strand whose launch deadline is the present, with a sub-deadline before and after. -/
def due (st : SState) (sub : Option Nat) : State := bench.setStrand 0 { regs [] with st := st, dlns := 0, dlnn := 0, sub := sub }
theorem wit_Deadline : ∀ st ∈ [SState.run, .held, .stop, .sysw], ∃ (s : State) (d : Nat), let t := s.strand 0
    t.stopping = none ∧ t.halting = false ∧ t.killing = false ∧ t.diverting = none ∧ t.st = st ∧ (t.st = .run ∨ t.saved ≠ .wrap) ∧ t.inTlbi = false ∧ t.deadline = some d ∧ d ≤ s.time := by
  intro st hst
  have h := all_of (show [SState.run, .held, .stop, .sysw].all (fun st => let t := (due st none).strand 0
    t.stopping.isNone && !t.halting && !t.killing && t.diverting.isNone && t.st == st && t.saved != .wrap && !t.inTlbi && t.deadline == some 0) = true by decide +kernel) st hst
  simp only [Bool.and_eq_true, Option.isNone_iff_eq_none, Bool.not_eq_true', beq_iff_eq, bne_iff_ne, ne_eq] at h
  obtain ⟨⟨⟨⟨⟨⟨⟨h1, h2⟩, h3⟩, h4⟩, h5⟩, h6⟩, h8⟩, h7⟩ := h
  exact ⟨due st none, 0, h1, h2, h3, h4, h5, .inr h6, h8, h7, Nat.zero_le _⟩
theorem wit_Deadline_sub : ∃ (s : State) (d : Nat), let t := s.strand 0
    t.stopping = none ∧ t.halting = false ∧ t.killing = false ∧ t.diverting = none ∧ t.st = .run ∧ t.launchDeadline = none ∧ t.deadline = some d ∧ d ≤ s.time :=
  ⟨bench.setStrand 0 { regs [] with sub := some 0 }, 0, rfl, rfl, rfl, rfl, by decide +kernel, by decide +kernel, by decide +kernel, Nat.zero_le _⟩
theorem wit_Wrapup : ∃ (s : State) (c : BitVec 3), let t := s.strand 0
    t.diverting = some c ∧ t.stopping = none ∧ t.preempting = false ∧ s.quiet 0 = true ∧ s.matrixLeft 0 = false :=
  ⟨bench.setStrand 0 { regs [] with diverting := some 1 }, 1, rfl, rfl, rfl, by decide +kernel, by decide +kernel⟩
theorem wit_Budget : ∃ s : State, let t := s.strand 0
    let s1 := (s.discardWork 0).modStrand 0 (fun u => { u with killing := true })
    t.killing = false ∧ BudgetOut t s.cycle ∧ s1.quiet 0 = true ∧ s1.matrixLeft 0 = false ∧ s1.fqFull = false ∧ s1.rdBlocked 0 = false :=
  ⟨bench.setStrand 0 { regs [] with st := .wrap, budget := some 0 }, rfl, ⟨.inl rfl, rfl, rfl, 0, rfl, Nat.zero_le _⟩, by decide +kernel, by decide +kernel,
    by decide +kernel, by decide +kernel⟩
/-- A wait of LDFE and one of SEMWAIT whose limits are over. -/
theorem wit_Timer : ∀ i ∈ [Instr.ldfe {}, .semwait {}], ∃ (s : State) (e : QEntry) (r : List QEntry) (w x : Nat) (sp : ISpec), let t := s.strand 0
    e.instr = i ∧ t.queue .L = e :: r ∧ e.waiting = some w ∧ w + t.limit ≤ s.cycle ∧ e.tried = some x ∧ w + t.limit ≤ x ∧
    t.stopping = none ∧ t.diverting = none ∧ t.preempting = false ∧ ispec e.instr = some sp := by
  intro i hi
  let e : QEntry := { waiter i with tried := some (2 ^ 30) }
  have hs : ∃ sp, ispec i = some sp := by
    simp only [List.mem_cons, List.not_mem_nil, or_false] at hi
    rcases hi with rfl | rfl <;> exact ⟨_, rfl⟩
  obtain ⟨sp, hs⟩ := hs
  have hl : ((({ bench with cycle := 2 ^ 30 } : State).setStrand 0 ((regs []).setQueue .L [e])).strand 0).limit ≤ 2 ^ 30 := by
    show (regs []).limit ≤ 2 ^ 30
    decide +kernel
  exact ⟨({ bench with cycle := 2 ^ 30 } : State).setStrand 0 ((regs []).setQueue .L [e]), e, [], 0, 2 ^ 30, sp, rfl, rfl, rfl, by simpa using hl, rfl, by simpa using hl,
    rfl, rfl, rfl, hs⟩
theorem wit_Wfe : ∃ (s : State) (w : WfeWait), (s.strand 0).wfe = some w ∧ w.until_ ≤ s.cycle ∧ (s.strand 0).unstopped s.cycle = true :=
  ⟨bench.setStrand 0 { regs [] with wfe := some ⟨0, 1, 8, 0⟩ }, _, rfl, Nat.zero_le _, by decide +kernel⟩
theorem wit_UserInterrupt : ∃ s : State, let t := s.strand 0
    frontReady s.cycle t = true ∧ t.calling = none ∧ t.st ≠ .wrap ∧ t.uisEn = true ∧ t.uisInh = false ∧ t.uisCause &&& ~~~t.uisMask ≠ 0 :=
  ⟨bench.setStrand 0 { regs [] with uisEn := true, uisCause := 9, uisMask := 1 }, by decide +kernel, by decide +kernel, by decide +kernel, rfl, rfl, by decide +kernel⟩

/-! ### Operations of the matrix queue -/

/-- A tensor in local memory at `base`, 64 by 64 of the format's code, `row` bytes a row. -/
def lmTensor (typ base row : Nat) (scaled : Bool) : BitVec 512 :=
  BitVec.ofNat 512 (1 + 64 + 128 + typ * 2 ^ 12 + 2 ^ 17 + (if scaled then 2 ^ 19 + 5 * 2 ^ 32 else 0) + base * 2 ^ 64 + 64 * 2 ^ 128 + 64 * 2 ^ 160 + row * 2 ^ 256 +
    row * 64 * 2 ^ 448)
/-- A mode of one by one by one: INT8, or E4M3. -/
def modeInt8 : Word := BitVec.ofNat 64 (2 + 2 * 32 + 2 ^ 10)
def modeE4m3 : Word := BitVec.ofNat 64 (20 + 20 * 32)
def cfgInt8 : NestCfg := { ahE := lmTensor 2 0 64 false, mode := modeInt8 }
def cfgScaled : NestCfg := { ahE := lmTensor 20 0 64 true, mode := modeE4m3 }
def opOf (i : Instr) (g : NestCfg) : MatOp := { instr := i, slot := 0, pos := 0, ring := 0, seq := 0, cfg := g, handles := [(3, lmTensor 2 (2 ^ 19) 64 false)] }
def queued (l : List MatOp) : State := bench.modCore 0 (fun c => { c with matq := l })
theorem queued_matq (l : List MatOp) : ((queued l).core 0).matq = l := by
  unfold queued
  rw [core_modCore bench_cores]
theorem maySt {o : MatOp} {r : List MatOp} {s : State} (hq : (s.core 0).matq = o :: r) (h : (!o.running && (!(s.testDue (s.core 0)) || o.started) &&
    (mayIssue s.cycle (s.strand o.slot) || o.loaded && (s.strand o.slot).draining) && (s.core 0).matStop != some o.slot && coreOf o.slot == 0) = true) : MayStart s 0 o r := by
  simp only [Bool.and_eq_true, Bool.or_eq_true, Bool.not_eq_true', bne_iff_ne, ne_eq, beq_iff_eq] at h
  exact ⟨hq, h.1.1.1.1, h.1.1.1.2, h.1.1.2, h.1.2, h.2⟩
theorem wit_Matrix_start : ∃ (s : State) (o : MatOp) (r : List MatOp), MayStart s 0 o r ∧ ∀ f, o.instr ≠ .mgo f :=
  ⟨queued [opOf (.mswap {}) {}], opOf (.mswap {}) {}, [], maySt (queued_matq _) (by decide +kernel), fun f h => by cases h⟩
def loadedMpre : MatOp := { opOf (.mpre {}) {} with loaded := true }
def drainsLoaded : State := (queued [loadedMpre]).setStrand 0 { regs [] with diverting := some 1 }
theorem drainsLoaded_matq : (drainsLoaded.core 0).matq = [loadedMpre] := by
  rw [drainsLoaded, core_setStrand]; exact queued_matq _
/-- A loaded MPRE of a strand that drains begins, to complete (R214). -/
theorem wit_Matrix_start_loaded : ∃ (s : State) (o : MatOp) (r : List MatOp), MayStart s 0 o r ∧ (∀ f, o.instr ≠ .mgo f) ∧ (s.strand o.slot).draining = true :=
  ⟨drainsLoaded, loadedMpre, [], maySt drainsLoaded_matq (by decide +kernel), fun f h => (by cases h), by decide +kernel⟩
/-- A nest that a trap stopped goes on although a self-test is due (R212). -/
theorem wit_Matrix_nest_test_due : ∃ (s : State) (o : MatOp) (r : List MatOp), MayStart s 0 o r ∧ o.instr = .mgo {} ∧ o.started = true ∧ s.testDue (s.core 0) = true :=
  ⟨bench.modCore 0 (fun c => { c with mstat := { c.mstat with nslt := 4096 }, matq := [{ opOf (.mgo {}) cfgInt8 with started := true }] }),
    { opOf (.mgo {}) cfgInt8 with started := true }, [], maySt (by rw [core_modCore bench_cores]) (by decide +kernel), rfl, rfl, by decide +kernel⟩
theorem wit_Matrix_nest_again : ∃ (s : State) (o : MatOp) (r : List MatOp), MayStart s 0 o r ∧ o.instr = .mgo {} ∧ o.started = true :=
  ⟨queued [{ opOf (.mgo {}) cfgInt8 with started := true }], _, [], maySt (queued_matq _) (by decide +kernel), rfl, rfl⟩
theorem wit_Matrix_nest : ∃ (s : State) (o : MatOp) (r : List MatOp), MayStart s 0 o r ∧ o.instr = .mgo {} ∧ o.started = false ∧ scaledA o.cfg = false ∧ s.nestBad o 0 = none :=
  ⟨queued [opOf (.mgo {}) cfgInt8], _, [], maySt (queued_matq _) (by decide +kernel), rfl, rfl, by decide +kernel, by decide +kernel⟩
/-- The handle table in the data page, with the scale tensor as entry 5. -/
def scaled : State :=
  let s := (bench.writeMem (.device .service) false .il 320 (leBytes 64 (lmTensor 25 65536 64 false).toNat)).setStrand 0 { regs [] with htb := dataVa }
  s.modCore 0 (fun c => { c with matq := [opOf (.mgo {}) cfgScaled] })
theorem wit_Matrix_nest_scaled : ∃ (s : State) (o : MatOp) (r : List MatOp) (s1 : State) (scl : BitVec 512), MayStart s 0 o r ∧ o.instr = .mgo {} ∧ o.started = false ∧
    scaledA o.cfg = true ∧ s.nestBadFirst o = none ∧ s.readHandle o.slot (hSclh o.cfg.ahE) = .ok (s1, scl) ∧ s1.nestBad o scl = none ∧ (s1.core 0).matq = o :: r := by
  have h : okOr (scaled.readHandle 0 5) (fun x => (x.1.nestBad (opOf (.mgo {}) cfgScaled) x.2).isNone && (x.1.core 0).matq == [opOf (.mgo {}) cfgScaled]) = true := by
    decide +kernel
  obtain ⟨⟨s1, scl⟩, h1, h2⟩ := okOr_iff h
  simp only [Bool.and_eq_true, Option.isNone_iff_eq_none, beq_iff_eq] at h2
  have hq : (scaled.core 0).matq = [opOf (.mgo {}) cfgScaled] := by decide +kernel
  have hsc : hSclh (opOf (.mgo {}) cfgScaled).cfg.ahE = 5 := by decide +kernel
  exact ⟨scaled, _, [], s1, scl, maySt hq (by decide +kernel), rfl, rfl, by decide +kernel, by decide +kernel, by rw [hsc]; exact h1, h2.1, h2.2⟩
theorem wit_Matrix_nest_bad : ∃ (s : State) (o : MatOp) (r : List MatOp) (c : TrapCode) (sub : Nat), MayStart s 0 o r ∧ o.instr = .mgo {} ∧ o.started = false ∧
    scaledA o.cfg = false ∧ s.nestBad o 0 = some (c, sub) :=
  ⟨queued [opOf (.mgo {}) {}], opOf (.mgo {}) {}, [], .handleInvalid, 0, maySt (queued_matq _) (by decide +kernel), rfl, rfl, by decide +kernel, by decide +kernel⟩
theorem wit_Matrix_nest_bad_first : ∃ (s : State) (o : MatOp) (r : List MatOp) (b : TrapCode × Nat), MayStart s 0 o r ∧ o.instr = .mgo {} ∧ o.started = false ∧
    s.nestBadFirst o = some b :=
  ⟨queued [opOf (.mgo {}) {}], opOf (.mgo {}) {}, [], (.handleInvalid, 0), maySt (queued_matq _) (by decide +kernel), rfl, rfl, by decide +kernel⟩

def mpreF : Fields := { a := .h 3, b := .s 7 }
def mpreOp : MatOp := opOf (.mpre mpreF) cfgInt8
/-- A nest that runs, and an MPRE behind it whose weights lie in another bank group. -/
def behind : State := queued [{ opOf (.mgo {}) cfgInt8 with running := true, started := true }, mpreOp]
theorem wit_Matrix_mpre : ∃ (s s1 : State) (x o : MatOp) (ahead : List MatOp) (mine : List Nat), splitMpre (s.core 0).matq = (x :: ahead, some o) ∧ o.loaded = false ∧
    mayIssue s.cycle (s.strand o.slot) = true ∧
    (let n := if isCpx o.cfg.fb then 32 else 64
     s.rectGroups o (handleEntry o o.flds.a) (pairX0 o.b) (pairX1 o.b) n (if mSparse o.cfg.mode then 32 else n) = some mine) ∧
    (∀ y ∈ x :: ahead, ∃ gs, s.aheadGroups y = some gs ∧ ∀ g ∈ gs, g ∉ mine) ∧ (mpreWork 0 o s).2 = .ok s1 := by
  have h : okOr (mpreWork 0 mpreOp behind).2 (fun _ => true) = true := by decide +kernel
  obtain ⟨s1, h1, -⟩ := okOr_iff h
  refine ⟨behind, s1, _, mpreOp, [], [1], by unfold behind; rw [queued_matq]; rfl, rfl, by decide +kernel, by decide +kernel, ?_, h1⟩
  intro y hy
  simp only [List.mem_singleton] at hy
  subst hy
  exact ⟨[0], by decide +kernel, by decide⟩
theorem wit_SelfTest_due : ∃ s : State, s.testDue (s.core 0) = true ∧ ∀ o ∈ (s.core 0).matq, o.running = false ∧ o.started = false :=
  ⟨bench.modCore 0 (fun c => { c with mstat := { c.mstat with nslt := 4096 }, matq := [opOf (.mgo {}) cfgInt8] }), by decide +kernel, by decide +kernel⟩
theorem wit_SelfTest_now : ∃ (s : State) (o : MatOp) (r : List MatOp), (s.core 0).matq = o :: r ∧ o.instr = .mtestNow {} ∧ o.running = true ∧ o.finished = false :=
  ⟨queued [{ opOf (.mtestNow {}) {} with running := true }], _, [], queued_matq _, rfl, rfl, rfl⟩

/-! ### Passes and completions -/

/-- A nest under way, of one pass, or of two and to stop after the first, as it is diverted. -/
def nestOp (divert : Bool) : MatOp := { opOf (.mgo {}) (if divert then { cfgInt8 with l0 := { cntm1 := 1 } } else cfgInt8) with running := true, started := true, divert := divert }
def rowsOf (s : State) (o : MatOp) : State × Except (TrapCode × Nat) (List (List Cpx)) :=
  let g := o.cfg
  let pt := nextPart o (s.core 0).mstat
  let h := halvesOf g (s.core 0).mstat
  let idx := digitsOf g.counts pt.pass
  let k0 := pt.rh * h.1.2
  (s.modCore 0 (fun k => k.setHeadOp o)).takeRows o (g.ax0.toNat + affine g.as0 idx).toNat (g.ax1.toNat + affine g.as1 idx).toNat k0
    (min h.1.2 (mKE g.mode - k0)) (mRA g.mode)
/-- The diversion stops the nest after this part. -/
def endsPart (s : State) (o : MatOp) : Bool := o.divert && (nextPart o (s.core 0).mstat).last
theorem wit_Nest_pass : ∀ d ∈ [false, true], ∃ (s : State) (o : MatOp) (s1 : State) (a : List (List Cpx)), NestRuns s 0 o [] {} ∧ mAutow o.cfg.mode = false ∧
    rowsOf s o = (s1, .ok a) ∧ endsPart s o = d := by
  intro d hd
  have h := all_of (show [false, true].all (fun d => let s := queued [nestOp d]; let o := nestOp d
    match rowsOf s o with
    | (_, .ok _) => endsPart s o == d
    | _ => false) = true by decide +kernel) d hd
  dsimp only at h
  split at h
  · rename_i s1 a hr
    exact ⟨queued [nestOp d], nestOp d, s1, a, ⟨queued_matq _, rfl, rfl, rfl, rfl⟩, (by cases d <;> decide +kernel), hr, by simpa using h⟩
  · simp at h
/-- The word of A's first element has an uncorrectable error. -/
def lmPoisoned : State := bench.modCore 0 (fun c => { c with matq := [nestOp false], lmBad := [0] })
theorem wit_Nest_fails : ∃ (s s1 : State) (o : MatOp), NestRuns s 0 o [] {} ∧ mAutow o.cfg.mode = false ∧ rowsOf s o = (s1, .error (.dataPoison, 0)) := by
  have h : (match (rowsOf lmPoisoned (nestOp false)).2 with
    | .error b => b == (.dataPoison, 0)
    | .ok _ => false) = true := by decide +kernel
  refine ⟨lmPoisoned, (rowsOf lmPoisoned (nestOp false)).1, nestOp false, ⟨by unfold lmPoisoned; rw [core_modCore bench_cores], rfl, rfl, rfl, rfl⟩, by decide +kernel, ?_⟩
  split at h
  · rename_i b hb
    exact Prod.ext rfl (by rw [hb, beq_iff_eq.1 h])
  · simp at h

def runs (i : Instr) : MatOp := { opOf i cfgInt8 with running := true, a := 1 }
def complete (o : MatOp) : State := queued [o]
theorem head_complete (o : MatOp) : ((complete o).core 0).matq = [o] := queued_matq _
theorem wit_Complete_mpre_loaded : ∃ (s : State) (o : MatOp) (r : List MatOp), (s.core 0).matq = o :: r ∧ o.running = true ∧ o.instr = .mpre mpreF ∧ o.loaded = true :=
  ⟨complete { runs (.mpre mpreF) with loaded := true }, _, [], head_complete _, rfl, rfl, rfl⟩
/-- A read with its errors noted answers a value. -/
def noted {α : Type} (x : State × Except (TrapCode × Nat) α) : Bool := match x.2 with
  | .ok _ => true
  | .error _ => false
theorem noted_iff {α : Type} {x : State × Except (TrapCode × Nat) α} (h : noted x = true) : ∃ s a, x = (s, .ok a) := by
  unfold noted at h
  split at h
  · rename_i a ha; exact ⟨x.1, a, Prod.ext rfl ha⟩
  · simp at h
theorem wit_Complete_mpre : ∃ (s s1 : State) (o : MatOp) (r : List MatOp) (p : Plane) (c : Core), (s.core 0).matq = o :: r ∧ o.running = true ∧ o.instr = .mpre mpreF ∧
    o.loaded = false ∧ coreOf o.slot = 0 ∧ s.noting (State.notePlane o.slot (handleEntry o mpreF.a) (pairX0 o.b) (pairX1 o.b) o.cfg.mode)
      (fun t => t.loadPlane o.slot (handleEntry o mpreF.a) (pairX0 o.b) (pairX1 o.b) o.cfg.mode (masksOf (t.core 0).meta_) o) = (s1, .ok (p, c)) := by
  let o := runs (.mpre mpreF)
  have h : noted ((complete o).noting (State.notePlane o.slot (handleEntry o mpreF.a) (pairX0 o.b) (pairX1 o.b) o.cfg.mode)
      (fun t => t.loadPlane o.slot (handleEntry o mpreF.a) (pairX0 o.b) (pairX1 o.b) o.cfg.mode (masksOf (t.core 0).meta_) o)) = true := by
    decide +kernel
  obtain ⟨s1, ⟨p, c⟩, h1⟩ := noted_iff h
  exact ⟨complete o, s1, o, [], p, c, head_complete _, rfl, rfl, rfl, by decide, h1⟩
/-- The operations whose completion needs nothing but their place: MSWAP, MZERO, MSPMETA, MTEST.ivl, MACCL from a tile. -/
theorem wit_Complete_plain : ∀ i ∈ [Instr.mswap {}, .mzero {}, .mspmeta {}, .mtestIvl {}, .maccl { fmt := 5, b := .v 6 }], ∃ (s : State) (o : MatOp) (r : List MatOp),
    (s.core 0).matq = o :: r ∧ o.running = true ∧ o.instr = i :=
  fun i _ => ⟨complete (runs i), runs i, [], head_complete _, rfl, rfl⟩
/-- Those that have done their work: MGO and MTEST.now. -/
theorem wit_Complete_finished : ∀ i ∈ [Instr.mgo {}, .mtestNow {}], ∃ (s : State) (o : MatOp) (r : List MatOp),
    (s.core 0).matq = o :: r ∧ o.running = true ∧ o.instr = i ∧ o.finished = true ∧ o.divert = false :=
  fun i _ => ⟨complete { runs i with finished := true }, { runs i with finished := true }, [], head_complete _, rfl, rfl, rfl, rfl⟩
theorem wit_Complete_mdrain : ∃ (s s1 : State) (fl : Flags) (o : MatOp) (r : List MatOp) (f : Fields), (s.core 0).matq = o :: r ∧ o.running = true ∧ o.instr = .mdrain f ∧
    s.lmUsed 0 (s.drainWords o) = false ∧ mdrainWork 0 o (s.takeDrain 0 o) = .ok (s1, fl) := by
  let f : Fields := { fmt := 16, d := .v 4, a := .i 1, sub := 1 }
  have h : ∃ x, mdrainWork 0 (runs (.mdrain f)) ((complete (runs (.mdrain f))).takeDrain 0 (runs (.mdrain f))) = .ok x := by unfold mdrainWork; exact ⟨_, rfl⟩
  obtain ⟨⟨s1, fl⟩, h⟩ := h
  exact ⟨complete (runs (.mdrain f)), s1, fl, _, [], f, head_complete _, rfl, rfl, by decide +kernel, h⟩
/-- MDRAIN to a register, and to a tensor that takes it (R209). -/
theorem wit_Mdrain_tile : ∃ (o : MatOp) (f : Fields) (v : BitVec 7) (p : Nat), o.instr = .mdrain f ∧ f.d = .v v ∧ o.dsts = [.v p] :=
  ⟨{ runs (.mdrain { fmt := 16, d := .v 4 }) with dsts := [.v 4] }, _, 4, 4, rfl, rfl, rfl⟩
theorem wit_Mdrain_handle : ∃ (s : State) (o : MatOp) (f : Fields) (h : BitVec 10), o.instr = .mdrain f ∧ f.d = .h h ∧
    s.rectBad o.slot (handleEntry o f.d) (opFmt o) false true (pairX0 o.b) (pairX1 o.b) 64 64 = none ∧ isCpx (opFmt o) = false :=
  ⟨bench, runs (.mdrain { fmt := 2, d := .h 3, b := .s 7 }), _, 3, rfl, rfl, by decide +kernel, by decide +kernel⟩
/-- A row of packed elements has a place in local memory. -/
theorem wit_PutLmRow : ∃ (s : State) (slot : Nat) (e : BitVec 512) (x0 x1 : Nat) (codes : List Nat) (ps : List Piece), codes ≠ [] ∧
    s.lmRange slot (coreOf slot) (hBase e + hElemBit e ⟨x0, x1, 0, 0⟩ / 8) ((hElemBit e ⟨x0, x1, 0, 0⟩ % 8 + codes.length * hBits e + 7) / 8) = .ok ps := by
  have h : okOr (bench.lmRange 0 (coreOf 0) (hBase (lmTensor 2 0 64 false) + hElemBit (lmTensor 2 0 64 false) ⟨1, 2, 0, 0⟩ / 8)
    ((hElemBit (lmTensor 2 0 64 false) ⟨1, 2, 0, 0⟩ % 8 + [3, 4].length * hBits (lmTensor 2 0 64 false) + 7) / 8)) (fun _ => true) = true := by decide +kernel
  obtain ⟨ps, h, -⟩ := okOr_iff h
  exact ⟨bench, 0, _, 1, 2, [3, 4], ps, by simp, h⟩
/-- The plane of a dense and of a SPARSE load (R202, R206). -/
theorem wit_Plane : ∀ m ∈ [modeInt8, modeInt8 + BitVec.ofNat 64 (2 ^ 15)], ∃ (s : State) (o : MatOp) (p : Plane) (c : Core) (rows : List (List Nat)),
    s.lmRows 0 (lmTensor 2 0 64 false) 0 0 64 (if mSparse m then 32 else 64) = .ok rows ∧
    s.loadPlane 0 (lmTensor 2 0 64 false) 0 0 m (masksOf (s.core 0).meta_) o = .ok (p, c) := by
  intro m hm
  have h := all_of (show [modeInt8, modeInt8 + BitVec.ofNat 64 (2 ^ 15)].all (fun m =>
    okOr (bench.lmRows 0 (lmTensor 2 0 64 false) 0 0 64 (if mSparse m then 32 else 64)) (fun _ => true) &&
    okOr (bench.loadPlane 0 (lmTensor 2 0 64 false) 0 0 m (masksOf (bench.core 0).meta_) (runs (.mpre mpreF))) (fun _ => true)) = true by decide +kernel) m hm
  simp only [Bool.and_eq_true] at h
  obtain ⟨rows, h1, -⟩ := okOr_iff h.1
  obtain ⟨⟨p, c⟩, h2, -⟩ := okOr_iff h.2
  exact ⟨bench, _, p, c, rows, h1, h2⟩
theorem wit_Complete_maccl_handle : ∃ (s s1 : State) (o : MatOp) (r : List MatOp) (f : Fields) (rs : List (List Nat)), (s.core 0).matq = o :: r ∧ o.running = true ∧
    o.instr = .maccl f ∧ f.b = .h 3 ∧ s.rectBad o.slot (handleEntry o f.b) (opFmt o) true false (pairX0 o.c) (pairX1 o.c) (tileCols (opFmt o)) 64 = none ∧
    s.noting (fun t => t.noteRows o.slot (handleEntry o f.b) (pairX0 o.c) (pairX1 o.c) (tileCols (opFmt o)) 64)
      (fun t => t.lmRows o.slot (handleEntry o f.b) (pairX0 o.c) (pairX1 o.c) (tileCols (opFmt o)) 64) = (s1, .ok rs) := by
  let f : Fields := { fmt := 2, a := .i 1, b := .h 3, c := .s 7 }
  let o := runs (.maccl f)
  have h : ((complete o).rectBad o.slot (handleEntry o f.b) (opFmt o) true false (pairX0 o.c) (pairX1 o.c) (tileCols (opFmt o)) 64).isNone = true ∧
      noted ((complete o).noting (fun t => t.noteRows o.slot (handleEntry o f.b) (pairX0 o.c) (pairX1 o.c) (tileCols (opFmt o)) 64)
        (fun t => t.lmRows o.slot (handleEntry o f.b) (pairX0 o.c) (pairX1 o.c) (tileCols (opFmt o)) 64)) = true := by decide +kernel
  obtain ⟨s1, rs, h1⟩ := noted_iff h.2
  exact ⟨complete o, s1, o, [], f, rs, head_complete _, rfl, rfl, rfl, Option.isNone_iff_eq_none.1 h.1, h1⟩
theorem wit_Complete_mfuse : ∀ a ∈ [0#64, 1, 4], ∃ (s : State) (o : MatOp) (r : List MatOp), (s.core 0).matq = o :: r ∧ o.running = true ∧ o.instr = .mfuse {} ∧ o.a = a ∧
    (o.a = 0 ∨ (shapeFor o.a.toNat (s.core 0).mstat.fenced).isSome = true) := by
  intro a ha
  refine ⟨complete { runs (.mfuse {}) with a := a }, { runs (.mfuse {}) with a := a }, [], head_complete _, rfl, rfl, rfl, ?_⟩
  simp only [List.mem_cons, List.not_mem_nil, or_false] at ha
  rcases ha with rfl | rfl | rfl <;> decide +kernel
theorem wit_Complete_mfuse_fenced : ∃ (s : State) (o : MatOp) (r : List MatOp), (s.core 0).matq = o :: r ∧ o.running = true ∧ o.instr = .mfuse {} ∧ o.a ≠ 0 ∧
    shapeFor o.a.toNat (s.core 0).mstat.fenced = none :=
  ⟨bench.modCore 0 (fun c => { c with matq := [runs (.mfuse {})], mstat := { c.mstat with fenced := 1 } }), runs (.mfuse {}), [], by rw [core_modCore bench_cores], rfl, rfl, by decide, by decide +kernel⟩

end Sys2Proof.Tests
end

