-- ==== Sys2Proof/Tests/Witness5.lean ====
section
/-! SUPPORT. Witnesses for the statements about the engines: copies, the Ell, reductions, in-memory commands, dies and lines. -/

set_option Elab.async false

namespace Sys2Proof.Tests

open Sys2Proof.Machine Sys2Proof.Claims

/-! ### A strand with a handle table -/

/-- Address of a bank-linear page of one gibibyte. -/
def stripeVa : Nat := 0x80000000
/-- A leaf of the bank-linear window at frame 1 GiB. -/
def stripeLeaf : Nat := dataLeaf + 2 ^ 6 + 2 ^ 30
def tensor (space layout typ base d0 d1 stride limit : Nat) : BitVec 512 :=
  BitVec.ofNat 512 (1 + space * 2 + layout * 16 + 64 + 128 + (if space = 2 then 3 * 2 ^ 9 else 0) + typ * 2 ^ 12 + 2 ^ 17 + base * 2 ^ 64 + d0 * 2 ^ 128 + d1 * 2 ^ 160 +
    stride * 2 ^ 256 + limit * 2 ^ 448)
/-- Handles 1 to 9: bytes; local memory; a stripe of INT8; a key-value space; a query in local memory; a tensor like the stripe; a tiled
tensor; bytes again; local memory again. -/
def hBytes : BitVec 512 := tensor 1 0 2 dataVa.toNat 65536 1 0 65536
def hLm : BitVec 512 := tensor 0 0 2 0 4096 1 0 65536
def hStripe : BitVec 512 := tensor 2 2 2 stripeVa 64 4 64 (2 ^ 21)
def hKv : BitVec 512 := tensor 2 2 20 (stripeVa + 2 ^ 21) 64 1 0 (2 ^ 21)
def hQuery : BitVec 512 := tensor 0 0 20 0 64 1 0 64
def hPlain : BitVec 512 := tensor 1 0 2 (dataVa.toNat + 16384) 64 4 64 256
def hTiled : BitVec 512 := tensor 1 1 2 (dataVa.toNat + 32768) 64 64 0 8
def handleLines : List Byte := [hBytes, hLm, hStripe, hKv, hQuery, hPlain, hTiled, hBytes, hLm].flatMap (fun h => leBytes 64 h.toNat)
/-- Strand 0 with the table at byte 8192 of the data page and the stripe mapped. -/
def engines : State :=
  ((bench.placeIl 0x13010 8 stripeLeaf).writeMem (.device .service) false .il (8192 + 64) handleLines).setStrand 0 { regs [] with htb := dataVa + 8192 }
theorem engines_holds : engines.holds = [] := by decide +kernel
theorem engines_cores : tabWf engines.cores = true := by decide +kernel
def cmdOf (d : Nat) : Cmd := { slot := 0, core := 0, pos := 0, ring := 0, seq := 0, desc := BitVec.ofNat 512 d, descVa := dataVa + 64 }
def copying (c : Cmd) : State := engines.modCore 0 (fun k => { k with copyq := [c] })
def inMemory (c : Cmd) : State := engines.setQuad 0 { q := [{ c with quad := some 0 }] }
theorem copying_head (c : Cmd) : (copying c).headCmd (.copy 0) = some c := by
  unfold copying State.headCmd
  dsimp only
  rw [core_modCore engines_cores]
  rfl
theorem inMemory_head (c : Cmd) : (inMemory c).headCmd (.mem 0) = some { c with quad := some 0 } := by
  unfold inMemory State.headCmd State.quad State.setQuad
  dsimp only
  rw [tabGet_set _ _ _ _ (by intro h; simp [Quad.mk.injEq] at h)]
  rfl
theorem headCmd_same {s t : State} (w : Where) (hc : t.cores = s.cores) (hq : t.quads = s.quads) : t.headCmd w = s.headCmd w := by
  cases w <;> unfold State.headCmd <;> dsimp only
  · unfold State.core; rw [hc]
  · unfold State.quad; rw [hq]
theorem copying_waits {c : Cmd} (h : (copying c).mayStart c = true) (hd : c.delivered = none) : Waits (copying c) (.copy 0) c := ⟨copying_head c, h, hd⟩

/-! ### Copies -/

/-- CPY of eight bytes from byte 64 to byte 2556, which crosses a boundary of 512; and the same as a CPYQ whose signal is at byte 4096. -/
def cpyDesc (cmd : Nat) : Nat := cmd + 2 ^ 64 + 8 * 2 ^ 80 + 64 * 2 ^ 128 + 2556 * 2 ^ 192 + 8 * 2 ^ 256 + (if cmd = 4 then (dataVa.toNat + 4096) * 2 ^ 320 + 5 * 2 ^ 384 else 0)
def cpy : Cmd := cmdOf (cpyDesc 1)
theorem wit_CopyStart : ∃ (s : State) (c : Cmd) (s1 : State) (a b : BitVec 512), Waits s (.copy 0) c ∧ Sound [0x01, 0x02, 0x04] c ∧
    s.startHandles c.slot [fld c.desc 64 10, fld c.desc 80 10] = .ok (s1, [a, b]) ∧ copyHandleBad a true false = none ∧ copyHandleBad b false true = none ∧
    (copyShape c.desc).len ≠ 0 ∧ (copyShape c.desc).rows ≠ 0 ∧ (dCmd c.desc = 4 → fld c.desc 320 3 = 0) ∧
    s1.copyRange c a (fld c.desc 128 64) (copyShape c.desc).ss (copyShape c.desc) = none ∧
    s1.copyRange c b (fld c.desc 192 64) (copyShape c.desc).ds (copyShape c.desc) = none := by
  have h : okOr ((copying cpy).startHandles 0 [fld cpy.desc 64 10, fld cpy.desc 80 10]) (fun x => match x.2 with
    | [a, b] => (copyHandleBad a true false).isNone && (copyHandleBad b false true).isNone &&
        (x.1.copyRange cpy a (fld cpy.desc 128 64) (copyShape cpy.desc).ss (copyShape cpy.desc)).isNone &&
        (x.1.copyRange cpy b (fld cpy.desc 192 64) (copyShape cpy.desc).ds (copyShape cpy.desc)).isNone
    | _ => false) = true := by decide +kernel
  obtain ⟨⟨s1, l⟩, h1, h2⟩ := okOr_iff h
  dsimp only at h2
  split at h2
  · rename_i a b
    simp only [Bool.and_eq_true, Option.isNone_iff_eq_none] at h2
    exact ⟨copying cpy, cpy, s1, a, b, copying_waits (by decide +kernel) rfl, ⟨by decide +kernel, by decide +kernel, .inl rfl⟩, h1, h2.1.1.1, h2.1.1.2,
      by decide +kernel, by decide +kernel, fun h => absurd h (by decide +kernel), h2.1.2, h2.2⟩
  · simp at h2
/-- LAYOUT: a re-lay or a conversion of the plain tensor into the stripe, and an expansion of the tiled tensor. -/
def relay (op : Nat) : Cmd :=
  cmdOf (3 + (if op = 2 then 7 else 6) * 2 ^ 64 + (if op = 2 then 7 else 3) * 2 ^ 80 + op * 2 ^ 90 + 2 * 2 ^ 92 + 2 ^ 192)
/-- What the start of a LAYOUT asks of its descriptor and its handles (R367, R368). -/
abbrev LayoutAsks (c : Cmd) (a b : BitVec 512) : Prop :=
  let d := c.desc
  let tiles := (List.range (ellTiles d)).map (ellTile0 d + ·)
  hCheck a (farSpace a && hType a != some .a56i && hType a != some .a56f) true false = none ∧
  (ellOp d = 2 → fld d 64 10 = fld d 80 10 ∧ hLayout b = 1 ∧ hWr b = true) ∧
  (ellOp d ≠ 2 → hCheck b (farSpace b && (hLayout b == 1 || hLayout b == 2) && ellFmt d == hType b) false true = none) ∧
  ellTiles d ≠ 0 ∧ hNdim a = hNdim b ∧ (∀ k < 4, hDim a k = hDim b k) ∧ ellFmt d = hType b ∧ ellTile0 d + ellTiles d ≤ tileCount a ∧
  (∀ n ∈ tiles, tileFits a n = true ∧ tileFits b n = true) ∧ (ellOp d = 0 → ellFmt d = hType a ∧ hScaled a = hScaled b) ∧
  (ellOp d = 1 → Fmt.convIllegal ((hType a).getD .int8) ((ellFmt d).getD .int8) = false ∧ (hScaled b = true → hDim b 0 % 32 = 0) ∧ ellRnd d ≤ 4)
def layoutOk (op : Nat) : Bool :=
  let c := relay op
  (copying c).mayStart c && dCmd c.desc == 3 && descOk 3 c.desc && ellOp c.desc == op &&
    okOr ((copying c).startHandles 0 [fld c.desc 64 10, fld c.desc 80 10]) (fun x => match x.2 with
    | [a, b] => decide (LayoutAsks c a b) && !(x.1.dstCompressed c b ((List.range (ellTiles c.desc)).map (ellTile0 c.desc + ·))) &&
        okOr (x.1.scaleEntry c.slot a false) (fun y => okOr (y.1.scaleEntry c.slot b true) (fun _ => true))
    | _ => false)
theorem wit_CopyStart_layout : ∀ op ∈ [0, 1], ∃ (s : State) (c : Cmd) (s1 s2 s3 : State) (a b sa sb : BitVec 512), Waits s (.copy 0) c ∧ Sound [0x03] c ∧
    ellOp c.desc = op ∧ s.startHandles c.slot [fld c.desc 64 10, fld c.desc 80 10] = .ok (s1, [a, b]) ∧ LayoutAsks c a b ∧
    s1.dstCompressed c b ((List.range (ellTiles c.desc)).map (ellTile0 c.desc + ·)) = false ∧ s1.scaleEntry c.slot a false = .ok (s2, sa) ∧
    s2.scaleEntry c.slot b true = .ok (s3, sb) := by
  intro op ho
  have h := all_of (show [0, 1].all layoutOk = true by decide +kernel) op ho
  simp only [layoutOk, Bool.and_eq_true, beq_iff_eq] at h
  obtain ⟨⟨⟨⟨h1, h2⟩, h3⟩, h4⟩, h5⟩ := h
  obtain ⟨⟨s1, l⟩, ha, h5⟩ := okOr_iff h5
  dsimp only at h5
  split at h5
  · rename_i a b
    simp only [Bool.and_eq_true, decide_eq_true_eq, Bool.not_eq_true'] at h5
    obtain ⟨⟨h5, h6⟩, h7⟩ := h5
    obtain ⟨⟨s2, sa⟩, hb, h7⟩ := okOr_iff h7
    obtain ⟨⟨s3, sb⟩, hc, -⟩ := okOr_iff h7
    exact ⟨_, _, s1, s2, s3, a, b, sa, sb, copying_waits h1 rfl, ⟨by rw [h2]; decide, by rw [h2]; exact h3, .inl rfl⟩, h4, ha, h5, h6, hb, hc⟩
  · simp at h5
/-- The second read of an expansion's handle, which may give the entry as the first read cached it: whichever of the two it is. -/
def readAgain (s : State) (b : Bool) : Except Bad (State × BitVec 512) :=
  let t := s.strand 0
  let va := t.htb + BitVec.ofNat 64 (64 * 7)
  match s.constPlace 0 false va 64 with
  | .error b => .error b
  | .ok ps =>
    let key := t.pasid.toNat * 2 ^ 64 + va.toNat / 64
    let g := s.readPieces (coreOf 0) (ps.map (fun p => match p with
      | .kons _ sp off n => Piece.mem sp off n 4096
      | p => p))
    match g.poison with
    | some c => .error (.trap .dataPoison c)
    | none => match tabFind (s.core (coreOf 0)).hcache key with
      | some old => if b then .ok (s, old) else .ok (g.s.takeFresh, BitVec.ofNat 512 (leNat g.bytes))
      | none => .ok (g.s.takeFresh.modCore (coreOf 0) (fun c => { c with hcache := tabPut c.hcache key (BitVec.ofNat 512 (leNat g.bytes)) }), BitVec.ofNat 512 (leNat g.bytes))
theorem readAgain_eq (s : State) : s.readHandle 0 7 = readAgain s (Config.freeBool (s.fv + 44 + 7)) := rfl
theorem wit_CopyStart_expand : ∃ (s : State) (c : Cmd) (s1 s2 : State) (a b sa : BitVec 512), Waits s (.copy 0) c ∧ Sound [0x03] c ∧
    ellOp c.desc = 2 ∧ s.startHandles c.slot [fld c.desc 64 10, fld c.desc 80 10] = .ok (s1, [a, b]) ∧ LayoutAsks c a b ∧
    s1.scaleEntry c.slot a false = .ok (s2, sa) := by
  let c := relay 2
  have h : (decide ((copying c).mayStart c = true ∧ dCmd c.desc = 3 ∧ descOk 3 c.desc = true ∧ ellOp c.desc = 2 ∧ fld c.desc 64 10 = 7 ∧ fld c.desc 80 10 = 7) &&
    okOr ((copying c).readHandle 0 7) (fun x => [false, true].all (fun b => okOr (readAgain x.1 b) (fun y => decide (LayoutAsks c x.2 y.2) &&
      okOr (y.1.scaleEntry c.slot x.2 false) (fun _ => true))))) = true := by decide +kernel
  simp only [Bool.and_eq_true, decide_eq_true_eq] at h
  obtain ⟨⟨h1, h2, h3, h4, h5, h6⟩, h⟩ := h
  obtain ⟨⟨s1, a⟩, ha, h⟩ := okOr_iff h
  have hb := List.all_eq_true.1 h (Config.freeBool (s1.fv + 44 + 7)) (by cases Config.freeBool (s1.fv + 44 + 7) <;> simp)
  rw [← readAgain_eq] at hb
  obtain ⟨⟨s2, b⟩, hb, h⟩ := okOr_iff hb
  simp only [Bool.and_eq_true, decide_eq_true_eq] at h
  obtain ⟨⟨s3, sa⟩, hc, -⟩ := okOr_iff h.2
  refine ⟨copying c, c, s2, s3, a, b, sa, copying_waits h1 rfl, ⟨by rw [h2]; decide, by rw [h2]; exact h3, .inl rfl⟩, h4, ?_, h.1, hc⟩
  rw [h5, h6]
  show (copying c).startHandles 0 [7, 7] = _
  simp only [State.startHandles, ha, hb]
def reduce : Cmd := cmdOf (0x21 + 2 ^ 64 + 5 * 2 ^ 80 + 4 * 2 ^ 192 + 2 ^ 232)
/-- The bench in a league of its own, whose mirrored part the data page lies in. -/
def wholeMirror : State := copying reduce
theorem wit_CopyStart_areduce : ∃ (s : State) (c : Cmd) (s1 : State) (e : BitVec 512) (f : Fmt) (ps qs : List Piece), Waits s (.copy 0) c ∧ Sound [0x21] c ∧
    s.readHandle c.slot (arH c.desc) = .ok (s1, e) ∧
    (let d := c.desc
     let va := BitVec.ofNat 64 (hBase e + arOff d)
     hCheck e (hSpace e == 1 && hLayout e == 0) true true = none ∧ arFmt d = some f ∧ arRnd d ≤ 4 ∧ arOp d ≠ 3 ∧ arLen d ≠ 0 ∧ arLen d % (f.memBits / 8) = 0 ∧
     s1.maskFits (arMask d) = true ∧ arOff d % (f.memBits / 8) = 0 ∧ arOff d + arLen d ≤ hLimit e ∧
     s1.offMirror c.core (s1.strand c.slot) (arLen d / 4096 + 3) va (arLen d) = false) ∧ s1.arPlace c e .read = .ok ps ∧ s1.arPlace c e .write = .ok qs := by
  have h : okOr (wholeMirror.readHandle 0 (arH reduce.desc)) (fun x => (let d := reduce.desc
      let va := BitVec.ofNat 64 (hBase x.2 + arOff d)
      decide (hCheck x.2 (hSpace x.2 == 1 && hLayout x.2 == 0) true true = none ∧ arFmt d = some Fmt.int32 ∧ arRnd d ≤ 4 ∧ arOp d ≠ 3 ∧ arLen d ≠ 0 ∧
        arLen d % (Fmt.int32.memBits / 8) = 0 ∧
        x.1.maskFits (arMask d) = true ∧ arOff d % (Fmt.int32.memBits / 8) = 0 ∧ arOff d + arLen d ≤ hLimit x.2 ∧
        x.1.offMirror reduce.core (x.1.strand reduce.slot) (arLen d / 4096 + 3) va (arLen d) = false)) &&
      okOr (x.1.arPlace reduce x.2 .read) (fun _ => true) && okOr (x.1.arPlace reduce x.2 .write) (fun _ => true)) = true := by decide +kernel
  obtain ⟨⟨s1, e⟩, h1, h2⟩ := okOr_iff h
  simp only [Bool.and_eq_true, decide_eq_true_eq] at h2
  obtain ⟨ps, h3, -⟩ := okOr_iff h2.1.2
  obtain ⟨qs, h4, -⟩ := okOr_iff h2.2
  exact ⟨wholeMirror, reduce, s1, e, .int32, ps, qs, copying_waits (by decide +kernel) rfl, ⟨by decide +kernel, by decide +kernel, .inl rfl⟩, h1, h2.1.1, h3, h4⟩
/-- A copy of no bytes. -/
def emptyCpy : Cmd := cmdOf (1 + 2 ^ 64 + 8 * 2 ^ 80)
def trapIs {α : Type} (x : Except Bad α) : Option (TrapCode × Nat) := match x with
  | .error (.trap c n) => some (c, n)
  | _ => none
theorem trapIs_iff {α : Type} {x : Except Bad α} {c : TrapCode} {n : Nat} (h : trapIs x = some (c, n)) : x = .error (.trap c n) := by
  unfold trapIs at h
  split at h <;> simp_all
theorem wit_CopyStart_fails : ∃ (s : State) (c : Cmd) (code : TrapCode) (sub : Nat), Waits s (.copy 0) c ∧ Sound [0x01, 0x02, 0x03, 0x04, 0x21] c ∧
    s.startIn State.startLayout c = .error (.trap code sub) :=
  ⟨copying emptyCpy, emptyCpy, .illegalOperand, 0, copying_waits (by decide +kernel) rfl, ⟨by decide +kernel, by decide +kernel, .inl rfl⟩, trapIs_iff (by decide +kernel)⟩

/-- The copy under way, at byte `off` of its row, with or without a barrier at byte 64 of local memory. -/
def under (off : Nat) (bar : Bool) : Cmd := { cpy with started := true, src := hBytes, dst := hBytes, off := off, bar := if bar then some (0, 64) else none, pend := if bar then 8 else 0 }
def sectorOk (s : State) (c : Cmd) : Bool :=
  let h := copyShape c.desc
  let so := (fld c.desc 128 64 + h.ss * c.row).toNat + c.off
  let d0 := (fld c.desc 192 64 + h.ds * c.row).toNat + c.off
  let n := min (h.len - c.off) (512 - (hBase c.dst + d0) % 512)
  okOr (s.hRange c.slot (s.cmdSys c) c.src (s.cmdCwb c) .read so n) (fun src => (s.readPieces c.core src).poison.isNone &&
    okOr (s.hRange c.slot (s.cmdSys c) c.dst (s.cmdCwb c) .write d0 n) (fun dst => s.wordsFree src && s.wordsFree dst && s.barFree c && (pieceLocs src).all (fun x => !((pieceLocs dst).contains x))))
theorem wit_CopySector : ∀ x ∈ [(4, false), (0, false), (0, true)], ∃ (s : State) (c : Cmd) (src dst : List Piece), UnderWay s (.copy 0) c ∧ dCmd c.desc ∈ [1, 2, 4] ∧
    c.off = x.1 ∧ c.bar.isSome = x.2 ∧
    (let h := copyShape c.desc
     let so := (fld c.desc 128 64 + h.ss * c.row).toNat + c.off
     let d0 := (fld c.desc 192 64 + h.ds * c.row).toNat + c.off
     let n := min (h.len - c.off) (512 - (hBase c.dst + d0) % 512)
     s.hRange c.slot (s.cmdSys c) c.src (s.cmdCwb c) .read so n = .ok src ∧ s.hRange c.slot (s.cmdSys c) c.dst (s.cmdCwb c) .write d0 n = .ok dst ∧
     s.wordsFree src = true ∧ s.wordsFree dst = true ∧ s.barFree c = true ∧
     (s.readPieces c.core src).poison = none ∧ (∀ x ∈ pieceLocs src, x ∉ pieceLocs dst) ∧
     ((if c.off + n = h.len then c.row + 1 else c.row) = h.rows ↔ x.1 = 4)) := by
  intro x hx
  have h := all_of (show [(4, false), (0, false), (0, true)].all (fun x => sectorOk (copying (under x.1 x.2)) (under x.1 x.2) && dCmd (under x.1 x.2).desc == 1 &&
    (under x.1 x.2).bar.isSome == x.2 &&
    (let c := under x.1 x.2
     let h := copyShape c.desc
     let d0 := (fld c.desc 192 64 + h.ds * c.row).toNat + c.off
     let n := min (h.len - c.off) (512 - (hBase c.dst + d0) % 512)
     decide ((if c.off + n = h.len then c.row + 1 else c.row) = h.rows ↔ x.1 = 4))) = true by decide +kernel) x hx
  simp only [Bool.and_eq_true, beq_iff_eq, decide_eq_true_eq] at h
  obtain ⟨⟨⟨h1, h2⟩, h3⟩, h4⟩ := h
  obtain ⟨src, ha, hb⟩ := okOr_iff h1
  simp only [Bool.and_eq_true, Option.isNone_iff_eq_none] at hb
  obtain ⟨dst, hc, hd⟩ := okOr_iff hb.2
  simp only [Bool.and_eq_true] at hd
  exact ⟨copying (under x.1 x.2), under x.1 x.2, src, dst, ⟨copying_head _, rfl, rfl, rfl, rfl⟩, by rw [h2]; decide, rfl, h3, ha, hc, hd.1.1.1, hd.1.1.2,
    hd.1.2, hb.1, fun y hy => by simpa using List.all_eq_true.1 hd.2 y hy, h4⟩

def ended (cmd : Nat) : Cmd := { cmdOf (cpyDesc cmd) with started := true, finished := true, done := 8, tail := 8, code := 1 }
/-- The place of CODE is free, the homes have answered, and the writes ask nothing of the window. -/
def codeOk (s : State) (c : Cmd) : Bool := !(s.awaitsReply c.tags) && s.barFree c && okOr (s.codePlace c) (fun ps => s.wordsFree ps &&
  (let c1 := { c with code := s.finalCode c }
   let t := (s.takePieces ps).writePieces c.party false (codeBytes c1 c1.code) ps
   newTags s (t.putRel (pieceLocs ps) (t.cmdRel c1 deviceScope)) == []))
theorem wit_CopyComplete : ∀ d ∈ [1, 4], ∃ (s : State) (c : Cmd) (ps : List Piece), Finished s (.copy 0) c ∧ Plain c ∧ dCmd c.desc = d ∧ c.signalled = false ∧
    s.awaitsReply c.tags = false ∧ s.barFree c = true ∧ s.codePlace c = .ok ps ∧ s.wordsFree ps = true ∧
    (let c1 := { c with code := s.finalCode c }
     let t := (s.takePieces ps).writePieces c.party false (codeBytes c1 c1.code) ps
     newTags s (t.putRel (pieceLocs ps) (t.cmdRel c1 deviceScope)) = []) := by
  intro d hd
  have h := all_of (show [1, 4].all (fun d => codeOk (copying (ended d)) (ended d) && dCmd (ended d).desc == d) = true by decide +kernel) d hd
  simp only [codeOk, Bool.and_eq_true, Bool.not_eq_true', beq_iff_eq] at h
  obtain ⟨⟨⟨h1, h2⟩, h3⟩, h4⟩ := h
  obtain ⟨ps, h5, h6⟩ := okOr_iff h3
  simp only [Bool.and_eq_true, beq_iff_eq] at h6
  exact ⟨copying (ended d), ended d, ps, ⟨copying_head _, rfl, rfl, rfl, rfl, rfl⟩, ⟨rfl, rfl, rfl⟩, h4, rfl, h1, h2, h5, h6.1, h6.2⟩
/-- A CPYQ whose CODE has been written. -/
def codedCpyq : Cmd := { ended 4 with coded := true }
theorem wit_CopyComplete_signal : ∃ (s : State) (c : Cmd) (ps : List Piece), s.headCmd (.copy 0) = some c ∧ c.finished = true ∧ c.held = none ∧ c.delivered = none ∧
    c.coded = true ∧ dCmd c.desc = 4 ∧ c.signalled = false ∧ Plain c ∧ s.awaitsReply c.tags = false ∧ s.barFree c = true ∧ s.signalPlace c = .ok ps ∧
    newTags s (s.signalAdd c ps) = [] := by
  obtain ⟨ps, h1, h2⟩ := okOr_iff (show okOr ((copying codedCpyq).signalPlace codedCpyq) (fun ps =>
    newTags (copying codedCpyq) ((copying codedCpyq).signalAdd codedCpyq ps) == []) = true by decide +kernel)
  exact ⟨copying codedCpyq, codedCpyq, ps, copying_head _, rfl, rfl, rfl, rfl, by decide +kernel, rfl, ⟨rfl, rfl, rfl⟩, by decide +kernel, by decide +kernel, h1,
    by simpa using h2⟩
/-- A command that waits for a home of the league's window. -/
def asking : Cmd := { ended 1 with tags := [0] }
def withWindow (s : State) (l : List WindowRequest) : State := { s with rel := { s.rel with window := l } }
theorem withWindow_head (s : State) (l : List WindowRequest) (w : Where) : (withWindow s l).headCmd w = s.headCmd w := headCmd_same w rfl rfl
theorem wit_CopyComplete_asks : ∃ (s : State) (c : Cmd), s.headCmd (.copy 0) = some c ∧ s.awaitsReply c.tags = true :=
  ⟨withWindow (copying asking) [{ tag := 0, home := 1, msg := .read 0 0 0 8 }], asking, (withWindow_head _ _ _).trans (copying_head _), by decide +kernel⟩
/-- A BGCPY whose parts have all returned. -/
def bgcpyEnd : Cmd := { cmdOf (0x12 + 3 * 2 ^ 64 + 2 ^ 192) with started := true, quad := some 0 }
def bgcpyOver : Cmd := { bgcpyEnd with code := 1, done := mC bgcpyEnd.desc * 2 ^ 19, finished := true }
theorem wit_MemoryComplete : ∃ (s s1 t : State) (c c1 : Cmd) (ps : List Piece), s.headCmd (.mem 0) = some c ∧ c.started = true ∧ c.parts = [] ∧ c.held = none ∧
    c.finished = false ∧ s.outFree c = true ∧ s.finishMemory c = (s1, c1) ∧ newTags s s1 = [] ∧ t = s1.setHeadCmd (.mem 0) c1 ∧
    c1.coded = false ∧ c1.delivered = none ∧ dCmd c1.desc ≠ 4 ∧ t.awaitsReply c1.tags = false ∧ t.barFree c1 = true ∧ t.codePlace c1 = .ok ps ∧
    t.wordsFree ps = true ∧ Plain c1 := by
  have hf : (inMemory bgcpyEnd).finishMemory bgcpyEnd = (inMemory bgcpyEnd, bgcpyOver) := by
    have hd : dCmd bgcpyEnd.desc = 0x12 := by decide +kernel
    unfold State.finishMemory
    rw [hd]
    rfl
  obtain ⟨ps, h1, h2⟩ := okOr_iff (show okOr (((inMemory bgcpyEnd).setHeadCmd (.mem 0) bgcpyOver).codePlace bgcpyOver)
    (fun ps => ((inMemory bgcpyEnd).setHeadCmd (.mem 0) bgcpyOver).wordsFree ps) = true by decide +kernel)
  exact ⟨inMemory bgcpyEnd, _, _, bgcpyEnd, bgcpyOver, ps, inMemory_head _, rfl, rfl, rfl, rfl, by decide +kernel, hf, by decide +kernel, rfl, rfl, rfl,
    by decide +kernel, by decide +kernel, by decide +kernel, h1, h2, rfl, rfl, rfl⟩

/-! ### Reductions -/

/-- A reduction of one INT32 that all of its one participant has joined. -/
def reducing : Cmd := { reduce with started := true, src := hBytes, inst := 1 }
def contribution (aborted : Bool) : Contribution := { mask := 1, inst := 1, pos := 0, fmt := 5, op := 0, len := 4, data := [1, 2, 3, 4], aborted := aborted }
def withContribs (s : State) (l : List Contribution) : State := { s with contribs := l }
theorem withContribs_head (s : State) (l : List Contribution) (w : Where) : (withContribs s l).headCmd w = s.headCmd w := headCmd_same w rfl rfl
def joined (aborted : Bool) : State := withContribs (copying reducing) [contribution aborted]
theorem joined_head (b : Bool) : (joined b).headCmd (.copy 0) = some reducing := (withContribs_head _ _ _).trans (copying_head _)
theorem wit_Reduce : ∃ (s : State) (c : Cmd) (cs : List Contribution) (ps : List Piece) (f : Fmt), UnderWay s (.copy 0) c ∧ dCmd c.desc = 0x21 ∧ c.leaves = false ∧
    c.aborted = false ∧ c.poisoned = false ∧
    s.arJoined c = some cs ∧ arFmt c.desc = some f ∧ (∀ k ∈ cs, k.fmt = fld c.desc 80 5 ∧ k.op = arOp c.desc ∧ k.len = arLen c.desc) ∧ s.arPlace c c.src .write = .ok ps := by
  obtain ⟨ps, h1, -⟩ := okOr_iff (show okOr ((joined false).arPlace reducing reducing.src .write) (fun _ => true) = true by decide +kernel)
  exact ⟨joined false, reducing, [contribution false], ps, .int32, ⟨joined_head _, rfl, rfl, rfl, rfl⟩, by decide +kernel, rfl, rfl, rfl, by decide +kernel,
    by decide +kernel, by decide +kernel, h1⟩
/-- A participant of another length. -/
theorem wit_Reduce_mismatch : ∃ (s : State) (c : Cmd) (cs : List Contribution), UnderWay s (.copy 0) c ∧ dCmd c.desc = 0x21 ∧ c.leaves = false ∧ c.aborted = false ∧
    s.arJoined c = some cs ∧ ∃ k ∈ cs, k.len ≠ arLen c.desc :=
  ⟨withContribs (copying reducing) [{ contribution false with len := 3 }], reducing, [{ contribution false with len := 3 }],
    ⟨(withContribs_head _ _ _).trans (copying_head _), rfl, rfl, rfl, rfl⟩, by decide +kernel, rfl, rfl, by decide +kernel, _, List.mem_singleton.2 rfl, by decide +kernel⟩
theorem wit_Reduce_abort : ∃ (s : State) (c : Cmd), s.headCmd (.copy 0) = some c ∧ dCmd c.desc = 0x21 ∧ c.finished = false ∧ c.held = none ∧ c.failed = false ∧ c.inst ≠ 0 ∧
    c.leaves = false ∧ c.started = true ∧ s.arAborted c = true :=
  ⟨joined true, reducing, joined_head _, by decide +kernel, rfl, rfl, rfl, by decide, rfl, rfl, by decide +kernel⟩
/-- The same reduction, which its strand's diversion has left, in a league. -/
def leaving : Cmd := { reducing with leaves := true }
def inLeague (s : State) : State := { s with lgEn := true }
theorem inLeague_head (s : State) (w : Where) : (inLeague s).headCmd w = s.headCmd w := headCmd_same w rfl rfl
theorem wit_Reduce_leaves : ∃ (s : State) (c : Cmd), s.headCmd (.copy 0) = some c ∧ dCmd c.desc = 0x21 ∧ c.finished = false ∧ c.held = none ∧ c.failed = false ∧ c.inst ≠ 0 ∧
    c.leaves = true ∧ s.lgEn = true :=
  ⟨inLeague (copying leaving), leaving, (inLeague_head _ _).trans (copying_head _), by decide +kernel, rfl, rfl, rfl, by decide, rfl, rfl⟩

/-! ### The Ell -/

def layoutUnder (op : Nat) : Cmd := { relay op with started := true, src := hPlain, dst := hStripe }
def ellBox (c : Cmd) : TileBox := tileBox c.src (ellTile0 c.desc + c.row)
theorem wit_EllStep : ∀ op ∈ [0, 1], ∃ (s s1 : State) (c : Cmd) (ps : List EllPart) (l : List (EllPart × ElemAt × List Piece)), UnderWay s (.copy 0) c ∧
    dCmd c.desc = 3 ∧ ellOp c.desc = op ∧ s.ellReads c (ellBox c) (sectorFrags c.dst (ellBox c) c.off) = .ok (s1, ps) ∧ s1.ellPlaces c ps = .ok l ∧ l ≠ [] := by
  intro op ho
  have h := all_of (show [0, 1].all (fun op => let c := layoutUnder op
      okOr ((copying c).ellReads c (ellBox c) (sectorFrags c.dst (ellBox c) c.off)) (fun x => okOr (x.1.ellPlaces c x.2) (fun l => !l.isEmpty)) &&
      dCmd c.desc == 3 && ellOp c.desc == op) = true by decide +kernel) op ho
  simp only [Bool.and_eq_true, beq_iff_eq] at h
  obtain ⟨⟨h1, h2⟩, h3⟩ := h
  obtain ⟨⟨s1, ps⟩, ha, h1⟩ := okOr_iff h1
  obtain ⟨l, hb, hl⟩ := okOr_iff h1
  exact ⟨copying (layoutUnder op), s1, layoutUnder op, ps, l, ⟨copying_head _, rfl, rfl, rfl, rfl⟩, h2, h3, ha, hb, by rintro rfl; simp at hl⟩
/-- One part of a row: its source row, and the scales of the row; into a tensor with scales, the row of its whole blocks. -/
def scaledUnder : Cmd := { layoutUnder 1 with dst := hStripe ||| BitVec.ofNat 512 (2 ^ 19) }
theorem wit_EllRow : ∀ c ∈ [layoutUnder 0, layoutUnder 1, scaledUnder], ∃ (s t : State) (b : TileBox) (f : Frag) (q : SrcRow) (sc : List Nat) (bad : Bool),
    let blocks := hScaled c.dst = true ∧ ellOp c.desc = 1
    let lo := if blocks then f.o / 32 * 32 else f.o
    let hi := if blocks then min b.w ((f.o + f.n + 31) / 32 * 32) else f.o + f.n
    s.srcRow c ⟨b.x0 + lo, b.x1 + f.r, b.x2, b.x3⟩ (hi - lo) = .ok q ∧ q.s.srcScales c ⟨b.x0 + lo, b.x1 + f.r, b.x2, b.x3⟩ (hi - lo) = .ok (t, sc, bad) := by
  intro c hc
  have h := all_of (show [layoutUnder 0, layoutUnder 1, scaledUnder].all (fun c => let b := ellBox c
    let f : Frag := ⟨1, 2, 3⟩
    let blocks := hScaled c.dst = true ∧ ellOp c.desc = 1
    let lo := if blocks then f.o / 32 * 32 else f.o
    let hi := if blocks then min b.w ((f.o + f.n + 31) / 32 * 32) else f.o + f.n
    okOr ((copying c).srcRow c ⟨b.x0 + lo, b.x1 + f.r, b.x2, b.x3⟩ (hi - lo)) (fun q =>
      okOr (q.s.srcScales c ⟨b.x0 + lo, b.x1 + f.r, b.x2, b.x3⟩ (hi - lo)) (fun _ => true))) = true by decide +kernel) c hc
  obtain ⟨q, h1, h2⟩ := okOr_iff h
  obtain ⟨⟨t, sc, bad⟩, h2, -⟩ := okOr_iff h2
  exact ⟨copying c, t, ellBox c, ⟨1, 2, 3⟩, q, sc, bad, h1, h2⟩
/-- An expansion of the tiled tensor, whose one tile is CONST, or COMPRESSED with its record at byte 36864 and all of its blocks elided. -/
def expand : Cmd := { cmdOf (3 + 7 * 2 ^ 64 + 7 * 2 ^ 80 + 2 * 2 ^ 90 + 2 * 2 ^ 92 + 2 ^ 192) with started := true, src := hTiled, dst := hTiled }
def tiles (entry head : Nat) : State := (engines.writeMem (.device .service) false .il 32768 (leBytes 8 entry)).writeMem (.device .service) false .il 36864 (leBytes 32 head)
def tileIs (entry head : Nat) (c : Cmd := expand) : State := (tiles entry head).modCore 0 (fun k => { k with copyq := [c] })
theorem tileIs_head {a b : Nat} {c : Cmd} (h : tabWf (tiles a b).cores = true) : (tileIs a b c).headCmd (.copy 0) = some c := by
  unfold tileIs State.headCmd
  dsimp only
  rw [core_modCore h]
  rfl
def foundAt (s : State) : Except Bad (TileEntry × Word) :=
  let b := tileBox expand.src (ellTile0 expand.desc + expand.row)
  s.tileLookup expand.slot (s.cmdSys expand) expand.src ⟨b.x0, b.x1, b.x2, b.x3⟩
theorem wit_EllExpand_skip : ∃ (s : State) (t : TileEntry) (va : Word), UnderWay s (.copy 0) expand ∧ dCmd expand.desc = 3 ∧ ellOp expand.desc = 2 ∧ foundAt s = .ok (t, va) ∧
    ∀ loc, t ≠ .compressed loc := by
  obtain ⟨⟨t, va⟩, h1, h2⟩ := okOr_iff (show okOr (foundAt (tileIs (2 + 9 * 2 ^ 32) 0)) (fun x => x.1 == .const 9) = true by decide +kernel)
  exact ⟨_, t, va, ⟨tileIs_head (a := 2 + 9 * 2 ^ 32) (b := 0) (by decide +kernel), rfl, rfl, rfl, rfl⟩, by decide +kernel, by decide +kernel, h1, fun loc h => by simp [h] at h2⟩
def recordVa : Nat := dataVa.toNat + 36864
/-- A record without a frame. -/
theorem wit_EllExpand_frameless : ∃ (s : State) (loc : Nat) (va : Word) (g : Got) (h : BitVec 256) (x : Word), UnderWay s (.copy 0) expand ∧
    foundAt s = .ok (.compressed loc, va) ∧ s.recordHead expand loc = .ok (g, h, x) ∧ fld h 160 43 = 0 := by
  let s := tileIs (3 + recordVa) (7 * 2 ^ 128)
  have h : okOr (foundAt s) (fun f => f.1 == .compressed (recordVa / 4) && okOr (s.recordHead expand (recordVa / 4)) (fun y => fld y.2.1 160 43 == 0)) = true := by
    decide +kernel
  obtain ⟨⟨t, va⟩, h1, h2⟩ := okOr_iff h
  simp only [Bool.and_eq_true, beq_iff_eq] at h2
  obtain ⟨ht, h2⟩ := h2
  obtain ⟨⟨g, hd, x⟩, h4, h5⟩ := okOr_iff h2
  subst ht
  exact ⟨s, recordVa / 4, va, g, hd, x, ⟨tileIs_head (by decide +kernel), rfl, rfl, rfl, rfl⟩, h1, h4, by simpa using h5⟩
/-- The first block of the frame, and the last. -/
theorem wit_EllExpand : ∀ n ∈ [0, 7], ∃ (s : State) (c : Cmd) (loc : Nat) (va : Word) (g : Got) (h : BitVec 256) (x : Word) (v : Nat) (es : List Piece),
    UnderWay s (.copy 0) c ∧ dCmd c.desc = 3 ∧ ellOp c.desc = 2 ∧ s.barFree c = true ∧ c.off = n ∧ hBits c.src = 8 ∧
    foundAt s = .ok (.compressed loc, va) ∧ s.recordHead c loc = .ok (g, h, x) ∧ fld h 203 2 = 0 ∧ fld h 160 43 ≠ 0 ∧
    (let bits := hBits c.src
     let ps := [s.pieceAt .il (fld h 160 43 * 512 + 512 * c.off) 512 512]
     s.recordPart c loc bits (4096 * c.off / bits) ((4096 * (c.off + 1) + bits - 1) / bits) 0 64 = .ok (v, false) ∧ ps.any s.beyond = false ∧
     s.piecesFate true ps = none) ∧ s.translateRange c.core (s.strand c.slot).pasid (s.cmdSys c) .write 3 va 8 = .ok es ∧ s.piecesFate true es = none := by
  intro n hn
  have h := all_of (show [0, 7].all (fun n => let c := { expand with off := n }
    let s := tileIs (3 + recordVa) (7 * 2 ^ 128 + 4096 * 2 ^ 160) c
    okOr (foundAt s) (fun f => f.1 == .compressed (recordVa / 4) && s.barFree c && okOr (s.recordHead c (recordVa / 4)) (fun y => fld y.2.1 203 2 == 0 && fld y.2.1 160 43 != 0 &&
      (let bits := hBits c.src
       let ps := [s.pieceAt .il (fld y.2.1 160 43 * 512 + 512 * c.off) 512 512]
       okOr (s.recordPart c (recordVa / 4) bits (4096 * c.off / bits) ((4096 * (c.off + 1) + bits - 1) / bits) 0 64) (fun z => !z.2) && !(ps.any s.beyond) &&
        (s.piecesFate true ps).isNone)) &&
      okOr (s.translateRange c.core (s.strand c.slot).pasid (s.cmdSys c) .write 3 f.2 8) (fun es => (s.piecesFate true es).isNone))) = true by decide +kernel) n hn
  obtain ⟨⟨t, va⟩, h1, h2⟩ := okOr_iff h
  simp only [Bool.and_eq_true, beq_iff_eq] at h2
  obtain ⟨⟨⟨ht, hb⟩, h2⟩, h3⟩ := h2
  obtain ⟨⟨g, hd, x⟩, h4, h5⟩ := okOr_iff h2
  simp only [Bool.and_eq_true, beq_iff_eq, bne_iff_ne, ne_eq, Option.isNone_iff_eq_none, Bool.not_eq_true'] at h5
  obtain ⟨⟨v, b⟩, h6, h7⟩ := okOr_iff h5.2.1.1
  obtain ⟨es, h8, h9⟩ := okOr_iff h3
  simp only [Bool.not_eq_true'] at h7
  subst ht
  subst h7
  exact ⟨_, { expand with off := n }, recordVa / 4, va, g, hd, x, v, es, ⟨tileIs_head (by decide +kernel), rfl, rfl, rfl, rfl⟩, (by decide +kernel : dCmd expand.desc = 3), (by decide +kernel : ellOp expand.desc = 2), hb, rfl,
    by show hBits hTiled = 8; decide +kernel, h1, h4, h5.1.1, h5.1.2, ⟨h6, h5.2.1.2, h5.2.2⟩, h8, by simpa using h9⟩

/-! ### In-memory commands -/

/-- BGMAC of one row of two elements; BGCPY of one furlong from bank 0 to bank 1; BGATTN of one token; KVPUT and KVTAKE of one block. -/
def macDesc : Nat := 0x11 + 3 * 2 ^ 64 + 9 * 2 ^ 80 + 2 * 2 ^ 96 + 5 * 2 ^ 106 + 2 ^ 160 + 2 * 2 ^ 192 + 1024 * 2 ^ 256 + 2048 * 2 ^ 288
def bgcpyDesc : Nat := 0x12 + 3 * 2 ^ 64 + 2 ^ 192 + 2 ^ 226
def attnDesc : Nat := 0x13 + 5 * 2 ^ 64 + 4 * 2 ^ 80 + 2 * 2 ^ 96 + 16 * 2 ^ 106 + 2 ^ 160 + 1024 * 2 ^ 256 + 2048 * 2 ^ 288
def kvDesc (cmd : Nat) : Nat := cmd + 2 ^ 64 + 4 * 2 ^ 80 + 2 ^ 192
/-- The one block of sequence 0 in the first page of the space. -/
def kvBlock : Block := { pasid := 1, space := stripeVa + 2 ^ 21, seq := 0, head := 0, num := 0, page := (2 ^ 30 + 2 ^ 21) / 4096, mirror := none, rel := 0 }
def memAt (d : Nat) : Cmd := { cmdOf d with quad := some 0 }
def withBlocks (s : State) : State := { s with blocks := [kvBlock], pages := [((2 ^ 30 + 2 ^ 21) / 4096, .owned)] }
theorem withBlocks_head (s : State) (w : Where) : (withBlocks s).headCmd w = s.headCmd w := headCmd_same w rfl rfl
def waiting (d : Nat) : State := withBlocks (inMemory (cmdOf d))
theorem waiting_head (d : Nat) : (waiting d).headCmd (.mem 0) = some (memAt d) := (withBlocks_head _ _).trans (inMemory_head _)
theorem memAt_delivered (d : Nat) : (memAt d).delivered = none := rfl
theorem starts_of {d : Nat} {f : State → Cmd → Except Bad (State × Cmd)} {cmd : Nat} (h : (okOr (f (waiting d) { memAt d with sent := (waiting d).fv }) (fun _ => true) && dCmd (memAt d).desc == cmd &&
    (waiting d).mayStart (memAt d) && [0x11, 0x12, 0x13, 0x14, 0x15].contains cmd && descOk cmd (memAt d).desc) = true) :
    ∃ (s s1 : State) (c c1 : Cmd), Waits s (.mem 0) c ∧ Sound [0x11, 0x12, 0x13, 0x14, 0x15] c ∧ dCmd c.desc = cmd ∧ f s { c with sent := s.fv } = .ok (s1, c1) := by
  simp only [Bool.and_eq_true, beq_iff_eq] at h
  obtain ⟨⟨⟨⟨h1, h2⟩, h3⟩, h4⟩, h5⟩ := h
  obtain ⟨⟨s1, c1⟩, h1, -⟩ := okOr_iff h1
  have hw : Waits (waiting d) (.mem 0) (memAt d) := ⟨waiting_head d, h3, memAt_delivered d⟩
  have hs : Sound [0x11, 0x12, 0x13, 0x14, 0x15] (memAt d) := ⟨by rw [h2]; simpa using h4, by rw [h2]; exact h5, .inl rfl⟩
  exact ⟨waiting d, s1, memAt d, c1, hw, hs, h2, h1⟩
theorem wit_Memory_bgmac : ∃ (s s1 : State) (c c1 : Cmd), Waits s (.mem 0) c ∧ Sound [0x11, 0x12, 0x13, 0x14, 0x15] c ∧ dCmd c.desc = 0x11 ∧ s.startBgmac { c with sent := s.fv } = .ok (s1, c1) :=
  starts_of (d := macDesc) (by decide +kernel)
theorem wit_Memory_bgcpy : ∃ (s s1 : State) (c c1 : Cmd), Waits s (.mem 0) c ∧ Sound [0x11, 0x12, 0x13, 0x14, 0x15] c ∧ dCmd c.desc = 0x12 ∧ s.startBgcpy { c with sent := s.fv } = .ok (s1, c1) :=
  starts_of (d := bgcpyDesc) (by decide +kernel)
theorem wit_Memory_bgattn : ∃ (s s1 : State) (c c1 : Cmd), Waits s (.mem 0) c ∧ Sound [0x11, 0x12, 0x13, 0x14, 0x15] c ∧ dCmd c.desc = 0x13 ∧ s.startBgattn { c with sent := s.fv } = .ok (s1, c1) :=
  starts_of (d := attnDesc) (by decide +kernel)
theorem wit_Memory_kvput : ∃ (s s1 : State) (c c1 : Cmd), Waits s (.mem 0) c ∧ Sound [0x11, 0x12, 0x13, 0x14, 0x15] c ∧ dCmd c.desc = 0x14 ∧ s.startKvput { c with sent := s.fv } = .ok (s1, c1) :=
  starts_of (d := kvDesc 0x14 + 2 ^ 128) (by decide +kernel)
theorem wit_Memory_kvtake : ∃ (s s1 : State) (c c1 : Cmd), Waits s (.mem 0) c ∧ Sound [0x11, 0x12, 0x13, 0x14, 0x15] c ∧ dCmd c.desc = 0x15 ∧ s.startKvtake { c with sent := s.fv } = .ok (s1, c1) :=
  starts_of (d := kvDesc 0x15) (by decide +kernel)
/-- A command of each kind with the part of die 0 to run, and no hold. -/
theorem wit_Memory_part : ∀ d ∈ [macDesc, bgcpyDesc, attnDesc, kvDesc 0x14, kvDesc 0x15], ∃ (s : State) (c : Cmd), s.headCmd (.mem 0) = some c ∧ c.desc = BitVec.ofNat 512 d ∧
    c.started = true ∧ c.finished = false ∧ 0 ∈ c.parts ∧ (∀ h ∈ s.holds, ∀ f ∈ h.furlongs, f ∉ c.reads) ∧
    (∀ x ∈ s.quads, ∀ o, x.2.q.head? = some o → o.started = true → 0 ∈ o.parts → o.sent < c.sent → ∀ h ∈ s.holds, ∀ f ∈ h.furlongs, f ∉ o.reads) := by
  intro d _
  have hn : (inMemory { cmdOf d with started := true, parts := [0] }).holds = [] := by unfold inMemory State.setQuad; dsimp only; exact engines_holds
  exact ⟨inMemory { cmdOf d with started := true, parts := [0] }, _, inMemory_head _, rfl, rfl, rfl, by simp, by simp [hn], by simp [hn]⟩

/-- A hold on a furlong that the command reads. -/
def withHolds (s : State) (l : List Hold) : State := { s with holds := l }
theorem withHolds_head (s : State) (l : List Hold) (w : Where) : (withHolds s l).headCmd w = s.headCmd w := headCmd_same w rfl rfl
theorem wit_Memory_part_held : ∃ (s : State) (c : Cmd), s.headCmd (.mem 0) = some c ∧ 0 ∈ c.parts ∧ ∃ h ∈ s.holds, ∃ f ∈ h.furlongs, f ∈ c.reads :=
  ⟨withHolds (inMemory { cmdOf macDesc with started := true, parts := [0], reads := [5] }) [⟨0, 0, 0, 0, [5]⟩], _,
    (withHolds_head _ _ _).trans (inMemory_head _), by simp, _, List.mem_singleton.2 rfl, 5, by simp, by simp⟩
/-- Weights in error, with and without a replica; a page in error, with and without a mirror; a key-value space of the kind that a BGATTN reads. -/
def weightTerm : MacTerm := { k := 0, g := 0, bytes := [0], shift := 0, scale := none }
def badUnit : State := { bench with devUe := [0] }
theorem wit_Part_units : ∀ r ∈ [false, true], ∃ (s : State) (c : Cmd) (t : MacTerm), (t.units.any s.unitBad) = true ∧ mRepl c.desc = r := by
  intro r hr
  have h := all_of (show [false, true].all (fun r => weightTerm.units.any badUnit.unitBad && mRepl (cmdOf (if r then 2 ^ 114 else 0)).desc == r) = true by decide +kernel) r hr
  simp only [Bool.and_eq_true, beq_iff_eq] at h
  exact ⟨badUnit, cmdOf (if r then 2 ^ 114 else 0), weightTerm, h.1, h.2⟩
theorem wit_Part_sound : ∃ (s : State) (t : MacTerm), t.units.any s.unitBad = false := ⟨bench, weightTerm, by decide +kernel⟩
theorem wit_Part_pages : ∃ (s : State) (c : Cmd) (r : PageRef), kvOk c.src = true ∧ (pageUnits c r.page (blockTokens c r)).any s.unitBad = true ∧ r.mirror ≠ none := by
  let c : Cmd := { cmdOf attnDesc with src := hKv }
  let r : PageRef := { n := 0, page := 0, mirror := some 1 }
  have h : (kvOk c.src && !(pageUnits c r.page (blockTokens c r)).isEmpty) = true := by decide +kernel
  simp only [Bool.and_eq_true, Bool.not_eq_true'] at h
  have hu : (pageUnits c r.page (blockTokens c r)).all (fun u => (tabFind bench.rows (rowKey (64 * u))).isNone) = true := by decide +kernel
  refine ⟨{ bench with devUe := pageUnits c r.page (blockTokens c r) }, c, r, h.1, ?_, by simp [r]⟩
  cases hl : pageUnits c r.page (blockTokens c r) with
  | nil => simp [hl] at h
  | cons u l =>
    have hx := List.all_eq_true.1 hu u (by rw [hl]; exact List.mem_cons_self)
    refine List.any_eq_true.2 ⟨u, List.mem_cons_self, ?_⟩
    unfold State.unitBad State.unitPlain
    simp only [Bool.and_eq_true, Bool.or_eq_true]
    exact ⟨hx, .inr (by simp)⟩

/-! ### Memory commands that start: the checks of each, one by one -/

/-- The command as its start sees it. -/
def asked (d : Nat) : Cmd := { memAt d with sent := (waiting d).fv }
def asksOk (d cmd : Nat) : Bool := dCmd (memAt d).desc == cmd && (waiting d).mayStart (memAt d) && [0x11, 0x12, 0x13, 0x14, 0x15].contains cmd && descOk cmd (memAt d).desc
theorem asks_of {d cmd : Nat} (h : asksOk d cmd = true) :
    Waits (waiting d) (.mem 0) (memAt d) ∧ Sound [0x11, 0x12, 0x13, 0x14, 0x15] (memAt d) ∧ dCmd (memAt d).desc = cmd := by
  simp only [asksOk, Bool.and_eq_true, beq_iff_eq] at h
  obtain ⟨⟨⟨h2, h3⟩, h4⟩, h5⟩ := h
  exact ⟨⟨waiting_head d, h3, memAt_delivered d⟩, ⟨by rw [h2]; simpa using h4, by rw [h2]; exact h5, .inl rfl⟩, h2⟩
def Asks (s : State) (c0 c : Cmd) (cmd : Nat) : Prop :=
  Waits s (.mem 0) c0 ∧ Sound [0x11, 0x12, 0x13, 0x14, 0x15] c0 ∧ dCmd c0.desc = cmd ∧ c = { c0 with sent := s.fv }
def bothOf (l : List (BitVec 512)) (p : BitVec 512 → BitVec 512 → Bool) : Bool := match l with
  | [a, b] => p a b
  | _ => false
theorem bothOf_iff {l : List (BitVec 512)} {p : BitVec 512 → BitVec 512 → Bool} (h : bothOf l p = true) : ∃ a b, l = [a, b] ∧ p a b = true := by
  unfold bothOf at h
  split at h
  · exact ⟨_, _, rfl, h⟩
  · simp at h
def three (l : List (BitVec 512)) (p : BitVec 512 → BitVec 512 → BitVec 512 → Bool) : Bool := match l with
  | [a, b, c] => p a b c
  | _ => false
theorem three_iff {l : List (BitVec 512)} {p : BitVec 512 → BitVec 512 → BitVec 512 → Bool} (h : three l p = true) :
    ∃ a b c, l = [a, b, c] ∧ p a b c = true := by
  unfold three at h
  split at h
  · exact ⟨_, _, _, rfl, h⟩
  · simp at h
theorem wit_Complete_bgmac : ∃ (s : State) (c0 c : Cmd) (s1 s2 s3 s4 s5 : State) (wh xh oh sc xsc : BitVec 512) (fu : Tab Nat) (xs sx : List Nat) (p r : Bool),
    Asks s c0 c 0x11 ∧ s.startHandles c.slot [mH0 c.desc, mH1 c.desc, mOH c.desc] = .ok (s1, [wh, xh, oh]) ∧ s1.macBad c wh xh oh = none ∧
    s1.weightScales c wh = .ok (s2, sc) ∧ s2.xScales c xh = .ok (s3, xsc) ∧ s3.furlongs c .read (macReads c.desc wh sc) = .ok fu ∧
    (∀ x ∈ s3.rows, x.2.isCompressed = false) ∧ s3.readVec c xh (mXoff c.desc) (mC c.desc) = .ok (s4, xs, p) ∧ s4.readXScales c xh xsc = .ok (s5, sx, r) := by
  have h : okOr ((waiting macDesc).startHandles 0 [mH0 (memAt macDesc).desc, mH1 (memAt macDesc).desc, mOH (memAt macDesc).desc]) (fun x => three x.2 (fun wh xh oh =>
      (x.1.macBad (asked macDesc) wh xh oh).isNone && okOr (x.1.weightScales (asked macDesc) wh) (fun y => okOr (y.1.xScales (asked macDesc) xh) (fun z =>
        okOr (z.1.furlongs (asked macDesc) .read (macReads (memAt macDesc).desc wh y.2)) (fun _ => true) && z.1.rows.all (fun x => !x.2.isCompressed) &&
        okOr (z.1.readVec (asked macDesc) xh (mXoff (memAt macDesc).desc) (mC (memAt macDesc).desc)) (fun w =>
          okOr (w.1.readXScales (asked macDesc) xh z.2) (fun _ => true)))))) = true := by decide +kernel
  obtain ⟨⟨s1, l⟩, h1, h2⟩ := okOr_iff h
  obtain ⟨wh, xh, oh, rfl, h3⟩ := three_iff h2
  simp only [Bool.and_eq_true, Option.isNone_iff_eq_none] at h3
  obtain ⟨⟨s2, sc⟩, h4, h5⟩ := okOr_iff h3.2
  obtain ⟨⟨s3, xsc⟩, h6, h7⟩ := okOr_iff h5
  simp only [Bool.and_eq_true] at h7
  obtain ⟨fu, h8, -⟩ := okOr_iff h7.1.1
  obtain ⟨⟨s4, xs, p⟩, h9, h10⟩ := okOr_iff h7.2
  obtain ⟨⟨s5, sx, r⟩, h11, -⟩ := okOr_iff h10
  obtain ⟨a1, a2, a3⟩ := asks_of (d := macDesc) (cmd := 0x11) (by decide +kernel)
  exact ⟨waiting macDesc, memAt macDesc, asked macDesc, s1, s2, s3, s4, s5, wh, xh, oh, sc, xsc, fu, xs, sx, p, r, ⟨a1, a2, a3, rfl⟩, h1, h3.1, h4, h6, h8,
    fun x hx => by simpa using all_of h7.1.2 x hx, h9, h11⟩
theorem wit_Complete_bgcpy : ∃ (s : State) (c0 c : Cmd) (s1 : State) (e : BitVec 512) (fs fd : Tab Nat), Asks s c0 c 0x12 ∧
    s.readHandle c.slot (mH0 c.desc) = .ok (s1, e) ∧ hCheck e (stripe e) true true = none ∧ mC c.desc ≠ 0 ∧
    bgcpyRangeOk e (mA c.desc) (mC c.desc) (mSbk c.desc) = true ∧ bgcpyRangeOk e (mB c.desc) (mC c.desc) (mDbk c.desc) = true ∧
    s1.furlongs c .read (bgcpyFurlongs e (mA c.desc) (mC c.desc)) = .ok fs ∧ s1.furlongs c .write (bgcpyFurlongs e (mB c.desc) (mC c.desc)) = .ok fd ∧
    s1.bankMarked (valsOf fs) (mSbk c.desc) = false ∧ s1.bankMarked (valsOf fd) (mDbk c.desc) = false ∧ s1.furlongOwned (valsOf fd) = false := by
  let c := asked bgcpyDesc
  have h : okOr ((waiting bgcpyDesc).readHandle 0 (mH0 c.desc)) (fun x => (hCheck x.2 (stripe x.2) true true).isNone &&
      bgcpyRangeOk x.2 (mA c.desc) (mC c.desc) (mSbk c.desc) && bgcpyRangeOk x.2 (mB c.desc) (mC c.desc) (mDbk c.desc) &&
      okOr (x.1.furlongs c .read (bgcpyFurlongs x.2 (mA c.desc) (mC c.desc))) (fun fs => !(x.1.bankMarked (valsOf fs) (mSbk c.desc))) &&
      okOr (x.1.furlongs c .write (bgcpyFurlongs x.2 (mB c.desc) (mC c.desc))) (fun fd => !(x.1.bankMarked (valsOf fd) (mDbk c.desc)) && !(x.1.furlongOwned (valsOf fd)))) = true := by
    decide +kernel
  obtain ⟨⟨s1, e⟩, h1, h2⟩ := okOr_iff h
  simp only [Bool.and_eq_true, Option.isNone_iff_eq_none] at h2
  obtain ⟨fs, h3, h4⟩ := okOr_iff h2.1.2
  obtain ⟨fd, h5, h6⟩ := okOr_iff h2.2
  simp only [Bool.and_eq_true, Bool.not_eq_true'] at h4 h6
  obtain ⟨a1, a2, a3⟩ := asks_of (d := bgcpyDesc) (cmd := 0x12) (by decide +kernel)
  exact ⟨waiting bgcpyDesc, memAt bgcpyDesc, c, s1, e, fs, fd, ⟨a1, a2, a3, rfl⟩, h1, h2.1.1.1.1, by decide +kernel, h2.1.1.1.2, h2.1.1.2, h3, h5, h4, h6.1, h6.2⟩
theorem wit_Complete_bgattn : ∃ (s : State) (c0 c : Cmd) (s1 s2 : State) (qh kv oh : BitVec 512) (ps : List PageRef) (fu : Tab Nat) (x : List Nat) (p : Bool), Asks s c0 c 0x13 ∧
    s.startHandles c.slot [mH0 c.desc, mH1 c.desc, mOH c.desc] = .ok (s1, [qh, kv, oh]) ∧ s1.attnBad c qh kv oh = none ∧ s1.attnPages c kv = some ps ∧
    (∀ r ∈ ps, s1.pagePlain r.page = true ∧ (mRepl c.desc = true → ∀ n ∈ r.mirror, s1.pagePlain n = true)) ∧
    s1.furlongs c .read (refFurlongs kv (mRepl c.desc) ps) = .ok fu ∧ s1.readVec c qh (mXoff c.desc) (kvSpace kv).hd = .ok (s2, x, p) := by
  let c := asked attnDesc
  have h : okOr ((waiting attnDesc).startHandles 0 [mH0 c.desc, mH1 c.desc, mOH c.desc]) (fun y => three y.2 (fun qh kv oh => (y.1.attnBad c qh kv oh).isNone &&
      (match y.1.attnPages c kv with
        | some ps => ps.all (fun r => y.1.pagePlain r.page) && okOr (y.1.furlongs c .read (refFurlongs kv (mRepl c.desc) ps)) (fun _ => true)
        | none => false) && okOr (y.1.readVec c qh (mXoff c.desc) (kvSpace kv).hd) (fun _ => true))) = true := by decide +kernel
  obtain ⟨⟨s1, l⟩, h1, h2⟩ := okOr_iff h
  obtain ⟨qh, kv, oh, rfl, h3⟩ := three_iff h2
  simp only [Bool.and_eq_true, Option.isNone_iff_eq_none] at h3
  obtain ⟨⟨h3, h4⟩, h5⟩ := h3
  obtain ⟨⟨s2, x, p⟩, h6, -⟩ := okOr_iff h5
  obtain ⟨a1, a2, a3⟩ := asks_of (d := attnDesc) (cmd := 0x13) (by decide +kernel)
  split at h4
  · rename_i ps hps
    simp only [Bool.and_eq_true] at h4
    obtain ⟨fu, h7, -⟩ := okOr_iff h4.2
    exact ⟨waiting attnDesc, memAt attnDesc, c, s1, s2, qh, kv, oh, ps, fu, x, p, ⟨a1, a2, a3, rfl⟩, h1, h3, hps,
      fun r hr => ⟨all_of h4.1 r hr, fun hm => absurd hm (by decide +kernel)⟩, h7, h6⟩
  · simp at h4
theorem wit_Complete_kvput : ∃ (s : State) (c0 c : Cmd) (s1 s2 : State) (e kv : BitVec 512) (new : List PageRef) (bs : List Byte) (ms : List Nat), Asks s c0 c 0x14 ∧
    s.startHandles c.slot [mH0 c.desc, mH1 c.desc] = .ok (s1, [e, kv]) ∧ hCheck e (ioKind e) true false = none ∧ hCheck kv (kvOk kv) true false = none ∧ mC c.desc ≠ 0 ∧
    s1.rangeBad c e (mOff c.desc) (4096 * mC c.desc) = none ∧ mB c.desc + mC c.desc ≤ 2 ^ 20 ∧ s1.placeBlocks c kv [] (kvBlocks c.desc) = .ok new ∧
    s1.tableRoom c kv new = true ∧
    (∀ r ∈ new, ∀ n ∈ refPages r, s1.pagePlain n = true) ∧ s1.readBlocks c e (mOff c.desc) (64 * mC c.desc) = .ok (s2, bs, ms) := by
  let d := kvDesc 0x14 + 2 ^ 128
  let c := asked d
  have h : okOr ((waiting d).startHandles 0 [mH0 c.desc, mH1 c.desc]) (fun y => bothOf y.2 (fun e kv => (hCheck e (ioKind e) true false).isNone && (hCheck kv (kvOk kv) true false).isNone &&
      (y.1.rangeBad c e (mOff c.desc) (4096 * mC c.desc)).isNone && okOr (y.1.placeBlocks c kv [] (kvBlocks c.desc)) (fun new =>
        y.1.tableRoom c kv new &&
        new.all (fun r => (refPages r).all y.1.pagePlain)) && okOr (y.1.readBlocks c e (mOff c.desc) (64 * mC c.desc)) (fun _ => true))) = true := by decide +kernel
  obtain ⟨⟨s1, l⟩, h1, h2⟩ := okOr_iff h
  obtain ⟨e, kv, rfl, h3⟩ := bothOf_iff h2
  simp only [Bool.and_eq_true, Option.isNone_iff_eq_none] at h3
  obtain ⟨new, h4, h5⟩ := okOr_iff h3.1.2
  obtain ⟨⟨s2, bs, ms⟩, h6, -⟩ := okOr_iff h3.2
  simp only [Bool.and_eq_true] at h5
  obtain ⟨a1, a2, a3⟩ := asks_of (d := d) (cmd := 0x14) (by decide +kernel)
  exact ⟨waiting d, memAt d, c, s1, s2, e, kv, new, bs, ms, ⟨a1, a2, a3, rfl⟩, h1, h3.1.1.1.1, h3.1.1.1.2, by decide +kernel, h3.1.1.2, by decide +kernel, h4, h5.1,
    fun r hr n hn => all_of (all_of h5.2 r hr) n hn, h6⟩
theorem wit_Complete_kvtake : ∃ (s : State) (c0 c : Cmd) (s1 : State) (kv : BitVec 512), Asks s c0 c 0x15 ∧ mCopyo c.desc = false ∧
    s.startHandles c.slot [mH1 c.desc] = .ok (s1, [kv]) ∧ hCheck kv (kvOk kv) true false = none ∧ mC c.desc ≠ 0 := by
  let c := asked (kvDesc 0x15)
  have h : okOr ((waiting (kvDesc 0x15)).startHandles 0 [mH1 c.desc]) (fun y => match y.2 with
    | [kv] => (hCheck kv (kvOk kv) true false).isNone
    | _ => false) = true := by decide +kernel
  obtain ⟨⟨s1, l⟩, h1, h2⟩ := okOr_iff h
  obtain ⟨a1, a2, a3⟩ := asks_of (d := kvDesc 0x15) (cmd := 0x15) (by decide +kernel)
  dsimp only at h2
  split at h2
  · rename_i kv
    exact ⟨waiting (kvDesc 0x15), memAt (kvDesc 0x15), c, s1, kv, ⟨a1, a2, a3, rfl⟩, by decide +kernel, h1, Option.isNone_iff_eq_none.1 h2, by decide +kernel⟩
  · simp at h2
/-- KVTAKE with its copy to local memory. -/
def takeDesc : Nat := kvDesc 0x15 + 2 ^ 128 + 2 ^ 90
theorem wit_Complete_kvtake_copy : ∃ (s : State) (c0 c : Cmd) (s1 : State) (kv e : BitVec 512) (fu : Tab Nat) (os : Tab (List Piece)), Asks s c0 c 0x15 ∧ mCopyo c.desc = true ∧
    s.startHandles c.slot [mH1 c.desc, mH0 c.desc] = .ok (s1, [kv, e]) ∧ hCheck kv (kvOk kv) true false = none ∧ hCheck e (outKind e) false true = none ∧ mC c.desc ≠ 0 ∧
    s1.rangeBad c e (mOff c.desc) (4096 * mC c.desc) = none ∧
    let refs := (kvBlocks c.desc).filterMap (fun b => (s1.blockOf c kv (mA c.desc) (mKvHead c.desc) b).map (fun x => x.ref b))
    s1.furlongs c .read (refFurlongs kv false refs) = .ok fu ∧ s1.copyOuts c e refs = .ok os := by
  let c := asked takeDesc
  have h : okOr ((waiting takeDesc).startHandles 0 [mH1 c.desc, mH0 c.desc]) (fun y => bothOf y.2 (fun kv e => (hCheck kv (kvOk kv) true false).isNone &&
      (hCheck e (outKind e) false true).isNone && (y.1.rangeBad c e (mOff c.desc) (4096 * mC c.desc)).isNone &&
      (let refs := (kvBlocks c.desc).filterMap (fun b => (y.1.blockOf c kv (mA c.desc) (mKvHead c.desc) b).map (fun x => x.ref b))
       okOr (y.1.furlongs c .read (refFurlongs kv false refs)) (fun _ => true) && okOr (y.1.copyOuts c e refs) (fun _ => true)))) = true := by decide +kernel
  obtain ⟨⟨s1, l⟩, h1, h2⟩ := okOr_iff h
  obtain ⟨kv, e, rfl, h3⟩ := bothOf_iff h2
  simp only [Bool.and_eq_true, Option.isNone_iff_eq_none] at h3
  obtain ⟨fu, h4, -⟩ := okOr_iff h3.2.1
  obtain ⟨os, h5, -⟩ := okOr_iff h3.2.2
  obtain ⟨a1, a2, a3⟩ := asks_of (d := takeDesc) (cmd := 0x15) (by decide +kernel)
  exact ⟨waiting takeDesc, memAt takeDesc, c, s1, kv, e, fu, os, ⟨a1, a2, a3, rfl⟩, by decide +kernel, h1, h3.1.1.1, h3.1.1.2, by decide +kernel, h3.1.2, h4, h5⟩

/-! ### Dies, lines, rounds -/

theorem wit_Dies : ∃ (s : State) (u : Nat), u ∈ s.xpwrDue ∧ u ∈ s.scrubDue := ⟨{ bench with xpwrDue := [3], scrubDue := [3] }, 3, by simp, by simp⟩
theorem wit_Lines_l2 : ∃ (s : State) (line : Nat) (x : BitVec 512), tabFind s.l2 line = some x := ⟨{ bench with l2 := [(7, 1)] }, 7, 1, rfl⟩
theorem wit_Lines_far : ∃ (s : State) (line : Nat) (x y : BitVec 512), line < 2 ^ 46 ∧ tabFind s.hostL2 line = some x ∧ tabFind s.poolL2 line = some y :=
  ⟨{ bench with hostL2 := [(7, 1)], poolL2 := [(7, 2)] }, 7, 1, 2, by decide, rfl, rfl⟩
theorem wit_Lines_owner : ∀ x ∈ [(Owner.l1 3, MemSpace.il), (.l1 63, .host), (.host, .il), (.pool, .pool)], ∃ line : Nat, spaceLine x.2 line = true ∧ ownerOk x.1 x.2 = true :=
  fun x hx => ⟨5, by simp only [List.mem_cons, List.not_mem_nil, or_false] at hx; rcases hx with rfl | rfl | rfl | rfl <;> exact ⟨by decide +kernel, by decide +kernel⟩⟩
theorem wit_Lines_l2_home : ∃ (s : State) (line : Nat) (x : BitVec 512), tabWf s.l2 = true ∧ tabFind s.l2 line = some x ∧ line ∉ s.arr.l2Ue ∧ line ∉ s.arr.l2Ce :=
  ⟨{ bench with l2 := [(7, 1)], arr := {} }, 7, 1, by decide, rfl, by simp, by simp⟩
/-- The region table of the data page with one region; the core knows its round 5, the current one is 7. -/
def roundKey : Nat := (2 ^ 64 + (dataVa + 1024).toNat) * 256
def rounds (known : Tab (BitVec 32)) : State :=
  let s := bench.writeMem (.device .service) false .il 1024 (leBytes 16 (3 + dataVa.toNat + 2 ^ 64 + 7 * 2 ^ 96))
  (s.setStrand 0 { s.strand 0 with rrt := dataVa + 1024 }).modCore 0 (fun c => { c with known := known })
theorem wit_Rounds_message : ∃ (s : State) (region : Nat) (k : BitVec 32) (ent : BitVec 128), tabFind (s.core 0).known region = some k ∧ s.regionNow 0 region = some ent := by
  have h : ((rounds [(roundKey, 5)]).regionNow 0 roundKey).isSome = true ∧ tabFind ((rounds [(roundKey, 5)]).core 0).known roundKey = some 5 := by decide +kernel
  obtain ⟨ent, he⟩ := Option.isSome_iff_exists.1 h.1
  exact ⟨_, roundKey, 5, ent, h.2, he⟩
/-- The region's table entry without the push bit. -/
theorem wit_Rounds_unmarked : ∃ (s : State) (region : Nat) (ent : BitVec 128), s.regionNow 0 region = some ent ∧ ent.getLsbD 1 = false := by
  have h : (match ((rounds []).writeMem (.device .service) false .il 1024 (leBytes 16 (1 + dataVa.toNat + 2 ^ 64 + 7 * 2 ^ 96))).regionNow 0 roundKey with
    | some ent => !(ent.getLsbD 1)
    | none => false) = true := by decide +kernel
  split at h
  · rename_i ent he
    exact ⟨_, roundKey, ent, he, by simpa using h⟩
  · simp at h
/-- A core that knows no round. -/
theorem wit_Rounds_unknown : ∃ (s : State) (region : Nat), tabFind (s.core 0).known region = none := ⟨State.reset, 0, by decide +kernel⟩
theorem wit_Rounds_marker : ∃ (s : State) (region : Nat) (round : BitVec 32) (ent : BitVec 128), s.regionNow 0 region = some ent ∧ ent.getLsbD 1 = true ∧
    (regionRound ent - round).toNat < 2 ^ 31 ∧ tabFind (s.core 0).known region = none := by
  have h : (match (rounds []).regionNow 0 roundKey with
    | some ent => ent.getLsbD 1 && decide ((regionRound ent - 6).toNat < 2 ^ 31)
    | none => false) = true ∧ tabFind ((rounds []).core 0).known roundKey = none := by decide +kernel
  obtain ⟨h, hk⟩ := h
  split at h
  · rename_i ent he
    simp only [Bool.and_eq_true, decide_eq_true_eq] at h
    exact ⟨_, roundKey, 6, ent, he, h.1, h.2, hk⟩
  · simp at h

/-! ### A hold that waits -/

def holdF : Fields := { a := .h 3 }
def holdE : QEntry := { entry (.bgbarHold holdF) 0 0 0 0 with handles := [(3, hStripe)] }
/-- A command of quadrant 0 under way that reads the first furlong of the stripe. -/
def holdS : State :=
  atHead (engines.setQuad 0 { q := [{ cmdOf 0 with started := true, reads := [512] }] }) .S holdE
theorem wit_Waits_bgbarHold : ∃ (f : Fields) (q : Queue) (sp : ISpec) (e : QEntry) (s : State) (fs : List Nat), headTakes (.bgbarHold f) f q sp e s = true ∧
    hCheck (e.entry f.a) (stripe (e.entry f.a)) false true = none ∧ s.holds.length < 16 ∧ s.coveredFurlongs (e.entry f.a) = .ok fs ∧
    (∃ x ∈ s.quads, ∃ c ∈ x.2.q, (c.accepted ≤ e.waiting.getD s.cycle ∨ c.started = true) ∧ ∃ r ∈ s.cmdReads c, r ∈ fs) := by
  obtain ⟨fs, h1, h2⟩ := okOr_iff (show okOr (holdS.coveredFurlongs hStripe) (fun fs => holdS.quads.any (fun x => x.2.q.any (fun c =>
    c.started && (holdS.cmdReads c).any (fun r => fs.contains r)))) = true by decide +kernel)
  simp only [List.any_eq_true, Bool.and_eq_true, List.contains_iff_mem] at h2
  obtain ⟨x, hx, c, hc, hs, r, hr, hf⟩ := h2
  exact ⟨holdF, .S, specOf (.bgbarHold holdF), holdE, holdS, fs, by decide +kernel, by decide +kernel, by decide +kernel, h1, x, hx, c, hc, .inr hs, r, hr, hf⟩

end Sys2Proof.Tests
end

