-- ==== Sys2Proof/Tests/Witness6.lean ====
section
/-! SUPPORT. Witnesses for the statements about the command processor: packets, control packets, bundles. -/

set_option Elab.async false

namespace Sys2Proof.Tests

open Sys2Proof.Machine Sys2Proof.Claims

/-! ### A queue with packets -/

/-- Thread 0 serves queue 5 of context 1, a queue of type `typ` whose ring is at byte 32768 of the data page and holds `pkts`. -/
def served (typ : BitVec 2) (pkts : List Nat) : State :=
  (((bench.placeIl 0x13010 8 (dataLeaf + 2 * 2 ^ 6)).writeMem (.device .service) false .il 32768 (pkts.flatMap (leBytes 64))).setQcb 0
    { st := 1, typ := typ, pasid := 1, qnum := 5, log2n := 4, mapped := true, ring := dataVa + 32768 }).setThread 0 { qcb := some 0, wake := true }
def head0 (s : State) : Except Bad Packet := match s.readSlot (s.qcb 0) 0 with
  | .ok (s1, d) => .ok { n := 0, k := 0, q := s.qcb 0, d := d, s := s1.slotGains 0 (s.qcb 0) 0 }
  | .error b => .error b
def servesOk (s : State) (types : Nat → Bool) (f : Packet → Bool) : Bool :=
  (s.thread 0).qcb == some 0 && (s.thread 0).wake && (s.thread 0).held.isNone && (s.qcb 0).st == 1 && !(s.qcb 0).stall &&
  okOr (head0 s) (fun p => pktValid p.d && types (pktType p.d) && f p)
theorem serves_of {s : State} {types : Nat → Bool} {f : Packet → Bool} (h : servesOk s types f = true) :
    ∃ p, Serves s 0 p types ∧ f p = true ∧ p.q = s.qcb 0 := by
  simp only [servesOk, Bool.and_eq_true, beq_iff_eq, Option.isNone_iff_eq_none, Bool.not_eq_true'] at h
  obtain ⟨⟨⟨⟨⟨h1, h2⟩, h3⟩, h4⟩, h5⟩, h6⟩ := h
  obtain ⟨p, hp, h6⟩ := okOr_iff h6
  simp only [Bool.and_eq_true] at h6
  unfold head0 at hp
  split at hp
  · rename_i s1 d hr
    cases hp
    refine ⟨{ n := 0, k := 0, q := s.qcb 0, d := d, s := s1.slotGains 0 (s.qcb 0) 0 }, ?_, h6.2, rfl⟩
    unfold Serves
    exact ⟨by decide, h1, h2, h3, rfl, h4, h5, ⟨s1, hr, rfl⟩, h6.1.1, rfl, h6.1.2⟩
  · cases hp

/-- NOP; a type that no queue allows; WAIT until the word at byte 4096 is `x`, for a microsecond; SIGNAL there. -/
def nopPkt : Nat := 2 ^ 8
def waitPkt (x : Nat) : Nat := 3 + 2 ^ 8 + (dataVa.toNat + 4096) * 2 ^ 64 + x * 2 ^ 128 + 2 ^ 192
def signalPkt : Nat := 4 + 2 ^ 8 + (dataVa.toNat + 4096) * 2 ^ 64 + 7 * 2 ^ 128
theorem wit_Packet_nop : ∃ (s t : State) (p : Packet), Serves s 0 p (· == 0) ∧ p.consume p.s 1 = .ok t := by
  obtain ⟨p, h, h1, -⟩ := serves_of (show servesOk (served 0 [nopPkt]) (· == 0) (fun p => okOr (p.consume p.s 1) (fun _ => true)) = true by decide +kernel)
  obtain ⟨t, ht, -⟩ := okOr_iff h1
  exact ⟨_, t, p, h, ht⟩
/-- TRAIL of a packet that is refused. -/
def refusedTrail (p : Packet) : BitVec 16 :=
  let img := if pktType p.d = 1 then p.s.imageFind p.q.pasid (p.d.extractLsb' 32 16) else none
  (img.map (fun i => i.trail)).getD 3
theorem wit_Packet_refused : ∃ (s s1 t : State) (p : Packet), Serves s 0 p (fun x => !(typeAllowed p.q.typ.toNat x)) ∧
    p.s.announce p.q.pasid (p.q.slotVa p.q.ridx.toNat) (p.d.extractLsb' 320 64) (refusedTrail p) p.q.msiv.toNat (5 * 2 ^ 36) 5 0 (p.s.thread 0).seen = .ok s1 ∧ p.consume s1 1 = .ok t := by
  obtain ⟨p, h, h1, h2⟩ := serves_of (show servesOk (served 0 [5 + 2 ^ 8]) (fun x => !(typeAllowed ((served 0 [5 + 2 ^ 8]).qcb 0).typ.toNat x)) (fun p =>
    okOr (p.s.announce p.q.pasid (p.q.slotVa p.q.ridx.toNat) (p.d.extractLsb' 320 64) (refusedTrail p) p.q.msiv.toNat (5 * 2 ^ 36) 5 0 (p.s.thread 0).seen) (fun s1 => okOr (p.consume s1 1)
      (fun _ => true))) = true by decide +kernel)
  obtain ⟨s1, h3, h1⟩ := okOr_iff h1
  obtain ⟨t, h4, -⟩ := okOr_iff h1
  exact ⟨_, s1, t, p, by rw [h2]; exact h, h3, h4⟩
def waitOk (holds : Bool) (p : Packet) : Bool := p.q.typ != 3 && okOr (p.s.cpPlace p.q.pasid .read (p.d.extractLsb' 64 64) 8) (fun ps =>
  let g := p.s.readPieces cpUnit ps
  waitHolds p.d (leNat g.bytes) == holds && (!holds || okOr (p.consume ((g.s.setThread 0 { g.s.thread 0 with waitSince := none }).threadGains 0 ps) 1) (fun _ => true)))
theorem wait_of {s : State} {b : Bool} (h : servesOk s (· == 3) (waitOk b) = true) : ∃ (p : Packet) (ps : List Piece), Serves s 0 p (· == 3) ∧ p.q.typ ≠ 3 ∧
    p.s.cpPlace p.q.pasid .read (p.d.extractLsb' 64 64) 8 = .ok ps ∧
    (let g := p.s.readPieces cpUnit ps
     waitHolds p.d (leNat g.bytes) = b ∧ (b = true → ∃ t, p.consume ((g.s.setThread 0 { g.s.thread 0 with waitSince := none }).threadGains 0 ps) 1 = .ok t)) := by
  obtain ⟨p, h, h1, -⟩ := serves_of h
  simp only [waitOk, Bool.and_eq_true, bne_iff_ne] at h1
  obtain ⟨ps, h2, h3⟩ := okOr_iff h1.2
  simp only [Bool.and_eq_true, beq_iff_eq, Bool.or_eq_true, Bool.not_eq_true'] at h3
  refine ⟨p, ps, h, h1.1, h2, h3.1, fun hb => ?_⟩
  obtain ⟨t, ht, -⟩ := okOr_iff (h3.2.resolve_left (by simp [hb]))
  exact ⟨t, ht⟩
theorem wit_Packet_wait : ∃ (s : State) (p : Packet) (ps : List Piece), Serves s 0 p (· == 3) ∧ p.q.typ ≠ 3 ∧
    p.s.cpPlace p.q.pasid .read (p.d.extractLsb' 64 64) 8 = .ok ps ∧
    (let g := p.s.readPieces cpUnit ps
     waitHolds p.d (leNat g.bytes) = true ∧ (true = true → ∃ t, p.consume ((g.s.setThread 0 { g.s.thread 0 with waitSince := none }).threadGains 0 ps) 1 = .ok t)) := by
  obtain ⟨p, ps, h⟩ := wait_of (s := served 0 [waitPkt 0]) (b := true) (by decide +kernel)
  exact ⟨_, p, ps, h⟩
theorem wit_Packet_waits : ∃ (s : State) (p : Packet) (ps : List Piece), Serves s 0 p (· == 3) ∧ p.q.typ ≠ 3 ∧
    p.s.cpPlace p.q.pasid .read (p.d.extractLsb' 64 64) 8 = .ok ps ∧ waitHolds p.d (leNat (p.s.readPieces cpUnit ps).bytes) = false ∧ (s.thread 0).waitSince = none := by
  obtain ⟨p, ps, h1, h2, h3, h4, -⟩ := wait_of (s := served 0 [waitPkt 9]) (b := false) (by decide +kernel)
  exact ⟨_, p, ps, h1, h2, h3, h4, by decide +kernel⟩
/-- A WAIT that began when device time was 0, a microsecond ago. -/
def longWait : State := { (served 0 [waitPkt 9]).setThread 0 { qcb := some 0, wake := true, waitSince := some 0 } with time := 1000 }
theorem wit_Packet_timeout : ∃ (s : State) (p : Packet) (ps : List Piece) (t0 : Nat), Serves s 0 p (· == 3) ∧ p.q.typ ≠ 3 ∧
    p.s.cpPlace p.q.pasid .read (p.d.extractLsb' 64 64) 8 = .ok ps ∧ waitHolds p.d (leNat (p.s.readPieces cpUnit ps).bytes) = false ∧
    (s.thread 0).waitSince = some t0 ∧ fld p.d 192 32 ≠ 0 ∧ t0 + 1000 * fld p.d 192 32 ≤ s.time := by
  obtain ⟨p, h, h1, -⟩ := serves_of (show servesOk longWait (· == 3) (fun p => waitOk false p && fld p.d 192 32 != 0 && decide (0 + 1000 * fld p.d 192 32 ≤ longWait.time)) =
    true by decide +kernel)
  simp only [Bool.and_eq_true, bne_iff_ne, decide_eq_true_eq, waitOk] at h1
  obtain ⟨ps, h2, h3⟩ := okOr_iff h1.1.1.2
  simp only [Bool.and_eq_true, beq_iff_eq] at h3
  exact ⟨longWait, p, ps, 0, h, h1.1.1.1, h2, h3.1, by decide +kernel, h1.1.2, h1.2⟩
theorem wit_Packet_signal : ∃ (s t : State) (p : Packet) (ps : List Piece), Serves s 0 p (· == 4) ∧ p.q.typ ≠ 3 ∧
    p.s.cpPlace p.q.pasid .atomic (p.d.extractLsb' 64 64) 8 = .ok ps ∧ (∀ a b c, ps ≠ [.remote a b c]) ∧
    (let g := p.s.readPieces cpUnit ps
     p.consume ((g.s.writeAtomic (.device .processor) false (leBytes 8 ((leNat g.bytes + fld p.d 128 64) % 2 ^ 64)) ps).hwRelease .processor ps (p.s.thread 0).seen) 1 = .ok t) := by
  obtain ⟨p, h, h1, -⟩ := serves_of (show servesOk (served 0 [signalPkt]) (· == 4) (fun p => p.q.typ != 3 &&
    okOr (p.s.cpPlace p.q.pasid .atomic (p.d.extractLsb' 64 64) 8) (fun ps => ps.all (fun x => match x with | .remote .. => false | _ => true) && (
      let g := p.s.readPieces cpUnit ps
      okOr (p.consume ((g.s.writeAtomic (.device .processor) false (leBytes 8 ((leNat g.bytes + fld p.d 128 64) % 2 ^ 64)) ps).hwRelease .processor ps (p.s.thread 0).seen) 1)
        (fun _ => true)))) = true by decide +kernel)
  simp only [Bool.and_eq_true, bne_iff_ne] at h1
  obtain ⟨ps, h2, h3⟩ := okOr_iff h1.2
  simp only [Bool.and_eq_true] at h3
  obtain ⟨t, h4, -⟩ := okOr_iff h3.2
  exact ⟨_, t, p, ps, h, h1.1, h2, fun a b c hp => by simp [hp] at h3, h4⟩

theorem wit_Notify : (∃ (s : State) (k : Nat), s.qcbOf 1 5 = some k ∧ (s.qcb k).mapped = false) ∧
    (∃ (s : State) (k : Nat), s.qcbOf 1 5 = some k ∧ (s.qcb k).mapped = true ∧ (s.qcb k).stall = true) ∧
    (∃ s : State, s.qcbOf 1 5 = none ∧ s.ndrop ≠ BitVec.allOnes 64) := by
  let k := (qcbProbe 1 5).headD 0
  exact ⟨⟨bench.setQcb k { st := 1, pasid := 1, qnum := 5 }, k, by decide +kernel, by decide +kernel⟩,
    ⟨bench.setQcb k { st := 1, pasid := 1, qnum := 5, mapped := true, stall := true }, k, by decide +kernel, by decide +kernel, by decide +kernel⟩,
    ⟨bench, by decide +kernel, by decide +kernel⟩⟩

/-- A notify of a running queue whose next slot is VALID, and one whose next slot is not. -/
theorem wit_Notify_running : ∀ v ∈ [true, false], ∃ (s s1 : State) (k : Nat) (d : BitVec 512), s.qcbOf 1 5 = some k ∧ (s.qcb k).mapped = true ∧ (s.qcb k).stall = false ∧
    (s.thread (s.qcb k).thread.toNat).waitSince = none ∧ (s.thread (s.qcb k).thread.toNat).qcb = some k ∧
    (s.setThread (s.qcb k).thread.toNat { s.thread (s.qcb k).thread.toNat with wake := true }).readSlot (s.qcb k) 0 = .ok (s1, d) ∧ pktValid d = v := by
  intro v hv
  let k := (qcbProbe 1 5).headD 0
  have h := all_of (show [true, false].all (fun v => let s0 := served 0 [if v then nopPkt else 0]
    let k := (qcbProbe 1 5).headD 0
    let s := (s0.setQcb k { s0.qcb 0 with thread := 0 }).setThread 0 { qcb := some k }
    s.qcbOf 1 5 == some k && (s.qcb k).mapped && !(s.qcb k).stall && (s.thread (s.qcb k).thread.toNat).waitSince.isNone && (s.thread (s.qcb k).thread.toNat).qcb == some k &&
    okOr ((s.setThread (s.qcb k).thread.toNat { s.thread (s.qcb k).thread.toNat with wake := true }).readSlot (s.qcb k) 0) (fun x => pktValid x.2 == v)) = true by
      decide +kernel) v hv
  simp only [Bool.and_eq_true, beq_iff_eq, Bool.not_eq_true', Option.isNone_iff_eq_none] at h
  obtain ⟨⟨⟨⟨⟨h1, h2⟩, h3⟩, h4⟩, h5⟩, h6⟩ := h
  obtain ⟨⟨s1, d⟩, h6, h7⟩ := okOr_iff h6
  exact ⟨_, s1, _, d, h1, h2, h3, h4, h5, h6, by simpa using h7⟩

/-! ### LAUNCH -/

/-- LAUNCH of image 2 with one instance of its strand 0, and one sub-packet of a copy job. -/
def launchPkt (image : Nat) : Nat := 1 + 2 ^ 8 + 2 ^ 16 + image * 2 ^ 32 + 2 ^ 56 + (2 ^ 48 - 1) * 2 ^ 112
def jobPkt : Nat := 2 + 2 ^ 8 + 2 ^ 9 + dataVa.toNat * 2 ^ 64
def smallImage : Image := { pasid := 1, id := 2, strands := [{ entry := 0x4000, wrapup := 0, budget := 1 }] }
def withImages (s : State) : State := { s with images := [smallImage] }
def launching (image : Nat) : State := withImages (served 0 [launchPkt image, jobPkt])
def launchOk (refused : Bool) (p : Packet) : Bool := p.q.typ != 3 && okOr (p.s.readSubs p.q 1 (fld p.d 16 4)) (fun o => match o with
  | some subs =>
    let img := p.s.imageFind p.q.pasid (p.d.extractLsb' 32 16)
    launchRefused p.q img p.d subs == refused && !(p.d.getLsbD 9) &&
    (if refused then okOr (p.s.announce p.q.pasid (p.q.slotVa p.q.ridx.toNat) (p.d.extractLsb' 320 64) ((img.map (fun i => i.trail)).getD 3) p.q.msiv.toNat
        (5 * 2 ^ 36) 5 0 (p.s.thread 0).seen) (fun s1 => okOr (p.consume s1 (1 + subs.length)) (fun _ => true))
     else let s1 := p.s.setQcb p.k { p.q with seq := p.q.seq + 1 }
      okOr (p.consume { s1 with bundles := s1.bundles ++ [p.bundle subs], timeLocked := true } (1 + subs.length)) (fun _ => true))
  | none => false)
theorem launch_of {s : State} {b : Bool} (h : servesOk s (· == 1) (launchOk b) = true) : ∃ (p : Packet) (subs : List (BitVec 512)), Serves s 0 p (· == 1) ∧ p.q.typ ≠ 3 ∧
    p.s.readSubs p.q 1 (fld p.d 16 4) = .ok (some subs) ∧ p.d.getLsbD 9 = false ∧
    (let img := p.s.imageFind p.q.pasid (p.d.extractLsb' 32 16)
     let s1 := p.s.setQcb p.k { p.q with seq := p.q.seq + 1 }
     launchRefused p.q img p.d subs = b ∧
     (b = false → ∃ t, p.consume { s1 with bundles := s1.bundles ++ [p.bundle subs], timeLocked := true } (1 + subs.length) = .ok t) ∧
     (b = true → ∃ s1 t, p.s.announce p.q.pasid (p.q.slotVa p.q.ridx.toNat) (p.d.extractLsb' 320 64) ((img.map (fun i => i.trail)).getD 3) p.q.msiv.toNat
       (5 * 2 ^ 36) 5 0 (p.s.thread 0).seen = .ok s1 ∧ p.consume s1 (1 + subs.length) = .ok t)) := by
  obtain ⟨p, h, h1, -⟩ := serves_of h
  simp only [launchOk, Bool.and_eq_true, bne_iff_ne] at h1
  obtain ⟨o, h2, h3⟩ := okOr_iff h1.2
  split at h3
  · rename_i subs
    simp only [Bool.and_eq_true, beq_iff_eq, Bool.not_eq_true'] at h3
    refine ⟨p, subs, h, h1.1, h2, h3.1.2, h3.1.1, fun hb => ?_, fun hb => ?_⟩
    · subst hb
      have h4 := h3.2
      simp only [Bool.false_eq_true, if_false] at h4
      obtain ⟨t, ht, -⟩ := okOr_iff h4
      exact ⟨t, ht⟩
    · subst hb
      have h4 := h3.2
      simp only [if_true] at h4
      obtain ⟨s1, ha, h4⟩ := okOr_iff h4
      obtain ⟨t, ht, -⟩ := okOr_iff h4
      exact ⟨s1, t, ha, ht⟩
  · simp at h3
theorem wit_Launch : ∃ (s t : State) (p : Packet) (subs : List (BitVec 512)), Serves s 0 p (· == 1) ∧ p.q.typ ≠ 3 ∧ p.s.readSubs p.q 1 (fld p.d 16 4) = .ok (some subs) ∧
    launchRefused p.q (p.s.imageFind p.q.pasid (p.d.extractLsb' 32 16)) p.d subs = false ∧ p.d.getLsbD 9 = false ∧
    (let s1 := p.s.setQcb p.k { p.q with seq := p.q.seq + 1 }
     p.consume { s1 with bundles := s1.bundles ++ [p.bundle subs], timeLocked := true } (1 + subs.length) = .ok t) := by
  obtain ⟨p, subs, h1, h2, h3, h4, h5, h6, -⟩ := launch_of (s := launching 2) (b := false) (by decide +kernel)
  obtain ⟨t, ht⟩ := h6 rfl
  exact ⟨_, t, p, subs, h1, h2, h3, h5, h4, ht⟩
theorem wit_Launch_refused : ∃ (s s1 t : State) (p : Packet) (subs : List (BitVec 512)), Serves s 0 p (· == 1) ∧ p.q.typ ≠ 3 ∧
    p.s.readSubs p.q 1 (fld p.d 16 4) = .ok (some subs) ∧
    (let img := p.s.imageFind p.q.pasid (p.d.extractLsb' 32 16)
     launchRefused p.q img p.d subs = true ∧
     p.s.announce p.q.pasid (p.q.slotVa p.q.ridx.toNat) (p.d.extractLsb' 320 64) ((img.map (fun i => i.trail)).getD 3) p.q.msiv.toNat (5 * 2 ^ 36) 5 0 (p.s.thread 0).seen = .ok s1 ∧
     p.consume s1 (1 + subs.length) = .ok t) := by
  obtain ⟨p, subs, h1, h2, h3, -, h5, -, h6⟩ := launch_of (s := launching 3) (b := true) (by decide +kernel)
  obtain ⟨s1, t, ha, ht⟩ := h6 rfl
  exact ⟨_, s1, t, p, subs, h1, h2, h3, h5, ha, ht⟩

/-- A LAUNCH in order behind a bundle of its queue. -/
def orderedPkt : Nat := launchPkt 2 + 2 ^ 9
theorem wit_Launch_ordered : ∃ (s : State) (p : Packet) (subs : List (BitVec 512)), Serves s 0 p (· == 1) ∧ p.q.typ ≠ 3 ∧ p.s.readSubs p.q 1 (fld p.d 16 4) = .ok (some subs) ∧
    launchRefused p.q (p.s.imageFind p.q.pasid (p.d.extractLsb' 32 16)) p.d subs = false ∧ p.d.getLsbD 9 = true ∧
    (∃ b ∈ p.s.bundles, b.qcb = some p.k ∧ b.pasid = p.q.pasid ∧ b.id.toNat % 4096 = p.q.qnum.toNat) := by
  let s : State := { withImages (served 0 [orderedPkt, jobPkt]) with bundles := [{ qcb := some 0, pasid := 1, id := 2 ^ 12 + 5, lnch := 2 ^ 12 + 5, image := 2 }] }
  obtain ⟨p, h, h1, -⟩ := serves_of (show servesOk s (· == 1) (fun p => p.q.typ != 3 && okOr (p.s.readSubs p.q 1 (fld p.d 16 4)) (fun o => match o with
    | some subs => !(launchRefused p.q (p.s.imageFind p.q.pasid (p.d.extractLsb' 32 16)) p.d subs) && p.d.getLsbD 9 &&
        decide (∃ b ∈ p.s.bundles, b.qcb = some p.k ∧ b.pasid = p.q.pasid ∧ b.id.toNat % 4096 = p.q.qnum.toNat)
    | none => false)) = true by decide +kernel)
  simp only [Bool.and_eq_true, bne_iff_ne] at h1
  obtain ⟨o, h2, h3⟩ := okOr_iff h1.2
  split at h3
  · rename_i subs
    simp only [Bool.and_eq_true, Bool.not_eq_true', decide_eq_true_eq] at h3
    exact ⟨s, p, subs, h, h1.1, h2, h3.1.1, h3.1.2, h3.2⟩
  · simp at h3

end Sys2Proof.Tests
end

