-- ==== Sys2Proof/Tests/Witness7.lean ====
section
/-! SUPPORT. Witnesses for the statements about control packets and bundles. -/

set_option Elab.async false

namespace Sys2Proof.Tests

open Sys2Proof.Machine Sys2Proof.Claims

/-! ### Control packets -/

def controlsOk (s : State) (typ : Nat) (f : Packet → Bool) : Bool :=
  (s.qcb 0).typ == 3 && servesOk s (· == typ) (fun p => ctlReservedOk typ p.d && f p)
theorem controls_of {s : State} {typ : Nat} {f : Packet → Bool} (h : controlsOk s typ f = true) : ∃ p, Controls s 0 p typ ∧ f p = true := by
  simp only [controlsOk, Bool.and_eq_true, beq_iff_eq] at h
  obtain ⟨p, h1, h2, h3⟩ := serves_of h.2
  simp only [Bool.and_eq_true] at h2
  exact ⟨p, ⟨h1, by rw [h3]; exact h.1, h2.1⟩, h2.2⟩
def endsOk (p : Packet) (s : State) (code : Nat) : Bool := okOr (p.finish s code) (fun o => o.isSome)
theorem ends_of {p : Packet} {s : State} {code : Nat} (h : endsOk p s code = true) : ∃ t, EndsWith p s code t := by
  obtain ⟨o, h1, h2⟩ := okOr_iff h
  obtain ⟨t, rfl⟩ := Option.isSome_iff_exists.1 h2
  exact ⟨t, h1⟩
/-- A control packet of type `typ` for context 1 with fields `more`. -/
def ctlPkt (typ more : Nat) : Nat := typ + 2 ^ 8 + 2 ^ 16 + more
def control (typ more : Nat) : State := withImages (served 3 [ctlPkt typ more])
def aBundle (id : Nat) : Bundle := { id := BitVec.ofNat 64 id, lnch := BitVec.ofNat 64 id, pasid := 1, image := 2, dlsec := 0xFFFFFFFFFFFF, subs := [{ strd := 0, count := 1 }] }
def withBundles (s : State) (l : List Bundle) : State := { s with bundles := l }

def imageVa : Nat := dataVa.toNat + 131072
/-- An image of one strand and one section, whose signature is zeros. -/
def goodHead : List Byte := leBytes 256 (0x4E4C5349 + 2 ^ 32 + (256 + 48 + 7856) * 2 ^ 64 + 2 ^ 128 + 2 ^ 136 + 2 ^ 256 + 256 * 2 ^ 576 + 272 * 2 ^ 608 + 304 * 2 ^ 640) ++ leBytes 48 (2 ^ 96)
/-- Context 1 may have one strand; its descriptor is at byte 81920. -/
def registering (img : Nat) : State := ((control 0x10 (img * 2 ^ 200 + imageVa * 2 ^ 64 + (256 + 48 + 7856) * 2 ^ 128)).writeMem (.device .service) false .il 131072 goodHead).placeIl 0x1000018 8 81920
def quota (s : State) : State := s.placeIl (81920 + 8) 16 (8 + 16 * 2 ^ 9 + 16 * 2 ^ 19)
theorem wit_Register_known : ∃ (s t : State) (p : Packet), Controls s 0 p 0x10 ∧ fld p.d 64 6 = 0 ∧ (p.s.imageFind (ctlPasid p.d) (ctlImage p.d)).isSome = true ∧ EndsWith p p.s 1 t := by
  obtain ⟨p, h, h1⟩ := controls_of (show controlsOk (registering 2) 0x10 (fun p => fld p.d 64 6 == 0 && (p.s.imageFind (ctlPasid p.d) (ctlImage p.d)).isSome && endsOk p p.s 1) =
    true by decide +kernel)
  simp only [Bool.and_eq_true, beq_iff_eq] at h1
  obtain ⟨t, ht⟩ := ends_of h1.2
  exact ⟨_, t, p, h, h1.1.1, h1.1.2, ht⟩
/-- An image whose magic is not there: the loader refuses it. -/
theorem wit_Register_bad : ∃ (s t : State) (p : Packet) (ps : List Piece), Controls s 0 p 0x10 ∧ fld p.d 64 6 = 0 ∧ p.s.imageFind (ctlPasid p.d) (ctlImage p.d) = none ∧
    sigBytes + 256 ≤ fld p.d 128 64 ∧ p.s.cpPlace (ctlPasid p.d) .read (p.d.extractLsb' 64 64) (fld p.d 128 64) = .ok ps ∧ (p.s.readPieces cpUnit ps).poison = none ∧
    (let g := p.s.readPieces cpUnit ps
     g.s.loaderCode (ctlPasid p.d) g.bytes ≠ 0 ∧ EndsWith p g.s (g.s.loaderCode (ctlPasid p.d) g.bytes) t) := by
  obtain ⟨p, h, h1⟩ := controls_of (show controlsOk (control 0x10 (3 * 2 ^ 200 + imageVa * 2 ^ 64 + 8112 * 2 ^ 128)) 0x10 (fun p => fld p.d 64 6 == 0 &&
    (p.s.imageFind (ctlPasid p.d) (ctlImage p.d)).isNone && decide (sigBytes + 256 ≤ fld p.d 128 64) &&
    okOr (p.s.cpPlace (ctlPasid p.d) .read (p.d.extractLsb' 64 64) (fld p.d 128 64)) (fun ps =>
      let g := p.s.readPieces cpUnit ps
      g.poison.isNone && g.s.loaderCode (ctlPasid p.d) g.bytes == 2 && endsOk p g.s 2)) = true by decide +kernel)
  simp only [Bool.and_eq_true, beq_iff_eq, decide_eq_true_eq, Option.isNone_iff_eq_none] at h1
  obtain ⟨ps, h2, h3⟩ := okOr_iff h1.2
  simp only [Bool.and_eq_true, beq_iff_eq, Option.isNone_iff_eq_none] at h3
  obtain ⟨t, ht⟩ := ends_of h3.2
  exact ⟨_, t, p, ps, h, h1.1.1.1, h1.1.1.2, h1.1.2, h2, h3.1.1, by rw [h3.1.2]; decide, by rw [h3.1.2]; exact ht⟩

/-- What the loader decides apart from the section table and the records, whose layout log 17 leaves to the configuration. -/
def restOk (c : BitVec 1024) (bs : List Byte) : Bool :=
  let h := headOf bs
  let body := bs.length - sigBytes
  decide (bs.length ≥ 256 + sigBytes) && fld h 0 32 == 0x4E4C5349 && fld h 32 16 == 1 && fld h 64 64 == bs.length &&
  hdReserved.all (fun r => fld h r.1 r.2 == 0) && decide (1 ≤ hdStrands h) && decide (hdStrands h ≤ 64) && decide (1 ≤ hdSections h) && decide (hdSections h ≤ 64) &&
  decide (1 ≤ hdCstr h) && decide (hdCstr h ≤ 256) && decide (hdCvg h ≤ 12) && decide (hdClm h ≤ 4) && decide ((hdTrail h).toNat < 16) &&
  decide (hdOstr h + 16 * hdStrands h ≤ body) && decide (hdOsec h + 32 * hdSections h ≤ body) && decide (hdOrec h ≤ body) &&
  (List.range (hdStrands h)).all (fun k => fld (BitVec.ofNat 128 (leNat (bytesAt bs (hdOstr h + 16 * k) 16))) 121 7 == 0) && claimOk c bs
/-- An empty section. -/
def emptySection (x : Config.Section) : Bool := x.kind == 1 && x.off == 0 && x.size == 0
theorem loader_ok {s : State} {pasid : BitVec 20} {bs : List Byte} {x : Config.Section} (hr : restOk (s.context pasid) bs = true) (hx : emptySection x = true)
    (h1 : imageSections bs = [x]) (h2 : imageRecords bs = []) (h3 : Config.sha256 (bytesAt bs 40 32) = cKeyh (s.context pasid))
    (h4 : Config.slhDsaVerify (bytesAt bs 40 32) (bs.take (bs.length - sigBytes)) (bs.drop (bs.length - sigBytes)) = true) : s.loaderCode pasid bs = 0 := by
  simp only [restOk, Bool.and_eq_true] at hr
  simp only [emptySection, Bool.and_eq_true, beq_iff_eq] at hx
  have hf : imageFormatOk bs = true := by
    simp only [imageFormatOk, Bool.and_eq_true]
    exact ⟨hr.1, by simp [h1, hx.1.1, hx.1.2, hx.2]⟩
  unfold State.loaderCode
  simp only [hf, h2, h3, h4, hr.2]
  simp
theorem load_empty {s : State} {pasid : BitVec 20} {id : BitVec 16} {bs : List Byte} {x : Config.Section} (hx : emptySection x = true) (h1 : imageSections bs = [x])
    (h2 : imageRecords bs = []) :
    s.loadImage pasid id bs = { s with images := s.images ++ [imageOf pasid id bs], tlb := s.tlb.filter (fun e => e.pasid != pasid) } := by
  simp only [emptySection, Bool.and_eq_true, beq_iff_eq] at hx
  unfold State.loadImage
  rw [h1, h2]
  simp [State.loadSection, State.mapPages, State.rawWrite, pagesOf, bytesAt, hx.1.1, hx.2]
/-- The good image registers, where the configuration reads its section table as one empty section and no records, and its key and
signature are those of the context. -/
def readyImage (p : Packet) (f : Got → Bool) : Bool := fld p.d 64 6 == 0 && (p.s.imageFind (ctlPasid p.d) (ctlImage p.d)).isNone && decide (sigBytes + 256 ≤ fld p.d 128 64) &&
  okOr (p.s.cpPlace (ctlPasid p.d) .read (p.d.extractLsb' 64 64) (fld p.d 128 64)) (fun ps => (p.s.readPieces cpUnit ps).poison.isNone && f (p.s.readPieces cpUnit ps))
theorem wit_Register : ∃ (s : State) (p : Packet) (ps : List Piece), Controls s 0 p 0x10 ∧ fld p.d 64 6 = 0 ∧ p.s.imageFind (ctlPasid p.d) (ctlImage p.d) = none ∧
    sigBytes + 256 ≤ fld p.d 128 64 ∧ p.s.cpPlace (ctlPasid p.d) .read (p.d.extractLsb' 64 64) (fld p.d 128 64) = .ok ps ∧ (p.s.readPieces cpUnit ps).poison = none ∧
    (let g := p.s.readPieces cpUnit ps
     ∀ x, emptySection x = true → imageSections g.bytes = [x] → imageRecords g.bytes = [] →
      Config.sha256 (bytesAt g.bytes 40 32) = cKeyh (g.s.context (ctlPasid p.d)) →
      Config.slhDsaVerify (bytesAt g.bytes 40 32) (g.bytes.take (g.bytes.length - sigBytes)) (g.bytes.drop (g.bytes.length - sigBytes)) = true →
      g.s.loaderCode (ctlPasid p.d) g.bytes = 0 ∧ ∃ t, EndsWith p (g.s.loadImage (ctlPasid p.d) (ctlImage p.d) g.bytes) 0 t) := by
  obtain ⟨p, h, h1⟩ := controls_of (show controlsOk (quota (registering 3)) 0x10 (fun p => readyImage p (fun g => restOk (g.s.context (ctlPasid p.d)) g.bytes &&
    endsOk p { g.s with images := g.s.images ++ [imageOf (ctlPasid p.d) (ctlImage p.d) g.bytes], tlb := g.s.tlb.filter (fun e => e.pasid != ctlPasid p.d) } 0)) = true by
    decide +kernel)
  simp only [readyImage, Bool.and_eq_true, beq_iff_eq, decide_eq_true_eq, Option.isNone_iff_eq_none] at h1
  obtain ⟨ps, h2, h3⟩ := okOr_iff h1.2
  simp only [Bool.and_eq_true, Option.isNone_iff_eq_none] at h3
  refine ⟨_, p, ps, h, h1.1.1.1, h1.1.1.2, h1.1.2, h2, h3.1, ?_⟩
  intro g x hx a b c d
  obtain ⟨t, ht⟩ := ends_of h3.2.2
  exact ⟨loader_ok h3.2.1 hx a b c d, t, by rw [load_empty hx a b]; exact ht⟩

theorem wit_Unregister : (∃ (s t : State) (p : Packet), Controls s 0 p 0x11 ∧ p.s.imageFind (ctlPasid p.d) (ctlImage p.d) = none ∧ EndsWith p p.s 0x0B t) ∧
    (∃ (s t : State) (p : Packet), Controls s 0 p 0x11 ∧ (p.s.imageFind (ctlPasid p.d) (ctlImage p.d)).isSome = true ∧
      (∃ b ∈ p.s.bundles, b.pasid = ctlPasid p.d ∧ b.image = ctlImage p.d) ∧ EndsWith p p.s 8 t) ∧
    (∃ (s t : State) (p : Packet), Controls s 0 p 0x11 ∧ (p.s.imageFind (ctlPasid p.d) (ctlImage p.d)).isSome = true ∧
      (∀ b ∈ p.s.bundles, ¬(b.pasid = ctlPasid p.d ∧ b.image = ctlImage p.d)) ∧
      EndsWith p { p.s with images := p.s.images.filter (fun i => !(i.pasid == ctlPasid p.d && i.id == ctlImage p.d)) } 0 t) := by
  refine ⟨?_, ?_, ?_⟩
  · obtain ⟨p, h, h1⟩ := controls_of (show controlsOk (control 0x11 (3 * 2 ^ 200)) 0x11 (fun p => (p.s.imageFind (ctlPasid p.d) (ctlImage p.d)).isNone && endsOk p p.s 0x0B) =
      true by decide +kernel)
    simp only [Bool.and_eq_true, Option.isNone_iff_eq_none] at h1
    obtain ⟨t, ht⟩ := ends_of h1.2
    exact ⟨_, t, p, h, h1.1, ht⟩
  · obtain ⟨p, h, h1⟩ := controls_of (show controlsOk (withBundles (control 0x11 (2 * 2 ^ 200)) [aBundle 1]) 0x11 (fun p => (p.s.imageFind (ctlPasid p.d) (ctlImage p.d)).isSome &&
      p.s.bundles.any (fun b => b.pasid == ctlPasid p.d && b.image == ctlImage p.d) && endsOk p p.s 8) = true by decide +kernel)
    simp only [Bool.and_eq_true, List.any_eq_true, beq_iff_eq] at h1
    obtain ⟨t, ht⟩ := ends_of h1.2
    exact ⟨_, t, p, h, h1.1.1, h1.1.2, ht⟩
  · obtain ⟨p, h, h1⟩ := controls_of (show controlsOk (control 0x11 (2 * 2 ^ 200)) 0x11 (fun p => (p.s.imageFind (ctlPasid p.d) (ctlImage p.d)).isSome &&
      p.s.bundles.isEmpty && endsOk p { p.s with images := p.s.images.filter (fun i => !(i.pasid == ctlPasid p.d && i.id == ctlImage p.d)) } 0) = true by decide +kernel)
    simp only [Bool.and_eq_true, List.isEmpty_iff] at h1
    obtain ⟨t, ht⟩ := ends_of h1.2
    exact ⟨_, t, p, h, h1.1.1, by rw [h1.1.2]; simp, ht⟩

/-- MAPQ of queue 6 of context 1, and a state with that queue, stalled or not. -/
def mapping (more : Nat) (stall : Bool) (there : Bool) : State :=
  let s := control 0x12 (6 * 2 ^ 128 + 4 * 2 ^ 144 + more)
  if there then s.setQcb ((qcbProbe 1 6).headD 0) { st := 1, pasid := 1, qnum := 6, stall := stall } else s
def mapFields (p : Packet) : Bool := fld p.d 64 12 == 0 && decide (4 ≤ fld p.d 144 4) && fld p.d 140 2 != 1
theorem wit_Mapq : (∀ stall : Bool, ∃ (s t : State) (p : Packet) (k : Nat), Controls s 0 p 0x12 ∧ fld p.d 64 12 = 0 ∧ 4 ≤ fld p.d 144 4 ∧ fld p.d 140 2 ≠ 1 ∧
      p.s.qcbOf (ctlPasid p.d) (p.d.extractLsb' 128 12) = some k ∧ (p.s.qcb k).stall = stall ∧
      EndsWith p (if stall then (p.s.setQcb k { p.s.qcb k with stall := false }).wakeQueue k else p.s) (if stall then 0 else 1) t) ∧
    (∃ (s t : State) (p : Packet) (k : Nat), Controls s 0 p 0x12 ∧ fld p.d 64 12 = 0 ∧ 4 ≤ fld p.d 144 4 ∧ fld p.d 140 2 ≠ 1 ∧
      p.s.qcbOf (ctlPasid p.d) (p.d.extractLsb' 128 12) = none ∧ p.s.freeQcb (ctlPasid p.d) (p.d.extractLsb' 128 12) = some k ∧
      EndsWith p (p.s.setQcb k { st := 1, typ := p.d.extractLsb' 140 2, prio := p.d.extractLsb' 142 2, pasid := ctlPasid p.d
                                 qnum := p.d.extractLsb' 128 12, log2n := p.d.extractLsb' 144 4, msiv := p.d.extractLsb' 148 11
                                 ring := p.d.extractLsb' 64 64, ctxd := p.s.ctxdOf (ctlPasid p.d) }) 0 t) := by
  refine ⟨fun stall => ?_, ?_⟩
  · obtain ⟨p, h, h1⟩ := controls_of (show controlsOk (mapping 0 stall true) 0x12 (fun p => mapFields p && (match p.s.qcbOf (ctlPasid p.d) (p.d.extractLsb' 128 12) with
      | some k => (p.s.qcb k).stall == stall && endsOk p (if stall then (p.s.setQcb k { p.s.qcb k with stall := false }).wakeQueue k else p.s) (if stall then 0 else 1)
      | none => false)) = true by cases stall <;> decide +kernel)
    simp only [Bool.and_eq_true, mapFields, beq_iff_eq, bne_iff_ne, decide_eq_true_eq] at h1
    obtain ⟨⟨⟨h2, h3⟩, h4⟩, h1⟩ := h1
    split at h1
    · rename_i k hk
      simp only [Bool.and_eq_true, beq_iff_eq] at h1
      obtain ⟨t, ht⟩ := ends_of h1.2
      exact ⟨_, t, p, k, h, h2, h3, h4, hk, h1.1, ht⟩
    · simp at h1
  · obtain ⟨p, h, h1⟩ := controls_of (show controlsOk (mapping 0 false false) 0x12 (fun p => mapFields p && (p.s.qcbOf (ctlPasid p.d) (p.d.extractLsb' 128 12)).isNone &&
      (match p.s.freeQcb (ctlPasid p.d) (p.d.extractLsb' 128 12) with
      | some k => endsOk p (p.s.setQcb k { st := 1, typ := p.d.extractLsb' 140 2, prio := p.d.extractLsb' 142 2, pasid := ctlPasid p.d
                                           qnum := p.d.extractLsb' 128 12, log2n := p.d.extractLsb' 144 4, msiv := p.d.extractLsb' 148 11
                                           ring := p.d.extractLsb' 64 64, ctxd := p.s.ctxdOf (ctlPasid p.d) }) 0
      | none => false)) = true by decide +kernel)
    simp only [Bool.and_eq_true, mapFields, beq_iff_eq, bne_iff_ne, decide_eq_true_eq, Option.isNone_iff_eq_none] at h1
    obtain ⟨⟨⟨⟨h2, h3⟩, h4⟩, h5⟩, h1⟩ := h1
    split at h1
    · rename_i k hk
      obtain ⟨t, ht⟩ := ends_of h1
      exact ⟨_, t, p, k, h, h2, h3, h4, h5, hk, ht⟩
    · simp at h1
theorem wit_Unmapq : (∃ (s t : State) (p : Packet) (k : Nat), Controls s 0 p 0x13 ∧ p.s.qcbOf (ctlPasid p.d) (p.d.extractLsb' 128 12) = some k ∧ EndsWith p p.s 0 t) ∧
    (∃ (s t : State) (p : Packet), Controls s 0 p 0x13 ∧ p.s.qcbOf (ctlPasid p.d) (p.d.extractLsb' 128 12) = none ∧ EndsWith p p.s 0x0B t) := by
  refine ⟨?_, ?_⟩
  · obtain ⟨p, h, h1⟩ := controls_of (show controlsOk ((control 0x13 (6 * 2 ^ 128)).setQcb ((qcbProbe 1 6).headD 0) { st := 1, pasid := 1, qnum := 6 }) 0x13 (fun p =>
      (p.s.qcbOf (ctlPasid p.d) (p.d.extractLsb' 128 12)).isSome && endsOk p p.s 0) = true by decide +kernel)
    simp only [Bool.and_eq_true] at h1
    obtain ⟨k, hk⟩ := Option.isSome_iff_exists.1 h1.1
    obtain ⟨t, ht⟩ := ends_of h1.2
    exact ⟨_, t, p, k, h, hk, ht⟩
  · obtain ⟨p, h, h1⟩ := controls_of (show controlsOk (control 0x13 (6 * 2 ^ 128)) 0x13 (fun p =>
      (p.s.qcbOf (ctlPasid p.d) (p.d.extractLsb' 128 12)).isNone && endsOk p p.s 0x0B) = true by decide +kernel)
    simp only [Bool.and_eq_true, Option.isNone_iff_eq_none] at h1
    obtain ⟨t, ht⟩ := ends_of h1.2
    exact ⟨_, t, p, h, h1.1, ht⟩
/-- REVOKE of the page at 2 GiB, which is of host memory, and of the data page, which is not. -/
def revoking (va : Nat) : State := control 0x14 (va * 2 ^ 64 + 2 ^ 30 * 2 ^ 128)
def revokeFields (p : Packet) : Bool :=
  let lo := fld p.d 64 64
  let hi := lo + fld p.d 128 64
  lo % 4096 == 0 && hi % 4096 == 0 && decide (lo < hi) && decide (hi ≤ 2 ^ 64) && (p.s.pasidEntry (ctlPasid p.d)).getLsbD 0
def RevokeFields (p : Packet) : Prop :=
  let lo := fld p.d 64 64
  let hi := lo + fld p.d 128 64
  lo % 4096 = 0 ∧ hi % 4096 = 0 ∧ lo < hi ∧ hi ≤ 2 ^ 64 ∧ (p.s.pasidEntry (ctlPasid p.d)).getLsbD 0 = true
theorem revokeFields_iff {p : Packet} (h : revokeFields p = true) : RevokeFields p := by
  simp only [revokeFields, Bool.and_eq_true, beq_iff_eq, decide_eq_true_eq] at h
  exact ⟨h.1.1.1.1, h.1.1.1.2, h.1.1.2, h.1.2, h.2⟩
def leavesOf (p : Packet) : Option (List (Nat × BitVec 64 × Nat)) :=
  let lo := fld p.d 64 64
  let hi := lo + fld p.d 128 64
  p.s.revokeLeaves (ctlPasid p.d) hi ((hi - lo) / 4096 + 1) lo
theorem wit_Revoke_bad : ∃ (s t : State) (p : Packet), Controls s 0 p 0x14 ∧ RevokeFields p ∧ leavesOf p = none ∧ EndsWith p p.s 0x0A t := by
  obtain ⟨p, h, h1⟩ := controls_of (show controlsOk (revoking dataVa.toNat) 0x14 (fun p => revokeFields p && (leavesOf p).isNone && endsOk p p.s 0x0A) = true by decide +kernel)
  simp only [Bool.and_eq_true, Option.isNone_iff_eq_none] at h1
  obtain ⟨t, ht⟩ := ends_of h1.2
  exact ⟨_, t, p, h, revokeFields_iff h1.1.1, h1.1.2, ht⟩
theorem wit_Revoke : ∃ (s t : State) (p : Packet) (ls : List (Nat × BitVec 64 × Nat)), Controls s 0 p 0x14 ∧ RevokeFields p ∧ leavesOf p = some ls ∧
    (∀ x ∈ ls, leafBusy x.2.1 = false) ∧ (∀ x ∈ ls, p.s.settleAll.outsIn (pteSpace x.2.1) (pteFrame x.2.1) (pteSize x.2.1) = false) ∧
    EndsWith p ((ls.foldl (fun t x => t.revokePage (ctlPasid p.d) x) p.s.settleAll).revokeHeld (ctlPasid p.d) (fld p.d 64 64) (fld p.d 64 64 + fld p.d 128 64)) 0 t := by
  obtain ⟨p, h, h1⟩ := controls_of (show controlsOk (revoking 0x80000000) 0x14 (fun p => revokeFields p && (match leavesOf p with
    | some ls => ls.all (fun x => !(leafBusy x.2.1) && !(p.s.settleAll.outsIn (pteSpace x.2.1) (pteFrame x.2.1) (pteSize x.2.1))) &&
      endsOk p ((ls.foldl (fun t x => t.revokePage (ctlPasid p.d) x) p.s.settleAll).revokeHeld (ctlPasid p.d) (fld p.d 64 64) (fld p.d 64 64 + fld p.d 128 64)) 0
    | none => false)) = true by decide +kernel)
  simp only [Bool.and_eq_true] at h1
  obtain ⟨h2, h1⟩ := h1
  split at h1
  · rename_i ls hl
    simp only [Bool.and_eq_true] at h1
    obtain ⟨t, ht⟩ := ends_of h1.2
    have h3 : ∀ x ∈ ls, leafBusy x.2.1 = false ∧ p.s.settleAll.outsIn (pteSpace x.2.1) (pteFrame x.2.1) (pteSize x.2.1) = false :=
      fun x hx => by simpa using List.all_eq_true.1 h1.1 x hx
    exact ⟨_, t, p, ls, h, revokeFields_iff h2, hl, fun x hx => (h3 x hx).1, fun x hx => (h3 x hx).2, ht⟩
  · simp at h1
theorem wit_Kill : (∃ (s t : State) (p : Packet) (b : Bundle), Controls s 0 p 0x15 ∧
      p.s.bundles.find? (fun b => b.pasid == ctlPasid p.d && b.lnch == p.d.extractLsb' 256 64) = some b ∧ EndsWith p (p.s.tearDown b) 0 t) ∧
    (∃ (s t : State) (p : Packet), Controls s 0 p 0x15 ∧
      p.s.bundles.find? (fun b => b.pasid == ctlPasid p.d && b.lnch == p.d.extractLsb' 256 64) = none ∧ EndsWith p p.s 0x0B t) := by
  refine ⟨?_, ?_⟩
  · obtain ⟨p, h, h1⟩ := controls_of (show controlsOk (withBundles (control 0x15 (9 * 2 ^ 256)) [aBundle 9]) 0x15 (fun p =>
      match p.s.bundles.find? (fun b => b.pasid == ctlPasid p.d && b.lnch == p.d.extractLsb' 256 64) with
      | some b => endsOk p (p.s.tearDown b) 0
      | none => false) = true by decide +kernel)
    split at h1
    · rename_i b hb
      obtain ⟨t, ht⟩ := ends_of h1
      exact ⟨_, t, p, b, h, hb, ht⟩
    · simp at h1
  · obtain ⟨p, h, h1⟩ := controls_of (show controlsOk (control 0x15 (9 * 2 ^ 256)) 0x15 (fun p =>
      (p.s.bundles.find? (fun b => b.pasid == ctlPasid p.d && b.lnch == p.d.extractLsb' 256 64)).isNone && endsOk p p.s 0x0B) = true by decide +kernel)
    simp only [Bool.and_eq_true, Option.isNone_iff_eq_none] at h1
    obtain ⟨t, ht⟩ := ends_of h1.2
    exact ⟨_, t, p, h, h1.1, ht⟩

end Sys2Proof.Tests
end

