-- ==== Sys2Proof/Tests/Witness8.lean ====
section
/-! SUPPORT. Witnesses for the statements about bundles, held accesses, moves of pages, and the host's accesses. -/

set_option Elab.async false

namespace Sys2Proof.Tests

open Sys2Proof.Machine Sys2Proof.Claims

/-! ### Bundles -/

/-- A bench with the image, a context that may have strands, and bundles and bind records. -/
def bundled (l : List Bundle) (binds : Tab BindRec) : State := withBundles { quota (withImages (bench.placeIl 0x1000018 8 81920)) with binds := binds, healthy := 15 } l
def rec_ (state : BitVec 2) : BindRec := { valid := true, state := state, pasid := 1, image := 2, lnch := 7, bndl := 7 }
/-- The group with GO set in its last record. -/
def going (s : State) (l : Nat × BindRec) : State := { s with binds := tabPut s.binds l.1 { l.2 with go := true } }
theorem wit_Bind_refused : ∃ (s : State) (l x : Nat × BindRec) (g : List (Nat × BindRec)), s.leaderRuns = true ∧ (s.groupOf 7).getLast? = some l ∧
    byInstance ((going s l).groupOf 7) = x :: g ∧ (x :: g).any (fun y => y.2.go) = true ∧ (∀ b, s.bundle 7 = some b → b.st = .presented) ∧ (going s l).groupOk (x :: g) = false :=
  ⟨{ bench with binds := [(1, rec_ 0)], healthy := 15 }, (1, rec_ 0), (1, { rec_ 0 with go := true }), [], by decide +kernel, by decide +kernel, by decide +kernel, by decide +kernel,
    by intro b hb; simp [State.bundle, show bench.bundles = [] by decide +kernel] at hb, by decide +kernel⟩
theorem wit_Bind : ∃ (s : State) (l x : Nat × BindRec) (g : List (Nat × BindRec)) (b : Bundle), s.leaderRuns = true ∧ (s.groupOf 7).getLast? = some l ∧
    byInstance ((going s l).groupOf 7) = x :: g ∧ (x :: g).any (fun y => y.2.go) = true ∧ s.bundle 7 = some b ∧ b.st = .presented ∧ (going s l).groupOk (x :: g) = true :=
  ⟨bundled [aBundle 7] [(1, rec_ 0)], (1, rec_ 0), (1, { rec_ 0 with go := true }), [], aBundle 7, by decide +kernel, by decide +kernel, by decide +kernel, by decide +kernel,
    by decide +kernel, rfl, by decide +kernel⟩
/-- The same without a bundle: the firmware's own launch. -/
theorem wit_Bind_alone : ∃ (s : State) (l x : Nat × BindRec) (g : List (Nat × BindRec)), s.leaderRuns = true ∧ (s.groupOf 7).getLast? = some l ∧
    byInstance ((going s l).groupOf 7) = x :: g ∧ (x :: g).any (fun y => y.2.go) = true ∧ s.bundle 7 = none ∧ (going s l).groupOk (x :: g) = true :=
  ⟨bundled [] [(1, rec_ 0)], (1, rec_ 0), (1, { rec_ 0 with go := true }), [], by decide +kernel, by decide +kernel, by decide +kernel, by decide +kernel, by decide +kernel,
    by decide +kernel⟩
def boundBundle : Bundle := { aBundle 7 with st := .bound, slots := [1], home := 1 }
def notMoving {α : Type} (x : Except Bad α) : Bool := match x with
  | .error .moving => false
  | _ => true
theorem notMoving_iff {α : Type} {x : Except Bad α} (h : notMoving x = true) : x ≠ .error .moving := by rintro rfl; simp [notMoving] at h
theorem wit_BundleStart : ∃ (s : State) (b : Bundle) (img : Image), s.bundle 7 = some b ∧ b.st = .bound ∧ (∀ j ∈ b.jobs.filter (fun j => j.pro), j.issued = true ∧ j.code = some 1) ∧
    s.jobRoom b (b.jobs.filter (fun j => !j.pro)) = true ∧ s.imageFind b.pasid b.image = some img ∧
    (let s1 := b.slots.foldl (fun t n => t.bindStrand b img n) s
     (∀ n ∈ b.slots, s1.rdPlace n ≠ .error .moving) ∧ s1.jobsHeld b (fun j => !j.pro) = none) :=
  ⟨bundled [boundBundle] [(1, rec_ 1)], boundBundle, smallImage, by decide +kernel, rfl, by simp [boundBundle, aBundle], by decide +kernel, by decide +kernel,
    fun n hn => notMoving_iff (all_of (show boundBundle.slots.all (fun n => notMoving ((boundBundle.slots.foldl (fun t n => t.bindStrand boundBundle smallImage n)
      (bundled [boundBundle] [(1, rec_ 1)])).rdPlace n)) = true by decide +kernel) n hn), by decide +kernel⟩
/-- A bundle with a prologue copy that is to be issued, that runs, that has failed. -/
def prologue (issued : Bool) (code : Option Nat) : Bundle := { boundBundle with jobs := [{ kind := 1, pro := true, qn := 0, descVa := dataVa, issued := issued, code := code }] }
theorem wit_BundleStart_prologue :
    (∃ (s : State) (b : Bundle), s.bundle 7 = some b ∧ b.st = .bound ∧ (∃ j ∈ b.jobs.filter (fun j => j.pro), j.issued = false) ∧
      s.jobRoom b (b.jobs.filter (fun j => j.pro)) = true ∧ s.jobsHeld b (fun j => j.pro) = none) ∧
    (∃ (s : State) (b : Bundle), s.bundle 7 = some b ∧ b.st = .bound ∧ (∃ j ∈ b.jobs.filter (fun j => j.pro), j.issued = false) ∧
      s.jobRoom b (b.jobs.filter (fun j => j.pro)) = false) ∧
    (∃ (s : State) (b : Bundle), s.bundle 7 = some b ∧ b.st = .bound ∧ (∀ j ∈ b.jobs.filter (fun j => j.pro), j.issued = true) ∧
      ∃ j ∈ b.jobs.filter (fun j => j.pro), j.code = none) ∧
    (∃ (s : State) (b : Bundle), s.bundle 7 = some b ∧ b.st = .bound ∧ (∀ j ∈ b.jobs.filter (fun j => j.pro), j.issued = true ∧ j.code ≠ none) ∧
      ∃ j ∈ b.jobs.filter (fun j => j.pro), j.code ≠ some 1) := by
  refine ⟨⟨bundled [prologue false none] [(1, rec_ 1)], prologue false none, by decide +kernel, rfl, ?_, by decide +kernel, by decide +kernel⟩,
    ⟨(bundled [prologue false none] [(1, rec_ 1)]).modCore 0 (fun c => { c with copyq := List.replicate 32 { slot := 0, core := 0, pos := 0, ring := 0, seq := 0, desc := 0 } }),
      prologue false none, by decide +kernel, rfl, ?_, by decide +kernel⟩,
    ⟨bundled [prologue true none] [(1, rec_ 1)], prologue true none, by decide +kernel, rfl, ?_, ?_⟩,
    ⟨bundled [prologue true (some 3)] [(1, rec_ 1)], prologue true (some 3), by decide +kernel, rfl, ?_, ?_⟩⟩ <;> simp [prologue]
/-- A bundle whose one strand has retired; without a queue, or presented by queue 0. -/
def overBundle (q : Option Nat) : Bundle := { aBundle 7 with st := .started, slots := [1], home := 1, qcb := q, packet := dataVa + 32768 }
def overState (q : Option Nat) : State := (bundled [overBundle q] [(1, rec_ 1)]).setStrand 1 { st := .retired, lnch := 7 }
theorem wit_BundleComplete : (∃ (s : State) (b : Bundle), s.bundle 7 = some b ∧ s.bundleOver b = true ∧ b.heldBy = none ∧ b.qcb = none) ∧
    (∃ (s s1 : State) (b : Bundle) (k : Nat), s.bundle 7 = some b ∧ s.bundleOver b = true ∧ b.heldBy = none ∧ b.qcb = some k ∧
      (s.queueHas b k = true → ¬(b.heldUp = true ∧ (s.qcb k).stall = true) ∧ ((s.qcb k).mapped = true → (s.thread (s.qcb k).thread.toNat).held = none)) ∧
      s.announce b.pasid b.packet b.sigva (b.trail s) b.msiv (trailerWord b.ncom b.nexp b.nnc b.nkill b.code) b.code b.skip (s.bundleClock b) = .ok s1) := by
  refine ⟨⟨overState none, overBundle none, by decide +kernel, by decide +kernel, rfl, rfl⟩, ?_⟩
  obtain ⟨s1, h, -⟩ := okOr_iff (show okOr (let s := overState (some 0); let b := overBundle (some 0)
    s.announce b.pasid b.packet b.sigva (b.trail s) b.msiv (trailerWord b.ncom b.nexp b.nnc b.nkill b.code) b.code b.skip (s.bundleClock b)) (fun _ => true) = true by
    decide +kernel)
  exact ⟨overState (some 0), s1, overBundle (some 0), 0, by decide +kernel, by decide +kernel, rfl, rfl, by decide +kernel, h⟩
def runningBundle (st : BundleState) : Bundle := { aBundle 7 with st := st, slots := [1], home := 1 }
theorem wit_Preempt : (∀ st ∈ [BundleState.started, .bound], ∃ (s : State) (b : Bundle), s.leaderRuns = true ∧ s.bundle 7 = some b ∧ b.st = st ∧
      ∃ x ∈ s.binds, x.2.valid = true ∧ x.2.bndl = 7 ∧ x.2.state = 1) ∧
    (∃ (s : State) (b : Bundle), s.bundle 7 = some b ∧ s.bundleReady b = true ∧ (logEntries (s.contribs.filter (s.groupMessage b))).length ≤ 2046) := by
  refine ⟨fun st _ => ⟨bundled [runningBundle st] [(1, rec_ 1)], runningBundle st, by cases st <;> decide +kernel, by cases st <;> decide +kernel, rfl, (1, rec_ 1),
    by simp [bundled, withBundles], rfl, rfl, rfl⟩, ?_⟩
  exact ⟨(bundled [runningBundle .saving] [(1, rec_ 2)]).setStrand 1 { st := .run, lnch := 7, pasid := 1 }, runningBundle .saving, by decide +kernel, by decide +kernel, by decide +kernel⟩
def savedBundle : Bundle := { aBundle 7 with st := .saved, slots := [1], home := 1, saved := [(0, 1, { st := .pre, behind := .run, lnch := 7 })], savedRecs := [rec_ 3] }
theorem wit_Resume_refused : ∃ (s : State) (b : Bundle) (l : Nat × BindRec), s.leaderRuns = true ∧ s.bundle 7 = some b ∧ b.st = .saved ∧ (s.groupOf 7).getLast? = some l ∧
    (let g := (going s l).groupOf b.id
     g.any (fun y => y.2.go) = true ∧ ((going s l).groupOk g = false ∨ coresKept g = false ∨ g.length ≠ b.saved.length)) :=
  ⟨bundled [savedBundle] [(2, rec_ 0), (3, rec_ 0)], savedBundle, (3, rec_ 0), by decide +kernel, by decide +kernel, rfl, by decide +kernel, by decide +kernel, by decide +kernel⟩
theorem wit_Resume : ∃ (s : State) (b : Bundle) (l : Nat × BindRec), s.leaderRuns = true ∧ s.bundle 7 = some b ∧ b.st = .saved ∧ (s.groupOf 7).getLast? = some l ∧
    (let g := (going s l).groupOf b.id
     g.any (fun y => y.2.go) = true ∧ (going s l).groupOk g = true ∧ coresKept g = true ∧ g.length = b.saved.length ∧ (newSlots b g).length = b.saved.length) :=
  ⟨bundled [savedBundle] [(2, rec_ 0)], savedBundle, (2, rec_ 0), by decide +kernel, by decide +kernel, rfl, by decide +kernel, by decide +kernel, by decide +kernel,
    by decide +kernel, by decide +kernel, by decide +kernel⟩
def optOk {α : Type} (x : Option α) (p : α → Bool) : Bool := match x with
  | some a => p a
  | none => false
theorem optOk_iff {α : Type} {x : Option α} {p : α → Bool} (h : optOk x p = true) : ∃ a, x = some a ∧ p a = true := by
  cases x with
  | some a => exact ⟨a, rfl, h⟩
  | none => simp [optOk] at h
/-- A context whose PASID entry is not valid, with a bundle of its own. -/
def led : State := { bench with healthy := 15 }
theorem wit_Policy_gone : ∃ (s : State) (p : BitVec 20), s.leaderRuns = true ∧ s.goneContext = some p := by
  obtain ⟨p, h, -⟩ := optOk_iff (show optOk (withBundles led [{ aBundle 1 with pasid := 3 }]).goneContext (fun _ => true) = true by decide +kernel)
  exact ⟨withBundles led [{ aBundle 1 with pasid := 3 }], p, by decide +kernel, h⟩
theorem wit_Policy_map : ∃ (s : State) (n k : Nat) (q : Qcb) (r : Tab Qcb), s.leaderRuns = true ∧ s.goneContext = none ∧ s.freeThread = some n ∧
    s.qcbs.filter (fun x => x.2.st == 1 && !x.2.mapped) = (k, q) :: r :=
  ⟨led.setQcb 9 { st := 1, pasid := 1, qnum := 6 }, 0, 9, { st := 1, pasid := 1, qnum := 6 }, [], by decide +kernel, by decide +kernel, by decide +kernel, by decide +kernel⟩
theorem wit_Policy_bind : ∃ (s t : State) (b : Bundle) (g : List (Nat × BindRec)) (r : List Bundle), s.leaderRuns = true ∧ s.goneContext = none ∧ s.mapQueue = none ∧
    s.candidates = b :: r ∧ s.victimLeft b = false ∧ s.planFor b = some g ∧ s.bindPlan b g = some t := by
  obtain ⟨g, h1, h2⟩ := optOk_iff (show optOk ((bundled [aBundle 7] []).planFor (aBundle 7)) (fun g => ((bundled [aBundle 7] []).bindPlan (aBundle 7) g).isSome) = true by
    decide +kernel)
  obtain ⟨t, ht⟩ := Option.isSome_iff_exists.1 h2
  have hm : (bundled [aBundle 7] []).mapQueue.isNone = true := by decide +kernel
  exact ⟨bundled [aBundle 7] [], t, aBundle 7, g, [], by decide +kernel, by decide +kernel, Option.isNone_iff_eq_none.1 hm, by decide +kernel, by decide +kernel, h1, ht⟩
/-- A standby writes no bind record and dispatches nothing (R396). -/
theorem wit_Policy_standby : ∃ s : State, s.leaderRuns = false := ⟨{ bench with fwState := 0 }, by decide +kernel⟩

/-! ### Held accesses -/

def heldAccess : Held := { seq := 3, kind := .perm, holder := .access 0 .L, pasid := 1, va := 0 }
def heldEntry : QEntry := { entry (.nop {}) 0 0 0 0 with held := some 3 }
def holding : State := { bench.setStrand 0 { regs [] with lq := [heldEntry], st := .held } with held := [heldAccess] }
theorem wit_Fresp_none : ∀ h ∈ bench.held, h.seq ≠ 3 := by rw [show bench.held = [] by decide +kernel]; simp
theorem wit_Fresp_access : ∃ (s : State) (h : Held) (slot : Nat) (q : Queue) (e : QEntry) (r : List QEntry), s.held.find? (fun x => x.seq == h.seq) = some h ∧
    h.holder = .access slot q ∧ (({ s with held := s.held.filter (fun x => x.seq != h.seq) } : State).strand slot).queue q = e :: r ∧ e.held = some h.seq :=
  ⟨holding, heldAccess, 0, .L, heldEntry, [], by decide +kernel, rfl, by decide +kernel, rfl⟩
def heldCopy : Held := { seq := 3, kind := .perm, holder := .copy 0, pasid := 1, va := 0 }
def heldCmd : Cmd := { slot := 0, core := 0, pos := 0, ring := 0, seq := 0, desc := 1, descVa := 0, held := some 3 }
def holdingCopy : State := ({ bench with held := [heldCopy] } : State).modCore 0 (fun k => { k with copyq := [heldCmd] })
theorem wit_Fresp_copy : ∃ (s : State) (h : Held) (core : Nat) (c : Cmd), s.held.find? (fun x => x.seq == h.seq) = some h ∧ h.holder = .copy core ∧
    s.headCmd (.copy core) = some c ∧ c.held = some h.seq :=
  ⟨holdingCopy, heldCopy, 0, heldCmd, by decide +kernel, rfl, by
    unfold holdingCopy State.headCmd
    dsimp only
    rw [core_modCore (show tabWf ({ bench with held := [heldCopy] } : State).cores = true by decide +kernel)]
    rfl, rfl⟩

/-- A thread of the command processor, and a bundle's completion, that a record holds. -/
theorem wit_Fresp_thread : ∃ (s : State) (h : Held) (n k : Nat), s.held.find? (fun x => x.seq == h.seq) = some h ∧ h.holder = .thread n ∧ (s.thread n).qcb = some k :=
  ⟨({ bench with held := [{ heldCopy with holder := .thread 2 }] } : State).setThread 2 { qcb := some 9 }, { heldCopy with holder := .thread 2 }, 2, 9, by decide +kernel, rfl, by decide +kernel⟩
theorem wit_Fresp_completion : ∃ (s : State) (h : Held) (id : Word), s.held.find? (fun x => x.seq == h.seq) = some h ∧ h.holder = .completion id :=
  ⟨{ bench with held := [{ heldCopy with holder := .completion 7 }] }, { heldCopy with holder := .completion 7 }, 7, by decide +kernel, rfl⟩

/-! ### Moves and flips -/

/-- A page of 4 KiB at 3 GiB, frame 2 MiB of the interleaved window, and a descriptor of operation `op` that names `va`. -/
def pageVa : Nat := 0xC0000000
def pageLeaf (more : Nat) : Nat := 1 + 2 + 4 + 8 + 32 + 2 ^ 21 + more
def mvDesc (op va : Nat) : Nat := op + 2 ^ 8 + va * 2 ^ 64 + 2 * 2 ^ 128 + 0x300 * 2 ^ 140
def movable (more : Nat) (d : Nat) : State :=
  { (((bench.placeIl 0x13018 8 (1 + 0x15000)).placeIl 0x15000 8 (1 + 0x16000)).placeIl 0x16000 8 (pageLeaf more)).placeIl 0x17000 32 d with mqbase := 0x17000, mqtail := 1 }
/-- The state that the engine looks at: for all but "unsettle", once late stores have landed. -/
def engineView (op : Nat) (s : State) : State := if op = 3 then s else s.settleAll
theorem wit_Move_bad : ∀ op ∈ [0, 1, 2, 3], (∃ (s : State) (d : BitVec 256), (engineView op s).mvHead = some d ∧ mvOp d = op ∧ (engineView op s).mvLeaf d = none) ∧
    ∃ (s : State) (d : BitVec 256) (p : BitVec 64) (o : Nat), (engineView op s).mvHead = some d ∧ mvOp d = op ∧ (engineView op s).mvLeaf d = some (p, o) ∧ mvBad d p = true := by
  intro op ho
  have h := all_of (show [0, 1, 2, 3].all (fun op =>
      let s := engineView op (movable 0 (mvDesc op (2 ^ 40)))
      let t := engineView op (movable 0 (mvDesc op pageVa + 2 ^ 30))
      optOk s.mvHead (fun d => mvOp d == op && (s.mvLeaf d).isNone) &&
      optOk t.mvHead (fun d => mvOp d == op && optOk (t.mvLeaf d) (fun x => mvBad d x.1))) = true by
    decide +kernel) op ho
  simp only [Bool.and_eq_true] at h
  obtain ⟨d, h1, h2⟩ := optOk_iff h.1
  obtain ⟨d', h3, h4⟩ := optOk_iff h.2
  simp only [Bool.and_eq_true, beq_iff_eq, Option.isNone_iff_eq_none] at h2 h4
  obtain ⟨⟨p, o⟩, h5, h6⟩ := optOk_iff h4.2
  exact ⟨⟨_, d, h1, h2.1, h2.2⟩, _, d', p, o, h3, h4.1, h5, h6⟩
def afterClean (s : State) (d : BitVec 256) (p : BitVec 64) (o : Nat) : State :=
  ((((s.modLeaf p o (fun x => setFld x 54 1 1)).dropTlb (mvPasid d) (mvVa d) (pteSize p)).cleanRange (pteSpace p) (pteFrame p) (pteSize p)).dropCopies
    (mvPasid d) (mvVa d) (pteSpace p) (pteFrame p) (pteSize p)).recallRange (pteSpace p) (pteFrame p) (pteSize p)
def lineSound (s : State) (p : BitVec 64) (i : Nat) : Bool := (s.readPieces svcUnit (s.framePieces (pteSpace p) (pteFrame p + 64 * i) 64)).poison.isNone
/-- Each operation finds its page, settled or not. -/
theorem wit_Move : ∀ x ∈ [(0, true), (0, false), (1, false), (2, false)], ∃ (s0 s : State) (d : BitVec 256) (p : BitVec 64) (o : Nat), s = s0.settleAll ∧
    s.mvHead = some d ∧ s.mvLeaf d = some (p, o) ∧ mvBad d p = false ∧ leafBusy p = false ∧ mvOp d = x.1 ∧ p.getLsbD 55 = x.2 ∧
    s.histFull (mvPasid d) (d.extractLsb' 64 64) = false ∧ s.outsIn (pteSpace p) (pteFrame p) (pteSize p) = false ∧ s.outsIn .il (pteFrame p) (pteSize p) = false ∧
    ∀ i < pteSize p / 64, ((afterClean s d p o).readPieces svcUnit ((afterClean s d p o).framePieces (pteSpace p) (pteFrame p + 64 * i) 64)).poison = none := by
  intro x hx
  have h := all_of (show [(0, true), (0, false), (1, false), (2, false)].all (fun x =>
      let s := (movable (if x.2 then 2 ^ 55 else 0) (mvDesc x.1 pageVa)).settleAll
      optOk s.mvHead (fun d => optOk (s.mvLeaf d) (fun y => !(mvBad d y.1) && !(leafBusy y.1) && mvOp d == x.1 && y.1.getLsbD 55 == x.2 &&
        !(s.histFull (mvPasid d) (d.extractLsb' 64 64)) && !(s.outsIn (pteSpace y.1) (pteFrame y.1) (pteSize y.1)) && !(s.outsIn .il (pteFrame y.1) (pteSize y.1)) &&
        (let t := afterClean s d y.1 y.2; (List.range (pteSize y.1 / 64)).all (lineSound t y.1))))) = true by
    decide +kernel) x hx
  obtain ⟨d, h1, h⟩ := optOk_iff h
  obtain ⟨⟨p, o⟩, h2, h⟩ := optOk_iff h
  simp only [Bool.and_eq_true, Bool.not_eq_true', beq_iff_eq] at h
  obtain ⟨⟨⟨⟨⟨⟨⟨a, b⟩, c⟩, e⟩, f⟩, g⟩, k⟩, l⟩ := h
  exact ⟨_, _, d, p, o, rfl, h1, h2, a, b, c, e, f, g, k, fun i hi => Option.isNone_iff_eq_none.1 (all_of l i (List.mem_range.2 hi))⟩
/-- "unsettle" of a settled page. -/
theorem wit_Unsettle : ∃ (s : State) (d : BitVec 256) (p : BitVec 64) (o : Nat), s.mvHead = some d ∧ s.mvLeaf d = some (p, o) ∧ mvBad d p = false ∧ leafBusy p = false ∧
    mvOp d = 3 := by
  let s := movable (2 ^ 55) (mvDesc 3 pageVa)
  obtain ⟨d, h1, h⟩ := optOk_iff (show optOk s.mvHead (fun d => optOk (s.mvLeaf d) (fun y => !(mvBad d y.1) && !(leafBusy y.1) && mvOp d == 3)) = true by decide +kernel)
  obtain ⟨⟨p, o⟩, h2, h⟩ := optOk_iff h
  simp only [Bool.and_eq_true, Bool.not_eq_true', beq_iff_eq] at h
  exact ⟨s, d, p, o, h1, h2, h.1.1, h.1.2, h.2⟩
/-- The end of a move within the context's limit, at the limit, and at the limit while the fault queue is full. -/
theorem wit_MoveComplete : ∀ x ∈ [(15, false), (0, false), (0, true)], ∃ (s : State) (m : Moving) (p : BitVec 64) (o : Nat), s.moving = some m ∧ mvOp m.desc = 0 ∧
    s.mvLeaf m.desc = some (p, o) ∧ (if x.1 = 15 then (s.movesOf (mvPasid m.desc) (m.desc.extractLsb' 64 64)).length + 1 < s.lim.toNat else
      s.lim.toNat ≤ (s.movesOf (mvPasid m.desc) (m.desc.extractLsb' 64 64)).length + 1 ∧ s.fqFull = x.2) := by
  intro x hx
  let m : Moving := { desc := BitVec.ofNat 256 (mvDesc 0 pageVa + 2 ^ 192) }
  have h := all_of (show [(15, false), (0, false), (0, true)].all (fun x =>
    let m : Moving := { desc := BitVec.ofNat 256 (mvDesc 0 pageVa + 2 ^ 192) }
    let s : State := { movable (2 ^ 54) 0 with moving := some m, lim := BitVec.ofNat 4 x.1, fqhead := if x.2 then 64 else 0 }
    optOk (s.mvLeaf m.desc) (fun _ => true) && mvOp m.desc == 0 && decide (if x.1 = 15 then (s.movesOf (mvPasid m.desc) (m.desc.extractLsb' 64 64)).length + 1 < s.lim.toNat else
      s.lim.toNat ≤ (s.movesOf (mvPasid m.desc) (m.desc.extractLsb' 64 64)).length + 1 ∧ s.fqFull = x.2)) = true by decide +kernel) x hx
  simp only [Bool.and_eq_true, beq_iff_eq, decide_eq_true_eq] at h
  obtain ⟨⟨p, o⟩, h1, -⟩ := optOk_iff h.1.1
  exact ⟨_, m, p, o, rfl, h.1.2, h1, h.2⟩
/-- A flip under way. -/
theorem wit_Flip : ∀ op ∈ [1, 2], ∃ (s : State) (m : Moving) (p : BitVec 64) (o : Nat), s.moving = some m ∧ mvOp m.desc = op ∧ s.mvLeaf m.desc = some (p, o) ∧
    s.outsIn .il (pteFrame p) (pteSize p) = false := by
  intro op ho
  have h := all_of (show [1, 2].all (fun op =>
    let m : Moving := { desc := BitVec.ofNat 256 (mvDesc op pageVa) }
    let s : State := { movable (2 * 2 ^ 52) 0 with moving := some m }
    mvOp m.desc == op && optOk (s.mvLeaf m.desc) (fun y => !(s.outsIn .il (pteFrame y.1) (pteSize y.1)))) = true by decide +kernel) op ho
  simp only [Bool.and_eq_true, beq_iff_eq] at h
  obtain ⟨⟨p, o⟩, h1, h2⟩ := optOk_iff h.2
  exact ⟨_, _, p, o, rfl, h.1, h1, by simpa using h2⟩
/-- A page under a move. -/
theorem wit_Move_busy : ∀ op ∈ [0, 1, 2], ∃ (s0 s : State) (d : BitVec 256) (p : BitVec 64) (o : Nat), s = s0.settleAll ∧ s.mvHead = some d ∧ s.mvLeaf d = some (p, o) ∧
    mvBad d p = false ∧ leafBusy p = true ∧ mvOp d = op := by
  intro op ho
  have h := all_of (show [0, 1, 2].all (fun op => let s := (movable (2 ^ 54) (mvDesc op pageVa)).settleAll
      optOk s.mvHead (fun d => optOk (s.mvLeaf d) (fun y => !(mvBad d y.1) && leafBusy y.1 && mvOp d == op))) = true by decide +kernel) op ho
  obtain ⟨d, h1, h⟩ := optOk_iff h
  obtain ⟨⟨p, o⟩, h2, h⟩ := optOk_iff h
  simp only [Bool.and_eq_true, Bool.not_eq_true', beq_iff_eq] at h
  exact ⟨_, _, d, p, o, rfl, h1, h2, h.1.1, h.1.2, h.2⟩

/-! ### The host -/

/-- The aperture's slot 0 maps the first 64 GiB of context 1. -/
def apertured (v : Nat) : State := { bench with apslot := [(0, BitVec.ofNat 64 (v + 2))] }
theorem wit_Host : (∀ acc ∈ [Acc.read, .write], ∃ (s : State) (ps : List Piece), s.aperture acc dataVa.toNat 64 = .place ps) ∧
    (∀ acc ∈ [Acc.read, .write], ∃ s : State, s.aperture acc dataVa.toNat 64 = .error) ∧
    (∀ acc ∈ [Acc.read, .write], ∃ (s : State) (kind : FaultKind) (va : Word), s.aperture acc 0x80000000 64 = .held kind va ∧ s.holdFull kind = false) ∧
    (∀ acc ∈ [Acc.read, .write], ∃ s : State, s.aperture acc pageVa 64 = .moving) := by
  refine ⟨fun acc ha => ?_, fun acc ha => ?_, fun acc ha => ?_, fun acc ha => ?_⟩
  · have h := all_of (show [Acc.read, .write].all (fun acc => match (apertured 1).aperture acc dataVa.toNat 64 with
      | .place _ => true
      | _ => false) = true by decide +kernel) acc ha
    split at h
    · rename_i ps hp
      exact ⟨_, ps, hp⟩
    · simp at h
  · have h := all_of (show [Acc.read, .write].all (fun acc => decide ((apertured 0).aperture acc dataVa.toNat 64 = .error)) = true by decide +kernel) acc ha
    exact ⟨_, of_decide_eq_true h⟩
  · have h := all_of (show [Acc.read, .write].all (fun acc => (match (apertured 1).aperture acc 0x80000000 64 with
      | .held kind _ => !((apertured 1).holdFull kind)
      | _ => false)) = true by decide +kernel) acc ha
    split at h
    · rename_i kind va hv
      exact ⟨_, kind, va, hv, by simpa using h⟩
    · simp at h
  · have h := all_of (show [Acc.read, .write].all (fun acc => decide (({ movable (2 ^ 54) 0 with apslot := [(0, 3)] } : State).aperture acc pageVa 64 = .moving)) = true by
      decide +kernel) acc ha
    exact ⟨_, of_decide_eq_true h⟩

end Sys2Proof.Tests
end

