-- ==== Sys2Proof/Tests/Witness9.lean ====
section
/-! SUPPORT. Witnesses for the statements about ports, the league, power, the service core and the device registers. -/

set_option Elab.async false

namespace Sys2Proof.Tests

open Sys2Proof.Machine Sys2Proof.Claims

/-! ### Flits -/

/-- A flit of zeros is under its CRC: SEQ 0, from and for position 0, five slots of class 0. -/
def goodFlit : List Byte := List.replicate 256 0
theorem crc_zeros (n : Nat) : crc64 (List.replicate n 0) = 0 := by
  unfold crc64
  induction n with
  | zero => rfl
  | succ n ih => rw [List.replicate_succ, List.foldl_cons, show crcByte 0 0 = 0 by decide +kernel]; exact ih
theorem leNat_zeros (n : Nat) : leNat (List.replicate n 0) = 0 := by
  induction n with
  | zero => rfl
  | succ n ih => show (0 : Byte).toNat + 256 * leNat (List.replicate n 0) = 0; rw [ih]; rfl
theorem goodFlit_num : flitNum goodFlit = 0 := by unfold flitNum goodFlit; rw [leNat_zeros]; rfl
theorem goodFlit_ok (x : PortState) (hx : x.rxNext = 0) : flitOk x goodFlit = true := by
  unfold flitOk flitCrcOk
  rw [goodFlit_num, hx, show goodFlit.take 248 = List.replicate 248 0 by rw [goodFlit, List.take_replicate]; rfl, crc_zeros]
  decide +kernel
/-- Position `pos` with its east port as given. -/
def linked (pos : BitVec 3) (x : PortState) : State := { bench.setPort .east x with lgPos := pos }
theorem wit_Flits : (∀ pos ∈ [(0 : BitVec 3), 1], ∃ (s : State) (flit : List Byte), flit.length = 256 ∧ (s.port .east).up = true ∧ flitOk (s.port .east) flit = true ∧
      s.lgPos = pos ∧ flDst (flitNum flit) = 0 ∧ ((List.range 5).map (flitSlot flit)).filter (fun b => slotClass b != 3) ≠ []) ∧
    (∃ (s : State) (flit : List Byte), flit.length = 256 ∧ (s.port .east).up = true ∧ flitOk (s.port .east) flit = false) := by
  refine ⟨fun pos _ => ⟨linked pos { up := true }, goodFlit, List.length_replicate, rfl, goodFlit_ok _ rfl, rfl, by rw [goodFlit_num]; decide +kernel, by
    unfold goodFlit; decide +kernel⟩, linked 0 { up := true, rxNext := 1 }, goodFlit, List.length_replicate, rfl, ?_⟩
  unfold flitOk
  rw [goodFlit_num, show (flSeq 0 == ((linked 0 { up := true, rxNext := 1 }).port .east).rxNext) = false by decide +kernel, Bool.and_false]
/-- A port with nothing to send, and one with a slot to send; an acknowledgement, with a NAK and without. -/
def oneSlot : RingSlot := { cls := 3, src := 0, dst := 0, bytes := emptySlot }
theorem wit_Flits_send : (∃ s : State, (s.port .east).out = []) ∧ (∃ (s : State) (h : RingSlot) (r : List RingSlot), (s.port .east).out = h :: r ∧ (s.port .east).up = true ∧
    (s.port .east).replay.length < 1024) ∧ (∀ b : Bool, ∃ d : BitVec 2048, flNak d = b) :=
  ⟨⟨bench, rfl⟩, ⟨linked 0 { up := true, out := [oneSlot] }, oneSlot, [], rfl, rfl, by decide⟩, fun b => ⟨if b then 2 ^ 32 else 0, by cases b <;> decide +kernel⟩⟩

/-! ### Lanes -/

theorem wit_Lanes_errors : (∃ (s : State) (lane : Nat), lane < 18 ∧ (s.port .east).up = true ∧ laneIdle (s.port .east) lane = true ∧ lane < 16) ∧
    (∃ (s : State) (lane : Nat), lane < 18 ∧ (s.port .east).up = true ∧ laneIdle (s.port .east) lane = true ∧ 16 ≤ lane) ∧
    (∀ b : Bool, ∃ (s : State) (lane : Nat), lane < 18 ∧ (s.port .east).up = true ∧ laneIdle (s.port .east) lane = false ∧ (s.port .east).failing.getLsbD lane = b ∧
      (s.port .east).noauto = false) ∧ (∃ (s : State) (count : Nat), 2 ^ (s.port .east).thr.toNat < count) :=
  ⟨⟨linked 0 { up := true, failed := 2, carries := [(0, 1)] }, 1, by decide, rfl, by decide +kernel, by decide⟩,
    ⟨linked 0 { up := true }, 17, by decide, rfl, by decide +kernel, by decide⟩,
    fun b => ⟨linked 0 { up := true, failing := if b then 2 ^ 15 else 0 }, 15, by decide, rfl, by cases b <;> decide +kernel, by cases b <;> decide +kernel, rfl⟩,
    ⟨bench, 2 ^ 12 + 1, by decide +kernel⟩⟩
theorem wit_Lanes : (∃ (s : State) (lane sp : Nat), lane < 18 ∧ (s.port .east).up = true ∧ (s.port .east).failing.getLsbD lane = true ∧ (s.port .east).noauto = false ∧
      freeSpare (s.port .east) = some sp) ∧
    (∃ s : State, (s.port .east).up = true ∧ (s.port .east).pend = true ∧ healthyLanes (s.port .east) ≥ 8 ∧ freeSpare (s.port .east) = none) ∧
    (∃ s : State, (s.port .east).up = true ∧ healthyLanes (s.port .east) < 8) ∧
    (∃ s : State, (s.port .east).up = false ∧ (s.port .east).locked = false ∧ Running s) ∧ (∃ s : State, (s.port .east).locked = true) := by
  exact ⟨⟨linked 0 { up := true, failing := 2 ^ 15 }, 15, 0, by decide, rfl, by decide +kernel, rfl, by decide +kernel⟩,
    ⟨linked 0 { up := true, failing := 4, failed := 3, carries := [(0, 0), (1, 1)], pend := true }, rfl, rfl, by decide +kernel, by decide +kernel⟩,
    ⟨linked 0 { up := true, failing := 0x7FF }, rfl, by decide +kernel⟩, ⟨linked 0 {}, rfl, rfl, .inl rfl⟩, ⟨linked 0 { locked := true }, rfl⟩⟩
/-- FORCE with a free spare, and a THR at each end of its range and outside it. -/
theorem wit_Lanes_force : (∃ (v : Word) (s : State) (sp : Nat), v.getLsbD 6 = true ∧ freeSpare (s.port .east) = some sp ∧ (s.port .east).failed.getLsbD (fld v 7 4) = false ∧
      (s.port .east).up = true) ∧ (∀ n ∈ [3, 4, 24, 25], ∃ v : Word, v.getLsbD 6 = false ∧ fld v 0 5 = n) := by
  refine ⟨⟨64 + 2 ^ 7, linked 0 { up := true }, 0, by decide +kernel, by decide +kernel, by decide +kernel, rfl⟩, fun n hn => ⟨BitVec.ofNat 64 n, ?_⟩⟩
  have h := all_of (show [3, 4, 24, 25].all (fun n => !((BitVec.ofNat 64 n).getLsbD 6) && fld (BitVec.ofNat 64 n) 0 5 == n) = true by decide +kernel) n hn
  simpa using h

/-! ### League and time -/

def memberOf (en : Bool) (pos tm : BitVec 3) : State := { linked pos { up := true } with lgEn := en, lgNm1 := 3, lgTmpos := tm, lgTmen := true }
theorem wit_League : (∀ en : Bool, ∃ s : State, s.lgEn = en) ∧ 
    (∃ (v : Word) (s : State), s.lgEn = false ∧ v.getLsbD 0 = true ∧ s.leagueOk v = false) ∧ (∃ (v : Word) (s : State), s.lgEn = false ∧ v.getLsbD 0 = true ∧ s.leagueOk v = true) ∧
    (∃ s : State, s.isTimeMaster = true ∧ ∀ t, s.timeSentAt = some t → t + 125000 ≤ s.time) ∧
    (∀ tm ∈ [(0 : BitVec 3), 1], ∃ s : State, s.lgEn = true ∧ (s.port .east).up = true ∧ s.isTimeMaster = (tm == 0) ∧ (tm = 1 → s.timePort = .east)) ∧
    (∃ s : State, s.source = .league ∧ s.leagueTime = false) := by
  refine ⟨fun en => ⟨memberOf en 0 0, rfl⟩, ⟨3, bench, rfl, by decide, by decide +kernel⟩, ⟨1, bench, rfl, by decide, by decide +kernel⟩,
    ⟨memberOf true 0 0, by decide +kernel, by rw [show (memberOf true 0 0).timeSentAt = none by decide +kernel]; simp⟩, fun tm ht => ⟨memberOf true 0 tm, rfl, rfl, ?_, ?_⟩, ⟨{ bench with source := .league }, rfl, by decide +kernel⟩⟩
  · simp only [List.mem_cons, List.not_mem_nil, or_false] at ht
    rcases ht with rfl | rfl <;> decide +kernel
  · rintro rfl
    decide +kernel
theorem wit_Time : (∀ b : Bool, ∃ s : State, s.slew.pinned = none ∧ s.timeLocked = b) ∧
    (∀ src ∈ [TimeSource.ptp, .league], ∃ s : State, s.ptpUp = true ∧ s.source = src) ∧ (∃ s : State, s.slew.pinned = none ∧ s.ptpUp = true) ∧
    (∃ s : State, s.slew.pinned = none ∧ s.ptpUp = false ∧ s.leagueTime = false ∧ s.timeLocked = false) ∧ (∃ s : State, s.power ≠ .off ∧ s.ppsSec < s.sec) :=
  ⟨fun b => ⟨{ bench with timeLocked := b }, rfl, rfl⟩, fun src _ => ⟨{ bench with ptpUp := true, source := src }, rfl, rfl⟩, ⟨{ bench with ptpUp := true }, rfl, rfl⟩,
    ⟨bench, rfl, rfl, by decide +kernel, rfl⟩, ⟨{ bench with time := 1000000000 }, by decide +kernel, by decide +kernel⟩⟩
theorem wit_Abort : (∀ en : Bool, ∃ s : State, (2 : BitVec 8).toNat ∈ s.abortDue ∧ (({ s with abortDue := setDel s.abortDue 2 } : State).freeze 2).ringAlive = en) ∧
    (∃ s : State, (0 : BitVec 3) = s.lgPos) ∧ (∃ s : State, (1 : BitVec 3) ≠ s.lgPos) ∧ (∃ s : State, s.lgabtV = true) :=
  ⟨fun en => ⟨{ memberOf en 0 0 with abortDue := [2] }, by simp, by cases en <;> decide +kernel⟩, ⟨bench, rfl⟩, ⟨bench, by decide +kernel⟩, ⟨{ bench with lgabtV := true }, rfl⟩⟩

/-- A pass that comes in: at a member, at its origin from either side, at a device that is no member. -/
theorem wit_Abort_passes : (∃ s : State, s.east.up = true) ∧ (∃ s : State, s.east.up = false ∧ s.west.up = true) ∧
    (∃ (s : State) (mask : BitVec 8) (orig : BitVec 3), s.east.up = true ∧ orig ≠ s.lgPos ∧ mask.getLsbD s.lgPos.toNat = true) ∧
    (∃ (s : State) (mask : BitVec 8) (orig : BitVec 3), s.east.up = true ∧ orig ≠ s.lgPos ∧ mask.getLsbD s.lgPos.toNat = false) ∧
    (∃ (s : State) (orig : BitVec 3), s.east.up = true ∧ orig = s.lgPos ∧ s.west.up = true) ∧ (∃ (s : State) (orig : BitVec 3), s.east.up = true ∧ orig = s.lgPos ∧ s.west.up = false) ∧
    (∃ (s : State) (mask : BitVec 8) (orig : BitVec 3) (k : BitVec 48), s.lgabtV = true ∧ s.lgabtMask = mask ∧ s.lgabtOrig = orig ∧ s.lgabtStep = k) ∧ (∃ s : State, s.lgabtV = false) :=
  ⟨⟨linked 0 { up := true }, rfl⟩, ⟨bench.setPort .west { up := true }, by decide +kernel, rfl⟩, ⟨linked 0 { up := true }, 3, 1, rfl, by decide +kernel, by decide +kernel⟩,
    ⟨linked 0 { up := true }, 2, 1, rfl, by decide +kernel, by decide +kernel⟩, ⟨(linked 0 { up := true }).setPort .west { up := true }, 0, rfl, by decide +kernel, rfl⟩,
    ⟨linked 0 { up := true }, 0, rfl, by decide +kernel, by decide +kernel⟩, ⟨{ bench with lgabtV := true }, _, _, _, rfl, rfl, rfl, rfl⟩, ⟨bench, by decide +kernel⟩⟩

/-! ### Power -/

theorem wit_Power : (∃ s : State, s.power ≠ .off) ∧ (∀ hot : Bool, ∃ s : State, s.power = .on ∧ (hot = true ↔ 105 * 8 ≤ s.tj.toNat ∨ s.plim.toNat < s.pwr.toNat)) ∧
    (∀ cool : Bool, ∃ s : State, s.power = .throttle ∧ s.throttledAt + 10000000 ≤ s.time ∧ (cool = true ↔ s.tj.toNat < 100 * 8 ∧ s.pwr.toNat < s.plim.toNat)) ∧
    (∀ trips : Bool, ∃ s : State, Running s ∧ (trips = true ↔ 115 * 8 ≤ s.tj.toNat ∨ 105 * 8 ≤ s.tmem.toNat)) ∧
    (∀ p ∈ [PowerState.on, .throttle], ∃ s : State, s.power = p ∧ Running s) ∧
    (∀ p ∈ [(2 : BitVec 3), 1], ∃ s : State, s.chg = some p ∧ Running s ∧ s.clockStopped = false ∧ s.vcoreMv ≠ 360 + 40 * p.toNat ∧ (p ≠ s.opt ∨ p = s.opt ∧ s.want = s.opt)) ∧
    (∀ b : Bool, ∃ (s : State) (p : BitVec 3), s.chg = some p ∧ Running s ∧ s.clockStopped = true ∧ (b = true → s.vcoreMv ≠ 360 + 40 * p.toNat) ∧
      (b = false → s.vcoreMv = 360 + 40 * p.toNat ∧ s.want = p)) := by
  refine ⟨⟨bench, by decide +kernel⟩, fun b => ⟨{ bench with tj := if b then 840 else 0 }, rfl, by cases b <;> decide +kernel⟩,
    fun b => ⟨{ bench with power := .throttle, time := 10000000, tj := if b then 0 else 800 }, rfl, by cases b <;> decide +kernel, by cases b <;> decide +kernel⟩,
    fun b => ⟨{ bench with tj := if b then 920 else 0 }, .inl rfl, by cases b <;> decide +kernel⟩, ?_, ?_, ?_⟩
  · intro p hp
    simp only [List.mem_cons, List.not_mem_nil, or_false] at hp
    rcases hp with rfl | rfl
    · exact ⟨bench, rfl, .inl rfl⟩
    · exact ⟨{ bench with power := .throttle }, rfl, .inr rfl⟩
  · intro p hp
    simp only [List.mem_cons, List.not_mem_nil, or_false] at hp
    rcases hp with rfl | rfl
    · exact ⟨{ bench with chg := some 2 }, rfl, .inl rfl, rfl, by decide +kernel, .inl (by decide +kernel)⟩
    · exact ⟨{ bench with chg := some 1, opt := 1, want := 1, vcoreMv := 520 }, rfl, .inl rfl, rfl, by decide +kernel, .inr ⟨rfl, rfl⟩⟩
  · intro b
    cases b
    · exact ⟨{ bench with chg := some 2, clockStopped := true, vcoreMv := 440, want := 2 }, 2, rfl, .inl rfl, rfl, by simp, fun _ => ⟨by decide +kernel, rfl⟩⟩
    · exact ⟨{ bench with chg := some 2, clockStopped := true }, 2, rfl, .inl rfl, rfl, fun _ => by decide +kernel, by simp⟩

/-! ### The service core and the device registers -/

def serviced (pairs : BitVec 4) : State := { bench with healthy := pairs, fwState := 1, time := 1000000000 }
theorem wit_Pairs : (∃ s : State, Running s ∧ s.healthy.getLsbD 3 = true ∧
      (({ s with healthy := s.healthy &&& ~~~(pairBit 3) } : State).postError { cls := 3, ukind := 9, unit := 3, evt := 8 }).healthy ≠ 0) ∧
    (∃ s : State, Running s ∧ s.healthy.getLsbD 3 = true ∧
      (({ s with healthy := s.healthy &&& ~~~(pairBit 3) } : State).postError { cls := 3, ukind := 9, unit := 3, evt := 8 }).healthy = 0) ∧
    (∃ s : State, s.leaderRuns = true ∧ s.hbAt + 1000000 ≤ s.time) ∧
    (∃ (s : State) (p : Nat), Running s ∧ s.fwState = 1 ∧ s.healthy ≠ 0 ∧ s.tkover = false ∧ s.hbAt + s.hbmiss.toNat * 1000000 ≤ s.time ∧ p < 4 ∧ p ≠ s.leader.toNat ∧
      (List.range 4).find? (fun p => s.healthy.getLsbD p && some s.leader.toNat != some p) = some p) ∧
    (∃ s : State, Running s ∧ s.fwState = 1 ∧ s.healthy ≠ 0 ∧ s.tkover = false ∧ s.hbAt + s.hbmiss.toNat * 1000000 ≤ s.time ∧ ∀ p < 4, s.healthy.getLsbD p = true → p = s.leader.toNat) ∧
    (∃ s : State, s.power = .off) ∧
    (∃ s : State, Running s ∧ s.fwState = 1 ∧ s.fwAdvance = true ∧ s.hbcnt ≠ 0 ∧ s.svnf.toNat < s.svni.toNat) ∧
    (∃ s : State, Running s ∧ s.fwState = 2) :=
  ⟨⟨serviced 9, .inl rfl, by decide +kernel, by decide +kernel⟩, ⟨serviced 8, .inl rfl, by decide +kernel, by decide +kernel⟩,
    ⟨serviced 1, by decide +kernel, by decide +kernel⟩, ⟨serviced 9, 3, .inl rfl, rfl, by decide +kernel, by decide +kernel, by decide +kernel, by decide, by decide +kernel, by decide +kernel⟩,
    ⟨serviced 1, .inl rfl, rfl, by decide +kernel, by decide +kernel, by decide +kernel, by decide +kernel⟩, ⟨State.reset, rfl⟩,
    ⟨{ serviced 1 with fwAdvance := true, hbcnt := 1, svni := 1 }, .inl rfl, rfl, rfl, by decide +kernel, by decide +kernel⟩, ⟨{ bench with fwState := 2 }, .inl rfl, rfl⟩⟩
/-- A takeover under way, with a pair to take over and without. -/
theorem wit_Takeover : (∃ (s : State) (p : Nat), s.tkover = true ∧ (List.range 4).find? (fun p => s.healthy.getLsbD p && some s.leader.toNat != some p) = some p) ∧
    (∃ s : State, s.tkover = true ∧ ∀ p < 4, s.healthy.getLsbD p = true → p = s.leader.toNat) :=
  ⟨⟨{ serviced 9 with tkover := true }, 3, rfl, by decide +kernel⟩, ⟨{ serviced 1 with tkover := true }, rfl, by decide +kernel⟩⟩
/-- The verdict on an image is the configuration's: a device whose flash it accepts, or not, is a device that the statements speak of. -/
theorem wit_Firmware (image : List Byte) : (firmwareFail (serviced 1).svnf image = 0 ∨ firmwareFail (serviced 1).svnf image ≠ 0) ∧ Running (serviced 1) :=
  ⟨Decidable.em _, .inl rfl⟩
theorem wit_Registers : ∀ en : Bool, ∃ (pair : BitVec 2) (s : State), pair = s.leader ∧ s.healthy.getLsbD s.leader.toNat = true ∧ s.lgEn = en :=
  fun en => ⟨0, { serviced 1 with lgEn := en }, (by decide +kernel : (0 : BitVec 2) = (serviced 1).leader),
    (by decide +kernel : (serviced 1).healthy.getLsbD (serviced 1).leader.toNat = true), rfl⟩
/-- A write of a standby pair, and one where no register lies. -/
theorem wit_Registers_other : (∃ (pair : BitVec 2) (s : State), ¬(pair = s.leader ∧ s.healthy.getLsbD s.leader.toNat = true)) ∧
    (∃ (off : BitVec 16) (s : State), s.readReg off.toNat = none) ∧ (∃ off : BitVec 16, off.toNat ∈ readOnlyRegs) :=
  ⟨⟨1, serviced 1, by decide +kernel⟩, ⟨0x7000, serviced 1, by decide +kernel⟩, ⟨0x018, by decide +kernel⟩⟩
/-- Each response of FRESP; each field that has a range, at both of its ends and outside it; LGABT's clear, while an abort stands. -/
theorem wit_Registers_values : (∀ n ∈ [0, 1, 2, 3], ∃ v : Word, fld v 32 2 = n) ∧ (∀ n ∈ [0, 1, 2, 4, 12, 13, 15], ∃ v : Word, fld v 0 4 = n) ∧
    (∃ (v : Word) (s : State), v.getLsbD 59 = true ∧ s.lgabtV = true) := by
  refine ⟨fun n hn => ⟨BitVec.ofNat 64 (n * 2 ^ 32), ?_⟩, fun n hn => ⟨BitVec.ofNat 64 n, ?_⟩, BitVec.ofNat 64 (2 ^ 59), { bench with lgabtV := true }, by decide +kernel, rfl⟩
  · simpa using all_of (show [0, 1, 2, 3].all (fun n => fld (BitVec.ofNat 64 (n * 2 ^ 32)) 32 2 == n) = true by decide +kernel) n hn
  · simpa using all_of (show [0, 1, 2, 4, 12, 13, 15].all (fun n => fld (BitVec.ofNat 64 n) 0 4 == n) = true by decide +kernel) n hn
/-- Values for which each write that goes through another event has its next state. -/
theorem wit_Registers_events : ∃ s : State, (∃ t, exec (.frespResolve 0) s = .next t) ∧ (∃ t, exec (.frespDeliver 0) s = .next t) ∧ (∃ t, exec (.lgctlWrite 0) s = .next t) ∧
    (∃ t, exec (.lkctlForce .east 12) s = .next t) ∧ (∃ t, exec (.lkctlForce .west 12) s = .next t) ∧ (∃ t, exec (.pwrctlWrite 9) s = .next t) ∧
    (∃ t, exec .lgabtClear s = .next t) :=
  ⟨serviced 1, ⟨_, rfl⟩, ⟨_, rfl⟩, ⟨_, rfl⟩, ⟨_, rfl⟩, ⟨_, rfl⟩, ⟨_, rfl⟩, ⟨_, rfl⟩⟩

end Sys2Proof.Tests
end

section
/-! SUPPORT. Family 03, registers and operands: an instruction that names s0 as its destination (R54). -/

namespace Sys2Proof.Proofs.ConstantRegisters

open Sys2Proof.Machine Sys2Proof.Claims

/-! ### A result for s0 is discarded -/

/-- A class-X write of s0 reaches no register: what it may add is the mark of a pending result that it has met (R248). -/
theorem writeX_s0 (t : Strand) (cyc fv : Nat) (w : Word) : ∃ c, t.writeX cyc fv (.s 0) w = { t with contested := c } := by
  have hdiscard (u : Strand) : u.writeDst (.s 0) w = u := rfl
  simp only [Strand.writeX, hdiscard, ite_self]
  split
  · exact ⟨_, rfl⟩
  · exact ⟨t.contested, rfl⟩

/-- A strand whose front may decode is bound. -/
theorem frontReady_bound {cyc : Nat} {t : Strand} (h : frontReady cyc t = true) : t.st ≠ .unbound := by
  intro hu
  simp [frontReady, mayIssue, hu] at h

/-- The strand of an instruction that has passed is the same strand, one position further. -/
theorem passed_me {s : State} (h : s.me.st ≠ .unbound) : s.passed.me = s.me.advance :=
  me_setMe s _ (strand_ne_default _ h)

/-- The end of a front instruction with a result for s0 changes its strand in this alone: it is one position further, and a window is
open. -/
theorem frontEnds_s0_me {s : State} (h : s.me.st ≠ .unbound) (f : Fields) (v : Vals) (w : Word) (fl : Flags) :
    ∃ c x, (frontEnds f v s s.passed [(.s 0, w)] fl).me = { s.me.advance with contested := c, flight := s.me.flight ++ [x] } := by
  obtain ⟨c, hw⟩ := writeX_s0 s.me.advance s.passed.cycle (s.passed.fv + 8) w
  simp only [frontEnds, List.isEmpty_cons, Bool.false_and, Bool.false_eq_true, if_false, State.openWindow, List.foldl_cons,
    List.foldl_nil, passed_me h, hw]
  exact ⟨c, _, me_setMe _ _ (strand_ne_default _ h)⟩

/-- R54 for a two-operand integer instruction: it ends, and neither the strand's state, nor the trap that it may already have, nor a
scalar is another than before. -/
theorem runFront_intTwo_s0 {i : Instr} {f : Fields} {fmt : Option Fmt} {r : Nat → Nat → Nat → Nat} {s s1 : State} {v : Vals}
    (hd : f.d = .s 0) (h : FrontRuns i f fmt s s1 v) :
    ∃ t, runFront i f fmt (intTwo f r) s = .next t ∧ t.me.st = s.me.st ∧ t.me.stopping = s.me.stopping ∧
      ∀ n, t.me.getS n = s.me.getS n := by
  obtain ⟨htakes, hvals⟩ := h
  obtain ⟨-, hready, -⟩ := (frontTakes_iff i f s).1 htakes
  have hme : s1.me = s.me := kept_me (frontValues_kept hvals).1
  have hbody : ∃ w, intTwo f r v s1.passed = .done s1.passed [(.s 0, w)] 0 := by
    simp [intTwo, dstVal, hd, Strand.physS]
  obtain ⟨w, hw⟩ := hbody
  have hbound : s1.me.st ≠ .unbound := hme ▸ frontReady_bound hready
  obtain ⟨c, x, ht⟩ := frontEnds_s0_me hbound f v w 0
  refine ⟨_, runFront_done htakes hvals hw, ?_, ?_, fun n => ?_⟩ <;> rw [ht, hme] <;> rfl

/-! ### A strand whose queue S traps in the cycle in which the front decodes -/

/-- ADD.i64 s0, s6, s7. -/
def addToS0 : Fields := { lat := 14, fmt := 6, d := .s 0, a := .s 6, b := .s 7 }

/-- Strand 0 runs, and the command at the head of its queue S has trapped in this very cycle (ENG 4): the trap procedure waits for the
next cycle, as the trap of a lower ENG may still come (R105), and the front has its turn. -/
def queueTrapped : State := (State.reset.withFetchWord 160 0).raiseTrap 0 { code := .alignment, eng := 4 }

/-- The front takes the ADD, and its operands are read. -/
theorem addToS0_runs : ∃ s1 v, FrontRuns (.add addToS0) addToS0 (some .int64) queueTrapped s1 v :=
  ⟨_, _, by decide +kernel, rfl⟩

/-- Refutes O8: what the statement says of the registers is right, but it also says that no trap stops the strand after the instruction.
A strand whose queue S has trapped in the same cycle decodes ADD s0 with that trap recorded, and has it still at the end. -/
theorem not_constantRegisters : ¬ Obligations.ConstantRegisters := by
  unfold Obligations.ConstantRegisters
  rintro ⟨-, -, hTwo, -⟩
  obtain ⟨s1, v, hruns⟩ := addToS0_runs
  obtain ⟨t, ht, -, hnone, -⟩ := hTwo (.add, fun _ a b => a + b) List.mem_cons_self addToS0 queueTrapped s1 v .int64 rfl rfl hruns
  obtain ⟨u, hu, -, hkept, -⟩ := runFront_intTwo_s0 (r := addR) rfl hruns
  have hadd : exec (.add addToS0) queueTrapped = runFront (.add addToS0) addToS0 (some .int64) (intTwo addToS0 addR) queueTrapped := rfl
  obtain rfl : t = u := by simpa [hadd, hu] using ht.symm
  have htrap : queueTrapped.me.stopping.isSome = true := by decide +kernel
  simp [← hkept, hnone] at htrap

end Sys2Proof.Proofs.ConstantRegisters
end

section
/-! SUPPORT. Family 04, encoding: the guards of an instruction (R80, R81). -/

namespace Sys2Proof.Proofs.GuardedInstructions

open Sys2Proof.Machine

/-! ### Guards -/

/-- p7 reads as true, in a window too (R54). -/
theorem readP_seven (t : Strand) (cyc fv : Nat) : t.readP cyc fv 7 = true := rfl

/-- R80: the predicate that bits [2:0] name, against the negate bit [3]. -/
theorem guardHolds_eq_xor (t : Strand) (cyc fv : Nat) (g : BitVec 4) :
    guardHolds t cyc fv g = (t.readP cyc fv (g.extractLsb' 0 3).toNat ^^ g.getLsbD 3) := rfl

/-- A guard on p7 holds exactly where its negate bit is clear. -/
theorem guardHolds_of_p7 (t : Strand) (cyc fv : Nat) {g : BitVec 4} (hidx : guardIdx g = 7) : guardHolds t cyc fv g = !g.getLsbD 3 := by
  simp [guardHolds, hidx, readP_seven]

/-- Both guards must hold (R80). -/
theorem guardsHold_eq_false_iff {t : Strand} {cyc fv : Nat} {f : Fields} :
    guardsHold t cyc fv f = false ↔ guardHolds t cyc (fv + 5) f.g0 = false ∨ guardHolds t cyc (fv + 6) f.g1 = false :=
  Bool.and_eq_false_iff

/-! ### The drop at the front -/

/-- R102: the checks of steps 3 to 5 and a pending predicate (R248) come before the guards, and all else after them. -/
theorem decodeStop_drop {i : Instr} {sp : ISpec} {f : Fields} {s : State} (hfault : decodeFault i sp f s.me = none)
    (hpend : guardsPending s.me f = false) (hguard : guardsHold s.me s.cycle s.fv f = false) : decodeStop i sp f s = some .drop := by
  simp [decodeStop, hfault, hpend, hguard]

theorem runFront_drop {i : Instr} {f : Fields} {fmt : Option Fmt} {body : Vals → State → FRes} {s : State} {sp : ISpec}
    (hsp : ispec i = some sp) (ha : s.acting = .front) (hr : frontReady s.cycle s.me = true)
    (hd : decodeStop i sp f s = some .drop) : runFront i f fmt body s = .next s.passed := by
  simp [runFront, hsp, ha, hr, hd, State.passed]

theorem runQueue_drop {i : Instr} {f : Fields} {ack : Ack} {body : QEntry → State → QRes} {s : State} {sp : ISpec}
    (hsp : ispec i = some sp) (ha : s.acting = .front) (hr : frontReady s.cycle s.me = true)
    (hd : decodeStop i sp f s = some .drop) : runQueue i f ack body s = .next s.passed := by
  simp [runQueue, enterQueue, hsp, ha, hr, hd, State.passed]

/-! ### The matrix queue's instructions, which keep their pushes for the completion (R190) -/

/-- Token bits that a stream allows are allowed without the pushes. -/
theorem tkOk_popsOnly {r : Route} {tk : BitVec 4} (h : tkOk r tk = true) : tkOk r (tk &&& 0b1100#4) = true := by
  revert tk
  cases r <;> decide

/-- The fields above the operands pass without the pushes as well. -/
theorem upperOk_popsOnly {sp : ISpec} {f : Fields} (h : upperOk sp f = true) : upperOk sp (popsOnly f) = true := by
  simp only [upperOk, Bool.and_eq_true] at h ⊢
  obtain ⟨⟨⟨⟨htk, hhint⟩, hscp⟩, hflags⟩, hfmt⟩ := h
  exact ⟨⟨⟨⟨tkOk_popsOnly htk, hhint⟩, hscp⟩, hflags⟩, hfmt⟩

/-- An instruction of sound fields passes steps 3 to 5 of R102 without its pushes too: no other check of them reads TK. -/
theorem decodeFault_popsOnly {i : Instr} {sp : ISpec} {f : Fields} {t : Strand} (h : decodeFault i sp f t = none) :
    decodeFault i sp (popsOnly f) t = none := by
  have hlat : latencyOk i sp (popsOnly f) t.shp = latencyOk i sp f t.shp := rfl
  have hopnd : operandFaultAt i sp (popsOnly f) t = operandFaultAt i sp f t := rfl
  have hupper : upperOk sp f = true := by
    cases hu : upperOk sp f with
    | true => rfl
    | false => simp [decodeFault, hu] at h
  simpa [decodeFault, hlat, hopnd, hupper, upperOk_popsOnly hupper] using h

/-! ### Every instruction of the opcode map begins at the front -/

/-- The three ways in which an instruction with fields has its meaning: it runs at the front, or it goes through a queue, or it goes through
queue C into the matrix queue. -/
inductive BeginsAtFront (i : Instr) (f : Fields) (s : State) : Out → Prop where
  | front (fmt : Option Fmt) (body : Vals → State → FRes) : BeginsAtFront i f s (runFront i f fmt body s)
  | queue (ack : Ack) (body : QEntry → State → QRes) : BeginsAtFront i f s (runQueue i f ack body s)
  | matrixQueue (body : QEntry → State → QRes) : BeginsAtFront i f s (runQueue i (popsOnly f) .none body s)

theorem exec_beginsAtFront {i : Instr} {f : Fields} (hf : instrFields i = some f) (s : State) : BeginsAtFront i f s (exec i s) := by
  cases i with
  | add f | sub f | mul f | mulhu f | mulhs f | divu f | divs f | remu f | rems f | and f | or f | xor f | andn f | shl f | shrl f
  | shra f | rotl f | clz f | ctz f | popc f | bswap f | min f | max f | minu f | maxu f | abs f | sext f | zext f | sel f | mov f
  | movK f | cmp f | lea f | pand f | por f | pxor f | pnot f | sfadd f | sfmul f | sffma f | sfcvt f | sfcmp f | jmp f | br f
  | jidx f | call f | ret f | loop f | nop f | yield f | halt f | csrr f | csrw f | trap f | syscall f | eret f | wfe f | tlbi f
  | vshp f | dlget f | wuset f | dlarm f | uien f | uimask f | uiret f =>
    obtain rfl := Option.some.inj hf
    dsimp only [exec]
    exact .front _ _
  | lds f | sts f | ldq f | stq f | ldb f | lda f | strel f | ldv f | stv f | ldg f | stg f | ldfe f | stff f | feq f | feset f
  | mark f | fence f | fenceMem f | pubx f | radv f | aadd f | amin f | amax f | aminu f | amaxu f | aand f | aor f | axor f | axchg f
  | acas f | afadd f | aincw f | redadd f | redmin f | redmax f | redfadd f | semwait f | sempost f | sracq f | srpub f | srtake f
  | srrel f | barinit f | bararr f | barexp f | barwait f | bartest f | qfence f | qput f | qputNb f | poisonclr f | vadd f | vsub f
  | vmul f | vfma f | vfms f | vnfma f | vdiv f | vsqrt f | vmin f | vmax f | vabs f | vneg f | vcmp f | vsel f | vand f | vor f
  | vxor f | vnot f | vshl f | vshr f | vshra f | vclamp f | vcvt f | vqnt f | vdqnt f | vpack6 f | vunpk6 f | vpack4 f | vunpk4 f
  | vscale f | vredr f | vredc f | vmaxr f | vscan f | vexp f | vexp2 f | vlog2 f | vrcp f | vrsq f | vtanh f | vsigm f | vsin f
  | vcos f | vtrn f | vshuf f | vbcr f | vbcc f | vmov f | viota f | vcmul f | vcfma f | vconj f | vmag2 f | mlev f | mbase f
  | mmode f | mwait f | mstat f | mscale f | cpy f | cpys f | layout f | cpyq f | bgmac f | bgcpy f | bgattn f | kvput f | kvtake f
  | bgfence f | bgbarHold f | bgbarRel f | bgstat f | areduce f | step f | commit f | pval f =>
    obtain rfl := Option.some.inj hf
    dsimp only [exec]
    exact .queue _ _
  | mpre f | mswap f | mgo f | mdrain f | mzero f | maccl f | mspmeta f | mtestNow f | mtestIvl f | mfuse f =>
    obtain rfl := Option.some.inj hf
    dsimp only [exec]
    exact .matrixQueue _
  | _ => exact nomatch hf

/-- R81: an instruction with a guard that fails is dropped at the front, whichever way it would have gone. -/
theorem BeginsAtFront.drop {i : Instr} {f : Fields} {sp : ISpec} {s : State} {o : Out} (h : BeginsAtFront i f s o)
    (hsp : ispec i = some sp) (ha : s.acting = .front) (hr : frontReady s.cycle s.me = true)
    (hfault : decodeFault i sp f s.me = none) (hpend : guardsPending s.me f = false)
    (hguard : guardsHold s.me s.cycle s.fv f = false) : o = .next s.passed := by
  have hd : decodeStop i sp f s = some .drop := decodeStop_drop hfault hpend hguard
  cases h with
  | front fmt body => exact runFront_drop hsp ha hr hd
  | queue ack body => exact runQueue_drop hsp ha hr hd
  | matrixQueue body => exact runQueue_drop hsp ha hr (decodeStop_drop (decodeFault_popsOnly hfault) hpend hguard)

/-- Settles O9: every instruction of the opcode map begins at the front, whose guards stand before its operands and its queue. -/
theorem guardedInstructions : Obligations.GuardedInstructions := by
  unfold Obligations.GuardedInstructions
  refine ⟨guardHolds_eq_xor, fun t cyc fv => ⟨guardHolds_of_p7 t cyc fv rfl, guardHolds_of_p7 t cyc fv rfl⟩, ?_⟩
  intro i f sp s hsp hf ha hr hfault hpend hguards
  exact (exec_beginsAtFront hf s).drop hsp ha hr hfault hpend (guardsHold_eq_false_iff.2 hguards)

end Sys2Proof.Proofs.GuardedInstructions
end

section
/-! SUPPORT. Family encoding: the word of an instruction and the instruction of a word (R63, R78, R99, R102). -/

namespace Sys2Proof.Proofs.DecodingInvertsEncoding

open Sys2Proof.Machine

/-! ### Opcodes and constructors (R99) -/

/-- What an opcode selects, where it selects an instruction, carries the fields `f`, and its row has that opcode. -/
def RowFits (f : Fields) (n : Nat) (o : Option Instr) : Prop :=
  ∀ i, o = some i → instrFields i = some f ∧ ∃ sp, ispec i = some sp ∧ sp.opc = n

theorem rowFits_none {f : Fields} {n : Nat} : RowFits f n none := fun _ h => nomatch h

theorem rowFits_some {f : Fields} {n : Nat} {i : Instr} (h : instrFields i = some f ∧ ∃ sp, ispec i = some sp ∧ sp.opc = n) :
    RowFits f n (some i) := fun _ e => Option.some.inj e ▸ h

/-- The opcodes whose SUB or flags select between two rows. -/
theorem rowFits_variant {f : Fields} {n : Nat} {i j : Instr} {c : Prop} [Decidable c] (hi : RowFits f n (some i))
    (hj : RowFits f n (some j)) : RowFits f n (some (if c then i else j)) := by
  split <;> assumption

theorem rowFits_dite {f : Fields} {n : Nat} {c : Prop} [Decidable c] {t : c → Option Instr} {e : ¬ c → Option Instr}
    (ht : ∀ h, RowFits f n (t h)) (he : ∀ h, RowFits f n (e h)) : RowFits f n (dite c t e) := by
  split
  · exact ht _
  · exact he _

/-- The match on the opcode is a chain of comparisons: each gives a row that fits, and the end of the chain none. -/
theorem ofOpcode_rowFits (f : Fields) (n : Nat) : RowFits f n (ofOpcode n f) := by
  unfold ofOpcode ofOpcode.match_1
  repeat' refine rowFits_dite ?_ ?_ <;> intro h
  all_goals first
    | (subst h; exact rowFits_some ⟨rfl, _, rfl, rfl⟩)
    | (subst h; exact rowFits_variant (rowFits_some ⟨rfl, _, rfl, rfl⟩) (rowFits_some ⟨rfl, _, rfl, rfl⟩))
    | exact rowFits_none

/-- The operand kinds of a row fit the fields that its opcode gives them: a branch offset stands in operand E alone, and there in place of an
immediate (R96). -/
def kindsFit (sp : ISpec) : Bool :=
  !sp.d.contains .off && !sp.a.contains .off && !sp.b.contains .off && !sp.c.contains .off &&
  !sp.e.contains (if branchOpcode sp.opc then .i else .off)

theorem ispec_kindsFit {i : Instr} {sp : ISpec} (h : ispec i = some sp) : kindsFit sp = true := by
  cases i <;> cases h
  case mbase f =>
    dsimp only [kindsFit]
    split <;> rfl
  case vscale f =>
    dsimp only [kindsFit]
    split <;> rfl
  case tlbi f =>
    dsimp only [kindsFit]
    (repeat' split) <;> rfl
  case mdrain f =>
    dsimp only [kindsFit]
    split <;> rfl
  case maccl f =>
    dsimp only [kindsFit]
    split <;> rfl
  all_goals rfl

/-! ### Fields of a word (R78) -/

/-- The last part of a word stands in its low bits. -/
theorem extract_last {v w : Nat} {hi : BitVec v} {lo : BitVec w} : (hi ++ lo).extractLsb' 0 w = lo :=
  (BitVec.extractLsb'_append_eq_of_add_le (by omega)).trans BitVec.extractLsb'_eq_self

/-- Bits above the last part stand in the parts before it. -/
theorem extract_above {v w start len : Nat} {hi : BitVec v} {lo : BitVec w} {r : BitVec len} (hle : w ≤ start)
    (h : hi.extractLsb' (start - w) len = r) : (hi ++ lo).extractLsb' start len = r :=
  (BitVec.extractLsb'_append_eq_of_le hle).trans h

/-- Two fields of a word that meet are one. -/
theorem fields_meet {n start a b : Nat} {w : BitVec n} {hi : BitVec a} {lo : BitVec b} (hhi : hi = w.extractLsb' (start + b) a)
    (hlo : lo = w.extractLsb' start b) : hi ++ lo = w.extractLsb' start (a + b) :=
  hhi ▸ hlo ▸ BitVec.extractLsb'_append_extractLsb'_eq_extractLsb' rfl

/-! ### Operands (R63, R96) -/

/-- An operand that a field can hold: a branch offset in the E of a branch, an immediate elsewhere. -/
def fieldHolds (branch : Bool) (o : Operand) : Prop := kindOf o ≠ if branch then .i else .off

theorem decodeOperand_encoded {branch : Bool} {o : Operand} (h : fieldHolds branch o) :
    decodeOperand branch (operandKind o) (operandBits o) = o := by
  cases o with
  | none => rfl
  | s n => exact congrArg Operand.s extract_last
  | v n => exact congrArg Operand.v extract_last
  | p n =>
    have hclass : (operandBits (.p n)).getLsbD 4 = false := (BitVec.getLsbD_append).trans (by simp)
    exact (if_neg (ne_true_of_eq_false hclass)).trans (congrArg Operand.p extract_last)
  | m n =>
    have hclass : (operandBits (.m n)).getLsbD 4 = true := (BitVec.getLsbD_append).trans rfl
    exact (if_pos hclass).trans (congrArg Operand.m extract_last)
  | k w o => exact congr (congrArg Operand.k (extract_above (by decide) BitVec.extractLsb'_eq_self)) extract_last
  | i v =>
    cases branch with
    | false => exact congrArg Operand.i extract_last
    | true => exact absurd rfl h
  | h n => exact congrArg Operand.h extract_last
  | y n => exact congrArg Operand.y extract_last
  | off o =>
    cases branch with
    | false => exact absurd rfl h
    | true => rfl

/-- The kind selector of a decoded operand is the one that it was decoded under. -/
theorem operandKind_decoded : ∀ (branch : Bool) (kind : BitVec 3) (x : BitVec 20), operandKind (decodeOperand branch kind x) = kind
  | _, 0, _ | _, 1, _ | _, 2, _ | _, 4, _ | true, 5, _ | false, 5, _ | _, 6, _ | _, 7, _ => rfl
  | _, 3, x => by
    change operandKind (if x.getLsbD 4 then .m (x.extractLsb' 0 4) else .p (x.extractLsb' 0 3)) = 3
    split <;> rfl

/-- The fields that need no decoding stand in an encoded word where R78 puts them. -/
theorem encodeFields_plain (opc : BitVec 10) (f : Fields) :
    wordOpc (encodeFields opc f) = opc ∧ (encodeFields opc f).extractLsb' 146 4 = f.g0 ∧ (encodeFields opc f).extractLsb' 142 4 = f.g1 ∧
    (encodeFields opc f).extractLsb' 138 4 = f.tk ∧ (encodeFields opc f).extractLsb' 134 4 = f.lat ∧
    (encodeFields opc f).extractLsb' 131 3 = f.hint ∧ (encodeFields opc f).extractLsb' 128 3 = f.scp ∧
    (encodeFields opc f).extractLsb' 125 3 = f.flags ∧ (encodeFields opc f).extractLsb' 120 5 = f.fmt ∧
    (encodeFields opc f).extractLsb' 15 5 = f.sub := by
  refine ⟨?_, ?_, ?_, ?_, ?_, ?_, ?_, ?_, ?_, ?_⟩
  all_goals repeat refine extract_above (by decide) ?_
  all_goals first
    | exact extract_last
    | exact BitVec.extractLsb'_eq_self

/-- So do the operand fields with their kind selectors. -/
theorem encodeFields_operands (opc : BitVec 10) (f : Fields) :
    (wordD (encodeFields opc f) = operandBits f.d ∧ kindD (encodeFields opc f) = operandKind f.d) ∧
    (wordA (encodeFields opc f) = operandBits f.a ∧ kindA (encodeFields opc f) = operandKind f.a) ∧
    (wordB (encodeFields opc f) = operandBits f.b ∧ kindB (encodeFields opc f) = operandKind f.b) ∧
    (wordC (encodeFields opc f) = operandBits f.c ∧ kindC (encodeFields opc f) = operandKind f.c) ∧
    (wordE (encodeFields opc f) = operandBits f.e ∧ kindE (encodeFields opc f) = operandKind f.e) := by
  refine ⟨⟨?_, ?_⟩, ⟨?_, ?_⟩, ⟨?_, ?_⟩, ⟨?_, ?_⟩, ?_, ?_⟩
  all_goals repeat refine extract_above (by decide) ?_
  all_goals exact extract_last

theorem wordFields_encodeFields {opc : BitVec 10} {f : Fields} (hd : fieldHolds false f.d) (ha : fieldHolds false f.a)
    (hb : fieldHolds false f.b) (hc : fieldHolds false f.c) (he : fieldHolds (branchOpcode opc.toNat) f.e) :
    wordFields (encodeFields opc f) = f := by
  obtain ⟨hopc, hg0, hg1, htk, hlat, hhint, hscp, hflags, hfmt, hsub⟩ := encodeFields_plain opc f
  obtain ⟨⟨hwd, hkd⟩, ⟨hwa, hka⟩, ⟨hwb, hkb⟩, ⟨hwc, hkc⟩, hwe, hke⟩ := encodeFields_operands opc f
  simp only [wordFields, hopc, hg0, hg1, htk, hlat, hhint, hscp, hflags, hfmt, hsub, hwd, hkd, hwa, hka, hwb, hkb, hwc, hkc, hwe, hke,
    decodeOperand_encoded hd, decodeOperand_encoded ha, decodeOperand_encoded hb, decodeOperand_encoded hc, decodeOperand_encoded he]

/-- The reserved bits of an operand that was encoded are zero. -/
theorem reservedOk_encoded {branch : Bool} {o : Operand} (h : fieldHolds branch o) :
    reservedOk branch (operandKind o) (operandBits o) = true := by
  simp [reservedOk, decodeOperand_encoded h]

theorem reservedFault_encodeFields {opc : BitVec 10} {f : Fields} (hd : fieldHolds false f.d) (ha : fieldHolds false f.a)
    (hb : fieldHolds false f.b) (hc : fieldHolds false f.c) (he : fieldHolds (branchOpcode opc.toNat) f.e) :
    reservedFault (encodeFields opc f) = 0 := by
  obtain ⟨hopc, -⟩ := encodeFields_plain opc f
  obtain ⟨⟨hwd, hkd⟩, ⟨hwa, hka⟩, ⟨hwb, hkb⟩, ⟨hwc, hkc⟩, hwe, hke⟩ := encodeFields_operands opc f
  simp [reservedFault, hopc, hwd, hkd, hwa, hka, hwb, hkb, hwc, hkc, hwe, hke, reservedOk_encoded hd, reservedOk_encoded ha,
    reservedOk_encoded hb, reservedOk_encoded hc, reservedOk_encoded he]

/-- A chain of checks that ends in 0 where each check passes. -/
theorem ite_then_eq_zero {p : Prop} [Decidable p] {n m : Nat} (hm : m ≠ 0) : (if p then n else m) = 0 ↔ p ∧ n = 0 := by
  split
  · next h => exact ⟨fun hn => ⟨h, hn⟩, And.right⟩
  · next h => exact ⟨fun hn => absurd hn hm, fun hp => absurd hp.1 h⟩
theorem ite_else_eq_zero {p : Prop} [Decidable p] {n m : Nat} (hm : m ≠ 0) : (if p then m else n) = 0 ↔ ¬ p ∧ n = 0 := by
  split
  · next h => exact ⟨fun hn => absurd hn hm, fun hp => absurd h hp.1⟩
  · next h => exact ⟨fun hn => ⟨h, hn⟩, And.right⟩

/-- A word without a reserved bit is the word of its opcode and fields. -/
theorem encodeFields_wordFields {w : IWord} (h : reservedFault w = 0) : encodeFields (wordOpc w) (wordFields w) = w := by
  have hbits : operandBits (decodeOperand false (kindD w) (wordD w)) = wordD w ∧ operandBits (decodeOperand false (kindA w) (wordA w)) = wordA w ∧
      operandBits (decodeOperand false (kindB w) (wordB w)) = wordB w ∧ operandBits (decodeOperand false (kindC w) (wordC w)) = wordC w ∧
      operandBits (decodeOperand (branchOpcode (wordOpc w).toNat) (kindE w) (wordE w)) = wordE w := by
    simpa [reservedFault, reservedOk, ite_then_eq_zero] using h
  obtain ⟨hd, ha, hb, hc, he⟩ := hbits
  simp only [encodeFields, wordFields, operandKind_decoded, hd, ha, hb, hc, he]
  refine Eq.trans ?_ (BitVec.extractLsb'_eq_self (x := w))
  repeat refine fields_meet ?_ rfl
  rfl

/-! ### Words and instructions -/

/-- An operand among the kinds of its field is one that the field holds. -/
theorem operandOk_holds {ks : List Kind} {o : Operand} {branch : Bool} (h : operandOk ks o = true)
    (hk : ks.contains (if branch then Kind.i else Kind.off) = false) : fieldHolds branch o := by
  intro hkind
  have hin : ks.contains (kindOf o) = true := (Bool.and_eq_true_iff.1 h).1
  rw [hkind, hk] at hin
  cases hin

theorem operandFault_eq_zero {i : Instr} {sp : ISpec} {f : Fields} (h : operandFault i sp f = 0) :
    operandOk sp.d f.d = true ∧ operandOk sp.a f.a = true ∧ operandOk sp.b f.b = true ∧ operandOk sp.c f.c = true ∧
    operandOk sp.e f.e = true := by
  unfold operandFault at h
  obtain ⟨hd, h⟩ := (ite_else_eq_zero (by decide)).1 h
  obtain ⟨ha, h⟩ := (ite_else_eq_zero (by decide)).1 h
  obtain ⟨hb, h⟩ := (ite_else_eq_zero (by decide)).1 h
  obtain ⟨hc, h⟩ := (ite_else_eq_zero (by decide)).1 h
  obtain ⟨he, -⟩ := (ite_else_eq_zero (by decide)).1 h
  simp only [Bool.not_eq_true', Bool.and_eq_false_iff, not_or, Bool.not_eq_false] at hd ha hb hc he
  exact ⟨hd.1, ha, hb, hc.1, he⟩

theorem staticFault_none {i : Instr} {sp : ISpec} {f : Fields} (h : staticFault i sp f = none) :
    upperOk sp f = true ∧ sp.subOk = true ∧ operandFault i sp f = 0 := by
  unfold staticFault at h
  split at h
  · cases h
  next hup =>
    split at h
    · cases h
    · split at h
      next hop => exact ⟨by simp_all, by simp_all, hop⟩
      · cases h

/-- Exactly the instructions of the opcode map have fields, and their opcodes have ten bits (R78, R99). -/
theorem statement_all (i : Instr) : Laws.Encoding.Statement i := by
  cases i <;> rfl

theorem instrFields_of_ispec {i : Instr} {sp : ISpec} (h : ispec i = some sp) : ∃ f, instrFields i = some f ∧ sp.opc < 1024 := by
  have hi := statement_all i
  cases hf : instrFields i with
  | none => simp [Laws.Encoding.Statement, h, hf] at hi
  | some f =>
    simp [Laws.Encoding.Statement, h, hf] at hi
    exact ⟨f, rfl, hi.2⟩

theorem encode_eq {i : Instr} {sp : ISpec} {f : Fields} (hsp : ispec i = some sp) (hf : instrFields i = some f) :
    encode i = encodeFields (BitVec.ofNat 10 sp.opc) f := by
  simp [encode, hsp, hf]

/-- What a word decodes to: what its opcode selects, where the word has no fault (R102 steps 2 and 3). -/
theorem decodeWord_eq_ok_iff {w : IWord} {i : Instr} : decodeWord w = .ok i ↔
    ofOpcode (wordOpc w).toNat (wordFields w) = some i ∧
      ∃ sp, ispec i = some sp ∧ upperOk sp (wordFields w) = true ∧ reservedFault w = 0 ∧ sp.subOk = true := by
  simp only [decodeWord]
  cases hop : ofOpcode (wordOpc w).toNat (wordFields w) with
  | none => simp
  | some j =>
    obtain ⟨-, sp, hsp, -⟩ := ofOpcode_rowFits _ _ j hop
    simp only [hsp, Option.some.injEq]
    constructor
    · intro h
      cases hup : upperOk sp (wordFields w) with
      | false => simp [hup] at h
      | true =>
        simp only [hup, Bool.not_true, Bool.false_eq_true, if_false] at h
        split at h
        next hres =>
          split at h
          next hsub => cases h; exact ⟨rfl, sp, hsp, hup, hres, hsub⟩
          · cases h
        · cases h
    · rintro ⟨rfl, sp', hsp', hup, hres, hsub⟩
      obtain rfl : sp = sp' := Option.some.inj (hsp.symm.trans hsp')
      simp [hup, hres, hsub]

/-- The word of a well-formed instruction decodes to it. -/
theorem decodeWord_encode {i : Instr} (hword : i.isWord = true) (hwf : i.wellFormed = true) : decodeWord (encode i) = .ok i := by
  obtain ⟨sp, hsp⟩ := Option.isSome_iff_exists.1 hword
  obtain ⟨f, hf, hopc⟩ := instrFields_of_ispec hsp
  have hchecks : staticFault i sp f = none ∧ ofOpcode sp.opc f = some i := by simpa [Instr.wellFormed, hsp, hf] using hwf
  obtain ⟨hstatic, hof⟩ := hchecks
  obtain ⟨hup, hsub, hop⟩ := staticFault_none hstatic
  obtain ⟨hd, ha, hb, hc, he⟩ := operandFault_eq_zero hop
  have hkinds := ispec_kindsFit hsp
  simp only [kindsFit, Bool.and_eq_true, Bool.not_eq_true'] at hkinds
  obtain ⟨⟨⟨⟨hkd, hka⟩, hkb⟩, hkc⟩, hke⟩ := hkinds
  have hn : (BitVec.ofNat 10 sp.opc).toNat = sp.opc := by simp [Nat.mod_eq_of_lt hopc]
  have hd' : fieldHolds false f.d := operandOk_holds hd hkd
  have ha' : fieldHolds false f.a := operandOk_holds ha hka
  have hb' : fieldHolds false f.b := operandOk_holds hb hkb
  have hc' : fieldHolds false f.c := operandOk_holds hc hkc
  have he' : fieldHolds (branchOpcode (BitVec.ofNat 10 sp.opc).toNat) f.e := operandOk_holds he (hn.symm ▸ hke)
  rw [encode_eq hsp hf, decodeWord_eq_ok_iff, (encodeFields_plain _ f).1, wordFields_encodeFields hd' ha' hb' hc' he', hn]
  exact ⟨hof, sp, hsp, hup, reservedFault_encodeFields hd' ha' hb' hc' he', hsub⟩

/-- A word that decodes is the word of what it decodes to. -/
theorem encode_of_decodeWord {w : IWord} {i : Instr} (h : decodeWord w = .ok i) : i.isWord = true ∧ encode i = w := by
  obtain ⟨hop, -, -, -, hres, -⟩ := decodeWord_eq_ok_iff.1 h
  obtain ⟨hf, sp, hsp, hopc⟩ := ofOpcode_rowFits _ _ i hop
  refine ⟨by simp [Instr.isWord, hsp], ?_⟩
  rw [encode_eq hsp hf, hopc, BitVec.ofNat_toNat, BitVec.setWidth_eq, encodeFields_wordFields hres]

/-- Settles O2: an encoded field is read back, and a word without reserved bits is put together again from what is read. -/
theorem decodingInvertsEncoding : Obligations.DecodingInvertsEncoding := by
  unfold Obligations.DecodingInvertsEncoding
  exact ⟨fun i hword hwf => decodeWord_encode hword hwf, fun w i h => encode_of_decodeWord h⟩

end Sys2Proof.Proofs.DecodingInvertsEncoding
end

section
/-! SUPPORT. Family power: what leaves OFF and TRIP, and what stays as it is in them (R402). -/

namespace Sys2Proof.Proofs.PowerStates

open Sys2Proof.Machine Sys2Proof.Claims

/-! ### What the boot and the end of TRIP do -/

/-- The power state and the latched instruction, which no write to memory changes. -/
def supply (s : State) : PowerState × Option Instr := (s.power, s.latched)

theorem foldl_supply {α : Type} (l : List α) (g : State → α → State) (h : ∀ t x, supply (g t x) = supply t) (s : State) :
    supply (l.foldl g s) = supply s := by
  induction l generalizing s with
  | nil => rfl
  | cons a r ih => rw [List.foldl_cons, ih, h]

theorem putByte_supply (s : State) (sp : MemSpace) (o : Nat) (b : Byte) : supply (s.putByte sp o b) = supply s := by
  cases sp with
  | il => rfl
  | bl => simp only [State.putByte, State.writeBackDev]; split <;> rfl
  | host => rfl
  | pool => rfl

theorem markUnit_supply (s : State) (sp : MemSpace) (b : Bool) (u : Nat) : supply (s.markUnit sp b u) = supply s := by
  cases sp with
  | il => simp only [State.markUnit]; split <;> rfl
  | bl => rfl
  | host => rfl
  | pool => rfl

theorem cleanUnit_supply (s : State) (sp : MemSpace) (u : Nat) : supply (s.cleanUnit sp u) = supply s := by
  cases sp with
  | bl => rfl
  | il | host | pool => exact markUnit_supply _ _ _ _

theorem touchCode_supply (s : State) (p : Party) (sp : MemSpace) (o n : Nat) : supply (s.touchCode p sp o n) = supply s := by
  unfold State.touchCode; split <;> rfl

theorem storeMem_supply (s : State) (p : Party) (w : Bool) (sp : MemSpace) (o : Nat) (bs : List Byte) :
    supply (s.storeMem p w sp o bs) = supply s := by
  have hbytes : supply (((s.putBytes sp o bs).touchCode p sp o bs.length).endSequences p sp o bs.length) = supply s :=
    (touchCode_supply _ _ _ _ _).trans (foldl_supply _ _ (fun t _ => putByte_supply t _ _ _) s)
  unfold State.storeMem; dsimp only; split
  · exact (foldl_supply _ _ (fun t _ => cleanUnit_supply t _ _) _).trans hbytes
  · exact hbytes

theorem storeIl_supply (s : State) (p : Party) (w : Bool) (o : Nat) (bs : List Byte) : supply (s.storeIl p w o bs) = supply s := by
  unfold State.storeIl; split
  · exact storeMem_supply _ _ _ _ _ _
  next pos a _ =>
    obtain ⟨r, e, w, o, h⟩ := tellWindow_sends s pos a bs
    rw [h]; rfl

theorem postError_supply (s : State) (i : ErrInfo) : supply (s.postError i) = supply s := by
  have hsignal : supply (s.signalError i.cls) = supply s := by unfold State.signalError; split <;> rfl
  unfold State.postError; split
  · exact hsignal
  · exact (storeIl_supply _ _ _ _ _).trans hsignal

/-- The boot leads into ON, with a firmware or into recovery (R399). -/
theorem boot_supply (s : State) : supply s.boot = (.on, s.latched) := by
  unfold State.boot; dsimp only; split
  · rfl
  · exact postError_supply _ _

/-! ### Actions in OFF and in TRIP -/

/-- In OFF the next action is one of the agenda or the boot. -/
theorem nextAction_off {s : State} (h : s.power = .off) : ∃ i, s.nextAction = .event i := by
  unfold State.nextAction
  cases s.agenda with
  | cons i r => exact ⟨i, rfl⟩
  | nil => exact ⟨.resetNRelease, by simp [State.due, h]⟩

/-- In TRIP the next action is one of the agenda or the end of a cycle. -/
theorem nextAction_trip {s : State} (h : s.power = .trip) : (∃ i, s.nextAction = .event i) ∨ s.nextAction = .tick := by
  unfold State.nextAction
  cases s.agenda with
  | cons i r => exact .inl ⟨i, rfl⟩
  | nil =>
    right
    simp [State.due, State.choices, State.up, State.frontAction, State.cycleEnd, State.clocked, State.running, h]

/-- An event that the power state shuts out only leaves the agenda. -/
theorem act_event_shut {s : State} {i : Instr} (h : s.allows i = false) : act s (.event i) = .next s.dropAgenda := by
  simp [act, h]

theorem act_event_allowed {s t : State} {i : Instr} (hw : i.isWord = false) (h : s.allows i = true)
    (hexec : exec i s.dropAgenda = .next t) : act s (.event i) = runLatched t := by
  simp [act, h, hw, hexec]

theorem runLatched_none {s : State} (h : s.latched = none) : runLatched s = .next s := by
  simp [runLatched, h]

/-- In OFF only the boot happens. -/
theorem act_off {s : State} {i : Instr} (h : s.power = .off) (hl : s.latched = none) :
    act s (.event i) = .next s.dropAgenda ∨ act s (.event i) = .next s.dropAgenda.boot := by
  cases ha : s.allows i with
  | false => exact .inl (act_event_shut ha)
  | true =>
    right
    obtain rfl : i = .resetNRelease := by
      unfold State.allows at ha
      rw [h] at ha
      split at ha
      · split at ha
        · rfl
        · cases ha
      all_goals simp_all
    have hboot : exec .resetNRelease s.dropAgenda = .next s.dropAgenda.boot := by
      have hd : s.dropAgenda.power = .off := h
      simp [exec, execResetNRelease, whenSome, hd]
    have hlatched : s.dropAgenda.boot.latched = none := (congrArg Prod.snd (boot_supply s.dropAgenda)).trans hl
    exact (act_event_allowed rfl ha hboot).trans (runLatched_none hlatched)

/-- In TRIP only POWER_OFF happens. -/
theorem act_trip {s : State} {i : Instr} (h : s.power = .trip) :
    act s (.event i) = .next s.dropAgenda ∨ act s (.event i) = .next s.dropAgenda.turnOff := by
  cases ha : s.allows i with
  | false => exact .inl (act_event_shut ha)
  | true =>
    right
    obtain rfl : i = .powerOff := by
      unfold State.allows at ha
      rw [h] at ha
      split at ha
      · simp_all
      · split at ha
        · rfl
        · cases ha
      · simp_all
    have hoff : exec .powerOff s.dropAgenda = .next s.dropAgenda.turnOff := by
      have hd : s.dropAgenda.power = .trip := h
      simp [exec, execPowerOff, whenSome, hd]
    exact (act_event_allowed rfl ha hoff).trans (runLatched_none rfl)

/-- What a step that stays in OFF or TRIP leaves as it is: all but the agenda, the clocks and the free values. -/
def Still (s t : State) : Prop :=
  t.power = s.power ∧ t.strands = s.strands ∧ t.cores = s.cores ∧ t.quads = s.quads ∧ t.bundles = s.bundles ∧ t.fqhead = s.fqhead ∧
  t.mehead = s.mehead ∧ t.hevhead = s.hevhead ∧ SameMemory s t

theorem still_dropAgenda (s : State) (a : Action) : Still s (s.dropAgenda.after a) :=
  ⟨rfl, rfl, rfl, rfl, rfl, rfl, rfl, rfl, fun sp _ => by cases sp <;> rfl, rfl, rfl, rfl, rfl, rfl⟩

theorem still_tick (s : State) (a : Action) : Still s (s.tick.after a) := by
  unfold State.tick; split
  · exact ⟨rfl, rfl, rfl, rfl, rfl, rfl, rfl, rfl, fun sp _ => by cases sp <;> rfl, rfl, rfl, rfl, rfl, rfl⟩
  · exact ⟨rfl, rfl, rfl, rfl, rfl, rfl, rfl, rfl, fun sp _ => by cases sp <;> rfl, rfl, rfl, rfl, rfl, rfl⟩

/-- A step ends where its action does. -/
theorem step_of_act {s t u : State} (ha : act s s.nextAction = .next u) (h : step s = .next t) : t = u.after s.nextAction := by
  simp only [step, ha, Host.Outcome.next.injEq] at h
  exact h.symm

/-- Settles O5: in OFF the boot alone happens, in TRIP POWER_OFF alone; every other step takes an entry off the agenda or ends a cycle. -/
theorem powerStatesAreLeftAsR402Says : Obligations.PowerStatesAreLeftAsR402Says := by
  unfold Obligations.PowerStatesAreLeftAsR402Says
  intro s t hlatched hstep
  refine ⟨fun hoff => ?_, fun htrip => ?_⟩
  · obtain ⟨i, hi⟩ := nextAction_off hoff
    rcases act_off (i := i) hoff hlatched with h | h <;> obtain rfl := step_of_act (hi ▸ h) hstep
    · exact .inr (still_dropAgenda s _)
    · exact .inl (congrArg Prod.fst (boot_supply s.dropAgenda))
  · rcases nextAction_trip htrip with ⟨i, hi⟩ | hi
    · rcases act_trip (i := i) htrip with h | h <;> obtain rfl := step_of_act (hi ▸ h) hstep
      · exact .inr (still_dropAgenda s _)
      · exact .inl rfl
    · obtain rfl := step_of_act (u := s.tick) (hi ▸ rfl) hstep
      exact .inr (still_tick s _)

end Sys2Proof.Proofs.PowerStates
end

section
/-! SUPPORT. Family memory: a byte reads as last written, and a write leaves every other byte alone (R281, R287, R288, R360). -/

namespace Sys2Proof.Proofs.MemoryIsReadAsWritten

open Sys2Proof.Machine

/-! ### The two windows (R288)

A byte of a chunk: chunk number `128·a + b` of channel `n`, byte `r`. -/

theorem ilToBl_parts {a b n r : Nat} (hb : b < 128) (hn : n < 64) (hr : r < 256) :
    ilToBl ((128 * a + b) * 16384 + n * 256 + r) = a * 2097152 + n * 32768 + b * 256 + r := by
  have hchan : ((128 * a + b) * 16384 + n * 256 + r) / 256 % 64 = n := by omega
  have hdepth : ((128 * a + b) * 16384 + n * 256 + r) / 16384 * 256 + ((128 * a + b) * 16384 + n * 256 + r) % 256 = 32768 * a + 256 * b + r := by
    omega
  unfold ilToBl
  dsimp only
  rw [hchan, hdepth, show 2 ^ 21 = 2097152 from rfl]
  clear hchan hdepth
  omega

theorem blToIl_parts {a b n r : Nat} (hb : b < 128) (hn : n < 64) (hr : r < 256) :
    blToIl (a * 2097152 + n * 32768 + b * 256 + r) = (128 * a + b) * 16384 + n * 256 + r := by
  have hchan : (a * 2097152 + n * 32768 + b * 256 + r) / 32768 % 64 = n := by omega
  have hdepth : (a * 2097152 + n * 32768 + b * 256 + r) / 2097152 * 32768 + (a * 2097152 + n * 32768 + b * 256 + r) % 32768 = 32768 * a + 256 * b + r := by
    omega
  unfold blToIl
  dsimp only
  rw [hchan, show 2 ^ 21 = 2097152 from rfl, hdepth]
  clear hchan hdepth
  omega

theorem il_parts (i : Nat) : ∃ a b n r, b < 128 ∧ n < 64 ∧ r < 256 ∧ i = (128 * a + b) * 16384 + n * 256 + r :=
  ⟨i / 2097152, i / 16384 % 128, i / 256 % 64, i % 256, by omega, by omega, by omega, by omega⟩

theorem bl_parts (l : Nat) : ∃ a b n r, b < 128 ∧ n < 64 ∧ r < 256 ∧ l = a * 2097152 + n * 32768 + b * 256 + r :=
  ⟨l / 2097152, l / 256 % 128, l / 32768 % 64, l % 256, by omega, by omega, by omega, by omega⟩

theorem blToIl_ilToBl (i : Nat) : blToIl (ilToBl i) = i := by
  obtain ⟨a, b, n, r, hb, hn, hr, rfl⟩ := il_parts i
  rw [ilToBl_parts hb hn hr, blToIl_parts hb hn hr]

theorem ilToBl_blToIl (l : Nat) : ilToBl (blToIl l) = l := by
  obtain ⟨a, b, n, r, hb, hn, hr, rfl⟩ := bl_parts l
  rw [blToIl_parts hb hn hr, ilToBl_parts hb hn hr]

/-- The bytes of a 256-byte chunk lie in one row of one bank. -/
theorem chunk_in_row (i : Nat) : blRow (ilToBl i) = blRow (ilToBl (i / 256 * 256)) ∧ blBank (ilToBl i) = blBank (ilToBl (i / 256 * 256)) := by
  obtain ⟨a, b, n, r, hb, hn, hr, rfl⟩ := il_parts i
  have hchunk : ((128 * a + b) * 16384 + n * 256 + r) / 256 * 256 = (128 * a + b) * 16384 + n * 256 + 0 := by omega
  rw [hchunk, ilToBl_parts hb hn hr, ilToBl_parts hb hn (by omega)]
  have hcol : (a * 2097152 + n * 32768 + b * 256 + r) / 1024 = (a * 2097152 + n * 32768 + b * 256 + 0) / 1024 := by omega
  have hrow : (a * 2097152 + n * 32768 + b * 256 + r) / 2097152 = (a * 2097152 + n * 32768 + b * 256 + 0) / 2097152 := by omega
  simp only [blRow, blBank, Nat.reducePow, hcol, hrow, and_self]

/-! ### What the bytes of memory depend on -/

/-- Everything that `physByte` reads. -/
def stored (s : State) : Memory × Memory × Memory × Tab (BitVec 512) × Tab (BitVec 512) × Tab (BitVec 512) × Tab RowState :=
  (s.dev, s.host, s.pool, s.l2, s.hostL2, s.poolL2, s.rows)

theorem physByte_of_stored {s t : State} (h : stored t = stored s) (sp : MemSpace) (a : Nat) : t.physByte sp a = s.physByte sp a := by
  simp only [stored, Prod.mk.injEq] at h
  obtain ⟨hdev, hhost, hpool, hl2, hhostL2, hpoolL2, hrows⟩ := h
  cases sp <;> simp only [State.physByte, State.dieByte, hdev, hhost, hpool, hl2, hhostL2, hpoolL2, hrows]

theorem foldl_stored {α : Type} (l : List α) (g : State → α → State) (h : ∀ t x, stored (g t x) = stored t) (s : State) :
    stored (l.foldl g s) = stored s := by
  induction l generalizing s with
  | nil => rfl
  | cons a r ih => rw [List.foldl_cons, ih, h]

theorem markUnit_stored (s : State) (sp : MemSpace) (b : Bool) (u : Nat) : stored (s.markUnit sp b u) = stored s := by
  cases sp with
  | il => simp only [State.markUnit]; split <;> rfl
  | bl | host | pool => rfl

theorem cleanUnit_stored (s : State) (sp : MemSpace) (u : Nat) : stored (s.cleanUnit sp u) = stored s := by
  cases sp with
  | bl => rfl
  | il | host | pool => exact markUnit_stored _ _ _ _

theorem touchCode_stored (s : State) (p : Party) (sp : MemSpace) (o n : Nat) : stored (s.touchCode p sp o n) = stored s := by
  unfold State.touchCode; split <;> rfl

/-- Of a store, its bytes alone are seen by a reader: marks and orders are kept beside them. -/
theorem storeMem_stored (s : State) (p : Party) (w : Bool) (sp : MemSpace) (o : Nat) (bs : List Byte) :
    stored (s.storeMem p w sp o bs) = stored (s.putBytes sp o bs) := by
  have hbytes : stored (((s.putBytes sp o bs).touchCode p sp o bs.length).endSequences p sp o bs.length) = stored (s.putBytes sp o bs) :=
    touchCode_stored _ _ _ _ _
  unfold State.storeMem; dsimp only; split
  · exact (foldl_stored _ _ (fun t _ => cleanUnit_stored t _ _) _).trans hbytes
  · exact hbytes

/-! ### Units without errors -/

/-- No error waits in the dies, in the L2 or in its directory. -/
def Clean (s : State) : Prop := s.devUe = [] ∧ s.devCe = [] ∧ s.arr.dirBad = [] ∧ s.arr.l2Ue = [] ∧ s.arr.l2Ce = []

theorem clean_of_noErrors {s : State} (h : NoErrors s) : Clean s := by
  obtain ⟨hue, hce, harr, -⟩ := h
  exact ⟨hue, hce, congrArg ArrayErrors.dirBad harr, congrArg ArrayErrors.l2Ue harr, congrArg ArrayErrors.l2Ce harr⟩

theorem noteDir_clean {s : State} (h : Clean s) (sp : MemSpace) (u : Nat) : s.noteDir sp u = s := by
  obtain ⟨-, -, hdir, -, -⟩ := h
  simp [State.noteDir, hdir]

theorem noteL2_clean {s : State} (h : Clean s) (sp : MemSpace) (u : Nat) : s.noteL2 sp u = s := by
  obtain ⟨-, -, -, hue, hce⟩ := h
  simp [State.noteL2, hue, hce]

theorem noteDie_clean {s : State} (h : Clean s) (u : Nat) : s.noteDie u = s := by
  obtain ⟨hue, hce, -⟩ := h
  simp [State.noteDie, hue, hce]

theorem noteUnit_clean {s : State} (h : Clean s) (sp : MemSpace) (u : Nat) : s.noteUnit sp u = s := by
  simp [State.noteUnit, noteDir_clean h, noteL2_clean h, noteDie_clean h]

/-- What comes before a write of a part of a unit changes no byte, where the window is not the dies' own. -/
theorem takeUnit_clean {s : State} (h : Clean s) {sp : MemSpace} (hsp : sp ≠ .bl) (u : Nat) :
    Clean (s.takeUnit sp u) ∧ stored (s.takeUnit sp u) = stored s := by
  cases sp with
  | bl => exact absurd rfl hsp
  | il =>
    simp only [State.takeUnit, noteDir_clean h, noteUnit_clean h]
    split <;> exact ⟨h, rfl⟩
  | host | pool =>
    simp only [State.takeUnit, noteDir_clean h, noteUnit_clean h, reduceCtorEq, if_false, ite_self]
    exact ⟨h, trivial⟩

/-! ### A byte of a line -/

theorem getLsbD_setFld {w : Nat} (x : BitVec w) (lo n v : Nat) {i : Nat} (hi : i < w) :
    (setFld x lo n v).getLsbD i = if lo ≤ i ∧ i < lo + n then v.testBit (i - lo) else x.getLsbD i := by
  have hmask : (BitVec.ofNat w ((2 ^ n - 1) * 2 ^ lo)).getLsbD i = decide (lo ≤ i ∧ i < lo + n) := by
    rw [BitVec.getLsbD_ofNat, Nat.testBit_mul_two_pow, Nat.testBit_two_pow_sub_one]
    by_cases hlo : lo ≤ i <;> simp [hi, hlo]
    omega
  have hbits : (BitVec.ofNat w (v % 2 ^ n * 2 ^ lo)).getLsbD i = (decide (lo ≤ i ∧ i < lo + n) && v.testBit (i - lo)) := by
    rw [BitVec.getLsbD_ofNat, Nat.testBit_mul_two_pow, Nat.testBit_mod_two_pow]
    by_cases hlo : lo ≤ i <;> simp [hi, hlo]
    by_cases hn : i < lo + n
    · simp [hn, show i - lo < n by omega]
    · simp [hn, show ¬ i - lo < n by omega]
  simp only [setFld, BitVec.getLsbD_or, BitVec.getLsbD_and, BitVec.getLsbD_not, hmask, hbits, hi]
  by_cases hin : lo ≤ i ∧ i < lo + n <;> simp [hin]

/-- A byte of a line after a byte of it was replaced. -/
theorem setFld_byte (d : BitVec 512) {j k : Nat} (hj : j < 64) (b : Byte) :
    (setFld d (8 * k) 8 b.toNat).extractLsb' (8 * j) 8 = if j = k then b else d.extractLsb' (8 * j) 8 := by
  refine BitVec.eq_of_getLsbD_eq fun i hi => ?_
  rw [BitVec.getLsbD_extractLsb', getLsbD_setFld d _ _ _ (by omega)]
  by_cases hjk : j = k
  · simp [hjk, hi, BitVec.testBit_toNat]
  · have hout : ¬ (8 * k ≤ 8 * j + i ∧ 8 * j + i < 8 * k + 8) := by omega
    simp [hjk, hi, hout]

/-- A bit of little-endian bytes. -/
theorem testBit_leNat (bs : List Byte) (i : Nat) : (leNat bs).testBit i = (bs[i / 8]?.getD 0).getLsbD (i % 8) := by
  induction bs generalizing i with
  | nil => simp [leNat]
  | cons b r ih =>
    have hb : b.toNat < 2 ^ 8 := b.isLt
    rw [leNat, Nat.add_comm, show 256 = 2 ^ 8 from rfl, Nat.testBit_two_pow_mul_add _ hb]
    split
    next hlt => simp [Nat.div_eq_of_lt hlt, Nat.mod_eq_of_lt hlt, BitVec.testBit_toNat]
    next hge =>
      obtain ⟨k, rfl⟩ : ∃ k, i = k + 8 := ⟨i - 8, by omega⟩
      rw [ih, show k + 8 - 8 = k by omega, show (k + 8) / 8 = k / 8 + 1 by omega, show (k + 8) % 8 = k % 8 by omega]
      rfl

theorem lineFrom_byte (rd : Nat → Byte) (line : Nat) {j : Nat} (hj : j < 64) : (lineFrom rd line).extractLsb' (8 * j) 8 = rd (64 * line + j) := by
  refine BitVec.eq_of_getLsbD_eq fun i hi => ?_
  have hbyte : (8 * j + i) / 8 = j := by omega
  have hbit : (8 * j + i) % 8 = i := by omega
  rw [BitVec.getLsbD_extractLsb', lineFrom, BitVec.getLsbD_ofNat, testBit_leNat, hbyte, hbit]
  simp [hi, hj, show 8 * j + i < 512 by omega]

/-- What a reader sees of a table of dirty lines over a byte reader. -/
def topped (t : Tab (BitVec 512)) (rd : Nat → Byte) (l : Nat) : Byte := match tabFind t (l / 64) with
  | some d => d.extractLsb' (8 * (l % 64)) 8
  | none => rd l

theorem topped_patchOver (t : Tab (BitVec 512)) (rd : Nat → Byte) (l x : Nat) (b : Byte) :
    topped (patchOver t rd l b) rd x = if x = l then b else topped t rd x := by
  have hx : x % 64 < 64 := Nat.mod_lt _ (by decide)
  unfold topped patchOver
  dsimp only
  rw [tabFind_put]
  by_cases hline : l / 64 = x / 64
  · rw [if_pos hline]
    have hsame : x % 64 = l % 64 ↔ x = l := by omega
    simp only [setFld_byte _ hx, hsame]
    split
    · rfl
    · rw [hline]
      cases tabFind t (x / 64) with
      | some d => rfl
      | none => simp only [lineFrom_byte _ _ hx, Nat.div_add_mod]
  · have hne : x ≠ l := fun e => hline (by rw [e])
    rw [if_neg hline, if_neg hne]

theorem physByte_eq_topped (s : State) (a : Nat) : s.physByte .il a = topped s.l2 s.dieByte (ilToBl a) ∧
    s.physByte .host a = topped s.hostL2 (Memory.get s.host) a ∧ s.physByte .pool a = topped s.poolL2 (Memory.get s.pool) a :=
  ⟨rfl, rfl, rfl⟩

theorem ilToBl_injective {i j : Nat} : ilToBl i = ilToBl j ↔ i = j :=
  ⟨fun h => by rw [← blToIl_ilToBl i, h, blToIl_ilToBl], congrArg ilToBl⟩

theorem putByte_read (s : State) {sp : MemSpace} (hsp : sp ≠ .bl) (off : Nat) (b : Byte) (sp' : MemSpace) (a : Nat) :
    (s.putByte sp off b).physByte sp' a = if sp' = sp ∧ a = off then b else s.physByte sp' a := by
  cases sp with
  | bl => exact absurd rfl hsp
  | il =>
    cases sp' with
    | il =>
      rw [(physByte_eq_topped s a).1]
      exact (topped_patchOver s.l2 s.dieByte (ilToBl off) (ilToBl a) b).trans (ite_congr (by simp [ilToBl_injective]) (fun _ => rfl) fun _ => rfl)
    | bl | host | pool => rfl
  | host =>
    cases sp' with
    | host => exact (topped_patchOver s.hostL2 (Memory.get s.host) off a b).trans (ite_congr (by simp) (fun _ => rfl) fun _ => rfl)
    | il | bl | pool => rfl
  | pool =>
    cases sp' with
    | pool => exact (topped_patchOver s.poolL2 (Memory.get s.pool) off a b).trans (ite_congr (by simp) (fun _ => rfl) fun _ => rfl)
    | il | bl | host => rfl

/-- Consecutive bytes, from the `n`-th on. -/
theorem putBytesFrom_read (bs : List Byte) (n : Nat) (s : State) {sp : MemSpace} (hsp : sp ≠ .bl) (off : Nat) (sp' : MemSpace) (a : Nat) :
    ((bs.zipIdx n).foldl (fun t b => t.putByte sp (off + b.2) b.1) s).physByte sp' a =
      if sp' = sp ∧ off + n ≤ a ∧ a < off + n + bs.length then bs[a - (off + n)]?.getD 0 else s.physByte sp' a := by
  induction bs generalizing n s with
  | nil =>
    exact (if_neg fun h => by have := h.2; simp only [List.length_nil] at this; omega).symm
  | cons b r ih =>
    rw [List.zipIdx_cons, List.foldl_cons, ih, putByte_read s hsp]
    by_cases hspace : sp' = sp
    · simp only [hspace, true_and, List.length_cons]
      by_cases hlater : off + n + 1 ≤ a ∧ a < off + n + 1 + r.length
      · rw [if_pos (by omega), if_pos (by omega), show a - (off + n) = a - (off + (n + 1)) + 1 by omega]
        rfl
      · rw [if_neg (by omega)]
        by_cases hhere : a = off + n
        · rw [if_pos hhere, if_pos (by omega), hhere]
          simp
        · rw [if_neg hhere, if_neg (by omega)]
    · simp [hspace]

/-- What comes before a write past the dies' own window changes no byte. -/
theorem taken_stored {sp : MemSpace} (hsp : sp ≠ .bl) (sp2 : MemSpace) (full us : List Nat) {s : State} (h : Clean s) :
    stored (us.foldl (fun t u => if full.contains u then t.noteDir sp2 u else t.takeUnit sp u) s) = stored s := by
  induction us generalizing s with
  | nil => rfl
  | cons u r ih =>
    rw [List.foldl_cons]
    split
    · rw [noteDir_clean h]
      exact ih h
    · obtain ⟨hclean, hsame⟩ := takeUnit_clean h hsp u
      exact (ih hclean).trans hsame

/-- Where no error waits, a write past the dies' own window puts its bytes in their place, and changes no other. -/
theorem writeMem_read {s : State} (h : Clean s) (party : Party) (whole : Bool) {sp : MemSpace} (hsp : sp ≠ .bl) (off : Nat) (bs : List Byte)
    (sp' : MemSpace) (a : Nat) : (s.writeMem party whole sp off bs).physByte sp' a =
      if sp' = sp ∧ off ≤ a ∧ a < off + bs.length then bs[a - off]?.getD 0 else s.physByte sp' a := by
  rw [State.writeMem, physByte_of_stored (storeMem_stored _ _ _ _ _ _), State.putBytes, putBytesFrom_read bs 0 _ hsp, Nat.add_zero,
    physByte_of_stored (taken_stored hsp _ _ _ h)]

/-! ### The bank-linear window (R281) -/

/-- What a write to the dies keeps of device memory and the dirty lines above it, outside the lines `ls` that it touches. -/
structure Beside (ls : Nat → Prop) (s t : State) : Prop where
  wf : tabWf s.l2 = true → tabWf t.l2 = true
  clean : Clean s → Clean t
  dev : ∀ a, ¬ ls (a / 64) → Memory.get t.dev a = Memory.get s.dev a
  l2 : ∀ line, ¬ ls line → tabFind t.l2 line = tabFind s.l2 line
  gone : ∀ line, tabFind s.l2 line = none → tabFind t.l2 line = none
  others : (t.host, t.hostL2, t.pool, t.poolL2, t.rows) = (s.host, s.hostL2, s.pool, s.poolL2, s.rows)

theorem Beside.refl (ls : Nat → Prop) (s : State) : Beside ls s s :=
  ⟨id, id, fun _ _ => rfl, fun _ _ => rfl, fun _ => id, rfl⟩

theorem Beside.trans {ls : Nat → Prop} {s t u : State} (h : Beside ls s t) (k : Beside ls t u) : Beside ls s u :=
  ⟨k.wf ∘ h.wf, k.clean ∘ h.clean, fun a ha => (k.dev a ha).trans (h.dev a ha), fun l hl => (k.l2 l hl).trans (h.l2 l hl),
    fun l hl => k.gone l (h.gone l hl), k.others.trans h.others⟩

theorem Beside.mono {ls ms : Nat → Prop} {s t : State} (h : Beside ls s t) (hm : ∀ l, ls l → ms l) : Beside ms s t :=
  ⟨h.wf, h.clean, fun a ha => h.dev a (fun k => ha (hm _ k)), fun l hl => h.l2 l (fun k => hl (hm _ k)), h.gone, h.others⟩

/-- A state that the same bytes are read from, with no new error, is beside any lines. -/
theorem Beside.of_stored {ls : Nat → Prop} {s t : State} (h : stored t = stored s) (hclean : Clean s → Clean t) : Beside ls s t := by
  simp only [stored, Prod.mk.injEq] at h
  obtain ⟨hdev, hhost, hpool, hl2, hhostL2, hpoolL2, hrows⟩ := h
  exact ⟨fun k => hl2 ▸ k, hclean, fun _ _ => by rw [hdev], fun _ _ => by rw [hl2], fun _ k => by rwa [hl2], by
    rw [hhost, hpool, hhostL2, hpoolL2, hrows]⟩

theorem Beside.rows {ls : Nat → Prop} {s t : State} (h : Beside ls s t) : t.rows = s.rows := congrArg (fun x => x.2.2.2.2) h.others

theorem foldl_beside {α : Type} {ls : Nat → Prop} (l : List α) (g : State → α → State) (h : ∀ t, ∀ x ∈ l, Beside ls t (g t x)) (s : State) :
    Beside ls s (l.foldl g s) := by
  induction l generalizing s with
  | nil => exact .refl ls s
  | cons a r ih => exact (h s a List.mem_cons_self).trans (ih (fun t x hx => h t x (List.mem_cons_of_mem _ hx)) _)

theorem setDel_nil {l : List Nat} (h : l = []) (k : Nat) : setDel l k = [] := by rw [h]; rfl

theorem dieWritten_beside (ls : Nat → Prop) (s : State) (b : Bool) (u : Nat) : Beside ls s (s.dieWritten b u) :=
  .of_stored rfl fun ⟨hue, hce, harr⟩ => ⟨setDel_nil hue u, setDel_nil hce u, harr⟩

theorem length_leBytes (n v : Nat) : (leBytes n v).length = n := by
  induction n generalizing v with
  | zero => rfl
  | succ n ih => simp [leBytes, ih]

theorem writeBackDev_beside (s : State) (line : Nat) : Beside (· = line) s (s.writeBackDev line) := by
  unfold State.writeBackDev
  split
  next d hd =>
    refine ⟨fun h => tabWf_erase s.l2 line h, fun ⟨hue, hce, hdir, hl2ue, hl2ce⟩ => ⟨setDel_nil hue line, setDel_nil hce line, hdir,
      setDel_nil hl2ue line, setDel_nil hl2ce line⟩, fun a ha => ?_, fun l hl => tabFind_erase_ne s.l2 line l (Ne.symm hl), fun l hl => ?_, rfl⟩
    · refine get_write_ne s.dev (64 * line) (leBytes 64 d.toNat) a ?_
      rw [length_leBytes]; omega
    · have hne : line ≠ l := fun e => by simp [e, hl] at hd
      exact (tabFind_erase_ne s.l2 line l hne).trans hl
  · exact .refl _ s

theorem tabWfFrom_find {α : Type} {t : Tab α} {a k : Nat} (h : tabWfFrom a t = true) (hk : k < a) : tabFind t k = none := by
  induction t generalizing a with
  | nil => rfl
  | cons x r ih =>
    simp only [tabWfFrom, Bool.and_eq_true, decide_eq_true_eq] at h
    rw [tabFind, if_neg (by omega)]
    exact ih h.2 (by omega)

theorem tabFind_erase {α : Type} {t : Tab α} {a : Nat} (k : Nat) (h : tabWfFrom a t = true) : tabFind (tabErase t k) k = none := by
  induction t generalizing a with
  | nil => rfl
  | cons x r ih =>
    simp only [tabWfFrom, Bool.and_eq_true, decide_eq_true_eq] at h
    rw [tabErase]
    split
    next hx => exact tabWfFrom_find h.2 (by omega)
    next hx => rw [tabFind, if_neg hx]; exact ih h.2

/-- A line that went home is dirty no more. -/
theorem writeBackDev_gone {s : State} (h : tabWf s.l2 = true) (line : Nat) : tabFind (s.writeBackDev line).l2 line = none := by
  unfold State.writeBackDev
  split
  next d _ => exact tabFind_erase line h
  next hnone => exact hnone

theorem writeBackDev_of_none {s : State} {line : Nat} (h : tabFind s.l2 line = none) : s.writeBackDev line = s := by
  unfold State.writeBackDev
  rw [h]

theorem putByte_bl_beside (s : State) (l : Nat) (b : Byte) : Beside (· = l / 64) s (s.putByte .bl l b) := by
  have hback := writeBackDev_beside s (l / 64)
  refine hback.trans ⟨id, id, fun a ha => ?_, fun _ _ => rfl, fun _ => id, rfl⟩
  have hne : a ≠ l := fun e => ha (by rw [e])
  exact get_write_ne _ l [b] a (by simp only [List.length_singleton]; omega)

theorem putByte_bl_read (s : State) (l : Nat) (b : Byte) : Memory.get (s.putByte .bl l b).dev l = b :=
  get_write (s.writeBackDev (l / 64)).dev l [b] 0 b rfl

/-- In a line that is not dirty, only the byte itself changes. -/
theorem putByte_bl_other {s : State} {a : Nat} (h : tabFind s.l2 (a / 64) = none) {l : Nat} (hne : a ≠ l) (b : Byte) :
    Memory.get (s.putByte .bl l b).dev a = Memory.get s.dev a := by
  by_cases hline : a / 64 = l / 64
  · refine (get_write_ne _ l [b] a (by simp only [List.length_singleton]; omega)).trans ?_
    change Memory.get (s.writeBackDev (l / 64)).dev a = _
    rw [writeBackDev_of_none (hline ▸ h)]
  · exact (putByte_bl_beside s l b).dev a hline

theorem putByte_bl_gone {s : State} (h : tabWf s.l2 = true) (l : Nat) (b : Byte) : tabFind (s.putByte .bl l b).l2 (l / 64) = none :=
  writeBackDev_gone h (l / 64)

/-- Consecutive bytes past one leave it, in a line that is not dirty. -/
theorem putBytesFrom_bl_other (bs : List Byte) (n : Nat) {s : State} (off : Nat) {a : Nat} (hclean : tabFind s.l2 (a / 64) = none)
    (ha : a < off + n) : Memory.get ((bs.zipIdx n).foldl (fun t b => t.putByte .bl (off + b.2) b.1) s).dev a = Memory.get s.dev a := by
  induction bs generalizing n s with
  | nil => rfl
  | cons b r ih =>
    rw [List.zipIdx_cons, List.foldl_cons, ih (n + 1) ((putByte_bl_beside s (off + n) b).gone _ hclean) (by omega)]
    exact putByte_bl_other hclean (by omega) b

theorem putBytesFrom_bl_read (bs : List Byte) (n : Nat) {s : State} (hwf : tabWf s.l2 = true) (off i : Nat) {b : Byte} (hb : bs[i]? = some b) :
    Memory.get ((bs.zipIdx n).foldl (fun t b => t.putByte .bl (off + b.2) b.1) s).dev (off + n + i) = b := by
  induction bs generalizing n s i with
  | nil => simp at hb
  | cons c r ih =>
    rw [List.zipIdx_cons, List.foldl_cons]
    cases i with
    | zero =>
      obtain rfl : c = b := by simpa using hb
      simp only [Nat.add_zero]
      rw [putBytesFrom_bl_other r (n + 1) off (putByte_bl_gone hwf (off + n) c) (by omega)]
      exact putByte_bl_read s (off + n) c
    | succ i =>
      rw [show off + n + (i + 1) = off + (n + 1) + i by omega]
      exact ih (n + 1) ((putByte_bl_beside s (off + n) c).wf hwf) i (by simpa using hb)

theorem putBytes_bl_beside (s : State) (off : Nat) (bs : List Byte) :
    Beside (fun l => ∃ i < bs.length, (off + i) / 64 = l) s (s.putBytes .bl off bs) := by
  refine foldl_beside _ _ (fun t x hx => (putByte_bl_beside t (off + x.2) x.1).mono fun l hl => ?_) s
  obtain ⟨-, hlt, -⟩ := List.mem_zipIdx hx
  exact ⟨x.2, by omega, hl.symm⟩

/-- The units of a range of the dies are the lines of its bytes. -/
theorem mem_unitsOf_bl {off n u : Nat} (h : u ∈ unitsOf .bl off n) : ∃ i < n, (off + i) / 64 = u := by
  unfold unitsOf at h
  split at h
  · simp at h
  next hn =>
    simp only [physLoc, List.mem_map, List.mem_range] at h
    obtain ⟨k, hk, rfl⟩ := h
    by_cases hfirst : k = 0
    · exact ⟨0, by omega, by omega⟩
    · exact ⟨64 * (off / 64 + k) - off, by omega, by omega⟩

theorem takeUnit_bl_beside {s : State} (h : Clean s) (u : Nat) : Beside (· = u) s (s.takeUnit .bl u) := by
  have hflush : s.flushDev u = s.writeBackDev u := by
    unfold State.flushDev
    split
    · rw [noteL2_clean h]
    next hnone => exact (writeBackDev_of_none (by simpa using hnone)).symm
  have hback := writeBackDev_beside s u
  unfold State.takeUnit
  dsimp only
  rw [hflush, noteDie_clean (hback.clean h)]
  exact hback.trans (dieWritten_beside _ _ _ _)

theorem taken_bl_beside {full us : List Nat} {ls : Nat → Prop} (hus : ∀ u ∈ us, ls u) {s : State} (h : Clean s) (sp2 : MemSpace) :
    Beside ls s (us.foldl (fun t u => if full.contains u then t.noteDir sp2 u else t.takeUnit .bl u) s) := by
  induction us generalizing s with
  | nil => exact .refl ls s
  | cons u r ih =>
    have hr : ∀ x ∈ r, ls x := fun x hx => hus x (List.mem_cons_of_mem _ hx)
    rw [List.foldl_cons]
    split
    · rw [noteDir_clean h]
      exact ih hr h
    · have hu := (takeUnit_bl_beside h u).mono fun l hl => hl ▸ hus u List.mem_cons_self
      exact hu.trans (ih hr (hu.clean h))

/-- A reader of another line sees what it saw before. -/
theorem Beside.physByte {ls : Nat → Prop} {s t : State} (h : Beside ls s t) {sp : MemSpace} {a : Nat}
    (ha : sp ≠ .host ∧ sp ≠ .pool → ¬ ls (physLoc sp a / 64)) : t.physByte sp a = s.physByte sp a := by
  obtain ⟨hhost, hhostL2, hpool, hpoolL2, hrows⟩ : t.host = s.host ∧ t.hostL2 = s.hostL2 ∧ t.pool = s.pool ∧ t.poolL2 = s.poolL2 ∧ t.rows = s.rows := by
    simpa using h.others
  cases sp with
  | host => simp only [State.physByte, hhost, hhostL2]
  | pool => simp only [State.physByte, hpool, hpoolL2]
  | il | bl =>
    have hne := ha ⟨by simp, by simp⟩
    simp only [State.physByte, State.dieByte, hrows, h.l2 _ hne, h.dev _ hne]

/-- A byte of the dies outside every CONST row. -/
theorem physByte_bl {s : State} {a : Nat} (h : tabFind s.rows (rowKey a) = none) : s.physByte .bl a = Memory.get s.dev a := by
  simp only [State.physByte, State.dieByte, physLoc, h]

/-- Settles O7: past the dies' own window the bytes go into dirty lines; through it a dirty line goes home before its bytes are written. -/
theorem memoryIsReadAsWritten : Obligations.MemoryIsReadAsWritten := by
  unfold Obligations.MemoryIsReadAsWritten
  refine ⟨fun i => ⟨blToIl_ilToBl i, ilToBl_blToIl i, chunk_in_row i⟩, ?_, ?_⟩
  · intro s party whole sp off bs herr hsp
    have hread := writeMem_read (clean_of_noErrors herr) party whole hsp off bs
    refine ⟨fun i b hb => ?_, fun sp' a ha => ?_⟩
    · obtain ⟨hi, -⟩ := List.getElem?_eq_some_iff.1 hb
      rw [hread, if_pos ⟨rfl, by omega, by omega⟩, Nat.add_sub_cancel_left, hb]
      rfl
    · rw [hread, if_neg]
      rintro ⟨hspace, hle, hlt⟩
      rcases ha with h | h | h
      · exact h hspace
      · omega
      · omega
  · intro s party whole off bs herr hwf
    have htaken := taken_bl_beside (full := if whole then wholeUnits .bl off bs.length else []) (us := unitsOf .bl off bs.length)
      (fun u hu => mem_unitsOf_bl hu) (clean_of_noErrors herr) .il
    have hbeside := htaken.trans (putBytes_bl_beside _ off bs)
    refine ⟨fun i b hb hrow => ?_, fun sp a ha => ?_⟩ <;> rw [State.writeMem, physByte_of_stored (storeMem_stored _ _ _ _ _ _)]
    · have hrow' := (congrArg (tabFind · (rowKey (off + i))) hbeside.rows).trans hrow
      exact (physByte_bl hrow').trans (putBytesFrom_bl_read bs 0 (htaken.wf hwf) off i hb)
    · refine hbeside.physByte fun hsp => ?_
      rintro ⟨i, hi, hline⟩
      exact ha hsp i hi hline

end Sys2Proof.Proofs.MemoryIsReadAsWritten
end

section
/-! SUPPORT. Family traps: which decode check stops an instruction, the trap that it starts, and the stop (R102, R104, R105, R260, R262). -/

namespace Sys2Proof.Proofs.DecodeChecksAndTraps

open Sys2Proof.Machine

/-! ### The front, whichever way an instruction goes -/

/-- The pushes of an instruction of stream C are no matter of the decode checks (R82). -/
theorem decodeStop_popsOnly {i : Instr} {sp : ISpec} (hroute : sp.route = .c) (f : Fields) (s : State) :
    decodeStop i sp (popsOnly f) s = decodeStop i sp f s := by
  have hup : upperOk sp (popsOnly f) = upperOk sp f := by simp only [upperOk, hroute]; rfl
  unfold decodeStop decodeFault
  rw [hup]
  rfl

/-- An instruction of the opcode map runs at the front or enters a queue; those of the matrix queue, of stream C, without their pushes. -/
theorem exec_atFront {i : Instr} {f : Fields} (hf : instrFields i = some f) (s : State) :
    (∃ fmt body, exec i s = runFront i f fmt body s) ∨ (∃ ack body, exec i s = runQueue i f ack body s) ∨
    (∃ body, exec i s = runQueue i (popsOnly f) .none body s) ∧ (ispec i).map (·.route) = some .c := by
  cases i <;> cases hf
  all_goals dsimp only [exec]
  all_goals first
    | exact .inr (.inl ⟨_, _, rfl⟩)
    | exact .inl ⟨_, _, rfl⟩
    | exact .inr (.inr ⟨⟨_, rfl⟩, rfl⟩)

/-- What a stop at the front makes of the state. -/
def stopEnds (s : State) : Stop → State
  | .trap c o => s.decodeTrap c o
  | .drop => s.passed
  | .stall => s

/-- An instruction that the front decides before its operands: it is dropped, it stays, or it traps, by `decodeStop` alone. -/
theorem exec_of_decodeStop {i : Instr} {f : Fields} {sp : ISpec} {s : State} {x : Stop} (hf : instrFields i = some f) (hsp : ispec i = some sp)
    (ha : s.acting = .front) (hr : frontReady s.cycle s.me = true) (hd : decodeStop i sp f s = some x) :
    exec i s = .next (stopEnds s x) := by
  have henter : ∀ g body ack, decodeStop i sp g s = some x → runQueue i g ack body s = .next (stopEnds s x) := by
    intro g body ack hg
    cases x <;> simp [runQueue, enterQueue, ha, hsp, hr, hg, stopEnds, State.passed]
  rcases exec_atFront hf s with ⟨fmt, body, h⟩ | ⟨ack, body, h⟩ | ⟨⟨body, h⟩, hroute⟩
  · rw [h]
    cases x <;> simp [runFront, ha, hsp, hr, hd, stopEnds, State.passed]
  · rw [h, henter f body ack hd]
  · have hc : sp.route = .c := by simpa [hsp] using hroute
    rw [h, henter (popsOnly f) body .none ((decodeStop_popsOnly hc f s).trans hd)]

/-! ### The trap of a decode (R102, R105, R260) -/

/-- What `frontReady` says of a strand: it is in use, not draining and not being killed, and a trap that it has is of this very cycle. -/
theorem frontReady_elim {cyc : Nat} {t : Strand} (h : frontReady cyc t = true) :
    (t.st = .run ∨ t.st = .wrap ∨ t.st = .held) ∧ t.diverting = none ∧ t.killing = false ∧ ∀ x, t.stopping = some x → x.cyc = some cyc := by
  simp only [frontReady, mayIssue, Strand.unstopped, Bool.and_eq_true, Bool.or_eq_true, beq_iff_eq, Option.isNone_iff_eq_none,
    Bool.not_eq_eq_eq_not, Bool.not_true] at h
  obtain ⟨⟨⟨⟨⟨⟨⟨hst, hun⟩, hdiv⟩, -⟩, hkill⟩, -⟩, -⟩, -⟩ := h
  refine ⟨or_assoc.1 hst, hdiv, hkill, fun x hx => ?_⟩
  simpa [hx, TrapRec.before] using hun

/-- The record of a decode trap: ENG 0, at the position of the instruction. -/
def decodeRecord (s : State) (c : TrapCode) (o : Nat) : TrapRec := { code := c, eng := 0, opnd := o, pos := s.me.pc, cyc := some s.cycle }

theorem traps_of_front {t : Strand} {r : TrapRec} (h : r.eng = 0) : t.traps r = t := by
  simp [Strand.traps, h]

/-- A decode trap starts the trap procedure, or takes the place of a trap of a higher ENG of the same cycle. -/
theorem decodeTrap_eq {s : State} (hr : frontReady s.cycle s.me = true) (hlow : ∀ x, s.me.stopping = some x → x.eng ≠ 0) (c : TrapCode) (o : Nat) :
    s.decodeTrap c o = s.setMe { s.me with stopping := some (decodeRecord s c o) } := by
  obtain ⟨hst, hdiv, hkill, hcyc⟩ := frontReady_elim hr
  cases hstop : s.me.stopping with
  | none =>
    have hstrand : s.me = s.strand s.cur := rfl
    rw [hstrand] at hst hdiv hkill hstop
    rcases hst with hst | hst | hst <;>
      simp [State.decodeTrap, State.raiseTrap, hstop, hdiv, hkill, hst, traps_of_front, decodeRecord, State.setMe, State.me]
  | some x =>
    have heng := hlow x hstop
    have hx := hcyc x hstop
    have hstrand : s.me = s.strand s.cur := rfl
    rw [hstrand] at hstop
    simp [State.decodeTrap, State.raiseTrap, hstop, hx, Ne.symm heng, Nat.pos_of_ne_zero heng, traps_of_front, decodeRecord, State.setMe, State.me]

/-! ### The stop (R260, R262) -/

/-- TRC, TRI and TRX of a decode trap. -/
theorem recordTrap_decode (t : Strand) (c : TrapCode) (o : Nat) (p : Word) (k : Option Nat) (wrap : Bool) :
    t.recordTrap { code := c, eng := 0, opnd := o, pos := p, cyc := k } wrap = { t with
      trc := BitVec.ofNat 64 (c.value + (if wrap then 2 ^ 11 else 0) + o * 2 ^ 12), tri := 0, trx := BitVec.ofNat 64 (p.toNat % 2 ^ 56) } := by
  simp [Strand.recordTrap, trcWord, triWord, trxWord]

/-- A strand of which the trap, of an earlier cycle, waits for nothing more stops with its record. -/
theorem finishTrap_strand {s : State} {slot : Nat} {r : TrapRec} (hstop : (s.strand slot).stopping = some r) (hfull : s.fqFull = false)
    (hcyc : r.cyc ≠ some s.cycle) (hdiv : (s.strand slot).diverting = none) (hwfe : (s.strand slot).wfe = none) (hquiet : s.quiet slot = true) :
    (s.finishTrap slot).strand slot = { (s.strand slot).recordTrap r (s.strand slot).inWrap with
      stopping := none, st := .stop, saved := if (s.strand slot).inWrap then .wrap else .run, halting := false, calling := none } := by
  have hu : (s.strand slot).abandonWfe = s.strand slot := by simp [Strand.abandonWfe, hwfe]
  simp only [State.finishTrap, hstop, hfull, TrapRec.before, bne_iff_ne.2 hcyc, hdiv, hquiet, hu, Bool.not_true, Bool.or_self, Bool.false_eq_true,
    if_false, Option.isSome_none]
  exact strand_setStrand _ _ _ (strand_ne_default _ (by simp))

theorem strandStop_strand {s : State} {slot : Nat} {r : TrapRec} (hslot : slot < 256) (hstop : (s.strand slot).stopping = some r)
    (hfull : s.fqFull = false) (hcyc : r.cyc ≠ some s.cycle) (hquiet : s.quiet slot = true) :
    exec (.strandStop slot) s = .next (s.finishTrap slot) := by
  change execStrandStop slot s = _
  simp [execStrandStop, whenSlot, strandStop?, hslot, hstop, hfull, TrapRec.before, hcyc, hquiet]

/-! ### Which check stops an instruction (R62, R102, R115, R164, R248) -/

theorem decodeStop_wait {i : Instr} {sp : ISpec} {f : Fields} {s : State} (hfault : decodeFault i sp f s.me = none)
    (hpend : guardsPending s.me f = false) (hguard : guardsHold s.me s.cycle s.fv f = true)
    (h : resultWait s.me i sp f = true ∨ queueFull s.me sp.route = true) : decodeStop i sp f s = some .stall := by
  rcases h with h | h <;> simp [decodeStop, hfault, hpend, hguard, h]

theorem decodeStop_privileged {i : Instr} {sp : ISpec} {f : Fields} {s : State} (hfault : decodeFault i sp f s.me = none)
    (hpend : guardsPending s.me f = false) (hguard : guardsHold s.me s.cycle s.fv f = true) (hwait : resultWait s.me i sp f = false)
    (hfull : queueFull s.me sp.route = false) (hpriv : sp.priv = true) (hsys : s.me.sys = false) :
    decodeStop i sp f s = some (.trap .privileged 0) := by
  simp [decodeStop, hfault, hpend, hguard, hwait, hfull, hpriv, hsys]

theorem decodeStop_claim {i : Instr} {sp : ISpec} {f : Fields} {s : State} (hfault : decodeFault i sp f s.me = none)
    (hpend : guardsPending s.me f = false) (hguard : guardsHold s.me s.cycle s.fv f = true) (hwait : resultWait s.me i sp f = false)
    (hfull : queueFull s.me sp.route = false) (hpriv : sp.priv = false) (hmatrix : sp.matrix = true) (hown : s.me.mown = false) :
    decodeStop i sp f s = some (.trap .claimViolation 0) := by
  simp [decodeStop, hfault, hpend, hguard, hwait, hfull, hpriv, claimBad, hmatrix, hown]

theorem decodeStop_latency {i : Instr} {sp : ISpec} {f : Fields} {s : State} (hup : upperOk sp f = true) (hsub : sp.subOk = true)
    (hlat : latencyOk i sp f s.me.shp = false) : decodeStop i sp f s = some (.trap .illegalLatency 0) := by
  simp [decodeStop, decodeFault, hup, hsub, hlat]

/-- Settles O10: a decode check that stops an instruction answers for it, whichever way it would have gone; what it starts is the trap procedure,
whose end writes the record. -/
theorem decodeChecksAndTraps : Obligations.DecodeChecksAndTraps := by
  unfold Obligations.DecodeChecksAndTraps
  refine ⟨⟨?_, ?_⟩, ?_, ?_⟩
  · intro i f sp s c o hsp hf ha hr hd
    have htrap (hlow : ∀ x, s.me.stopping = some x → x.eng ≠ 0) : exec i s = .next (s.setMe { s.me with stopping := some (decodeRecord s c o) }) :=
      (exec_of_decodeStop hf hsp ha hr hd).trans (congrArg _ (decodeTrap_eq hr hlow c o))
    refine ⟨fun hnone => htrap fun x hx => ?_, fun x hx hne => htrap fun y hy => ?_⟩
    · simp [hnone] at hx
    · obtain rfl : x = y := Option.some.inj (hx.symm.trans hy)
      exact hne
  · intro slot s c o p k t hslot hstop hk hdiv hwfe hquiet hfull
    refine ⟨_, strandStop_strand hslot hstop hfull hk hquiet, ?_⟩
    rw [finishTrap_strand hstop hfull hk hdiv hwfe hquiet, recordTrap_decode]
  · intro i f sp s hsp hf ha hr hfault hpend hguard
    refine ⟨fun hwait => exec_of_decodeStop hf hsp ha hr (decodeStop_wait hfault hpend hguard hwait), ?_, ?_⟩
    · intro hwait hfull hsys hi
      refine decodeStop_privileged hfault hpend hguard hwait hfull ?_ hsys
      rcases hi with rfl | rfl <;> obtain rfl := Option.some.inj hsp <;> rfl
    · intro hwait hfull hi hown
      have hrow : sp.priv = false ∧ sp.matrix = true := by
        rcases hi with rfl | rfl | rfl | rfl <;> obtain rfl := Option.some.inj hsp <;> exact ⟨rfl, rfl⟩
      exact decodeStop_claim hfault hpend hguard hwait hfull hrow.1 hrow.2 hown
  · intro f sp s hsp hup hsub hlat
    refine decodeStop_latency hup hsub ?_
    obtain rfl := Option.some.inj hsp
    simp [latencyOk, latOk, hlat]

end Sys2Proof.Proofs.DecodeChecksAndTraps
end

section
/-! SUPPORT. The worked words of the spec decode. -/
namespace Sys2Proof.Proofs.SpecWordsDecode
open Sys2Proof Sys2Proof.Machine Sys2Proof.Claims

/-- Settles O1: each word is decoded by evaluation. -/
theorem specWordsDecode : Obligations.SpecWordsDecode := by
  unfold Obligations.SpecWordsDecode
  refine ⟨?_, ?_, ?_, ?_, ?_, ?_, ?_⟩
  all_goals rfl
end Sys2Proof.Proofs.SpecWordsDecode
end
section
/-! SUPPORT. The state after reset. -/
namespace Sys2Proof.Proofs.ResetIsAsTheMapsSay
open Sys2Proof Sys2Proof.Machine Sys2Proof.Claims

/-- Settles O6 -/
theorem resetIsAsTheMapsSay : Obligations.ResetIsAsTheMapsSay := by
  unfold Obligations.ResetIsAsTheMapsSay
  refine ⟨?_, rfl, ?_, ?_, ?_⟩
  · exact ⟨rfl, rfl, rfl, rfl, rfl, rfl, rfl⟩
  · intro n; rfl
  · intro n; rfl
  · decide
end Sys2Proof.Proofs.ResetIsAsTheMapsSay
end

section
/-! SUPPORT. What waits at the head of a queue, and what pops and pushes do to the four FIFOs. -/
namespace Sys2Proof.Proofs.WaitsAndTokens
open Sys2Proof Sys2Proof.Machine Sys2Proof.Claims Sys2Proof.Proofs.DecodeChecksAndTraps

/-! ### Words of local memory taken for the cycle -/

/-- The core after its words are taken; it differs from an idle core, so it stands in the table of cores however that table is made. -/
theorem core_takeWords (s : State) (k : Nat) (ws : List Nat) : (s.takeWords k ws).core k =
    { s.core k with lmAt := s.cycle + 1, lmTaken := (if (s.core k).lmAt = s.cycle + 1 then (s.core k).lmTaken else []) ++ ws } := by
  refine tabGet_set _ _ _ _ fun h => ?_
  have : s.cycle + 1 = 0 := congrArg Core.lmAt h
  omega

theorem core_takeWords_ne (s : State) {k n : Nat} (ws : List Nat) (h : k ≠ n) : (s.takeWords k ws).core n = s.core n :=
  tabGet_set_ne _ _ _ _ _ h

theorem lmUe_takeLm (s : State) (k off n a b : Nat) : ((s.takeLm k off n).core k).lmUe a b = (s.core k).lmUe a b := by
  rw [State.takeLm, core_takeWords]; rfl

/-! ### The records of local memory -/

/-- The LM operand of an instruction: what `LmReads` says of it is what `withLm` hands on. -/
theorem withLm_of_reads {f : Fields} {e : QEntry} {size lo n : Nat} {rd wr : Bool} {s s1 : State} {core off : Nat}
    (h : LmReads f e size lo n rd wr s s1 core off) (k : State → Nat → Nat → QRes) :
    withLm f e size size rd wr s k = k (s.takeLm core off size) core off := by
  simp only [withLm, h.1]

/-- The words that an instruction reads are free of an uncorrectable error: the read counts its errors and goes on. -/
theorem noUe_of_reads {f : Fields} {e : QEntry} {size lo n : Nat} {rd wr : Bool} {s s1 : State} {core off : Nat}
    (h : LmReads f e size lo n rd wr s s1 core off) (k : State → QRes) : noUe (s.takeLm core off size) core (off + lo) n k = k s1 := by
  obtain ⟨-, hue, rfl⟩ := h
  simp only [noUe, lmUe_takeLm, hue, Bool.false_eq_true, if_false]

/-- An LM operand and its read, in one. -/
theorem withLm_noUe {f : Fields} {e : QEntry} {size n : Nat} {rd wr : Bool} {s s1 : State} {core off : Nat}
    (h : LmReads f e size 0 n rd wr s s1 core off) (k : State → Nat → Nat → QRes) :
    withLm f e size size rd wr s (fun s core off => noUe s core off n (fun s => k s core off)) = k s1 core off := by
  rw [withLm_of_reads h]; exact noUe_of_reads h _

/-- The record of a firkin ring that is sound. -/
theorem withRing_of_reads {f : Fields} {e : QEntry} {s s1 : State} {core off : Nat} (h : LmReads f e 64 0 64 true true s s1 core off)
    (hr : srBad (s1.lmRecord core off 64) = false) (k : State → Nat → Nat → BitVec 512 → QRes) :
    withRing f e s k = k s1 core off (s1.lmRecord core off 64) := by
  rw [withRing, withLm_noUe h]; simp only [hr, Bool.false_eq_true, if_false]

theorem withBarrier_of_reads {f : Fields} {e : QEntry} {rd wr : Bool} {lo n : Nat} {s s1 : State} {core off : Nat}
    (h : LmReads f e 32 lo n rd wr s s1 core off) (k : State → Nat → Nat → BitVec 512 → QRes) :
    withBarrier f e rd wr lo n s k = k s1 core off (s1.lmRecord core off 32) := by
  rw [withBarrier, withLm_of_reads h, noUe_of_reads h]

/-! ### Waiting at the head -/

theorem runQueue_waits {i : Instr} {f : Fields} {q : Queue} {sp : ISpec} {e : QEntry} {s : State} {ack : Ack} {body : QEntry → State → QRes}
    (h : headTakes i f q sp e s = true) (hb : body e s = .wait) : runQueue i f ack body s = .next (waits s q e) := by
  rw [runQueue_takes h, hb]; rfl

/-- The issue checks of an engine command pass: its queue decides (R219). -/
theorem issueCmd_of_checks {cmd : Nat} {f : Fields} {e : QEntry} {s s1 : State} {c : Cmd} (h : IssueChecks cmd f e s s1 c)
    (k : State → Cmd → QRes) : issueCmd cmd f e s k = k s1 c := by
  obtain ⟨ps, d, s0, bar, log, h⟩ := h
  dsimp only at h
  obtain ⟨hk, hlim, hal, hps, hbusy, hpois, hs0, hd, hok, hbar, -, rfl⟩ := h
  have hlim' : ¬ e.b.toNat + 64 > hLimit (e.entry f.a) := by omega
  unfold issueCmd
  dsimp only
  rw [hk]
  dsimp only
  rw [if_neg hlim', if_neg (by rw [hal]; decide), hps]
  dsimp only
  rw [if_neg (by rw [hbusy]; decide), hpois]
  dsimp only
  rw [hd, if_neg (by rw [hok]; decide), hs0, hbar]

theorem copyIssue_full {cmd : Nat} {f : Fields} {e : QEntry} {s s1 : State} {c : Cmd} (h : IssueChecks cmd f e s s1 c)
    (hfull : 32 ≤ (s1.core s.myCore).copyq.length) : copyIssue cmd f e s = .wait := by
  have hc : c.core = s.myCore := by obtain ⟨_, _, _, _, _, -, -, -, -, -, -, -, -, -, -, -, rfl⟩ := h; rfl
  simp only [copyIssue, issueCmd_of_checks h, hc, State.copyFull, ge_iff_le, decide_eq_true hfull, if_true]

theorem memoryIssue_full {cmd : Nat} {f : Fields} {e : QEntry} {s s1 : State} {c : Cmd} (h : IssueChecks cmd f e s s1 c)
    (hfull : 64 ≤ (s1.quad (quadOfC f e s)).q.length) : memoryIssue cmd f e s = .wait := by
  simp only [memoryIssue, issueCmd_of_checks h, State.memoryFull, ge_iff_le, decide_eq_true hfull, if_true]

/-- QPUT's packet is read: the queue that its selector names decides (R156). -/
theorem qputPlace_of_reads {f : Fields} {e : QEntry} {s s1 : State} {pkt : BitVec 512} (h : PacketReads f e s s1 pkt)
    (k : Placed → State → QRes) : qputPlace f e s k = k (s1.placePacket f e pkt) s1 := by
  obtain ⟨core, off, htgt, hres, hz1, hz2, hop, hue, rfl, rfl⟩ := h
  have htgt' : ¬ fld e.a 0 3 > 3 := by omega
  have hno : ¬ (fld e.a 0 3 > 3 || e.a.getLsbD 3 || fld e.a 6 10 != 0 || fld e.a 28 36 != 0) = true := by
    simp only [hres, hz1, hz2, decide_eq_false htgt', Bool.or_self, bne_self_eq_false, Bool.false_eq_true, not_false_eq_true]
  simp only [qputPlace, if_neg hno, hop, hue, Bool.false_eq_true, if_false]

theorem queueQuiet_of_open {t : Strand} {q : Queue} (h : ∃ x ∈ t.flight, x.stream = some q ∧ x.endsAt = none) : queueQuiet t q = false := by
  obtain ⟨x, hx, hs, he⟩ := h
  simp only [queueQuiet, Bool.not_eq_false', List.any_eq_true]
  exact ⟨x, hx, by simp [hs, he]⟩

theorem bgbarHoldBody_waits {f : Fields} {e : QEntry} {s : State} {fs : List Nat}
    (hk : hCheck (e.entry f.a) (stripe (e.entry f.a)) false true = none) (hh : s.holds.length < 16)
    (hfs : s.coveredFurlongs (e.entry f.a) = .ok fs)
    (hr : ∃ x ∈ s.quads, ∃ c ∈ x.2.q, (c.accepted ≤ e.waiting.getD s.cycle ∨ c.started = true) ∧ ∃ r ∈ s.cmdReads c, r ∈ fs) :
    bgbarHoldBody f e s = .wait := by
  obtain ⟨x, hx, c, hc, hat, r, hr, hrf⟩ := hr
  have hany : s.quads.any (fun x => x.2.q.any (fun c => (c.accepted ≤ e.waiting.getD s.cycle || c.started) &&
      (s.cmdReads c).any (fun r => fs.contains r))) = true := by
    refine List.any_eq_true.2 ⟨x, hx, List.any_eq_true.2 ⟨c, hc, Bool.and_eq_true_iff.2 ⟨by simpa using hat, ?_⟩⟩⟩
    exact List.any_eq_true.2 ⟨r, hr, by simpa using hrf⟩
  have hh' : ¬ s.holds.length ≥ 16 := by omega
  unfold bgbarHoldBody
  dsimp only
  rw [hk]
  dsimp only
  rw [if_neg hh', hfs]
  exact if_pos hany

/-! ### Tokens -/

/-- A head without its tokens does not issue (R83). -/
theorem headReady_noTokens {lg : Bool} {t : Strand} {cyc : Nat} {q : Queue} {i : Instr} {tk : BitVec 4} {r : Route} {e : QEntry}
    (h : t.tokensReady q tk = false) : headReady lg t cyc q i tk r e = false := by
  unfold headReady
  rw [h]
  simp only [Bool.and_false, Bool.false_and]

theorem runQueue_notReady {i : Instr} {f : Fields} {q : Queue} {sp : ISpec} {e : QEntry} {r : List QEntry} {s : State} {ack : Ack}
    {body : QEntry → State → QRes} (hsp : ispec i = some sp) (ha : s.acting = .queue q) (hq : s.me.queue q = e :: r)
    (h : headReady s.lgEn s.me s.cycle q i f.tk sp.route e = false) : runQueue i f ack body s = .next s := by
  simp only [runQueue, ha, hsp, hq, h, Bool.not_false, if_true]

/-- An instruction that runs from a queue, without its tokens: the state stays (R83). -/
theorem exec_noTokens {i : Instr} {f : Fields} {sp : ISpec} {q : Queue} {e : QEntry} {r : List QEntry} {s : State} (hf : instrFields i = some f)
    (hsp : ispec i = some sp) (ha : s.acting = .queue q) (hq : s.me.queue q = e :: r)
    (htk : s.me.tokensReady q f.tk = false) : exec i s = .next s := by
  rcases exec_atFront hf s with ⟨fmt, body, h⟩ | ⟨ack, body, h⟩ | ⟨⟨body, h⟩, hroute⟩
  · rw [h]; simp [runFront, hsp, ha]
  · rw [h, runQueue_notReady hsp ha hq (headReady_noTokens htk)]
  · have hpops : s.me.tokensReady q (popsOnly f).tk = s.me.tokensReady q f.tk := by
      simp [Strand.tokensReady, popsOnly]
    rw [h, runQueue_notReady hsp ha hq (headReady_noTokens (hpops.trans htk))]

theorem popTokens_eq (t : Strand) (tk : BitVec 4) :
    let n (k : Nat) : Nat := if tk.getLsbD k then 1 else 0
    t.popTokens .L tk = { t with tcl := t.tcl - n 2, seen := { t.seen with cl := t.seen.cl.drop (n 2) } } ∧
    t.popTokens .C tk = { t with tlc := t.tlc - n 3, tsc := t.tsc - n 2
                                 seen := { t.seen with lc := t.seen.lc.drop (n 3), sc := t.seen.sc.drop (n 2) } } ∧
    t.popTokens .S tk = { t with tcs := t.tcs - n 3, seen := { t.seen with cs := t.seen.cs.drop (n 3) } } := by
  cases h3 : tk.getLsbD 3 <;> cases h2 : tk.getLsbD 2 <;>
    simp only [Strand.popTokens, Strand.popOne, h3, h2, Bool.false_eq_true, if_true, if_false, List.drop_one, List.drop_zero, Nat.sub_zero, and_self]

theorem pushTokens_room (t : Strand) (tk : BitVec 4) (k : Clock) (hlc : t.tlc < 8) (hcl : t.tcl < 8) (hcs : t.tcs < 8) (hsc : t.tsc < 8) :
    let n (x : Nat) : Nat := if tk.getLsbD x then 1 else 0
    let l (x : Nat) : List Clock := if tk.getLsbD x then [k] else []
    t.pushTokens .L tk k = ({ t with tlc := t.tlc + n 0, seen := { t.seen with lc := t.seen.lc ++ l 0 } }, false) ∧
    t.pushTokens .C tk k = ({ t with tcl := t.tcl + n 1, tcs := t.tcs + n 0
                                     seen := { t.seen with cl := t.seen.cl ++ l 1, cs := t.seen.cs ++ l 0 } }, false) ∧
    t.pushTokens .S tk k = ({ t with tsc := t.tsc + n 1, seen := { t.seen with sc := t.seen.sc ++ l 1 } }, false) := by
  cases h1 : tk.getLsbD 1 <;> cases h0 : tk.getLsbD 0 <;>
    simp only [Strand.pushTokens, Strand.pushOne, h1, h0, hlc, hcl, hcs, hsc, Bool.false_eq_true, if_true, if_false, Option.getD_some,
      Option.isNone_some, Bool.or_self, List.append_nil, Nat.add_zero, and_self]

theorem pushTokens_full (t : Strand) (k : Clock) : (8 ≤ t.tlc → t.pushTokens .L 1 k = (t, true)) ∧ (8 ≤ t.tcl → t.pushTokens .C 2 k = (t, true)) ∧
    (8 ≤ t.tcs → t.pushTokens .C 1 k = (t, true)) ∧ (8 ≤ t.tsc → t.pushTokens .S 2 k = (t, true)) := by
  refine ⟨fun h => ?_, fun h => ?_, fun h => ?_, fun h => ?_⟩ <;>
    simp [Strand.pushTokens, Strand.pushOne, Nat.not_lt.2 h]

/-- Settles O11: an instruction that waits answers `wait` to the head of its queue, and a head without its tokens is not ready; the pops and
pushes are read off the four FIFOs. -/
theorem waitsAndTokens : Obligations.WaitsAndTokens := by
  unfold Obligations.WaitsAndTokens
  refine ⟨⟨?ldfe, ?semwait, ?sracq, ?srtake, ?bararr, ?barwait, ?others, ?qput, ?copy, ?memory, ?hold⟩, ?tokens, popTokens_eq, pushTokens_room,
    pushTokens_full⟩
  case ldfe =>
    intro f q sp e s s1 core off h hr hfull hfl
    refine runQueue_waits (i := .ldfe f) h ?_
    rw [ldfeBody, withLm_noUe hr]
    simp only [hfull, hfl, Bool.false_eq_true, if_false]
    rfl
  case semwait =>
    intro f q sp e s s1 core off h hr hlow
    refine runQueue_waits (i := .semwait f) h ?_
    rw [semwaitBody, withLm_noUe hr]
    exact if_neg (Nat.not_le.2 hlow)
  case sracq =>
    intro f q sp e s s1 core off h hr r hbad hst
    refine runQueue_waits (i := .sracq f) h ?_
    rw [sracqBody, withRing_of_reads hr hbad]
    exact if_pos (bne_iff_ne.2 hst)
  case srtake =>
    intro f q sp e s s1 core off h hr r hbad hst
    refine runQueue_waits (i := .srtake f) h ?_
    rw [srtakeBody, withRing_of_reads hr hbad]
    exact if_pos (bne_iff_ne.2 hst)
  case bararr =>
    intro f q sp e s s1 core off h hr hall
    refine runQueue_waits (i := .bararr f) h ?_
    rw [bararrBody, withBarrier_of_reads hr]
    exact if_pos hall
  case barwait =>
    intro f q sp e s s1 core off h hr hph
    refine runQueue_waits (i := .barwait f) h ?_
    rw [barwaitBody, withBarrier_of_reads hr]
    exact if_pos (by rw [hph, low32, BitVec.toNat_setWidth])
  case others =>
    intro f q sp e s
    refine ⟨fun h hp => ?_, fun h hp => ?_, fun h hp => ?_, fun h hp => ?_⟩
    · exact runQueue_waits (i := .qfence f) h (if_pos hp)
    · exact runQueue_waits (i := .bgfence f) h (if_pos hp)
    · exact runQueue_waits (i := .mscale f) h (if_pos hp)
    · exact runQueue_waits (i := .pubx f) h (if_pos (by rw [queueQuiet_of_open hp]; rfl))
  case qput =>
    intro f q sp e s s1 pkt h hr hfull
    refine runQueue_waits (i := .qput f) h ?_
    rw [qputBody, qputPlace_of_reads hr, hfull]
  case copy =>
    intro op hop f q sp e s s1 c h hc hfull
    simp only [copyCommands, List.mem_cons, List.not_mem_nil, or_false] at hop
    rcases hop with rfl | rfl | rfl | rfl | rfl <;> exact runQueue_waits h (copyIssue_full hc hfull)
  case memory =>
    intro op hop f q sp e s s1 c h hc hfull
    simp only [memoryCommands, List.mem_cons, List.not_mem_nil, or_false] at hop
    rcases hop with rfl | rfl | rfl | rfl | rfl <;> exact runQueue_waits h (memoryIssue_full hc hfull)
  case hold =>
    intro f q sp e s fs h hk hh hfs hr
    exact runQueue_waits (i := .bgbarHold f) h (bgbarHoldBody_waits hk hh hfs hr)
  case tokens =>
    intro i f q e r s hf ⟨sp, hsp, _⟩ ha hq htk
    exact exec_noTokens hf hsp ha hq htk

end Sys2Proof.Proofs.WaitsAndTokens
end

section
/-! SUPPORT. The integer results: each of R116's, as the model computes it on numbers, is the operation on W-bit words. -/
namespace Sys2Proof.Proofs.IntegerResults
open Sys2Proof Sys2Proof.Machine Sys2Proof.Claims Sys2Proof.Proofs.MemoryIsReadAsWritten

variable {w : Nat}

/-! ### Signed values and wrapping -/

theorem toSigned_eq (w n : Nat) : toSigned w n = (BitVec.ofNat w n).toInt := by
  unfold toSigned
  rcases Nat.eq_zero_or_pos w with rfl | hw
  · simp [BitVec.eq_nil (BitVec.ofNat 0 n), Nat.mod_one]
  · have h2 : 2 ^ w = 2 * 2 ^ (w - 1) := by rw [← Nat.pow_succ']; congr; omega
    rw [BitVec.toInt_eq_toNat_cond, BitVec.toNat_ofNat]
    simp only [ge_iff_le]
    split <;> split <;> first | rfl | omega

theorem ofNat_toNat_self (a : BitVec w) : BitVec.ofNat w a.toNat = a := by rw [BitVec.ofNat_toNat, BitVec.setWidth_eq]

theorem toSigned_toNat (a : BitVec w) : toSigned w a.toNat = a.toInt := by rw [toSigned_eq, BitVec.ofNat_toNat, BitVec.setWidth_eq]

theorem wrapTo_eq (w : Nat) (n : Int) : wrapTo w n = (BitVec.ofInt w n).toNat := by
  simp [wrapTo, BitVec.toNat_ofInt]

theorem ofNat_wrapTo (w : Nat) (n : Int) : BitVec.ofNat w (wrapTo w n) = BitVec.ofInt w n := by
  rw [wrapTo_eq, BitVec.ofNat_toNat, BitVec.setWidth_eq]

/-- Ext of a result (R114). -/
theorem extInt_eq (F : Fmt) (n : Nat) : extInt F n = ext F (BitVec.ofNat F.width n) := by
  unfold extInt ext
  rw [toSigned_eq]
  split
  · rfl
  · exact BitVec.eq_of_toNat_eq (by simp)

/-! ### The two-operand instructions (R116, R117) -/

theorem ofNat_addR (a b : BitVec w) : BitVec.ofNat w (addR w a.toNat b.toNat) = a + b := by
  rw [addR, ofNat_wrapTo, ← Int.natCast_add, BitVec.ofInt_natCast, BitVec.ofNat_add, ofNat_toNat_self, ofNat_toNat_self]
theorem ofNat_subR (a b : BitVec w) : BitVec.ofNat w (subR w a.toNat b.toNat) = a - b := by
  rw [subR, ofNat_wrapTo, Int.sub_eq_add_neg, BitVec.ofInt_add, BitVec.ofInt_neg, BitVec.ofInt_natCast, BitVec.ofInt_natCast,
    ofNat_toNat_self, ofNat_toNat_self, BitVec.sub_eq_add_neg]
theorem ofNat_mulR (a b : BitVec w) : BitVec.ofNat w (mulR w a.toNat b.toNat) = a * b :=
  BitVec.eq_of_toNat_eq (by simp [mulR])
theorem ofNat_mulhuR (a b : BitVec w) : BitVec.ofNat w (mulhuR w a.toNat b.toNat) = (a.setWidth (2 * w) * b.setWidth (2 * w)).extractLsb' w w := by
  have h2 : (2 : Nat) ^ (2 * w) = 2 ^ w * 2 ^ w := by rw [Nat.two_mul, Nat.pow_add]
  have hab : a.toNat * b.toNat < 2 ^ (2 * w) := h2 ▸ Nat.mul_lt_mul'' a.isLt b.isLt
  have hle : 2 ^ w ≤ 2 ^ (2 * w) := Nat.pow_le_pow_right (by decide) (by omega)
  refine BitVec.eq_of_toNat_eq ?_
  simp [mulhuR, BitVec.extractLsb'_toNat, Nat.shiftRight_eq_div_pow, Nat.mod_eq_of_lt hab, Nat.mod_eq_of_lt (Nat.lt_of_lt_of_le a.isLt hle),
    Nat.mod_eq_of_lt (Nat.lt_of_lt_of_le b.isLt hle)]
/-- Bits `[2m-1:m]` of a number in two's complement, where `M` is `2^m`. -/
theorem emod_mul_ediv (p : Int) {M : Int} (h : 0 < M) : p % (M * M) / M = p / M % M := by
  rw [Int.emod_def, Int.emod_def, ← Int.ediv_ediv_of_nonneg (Int.le_of_lt h), Int.mul_assoc, Int.sub_eq_add_neg, ← Int.mul_neg,
    Int.add_mul_ediv_left _ _ (Int.ne_of_gt h), ← Int.sub_eq_add_neg]
theorem extractLsb'_ofInt (w : Nat) (p : Int) : (BitVec.ofInt (2 * w) p).extractLsb' w w = BitVec.ofInt w (p / 2 ^ w) := by
  have hpos : (0 : Int) < 2 ^ w := Int.pow_pos (by decide)
  have h2 : (2 : Int) ^ (2 * w) = 2 ^ w * 2 ^ w := by rw [Nat.two_mul, Int.pow_add]
  refine BitVec.eq_of_toNat_eq (Int.natCast_inj.1 ?_)
  rw [BitVec.extractLsb'_toNat, Nat.shiftRight_eq_div_pow, BitVec.toNat_ofInt, BitVec.toNat_ofInt]
  push_cast
  rw [h2, Int.toNat_of_nonneg (Int.emod_nonneg _ (Int.ne_of_gt (Int.mul_pos hpos hpos))), Int.toNat_of_nonneg (Int.emod_nonneg _ (Int.ne_of_gt hpos)),
    emod_mul_ediv p hpos, Int.emod_emod]
theorem ofNat_mulhsR (a b : BitVec w) : BitVec.ofNat w (mulhsR w a.toNat b.toNat) =
    (a.signExtend (2 * w) * b.signExtend (2 * w)).extractLsb' w w := by
  rw [mulhsR, ofNat_wrapTo, toSigned_toNat, toSigned_toNat, BitVec.signExtend, BitVec.signExtend, ← BitVec.ofInt_mul, extractLsb'_ofInt]
theorem ofNat_divuR (a b : BitVec w) : BitVec.ofNat w (divuR w a.toNat b.toNat) = if b = 0 then BitVec.allOnes w else a / b := by
  by_cases hb : b = 0
  · subst hb; exact BitVec.eq_of_toNat_eq (by simp [divuR])
  · have hb' : b.toNat ≠ 0 := fun h => hb (BitVec.eq_of_toNat_eq (by simpa using h))
    rw [divuR, if_neg hb', if_neg hb]
    exact BitVec.eq_of_toNat_eq (Nat.mod_eq_of_lt (Nat.lt_of_le_of_lt (Nat.div_le_self _ _) a.isLt))
theorem ofNat_remuR (a b : BitVec w) : BitVec.ofNat w (remuR w a.toNat b.toNat) = if b = 0 then a else a % b := by
  by_cases hb : b = 0
  · subst hb; exact BitVec.eq_of_toNat_eq (by simp [remuR])
  · have hb' : b.toNat ≠ 0 := fun h => hb (BitVec.eq_of_toNat_eq (by simpa using h))
    rw [remuR, if_neg hb', if_neg hb]
    exact BitVec.eq_of_toNat_eq (Nat.mod_eq_of_lt (Nat.lt_of_le_of_lt (Nat.mod_le _ _) a.isLt))
theorem ofNat_divsR (a b : BitVec w) : BitVec.ofNat w (divsR w a.toNat b.toNat) = if b = 0 then BitVec.allOnes w else a.sdiv b := by
  by_cases hb : b = 0
  · subst hb; exact BitVec.eq_of_toNat_eq (by simp [divsR])
  · have hb' : b.toNat ≠ 0 := fun h => hb (BitVec.eq_of_toNat_eq (by simpa using h))
    rw [divsR, if_neg hb', if_neg hb, ofNat_wrapTo, toSigned_toNat, toSigned_toNat]
    exact BitVec.eq_of_toInt_eq (by rw [BitVec.toInt_ofInt, BitVec.toInt_sdiv])
theorem ofNat_remsR (a b : BitVec w) : BitVec.ofNat w (remsR w a.toNat b.toNat) = if b = 0 then a else a.srem b := by
  by_cases hb : b = 0
  · subst hb; exact BitVec.eq_of_toNat_eq (by simp [remsR])
  · have hb' : b.toNat ≠ 0 := fun h => hb (BitVec.eq_of_toNat_eq (by simpa using h))
    rw [remsR, if_neg hb', if_neg hb, ofNat_wrapTo, toSigned_toNat, toSigned_toNat, ← BitVec.toInt_srem, BitVec.ofInt_toInt]
theorem ofNat_andR (a b : BitVec w) : BitVec.ofNat w (andR w a.toNat b.toNat) = a &&& b := by simp [andR, ← BitVec.toNat_and]
theorem ofNat_orR (a b : BitVec w) : BitVec.ofNat w (orR w a.toNat b.toNat) = a ||| b := by simp [orR, ← BitVec.toNat_or]
theorem ofNat_xorR (a b : BitVec w) : BitVec.ofNat w (xorR w a.toNat b.toNat) = a ^^^ b := by simp [xorR, ← BitVec.toNat_xor]
theorem ofNat_andnR (a b : BitVec w) : BitVec.ofNat w (andnR w a.toNat b.toNat) = a &&& ~~~b := by
  rw [andnR, ← BitVec.toNat_not, ← BitVec.toNat_and, ofNat_toNat_self]
theorem ofNat_shlR (a b : BitVec w) : BitVec.ofNat w (shlR w a.toNat b.toNat) = a <<< (b.toNat % w) := by
  rw [shlR, ← BitVec.toNat_shiftLeft, ofNat_toNat_self]
theorem ofNat_shrlR (a b : BitVec w) : BitVec.ofNat w (shrlR w a.toNat b.toNat) = a >>> (b.toNat % w) := by
  rw [shrlR, ← BitVec.toNat_ushiftRight, ofNat_toNat_self]
theorem ofNat_shraR (a b : BitVec w) : BitVec.ofNat w (shraR w a.toNat b.toNat) = a.sshiftRight (b.toNat % w) := by
  rw [shraR, ofNat_wrapTo, toSigned_toNat]
  exact BitVec.eq_of_toInt_eq (by rw [← BitVec.ofInt_toInt (x := a.sshiftRight _), BitVec.toInt_sshiftRight, Int.shiftRight_eq_div_pow]; rfl)
theorem ofNat_rotlR (a b : BitVec w) : BitVec.ofNat w (rotlR w a.toNat b.toNat) = a.rotateLeft (b.toNat % w) := by
  refine BitVec.eq_of_toNat_eq ?_
  rw [rotlR, BitVec.toNat_rotateLeft, Nat.mod_mod, BitVec.toNat_ofNat, Nat.mod_mod, Nat.or_mod_two_pow,
    Nat.mod_eq_of_lt (a := a.toNat >>> _) (Nat.lt_of_le_of_lt (Nat.shiftRight_le _ _) a.isLt)]
theorem ofNat_minR (a b : BitVec w) : BitVec.ofNat w (minR w a.toNat b.toNat) = if a.sle b then a else b := by
  simp only [minR, toSigned_toNat, BitVec.sle_iff_toInt_le]; split <;> simp
theorem ofNat_maxR (a b : BitVec w) : BitVec.ofNat w (maxR w a.toNat b.toNat) = if a.sle b then b else a := by
  simp only [maxR, toSigned_toNat, BitVec.sle_iff_toInt_le]; split <;> simp
theorem ofNat_minuR (a b : BitVec w) : BitVec.ofNat w (minuR w a.toNat b.toNat) = if a ≤ b then a else b := by
  simp only [minuR, BitVec.le_def]; split <;> simp
theorem ofNat_maxuR (a b : BitVec w) : BitVec.ofNat w (maxuR w a.toNat b.toNat) = if a ≤ b then b else a := by
  simp only [maxuR, BitVec.le_def]; split <;> simp
theorem ofNat_sextR (a b : BitVec w) : BitVec.ofNat w (sextR w a.toNat b.toNat) =
    (a.setWidth (if b.toNat % w = 0 then w else b.toNat % w)).signExtend w := by
  rw [sextR, ofNat_wrapTo, toSigned_eq, BitVec.ofNat_toNat]; rfl
theorem ofNat_zextR (a b : BitVec w) : BitVec.ofNat w (zextR w a.toNat b.toNat) =
    (a.setWidth (if b.toNat % w = 0 then w else b.toNat % w)).setWidth w := by
  exact BitVec.eq_of_toNat_eq (by simp [zextR])

/-! ### The one-operand instructions (R116, R118) -/

/-- The leading zeros above the highest one bit, `m`. -/
theorem clzAuxRec_of_top (x : BitVec w) {m : Nat} (hm : x.getLsbD m = true) (n : Nat) (hmn : m ≤ n)
    (hz : ∀ i, m < i → x.getLsbD i = false) : x.clzAuxRec n = BitVec.ofNat w (w - 1 - m) := by
  induction n with
  | zero => obtain rfl : m = 0 := by omega
            simp [BitVec.clzAuxRec, hm]
  | succ n ih =>
    rw [BitVec.clzAuxRec_succ]
    rcases Nat.lt_or_eq_of_le hmn with hlt | rfl
    · rw [hz _ hlt, ih (by omega)]; rfl
    · rw [hm]; simp
theorem clz_of_top (x : BitVec w) {m : Nat} (hm : x.getLsbD m = true) (hz : ∀ i, m < i → x.getLsbD i = false) :
    x.clz = BitVec.ofNat w (w - 1 - m) :=
  clzAuxRec_of_top x hm _ (by have := BitVec.lt_of_getLsbD hm; omega) hz
theorem clz_zero : (0#w).clz = BitVec.ofNat w w := by
  rw [BitVec.clz]
  generalize w - 1 = n
  induction n with
  | zero => simp [BitVec.clzAuxRec]
  | succ n ih => simp [BitVec.clzAuxRec, ih]

theorem ofNat_clzR (a : BitVec w) : BitVec.ofNat w (clzR w a.toNat) = a.clz := by
  by_cases ha : a.toNat = 0
  · rw [clzR, if_pos ha, BitVec.eq_of_toNat_eq (x := a) (y := 0#w) (by simpa using ha), clz_zero]
  · rw [clzR, if_neg ha]
    refine (clz_of_top a (Nat.testBit_log2 ha) fun i hi => ?_).symm
    exact Nat.testBit_lt_two_pow ((Nat.log2_lt ha).1 hi)

/-- A number and its complement have only the lowest one bit in common. -/
theorem and_two_pow_sub (a k : Nat) (ha : a < 2 ^ w) (hk : a.testBit k = true) (hz : ∀ i < k, a.testBit i = false) : a &&& (2 ^ w - a) = 2 ^ k := by
  have hkw : k < w := Nat.lt_of_not_le fun h => by
    rw [Nat.testBit_lt_two_pow (Nat.lt_of_lt_of_le ha (Nat.pow_le_pow_right (by decide) h))] at hk; cases hk
  have hlow : a % 2 ^ k = 0 := Nat.eq_of_testBit_eq fun i => by
    rw [Nat.testBit_mod_two_pow, Nat.zero_testBit]
    by_cases hi : i < k <;> simp [hi, hz]
  obtain ⟨m, hm⟩ : ∃ m, a / 2 ^ k = 2 * m + 1 := ⟨a / 2 ^ k / 2, by
    have : a / 2 ^ k % 2 = 1 := by simpa [Nat.testBit_eq_decide_div_mod_eq] using hk
    omega⟩
  have ha' : a = 2 ^ k * (2 * m + 1) := by rw [← hm, Nat.mul_comm, Nat.div_mul_cancel (Nat.dvd_of_mod_eq_zero hlow)]
  have hpow : 2 ^ w = 2 ^ k * 2 ^ (w - k) := by rw [← Nat.pow_add]; congr 1; omega
  have hlt : 2 * m < 2 ^ (w - k) := by
    have : 2 ^ k * (2 * m + 1) < 2 ^ k * 2 ^ (w - k) := by rw [← ha', ← hpow]; exact ha
    have := Nat.lt_of_mul_lt_mul_left this
    omega
  refine Nat.eq_of_testBit_eq fun i => ?_
  rw [ha', hpow, ← Nat.mul_sub, Nat.testBit_and, Nat.testBit_two_pow_mul, Nat.testBit_two_pow_mul, Nat.testBit_two_pow_sub_succ hlt,
    Nat.testBit_two_pow]
  by_cases hik : k ≤ i
  · obtain ⟨j, rfl⟩ := Nat.exists_eq_add_of_le hik
    cases j with
    | zero => simp [hkw, Nat.sub_pos_of_lt hkw]
    | succ j => simpa [Nat.testBit_succ, show (2 * m + 1) / 2 = m by omega] using fun h _ => h
  · have : k ≠ i := by omega
    simp [hik, this]

/-- The lowest one bit of a number. -/
theorem exists_lowest_bit {a : Nat} (k : Nat) (hk : a.testBit k = true) : ∃ m, a.testBit m = true ∧ ∀ i < m, a.testBit i = false := by
  induction k using Nat.strongRecOn with
  | ind k ih =>
    by_cases h : ∃ i < k, a.testBit i = true
    · obtain ⟨i, hi, hb⟩ := h
      exact ih i hi hb
    · exact ⟨k, hk, fun i hi => Bool.eq_false_iff.2 fun hb => h ⟨i, hi, hb⟩⟩
theorem ofNat_ctzR (a : BitVec w) : BitVec.ofNat w (ctzR w a.toNat) = a.ctz := by
  by_cases ha : a.toNat = 0
  · rw [ctzR, if_pos ha, BitVec.eq_of_toNat_eq (x := a) (y := 0#w) (by simpa using ha), BitVec.ctz]
    have : (0#w).reverse = 0#w := by simp
    rw [this, clz_zero]
  · obtain ⟨k0, hk0⟩ := Nat.exists_testBit_of_ne_zero ha
    obtain ⟨k, hk, hz⟩ := exists_lowest_bit k0 hk0
    have hw := BitVec.lt_of_getLsbD hk
    rw [ctzR, if_neg ha, and_two_pow_sub _ _ a.isLt hk hz, Nat.log2_two_pow, BitVec.ctz,
      clz_of_top (m := w - 1 - k) _ ?top ?above]
    · congr 1; omega
    case top =>
      rw [BitVec.getLsbD_reverse, BitVec.getMsbD_eq_getLsbD]
      simp only [BitVec.getLsbD, show w - 1 - (w - 1 - k) = k by omega, hk, Bool.and_true, decide_eq_true_eq]
      omega
    case above =>
      intro i hi
      rw [BitVec.getLsbD_reverse, BitVec.getMsbD_eq_getLsbD, Bool.and_eq_false_imp]
      intro hiw
      exact hz _ (by have := of_decide_eq_true hiw; omega)

theorem cpopNatRec_eq_countP (a : BitVec w) (n acc : Nat) : a.cpopNatRec n acc = acc + (List.range n).countP (fun k => a.toNat.testBit k) := by
  induction n generalizing acc with
  | zero => simp [BitVec.cpopNatRec]
  | succ n ih => rw [BitVec.cpopNatRec_succ, ih, List.range_succ, List.countP_append, BitVec.getLsbD]
                 cases h : a.toNat.testBit n <;> simp [h, Nat.add_comm, Nat.add_left_comm]
theorem ofNat_popcR (a : BitVec w) : BitVec.ofNat w (popcR w a.toNat) = a.cpop := by
  rw [BitVec.cpop, cpopNatRec_eq_countP, Nat.zero_add, popcR]
theorem ofNat_absR (a : BitVec w) : BitVec.ofNat w (absR w a.toNat) = a.abs := by
  refine BitVec.eq_of_toNat_eq ?_
  rw [absR, toSigned_toNat, BitVec.toNat_ofNat, BitVec.toNat_abs, Nat.mod_mod, BitVec.toInt_eq_msb_cond]
  have hlt := a.isLt
  cases hm : a.msb with
  | false => simp
  | true =>
    have hpos : 0 < a.toNat := Nat.pos_of_ne_zero fun h0 => by
      rw [BitVec.eq_of_toNat_eq (x := a) (y := 0#w) (by simpa using h0)] at hm; simp at hm
    rw [if_pos rfl, if_pos rfl, show ((a.toNat : Int) - (2 ^ w : Nat)).natAbs = 2 ^ w - a.toNat by omega]
    exact Nat.mod_eq_of_lt (by omega)

theorem getElem?_leBytes (n v j : Nat) (h : j < n) : (leBytes n v)[j]? = some (BitVec.ofNat 8 (v / 256 ^ j)) := by
  induction n generalizing v j with
  | zero => omega
  | succ n ih =>
    cases j with
    | zero => simp [leBytes]
    | succ j => rw [leBytes, List.getElem?_cons_succ, ih _ _ (by omega), Nat.div_div_eq_div_mul, Nat.pow_succ']

/-- The bytes of a word in reverse order, the byte of `8 * k` from the other end. -/
theorem bswapR_byte (a : BitVec w) (hw : w = 8 * (w / 8)) {k : Nat} (hk : k < w / 8) :
    (BitVec.ofNat w (bswapR w a.toNat)).extractLsb' (8 * k) 8 = a.extractLsb' (w - 8 - 8 * k) 8 := by
  refine BitVec.eq_of_getLsbD_eq fun i hi => ?_
  have hlen : (leBytes (w / 8) a.toNat).length = w / 8 := length_leBytes _ _
  have hbyte : ∀ j < w / 8, (leBytes (w / 8) a.toNat)[j]? = some (BitVec.ofNat 8 (a.toNat / 256 ^ j)) := fun j hj => getElem?_leBytes _ _ _ hj
  rw [BitVec.getLsbD_extractLsb', BitVec.getLsbD_extractLsb', BitVec.getLsbD_ofNat, bswapR, testBit_leNat,
    show (8 * k + i) / 8 = k by omega, show (8 * k + i) % 8 = i by omega, List.getElem?_reverse (by omega), hlen, hbyte _ (by omega),
    Option.getD_some, BitVec.getLsbD_ofNat, show 256 = 2 ^ 8 from rfl, ← Nat.pow_mul, ← Nat.shiftRight_eq_div_pow, Nat.testBit_shiftRight,
    show 8 * (w / 8 - 1 - k) + i = w - 8 - 8 * k + i by omega]
  simp only [decide_eq_true hi, decide_eq_true (show 8 * k + i < w by omega), Bool.true_and, BitVec.getLsbD]

/-! ### The instructions -/

theorem toNat_mod_width (a : Word) (w : Nat) : a.toNat % 2 ^ w = (a.setWidth w).toNat := (BitVec.toNat_setWidth w a).symm

/-- A two-operand integer instruction, by its result on words of the format's width. -/
theorem intTwo_eq {f : Fields} {F : Fmt} (hF : fieldFmt f = some F) {r : Nat → Nat → Nat → Nat} {op : (w : Nat) → BitVec w → BitVec w → BitVec w}
    (h : ∀ w (a b : BitVec w), BitVec.ofNat w (r w a.toNat b.toNat) = op w a b) (v : Vals) (s : State) :
    intTwo f r v s = .done s (dstVal s f.d (ext F (op F.width (v.a.setWidth F.width) (v.b.setWidth F.width)))) 0 := by
  have hfmt : intFmt f = F := by rw [intFmt, hF]; rfl
  simp only [intTwo, intWidth, hfmt, toNat_mod_width, extInt_eq, h]

theorem intOne_eq {f : Fields} {F : Fmt} (hF : fieldFmt f = some F) (r : Nat → Nat → Nat) (v : Vals) (s : State) :
    intOne f r v s = .done s (dstVal s f.d (ext F (BitVec.ofNat F.width (r F.width (v.a.setWidth F.width).toNat)))) 0 := by
  have hfmt : intFmt f = F := by rw [intFmt, hF]; rfl
  simp only [intOne, intWidth, hfmt, toNat_mod_width, extInt_eq]

/-- The front takes a two-operand integer instruction. -/
theorem runFront_intTwo {i : Instr} {f : Fields} {F : Fmt} {s s1 : State} {v : Vals} {r : Nat → Nat → Nat → Nat}
    {op : (w : Nat) → BitVec w → BitVec w → BitVec w} (hF : fieldFmt f = some F) (hrun : FrontRuns i f (some F) s s1 v)
    (h : ∀ w (a b : BitVec w), BitVec.ofNat w (r w a.toNat b.toNat) = op w a b) :
    runFront i f (fieldFmt f) (intTwo f r) s = .next (frontEnds f v s1 s1.passed
      (dstVal s1.passed f.d (ext F (op F.width (v.a.setWidth F.width) (v.b.setWidth F.width)))) 0) := by
  rw [hF]; exact runFront_done hrun.1 hrun.2 (intTwo_eq hF h v _)
theorem runFront_intOne {i : Instr} {f : Fields} {F : Fmt} {s s1 : State} {v : Vals} {r : Nat → Nat → Nat}
    (hF : fieldFmt f = some F) (hrun : FrontRuns i f (some F) s s1 v) :
    runFront i f (fieldFmt f) (intOne f r) s = .next (frontEnds f v s1 s1.passed
      (dstVal s1.passed f.d (ext F (BitVec.ofNat F.width (r F.width (v.a.setWidth F.width).toNat)))) 0) := by
  rw [hF]; exact runFront_done hrun.1 hrun.2 (intOne_eq hF r v _)

/-- The format that the front lets pass is one of the instruction's formats (R102). -/
theorem fmtOk_of_frontTakes {i : Instr} {f : Fields} {s : State} {sp : ISpec} (h : frontTakes i f s = true) (hsp : ispec i = some sp) :
    sp.fmtOk = true := by
  obtain ⟨-, -, sp', hsp', hstop⟩ := (frontTakes_iff i f s).1 h
  obtain rfl : sp' = sp := Option.some.inj (hsp'.symm.trans hsp)
  cases hfmt : sp'.fmtOk with
  | true => rfl
  | false => simp [decodeStop, decodeFault, upperOk, hfmt] at hstop

/-- The four scalar integer formats hold whole bytes. -/
theorem width_int4s {f : Fields} {F : Fmt} (hF : fieldFmt f = some F) (h : fmtIn Fmt.int4s f = true) : F.width = 8 * (F.width / 8) := by
  simp only [fmtIn, hF, Fmt.int4s, List.contains_eq_mem, decide_eq_true_eq, List.mem_cons, List.not_mem_nil, or_false] at h
  rcases h with rfl | rfl | rfl | rfl <;> rfl

/-- Settles O12: the result of each instruction on numbers is the operation on words of W bits (`ofNat_addR` and its like), and the front ends it
with Ext of that. -/
theorem integerResults : Obligations.IntegerResults := by
  unfold Obligations.IntegerResults
  refine ⟨?two, ?one, ?bswap⟩
  case two =>
    intro op hop f s s1 v F hF hrun
    simp only [intTwoOps, List.mem_cons, List.not_mem_nil, or_false] at hop
    rcases hop with rfl | rfl | rfl | rfl | rfl | rfl | rfl | rfl | rfl | rfl | rfl | rfl | rfl | rfl | rfl | rfl | rfl | rfl | rfl | rfl | rfl |
      rfl | rfl
    · exact runFront_intTwo hF hrun fun w => ofNat_addR
    · exact runFront_intTwo hF hrun fun w => ofNat_subR
    · exact runFront_intTwo hF hrun fun w => ofNat_mulR
    · exact runFront_intTwo hF hrun fun w => ofNat_mulhuR
    · exact runFront_intTwo hF hrun fun w => ofNat_mulhsR
    · exact runFront_intTwo hF hrun fun w => ofNat_divuR
    · exact runFront_intTwo hF hrun fun w => ofNat_divsR
    · exact runFront_intTwo hF hrun fun w => ofNat_remuR
    · exact runFront_intTwo hF hrun fun w => ofNat_remsR
    · exact runFront_intTwo hF hrun fun w => ofNat_andR
    · exact runFront_intTwo hF hrun fun w => ofNat_orR
    · exact runFront_intTwo hF hrun fun w => ofNat_xorR
    · exact runFront_intTwo hF hrun fun w => ofNat_andnR
    · exact runFront_intTwo hF hrun fun w => ofNat_shlR
    · exact runFront_intTwo hF hrun fun w => ofNat_shrlR
    · exact runFront_intTwo hF hrun fun w => ofNat_shraR
    · exact runFront_intTwo hF hrun fun w => ofNat_rotlR
    · exact runFront_intTwo hF hrun fun w => ofNat_minR
    · exact runFront_intTwo hF hrun fun w => ofNat_maxR
    · exact runFront_intTwo hF hrun fun w => ofNat_minuR
    · exact runFront_intTwo hF hrun fun w => ofNat_maxuR
    · exact runFront_intTwo hF hrun fun w => ofNat_sextR
    · exact runFront_intTwo hF hrun fun w => ofNat_zextR
  case one =>
    intro op hop f s s1 v F hF hrun
    simp only [intOneOps, List.mem_cons, List.not_mem_nil, or_false] at hop
    rcases hop with rfl | rfl | rfl | rfl | rfl
    · exact (runFront_intOne hF hrun).trans (by rw [ofNat_clzR])
    · exact (runFront_intOne hF hrun).trans (by rw [ofNat_ctzR])
    · exact (runFront_intOne hF hrun).trans (by rw [ofNat_popcR])
    · exact (runFront_intOne hF hrun).trans (by rw [ofNat_absR])
    · exact (runFront_intOne (r := fun _ a => a) hF hrun).trans (by rw [ofNat_toNat_self])
  case bswap =>
    intro f s s1 v F hF hrun
    exact ⟨_, fun k hk => bswapR_byte _ (width_int4s hF (fmtOk_of_frontTakes hrun.1 rfl)) hk, runFront_intOne hF hrun⟩

end Sys2Proof.Proofs.IntegerResults
end

section
/-! SUPPORT. The instructions of the front: select, move, compare, predicates, scalar floats, control, system registers. -/
namespace Sys2Proof.Proofs.FrontInstructions
open Sys2Proof Sys2Proof.Machine Sys2Proof.Claims Sys2Proof.Proofs.ConstantRegisters Sys2Proof.Proofs.IntegerResults

/-! ### A front instruction that runs -/

section
variable {i : Instr} {f : Fields} {fmt : Option Fmt} {s s1 : State} {v : Vals}

theorem FrontRuns.kept (h : FrontRuns i f fmt s s1 v) : s1.kept = s.kept := (frontValues_kept h.2).1
theorem FrontRuns.pos (h : FrontRuns i f fmt s s1 v) : v.pos = s.me.pc := (frontValues_kept h.2).2.1
theorem FrontRuns.ready (h : FrontRuns i f fmt s s1 v) : frontReady s.cycle s.me = true := ((frontTakes_iff i f s).1 h.1).2.1
theorem FrontRuns.bound (h : FrontRuns i f fmt s s1 v) : s1.me.st ≠ .unbound := kept_me (FrontRuns.kept h) ▸ frontReady_bound (FrontRuns.ready h)
theorem FrontRuns.passed_me (h : FrontRuns i f fmt s s1 v) : s1.passed.me = s1.me.advance := ConstantRegisters.passed_me (FrontRuns.bound h)

theorem frontEnds_nothing (f : Fields) (v : Vals) (s1 s2 : State) : frontEnds f v s1 s2 [] 0 = s2 := rfl

/-- A front instruction whose body performs: its result's window opens. -/
theorem runFront_ends {body : Vals → State → FRes} {s2 : State} {w : List (Dst × Word)} {fl : Flags} (h : FrontRuns i f fmt s s1 v)
    (hb : body v s1.passed = .done s2 w fl) : runFront i f fmt body s = .next (frontEnds f v s1 s2 w fl) := runFront_done h.1 h.2 hb
/-- One without a result. -/
theorem runFront_moves {body : Vals → State → FRes} {s2 : State} (h : FrontRuns i f fmt s s1 v)
    (hb : body v s1.passed = .done s2 [] 0) : runFront i f fmt body s = .next s2 := runFront_done h.1 h.2 hb
end

/-! ### Conditions, fields and predicates (R118 to R121) -/

/-- The conditions of R119 on numbers are those on words of W bits. -/
theorem condInt_eq (c w : Nat) (a b : Word) : condInt c w a.toNat b.toNat = condOf c w (a.setWidth w) (b.setWidth w) := by
  have hs : ∀ x : Word, toSigned w x.toNat = (x.setWidth w).toInt := fun x => by rw [toSigned_eq, BitVec.ofNat_toNat]
  unfold condInt condOf
  simp only [hs, toNat_mod_width]
  split <;> exact Bool.eq_iff_iff.2 (by simp [← BitVec.toNat_inj, BitVec.slt, BitVec.sle, BitVec.ult, BitVec.ule])

/-- A 16-bit field of a word replaced, as MOV.k does (R118). -/
theorem setFld_move (d a : Word) (lo : Nat) : setFld d lo 16 (a.toNat % 2 ^ 16) = (d &&& ~~~(0xFFFF#64 <<< lo)) ||| ((a &&& 0xFFFF) <<< lo) := by
  unfold setFld
  have h1 : BitVec.ofNat 64 ((2 ^ 16 - 1) * 2 ^ lo) = 0xFFFF#64 <<< lo := BitVec.eq_of_toNat_eq (by simp [Nat.shiftLeft_eq])
  have h2 : BitVec.ofNat 64 (a.toNat % 2 ^ 16 % 2 ^ 16 * 2 ^ lo) = (a &&& 0xFFFF) <<< lo :=
    BitVec.eq_of_toNat_eq (by
      have : a.toNat &&& 65535 = a.toNat % 65536 := Nat.and_two_pow_sub_one_eq_mod a.toNat 16
      simp [Nat.shiftLeft_eq, this])
  simp only [h1, h2]

theorem mul_two_pow (b : Word) (n : Nat) : b * BitVec.ofNat 64 (2 ^ n) = b <<< n :=
  BitVec.eq_of_toNat_eq (by simp [Nat.shiftLeft_eq])

theorem selBody_eq {f : Fields} {F : Fmt} (hF : fieldFmt f = some F) (v : Vals) (s : State) : selBody f v s =
    .done s (dstVal s f.d (ext F (if v.c.getLsbD 0 then v.a.setWidth F.width else v.b.setWidth F.width))) 0 := by
  have hfmt : intFmt f = F := by rw [intFmt, hF]; rfl
  rw [selBody, hfmt, extInt_eq]
  split <;> rw [BitVec.ofNat_toNat]

theorem cmpBody_eq {f : Fields} {F : Fmt} (hF : fieldFmt f = some F) (v : Vals) (s : State) : cmpBody f v s =
    .done s (dstVal s f.d (bit (condOf f.sub.toNat F.width (v.a.setWidth F.width) (v.b.setWidth F.width)))) 0 := by
  have hfmt : intFmt f = F := by rw [intFmt, hF]; rfl
  rw [cmpBody, hfmt, intWidth, condInt_eq]; rfl

/-- Settles O13: each body is the result that R116 to R121 give. -/
theorem selectMoveCompareResults : Obligations.SelectMoveCompareResults := by
  unfold Obligations.SelectMoveCompareResults
  refine ⟨fun f s s1 v F hF h => ?sel, fun f s s1 v h => ?movK, fun f s s1 v F hF h => ?cmp, fun f s s1 v h => ?lea, fun f s s1 v h => ?pand,
    fun f s s1 v h => ?por, fun f s s1 v h => ?pxor, fun f s s1 v h => ?pnot⟩
  case sel => exact runFront_ends (i := .sel f) (body := selBody f) (hF ▸ h) (selBody_eq hF v _)
  case movK => exact runFront_ends (i := .movK f) (body := movKBody f) h (by rw [movKBody, setFld_move])
  case cmp => exact runFront_ends (i := .cmp f) (body := cmpBody f) (hF ▸ h) (cmpBody_eq hF v _)
  case lea => exact runFront_ends (i := .lea f) (body := leaBody f) h (by rw [leaBody, mul_two_pow])
  case pand => exact runFront_ends (i := .pand f) (body := predBody f (· && ·)) h rfl
  case por => exact runFront_ends (i := .por f) (body := predBody f (· || ·)) h rfl
  case pxor => exact runFront_ends (i := .pxor f) (body := predBody f (· != ·)) h rfl
  case pnot => exact runFront_ends (i := .pnot f) (body := predBody f (fun a _ => !a)) h rfl

/-! ### Scalar floats (R122 to R124) -/

theorem frontMode_passed {i : Instr} {f : Fields} {fmt : Option Fmt} {s s1 : State} {v : Vals} (h : FrontRuns i f fmt s s1 v) :
    frontMode f s1.passed = frontMode f s1 := by
  rw [frontMode, FrontRuns.passed_me h]; rfl

/-- Settles O14: the bodies with their formats put in. -/
theorem scalarFloatResults : Obligations.ScalarFloatResults := by
  unfold Obligations.ScalarFloatResults
  have hflt : ∀ {f F}, fieldFmt f = some F → fltFmt f = F := fun h => by rw [fltFmt, h]; rfl
  refine ⟨fun f s s1 v F hF h => ?add, fun f s s1 v F hF h => ?mul, fun f s s1 v F hF h => ?fma, fun f s s1 v F G hF hG h => ?cvt,
    fun f s s1 v F hF h => ?cmp⟩
  case add => exact runFront_ends (i := .sfadd f) (body := sfaddBody f) (hF ▸ h) (by rw [sfaddBody, frontMode_passed h, hflt hF])
  case mul => exact runFront_ends (i := .sfmul f) (body := sfmulBody f) (hF ▸ h) (by rw [sfmulBody, frontMode_passed h, hflt hF])
  case fma => exact runFront_ends (i := .sffma f) (body := sffmaBody f) (hF ▸ h) (by rw [sffmaBody, frontMode_passed h, hflt hF])
  case cvt =>
    refine runFront_ends (i := .sfcvt f) (body := sfcvtBody f) (hF ▸ h) ?_
    rw [sfcvtBody, frontMode_passed h, hflt hF, hG]
    simp only [Option.getD_some, extInt_eq]
  case cmp => exact runFront_ends (i := .sfcmp f) (body := sfcmpBody f) (hF ▸ h) (by rw [sfcmpBody, hflt hF]; rfl)

/-! ### Control (R125 to R128) -/

theorem brBody_eq {f : Fields} {F : Fmt} (hF : fieldFmt f = some F) (v : Vals) (s : State) : brBody f v s =
    .done (if condOf f.sub.toNat F.width (v.a.setWidth F.width) (v.b.setWidth F.width) then s.goTo (v.pos + v.e) else s) [] 0 := by
  have hfmt : intFmt f = F := by rw [intFmt, hF]; rfl
  rw [brBody, hfmt, intWidth, condInt_eq]

/-- Settles O15: the positions that the bodies of the control instructions go to. -/
theorem controlInstructions : Obligations.ControlInstructions := by
  unfold Obligations.ControlInstructions
  refine ⟨fun f s s1 v h => ?jmp, fun f s s1 v F hF h => ?br, fun f s s1 v h => ?jidx, fun f s s1 v h => ?call, fun f s s1 v h => ?ret,
    fun f s s1 v h => ?loop, fun f s s1 v h => ?nop, fun f s s1 v h => ?yield, fun f s s1 v h => ?halt⟩
  case jmp => exact runFront_moves (i := .jmp f) (body := fun v s => .done (s.goTo (v.pos + v.e)) [] 0) h (by rw [FrontRuns.pos h])
  case br => exact runFront_moves (i := .br f) (body := brBody f) (hF ▸ h) (by rw [brBody_eq hF, FrontRuns.pos h])
  case jidx => exact runFront_moves (i := .jidx f) (body := fun v s => .done (s.goTo (v.a + v.b)) [] 0) h rfl
  case call =>
    exact runFront_ends (i := .call f) (body := fun v s => .done (s.goTo (v.pos + v.e)) (dstVal s f.d (v.pos + 1)) 0) h
      (by rw [FrontRuns.pos h])
  case ret => exact runFront_moves (i := .ret f) (body := fun v s => .done (s.goTo v.a) [] 0) h rfl
  case loop =>
    have hexec : exec (.loop f) s = runFront (.loop f) f none (loopBody f) s := rfl
    rw [hexec]
    by_cases h0 : v.d = 0
    · rw [if_pos h0]
      exact runFront_moves h (by rw [loopBody, if_pos h0])
    · rw [if_neg h0]
      by_cases h1 : v.d = 1
      · rw [if_pos h1]
        exact runFront_ends h (by rw [loopBody, if_neg h0, h1]; rfl)
      · have h1' : ¬ v.d - 1 = 0 := fun e => h1 (by bv_omega)
        rw [if_neg h1, ← FrontRuns.pos h]
        exact runFront_ends h (by rw [loopBody, if_neg h0, if_neg h1'])
  case nop => exact runFront_moves (i := .nop f) (body := fun _ s => .done s [] 0) h rfl
  case yield =>
    exact runFront_moves (i := .yield f)
      (body := fun _ s => .done (s.setMe { s.me with yieldUntil := s.cycle + 4, yieldTo := s.othersReady }) [] 0) h rfl
  case halt =>
    exact runFront_moves (i := .halt f) (body := fun _ s => .done (s.setMe { s.me with halting := true }) [] 0) h rfl

end Sys2Proof.Proofs.FrontInstructions
end

section
/-! SUPPORT. The system registers, the shape, the deadline and the user-interrupt instructions at the front. -/
namespace Sys2Proof.Proofs.SystemRegisters
open Sys2Proof Sys2Proof.Machine Sys2Proof.Claims Sys2Proof.Proofs.ConstantRegisters Sys2Proof.Proofs.FrontInstructions

theorem shape_written {s : State} {rows cols typ : Nat} (h : shapeOk rows cols typ = true) :
    s.writeShp rows cols typ = .done (s.setMe { s.me with shp := shpWord rows cols typ }) [] 0 := by
  rw [State.writeShp, if_pos h]

theorem extractLsb'_zero {w : Nat} (x : BitVec w) (n : Nat) : x.extractLsb' 0 n = x.setWidth n :=
  BitVec.eq_of_toNat_eq (by simp)

/-- A register that CSRW only reads past: only the position moves. -/
theorem csrwBody_ignored {f : Fields} {n : BitVec 12} (h : f.d = .y n) (v : Vals) (s : State)
    (hn : n ∈ [0x010#12, 0x011, 0x012, 0x013, 0x014, 0x015, 0x020, 0x021, 0x022, 0x030, 0x031, 0x040, 0x041, 0x060, 0x061, 0x062]) :
    csrwBody f v s = .done s [] 0 := by
  rw [csrwBody, h]
  simp only [List.mem_cons, List.not_mem_nil, or_false] at hn
  rcases hn with rfl | rfl | rfl | rfl | rfl | rfl | rfl | rfl | rfl | rfl | rfl | rfl | rfl | rfl | rfl | rfl <;> rfl

theorem csrwBody_cwb {f : Fields} {n : BitVec 12} (h : f.d = .y n) (v : Vals) (s : State) (hlo : 0x070 ≤ n.toNat) (hhi : n.toNat ≤ 0x077) :
    csrwBody f v s = .done (s.writeCwb (n.toNat - 0x070) v.a) [] 0 := by
  rw [csrwBody, h]
  dsimp only
  split <;> first | omega | exact if_pos ⟨hlo, hhi⟩

/-! ### DLARM (R308) -/

theorem dlarmBody_wrap {f : Fields} {v : Vals} {s : State} (h : s.me.st = .wrap) : dlarmBody f v s = .done s (dstVal s f.d 0) 0 := by
  simp only [dlarmBody, h, if_true]
theorem dlarmBody_off {f : Fields} {v : Vals} {s : State} (h : s.me.st ≠ .wrap) (ha : v.a = 0) :
    dlarmBody f v s = .done (s.setMe { s.me with sub := none }) (dstVal s f.d 1) 0 := by
  simp only [dlarmBody, h, ha, if_false, if_true]
theorem dlarmBody_earlier {f : Fields} {v : Vals} {s : State} (h : s.me.st ≠ .wrap) (ha : v.a ≠ 0)
    (hd : ∀ d, s.me.launchDeadline = some d → s.time + v.a.toNat < d) :
    dlarmBody f v s = .done (s.setMe { s.me with sub := some (s.time + v.a.toNat) }) (dstVal s f.d 1) 0 := by
  simp only [dlarmBody, h, ha, if_false]
  cases hl : s.me.launchDeadline with
  | none => rfl
  | some d => simp only [decide_eq_true (hd d hl), if_true]
theorem dlarmBody_later {f : Fields} {v : Vals} {s : State} (h : s.me.st ≠ .wrap) (ha : v.a ≠ 0)
    (hd : ∃ d, s.me.launchDeadline = some d ∧ d ≤ s.time + v.a.toNat) : dlarmBody f v s = .done s (dstVal s f.d 0) 0 := by
  obtain ⟨d, hl, hd⟩ := hd
  simp only [dlarmBody, h, ha, if_false, hl, decide_eq_false (Nat.not_lt.2 hd), Bool.false_eq_true]

/-- Settles O16: what each body does to the registers of the strand that has passed the instruction. -/
theorem systemRegisterInstructions : Obligations.SystemRegisterInstructions := by
  unfold Obligations.SystemRegisterInstructions
  refine ⟨fun f s s1 v h => ?csrr, fun f s s1 v n hy h => ⟨fun hn hok => ?shp, fun hn => ?flg, fun hn hr => ?rmode, fun hn => ?uiv, fun hn => ?uis,
      fun hlo hhi => ?cwb, fun hn => ?ignored⟩, fun f s s1 v h hok => ?vshp, fun f s s1 v h => ?dlget, fun f s s1 v h => ?wuset,
    fun f s s1 v h => ?dlarm, fun f s s1 v h => ?uien, fun f s s1 v h => ?uimask, fun f s s1 v h hin => ?uiret⟩
  case csrr =>
    refine runFront_ends (i := .csrr f) (body := csrrBody f) h ?_
    have hn : (v.a.toNat = 0x061) = (v.a = 0x061) := propext ⟨fun e => BitVec.eq_of_toNat_eq e, fun e => by rw [e]; rfl⟩
    simp only [csrrBody, hn]; rfl
  case shp =>
    subst hn
    exact runFront_moves (i := .csrw f) (body := csrwBody f) h (by rw [csrwBody, hy]; exact shape_written hok)
  case flg =>
    subst hn
    exact runFront_moves (i := .csrw f) (body := csrwBody f) h (by rw [csrwBody, hy, ← extractLsb'_zero]; rfl)
  case rmode =>
    subst hn
    rw [← extractLsb'_zero] at hr ⊢
    have hr' : ¬ 5 ≤ fld v.a 0 3 := Nat.not_le.2 hr
    exact runFront_moves (i := .csrw f) (body := csrwBody f) h (by rw [csrwBody, hy]; exact if_neg hr')
  case uiv =>
    subst hn
    exact runFront_moves (i := .csrw f) (body := csrwBody f) h (by rw [csrwBody, hy]; rfl)
  case uis =>
    subst hn
    exact runFront_moves (i := .csrw f) (body := csrwBody f) h (by rw [csrwBody, hy, ← extractLsb'_zero]; rfl)
  case cwb => exact runFront_moves (i := .csrw f) (body := csrwBody f) h (csrwBody_cwb hy v _ hlo hhi)
  case ignored => exact runFront_moves (i := .csrw f) (body := csrwBody f) h (csrwBody_ignored hy v _ hn)
  case vshp => exact runFront_moves (i := .vshp f) (body := vshpBody f) h (shape_written hok)
  case dlget =>
    refine runFront_ends (i := .dlget f) (body := dlgetBody f) h ?_
    have h0 : (f.sub = 0) = (f.sub.toNat = 0) := propext ⟨fun e => by rw [e]; rfl, fun e => BitVec.eq_of_toNat_eq e⟩
    have h1 : (f.sub = 1) = (f.sub.toNat = 1) := propext ⟨fun e => by rw [e]; rfl, fun e => BitVec.eq_of_toNat_eq e⟩
    rw [dlgetBody]
    simp only [h0, h1]
    split <;> simp_all <;> rfl
  case wuset =>
    exact runFront_moves (i := .wuset f) (body := wusetBody) h (by rw [wusetBody, extractLsb'_zero, extractLsb'_zero])
  case dlarm =>
    have hme := FrontRuns.passed_me h
    have hexec : exec (.dlarm f) s = runFront (.dlarm f) f none (dlarmBody f) s := rfl
    have hst : s1.passed.me.st = s1.me.st := by rw [hme]; rfl
    have hdl : s1.passed.me.launchDeadline = s1.me.launchDeadline := by rw [hme]; rfl
    rw [← hst, ← hdl, hexec]
    exact ⟨fun hw => runFront_ends h (dlarmBody_wrap hw), fun hw ha => runFront_ends h (dlarmBody_off hw ha),
      fun hw ha hd => runFront_ends h (dlarmBody_earlier hw ha hd), fun hw ha hd => runFront_ends h (dlarmBody_later hw ha hd)⟩
  case uien => exact runFront_moves (i := .uien f) (body := fun v s => .done (s.setMe { s.me with uisEn := v.a.getLsbD 0 }) [] 0) h rfl
  case uimask =>
    refine runFront_moves (i := .uimask f) (body := uimaskBody f) h ?_
    have hmask : s1.me.uisMask = s1.passed.me.uisMask := by rw [FrontRuns.passed_me h]; rfl
    have h0 : (f.sub = 0) = (f.sub.toNat = 0) := propext ⟨fun e => by rw [e]; rfl, fun e => BitVec.eq_of_toNat_eq e⟩
    have h1 : (f.sub = 1) = (f.sub.toNat = 1) := propext ⟨fun e => by rw [e]; rfl, fun e => BitVec.eq_of_toNat_eq e⟩
    rw [uimaskBody]
    simp only [h0, h1, hmask, ← extractLsb'_zero]
    split <;> simp_all
  case uiret =>
    have hin' : s1.passed.me.uisInh = true := by rw [FrontRuns.passed_me h]; exact hin
    refine runFront_moves (i := .uiret f) (body := fun _ s => uiretBody s) h ?_
    simp only [uiretBody, hin', Bool.not_true, Bool.false_eq_true, if_false]
    rfl

end Sys2Proof.Proofs.SystemRegisters
end

section
/-! SUPPORT. ERET and the registers of the strand that it resumes. -/
namespace Sys2Proof.Proofs.TrapSyscallEret
open Sys2Proof Sys2Proof.Machine Sys2Proof.Claims

/-- ERET p1, s6, s7, 0: the result of the system call is 0. -/
def eretZero : Fields := { lat := 3, fmt := 6, d := .p 1, a := .s 6, b := .s 7, c := .i 0 }

/-- Strand 0, of a running device, asks for strand 4, which is in a system call and whose table of registers lists s3 twice. -/
def calledTwice : State :=
  let s := State.reset.withFetchWord 160 0
  (s.setStrand 0 { s.strand 0 with s := [(6, 4), (7, 99)] }).setStrand 4 { st := .sysw, s := [(3, 1), (3, 2)] }

/-- What the front reads and what the ERET leaves of s3: the result removes the first entry of s3, and the second one is read. -/
def eretEvidence : Bool :=
  frontTakes (.eret eretZero) eretZero calledTwice &&
  match calledTwice.frontValues (fieldFmt eretZero) eretZero, exec (.eret eretZero) calledTwice with
  | .ok (s1, v), .next t =>
    v.a.toNat == 4 && v.c == 0 && decide (4 ≠ calledTwice.cur) && decide ((s1.strand 4).st = .sysw) && (t.strand 4).getS 3 == 2
  | _, _ => false

theorem eretEvidence_holds : eretEvidence = true := by decide +kernel

/-- Refutes O17: the statement asks that s3 of the resumed strand reads as the result of its system call, of every state. In a state whose table
of scalar registers lists s3 twice, the result 0, which is kept by listing nothing, uncovers the second entry. -/
theorem not_trapSyscallEretWfeTlbi : ¬ Obligations.TrapSyscallEretWfeTlbi := by
  unfold Obligations.TrapSyscallEretWfeTlbi
  rintro ⟨-, -, -, -, hEret, -, -⟩
  have h := eretEvidence_holds
  unfold eretEvidence at h
  cases hv : calledTwice.frontValues (fieldFmt eretZero) eretZero with
  | error x => simp [hv] at h
  | ok x =>
    obtain ⟨s1, v⟩ := x
    cases ht : exec (.eret eretZero) calledTwice with
    | next t =>
      simp only [hv, ht, Bool.and_eq_true, beq_iff_eq, decide_eq_true_eq] at h
      obtain ⟨htakes, ⟨⟨⟨ha, hc⟩, hcur⟩, hst⟩, hs3⟩ := h
      obtain ⟨-, -, -, -, -, hres, -⟩ := hEret eretZero calledTwice s1 t v 4 ⟨htakes, hv⟩ ht ha (by decide) hcur (.inr hst)
      have : (2 : Word) = 0 := hs3.symm.trans ((hres hst).trans hc)
      exact absurd this (by decide)
    | fault r => simp [hv, ht] at h
    | refused r => simp [hv, ht] at h

end Sys2Proof.Proofs.TrapSyscallEret
end

section
/-! SUPPORT. How a queue instruction enters its queue. -/
namespace Sys2Proof.Proofs.QueueEntries
open Sys2Proof Sys2Proof.Machine Sys2Proof.Claims Sys2Proof.Proofs.DecodeChecksAndTraps

/-- An instruction of a queue, by its own fields: at the front it enters its queue; an operation of the matrix queue, of stream C, does so without
its pushes. -/
theorem exec_ofQueue {i : Instr} {f : Fields} (hf : instrFields i = some f) (s : State) :
    (ispec i).map (·.route) = some .f ∨ (∃ ack body, exec i s = runQueue i f ack body s) ∨
    (∃ body, exec i s = runQueue i (popsOnly f) .none body s) ∧ (ispec i).map (·.route) = some .c := by
  cases i <;> cases hf
  all_goals dsimp only [exec]
  all_goals first
    | exact .inr (.inl ⟨_, _, rfl⟩)
    | exact .inr (.inr ⟨⟨_, rfl⟩, rfl⟩)
    | exact .inl rfl

theorem instrFields_queueInstrs (f : Fields) : ∀ op ∈ queueInstrs, instrFields (op f) = some f := by
  unfold queueInstrs
  repeat' first
    | exact List.forall_mem_nil _
    | refine List.forall_mem_cons.2 ⟨rfl, ?_⟩
theorem route_queueInstrs (f : Fields) : ∀ op ∈ queueInstrs, (ispec (op f)).map (·.route) ≠ some .f := by
  unfold queueInstrs
  repeat' first
    | exact List.forall_mem_nil _
    | refine List.forall_mem_cons.2 ⟨nofun, ?_⟩

/-- The queue instruction that the front takes enters its queue, and the front goes on. -/
theorem enterQueue_takes {i : Instr} {f : Fields} {s s1 : State} {sp : ISpec} {hs : Tab (BitVec 512)} (hsp : ispec i = some sp)
    (hr : frontReady s.cycle s.me = true) (hd : decodeStop i sp f s = none) (hh : s.readHandles s.cur (handlesOf i f) = .ok (s1, hs)) :
    enterQueue i f s = .next (s1.setMe (marked (entered s1.me sp.route (s1.entryOf i f hs)) sp (s1.entryOf i f hs)).advance) := by
  simp only [enterQueue, hsp, hr, hd, hh, Bool.not_true, Bool.false_eq_true, if_false]
  simp only [marked, beq_iff_eq]
  cases sp.route <;> rfl

theorem handlesOf_popsOnly (i : Instr) (f : Fields) : handlesOf i (popsOnly f) = handlesOf i f := by
  cases i <;> rfl
theorem entryOf_popsOnly (s : State) (i : Instr) (f : Fields) (hs : Tab (BitVec 512)) : s.entryOf i (popsOnly f) hs = s.entryOf i f hs := by
  cases i <;> rfl

/-- Settles O18: at the front, every queue instruction enters its queue, by the way of its fields. -/
theorem queueInstructionsEnterTheirQueue : Obligations.QueueInstructionsEnterTheirQueue := by
  unfold Obligations.QueueInstructionsEnterTheirQueue
  intro op hop f s s1 sp hs hsp htakes hh
  obtain ⟨ha, hr, sp', hsp', hd⟩ := (frontTakes_iff (op f) f s).1 htakes
  obtain rfl : sp' = sp := Option.some.inj (hsp'.symm.trans hsp)
  rcases exec_ofQueue (instrFields_queueInstrs f op hop) s with hf | ⟨ack, body, h⟩ | ⟨⟨body, h⟩, hroute⟩
  · exact absurd hf (route_queueInstrs f op hop)
  · rw [h, runQueue, ha]
    exact enterQueue_takes hsp hr hd hh
  · have hc : sp'.route = .c := by simpa [hsp] using hroute
    rw [h, runQueue, ha]
    dsimp only
    rw [enterQueue_takes hsp hr ((decodeStop_popsOnly hc f s).trans hd) ((congrArg _ (handlesOf_popsOnly _ _)).trans hh), entryOf_popsOnly]

end Sys2Proof.Proofs.QueueEntries
end

section
/-! SUPPORT. The loads and the stores by address (R137, R143, R273 to R275). -/
namespace Sys2Proof.Proofs.AccessesByAddress
open Sys2Proof Sys2Proof.Machine Sys2Proof.Claims Sys2Proof.Proofs.IntegerResults

/-! ### A place and its bytes -/

theorem withPlace_of_places {s s1 : State} {va : Word} {n align : Nat} {acc : Acc} {ps : List Piece} (h : Places s va n align acc s1 ps)
    (k : List Piece → State → QRes) : withPlace s va n align acc k = k ps s1 := by
  obtain ⟨hp, rfl⟩ := h
  simp only [withPlace, hp]

theorem withBytes_of_clean {s : State} {ps : List Piece} (h : (s.readPieces s.myCore ps).poison = none) (k : List Byte → State → QRes) :
    withBytes s ps k = k (s.readPieces s.myCore ps).bytes (s.readPieces s.myCore ps).s := by
  simp only [withBytes, h]

theorem cur_settleLoads (s : State) (slot : Nat) (p : List Piece → Bool) : (s.settleLoads slot p).cur = s.cur := by
  unfold State.settleLoads
  dsimp only
  split <;> rfl

theorem myCore_bindFor (s : State) (ps : List Piece) : (s.bindFor ps).myCore = s.myCore := congrArg coreOf (cur_settleLoads s _ _)

theorem myCore_tlbFill (s : State) (c : Nat) (p : BitVec 20) (va : Word) : (s.tlbFill c p va).myCore = s.myCore :=
  congrArg coreOf (kept_cur (tlbFill_kept s c p va))

theorem memFmt_eq {f : Fields} {F : Fmt} (h : fieldFmt f = some F) : memFmt f = F := by rw [memFmt, h]; rfl

theorem loaded_eq (F : Fmt) (bs : List Byte) : loaded F bs = loadValue F bs := extInt_eq F _

/-- A load by address whose bytes are read: the place, its policy, the bytes without poison. -/
theorem load_of_reads {f : Fields} {s s1 : State} {va : Word} {n align : Nat} {ps : List Piece} {bs : List Byte}
    (h : Reads f s va n align .read s1 ps bs) (k : List Piece → List Byte → State → QRes) :
    withPlace s va n align .read (fun ps s => withBytes (s.bindFor (s.cached (policyOf f.hint 0) ps)) (s.cached (policyOf f.hint 0) ps)
      (k (s.cached (policyOf f.hint 0) ps))) = k ps bs s1 := by
  obtain ⟨s0, ps0, hp, rfl, hpois, rfl, rfl⟩ := h
  have hcore : (s0.bindFor (s0.cached (policyOf f.hint 0) ps0)).myCore = s.myCore := by
    rw [myCore_bindFor, ← hp.2, myCore_tlbFill]
  rw [withPlace_of_places hp, withBytes_of_clean (by rw [hcore]; exact hpois), hcore]

/-! ### LDB (R273 to R275) -/

theorem myCore_takeRegions (s : State) (c key : Nat) : (s.takeRegions c key).myCore = s.myCore := by
  unfold State.takeRegions
  dsimp only
  split <;> rfl
theorem myCore_ldbState (s : State) (ps : List Piece) : (ldbState s ps).myCore = s.myCore := by
  unfold ldbState
  dsimp only
  split
  · exact myCore_bindFor s ps
  · rw [myCore_takeRegions, myCore_bindFor]

section
variable {f : Fields} {e : QEntry} {s s0 : State} {F : Fmt}

/-- Where LDB finds no region, it loads as LDS does. -/
theorem ldbBody_plain {ps : List Piece} (hF : fieldFmt f = some F)
    (hp : Places s (eaOf f e) (F.width / 8) (F.width / 8) .read s0 ps) (hreg : (ldbState s0 ps).regionOf (eaOf f e) = none) :
    ldbBody f e s = withBytes (ldbState s0 ps) ((ldbState s0 ps).cached (policyOf f.hint 0) ps) (fun bs s => .done s [loadValue F bs] 0) := by
  unfold ldbState at hreg ⊢
  unfold ldbBody
  dsimp only at hreg ⊢
  rw [memFmt_eq hF, accBytes, withPlace_of_places hp]
  rw [hreg]
  simp only [loaded_eq]

variable {m : MemSpace} {off n size key : Nat} {ent : BitVec 128}

/-- The places of which an L1 keeps stamped copies: no page of the bank-linear window, none that is not to be cached, none that streams, none in the
league's window. -/
theorem ldb_caches {t : State} (hm : m ≠ .bl) (hsize : size ≠ 0) (hpol : policyOf f.hint 0 ≠ 3) (hwin : m = .il → t.inWindow off = false) :
    ¬ (decide (m = .bl) || decide (size = 0) || decide (policyOf f.hint 0 = 3) || (m == .il && t.inWindow off)) = true := by
  have hil : (m == .il && t.inWindow off) = false := by
    cases m <;> simp_all
  simp [hm, hsize, hpol, hil]

/-- A stamped copy within its bound is taken, and the known round stays with the L1 (R274, R275). -/
theorem ldbBody_copy {c : StampCopy} (hF : fieldFmt f = some F)
    (hp : Places s (eaOf f e) (F.width / 8) (F.width / 8) .read s0 [.mem m off n size]) (hm : m ≠ .bl) (hsize : size ≠ 0)
    (hpol : policyOf f.hint 0 ≠ 3) {t : State} (ht : ldbState s0 [.mem m off n size] = t) (hreg : t.regionOf (eaOf f e) = some (key, ent))
    (hwin : m = .il → t.inWindow off = false) (hc : t.stampedCopy (t.l1Core t.myCore off) (lineKey m off) = some c)
    (hround : (t.knownRound (t.leadOf t.myCore) key ent - c.stamp).toNat ≤ f.sub.toNat) :
    ldbBody f e s = .done (t.modCore (t.leadOf t.myCore) (fun u => { u with known := tabPut u.known key (t.knownRound (t.leadOf t.myCore) key ent) }))
      [loadValue F (lineBytes c.data (off % 64) (F.width / 8))] 0 := by
  have hplain := ldb_caches (f := f) hm hsize hpol hwin
  unfold ldbState at ht
  unfold ldbBody
  dsimp only at ht ⊢
  rw [memFmt_eq hF, accBytes, withPlace_of_places hp]
  rw [ht, hreg]
  dsimp only
  rw [if_neg hplain, hc]
  dsimp only
  rw [if_pos hround, loaded_eq]
  rfl

/-- A refetch reads the line from its home; no strand takes part in it. -/
theorem ldbRefetch_done {x : Fmt} {core : Nat} {k : BitVec 32} {s : State}
    (h : ((s.cxlRead m (off / 64 * 64) 64 64).readMem m (off / 64 * 64) 64).2.2 = false) :
    ∃ u : State, u.strands = s.strands ∧ ldbRefetch x m off n core key k s = .done u [loadValue x (lineBytes
      (BitVec.ofNat 512 (leNat ((s.cxlRead m (off / 64 * 64) 64 64).physRead m (off / 64 * 64) 64))) (off % 64) n)] 0 := by
  have hstr : ((s.cxlRead m (off / 64 * 64) 64 64).readMem m (off / 64 * 64) 64).1.strands = s.strands :=
    congrArg Kept.strands ((readMem_kept _ _ _ _).trans (cxlRead_kept _ _ _ _ _))
  unfold ldbRefetch
  dsimp only
  rw [if_neg (by rw [h]; decide), loaded_eq]
  refine ⟨_, ?_, rfl⟩
  exact hstr

/-- Whether LDB must fetch the line again: it has no copy to take and caches the line, or its copy is out of its bound and none is pushed. -/
def Refetches (f : Fields) (k : BitVec 32) (ent : BitVec 128) : Option StampCopy → Prop
  | none => policyOf f.hint 0 = 0
  | some c => f.sub.toNat < (k - c.stamp).toNat ∧ ent.getLsbD 1 = false

theorem ldbBody_refetch (hF : fieldFmt f = some F)
    (hp : Places s (eaOf f e) (F.width / 8) (F.width / 8) .read s0 [.mem m off n size]) (hm : m ≠ .bl) (hsize : size ≠ 0)
    (hpol : policyOf f.hint 0 ≠ 3) {t : State} (ht : ldbState s0 [.mem m off n size] = t) (hreg : t.regionOf (eaOf f e) = some (key, ent))
    (hwin : m = .il → t.inWindow off = false)
    (hc : Refetches f (t.knownRound (t.leadOf t.myCore) key ent) ent (t.stampedCopy (t.l1Core t.myCore off) (lineKey m off)))
    (hue : ((t.cxlRead m (off / 64 * 64) 64 64).readMem m (off / 64 * 64) 64).2.2 = false) :
    ∃ u : State, u.strands = t.strands ∧ ldbBody f e s = .done u [loadValue F (lineBytes
      (BitVec.ofNat 512 (leNat ((t.cxlRead m (off / 64 * 64) 64 64).physRead m (off / 64 * 64) 64))) (off % 64) (F.width / 8))] 0 := by
  obtain ⟨u, hu, hdone⟩ := ldbRefetch_done (x := F) (n := F.width / 8) (key := key) (core := t.leadOf t.myCore)
    (k := t.knownRound (t.leadOf t.myCore) key ent) hue
  refine ⟨u, hu, Eq.trans ?_ hdone⟩
  have hplain := ldb_caches (f := f) hm hsize hpol hwin
  unfold ldbState at ht
  unfold ldbBody
  dsimp only at ht ⊢
  rw [memFmt_eq hF, accBytes, withPlace_of_places hp]
  rw [ht, hreg]
  dsimp only
  rw [if_neg hplain]
  cases hcopy : t.stampedCopy (t.l1Core t.myCore off) (lineKey m off) with
  | none =>
    rw [hcopy] at hc
    simp only [Refetches] at hc
    simp [hc]
  | some c =>
    rw [hcopy] at hc
    obtain ⟨hround, hpush⟩ := hc
    simp only [Nat.not_le.2 hround, hpush, if_false, Bool.false_eq_true]
end

/-! ### The statements -/

/-- Settles O19: a place and clean bytes lead each body to its result; LDB by the region and the copy that it finds. -/
theorem loadsByAddress : Obligations.LoadsByAddress := by
  unfold Obligations.LoadsByAddress
  refine ⟨?lds, ?ldq, ?lda, ?plain, ?copy, ?refetch⟩
  case lds =>
    intro f q sp e s s1 F ps bs hF h hr
    refine runQueue_done (i := .lds f) (body := ldsBody f) h ?_
    rw [ldsBody, memFmt_eq hF]
    exact (load_of_reads hr (fun ps bs s => .done (s.mayRebind 0 F ps) [loaded F bs] 0)).trans (by rw [loaded_eq])
  case ldq =>
    intro f q sp e s s1 ps bs h hr
    exact runQueue_done (i := .ldq f) (body := ldqBody f) h (load_of_reads hr (fun ps bs s =>
      .done (if (eaOf f e).toNat % 16 = 0 then s else (s.mayRebind 0 .int64 (slicePieces ps 0 8)).mayRebind 1 .int64 (slicePieces ps 8 8))
        [BitVec.ofNat 64 (leNat (bs.take 8)), BitVec.ofNat 64 (leNat (bs.drop 8))] 0))
  case lda =>
    intro f q sp e s s1 F ps bs hF h hr
    refine runQueue_done (i := .lda f) (body := ldaBody f) h ?_
    rw [ldaBody, memFmt_eq hF]
    exact (load_of_reads hr (fun ps bs s => .done (s.acquireAt (pieceLocs ps) f.scp.toNat) [loaded F bs] 0)).trans (by rw [loaded_eq])
  case plain =>
    intro f q sp e s s0 F ps hF h hp t g hreg hpois
    refine runQueue_done (i := .ldb f) (body := ldbBody f) h ?_
    rw [ldbBody_plain hF hp hreg, withBytes_of_clean hpois]
  case copy =>
    intro f q sp e s s0 F m off n size key ent c hF h hp hm hsize hpol t lead hreg hwin hc hround
    exact runQueue_done (i := .ldb f) (body := ldbBody f) h (ldbBody_copy hF hp hm hsize hpol rfl hreg hwin hc hround)
  case refetch =>
    intro f q sp e s s0 F m off n size key ent hF h hp hm hsize hpol t hreg hwin hc v hue
    have hc' : Refetches f (t.knownRound (t.leadOf t.myCore) key ent) ent (t.stampedCopy (t.l1Core t.myCore off) (lineKey m off)) := by
      cases hcopy : t.stampedCopy (t.l1Core t.myCore off) (lineKey m off) <;> (rw [hcopy] at hc; exact hc)
    obtain ⟨u, hu, hbody⟩ := ldbBody_refetch hF hp hm hsize hpol rfl hreg hwin hc' hue
    exact ⟨u, hu, runQueue_done (i := .ldb f) (body := ldbBody f) h hbody⟩

theorem store_eq (s : State) (bs : List Byte) (ps : List Piece) :
    s.store bs ps = (s.flushFor ps).writePieces (s.flushFor ps).myParty false bs ps ∨
    s.store bs ps = (s.flushFor ps).modStrand s.cur (fun u => { u with late := u.late ++ [⟨ps, bs⟩] }) := by
  unfold State.store
  dsimp only
  split
  · exact .inr rfl
  · exact .inl rfl

theorem leBytes_zero (n : Nat) : leBytes n 0 = List.replicate n 0 := by
  induction n with
  | zero => rfl
  | succ n ih => rw [leBytes, Nat.zero_div, ih]; rfl

/-- RADV of a valid region whose entry may be written: its round is one further (R146). -/
theorem radvBody_done {f : Fields} {e : QEntry} {s : State} {ps : List Piece} {g : Got} {key : Nat} (hkey : regionKey s.me e.a.toNat = key)
    (hrrt : s.me.rrt ≠ 0) (hp : s.regionPlace s.myCore key = .ok ps) (hg : (s.takeRegions s.myCore key).readPieces s.myCore ps = g)
    (hpois : g.poison = none) (hvalid : regionValid (g.s.heldRegion s.myCore key) = true) (hfate : g.s.piecesFate true ps = none) :
    radvBody f e s = .done ((g.s.flushLate.writePieces g.s.myParty false (leBytes 4 ((leNat (g.bytes.drop 12) + 1) % 2 ^ 32))
      (slicePieces ps 12 4)).releaseAt (pieceLocs (slicePieces ps 12 4)) f.scp.toNat) [] 0 := by
  have hcore : (s.takeRegions s.myCore key).myCore = s.myCore := myCore_takeRegions s s.myCore key
  have hkept : g.s.myCore = s.myCore := hg ▸ (congrArg coreOf (kept_cur (readPieces_kept _ _ _))).trans hcore
  unfold radvBody
  extract_lets k
  obtain rfl : k = key := hkey
  rw [if_neg hrrt, hp]
  show withBytes _ _ _ = _
  rw [withBytes_of_clean (by rw [hcore, hg]; exact hpois), hcore, hg, hkept, if_neg (by rw [hvalid]; decide), hfate]

/-- Settles O20: each store's body at its place. -/
theorem storesByAddress : Obligations.StoresByAddress := by
  unfold Obligations.StoresByAddress
  refine ⟨store_eq, ?sts, ?stq, ?strel, ?poisonclr, ?radv⟩
  case sts =>
    intro f q sp e s s1 F ps hF h hp
    refine runQueue_done (i := .sts f) (body := stsBody f) h ?_
    rw [stsBody, memFmt_eq hF]
    exact withPlace_of_places hp _
  case stq =>
    intro f q sp e s s1 ps0 h hp
    refine runQueue_done (i := .stq f) (body := stqBody f) h ?_
    rw [stqBody]
    exact withPlace_of_places hp _
  case strel =>
    intro f q sp e s s1 F ps hF h hp
    refine runQueue_done (i := .strel f) (body := strelBody f) h ?_
    rw [strelBody, memFmt_eq hF]
    exact withPlace_of_places hp _
  case poisonclr =>
    intro f q sp e s s1 ps h hp
    refine runQueue_done (i := .poisonclr f) (body := poisonclrBody f) h ?_
    rw [poisonclrBody, leBytes_zero]
    exact withPlace_of_places hp _
  case radv =>
    intro f q sp e s ps h hrrt hp g round hpois hvalid hfate
    exact runQueue_done (i := .radv f) (body := radvBody f) h (radvBody_done rfl hrrt hp rfl hpois hvalid hfate)

end Sys2Proof.Proofs.AccessesByAddress
end

section
/-! SUPPORT. The instructions on local-memory records: full/empty words, semaphores, firkin rings and barriers (R145, R150 to R154). -/
namespace Sys2Proof.Proofs.LocalRecords
open Sys2Proof Sys2Proof.Machine Sys2Proof.Claims Sys2Proof.Proofs.WaitsAndTokens

/-! ### Bodies on a record that is read -/

section
variable {f : Fields} {e : QEntry} {s s1 : State} {core off : Nat}

theorem ldfeBody_full (hr : LmReads f e 4 0 4 true false s s1 core off) (h : s1.isFull core (off / 4) = true) : ldfeBody f e s =
    .done ((s1.setFull core (off / 4) false).acquireRec core off f.scp.toNat everyTag everyTag) [BitVec.ofNat 64 (s1.lmWord core off)] 0 := by
  rw [ldfeBody, withLm_noUe hr]; exact if_pos h
theorem stffBody_empty (hr : LmReads f e 4 0 4 false true s s1 core off) (h : s1.isFull core (off / 4) = false) : stffBody f e s =
    .done (((s1.lmPut core off 4 (dataVal .uint32 f.e e.e).toNat).setFull core (off / 4) true).releaseRec core off 0 f.scp.toNat 0 everyTag) [] 0 := by
  rw [stffBody, withLm_noUe hr]; exact if_neg (by rw [h]; decide)
theorem semwaitBody_enough (hr : LmReads f e 4 0 4 true true s s1 core off) (h : lowE f e ≤ s1.lmWord core off) : semwaitBody f e s =
    .done ((s1.lmPut core off 4 (s1.lmWord core off - lowE f e)).acquireRec core off f.scp.toNat everyTag
      (fun _ => lowE f e == s1.lmWord core off)) [] 0 := by
  rw [semwaitBody, withLm_noUe hr]; exact if_pos h

/-- A slot that SRPUB or SRREL names. -/
theorem slot_named {r : BitVec 512} {i n : Nat} {α : Type} {a b c : α} (hi : i < srN r) (hst : srState r i = n) :
    (if srN r ≤ i then a else if srState r i != n then b else c) = c := by
  rw [if_neg (Nat.not_le.2 hi), if_neg (by rw [hst, bne_self_eq_false]; decide)]

theorem low32_eq (w : Word) : low32 w = (w.setWidth 32).toNat := (BitVec.toNat_setWidth 32 w).symm
end

/-- Settles O22: each body on the word that it has read. -/
theorem fullEmptyAndSemaphores : Obligations.FullEmptyAndSemaphores := by
  unfold Obligations.FullEmptyAndSemaphores
  refine ⟨?ldfe, ?stff, ?feq, ?feset, ?semwait, ?sempost⟩
  case ldfe =>
    intro f q sp e s s1 core off h hr hfull
    exact runQueue_done (i := .ldfe f) (body := ldfeBody f) h (ldfeBody_full hr hfull)
  case stff =>
    intro f q sp e s s1 core off h hr hempty
    exact runQueue_done (i := .stff f) (body := stffBody f) h (stffBody_empty hr hempty)
  case feq =>
    intro f q sp e s s1 core off h hr
    exact runQueue_done (i := .feq f) (body := feqBody f) h (withLm_noUe hr _)
  case feset =>
    intro f q sp e s core off h hop
    refine runQueue_done (i := .feset f) (body := fesetBody f) h ?_
    simp only [fesetBody, withLm, hop]
  case semwait =>
    intro f q sp e s s1 core off h hr hle
    exact runQueue_done (i := .semwait f) (body := semwaitBody f) h (semwaitBody_enough hr hle)
  case sempost =>
    intro f q sp e s s1 core off h hr
    exact runQueue_done (i := .sempost f) (body := sempostBody f) h (withLm_noUe hr _)

/-- Settles O23: a sound ring descriptor or a barrier's record leads each body to its step. -/
theorem ringsAndBarriers : Obligations.RingsAndBarriers := by
  unfold Obligations.RingsAndBarriers
  refine ⟨⟨?sracq, ?srpub, ?srtake, ?srrel⟩, ?barinit, ?bararr, ?barexp, ?barwait, ?bartest⟩
  case sracq =>
    intro f q sp e s s1 core off h hr r i hbad hst r1
    refine runQueue_done (i := .sracq f) (body := sracqBody f) h ?_
    rw [sracqBody, withRing_of_reads hr hbad]
    exact if_neg (by rw [hst]; decide)
  case srpub =>
    intro f q sp e s s1 core off h hr r hbad hi hst
    refine runQueue_done (i := .srpub f) (body := srpubBody f) h ?_
    rw [srpubBody, withRing_of_reads hr hbad]
    exact slot_named hi hst
  case srtake =>
    intro f q sp e s s1 core off h hr r i hbad hst r1
    refine runQueue_done (i := .srtake f) (body := srtakeBody f) h ?_
    rw [srtakeBody, withRing_of_reads hr hbad]
    exact if_neg (by rw [hst]; decide)
  case srrel =>
    intro f q sp e s s1 core off h hr r hbad hi hst
    refine runQueue_done (i := .srrel f) (body := srrelBody f) h ?_
    rw [srrelBody, withRing_of_reads hr hbad]
    exact slot_named hi hst
  case barinit =>
    intro f q sp e s s1 core off h hr r hpend hcount
    refine runQueue_done (i := .barinit f) (body := barinitBody f) h ?_
    rw [barinitBody, withBarrier_of_reads hr]
    have hlow : ¬ (e.e.setWidth 32).toNat = 0 := fun h0 => hcount (BitVec.eq_of_toNat_eq h0)
    simp only [low32_eq]
    rw [if_neg (by rw [hpend]; decide), if_neg hlow]
  case bararr =>
    intro f q sp e s s1 core off h hr r hless
    refine runQueue_done (i := .bararr f) (body := bararrBody f) h ?_
    rw [bararrBody, withBarrier_of_reads hr]
    exact if_neg hless
  case barexp =>
    intro f q sp e s s1 core off h hr r
    refine runQueue_done (i := .barexp f) (body := barexpBody f) h ?_
    rw [barexpBody, withBarrier_of_reads hr, ← BitVec.toNat_setWidth 48 e.e]
  case barwait =>
    intro f q sp e s s1 core off h hr hph
    refine runQueue_done (i := .barwait f) (body := barwaitBody f) h ?_
    rw [barwaitBody, withBarrier_of_reads hr, low32_eq]
    exact if_neg hph
  case bartest =>
    intro f q sp e s s1 core off h hr
    refine ⟨fun hph => ?_, fun hph => ?_⟩
    · refine runQueue_done (i := .bartest f) (body := bartestBody f) h ?_
      rw [bartestBody, withBarrier_of_reads hr, low32_eq]
      exact if_neg hph
    · refine runQueue_done (i := .bartest f) (body := bartestBody f) h ?_
      rw [bartestBody, withBarrier_of_reads hr, low32_eq]
      exact if_pos hph

end Sys2Proof.Proofs.LocalRecords
end

section
/-! SUPPORT. The ordering instructions (R146, R155, R232 to R234). -/
namespace Sys2Proof.Proofs.Ordering
open Sys2Proof Sys2Proof.Machine Sys2Proof.Claims

/-- PUBX whose earlier stores have performed: it publishes, or the licence of its context is exceeded (R340). -/
theorem exec_pubx_quiet {f : Fields} {q : Queue} {sp : ISpec} {e : QEntry} {s : State} (h : headTakes (.pubx f) f q sp e s = true)
    (hquiet : queueQuiet s.me .S = true) {gone : List Nat} (hgone : (s.ubits.filter s.publishes).map (·.line) = gone)
    {made : List (Nat × Nat)} (hmade : s.pagesMade gone = made) {s1 : State} (hs1 : { s with
      ubits := s.ubits.filter (fun u => !(gone.contains u.line))
      rel := { s.rel with published := s.rel.published.filter (fun x => x.1 != s.me.pasid.toNat) ++ made } } = s1) :
    exec (.pubx f) s = .next (if made.length ≤ fld (s.context s.me.pasid) 92 32 then (s1.mapCores (fun n c => if inScope f.scp.toNat s.myCore n then
      { c with icache := c.icache.filter (fun x => !(gone.contains x.1)) } else c)).perform q f sp .reply e [] 0
      else s.queueTrap q e .claimViolation 0 0) := by
  subst hgone hmade hs1
  have hrun : exec (.pubx f) s = runQueue (.pubx f) f .reply (pubxBody f) s := rfl
  rw [hrun]
  split
  next hle =>
    refine runQueue_done h ?_
    unfold pubxBody
    rw [if_neg (by rw [hquiet]; decide)]
    exact if_neg (Nat.not_lt.2 hle)
  next hgt =>
    have hbody : pubxBody f e s = .trap s .claimViolation 0 0 := by
      unfold pubxBody
      rw [if_neg (by rw [hquiet]; decide)]
      exact if_pos (Nat.not_le.1 hgt)
    rw [runQueue_takes h, hbody]

theorem bgbarHoldBody_holds {f : Fields} {e : QEntry} {s : State} {fs : List Nat}
    (hk : hCheck (e.entry f.a) (stripe (e.entry f.a)) false true = none) (hh : s.holds.length < 16)
    (hfs : s.coveredFurlongs (e.entry f.a) = .ok fs)
    (hr : ∀ x ∈ s.quads, ∀ c ∈ x.2.q, (c.accepted ≤ e.waiting.getD s.cycle ∨ c.started = true) → ∀ r ∈ s.cmdReads c, r ∉ fs) :
    bgbarHoldBody f e s = .done { s with holds := s.holds ++
      [{ lnch := s.me.lnch, pasid := s.me.pasid, base := hBase (e.entry f.a), limit := hLimit (e.entry f.a), furlongs := fs }] } [] 0 := by
  have hany : ¬ s.quads.any (fun x => x.2.q.any (fun c => (c.accepted ≤ e.waiting.getD s.cycle || c.started) &&
      (s.cmdReads c).any (fun r => fs.contains r))) = true := by
    intro h
    obtain ⟨x, hx, h⟩ := List.any_eq_true.1 h
    obtain ⟨c, hc, h⟩ := List.any_eq_true.1 h
    obtain ⟨hat, h⟩ := Bool.and_eq_true_iff.1 h
    obtain ⟨r, hrc, h⟩ := List.any_eq_true.1 h
    exact hr x hx c hc (by simpa using hat) r hrc (by simpa using h)
  have hh' : ¬ s.holds.length ≥ 16 := by omega
  unfold bgbarHoldBody
  dsimp only
  rw [hk]
  dsimp only
  rw [if_neg hh', hfs]
  exact if_neg hany

theorem bgbarRelBody_ends {f : Fields} {e : QEntry} {s : State} (hk : hCheck (e.entry f.a) (stripe (e.entry f.a)) false true = none) :
    bgbarRelBody f e s = .done { s with holds := s.holds.filter (fun x =>
      !(x.pasid == s.me.pasid && x.base == hBase (e.entry f.a) && x.limit == hLimit (e.entry f.a))) } [] 0 := by
  unfold bgbarRelBody
  dsimp only
  rw [hk]

theorem bgstatBody_eq (f : Fields) (e : QEntry) (s : State) : bgstatBody f e s = .done s
    [if f.sub = 0 then (tabGet s.dieErr {} e.a.toNat).ce.setWidth 64 else if f.sub = 1 then (tabGet s.dieErr {} e.a.toNat).ue.setWidth 64
      else BitVec.ofNat 64 (s.quad e.a.toNat).q.length] 0 := by
  unfold bgstatBody
  split
  next h => simp [h]
  next h => simp [h]
  next h0 h1 =>
    have h0' : ¬ f.sub = 0 := h0
    have h1' : ¬ f.sub = 1 := h1
    simp only [h0', h1', if_false]

/-- Settles O24: each body where its condition holds. -/
theorem orderingInstructions : Obligations.OrderingInstructions := by
  unfold Obligations.OrderingInstructions
  refine ⟨⟨?mark, ?fence, ?fenceMem, ?pubx, ?qfence⟩, ?bgfence, ?hold, ?rel, ?stat⟩
  case mark =>
    intro f q sp e s h
    exact runQueue_done (i := .mark f) (body := markBody f) h rfl
  case fence =>
    intro f q sp e s h
    exact runQueue_done (i := .fence f) (body := fenceBody f) h rfl
  case fenceMem =>
    intro f q sp e s h hrange
    refine runQueue_done (i := .fenceMem f) (body := fenceMemBody) h ?_
    have hok : ¬ (e.b.toNat != 0 && decide (e.a.toNat + e.b.toNat > numFurlongs)) = true := by
      rcases hrange with h0 | hle
      · simp [h0]
      · have : ¬ numFurlongs < e.a.toNat + e.b.toNat := Nat.not_lt.2 hle
        simp [this]
    exact if_neg hok
  case pubx =>
    intro f q sp e s h hquiet gone made s1
    exact exec_pubx_quiet h hquiet rfl rfl rfl
  case qfence =>
    intro f q sp e s h hp
    exact runQueue_done (i := .qfence f) (body := qfenceBody f) h (if_neg (by rw [hp]; decide))
  case bgfence =>
    intro f q sp e s h hp
    exact runQueue_done (i := .bgfence f) (body := bgfenceBody f) h (if_neg (by rw [hp]; decide))
  case hold =>
    intro f q sp e s fs h hk hh hfs hr
    exact runQueue_done (i := .bgbarHold f) (body := bgbarHoldBody f) h (bgbarHoldBody_holds hk hh hfs hr)
  case rel =>
    intro f q sp e s h hk
    exact runQueue_done (i := .bgbarRel f) (body := bgbarRelBody f) h (bgbarRelBody_ends hk)
  case stat =>
    intro f q sp e s h
    exact runQueue_done (i := .bgstat f) (body := bgstatBody f) h (bgstatBody_eq f e s)

end Sys2Proof.Proofs.Ordering
end

section
/-! SUPPORT. The loads and stores of tiles (R144). -/
namespace Sys2Proof.Proofs.TileAccesses
open Sys2Proof Sys2Proof.Machine Sys2Proof.Claims Sys2Proof.Proofs.AccessesByAddress

theorem cur_keepTile (s : State) (slot : Nat) (sys : Bool) (h : Nat) (e : BitVec 512) (x : Coord) : (s.keepTile slot sys h e x).cur = s.cur := by
  unfold State.keepTile
  dsimp only
  repeat' split
  all_goals rfl

theorem cur_fillElems (s : State) (h : Nat) (e : BitVec 512) (xs : List Coord) : (s.fillElems h e xs).cur = s.cur := by
  unfold State.fillElems
  split
  · rfl
  · induction xs generalizing s with
    | nil => rfl
    | cons x r ih => rw [List.foldl_cons, ih, cur_keepTile, kept_cur (tlbFill_kept _ _ _ _)]

theorem cur_takeTile (s : State) (ws : List Nat) : (s.takeTile ws).cur = s.cur := by
  unfold State.takeTile; split <;> rfl

/-- A tile access leaves the core that it is of. -/
theorem myCore_tileReady {f : Fields} {e : QEntry} {xs : List Coord} {ps : List ElemAt} {s s1 : State} (h : tileReady f e xs ps s s1) :
    s1.myCore = s.myCore := by
  rw [← h.2]; exact congrArg coreOf ((cur_takeTile _ _).trans (cur_fillElems _ _ _ _))

/-- A tile load whose elements are read without poison. -/
theorem loadTile_done {f : Fields} {e : QEntry} {s s1 : State} {F : Fmt} {d : Nat} {ps : List ElemAt} {perElem : Bool} {coord : Nat → Nat → Coord}
    (hF : fieldFmt f = some F) (hd : e.dsts = [.v d])
    (hps : s.tileChecks f e false perElem ((s.activeElems f.e (shpRows e.shp) (shpCols e.shp)).map (fun p => coord p.1 p.2)) = .ok ps)
    (hready : tileReady f e ((s.activeElems f.e (shpRows e.shp) (shpCols e.shp)).map (fun p => coord p.1 p.2)) ps s s1)
    {g : Got × List Nat} (hg : (s1.bindFor (ps.flatMap (·.pieces))).readElems F.memBits ps = g) (hpois : g.1.poison = none) :
    s.loadTile f e perElem coord = .done (g.1.s.writeTile s.myCore d F.regBytes (s1.metBy e d F.regBytes
      (scatterTo (s.activeElems f.e (shpRows e.shp) (shpCols e.shp)) (g.2.map (memToReg F)) (shpRows e.shp) (shpCols e.shp)))) [] 0 := by
  have hcore := myCore_tileReady hready
  obtain ⟨hbusy, hs1⟩ := hready
  unfold State.loadTile
  simp only [hps, hbusy, hs1, memFmt_eq hF, hg, hpois, hd, hcore, Bool.false_eq_true, if_false]

/-- A tile store. -/
theorem storeTile_done {f : Fields} {e : QEntry} {s s1 : State} {F : Fmt} {ps : List ElemAt} {perElem : Bool} {coord : Nat → Nat → Coord}
    (hF : fieldFmt f = some F)
    (hps : s.tileChecks f e true perElem ((s.activeElems f.e (shpRows e.shp) (shpCols e.shp)).map (fun p => coord p.1 p.2)) = .ok ps)
    (hready : tileReady f e ((s.activeElems f.e (shpRows e.shp) (shpCols e.shp)).map (fun p => coord p.1 p.2)) ps s s1) :
    s.storeTile f e perElem coord = .done ((s1.writeElems F.memBits (ps.zip ((s.activeElems f.e (shpRows e.shp) (shpCols e.shp)).map (fun p =>
      regToMem F (((tileOf s1 e e.d F.regBytes)[p.1 * shpCols e.shp + p.2]?).getD 0))))).healWords F.memBits ps) [] 0 := by
  obtain ⟨hbusy, hs1⟩ := hready
  unfold State.storeTile
  simp only [hps, hbusy, hs1, memFmt_eq hF, Bool.false_eq_true, if_false, tileOf]

/-- Settles O25: the checks and the words of a tile access lead to its elements. -/
theorem tileLoadsAndStores : Obligations.TileLoadsAndStores := by
  unfold Obligations.TileLoadsAndStores
  refine ⟨?ldv, ?ldg, ?stv, ?stg⟩
  case ldv =>
    intro f q sp e s s1 F d ps at_ hF h hd hps hready g hpois
    exact runQueue_done (i := .ldv f) (body := ldvBody f) h (loadTile_done hF hd hps hready rfl hpois)
  case ldg =>
    intro f q sp e s s1 F d ps at_ hF h hd hps hready g hpois
    exact runQueue_done (i := .ldg f) (body := ldgBody f) h (loadTile_done hF hd hps hready rfl hpois)
  case stv =>
    intro f q sp e s s1 F ps at_ hF h hps hready
    exact runQueue_done (i := .stv f) (body := stvBody f) h (storeTile_done hF hps hready)
  case stg =>
    intro f q sp e s s1 F ps at_ hF h hps hready
    exact runQueue_done (i := .stg f) (body := stgBody f) h (storeTile_done hF hps hready)

end Sys2Proof.Proofs.TileAccesses
end

section
/-! SUPPORT. Family step: a step runs the decoded instruction (R94, R102), and what a decode fetches (R95, R97). -/

namespace Sys2Proof.Proofs.Step

open Sys2Proof.Machine Sys2Proof.Claims

/-- While the device runs, a decode may happen (R402, R403). -/
theorem allows_decode {s : State} (hp : s.power = .on ∨ s.power = .throttle) (hf : s.fwState = 1) (hc : s.clockStopped = false) (slot : Nat) :
    s.allows (.instructionDecode slot) = true := by
  unfold State.allows
  rcases hp with hp | hp <;> rw [hp] <;> simp [hf, hc]

/-- A decode whose fetch gives a line latches the instruction of its word. -/
theorem exec_decode_ok {s s1 : State} {slot : Nat} {line : BitVec 512} {i : Instr} (hslot : slot < 256) (hr : s.decodeReady slot = true)
    (hl : (s.decodes slot).fetchLine slot (s.strand slot).pc = .ok s1 line) (hd : decodeWord (lineWord line (slotPos (s.strand slot).pc)) = .ok i) :
    exec (.instructionDecode slot) s = .next { s1 with latched := some i } := by
  have hn : ¬ slot ≥ 256 := by omega
  show execInstructionDecode slot s = _
  unfold execInstructionDecode
  rw [if_neg hn, hr, if_neg (by decide)]
  dsimp only
  rw [hl]
  dsimp only
  rw [hd]

/-- Settles O3. -/
theorem stepRunsTheDecodedInstruction : Obligations.StepRunsTheDecodedInstruction := by
  unfold Obligations.StepRunsTheDecodedInstruction
  refine ⟨fun s s1 slot line i ha hp hf hc hslot hr hl hd => ?_, fun _ _ => rfl, fun _ => rfl⟩
  have hallow : s.allows (.instructionDecode slot) = true := allows_decode hp hf hc slot
  have hexec : exec (.instructionDecode slot) s.dropAgenda = .next { s1 with latched := some i } := exec_decode_ok hslot hr hl hd
  have hrun : act s (.event (.instructionDecode slot)) = exec i { s1 with latched := none } :=
    PowerStates.act_event_allowed rfl hallow hexec
  unfold step
  rw [ha]
  dsimp only
  rw [hrun] <;> rfl

/-! ### A strand table that lists a slot twice -/

/-- A device whose strand table lists slot 0 twice: the bound strand, and then an empty one. -/
def listedTwice : State :=
  let s := State.reset.withFetchWord 160 0x0D9DC00000000000000000000000000000000000
  { s with strands := [(0, s.strand 0), (0, {})] }

/-- The device as slot 0 decodes, the place of its line by the first entry, and what is read there. -/
def twiceDecodes : State := listedTwice.decodes 0
def twicePiece : Piece := twiceDecodes.pieceAt .il 1048576 64 64
def twiceGot : Got := twiceDecodes.readPieces (coreOf 0) [twicePiece]
def twiceLine : BitVec 512 := BitVec.ofNat 512 (leNat twiceGot.bytes)
def twiceWord : IWord := twiceLine.extractLsb' (32 + 160 * ((listedTwice.strand 0).pc.toNat % 3)) 160

/-- Whether an outcome leaves an instruction latched. -/
def latches : Out → Bool
  | .next t => t.latched.isSome
  | _ => false

theorem twice_ready : listedTwice.decodeReady 0 = true ∧ (listedTwice.strand 0).pc.toNat / 3 < 2 ^ 58 := by decide +kernel
theorem twice_place : twiceDecodes.translate (coreOf 0) (listedTwice.strand 0).pasid (listedTwice.strand 0).sys
    (BitVec.ofNat 64 (64 * ((listedTwice.strand 0).pc.toNat / 3))) .fetch = .ok .il 1048576 1072693248 1073741824 := by decide +kernel
theorem twice_published : ∀ u ∈ listedTwice.ubits, u.line ≠ lineKey .il 1048576 := by decide +kernel
theorem twice_readable : twiceDecodes.piecesFate false [twicePiece] = none ∧ twiceDecodes.beyond twicePiece = false ∧ twiceGot.poison = none := by
  decide +kernel
theorem twice_line : twiceLine.setWidth 32 = 0xC9000000#32 ∧ tabFind (twiceDecodes.core (coreOf 0)).icache (lineKey .il 1048576) = none := by
  decide +kernel
theorem twice_word : decodeWord twiceWord = .ok (.nop {}) := by decide +kernel
theorem twice_latches_not : latches (exec (.instructionDecode 0) listedTwice) = false := by decide +kernel

/-- Refutes O31: the statement reads the strand's context before the decode, of every state. In a state whose strand table lists slot 0 twice, the
decode writes the entries back in turn, the second one last, and then fetches for a strand of no context. -/
theorem not_decodeTakesTheWordOfItsSlot : ¬ Obligations.DecodeTakesTheWordOfItsSlot := by
  unfold Obligations.DecodeTakesTheWordOfItsSlot
  intro h
  obtain ⟨hready, hpc⟩ := twice_ready
  obtain ⟨hfate, hbeyond, hpoison⟩ := twice_readable
  obtain ⟨hhead, hcache⟩ := twice_line
  obtain ⟨hok, -⟩ := h 0 listedTwice .il 1048576 1072693248 1073741824 twiceLine (by decide) hready hpc twice_place twice_published hfate hbeyond
    hpoison rfl hhead hcache
  have hlatch := congrArg latches (hok _ twice_word)
  rw [twice_latches_not] at hlatch
  exact absurd hlatch (by decide)

end Sys2Proof.Proofs.Step
end

section
/-! SUPPORT. Family strand events: final results (R84, R87, R139, R265), timers, limits and user interrupts (R133, R141, R244), and the
first decode of a wrap-up (R313, R314). -/

namespace Sys2Proof.Proofs.StrandEvents

open Sys2Proof.Machine Sys2Proof.Claims

/-! ### Results become final -/

theorem takeFirst_append {α : Type} {p : α → Bool} {pre post : List α} {x : α} (hpre : ∀ y ∈ pre, p y = false) (hx : p x = true) :
    takeFirst p (pre ++ x :: post) = some (x, pre ++ post) := by
  induction pre with
  | nil => simp [takeFirst, hx]
  | cons y r ih =>
    have hr : takeFirst p (r ++ x :: post) = some (x, r ++ post) := ih fun z hz => hpre z (List.mem_cons_of_mem _ hz)
    simp [takeFirst, hpre y List.mem_cons_self, hr]

theorem whenSlot_some {slot : Nat} {s t : State} {r : Option State} (hslot : slot < 256) (hr : r = some t) : whenSlot slot s r = .next t := by
  have hn : ¬ slot ≥ 256 := by omega
  rw [whenSlot, if_neg hn, hr, Option.getD_some]

/-- What a destination takes at its delivery where no other result meets it (R139, R248). -/
def takesResult (t : Strand) (x : Dst × Word) : Strand :=
  let t1 := t.writeDst x.1 x.2
  { t1 with pending := t1.pending.filter (· != x.1), contested := t1.contested.filter (· != x.1) }

@[simp] theorem writeDst_contested (t : Strand) (d : Dst) (v : Word) : (t.writeDst d v).contested = t.contested := by
  cases d with
  | s n => simp only [Strand.writeDst, Strand.setS]; split <;> rfl
  | p n => simp only [Strand.writeDst, Strand.setP]; split <;> rfl
  | v n | m n => rfl

@[simp] theorem writeDst_flight (t : Strand) (d : Dst) (v : Word) : (t.writeDst d v).flight = t.flight := by
  cases d with
  | s n => simp only [Strand.writeDst, Strand.setS]; split <;> rfl
  | p n => simp only [Strand.writeDst, Strand.setP]; split <;> rfl
  | v n | m n => rfl

theorem deliver_alone {t : Strand} {d : Dst} (cyc fv : Nat) (v : Word) (hc : d ∉ t.contested) (hf : ∀ x ∈ t.flight, d ∉ x.dsts) :
    t.deliver cyc fv d v = takesResult t (d, v) := by
  have hmet : t.contested.contains d = false := by simpa using hc
  have hwin : t.inWindowX cyc d = false := by
    unfold Strand.inWindowX
    rw [List.any_eq_false]
    intro x hx
    simp [hf x hx]
  unfold Strand.deliver takesResult
  rw [hmet, hwin]
  rfl

theorem foldl_deliver_alone (cyc fv : Nat) (l : List (Dst × Word)) {t : Strand} (hc : ∀ x ∈ l, x.1 ∉ t.contested)
    (hf : ∀ x ∈ l, ∀ g ∈ t.flight, x.1 ∉ g.dsts) :
    l.foldl (fun t x => t.deliver cyc fv x.1 x.2) t = l.foldl takesResult t := by
  induction l generalizing t with
  | nil => rfl
  | cons x r ih =>
    rw [List.foldl_cons, List.foldl_cons, deliver_alone _ _ _ (hc x List.mem_cons_self) (hf x List.mem_cons_self)]
    apply ih
    · intro y hy
      have hcy : y.1 ∉ t.contested := hc y (List.mem_cons_of_mem _ hy)
      simp [takesResult, hcy]
    · intro y hy g hg
      exact hf y (List.mem_cons_of_mem _ hy) g (by simpa [takesResult] using hg)

theorem settle_spill (s : State) (slot : Nat) (q : Queue) (tk : BitVec 4) (k : Clock) (fl : Flags) (pos : Word) (ring : Nat) :
    s.settle slot (some q) tk k fl pos ring =
      if (((s.strand slot).mergeFlags fl).pushTokens q tk k).2 then
        (s.setStrand slot (((s.strand slot).mergeFlags fl).pushTokens q tk k).1).raiseTrap slot
          { code := .tokenOverflow, eng := engOf q, behind := ((s.strand slot).queue q).length, pos := pos, qent := ring, gone := true }
      else s.setStrand slot (((s.strand slot).mergeFlags fl).pushTokens q tk k).1 := rfl

/-- Settles O32. -/
theorem resultsBecomeFinal : Obligations.ResultsBecomeFinal := by
  unfold Obligations.ResultsBecomeFinal
  refine ⟨fun slot s pre post f hslot hflight => ⟨?_, ?_, ?_⟩, fun slot s tk k fl pos ring => ⟨rfl, fun q hq => ?_, fun q hq => ?_⟩⟩
  · rintro ⟨e, he, hle⟩ hpre
    have htake : takeFirst (windowDue s.cycle) (s.strand slot).flight = some (f, pre ++ post) := by
      rw [hflight]
      refine takeFirst_append (fun x hx => ?_) (by simpa [windowDue, he] using hle)
      unfold windowDue
      cases hx' : x.endsAt with
      | none => rfl
      | some e => simpa using hpre x hx e hx'
    exact whenSlot_some hslot (by unfold windowEnd?; rw [htake]; rfl)
  · intro hends hack hreplied hpre halone at_ t t1
    have htake : takeFirst (fun f => isDelivery f && s.replied slot f) (s.strand slot).flight = some (f, pre ++ post) := by
      rw [hflight]
      refine takeFirst_append (fun x hx => ?_) (by simp [isDelivery, hends, hack, hreplied])
      rcases hpre x hx with h | h | h
      · simp [isDelivery, h]
      · simp [isDelivery, h]
      · simp [h]
    have hdsts : ∀ x ∈ f.dsts.zip (s.bindLoad slot (fun _ => true) f).vals, x.1 ∈ f.dsts := fun x hx => (List.of_mem_zip hx).1
    have hdeliver : (f.dsts.zip (s.bindLoad slot (fun _ => true) f).vals).foldl (fun t x => t.deliver s.cycle (s.fv + 10) x.1 x.2)
        { s.strand slot with flight := pre ++ post } = t :=
      foldl_deliver_alone _ _ _ (fun x hx => (halone x.1 (hdsts x hx)).1) (fun x hx => (halone x.1 (hdsts x hx)).2)
    refine whenSlot_some hslot ?_
    unfold resultDelivery?
    rw [htake]
    dsimp only
    rw [show (s.bindLoad slot (fun _ => true) f).dsts = f.dsts from rfl, hdeliver]
    rfl
  · intro hack hreplied hpre s1
    have htake : takeFirst (fun f => f.ack && s.replied slot f) (s.strand slot).flight = some (f, pre ++ post) := by
      rw [hflight]
      refine takeFirst_append (fun x hx => ?_) (by simp [hack, hreplied])
      rcases hpre x hx with h | h <;> simp [h]
    exact whenSlot_some hslot (by unfold acknowledgement?; rw [htake]; rfl)
  · exact (settle_spill s slot q tk k fl pos ring).trans (if_neg (ne_true_of_eq_false hq))
  · exact (settle_spill s slot q tk k fl pos ring).trans ((if_pos hq).trans (by cases q <;> rfl))

/-! ### Timers, limits and user interrupts -/

theorem queue_setQueue (t : Strand) (q : Queue) (l : List QEntry) : (t.setQueue q l).queue q = l := by cases q <;> rfl

theorem setQueue_ne {t : Strand} {q : Queue} {e : QEntry} {l : List QEntry} : t.setQueue q (e :: l) ≠ {} := fun h => by
  have hq : (t.setQueue q (e :: l)).queue q = ({} : Strand).queue q := by rw [h]
  rw [queue_setQueue] at hq
  cases q <;> cases hq

/-- The trap of a wait's timer names the entries behind the head (R104). -/
theorem headTrap_of_queue {s : State} {slot : Nat} {q : Queue} {e x : QEntry} {r : List QEntry} (h : (s.strand slot).queue q = x :: r)
    (c : TrapCode) (sub : Nat) :
    s.headTrap slot q e c sub = s.raiseTrap slot { code := c, eng := engOf q, subc := sub, behind := r.length, pos := e.pos, qent := e.ring } := by
  unfold State.headTrap
  rw [h]
  rfl

/-- The trap of a wait's timer (R141). -/
def timeoutOf (i : Instr) : TrapCode := match i with
  | .ldfe _ => .feTimeout
  | _ => .waitTimeout

theorem timeoutOf_eq {i : Instr} {c : TrapCode} (hfe : (∃ f, i = .ldfe f) → c = .feTimeout) (hother : (∀ f, i ≠ .ldfe f) → c = .waitTimeout) :
    timeoutOf i = c := by
  unfold timeoutOf
  split
  next f => exact (hfe ⟨f, rfl⟩).symm
  next hne => exact (hother hne).symm

/-- Settles O33. -/
theorem timersAndUserInterrupts : Obligations.TimersAndUserInterrupts := by
  unfold Obligations.TimersAndUserInterrupts
  refine ⟨?_, ?_, ?_⟩
  · intro slot q s e r w x sp code t hslot hq hw hover htried hlast hstop hdiv hpre hsp hfe hother
    have hhead : ((s.setStrand slot (t.setQueue q ({ e with waiting := none } :: r))).strand slot).queue q = { e with waiting := none } :: r := by
      rw [strand_setStrand _ _ _ setQueue_ne, queue_setQueue]
    refine whenSlot_some hslot (Eq.trans ?_ (congrArg some (headTrap_of_queue (e := e) hhead code (sp.opc % 256))))
    have hdue : (decide (w + t.limit ≤ s.cycle) && decide (w + t.limit ≤ e.tried.getD 0) && t.stopping.isNone && t.diverting.isNone &&
        !t.preempting) = true := by simp [hover, htried, hlast, hstop, hdiv, hpre]
    unfold waitTimerExpiry?
    dsimp only
    rw [show (s.strand slot).queue q = e :: r from hq]
    dsimp only
    rw [hw]
    dsimp only
    rw [if_pos hdue, hsp, ← timeoutOf_eq hfe hother]
    rfl
  · intro slot s w hslot hw hlimit hun
    refine whenSlot_some hslot ?_
    unfold wfeLimitExpiry?
    rw [hw]
    exact if_pos (by simp [hlimit, Strand.awaits, hw, hun])
  · intro slot s t hslot hready hst hen hinh hcause
    refine whenSlot_some hslot (if_pos ?_)
    have hpending : uiPending t = true := by simpa [uiPending, hen, hinh] using hcause
    simp [show frontReady s.cycle (s.strand slot) = true from hready, show (s.strand slot).st ≠ .wrap from hst,
      show uiPending (s.strand slot) = true from hpending]

/-! ### The first decode of a wrap-up -/

/-- A strand table that lists slot 0 twice, both entries before the first decode of their wrap-up. -/
def wrapTwice : State := { State.reset with strands := [(0, { wrapFirst := true }), (0, { wrapFirst := true })] }

theorem wrapTwice_decodes : (wrapTwice.strand 0).wrapFirst = true ∧ ((wrapTwice.decodes 0).strand 0).wrapFirst = true := by decide +kernel

/-- Refutes O34: the statement asks of every state that the first decode at WUE ends that phase of its strand. In a state whose strand table lists
the slot twice, the decode writes the entries back in turn, the second one last. -/
theorem not_stopsRetirementAndDeadlines : ¬ Obligations.StopsRetirementAndDeadlines := by
  unfold Obligations.StopsRetirementAndDeadlines
  rintro ⟨-, -, -, hwrap, -⟩
  obtain ⟨hfirst, hstill⟩ := wrapTwice_decodes
  have hended := (hwrap 0 wrapTwice hfirst).1
  rw [hstill] at hended
  exact absurd hended (by decide)

end Sys2Proof.Proofs.StrandEvents
end

section
/-! SUPPORT. Family matrix events: operations, nests, early loads and self-tests start (R190, R198, R203, R212), and the parts of a nest
(R196, R197, R199, R214). -/

namespace Sys2Proof.Proofs.MatrixEvents

open Sys2Proof.Machine Sys2Proof.Claims

theorem whenCore_some {core : Nat} {s t : State} {r : Option State} (hcore : core < 64) (hr : r = some t) : whenCore core s r = .next t := by
  have hn : ¬ core ≥ 64 := by omega
  rw [whenCore, if_neg hn, hr, Option.getD_some]

theorem headOp_of_cons {c : Core} {o : MatOp} {r : List MatOp} (h : c.matq = o :: r) : c.headOp = some o := by
  rw [Core.headOp, h, List.head?_cons]

theorem tail_of_cons {c : Core} {o : MatOp} {r : List MatOp} (h : c.matq = o :: r) : c.matq.tail = r := by rw [h, List.tail_cons]

/-! ### The start of an operation -/

theorem opMayStart_of {s : State} {core : Nat} {o : MatOp} {r : List MatOp} (h : MayStart s core o r) :
    s.opMayStart core (s.core core) o = true := by
  obtain ⟨-, hrun, htest, hissue, hstop, hown⟩ := h
  have htest' : (o.started || !(s.testDue (s.core core))) = true := by
    rcases htest with h | h <;> simp [h]
  have hissue' : (mayIssue s.cycle (s.strand o.slot) || (o.loaded && (s.strand o.slot).draining)) = true := by
    rcases hissue with h | ⟨h1, h2⟩
    · simp [h]
    · simp [h1, h2]
  unfold State.opMayStart
  dsimp only
  rw [hrun, htest', hissue']
  simp [hstop, hown]

theorem isNest_of_ne {o : MatOp} (h : ∀ f, o.instr ≠ .mgo f) : isNest o = false := by
  unfold isNest
  split
  next f hf => exact absurd hf (h f)
  · rfl

theorem isNest_of_eq {o : MatOp} {f : Fields} (h : o.instr = .mgo f) : isNest o = true := by rw [isNest, h]

/-- An operation that is no nest starts by running. -/
theorem matrixOpStart_starts {s : State} {core : Nat} {o : MatOp} {r : List MatOp} (hcore : core < 64) (h : MayStart s core o r)
    (hne : ∀ f, o.instr ≠ .mgo f) :
    exec (.matrixOpStart core) s = .next (s.setCore core { s.core core with matq := { o with running := true } :: r }) := by
  refine whenCore_some hcore ?_
  unfold matrixOpStart?
  dsimp only
  rw [headOp_of_cons h.1]
  dsimp only
  rw [isNest_of_ne hne, opMayStart_of h, if_pos (by decide), Core.setHeadOp, tail_of_cons h.1]

/-! ### The start of a nest -/

/-- The start of a nest whose conditions hold: it goes on, fails a check, or starts with the scale entry that it reads (R198). -/
theorem nestStart_eq {s : State} {core : Nat} {o : MatOp} {r : List MatOp} {f : Fields} (h : MayStart s core o r) (hf : o.instr = .mgo f) :
    nestStart? core s =
      if o.started then some (s.setCore core ((s.core core).setHeadOp { o with running := true }))
      else match s.nestBadFirst o with
        | some b => some (s.matrixTrap core o b)
        | none => match (if scaledA o.cfg then s.readHandle o.slot (hSclh o.cfg.ahE) else .ok (s, 0)) with
          | .error (.trap x sub) => some (s.matrixTrap core o (x, sub))
          | .error (.held _ x _ a) => some (s.matrixTrap core o (x, a))
          | .error .moving => none
          | .ok (s1, scl) => match s1.nestBad o scl with
            | some b => some (s1.matrixTrap core o b)
            | none => some (s1.modCore core (fun k => { k.setHeadOp { o with running := true, started := true, handles := tabPut o.handles sclKey scl } with
                mstat := { k.mstat with susp := false } })) := by
  unfold nestStart?
  dsimp only
  rw [headOp_of_cons h.1]
  dsimp only
  rw [isNest_of_eq hf, opMayStart_of h, if_neg (by decide)] <;> rfl

/-- The first check that fails is the first of all. -/
theorem nestBad_of_first {s : State} {o : MatOp} {b : TrapCode × Nat} (h : s.nestBadFirst o = some b) (scl : BitVec 512) :
    s.nestBad o scl = some b := by
  unfold State.nestBad
  dsimp only
  rw [h]
  rfl

theorem nestBadFirst_of_none {s : State} {o : MatOp} {scl : BitVec 512} (h : s.nestBad o scl = none) : s.nestBadFirst o = none := by
  cases hb : s.nestBadFirst o with
  | none => rfl
  | some b => rw [nestBad_of_first hb] at h; cases h

/-- The core with its head replaced, where the head is `o`. -/
theorem setHeadOp_of_cons {c : Core} {o : MatOp} {r : List MatOp} (h : c.matq = o :: r) (x : MatOp) : c.setHeadOp x = { c with matq := x :: r } := by
  rw [Core.setHeadOp, tail_of_cons h]

/-! ### Early loads and self-tests -/

theorem mpreEarlyStart_loads {s s1 : State} {core : Nat} {x o : MatOp} {ahead : List MatOp} {mine : List Nat} (hcore : core < 64)
    (hsplit : splitMpre (s.core core).matq = (x :: ahead, some o)) (hl : o.loaded = false) (hissue : mayIssue s.cycle (s.strand o.slot) = true)
    (hmine : (let n := if isCpx o.cfg.fb then 32 else 64
      s.rectGroups o (handleEntry o o.flds.a) (pairX0 o.b) (pairX1 o.b) n (if mSparse o.cfg.mode then 32 else n)) = some mine)
    (hahead : ∀ y ∈ x :: ahead, ∃ gs, s.aheadGroups y = some gs ∧ ∀ g ∈ gs, g ∉ mine) (hwork : (mpreWork core o s).2 = .ok s1) :
    exec (.mpreEarlyStart core) s = .next (s1.modCore core (fun c => { c with
      matq := c.matq.map (fun y => if y = o then { y with loaded := true } else y) })) := by
  refine whenCore_some hcore ?_
  unfold mpreEarlyStart?
  dsimp only
  rw [hsplit]
  dsimp only
  rw [if_neg (by simp [hl, hissue])]
  dsimp only at hmine
  rw [hmine]
  dsimp only
  refine (if_pos ?_).trans (by rw [hwork])
  rw [List.all_eq_true]
  intro y hy
  obtain ⟨gs, hgs, hdis⟩ := hahead y hy
  rw [hgs]
  simpa using hdis

theorem isTestNow_idle {c : Core} {o : MatOp} (h : ∀ x ∈ c.matq, x.running = false ∧ x.started = false) (ho : c.headOp = some o) :
    (isTestNow o && o.running && !o.finished) = false := by
  have hrun : o.running = false := (h o (List.mem_of_head? ho)).1
  simp [hrun]

/-- Settles O35. -/
theorem matrixOperationsStart : Obligations.MatrixOperationsStart := by
  unfold Obligations.MatrixOperationsStart
  refine ⟨⟨fun core s o r hcore h hne => matrixOpStart_starts hcore h hne, fun core s o r f hcore h hf => ?_⟩, ⟨?_, ?_⟩⟩
  · have heq := nestStart_eq h hf
    refine ⟨fun hst => whenCore_some hcore ?_, fun hst b hb => whenCore_some hcore ?_, fun hst hscl hnone => whenCore_some hcore ?_,
      fun hst hscl hfirst s1 scl hread hnone hq => whenCore_some hcore ?_, fun hst hscl c sub hbad => whenCore_some hcore ?_⟩
    · rw [heq, if_pos hst, setHeadOp_of_cons h.1]
    · rw [heq, if_neg (by simp [hst]), hb]
    · rw [heq, if_neg (by simp [hst]), nestBadFirst_of_none hnone]
      dsimp only
      rw [if_neg (by simp [hscl])]
      dsimp only
      rw [hnone]
      dsimp only
      rw [State.modCore, setHeadOp_of_cons h.1]
      rfl
    · rw [heq, if_neg (by simp [hst]), hfirst]
      dsimp only
      rw [if_pos hscl, hread]
      dsimp only
      rw [hnone]
      dsimp only
      rw [State.modCore, setHeadOp_of_cons hq]
      rfl
    · rw [heq, if_neg (by simp [hst])]
      cases hb : s.nestBadFirst o with
      | some b =>
        obtain rfl : b = (c, sub) := Option.some.inj ((nestBad_of_first hb 0).symm.trans hbad)
        rfl
      | none =>
        dsimp only
        rw [if_neg (by simp [hscl])]
        dsimp only
        rw [hbad]
  · intro core s s1 x o ahead mine hcore hsplit hl hissue hmine hahead hwork
    exact mpreEarlyStart_loads hcore hsplit hl hissue hmine hahead hwork
  · intro core failing s hcore c bad after
    refine ⟨fun hdue hidle => whenCore_some hcore ?_, fun o r f hq hi hrun hfin => whenCore_some hcore ?_⟩
    · have hquiet : c.matq.any (fun x => x.running || x.started) = false := by
        rw [List.any_eq_false]
        intro x hx
        simp [hidle x hx]
      unfold selfTest?
      dsimp only
      rw [show s.testDue (s.core core) = true from hdue, show (s.core core).matq.any (fun x => x.running || x.started) = false from hquiet]
      cases ho : (s.core core).headOp with
      | none => rfl
      | some o =>
        dsimp only
        rw [isTestNow_idle hidle ho]
        rfl
    · unfold selfTest?
      dsimp only
      rw [show (s.core core).headOp = some o from headOp_of_cons hq]
      dsimp only
      rw [if_pos (by simp [isTestNow, hi, hrun, hfin])]
      rfl

/-! ### The parts of a nest -/

theorem afterPart_divert (o : MatOp) (pt : Part) (fl : Flags) : (o.afterPart pt fl).divert = o.divert := by
  unfold MatOp.afterPart; dsimp only; split
  · rfl
  · split <;> rfl

theorem afterPart_slot (o : MatOp) (pt : Part) (fl : Flags) : (o.afterPart pt fl).slot = o.slot := by
  unfold MatOp.afterPart; dsimp only; split
  · rfl
  · split <;> rfl

theorem afterPart_cfg (o : MatOp) (pt : Part) (fl : Flags) : (o.afterPart pt fl).cfg = o.cfg := by
  unfold MatOp.afterPart; dsimp only; split
  · rfl
  · split <;> rfl

theorem planeFor_loaded {o : MatOp} (h : mAutow o.cfg.mode = false) (s : State) (core p : Nat) : s.planeFor core o p = (s, .ok o) := by
  unfold State.planeFor
  rw [if_pos (by simp [h])]

theorem loadAhead_loaded {o : MatOp} (h : mAutow o.cfg.mode = false) (s : State) (core : Nat) : s.loadAhead core o = s := by
  unfold State.loadAhead
  rw [if_neg (by simp [h])]

/-- What a part leaves once its rows of A are read, or its trap (R196, R199, R214). -/
def afterRows (core : Nat) (o : MatOp) (pt : Machine.Part) (t k0 kn j0 jn : Nat) : State × Except (TrapCode × Nat) (List (List Cpx)) → State
  | (s1, .error b) => s1.nestTrap core o pt true b
  | (s1, .ok a) =>
    let z := partCells o.cfg (s1.core core) a t k0 kn j0 jn
    let o1 := o.afterPart pt z.2
    let s2 := (s1.setCore core (((s1.core core).putCells t z.1).setHeadOp o1)).loadAhead core o1
    if o1.divert && pt.last then s2.nestDiverted core o1 else s2

theorem afterRows_ok {o : MatOp} (hauto : mAutow o.cfg.mode = false) (core : Nat) (pt : Machine.Part) (t k0 kn j0 jn : Nat) (s1 : State)
    (a : List (List Cpx)) :
    afterRows core o pt t k0 kn j0 jn (s1, .ok a) =
      (let z := partCells o.cfg (s1.core core) a t k0 kn j0 jn
       let o1 := o.afterPart pt z.2
       let s2 := s1.setCore core (((s1.core core).putCells t z.1).setHeadOp o1)
       if o.divert && pt.last then s2.nestDiverted core o1 else s2) := by
  unfold afterRows
  dsimp only
  rw [loadAhead_loaded (by rw [afterPart_cfg]; exact hauto), afterPart_divert]

/-- Settles O36. -/
theorem nestPasses : Obligations.NestPasses := by
  unfold Obligations.NestPasses
  intro core s o r f hcore hruns hauto g c pt h idx k0 kn j0 jn t s0 rows
  obtain ⟨hq, hi, hrun, hst, hfin⟩ := hruns
  have hbusy : (!(isNest o && o.running && o.started) || o.finished) = false := by simp [isNest_of_eq hi, hrun, hst, hfin]
  have hpass : nestPass? core s = some (afterRows core o pt t k0 kn j0 jn rows) := by
    unfold nestPass?
    dsimp only
    rw [headOp_of_cons hq]
    dsimp only
    rw [hbusy, if_neg (by decide), planeFor_loaded hauto]
    dsimp only [rows, s0, h, idx, k0, kn, j0, jn, t, g, c, pt]
    generalize State.takeRows _ _ _ _ _ _ _ = x
    obtain ⟨s1, b | a⟩ := x
    · rfl
    · rfl
  refine ⟨?_, ?_⟩
  · intro s1 a hrows z o1 s2
    rw [hrows, afterRows_ok hauto] at hpass
    refine ⟨fun hgo => whenCore_some hcore (hpass.trans ?_), fun hstop => whenCore_some hcore (hpass.trans ?_)⟩
    · rw [hgo]; rfl
    · dsimp only
      rw [hstop, if_pos rfl, State.nestDiverted, afterPart_slot]
  · intro s1 b hrows
    rw [hrows] at hpass
    exact whenCore_some hcore hpass

end Sys2Proof.Proofs.MatrixEvents
end

section
/-! SUPPORT. Family matrix completions: what each operation has done when it completes (R190, R200 to R215), what MDRAIN writes (R209), and the
planes that a load leaves (R202, R206). -/

namespace Sys2Proof.Proofs.MatrixCompletions

open Sys2Proof.Machine Sys2Proof.Claims Sys2Proof.Proofs.MatrixEvents

/-! ### The end of an operation -/

theorem drainWords_of_ne {s : State} {o : MatOp} (h : ∀ f, o.instr ≠ .mdrain f) : s.drainWords o = [] := by
  unfold State.drainWords
  dsimp only
  split
  next hi _ => exact absurd hi (h _)
  · rfl

theorem takeDrain_of_nil {s : State} {o : MatOp} (h : s.drainWords o = []) (core : Nat) : s.takeDrain core o = s := by
  rw [State.takeDrain, h]

theorem lmUsed_nil (s : State) (core : Nat) : s.lmUsed core [] = false := by simp [State.lmUsed]

/-- The completion of a running operation with the words of its drain free (R190, R215). -/
theorem matrixOpComplete_of_work {s s0 s1 : State} {core : Nat} {o : MatOp} {r : List MatOp} {fl : Flags} (hcore : core < 64)
    (hq : (s.core core).matq = o :: r) (hrun : o.running = true) (hnest : isNest o = true → o.finished = true ∧ o.divert = false)
    (hfree : s.lmUsed core (s.drainWords o) = false) (hwork : matrixWork core o (s.takeDrain core o) = (s0, .ok (s1, fl))) :
    exec (.matrixOpComplete core) s = .next (opEnds s1 core o fl) := by
  have hgo : (!o.running || (isNest o && !o.finished) || s.lmUsed core (s.drainWords o)) = false := by
    cases hn : isNest o <;> simp_all
  have hstay : (isNest o && o.divert) = false := by
    cases hn : isNest o <;> simp_all
  refine whenCore_some hcore ?_
  unfold matrixOpComplete?
  rw [headOp_of_cons hq]
  dsimp only
  rw [hgo, if_neg (by decide), hstay, if_neg (by decide), hwork]
  rfl

/-- The same of an operation that drains nothing and is no nest. -/
theorem matrixOpComplete_plain {s s0 s1 : State} {core : Nat} {o : MatOp} {r : List MatOp} {fl : Flags} (hcore : core < 64)
    (hq : (s.core core).matq = o :: r) (hrun : o.running = true) (hnest : isNest o = false) (hdrain : ∀ f, o.instr ≠ .mdrain f)
    (hwork : matrixWork core o s = (s0, .ok (s1, fl))) : exec (.matrixOpComplete core) s = .next (opEnds s1 core o fl) := by
  have hnil := drainWords_of_ne (s := s) hdrain
  exact matrixOpComplete_of_work hcore hq hrun (by simp [hnest]) (by rw [hnil, lmUsed_nil]) ((takeDrain_of_nil hnil core).symm ▸ hwork)

/-- The trap of an operation that fails as it completes. -/
theorem matrixOpComplete_traps {s s1 : State} {core : Nat} {o : MatOp} {r : List MatOp} {b : TrapCode × Nat} (hcore : core < 64)
    (hq : (s.core core).matq = o :: r) (hrun : o.running = true) (hnest : isNest o = false) (hdrain : ∀ f, o.instr ≠ .mdrain f)
    (hwork : matrixWork core o s = (s1, .error b)) : exec (.matrixOpComplete core) s = .next (s1.matrixTrap core o b) := by
  have hnil := drainWords_of_ne (s := s) hdrain
  refine whenCore_some hcore ?_
  unfold matrixOpComplete?
  rw [headOp_of_cons hq]
  dsimp only
  rw [hnil, lmUsed_nil, hnest, takeDrain_of_nil hnil, if_neg (by simp [hrun]), if_neg (by simp), hwork]

theorem flds_of_instr {o : MatOp} {i : Instr} {f : Fields} (hi : o.instr = i) (hf : instrFields i = some f) : o.flds = f := by
  rw [MatOp.flds, hi, hf, Option.getD_some]

/-- What a load of the shadow plane, or the early load before it, has done (R202, R203). -/
theorem mpreWork_loads {core : Nat} {o : MatOp} {s s1 : State} {f : Fields} {p : Plane} {c : Core} (hf : o.flds = f) (hl : o.loaded = false)
    (hread : s.noting (State.notePlane o.slot (handleEntry o f.a) (pairX0 o.b) (pairX1 o.b) o.cfg.mode)
      (fun t => t.loadPlane o.slot (handleEntry o f.a) (pairX0 o.b) (pairX1 o.b) o.cfg.mode (masksOf (t.core core).meta_) o) = (s1, .ok (p, c))) :
    mpreWork core o s = (s1, .ok (s1.setCore core { c with shadow := p })) := by
  subst hf
  unfold mpreWork
  rw [if_neg (by simp [hl])]
  dsimp only
  rw [hread]

/-- MACCL from an LM tensor (R208). -/
theorem macclWork_reads {core : Nat} {o : MatOp} {s s1 : State} {n : BitVec 10} {rs : List (List Nat)} (hb : o.flds.b = .h n)
    (hrect : s.rectBad o.slot (handleEntry o (.h n)) (opFmt o) true false (pairX0 o.c) (pairX1 o.c) (tileCols (opFmt o)) 64 = none)
    (hread : s.noting (fun t => t.noteRows o.slot (handleEntry o (.h n)) (pairX0 o.c) (pairX1 o.c) (tileCols (opFmt o)) 64)
      (fun t => t.lmRows o.slot (handleEntry o (.h n)) (pairX0 o.c) (pairX1 o.c) (tileCols (opFmt o)) 64) = (s1, .ok rs)) :
    macclWork core o s = (s1, .ok (s1.modCore core (fun c => c.putCells (o.a.toNat % 4)
      ((rs.flatMap (fun r => r.map (memToReg (opFmt o)))).flatMap (accCells (opFmt o)))))) := by
  unfold macclWork
  dsimp only
  rw [hb]
  dsimp only
  rw [hrect]
  dsimp only
  rw [hread]

/-- MACCL from a vector register (R208). -/
theorem macclWork_register {core : Nat} {o : MatOp} {s : State} {n : BitVec 7} (hb : o.flds.b = .v n) :
    macclWork core o s = (s, .ok (s.modCore core (fun c => c.putCells (o.a.toNat % 4)
      ((s.tileAt o.slot o.seq o.b.toNat (opFmt o).regBytes (64 * tileCols (opFmt o))).flatMap (accCells (opFmt o)))))) := by
  unfold macclWork
  dsimp only
  rw [hb]

/-! ### What MDRAIN converts (R209) -/

theorem zipIdx_map_range {α : Type} (n : Nat) (g : Nat → α) : ((List.range n).map g).zipIdx = (List.range n).map (fun i => (g i, i)) := by
  apply List.ext_getElem?
  intro i
  by_cases h : i < n <;> simp [h]

theorem range_flatMap {α : Type} (m n : Nat) (g : Nat → α) :
    (List.range m).flatMap (fun i => (List.range n).map (fun j => g (n * i + j))) = (List.range (m * n)).map g := by
  induction m with
  | zero => simp
  | succ m ih =>
    rw [List.range_succ, List.flatMap_append, ih, Nat.succ_mul, List.range_add, List.map_append, List.flatMap_singleton, List.map_map]
    congr 1
    simp [Function.comp_def, Nat.mul_comm]

theorem length_denseFrom (t : Tab (BitVec 56)) (lo n : Nat) : (denseFrom t lo n).length = n := by
  induction n generalizing t lo with
  | zero => rfl
  | succ n ih =>
    unfold denseFrom
    split
    · simp [ih]
    · split <;> simp [ih]

theorem length_cells (c : Core) (t : Nat) : (c.cells t).length = 4096 := length_denseFrom _ _ _

theorem chunks_eq (n k : Nat) (l : List Nat) : chunks n k l = (List.range k).map (fun i => (l.drop (n * i)).take n) := by
  induction k generalizing l with
  | zero => rfl
  | succ k ih =>
    rw [chunks, ih, List.range_succ_eq_map, List.map_cons, List.map_map]
    simp [Function.comp_def, List.drop_drop, Nat.mul_succ, Nat.add_comm]

/-- A part of a list, element by element. -/
theorem take_drop_eq (l : List Nat) (a n : Nat) (h : a + n ≤ l.length) : (l.drop a).take n = (List.range n).map (fun j => (l[a + j]?).getD 0) := by
  apply List.ext_getElem?
  intro j
  by_cases hj : j < n
  · have hlt : a + j < l.length := by omega
    simp [hj, List.getElem?_drop, hlt]
  · rw [List.getElem?_eq_none (by simp only [List.length_take, List.length_drop]; omega),
      List.getElem?_eq_none (by simp only [List.length_map, List.length_range]; omega)]

theorem rows_cells (c : Core) (t : Nat) :
    chunks 64 64 (c.cells t) = (List.range 64).map (fun i => (List.range 64).map (fun j => ((c.cells t)[64 * i + j]?).getD 0)) := by
  rw [chunks_eq]
  refine List.map_congr_left fun i hi => take_drop_eq _ _ _ ?_
  have := List.mem_range.mp hi
  rw [length_cells]
  omega

/-- The element at row `i`, column `j` of a drained tile, from the conversions of its cells. -/
def drainElem (F : Fmt) (conv : Nat → Nat × Flags) (i j : Nat) : Nat × Flags :=
  if isCpx F then (F.ofParts (conv (64 * i + 2 * j)).1 (conv (64 * i + 2 * j + 1)).1, (conv (64 * i + 2 * j)).2 ||| (conv (64 * i + 2 * j + 1)).2)
  else conv (64 * i + j)

/-- The conversion of cell `k` of a tile. -/
def drainConv (F : Fmt) (mode : RMode) (asInt : Bool) (sh : Int) (cells : List Nat) (k : Nat) : Nat × Flags :=
  (if isCpx F then F.partFmt else F).convert mode true (drainVal asInt sh ((cells[k]?).getD 0))

theorem drainOut_row (F : Fmt) (mode : RMode) (asInt : Bool) (sh : Int) (cells : List Nat) (i : Nat) :
    drainOut F mode asInt sh ((List.range 64).map (fun j => (cells[64 * i + j]?).getD 0)) =
      (List.range (tileCols F)).map (drainElem F (drainConv F mode asInt sh cells) i) := by
  unfold drainOut tileCols
  cases hc : isCpx F with
  | true =>
    simp only [if_true]
    refine List.map_congr_left fun j hj => ?_
    have hlt : j < 32 := List.mem_range.mp hj
    have h0 : 2 * j < 64 := by omega
    have h1 : 2 * j + 1 < 64 := by omega
    simp [drainElem, drainConv, hc, h0, h1, ← Nat.add_assoc]
  | false =>
    simp [drainElem, drainConv, hc]

/-- The flags that a list raises. -/
theorem foldl_or_bit {α : Type} (l : List α) (g : α → Flags) (a : Flags) (b : Nat) :
    (l.foldl (fun a x => a ||| g x) a).getLsbD b = true ↔ a.getLsbD b = true ∨ ∃ x ∈ l, (g x).getLsbD b = true := by
  induction l generalizing a with
  | nil => simp
  | cons x r ih => simp [ih, or_assoc]

theorem foldl_rows_bit (l : List (List (Nat × Flags))) (a : Flags) (b : Nat) :
    (l.foldl (fun a r => r.foldl (fun a x => a ||| x.2) a) a).getLsbD b = true ↔
      a.getLsbD b = true ∨ ∃ r ∈ l, ∃ x ∈ r, x.2.getLsbD b = true := by
  induction l generalizing a with
  | nil => simp
  | cons r l ih => simp [ih, foldl_or_bit, or_assoc]

theorem exists_mem_map {α β : Type} {l : List α} {f : α → β} {p : β → Prop} : (∃ y ∈ l.map f, p y) ↔ ∃ x ∈ l, p (f x) := by
  constructor
  · rintro ⟨y, hy, h⟩
    obtain ⟨x, hx, rfl⟩ := List.mem_map.1 hy
    exact ⟨x, hx, h⟩
  · rintro ⟨x, hx, h⟩
    exact ⟨f x, List.mem_map_of_mem hx, h⟩

/-- A drain raises what the conversion of some cell raises. -/
theorem drain_raises (F : Fmt) (conv : Nat → Nat × Flags) (b : Nat) :
    (∃ r ∈ (List.range 64).map (fun i => (List.range (tileCols F)).map (drainElem F conv i)), ∃ x ∈ r, x.2.getLsbD b = true) ↔
      ∃ k < 4096, (conv k).2.getLsbD b = true := by
  simp only [exists_mem_map, List.mem_range]
  unfold tileCols drainElem
  cases hc : isCpx F with
  | true =>
    simp only [if_true, BitVec.getLsbD_or, Bool.or_eq_true]
    constructor
    · rintro ⟨i, hi, j, hj, h | h⟩
      · exact ⟨_, by omega, h⟩
      · exact ⟨_, by omega, h⟩
    · rintro ⟨k, hk, h⟩
      refine ⟨k / 64, by omega, k % 64 / 2, by omega, ?_⟩
      rcases Nat.mod_two_eq_zero_or_one k with h2 | h2
      · left; rwa [show 64 * (k / 64) + 2 * (k % 64 / 2) = k by omega]
      · right; rwa [show 64 * (k / 64) + 2 * (k % 64 / 2) + 1 = k by omega]
  | false =>
    simp only [Bool.false_eq_true, if_false]
    constructor
    · rintro ⟨i, hi, j, hj, h⟩
      exact ⟨_, by omega, h⟩
    · rintro ⟨k, hk, h⟩
      exact ⟨k / 64, by omega, k % 64, by omega, by rwa [Nat.div_add_mod]⟩

/-- The rows that an MDRAIN drains. -/
theorem drain_rows (F : Fmt) (mode : RMode) (asInt : Bool) (sh : Int) (c : Core) (t : Nat) :
    (chunks 64 64 (c.cells t)).map (drainOut F mode asInt sh) =
      (List.range 64).map (fun i => (List.range (tileCols F)).map (drainElem F (drainConv F mode asInt sh (c.cells t)) i)) := by
  rw [rows_cells, List.map_map]
  exact List.map_congr_left fun i _ => drainOut_row F mode asInt sh (c.cells t) i

/-- The elements of a drained tile in row-major order. -/
theorem drain_flat (F : Fmt) (conv : Nat → Nat × Flags) :
    ((List.range 64).map (fun i => (List.range (tileCols F)).map (drainElem F conv i))).flatMap (fun r => r.map (fun x => some x.1)) =
      (List.range (64 * tileCols F)).map (fun k => some (drainElem F conv (k / tileCols F) (k % tileCols F)).1) := by
  have hn : 0 < tileCols F := by unfold tileCols; split <;> decide
  rw [← range_flatMap, List.flatMap_map]
  simp only [List.flatMap_def]
  refine congrArg List.flatten (List.map_congr_left fun i _ => ?_)
  rw [List.map_map]
  refine List.map_congr_left fun j hj => ?_
  have hlt : j < tileCols F := List.mem_range.mp hj
  simp [Nat.mul_add_div hn, Nat.div_eq_of_lt hlt, Nat.mod_eq_of_lt hlt]

/-! ### The bits of a stored row (R36, R37) -/

/-- The value that a list of codes of `w` bits packs. -/
def packed (w : Nat) (codes : List Nat) : Nat := codes.zipIdx.foldl (fun a c => a + c.1 % 2 ^ w * 2 ^ (w * c.2)) 0

theorem packed_concat (w : Nat) (l : List Nat) (c : Nat) : packed w (l ++ [c]) = packed w l + c % 2 ^ w * 2 ^ (w * l.length) := by
  unfold packed
  rw [List.zipIdx_append, List.foldl_append]
  simp

/-- A list is empty or ends with an element. -/
theorem snoc_induction {α : Type} {P : List α → Prop} (nil : P []) (snoc : ∀ l a, P l → P (l ++ [a])) (l : List α) : P l := by
  rw [← List.reverse_reverse l]
  induction l.reverse with
  | nil => exact nil
  | cons a r ih => exact List.reverse_cons (a := a) (as := r) ▸ snoc _ a ih

theorem packed_lt (w : Nat) (codes : List Nat) : packed w codes < 2 ^ (codes.length * w) := by
  induction codes using snoc_induction with
  | nil => simp [packed]
  | snoc l c ih =>
    have hc : c % 2 ^ w < 2 ^ w := Nat.mod_lt _ (Nat.two_pow_pos w)
    rw [packed_concat, List.length_append, List.length_singleton, Nat.succ_mul, Nat.pow_add, Nat.mul_comm w]
    calc packed w l + c % 2 ^ w * 2 ^ (l.length * w)
        < 2 ^ (l.length * w) + c % 2 ^ w * 2 ^ (l.length * w) := by omega
      _ = (c % 2 ^ w + 1) * 2 ^ (l.length * w) := by rw [Nat.add_mul, Nat.one_mul, Nat.add_comm]
      _ ≤ 2 ^ w * 2 ^ (l.length * w) := Nat.mul_le_mul_right _ hc
      _ = 2 ^ (l.length * w) * 2 ^ w := Nat.mul_comm _ _

/-- A bit of two numbers side by side. -/
theorem testBit_beside (a b n i : Nat) (ha : a < 2 ^ n) : (a + b * 2 ^ n).testBit i = if i < n then a.testBit i else b.testBit (i - n) := by
  rw [Nat.add_comm, Nat.mul_comm, Nat.testBit_two_pow_mul_add b ha]

theorem testBit_packed (w : Nat) (codes : List Nat) {i : Nat} (h : i < codes.length * w) :
    (packed w codes).testBit i = ((codes[i / w]?).getD 0).testBit (i % w) := by
  have hw : 0 < w := Nat.pos_of_ne_zero fun hz => by simp [hz] at h
  induction codes using snoc_induction with
  | nil => simp at h
  | snoc l c ih =>
    have hlt : packed w l < 2 ^ (w * l.length) := Nat.mul_comm w _ ▸ packed_lt w l
    rw [packed_concat, testBit_beside _ _ _ _ hlt]
    rw [List.length_append, List.length_singleton, Nat.succ_mul] at h
    by_cases hi : i < w * l.length
    · have hidx : i / w < l.length := Nat.div_lt_of_lt_mul hi
      rw [if_pos hi, ih (by rwa [Nat.mul_comm] at hi), List.getElem?_append_left hidx]
    · have hge : w * l.length ≤ i := Nat.le_of_not_lt hi
      have hlow : i - w * l.length < w := by rw [Nat.mul_comm] at hge ⊢; omega
      have hdiv : i / w = l.length := Nat.div_eq_of_lt_le (by rwa [Nat.mul_comm]) (by rw [Nat.succ_mul]; omega)
      have hmod : i % w = i - w * l.length := by rw [← hdiv, Nat.mod_def]
      rw [if_neg hi, Nat.testBit_mod_two_pow, hdiv, hmod]
      simp [hlow]

/-- `old` with the `m` bits from bit `b` replaced by `v`. -/
def replaced (old v b m : Nat) : Nat := old - old / 2 ^ b % 2 ^ m * 2 ^ b + v * 2 ^ b

theorem replaced_eq (old v b m : Nat) : replaced old v b m = old % 2 ^ b + (v + old / 2 ^ b / 2 ^ m * 2 ^ m) * 2 ^ b := by
  have hold : old = old % 2 ^ b + (old / 2 ^ b % 2 ^ m + old / 2 ^ b / 2 ^ m * 2 ^ m) * 2 ^ b := by
    rw [Nat.mod_add_div' , Nat.mod_add_div']
  have hsplit : (old / 2 ^ b % 2 ^ m + old / 2 ^ b / 2 ^ m * 2 ^ m) * 2 ^ b = old / 2 ^ b % 2 ^ m * 2 ^ b + old / 2 ^ b / 2 ^ m * 2 ^ m * 2 ^ b :=
    Nat.add_mul _ _ _
  have hv : (v + old / 2 ^ b / 2 ^ m * 2 ^ m) * 2 ^ b = v * 2 ^ b + old / 2 ^ b / 2 ^ m * 2 ^ m * 2 ^ b := Nat.add_mul _ _ _
  unfold replaced
  omega

theorem testBit_replaced {v m : Nat} (old b i : Nat) (hv : v < 2 ^ m) :
    (replaced old v b m).testBit i = if b ≤ i ∧ i < b + m then v.testBit (i - b) else old.testBit i := by
  rw [replaced_eq, testBit_beside _ _ _ _ (Nat.mod_lt _ (Nat.two_pow_pos b))]
  by_cases hlow : i < b
  · rw [if_pos hlow, if_neg (by omega), Nat.testBit_mod_two_pow]
    simp [hlow]
  · rw [if_neg hlow, testBit_beside _ _ _ _ hv]
    by_cases hin : i - b < m
    · rw [if_pos hin, if_pos (by omega)]
    · rw [if_neg hin, if_neg (by omega), Nat.testBit_div_two_pow, Nat.testBit_div_two_pow]
      congr 1
      omega

theorem putLmRow_of_range {s : State} {slot : Nat} {e : BitVec 512} {x0 x1 : Nat} {codes : List Nat} {ps : List Piece}
    (h : s.lmRange slot (coreOf slot) (hBase e + hElemBit e ⟨x0, x1, 0, 0⟩ / 8)
      ((hElemBit e ⟨x0, x1, 0, 0⟩ % 8 + codes.length * hBits e + 7) / 8) = .ok ps) :
    s.putLmRow slot e x0 x1 codes =
      (if hElemBit e ⟨x0, x1, 0, 0⟩ % 8 = 0 ∧ codes.length * hBits e % 8 = 0 then s else (s.readPieces (coreOf slot) ps).s).writePieces
        (s.strand slot).party false (leBytes ((hElemBit e ⟨x0, x1, 0, 0⟩ % 8 + codes.length * hBits e + 7) / 8)
          (replaced (leNat (s.readPieces (coreOf slot) ps).bytes) (packed (hBits e) codes) (hElemBit e ⟨x0, x1, 0, 0⟩ % 8) (codes.length * hBits e))) ps := by
  unfold State.putLmRow
  dsimp only
  rw [h]
  simp only [replaced, packed, Bool.and_eq_true, decide_eq_true_eq]

/-! ### The planes that a load leaves (R202, R206) -/

theorem length_of_lmRow {s : State} {slot : Nat} {e : BitVec 512} {x0 x1 n : Nat} {r : List Nat} (h : s.lmRow slot e x0 x1 n = .ok r) :
    r.length = n := by
  unfold State.lmRow at h
  dsimp only at h
  split at h
  · cases h
  · split at h
    · cases h
    · cases h
      simp

theorem lengths_of_lmRows {s : State} {slot : Nat} {e : BitVec 512} {x0 x1 n h : Nat} {rows : List (List Nat)}
    (hr : s.lmRows slot e x0 x1 n h = .ok rows) : rows.length = h ∧ ∀ r ∈ rows, r.length = n := by
  induction h generalizing x1 rows with
  | zero => cases hr; simp
  | succ h ih =>
    unfold State.lmRows at hr
    split at hr
    · cases hr
    next r hrow =>
      split at hr
      · cases hr
      next rs hrows =>
        cases hr
        obtain ⟨hlen, hall⟩ := ih hrows
        exact ⟨by simp [hlen], by simpa using ⟨length_of_lmRow hrow, hall⟩⟩

/-- A key that is listed with one value only. -/
theorem tabGet_of_all {α : Type} {t : Tab α} {d : α} {k : Nat} {v : α} (hall : ∀ x ∈ t, x.1 = k → x.2 = v) (hex : (∃ x ∈ t, x.1 = k) ∨ v = d) :
    tabGet t d k = v := by
  induction t with
  | nil => rcases hex with ⟨x, hx, -⟩ | h
           · cases hx
           · exact h.symm
  | cons y r ih =>
    obtain ⟨j, w⟩ := y
    unfold tabGet
    by_cases hj : j = k
    · rw [if_pos hj]
      exact hall _ List.mem_cons_self hj
    · rw [if_neg hj]
      refine ih (fun x hx => hall x (List.mem_cons_of_mem _ hx)) ?_
      rcases hex with ⟨x, hx, hk⟩ | h
      · rcases List.mem_cons.mp hx with rfl | hx
        · exact absurd hk hj
        · exact .inl ⟨x, hx, hk⟩
      · exact .inr h

/-- Values set one after another, where a key is only given one value. -/
theorem tabGet_foldl_set {α : Type} [DecidableEq α] (l : List (Nat × α)) (d : α) (k : Nat) (v : α) (t : Tab α) (hw : tabWf t = true)
    (hall : ∀ x ∈ l, x.1 = k → x.2 = v) :
    tabGet (l.foldl (fun t c => tabSet t d c.1 c.2) t) d k = if ∃ x ∈ l, x.1 = k then v else tabGet t d k := by
  induction l generalizing t with
  | nil => simp
  | cons y r ih =>
    rw [List.foldl_cons, ih _ (tabWf_set _ _ _ _ hw) fun x hx => hall x (List.mem_cons_of_mem _ hx), tabGet_set_wf _ _ _ _ _ hw]
    by_cases hr : ∃ x ∈ r, x.1 = k
    · rw [if_pos hr, if_pos (by obtain ⟨x, hx, hk⟩ := hr; exact ⟨x, List.mem_cons_of_mem _ hx, hk⟩)]
    · rw [if_neg hr]
      by_cases hy : y.1 = k
      · rw [if_pos hy, if_pos ⟨y, List.mem_cons_self, hy⟩, hall y List.mem_cons_self hy]
      · rw [if_neg hy, if_neg]
        rintro ⟨x, hx, hk⟩
        rcases List.mem_cons.mp hx with rfl | hx
        · exact hy hk
        · exact hr ⟨x, hx, hk⟩

/-- The code at row `k`, column `j` of the rows that were read. -/
def codeAt (rows : List (List Nat)) (k j : Nat) : Nat := ((rows[k]?).bind (fun r => r[j]?)).getD 0

theorem mem_denseEls {f : Fmt} {rows : List (List Nat)} {x : Nat × BitVec 32} :
    x ∈ denseEls f rows ↔ ∃ k j r c, rows[k]? = some r ∧ r[j]? = some c ∧ BitVec.ofNat 32 (memToReg f c) ≠ 0 ∧
      x = (64 * k + j, BitVec.ofNat 32 (memToReg f c)) := by
  unfold denseEls
  simp only [List.mem_flatMap, List.mem_filterMap, Prod.exists, List.mem_zipIdx_iff_getElem?]
  constructor
  · rintro ⟨r, k, hk, c, j, hj, hx⟩
    by_cases hz : BitVec.ofNat 32 (memToReg f c) = 0
    · simp [hz] at hx
    · rw [if_neg hz] at hx
      exact ⟨k, j, r, c, hk, hj, hz, (Option.some.inj hx).symm⟩
  · rintro ⟨k, j, r, c, hk, hj, hz, rfl⟩
    exact ⟨r, k, hk, c, j, hj, if_neg hz⟩

theorem tabGet_denseEls {f : Fmt} {rows : List (List Nat)} {n k j : Nat} (hlen : rows.length = n) (hrow : ∀ r ∈ rows, r.length = n) (hn : n ≤ 64)
    (hk : k < n) (hj : j < n) : tabGet (denseEls f rows) 0 (64 * k + j) = BitVec.ofNat 32 (memToReg f (codeAt rows k j)) := by
  obtain ⟨r, hr⟩ : ∃ r, rows[k]? = some r := ⟨_, List.getElem?_eq_getElem (by omega)⟩
  obtain ⟨c, hc⟩ : ∃ c, r[j]? = some c := ⟨_, List.getElem?_eq_getElem (by rw [hrow r (List.mem_of_getElem? hr)]; exact hj)⟩
  have hat : codeAt rows k j = c := by simp [codeAt, hr, hc]
  rw [hat]
  apply tabGet_of_all
  · intro x hx hkey
    obtain ⟨k', j', r', c', hr', hc', -, rfl⟩ := mem_denseEls.mp hx
    have hj' : j' < 64 := by
      have := (List.getElem?_eq_some_iff.mp hc').1
      rw [hrow r' (List.mem_of_getElem? hr')] at this
      omega
    simp only at hkey
    obtain rfl : k' = k := by omega
    obtain rfl : j' = j := by omega
    obtain rfl : r' = r := Option.some.inj (hr'.symm.trans hr)
    obtain rfl : c' = c := Option.some.inj (hc'.symm.trans hc)
    rfl
  · by_cases hz : BitVec.ofNat 32 (memToReg f c) = 0
    · exact .inr hz
    · exact .inl ⟨_, mem_denseEls.mpr ⟨k, j, r, c, hr, hc, hz, rfl⟩, rfl⟩

/-- The cells of a sparse plane: each kept weight with its place (R206). -/
def sparseCells (f : Fmt) (masks : List (BitVec 64)) (rows : List (List Nat)) : List (Nat × BitVec 32) :=
  masks.zipIdx.flatMap (fun m => (setBits m.1).zipIdx.filterMap (fun k =>
    match rows[k.2]? with
    | some r => some (64 * k.1 + m.2, BitVec.ofNat 32 (memToReg f ((r[m.2]?).getD 0)))
    | none => none))

theorem mem_sparseCells {f : Fmt} {masks : List (BitVec 64)} {rows : List (List Nat)} {x : Nat × BitVec 32} :
    x ∈ sparseCells f masks rows ↔ ∃ (j : Nat) (w : BitVec 64) (m k : Nat) (r : List Nat), masks[j]? = some w ∧ (setBits w)[m]? = some k ∧ rows[m]? = some r ∧
      x = (64 * k + j, BitVec.ofNat 32 (memToReg f ((r[j]?).getD 0))) := by
  unfold sparseCells
  simp only [List.mem_flatMap, List.mem_filterMap, Prod.exists, List.mem_zipIdx_iff_getElem?]
  constructor
  · rintro ⟨w, j, hw, k, m, hk, hx⟩
    cases hr : rows[m]? with
    | none => simp [hr] at hx
    | some r =>
      rw [hr] at hx
      exact ⟨j, w, m, k, r, hw, hk, hr, (Option.some.inj hx).symm⟩
  · rintro ⟨j, w, m, k, r, hw, hk, hr, rfl⟩
    exact ⟨w, j, hw, k, m, hk, by rw [hr]⟩

theorem mem_setBits {w : BitVec 64} {k : Nat} : k ∈ setBits w ↔ k < 64 ∧ w.getLsbD k = true := by simp [setBits]

theorem setBits_place {w : BitVec 64} {m m' k : Nat} (h : (setBits w)[m]? = some k) (h' : (setBits w)[m']? = some k) : m = m' := by
  have hnd : (setBits w).Nodup := List.nodup_range.filter _
  obtain ⟨hm, hk⟩ := List.getElem?_eq_some_iff.mp h
  obtain ⟨hm', hk'⟩ := List.getElem?_eq_some_iff.mp h'
  rcases Nat.lt_trichotomy m m' with h | h | h
  · exact absurd (hk.trans hk'.symm) (List.pairwise_iff_getElem.mp hnd m m' hm hm' h)
  · exact h
  · exact absurd (hk'.trans hk.symm) (List.pairwise_iff_getElem.mp hnd m' m hm' hm h)

/-- What a key of a sparse plane comes from. -/
theorem sparseCells_at {f : Fmt} {masks : List (BitVec 64)} {rows : List (List Nat)} {x : Nat × BitVec 32} {j k : Nat} {w : BitVec 64}
    (hlen : masks.length ≤ 64) (hj : j < 64) (hw : masks[j]? = some w) (hx : x ∈ sparseCells f masks rows) (hkey : x.1 = 64 * k + j) :
    ∃ (m : Nat) (r : List Nat), (setBits w)[m]? = some k ∧ rows[m]? = some r ∧ x.2 = BitVec.ofNat 32 (memToReg f ((r[j]?).getD 0)) := by
  obtain ⟨j', w', m, k', r, hw', hk', hr, rfl⟩ := mem_sparseCells.mp hx
  have hj' : j' < 64 := by
    have := (List.getElem?_eq_some_iff.mp hw').1
    omega
  simp only at hkey
  obtain rfl : k' = k := by omega
  obtain rfl : j' = j := by omega
  obtain rfl : w' = w := Option.some.inj (hw'.symm.trans hw)
  exact ⟨m, r, hk', hr, rfl⟩

theorem tabGet_sparseEls_kept {f : Fmt} {masks : List (BitVec 64)} {rows : List (List Nat)} {j m k : Nat} {w : BitVec 64}
    (hlen : masks.length ≤ 64) (hj : j < 64) (hw : masks[j]? = some w) (hm : m < rows.length) (hk : (setBits w)[m]? = some k) :
    tabGet (sparseEls f masks rows) 0 (64 * k + j) = BitVec.ofNat 32 (memToReg f (codeAt rows m j)) := by
  obtain ⟨r, hr⟩ : ∃ r, rows[m]? = some r := ⟨_, List.getElem?_eq_getElem hm⟩
  have hat : codeAt rows m j = (r[j]?).getD 0 := by simp [codeAt, hr]
  have hcell : (64 * k + j, BitVec.ofNat 32 (memToReg f (codeAt rows m j))) ∈ sparseCells f masks rows :=
    mem_sparseCells.mpr ⟨j, w, m, k, r, hw, hk, hr, by rw [hat]⟩
  refine (tabGet_foldl_set (sparseCells f masks rows) 0 (64 * k + j) _ [] rfl fun x hx hkey => ?_).trans (if_pos ⟨_, hcell, rfl⟩)
  obtain ⟨m', r', hk', hr', hx2⟩ := sparseCells_at hlen hj hw hx hkey
  obtain rfl := setBits_place hk hk'
  obtain rfl : r' = r := Option.some.inj (hr'.symm.trans hr)
  rw [hx2, hat]

theorem tabGet_sparseEls_zero {f : Fmt} {masks : List (BitVec 64)} {rows : List (List Nat)} {j k : Nat} {w : BitVec 64}
    (hlen : masks.length ≤ 64) (hj : j < 64) (hw : masks[j]? = some w) (hk : w.getLsbD k = false) :
    tabGet (sparseEls f masks rows) 0 (64 * k + j) = 0 := by
  have hnone : ∀ x ∈ sparseCells f masks rows, x.1 ≠ 64 * k + j := fun x hx hkey => by
    obtain ⟨m, r, hm, -⟩ := sparseCells_at hlen hj hw hx hkey
    have := (mem_setBits.mp (List.mem_of_getElem? hm)).2
    rw [hk] at this
    cases this
  refine (tabGet_foldl_set (sparseCells f masks rows) 0 (64 * k + j) 0 [] rfl fun x hx hkey => absurd hkey (hnone x hx)).trans (if_neg ?_)
  rintro ⟨x, hx, hkey⟩
  exact hnone x hx hkey

/-- What a load that passes its checks gives. -/
theorem loadPlane_ok {s : State} {slot : Nat} {e : BitVec 512} {x0 x1 : Int} {mode : BitVec 64} {masks : List (BitVec 64)} {o : MatOp} {p : Plane}
    {c : Core} {rows : List (List Nat)}
    (hrows : s.lmRows slot e x0.toNat x1.toNat (if isCpx ((mFB mode).getD .e4m3) then 32 else 64)
      (if mSparse mode then 32 else if isCpx ((mFB mode).getD .e4m3) then 32 else 64) = .ok rows)
    (h : s.loadPlane slot e x0 x1 mode masks o = .ok (p, c)) :
    p = { cls := planeClass ((mFB mode).getD .e4m3), fmt := (mFB mode).getD .e4m3
          el := if mSparse mode then sparseEls ((mFB mode).getD .e4m3) masks rows else denseEls ((mFB mode).getD .e4m3) rows
          scales := if mBmx mode then ((s.core (coreOf slot)).scales.head?).map (·.2) else none, rows := if mSparse mode then some masks else none } ∧
      c = if mBmx mode then { s.core (coreOf slot) with scales := (s.core (coreOf slot)).scales.tail } else s.core (coreOf slot) := by
  unfold State.loadPlane at h
  dsimp only at h
  split at h
  · cases h
  split at h
  · cases h
  split at h
  · cases h
  split at h
  · cases h
  split at h
  · cases h
  rw [hrows] at h
  cases h
  exact ⟨rfl, rfl⟩

/-- Settles O37. -/
theorem matrixOperationsComplete : Obligations.MatrixOperationsComplete := by
  unfold Obligations.MatrixOperationsComplete
  refine ⟨?_, ?_, ?_, ?_⟩
  · intro core s o r hcore hq hrun ends t
    have plain {i : Instr} {s0 s1 : State} {fl : Flags} (hi : o.instr = i) (hn : ∀ f, i ≠ .mgo f) (hd : ∀ f, i ≠ .mdrain f)
        (hwork : matrixWork core o s = (s0, .ok (s1, fl))) : exec (.matrixOpComplete core) s = .next (opEnds s1 core o fl) :=
      matrixOpComplete_plain hcore hq hrun (isNest_of_ne (hi ▸ hn)) (hi ▸ hd) hwork
    refine ⟨?_, ?_, ?_, ?_, ?_, ?_, ?_, ?_, ?_, ?_, ?_, ?_, ?_⟩
    · intro f hi hl
      refine plain (s0 := s) hi (by simp) (by simp) ?_
      rw [matrixWork, hi, mpreWork, if_pos hl]
      rfl
    · intro f s1 p c hi hl hown hread
      refine plain (s0 := s1) hi (by simp) (by simp) ?_
      rw [matrixWork, hi]
      dsimp only
      rw [mpreWork_loads (flds_of_instr hi rfl) hl hread]
      rfl
    · intro f hi
      exact plain (s0 := s) hi (by simp) (by simp) (by rw [matrixWork, hi]; rfl)
    · intro f hi hfin hdiv
      have hd : ∀ g, o.instr ≠ .mdrain g := by simp [hi]
      have hnil := drainWords_of_ne (s := s) hd
      refine matrixOpComplete_of_work (s0 := s) hcore hq hrun (fun _ => ⟨hfin, hdiv⟩) (by rw [hnil, lmUsed_nil]) ?_
      rw [takeDrain_of_nil hnil, matrixWork, hi]
    · intro f s1 fl hi hfree hdrain
      refine matrixOpComplete_of_work (s0 := s.takeDrain core o) hcore hq hrun (fun h => absurd h (by simp [isNest, hi])) hfree ?_
      rw [matrixWork, hi]
      dsimp only
      rw [hdrain]
    · intro f hi
      exact plain (s0 := s) hi (by simp) (by simp) (by rw [matrixWork, hi])
    · intro f n hi hb
      refine plain (s0 := s) hi (by simp) (by simp) ?_
      rw [matrixWork, hi]
      dsimp only
      rw [macclWork_register (n := n) (by rw [flds_of_instr hi rfl, hb])]
      rfl
    · intro f n s1 rs hi hb hrect hread
      refine plain (s0 := s1) hi (by simp) (by simp) ?_
      rw [hb] at hrect hread
      rw [matrixWork, hi]
      dsimp only
      rw [macclWork_reads (by rw [flds_of_instr hi rfl, hb]) hrect hread]
      rfl
    · intro f hi
      exact plain (s0 := s) hi (by simp) (by simp) (by rw [matrixWork, hi])
    · intro f hi hfin
      exact plain (s0 := s) hi (by simp) (by simp) (by rw [matrixWork, hi]; dsimp only; rw [if_pos hfin])
    · intro f hi
      exact plain (s0 := s) hi (by simp) (by simp) (by rw [matrixWork, hi])
    · intro f hi hshape
      have hok : (o.a.toNat != 0 && (shapeFor o.a.toNat (s.core core).mstat.fenced).isNone) = false := by
        rcases hshape with h | h
        · simp [h]
        · cases hs : shapeFor o.a.toNat (s.core core).mstat.fenced with
          | none => rw [hs] at h; cases h
          | some x => simp
      exact plain (s0 := s) hi (by simp) (by simp) (by rw [matrixWork, hi]; dsimp only; rw [hok, if_neg (by decide)])
    · intro f hi ha hshape
      have hz : o.a.toNat ≠ 0 := fun h => ha (BitVec.eq_of_toNat_eq (by simpa using h))
      refine matrixOpComplete_traps hcore hq hrun (isNest_of_ne (by simp [hi])) (by simp [hi]) ?_
      rw [matrixWork, hi]
      dsimp only
      rw [if_pos (by simp [hz, hshape])]
  · intro core s o f hi F P t conv code n cleared raised
    have hflds : o.flds = f := flds_of_instr hi rfl
    have hrows : (chunks 64 64 ((s.core core).cells (o.a.toNat % 4))).map (drainOut (opFmt o) (modeOf f.flags o.rmode) (f.sub.getLsbD 1) (signedOf f.c o.c)) =
        (List.range 64).map (fun i => (List.range (tileCols (opFmt o))).map (drainElem (opFmt o) conv i)) :=
       drain_rows F (modeOf f.flags o.rmode) (f.sub.getLsbD 1) (signedOf f.c o.c) (s.core core) t
    have hraised : raised (((List.range 64).map (fun i => (List.range (tileCols F)).map (drainElem F conv i))).foldl
        (fun a r => r.foldl (fun a x => a ||| x.2) a) 0) := fun b => by
      rw [foldl_rows_bit, drain_raises]
      simp
    have hcode (i j : Nat) : (drainElem (opFmt o) conv i j).1 = code i j := by
      unfold drainElem code
      split <;> rfl
    refine ⟨fun v p hd hdst => ⟨_, hraised, ?_⟩, fun h hd hrect => ⟨_, hraised, ?_⟩⟩
    · unfold mdrainWork
      dsimp only
      rw [hflds, hd]
      dsimp only
      rw [hrows, drain_flat, hdst]
      simp only [hcode]
      rfl
    · rw [hd] at hrect
      unfold mdrainWork
      dsimp only
      rw [hflds, hd]
      dsimp only
      rw [show s.rectBad o.slot (handleEntry o (.h h)) (opFmt o) false true (pairX0 o.b) (pairX1 o.b) (tileCols (opFmt o)) 64 = none from hrect, hrows,
        zipIdx_map_range, List.foldl_map]
      simp only [List.map_map, Function.comp_def, hcode]
      rfl
  · intro s slot e x0 x1 codes ps b0 n g hrange
    exact ⟨_, putLmRow_of_range hrange, fun i hi => by
      rw [testBit_replaced _ _ _ (packed_lt _ _)]
      by_cases hin : b0 % 8 ≤ i ∧ i < b0 % 8 + codes.length * hBits e
      · rw [if_pos hin, if_pos hin, testBit_packed _ _ (by omega)]
      · rw [if_neg hin, if_neg hin]⟩
  · intro s slot e x0 x1 mode masks o p c rows f n at_ hrows h
    obtain ⟨rfl, rfl⟩ := loadPlane_ok hrows h
    obtain ⟨hlen, hall⟩ := lengths_of_lmRows hrows
    refine ⟨rfl, rfl, fun hd => ⟨by simp [hd], fun k hk j hj => ?_⟩, fun hs => ⟨by simp [hs], fun j w hm hj hw => ⟨fun m k hm32 hk => ?_, fun k hk hz => ?_⟩⟩, ?_⟩
    · simp only [hd, Bool.false_eq_true, if_false] at hlen ⊢
      exact tabGet_denseEls hlen hall (by unfold n; split <;> decide) hk hj
    · simp only [hs, if_true] at hlen ⊢
      exact tabGet_sparseEls_kept hm hj hw (by omega) hk
    · simp only [hs, if_true]
      exact tabGet_sparseEls_zero hm hj hw hz
    · split <;> exact ⟨rfl, rfl⟩

end Sys2Proof.Proofs.MatrixCompletions
end

section
/-! SUPPORT. Family engines: the shadow configuration of the matrix unit and entry into its queue (R190, R194, R195), commands and packets that
are queued (R216 to R219, R156), steps and results (R237 to R240). -/

namespace Sys2Proof.Proofs.EngineQueues

open Sys2Proof.Machine Sys2Proof.Claims

theorem sub_toNat_ne {x : BitVec 5} {n : Nat} (hn : n < 32) (h : x ≠ BitVec.ofNat 5 n) : x.toNat ≠ n := fun he =>
  h (BitVec.eq_of_toNat_eq (by rw [he, BitVec.toNat_ofNat, Nat.mod_eq_of_lt hn]))

/-! ### The matrix unit -/

/-- A matrix operation takes its turn as if it pushed nothing: its pushes wait for its completion (R190). -/
theorem headTakes_popsOnly (i : Instr) (f : Fields) (q : Queue) (sp : ISpec) (e : QEntry) (s : State) :
    headTakes i (popsOnly f) q sp e s = headTakes i f q sp e s := by
  have htk : s.me.tokensReady q (popsOnly f).tk = s.me.tokensReady q f.tk := by simp [Strand.tokensReady, popsOnly]
  have hready : headReady s.lgEn s.me s.cycle q i (popsOnly f).tk sp.route e = headReady s.lgEn s.me s.cycle q i f.tk sp.route e := by
    unfold headReady
    rw [htk]
  have hrange : rangeFault i (popsOnly f) e.shp s.ringNm1 isScalar e.a e.b e.c e.e = rangeFault i f e.shp s.ringNm1 isScalar e.a e.b e.c e.e := rfl
  unfold headTakes
  rw [hready, hrange]

/-- Entry into the matrix queue while fewer than eight operations are there. -/
theorem enterMatrix_room {f : Fields} {e : QEntry} {s : State} (h : (s.core s.myCore).matq.length < 8) (bs : List Byte) :
    enterMatrix f e bs s = .done (s.setCore s.myCore (withOp (s.core s.myCore) s.cur s.actClock f e bs)) [] 0 := by
  have hn : ¬ s.myMat.matq.length ≥ 8 := Nat.not_le.2 h
  exact if_neg hn

/-- A matrix operation that takes its turn with room in the queue. -/
theorem runQueue_enters {i : Instr} {f : Fields} {q : Queue} {sp : ISpec} {e : QEntry} {s : State} (h : headTakes i f q sp e s = true)
    (hroom : (s.core s.myCore).matq.length < 8) (bs : QEntry → State → List Byte) :
    runQueue i (popsOnly f) .none (fun e s => enterMatrix f e (bs e s) s) s =
      .next ((s.setCore s.myCore (withOp (s.core s.myCore) s.cur s.actClock f e (bs e s))).perform q (popsOnly f) sp .none e [] 0) :=
  runQueue_done ((headTakes_popsOnly i f q sp e s).trans h) (enterMatrix_room hroom _)

/-- The fields of MBASE by its sub-function (R194). -/
theorem mbaseBody_eq (f : Fields) (e : QEntry) (s : State) :
    mbaseBody f e s = .done (s.modCore s.myCore (fun c => { c with cfg :=
      if f.sub = 0 then { c.cfg with ah := BitVec.ofNat 10 (handleNum f.a), ahE := e.entry f.a, ax0 := e.b.extractLsb' 0 32, ax1 := e.b.extractLsb' 32 32 }
      else if f.sub = 1 then { c.cfg with bh := BitVec.ofNat 10 (handleNum f.a), bhE := e.entry f.a, bx0 := e.b.extractLsb' 0 32, bx1 := e.b.extractLsb' 32 32 }
      else if f.sub = 2 then { c.cfg with mh := BitVec.ofNat 10 (handleNum f.a), mhE := e.entry f.a, mx1 := e.b.extractLsb' 32 32 }
      else { c.cfg with zt := e.a.extractLsb' 0 2 } })) [] 0 := by
  unfold mbaseBody
  dsimp only
  by_cases h0 : f.sub = 0
  · rw [h0]; rfl
  by_cases h1 : f.sub = 1
  · rw [h1]; rfl
  by_cases h2 : f.sub = 2
  · rw [h2]; rfl
  simp only [if_neg h0, if_neg h1, if_neg h2]
  split
  next h => exact absurd h (sub_toNat_ne (n := 0) (by decide) h0)
  next h => exact absurd h (sub_toNat_ne (n := 1) (by decide) h1)
  next h => exact absurd h (sub_toNat_ne (n := 2) (by decide) h2)
  · rfl

theorem mscaleBody_room {e : QEntry} {s : State} (h : (s.core s.myCore).scales.length < 64) :
    mscaleBody e s = .done (s.modCore s.myCore (fun c => { c with
      scales := c.scales ++ [(c.scaleSeq, (s.tile s.cur e.a.toNat 1 128).map (BitVec.ofNat 8))], scaleSeq := c.scaleSeq + 1 })) [] 0 :=
  if_neg (Nat.not_le.2 h)

theorem mwaitBody_over {e : QEntry} {s : State} (h : ∀ o ∈ (s.core s.myCore).matq, o.slot = s.cur → e.seq ≤ o.seq) :
    mwaitBody e s = .done s [] 0 := by
  have hnone : s.myMat.matq.any (fun o => o.slot == s.cur && o.seq < e.seq) = false := by
    rw [List.any_eq_false]
    intro o ho
    have := h o ho
    simp only [Bool.and_eq_true, beq_iff_eq, decide_eq_true_eq, not_and, Nat.not_lt]
    exact this
  unfold mwaitBody
  rw [hnone]
  rfl

/-- Settles O28. -/
theorem matrixSetupAndQueue : Obligations.MatrixSetupAndQueue := by
  unfold Obligations.MatrixSetupAndQueue
  refine ⟨⟨?_, ?_, ?_, ?_, ?_, ?_⟩, ⟨?_, ?_⟩⟩
  · intro f q sp e s h
    exact runQueue_done (i := .mlev f) (body := mlevBody f) h rfl
  · intro f q sp e s h _ _ _ _
    exact runQueue_done (i := .mbase f) (body := mbaseBody f) h (mbaseBody_eq f e s)
  · intro f q sp e s h hok
    exact runQueue_done (i := .mmode f) (body := mmodeBody) h (if_pos hok)
  · intro f q sp e s h hroom
    exact runQueue_done (i := .mscale f) (body := mscaleBody) h (mscaleBody_room hroom)
  · intro f q sp e s h hover
    exact runQueue_done (i := .mwait f) (body := mwaitBody) h (mwaitBody_over hover)
  · intro f q sp e s h
    exact runQueue_done (i := .mstat f) (body := mstatBody) h rfl
  · intro op hop f q sp e s h hroom
    simp only [matrixInstrs, List.mem_cons, List.not_mem_nil, or_false] at hop
    rcases hop with rfl | rfl | rfl | rfl | rfl | rfl | rfl | rfl | rfl <;> exact runQueue_enters h hroom (fun _ _ => [])
  · intro f q sp e s h hroom
    exact runQueue_enters (i := .mspmeta f) h hroom (fun e s => (s.tile s.cur e.a.toNat 1 512).map (BitVec.ofNat 8))

/-! ### Commands and packets -/

theorem core_of_checks {cmd : Nat} {f : Fields} {e : QEntry} {s s1 : State} {c : Cmd} (h : IssueChecks cmd f e s s1 c) :
    c.core = s.myCore ∧ s.barBusy c = false := by
  obtain ⟨_, _, _, _, _, h⟩ := h
  dsimp only at h
  obtain ⟨-, -, -, -, -, -, -, -, -, -, hbar, rfl⟩ := h
  exact ⟨rfl, hbar⟩

theorem copyIssue_room {cmd : Nat} {f : Fields} {e : QEntry} {s s1 : State} {c : Cmd} (h : IssueChecks cmd f e s s1 c)
    (hroom : (s1.core s.myCore).copyq.length < 32) :
    copyIssue cmd f e s = .done ((s1.addPend { c with party := .copy s.me.serial }).1.enterCopy (s1.addPend { c with party := .copy s.me.serial }).2) [] 0 := by
  obtain ⟨hcore, hbar⟩ := core_of_checks h
  have hfull : s1.copyFull c.core = false := by rw [hcore]; exact decide_eq_false (Nat.not_le.2 hroom)
  unfold copyIssue
  rw [WaitsAndTokens.issueCmd_of_checks h, hfull, hbar]
  rfl

theorem memoryIssue_room {cmd : Nat} {f : Fields} {e : QEntry} {s s1 : State} {c : Cmd} (h : IssueChecks cmd f e s s1 c)
    (hroom : (s1.quad (quadOfC f e s)).q.length < 64) :
    memoryIssue cmd f e s = .done ((s1.addPend { c with party := .memory s.me.serial (quadOfC f e s), quad := some (quadOfC f e s) }).1.enterMemory
      (quadOfC f e s) (s1.addPend { c with party := .memory s.me.serial (quadOfC f e s), quad := some (quadOfC f e s) }).2) [] 0 := by
  have hfull : s1.memoryFull (quadOfC f e s) = false := decide_eq_false (Nat.not_le.2 hroom)
  unfold memoryIssue
  rw [WaitsAndTokens.issueCmd_of_checks h]
  dsimp only
  rw [hfull, (core_of_checks h).2]
  rfl

/-- A sound selector: its target decides (R156). -/
theorem placePacket_of_sound {f : Fields} {e : QEntry} {s : State} {pkt : BitVec 512} (h3 : e.a.getLsbD 3 = false) (hz1 : fld e.a 6 10 = 0)
    (hz2 : fld e.a 28 36 = 0) (ht : fld e.a 0 3 ≤ 3) :
    s.placePacket f e pkt = match fld e.a 0 3 with
      | 0 => if s.copyFull s.myCore then .full else .done (s.enterCopy (packetCmd f e pkt s))
      | 1 => if s.memoryFull (quadOf s.myCore) then .full
        else .done (s.enterMemory (quadOf s.myCore) { packetCmd f e pkt s with party := .memory s.me.serial (quadOf s.myCore) })
      | 2 => if s.memoryFull (fld e.a 4 2) then .full
        else .done (s.enterMemory (fld e.a 4 2) { packetCmd f e pkt s with party := .memory s.me.serial (fld e.a 4 2) })
      | _ => s.putRing (fld e.a 16 12) pkt.toNat := by
  have hno : (decide (fld e.a 0 3 > 3) || e.a.getLsbD 3 || fld e.a 6 10 != 0 || fld e.a 28 36 != 0) = false := by
    simp only [h3, hz1, hz2, decide_eq_false (Nat.not_lt.2 ht), bne_self_eq_false, Bool.or_self]
  unfold State.placePacket
  dsimp only
  rw [hno]
  rfl

theorem putRing_claims {s : State} {qn pkt : Nat} (h : s.qcbOf s.me.pasid (BitVec.ofNat 12 qn) = none ∨
    ∃ n, s.qcbOf s.me.pasid (BitVec.ofNat 12 qn) = some n ∧ (s.qcb n).typ = 3) : s.putRing qn pkt = .bad (.trap .claimViolation 0) 2 := by
  unfold State.putRing
  rcases h with h | ⟨n, h, ht⟩
  · rw [h]
  · rw [h]
    exact if_pos ht

theorem putRing_full {s : State} {qn pkt n : Nat} (h : s.qcbOf s.me.pasid (BitVec.ofNat 12 qn) = some n) (ht : (s.qcb n).typ ≠ 3)
    (hfree : s.freeSlot (s.qcb n) 0 (2 ^ (s.qcb n).log2n.toNat) = .ok none) : s.putRing qn pkt = .full := by
  unfold State.putRing
  rw [h]
  dsimp only
  rw [if_neg ht, hfree]

theorem putRing_places {s s1 : State} {qn pkt n i : Nat} {ps : List Piece} (h : s.qcbOf s.me.pasid (BitVec.ofNat 12 qn) = some n)
    (ht : (s.qcb n).typ ≠ 3) (hfree : s.freeSlot (s.qcb n) 0 (2 ^ (s.qcb n).log2n.toNat) = .ok (some (i, s1)))
    (hps : s1.vaPlace ((s.qcb n).slotVa i) 64 64 .write = .ok ps) :
    s.putRing qn pkt = .done (((s1.flushLate.writePieces s1.myParty true (leBytes 64 (pkt - pkt / 256 % 2 * 256 + 256)) ps).releaseAt (pieceLocs ps)
      systemScope).wakeQueue n) := by
  unfold State.putRing
  rw [h]
  dsimp only
  rw [if_neg ht, hfree]
  dsimp only
  rw [hps]

/-- Settles O29. -/
theorem commandsAndPacketsAreQueued : Obligations.CommandsAndPacketsAreQueued := by
  unfold Obligations.CommandsAndPacketsAreQueued
  refine ⟨⟨?_, ?_⟩, ?_, ?_, ?_, ?_, ?_⟩
  · intro op hop f q sp e s s1 c h hc hroom a
    simp only [copyCommands, List.mem_cons, List.not_mem_nil, or_false] at hop
    rcases hop with rfl | rfl | rfl | rfl | rfl <;> exact runQueue_done h (copyIssue_room hc hroom)
  · intro op hop f q sp e s s1 c h hc hroom a
    simp only [memoryCommands, List.mem_cons, List.not_mem_nil, or_false] at hop
    rcases hop with rfl | rfl | rfl | rfl | rfl <;> exact runQueue_done h (memoryIssue_room hc hroom)
  · intro f q sp e s s1 s2 pkt h hr hp
    exact runQueue_done (i := .qput f) (body := qputBody f) h (by rw [qputBody, WaitsAndTokens.qputPlace_of_reads hr, hp])
  · intro f q sp e s s1 pkt h hr hp
    exact WaitsAndTokens.runQueue_waits (i := .qput f) h (by rw [qputBody, WaitsAndTokens.qputPlace_of_reads hr, hp])
  · intro f q sp e s s1 s2 pkt h hr hp
    exact runQueue_done (i := .qputNb f) (body := qputNbBody f) h (by rw [qputNbBody, WaitsAndTokens.qputPlace_of_reads hr, hp])
  · intro f q sp e s s1 pkt h hr hp
    exact runQueue_done (i := .qputNb f) (body := qputNbBody f) h (by rw [qputNbBody, WaitsAndTokens.qputPlace_of_reads hr, hp])
  · intro f e s pkt h3 hz1 hz2
    have hplace (ht : fld e.a 0 3 ≤ 3) := placePacket_of_sound (f := f) (s := s) (pkt := pkt) h3 hz1 hz2 ht
    refine ⟨fun ht hroom => ?_, fun ht hroom => ?_, fun ht hroom => ?_, fun ht => ?_, ?_⟩
    · rw [hplace (by omega), ht]
      exact if_neg (by simpa [State.copyFull] using hroom)
    · rw [hplace (by omega), ht]
      exact if_neg (by simpa [State.memoryFull] using hroom)
    · rw [hplace (by omega), ht]
      exact if_neg (by simpa [State.memoryFull] using hroom)
    · intro k
      rw [hplace (by omega), ht]
      exact ⟨fun hk => putRing_claims hk, fun n hk hty => ⟨fun hfree => putRing_full hk hty hfree, fun i s1 ps hfree hps => putRing_places hk hty hfree hps⟩⟩
    · rintro (⟨ht, hfull⟩ | ⟨ht, hfull⟩ | ⟨ht, hfull⟩)
      · rw [hplace (by omega), ht]
        exact if_pos (decide_eq_true hfull)
      · rw [hplace (by omega), ht]
        exact if_pos (decide_eq_true hfull)
      · rw [hplace (by omega), ht]
        exact if_pos (decide_eq_true hfull)

/-! ### Steps and results -/

theorem pvalWord_eq (sub : BitVec 5) (valid a : Word) :
    pvalWord sub.toNat valid a = if sub = 0 then valid ||| a else if sub = 1 then valid ||| (1 <<< a.toNat) else valid &&& ~~~a := by
  by_cases h0 : sub = 0
  · rw [h0]; rfl
  by_cases h1 : sub = 1
  · rw [h1, if_neg (by decide), if_pos rfl]
    show valid ||| BitVec.ofNat 64 (2 ^ a.toNat) = _
    congr 1
    apply BitVec.eq_of_toNat_eq
    simp [Nat.shiftLeft_eq]
  rw [if_neg h0, if_neg h1]
  unfold pvalWord
  split
  next h => exact absurd h (sub_toNat_ne (n := 0) (by decide) h0)
  next h => exact absurd h (sub_toNat_ne (n := 1) (by decide) h1)
  · rfl

theorem writeResult_ok {t : Strand} {s s1 : State} (h : (s.setMe t).writeRd s.cur = .ok s1) (k : State → State) :
    writeResult t s k = .done (k s1) [] 0 := by
  unfold writeResult
  rw [h]

/-- Settles O30. -/
theorem stepsAndResults : Obligations.StepsAndResults := by
  unfold Obligations.StepsAndResults
  refine ⟨?_, ?_, ?_⟩
  · intro f q sp e s h mask n g t g1 agreed t1 hfrozen hown t2
    refine runQueue_done (i := .step f) (body := stepBody) h ?_
    have hmask : e.b.extractLsb' 0 8 = mask := (SystemRegisters.extractLsb'_zero _ _)
    have hn : e.a.extractLsb' 0 48 = n := (SystemRegisters.extractLsb'_zero _ _)
    have hhigh : ¬ n.toNat ≤ (tabGet s.groups {} mask.toNat).own.toNat := Nat.not_le.2 hown
    have hgains : (if e.dsts.isEmpty then t else t.gains (t.stepClock g1 agreed mask)) = t1 := by
      unfold t1
      by_cases hd : e.dsts = [] <;> simp [hd]
    have hstepped : (if t.stepped.contains (t.me.lnch, mask) then t.stepped else t.stepped ++ [(t.me.lnch, mask)]) = t2.stepped := by
      show _ = if (t.me.lnch, mask) ∈ t.stepped then t.stepped else t.stepped ++ [(t.me.lnch, mask)]
      by_cases hm : (t.me.lnch, mask) ∈ t.stepped <;> simp [hm]
    have hdone : stepBody e s = .done (({ (if e.dsts.isEmpty then t else t.gains (t.stepClock g1 agreed mask)) with
        groups := tabSet t.groups {} mask.toNat g1
        stepped := if t.stepped.contains (t.me.lnch, mask) then t.stepped else t.stepped ++ [(t.me.lnch, mask)] } : State).sendGroup mask
        (.stepCommit mask.toNat t.ringPos n)) [agreed.setWidth 64] 0 := by
      unfold stepBody
      dsimp only
      rw [hmask, hn, if_neg (ne_true_of_eq_false hfrozen), if_neg hhigh]
    rw [hdone, hgains, hstepped]
  · intro f q sp e s h t t1 s1 ps hw hp
    refine runQueue_done (i := .commit f) (body := commitBody f) h ?_
    unfold commitBody
    dsimp only
    rw [writeResult_ok hw, hp]
  · intro f q sp e s s1 h t t1 hw
    refine runQueue_done (i := .pval f) (body := pvalBody f) h ?_
    unfold pvalBody
    dsimp only
    rw [pvalWord_eq]
    exact writeResult_ok hw id

end Sys2Proof.Proofs.EngineQueues
end

section
/-! SUPPORT. Family copy queue: starts (R219, R222, R235, R368), sectors (R223), completions (R220, R224) and the ends of reductions (R235, R236). -/

namespace Sys2Proof.Proofs.CopyQueue

open Sys2Proof.Machine Sys2Proof.Claims Sys2Proof.Proofs.MatrixEvents

/-! ### Starts -/

theorem startQput_sound {codes all : List Nat} {c : Cmd} (s : State) (h : Sound codes c) (hall : ∀ x ∈ codes, x ∈ all) :
    s.startQput all c = .ok (s, c) := by
  obtain ⟨hcmd, hok, hvia⟩ := h
  have hin : all.contains (dCmd c.desc) = true := List.contains_iff_mem.2 (hall _ hcmd)
  have hno : (!c.viaQput || c.bar.isSome) = true := by rcases hvia with h | h <;> simp [h]
  unfold State.startQput
  rw [hin, hok, if_neg (by decide), hno]
  rfl

theorem startIn_copy {codes : List Nat} {c : Cmd} {s : State} {layout : State → Cmd → Except Bad (State × Cmd)} (h : Sound codes c)
    (h3 : 0x03 ∉ codes) (h21 : 0x21 ∉ codes) : s.startIn layout c = s.startCopy c := by
  obtain ⟨hcmd, -, -⟩ := h
  unfold State.startIn
  split
  next he => rw [he] at hcmd; exact absurd hcmd h3
  next he => rw [he] at hcmd; exact absurd hcmd h21
  · rfl

theorem startIn_layout {c : Cmd} (h : dCmd c.desc = 0x03) (s : State) (layout : State → Cmd → Except Bad (State × Cmd)) :
    s.startIn layout c = layout s c := by
  unfold State.startIn
  rw [h]
  rfl

theorem startIn_areduce {c : Cmd} (h : dCmd c.desc = 0x21) (s : State) (layout : State → Cmd → Except Bad (State × Cmd)) :
    s.startIn layout c = s.startAreduce c := by
  unfold State.startIn
  rw [h]
  rfl

theorem copyCommandStart_eq {core : Nat} {s : State} {c : Cmd} (hw : Waits s (.copy core) c) (layout : State → Cmd → Except Bad (State × Cmd)) :
    copyCommandStart? layout core s = s.startCmd (.copy core) copyCodes (fun t c => t.startIn layout c) c := by
  obtain ⟨hhead, hmay, -⟩ := hw
  unfold copyCommandStart?
  dsimp only
  rw [hhead]
  dsimp only
  rw [hmay, if_neg (by decide)]

/-- The start of a waiting command that passes the first checks: it starts, or fails with CODE 5 (R219). -/
theorem copyStart_ok {core : Nat} {s s2 : State} {c c2 : Cmd} {codes : List Nat} (hcore : core < 64) (hw : Waits s (.copy core) c)
    (hs : Sound codes c) (hcodes : ∀ x ∈ codes, x ∈ copyCodes) (h : s.startIn State.startLayout c = .ok (s2, c2)) :
    exec (.copyCommandStart core) s = .next (s2.setHeadCmd (.copy core) c2) := by
  refine whenCore_some hcore ((copyCommandStart_eq hw _).trans ?_)
  unfold State.startCmd
  rw [hw.2.2]
  dsimp only
  rw [startQput_sound s hs hcodes]
  dsimp only
  rw [h]

theorem copyStart_fails {core : Nat} {s : State} {c : Cmd} {codes : List Nat} {code : TrapCode} {sub : Nat} (hcore : core < 64)
    (hw : Waits s (.copy core) c) (hs : Sound codes c) (hcodes : ∀ x ∈ codes, x ∈ copyCodes)
    (h : s.startIn State.startLayout c = .error (.trap code sub)) :
    exec (.copyCommandStart core) s = .next (s.setHeadCmd (.copy core) (c.failStart code sub)) := by
  have hbad : s.cmdBad (.copy core) c true (.trap code sub) = some (s.setHeadCmd (.copy core) (c.failStart code sub)) := by
    unfold State.cmdBad
    split <;> simp_all
  refine whenCore_some hcore ((copyCommandStart_eq hw _).trans ?_)
  unfold State.startCmd
  rw [hw.2.2]
  dsimp only
  rw [startQput_sound s hs hcodes]
  dsimp only
  rw [h]
  dsimp only
  rw [hbad]

theorem firstBadOf_none {l : List (Option Bad)} (h : ∀ x ∈ l, x = none) : firstBadOf l = none :=
  List.findSome?_eq_none_iff.2 fun x hx => h x hx

theorem startCopy_ok {s s1 : State} {c : Cmd} {a b : BitVec 512} (hh : s.startHandles c.slot [fld c.desc 64 10, fld c.desc 80 10] = .ok (s1, [a, b]))
    (ha : copyHandleBad a true false = none) (hb : copyHandleBad b false true = none) (hlen : (copyShape c.desc).len ≠ 0)
    (hrows : (copyShape c.desc).rows ≠ 0) (hal : dCmd c.desc = 4 → fld c.desc 320 3 = 0)
    (hra : s1.copyRange c a (fld c.desc 128 64) (copyShape c.desc).ss (copyShape c.desc) = none)
    (hrb : s1.copyRange c b (fld c.desc 192 64) (copyShape c.desc).ds (copyShape c.desc) = none) :
    s.startCopy c = .ok (s1, { c with src := a, dst := b, started := true }) := by
  have halign : (if dCmd c.desc == 0x04 && fld c.desc 320 3 != 0 then some (Bad.trap .alignment 3) else none) = none := by
    by_cases h4 : dCmd c.desc = 4
    · simp [hal h4]
    · simp [h4]
  unfold State.startCopy
  dsimp only
  rw [hh]
  dsimp only
  rw [ha, hb, if_neg (by simp [hlen, hrows]), halign, hra, hrb]
  rfl

/-- The checks of a LAYOUT, and the scale tensors that it reads (R367, R368). -/
theorem startLayout_ok {s s1 s2 s3 : State} {c : Cmd} {a b sa sb : BitVec 512}
    (hh : s.startHandles c.slot [fld c.desc 64 10, fld c.desc 80 10] = .ok (s1, [a, b]))
    (ha : hCheck a (farSpace a && hType a != some .a56i && hType a != some .a56f) true false = none)
    (hexp : ellOp c.desc = 2 → fld c.desc 64 10 = fld c.desc 80 10 ∧ hLayout b = 1 ∧ hWr b = true)
    (hb : ellOp c.desc ≠ 2 → hCheck b (farSpace b && (hLayout b == 1 || hLayout b == 2) && ellFmt c.desc == hType b) false true = none)
    (hn : ellTiles c.desc ≠ 0) (hdims : sameDims a b = true) (hfmt : ellFmt c.desc = hType b)
    (hcount : ellTile0 c.desc + ellTiles c.desc ≤ tileCount a)
    (hfits : ∀ k < ellTiles c.desc, tileFits a (ellTile0 c.desc + k) = true ∧ tileFits b (ellTile0 c.desc + k) = true)
    (hlay : ellOp c.desc = 0 → ellFmt c.desc = hType a ∧ hScaled a = hScaled b)
    (hconv : ellOp c.desc = 1 → Fmt.convIllegal ((hType a).getD .int8) ((ellFmt c.desc).getD .int8) = false ∧
      (hScaled b = true → hDim b 0 % 32 = 0) ∧ ellRnd c.desc ≤ 4)
    (hcomp : ellOp c.desc ≠ 2 → s1.dstCompressed c b ((List.range (ellTiles c.desc)).map (ellTile0 c.desc + ·)) = false)
    (hsa : s1.scaleEntry c.slot a false = .ok (s2, sa)) (hsb2 : ellOp c.desc = 2 → s3 = s2 ∧ sb = 0)
    (hsb : ellOp c.desc ≠ 2 → s2.scaleEntry c.slot b true = .ok (s3, sb)) :
    s.startLayout c = .ok (s3, { c with src := a, dst := b, aux := sa, input := [sb.toNat], started := true }) := by
  have hnb : ¬ ellTile0 c.desc + ellTiles c.desc > tileCount a := Nat.not_lt.2 hcount
  have hall : (List.range (ellTiles c.desc)).all (fun k => tileFits a (ellTile0 c.desc + k) && tileFits b (ellTile0 c.desc + k)) = true := by
    rw [List.all_eq_true]
    intro k hk
    obtain ⟨h1, h2⟩ := hfits k (List.mem_range.mp hk)
    simp [h1, h2]
  have hdst : (if ellOp c.desc = 2 then (if fld c.desc 64 10 = fld c.desc 80 10 ∧ hLayout b = 1 ∧ hWr b then none else some (Bad.trap .layoutMismatch 0))
      else hCheck b (farSpace b && (hLayout b == 1 || hLayout b == 2) && ellFmt c.desc == hType b) false true) = none := by
    by_cases h2 : ellOp c.desc = 2
    · rw [if_pos h2, if_pos (hexp h2)]
    · rw [if_neg h2, hb h2]
  have h0 : (decide (ellOp c.desc = 0) && !(ellFmt c.desc == hType a && hScaled a == hScaled b)) = false := by
    by_cases h : ellOp c.desc = 0
    · simp [hlay h]
    · simp [h]
  have h1 : (decide (ellOp c.desc = 1) && (Fmt.convIllegal ((hType a).getD .int8) ((ellFmt c.desc).getD .int8) || (hScaled b && hDim b 0 % 32 != 0))) = false := by
    by_cases h : ellOp c.desc = 1
    · obtain ⟨hc, hs, -⟩ := hconv h
      cases hsc : hScaled b with
      | true => simp [hc, hs hsc]
      | false => simp [hc]
    · simp [h]
  have h1r : (decide (ellOp c.desc = 1) && decide (ellRnd c.desc > 4)) = false := by
    by_cases h : ellOp c.desc = 1
    · simp [(hconv h).2.2]
    · simp [h]
  have h2 : (ellOp c.desc != 2 && s1.dstCompressed c b ((List.range (ellTiles c.desc)).map (ellTile0 c.desc + ·))) = false := by
    by_cases h : ellOp c.desc = 2
    · simp [h]
    · simp [hcomp h]
  have hscale : (if ellOp c.desc = 2 then Except.ok (s2, 0) else s2.scaleEntry c.slot b true) = .ok (s3, sb) := by
    by_cases h : ellOp c.desc = 2
    · obtain ⟨rfl, rfl⟩ := hsb2 h
      rw [if_pos h]
    · rw [if_neg h, hsb h]
  unfold State.startLayout
  dsimp only
  rw [hh]
  dsimp only
  rw [ha, hdst, if_neg hn, if_pos hdims, if_pos (by simp [hfmt]), if_neg hnb, if_pos hall, h0, h1, h1r, h2]
  simp only [Bool.false_eq_true, if_false]
  rw [show firstBadOf [none, none, none, none, none, none, none, none, none, none, none] = none from rfl]
  dsimp only
  rw [hsa]
  dsimp only
  rw [hscale]

theorem startAreduce_ok {s s1 : State} {c : Cmd} {e : BitVec 512} {f : Fmt} {ps qs : List Piece} (hh : s.readHandle c.slot (arH c.desc) = .ok (s1, e))
    (he : hCheck e (hSpace e == 1 && hLayout e == 0) true true = none) (hf : arFmt c.desc = some f) (hr : arRnd c.desc ≤ 4) (hop : arOp c.desc ≠ 3)
    (hlen : arLen c.desc ≠ 0) (hmod : arLen c.desc % (f.memBits / 8) = 0) (hm : s1.maskFits (arMask c.desc) = true)
    (hoff : arOff c.desc % (f.memBits / 8) = 0) (hlim : arOff c.desc + arLen c.desc ≤ hLimit e)
    (hmir : s1.offMirror c.core (s1.strand c.slot) (arLen c.desc / 4096 + 3) (BitVec.ofNat 64 (hBase e + arOff c.desc)) (arLen c.desc) = false)
    (hps : s1.arPlace c e .read = .ok ps) (hqs : s1.arPlace c e .write = .ok qs) :
    let d := c.desc
    let m := arMask d
    let g := s1.readPieces c.core ps
    let k := if c.inst = 0 then tabGet s1.arInst 0 m.toNat + 1 else c.inst
    let mine : Contribution := { mask := m, inst := k, pos := s1.ringPos, fmt := fld d 80 5, op := arOp d, len := arLen d, data := g.bytes }
    let s2 : State := { g.s with arInst := (if c.inst = 0 then tabSet g.s.arInst 0 m.toNat k else g.s.arInst), contribs := mine :: g.s.contribs }
    s.startAreduce c = .ok (s2.sendGroup m (.contribution m.toNat k s1.ringPos (fld d 80 5) (arOp d) (arLen d) g.bytes),
      { c with src := e, started := true, inst := k, poisoned := g.poison.isSome }) := by
  intro d m g k mine s2
  have hnb : ¬ arOff c.desc + arLen c.desc > hLimit e := Nat.not_lt.2 hlim
  have hops : ((arFmt c.desc).isNone || decide (arRnd c.desc > 4) || arOp c.desc == 3 || arLen c.desc == 0 || arLen c.desc % (f.memBits / 8) != 0 ||
      !(s1.maskFits (arMask c.desc))) = false := by
    simp [hf, hr, hop, hlen, hmod, hm]
  unfold State.startAreduce
  dsimp only
  rw [hh]
  dsimp only
  rw [hf] at hops
  rw [he, hf]
  dsimp only
  rw [hops, hoff, hmir, if_neg (by decide), if_neg (by decide), if_neg hnb, if_neg (by decide)]
  rw [show firstBadOf [none, none, none, none, none] = none from rfl]
  dsimp only
  rw [hps, hqs]

/-- Settles O38. -/
theorem copyCommandsStart : Obligations.CopyCommandsStart := by
  unfold Obligations.CopyCommandsStart
  intro core s c hcore hw
  refine ⟨?_, ?_, ?_, ?_⟩
  · intro hs s1 a b hh ha hb hlen hrows hal hra hrb
    exact copyStart_ok hcore hw hs (by decide) ((startIn_copy hs (by decide) (by decide)).trans (startCopy_ok hh ha hb hlen hrows hal hra hrb))
  · intro hs s1 s2 s3 a b sa sb hh d tiles ha hexp hb hn hnd hdim hfmt hcount hfits hlay hconv hcomp hsa hsb2 hsb
    have hcmd : dCmd c.desc = 3 := by simpa using hs.1
    have hdims : sameDims a b = true := by
      unfold sameDims
      simp [hnd, hdim]
    have hstart : s.startIn State.startLayout c = s.startLayout c := startIn_layout hcmd s _
    refine copyStart_ok hcore hw hs (by decide) (hstart.trans (startLayout_ok hh ha hexp hb hn hdims hfmt hcount (fun k hk => hfits _ ?_) hlay hconv hcomp
      hsa hsb2 hsb))
    exact List.mem_map.2 ⟨k, List.mem_range.2 hk, rfl⟩
  · intro hs s1 e f ps qs hh d es m va he hf hr hop hlen hmod hm hoff hlim hmir hps hqs g k mine s2
    have hcmd : dCmd c.desc = 0x21 := by simpa using hs.1
    have hstart : s.startIn State.startLayout c = s.startAreduce c := startIn_areduce hcmd s _
    exact copyStart_ok hcore hw hs (by decide) (hstart.trans (startAreduce_ok hh he hf hr hop hlen hmod hm hoff hlim hmir hps hqs))
  · intro hs code sub h
    exact copyStart_fails hcore hw hs (by decide) h

/-! ### Sectors -/

/-- A sector without poison whose two sides lie apart: its bytes go over as they are (R223). -/
theorem moveSector_clean {s : State} {w : Where} {c : Cmd} {src dst : List Piece} (hp : (s.readPieces c.core src).poison = none)
    (hapart : ∀ x ∈ pieceLocs src, x ∉ pieceLocs dst) (so n : Nat) :
    s.moveSector w c src dst so n =
      (let h := copyShape c.desc
       let s1 := (((s.readPieces c.core src).s.takePieces src).takePieces dst).writePieces c.party true (s.readPieces c.core src).bytes dst
       let c1 := { c with
         done := c.done + n, row := if c.off + n = h.len then c.row + 1 else c.row, off := if c.off + n = h.len then 0 else c.off + n }
       if c1.row = h.rows then s1.setHeadCmd w { c1 with finished := true, tail := n, code := if c.poisoned then 3 else 1 }
       else (s1.sectorPend c1 n).1.setHeadCmd w (s1.sectorPend c1 n).2) := by
  have hdis : (pieceLocs src).any (fun x => (pieceLocs dst).contains x) = false := by
    rw [List.any_eq_false]
    intro x hx
    simpa using hapart x hx
  unfold State.moveSector
  dsimp only
  rw [hp, hdis]
  simp only [Option.isSome_none, Bool.false_eq_true, if_false, List.foldl_nil, List.isEmpty_nil, if_true, Bool.or_false]

/-- A sector of a command that is under way, both of its sides placed and free. -/
theorem copySector_moves {core : Nat} {s : State} {c : Cmd} {src dst : List Piece} (hcore : core < 64) (h : UnderWay s (.copy core) c)
    (hcmd : dCmd c.desc ∈ [1, 2, 4])
    (hsrc : s.hRange c.slot (s.cmdSys c) c.src (s.cmdCwb c) .read (sectorOf c).1 (sectorOf c).2.2 = .ok src)
    (hdst : s.hRange c.slot (s.cmdSys c) c.dst (s.cmdCwb c) .write (sectorOf c).2.1 (sectorOf c).2.2 = .ok dst)
    (hfs : s.wordsFree src = true) (hfd : s.wordsFree dst = true) (hfb : s.barFree c = true) {t : State}
    (hm : s.moveSector (.copy core) c src dst (sectorOf c).1 (sectorOf c).2.2 = t) :
    exec (.copySector core) s = .next (t.tagHead s (.copy core)) := by
  subst hm
  obtain ⟨hhead, hst, hfin, hheld, hdel⟩ := h
  have hin : [1, 2, 4].contains (dCmd c.desc) = true := List.contains_iff_mem.2 hcmd
  refine whenCore_some hcore ?_
  unfold copySector?
  dsimp only
  rw [hhead]
  dsimp only
  rw [hst, hfin, hheld, hin, if_neg (by decide), hdel]
  dsimp only
  rw [hsrc]
  dsimp only
  rw [hdst]
  dsimp only
  rw [hfs, hfd, hfb, if_pos (by decide)]

/-- Settles O39. -/
theorem copySectors : Obligations.CopySectors := by
  unfold Obligations.CopySectors
  intro core s c src dst hcore huw hcmd h so d0 n hsrc hdst hfs hfd hfb hp hapart s1 c1
  have hmove {t : State} (hm : s.moveSector (.copy core) c src dst so n = t) : exec (.copySector core) s = .next (t.tagHead s (.copy core)) :=
    copySector_moves hcore huw hcmd hsrc hdst hfs hfd hfb hm
  have hclean := moveSector_clean (w := .copy core) hp hapart so n
  refine ⟨fun hlast => hmove (hclean.trans (if_pos hlast)), fun hmore hbar => hmove ((hclean.trans (if_neg hmore)).trans ?_), ?_⟩
  · have hpend : s1.sectorPend c1 n = (s1, c1) := by
      unfold State.sectorPend
      rw [show c1.bar = none from hbar]
    exact congrArg (fun x : State × Cmd => x.1.setHeadCmd (.copy core) x.2) hpend
  · intro hmore hbar b
    have hpend : s1.sectorPend c1 n = (b.1, { b.2 with pend := c.pend - n }) := by
      unfold State.sectorPend
      cases hb : c1.bar with
      | none => exact absurd hb hbar
      | some x => rfl
    exact hmove ((hclean.trans (if_neg hmore)).trans (congrArg (fun x : State × Cmd => x.1.setHeadCmd (.copy core) x.2) hpend))

/-! ### Completions -/

/-- The last steps of a command with no trap, no job and no pages (R220). -/
theorem endCmd_plain {s : State} {w : Where} {c : Cmd} (h : Plain c) : s.endCmd w c = cmdEnds s w c := by
  obtain ⟨htrap, hjob, hpages⟩ := h
  have hgate : (decide (c.pend = 0) && !decide (dCmd c.desc ≥ 0x10)) = true ↔ c.pend = 0 ∧ dCmd c.desc < 0x10 := by
    simp
  unfold State.endCmd cmdEnds
  simp only [State.staysFailed, State.jobDone, State.releasePages, htrap, hjob, hpages, Option.isSome_none, Bool.false_and, Bool.false_eq_true, if_false,
    List.foldl_nil, hgate]

/-- Nothing was asked of the league's window: the command goes on at once (R378). -/
theorem onReply_none {s t : State} (h : newTags s t = []) (w : Where) (c : Cmd) (k : Cmd → State) : t.onReply s w c k = k c := by
  unfold State.onReply
  rw [h]

/-- CODE and DONE are written into the descriptor, and no reply of the league is to come (R220, R267). -/
theorem writeCode_done {s : State} {w : Where} {c : Cmd} {ps : List Piece} (hdel : c.delivered = none) (hps : s.codePlace c = .ok ps)
    (hfree : s.wordsFree ps = true) (hbar : s.barFree c = true) :
    let c1 := { c with code := s.finalCode c }
    let t := (s.takePieces ps).writePieces c.party false (codeBytes c1 c1.code) ps
    let s1 := t.putRel (pieceLocs ps) (t.cmdRel c1 deviceScope)
    newTags s s1 = [] → s.writeCode w c = some (s1.afterCode w { c1 with coded := true }) := by
  intro c1 t s1 htags
  have hps1 : s.codePlace { c with code := s.finalCode c } = .ok ps := hps
  have hbar1 : s.barFree { c with code := s.finalCode c } = true := hbar
  unfold State.writeCode
  dsimp only
  split
  next h => rw [hdel] at h; cases h
  rw [hps1]
  dsimp only
  rw [hfree, hbar1, if_neg (by decide)]
  exact congrArg some (onReply_none htags w _ _)

theorem afterCode_ends {s : State} {w : Where} {c : Cmd} (h : c.toSignal = false) : s.afterCode w { c with coded := true } = s.endCmd w { c with coded := true } := by
  unfold State.afterCode
  have h1 : Cmd.toSignal { c with coded := true } = false := h
  dsimp only
  rw [h1]
  rfl

theorem afterCode_signals {s : State} {w : Where} {c : Cmd} (h : c.toSignal = true) :
    s.afterCode w { c with coded := true } = s.setHeadCmd w { c with coded := true } := by
  unfold State.afterCode
  have h1 : Cmd.toSignal { c with coded := true } = true := h
  dsimp only
  rw [h1]
  rfl

theorem complete_codes {s : State} {w : Where} {c : Cmd} (htags : s.awaitsReply c.tags = false) (hbar : s.barFree c = true) (hc : c.coded = false) :
    s.complete w c = s.writeCode w c := by
  unfold State.complete
  rw [htags, hbar, hc]
  rfl

/-- The signal of a CPYQ is made, and the command ends (R224). -/
theorem complete_signals {s : State} {w : Where} {c : Cmd} {ps : List Piece} (htags : s.awaitsReply c.tags = false) (hbar : s.barFree c = true)
    (hc : c.coded = true) (hsig : c.toSignal = true) (hdel : c.delivered = none) (hps : s.signalPlace c = .ok ps)
    (hnew : newTags s (s.signalAdd c ps) = []) :
    s.complete w c = some ((s.signalAdd c ps).endCmd w { c with signalled := true }) := by
  unfold State.complete
  rw [if_neg (by rw [htags, hbar]; decide), if_neg (by rw [hc]; decide), if_pos hsig]
  unfold State.signal
  split
  next h => rw [hdel] at h; cases h
  rw [hps]
  exact congrArg some (onReply_none hnew w _ _)

theorem copyCommandComplete_eq {core : Nat} {s t : State} {c : Cmd} (hcore : core < 64) (hhead : s.headCmd (.copy core) = some c)
    (hfin : c.finished = true) (hheld : c.held = none) (h : s.complete (.copy core) c = some t) :
    exec (.copyCommandComplete core) s = .next t := by
  refine whenCore_some hcore ?_
  unfold copyCommandComplete?
  rw [hhead]
  dsimp only
  rw [hfin, hheld, if_neg (by decide), h]

theorem toSignal_false {c : Cmd} (h : dCmd c.desc ≠ 4 ∨ c.signalled = true) : c.toSignal = false := by
  unfold Cmd.toSignal
  rcases h with h | h <;> simp [h]

theorem toSignal_true {c : Cmd} (h : dCmd c.desc = 4) (hs : c.signalled = false) : c.toSignal = true := by
  simp [Cmd.toSignal, h, hs]

theorem whenQuad_some {quad : Nat} {s t : State} {r : Option State} (hq : quad < 4) (hr : r = some t) : whenQuad quad s r = .next t := by
  have hn : ¬ quad ≥ 4 := by omega
  rw [whenQuad, if_neg hn, hr, Option.getD_some]

/-- The head of a memory-command queue is the command that was put there. -/
theorem headCmd_setHeadCmd_mem (s : State) (q : Nat) (c : Cmd) : (s.setHeadCmd (.mem q) c).headCmd (.mem q) = some c := by
  have hne : ({ s.quad q with q := c :: (s.quad q).q.tail } : Quad) ≠ {} := fun h => by
    have := congrArg Quad.q h
    cases this
  unfold State.setHeadCmd State.headCmd
  simp only [State.quad, State.setQuad] at hne ⊢
  rw [tabGet_set _ _ _ _ hne]
  rfl

/-- A memory command whose parts have run: its results, where they are still to come, and the completion steps (R220, R293). -/
theorem memoryCommandComplete_eq {q : Nat} {s s1 t u : State} {c c1 : Cmd} (hq : q < 4) (hhead : s.headCmd (.mem q) = some c) (hst : c.started = true)
    (hparts : c.parts = []) (hheld : c.held = none)
    (h : c.finished = false ∧ s.outFree c = true ∧ s.finishMemory c = (s1, c1) ∧ newTags s s1 = [] ∧ t = s1.setHeadCmd (.mem q) c1 ∨
      c.finished = true ∧ c1 = c ∧ t = s) (hc : t.complete (.mem q) c1 = some u) :
    exec (.memoryCommandComplete q) s = .next u := by
  refine whenQuad_some hq ?_
  unfold memoryCommandComplete?
  dsimp only
  rw [hhead]
  dsimp only
  rw [hst, hparts, hheld, if_neg (by decide)]
  rcases h with ⟨hfin, hout, hwork, htags, rfl⟩ | ⟨hfin, rfl, rfl⟩
  · have htag : (s1.setHeadCmd (.mem q) c1).tagHead s (.mem q) = s1.setHeadCmd (.mem q) c1 := by
      have hnone : newTags s (s1.setHeadCmd (.mem q) c1) = [] := htags
      unfold State.tagHead
      rw [hnone]
    rw [hfin, if_neg (by decide), hout, if_neg (by decide), hwork]
    dsimp only
    rw [htag, headCmd_setHeadCmd_mem, Option.bind_some, hc, Option.getD_some]
  · rw [hfin, if_pos rfl, hc]

/-- Settles O40. -/
theorem commandsComplete : Obligations.CommandsComplete := by
  unfold Obligations.CommandsComplete
  refine ⟨?_, ?_, ?_, ?_⟩
  · intro core s c ps hcore hf hplain htags hbar hps hfree c1 t s1 c2 hnew
    obtain ⟨hhead, hst, hfin, hheld, hdel, hcoded⟩ := hf
    have hcomplete : s.complete (.copy core) c = some (s1.afterCode (.copy core) c2) :=
      (complete_codes htags hbar hcoded).trans (writeCode_done hdel hps hfree hbar hnew)
    have hexec := copyCommandComplete_eq hcore hhead hfin hheld hcomplete
    refine ⟨fun hsig => hexec.trans (congrArg _ ?_), fun h4 hns => hexec.trans (congrArg _ ?_)⟩
    · exact (afterCode_ends (c := c1) (toSignal_false hsig)).trans (endCmd_plain (c := c2) hplain)
    · exact afterCode_signals (c := c1) (toSignal_true h4 hns)
  · intro core s c ps hcore hhead hfin hheld hdel hcoded h4 hns hplain htags hbar hps hnew
    refine (copyCommandComplete_eq hcore hhead hfin hheld (complete_signals htags hbar hcoded (toSignal_true h4 hns) hdel hps hnew)).trans (congrArg _ ?_)
    exact endCmd_plain (c := { c with signalled := true }) hplain
  · intro core s c hcore hhead htags
    have hnone : copyCommandComplete? core s = none := by
      unfold copyCommandComplete?
      rw [hhead]
      dsimp only
      split
      · rfl
      · unfold State.complete
        rw [htags]
        rfl
    have hn : ¬ core ≥ 64 := by omega
    show whenCore core s (copyCommandComplete? core s) = _
    rw [whenCore, if_neg hn, hnone, Option.getD_none]
  · intro q s s1 t c c1 ps hq hhead hst hparts hheld hwork hcoded hdel h4 htags hbar hps hfree c2 u v hnew
    have hcomplete : t.complete (.mem q) c1 = some (v.endCmd (.mem q) { c2 with coded := true }) :=
      ((complete_codes htags hbar hcoded).trans (writeCode_done hdel hps hfree hbar hnew)).trans
        (congrArg some (afterCode_ends (c := c2) (toSignal_false (.inl h4))))
    exact ⟨memoryCommandComplete_eq hq hhead hst hparts hheld hwork hcomplete, fun hplain => endCmd_plain (c := { c2 with coded := true }) hplain⟩

/-! ### The ends of reductions -/

theorem runningAr_of_underWay {s : State} {core : Nat} {c : Cmd} (h : UnderWay s (.copy core) c) (hcmd : dCmd c.desc = 0x21) :
    s.runningAr core = some c := by
  obtain ⟨hhead, hst, hfin, hheld, -⟩ := h
  unfold State.runningAr
  rw [hhead]
  dsimp only
  rw [hcmd, hst, hfin, hheld]
  rfl

theorem areduceAbort_ends {core : Nat} {s t : State} {c : Cmd} (hcore : core < 64) (hhead : s.headCmd (.copy core) = some c)
    (hcmd : dCmd c.desc = 0x21) (hfin : c.finished = false) (hheld : c.held = none) (hfail : c.failed = false)
    (hend : (c.leaves || c.aborted || (c.started && s.arAborted c)) = true)
    (ht : (if c.leaves then
        ({ s with arInst := if c.inst = 0 then tabSet s.arInst 0 (arMask c.desc).toNat (if c.inst = 0 then tabGet s.arInst 0 (arMask c.desc).toNat + 1 else c.inst)
                            else s.arInst } : State).sendGroup (arMask c.desc)
          (.instanceAbort (arMask c.desc).toNat (if c.inst = 0 then tabGet s.arInst 0 (arMask c.desc).toNat + 1 else c.inst) s.ringPos)
      else s) = t) :
    exec (.areduceAbort core) s = .next ((t.dropInstance c).setHeadCmd (.copy core) { c with started := true, finished := true, code := 6, aborted := true }) := by
  subst ht
  refine whenCore_some hcore ?_
  unfold areduceAbort?
  dsimp only
  rw [hhead]
  dsimp only
  rw [hcmd, hfin, hheld, hfail, if_neg (by decide), hend, if_pos rfl]

/-- Settles O41. -/
theorem reductionsEnd : Obligations.ReductionsEnd := by
  unfold Obligations.ReductionsEnd
  refine ⟨?_, ?_⟩
  · intro core s c cs hcore huw hcmd hlv hab hj
    have hrun := runningAr_of_underWay huw hcmd
    obtain ⟨-, -, -, -, hdel⟩ := huw
    refine ⟨?_, ?_⟩
    · intro ps f hf hagree hps eb rs t
      have hsame : cs.any (fun k => k.fmt != fld c.desc 80 5 || k.op != arOp c.desc || k.len != arLen c.desc) = false := by
        rw [List.any_eq_false]
        intro k hk
        obtain ⟨h1, h2, h3⟩ := hagree k hk
        simp [h1, h2, h3]
      refine whenCore_some hcore ?_
      unfold areduceComplete?
      dsimp only
      rw [hrun]
      dsimp only
      rw [if_neg (by rw [hlv, hab]; decide), hj]
      dsimp only
      rw [hsame, if_neg (by decide), hdel]
      dsimp only
      rw [hps, hf]
      rfl
    · rintro ⟨k, hk, hdiff⟩
      have hany : cs.any (fun k => k.fmt != fld c.desc 80 5 || k.op != arOp c.desc || k.len != arLen c.desc) = true :=
        List.any_eq_true.2 ⟨k, hk, by simpa [or_assoc] using hdiff⟩
      refine whenCore_some hcore ?_
      unfold areduceComplete?
      dsimp only
      rw [hrun]
      dsimp only
      rw [if_neg (by rw [hlv, hab]; decide), hj]
      dsimp only
      rw [hany, if_pos rfl]
      rfl
  · intro core s c hcore hhead hcmd hfin hheld hfail ended
    refine ⟨fun hlv hab => ?_, ?_⟩
    · exact areduceAbort_ends hcore hhead hcmd hfin hheld hfail (by rcases hab with h | ⟨h1, h2⟩ <;> simp [*]) (if_neg (by rw [hlv]; decide))
    · intro hlv m k
      exact areduceAbort_ends hcore hhead hcmd hfin hheld hfail (by simp [hlv]) (if_pos hlv)

end Sys2Proof.Proofs.CopyQueue
end

section
/-! SUPPORT. Family Ell: the steps of a re-lay, a conversion and an expansion (R367, R368, R370). -/

namespace Sys2Proof.Proofs.EllEvents

open Sys2Proof.Machine Sys2Proof.Claims Sys2Proof.Proofs.MatrixEvents

theorem runningEll_of_underWay {s : State} {core op : Nat} {c : Cmd} (h : UnderWay s (.copy core) c) (hcmd : dCmd c.desc = 3)
    (hop : ellOp c.desc = op) (hbar : s.barFree c = true) : s.runningEll core op = some c := by
  obtain ⟨hhead, hst, hfin, hheld, -⟩ := h
  unfold State.runningEll
  rw [hhead]
  dsimp only
  rw [hcmd, hst, hfin, hheld, hop, hbar]
  simp

/-- A sector of a re-lay or a conversion whose parts are read and placed is written part by part (R368). -/
theorem ellStep_writes {op core : Nat} {s s1 : State} {c : Cmd} {ps : List EllPart} {l : List (EllPart × ElemAt × List Piece)}
    (h : UnderWay s (.copy core) c) (hcmd : dCmd c.desc = 3) (hop : ellOp c.desc = op) (hbar : s.barFree c = true)
    (hread : s.ellReads c (tileBox c.src (ellTile0 c.desc + c.row))
      (sectorFrags c.dst (tileBox c.src (ellTile0 c.desc + c.row)) c.off) = .ok (s1, ps))
    (hplace : s1.ellPlaces c ps = .ok l) :
    let b := tileBox c.src (ellTile0 c.desc + c.row)
    let fs := sectorFrags c.dst b c.off
    let y := l.foldl State.putEllPart (s1.keepTiles c b, c)
    let at_ := (fs.getLastD ⟨0, 0, 0⟩).next b c.row
    ellStep op core s = some ((y.1.afterSector (.copy core) y.2 at_.1 at_.2 ((fs.map (fun f => f.bytes (hBits c.dst))).foldl (· + ·) 0)
      (ps.any (fun p => p.poison || (p.scalePoison && !p.scales.isEmpty)))).tagHead s (.copy core)) := by
  dsimp only
  have hrun := runningEll_of_underWay h hcmd hop hbar
  obtain ⟨-, -, -, -, hdel⟩ := h
  unfold ellStep
  dsimp only
  rw [hrun]
  dsimp only
  split
  next hsome => rw [hdel] at hsome; cases hsome
  · rw [hread]
    dsimp only
    rw [hplace]

/-- What a part reads: the columns of its blocks, converted (R368). -/
theorem ellRead_ok {s t : State} {c : Cmd} {b : TileBox} {f : Frag} {q : SrcRow} {sc : List Nat} {bad : Bool} {lo hi : Nat}
    (hlo : lo = if hScaled c.dst && ellOp c.desc = 1 then f.o / 32 * 32 else f.o)
    (hhi : hi = if hScaled c.dst && ellOp c.desc = 1 then min b.w ((f.o + f.n + 31) / 32 * 32) else f.o + f.n)
    (hrow : s.srcRow c ⟨b.x0 + lo, b.x1 + f.r, b.x2, b.x3⟩ (hi - lo) = .ok q)
    (hsc : q.s.srcScales c ⟨b.x0 + lo, b.x1 + f.r, b.x2, b.x3⟩ (hi - lo) = .ok (t, sc, bad)) :
    let out := ellRow (ellOp c.desc) ((hType c.src).getD .int8) ((hType c.dst).getD .int8) (RMode.ofCode (ellRnd c.desc)) sc (hScaled c.dst) (lo % 32) q.codes
    s.ellRead c b f = .ok (t, {
      x := ⟨b.x0 + f.o, b.x1 + f.r, b.x2, b.x3⟩
      codes := (out.1.drop (f.o - lo)).take f.n, const := (q.const.drop (f.o - lo)).take f.n
      sx := ⟨b.x0 + 32 * ((f.o + 31) / 32), b.x1 + f.r, b.x2, b.x3⟩
      scales := if hScaled c.dst then (out.2.drop ((f.o + 31) / 32 - lo / 32)).take ((f.o + f.n + 31) / 32 - (f.o + 31) / 32) else []
      poison := q.poison || (bad && !decide (ellOp c.desc = 0)), scalePoison := bad || (q.poison && !decide (ellOp c.desc = 0)) }) := by
  subst hlo hhi
  unfold State.ellRead
  dsimp only
  rw [hrow]
  dsimp only
  rw [hsc]

/-- A row that is only laid anew keeps its codes (R368). -/
theorem ellRow_relay (src dst : Fmt) (mode : RMode) (sc : List Nat) (scaled : Bool) (k : Nat) (codes : List Nat) :
    ellRow 0 src dst mode sc scaled k codes = (codes, sc) := rfl

theorem ellRow_convert {dst : Fmt} {src : Fmt} (h : isCpx src = false) (mode : RMode) (sc : List Nat) (k : Nat) (codes : List Nat) :
    (ellRow 1 src dst mode sc false k codes).1 = codes.zipIdx.map (fun v => regToMem dst (dst.convert mode true (srcValue src
      (if sc.isEmpty then none else sc[(k + v.2) / 32]?) v.1)).1) := by
  simp [ellRow, h]

/-- A row that goes into a scaled tensor is quantised block by block (R368). -/
theorem ellRow_quantise (dst src : Fmt) (mode : RMode) (sc : List Nat) (k : Nat) (codes : List Nat) :
    let vs := codes.zipIdx.map (fun v => srcValue src (if sc.isEmpty then none else sc[(k + v.2) / 32]?) v.1)
    let qs := (List.range ((codes.length + 31) / 32)).map (fun k => mxQuantise dst mode ((vs.drop (32 * k)).take 32))
    ellRow 1 src dst mode sc true k codes = (qs.flatMap (fun z => z.2.1.map (regToMem dst)), qs.map (·.1)) := rfl

/-- The tile that an expansion has reached. -/
abbrev expandBox (c : Cmd) : TileBox := tileBox c.src (ellTile0 c.desc + c.row)
/-- Where its entry and its state are looked up. -/
def expandFound (s : State) (c : Cmd) : Except Bad (TileEntry × Word) :=
  s.tileLookup c.slot (s.cmdSys c) c.src ⟨(expandBox c).x0, (expandBox c).x1, (expandBox c).x2, (expandBox c).x3⟩

theorem ellExpand_skips {core : Nat} {s : State} {c : Cmd} {t : TileEntry} {va : Word} (hrun : s.runningEll core 2 = some c) (hdel : c.delivered = none)
    (hfound : expandFound s c = .ok (t, va)) (ht : ∀ loc, t ≠ .compressed loc) :
    ellExpand? core s = some (s.afterSector (.copy core) c (c.row + 1) 0 0 false) := by
  unfold expandFound at hfound
  unfold ellExpand?
  dsimp only
  rw [hrun]
  dsimp only
  split
  next hsome => rw [hdel] at hsome; cases hsome
  · rw [hfound]
    cases t with
    | compressed loc => exact absurd rfl (ht loc)
    | _ => rfl

theorem ellExpand_noFrame {core : Nat} {s : State} {c : Cmd} {loc : Nat} {va x : Word} {g : Got} {h : BitVec 256}
    (hrun : s.runningEll core 2 = some c) (hdel : c.delivered = none) (hfound : expandFound s c = .ok (.compressed loc, va))
    (hhead : s.recordHead c loc = .ok (g, h, x)) (hfrm : fld h 160 43 = 0) :
    ellExpand? core s = some (s.setHeadCmd (.copy core) (c.fail .layoutMismatch 0)) := by
  unfold expandFound at hfound
  unfold ellExpand?
  dsimp only
  rw [hrun]
  dsimp only
  split
  next hsome => rw [hdel] at hsome; cases hsome
  · rw [hfound]
    dsimp only
    rw [hhead]
    dsimp only
    rw [if_pos hfrm]

/-- The space of a record's frame (R366). -/
def frameSpace (h : BitVec 256) : MemSpace := match fld h 203 2 with
  | 0 => .il
  | 1 => .host
  | _ => .pool

theorem frameSpace_eq (h : BitVec 256) : frameSpace h = if fld h 203 2 = 0 then .il else if fld h 203 2 = 1 then .host else .pool := by
  unfold frameSpace
  split
  next h0 => rw [h0]; rfl
  next h1 => rw [h1]; rfl
  next h0 h1 => rw [if_neg h0, if_neg h1]

theorem ellExpand_writes {core : Nat} {s : State} {c : Cmd} {loc v : Nat} {va x : Word} {g : Got} {h : BitVec 256} {es : List Piece}
    (hrun : s.runningEll core 2 = some c) (hdel : c.delivered = none) (hfound : expandFound s c = .ok (.compressed loc, va))
    (hhead : s.recordHead c loc = .ok (g, h, x)) (hfrm : fld h 160 43 ≠ 0)
    (hpart : s.recordPart c loc (hBits c.src) (4096 * c.off / hBits c.src) ((4096 * (c.off + 1) + hBits c.src - 1) / hBits c.src) 0 64 = .ok (v, false)) :
    let ps := [s.pieceAt (frameSpace h) (fld h 160 43 * 512 + 512 * c.off) 512 512]
    ps.any s.beyond = false → s.piecesFate true ps = none →
    s.translateRange c.core (s.strand c.slot).pasid (s.cmdSys c) .write 3 va 8 = .ok es → s.piecesFate true es = none →
    let n := clippedBytes c.src (expandBox c) c.off
    let s1 := s.writePieces c.party true (leBytes 512 (v / 2 ^ (4096 * c.off))) ps
    let s2 := s1.writePieces c.party false (leBytes 8 (frameEntry (fld h 203 2) (fld h 160 43))) es
    ellExpand? core s = if c.off + 1 < hBits c.src then some ((s1.afterSector (.copy core) c c.row (c.off + 1) n false).tagHead s (.copy core))
      else some (((s2.putRel (pieceLocs es) (s2.cmdRel c deviceScope)).afterSector (.copy core) c (c.row + 1) 0 n false).tagHead s (.copy core)) := by
  intro ps hbeyond hfate htr hfate2
  unfold expandFound at hfound
  unfold ellExpand?
  dsimp only
  rw [hrun]
  dsimp only
  split
  next hsome => rw [hdel] at hsome; cases hsome
  · rw [hfound]
    dsimp only
    rw [hhead]
    dsimp only
    rw [if_neg hfrm, hpart]
    dsimp only
    refine (if_neg (ne_true_of_eq_false hbeyond)).trans ?_
    split
    next hsome => exact absurd (hfate.symm.trans hsome) (by simp)
    · rw [htr]
      dsimp only
      rw [hfate2]
      rfl

/-- Settles O42. -/
theorem ellSteps : Obligations.EllSteps := by
  unfold Obligations.EllSteps
  refine ⟨?relay, ?read, ?expand⟩
  case relay =>
    intro op ev hmem core s s1 c ps l hcore h hcmd hop hbar b fs hread hplace
    have hstep := ellStep_writes h hcmd hop hbar hread hplace
    simp only [List.mem_cons, Prod.mk.injEq, List.not_mem_nil, or_false] at hmem
    obtain ⟨rfl, rfl⟩ | ⟨rfl, rfl⟩ := hmem
    · exact whenCore_some hcore hstep
    · exact whenCore_some hcore hstep
  case read =>
    intro s t c b f q sc bad blocks lo hi x src dst mode hrow hsc
    refine ⟨_, ellRead_ok (by simp [lo, blocks]) (by simp [hi, blocks]) hrow hsc, rfl, ?_, ?_, ?_⟩
    · intro hop
      have hlo : lo = f.o := by simp [lo, blocks, hop]
      simp [hop, hlo, ellRow_relay]
    · intro hop hdst hcpx
      have hlo : lo = f.o := by simp [lo, blocks, hdst]
      exact ⟨by simp [hop], by rw [hop, hdst, ellRow_convert hcpx, hlo, Nat.sub_self]; rfl⟩
    · intro hop hdst
      refine ⟨by simp [hop], ?_, ?_⟩
      · rw [hop, hdst, ellRow_quantise]
      · rw [if_pos hdst, hop, hdst, ellRow_quantise]
  case expand =>
    intro core s c hcore h hcmd hop hbar b found
    have hrun := runningEll_of_underWay h hcmd hop hbar
    obtain ⟨-, -, -, -, hdel⟩ := h
    refine ⟨?_, ?_, ?_⟩
    · intro t va hfound ht
      exact whenCore_some hcore (ellExpand_skips hrun hdel hfound ht)
    · intro loc va g h x hfound hhead hfrm
      exact whenCore_some hcore (ellExpand_noFrame hrun hdel hfound hhead hfrm)
    · intro loc va g h x v es hfound hhead hfrm bits sp ps n hpart hbeyond hfate htr hfate2 s1 s2
      have hsp : sp = frameSpace h := (frameSpace_eq h).symm
      have heq := ellExpand_writes hrun hdel hfound hhead hfrm hpart (hsp ▸ hbeyond) (hsp ▸ hfate) htr hfate2
      simp only [← hsp] at heq
      refine ⟨fun hlt => whenCore_some hcore ?_, fun hge => whenCore_some hcore ?_⟩
      · exact heq.trans (if_pos hlt)
      · exact heq.trans (if_neg (Nat.not_lt.2 hge))

end Sys2Proof.Proofs.EllEvents
end

section
/-! SUPPORT. Family memory commands: starts, parts and what each part leaves (R226 to R230, R293 to R305). -/

namespace Sys2Proof.Proofs.MemoryParts

open Sys2Proof.Machine Sys2Proof.Claims Sys2Proof.Proofs.CopyQueue

/-! ### Folds over places that do not meet -/

/-- A value that one place of a fold alone changes is what that place makes of it. -/
theorem foldl_once {α β γ : Type} {f : α → β → α} {π : α → γ} {g : γ → γ} {j : β} (hne : ∀ a i, i ≠ j → π (f a i) = π a)
    (hj : ∀ a, π (f a j) = g (π a)) : ∀ (l : List β) (a : α), l.Nodup → j ∈ l → π (l.foldl f a) = g (π a) := by
  have hout : ∀ (l : List β) (a : α), j ∉ l → π (l.foldl f a) = π a := by
    intro l
    induction l with
    | nil => exact fun _ _ => rfl
    | cons x r ih =>
      intro a hl
      rw [List.mem_cons, not_or] at hl
      rw [List.foldl_cons, ih _ hl.2, hne _ _ (Ne.symm hl.1)]
  intro l
  induction l with
  | nil => exact fun _ _ h => absurd h (by simp)
  | cons x r ih =>
    intro a hnd hmem
    obtain ⟨hx, hr⟩ := List.nodup_cons.1 hnd
    rw [List.foldl_cons]
    by_cases hxj : x = j
    · subst hxj
      rw [hout r _ hx, hj]
    · rw [ih _ hr ((List.mem_cons.1 hmem).resolve_left (Ne.symm hxj)), hne _ _ hxj]

/-- What some step of a fold brings in, or was there before. -/
theorem foldl_collects {α β : Type} {f : α → β → α} {π : α → Prop} {p : β → Prop} (h : ∀ a i, π (f a i) ↔ π a ∨ p i) :
    ∀ (l : List β) (a : α), π (l.foldl f a) ↔ π a ∨ ∃ i ∈ l, p i := by
  intro l
  induction l with
  | nil => simp
  | cons x r ih =>
    intro a
    rw [List.foldl_cons, ih, h]
    simp [or_assoc]

/-- The same, for a fold whose places are all below a number. -/
theorem foldl_range_once {α γ : Type} {f : α → Nat → α} {π : α → γ} {g : γ → γ} {n j : Nat} (a : α) (hj : j < n)
    (hne : ∀ a i, i ≠ j → π (f a i) = π a) (heq : ∀ a, π (f a j) = g (π a)) : π ((List.range n).foldl f a) = g (π a) :=
  foldl_once hne heq _ a List.nodup_range (List.mem_range.2 hj)

theorem foldl_map_state {α β γ : Type} {f : α → β → α} {π : α → γ} {g : γ → β → γ} (h : ∀ a i, π (f a i) = g (π a) i) (l : List β) (a : α) :
    π (l.foldl f a) = l.foldl g (π a) := by
  rw [← List.foldl_hom (f := π) (g₁ := f) (g₂ := g) (H := fun a i => (h a i).symm)]

/-! ### Starts and parts -/

theorem memoryStart_ok {q : Nat} {s s2 : State} {c c2 : Cmd} (hq : q < 4) (hw : Waits s (.mem q) c) (hs : Sound [0x11, 0x12, 0x13, 0x14, 0x15] c)
    (h : s.startMemory c = .ok (s2, c2)) : exec (.memoryCommandStart q) s = .next (s2.setHeadCmd (.mem q) c2) := by
  obtain ⟨hhead, hmay, hdel⟩ := hw
  refine whenQuad_some hq ?_
  unfold memoryCommandStart?
  dsimp only
  rw [hhead]
  dsimp only
  rw [hmay, if_neg (by decide)]
  unfold State.startCmd
  rw [hdel]
  dsimp only
  rw [show s.startQput memoryCodes c = .ok (s, c) from startQput_sound s hs (fun _ h => h)]
  dsimp only
  rw [h]

/-- A part may run: its die is awaited, no hold keeps the command back, and no earlier arrival waits on the same sequencer. -/
theorem partReady_of {s : State} {c : Cmd} {die : Nat} (hst : c.started = true) (hfin : c.finished = false) (hdie : die ∈ c.parts)
    (hhold : ∀ h ∈ s.holds, ∀ f ∈ h.furlongs, f ∉ c.reads)
    (hq : ∀ x ∈ s.quads, ∀ o, x.2.q.head? = some o → o.started = true → die ∈ o.parts → o.sent < c.sent → ∀ h ∈ s.holds, ∀ f ∈ h.furlongs, f ∉ o.reads) :
    s.partReady c die = true := by
  have hfree : ∀ o : Cmd, (∀ h ∈ s.holds, ∀ f ∈ h.furlongs, f ∉ o.reads) → s.heldBack o = false := by
    intro o ho
    unfold State.heldBack
    rw [List.any_eq_false]
    intro h hh
    simpa using ho h hh
  have hall : s.quads.all (fun x => match x.2.q.head? with
      | some o => !(o.started && o.parts.contains die && o.sent < c.sent && s.heldBack o)
      | none => true) = true := by
    rw [List.all_eq_true]
    intro x hx
    split
    next o ho =>
      by_cases hw : o.started = true ∧ die ∈ o.parts ∧ o.sent < c.sent
      · rw [hfree o (hq x hx o ho hw.1 hw.2.1 hw.2.2)]
        simp
      · simp only [not_and] at hw
        simp only [Bool.not_eq_true', Bool.and_eq_false_imp, Bool.and_eq_true, List.contains_iff_mem, decide_eq_true_eq, and_imp]
        exact fun h1 h2 h3 => absurd h3 (hw h1 h2)
    · rfl
  unfold State.partReady
  rw [hst, hfin, List.contains_iff_mem.2 hdie, hfree c hhold]
  exact hall

theorem partReady_false {s : State} {c : Cmd} {die : Nat} (h : die ∉ c.parts ∨ (∃ h ∈ s.holds, ∃ f ∈ h.furlongs, f ∈ c.reads) ∨
      (∃ x ∈ s.quads, ∃ o, x.2.q.head? = some o ∧ o.started = true ∧ die ∈ o.parts ∧ o.sent < c.sent ∧ ∃ h ∈ s.holds, ∃ f ∈ h.furlongs, f ∈ o.reads)) :
    s.partReady c die = false := by
  have hheld : ∀ o : Cmd, (∃ h ∈ s.holds, ∃ f ∈ h.furlongs, f ∈ o.reads) → s.heldBack o = true := by
    rintro o ⟨h, hh, f, hf, hr⟩
    unfold State.heldBack
    rw [List.any_eq_true]
    exact ⟨h, hh, List.any_eq_true.2 ⟨f, hf, List.contains_iff_mem.2 hr⟩⟩
  rw [← Bool.not_eq_true]
  intro hready
  unfold State.partReady at hready
  simp only [Bool.and_eq_true, List.contains_iff_mem, List.all_eq_true, Bool.not_eq_true'] at hready
  obtain ⟨⟨⟨-, hdie⟩, hno⟩, hquads⟩ := hready
  obtain h | h | ⟨x, hx, o, ho, hst, hd, hsent, hb⟩ := h
  · exact h hdie
  · exact absurd (hheld c h) (by simp [hno])
  · have hq := hquads x hx
    rw [ho] at hq
    dsimp only at hq
    rw [hst, List.contains_iff_mem.2 hd, decide_eq_true hsent, hheld o hb] at hq
    exact absurd hq (by decide)

/-- What a part does, by the command (R294). -/
def partOf (s : State) (c : Cmd) (die : Nat) : State × Cmd := match dCmd c.desc with
  | 0x11 => s.macPart c die
  | 0x12 => s.copyPart c die
  | 0x13 => s.attnPart c die
  | 0x14 => s.putPart c die
  | _ => s.takePart c die

theorem memoryPart_runs {q die : Nat} {s : State} {c : Cmd} {x : State × Cmd} (hq : q < 4) (hhead : s.headCmd (.mem q) = some c)
    (hready : s.partReady c die = true) (hx : partOf s c die = x) :
    exec (.memoryPart q die) s = .next (x.1.setHeadCmd (.mem q) { x.2 with parts := x.2.parts.filter (· != die) }) := by
  subst hx
  refine whenQuad_some hq ?_
  unfold memoryPart?
  dsimp only
  rw [hhead]
  dsimp only
  rw [hready, if_neg (by decide)]
  rfl

theorem memoryPart_waits {q die : Nat} {s : State} {c : Cmd} (hq : q < 4) (hhead : s.headCmd (.mem q) = some c)
    (hready : s.partReady c die = false) : exec (.memoryPart q die) s = .next s := by
  have hnone : memoryPart? q die s = none := by
    unfold memoryPart?
    dsimp only
    rw [hhead]
    dsimp only
    rw [hready]
    rfl
  show execMemoryPart q die s = .next s
  unfold execMemoryPart
  rw [hnone]
  unfold whenQuad
  rw [if_neg (by omega)]
  rfl

/-! ### BGMAC parts -/

/-- The terms of row `i` of a command on one BGAU. -/
def macTerms (c : Cmd) (i g : Nat) : List MacTerm := ((List.range (mC c.desc)).map (macTerm c false (mA c.desc + i))).filter (fun t => t.g == g)
/-- One BGAU of one row: its partial and its status are noted, the units that it read are collected. -/
def macCell (s : State) (c : Cmd) (die i : Nat) (a : Cmd × List Nat) (j : Nat) : Cmd × List Nat :=
  let o := s.macBgau c (mA c.desc + i) (macTerms c i (8 * die + j))
  if (macTerms c i (8 * die + j)).isEmpty then a
  else (orStatus { a.1 with acc := tabPut a.1.acc (512 * i + 8 * die + j) o.1 } i o.2.1, o.2.2 ++ a.2)
/-- The eight BGAUs of a row. -/
def macRow (s : State) (c : Cmd) (die : Nat) (a : Cmd × List Nat) (i : Nat) : Cmd × List Nat := (List.range 8).foldl (macCell s c die i) a

theorem macTerms_of_die {c : Cmd} {i die j : Nat} (hj : j < 8) :
    (((List.range (mC c.desc)).map (macTerm c false (mA c.desc + i))).filter (fun t => t.g / 8 == die)).filter (fun t => t.g == 8 * die + j) =
      macTerms c i (8 * die + j) := by
  unfold macTerms
  rw [List.filter_filter]
  congr 1
  funext t
  rw [Bool.eq_iff_iff]
  simp only [Bool.and_eq_true, beq_iff_eq]
  omega

theorem foldl_congr_mem {α β : Type} {f g : β → α → β} {l : List α} {b : β} (h : ∀ c, ∀ a ∈ l, f c a = g c a) : l.foldl f b = l.foldl g b := by
  induction l generalizing b with
  | nil => rfl
  | cons a l ih =>
    rw [List.foldl_cons, List.foldl_cons, h b a (by simp)]
    exact ih fun c x hx => h c x (by simp [hx])
theorem foldl_keeps {α β : Type} (l : List α) (b : β) : l.foldl (fun z _ => z) b = b := by
  induction l with
  | nil => rfl
  | cons a l ih => exact ih

theorem macPart_eq (s : State) (c : Cmd) (die : Nat) :
    s.macPart c die = (s.noteUnits ((List.range (mB c.desc)).foldl (macRow s c die) (c, [])).2, ((List.range (mB c.desc)).foldl (macRow s c die) (c, [])).1) := by
  have hrow : ∀ (a : Cmd × List Nat) (i : Nat), (List.range 8).foldl (fun (a : Cmd × List Nat) j =>
      let mine := (((List.range (mC c.desc)).map (macTerm c false (mA c.desc + i))).filter (fun t => t.g / 8 == die)).filter (fun t => t.g == 8 * die + j)
      if mine.isEmpty then a
      else
        let o := s.macBgau c (mA c.desc + i) mine
        (orStatus { a.1 with acc := tabPut a.1.acc (512 * i + 8 * die + j) o.1 } i o.2.1, o.2.2 ++ a.2)) a = macRow s c die a i := by
    intro a i
    unfold macRow
    refine foldl_congr_mem fun b j hj => ?_
    rw [macTerms_of_die (List.mem_range.1 hj)]
    rfl
  have hfold : ∀ a : Cmd × List Nat, (List.range (mB c.desc)).foldl (macRow s c die) a = _ := fun a =>
    (foldl_congr_mem fun b i _ => hrow b i).symm
  rw [hfold]
  rfl

theorem macCell_acc (s : State) (c : Cmd) (die i : Nat) (a : Cmd × List Nat) (j k : Nat) :
    tabFind (macCell s c die i a j).1.acc k = if macTerms c i (8 * die + j) = [] then tabFind a.1.acc k
      else if 512 * i + 8 * die + j = k then some (s.macBgau c (mA c.desc + i) (macTerms c i (8 * die + j))).1 else tabFind a.1.acc k := by
  unfold macCell
  dsimp only
  by_cases h : macTerms c i (8 * die + j) = []
  · simp [h]
  · rw [if_neg (by simpa using h), if_neg h]
    exact tabFind_put _ _ _ _

theorem macCell_status (s : State) (c : Cmd) (die i : Nat) (a : Cmd × List Nat) (j k : Nat) :
    tabGet (macCell s c die i a j).1.status 0 k = if i = k ∧ macTerms c i (8 * die + j) ≠ [] then
      tabGet a.1.status 0 k ||| BitVec.ofNat 8 (s.macBgau c (mA c.desc + i) (macTerms c i (8 * die + j))).2.1 else tabGet a.1.status 0 k := by
  unfold macCell
  dsimp only
  by_cases h : macTerms c i (8 * die + j) = []
  · simp [h]
  · rw [if_neg (by simpa using h)]
    refine (tabGet_put _ _ _ _ _).trans ?_
    by_cases hk : i = k
    · rw [if_pos hk, if_pos ⟨hk, h⟩, hk]
    · rw [if_neg hk, if_neg (fun x => hk x.1)]

theorem macCell_units (s : State) (c : Cmd) (die i : Nat) (a : Cmd × List Nat) (j u : Nat) :
    u ∈ (macCell s c die i a j).2 ↔ u ∈ a.2 ∨ (macTerms c i (8 * die + j) ≠ [] ∧ u ∈ (s.macBgau c (mA c.desc + i) (macTerms c i (8 * die + j))).2.2) := by
  unfold macCell
  dsimp only
  by_cases h : macTerms c i (8 * die + j) = []
  · simp [h]
  · rw [if_neg (by simpa using h)]
    simp [h, or_comm]

theorem macPart_acc {s : State} {c : Cmd} {die i j : Nat} (hi : i < mB c.desc) (hj : j < 8) :
    tabFind (s.macPart c die).2.acc (512 * i + 8 * die + j) = if macTerms c i (8 * die + j) = [] then tabFind c.acc (512 * i + 8 * die + j)
      else some (s.macBgau c (mA c.desc + i) (macTerms c i (8 * die + j))).1 := by
  have hrow : ∀ a : Cmd × List Nat, tabFind (macRow s c die a i).1.acc (512 * i + 8 * die + j) =
      if macTerms c i (8 * die + j) = [] then tabFind a.1.acc (512 * i + 8 * die + j)
      else some (s.macBgau c (mA c.desc + i) (macTerms c i (8 * die + j))).1 := by
    intro a
    refine foldl_range_once (π := fun a : Cmd × List Nat => tabFind a.1.acc (512 * i + 8 * die + j))
      (g := fun v => if macTerms c i (8 * die + j) = [] then v else some (s.macBgau c (mA c.desc + i) (macTerms c i (8 * die + j))).1) a hj ?_ ?_
    · intro b j' hne
      rw [macCell_acc, if_neg (show ¬ 512 * i + 8 * die + j' = 512 * i + 8 * die + j by omega), ite_self]
    · intro b
      rw [macCell_acc, if_pos rfl]
  rw [macPart_eq]
  refine foldl_range_once (π := fun a : Cmd × List Nat => tabFind a.1.acc (512 * i + 8 * die + j))
    (g := fun v => if macTerms c i (8 * die + j) = [] then v else some (s.macBgau c (mA c.desc + i) (macTerms c i (8 * die + j))).1) (c, []) hi ?_ hrow
  intro a i' hne
  have hkeep : ∀ (l : List Nat) (a : Cmd × List Nat), (∀ j ∈ l, j < 8) →
      tabFind (l.foldl (macCell s c die i') a).1.acc (512 * i + 8 * die + j) = tabFind a.1.acc (512 * i + 8 * die + j) := by
    intro l
    induction l with
    | nil => exact fun _ _ => rfl
    | cons x r ih =>
      intro a hl
      have hx := hl x (by simp)
      rw [List.foldl_cons, ih _ (fun y hy => hl y (by simp [hy])), macCell_acc,
        if_neg (show ¬ 512 * i' + 8 * die + x = 512 * i + 8 * die + j by omega), ite_self]
  exact hkeep _ a (fun x hx => List.mem_range.1 hx)

theorem macPart_status {s : State} {c : Cmd} {die i : Nat} (hi : i < mB c.desc) :
    tabGet (s.macPart c die).2.status 0 i = (List.range 8).foldl (fun z j => if macTerms c i (8 * die + j) = [] then z
      else z ||| BitVec.ofNat 8 (s.macBgau c (mA c.desc + i) (macTerms c i (8 * die + j))).2.1) (tabGet c.status 0 i) := by
  rw [macPart_eq]
  refine foldl_range_once (π := fun a : Cmd × List Nat => tabGet a.1.status 0 i) (g := fun v => (List.range 8).foldl (fun z j =>
    if macTerms c i (8 * die + j) = [] then z else z ||| BitVec.ofNat 8 (s.macBgau c (mA c.desc + i) (macTerms c i (8 * die + j))).2.1) v) (c, []) hi ?_ ?_
  · intro a i' hne
    refine (foldl_map_state (π := fun a : Cmd × List Nat => tabGet a.1.status 0 i) (g := fun z _ => z) (fun b j => ?_) _ a).trans (foldl_keeps _ _)
    rw [macCell_status, if_neg (fun h => hne h.1)]
  · intro a
    refine foldl_map_state (π := fun a : Cmd × List Nat => tabGet a.1.status 0 i) (fun b j => ?_) _ a
    rw [macCell_status]
    by_cases h : macTerms c i (8 * die + j) = [] <;> simp [h]

theorem macPart_units (s : State) (c : Cmd) (die : Nat) : ∃ us, (s.macPart c die).1 = s.noteUnits us ∧
    ∀ u, u ∈ us ↔ ∃ i < mB c.desc, ∃ j < 8, macTerms c i (8 * die + j) ≠ [] ∧ u ∈ (s.macBgau c (mA c.desc + i) (macTerms c i (8 * die + j))).2.2 := by
  refine ⟨_, by rw [macPart_eq], fun u => ?_⟩
  have hrow : ∀ (a : Cmd × List Nat) (i : Nat), u ∈ (macRow s c die a i).2 ↔ u ∈ a.2 ∨ ∃ j ∈ List.range 8,
      macTerms c i (8 * die + j) ≠ [] ∧ u ∈ (s.macBgau c (mA c.desc + i) (macTerms c i (8 * die + j))).2.2 := fun a i =>
    foldl_collects (π := fun a : Cmd × List Nat => u ∈ a.2) (fun b j => macCell_units s c die i b j u) (List.range 8) a
  refine (foldl_collects (π := fun a : Cmd × List Nat => u ∈ a.2) hrow (List.range (mB c.desc)) (c, [])).trans ?_
  simp only [List.not_mem_nil, false_or, List.mem_range]

/-! ### BGATTN parts -/

/-- The pages of a BGAU among those of the command. -/
def pagesOf (c : Cmd) (g : Nat) : List PageRef := c.pages.filter (fun r => r.page % 512 == g)
/-- The state of a sequence before its first token (R229). -/
def attnStart (c : Cmd) : Attn := { m := 0xFF800000, l := 0, o := List.replicate (kvSpace c.src).hd 0 }
/-- One page: the running state, the status bits and the units read. -/
def attnStep (s : State) (c : Cmd) (b : Attn × Nat × List Nat) (r : PageRef) : Attn × Nat × List Nat :=
  (s.attnBlock c r (s.attnPage c r).1 b.1, b.2.1 ||| (s.attnPage c r).2.1, (s.attnPage c r).2.2 ++ b.2.2)
/-- One BGAU of a die. -/
def attnCell (s : State) (c : Cmd) (die : Nat) (a : Cmd × List Nat) (j : Nat) : Cmd × List Nat :=
  let z := (pagesOf c (8 * die + j)).foldl (attnStep s c) (attnStart c, 0, [])
  if (pagesOf c (8 * die + j)).isEmpty then a
  else (orStatus { a.1 with acc := putAttn a.1.acc (8 * die + j) z.1 } 0 z.2.1, z.2.2 ++ a.2)

theorem attnPart_eq (s : State) (c : Cmd) (die : Nat) :
    s.attnPart c die = (s.noteUnits ((List.range 8).foldl (attnCell s c die) (c, [])).2, ((List.range 8).foldl (attnCell s c die) (c, [])).1) := rfl

theorem attnFold_state (s : State) (c : Cmd) (l : List PageRef) (b : Attn × Nat × List Nat) :
    (l.foldl (attnStep s c) b).1 = l.foldl (fun a r => s.attnBlock c r (s.attnPage c r).1 a) b.1 :=
  foldl_map_state (π := fun b : Attn × Nat × List Nat => b.1) (fun _ _ => rfl) l b

theorem attnFold_status (s : State) (c : Cmd) (l : List PageRef) (b : Attn × Nat × List Nat) :
    (l.foldl (attnStep s c) b).2.1 = l.foldl (fun b r => b ||| (s.attnPage c r).2.1) b.2.1 :=
  foldl_map_state (π := fun b : Attn × Nat × List Nat => b.2.1) (fun _ _ => rfl) l b

/-! The running state of a BGAU keeps as many outputs as the head has elements. -/

theorem kvOk_hd {e : BitVec 512} (h : kvOk e = true) : (kvSpace e).hd ≤ 256 ∧ ((kvSpace e).eb = 1 ∨ (kvSpace e).eb = 2) := by
  unfold kvOk at h
  simp only [Bool.and_eq_true] at h
  obtain ⟨⟨⟨⟨⟨⟨⟨-, hf⟩, hd⟩, -⟩, -⟩, -⟩, -⟩, -⟩ := h
  refine ⟨?_, ?_⟩
  · simp only [List.contains_iff_mem, List.mem_cons, List.not_mem_nil, or_false] at hd
    show hDim e 0 ≤ 256
    omega
  · simp only [List.contains_iff_mem, List.mem_cons, List.not_mem_nil, or_false] at hf
    show hBits e / 8 = 1 ∨ hBits e / 8 = 2
    unfold hBits
    obtain hf | hf | hf := hf <;> rw [hf] <;> decide

theorem length_row {s : State} {page area i hd eb : Nat} {f : Fmt} (heb : eb = 1 ∨ eb = 2) :
    ((codesOf eb (s.dieBytes (rowBytes page area i (hd * eb)))).map f.value).length = hd := by
  simp only [codesOf, State.dieBytes, rowBytes, List.length_map, List.length_range]
  exact Nat.mul_div_cancel _ (by omega)

theorem attnBlock_length {s : State} {c : Cmd} (hkv : kvOk c.src = true) (r : PageRef) (page : Nat) {a : Attn} (ha : a.o.length = (kvSpace c.src).hd) :
    (s.attnBlock c r page a).o.length = (kvSpace c.src).hd := by
  unfold State.attnBlock
  dsimp only
  generalize blockTokens c r = l
  induction l generalizing a with
  | nil => exact ha
  | cons x l ih =>
    rw [List.foldl_cons]
    refine ih ?_
    simp only [attnToken, List.length_map, List.length_zip, length_row (kvOk_hd hkv).2, ha, Nat.min_self]

theorem attnFold_length {s : State} {c : Cmd} (hkv : kvOk c.src = true) (l : List PageRef) {a : Attn} (ha : a.o.length = (kvSpace c.src).hd) :
    (l.foldl (fun a r => s.attnBlock c r (s.attnPage c r).1 a) a).o.length = (kvSpace c.src).hd := by
  induction l generalizing a with
  | nil => exact ha
  | cons x l ih => exact ih (attnBlock_length hkv x _ ha)

/-! What the table holds of a running state. -/

theorem tabFind_putAll (l : List Nat) (base k n : Nat) (t : Tab Nat) :
    tabFind ((l.zipIdx n).foldl (fun t x => tabPut t (base + x.2) x.1) t) k =
      if base + n ≤ k ∧ k < base + n + l.length then l[k - (base + n)]? else tabFind t k := by
  induction l generalizing n t with
  | nil => rw [if_neg (by simp)]; rfl
  | cons x r ih =>
    rw [List.zipIdx_cons, List.foldl_cons, ih, tabFind_put, List.length_cons]
    by_cases hk : base + n = k
    · rw [if_neg (by omega), if_pos hk, if_pos (by omega), show k - (base + n) = 0 by omega]
      rfl
    · rw [if_neg hk]
      by_cases hin : base + (n + 1) ≤ k ∧ k < base + (n + 1) + r.length
      · rw [if_pos hin, if_pos (by omega), show k - (base + n) = k - (base + (n + 1)) + 1 by omega]
        rfl
      · rw [if_neg hin, if_neg (by omega)]

theorem tabGet_of_find {α : Type} (t : Tab α) (d : α) (k : Nat) : tabGet t d k = (tabFind t k).getD d := by
  induction t with
  | nil => rfl
  | cons x r ih =>
    obtain ⟨j, v⟩ := x
    rw [tabGet, tabFind]
    split
    · rfl
    · exact ih

theorem tabFind_putAttn (t : Tab Nat) (g k : Nat) (a : Attn) : tabFind (putAttn t g a) k =
    if 1024 * g ≤ k ∧ k < 1024 * g + (2 + a.o.length) then ([a.m, a.l] ++ a.o)[k - 1024 * g]? else tabFind t k := by
  unfold putAttn
  rw [tabFind_putAll]
  simp only [Nat.add_zero, List.length_append, List.length_cons, List.length_nil]

theorem getAttn_putAttn_same (t : Tab Nat) (g : Nat) (a : Attn) : getAttn (putAttn t g a) a.o.length g = some a := by
  have hm : tabFind (putAttn t g a) (1024 * g) = some a.m := by
    rw [tabFind_putAttn, if_pos (by omega), Nat.sub_self]
    rfl
  have hl : tabGet (putAttn t g a) 0 (1024 * g + 1) = a.l := by
    rw [tabGet_of_find, tabFind_putAttn, if_pos (by omega), Nat.add_sub_cancel_left]
    rfl
  have ho : (List.range a.o.length).map (fun d => tabGet (putAttn t g a) 0 (1024 * g + 2 + d)) = a.o := by
    refine List.ext_getElem (by simp) fun i h1 h2 => ?_
    rw [List.getElem_map, List.getElem_range, tabGet_of_find, tabFind_putAttn, if_pos (by omega),
      show 1024 * g + 2 + i - 1024 * g = i + 2 by omega]
    simp [h2]
  unfold getAttn
  rw [hm]
  dsimp only
  rw [hl, ho]

theorem getAttn_putAttn_ne (t : Tab Nat) {g g' hd : Nat} {a : Attn} (ha : a.o.length ≤ 256) (hhd : hd ≤ 256) (hne : g ≠ g') :
    getAttn (putAttn t g a) hd g' = getAttn t hd g' := by
  have hfind : ∀ k, 1024 * g' ≤ k → k < 1024 * g' + 258 → tabFind (putAttn t g a) k = tabFind t k := fun k h1 h2 => by
    rw [tabFind_putAttn, if_neg (by omega)]
  have hget : ∀ k, 1024 * g' ≤ k → k < 1024 * g' + 258 → tabGet (putAttn t g a) 0 k = tabGet t 0 k := fun k h1 h2 => by
    rw [tabGet_of_find, tabGet_of_find, hfind k h1 h2]
  have ho : (List.range hd).map (fun d => tabGet (putAttn t g a) 0 (1024 * g' + 2 + d)) = (List.range hd).map (fun d => tabGet t 0 (1024 * g' + 2 + d)) :=
    List.map_congr_left fun d hd' => hget _ (by omega) (by have := List.mem_range.1 hd'; omega)
  unfold getAttn
  rw [hfind _ (by omega) (by omega), hget _ (by omega) (by omega), ho]

/-- What the pages of a BGAU leave (R229). -/
def attnOf (s : State) (c : Cmd) (g : Nat) : Attn := (pagesOf c g).foldl (fun a r => s.attnBlock c r (s.attnPage c r).1 a) (attnStart c)

theorem attnOf_length {s : State} {c : Cmd} (hkv : kvOk c.src = true) (g : Nat) : (attnOf s c g).o.length = (kvSpace c.src).hd :=
  attnFold_length hkv _ (List.length_replicate ..)

theorem attnCell_acc {s : State} {c : Cmd} (die : Nat) (a : Cmd × List Nat) (j : Nat) : (attnCell s c die a j).1.acc =
    if pagesOf c (8 * die + j) = [] then a.1.acc else putAttn a.1.acc (8 * die + j) (attnOf s c (8 * die + j)) := by
  unfold attnCell
  dsimp only
  by_cases h : pagesOf c (8 * die + j) = []
  · simp [h]
  · rw [if_neg (by simpa using h), if_neg h, attnFold_state]
    rfl

theorem attnCell_status {s : State} {c : Cmd} (die : Nat) (a : Cmd × List Nat) (j : Nat) : tabGet (attnCell s c die a j).1.status 0 0 =
    if pagesOf c (8 * die + j) = [] then tabGet a.1.status 0 0
    else tabGet a.1.status 0 0 ||| BitVec.ofNat 8 ((pagesOf c (8 * die + j)).foldl (fun b r => b ||| (s.attnPage c r).2.1) 0) := by
  unfold attnCell
  dsimp only
  by_cases h : pagesOf c (8 * die + j) = []
  · simp [h]
  · rw [if_neg (by simpa using h), if_neg h, attnFold_status]
    exact (tabGet_put _ _ _ _ _).trans (if_pos rfl)

theorem attnPart_acc {s : State} {c : Cmd} {die j : Nat} (hkv : kvOk c.src = true) (hj : j < 8) :
    getAttn (s.attnPart c die).2.acc (kvSpace c.src).hd (8 * die + j) =
      if pagesOf c (8 * die + j) = [] then getAttn c.acc (kvSpace c.src).hd (8 * die + j) else some (attnOf s c (8 * die + j)) := by
  have hhd := (kvOk_hd hkv).1
  rw [attnPart_eq]
  refine foldl_range_once (π := fun a : Cmd × List Nat => getAttn a.1.acc (kvSpace c.src).hd (8 * die + j))
    (g := fun v => if pagesOf c (8 * die + j) = [] then v else some (attnOf s c (8 * die + j))) (c, []) hj ?_ ?_
  · intro b j' hne
    rw [attnCell_acc]
    by_cases h : pagesOf c (8 * die + j') = []
    · rw [if_pos h]
    · rw [if_neg h, getAttn_putAttn_ne _ (by rw [attnOf_length hkv]; exact hhd) hhd (by omega)]
  · intro b
    rw [attnCell_acc]
    by_cases h : pagesOf c (8 * die + j) = []
    · rw [if_pos h, if_pos h]
    · rw [if_neg h, if_neg h, ← attnOf_length (s := s) hkv (8 * die + j)]
      exact getAttn_putAttn_same _ _ _

theorem attnPart_status (s : State) (c : Cmd) (die : Nat) : tabGet (s.attnPart c die).2.status 0 0 =
    (List.range 8).foldl (fun z j => if pagesOf c (8 * die + j) = [] then z
      else z ||| BitVec.ofNat 8 ((pagesOf c (8 * die + j)).foldl (fun b r => b ||| (s.attnPage c r).2.1) 0)) (tabGet c.status 0 0) := by
  rw [attnPart_eq]
  exact foldl_map_state (π := fun a : Cmd × List Nat => tabGet a.1.status 0 0) (fun b j => attnCell_status die b j) _ _

/-! ### One BGAU (R227, R228) -/

/-- Status bits of the units that an output depends on, without the failing ones. -/
def seenStatus (s : State) (us : List Nat) : Nat := bitIf (us.any s.unitCe) stCe + bitIf (us.any (fun u => !(s.unitPlain u))) stCnst

theorem macBgau_reads {s : State} {c : Cmd} {r : Nat} {ts : List MacTerm} (h : (ts.flatMap MacTerm.units).any s.unitBad = false) :
    s.macBgau c r ts = (s.macPartial c ts, seenStatus s (ts.flatMap MacTerm.units), ts.flatMap MacTerm.units) := by
  unfold State.macBgau
  dsimp only
  rw [h]
  rfl

theorem macBgau_fails {s : State} {c : Cmd} {r : Nat} {ts : List MacTerm} (h : (ts.flatMap MacTerm.units).any s.unitBad = true)
    (hno : mRepl c.desc = false) :
    s.macBgau c r ts = (s.macPartial c ts, seenStatus s (ts.flatMap MacTerm.units) + stUe, ts.flatMap MacTerm.units) := by
  unfold State.macBgau
  dsimp only
  rw [h, hno]
  rfl

theorem macBgau_replica {s : State} {c : Cmd} {r : Nat} {ts ts2 : List MacTerm} (h : (ts.flatMap MacTerm.units).any s.unitBad = true)
    (hrepl : mRepl c.desc = true) (hts : ts2 = ts.map (fun t => macTerm c true r t.k)) :
    s.macBgau c r ts = (s.macPartial c ts2, (seenStatus s (ts.flatMap MacTerm.units) ||| seenStatus s (ts2.flatMap MacTerm.units)) + stRpl +
      bitIf ((ts2.flatMap MacTerm.units).any s.unitBad) stUe, ts.flatMap MacTerm.units ++ ts2.flatMap MacTerm.units) := by
  subst hts
  unfold State.macBgau
  dsimp only
  rw [h, hrepl]
  rfl

/-! ### The pages and tokens of BGATTN -/

theorem attnPage_page {s : State} {c : Cmd} {r : PageRef} (h : (pageUnits c r.page (blockTokens c r)).any s.unitBad = false) :
    s.attnPage c r = (r.page, bitIf ((pageUnits c r.page (blockTokens c r)).any s.unitCe) stCe, pageUnits c r.page (blockTokens c r)) := by
  unfold State.attnPage
  dsimp only
  rw [h]
  rfl

theorem attnPage_fails {s : State} {c : Cmd} {r : PageRef} (h : (pageUnits c r.page (blockTokens c r)).any s.unitBad = true)
    (hno : r.mirror = none ∨ mRepl c.desc = false) : s.attnPage c r =
      (r.page, bitIf ((pageUnits c r.page (blockTokens c r)).any s.unitCe) stCe + stUe, pageUnits c r.page (blockTokens c r)) := by
  unfold State.attnPage
  dsimp only
  rw [h, if_neg (by decide)]
  split
  next m hm hr => rcases hno with h | h <;> simp_all
  · rfl

theorem attnPage_mirror {s : State} {c : Cmd} {r : PageRef} {m : Nat} (h : (pageUnits c r.page (blockTokens c r)).any s.unitBad = true)
    (hrepl : mRepl c.desc = true) (hm : r.mirror = some m) : s.attnPage c r =
      (m, (bitIf ((pageUnits c r.page (blockTokens c r)).any s.unitCe) stCe ||| bitIf ((pageUnits c m (blockTokens c r)).any s.unitCe) stCe) + stRpl +
        bitIf ((pageUnits c m (blockTokens c r)).any s.unitBad) stUe, pageUnits c r.page (blockTokens c r) ++ pageUnits c m (blockTokens c r)) := by
  unfold State.attnPage
  dsimp only
  rw [h, hm, hrepl, if_neg (by decide)]

/-! ### Parts that move units (R230) -/

/-- The units that a fold over rows and units moves, as one list. -/
theorem foldl_pairs {α β γ : Type} (f : α → β × γ → α) (g : β → List γ) (l : List β) (a : α) :
    l.foldl (fun a b => (g b).foldl (fun a n => f a (b, n)) a) a = (l.flatMap (fun b => (g b).map (fun n => (b, n)))).foldl f a := by
  rw [List.foldl_flatMap]
  simp only [List.foldl_map]

/-- One unit of a BGCPY goes from its source to its place (R230, R305). -/
def copyUnit (party : Cmd) (x : State × Cmd) (u : Nat × Nat) : State × Cmd :=
  ((x.1.noteUnits [u.1]).putUnit party u.2 (x.1.dieBytes ((List.range 64).map (64 * u.1 + ·))) (x.1.unitBad u.1),
    { x.2 with poisoned := x.2.poisoned || x.1.unitBad u.1 })

theorem putUnit_poisoned (s : State) (c : Cmd) (p : Bool) (l : Nat) (bs : List Byte) (bad : Bool) :
    s.putUnit { c with poisoned := p } l bs bad = s.putUnit c l bs bad := rfl

/-- The units of a row, from their sources to their places. -/
def rowUnits (src dst : Nat) : List (Nat × Nat) := (List.range 16).map (fun k => (src / 64 + k, dst + 64 * k))

theorem copyRow_eq (s : State) (c : Cmd) (p : Bool) (src dst : Nat) :
    s.copyRow { c with poisoned := p } src dst = (rowUnits src dst).foldl (copyUnit c) (s, { c with poisoned := p }) := by
  unfold State.copyRow rowUnits
  rw [List.foldl_map]
  rfl

theorem copyUnits_kept (c : Cmd) (l : List (Nat × Nat)) (x : State × Cmd) (h : ∃ p, x.2 = { c with poisoned := p }) :
    ∃ p, (l.foldl (copyUnit c) x).2 = { c with poisoned := p } := by
  induction l generalizing x with
  | nil => exact h
  | cons u l ih =>
    obtain ⟨p, hp⟩ := h
    exact ih _ ⟨p || x.1.unitBad u.1, by rw [copyUnit, hp]⟩

/-- Rows that are copied one after another are copied unit by unit. -/
theorem copyRows_eq {β : Type} (c : Cmd) (src dst : β → Nat) (l : List β) (x : State × Cmd) (h : ∃ p, x.2 = { c with poisoned := p }) :
    l.foldl (fun a b => a.1.copyRow a.2 (src b) (dst b)) x = (l.flatMap (fun b => rowUnits (src b) (dst b))).foldl (copyUnit c) x := by
  induction l generalizing x with
  | nil => rfl
  | cons b l ih =>
    obtain ⟨p, hp⟩ := h
    have hrow : x.1.copyRow x.2 (src b) (dst b) = (rowUnits (src b) (dst b)).foldl (copyUnit c) x := by
      have hx : x = (x.1, { c with poisoned := p }) := by rw [← hp]
      rw [hp, copyRow_eq, ← hx]
    rw [List.foldl_cons, List.flatMap_cons, List.foldl_append, hrow]
    exact ih _ (copyUnits_kept c _ _ ⟨p, hp⟩)

theorem copyPart_eq (s : State) (c : Cmd) (die : Nat) (src dst : Nat → Nat → Nat)
    (hsrc : ∀ i j, src i j = tabGet c.furl 0 (hBase c.src / 2 ^ 21 + mA c.desc + i) * 2 ^ 21 + 4096 * (8 * die + j) + 1024 * mSbk c.desc)
    (hdst : ∀ i j, dst i j = tabGet c.furl 0 (hBase c.src / 2 ^ 21 + mB c.desc + i) * 2 ^ 21 + 4096 * (8 * die + j) + 1024 * mDbk c.desc) :
    s.copyPart c die = ((List.range (mC c.desc)).flatMap (fun i => (List.range 8).flatMap (fun j => rowUnits (src i j) (dst i j)))).foldl (copyUnit c) (s, c) := by
  have hpart : s.copyPart c die = ((List.range (mC c.desc)).flatMap (fun i => (List.range 8).map (fun j => (i, j)))).foldl
      (fun a b => a.1.copyRow a.2 (src b.1 b.2) (dst b.1 b.2)) (s, c) := by
    rw [← foldl_pairs (fun (a : State × Cmd) (b : Nat × Nat) => a.1.copyRow a.2 (src b.1 b.2) (dst b.1 b.2)) (fun _ => List.range 8)]
    simp only [hsrc, hdst]
    rfl
  rw [hpart, copyRows_eq c (fun b : Nat × Nat => src b.1 b.2) (fun b : Nat × Nat => dst b.1 b.2) _ _ ⟨c.poisoned, rfl⟩, List.flatMap_assoc]
  simp only [List.flatMap_map]

/-- Settles O43. -/
theorem memoryCommandsRun : Obligations.MemoryCommandsRun := by
  unfold Obligations.MemoryCommandsRun
  refine ⟨?start, ?runs, ?waits, ?mac, ?term, ?bgau, ?attn, ?block, ?page, ?move⟩
  case start =>
    intro q s s1 c c1 hq hw hs
    refine ⟨?_, ?_, ?_, ?_, ?_⟩ <;> intro hcmd h <;> refine memoryStart_ok hq hw hs ?_ <;> unfold State.startMemory <;> dsimp only <;> rw [hcmd] <;> exact h
  case runs =>
    intro q die s c hq hhead hst hfin hdie hhold hquads ran
    have hready := partReady_of hst hfin hdie hhold hquads
    refine ⟨?_, ?_, ?_, ?_, ?_⟩ <;> intro hcmd <;> refine memoryPart_runs hq hhead hready ?_ <;> unfold partOf <;> rw [hcmd] <;> rfl
  case waits =>
    intro q die s c hq hhead h
    exact memoryPart_waits hq hhead (partReady_false h)
  case mac =>
    intro s c die _ part got x
    refine ⟨fun i hi j hj => ?_, fun i hi => ?_, ?_⟩
    · refine (macPart_acc hi hj).trans ?_
      by_cases h : macTerms c i (8 * die + j) = []
      · exact (if_pos h).trans (if_pos h).symm
      · exact (if_neg h).trans (if_neg h).symm
    · refine (macPart_status hi).trans (foldl_congr_mem fun z j _ => ?_)
      by_cases h : macTerms c i (8 * die + j) = []
      · exact (if_pos h).trans (if_pos h).symm
      · exact (if_neg h).trans (if_neg h).symm
    · exact macPart_units s c die
  case term =>
    intro c copy r k z place t
    refine ⟨rfl, rfl, rfl, ?_, ?_⟩
    · cases copy <;> rfl
    · intro hsc
      exact if_pos hsc
  case bgau =>
    intro s c r t ts f sum seen us again us2
    have hsum : ∀ l : List MacTerm, s.macPartial c l = sum l := fun l => by cases l <;> rfl
    exact ⟨fun h => (macBgau_reads h).trans (by rw [hsum]; rfl), fun h hno => (macBgau_fails h hno).trans (by rw [hsum]; rfl),
      fun h hrepl => (macBgau_replica (ts2 := again) h hrepl rfl).trans (by rw [hsum]; rfl)⟩
  case attn =>
    intro s c die _ hkv hd mine x
    refine ⟨fun j hj => ?_, ?_, ?_⟩
    · refine (attnPart_acc hkv hj).trans ?_
      by_cases h : pagesOf c (8 * die + j) = []
      · exact (if_pos h).trans (if_pos h).symm
      · exact (if_neg h).trans (if_neg h).symm
    · refine (attnPart_status s c die).trans (foldl_congr_mem fun z j _ => ?_)
      by_cases h : pagesOf c (8 * die + j) = []
      · exact (if_pos h).trans (if_pos h).symm
      · exact (if_neg h).trans (if_neg h).symm
    · exact ⟨_, congrArg Prod.fst (attnPart_eq s c die)⟩
  case block =>
    intro s c r page a k row q
    rfl
  case page =>
    intro s c r us ce
    exact ⟨attnPage_page, attnPage_fails, fun h hr m hm => attnPage_mirror h hr hm⟩
  case move =>
    intro s c die put f0 row units
    refine ⟨?_, ?_, ?_⟩
    · refine copyPart_eq s c die (fun i j => row (mA c.desc) i (mSbk c.desc) (8 * die + j)) (fun i j => row (mB c.desc) i (mDbk c.desc) (8 * die + j)) ?_ ?_
      · intro i j
        rfl
      · intro i j
        rfl
    · intro blocks
      exact foldl_pairs (fun (x : State × Cmd) (b : PageRef × Nat) =>
        let u := 64 * (b.1.n - mB c.desc) + b.2
        let bs := (List.range 64).map (fun i => BitVec.ofNat 8 (c.input[64 * u + i]?.getD 0))
        ((b.1.page :: b.1.mirror.toList).foldl (fun t p => put t (pageByte p (if b.2 < 32 then 0 else 2) (64 * (b.2 % 32))) bs (c.marks.contains u)) x.1,
          { x.2 with poisoned := x.2.poisoned || c.marks.contains u })) (fun _ => List.range 64) _ _
    · intro blocks
      exact foldl_pairs (fun (x : State × Cmd) (b : PageRef × Nat) =>
        let u := pageByte b.1.page (if b.2 < 32 then 0 else 2) (64 * (b.2 % 32)) / 64
        let key := 64 * (b.1.n - mB c.desc) + b.2
        (x.1.noteUnits [u], { x.2 with
          acc := tabPut x.2.acc key (leNat (x.1.dieBytes ((List.range 64).map (64 * u + ·))))
          marks := (if x.1.unitBad u then key :: x.2.marks else x.2.marks), poisoned := x.2.poisoned || x.1.unitBad u })) (fun _ => List.range 64) _ _

end Sys2Proof.Proofs.MemoryParts
end

section
/-! SUPPORT. Family dies, lines and rounds (R274, R275, R281, R286, R304, R390). -/

namespace Sys2Proof.Proofs.DiesAndLines

open Sys2Proof.Machine Sys2Proof.Claims

/-! ### The dies -/

theorem exec_xpwrPoisonWrite {u : Nat} {s : State} (h : u ∈ s.xpwrDue) : exec (.xpwrPoisonWrite u) s = .next (s.dieWritten true u) := by
  show execXpwrPoisonWrite u s = _
  unfold execXpwrPoisonWrite
  rw [if_pos (List.contains_iff_mem.2 h)]

theorem exec_scrub {u : Nat} {s : State} (h : u ∈ s.scrubDue) :
    exec (.scrub u) s = .next { s with devCe := setDel s.devCe u, scrubDue := setDel s.scrubDue u } := by
  show execScrub u s = _
  unfold execScrub
  rw [if_pos (List.contains_iff_mem.2 h)]

theorem exec_refresh {die bank : Nat} (s : State) (hd : die < 64) (hb : bank < 32) : exec (.refresh die bank) s = .next s := by
  show execRefresh die bank s = _
  unfold execRefresh
  rw [if_pos ⟨hd, hb⟩]

/-! ### Dirty lines -/

theorem exec_writeBack_dev {line : Nat} (s : State) (h : line < 2 ^ 46) : exec (.l2WriteBack line) s = .next (s.flushDev line) := by
  have hk : line / 2 ^ 46 = 0 := Nat.div_eq_of_lt h
  show execL2WriteBack line s = _
  unfold execL2WriteBack
  rw [hk, Nat.mod_eq_of_lt h] <;> rfl

theorem exec_writeBack_host {line : Nat} {s : State} {x : BitVec 512} (h : line < 2 ^ 46) (hx : tabFind s.hostL2 line = some x) :
    exec (.l2WriteBack (2 ^ 46 + line)) s = .next ((s.evictHost line).flushHost line) := by
  have hk : (2 ^ 46 + line) / 2 ^ 46 = 1 := by omega
  have hm : (2 ^ 46 + line) % 2 ^ 46 = line := by omega
  show execL2WriteBack (2 ^ 46 + line) s = _
  unfold execL2WriteBack
  dsimp only
  rw [hk, hm, hx]
  rfl

theorem exec_writeBack_pool {line : Nat} {s : State} {x : BitVec 512} (h : line < 2 ^ 46) (hx : tabFind s.poolL2 line = some x) :
    exec (.l2WriteBack (2 * 2 ^ 46 + line)) s =
      .next ((s.flushPool line).setCxl { (s.flushPool line).arr.cxl with pool := setDel (s.flushPool line).arr.cxl.pool line }) := by
  have hk : (2 * 2 ^ 46 + line) / 2 ^ 46 = 2 := by omega
  have hm : (2 * 2 ^ 46 + line) % 2 ^ 46 = line := by omega
  show execL2WriteBack (2 * 2 ^ 46 + line) s = _
  unfold execL2WriteBack
  dsimp only
  rw [hk, hm, hx]
  rfl

/-! ### Lines whose owner is dead (R390) -/

theorem mem_setAdd (t : List Nat) (k : Nat) : k ∈ setAdd t k := by
  induction t with
  | nil => simp [setAdd]
  | cons j r ih =>
    unfold setAdd
    split
    · simp
    · split
      next h => simp [h]
      · exact List.mem_cons_of_mem _ ih

theorem not_mem_setDel (t : List Nat) (k : Nat) : k ∉ setDel t k := by simp [setDel]

theorem contains_setPut (t : List Nat) (k : Nat) : (setPut t k true).contains k = true := List.contains_iff_mem.2 (mem_setAdd t k)

theorem poisoned_markUnit (s : State) (sp : MemSpace) (u : Nat) : (s.markUnit sp true u).poisoned sp u = true := by
  cases sp with
  | il =>
    unfold State.markUnit
    dsimp only
    by_cases h : (tabFind s.l2 u).isSome = true
    · rw [if_pos h]
      exact (if_pos h).trans (contains_setPut _ _)
    · rw [if_neg h]
      exact (if_neg h).trans (contains_setPut _ _)
  | bl => exact contains_setPut _ _
  | host => exact contains_setPut _ _
  | pool => exact contains_setPut _ _

theorem markUnit_lines (s : State) (sp : MemSpace) (b : Bool) (u : Nat) : (s.markUnit sp b u).dev = s.dev ∧ (s.markUnit sp b u).l2 = s.l2 := by
  cases sp with
  | il =>
    unfold State.markUnit
    dsimp only
    split <;> exact ⟨rfl, rfl⟩
  | _ => exact ⟨rfl, rfl⟩

/-- The state in which the record of a dead owner is posted: the mark stands, and its home records no owner. -/
def ownerGone (s : State) (sp : MemSpace) (line : Nat) : State :=
  let s1 := s.markUnit sp true line
  { s1 with arr := { s1.arr with
    l1Bad := s1.arr.l1Bad.filter (fun x => x.2 != unitKey sp line)
    cxl := { s1.arr.cxl with
      hostHeld := if sp = .il then setDel s1.arr.cxl.hostHeld line else s1.arr.cxl.hostHeld
      hostOwned := if sp = .il then setDel s1.arr.cxl.hostOwned line else s1.arr.cxl.hostOwned } } }

theorem exec_deadAgent {o : Owner} {sp : MemSpace} {line : Nat} (s : State) (hl : spaceLine sp line = true) (ho : ownerOk o sp = true) :
    exec (.deadAgent ⟨o, sp⟩ line) s = .next ((ownerGone s sp line).postError
      { cls := 2, ukind := (ownerUnit o).1, unit := (ownerUnit o).2, evt := 3, addr := 64 * line }) := by
  show execDeadAgent ⟨o, sp⟩ line s = _
  unfold execDeadAgent
  dsimp only
  rw [hl, ho, if_neg (by decide)]
  rfl

theorem ownerGone_poisoned (s : State) (sp : MemSpace) (line : Nat) : (ownerGone s sp line).poisoned sp line = true :=
  (show (ownerGone s sp line).poisoned sp line = (s.markUnit sp true line).poisoned sp line by cases sp <;> rfl).trans (poisoned_markUnit s sp line)

/-! ### Rounds (R274, R275) -/

theorem exec_radvMessage {core region : Nat} {s : State} {k : BitVec 32} {ent : BitVec 128} (hcore : core < 64)
    (hk : tabFind (s.core core).known region = some k) (he : s.regionNow core region = some ent) :
    exec (.radvMessage core region) s = .next (s.modCore core (fun c => { c with
      known := tabPut c.known region (k + BitVec.ofNat 32 ((Config.freeWord (s.fv + 47)).toNat % ((regionRound ent - k).toNat + 1))) })) := by
  show execRadvMessage core region s = _
  unfold execRadvMessage
  rw [if_neg (by omega), hk, he]

theorem exec_pushMarker {core region : Nat} {round : BitVec 32} {s : State} {ent : BitVec 128} (hcore : core < 64)
    (he : s.regionNow core region = some ent) (hpush : ent.getLsbD 1 = true) (hround : (regionRound ent - round).toNat < 2 ^ 31) :
    let lead := s.leadOf core
    let k := s.knownRound lead region ent
    exec (.pushMarker core region round) s = .next ((s.modCore lead (fun c => { c with
      known := tabPut c.known region (if (k - round).toNat < 2 ^ 31 then k else round) })).modCore core (fun c => { c with
      stamps := c.stamps.map (fun y => if y.region = region ∧ (round - y.stamp).toNat < 2 ^ 31 then
        { y with stamp := round, data := BitVec.ofNat 512 (leNat (s.physRead (keyPlace y.line).1 (keyPlace y.line).2 64)) } else y) })) := by
  have hnot : ¬ (2 ^ 31 ≤ (regionRound ent - round).toNat) := by omega
  show execPushMarker core region round s = _
  unfold execPushMarker
  rw [if_neg (by omega), he]
  dsimp only
  rw [hpush, show ((!true) || decide ((regionRound ent - round).toNat ≥ 2 ^ 31)) = false from decide_eq_false hnot, if_neg (by decide)]
  simp only [Bool.and_eq_true, decide_eq_true_eq]

/-- Settles O44. -/
theorem diesLinesAndRounds : Obligations.DiesLinesAndRounds := by
  unfold Obligations.DiesLinesAndRounds
  refine ⟨⟨fun u s h => exec_xpwrPoisonWrite h, fun u s h => exec_scrub h, fun die bank s hd hb => exec_refresh s hd hb⟩, ?lines, ?dead, ?rounds, ?push⟩
  case lines =>
    exact fun line s x hl => ⟨fun _ => exec_writeBack_dev s hl, exec_writeBack_host hl, exec_writeBack_pool hl⟩
  case dead =>
    intro o sp line s hl ho
    refine ⟨ownerGone s sp line, ?_, ownerGone_poisoned s sp line, ?_, ?_, markUnit_lines s sp true line⟩
    · rw [exec_deadAgent s hl ho]
      cases o <;> rfl
    · intro x hx
      simpa using (List.mem_filter.1 hx).2
    · intro hsp
      subst hsp
      exact ⟨not_mem_setDel _ _, not_mem_setDel _ _⟩
  case rounds =>
    intro core region s k ent hcore hk he
    exact ⟨_, Nat.lt_succ_iff.1 (Nat.mod_lt _ (Nat.succ_pos _)), exec_radvMessage hcore hk he⟩
  case push =>
    intro core region round s ent hcore he hpush hround
    exact exec_pushMarker hcore he hpush hround

end Sys2Proof.Proofs.DiesAndLines
end

section
/-! SUPPORT. Family memory and line events: the starts of the memory commands by their checks, parts that come back, and the state that each event
of the dies and the lines leaves (R219, R274, R275, R281, R286, R293, R298 to R304, R390). -/

namespace Sys2Proof.Proofs.MemoryAndLines

open Sys2Proof.Machine Sys2Proof.Claims Sys2Proof.Proofs.MemoryParts Sys2Proof.Proofs.DiesAndLines

/-! ### Starts -/

theorem startBgmac_ok {s s1 s2 s3 s4 s5 : State} {c : Cmd} {wh xh oh sc xsc : BitVec 512} {fu : Tab Nat} {xs sx : List Nat} {p r : Bool}
    (hh : s.startHandles c.slot [mH0 c.desc, mH1 c.desc, mOH c.desc] = .ok (s1, [wh, xh, oh])) (hbad : s1.macBad c wh xh oh = none)
    (hw : s1.weightScales c wh = .ok (s2, sc)) (hx : s2.xScales c xh = .ok (s3, xsc)) (hf : s3.furlongs c .read (macReads c.desc wh sc) = .ok fu)
    (hrows : ∀ x ∈ s3.rows, x.2.isCompressed = false) (hv : s3.readVec c xh (mXoff c.desc) (mC c.desc) = .ok (s4, xs, p))
    (hs : s4.readXScales c xh xsc = .ok (s5, sx, r)) :
    s.startBgmac c = .ok (s5, { c with
      started := true, src := wh, dst := oh, aux := sc, furl := fu, reads := (valsOf fu).eraseDups, input := xs, marks := sx, poisoned := p || r
      parts := macDies c.desc wh, row := ((hType xh).map Fmt.code).getD 0 }) := by
  have hno : s3.rows.any (fun x => x.2.isCompressed) = false := List.any_eq_false.2 fun x hx => by simp [hrows x hx]
  unfold State.startBgmac
  dsimp only
  rw [hh]
  dsimp only
  rw [hbad]
  dsimp only
  rw [hw]
  dsimp only
  rw [hx]
  dsimp only
  rw [hf]
  dsimp only
  rw [hno, Bool.false_and, if_neg (by decide)]
  rw [hv]
  dsimp only
  rw [hs]

theorem startBgcpy_ok {s s1 : State} {c : Cmd} {e : BitVec 512} {fs fd : Tab Nat} (hh : s.readHandle c.slot (mH0 c.desc) = .ok (s1, e))
    (he : hCheck e (stripe e) true true = none) (hn : mC c.desc ≠ 0) (hsrc : bgcpyRangeOk e (mA c.desc) (mC c.desc) (mSbk c.desc) = true)
    (hdst : bgcpyRangeOk e (mB c.desc) (mC c.desc) (mDbk c.desc) = true)
    (hfs : s1.furlongs c .read (bgcpyFurlongs e (mA c.desc) (mC c.desc)) = .ok fs)
    (hfd : s1.furlongs c .write (bgcpyFurlongs e (mB c.desc) (mC c.desc)) = .ok fd) (hms : s1.bankMarked (valsOf fs) (mSbk c.desc) = false)
    (hmd : s1.bankMarked (valsOf fd) (mDbk c.desc) = false) (hown : s1.furlongOwned (valsOf fd) = false) :
    s.startBgcpy c = .ok (s1, { c with
      started := true, src := e, furl := fd.foldl (fun t x => tabPut t x.1 x.2) fs, reads := (valsOf fs).eraseDups, parts := List.range 64 }) := by
  have hchecks : firstBadOf [hCheck e (stripe e) true true, isTrue (mC c.desc != 0) (.trap .illegalOperand 0),
      isTrue (bgcpyRangeOk e (mA c.desc) (mC c.desc) (mSbk c.desc) && bgcpyRangeOk e (mB c.desc) (mC c.desc) (mDbk c.desc)) (.trap .handleBounds 4)] = none :=
    CopyQueue.firstBadOf_none (by simp [he, hsrc, hdst, hn, Machine.isTrue])
  unfold State.startBgcpy
  dsimp only
  rw [hh]
  dsimp only
  rw [hchecks]
  dsimp only
  rw [hfs, hfd]
  dsimp only
  rw [hms, hmd, hown]
  rfl

theorem startBgattn_ok {s s1 s2 : State} {c : Cmd} {qh kv oh : BitVec 512} {ps : List PageRef} {fu : Tab Nat} {x : List Nat} {p : Bool}
    (hh : s.startHandles c.slot [mH0 c.desc, mH1 c.desc, mOH c.desc] = .ok (s1, [qh, kv, oh])) (hbad : s1.attnBad c qh kv oh = none)
    (hps : s1.attnPages c kv = some ps)
    (hplain : ∀ r ∈ ps, s1.pagePlain r.page = true ∧ (mRepl c.desc = true → ∀ n ∈ r.mirror, s1.pagePlain n = true))
    (hf : s1.furlongs c .read (refFurlongs kv (mRepl c.desc) ps) = .ok fu) (hv : s1.readVec c qh (mXoff c.desc) (kvSpace kv).hd = .ok (s2, x, p)) :
    s.startBgattn c = .ok (s2, { c with
      started := true, src := kv, dst := oh, furl := fu, reads := (valsOf fu).eraseDups, pages := ps, input := x, poisoned := p, parts := diesOf ps
      row := ((hType qh).map Fmt.code).getD 0 }) := by
  have hall : ps.all (fun r => s1.pagePlain r.page && (!(mRepl c.desc) || r.mirror.toList.all s1.pagePlain)) = true := by
    rw [List.all_eq_true]
    intro r hr
    obtain ⟨hpage, hmirror⟩ := hplain r hr
    rw [hpage, Bool.true_and]
    cases hrepl : mRepl c.desc with
    | false => rfl
    | true => simpa using hmirror hrepl
  unfold State.startBgattn
  dsimp only
  rw [hh]
  dsimp only
  rw [hbad]
  dsimp only
  rw [hps]
  dsimp only
  rw [hall, if_neg (by decide), hf]
  dsimp only
  rw [hv]

theorem startKvput_ok {s s1 s2 : State} {c : Cmd} {e kv : BitVec 512} {new : List PageRef} {bs : List Byte} {ms : List Nat}
    (hh : s.startHandles c.slot [mH0 c.desc, mH1 c.desc] = .ok (s1, [e, kv])) (he : hCheck e (ioKind e) true false = none)
    (hkv : hCheck kv (kvOk kv) true false = none) (hn : mC c.desc ≠ 0) (hrange : s1.rangeBad c e (mOff c.desc) (4096 * mC c.desc) = none)
    (htop : mB c.desc + mC c.desc ≤ 2 ^ 20) (hnew : s1.placeBlocks c kv [] (kvBlocks c.desc) = .ok new) (hroom : s1.tableRoom c kv new = true)
    (hplain : ∀ r ∈ new, ∀ n ∈ refPages r, s1.pagePlain n = true) (hread : s1.readBlocks c e (mOff c.desc) (64 * mC c.desc) = .ok (s2, bs, ms)) :
    let old := (kvBlocks c.desc).filterMap (fun b => (s1.blockOf c kv (mA c.desc) (mKvHead c.desc) b).map (fun x => { x.ref b with old := true }))
    s.startKvput c = .ok ((s2.takePages .releasing old).takePages .reserved new, { c with
      started := true, src := e, dst := kv, pages := new ++ old, input := bs.map (·.toNat), marks := ms.map (fun n => 64 * mC c.desc - 1 - n)
      parts := diesOf new }) := by
  have htop' : mB c.desc + mC c.desc ≤ 1048576 := htop
  have hchecks : firstBadOf [hCheck e (ioKind e) true false, hCheck kv (kvOk kv) true false, isTrue (mC c.desc != 0) (.trap .illegalOperand 0),
      s1.rangeBad c e (mOff c.desc) (4096 * mC c.desc), isTrue (mB c.desc + mC c.desc ≤ 2 ^ 20) (.trap .handleBounds 0)] = none :=
    CopyQueue.firstBadOf_none (by simp [he, hkv, hn, hrange, htop', Machine.isTrue])
  have hall : new.all (fun r => (refPages r).all s1.pagePlain) = true :=
    List.all_eq_true.2 fun r hr => List.all_eq_true.2 (hplain r hr)
  unfold State.startKvput
  dsimp only
  rw [hh]
  dsimp only
  rw [hchecks]
  dsimp only
  rw [hnew]
  dsimp only
  rw [hroom, hall, if_neg (by decide), if_neg (by decide), hread]

theorem startKvtake_removes {s s1 : State} {c : Cmd} {kv : BitVec 512} (hno : mCopyo c.desc = false)
    (hh : s.startHandles c.slot [mH1 c.desc] = .ok (s1, [kv])) (hkv : hCheck kv (kvOk kv) true false = none) (hn : mC c.desc ≠ 0) :
    let refs := (kvBlocks c.desc).filterMap (fun b => (s1.blockOf c kv (mA c.desc) (mKvHead c.desc) b).map (fun x => x.ref b))
    s.startKvtake c = .ok (s1.takePages .releasing refs, { c with
      started := true, src := kv, dst := 0, furl := [], outs := [], reads := [], pages := refs, parts := [] }) := by
  have hchecks : firstBadOf [hCheck kv (kvOk kv) true false, none, isTrue (mC c.desc != 0) (.trap .illegalOperand 0), none] = none :=
    CopyQueue.firstBadOf_none (by simp [hkv, hn, Machine.isTrue])
  unfold State.startKvtake
  dsimp only
  rw [hno, if_neg (by decide), List.append_nil, hh]
  dsimp only
  rw [if_neg (by decide), if_neg (by decide), hchecks]
  rfl

theorem startKvtake_copies {s s1 : State} {c : Cmd} {kv e : BitVec 512} {fu : Tab Nat} {os : Tab (List Piece)} (hyes : mCopyo c.desc = true)
    (hh : s.startHandles c.slot [mH1 c.desc, mH0 c.desc] = .ok (s1, [kv, e])) (hkv : hCheck kv (kvOk kv) true false = none)
    (he : hCheck e (outKind e) false true = none) (hn : mC c.desc ≠ 0) (hrange : s1.rangeBad c e (mOff c.desc) (4096 * mC c.desc) = none) :
    let refs := (kvBlocks c.desc).filterMap (fun b => (s1.blockOf c kv (mA c.desc) (mKvHead c.desc) b).map (fun x => x.ref b))
    s1.furlongs c .read (refFurlongs kv false refs) = .ok fu → s1.copyOuts c e refs = .ok os →
    s.startKvtake c = .ok (s1.takePages .releasing refs, { c with
      started := true, src := kv, dst := e, furl := fu, outs := os, reads := (valsOf fu).eraseDups, pages := refs, parts := diesOf refs }) := by
  intro refs hf ho
  have hchecks : firstBadOf [hCheck kv (kvOk kv) true false, hCheck e (outKind e) false true, isTrue (mC c.desc != 0) (.trap .illegalOperand 0),
      s1.rangeBad c e (mOff c.desc) (4096 * mC c.desc)] = none :=
    CopyQueue.firstBadOf_none (by simp [hkv, he, hn, hrange, Machine.isTrue])
  unfold State.startKvtake
  dsimp only
  rw [hyes, if_pos rfl, show [mH1 c.desc] ++ [mH0 c.desc] = [mH1 c.desc, mH0 c.desc] from rfl, hh]
  dsimp only
  rw [List.headD_cons, if_pos rfl, if_pos rfl, hchecks]
  dsimp only
  rw [if_pos rfl, if_pos rfl, if_pos rfl, hf, ho]

/-! ### Parts -/

/-- What a part leaves of its command. -/
def partKept (c : Cmd) : List Nat × BitVec 512 × Nat × Bool × Bool := (c.parts, c.desc, c.slot, c.started, c.finished)

theorem foldl_keeps {α β γ : Type} {f : α → β → α} {π : α → γ} (h : ∀ a i, π (f a i) = π a) (l : List β) (a : α) : π (l.foldl f a) = π a := by
  induction l generalizing a with
  | nil => rfl
  | cons x l ih => rw [List.foldl_cons, ih, h]

theorem macPart_kept (s : State) (c : Cmd) (die : Nat) : partKept (s.macPart c die).2 = partKept c := by
  have hcell : ∀ i (a : Cmd × List Nat) j, partKept (macCell s c die i a j).1 = partKept a.1 := fun i a j => by
    unfold macCell
    dsimp only
    split <;> rfl
  rw [macPart_eq]
  exact foldl_keeps (π := fun a : Cmd × List Nat => partKept a.1) (fun a i => foldl_keeps (π := fun a : Cmd × List Nat => partKept a.1) (hcell i) _ a) _ _

theorem copyRow_kept (s : State) (c : Cmd) (src dst : Nat) : partKept (s.copyRow c src dst).2 = partKept c := by
  unfold State.copyRow
  refine (foldl_keeps (π := fun a : State × Cmd => partKept a.2) (fun a i => ?_) _ (s, c)).trans rfl
  dsimp only
  rfl

theorem copyPart_kept (s : State) (c : Cmd) (die : Nat) : partKept (s.copyPart c die).2 = partKept c := by
  unfold State.copyPart
  refine (foldl_keeps (π := fun a : State × Cmd => partKept a.2) (fun a i => ?_) _ (s, c)).trans rfl
  exact foldl_keeps (π := fun a : State × Cmd => partKept a.2) (fun a j => copyRow_kept a.1 a.2 _ _) _ a

theorem attnPart_kept (s : State) (c : Cmd) (die : Nat) : partKept (s.attnPart c die).2 = partKept c := by
  have hcell : ∀ (a : Cmd × List Nat) j, partKept (attnCell s c die a j).1 = partKept a.1 := fun a j => by
    unfold attnCell
    dsimp only
    split <;> rfl
  rw [attnPart_eq]
  exact foldl_keeps (π := fun a : Cmd × List Nat => partKept a.1) hcell _ _

theorem putPart_kept (s : State) (c : Cmd) (die : Nat) : partKept (s.putPart c die).2 = partKept c := by
  unfold State.putPart
  refine (foldl_keeps (π := fun a : State × Cmd => partKept a.2) (fun a r => ?_) _ (s, c)).trans rfl
  refine foldl_keeps (π := fun a : State × Cmd => partKept a.2) (fun a n => ?_) _ a
  dsimp only
  rfl

theorem takePart_kept (s : State) (c : Cmd) (die : Nat) : partKept (s.takePart c die).2 = partKept c := by
  unfold State.takePart
  refine (foldl_keeps (π := fun a : State × Cmd => partKept a.2) (fun a r => ?_) _ (s, c)).trans rfl
  refine foldl_keeps (π := fun a : State × Cmd => partKept a.2) (fun a n => ?_) _ a
  dsimp only
  rfl

theorem partOf_kept (s : State) (c : Cmd) (die : Nat) : partKept (partOf s c die).2 = partKept c := by
  unfold partOf
  split
  · exact macPart_kept s c die
  · exact copyPart_kept s c die
  · exact attnPart_kept s c die
  · exact putPart_kept s c die
  · exact takePart_kept s c die

/-! ### Lines -/

/-- A dirty line of the L2 that no error waits on goes home with its mark (R281, R389). -/
theorem flushDev_line {s : State} {line : Nat} {x : BitVec 512} (hwf : tabWf s.l2 = true) (hx : tabFind s.l2 line = some x)
    (hue : line ∉ s.arr.l2Ue) (hce : line ∉ s.arr.l2Ce) :
    (s.flushDev line).dev = s.dev.write (64 * line) (leBytes 64 x.toNat) ∧ tabFind (s.flushDev line).l2 line = none ∧
      (∀ k, k ≠ line → tabFind (s.flushDev line).l2 k = tabFind s.l2 k) ∧ (line ∈ (s.flushDev line).devPoison ↔ line ∈ s.arr.l2Poison) := by
  have hclean : s.noteL2 .il line = s := by simp [State.noteL2, unitKey, hue, hce]
  have hmark : (s.arr.l2Poison.contains line || s.arr.l2Ue.contains line) = s.arr.l2Poison.contains line := by simp [hue]
  have hflush : s.flushDev line = ({ s with
      dev := s.dev.write (64 * line) (leBytes 64 x.toNat), l2 := tabErase s.l2 line
      arr := { s.arr with l2Poison := setDel s.arr.l2Poison line, l2Ue := setDel s.arr.l2Ue line, l2Ce := setDel s.arr.l2Ce line } } : State).dieWritten
        (s.arr.l2Poison.contains line) line := by
    unfold State.flushDev
    rw [hx, Option.isSome_some, if_pos rfl, hclean]
    unfold State.writeBackDev
    rw [hx]
    dsimp only
    rw [hmark]
  rw [hflush]
  refine ⟨rfl, MemoryIsReadAsWritten.tabFind_erase line hwf, fun k hk => tabFind_erase_ne s.l2 line k (Ne.symm hk), ?_⟩
  show line ∈ setPut s.devPoison line (s.arr.l2Poison.contains line) ↔ _
  cases hp : s.arr.l2Poison.contains line with
  | true => exact ⟨fun _ => List.contains_iff_mem.1 hp, fun _ => mem_setAdd _ _⟩
  | false => exact ⟨fun h => absurd h (not_mem_setDel _ _), fun h => absurd (List.contains_iff_mem.2 h) (by rw [hp]; decide)⟩

/-- The marks of host and pool lines. -/
def farMarks (s : State) : List Nat × List Nat := (s.hostPoison, s.poolPoison)

theorem storeMem_il_farMarks (s : State) (party : Party) (whole : Bool) (off : Nat) (bs : List Byte) :
    farMarks (s.storeMem party whole .il off bs) = farMarks s := by
  have hput : farMarks (s.putBytes .il off bs) = farMarks s := by
    unfold State.putBytes
    exact foldl_keeps (π := farMarks) (fun _ _ => by rfl) _ s
  have htouch : ∀ t : State, farMarks (t.touchCode party .il off bs.length) = farMarks t := fun t => by
    unfold State.touchCode
    split <;> rfl
  have hclean : ∀ (t : State) (u : Nat), farMarks (t.cleanUnit .il u) = farMarks t := fun t u => by
    unfold State.cleanUnit State.markUnit
    dsimp only
    split <;> rfl
  unfold State.storeMem
  dsimp only
  split
  · exact (foldl_keeps (π := farMarks) hclean _ _).trans ((htouch _).trans hput)
  · exact (htouch _).trans hput

theorem storeIl_farMarks (s : State) (party : Party) (whole : Bool) (off : Nat) (bs : List Byte) :
    farMarks (s.storeIl party whole off bs) = farMarks s := by
  unfold State.storeIl
  split
  · exact storeMem_il_farMarks ..
  next pos a _ =>
    obtain ⟨r, e, w, o, h⟩ := tellWindow_sends s pos a bs
    rw [h]
    rfl

theorem postError_farMarks (s : State) (i : ErrInfo) : farMarks (s.postError i) = farMarks s := by
  have hsignal : farMarks (s.signalError i.cls) = farMarks s := by
    unfold State.signalError
    split <;> rfl
  unfold State.postError
  split
  · exact hsignal
  · exact (storeIl_farMarks ..).trans hsignal

/-! ### Push markers -/

/-- A stamped copy after the marker of a round of a region (R275). -/
def refreshed (s : State) (region : Nat) (round : BitVec 32) (y : StampCopy) : StampCopy :=
  if y.region = region ∧ (round - y.stamp).toNat < 2 ^ 31 then
    { y with stamp := round, data := BitVec.ofNat 512 (leNat (s.physRead (keyPlace y.line).1 (keyPlace y.line).2 64)) } else y

theorem exec_pushMarker_none {core region : Nat} {round : BitVec 32} {s : State} {ent : BitVec 128} (hcore : core < 64)
    (he : s.regionNow core region = some ent) (hno : ent.getLsbD 1 = false) : exec (.pushMarker core region round) s = .next s := by
  show execPushMarker core region round s = _
  unfold execPushMarker
  rw [if_neg (by omega), he]
  dsimp only
  rw [hno]
  rfl

theorem exec_radvMessage_none {core region : Nat} {s : State} (hcore : core < 64) (hk : tabFind (s.core core).known region = none) :
    exec (.radvMessage core region) s = .next s := by
  show execRadvMessage core region s = _
  unfold execRadvMessage
  rw [if_neg (by omega), hk]

/-- Settles O45. -/
theorem memoryAndLineEventsComplete : Obligations.MemoryAndLineEventsComplete := by
  unfold Obligations.MemoryAndLineEventsComplete
  refine ⟨?start, ?part, ?poison, ?scrub, fun die bank s hd hb => exec_refresh s hd hb, ?line, ?dead, ?rounds, ?push⟩
  case start =>
    intro q s c0 hq hw hs c d starts
    have hstart : ∀ {t : State} {x : Cmd}, s.startMemory c0 = .ok (t, { x with started := true }) → starts t x := fun h => memoryStart_ok hq hw hs h
    refine ⟨?_, ?_, ?_, ?_, ?_, ?_⟩
    · intro hcmd s1 s2 s3 s4 s5 wh xh oh sc xsc fu xs sx p r hh hbad hws hxs hf hrows hv hsx
      refine hstart ?_
      unfold State.startMemory
      dsimp only
      rw [show dCmd c0.desc = 0x11 from hcmd]
      exact startBgmac_ok (c := c) hh hbad hws hxs hf hrows hv hsx
    · intro hcmd s1 e fs fd hh he hn hsrc hdst hfs hfd hms hmd hown
      refine hstart ?_
      unfold State.startMemory
      dsimp only
      rw [show dCmd c0.desc = 0x12 from hcmd]
      exact startBgcpy_ok (c := c) hh he hn hsrc hdst hfs hfd hms hmd hown
    · intro hcmd s1 s2 qh kv oh ps fu x p hh hbad hps hplain hf hv
      refine hstart ?_
      unfold State.startMemory
      dsimp only
      rw [show dCmd c0.desc = 0x13 from hcmd]
      exact startBgattn_ok (c := c) hh hbad hps hplain hf hv
    · intro hcmd s1 s2 e kv new bs ms hh he hkv hn hrange htop hnew old hroom hplain hread
      refine hstart ?_
      unfold State.startMemory
      dsimp only
      rw [show dCmd c0.desc = 0x14 from hcmd]
      exact startKvput_ok (c := c) hh he hkv hn hrange htop hnew hroom hplain hread
    · intro hcmd hno s1 kv hh hkv hn refs
      refine hstart ?_
      unfold State.startMemory
      dsimp only
      rw [show dCmd c0.desc = 0x15 from hcmd]
      exact startKvtake_removes (c := c) hno hh hkv hn
    · intro hcmd hyes s1 kv e fu os hh hkv he hn hrange refs hf ho
      refine hstart ?_
      unfold State.startMemory
      dsimp only
      rw [show dCmd c0.desc = 0x15 from hcmd]
      exact startKvtake_copies (c := c) hyes hh hkv he hn hrange hf ho
  case part =>
    intro q die s c hq hhead hst hfin hdie hhold hquads
    refine ⟨_, _, memoryPart_runs hq hhead (partReady_of hst hfin hdie hhold hquads) rfl, ?_⟩
    have hkept := partOf_kept s c die
    simp only [partKept, Prod.mk.injEq] at hkept
    obtain ⟨hparts, hdesc, hslot, hst', hfin'⟩ := hkept
    exact ⟨congrArg (List.filter (· != die)) hparts, hdesc, hslot, hst'.trans hst, hfin'.trans hfin⟩
  case poison =>
    intro u s h
    exact ⟨_, exec_xpwrPoisonWrite h, mem_setAdd _ _, not_mem_setDel _ _, not_mem_setDel _ _, not_mem_setDel _ _, rfl, rfl⟩
  case scrub =>
    intro u s h
    exact ⟨_, exec_scrub h, not_mem_setDel _ _, not_mem_setDel _ _, rfl, rfl, rfl⟩
  case line =>
    intro line s x hl hwf hx hue hce
    exact ⟨_, exec_writeBack_dev s hl, flushDev_line hwf hx hue hce⟩
  case dead =>
    intro o sp line s hl ho
    have hmarks := postError_farMarks (ownerGone s sp line) { cls := 2, ukind := (ownerUnit o).1, unit := (ownerUnit o).2, evt := 3, addr := 64 * line }
    simp only [farMarks, Prod.mk.injEq] at hmarks
    refine ⟨_, exec_deadAgent s hl ho, ?_, ?_⟩
    · intro hsp
      subst hsp
      rw [hmarks.1]
      exact mem_setAdd _ _
    · intro hsp
      subst hsp
      rw [hmarks.2]
      exact mem_setAdd _ _
  case rounds =>
    intro core region s hcore
    exact ⟨fun k ent hk he => ⟨_, Nat.lt_succ_iff.1 (Nat.mod_lt _ (Nat.succ_pos _)), exec_radvMessage hcore hk he⟩, exec_radvMessage_none hcore⟩
  case push =>
    intro core region round s ent hcore he
    refine ⟨exec_pushMarker_none hcore he, fun hyes hround => ⟨_, refreshed s region round, exec_pushMarker hcore he hyes hround, ?_, ?_, ?_⟩⟩
    · split
      · exact .inr rfl
      · exact .inl rfl
    · intro y hy hst
      unfold refreshed
      rw [if_pos ⟨hy, hst⟩]
      exact ⟨rfl, rfl⟩
    · intro y hy
      exact if_neg fun h => hy h.1

end Sys2Proof.Proofs.MemoryAndLines
end

section
/-! SUPPORT. Family queue packets: NOP, WAIT, SIGNAL, LAUNCH, refusals and notifies (R326 to R331). -/

namespace Sys2Proof.Proofs.QueuePackets

open Sys2Proof.Machine Sys2Proof.Claims

/-! ### A thread at its packet -/

/-- The packet at the head of a thread's ring is served by the event that takes packets of its kind. -/
theorem serve_ok {s : State} {n : Nat} {p : Packet} {types : Nat → Bool} {ok : Packet → Bool} {body : Packet → Except Bad (Option State)}
    {r : Option State} (h : Serves s n p types) (hok : ok p = true) (hbody : body p = .ok r) : s.serve n ok body = r := by
  obtain ⟨hn, hqcb, hwake, hheld, hq, hst, hstall, ⟨s1, hread, hs⟩, hvalid, hpn, -⟩ := h
  have hp : ({ n := n, k := p.k, q := p.q, d := p.d, s := s1.slotGains n p.q 0 } : Packet) = p := by
    rw [← hs, ← hpn]
  unfold State.serve
  dsimp only
  rw [hqcb]
  dsimp only
  rw [hq, hst, hstall, hheld, hwake, if_neg (by simp; omega), hread]
  dsimp only
  rw [hp, hvalid, hok, if_neg (by decide), hbody]

theorem exec_ofThread {n : Nat} {s : State} {r : Option State} {t : State} (hn : n < 32) (hr : r = some t) : whenThread n s r = .next t := by
  unfold whenThread
  rw [if_neg (by omega), hr]
  rfl

theorem exec_ofThread_none {n : Nat} {s : State} {r : Option State} (hn : n < 32) (hr : r = none) : whenThread n s r = .next s := by
  unfold whenThread
  rw [if_neg (by omega), hr]
  rfl

theorem map_some_of_ok {x : Except Bad State} {t : State} (h : x = .ok t) : x.map some = .ok (some t) := by rw [h]; rfl

theorem isType_of {s : State} {n typ : Nat} {p : Packet} (h : Serves s n p (· == typ)) (hallowed : typeAllowed p.q.typ.toNat typ = true) :
    isType typ p = true := by
  obtain ⟨-, -, -, -, -, -, -, -, -, -, htyp⟩ := h
  unfold isType
  rw [show (pktType p.d == typ) = true from htyp, hallowed]
  rfl

/-- Queues of users and agents take LAUNCH, WAIT and SIGNAL (R328). -/
theorem typeAllowed_user {q : BitVec 2} {typ : Nat} (hq : q ≠ 3) (ht : typ = 1 ∨ typ = 3 ∨ typ = 4) : typeAllowed q.toNat typ = true := by
  have hne : q.toNat ≠ 3 := fun h => hq (BitVec.eq_of_toNat_eq h)
  obtain rfl | rfl | rfl := ht <;> simp [typeAllowed, hne]

/-! ### Refusals -/

theorem trail_eq (p : Packet) : p.trail = ((if pktType p.d = 1 then p.s.imageFind p.q.pasid (p.d.extractLsb' 32 16) else none).map (fun i => i.trail)).getD 3 := by
  unfold Packet.trail
  rw [show lnImage p.d = p.d.extractLsb' 32 16 from rfl]
  cases (if pktType p.d = 1 then p.s.imageFind p.q.pasid (p.d.extractLsb' 32 16) else none) <;> rfl

/-- A packet that is refused: its announcement with CODE 5, then its end (R343). -/
theorem refuse_ok {p : Packet} {s s1 t : State} {trail : BitVec 16} {m : Nat}
    (hann : s.announce p.q.pasid (p.q.slotVa p.q.ridx.toNat) (p.d.extractLsb' 320 64) trail p.q.msiv.toNat (5 * 2 ^ 36) 5 0 (s.thread p.n).seen = .ok s1)
    (hend : p.consume s1 m = .ok t) : p.refuse s trail m = .ok (some t) := by
  have hcode : trailerWord 0 0 0 0 5 = 5 * 2 ^ 36 := rfl
  unfold Packet.refuse
  rw [hcode, hann]
  exact map_some_of_ok hend

theorem nopPacket_consumes {n : Nat} {s t : State} {p : Packet} (h : Serves s n p (· == 0)) (hend : p.consume p.s 1 = .ok t) :
    exec (.nopPacket n) s = .next t := by
  obtain ⟨-, -, -, -, -, -, -, -, -, -, htyp⟩ := id h
  have htyp : (pktType p.d == 0) = true := htyp
  refine exec_ofThread h.1 (serve_ok h ?_ ?_)
  · rw [htyp]
    rfl
  · rw [if_pos (beq_iff_eq.1 htyp)]
    exact map_some_of_ok hend

theorem nopPacket_refuses {n : Nat} {s s1 t : State} {p : Packet} (h : Serves s n p (fun x => !(typeAllowed p.q.typ.toNat x)))
    (hann : p.s.announce p.q.pasid (p.q.slotVa p.q.ridx.toNat) (p.d.extractLsb' 320 64) p.trail p.q.msiv.toNat (5 * 2 ^ 36) 5 0 (p.s.thread n).seen = .ok s1)
    (hend : p.consume s1 1 = .ok t) : exec (.nopPacket n) s = .next t := by
  obtain ⟨-, -, -, -, -, -, -, -, -, hpn, htyp⟩ := id h
  have hne : pktType p.d ≠ 0 := fun h0 => by
    rw [h0] at htyp
    exact absurd htyp (by simp [typeAllowed])
  refine exec_ofThread h.1 (serve_ok h ?_ ?_)
  · exact (congrArg (pktType p.d == 0 || ·) htyp).trans (Bool.or_true _)
  · rw [if_neg hne]
    exact refuse_ok (hpn ▸ hann) hend

/-! ### WAIT and SIGNAL (R330) -/

theorem waitWord_ok {p : Packet} {ps : List Piece} (h : p.s.cpPlace p.q.pasid .read (p.d.extractLsb' 64 64) 8 = .ok ps) :
    p.waitWord = .ok (p.s.readPieces cpUnit ps) := by
  unfold Packet.waitWord
  rw [h]

theorem waitGains_ok {p : Packet} {ps : List Piece} (h : p.s.cpPlace p.q.pasid .read (p.d.extractLsb' 64 64) 8 = .ok ps) (t : State) :
    p.waitGains t = t.threadGains p.n ps := by
  unfold Packet.waitGains
  rw [h]

section Wait

variable {n : Nat} {s t : State} {p : Packet} {ps : List Piece}

theorem waitPacket_consumes (h : Serves s n p (· == 3)) (hq : p.q.typ ≠ 3) (hps : p.s.cpPlace p.q.pasid .read (p.d.extractLsb' 64 64) 8 = .ok ps)
    (hholds : waitHolds p.d (leNat (p.s.readPieces cpUnit ps).bytes) = true)
    (hend : p.consume (((p.s.readPieces cpUnit ps).s.setThread n { (p.s.readPieces cpUnit ps).s.thread n with waitSince := none }).threadGains n ps) 1 = .ok t) :
    exec (.waitPacket n) s = .next t := by
  refine exec_ofThread h.1 (serve_ok h (isType_of h (typeAllowed_user hq (by simp))) ?_)
  obtain ⟨-, -, -, -, -, -, -, -, -, hpn, -⟩ := h
  rw [waitWord_ok hps]
  dsimp only
  rw [if_pos hholds, waitGains_ok hps, hpn]
  exact map_some_of_ok hend

theorem waitPacket_waits (h : Serves s n p (· == 3)) (hq : p.q.typ ≠ 3) (hps : p.s.cpPlace p.q.pasid .read (p.d.extractLsb' 64 64) 8 = .ok ps)
    (hholds : waitHolds p.d (leNat (p.s.readPieces cpUnit ps).bytes) = false) (hsince : (s.thread n).waitSince = none) :
    exec (.waitPacket n) s = .next ((p.s.readPieces cpUnit ps).s.setThread n { (p.s.readPieces cpUnit ps).s.thread n with waitSince := some s.time }) := by
  refine exec_ofThread h.1 (serve_ok h (isType_of h (typeAllowed_user hq (by simp))) ?_)
  rw [waitWord_ok hps]
  dsimp only
  rw [hholds, if_neg (by decide), hsince]
  rfl

theorem queueWaitTimeout_stalls {t0 : Nat} (h : Serves s n p (· == 3)) (hq : p.q.typ ≠ 3)
    (hps : p.s.cpPlace p.q.pasid .read (p.d.extractLsb' 64 64) 8 = .ok ps) (hholds : waitHolds p.d (leNat (p.s.readPieces cpUnit ps).bytes) = false)
    (hsince : (s.thread n).waitSince = some t0) (htmo : fld p.d 192 32 ≠ 0) (hover : t0 + 1000 * fld p.d 192 32 ≤ s.time) :
    exec (.queueWaitTimeout n) s =
      .next (((p.s.readPieces cpUnit ps).s.setThread n { (p.s.readPieces cpUnit ps).s.thread n with waitSince := none }).stallQueue p.k 1) := by
  refine exec_ofThread h.1 (serve_ok h (isType_of h (typeAllowed_user hq (by simp))) ?_)
  rw [waitWord_ok hps, hsince]
  dsimp only
  rw [hholds, if_pos (by simp [htmo, hover])]
  rfl

end Wait

theorem addAt_plain {ps : List Piece} (hps : ∀ a b c, ps ≠ [.remote a b c]) (s : State) (core : Nat) (party : Party) (v : Nat) :
    s.addAt core party v ps = (s.readPieces core ps).s.writeAtomic party false (leBytes 8 ((leNat (s.readPieces core ps).bytes + v) % 2 ^ 64)) ps := by
  unfold State.addAt
  split
  next a b c => exact absurd rfl (hps a b c)
  · rfl

theorem signalPacket_adds {n : Nat} {s t : State} {p : Packet} {ps : List Piece} (h : Serves s n p (· == 4)) (hq : p.q.typ ≠ 3)
    (hps : p.s.cpPlace p.q.pasid .atomic (p.d.extractLsb' 64 64) 8 = .ok ps) (hlocal : ∀ a b c, ps ≠ [.remote a b c])
    (hend : p.consume ((((p.s.readPieces cpUnit ps).s.writeAtomic (.device .processor) false
      (leBytes 8 ((leNat (p.s.readPieces cpUnit ps).bytes + fld p.d 128 64) % 2 ^ 64)) ps)).hwRelease .processor ps (p.s.thread n).seen) 1 = .ok t) :
    exec (.signalPacket n) s = .next t := by
  refine exec_ofThread h.1 (serve_ok h (isType_of h (typeAllowed_user hq (by simp))) ?_)
  rw [hps]
  dsimp only
  rw [addAt_plain hlocal]
  exact map_some_of_ok hend

/-! ### Notifies (R326) -/

theorem exec_notifyWrite {pasid : BitVec 20} {qnum : BitVec 12} {s : State} {k : Nat} (h : s.qcbOf pasid qnum = some k) :
    exec (.notifyWrite pasid qnum) s = .next (if (s.qcb k).mapped && !(s.qcb k).stall && (s.thread (s.qcb k).thread.toNat).waitSince.isNone
      then (s.wakeQueue k).look (s.qcb k).thread.toNat else s.wakeQueue k) := by
  show execNotifyWrite pasid qnum s = _
  unfold execNotifyWrite
  rw [h]

/-- The thread that a notify has woken. -/
def wokenThread (s : State) (n : Nat) : State := s.setThread n { s.thread n with wake := true }

theorem wakeQueue_mapped {s : State} {k : Nat} (h : (s.qcb k).mapped = true) : s.wakeQueue k = wokenThread s (s.qcb k).thread.toNat := if_pos h

theorem wakeQueue_unmapped {s : State} {k : Nat} (h : (s.qcb k).mapped = false) : s.wakeQueue k = s.setQcb k { s.qcb k with pend := true } :=
  if_neg (by rw [h]; decide)

theorem thread_woken (s : State) (n : Nat) : (wokenThread s n).thread n = { s.thread n with wake := true } :=
  tabGet_set _ _ _ _ fun h => Bool.noConfusion (congrArg Thread.wake h)

/-- The woken thread looks at its next slot: it sleeps again where that is not VALID. -/
theorem look_woken {s : State} {n k : Nat} (hk : (s.thread n).qcb = some k) :
    (wokenThread s n).look n = match (wokenThread s n).readSlot (s.qcb k) 0 with
      | .ok (_, d) => if pktValid d then wokenThread s n else (wokenThread s n).setThread n { s.thread n with wake := false }
      | .error _ => wokenThread s n := by
  unfold State.look
  rw [thread_woken]
  dsimp only
  rw [hk]
  rfl

theorem look_valid {s s1 : State} {n k : Nat} {d : BitVec 512} (hk : (s.thread n).qcb = some k)
    (hd : (wokenThread s n).readSlot (s.qcb k) 0 = .ok (s1, d)) : (wokenThread s n).look n =
      if pktValid d then wokenThread s n else (wokenThread s n).setThread n { s.thread n with wake := false } := by
  rw [look_woken hk, hd]

theorem look_fails {s : State} {n k : Nat} {b : Bad} (hk : (s.thread n).qcb = some k)
    (hb : (wokenThread s n).readSlot (s.qcb k) 0 = .error b) : (wokenThread s n).look n = wokenThread s n := by
  rw [look_woken hk, hb]

theorem notifyWrite_wakes {pasid : BitVec 20} {qnum : BitVec 12} {s : State} {k : Nat} (h : s.qcbOf pasid qnum = some k) (hm : (s.qcb k).mapped = true)
    (hw : (s.qcb k).stall = true ∨ (s.thread (s.qcb k).thread.toNat).waitSince.isSome = true) :
    exec (.notifyWrite pasid qnum) s = .next (wokenThread s (s.qcb k).thread.toNat) := by
  rw [exec_notifyWrite h, wakeQueue_mapped hm, if_neg]
  rcases hw with hw | hw
  · simp [hw]
  · simp [Option.isSome_iff_ne_none.1 hw]

theorem notifyWrite_looks {pasid : BitVec 20} {qnum : BitVec 12} {s : State} {k : Nat} (h : s.qcbOf pasid qnum = some k) (hm : (s.qcb k).mapped = true)
    (hstall : (s.qcb k).stall = false) (hwait : (s.thread (s.qcb k).thread.toNat).waitSince = none) :
    exec (.notifyWrite pasid qnum) s = .next ((wokenThread s (s.qcb k).thread.toNat).look (s.qcb k).thread.toNat) := by
  rw [exec_notifyWrite h, wakeQueue_mapped hm, if_pos (by simp [hm, hstall, hwait])]

theorem notifyWrite_drops {pasid : BitVec 20} {qnum : BitVec 12} {s : State} (h : s.qcbOf pasid qnum = none) (hn : s.ndrop ≠ BitVec.allOnes 64) :
    exec (.notifyWrite pasid qnum) s = .next (({ s with ndrop := s.ndrop + 1 } : State).hostEvent 2 pasid qnum 0) := by
  show execNotifyWrite pasid qnum s = _
  unfold execNotifyWrite
  rw [h]
  dsimp only
  rw [if_neg hn]
  rfl

/-! ### LAUNCH (R329, R331) -/

section Launch

variable {n : Nat} {s : State} {p : Packet} {subs : List (BitVec 512)}

/-- A bundle of the same queue is ahead of a LAUNCH with BAR. -/
def bundleAhead (p : Packet) (b : Bundle) : Bool := b.qcb == some p.k && b.pasid == p.q.pasid && b.id.toNat % 4096 == p.q.qnum.toNat

theorem bundleAhead_iff (p : Packet) (b : Bundle) :
    bundleAhead p b = true ↔ b.qcb = some p.k ∧ b.pasid = p.q.pasid ∧ b.id.toNat % 4096 = p.q.qnum.toNat := by
  simp only [bundleAhead, Bool.and_eq_true, beq_iff_eq, and_assoc]

/-- What a LAUNCH with its SUB packets comes to. -/
theorem launch_serves {r : Option State} (h : Serves s n p (· == 1)) (hq : p.q.typ ≠ 3) (hsubs : p.s.readSubs p.q 1 (fld p.d 16 4) = .ok (some subs))
    (hr : (if launchRefused p.q (p.s.imageFind p.q.pasid (lnImage p.d)) p.d subs then
        p.refuse p.s (((p.s.imageFind p.q.pasid (lnImage p.d)).map (fun i => i.trail)).getD 3) (1 + subs.length)
      else if p.d.getLsbD 9 && p.s.bundles.any (bundleAhead p) then .ok none
      else (p.consume { p.s.setQcb p.k { p.q with seq := p.q.seq + 1 } with
        bundles := (p.s.setQcb p.k { p.q with seq := p.q.seq + 1 }).bundles ++ [p.bundle subs], timeLocked := true } (1 + subs.length)).map some) = .ok r) :
    launch? n s = r := by
  refine serve_ok h (isType_of h (typeAllowed_user hq (by simp))) ?_
  rw [show p.s.readSubs p.q 1 (lnNsub p.d) = .ok (some subs) from hsubs]
  exact hr

theorem launch_waits (h : Serves s n p (· == 1)) (hq : p.q.typ ≠ 3) (hsubs : p.s.readSubs p.q 1 (fld p.d 16 4) = .ok (some subs))
    (hok : launchRefused p.q (p.s.imageFind p.q.pasid (lnImage p.d)) p.d subs = false) (hbar : p.d.getLsbD 9 = true)
    (hahead : ∃ b ∈ p.s.bundles, bundleAhead p b = true) : exec (.launch n) s = .next s := by
  refine exec_ofThread_none h.1 (launch_serves h hq hsubs ?_)
  rw [hok, if_neg (by decide), hbar, List.any_eq_true.2 hahead]
  rfl

theorem launch_presents {t : State} (h : Serves s n p (· == 1)) (hq : p.q.typ ≠ 3) (hsubs : p.s.readSubs p.q 1 (fld p.d 16 4) = .ok (some subs))
    (hok : launchRefused p.q (p.s.imageFind p.q.pasid (lnImage p.d)) p.d subs = false)
    (hahead : p.d.getLsbD 9 = true → ∀ b ∈ p.s.bundles, ¬ bundleAhead p b = true)
    (hend : p.consume { p.s.setQcb p.k { p.q with seq := p.q.seq + 1 } with
      bundles := (p.s.setQcb p.k { p.q with seq := p.q.seq + 1 }).bundles ++ [p.bundle subs], timeLocked := true } (1 + subs.length) = .ok t) :
    exec (.launch n) s = .next t := by
  have hno : (p.d.getLsbD 9 && p.s.bundles.any (bundleAhead p)) = false := by
    cases hbar : p.d.getLsbD 9 with
    | false => rfl
    | true => exact List.any_eq_false.2 (hahead hbar)
  refine exec_ofThread h.1 (launch_serves h hq hsubs ?_)
  rw [hok, if_neg (by decide), hno, if_neg (by decide)]
  exact map_some_of_ok hend

theorem launch_refuses {s1 t : State} (h : Serves s n p (· == 1)) (hq : p.q.typ ≠ 3) (hsubs : p.s.readSubs p.q 1 (fld p.d 16 4) = .ok (some subs))
    (hbad : launchRefused p.q (p.s.imageFind p.q.pasid (lnImage p.d)) p.d subs = true)
    (hann : p.s.announce p.q.pasid (p.q.slotVa p.q.ridx.toNat) (p.d.extractLsb' 320 64) (((p.s.imageFind p.q.pasid (lnImage p.d)).map (fun i => i.trail)).getD 3)
      p.q.msiv.toNat (5 * 2 ^ 36) 5 0 (p.s.thread n).seen = .ok s1)
    (hend : p.consume s1 (1 + subs.length) = .ok t) : exec (.launch n) s = .next t := by
  refine exec_ofThread h.1 (launch_serves h hq hsubs ?_)
  obtain ⟨-, -, -, -, -, -, -, -, -, hpn, -⟩ := h
  rw [if_pos hbad]
  exact refuse_ok (hpn ▸ hann) hend

end Launch

/-- Settles O46. -/
theorem queuePacketsAndLaunches : Obligations.QueuePacketsAndLaunches := by
  unfold Obligations.QueuePacketsAndLaunches
  refine ⟨⟨fun n s t p h hend => nopPacket_consumes h hend, ?refuse, ?wait, ?signal⟩, ?notify, ?drop, ?launch⟩
  case refuse =>
    intro n s s1 t p h img hann hend
    exact nopPacket_refuses h (trail_eq p ▸ hann) hend
  case wait =>
    intro n s p ps h hq hps g
    exact ⟨fun hholds t hend => waitPacket_consumes h hq hps hholds hend, waitPacket_waits h hq hps,
      fun hholds t0 hsince htmo hover => queueWaitTimeout_stalls h hq hps hholds hsince htmo hover⟩
  case signal =>
    intro n s t p ps h hq hps hlocal g hend
    exact signalPacket_adds h hq hps hlocal hend
  case notify =>
    intro pasid qnum s k h
    refine ⟨fun hm => ?_, fun hm => ?_⟩
    · rw [exec_notifyWrite h, wakeQueue_unmapped hm, hm]
      rfl
    · intro n woken
      refine ⟨notifyWrite_wakes h hm, fun hstall hwait hk => ⟨fun s1 d hd => ⟨fun hv => ?_, fun hv => ?_⟩, fun b hb => ?_⟩⟩
      · rw [notifyWrite_looks h hm hstall hwait, look_valid hk hd, if_pos hv]
        rfl
      · rw [notifyWrite_looks h hm hstall hwait, look_valid hk hd, if_neg (by rw [hv]; decide)]
        rfl
      · rw [notifyWrite_looks h hm hstall hwait, look_fails hk hb]
        rfl
  case drop =>
    exact fun pasid qnum s => notifyWrite_drops
  case launch =>
    intro n s p subs h hq hsubs img ahead
    refine ⟨fun hok hbar ⟨b, hb, hahead⟩ => launch_waits h hq hsubs hok hbar ⟨b, hb, (bundleAhead_iff p b).2 hahead⟩, ?_,
      fun hbad s1 t hann hend => launch_refuses h hq hsubs hbad hann hend⟩
    intro hok hahead s1 b t hb hend
    subst hb
    exact ⟨launch_presents h hq hsubs hok (fun hbar b hb hx => hahead hbar b hb ((bundleAhead_iff p b).1 hx)) hend, rfl, rfl, rfl, rfl, rfl⟩

end Sys2Proof.Proofs.QueuePackets
end

section
/-! SUPPORT. Family control packets: what each does and the code that it ends with (R324, R325, R344, R363, R364, R407). -/

namespace Sys2Proof.Proofs.ControlPacketEnds

open Sys2Proof.Machine Sys2Proof.Claims Sys2Proof.Proofs.QueuePackets

/-- The kernel's queue takes the control packets (R328). -/
theorem isType_control {s : State} {n typ : Nat} {p : Packet} (h : Controls s n p typ) (ht : 0x10 ≤ typ ∧ typ ≤ 0x15) : isType typ p = true := by
  obtain ⟨hserves, hq, -⟩ := h
  refine isType_of hserves ?_
  unfold typeAllowed
  rw [hq, if_pos (by decide), decide_eq_true ht.1, decide_eq_true ht.2]
  exact Bool.or_true _

/-- A control packet with its fields in order ends with the code of what it has done. -/
theorem control_ends {s s1 t : State} {n typ code : Nat} {p : Packet} {fieldsOk : BitVec 512 → Bool} {act : Packet → Except Bad (Option (State × Nat))}
    (h : Controls s n p typ) (ht : 0x10 ≤ typ ∧ typ ≤ 0x15) (hf : fieldsOk p.d = true) (hact : act p = .ok (some (s1, code)))
    (hend : EndsWith p s1 code t) : s.control n typ fieldsOk act = some t := by
  refine serve_ok h.1 (isType_control h ht) ?_
  obtain ⟨-, -, hres⟩ := h
  rw [hres, hf, if_neg (by decide), hact]
  exact hend

theorem exec_control {s t : State} {n typ : Nat} {p : Packet} {r : Option State} (h : Controls s n p typ) (hr : r = some t) :
    whenThread n s r = .next t := exec_ofThread h.1.1 hr

/-! ### Images (R324) -/

section Images

variable {n : Nat} {s t : State} {p : Packet}

theorem register_known (h : Controls s n p 0x10) (hf : fld p.d 64 6 = 0) (himg : (p.s.imageFind (ctlPasid p.d) (ctlImage p.d)).isSome = true)
    (hend : EndsWith p p.s 1 t) : exec (.register n) s = .next t := by
  refine exec_control h (control_ends h (by decide) (beq_iff_eq.2 hf) ?_ hend)
  dsimp only
  rw [if_pos himg]

theorem register_loads {ps : List Piece} {s1 : State} {code : Nat} (h : Controls s n p 0x10) (hf : fld p.d 64 6 = 0)
    (himg : p.s.imageFind (ctlPasid p.d) (ctlImage p.d) = none) (hlen : sigBytes + 256 ≤ fld p.d 128 64)
    (hps : p.s.cpPlace (ctlPasid p.d) .read (p.d.extractLsb' 64 64) (fld p.d 128 64) = .ok ps) (hpoison : (p.s.readPieces cpUnit ps).poison = none)
    (hcode : (p.s.readPieces cpUnit ps).s.loaderCode (ctlPasid p.d) (p.s.readPieces cpUnit ps).bytes = code)
    (hs1 : (if code = 0 then ((p.s.readPieces cpUnit ps).s.loadImage (ctlPasid p.d) (ctlImage p.d) (p.s.readPieces cpUnit ps).bytes, 0)
      else ((p.s.readPieces cpUnit ps).s, code)) = (s1, code)) (hend : EndsWith p s1 code t) : exec (.register n) s = .next t := by
  refine exec_control h (control_ends h (by decide) (beq_iff_eq.2 hf) ?_ hend)
  dsimp only
  rw [himg, if_neg (by decide), if_neg (by omega), hps]
  dsimp only
  rw [hpoison, hcode]
  simp only [Option.isSome_none, Bool.false_eq_true, if_false, hs1]

theorem unregister_unknown (h : Controls s n p 0x11) (himg : p.s.imageFind (ctlPasid p.d) (ctlImage p.d) = none) (hend : EndsWith p p.s 0x0B t) :
    exec (.unregister n) s = .next t := by
  refine exec_control h (control_ends h (by decide) rfl ?_ hend)
  dsimp only
  rw [himg]
  rfl

theorem unregister_busy (h : Controls s n p 0x11) (himg : (p.s.imageFind (ctlPasid p.d) (ctlImage p.d)).isSome = true)
    (hb : ∃ b ∈ p.s.bundles, b.pasid = ctlPasid p.d ∧ b.image = ctlImage p.d) (hend : EndsWith p p.s 8 t) : exec (.unregister n) s = .next t := by
  obtain ⟨b, hb, hpasid, himage⟩ := hb
  have hany : p.s.bundles.any (fun b => b.pasid == ctlPasid p.d && b.image == ctlImage p.d) = true :=
    List.any_eq_true.2 ⟨b, hb, by simp [hpasid, himage]⟩
  refine exec_control h (control_ends h (by decide) rfl ?_ hend)
  dsimp only
  rw [if_neg (by simp [Option.isSome_iff_ne_none.1 himg]), if_pos hany]

theorem unregister_removes (h : Controls s n p 0x11) (himg : (p.s.imageFind (ctlPasid p.d) (ctlImage p.d)).isSome = true)
    (hno : ∀ b ∈ p.s.bundles, ¬(b.pasid = ctlPasid p.d ∧ b.image = ctlImage p.d))
    (hend : EndsWith p { p.s with images := p.s.images.filter (fun i => !(i.pasid == ctlPasid p.d && i.id == ctlImage p.d)) } 0 t) :
    exec (.unregister n) s = .next t := by
  have hany : p.s.bundles.any (fun b => b.pasid == ctlPasid p.d && b.image == ctlImage p.d) = false :=
    List.any_eq_false.2 fun b hb hx => hno b hb (by simpa using hx)
  refine exec_control h (control_ends h (by decide) rfl ?_ hend)
  dsimp only
  rw [if_neg (by simp [Option.isSome_iff_ne_none.1 himg]), hany, if_neg (by decide)]

end Images

/-! ### Queues (R325) -/

section Queues

variable {n : Nat} {s t : State} {p : Packet}

theorem mapqOk_of {d : BitVec 512} (h1 : fld d 64 12 = 0) (h2 : 4 ≤ fld d 144 4) (h3 : fld d 140 2 ≠ 1) : mapqOk d = true := by
  simp [mapqOk, h1, h2, h3]

theorem mapq_known {k : Nat} {s1 : State} {code : Nat} (h : Controls s n p 0x12) (hf : mapqOk p.d = true)
    (hk : p.s.qcbOf (ctlPasid p.d) (p.d.extractLsb' 128 12) = some k)
    (hs1 : (if (p.s.qcb k).stall then ((p.s.setQcb k { p.s.qcb k with stall := false }).wakeQueue k, 0) else (p.s, 1)) = (s1, code))
    (hend : EndsWith p s1 code t) : exec (.mapq n) s = .next t := by
  refine exec_control h (control_ends h (by decide) hf ?_ hend)
  dsimp only
  rw [hk]
  dsimp only
  rw [← hs1]
  split <;> rfl

theorem mapq_maps {k : Nat} (h : Controls s n p 0x12) (hf : mapqOk p.d = true) (hk : p.s.qcbOf (ctlPasid p.d) (p.d.extractLsb' 128 12) = none)
    (hfree : p.s.freeQcb (ctlPasid p.d) (p.d.extractLsb' 128 12) = some k)
    (hend : EndsWith p (p.s.setQcb k { st := 1, typ := p.d.extractLsb' 140 2, prio := p.d.extractLsb' 142 2, pasid := ctlPasid p.d
                                       qnum := p.d.extractLsb' 128 12, log2n := p.d.extractLsb' 144 4, msiv := p.d.extractLsb' 148 11
                                       ring := p.d.extractLsb' 64 64, ctxd := p.s.ctxdOf (ctlPasid p.d) }) 0 t) : exec (.mapq n) s = .next t := by
  refine exec_control h (control_ends h (by decide) hf ?_ hend)
  dsimp only
  rw [hk]
  dsimp only
  rw [hfree]

theorem unmapq_known {k : Nat} (h : Controls s n p 0x13) (hk : p.s.qcbOf (ctlPasid p.d) (p.d.extractLsb' 128 12) = some k) (hend : EndsWith p p.s 0 t) :
    exec (.unmapq n) s = .next (t.dropQcb k) := by
  refine exec_control h (serve_ok h.1 (isType_control h (by decide)) ?_)
  obtain ⟨-, -, hres⟩ := h
  rw [hres, if_neg (by decide), hk]
  dsimp only
  rw [show p.finish p.s 0 = .ok (some t) from hend]
  rfl

theorem unmapq_unknown (h : Controls s n p 0x13) (hk : p.s.qcbOf (ctlPasid p.d) (p.d.extractLsb' 128 12) = none) (hend : EndsWith p p.s 0x0B t) :
    exec (.unmapq n) s = .next t := by
  refine exec_control h (serve_ok h.1 (isType_control h (by decide)) ?_)
  obtain ⟨-, -, hres⟩ := h
  rw [hres, if_neg (by decide), hk]
  exact hend

end Queues

/-! ### Revocation and KILL (R344, R363) -/

section Revoke

variable {n : Nat} {s t : State} {p : Packet}

/-- What a REVOKE of a range in order does. -/
theorem revoke_acts {s1 : State} {code : Nat} (h : Controls s n p 0x14) (hlo : fld p.d 64 64 % 4096 = 0)
    (hhi : (fld p.d 64 64 + fld p.d 128 64) % 4096 = 0) (hlt : fld p.d 64 64 < fld p.d 64 64 + fld p.d 128 64)
    (htop : fld p.d 64 64 + fld p.d 128 64 ≤ 2 ^ 64) (hp : (p.s.pasidEntry (ctlPasid p.d)).getLsbD 0 = true)
    (hact : (match p.s.revokeLeaves (ctlPasid p.d) (fld p.d 64 64 + fld p.d 128 64)
        ((fld p.d 64 64 + fld p.d 128 64 - fld p.d 64 64) / 4096 + 1) (fld p.d 64 64) with
      | none => .ok (some (p.s, 0x0A))
      | some ls =>
        if ls.any (fun x => leafBusy x.2.1 || p.s.settleAll.outsIn (pteSpace x.2.1) (pteFrame x.2.1) (pteSize x.2.1)) then .ok none
        else .ok (some ((ls.foldl (fun t x => t.revokePage (ctlPasid p.d) x) p.s.settleAll).revokeHeld (ctlPasid p.d) (fld p.d 64 64)
          (fld p.d 64 64 + fld p.d 128 64), 0)) : Except Bad (Option (State × Nat))) = .ok (some (s1, code)))
    (hend : EndsWith p s1 code t) : exec (.revoke n) s = .next t := by
  have hok : (fld p.d 64 64 % 4096 != 0 || (fld p.d 64 64 + fld p.d 128 64) % 4096 != 0 || decide (fld p.d 64 64 = fld p.d 64 64 + fld p.d 128 64) ||
      decide (fld p.d 64 64 + fld p.d 128 64 > 2 ^ 64) || !((p.s.pasidEntry (ctlPasid p.d)).getLsbD 0)) = false := by
    rw [hlo, hhi, hp, decide_eq_false (Nat.ne_of_lt hlt), decide_eq_false (Nat.not_lt.2 htop)]
    rfl
  refine exec_control h (control_ends h (by decide) rfl ?_ hend)
  refine Eq.trans ?_ hact
  refine (if_neg (ne_true_of_eq_false hok)).trans ?_
  rfl

theorem kill_known {b : Bundle} (h : Controls s n p 0x15)
    (hb : p.s.bundles.find? (fun b => b.pasid == ctlPasid p.d && b.lnch == p.d.extractLsb' 256 64) = some b)
    (hend : EndsWith p (p.s.tearDown b) 0 t) : exec (.kill n) s = .next t := by
  refine exec_control h (control_ends h (by decide) rfl ?_ hend)
  rw [hb]

theorem kill_unknown (h : Controls s n p 0x15)
    (hb : p.s.bundles.find? (fun b => b.pasid == ctlPasid p.d && b.lnch == p.d.extractLsb' 256 64) = none)
    (hend : EndsWith p p.s 0x0B t) : exec (.kill n) s = .next t := by
  refine exec_control h (control_ends h (by decide) rfl ?_ hend)
  rw [hb]

end Revoke

/-- Settles O47. -/
theorem controlPackets : Obligations.ControlPackets := by
  unfold Obligations.ControlPackets
  refine ⟨?register, ?unregister, ?mapq, ?unmapq, ?revoke, ?kill⟩
  case register =>
    intro n s p h hf img
    refine ⟨fun himg t hend => register_known h hf himg hend, ?_⟩
    intro himg ps hlen hps hpoison g
    refine ⟨fun hcode t hend => ?_, fun hcode t hend => ?_⟩
    · exact register_loads h hf himg hlen hps hpoison hcode (if_pos rfl) hend
    · exact register_loads h hf himg hlen hps hpoison rfl (if_neg hcode) hend
  case unregister =>
    intro n s p h pasid id
    exact ⟨fun himg t hend => unregister_unknown h himg hend, fun himg hb t hend => unregister_busy h himg hb hend,
      fun himg hno t hend => unregister_removes h himg hno hend⟩
  case mapq =>
    intro n s p h h1 h2 h3 key
    have hf := mapqOk_of h1 h2 h3
    exact ⟨fun k t hk hstall hend => mapq_known h hf hk (if_pos hstall) hend,
      fun k t hk hstall hend => mapq_known h hf hk (if_neg (by rw [hstall]; decide)) hend, fun k t hk hfree hend => mapq_maps h hf hk hfree hend⟩
  case unmapq =>
    intro n s p h key
    exact ⟨fun k t hk hend => unmapq_known h hk hend, fun t hk hend => unmapq_unknown h hk hend⟩
  case revoke =>
    intro n s p h lo hi hlo hhi hlt htop hp
    refine ⟨fun hls t hend => ?_, fun ls t hls hfree houts hend => ?_⟩
    · refine revoke_acts h hlo hhi hlt htop hp ?_ hend
      rw [show p.s.revokeLeaves (ctlPasid p.d) (fld p.d 64 64 + fld p.d 128 64)
        ((fld p.d 64 64 + fld p.d 128 64 - fld p.d 64 64) / 4096 + 1) (fld p.d 64 64) = none from hls]
    · have hno : ls.any (fun x => leafBusy x.2.1 || p.s.settleAll.outsIn (pteSpace x.2.1) (pteFrame x.2.1) (pteSize x.2.1)) = false :=
        List.any_eq_false.2 fun x hx => by simp [hfree x hx, houts x hx]
      refine revoke_acts h hlo hhi hlt htop hp ?_ hend
      rw [show p.s.revokeLeaves (ctlPasid p.d) (fld p.d 64 64 + fld p.d 128 64)
        ((fld p.d 64 64 + fld p.d 128 64 - fld p.d 64 64) / 4096 + 1) (fld p.d 64 64) = some ls from hls]
      dsimp only
      rw [hno, if_neg (by decide)]
  case kill =>
    intro n s p h b?
    exact ⟨fun b t hb hend => kill_known h hb hend, fun t hb hend => kill_unknown h hb hend⟩

end Sys2Proof.Proofs.ControlPacketEnds
end

section
/-! SUPPORT. Family bundles: the bind, the start, the completion, the save and the resume of a bundle, and the policy (R325, R326, R332 to R344). -/

namespace Sys2Proof.Proofs.BundleEvents

open Sys2Proof.Machine Sys2Proof.Claims

theorem whenSome_some {s t : State} {r : Option State} (h : r = some t) : whenSome s r = .next t := by
  rw [h]
  rfl

theorem whenSome_none {s : State} {r : Option State} (h : r = none) : whenSome s r = .next s := by
  rw [h]
  rfl

/-! ### The commit of a group (R333, R334) -/

/-- GO is set in the last record of a group. -/
def withGo (s : State) (l : Nat × BindRec) : State := { s with binds := tabPut s.binds l.1 { l.2 with go := true } }

theorem writeGo_eq {s : State} {id : Word} {l : Nat × BindRec} (h : (s.groupOf id).getLast? = some l) : s.writeGo id = withGo s l := by
  unfold State.writeGo
  rw [h]
  rfl

section Commit

variable {id : Word} {s : State} {x : Nat × BindRec} {g : List (Nat × BindRec)}

/-- What the commit of a fresh group comes to. -/
theorem commitGroup_eq (hg : byInstance (s.groupOf id) = x :: g) (hgo : (x :: g).any (fun y => y.2.go) = true) :
    s.commitGroup id = if !(s.groupOk (x :: g)) then some (s.setBinds (x :: g) (fun r => { r with rfsd := true }))
      else
        let s1 := s.setBinds (x :: g) (fun r => { r with state := 1 })
        let s2 := if (s1.bundle id).isSome then s1 else { s1 with bundles := s1.bundles ++ [policyBundle id x.2] }
        let b := (s2.bundle id).getD (policyBundle id x.2)
        some (((x :: g).foldl (fun t y => t.claimSlot y) s2).setBundle { b with
          st := .bound, slots := if b.total = 0 then [] else (x :: g).map Prod.fst, home := x.1, area := s.freeArea b.pasid }) := by
  unfold State.commitGroup
  dsimp only
  rw [hg]
  dsimp only
  rw [hgo, if_neg (by decide)]

theorem commitGroup_refuses (hg : byInstance (s.groupOf id) = x :: g) (hgo : (x :: g).any (fun y => y.2.go) = true) (hbad : s.groupOk (x :: g) = false) :
    s.commitGroup id = some (s.setBinds (x :: g) (fun r => { r with rfsd := true })) := by
  rw [commitGroup_eq hg hgo, hbad]
  rfl

theorem commitGroup_binds {b : Bundle} (hg : byInstance (s.groupOf id) = x :: g) (hgo : (x :: g).any (fun y => y.2.go) = true)
    (hok : s.groupOk (x :: g) = true) (hb : s.bundle id = some b) :
    s.commitGroup id = some (((x :: g).foldl (fun t y => t.claimSlot y) (s.setBinds (x :: g) (fun r => { r with state := 1 }))).setBundle { b with
      st := .bound, slots := if b.total = 0 then [] else (x :: g).map Prod.fst, home := x.1, area := s.freeArea b.pasid }) := by
  have hb1 : (s.setBinds (x :: g) (fun r => { r with state := 1 })).bundle id = some b := hb
  rw [commitGroup_eq hg hgo, hok, if_neg (by decide)]
  dsimp only
  rw [hb1, Option.isSome_some, if_pos rfl, hb1]
  rfl

/-- A group that no LAUNCH presented makes a bundle of its own (R329). -/
theorem commitGroup_makes (hg : byInstance (s.groupOf id) = x :: g) (hgo : (x :: g).any (fun y => y.2.go) = true)
    (hok : s.groupOk (x :: g) = true) (hb : s.bundle id = none) :
    let s1 := s.setBinds (x :: g) (fun r => { r with state := 1 })
    s.commitGroup id = some (((x :: g).foldl (fun (t : State) y => t.claimSlot y) { s1 with bundles := s1.bundles ++ [policyBundle id x.2] }).setBundle
      { policyBundle id x.2 with st := .bound, slots := (x :: g).map Prod.fst, home := x.1, area := s.freeArea x.2.pasid }) := by
  intro s1
  have hb1 : s1.bundle id = none := hb
  have hmade : ({ s1 with bundles := s1.bundles ++ [policyBundle id x.2] } : State).bundle id = some (policyBundle id x.2) := by
    show (s1.bundles ++ [policyBundle id x.2]).find? (fun b => b.id == id) = _
    rw [List.find?_append, show s1.bundles.find? (fun b => b.id == id) = none from hb1]
    simp [policyBundle]
  rw [commitGroup_eq hg hgo, hok, if_neg (by decide)]
  dsimp only
  rw [show (s.setBinds (x :: g) (fun r => { r with state := 1 })).bundle id = none from hb1, Option.isSome_none, if_neg (by decide), hmade]
  rfl

end Commit

theorem bindGroupCommit_of {id : Word} {s t : State} {l : Nat × BindRec} (hl : s.leaderRuns = true) (hlast : (s.groupOf id).getLast? = some l)
    (hst : ∀ b, s.bundle id = some b → b.st = .presented) (h : (withGo s l).commitGroup id = some t) : exec (.bindGroupCommit id) s = .next t := by
  refine whenSome_some ?_
  unfold bindGroupCommit?
  rw [if_pos hl, writeGo_eq hlast]
  unfold State.commit
  split
  next b hb =>
    rw [if_pos (hst b hb)]
    exact h
  · exact h

/-! ### The start (R332) -/

section Start

variable {id : Word} {s : State} {b : Bundle}

/-- What the start of a bound bundle comes to. -/
theorem bundleStart_eq (hb : s.bundle id = some b) (hst : b.st = .bound) :
    bundleStart? id s = if (b.jobs.filter (fun j => j.pro)).any (fun j => !j.issued) then
        (if !(s.jobRoom b (b.jobs.filter (fun j => j.pro))) then none
         else match s.jobsHeld b (fun j => j.pro) with
           | some x => s.startHeld b x
           | none => some (issueJobs s b (fun j => j.pro)))
      else if (b.jobs.filter (fun j => j.pro)).any (fun j => j.code.isNone) then none
      else if (b.jobs.filter (fun j => j.pro)).any (fun j => j.code != some 1) then
        some (s.setBundle { b with st := .started, slots := [], engineError := true, jobs := b.jobs.filter (fun j => j.pro) })
      else if !(s.jobRoom b (b.jobs.filter (fun j => !j.pro))) then none
      else match s.imageFind b.pasid b.image with
      | none => none
      | some img =>
        if b.slots.any (fun n => match (s.bindAll b img).rdPlace n with
          | .error .moving => true
          | _ => false) then none
        else match (s.bindAll b img).jobsHeld b (fun j => !j.pro) with
        | some x => s.startHeld b x
        | none => some (issueJobs ((s.bindAll b img).setBundle { b with st := .started }) b (fun j => !j.pro)) := by
  unfold bundleStart?
  rw [hb]
  dsimp only
  rw [hst, if_neg (by decide)] <;> rfl

theorem bundleStart_issues (hb : s.bundle id = some b) (hst : b.st = .bound) (hnot : ∃ j ∈ b.jobs.filter (fun j => j.pro), j.issued = false)
    (hroom : s.jobRoom b (b.jobs.filter (fun j => j.pro)) = true) (hheld : s.jobsHeld b (fun j => j.pro) = none) :
    exec (.bundleStart id) s = .next (issueJobs s b (fun j => j.pro)) := by
  obtain ⟨j, hj, hi⟩ := hnot
  refine whenSome_some ?_
  rw [bundleStart_eq hb hst, if_pos (List.any_eq_true.2 ⟨j, hj, by rw [hi]; rfl⟩), hroom, if_neg (by decide), hheld]

theorem bundleStart_noRoom (hb : s.bundle id = some b) (hst : b.st = .bound) (hnot : ∃ j ∈ b.jobs.filter (fun j => j.pro), j.issued = false)
    (hroom : s.jobRoom b (b.jobs.filter (fun j => j.pro)) = false) : exec (.bundleStart id) s = .next s := by
  obtain ⟨j, hj, hi⟩ := hnot
  refine whenSome_none ?_
  rw [bundleStart_eq hb hst, if_pos (List.any_eq_true.2 ⟨j, hj, by rw [hi]; rfl⟩), hroom]
  rfl

theorem none_unissued {l : List Job} (h : ∀ j ∈ l, j.issued = true) : l.any (fun j => !j.issued) = false :=
  List.any_eq_false.2 fun j hj => by simp [h j hj]

theorem bundleStart_waits (hb : s.bundle id = some b) (hst : b.st = .bound) (hall : ∀ j ∈ b.jobs.filter (fun j => j.pro), j.issued = true)
    (hnot : ∃ j ∈ b.jobs.filter (fun j => j.pro), j.code = none) : exec (.bundleStart id) s = .next s := by
  obtain ⟨j, hj, hc⟩ := hnot
  refine whenSome_none ?_
  rw [bundleStart_eq hb hst, none_unissued hall, if_neg (by decide), if_pos (List.any_eq_true.2 ⟨j, hj, by rw [hc]; rfl⟩)]

theorem bundleStart_fails (hb : s.bundle id = some b) (hst : b.st = .bound)
    (hall : ∀ j ∈ b.jobs.filter (fun j => j.pro), j.issued = true ∧ j.code ≠ none) (hnot : ∃ j ∈ b.jobs.filter (fun j => j.pro), j.code ≠ some 1) :
    exec (.bundleStart id) s = .next (s.setBundle { b with st := .started, slots := [], engineError := true, jobs := b.jobs.filter (fun j => j.pro) }) := by
  obtain ⟨j, hj, hc⟩ := hnot
  have hdone : (b.jobs.filter (fun j => j.pro)).any (fun j => j.code.isNone) = false :=
    List.any_eq_false.2 fun j hj => by simpa using (hall j hj).2
  refine whenSome_some ?_
  rw [bundleStart_eq hb hst, none_unissued (fun j hj => (hall j hj).1), if_neg (by decide), hdone, if_neg (by decide),
    if_pos (List.any_eq_true.2 ⟨j, hj, by simpa using hc⟩)]

theorem bundleStart_starts {img : Image} (hb : s.bundle id = some b) (hst : b.st = .bound)
    (hall : ∀ j ∈ b.jobs.filter (fun j => j.pro), j.issued = true ∧ j.code = some 1) (hroom : s.jobRoom b (b.jobs.filter (fun j => !j.pro)) = true)
    (himg : s.imageFind b.pasid b.image = some img) (hrd : ∀ n ∈ b.slots, (s.bindAll b img).rdPlace n ≠ .error .moving)
    (hheld : (s.bindAll b img).jobsHeld b (fun j => !j.pro) = none) :
    exec (.bundleStart id) s = .next (issueJobs ((s.bindAll b img).setBundle { b with st := .started }) b (fun j => !j.pro)) := by
  have hdone : (b.jobs.filter (fun j => j.pro)).any (fun j => j.code.isNone) = false :=
    List.any_eq_false.2 fun j hj => by simp [(hall j hj).2]
  have hone : (b.jobs.filter (fun j => j.pro)).any (fun j => j.code != some 1) = false :=
    List.any_eq_false.2 fun j hj => by simp [(hall j hj).2]
  refine whenSome_some ?_
  rw [bundleStart_eq hb hst, none_unissued (fun j hj => (hall j hj).1), if_neg (by decide), hdone, if_neg (by decide), hone, if_neg (by decide),
    hroom, if_neg (by decide), himg]
  dsimp only
  rw [if_neg, hheld]
  rw [List.any_eq_true]
  rintro ⟨n, hn, hmov⟩
  split at hmov
  next he => exact hrd n hn he
  · exact absurd hmov (by decide)

end Start

/-! ### Completion (R341 to R343) -/

theorem bundleComplete_retires {id : Word} {s : State} {b : Bundle} (hb : s.bundle id = some b) (hover : s.bundleOver b = true) (hheld : b.heldBy = none)
    (hq : b.qcb = none) : exec (.bundleComplete id) s = .next (s.retireBundle b) := by
  refine whenSome_some ?_
  unfold bundleComplete?
  rw [hb]
  dsimp only
  rw [hover, hheld, if_neg (by decide), hq]

theorem bundleComplete_announces {id : Word} {s s1 : State} {b : Bundle} {k : Nat} (hb : s.bundle id = some b) (hover : s.bundleOver b = true)
    (hheld : b.heldBy = none) (hq : b.qcb = some k)
    (hfree : s.queueHas b k = true → ¬(b.heldUp = true ∧ (s.qcb k).stall = true) ∧ ((s.qcb k).mapped = true → (s.thread (s.qcb k).thread.toNat).held = none))
    (hann : s.announce b.pasid b.packet b.sigva (b.trail s) b.msiv (trailerWord b.ncom b.nexp b.nnc b.nkill b.code) b.code b.skip (s.bundleClock b) = .ok s1) :
    exec (.bundleComplete id) s = .next (s1.retireBundle b) := by
  have hgo : (s.queueHas b k && ((b.heldUp && (s.qcb k).stall) || ((s.qcb k).mapped && (s.thread (s.qcb k).thread.toNat).held.isSome))) = false := by
    cases hhas : s.queueHas b k with
    | false => rfl
    | true =>
      obtain ⟨hup, hthread⟩ := hfree hhas
      have h1 : (b.heldUp && (s.qcb k).stall) = false := by
        rw [← Bool.not_eq_true, Bool.and_eq_true]
        exact hup
      rw [h1, Bool.true_and, Bool.false_or]
      cases hm : (s.qcb k).mapped with
      | false => rfl
      | true => rw [hthread hm]; rfl
  refine whenSome_some ?_
  unfold bundleComplete?
  rw [hb]
  dsimp only
  rw [hover, hheld, if_neg (by decide), hq]
  dsimp only
  rw [hgo, if_neg (by decide), hann]

/-! ### Pre-emption and resume (R336 to R339) -/

theorem preemptRequest_asks {id : Word} {s : State} {b : Bundle} (hl : s.leaderRuns = true) (hb : s.bundle id = some b)
    (hst : b.st = .started ∨ b.st = .bound) (hbind : ∃ x ∈ s.binds, x.2.valid = true ∧ x.2.bndl = id ∧ x.2.state = 1) :
    exec (.preemptRequest id) s = .next ((b.slots.foldl (fun t n => t.modStrand n (fun u =>
      if u.lnch = b.lnch && !(ended u) then { u.abandonWfe with preempting := true, calling := if u.inTlbi then u.calling else none } else u))
        (s.markBinds id 1 2)).setBundle { b with st := .saving }) := by
  obtain ⟨x, hx, hv, hid, hstate⟩ := hbind
  have hany : s.binds.any (fun x => x.2.valid && x.2.bndl == id && x.2.state == 1) = true :=
    List.any_eq_true.2 ⟨x, hx, by simp [hv, hid, hstate]⟩
  have hok : (b.st == .started || b.st == .bound) = true := by rcases hst with h | h <;> rw [h] <;> rfl
  refine whenSome_some ?_
  rw [if_pos hl]
  unfold preemptRequest?
  rw [hb]
  dsimp only
  rw [hok, hany, if_neg (by decide)]

section Save

variable {id : Word} {s : State} {b : Bundle}

theorem preemptSave_tears (hb : s.bundle id = some b) (hready : s.bundleReady b = true) (hlog : (logEntries (s.contribs.filter (s.groupMessage b))).length > 2046) :
    exec (.preemptSaveComplete id) s = .next (s.tearDown b) := by
  refine whenSome_some ?_
  unfold preemptSaveComplete?
  rw [hb]
  dsimp only
  rw [hready, if_neg (by decide)]
  exact if_pos hlog

/-- The bundle as it is saved (R336, R338). -/
def savedBundle (s : State) (b : Bundle) : Bundle :=
  { b with
    log := s.contribs.filter (s.groupMessage b), st := .saved, savedCycle := s.cycle, savedTime := s.time, savedCmds := s.bundleCmds b
    saved := (s.liveSlots b).map (fun n => ((s.bind n).ssave, n, s.keepStrand n))
    savedCores := (s.liveSlots b).map (fun n => ((s.bind n).csave, s.core (coreOf n))), savedRecs := (s.liveSlots b).map s.bind }

theorem preemptSave_saves (hb : s.bundle id = some b) (hready : s.bundleReady b = true) (hlog : (logEntries (s.contribs.filter (s.groupMessage b))).length ≤ 2046) :
    let s0 : State := { s with contribs := s.contribs.filter (fun x => !(s.groupMessage b x)) }
    exec (.preemptSaveComplete id) s = .next (((((s.liveSlots b).foldl (fun t n => t.clearL1s n)
      (s0.writeSave { b with log := s.contribs.filter (s.groupMessage b) } (s.liveSlots b))).clearOut b (s.liveSlots b)).markBinds id 2 3).setBundle (savedBundle s b)) := by
  intro s0
  refine whenSome_some ?_
  unfold preemptSaveComplete?
  rw [hb]
  dsimp only
  rw [hready, if_neg (by decide)]
  exact if_neg (Nat.not_lt.2 hlog)

end Save

theorem resume_of {id : Word} {s : State} {b : Bundle} {l : Nat × BindRec} {r : Option State} (hl : s.leaderRuns = true) (hb : s.bundle id = some b)
    (hst : b.st = .saved) (hlast : (s.groupOf id).getLast? = some l) (hr : (withGo s l).resumeGroup b = r) : resume? id s = r := by
  unfold resume?
  rw [hb]
  dsimp only
  rw [hst, hl, if_pos (by decide), writeGo_eq hlast, hr]

theorem resumeGroup_refuses {s : State} {b : Bundle} (hgo : (s.groupOf b.id).any (fun y => y.2.go) = true)
    (hbad : s.groupOk (s.groupOf b.id) = false ∨ coresKept (s.groupOf b.id) = false ∨ (s.groupOf b.id).length ≠ b.saved.length) :
    s.resumeGroup b = some (s.setBinds (s.groupOf b.id) (fun r => { r with rfsd := true })) := by
  unfold State.resumeGroup
  dsimp only
  rw [hgo, if_neg (by decide), if_pos]
  rcases hbad with h | h | h <;> simp [h]

theorem resumeGroup_resumes {s : State} {b : Bundle} (hgo : (s.groupOf b.id).any (fun y => y.2.go) = true) (hok : s.groupOk (s.groupOf b.id) = true)
    (hkept : coresKept (s.groupOf b.id) = true) (hlen : (s.groupOf b.id).length = b.saved.length)
    (hslots : (newSlots b (s.groupOf b.id)).length = b.saved.length) : ∃ (t : State) (b1 : Bundle), s.resumeGroup b = some (t.setBundle b1) ∧
      b1.id = b.id ∧ b1.saved = [] ∧ b1.savedCmds = [] ∧ b1.log = [] ∧ (b1.st = .started ∨ b1.st = .bound) := by
  unfold State.resumeGroup
  dsimp only
  rw [hgo, if_neg (by decide), hslots, hlen, hok, hkept, if_neg (by simp)]
  refine ⟨_, _, rfl, rfl, rfl, rfl, rfl, ?_⟩
  dsimp only
  split
  · exact .inr rfl
  · exact .inl rfl

/-! ### The policy (R325, R335) -/

theorem policyDispatch_eq {s : State} (hl : s.leaderRuns = true) : policyDispatch? s = match s.goneContext with
    | some p => some (s.endContext p)
    | none => match s.mapQueue with
      | some t => some t
      | none => s.candidates.findSome? s.dispatchOne := by
  unfold policyDispatch?
  rw [hl, if_neg (by decide)] <;> rfl

theorem policyDispatch_gone {s : State} {p : BitVec 20} (hl : s.leaderRuns = true) (hp : s.goneContext = some p) :
    exec .policyDispatch s = .next (s.endContext p) := by
  refine whenSome_some ?_
  rw [policyDispatch_eq hl, hp]

theorem mapQueue_free {s : State} {n k : Nat} {q : Qcb} {r : Tab Qcb} (hn : s.freeThread = some n)
    (hq : s.qcbs.filter (fun x => x.2.st == 1 && !x.2.mapped) = (k, q) :: r) : s.mapQueue = some (s.mapThread n k) := by
  unfold State.mapQueue
  dsimp only
  rw [hn, hq]
  rfl

theorem policyDispatch_maps {s t : State} (hl : s.leaderRuns = true) (hp : s.goneContext = none) (hq : s.mapQueue = some t) :
    exec .policyDispatch s = .next t := by
  refine whenSome_some ?_
  rw [policyDispatch_eq hl, hp]
  dsimp only
  rw [hq]

theorem policyDispatch_first {s t : State} {b : Bundle} {r : List Bundle} (hl : s.leaderRuns = true) (hp : s.goneContext = none) (hq : s.mapQueue = none)
    (hc : s.candidates = b :: r) (hone : s.dispatchOne b = some t) : exec .policyDispatch s = .next t := by
  refine whenSome_some ?_
  rw [policyDispatch_eq hl, hp]
  dsimp only
  rw [hq]
  dsimp only
  rw [hc, List.findSome?_cons, hone]

theorem dispatchOne_binds {s t : State} {b : Bundle} {g : List (Nat × BindRec)} (hv : s.victimLeft b = false) (hg : s.planFor b = some g)
    (ht : s.bindPlan b g = some t) : s.dispatchOne b = some t := by
  unfold State.dispatchOne
  rw [hv, if_neg (by decide), hg]
  exact ht

theorem dispatchOne_preempts {s t : State} {b v : Bundle} (hv : s.victimLeft b = false) (hg : s.planFor b = none) (hslack : s.slackq b < 100)
    (hvictim : s.victim b = some v) (ht : preemptRequest? v.id (s.setBundle { b with waitsFor := some v.id }) = some t) : s.dispatchOne b = some t := by
  unfold State.dispatchOne
  rw [hv, if_neg (by decide), hg]
  dsimp only
  rw [if_pos hslack, hvictim]
  exact ht

/-- Where no leader runs, the policy and the binds rest (R396). -/
theorem leaderless_rests {s : State} (hl : s.leaderRuns = false) : exec .policyDispatch s = .next s ∧ ∀ id, exec (.bindGroupCommit id) s = .next s ∧
    exec (.preemptRequest id) s = .next s ∧ exec (.resume id) s = .next s := by
  refine ⟨whenSome_none ?_, fun id => ⟨whenSome_none ?_, whenSome_none ?_, whenSome_none ?_⟩⟩
  · unfold policyDispatch?
    rw [hl]
    rfl
  · unfold bindGroupCommit?
    rw [hl]
    rfl
  · rw [hl]
    rfl
  · unfold resume?
    split
    · rw [hl, Bool.and_false]
      rfl
    · rfl

/-- Settles O48. -/
theorem bundlesRunAsOne : Obligations.BundlesRunAsOne := by
  unfold Obligations.BundlesRunAsOne
  refine ⟨?commit, ?start, ?complete, ?preempt, ?save, ?resume, ?gone, ?map, ?dispatch, fun s hl => leaderless_rests hl⟩
  case commit =>
    intro id s l x g hl hlast s0 hg hgo
    refine ⟨fun hst hbad => ?_, fun b hb hst hok => ?_, fun hb hok => ?_⟩
    · exact bindGroupCommit_of hl hlast hst (commitGroup_refuses hg hgo hbad)
    · refine bindGroupCommit_of hl hlast (fun b' hb' => ?_) (commitGroup_binds hg hgo hok hb)
      rw [hb] at hb'
      exact Option.some.inj hb' ▸ hst
    · exact bindGroupCommit_of hl hlast (fun b' hb' => by rw [hb] at hb'; cases hb') (commitGroup_makes hg hgo hok hb)
  case start =>
    intro id s b hb hst pro
    exact ⟨bundleStart_issues hb hst, bundleStart_noRoom hb hst, bundleStart_waits hb hst, bundleStart_fails hb hst,
      fun hall img hroom himg hrd hheld => bundleStart_starts hb hst hall hroom himg hrd hheld⟩
  case complete =>
    intro id s s1 b hb hover hheld
    exact ⟨bundleComplete_retires hb hover hheld, fun k hk hfree hann => bundleComplete_announces hb hover hheld hk hfree hann⟩
  case preempt =>
    exact fun id s b hl hb hst hbind => preemptRequest_asks hl hb hst hbind
  case save =>
    intro id s b hb hready log s0
    exact ⟨preemptSave_tears hb hready, fun hlog => ⟨savedBundle s b, preemptSave_saves hb hready hlog, rfl, rfl, rfl, rfl, rfl, rfl⟩⟩
  case resume =>
    intro id s b l hl hb hst hlast s0 g hgo
    refine ⟨fun hbad => whenSome_some (resume_of hl hb hst hlast (resumeGroup_refuses hgo hbad)), fun hok hkept hlen hslots => ?_⟩
    obtain ⟨t, b1, hres, hfields⟩ := resumeGroup_resumes hgo hok hkept hlen hslots
    exact ⟨t, b1, whenSome_some (resume_of hl hb hst hlast hres), hfields⟩
  case gone =>
    exact fun s p hl hp => policyDispatch_gone hl hp
  case map =>
    exact fun s n k q r hl hp hn hq => policyDispatch_maps hl hp (mapQueue_free hn hq)
  case dispatch =>
    intro s t b r hl hp hq hc hv
    exact ⟨fun g hg ht => policyDispatch_first hl hp hq hc (dispatchOne_binds hv hg ht),
      fun v hg hslack hvictim ht => policyDispatch_first hl hp hq hc (dispatchOne_preempts hv hg hslack hvictim ht)⟩

end Sys2Proof.Proofs.BundleEvents
end

section
/-! SUPPORT. O49: what writes on their way leave alone; answers to held accesses and the descriptors of the migration engine. -/

namespace Sys2Proof.Proofs.HoldsAndMoves
open Sys2Proof Sys2Proof.Machine Sys2Proof.Claims Sys2Proof.Proofs.StrandEvents Sys2Proof.Proofs.BundleEvents

/-! ### What a write to memory keeps beside memory -/

/-- The state without memory, caches, ports, strands and the error log: what writes to memory keep. -/
def apart (s : State) : State :=
  { s with
    strands := [], cores := [], dev := [], host := [], pool := [], l2 := [], hostL2 := [], poolL2 := [], devPoison := [], hostPoison := []
    poolPoison := [], devUe := [], devCe := [], xpwrDue := [], scrubDue := [], arr := {}, dieErr := [], ubits := [], rel := {}, wcount := 0
    east := {}, west := {}, mehead := 0, melost := 0, abortDue := [], outputs := [] }

theorem foldl_apart {α : Type} (l : List α) (g : State → α → State) (h : ∀ t x, apart (g t x) = apart t) (s : State) :
    apart (l.foldl g s) = apart s := by
  induction l generalizing s with
  | nil => rfl
  | cons a r ih => rw [List.foldl_cons, ih, h]

@[simp] theorem writeBackDev_apart (s : State) (l : Nat) : apart (s.writeBackDev l) = apart s := by
  unfold State.writeBackDev; split <;> rfl
@[simp] theorem dieWritten_apart (s : State) (b : Bool) (u : Nat) : apart (s.dieWritten b u) = apart s := rfl
@[simp] theorem markUnit_apart (s : State) (sp : MemSpace) (b : Bool) (u : Nat) : apart (s.markUnit sp b u) = apart s := by
  cases sp <;> simp only [State.markUnit] <;> first | rfl | (split <;> rfl)
@[simp] theorem putByte_apart (s : State) (sp : MemSpace) (o : Nat) (b : Byte) : apart (s.putByte sp o b) = apart s := by
  cases sp <;> simp only [State.putByte] <;> first | rfl | exact writeBackDev_apart s _
@[simp] theorem touchCode_apart (s : State) (p : Party) (sp : MemSpace) (o n : Nat) : apart (s.touchCode p sp o n) = apart s := by
  unfold State.touchCode; split <;> rfl
@[simp] theorem endSequences_apart (s : State) (p : Party) (sp : MemSpace) (o n : Nat) : apart (s.endSequences p sp o n) = apart s := rfl
@[simp] theorem putBytes_apart (s : State) (sp : MemSpace) (o : Nat) (bs : List Byte) : apart (s.putBytes sp o bs) = apart s :=
  foldl_apart _ _ (fun t _ => putByte_apart t _ _ _) s
@[simp] theorem cleanUnit_apart (s : State) (sp : MemSpace) (u : Nat) : apart (s.cleanUnit sp u) = apart s := by
  cases sp <;> simp only [State.cleanUnit, markUnit_apart, dieWritten_apart] <;> rfl
@[simp] theorem cleanUnits_apart (s : State) (sp : MemSpace) (us : List Nat) : apart (s.cleanUnits sp us) = apart s :=
  foldl_apart _ _ (fun t _ => cleanUnit_apart t _ _) s
@[simp] theorem storeMem_apart (s : State) (p : Party) (w : Bool) (sp : MemSpace) (o : Nat) (bs : List Byte) :
    apart (s.storeMem p w sp o bs) = apart s := by
  unfold State.storeMem; dsimp only; split <;> simp
@[simp] theorem signalError_apart (s : State) (c : Nat) : apart (s.signalError c) = apart s := by unfold State.signalError; split <;> rfl
@[simp] theorem setMehead_apart (s : State) (n : BitVec 32) : apart (s.setMehead n) = apart s := rfl
@[simp] theorem setMelost_apart (s : State) (n : Word) : apart (s.setMelost n) = apart s := rfl
@[simp] theorem askWindow_apart (s : State) (k : Nat) (mk : Nat → Config.RingMsg) : apart (s.askWindow k mk) = apart s := by
  obtain ⟨r, e, w, o, h⟩ := askWindow_sends s k mk; rw [h]; rfl
@[simp] theorem tellWindow_apart (s : State) (k a : Nat) (bs : List Byte) : apart (s.tellWindow k a bs) = apart s := by
  obtain ⟨r, e, w, o, h⟩ := tellWindow_sends s k a bs; rw [h]; rfl
@[simp] theorem storeIl_apart (s : State) (p : Party) (w : Bool) (o : Nat) (bs : List Byte) : apart (s.storeIl p w o bs) = apart s := by
  unfold State.storeIl; split <;> simp
@[simp] theorem postError_apart (s : State) (i : ErrInfo) : apart (s.postError i) = apart s := by
  unfold State.postError; split
  · rw [setMelost_apart, signalError_apart]
  · rw [setMehead_apart, storeIl_apart, signalError_apart]
@[simp] theorem countCorrected_apart (s : State) (k u : Nat) (n : BitVec 32) : apart (s.countCorrected k u n) = apart s := by
  unfold State.countCorrected; split <;> simp
@[simp] theorem noteDie_apart (s : State) (u : Nat) : apart (s.noteDie u) = apart s := by
  unfold State.noteDie
  repeat' (first | rfl | split | (rw [postError_apart]; rfl) | (rw [countCorrected_apart]; rfl))
@[simp] theorem noteDir_apart (s : State) (sp : MemSpace) (u : Nat) : apart (s.noteDir sp u) = apart s := by
  unfold State.noteDir; dsimp only; split
  · rfl
  · split
    · rw [postError_apart, markUnit_apart]; split <;> rfl
    · rw [countCorrected_apart, postError_apart]; rfl
@[simp] theorem countL2_apart (s : State) (u : Nat) : apart (s.countL2 u) = apart s := by
  unfold State.countL2; dsimp only; rw [countCorrected_apart]; rfl
@[simp] theorem noteL2_apart (s : State) (sp : MemSpace) (u : Nat) : apart (s.noteL2 sp u) = apart s := by
  unfold State.noteL2
  dsimp only; split
  · split
    · rw [postError_apart, markUnit_apart]; rfl
    · rw [countL2_apart]; rfl
  · split
    · exact countL2_apart s u
    · rfl
@[simp] theorem flushDev_apart (s : State) (l : Nat) : apart (s.flushDev l) = apart s := by
  unfold State.flushDev; split <;> simp
@[simp] theorem writeBackHost_apart (s : State) (l : Nat) : apart (s.writeBackHost l) = apart s := by unfold State.writeBackHost; split <;> rfl
@[simp] theorem writeBackPool_apart (s : State) (l : Nat) : apart (s.writeBackPool l) = apart s := by unfold State.writeBackPool; split <;> rfl
@[simp] theorem flushHost_apart (s : State) (l : Nat) : apart (s.flushHost l) = apart s := by unfold State.flushHost; split <;> simp
@[simp] theorem flushPool_apart (s : State) (l : Nat) : apart (s.flushPool l) = apart s := by unfold State.flushPool; split <;> simp
@[simp] theorem noteUnit_apart (s : State) (sp : MemSpace) (u : Nat) : apart (s.noteUnit sp u) = apart s := by
  unfold State.noteUnit; dsimp only; repeat' (first | rfl | (simp; done) | split)
@[simp] theorem takeUnit_apart (s : State) (sp : MemSpace) (u : Nat) : apart (s.takeUnit sp u) = apart s := by
  have h := (noteUnit_apart (s.noteDir sp u) sp u).trans (noteDir_apart s sp u)
  cases sp <;> simp only [State.takeUnit, reduceCtorEq, if_false, if_true]
  · split
    · simp
    · exact h
  · simp
  · split
    · simp
    · exact h
  · split
    · simp
    · exact h
@[simp] theorem writeMem_apart (s : State) (p : Party) (w : Bool) (sp : MemSpace) (o : Nat) (bs : List Byte) :
    apart (s.writeMem p w sp o bs) = apart s := by
  rw [State.writeMem, storeMem_apart, foldl_apart]
  intro t u
  cases w
  · exact takeUnit_apart t sp u
  · simp only [if_true]; split
    · exact noteDir_apart t _ u
    · exact takeUnit_apart t sp u
@[simp] theorem hostLine_apart (s : State) (a b : Bool) (u : Nat) : apart (s.hostLine a b u) = apart s := by
  unfold State.hostLine; dsimp only; repeat' (first | rfl | split)
@[simp] theorem evictHost_apart (s : State) (u : Nat) : apart (s.evictHost u) = apart s := by
  unfold State.evictHost; split
  · rfl
  · exact flushHost_apart s u
@[simp] theorem setCxl_apart (s : State) (c : CxlLines) : apart (s.setCxl c) = apart s := rfl
@[simp] theorem snoopL1s_apart (s : State) (sp : MemSpace) (u : Nat) : apart (s.snoopL1s sp u) = apart s := rfl
@[simp] theorem untrack_apart (s : State) (l : List Nat) : apart (s.untrack l) = apart s := rfl
@[simp] theorem dropPool_apart (s : State) (u : Nat) : apart (s.dropPool u) = apart s := by
  unfold State.dropPool; simp
@[simp] theorem poolLine_apart (s : State) (u : Nat) : apart (s.poolLine u) = apart s := by
  unfold State.poolLine; split
  · rfl
  · dsimp only; split
    · exact dropPool_apart s _
    · rfl
@[simp] theorem recallLine_apart (s : State) (i : Bool) (u : Nat) : apart (s.recallLine i u) = apart s := by
  unfold State.recallLine; dsimp only; split
  · rfl
  · split
    · exact (flushDev_apart _ u).trans (storeMem_apart _ _ _ _ _ _)
    · rfl
@[simp] theorem cxlWrite_apart (s : State) (sp : MemSpace) (o n z : Nat) : apart (s.cxlWrite sp o n z) = apart s := by
  cases sp <;> simp only [State.cxlWrite]
  · split
    · rfl
    · exact foldl_apart _ _ (fun t _ => recallLine_apart t _ _) s
  · refine foldl_apart _ _ (fun t u => ?_) s
    split
    · exact hostLine_apart t _ _ u
    · exact evictHost_apart t u
  · split
    · rfl
    · exact foldl_apart _ _ (fun t _ => poolLine_apart t _) s
@[simp] theorem writeThru_apart (s : State) (p : Party) (w : Bool) (sp : MemSpace) (o : Nat) (bs : List Byte) (n : Nat) :
    apart (s.writeThru p w sp o bs n) = apart s := by
  have h : ∀ (l : List Nat) (s : State), apart (l.foldl (fun t u => t.flushDev u) s) = apart s :=
    fun l s => foldl_apart _ _ (fun t _ => flushDev_apart t _) s
  have h2 : ∀ (l : List Nat) (s : State), apart (l.foldl (fun t u => t.flushHost u) s) = apart s :=
    fun l s => foldl_apart _ _ (fun t _ => flushHost_apart t _) s
  have h3 : ∀ (l : List Nat) (s : State), apart (l.foldl (fun t u => t.flushPool u) s) = apart s :=
    fun l s => foldl_apart _ _ (fun t _ => flushPool_apart t _) s
  unfold State.writeThru; dsimp only; split
  · simp
  · cases sp <;> simp only [h, h2, h3, writeMem_apart, cxlWrite_apart]
@[simp] theorem writePieces_apart (s : State) (p : Party) (w : Bool) (bs : List Byte) (ps : List Piece) :
    apart (s.writePieces p w bs ps) = apart s := by
  induction ps generalizing s bs with
  | nil => rfl
  | cons x r ih =>
    cases x with
    | lm c o n => exact (ih _ _).trans rfl
    | mem sp o n z => exact (ih _ _).trans (writeThru_apart s p w sp o _ z)
    | remote k o n => exact (ih _ _).trans (askWindow_apart s k _)
    | kons k sp o n => exact ih _ _
    | fixed v n => exact ih _ _
    | hidden n => exact ih _ _

theorem setStrand_apart (s : State) (n : Nat) (t : Strand) : apart (s.setStrand n t) = apart s := rfl
/-- Writes that perform, and loads that bind, leave the rest alone. -/
theorem settleLate_apart (s : State) (slot : Nat) (hit : LateWrite → Bool) : apart (s.settleLate slot hit) = apart s := by
  unfold State.settleLate; dsimp only; split
  · rfl
  · rw [setStrand_apart, foldl_apart _ _ (fun t w => writePieces_apart t _ _ _ _)]
theorem settleLoads_apart (s : State) (slot : Nat) (hit : List Piece → Bool) : apart (s.settleLoads slot hit) = apart s := by
  unfold State.settleLoads; dsimp only; split <;> rfl
theorem settleAll_apart (s : State) : apart s.settleAll = apart s := by
  unfold State.settleAll
  refine foldl_apart _ _ (fun t x => ?_) s
  rw [settleLoads_apart, settleLate_apart]
theorem settleAll_moving (s : State) : s.settleAll.moving = s.moving := by
  have h := congrArg State.moving (settleAll_apart s)
  exact h

/-! ### Answers to a record of the fault queue (R353) -/

theorem next_of_eq {s t : State} (h : s = t) : (.next s : Out) = .next t := by rw [h]
theorem resolve_none {s : State} {seq : BitVec 32} (h : ∀ x ∈ s.held, x.seq ≠ seq) : s.heldBy seq = none := by
  unfold State.heldBy
  simpa using h
theorem exec_resolve {s : State} {seq : BitVec 32} {h : Held} (hh : s.heldBy seq = some h) : exec (.frespResolve seq) s = .next (s.resolve h) := by
  show (.next (s.answerRetry seq) : Out) = _
  unfold State.answerRetry
  rw [hh]
theorem exec_deliver {s : State} {seq : BitVec 32} {h : Held} (hh : s.heldBy seq = some h) :
    exec (.frespDeliver seq) s = .next (s.deliver h (deliverCode h).1 (deliverCode h).2) := by
  show (.next (s.answerDeliver seq) : Out) = _
  unfold State.answerDeliver
  rw [hh]
theorem exec_unheld {s : State} {seq : BitVec 32} (h : ∀ x ∈ s.held, x.seq ≠ seq) :
    exec (.frespResolve seq) s = .next s ∧ exec (.frespDeliver seq) s = .next s := by
  constructor
  · show (.next (s.answerRetry seq) : Out) = _
    unfold State.answerRetry
    rw [resolve_none h]
  · show (.next (s.answerDeliver seq) : Out) = _
    unfold State.answerDeliver
    rw [resolve_none h]
/-- What a resolve starts from: the record is gone, and the members that have answered are asked again. -/
def asked (s : State) (h : Held) : State := (s.forgiveLeague h).dropHeld h.seq
theorem asked_strand (s : State) (h : Held) (n : Nat) : (asked s h).strand n = s.strand n := by
  unfold asked State.forgiveLeague; split <;> rfl
theorem asked_thread (s : State) (h : Held) (n : Nat) : (asked s h).thread n = s.thread n := by
  unfold asked State.forgiveLeague; split <;> rfl
theorem asked_headCmd (s : State) (h : Held) (w : Where) : (asked s h).headCmd w = s.headCmd w := by
  unfold asked State.forgiveLeague; split <;> cases w <;> rfl

/-- A queue's head (R259, R353). -/
theorem resolve_access {s : State} {h : Held} {slot : Nat} {q : Queue} (hq : h.holder = .access slot q) :
    s.resolve h = (asked s h).unholdStrand slot h.seq := by
  unfold State.resolve; rw [hq]; rfl
theorem deliver_access {s : State} {h : Held} {slot : Nat} {q : Queue} {code : TrapCode} {sub : Nat} {e : QEntry} {r : List QEntry}
    (hq : h.holder = .access slot q) (he : (s.strand slot).queue q = e :: r) (hs : e.held = some h.seq) :
    s.deliver h code sub = ((s.dropHeld h.seq).unholdStrand slot h.seq).headTrap slot q { e with held := none } code sub := by
  unfold State.deliver
  rw [hq]
  dsimp only
  have he' : ((s.dropHeld h.seq).strand slot).queue q = e :: r := he
  rw [he']
  exact if_pos hs
/-- The head of an engine's queue. -/
theorem unholdCmd_eq {s : State} {w : Where} {seq : BitVec 32} {d : Option (TrapCode × Nat)} {c : Cmd} (hc : s.headCmd w = some c)
    (hs : c.held = some seq) : s.unholdCmd w seq d =
      (s.cmdBar c none (barFault false)).1.setHeadCmd w { (s.cmdBar c none (barFault false)).2 with held := none, delivered := d } := by
  unfold State.unholdCmd
  rw [hc]
  dsimp only
  rw [if_neg (by simp [hs])]
theorem resolve_cmd {s : State} {h : Held} {w : Where} (hw : h.holder = w.holder) : s.resolve h = (asked s h).unholdCmd w h.seq none := by
  unfold State.resolve
  cases w <;> rw [hw] <;> rfl
theorem deliver_cmd {s : State} {h : Held} {w : Where} {code : TrapCode} {sub : Nat} (hw : h.holder = w.holder) :
    s.deliver h code sub = (s.dropHeld h.seq).unholdCmd w h.seq (some (code, sub)) := by
  unfold State.deliver
  cases w <;> rw [hw] <;> rfl
/-- A thread of the command processor, and a bundle's completion. -/
theorem resolve_thread {s : State} {h : Held} {n : Nat} (hn : h.holder = .thread n) :
    s.resolve h = (asked s h).setThread n { s.thread n with held := none } := by
  unfold State.resolve; rw [hn]
  exact congrArg (fun t : Thread => (asked s h).setThread n { t with held := none }) (asked_thread s h n)
theorem deliver_thread {s : State} {h : Held} {n k : Nat} {code : TrapCode} {sub : Nat} (hn : h.holder = .thread n)
    (hk : (s.thread n).qcb = some k) :
    s.deliver h code sub = (((s.dropHeld h.seq).setThread n { s.thread n with held := none }).stallQueue k hevFault) := by
  unfold State.deliver; rw [hn]
  dsimp only
  split
  · rename_i k' h1
    cases h1.symm.trans hk
    rfl
  · rename_i h1
    cases h1.symm.trans hk
theorem resolve_completion {s : State} {h : Held} {id : Word} (hi : h.holder = .completion id) :
    s.resolve h = (asked s h).modBundle id (fun b => { b with heldBy := none }) := by
  unfold State.resolve; rw [hi]; rfl
theorem deliver_completion {s : State} {h : Held} {id : Word} {code : TrapCode} {sub : Nat} (hi : h.holder = .completion id) :
    s.deliver h code sub = (s.dropHeld h.seq).modBundle id (fun b => { b with heldBy := none, skip := b.failing }) := by
  unfold State.deliver; rw [hi]

/-- A queue's head under a record: it goes on, or traps. -/
theorem answer_access (s : State) (h : Held) (hh : s.heldBy h.seq = some h) (slot : Nat) (q : Queue) (hq : h.holder = .access slot q) :
    exec (.frespResolve h.seq) s = .next ((asked s h).unholdStrand slot h.seq) ∧
    (∀ e r, (s.strand slot).queue q = e :: r → e.held = some h.seq →
      let d2 := (s.dropHeld h.seq).unholdStrand slot h.seq
      exec (.frespDeliver h.seq) s = .next (d2.raiseTrap slot
          { code := match h.kind with | .perm => .permission | .materialise => .constWrite | .league => .dataPoison | _ => .pageFault
            eng := engOf q, subc := match h.kind with | .materialise => 0 | .league => 2 | _ => h.acc
            behind := ((d2.strand slot).queue q).length - 1, pos := e.pos, qent := e.ring })) := by
  refine ⟨(exec_resolve hh).trans (next_of_eq (resolve_access hq)), ?_⟩
  intro e r he hs
  refine (exec_deliver hh).trans (next_of_eq ((deliver_access hq he hs).trans ?_))
  unfold State.headTrap deliverCode
  cases h.kind <;> rfl
theorem answer_cmd (s : State) (h : Held) (hh : s.heldBy h.seq = some h) (w : Where) (c : Cmd) (hw : h.holder = w.holder)
    (hc : s.headCmd w = some c) (hs : c.held = some h.seq) :
    exec (.frespResolve h.seq) s = .next (((asked s h).cmdBar c none (barFault false)).1.setHeadCmd w
      { ((asked s h).cmdBar c none (barFault false)).2 with held := none, delivered := none }) ∧
    exec (.frespDeliver h.seq) s = .next (((s.dropHeld h.seq).cmdBar c none (barFault false)).1.setHeadCmd w
      { ((s.dropHeld h.seq).cmdBar c none (barFault false)).2 with held := none, delivered := some (deliverCode h) }) := by
  have hd : (s.dropHeld h.seq).headCmd w = some c := by rw [← hc]; cases w <;> rfl
  exact ⟨(exec_resolve hh).trans (next_of_eq ((resolve_cmd hw).trans (unholdCmd_eq ((asked_headCmd s h w).trans hc) hs))),
    (exec_deliver hh).trans (next_of_eq ((deliver_cmd hw).trans (unholdCmd_eq hd hs)))⟩
theorem answer_thread (s : State) (h : Held) (hh : s.heldBy h.seq = some h) (n : Nat) (hn : h.holder = .thread n) :
    exec (.frespResolve h.seq) s = .next ((asked s h).setThread n { s.thread n with held := none }) ∧
    ∀ k, (s.thread n).qcb = some k → exec (.frespDeliver h.seq) s =
      .next (((s.dropHeld h.seq).setThread n { s.thread n with held := none }).stallQueue k hevFault) :=
  ⟨(exec_resolve hh).trans (next_of_eq (resolve_thread hn)),
    fun _ hk => (exec_deliver hh).trans (next_of_eq (deliver_thread hn hk))⟩
theorem answer_completion (s : State) (h : Held) (hh : s.heldBy h.seq = some h) (id : Word) (hi : h.holder = .completion id) :
    exec (.frespResolve h.seq) s = .next ((asked s h).modBundle id (fun b => { b with heldBy := none })) ∧
    exec (.frespDeliver h.seq) s = .next ((s.dropHeld h.seq).modBundle id (fun b => { b with heldBy := none, skip := b.failing })) :=
  ⟨(exec_resolve hh).trans (next_of_eq (resolve_completion hi)), (exec_deliver hh).trans (next_of_eq (deliver_completion hi))⟩

/-! ### Descriptors of the migration engine (R354) -/

/-- The event of each operation's descriptors, and the state that it looks at. -/
theorem mvHead_moving {s : State} {d : BitVec 256} (h : s.mvHead = some d) : s.moving = none := by
  unfold State.mvHead at h
  split at h
  · cases h
  · rename_i hc
    simp only [Bool.or_eq_true, decide_eq_true_eq, not_or, Bool.not_eq_true, Option.isSome_eq_false_iff, Option.isNone_iff_eq_none] at hc
    exact hc.2
theorem mvTest_eq {s : State} {op : Nat} {d : BitVec 256} (k : BitVec 256 → BitVec 64 → Nat → Option State) (hd : s.mvHead = some d)
    (ho : mvOp d = op) : s.mvTest op k = match s.mvLeaf d with
      | none => some (s.mvEnd 4 0)
      | some (p, o) => if mvBad d p then some (s.mvEnd 4 0) else if leafBusy p then none else k d p o := by
  unfold State.mvTest
  rw [hd]
  dsimp only
  rw [if_neg (by simp [ho])] <;> rfl
theorem mvTest_bad {s : State} {op : Nat} {d : BitVec 256} (k : BitVec 256 → BitVec 64 → Nat → Option State) (hd : s.mvHead = some d)
    (ho : mvOp d = op) (hb : s.mvLeaf d = none ∨ ∃ p o, s.mvLeaf d = some (p, o) ∧ mvBad d p = true) : s.mvTest op k = some (s.mvEnd 4 0) := by
  rw [mvTest_eq k hd ho]
  obtain h | ⟨p, o, h, hbad⟩ := hb
  · rw [h]
  · rw [h]
    exact if_pos hbad
section Page
variable {s : State} {op : Nat} {d : BitVec 256} {p : BitVec 64} {o : Nat} (k : BitVec 256 → BitVec 64 → Nat → Option State)
  (hd : s.mvHead = some d) (ho : mvOp d = op) (hl : s.mvLeaf d = some (p, o)) (hb : mvBad d p = false)
include hd ho hl hb
theorem mvTest_busy (hy : leafBusy p = true) : s.mvTest op k = none := by
  rw [mvTest_eq k hd ho, hl]
  exact (if_neg (ne_true_of_eq_false hb)).trans (if_pos hy)
theorem mvTest_page (hy : leafBusy p = false) : s.mvTest op k = k d p o := by
  rw [mvTest_eq k hd ho, hl]
  exact (if_neg (ne_true_of_eq_false hb)).trans (if_neg (ne_true_of_eq_false hy))
end Page

/-! ### The events of the migration engine (R355, R356, R361) -/

theorem moving_none {s : State} {d : BitVec 256} (h : s.settleAll.mvHead = some d) : s.moving = none :=
  (settleAll_moving s).symm.trans (mvHead_moving h)
theorem fliph_fresh {s : State} (h : s.moving = none) : fliph? s = s.flipStart 1 := by
  unfold fliph? State.flipping
  rw [h]
theorem flipd_fresh {s : State} (h : s.moving = none) : flipd? s = s.flipStart 2 := by
  unfold flipd? State.flipping
  rw [h]
/-- A descriptor of the operation `op` that fails ends with BADARG, whichever event the operation has. -/
theorem exec_badarg {op : Nat} {ev : Instr} (hev : (op, ev) ∈ [(0, Instr.move), (1, .fliph), (2, .flipd), (3, .unsettle)]) {s : State}
    {d : BitVec 256} (hd : (if op = 3 then s else s.settleAll).mvHead = some d) (ho : mvOp d = op)
    (hb : (if op = 3 then s else s.settleAll).mvLeaf d = none ∨
      ∃ p o, (if op = 3 then s else s.settleAll).mvLeaf d = some (p, o) ∧ mvBad d p = true) :
    exec ev s = .next ((if op = 3 then s else s.settleAll).mvEnd 4 0) := by
  simp only [List.mem_cons, List.not_mem_nil, or_false, Prod.mk.injEq] at hev
  obtain ⟨rfl, rfl⟩ | ⟨rfl, rfl⟩ | ⟨rfl, rfl⟩ | ⟨rfl, rfl⟩ := hev
  · exact whenSome_some (mvTest_bad _ hd ho hb)
  · exact whenSome_some ((fliph_fresh (moving_none hd)).trans (mvTest_bad _ hd ho hb))
  · exact whenSome_some ((flipd_fresh (moving_none hd)).trans (mvTest_bad _ hd ho hb))
  · exact whenSome_some (mvTest_bad _ hd ho hb)

section Page
variable {s0 : State} {d : BitVec 256} {p : BitVec 64} {o : Nat} (hd : s0.settleAll.mvHead = some d) (hl : s0.settleAll.mvLeaf d = some (p, o))
  (hb : mvBad d p = false)
include hd hl hb

theorem move_busy (ho : mvOp d = 0) (hy : leafBusy p = true) : exec .move s0 = .next s0 :=
  whenSome_none (mvTest_busy _ hd ho hl hb hy)
theorem move_settled (ho : mvOp d = 0) (hy : leafBusy p = false) (hs : p.getLsbD 55 = true) : exec .move s0 = .next (s0.settleAll.mvEnd 2 0) :=
  whenSome_some ((mvTest_page _ hd ho hl hb hy).trans (if_pos hs))
theorem move_histFull (ho : mvOp d = 0) (hy : leafBusy p = false) (hs : p.getLsbD 55 = false)
    (hf : s0.settleAll.histFull (mvPasid d) (d.extractLsb' 64 64) = true) : exec .move s0 = .next (s0.settleAll.mvEnd 3 0) :=
  whenSome_some ((mvTest_page _ hd ho hl hb hy).trans ((if_neg (ne_true_of_eq_false hs)).trans (if_pos hf)))
/-- The page before its bytes are read: its leaf marked, no copy of it left. -/
def emptied (s : State) (d : BitVec 256) (p : BitVec 64) (o : Nat) : State :=
  ((((s.modLeaf p o (fun x => setFld x 54 1 1)).dropTlb (mvPasid d) (mvVa d) (pteSize p)).cleanRange (pteSpace p) (pteFrame p) (pteSize p)).dropCopies
    (mvPasid d) (mvVa d) (pteSpace p) (pteFrame p) (pteSize p)).recallRange (pteSpace p) (pteFrame p) (pteSize p)
/-- The page with its bytes in their new place. -/
def moved (s2 : State) (d : BitVec 256) (p : BitVec 64) : State :=
  let g := s2.readPieces svcUnit (s2.framePieces (pteSpace p) (pteFrame p) (pteSize p))
  g.s.writePieces (.device .service) true g.bytes (g.s.framePieces (mvSpace d) (mvFrame d) (pteSize p))
omit hd hl hb in
theorem unpoisoned {s2 : State} (hp : ∀ i < pteSize p / 64, (s2.readPieces svcUnit
      (s2.framePieces (pteSpace p) (pteFrame p + 64 * i) 64)).poison = none) :
    (List.range (pteSize p / 64)).filter (fun i => (s2.readPieces svcUnit
      (s2.framePieces (pteSpace p) (pteFrame p + 64 * i) 64)).poison.isSome) = [] := by
  simp only [List.filter_eq_nil_iff, List.mem_range]
  intro i hi
  rw [hp i hi]
  exact Bool.false_ne_true
theorem move_sound (ho : mvOp d = 0) (hy : leafBusy p = false) (hs : p.getLsbD 55 = false)
    (hf : s0.settleAll.histFull (mvPasid d) (d.extractLsb' 64 64) = false)
    (hout : s0.settleAll.outsIn (pteSpace p) (pteFrame p) (pteSize p) = false)
    (hp : ∀ i < pteSize p / 64, ((emptied s0.settleAll d p o).readPieces svcUnit
      ((emptied s0.settleAll d p o).framePieces (pteSpace p) (pteFrame p + 64 * i) 64)).poison = none) :
    exec .move s0 = .next { (moved (emptied s0.settleAll d p o) d p).moveRels (pteSpace p) (pteFrame p) (mvSpace d) (mvFrame d) (pteSize p) with
      moving := some { desc := setFld d 192 8 1 } } := by
  have hbad := unpoisoned hp
  refine whenSome_some ?_
  unfold move?
  dsimp only
  rw [mvTest_page _ hd ho hl hb hy, if_neg (ne_true_of_eq_false hs), if_neg (ne_true_of_eq_false hf), if_neg (ne_true_of_eq_false hout)]
  unfold emptied at hbad
  rw [hbad]
  rw [List.foldl_nil, List.isEmpty_nil, if_pos rfl]
  unfold moved emptied
  rfl
theorem flip_busy {op : Nat} (ho : mvOp d = op) (hy : leafBusy p = true) : s0.flipStart op = none :=
  mvTest_busy _ hd ho hl hb hy
theorem flip_start {op : Nat} (ho : mvOp d = op) (hy : leafBusy p = false) :
    s0.flipStart op = some { (s0.settleAll.modLeaf p o (fun x => setFld x 52 2 2)).dropTlb (mvPasid d) (mvVa d) (pteSize p) with
      moving := some { desc := d } } :=
  mvTest_page _ hd ho hl hb hy
/-- The first step of a flip to either bias (R361). -/
theorem exec_flip {ev : Instr} (hev : (mvOp d, ev) ∈ [(1, Instr.fliph), (2, .flipd)]) :
    (leafBusy p = true → exec ev s0 = .next s0) ∧
    (leafBusy p = false → exec ev s0 = .next { (s0.settleAll.modLeaf p o (fun x => setFld x 52 2 2)).dropTlb (mvPasid d) (mvVa d) (pteSize p) with
      moving := some { desc := d } }) := by
  have hm : s0.moving = none := moving_none hd
  have hh := fliph_fresh hm
  have hdd := flipd_fresh hm
  simp only [List.mem_cons, List.not_mem_nil, or_false, Prod.mk.injEq] at hev
  obtain ⟨ho, rfl⟩ | ⟨ho, rfl⟩ := hev
  · exact ⟨fun hy => whenSome_none (hh.trans (flip_busy hd hl hb ho hy)), fun hy => whenSome_some (hh.trans (flip_start hd hl hb ho hy))⟩
  · exact ⟨fun hy => whenSome_none (hdd.trans (flip_busy hd hl hb ho hy)), fun hy => whenSome_some (hdd.trans (flip_start hd hl hb ho hy))⟩
end Page

theorem flipping_eq {s : State} {m : Moving} {p : BitVec 64} {o op : Nat} (hm : s.moving = some m) (hl : s.mvLeaf m.desc = some (p, o))
    (ho : mvOp m.desc = op) : s.flipping op = some (m.desc, p, o) := by
  unfold State.flipping
  rw [hm]
  dsimp only
  rw [if_neg (by simp [ho]), hl] <;> rfl
theorem fliph_ends {s : State} {m : Moving} {p : BitVec 64} {o : Nat} (hm : s.moving = some m) (hl : s.mvLeaf m.desc = some (p, o))
    (ho : mvOp m.desc = 1) (hout : s.outsIn .il (pteFrame p) (pteSize p) = false) : exec .fliph s =
      .next (((s.cleanRange .il (pteFrame p) (pteSize p)).dropCopies (mvPasid m.desc) (mvVa m.desc) .il (pteFrame p) (pteSize p)).flipEnd p o 1) := by
  refine whenSome_some ?_
  unfold fliph?
  rw [flipping_eq hm hl ho]
  exact if_neg (ne_true_of_eq_false hout)
theorem flipd_ends {s : State} {m : Moving} {p : BitVec 64} {o : Nat} (hm : s.moving = some m) (hl : s.mvLeaf m.desc = some (p, o))
    (ho : mvOp m.desc = 2) (hout : s.outsIn .il (pteFrame p) (pteSize p) = false) :
    exec .flipd s = .next ((s.recallRange .il (pteFrame p) (pteSize p)).flipEnd p o 0) := by
  refine whenSome_some ?_
  unfold flipd?
  rw [flipping_eq hm hl ho]
  exact if_neg (ne_true_of_eq_false hout)

/-- The move's last step (R355, R356). -/
def placedLeaf (d : BitVec 256) (x : BitVec 64) : BitVec 64 :=
  setFld (setFld (setFld (setFld x 6 2 (fld d 128 2)) 12 40 (fld d 140 40)) 54 1 0) 52 2 0
section Complete
variable {s : State} {m : Moving} {p : BitVec 64} {o : Nat} (hm : s.moving = some m) (ho : mvOp m.desc = 0) (hl : s.mvLeaf m.desc = some (p, o))
include hm ho hl
theorem moveComplete_below (hn : (s.movesOf (mvPasid m.desc) (m.desc.extractLsb' 64 64)).length + 1 < s.lim.toNat) :
    exec .moveComplete s = .next ((State.mvEnd { (s.modLeaf p o (fun x => if mvSpace m.desc = .il then setFld (placedLeaf m.desc x) 56 1 0
      else placedLeaf m.desc x)).dropUncoded.addMove (mvPasid m.desc) (m.desc.extractLsb' 64 64) with moving := none } (fld m.desc 192 8)
        ((s.movesOf (mvPasid m.desc) (m.desc.extractLsb' 64 64)).length + 1)).retryResults) := by
  have hs : decide ((s.movesOf (mvPasid m.desc) (m.desc.extractLsb' 64 64)).length + 1 ≥ s.lim.toNat) = false := by simpa using hn
  refine whenSome_some ?_
  unfold moveComplete?
  rw [hm]
  dsimp only
  rw [if_neg (by simp [ho]), hl]
  dsimp only
  rw [hs]
  simp only [Bool.false_and, Bool.false_eq_true, if_false, Bool.or_false, decide_eq_true_eq]
  rfl
theorem moveComplete_full (hn : s.lim.toNat ≤ (s.movesOf (mvPasid m.desc) (m.desc.extractLsb' 64 64)).length + 1) (hf : s.fqFull = true) :
    exec .moveComplete s = .next s := by
  refine whenSome_none ?_
  unfold moveComplete?
  rw [hm]
  dsimp only
  rw [if_neg (by simp [ho]), hl]
  exact if_pos (by simp [hf, hn])
theorem moveComplete_settles (hn : s.lim.toNat ≤ (s.movesOf (mvPasid m.desc) (m.desc.extractLsb' 64 64)).length + 1) (hf : s.fqFull = false) :
    exec .moveComplete s = .next ((State.mvEnd { ((s.modLeaf p o (fun x => setFld (setFld (placedLeaf m.desc x) 56 1 0) 55 1 1)).dropUncoded.addMove
      (mvPasid m.desc) (m.desc.extractLsb' 64 64)).postFault { kind := .settled, va := m.desc.extractLsb' 64 64, pasid := mvPasid m.desc } with
        moving := none } (fld m.desc 192 8) ((s.movesOf (mvPasid m.desc) (m.desc.extractLsb' 64 64)).length + 1)).retryResults) := by
  have hs : decide ((s.movesOf (mvPasid m.desc) (m.desc.extractLsb' 64 64)).length + 1 ≥ s.lim.toNat) = true := by simpa using hn
  refine whenSome_some ?_
  unfold moveComplete?
  rw [hm]
  dsimp only
  rw [if_neg (by simp [ho]), hl]
  dsimp only
  rw [hs]
  simp only [hf, Bool.and_false, Bool.false_eq_true, if_false, Bool.or_true, if_true]
  rfl
end Complete

theorem unsettle_ends {s : State} {d : BitVec 256} {p : BitVec 64} {o : Nat} (hd : s.mvHead = some d) (hl : s.mvLeaf d = some (p, o))
    (hb : mvBad d p = false) (hy : leafBusy p = false) (ho : mvOp d = 3) :
    ∃ s1 : State, s1 = s.modLeaf p o (fun x => setFld x 55 1 0) ∧ exec .unsettle s = .next (State.mvEnd { s1 with
      hist := s1.hist.filter (fun h => !(h.pasid == mvPasid d && h.va == d.extractLsb' 64 64)) } 1 0) :=
  ⟨_, rfl, whenSome_some (mvTest_page _ hd ho hl hb hy)⟩

/-- Settles O49. -/
theorem holdsMovesAndFlips : Obligations.HoldsMovesAndFlips := by
  unfold Obligations.HoldsMovesAndFlips
  refine ⟨⟨fun seq s h => exec_unheld h, ?_⟩, ?_, ?_, ?_, ?_, ?_⟩
  · intro s h hh asked0 r1 d1
    have hr : r1 = asked s h := by
      unfold asked State.forgiveLeague
      split
      · next hk => exact congrArg (fun u : State => u.dropHeld h.seq) (if_pos hk)
      · next hk => exact congrArg (fun u : State => u.dropHeld h.seq) (if_neg hk)
    rw [hr]
    refine ⟨fun slot q hq => ?_, fun w c hw hc hs => answer_cmd s h hh w c hw hc hs, fun n hn => answer_thread s h hh n hn,
      fun id hi => answer_completion s h hh id hi⟩
    have ha := answer_access s h hh slot q hq
    have hu : (asked s h).unholdStrand slot h.seq = (asked s h).setStrand slot _ :=
      congrArg (fun t : Strand => (asked s h).setStrand slot _) (asked_strand s h slot)
    refine ⟨ha.1.trans (next_of_eq ?_), ha.2⟩
    unfold State.unholdStrand State.modStrand
    rw [asked_strand]
    rfl
  · intro op ev hev s d u hd ho hb
    exact exec_badarg hev hd ho hb
  · intro s0 s d p o hs hd hl hb size pasid
    subst hs
    exact ⟨move_busy hd hl hb, move_settled hd hl hb, move_histFull hd hl hb, fun ho hy hs hf hout => move_sound hd hl hb ho hy hs hf hout,
      fun ev hev => exec_flip hd hl hb hev⟩
  · intro s m p o hm hl size ended
    exact ⟨fun ho hout => fliph_ends hm hl ho hout, fun ho hout => flipd_ends hm hl ho hout⟩
  · intro s d p o hd hl hb hy pasid ho
    exact unsettle_ends hd hl hb hy ho
  · intro s m p o hm ho hl d va n placed ended
    exact ⟨moveComplete_below hm ho hl, moveComplete_full hm ho hl, moveComplete_settles hm ho hl⟩

end Sys2Proof.Proofs.HoldsAndMoves
end

section
/-! SUPPORT. O50: host reads and writes through the aperture, and snoops. -/

namespace Sys2Proof.Proofs.HostRequests
open Sys2Proof Sys2Proof.Machine Sys2Proof.Claims

/-! ### Requests (R357) -/

theorem requestOk {off len : Nat} (ho : off < 2 ^ 40) (hl : 1 ≤ len) (hx : off % 64 + len ≤ 64) : hostRequestOk off len = true := by
  unfold hostRequestOk
  rw [decide_eq_true ho, decide_eq_true hl, decide_eq_true hx] <;> rfl
/-- A read or write in range goes on, or waits. -/
theorem exec_hostRead {n off len : Nat} (s : State) (ho : off < 2 ^ 40) (hl : 1 ≤ len) (hx : off % 64 + len ≤ 64) :
    exec (.cxlMemRead ⟨n, off⟩ len) s = .next ((s.hostRead n off len).getD (s.hostWait (.hostRead n off len))) := by
  show execCxlMemRead ⟨n, off⟩ len s = _
  unfold execCxlMemRead
  rw [requestOk ho hl hx] <;> rfl
theorem exec_hostWrite {n off : Nat} {data : List Byte} (s : State) (ho : off < 2 ^ 40) (hl : 1 ≤ data.length) (hx : off % 64 + data.length ≤ 64) :
    exec (.cxlMemWrite ⟨n, off⟩ data) s = .next ((s.hostWrite n off data).getD (s.hostWait (.hostWrite n off data))) := by
  show execCxlMemWrite ⟨n, off⟩ data s = _
  unfold execCxlMemWrite
  rw [requestOk ho hl hx] <;> rfl
/-- A page in device bias is answered in state I (R360). -/
theorem hostGrant_cached (s : State) (sp : MemSpace) (o k size : Nat) (h : size ≠ 0) : s.hostGrant [.mem sp o k size] = .i := by
  unfold State.hostGrant
  split
  · next h1 =>
      simp only [List.cons.injEq, Piece.mem.injEq, and_true] at h1
      exact absurd h1.2.2.2 h
  · rfl
/-- A request that is held (R352, R378). -/
theorem holdHost_full {s : State} {h : Holder} {off : Nat} {kind : FaultKind} {va : Word} {a : Nat} (hf : s.holdFull kind = true) :
    s.holdHost h off kind va a = none := if_pos hf
theorem holdHost_room {s : State} {h : Holder} {off : Nat} {kind : FaultKind} {va : Word} {a : Nat} (hf : s.holdFull kind = false) :
    s.holdHost h off kind va a = some
      { (s.postHold { kind := kind, eng := 7, acc := a, va := va, pasid := apPasid (s.apSlot off) }).2 with
        held := (s.postHold { kind := kind, eng := 7, acc := a, va := va, pasid := apPasid (s.apSlot off) }).2.held ++
          [⟨(s.postHold { kind := kind, eng := 7, acc := a, va := va, pasid := apPasid (s.apSlot off) }).1, kind, h, apPasid (s.apSlot off), va, a⟩] } :=
  if_neg (ne_true_of_eq_false hf)

section Read
variable {n off len : Nat} {s : State} (ho : off < 2 ^ 40) (hl : 1 ≤ len) (hx : off % 64 + len ≤ 64)
include ho hl hx
theorem read_place {ps : List Piece} (ha : s.aperture .read off len = .place ps) : exec (.cxlMemRead ⟨n, off⟩ len) s =
    let us := hostLines ps
    let g := (((s.hostFill off).hostAsks us).hostGains n ps).readPieces hostUnit ps
    let t := (g.s.grantLines (s.hostGrant ps) us).takeFresh
    .next { t with outputs := t.outputs ++ [.hostData off g.bytes g.poison.isSome (s.hostGrant ps)] } := by
  rw [exec_hostRead s ho hl hx, State.hostRead, ha] <;> rfl
theorem read_error (ha : s.aperture .read off len = .error) : exec (.cxlMemRead ⟨n, off⟩ len) s = .next (s.hostError off) := by
  rw [exec_hostRead s ho hl hx, State.hostRead, ha] <;> rfl
theorem read_moving (ha : s.aperture .read off len = .moving) :
    exec (.cxlMemRead ⟨n, off⟩ len) s = .next (s.hostWait (.hostRead n off len)) := by
  rw [exec_hostRead s ho hl hx, State.hostRead, ha] <;> rfl
theorem read_full {kind : FaultKind} {va : Word} (ha : s.aperture .read off len = .held kind va) (hf : s.holdFull kind = true) :
    exec (.cxlMemRead ⟨n, off⟩ len) s = .next (s.hostWait (.hostRead n off len)) := by
  rw [exec_hostRead s ho hl hx, State.hostRead, ha]
  dsimp only
  rw [holdHost_full hf] <;> rfl
theorem read_held {kind : FaultKind} {va : Word} (ha : s.aperture .read off len = .held kind va) (hf : s.holdFull kind = false) :
    exec (.cxlMemRead ⟨n, off⟩ len) s =
      let r := s.postHold { kind := kind, eng := 7, acc := 0, va := va, pasid := apPasid (s.apSlot off) }
      .next { r.2 with held := r.2.held ++ [⟨r.1, kind, .hostRead n off len, apPasid (s.apSlot off), va, 0⟩] } := by
  rw [exec_hostRead s ho hl hx, State.hostRead, ha]
  dsimp only
  rw [holdHost_room hf] <;> rfl
end Read

section Write
variable {n off : Nat} {data : List Byte} {s : State} (ho : off < 2 ^ 40) (hl : 1 ≤ data.length) (hx : off % 64 + data.length ≤ 64)
include ho hl hx
theorem write_place {ps : List Piece} (ha : s.aperture .write off data.length = .place ps) : exec (.cxlMemWrite ⟨n, off⟩ data) s =
    let s1 := ((((s.hostFill off).hostAsks (hostLines ps)).writePieces (.host n) (data.length == 64) data ps).hostReleases n ps).takeFresh
    .next { s1 with outputs := s1.outputs ++ [.hostDone off] } := by
  rw [exec_hostWrite s ho hl hx, State.hostWrite, ha] <;> rfl
theorem write_error (ha : s.aperture .write off data.length = .error) : exec (.cxlMemWrite ⟨n, off⟩ data) s = .next (s.hostError off) := by
  rw [exec_hostWrite s ho hl hx, State.hostWrite, ha] <;> rfl
theorem write_moving (ha : s.aperture .write off data.length = .moving) :
    exec (.cxlMemWrite ⟨n, off⟩ data) s = .next (s.hostWait (.hostWrite n off data)) := by
  rw [exec_hostWrite s ho hl hx, State.hostWrite, ha] <;> rfl
theorem write_full {kind : FaultKind} {va : Word} (ha : s.aperture .write off data.length = .held kind va) (hf : s.holdFull kind = true) :
    exec (.cxlMemWrite ⟨n, off⟩ data) s = .next (s.hostWait (.hostWrite n off data)) := by
  rw [exec_hostWrite s ho hl hx, State.hostWrite, ha]
  dsimp only
  rw [holdHost_full hf] <;> rfl
theorem write_held {kind : FaultKind} {va : Word} (ha : s.aperture .write off data.length = .held kind va) (hf : s.holdFull kind = false) :
    exec (.cxlMemWrite ⟨n, off⟩ data) s =
      let r := s.postHold { kind := kind, eng := 7, acc := 1, va := va, pasid := apPasid (s.apSlot off) }
      .next { r.2 with held := r.2.held ++ [⟨r.1, kind, .hostWrite n off data, apPasid (s.apSlot off), va, 1⟩] } := by
  rw [exec_hostWrite s ho hl hx, State.hostWrite, ha]
  dsimp only
  rw [holdHost_room hf] <;> rfl
end Write

/-! ### Snoops (R359, R362) -/

section Snoop
variable {line : Nat} (hl : line < 2 ^ 46) (s : State)
include hl
theorem snoop_range {x y : Out} : (if !(lineOk line) then x else y) = y := by
  have h : lineOk line = true := decide_eq_true hl
  rw [h]
  rfl
/-- The host line's copies after its answer. -/
theorem snpdata_ends : exec (.snpdata line) s =
    let h := s.snooped .host line
    let a := (h.answer .host line (tabFind h.hostL2 line)).writeBackHost line
    .next (if a.arr.cxl.exclusive.contains line then
      a.setCxl { a.arr.cxl with exclusive := setDel a.arr.cxl.exclusive line, shared := setAdd a.arr.cxl.shared line } else a) :=
  snoop_range hl
theorem snpinv_ends : exec (.snpinv line) s =
    let h := s.snooped .host line
    let a := ((h.answer .host line (tabFind h.hostL2 line)).writeBackHost line).dropFetched .host line
    .next (a.setCxl { a.arr.cxl with exclusive := setDel a.arr.cxl.exclusive line, shared := setDel a.arr.cxl.shared line }) :=
  snoop_range hl
theorem snpcur_ends : exec (.snpcur line) s =
    let h := s.snooped .host line
    .next (h.answer .host line (some (lineFrom (h.physByte .host) line))) :=
  snoop_range hl
theorem bisnpinv_ends : exec (.bisnpinv line) s =
    let p := s.snooped .pool line
    let b := ((p.answer .pool line (tabFind p.poolL2 line)).flushPool line).dropFetched .pool line
    .next (b.setCxl { b.arr.cxl with pool := setDel b.arr.cxl.pool line }) :=
  snoop_range hl
theorem bisnpdata_ends : exec (.bisnpdata line) s =
    let p := s.snooped .pool line
    .next ((p.answer .pool line (some (lineFrom (p.physByte .pool) line))).writeBackPool line) :=
  snoop_range hl
end Snoop

/-- Settles O50. -/
theorem hostAccesses : Obligations.HostAccesses := by
  unfold Obligations.HostAccesses
  refine ⟨?_, ?_, ?_⟩
  · intro n off len s ho hl hx waits
    refine ⟨?_, fun ha => read_error ho hl hx ha,
      fun kind va ha => ⟨fun hf => read_full ho hl hx ha hf, fun hf => read_held ho hl hx ha hf⟩, fun ha => read_moving ho hl hx ha⟩
    intro ps ha us g t
    refine ⟨read_place ho hl hx ha, ?_⟩
    intro sp o k size hps hsize
    rw [hps]
    exact hostGrant_cached s sp o k size hsize
  · intro n off data s ho hl hx waits
    exact ⟨fun ps ha => write_place ho hl hx ha, fun ha => write_error ho hl hx ha,
      fun kind va ha => ⟨fun hf => write_full ho hl hx ha hf, fun hf => write_held ho hl hx ha hf⟩, fun ha => write_moving ho hl hx ha⟩
  · intro line s hl h p a b unfetched
    have hdata := snpdata_ends hl s
    refine ⟨fun hx => ?_, fun hx => ?_, snpinv_ends hl s, snpcur_ends hl s, bisnpinv_ends hl s, bisnpdata_ends hl s⟩
    · exact hdata.trans (congrArg Host.Outcome.next (if_pos (List.contains_iff_mem.2 hx)))
    · exact hdata.trans (congrArg Host.Outcome.next (if_neg (fun hc => hx (List.contains_iff_mem.1 hc))))

end Sys2Proof.Proofs.HostRequests
end

section
/-! SUPPORT. O51: flits, lanes and ports. -/

namespace Sys2Proof.Proofs.PortEvents
open Sys2Proof Sys2Proof.Machine Sys2Proof.Claims Sys2Proof.Proofs.BundleEvents

theorem port_setPort (s : State) (p : Port) (x : PortState) : (s.setPort p x).port p = x := by cases p <;> rfl

/-! ### Flits (R375) -/

theorem whenUp_up {s : State} {p : Port} {r : Option State} (h : (s.port p).up = true) : whenUp s p r = whenSome s r :=
  congrArg (whenSome s) (if_pos h)
theorem whenFlit_up {s : State} {p : Port} {bs : List Byte} {r : Option State} (hl : bs.length = 256) (h : (s.port p).up = true) :
    whenFlit s p bs r = whenSome s r :=
  (if_neg (by rw [hl]; decide)).trans (whenUp_up h)

section Flit
variable {port : Port} {flit : List Byte} {s : State} (hl : flit.length = 256) (hu : (s.port port).up = true)
include hl hu
theorem flit_taken (hok : flitOk (s.port port) flit = true) :
    let s1 := (s.setPort port { s.port port with rxNext := (s.port port).rxNext + 1 }).takeAck port (flitNum flit)
    let slots := ((List.range 5).map (flitSlot flit)).filter (fun b => slotClass b != 3)
    exec (.flitReceive port flit) s = whenSome s (if flDst (flitNum flit) = s.lgPos.toNat then
      some (slots.foldl (fun t b => t.linkMessage port (flSrc (flitNum flit)) (flSeq (flitNum flit)) (Config.slotMessage b)) s1)
    else some (s1.sendSlots (otherPort port)
      (slots.map (fun b => { cls := slotClass b, src := flSrc (flitNum flit), dst := flDst (flitNum flit), bytes := b })))) :=
  (whenFlit_up hl hu).trans (congrArg (whenSome s) (if_neg (by simp [hok])))
theorem flitNak_taken (hok : flitOk (s.port port) flit = true) : exec (.flitNak port flit) s = .next s :=
  (whenFlit_up hl hu).trans (whenSome_none (if_pos hok))
theorem flit_discarded (hok : flitOk (s.port port) flit = false) : exec (.flitReceive port flit) s = .next s :=
  (whenFlit_up hl hu).trans (whenSome_none (if_pos (by simp [hok])))
theorem flitNak_goes (hok : flitOk (s.port port) flit = false) : exec (.flitNak port flit) s = .next (s.sendNak port) :=
  (whenFlit_up hl hu).trans (whenSome_some (if_neg (ne_true_of_eq_false hok)))
end Flit

theorem takeAck_plain {s : State} {p : Port} {d : BitVec 2048} (h : flNak d = false) :
    s.takeAck p d = (s.setPort p { s.port p with replay := dropAcked (flAck d) (s.port p).replay }).drain p false (s.port p).out.length := by
  unfold State.takeAck
  dsimp only
  rw [h, if_neg Bool.false_ne_true]
theorem takeAck_resends {s : State} {p : Port} {d : BitVec 2048} (h : flNak d = true) :
    let s1 := s.setPort p { s.port p with replay := dropAcked (flAck d) (s.port p).replay }
    s.takeAck p d = ({ s1 with outputs := s1.outputs ++ (dropAcked (flAck d) (s.port p).replay).map (fun f => .flit p f) } : State).drain p false
      (s.port p).out.length := by
  unfold State.takeAck State.resend
  dsimp only
  rw [h, if_pos rfl, port_setPort]
theorem drain_keeps {s : State} {p : Port} {nak : Bool} {n : Nat}
    (h : (s.port p).out = [] ∨ (s.port p).up = false ∨ 1024 ≤ (s.port p).replay.length) : s.drain p nak (n + 1) = s := by
  unfold State.drain
  dsimp only
  split
  · rfl
  · next h1 r h2 =>
    refine if_pos ?_
    obtain h0 | h0 | h0 := h
    · rw [h2] at h0
      cases h0
    · simp [h0]
    · simp [h0]
theorem drain_sends_flit {s : State} {p : Port} {nak : Bool} {n : Nat} {h : RingSlot} {r : List RingSlot} (ho : (s.port p).out = h :: r)
    (hu : (s.port p).up = true) (hr : (s.port p).replay.length < 1024) :
    let x := s.port p
    let mine (y : RingSlot) : Bool := y.src == h.src && y.dst == h.dst
    let f := flitMake x.txNext (x.rxNext - 1) (nak || x.nak) h.src h.dst (((x.out.filter mine).take 5).map (fun y => y.leave s.time))
    let s1 := s.setPort p { x with
      txNext := x.txNext + 1, replay := x.replay ++ [f], nak := false, out := (x.out.filter mine).drop 5 ++ x.out.filter (fun y => !(mine y)) }
    s.drain p nak (n + 1) = ({ s1 with outputs := s1.outputs ++ [.flit p f] } : State).drain p false n := by
  intro x mine f s1
  conv => lhs; unfold State.drain
  dsimp only
  split
  · next h1 => cases h1.symm.trans ho
  · next h1 r1 h2 =>
    cases h2.symm.trans ho
    exact if_neg (by simp [hu, hr])

/-! ### Lanes (R376, R395) -/

theorem whenLane_up {s : State} {p : Port} {lane : Nat} {r : Option State} (hl : lane < 18) (h : (s.port p).up = true) :
    whenLane s p lane r = whenSome s r :=
  (if_neg (by omega)).trans (whenUp_up h)
theorem laneFails_idle {s : State} {p : Port} {lane : Nat} (hi : laneIdle (s.port p) lane = true) :
    s.laneFails p lane = if lane < 16 then s else s.setPort p (pended { s.port p with deadSpares := (s.port p).deadSpares ||| spareBit (lane - 16) }) :=
  if_pos hi
theorem laneFails_again {s : State} {p : Port} {lane : Nat} (hi : laneIdle (s.port p) lane = false)
    (hf : (s.port p).failing.getLsbD lane = true) : s.laneFails p lane = s :=
  (if_neg (ne_true_of_eq_false hi)).trans (if_pos hf)
theorem laneFails_first {s : State} {p : Port} {lane : Nat} (hi : laneIdle (s.port p) lane = false)
    (hf : (s.port p).failing.getLsbD lane = false) :
    let y := pended { s.port p with failing := (s.port p).failing ||| lane18 lane }
    s.laneFails p lane = if y.pend || (s.port p).noauto then (s.setPort p y).lanePost p 3 5 else s.setPort p y :=
  (if_neg (ne_true_of_eq_false hi)).trans (if_neg (ne_true_of_eq_false hf))
/-- Both events of a lane that fails. -/
theorem exec_laneFails {s : State} {p : Port} {lane count : Nat} (hl : lane < 18) (hu : (s.port p).up = true) {ev : Instr}
    (hev : ev = .lossOfLock p lane ∨ (ev = .laneInterval p lane count ∧ 2 ^ (s.port p).thr.toNat < count)) :
    exec ev s = .next (s.laneFails p lane) := by
  obtain rfl | ⟨rfl, hc⟩ := hev
  · exact whenLane_up hl hu
  · exact (whenLane_up hl hu).trans (whenSome_some (congrArg some (if_pos hc)))
/-- What a lane that fails leaves, by what it carried. -/
theorem lane_fails {s : State} {port : Port} {lane count : Nat} (hl : lane < 18) (hu : (s.port port).up = true) {ev : Instr}
    (hev : ev = .lossOfLock port lane ∨ (ev = .laneInterval port lane count ∧ 2 ^ (s.port port).thr.toNat < count)) :
    let x := s.port port
    (laneIdle x lane = true → lane < 16 → exec ev s = .next s) ∧
    (laneIdle x lane = true → 16 ≤ lane → exec ev s = .next (s.setPort port (pended { x with deadSpares := x.deadSpares ||| spareBit (lane - 16) }))) ∧
    (laneIdle x lane = false → x.failing.getLsbD lane = true → exec ev s = .next s) ∧
    (laneIdle x lane = false → x.failing.getLsbD lane = false →
      let s1 := s.setPort port (pended { x with failing := x.failing ||| lane18 lane })
      ((s1.port port).pend = false → x.noauto = false → exec ev s = .next s1) ∧
      ((s1.port port).pend = true ∨ x.noauto = true → exec ev s = .next (s1.lanePost port 3 5))) := by
  intro x
  rw [exec_laneFails hl hu hev]
  refine ⟨fun hi h16 => ?_, fun hi h16 => ?_, fun hi hf => ?_, fun hi hf => ?_⟩
  · rw [laneFails_idle hi, if_pos h16]
  · rw [laneFails_idle hi, if_neg (by omega)]
  · rw [laneFails_again hi hf]
  · rw [laneFails_first hi hf]
    dsimp only
    rw [port_setPort]
    refine ⟨fun hp hn => ?_, fun hp => ?_⟩
    · exact congrArg Host.Outcome.next (if_neg (by rw [hp]; simpa using hn))
    · exact congrArg Host.Outcome.next (if_pos (by simpa using hp))

/-- Sparing, of a data lane or of a spare. -/
theorem spareLane_eq (s : State) (p : Port) (lane sp : Nat) : s.spareLane p lane sp = spared s p lane sp := by
  unfold State.spareLane spared PortState.idle
  dsimp only
  by_cases h : lane < 16
  · rw [if_pos h, if_pos h, if_pos h]
    rfl
  · rw [if_neg h, if_neg h, if_neg h]
    rfl
section Lane
variable {s : State} {p : Port} {lane : Nat} (hl : lane < 18) (hu : (s.port p).up = true)
include hl hu
theorem laneSpare_taken {sp : Nat} (hf : (s.port p).failing.getLsbD lane = true) (hn : (s.port p).noauto = false)
    (hs : freeSpare (s.port p) = some sp) : exec (.laneSpare p lane) s = .next (spared s p lane sp) := by
  refine (whenLane_up hl hu).trans (whenSome_some ?_)
  unfold laneSpare?
  dsimp only
  rw [hf, hn, hs]
  exact congrArg some (spareLane_eq s p lane sp)
theorem laneSpare_none (h : (s.port p).failing.getLsbD lane = false ∨ (s.port p).noauto = true ∨ freeSpare (s.port p) = none) :
    exec (.laneSpare p lane) s = .next s := by
  refine (whenLane_up hl hu).trans (whenSome_none ?_)
  unfold laneSpare?
  dsimp only
  split
  · next hc =>
    obtain h | h | h := h
    · simp only [h, Bool.false_and, Bool.false_eq_true] at hc
    · simp only [h, Bool.not_true, Bool.and_false, Bool.false_eq_true] at hc
    · rw [h] <;> rfl
  · rfl
end Lane

/-! ### Ports (R376, R395) -/

section Up
variable {s : State} {port : Port} (hu : (s.port port).up = true)
include hu
theorem halfWidth_retrains (hp : (s.port port).pend = true) (hh : healthyLanes (s.port port) ≥ 8) : exec (.halfWidthRetrain port) s =
    .next (((s.setPort port (pended { (s.port port).idleAll with half := true })).lanePost port 3 6).resend port) :=
  (whenUp_up hu).trans (whenSome_some (if_pos (by simp [hp, hh])))
theorem halfWidth_none (h : (s.port port).pend = false ∨ healthyLanes (s.port port) < 8) : exec (.halfWidthRetrain port) s = .next s := by
  refine (whenUp_up hu).trans (whenSome_none (if_neg ?_))
  obtain h | h := h
  · simp [h]
  · simp [h]
theorem portDown_goes (hh : healthyLanes (s.port port) < 8) :
    let s1 := (s.setPort port (pended { (s.port port).idleAll with up := false, locked := true, out := [], replay := [] })).lanePost port 4 7
    exec (.portDown port) s = .next (({ s1 with abortDue := s1.stepMasks.foldl setAdd s1.abortDue } : State).refuseBeyond port) :=
  (whenUp_up hu).trans (whenSome_some (if_pos hh))
theorem portDown_none (hh : healthyLanes (s.port port) ≥ 8) : exec (.portDown port) s = .next s :=
  (whenUp_up hu).trans (whenSome_none (if_neg (by omega)))
end Up

theorem portTrained_ends {s : State} {port : Port} (hu : (s.port port).up = false) (hl : (s.port port).locked = false) (hr : Running s) :
    exec (.portTrained port) s = .next ((s.setPort port (freshPort (s.port port))).drain port false (s.port port).out.length) := by
  refine whenSome_some (if_neg ?_)
  rw [hu, hl]
  obtain h | h := hr <;> simp [h]
theorem portTrained_locked {s : State} {port : Port} (hl : (s.port port).locked = true) : exec (.portTrained port) s = .next s :=
  whenSome_none (if_pos (by simp [hl]))

/-! ### Port control (R376) -/

section Control
variable {s : State} {port : Port} {v : Word}
/-- The port with the fields that a write of its control register gives. -/
def controlled (s : State) (port : Port) (v : Word) : State :=
  s.setPort port { s.port port with
    thr := if 4 ≤ fld v 0 5 ∧ fld v 0 5 ≤ 24 then BitVec.ofNat 5 (fld v 0 5) else (s.port port).thr, noauto := v.getLsbD 5 }
theorem lkctl_plain (h : v.getLsbD 6 = false ∨ freeSpare (s.port port) = none ∨ (s.port port).failed.getLsbD (fld v 7 4) = true ∨
    (s.port port).up = false) : exec (.lkctlForce port v) s = .next (controlled s port v) := by
  refine congrArg Host.Outcome.next ?_
  unfold State.writeLkctl
  dsimp only
  split
  · next sp hs =>
    refine if_neg ?_
    obtain h | h | h | h := h
    · rw [h]
      exact Bool.false_ne_true
    · cases h.symm.trans hs
    · simp [h]
    · simp [h]
  · rfl
theorem lkctl_spares {sp : Nat} (hv : v.getLsbD 6 = true) (hs : freeSpare (s.port port) = some sp)
    (hf : (s.port port).failed.getLsbD (fld v 7 4) = false) (hu : (s.port port).up = true) :
    exec (.lkctlForce port v) s = .next (spared (controlled s port v) port (fld v 7 4) sp) := by
  refine congrArg Host.Outcome.next ?_
  unfold State.writeLkctl
  dsimp only
  split
  · next sp' hs' =>
    cases hs'.symm.trans hs
    exact (if_pos (by rw [hv, hf, hu]; rfl)).trans (spareLane_eq _ port _ sp)
  · next hs' => cases hs'.symm.trans hs
end Control

/-- Settles O51. -/
theorem flitsLanesAndPorts : Obligations.FlitsLanesAndPorts := by
  unfold Obligations.FlitsLanesAndPorts
  refine ⟨⟨?_, ?_, ?_, ?_⟩, ?_, ?_, ?_, ?_, ?_⟩
  · intro port flit s hl hu hok x s1 slots
    have h := flit_taken hl hu hok
    exact ⟨fun hd => h.trans (whenSome_some (if_pos hd)), fun hd => h.trans (whenSome_some (if_neg hd)), flitNak_taken hl hu hok⟩
  · intro port flit s hl hu hok x s1
    exact ⟨flit_discarded hl hu hok, flitNak_goes hl hu hok⟩
  · intro port d s x s1
    exact ⟨takeAck_plain, takeAck_resends⟩
  · intro port nak n s x
    exact ⟨drain_keeps, fun h r ho hu hr => drain_sends_flit ho hu hr⟩
  · intro port lane count s hl hu x
    exact ⟨fun hc => (whenLane_up hl hu).trans (whenSome_some (congrArg some (if_neg (Nat.not_lt.2 hc)))), fun ev hev => lane_fails hl hu hev⟩
  · intro port lane s hl hu x
    exact ⟨fun sp hf hn hs => laneSpare_taken hl hu hf hn hs, laneSpare_none hl hu⟩
  · intro port s hu x
    exact ⟨halfWidth_retrains hu, halfWidth_none hu, portDown_goes hu, portDown_none hu⟩
  · exact fun port s => ⟨portTrained_ends, portTrained_locked⟩
  · intro port v s x lane s1
    exact ⟨lkctl_plain, fun sp hv hs hf hu => lkctl_spares hv hs hf hu⟩

end Sys2Proof.Proofs.PortEvents
end

section
/-! SUPPORT. O52: the league's control register and the distribution of time. O53: where an abort's clear does not take. -/

namespace Sys2Proof.Proofs.LeagueTime
open Sys2Proof Sys2Proof.Machine Sys2Proof.Claims Sys2Proof.Proofs.BundleEvents

theorem next_of_eq {s t : State} (h : s = t) : (Host.Outcome.next s : Out) = .next t := congrArg _ h

/-! ### League control (R373) -/

theorem lgctl_enabled {s : State} {v : Word} (h : s.lgEn = true) : exec (.lgctlWrite v) s =
    .next (if v.getLsbD 0 then s else { s.clearSteps with lgEn := false, rel := { s.rel with strangers := [] } }) :=
  next_of_eq (if_pos h)
theorem lgctl_disabled {s : State} {v : Word} (h : s.lgEn = false) : exec (.lgctlWrite v) s =
    .next (if !(v.getLsbD 0) then s.leagueFields v else if s.leagueOk v then
      { (s.leagueFields v).clearSteps with
        lgEn := true, rel := { s.rel with strangers := [] }, east := { s.east with locked := false }, west := { s.west with locked := false } }
      else s) :=
  next_of_eq (if_neg (ne_true_of_eq_false h))
/-- Steps and views are 0 again (R237). -/
theorem clearSteps_groups (s : State) : ∀ g ∈ s.clearSteps.groups, g.2.own = 0 ∧ g.2.views = [] := by
  intro g hg
  obtain ⟨x, -, hx⟩ := List.mem_filterMap.1 hg
  split at hx
  · cases hx
    exact ⟨rfl, rfl⟩
  · cases hx
theorem lgctl_enables {s : State} {v : Word} (h : s.lgEn = false) (hv : v.getLsbD 0 = true) (hok : s.leagueOk v = true) :
    ∃ t, exec (.lgctlWrite v) s = .next t ∧ t.lgEn = true ∧ t.lgPos = v.extractLsb' 1 3 ∧ t.lgNm1 = v.extractLsb' 4 3 ∧
      t.east = { s.east with locked := false } ∧ t.west = { s.west with locked := false } ∧ (∀ g ∈ t.groups, g.2.own = 0 ∧ g.2.views = []) :=
  ⟨_, (lgctl_disabled h).trans (next_of_eq ((if_neg (by rw [hv]; decide)).trans (if_pos hok))), rfl, rfl, rfl, rfl, rfl,
    clearSteps_groups (s.leagueFields v)⟩

/-! ### TIME messages (R381) -/

theorem stamped_leaves {l : List RingSlot} {t came now : Nat} {x : RingSlot} (h : x ∈ l.map (fun y => { y with stamp := some (t, came) })) :
    x.leave now = (msgSlots (.time (t + (now - came)))).headD x.bytes := by
  obtain ⟨y, -, rfl⟩ := List.mem_map.1 h
  rfl
theorem timeSend_due {s : State} (hm : s.isTimeMaster = true) (hd : ∀ t, s.timeSentAt = some t → t + 125000 ≤ s.time) :
    exec .timeSend s = .next ((({ s with timeSentAt := some s.time } : State).sendTime .east s.time).sendTime .west s.time) := by
  refine whenSome_some ?_
  unfold timeSend?
  dsimp only
  rw [hm]
  split
  · next t ht => exact if_pos (decide_eq_true (hd t ht))
  · rfl
theorem timeSend_early {s : State} (h : s.isTimeMaster = false ∨ (∃ t, s.timeSentAt = some t ∧ s.time < t + 125000)) :
    exec .timeSend s = .next s := by
  refine whenSome_none (if_neg ?_)
  obtain hm | ⟨t, ht, hlt⟩ := h
  · simp [hm]
  · have hn : ¬(t + timePeriod ≤ s.time) := Nat.not_le.2 hlt
    simp [ht, hn]
section Receive
variable {port : Port} {ns : Nat} {s : State} (he : s.lgEn = true) (hu : (s.port port).up = true)
include he hu
theorem timeReceive_master (hm : s.isTimeMaster = true) : exec (.timeReceive port ns) s = .next s :=
  whenSome_some ((if_neg (by simp [he, hu])).trans (if_pos hm))
theorem timeReceive_member (hm : s.isTimeMaster = false) :
    let t := ns + (s.port port).delay
    let s1 := s.setPort port { s.port port with timeAt := some s.time }
    let s2 := (if s.lastHop (otherPort port) then s1 else s1.sendTime (otherPort port) t).chooseSource
    exec (.timeReceive port ns) s = .next (if s2.source = .league && (s.timePort == port || !(s2.timeLive s.timePort)) then s2.discipline true t
      else s2) :=
  whenSome_some ((if_neg (by simp [he, hu])).trans (if_neg (ne_true_of_eq_false hm)))
end Receive

/-! ### Sources of time (R306, R307) -/

/-- A source that has gone is not chosen. -/
theorem bestSource_up (s : State) : s.sourceUp s.bestSource = true := by
  unfold State.bestSource
  split
  · split
    · assumption
    · rfl
  · split
    · assumption
    · split
      · assumption
      · split
        · assumption
        · rfl
theorem bestSource_ptp {s : State} (hp : s.slew.pinned = none) (hu : s.ptpUp = true) : s.bestSource = .ptp := by
  unfold State.bestSource
  rw [hp]
  exact if_pos hu
theorem bestSource_pps {s : State} (hp : s.slew.pinned = none) (hu : s.ptpUp = false) (hl : s.leagueTime = false) (hs : s.ppsSeen = true) :
    s.bestSource = .pps := by
  unfold State.bestSource
  rw [hp]
  exact (if_neg (ne_true_of_eq_false hu)).trans ((if_neg (ne_true_of_eq_false hl)).trans (if_pos hs))
/-- The source, and where it changes the base of its rate goes. -/
theorem chooseSource_eq (s : State) {x : TimeSource} (h : s.bestSource = x) :
    s.chooseSource = { s with source := x, slew := if s.source = x then s.slew else { s.slew with last := none } } := by
  unfold State.chooseSource
  rw [h]
  split
  · next hx =>
    rw [if_pos hx.symm, hx]
  · next hx => rw [if_neg (fun hs => hx hs.symm)]
theorem discipline_steps {s : State} {rated : Bool} {target : Nat} (h : s.timeLocked = false) : s.discipline rated target =
    { s with time := target, slew := { (if rated then s.slew.hears target else s.slew) with phase := 0 }
             ppsSec := if target % nsPerSec = 0 then target / nsPerSec + 1 else target / nsPerSec } :=
  if_neg (ne_true_of_eq_false h)
theorem discipline_slews {s : State} {rated : Bool} {target : Nat} (h : s.timeLocked = true) : s.discipline rated target =
    { s with slew := { (if rated then s.slew.hears target else s.slew) with phase := (target : Int) - s.time } } :=
  if_pos h

theorem timeSourceLoss_ends {s : State} (hs : s.source = .league) (hl : s.leagueTime = false) :
    exec .timeSourceLoss s = .next { s with slew := s.slew.lose, source := ({ s with slew := s.slew.lose } : State).bestSource } := by
  refine whenSome_some ((if_pos (by simp [hs, hl])).trans (congrArg some ?_))
  refine (chooseSource_eq _ rfl).trans ?_
  exact congrArg (fun d : Discipline => ({ s with slew := d, source := ({ s with slew := s.slew.lose } : State).bestSource } : State))
    (ite_self s.slew.lose)

/-- The state whose source is PTP. -/
def steered (s : State) : State :=
  { s with ptpUp := true, source := .ptp, slew := if s.source = .ptp then s.slew else { s.slew with last := none } }
/-- A message of PTP (R307). -/
theorem ptpMessage_eq {s : State} {ns : Nat} (hp : s.slew.pinned = none) : exec (.ptpMessage ns) s =
    .next ((steered s).discipline true ns) := by
  refine next_of_eq ?_
  rw [chooseSource_eq _ (bestSource_ptp (s := { s with ptpUp := true }) hp rfl)]
  exact if_pos rfl
theorem ptpSourceLoss_ends {s : State} (hu : s.ptpUp = true) : ∃ t, exec .ptpSourceLoss s = .next t ∧ t.ptpUp = false ∧ t.time = s.time ∧
    t.source ≠ .ptp ∧ (s.source = .ptp → t.slew = s.slew.lose) ∧
    (s.source ≠ .ptp → t.slew.rate = s.slew.rate ∧ t.slew.phase = s.slew.phase) := by
  let u : State := { s with ptpUp := false, slew := if s.source = .ptp then s.slew.lose else s.slew }
  have hb : u.bestSource ≠ .ptp := by
    intro h
    have := bestSource_up u
    rw [h] at this
    exact Bool.false_ne_true this
  refine ⟨_, whenSome_some ((if_pos hu).trans (congrArg some (chooseSource_eq u rfl))), rfl, rfl, hb, fun hs => ?_, fun hs => ?_⟩
  · have h1 : u.source ≠ u.bestSource := fun h => hb (h.symm.trans hs)
    have h2 : u.slew = s.slew.lose := if_pos hs
    dsimp only
    rw [if_neg h1, h2]
    rfl
  · have h2 : u.slew = s.slew := if_neg hs
    dsimp only
    rw [h2]
    split <;> exact ⟨rfl, rfl⟩

/-- An edge of the pulse per second, for each source that it finds (R307). -/
theorem ppsInEdge_ptp {s : State} (hp : s.slew.pinned = none) (hu : s.ptpUp = true) : exec .ppsInEdge s = .next { s with
    ppsSeen := true, source := .ptp, slew := if s.source = .ptp then s.slew else { s.slew with last := none } } := by
  refine next_of_eq ?_
  rw [chooseSource_eq _ (bestSource_ptp (s := { s with ppsSeen := true }) hp hu)]
  exact if_neg nofun
/-- The state whose source is the pulse per second. -/
def pulsed (s : State) : State :=
  { s with ppsSeen := true, source := .pps, slew := if s.source = .pps then s.slew else { s.slew with last := none } }
theorem ppsInEdge_pps {s : State} (hp : s.slew.pinned = none) (hu : s.ptpUp = false) (hl : s.leagueTime = false) : exec .ppsInEdge s =
    .next ((pulsed s).discipline false ((s.time + nsPerSec / 2) / nsPerSec * nsPerSec)) := by
  refine next_of_eq ?_
  rw [chooseSource_eq _ (bestSource_pps (s := { s with ppsSeen := true }) hp hu hl rfl)]
  exact if_pos rfl
theorem second_mod (n : Nat) : (n * nsPerSec) % nsPerSec = 0 ∧ n * nsPerSec / nsPerSec = n := by
  unfold nsPerSec
  omega
theorem ppsInEdge_steps {s : State} (hp : s.slew.pinned = none) (hu : s.ptpUp = false) (hl : s.leagueTime = false) (ht : s.timeLocked = false) :
    let second := (s.time + nsPerSec / 2) / nsPerSec * nsPerSec
    exec .ppsInEdge s = .next { s with
      ppsSeen := true, source := .pps, slew := { (if s.source = .pps then s.slew else { s.slew with last := none }) with phase := 0 }
      time := second, ppsSec := second / nsPerSec + 1 } := by
  rw [ppsInEdge_pps hp hu hl]
  refine next_of_eq ((discipline_steps (s := pulsed s) ht).trans ?_)
  rw [if_pos (second_mod _).1]
  rfl

theorem ppsOut_second {s : State} (hp : s.power ≠ .off) (hs : s.sec ≠ s.ppsSec) :
    exec .ppsOut s = .next { s with ppsSec := s.sec, outputs := s.outputs ++ [.pps (BitVec.ofNat 48 s.sec)] } :=
  whenSome_some (if_pos (by simp [hp, hs]))
theorem ppsOut_none {s : State} (hs : s.sec = s.ppsSec) : exec .ppsOut s = .next s := whenSome_none (if_neg (by simp [hs]))

/-- Settles O52. -/
theorem leagueControlAndTime : Obligations.LeagueControlAndTime := by
  unfold Obligations.LeagueControlAndTime
  refine ⟨?_, ?_, fun s => ⟨timeSend_due, timeSend_early⟩, ?_, fun s => timeSourceLoss_ends, ?_, ?_, ?_, fun s => ptpSourceLoss_ends, ?_, ?_⟩
  · intro v s
    refine ⟨fun h hv => (lgctl_enabled h).trans (next_of_eq (if_pos hv)),
      fun h hv => (lgctl_enabled h).trans (next_of_eq (if_neg (ne_true_of_eq_false hv))),
      fun h hv => (lgctl_disabled h).trans (next_of_eq (if_pos (by rw [hv]; rfl))), fun h hv hok => ?_, lgctl_enables⟩
    exact (lgctl_disabled h).trans (next_of_eq ((if_neg (by rw [hv]; decide)).trans (if_neg (ne_true_of_eq_false hok))))
  · intro s p t slots
    exact ⟨rfl, fun x hx now => stamped_leaves hx⟩
  · intro port ns s he hu
    refine ⟨timeReceive_master he hu, fun hm => ?_⟩
    refine (timeReceive_member he hu hm).trans (next_of_eq ?_)
    simp only [Bool.and_eq_true, Bool.or_eq_true, decide_eq_true_eq, beq_iff_eq, Bool.not_eq_true']
  · exact fun port rtt s hu => whenSome_some (if_pos hu)
  · intro port src stamp seq s
    exact ⟨rfl, rfl⟩
  · intro ns s hp w
    exact ⟨fun ht => (ptpMessage_eq hp).trans (next_of_eq (discipline_steps (s := steered s) ht)),
      fun ht => (ptpMessage_eq hp).trans (next_of_eq (discipline_slews (s := steered s) ht))⟩
  · intro s hp fresh second
    exact ⟨ppsInEdge_ptp hp, fun hu hl ht => ppsInEdge_steps hp hu hl ht,
      fun hu hl ht => (ppsInEdge_pps hp hu hl).trans (next_of_eq (discipline_slews (s := pulsed s) ht))⟩
  · exact fun s => ⟨ppsOut_second, ppsOut_none⟩

/-! ### An abort's clear over a table that is not in canonical form (R393) -/

/-- A state whose table of groups lists mask 0 twice, with LGABT of step 0 and mask 0. -/
def listedTwice : State := { groups := [(0, {}), (0, { own := 5 })], lgabtV := true }

/-- The clear removes the first entry of the mask, since the step and the views that it leaves there are 0, and the second entry is read. -/
theorem listedTwice_cleared : exec .lgabtClear listedTwice = .next listedTwice.clearAbort ∧ (listedTwice.clearAbort.group 0).own = 5 := ⟨rfl, rfl⟩

/-- Refutes O53: a group that is listed twice keeps its second entry, so its own step after LGABT's clear is not the agreed one. -/
theorem not_abortsAgreeOnAStep : ¬ Obligations.AbortsAgreeOnAStep := by
  unfold Obligations.AbortsAgreeOnAStep
  rintro ⟨-, -, -, -, -, hclear⟩
  obtain ⟨t, ht, -, hown, -⟩ := hclear listedTwice rfl
  obtain ⟨hexec, hfive⟩ := listedTwice_cleared
  cases hexec.symm.trans ht
  exact absurd (hfive.symm.trans hown) (by decide)

end Sys2Proof.Proofs.LeagueTime
end

section
/-! SUPPORT. O54: power states and operating points. O55: service pairs and firmware. O56: device registers. -/

namespace Sys2Proof.Proofs.PowerAndRegisters
open Sys2Proof Sys2Proof.Machine Sys2Proof.Claims Sys2Proof.Proofs.BundleEvents

theorem next_of_eq {s t : State} (h : s = t) : (Host.Outcome.next s : Out) = .next t := congrArg _ h
theorem up_of_running {s : State} (h : Running s) : s.up = true := by
  unfold State.up
  obtain h | h := h <;> rw [h] <;> rfl

/-! ### Operating points (R401, R403) -/

theorem request_power (s : State) (p : BitVec 3) : (s.request p).power = s.power := by
  unfold State.request State.beginChange
  split <;> rfl
theorem request_want (s : State) (p : BitVec 3) : (s.request p).want = p := by
  unfold State.request State.beginChange
  split <;> rfl
theorem request_throttledAt (s : State) (p : BitVec 3) : (s.request p).throttledAt = s.throttledAt := by
  unfold State.request State.beginChange
  split <;> rfl
theorem request_fields (s : State) (p : BitVec 3) : (s.request p).pin = s.pin ∧ (s.request p).optr = s.optr ∧ (s.request p).plim = s.plim := by
  unfold State.request State.beginChange
  split <;> exact ⟨rfl, rfl, rfl⟩
/-- No change follows one that ends at the point wanted. -/
theorem endChange_wanted {s : State} (h : s.want = s.opt) : s.endChange = { s with chg := none } := if_pos (by simp [h])
theorem chosenPoint_throttled {s : State} (h : s.power = .throttle) : s.chosenPoint = 0 := if_pos h
theorem chosenPoint_pinned {s : State} (h : s.power ≠ .throttle) (hp : s.pin = true) : s.chosenPoint = s.optr := (if_neg h).trans (if_pos hp)
theorem chosenPoint_le {s : State} (h : s.power ≠ .throttle) (hp : s.pin = false) : s.chosenPoint.toNat ≤ s.optr.toNat := by
  have he : s.chosenPoint = BitVec.ofNat 3 ((Config.freeWord (s.fv + 50)).toNat % (s.optr.toNat + 1)) :=
    (if_neg h).trans (if_neg (ne_true_of_eq_false hp))
  have hlt := Nat.mod_lt (Config.freeWord (s.fv + 50)).toNat (Nat.succ_pos s.optr.toNat)
  rw [he, BitVec.toNat_ofNat]
  exact Nat.le_trans (Nat.mod_le _ _) (Nat.lt_succ_iff.1 hlt)

theorem pwrctl_ends (v : Word) (s : State) : ∃ t, exec (.pwrctlWrite v) s = .next t ∧ t.pin = v.getLsbD 3 ∧
    t.optr = (if fld v 0 3 ≤ 4 then BitVec.ofNat 3 (fld v 0 3) else s.optr) ∧
    t.plim = (if 100 ≤ fld v 16 9 ∧ fld v 16 9 ≤ 320 then BitVec.ofNat 9 (fld v 16 9) else s.plim) ∧
    (s.power = .throttle → t.want = 0) ∧ (s.power ≠ .throttle → v.getLsbD 3 = true → t.want = t.optr) ∧
    (s.power ≠ .throttle → v.getLsbD 3 = false → t.want.toNat ≤ t.optr.toNat) := by
  let s1 : State := { s with
    optr := if fld v 0 3 ≤ 4 then BitVec.ofNat 3 (fld v 0 3) else s.optr
    pin := v.getLsbD 3
    plim := if 100 ≤ fld v 16 9 ∧ fld v 16 9 ≤ 320 then BitVec.ofNat 9 (fld v 16 9) else s.plim }
  obtain ⟨hpin, hoptr, hplim⟩ := request_fields s1 s1.chosenPoint
  refine ⟨s1.request s1.chosenPoint, rfl, hpin, hoptr, hplim, fun h => ?_, fun h hp => ?_, fun h hp => ?_⟩
  · exact (request_want _ _).trans (chosenPoint_throttled (s := s1) h)
  · exact (request_want _ _).trans ((chosenPoint_pinned (s := s1) h hp).trans hoptr.symm)
  · rw [request_want, hoptr]
    exact chosenPoint_le (s := s1) h hp

section Slew
variable {s : State} {p : BitVec 3} (hc : s.chg = some p) (hr : Running s) (hs : s.clockStopped = false) (hv : s.vcoreMv ≠ vcoreOf p)
include hc hr hs hv
theorem vcoreSlewDone_eq : vcoreSlewDone? s = if p = s.opt then some ({ s with vcoreMv := vcoreOf p } : State).endChange
    else if s.stopDue then none else some { s with vcoreMv := vcoreOf p } := by
  unfold vcoreSlewDone?
  rw [hc]
  exact if_neg (by simp [hs, hv, up_of_running hr])
omit hr hs in
theorem stopDue_iff : s.stopDue = true ↔ p.toNat < s.opt.toNat := by
  unfold State.stopDue
  rw [hc]
  simp only [Bool.and_eq_true, bne_iff_ne, ne_eq, Bool.or_eq_true, decide_eq_true_eq, beq_iff_eq, hv, or_false, and_iff_right_iff_imp]
  rintro hlt rfl
  exact Nat.lt_irrefl _ hlt
theorem slew_upward (h : s.opt.toNat < p.toNat) : exec .vcoreSlewDone s = .next { s with vcoreMv := vcoreOf p } := by
  have hp : p ≠ s.opt := by rintro rfl; exact Nat.lt_irrefl _ h
  exact whenSome_some ((vcoreSlewDone_eq hc hr hs hv).trans ((if_neg hp).trans
    (if_neg (fun hd => Nat.lt_asymm h ((stopDue_iff hc hv).1 hd)))))
theorem slew_downward (h : p.toNat < s.opt.toNat) : exec .vcoreSlewDone s = .next s := by
  have hp : p ≠ s.opt := by rintro rfl; exact Nat.lt_irrefl _ h
  exact whenSome_none ((vcoreSlewDone_eq hc hr hs hv).trans ((if_neg hp).trans (if_pos ((stopDue_iff hc hv).2 h))))
theorem slew_ends (h : p = s.opt) (hw : s.want = s.opt) : exec .vcoreSlewDone s = .next { s with vcoreMv := vcoreOf p, chg := none } :=
  whenSome_some ((vcoreSlewDone_eq hc hr hs hv).trans ((if_pos h).trans
    (congrArg some (endChange_wanted (s := { s with vcoreMv := vcoreOf p }) hw))))
end Slew
section Restart
variable {s : State} {p : BitVec 3} (hc : s.chg = some p) (hr : Running s) (hs : s.clockStopped = true)
include hc hr hs
theorem clockRestart_eq : clockRestart? s = some (if s.vcoreMv = vcoreOf p then ({ s with opt := p, clockStopped := false } : State).endChange
    else { s with opt := p, clockStopped := false }) := by
  unfold clockRestart?
  rw [hc]
  exact if_neg (by simp [hs, up_of_running hr])
theorem restart_below (hv : s.vcoreMv ≠ vcoreOf p) : exec .clockRestart s = .next { s with opt := p, clockStopped := false } :=
  whenSome_some ((clockRestart_eq hc hr hs).trans (congrArg some (if_neg hv)))
theorem restart_ends (hv : s.vcoreMv = vcoreOf p) (hw : s.want = p) :
    exec .clockRestart s = .next { s with opt := p, clockStopped := false, chg := none } :=
  whenSome_some ((clockRestart_eq hc hr hs).trans (congrArg some ((if_pos hv).trans
    (endChange_wanted (s := { s with opt := p, clockStopped := false }) hw))))
end Restart

/-! ### Power states (R402) -/

section States
variable {s : State}
theorem throttle_entered (hp : s.power = .on) (hot : 105 * 8 ≤ s.tj.toNat ∨ s.plim.toNat < s.pwr.toNat) :
    ∃ t, exec .throttleEntry s = .next t ∧ t.power = .throttle ∧ t.want = 0 ∧ t.throttledAt = s.time :=
  ⟨_, whenSome_some (if_pos (by simpa [hp] using hot)), request_power _ _, request_want _ _, request_throttledAt _ _⟩
theorem throttle_notEntered (hot : ¬(105 * 8 ≤ s.tj.toNat ∨ s.plim.toNat < s.pwr.toNat)) : exec .throttleEntry s = .next s :=
  whenSome_none (if_neg (by simpa using fun _ => by simpa using hot))
theorem tooHot_iff : s.tooHot = true ↔ ¬(s.tj.toNat < 100 * 8 ∧ s.pwr.toNat < s.plim.toNat) := by
  unfold State.tooHot
  rw [Bool.or_eq_true, decide_eq_true_iff, decide_eq_true_iff]
  omega
theorem throttle_left (hp : s.power = .throttle) (hc : s.tj.toNat < 100 * 8 ∧ s.pwr.toNat < s.plim.toNat)
    (ht : s.throttledAt + 10000000 ≤ s.time) : ∃ t, exec .throttleExit s = .next t ∧ t.power = .on ∧ t.want = s.optr := by
  have hcool : s.tooHot = false := Bool.eq_false_iff.2 (fun h => tooHot_iff.1 h hc)
  exact ⟨_, whenSome_some (if_pos (by simp [hp, hcool, throttleNs, ht])), request_power _ _, request_want _ _⟩
theorem throttle_kept (h : ¬(s.tj.toNat < 100 * 8 ∧ s.pwr.toNat < s.plim.toNat) ∨ s.time < s.throttledAt + 10000000) :
    exec .throttleExit s = .next s := by
  refine whenSome_none (if_neg ?_)
  obtain h | h := h
  · simp [tooHot_iff.2 h]
  · have hn : ¬(s.throttledAt + throttleNs ≤ s.time) := Nat.not_le.2 h
    simp [hn]
theorem trip_taken (hr : Running s) (ht : 115 * 8 ≤ s.tj.toNat ∨ 105 * 8 ≤ s.tmem.toNat) :
    ∃ t, exec .thermalTrip s = .next t ∧ t.power = .trip ∧ t.clockStopped = true ∧ t.outputs = s.outputs ++ [.thermtrip] :=
  ⟨_, whenSome_some (if_pos (by simpa [up_of_running hr] using ht)), rfl, rfl, rfl⟩
theorem trip_notTaken (ht : ¬(115 * 8 ≤ s.tj.toNat ∨ 105 * 8 ≤ s.tmem.toNat)) : exec .thermalTrip s = .next s :=
  whenSome_none (if_neg (by simpa using fun _ => by simpa using ht))
end States

/-- Settles O54. -/
theorem powerAndClock : Obligations.PowerAndClock := by
  unfold Obligations.PowerAndClock
  refine ⟨fun s hp => ⟨s.turnOff, whenSome_some (if_neg hp), rfl, rfl, rfl, rfl, rfl, rfl⟩, ?_, pwrctl_ends, ?_, ?_⟩
  · intro s hot cool trips
    exact ⟨throttle_entered, throttle_notEntered, throttle_left, throttle_kept, trip_taken, trip_notTaken⟩
  · exact fun s p hc hr hs hv => ⟨slew_upward hc hr hs hv, slew_downward hc hr hs hv, slew_ends hc hr hs hv⟩
  · exact fun s p hc hr hs => ⟨restart_below hc hr hs, restart_ends hc hr hs⟩

/-! ### Service pairs (R396, R397) -/

theorem lockstep_eq {pair : Nat} {s : State} (hp : pair < 4) (hr : Running s) (hh : s.healthy.getLsbD pair = true) :
    let s1 := ({ s with healthy := s.healthy &&& ~~~(pairBit pair) } : State).postError { cls := 3, ukind := 9, unit := pair, evt := 8 }
    exec (.lockstepMismatch pair) s = .next (if s1.healthy = 0 then s1.postError { cls := 5, ukind := 9, unit := pair, evt := 8 } else s1) :=
  (if_neg (by omega)).trans (whenSome_some (if_neg (by simp [up_of_running hr, hh])))
theorem leaderRuns_running {s : State} (hr : Running s) (hf : s.fwState = 1) : s.running = true := by
  unfold State.running
  rw [up_of_running hr, hf]
  rfl
/-- Another healthy pair is there, or none is (R396). -/
theorem lowestHealthy_isSome {h : BitVec 4} {old : Nat} :
    (lowestHealthy h (some old)).isSome = true ↔ ∃ p < 4, h.getLsbD p = true ∧ p ≠ old := by
  unfold lowestHealthy
  rw [List.find?_isSome]
  constructor
  · rintro ⟨p, hp, hq⟩
    simp only [Bool.and_eq_true, bne_iff_ne, ne_eq, Option.some.injEq] at hq
    exact ⟨p, List.mem_range.1 hp, hq.1, fun h => hq.2 h.symm⟩
  · rintro ⟨p, hp, hh, hne⟩
    exact ⟨p, List.mem_range.2 hp, by simpa [hh] using fun h => hne h.symm⟩
theorem lowestHealthy_none {h : BitVec 4} {old : Nat} (ha : ∀ p < 4, h.getLsbD p = true → p = old) : lowestHealthy h (some old) = none := by
  rw [← Option.not_isSome_iff_eq_none, lowestHealthy_isSome]
  rintro ⟨p, hp, hh, hne⟩
  exact hne (ha p hp hh)

section Takeover
variable {s : State} (hr : Running s) (hf : s.fwState = 1) (hh : s.healthy ≠ 0) (ht : s.tkover = false)
  (hl : s.hbAt + s.hbmiss.toNat * 1000000 ≤ s.time)
include hr hf hh ht hl
theorem takeover_eq : takeover? s = if (lowestHealthy s.healthy (some s.leader.toNat)).isSome then some { s with tkover := true }
    else some (({ s with healthy := 0, hbAt := s.time } : State).postError { cls := 5, ukind := 9, unit := s.leader.toNat, evt := 9 }) := by
  have hlost : s.heartbeatLost = true := decide_eq_true hl
  exact (if_neg (ne_true_of_eq_false ht)).trans (if_neg (by simp [leaderRuns_running hr hf, show ¬s.healthy = 0#4 from hh, hlost]))
theorem takeover_first (ho : ∃ p < 4, s.healthy.getLsbD p = true ∧ p ≠ s.leader.toNat) : exec .takeover s = .next { s with tkover := true } :=
  whenSome_some ((takeover_eq hr hf hh ht hl).trans (if_pos (lowestHealthy_isSome.2 ho)))
theorem takeover_alone (ho : ∀ p < 4, s.healthy.getLsbD p = true → p = s.leader.toNat) : exec .takeover s =
    .next (({ s with healthy := 0, hbAt := s.time } : State).postError { cls := 5, ukind := 9, unit := s.leader.toNat, evt := 9 }) :=
  whenSome_some ((takeover_eq hr hf hh ht hl).trans (if_neg (by rw [lowestHealthy_none ho]; exact Bool.false_ne_true)))
end Takeover
/-- The pairs after the old leader's has been reset. -/
def relieved (s : State) : State := { s with healthy := s.healthy &&& ~~~(pairBit s.leader.toNat), hbAt := s.time, tkover := false }
theorem takeover_second {s : State} (ht : s.tkover = true) {p : Nat} (hp : lowestHealthy s.healthy (some s.leader.toNat) = some p) :
    exec .takeover s =
      .next (({ relieved s with leader := BitVec.ofNat 2 p } : State).postError { cls := 3, ukind := 9, unit := p, evt := 10 }) := by
  refine whenSome_some ((if_pos ht).trans (congrArg some ?_))
  split
  · next q hq =>
    cases hq.symm.trans hp
    rfl
  · next hq => cases hq.symm.trans hp
theorem takeover_nobody {s : State} (ht : s.tkover = true) (ho : ∀ p < 4, s.healthy.getLsbD p = true → p = s.leader.toNat) :
    exec .takeover s = .next ((relieved s).postError { cls := 5, ukind := 9, unit := s.leader.toNat, evt := 9 }) := by
  refine whenSome_some ((if_pos ht).trans (congrArg some ?_))
  split
  · next q hq => cases hq.symm.trans (lowestHealthy_none ho)
  · rfl

/-! ### Firmware (R398, R399) -/

/-- The first leader (R396). -/
theorem lowestHealthy_all : lowestHealthy 0xF none = some 0 := by decide
theorem reset_boots {s : State} (hp : s.power = .off) (hf : firmwareFail s.svnf s.flash = 0) :
    ∃ t, exec .resetNRelease s = .next t ∧ t.power = .on ∧ t.healthy = 0xF ∧ t.fwState = 1 ∧ t.fwFail = 0 ∧
      t.leader = 0 ∧ t.mehead = 0 ∧ t.metail = 0 ∧ t.fqhead = 0 ∧ t.fqtail = 0 ∧ t.l2 = [] ∧ t.hostL2 = [] ∧ t.poolL2 = [] :=
  ⟨_, whenSome_some ((if_pos hp).trans (congrArg some (if_pos hf))), rfl, rfl, rfl, rfl,
    congrArg (fun p : Option Nat => BitVec.ofNat 2 (p.getD 0)) lowestHealthy_all, rfl, rfl, rfl, rfl, rfl, rfl, rfl⟩
theorem reset_recovers {s : State} (hp : s.power = .off) (hf : firmwareFail s.svnf s.flash ≠ 0) : exec .resetNRelease s = .next (({ s with
    power := .on, healthy := 0xF, fwState := 2, fwFail := firmwareFail s.svnf s.flash } : State).postError
      { cls := 5, ukind := 10, unit := 0, evt := 12 }) :=
  whenSome_some ((if_pos hp).trans (congrArg some (if_neg hf)))
theorem fuse_advances {s : State} (hr : Running s) (hf : s.fwState = 1) (ha : s.fwAdvance = true) (hb : s.hbcnt ≠ 0)
    (hs : s.svnf.toNat < s.svni.toNat) : exec .fuseAdvance s = .next { s with svnf := s.svni } :=
  whenSome_some (if_pos (by simp [leaderRuns_running hr hf, ha, show ¬s.hbcnt = 0#64 from hb, hs]))
section Recovery
variable {image : List Byte} {s : State} (hr : Running s) (hf : s.fwState = 2)
include hr hf
theorem recovery_open : ¬(!(s.up && s.fwState == 2)) = true := by simp [up_of_running hr, hf]
theorem recovery_refuses (hi : firmwareFail s.svnf image ≠ 0) : exec (.recoveryImage image) s =
    .next (({ s with fwFail := 5 } : State).postError { cls := 5, ukind := 10, unit := 0, evt := 12 }) :=
  whenSome_some ((if_neg (recovery_open hr hf)).trans (if_neg hi))
theorem recovery_runs (hi : firmwareFail s.svnf image = 0) :
    ∃ t, exec (.recoveryImage image) s = .next t ∧ t.flash = image ∧ t.fwState = 1 ∧ t.fwFail = 0 :=
  ⟨_, whenSome_some ((if_neg (recovery_open hr hf)).trans (if_pos hi)), rfl, rfl, rfl⟩
end Recovery

/-- Settles O55. -/
theorem servicePairsAndFirmware : Obligations.ServicePairsAndFirmware := by
  unfold Obligations.ServicePairsAndFirmware
  refine ⟨?_, ?_, ?_, ?_, fun s hp => ⟨reset_boots hp, reset_recovers hp⟩, fun s hr hf ha hb hs => fuse_advances hr hf ha hb hs,
    fun image s hr hf => ⟨recovery_refuses hr hf, recovery_runs hr hf⟩⟩
  · intro pair s hp hr hh s1
    exact ⟨fun hn => (lockstep_eq hp hr hh).trans (next_of_eq (if_neg hn)), fun hz => (lockstep_eq hp hr hh).trans (next_of_eq (if_pos hz))⟩
  · exact fun s hl ht => whenSome_some (if_pos (by simp [hl, heartbeatNs, ht]))
  · exact fun s hr hf hh ht hl => ⟨takeover_first hr hf hh ht hl, takeover_alone hr hf hh ht hl⟩
  · exact fun s ht => ⟨fun p hp => takeover_second ht hp, takeover_nobody ht⟩

/-! ### Device registers (R7) -/

section Register
variable {pair : BitVec 2} {off : BitVec 16} {v : Word} {s t : State}
theorem register_discarded (hl : leaderOnly off.toNat = true) (hn : ¬(pair = s.leader ∧ s.healthy.getLsbD s.leader.toNat = true)) :
    exec (.registerWrite ⟨pair, off⟩ v) s = .next s := by
  refine if_pos ?_
  simp only [hl, Bool.true_and, Bool.not_eq_true', Bool.and_eq_false_imp, beq_iff_eq]
  exact fun hp => Bool.eq_false_iff.2 (fun hh => hn ⟨hp, hh⟩)
theorem register_written (hw : s.writeReg off.toNat v = some t) (hl : leaderOnly off.toNat = false) :
    exec (.registerWrite ⟨pair, off⟩ v) s = .next t := by
  refine (if_neg (by simp [hl])).trans ?_
  dsimp only
  rw [hw]
theorem register_led (hw : s.writeReg off.toNat v = some t) (hl : pair = s.leader ∧ s.healthy.getLsbD s.leader.toNat = true) :
    exec (.registerWrite ⟨pair, off⟩ v) s = .next t := by
  refine (if_neg (by simp [hl.1, hl.2])).trans ?_
  dsimp only
  rw [hw]
/-- Where no register reads, none is written. -/
theorem writeReg_none {n : Nat} (h : s.readReg n = none) : s.writeReg n v = none ∧ leaderOnly n = false := by
  unfold State.readReg at h
  split at h
  · cases h
  · next ha =>
    obtain ⟨hlow, hhigh⟩ : s.readLow n = none ∧ s.readHigh n = none := by
      cases hl : s.readLow n with
      | some x => rw [hl] at h; cases h
      | none => cases hh : s.readHigh n with
        | some x => rw [hl, hh] at h; cases h
        | none => exact ⟨rfl, rfl⟩
    have h1 : writeTranslation n v s = none := by
      unfold writeTranslation
      split
      rotate_right
      · rfl
      all_goals cases hlow
    have h2 : writeLeague n v s = none := by
      unfold writeLeague
      split
      rotate_right
      · rfl
      all_goals cases hlow
    have h3 : writeErrors n v s = none := by
      unfold writeErrors
      split
      rotate_right
      · rfl
      all_goals cases hhigh
    have h4 : writeHostEvent n v s = none := by
      unfold writeHostEvent
      split
      rotate_right
      · rfl
      all_goals cases hhigh
    refine ⟨?_, ?_⟩
    · unfold State.writeReg
      rw [ha, h1, h2, h3, h4] <;> rfl
    · rw [Bool.eq_false_iff]
      intro hl
      simp only [leaderOnly, Bool.or_eq_true, beq_iff_eq] at hl
      obtain (rfl | rfl) | rfl := hl <;> cases hlow
theorem register_faults (h : s.readReg off.toNat = none) : exec (.registerWrite ⟨pair, off⟩ v) s = .fault .badArgument := by
  obtain ⟨hw, hl⟩ := writeReg_none (v := v) h
  refine (if_neg (by simp [hl])).trans ?_
  dsimp only
  rw [hw]
theorem register_readOnly (h : off.toNat ∈ readOnlyRegs) : exec (.registerWrite ⟨pair, off⟩ v) s = .next s := by
  have hb : s.writeReg off.toNat v = some s ∧ leaderOnly off.toNat = false := by
    simp only [readOnlyRegs, List.mem_cons, List.not_mem_nil, or_false] at h
    rcases h with h | h | h | h | h | h | h | h | h | h | h | h | h <;> rw [h] <;> exact ⟨rfl, rfl⟩
  exact register_written hb.1 hb.2
/-- A slot of the aperture (R357). -/
theorem register_apslot {k : Nat} (hk : k < 16) : exec (.registerWrite ⟨pair, BitVec.ofNat 16 (0x100 + 8 * k)⟩ v) s =
    .next { s with apslot := tabSet s.apslot 0 k (v &&& ~~~(0xFFFE00000 : Word)) } := by
  have hoff : (BitVec.ofNat 16 (0x100 + 8 * k)).toNat = 0x100 + 8 * k := by
    rw [BitVec.toNat_ofNat]
    omega
  have ha : apslotOf (0x100 + 8 * k) = some k := (if_pos (by omega)).trans (congrArg some (by omega))
  refine register_written ?_ ?_
  · unfold State.writeReg
    rw [hoff, ha]
    rfl
  · rw [hoff]
    simp only [leaderOnly, Bool.or_eq_false_iff, beq_eq_false_iff_ne]
    omega
end Register

/-- A four-bit field of a write. -/
theorem low4_toNat (v : Word) : (v &&& 0xF).toNat = fld v 0 4 := by
  unfold fld
  rw [BitVec.toNat_and, BitVec.extractLsb'_toNat, Nat.shiftRight_zero]
  exact Nat.and_two_pow_sub_one_eq_mod v.toNat 4
theorem ofNat_low4 (v : Word) : BitVec.ofNat 4 (fld v 0 4) = v.extractLsb' 0 4 := BitVec.ofNat_toNat _ _
theorem low4_lt (v : Word) : fld v 0 4 < 16 := (v.extractLsb' 0 4).isLt
/-- A field of four bits takes a value in its range, and keeps its own where the write's lies outside. -/
theorem keep4_in {lo hi : Nat} {v : Word} {x : BitVec 4} (h : lo ≤ fld v 0 4 ∧ fld v 0 4 ≤ hi) :
    BitVec.ofNat 4 (keepRange lo hi (v &&& 0xF) x.toNat) = v.extractLsb' 0 4 := by
  unfold keepRange
  rw [low4_toNat, if_pos h, ofNat_low4]
theorem keep4_out {lo hi : Nat} {v : Word} {x : BitVec 4} (h : ¬(lo ≤ fld v 0 4 ∧ fld v 0 4 ≤ hi)) :
    BitVec.ofNat 4 (keepRange lo hi (v &&& 0xF) x.toNat) = x := by
  unfold keepRange
  rw [low4_toNat, if_neg h, BitVec.ofNat_toNat, BitVec.setWidth_eq]

section Fields
variable {pair : BitVec 2} {v : Word} {s : State}
theorem write_hbmiss : exec (.registerWrite ⟨pair, 0x418⟩ v) s =
    .next { s with hbmiss := BitVec.ofNat 4 (keepRange 2 15 (v &&& 0xF) s.hbmiss.toNat) } := register_written rfl rfl
theorem write_hevsize : exec (.registerWrite ⟨pair, 0x1008⟩ v) s =
    .next { s with hevsize := BitVec.ofNat 4 (keepRange 4 12 (v &&& 0xF) s.hevsize.toNat) } := register_written rfl rfl
theorem write_lim : exec (.registerWrite ⟨pair, 0x040⟩ v) s =
    .next { s with lim := if fld v 0 4 = 0 then s.lim else v.extractLsb' 0 4 } := register_written rfl rfl
theorem write_league : exec (.registerWrite ⟨pair, 0x208⟩ v) s = .next (if s.lgEn then s else { s with lwpbase := v }) ∧
    exec (.registerWrite ⟨pair, 0x210⟩ v) s = .next (if s.lgEn then s else { s with lwsize := v }) ∧
    exec (.registerWrite ⟨pair, 0x218⟩ v) s = .next (if s.lgEn then s else { s with lmsize := v }) :=
  ⟨register_written rfl rfl, register_written rfl rfl, register_written rfl rfl⟩
theorem next_injective {x y : State} (h : (Host.Outcome.next x : Out) = .next y) : x = y := by cases h; rfl
/-- The answers that a write of FRESP gives (R353). -/
theorem writeFresp_retry {t : State} (h : fld v 32 2 = 0) (ht : exec (.frespResolve (v.setWidth 32)) s = .next t) : s.writeFresp v = t := by
  unfold State.writeFresp
  rw [h]
  exact next_injective ht
theorem writeFresp_deliver {t : State} (h : fld v 32 2 = 1) (ht : exec (.frespDeliver (v.setWidth 32)) s = .next t) : s.writeFresp v = t := by
  unfold State.writeFresp
  rw [h]
  exact next_injective ht
theorem writeFresp_ignored (h : 2 ≤ fld v 32 2) : s.writeFresp v = s := by
  unfold State.writeFresp
  split
  · next h0 => omega
  · next h1 => omega
  · rfl
theorem write_lgabt : exec (.registerWrite ⟨pair, 0x330⟩ v) s = .next (if v.getLsbD 59 && s.lgabtV then s.clearAbort else s) :=
  register_written rfl rfl
end Fields

/-- Settles O56. -/
theorem deviceRegisterWrites : Obligations.DeviceRegisterWrites := by
  unfold Obligations.DeviceRegisterWrites
  intro pair v s ends leads
  obtain ⟨hpb, hsize, hmsize⟩ := write_league (pair := pair) (v := v) (s := s)
  refine ⟨fun hn => ⟨register_discarded rfl hn, register_discarded rfl hn, register_discarded rfl hn⟩,
    fun hl => ⟨register_led rfl hl, register_led rfl hl, ?_, ?_, ?_⟩, fun off => register_readOnly, fun off => register_faults,
    register_written rfl rfl, register_written rfl rfl, register_written rfl rfl, register_written rfl rfl, ?_, ?_, fun k hk => register_apslot hk,
    fun h => ⟨?_, ?_, ?_⟩, fun h => ⟨?_, ?_, ?_⟩, ?_, ?_, ?_, ?_, register_written rfl rfl, register_written rfl rfl, register_written rfl rfl,
    register_written rfl rfl, register_written rfl rfl, ?_, ?_, register_written rfl rfl, register_written rfl rfl, ?_, ?_,
    register_written rfl rfl, ?_, ?_, register_written rfl rfl, register_written rfl rfl⟩
  · exact fun h t ht => register_led (off := 0x030) (congrArg some (writeFresp_retry h ht)) hl
  · exact fun h t ht => register_led (off := 0x030) (congrArg some (writeFresp_deliver h ht)) hl
  · exact fun h => register_led (off := 0x030) (congrArg some (writeFresp_ignored h)) hl
  · exact fun h => write_lim.trans (next_of_eq (by rw [if_pos h]))
  · exact fun h => write_lim.trans (next_of_eq (by rw [if_neg h]))
  · exact hpb.trans (next_of_eq (if_neg (ne_true_of_eq_false h)))
  · exact hsize.trans (next_of_eq (if_neg (ne_true_of_eq_false h)))
  · exact hmsize.trans (next_of_eq (if_neg (ne_true_of_eq_false h)))
  · exact hpb.trans (next_of_eq (if_pos h))
  · exact hsize.trans (next_of_eq (if_pos h))
  · exact hmsize.trans (next_of_eq (if_pos h))
  · exact fun t ht => (register_written (off := 0x200) rfl rfl).trans ht
  · exact fun t ht => (register_written (off := 0x220) rfl rfl).trans ht
  · exact fun t ht => (register_written (off := 0x228) rfl rfl).trans ht
  · exact fun t ht => (register_written (off := 0x600) rfl rfl).trans ht
  · exact fun h => write_lgabt.trans (next_of_eq (if_neg (by rw [Bool.and_eq_true]; rintro ⟨h1, h2⟩; rw [h1, h2] at h; exact absurd h (by decide))))
  · exact fun hv hl t ht => (write_lgabt.trans (next_of_eq (if_pos (by rw [hv, hl]; rfl)))).trans ((whenSome_some (if_pos hl)).symm.trans ht)
  · exact fun h => write_hbmiss.trans (next_of_eq (by rw [keep4_in ⟨h, Nat.lt_succ_iff.1 (low4_lt v)⟩]))
  · exact fun h => write_hbmiss.trans (next_of_eq (by rw [keep4_out (fun hk => Nat.not_lt.2 hk.1 h)]))
  · exact fun h => write_hevsize.trans (next_of_eq (by rw [keep4_in h]))
  · exact fun h => write_hevsize.trans (next_of_eq (by rw [keep4_out h]))

end Sys2Proof.Proofs.PowerAndRegisters
end

section
/-! SUPPORT. The element-by-element vector instructions: the results of a list of elements, and one element of an integer format. -/
namespace Sys2Proof.Proofs.ElementwiseVectors
open Sys2Proof Sys2Proof.Machine Sys2Proof.Claims Sys2Proof.Proofs.IntegerResults Sys2Proof.Proofs.AccessesByAddress

/-! ### The results of a list of elements -/

theorem collect_values (rs : List (Option (Nat × Flags))) : (collect rs).1 = rs.map (Option.map Prod.fst) := by
  induction rs with
  | nil => rfl
  | cons r rs ih => cases r <;> simp [collect, ih]

theorem collect_flags (rs : List (Option (Nat × Flags))) (n : Nat) :
    (collect rs).2.getLsbD n = true ↔ ∃ x, some x ∈ rs ∧ x.2.getLsbD n = true := by
  induction rs with
  | nil => simp [collect]
  | cons r rs ih => cases r <;> simp [collect, -BitVec.getLsbD_eq_getElem, ih, or_and_right, exists_or]

/-- No element raises a flag where each raises none. -/
theorem collect_flags_zero {rs : List (Option (Nat × Flags))} (h : ∀ x, some x ∈ rs → x.2 = 0) : (collect rs).2 = 0 := by
  refine BitVec.eq_of_getLsbD_eq (fun n _ => Bool.eq_iff_iff.2 ((collect_flags rs n).trans ⟨?_, fun h0 => by simp at h0⟩))
  rintro ⟨x, hx, hn⟩
  rw [h x hx] at hn
  exact hn

/-! ### Elements side by side -/

theorem zip4_getElem? (ms : List Bool) (as bs cs : List Nat) (k : Nat) (y : Bool × Nat × Nat × Nat) :
    (zip4 ms as bs cs)[k]? = some y ↔ ms[k]? = some y.1 ∧ as[k]? = some y.2.1 ∧ bs[k]? = some y.2.2.1 ∧ cs[k]? = some y.2.2.2 := by
  induction ms generalizing as bs cs k with
  | nil => simp [zip4]
  | cons m ms ih =>
    match as, bs, cs with
    | [], _, _ => simp [zip4]
    | _ :: _, [], _ => simp [zip4]
    | _ :: _, _ :: _, [] => simp [zip4]
    | a :: as, b :: bs, c :: cs =>
      cases k with
      | zero => obtain ⟨y1, y2, y3, y4⟩ := y; simp [zip4]
      | succ k => simpa [zip4] using ih as bs cs k

/-- The results of the active elements `(mask, a, b, c)`; the others are kept. -/
def eachActive (g : Nat → Nat → Nat → Nat × Flags) (ms : List Bool) (as bs cs : List Nat) : List (Option (Nat × Flags)) :=
  (zip4 ms as bs cs).map (fun x => if x.1 then some (g x.2.1 x.2.2.1 x.2.2.2) else none)

theorem eachActive_value {g : Nat → Nat → Nat → Nat × Flags} {ms : List Bool} {as bs cs : List Nat} {k x y z : Nat} {m : Bool}
    (hm : ms[k]? = some m) (ha : as[k]? = some x) (hb : bs[k]? = some y) (hc : cs[k]? = some z) :
    (collect (eachActive g ms as bs cs)).1[k]? = some (if m then some (g x y z).1 else none) := by
  have hz := (zip4_getElem? ms as bs cs k (m, x, y, z)).2 ⟨hm, ha, hb, hc⟩
  rw [collect_values, eachActive, List.getElem?_map, List.getElem?_map, hz]
  cases m <;> rfl

theorem eachActive_flags (g : Nat → Nat → Nat → Nat × Flags) (ms : List Bool) (as bs cs : List Nat) (n : Nat) :
    (collect (eachActive g ms as bs cs)).2.getLsbD n = true ↔ ∃ k x y z : Nat, ms[k]? = some true ∧ as[k]? = some x ∧ bs[k]? = some y ∧
      cs[k]? = some z ∧ (g x y z).2.getLsbD n = true := by
  rw [collect_flags]
  constructor
  · rintro ⟨r, hr, hn⟩
    obtain ⟨⟨m, x, y, z⟩, hy, heq⟩ := List.mem_map.1 hr
    obtain ⟨k, hk⟩ := List.mem_iff_getElem?.1 hy
    obtain ⟨hm, ha, hb, hc⟩ := (zip4_getElem? ms as bs cs k _).1 hk
    cases m with
    | false => cases heq
    | true => cases heq; exact ⟨k, x, y, z, hm, ha, hb, hc, hn⟩
  · rintro ⟨k, x, y, z, hm, ha, hb, hc, hn⟩
    have hz := (zip4_getElem? ms as bs cs k (true, x, y, z)).2 ⟨hm, ha, hb, hc⟩
    exact ⟨g x y z, List.mem_map.2 ⟨_, List.mem_iff_getElem?.2 ⟨k, hz⟩, rfl⟩, hn⟩

/-! ### An element-by-element instruction -/

theorem withArgs_read {f : Fields} {e : QEntry} {x : Fmt} {s s1 : State} {a b c : List Nat}
    (h : VecArgs f e x s s1 a b c) (k : State → List Nat → List Nat → List Nat → QRes) : withArgs f e x x x s k = k s1 a b c := by
  obtain ⟨sa, sb, ha, hb, hc⟩ := h
  unfold withArgs
  simp only [ha, hb, hc]

theorem perElem_done {f : Fields} {e : QEntry} {x fd : Fmt} {s s1 : State} {a b c : List Nat} (h : VecArgs f e x s s1 a b c)
    (g : Nat → Nat → Nat → Nat × Flags) :
    perElem f x x x fd g e s = .done (intoTile s1 e fd.regBytes (eachActive g (s1.maskBits f.e (shpRows e.shp) (shpCols e.shp)) a b c)) []
      (collect (eachActive g (s1.maskBits f.e (shpRows e.shp) (shpCols e.shp)) a b c)).2 :=
  withArgs_read h _

/-- What an instruction of the table is: element by element, its operands in one format and its results in the format of TM. -/
theorem elementOps_run {op : (Fields → Instr) × (Fields → Fmt) × (Fields → QEntry → Fmt → Nat → Nat → Nat → Nat × Flags)}
    (hop : op ∈ elementOps) (f : Fields) (s : State) : exec (op.1 f) s = runQueue (op.1 f) f .none
      (fun e => perElem f (op.2.1 f) (op.2.1 f) (op.2.1 f) (memFmt f) (op.2.2 f e (memFmt f)) e) s := by
  simp only [elementOps, List.mem_cons, List.not_mem_nil, or_false] at hop
  rcases hop with rfl | rfl | rfl | rfl | rfl | rfl | rfl | rfl | rfl | rfl | rfl | rfl | rfl | rfl | rfl | rfl | rfl | rfl | rfl | rfl | rfl | rfl |
    rfl | rfl | rfl | rfl | rfl | rfl | rfl | rfl | rfl | rfl | rfl | rfl | rfl <;> rfl

theorem elementOps_done {op : (Fields → Instr) × (Fields → Fmt) × (Fields → QEntry → Fmt → Nat → Nat → Nat → Nat × Flags)}
    (hop : op ∈ elementOps) {f : Fields} {q : Queue} {sp : ISpec} {e : QEntry} {s s1 : State} {F : Fmt} {a b c : List Nat}
    (hF : fieldFmt f = some F) (h : headTakes (op.1 f) f q sp e s = true) (hargs : VecArgs f e (op.2.1 f) s s1 a b c) :
    exec (op.1 f) s = .next ((s1.writeTile s1.myCore (dstV e 0) F.regBytes
      (collect (eachActive (op.2.2 f e F) (s1.maskBits f.e (shpRows e.shp) (shpCols e.shp)) a b c)).1).perform q f sp .none e []
      (collect (eachActive (op.2.2 f e F) (s1.maskBits f.e (shpRows e.shp) (shpCols e.shp)) a b c)).2) := by
  rw [elementOps_run hop f s, memFmt_eq hF]
  exact runQueue_done h (perElem_done hargs _)

/-! ### One element of an integer format -/

theorem isFloat_intv {F : Fmt} (h : F ∈ Fmt.intv) : isFloat F = false := by
  simp only [Fmt.intv, List.mem_cons, List.not_mem_nil, or_false] at h
  rcases h with rfl | rfl | rfl | rfl | rfl | rfl | rfl <;> rfl

theorem readInt_signed {F : Fmt} (h : F.isSigned = true) (a : Nat) : F.readInt a = (BitVec.ofNat F.width a).toInt := by
  rw [Fmt.readInt, if_pos h, toSigned_eq]

theorem readInt_unsigned {F : Fmt} (h : F.isSigned = false) (a : Nat) : F.readInt a = (BitVec.ofNat F.width a).toNat := by
  rw [Fmt.readInt, if_neg (by simp [h]), BitVec.toNat_ofNat]

/-- The reading of an element, brought back to W bits, is the element's word. -/
theorem ofInt_readInt (F : Fmt) (a : Nat) : BitVec.ofInt F.width (F.readInt a) = BitVec.ofNat F.width a := by
  cases h : F.isSigned with
  | true => rw [readInt_signed h, BitVec.ofInt_toInt]
  | false => rw [readInt_unsigned h, BitVec.ofInt_natCast, ofNat_toNat_self]

theorem deliverInt_wraps (F : Fmt) (r : Int) : deliverInt F false r = (F.fill (BitVec.ofInt F.width r).toNat, 0) := by
  rw [deliverInt, if_neg (by decide), wrapTo_eq]

theorem bitsOut_eq (F : Fmt) (n : Nat) : bitsOut F n = (F.fill (BitVec.ofNat F.width n).toNat, 0) := by
  rw [bitsOut, BitVec.toNat_ofNat]

theorem lowW_eq (F : Fmt) (n : Nat) : lowW F n = (BitVec.ofNat F.width n).toNat := by rw [lowW, BitVec.toNat_ofNat]

theorem readInt_abs_signed {F : Fmt} (h : F.isSigned = true) (a : Nat) :
    BitVec.ofInt F.width ((F.readInt a).natAbs : Int) = (BitVec.ofNat F.width a).abs := by
  rw [readInt_signed h, BitVec.ofInt_natCast, ← ofNat_absR, absR, toSigned_toNat]
  exact BitVec.eq_of_toNat_eq (by simp)

theorem readInt_abs_unsigned {F : Fmt} (h : F.isSigned = false) (a : Nat) :
    BitVec.ofInt F.width ((F.readInt a).natAbs : Int) = BitVec.ofNat F.width a := by
  rw [readInt_unsigned h, Int.natAbs_natCast, BitVec.ofInt_natCast, ofNat_toNat_self]

theorem readInt_le (F : Fmt) (a b : Nat) : F.readInt a ≤ F.readInt b ↔
    (if F.isSigned then (BitVec.ofNat F.width a).sle (BitVec.ofNat F.width b)
      else decide (BitVec.ofNat F.width a ≤ BitVec.ofNat F.width b)) = true := by
  cases h : F.isSigned with
  | true => rw [readInt_signed h, readInt_signed h, if_pos rfl, BitVec.sle_iff_toInt_le]
  | false => rw [readInt_unsigned h, readInt_unsigned h, if_neg (by decide), decide_eq_true_iff, BitVec.le_def, Int.ofNat_le]

theorem asResult_int {F : Fmt} (hF : isFloat F = false) (a : Nat) : asResult F a = F.fill (BitVec.ofNat F.width a).toNat := by
  rw [asResult, if_neg (by simp [hF]), BitVec.toNat_ofNat]

/-- One element of each instruction that works on integer formats. -/
theorem integerElements (F : Fmt) (m : RMode) (a b c : Nat) (hF : F ∈ Fmt.intv) :
    let x := BitVec.ofNat F.width a
    let y := BitVec.ofNat F.width b
    let out (r : BitVec F.width) : Nat × Flags := (F.fill r.toNat, 0)
    vaddEl m false F a b c = out (x + y) ∧ vsubEl m false F a b c = out (x - y) ∧ vmulEl m false F a b c = out (x * y) ∧
    vnegEl false F a b c = out (-x) ∧ vabsEl false F a b c = (if F.isSigned then out x.abs else out x) ∧
    vandEl F a b c = out (x &&& y) ∧ vorEl F a b c = out (x ||| y) ∧ vxorEl F a b c = out (x ^^^ y) ∧ vnotEl F a b c = out (~~~x) ∧
    vshlEl F a b c = out (x <<< (y.toNat % F.width)) ∧ vshrEl F a b c = out (x >>> (y.toNat % F.width)) ∧
    vshraEl F a b c = out (x.sshiftRight (y.toNat % F.width)) ∧
    vminEl F a b c = out (if (if F.isSigned then x.sle y else decide (x ≤ y)) then x else y) ∧
    vmaxEl F a b c = out (if (if F.isSigned then x.sle y else decide (x ≤ y)) then y else x) := by
  have hN : ¬ isFloat F = true := by simp [isFloat_intv hF]
  intro x y out
  refine ⟨?_, ?_, ?_, ?_, ?_, ?_, ?_, ?_, ?_, ?_, ?_, ?_, ?_, ?_⟩
  · rw [vaddEl, if_neg hN, deliverInt_wraps, BitVec.ofInt_add, ofInt_readInt, ofInt_readInt]
  · rw [vsubEl, if_neg hN, deliverInt_wraps, Int.sub_eq_add_neg, BitVec.ofInt_add, BitVec.ofInt_neg, ofInt_readInt, ofInt_readInt,
      ← BitVec.sub_eq_add_neg]
  · rw [vmulEl, if_neg hN, deliverInt_wraps, BitVec.ofInt_mul, ofInt_readInt, ofInt_readInt]
  · rw [vnegEl, if_neg hN, deliverInt_wraps, BitVec.ofInt_neg, ofInt_readInt]
  · rw [vabsEl, if_neg hN, deliverInt_wraps]
    cases h : F.isSigned with
    | true => rw [readInt_abs_signed h, if_pos rfl]
    | false => rw [readInt_abs_unsigned h, if_neg (by decide)]
  · rw [vandEl, bitsOut_eq, lowW_eq, lowW_eq, ← BitVec.toNat_and, ofNat_toNat_self]
  · rw [vorEl, bitsOut_eq, lowW_eq, lowW_eq, ← BitVec.toNat_or, ofNat_toNat_self]
  · rw [vxorEl, bitsOut_eq, lowW_eq, lowW_eq, ← BitVec.toNat_xor, ofNat_toNat_self]
  · rw [vnotEl, bitsOut_eq, lowW_eq, ← BitVec.toNat_not, ofNat_toNat_self]
  · rw [vshlEl, bitsOut_eq, lowW_eq, lowW_eq]
    exact congrArg out (BitVec.eq_of_toNat_eq (by simp [x, y]))
  · rw [vshrEl, bitsOut_eq, lowW_eq, lowW_eq]
    exact congrArg out (ofNat_shrlR x y)
  · rw [vshraEl, bitsOut_eq, lowW_eq, toSigned_eq, ← toSigned_toNat]
    exact congrArg out (ofNat_shraR x y)
  · rw [vminEl, pick2, if_neg hN, asResult_int (isFloat_intv hF), if_neg (by decide)]
    refine congrArg out ?_
    rw [apply_ite (BitVec.ofNat F.width)]
    exact ite_congr (propext (readInt_le F a b)) (fun _ => rfl) fun _ => rfl
  · rw [vmaxEl, pick2, if_neg hN, asResult_int (isFloat_intv hF), if_pos rfl]
    refine congrArg out ?_
    rw [apply_ite (BitVec.ofNat F.width)]
    exact ite_congr (propext (readInt_le F a b)) (fun _ => rfl) fun _ => rfl

/-- Settles O26: an instruction of the table maps its active elements one by one, and on the integer formats an element's result is the
operation on W-bit words. -/
theorem elementwiseVectorResults : Obligations.ElementwiseVectorResults := by
  unfold Obligations.ElementwiseVectorResults
  refine ⟨?_, fun F m a b c hF => integerElements F m a b c hF⟩
  intro op hop f q sp e s s1 F a b c hF h hargs
  refine ⟨_, _, elementOps_done hop hF h hargs, ?_, ?_⟩
  · intro k x y z m hm ha hb hc
    exact eachActive_value hm ha hb hc
  · exact eachActive_flags _ _ _ _ _

end Sys2Proof.Proofs.ElementwiseVectors
end

section
/-! SUPPORT. The vector instructions that compare, select, quantise, pack, scale, reduce, scan and move. -/
namespace Sys2Proof.Proofs.VectorTiles
open Sys2Proof Sys2Proof.Machine Sys2Proof.Claims Sys2Proof.Proofs.AccessesByAddress Sys2Proof.Proofs.ElementwiseVectors

/-! ### Results element by element, from an operand's elements and a second list -/

/-- The results of the active elements of two lists; the others are kept. -/
def activePairs {α : Type} (g : Nat → α → Nat × Flags) (ms : List Bool) (as : List Nat) (ks : List α) : List (Option (Nat × Flags)) :=
  (ms.zip (as.zip ks)).map (fun v => if v.1 then some (g v.2.1 v.2.2) else none)

theorem activePairs_value {α : Type} {g : Nat → α → Nat × Flags} {ms : List Bool} {as : List Nat} {ks : List α} {k x : Nat} {y : α} {m : Bool}
    (hm : ms[k]? = some m) (ha : as[k]? = some x) (hk : ks[k]? = some y) :
    (collect (activePairs g ms as ks)).1[k]? = some (if m then some (g x y).1 else none) := by
  have hz : (ms.zip (as.zip ks))[k]? = some (m, x, y) := List.getElem?_zip_eq_some.2 ⟨hm, List.getElem?_zip_eq_some.2 ⟨ha, hk⟩⟩
  rw [collect_values, activePairs, List.getElem?_map, List.getElem?_map, hz]
  cases m <;> rfl

theorem activePairs_flags {α : Type} (g : Nat → α → Nat × Flags) (ms : List Bool) (as : List Nat) (ks : List α) (n : Nat) :
    (collect (activePairs g ms as ks)).2.getLsbD n = true ↔ ∃ (k x : Nat) (y : α), ms[k]? = some true ∧ as[k]? = some x ∧ ks[k]? = some y ∧
      (g x y).2.getLsbD n = true := by
  rw [collect_flags]
  constructor
  · rintro ⟨r, hr, hn⟩
    obtain ⟨⟨m, x, y⟩, hy, heq⟩ := List.mem_map.1 hr
    obtain ⟨k, hk⟩ := List.mem_iff_getElem?.1 hy
    obtain ⟨hm, hak⟩ := List.getElem?_zip_eq_some.1 hk
    obtain ⟨ha, hk⟩ := List.getElem?_zip_eq_some.1 hak
    cases m with
    | false => cases heq
    | true => cases heq; exact ⟨k, x, y, hm, ha, hk, hn⟩
  · rintro ⟨k, x, y, hm, ha, hk, hn⟩
    have hz : (ms.zip (as.zip ks))[k]? = some (true, x, y) := List.getElem?_zip_eq_some.2 ⟨hm, List.getElem?_zip_eq_some.2 ⟨ha, hk⟩⟩
    exact ⟨g x y, List.mem_map.2 ⟨_, List.mem_iff_getElem?.2 ⟨k, hz⟩, rfl⟩, hn⟩

/-! ### Compare and select (R172, R173) -/

/-- A mask that no open window holds has no bit written under one. -/
theorem maskWritten_idle {t : Strand} {cyc d : Nat} (h : t.inFlight cyc (.m d) = false) (i : Nat) : t.maskWritten cyc d i = 0 := by
  rw [Strand.maskWritten, if_neg (by simp [h])]

/-- The rows of a list of allowed bits, taken in order. -/
theorem foldl_zipIdx_range {α β : Type} (g : Nat → α) (n : Nat) (F : β → α × Nat → β) (b : β) :
    ((List.range n).map g).zipIdx.foldl F b = (List.range n).foldl (fun u i => F u (g i, i)) b := by
  rw [Sys2Proof.Proofs.MatrixCompletions.zipIdx_map_range, List.foldl_map]

/-- VCMP. -/
theorem vcmp_done {f : Fields} {q : Queue} {sp : ISpec} {e : QEntry} {s s1 : State} {F : Fmt} {a b c : List Nat} {d : Nat}
    (hF : fieldFmt f = some F) (h : headTakes (.vcmp f) f q sp e s = true) (hargs : VecArgs f e F s s1 a b c) (hd : e.dsts = [.m d])
    (hidle : s1.me.inFlight s1.cycle (.m d) = false) :
    let g := maskGroup (shpCols e.shp)
    let u := (List.range (shpRows e.shp)).foldl (fun u i => u.setK d i (maskRowOf (u.getK d i) (s1.allowRow f.e i)
      (groupBits (f.flags == 1) (shpCols e.shp) ((((a.zip b).map (fun p => vCond F f.sub.toNat p.1 p.2)).drop (i * shpCols e.shp)).take
        (shpCols e.shp))))) s1.me
    let written := maskRuns d ((List.range (shpRows e.shp)).map (fun i =>
      s1.allowRow f.e i &&& BitVec.ofNat 64 (2 ^ ((shpCols e.shp + g - 1) / g) - 1)))
    exec (.vcmp f) s = .next ((s1.setMe (u.noteRuns s1.actSeq written)).perform q f sp .none e [] 0) := by
  intro g u written
  refine runQueue_done h ?_
  have hkept (i : Nat) : (if Config.freeBool (s1.fv + 9) = true then s1.me.maskWritten s1.cycle d i else 0) = 0 := by
    rw [maskWritten_idle hidle, ite_self]
  unfold vcmpBody
  rw [memFmt_eq hF]
  refine (withArgs_read hargs _).trans ?_
  have hall (x : Word) : x &&& ~~~0 = x := BitVec.and_allOnes
  simp only [hd, hkept, hall, List.map_map]
  rw [foldl_zipIdx_range]
  rfl

/-- VSEL. -/
theorem vsel_done {f : Fields} {q : Queue} {sp : ISpec} {e : QEntry} {s s1 : State} {F : Fmt} {a b c : List Nat}
    (hF : fieldFmt f = some F) (h : headTakes (.vsel f) f q sp e s = true) (hargs : VecArgs { f with c := .none } e F s s1 a b c) :
    ∃ vs : List (Option Nat), exec (.vsel f) s = .next ((s1.writeTile s1.myCore (dstV e 0) F.regBytes vs).perform q f sp .none e [] 0) ∧
      ∀ (k x y z : Nat) (p m : Bool), (s1.maskBits f.c (shpRows e.shp) (shpCols e.shp))[k]? = some p →
        (s1.maskBits f.e (shpRows e.shp) (shpCols e.shp))[k]? = some m → a[k]? = some x → b[k]? = some y → (c)[k]? = some z →
        vs[k]? = some (if m then some (if p then x else y) else none) := by
  let v := (zip4 (s1.maskBits f.c (shpRows e.shp) (shpCols e.shp)) a b c).map (fun y => if y.1 then y.2.1 else y.2.2.1)
  let rs := eachActive (fun x _ _ => (x, 0)) (s1.maskBits f.e (shpRows e.shp) (shpCols e.shp)) v v c
  have hfl : (collect rs).2 = 0 := collect_flags_zero (by
    intro x hx
    obtain ⟨y, _, hy⟩ := List.mem_map.1 hx
    split at hy
    · cases hy; rfl
    · cases hy)
  have hbody : vselBody f e s = .done (intoTile s1 e F.regBytes rs) [] (collect rs).2 := by
    unfold vselBody
    rw [memFmt_eq hF]
    exact withArgs_read hargs _
  rw [hfl] at hbody
  refine ⟨(collect rs).1, runQueue_done h hbody, ?_⟩
  intro k x y z p m hp hm ha hb hc
  have hv : v[k]? = some (if p then x else y) := by
    rw [List.getElem?_map, (zip4_getElem? _ a b c k (p, x, y, z)).2 ⟨hp, ha, hb, hc⟩]; rfl
  exact eachActive_value hm hv hv hc

/-! ### Quantising, packing and scaling (R175 to R179) -/

section
variable {f : Fields} {q : Queue} {sp : ISpec} {e : QEntry} {s : State} {F : Fmt}

/-- VQNT. -/
theorem vqnt_done (hF : fieldFmt f = some F) (h : headTakes (.vqnt f) f q sp e s = true) :
    let qs := (blocks32 (shpRows e.shp * shpCols e.shp / 32) (tileOf s e e.a (srcFmt f).regBytes)).map (fun l =>
      mxQuantise F (vMode f e) (l.map (srcFmt f).value))
    let s1 := s.writeTile s.myCore (dstV e 0) 1 (qs.flatMap (fun b => b.2.1.map some))
    exec (.vqnt f) s = .next ((s1.writeTile s1.myCore (dstV e 1) 1 (qs.map (fun b => some b.1))).perform q f sp .none e []
      (qs.foldl (fun a b => a ||| b.2.2) 0)) := by
  intro qs s1
  change runQueue (.vqnt f) f .none (vqntBody f) s = _
  refine runQueue_done h ?_
  unfold vqntBody
  rw [memFmt_eq hF]
  rfl

theorem scaleBytes_getElem? {n k y : Nat} {bs : List Nat} (hk : k < n) (hy : bs[k / 32]? = some y) : (scaleBytes n bs)[k]? = some y := by
  simp [scaleBytes, hk, hy]

theorem tile_length (s : State) (slot phys eb n : Nat) : (s.tile slot phys eb n).length = n := by
  rw [State.tile, State.tileAt, List.length_map, List.length_range]

/-- VDQNT. -/
theorem vdqnt_done (hF : fieldFmt f = some F) (h : headTakes (.vdqnt f) f q sp e s = true) :
    ∃ (vs : List (Option Nat)) (fl : Flags), exec (.vdqnt f) s =
        .next ((s.writeTile s.myCore (dstV e 0) F.regBytes vs).perform q f sp .none e [] fl) ∧
      (∀ (k x y : Nat) (m : Bool), (s.maskBits f.e (shpRows e.shp) (shpCols e.shp))[k]? = some m → (tileOf s e e.a 1)[k]? = some x →
        (s.tile s.cur e.b.toNat 1 (shpRows e.shp * shpCols e.shp / 32))[k / 32]? = some y →
        vs[k]? = some (if m then some (F.convert (vMode f e) true (mxValue (srcFmt f) y x)).1 else none)) ∧
      ∀ n, fl.getLsbD n = true ↔ ∃ k x y : Nat, (s.maskBits f.e (shpRows e.shp) (shpCols e.shp))[k]? = some true ∧ (tileOf s e e.a 1)[k]? = some x ∧
        (scaleBytes (shpRows e.shp * shpCols e.shp) (s.tile s.cur e.b.toNat 1 (shpRows e.shp * shpCols e.shp / 32)))[k]? = some y ∧
        (F.convert (vMode f e) true (mxValue (srcFmt f) y x)).2.getLsbD n = true := by
  let rs := eachActive (fun x y _ => F.convert (vMode f e) true (mxValue (srcFmt f) y x)) (s.maskBits f.e (shpRows e.shp) (shpCols e.shp))
    (tileOf s e e.a 1) (scaleBytes (shpRows e.shp * shpCols e.shp) (s.tile s.cur e.b.toNat 1 (shpRows e.shp * shpCols e.shp / 32)))
    (scaleBytes (shpRows e.shp * shpCols e.shp) (s.tile s.cur e.b.toNat 1 (shpRows e.shp * shpCols e.shp / 32)))
  have hbody : vdqntBody f e s = .done (intoTile s e F.regBytes rs) [] (collect rs).2 := by
    unfold vdqntBody
    rw [memFmt_eq hF]
    rfl
  refine ⟨_, _, runQueue_done h hbody, ?_, ?_⟩
  · intro k x y m hm hx hy
    have hk : k < shpRows e.shp * shpCols e.shp := by
      have := (List.getElem?_eq_some_iff.1 hx).1
      rwa [tileOf, tile_length] at this
    exact eachActive_value hm hx (scaleBytes_getElem? hk hy) (scaleBytes_getElem? hk hy)
  · intro n
    refine (eachActive_flags _ _ _ _ _ n).trans ?_
    constructor
    · rintro ⟨k, x, y, _, hm, hx, hy, _, hn⟩
      exact ⟨k, x, y, hm, hx, hy, hn⟩
    · rintro ⟨k, x, y, hm, hx, hy, hn⟩
      exact ⟨k, x, y, y, hm, hx, hy, hy, hn⟩

/-- VPACK6 and VPACK4. -/
theorem vpack_done {op : Fields → Instr} {w : Nat} (hop : (op, w) ∈ [(Instr.vpack6, 6), (Instr.vpack4, 4)])
    (h : headTakes (op f) f q sp e s = true) :
    exec (op f) s = .next ((s.writeTile s.myCore (dstV e 0) 1 ((packBits w (streamBytes w (shpRows e.shp * shpCols e.shp))
      (tileOf s e e.a 1)).map some)).perform q f sp .none e [] 0) := by
  have hrun : exec (op f) s = runQueue (op f) f .none (packBody w) s := by
    simp only [List.mem_cons, List.not_mem_nil, or_false, Prod.mk.injEq] at hop
    rcases hop with ⟨rfl, rfl⟩ | ⟨rfl, rfl⟩ <;> rfl
  exact hrun.trans (runQueue_done h rfl)

/-- VUNPK6 and VUNPK4. -/
theorem vunpk_done {op : Fields → Instr} {w : Nat} (hop : (op, w) ∈ [(Instr.vunpk6, 6), (Instr.vunpk4, 4)])
    (hF : fieldFmt f = some F) (h : headTakes (op f) f q sp e s = true) :
    exec (op f) s = .next ((s.writeTile s.myCore (dstV e 0) 1 ((unpackBits w (shpRows e.shp * shpCols e.shp)
      (s.tile s.cur e.a.toNat 1 (streamBytes w (shpRows e.shp * shpCols e.shp)))).map (fun c => some (F.fill c % 256)))).perform
      q f sp .none e [] 0) := by
  have hrun : exec (op f) s = runQueue (op f) f .none (unpackBody w f) s := by
    simp only [List.mem_cons, List.not_mem_nil, or_false, Prod.mk.injEq] at hop
    rcases hop with ⟨rfl, rfl⟩ | ⟨rfl, rfl⟩ <;> rfl
  refine hrun.trans (runQueue_done h ?_)
  unfold unpackBody
  rw [memFmt_eq hF]

/-- One element of VSCALE under SUB 1: a scale byte of 255 is a NaN. -/
def scaledBy (F : Fmt) (m : RMode) (x y : Nat) : Nat × Flags :=
  if y = 255 then (F.qnan, 0) else F.convert m false ((F.value x).scale ((y : Int) - 127))

theorem scaledBy_value (F : Fmt) (m : RMode) (x y : Nat) :
    (scaledBy F m x y).1 = if y = 255 then F.qnan else (F.convert m false ((F.value x).scale ((y : Int) - 127))).1 := by
  unfold scaledBy; split <;> rfl

theorem scaledBy_flags (F : Fmt) (m : RMode) (x y n : Nat) : (scaledBy F m x y).2.getLsbD n = true ↔
    y ≠ 255 ∧ (F.convert m false ((F.value x).scale ((y : Int) - 127))).2.getLsbD n = true := by
  unfold scaledBy
  split
  next h => simp [h]
  next h => exact ⟨fun hn => ⟨h, hn⟩, And.right⟩

/-- The results of VSCALE. -/
def scaled (f : Fields) (e : QEntry) (F : Fmt) (s1 : State) (a : List Nat) : List (Option (Nat × Flags)) :=
  if f.sub = 0 then
    activePairs (fun x (y : Int) => F.convert (vMode f e) false ((F.value x).scale y)) (s1.maskBits f.e (shpRows e.shp) (shpCols e.shp)) a
      (scaleExp F f.b e.b (tileOf s1 e e.b F.regBytes) (shpRows e.shp * shpCols e.shp))
  else
    activePairs (scaledBy F (vMode f e)) (s1.maskBits f.e (shpRows e.shp) (shpCols e.shp)) a
      (scaleBytes (shpRows e.shp * shpCols e.shp) (s1.tile s1.cur e.b.toNat 1 (shpRows e.shp * shpCols e.shp / 32)))

theorem vscaleBody_done {s1 : State} {a : List Nat} (hF : fieldFmt f = some F)
    (ha : s.vArg e (shpRows e.shp) (shpCols e.shp) (argA f e F) = .ok (s1, a)) :
    vscaleBody f e s = .done (intoTile s1 e F.regBytes (scaled f e F s1 a)) [] (collect (scaled f e F s1 a)).2 := by
  unfold vscaleBody scaled
  rw [memFmt_eq hF]
  simp only [ha]
  split <;> rfl

/-- VSCALE. -/
theorem vscale_done {s1 : State} {a : List Nat} (hF : fieldFmt f = some F) (h : headTakes (.vscale f) f q sp e s = true)
    (ha : s.vArg e (shpRows e.shp) (shpCols e.shp) (argA f e F) = .ok (s1, a)) :
    ∃ (vs : List (Option Nat)) (fl : Flags), exec (.vscale f) s =
        .next ((s1.writeTile s1.myCore (dstV e 0) F.regBytes vs).perform q f sp .none e [] fl) ∧
      (f.sub = 0 → ∀ (k x : Nat) (y : Int) (m : Bool), (s1.maskBits f.e (shpRows e.shp) (shpCols e.shp))[k]? = some m → a[k]? = some x →
        (scaleExp F f.b e.b (tileOf s1 e e.b F.regBytes) (shpRows e.shp * shpCols e.shp))[k]? = some y →
        vs[k]? = some (if m then some (F.convert (vMode f e) false ((F.value x).scale y)).1 else none)) ∧
      (f.sub ≠ 0 → ∀ (k x y : Nat) (m : Bool), (s1.maskBits f.e (shpRows e.shp) (shpCols e.shp))[k]? = some m → a[k]? = some x →
        (scaleBytes (shpRows e.shp * shpCols e.shp) (s1.tile s1.cur e.b.toNat 1 (shpRows e.shp * shpCols e.shp / 32)))[k]? = some y →
        vs[k]? = some (if m then some (if y = 255 then F.qnan else
          (F.convert (vMode f e) false ((F.value x).scale ((y : Int) - 127))).1) else none)) ∧
      (f.sub = 0 → ∀ n, fl.getLsbD n = true ↔ ∃ (k x : Nat) (y : Int), (s1.maskBits f.e (shpRows e.shp) (shpCols e.shp))[k]? = some true ∧
        a[k]? = some x ∧ (scaleExp F f.b e.b (tileOf s1 e e.b F.regBytes) (shpRows e.shp * shpCols e.shp))[k]? = some y ∧
        (F.convert (vMode f e) false ((F.value x).scale y)).2.getLsbD n = true) ∧
      (f.sub ≠ 0 → ∀ n, fl.getLsbD n = true ↔ ∃ k x y : Nat, (s1.maskBits f.e (shpRows e.shp) (shpCols e.shp))[k]? = some true ∧
        a[k]? = some x ∧ (scaleBytes (shpRows e.shp * shpCols e.shp) (s1.tile s1.cur e.b.toNat 1 (shpRows e.shp * shpCols e.shp / 32)))[k]? = some y ∧
        y ≠ 255 ∧ (F.convert (vMode f e) false ((F.value x).scale ((y : Int) - 127))).2.getLsbD n = true) := by
  refine ⟨_, _, runQueue_done h (vscaleBody_done hF ha), ?_, ?_, ?_, ?_⟩
  · intro h0 k x y m hm hx hy
    rw [scaled, if_pos h0]
    exact activePairs_value hm hx hy
  · intro h0 k x y m hm hx hy
    rw [scaled, if_neg h0, activePairs_value hm hx hy, scaledBy_value]
  · intro h0 n
    rw [scaled, if_pos h0]
    exact activePairs_flags _ _ _ _ n
  · intro h0 n
    rw [scaled, if_neg h0, activePairs_flags]
    simp only [scaledBy_flags]

/-! ### Reductions and scans (R180 to R182) -/

theorem vredr_done (hF : fieldFmt f = some F) (h : headTakes (.vredr f) f q sp e s = true) :
    let rs := (List.range (shpRows e.shp)).flatMap (fun i => reduceList f.sub.toNat (vMode f e) (vSat f) F
      (activeOf (rowOf (s.withMask f e) (shpCols e.shp) i)) :: List.replicate (shpCols e.shp - 1) none)
    exec (.vredr f) s = .next ((intoTile s e F.regBytes rs).perform q f sp .none e [] (collect rs).2) := by
  intro rs
  change runQueue (.vredr f) f .none (vredrBody f) s = _
  refine runQueue_done h ?_
  unfold vredrBody
  rw [memFmt_eq hF]
  rfl

theorem vredc_done (hF : fieldFmt f = some F) (h : headTakes (.vredc f) f q sp e s = true) :
    let rs := (List.range (shpCols e.shp)).map (fun j => reduceList f.sub.toNat (vMode f e) (vSat f) F
      (activeOf (colOf (s.withMask f e) (shpRows e.shp) (shpCols e.shp) j)))
    exec (.vredc f) s = .next ((intoTile s e F.regBytes rs).perform q f sp .none e [] (collect rs).2) := by
  intro rs
  change runQueue (.vredc f) f .none (vredcBody f) s = _
  refine runQueue_done h ?_
  unfold vredcBody
  rw [memFmt_eq hF]
  rfl

theorem vscan_rows_done (hF : fieldFmt f = some F) (h : headTakes (.vscan f) f q sp e s = true) (hsub : f.sub.getLsbD 2 = false) :
    let rs := (List.range (shpRows e.shp)).flatMap (fun i => scanLine f e F (rowOf (s.withMask f e) (shpCols e.shp) i))
    exec (.vscan f) s = .next ((intoTile s e F.regBytes rs).perform q f sp .none e [] (collect rs).2) := by
  intro rs
  change runQueue (.vscan f) f .none (vscanBody f) s = _
  refine runQueue_done h ?_
  unfold vscanBody
  rw [memFmt_eq hF, hsub]
  rfl

theorem vscan_cols_done (hF : fieldFmt f = some F) (h : headTakes (.vscan f) f q sp e s = true) (hsub : f.sub.getLsbD 2 = true) :
    let rs := (List.range (shpRows e.shp)).flatMap (fun i => ((List.range (shpCols e.shp)).map (fun j =>
      scanLine f e F (colOf (s.withMask f e) (shpRows e.shp) (shpCols e.shp) j))).map (fun l => (l[i]?).getD none))
    exec (.vscan f) s = .next ((intoTile s e F.regBytes rs).perform q f sp .none e [] (collect rs).2) := by
  intro rs
  change runQueue (.vscan f) f .none (vscanBody f) s = _
  refine runQueue_done h ?_
  unfold vscanBody
  rw [memFmt_eq hF, hsub]
  rfl

/-! ### Movement (R184 to R187) -/

theorem vtrn_done (hF : fieldFmt f = some F) (h : headTakes (.vtrn f) f q sp e s = true) :
    let rs := (List.range (shpCols e.shp)).flatMap (fun j =>
      (colOf (tileOf s e e.a F.regBytes) (shpRows e.shp) (shpCols e.shp) j).map (fun v => some (v, (0 : Flags))))
    exec (.vtrn f) s = .next ((intoTile s e F.regBytes rs).perform q f sp .none e [] (collect rs).2) := by
  intro rs
  change runQueue (.vtrn f) f .none (vtrnBody f) s = _
  refine runQueue_done h ?_
  unfold vtrnBody
  rw [memFmt_eq hF]
  rfl

theorem vbcr_done (hF : fieldFmt f = some F) (h : headTakes (.vbcr f) f q sp e s = true) :
    let rs := byElement s f e (fun _ j => (((tileOf s e e.a F.regBytes)[e.b.toNat * shpCols e.shp + j]?).getD 0, 0))
    exec (.vbcr f) s = .next ((intoTile s e F.regBytes rs).perform q f sp .none e [] (collect rs).2) := by
  intro rs
  change runQueue (.vbcr f) f .none (vbcrBody f) s = _
  refine runQueue_done h ?_
  unfold vbcrBody
  rw [memFmt_eq hF]
  rfl

theorem vbcc_done (hF : fieldFmt f = some F) (h : headTakes (.vbcc f) f q sp e s = true) :
    let rs := byElement s f e (fun i _ => (((tileOf s e e.a F.regBytes)[i * shpCols e.shp + e.b.toNat]?).getD 0, 0))
    exec (.vbcc f) s = .next ((intoTile s e F.regBytes rs).perform q f sp .none e [] (collect rs).2) := by
  intro rs
  change runQueue (.vbcc f) f .none (vbccBody f) s = _
  refine runQueue_done h ?_
  unfold vbccBody
  rw [memFmt_eq hF]
  rfl

theorem viota_done (hF : fieldFmt f = some F) (h : headTakes (.viota f) f q sp e s = true) :
    let rs := byElement s f e (fun i j => deliverInt F (vSat f)
      (F.readInt (dataVal F f.a e.a).toNat + i * F.readInt (dataVal F f.b e.b).toNat + j * F.readInt (dataVal F f.c e.c).toNat))
    exec (.viota f) s = .next ((intoTile s e F.regBytes rs).perform q f sp .none e [] (collect rs).2) := by
  intro rs
  change runQueue (.viota f) f .none (viotaBody f) s = _
  refine runQueue_done h ?_
  unfold viotaBody
  rw [memFmt_eq hF]
  rfl

/-- The results of VSHUF. -/
def shuffled (f : Fields) (e : QEntry) (F : Fmt) (s : State) : List (Option (Nat × Flags)) :=
  (((s.maskBits f.e (shpRows e.shp) (shpCols e.shp)).zip (tileOf s e e.b F.regBytes)).zipIdx).map (fun v =>
    if !v.1.1 then none
    else if f.sub = 0 then
      some (if v.1.2 < shpCols e.shp then ((tileOf s e e.a F.regBytes)[v.2 / shpCols e.shp * shpCols e.shp + v.1.2]?).getD 0 else 0, 0)
    else some (if v.1.2 < shpRows e.shp then ((tileOf s e e.a F.regBytes)[v.1.2 * shpCols e.shp + v.2 % shpCols e.shp]?).getD 0 else 0, 0))

theorem shuffled_flags (f : Fields) (e : QEntry) (F : Fmt) (s : State) : (collect (shuffled f e F s)).2 = 0 := by
  refine collect_flags_zero (fun x hx => ?_)
  obtain ⟨v, _, hv⟩ := List.mem_map.1 hx
  split at hv
  · cases hv
  · split at hv <;> cases hv <;> rfl

theorem vshuf_done (hF : fieldFmt f = some F) (h : headTakes (.vshuf f) f q sp e s = true) :
    ∃ vs : List (Option Nat), exec (.vshuf f) s = .next ((s.writeTile s.myCore (dstV e 0) F.regBytes vs).perform q f sp .none e [] 0) ∧
      ∀ (k p : Nat) (m : Bool), (s.maskBits f.e (shpRows e.shp) (shpCols e.shp))[k]? = some m → (tileOf s e e.b F.regBytes)[k]? = some p →
        vs[k]? = some (if m then some (if f.sub = 0 then
            (if p < shpCols e.shp then ((tileOf s e e.a F.regBytes)[k / shpCols e.shp * shpCols e.shp + p]?).getD 0 else 0)
          else if p < shpRows e.shp then ((tileOf s e e.a F.regBytes)[p * shpCols e.shp + k % shpCols e.shp]?).getD 0 else 0) else none) := by
  have hbody : vshufBody f e s = .done (intoTile s e F.regBytes (shuffled f e F s)) [] (collect (shuffled f e F s)).2 := by
    unfold vshufBody
    rw [memFmt_eq hF]
    rfl
  rw [shuffled_flags] at hbody
  refine ⟨_, runQueue_done h hbody, ?_⟩
  intro k p m hm hp
  have hz : (((s.maskBits f.e (shpRows e.shp) (shpCols e.shp)).zip (tileOf s e e.b F.regBytes)).zipIdx)[k]? = some ((m, p), k) := by
    have hmp : ((s.maskBits f.e (shpRows e.shp) (shpCols e.shp)).zip (tileOf s e e.b F.regBytes))[k]? = some (m, p) :=
      List.getElem?_zip_eq_some.2 ⟨hm, hp⟩
    rw [List.getElem?_zipIdx, hmp, Option.map_some, Nat.zero_add]
  rw [collect_values, shuffled, List.getElem?_map, List.getElem?_map, hz]
  cases m
  · rfl
  · by_cases h0 : f.sub = 0
    · simp only [Option.map_some, Bool.not_true, if_pos h0]; rfl
    · simp only [Option.map_some, Bool.not_true, if_neg h0]; rfl

end

/-- VMAXR's results for one row of `cols` columns: the maximum, its index, and the rest kept. -/
theorem vmaxr_done {f : Fields} {q : Queue} {sp : ISpec} {e : QEntry} {s : State} {F : Fmt} (hF : fieldFmt f = some F)
    (h : headTakes (.vmaxr f) f q sp e s = true) :
    let rs : List (Option (Nat × Flags)) := (List.range (shpRows e.shp)).flatMap (fun i =>
      match rowMax F (rowOf (s.withMask f e) (shpCols e.shp) i) with
      | none => List.replicate (shpCols e.shp) none
      | some (m, j) => some (m, 0) :: some (j % 2 ^ (8 * F.regBytes), 0) :: List.replicate (shpCols e.shp - 2) none)
    exec (.vmaxr f) s = .next ((intoTile s e F.regBytes rs).perform q f sp .none e [] (collect rs).2) := by
  intro rs
  change runQueue (.vmaxr f) f .none (vmaxrBody f) s = _
  refine runQueue_done h ?_
  unfold vmaxrBody
  rw [memFmt_eq hF]
  rfl

/-- Settles O27: each instruction's results, one lemma per instruction. -/
theorem vectorTileResults : Obligations.VectorTileResults := by
  unfold Obligations.VectorTileResults
  refine ⟨?_, ?_, ?_, ?_, ?_, ?_, ?_, ?_, ?_⟩
  · intro f q sp e s s1 F a b c d hF h hargs hd hidle
    exact vcmp_done hF h hargs hd hidle
  · intro f q sp e s s1 F a b c hF h hargs
    exact vsel_done hF h hargs
  · intro f q sp e s F hF h
    exact vqnt_done hF h
  · intro f q sp e s F hF h
    exact vdqnt_done hF h
  · intro w op hop f q sp e s h
    exact vpack_done hop h
  · intro w op hop f q sp e s F hF h
    exact vunpk_done hop hF h
  · intro f q sp e s s1 F a hF h ha
    exact vscale_done hF h ha
  · intro f q sp e s F hF
    exact ⟨vredr_done hF, vredc_done hF, vmaxr_done hF, vscan_rows_done hF, vscan_cols_done hF⟩
  · intro f q sp e s F hF
    exact ⟨vtrn_done hF, vshuf_done hF, vbcr_done hF, vbcc_done hF, viota_done hF⟩

end Sys2Proof.Proofs.VectorTiles
end

section
/-! SUPPORT. What a read leaves alone, where no error waits: the bytes of every space with their marks, and of every core the local memory,
the full bits and the vector registers. -/
namespace Sys2Proof.Proofs.QuietReads
open Sys2Proof Sys2Proof.Machine Sys2Proof.Claims Sys2Proof.Proofs.MemoryIsReadAsWritten Sys2Proof.Proofs.IntegerResults

/-! ### The parts that no read changes -/

/-- Of a core, what no read changes where no error waits. -/
def part (c : Core) : Memory × List Nat × Memory × List Nat × List Nat := (c.lm, c.full, c.vrf, c.lmFresh, c.lmCe)
/-- The errors of the arrays, but for the marks of dirty lines and for the lines across the link. -/
def arrays (a : ArrayErrors) : ArrayErrors := { a with l2Poison := [], cxl := { a.cxl with shared := [], exclusive := [], pool := [] } }
/-- The marks on memory, with the row states. -/
def marks (s : State) : List Nat × List Nat × List Nat × List Nat × Tab RowState :=
  (s.devPoison, s.hostPoison, s.poolPoison, s.arr.l2Poison, s.rows)
/-- The errors that wait. -/
def errors (s : State) : List Nat × List Nat × ArrayErrors := (s.devUe, s.devCe, arrays s.arr)

/-- `t` is `s` for every reader of memory and of the cores' own memories. -/
structure Quiet (s t : State) : Prop where
  wf : MemOk t
  bytes : ∀ sp a, t.physByte sp a = s.physByte sp a
  marks : marks t = marks s
  errors : errors t = errors s
  cores : ∀ n, part (t.core n) = part (s.core n)

theorem Quiet.refl {s : State} (h : MemOk s) : Quiet s s := ⟨h, fun _ _ => rfl, rfl, rfl, fun _ => rfl⟩
theorem Quiet.trans {s t u : State} (h : Quiet s t) (k : Quiet t u) : Quiet s u :=
  ⟨k.wf, fun sp a => (k.bytes sp a).trans (h.bytes sp a), k.marks.trans h.marks, k.errors.trans h.errors, fun n => (k.cores n).trans (h.cores n)⟩

theorem part_fields {c d : Core} (h : part c = part d) : c.lm = d.lm ∧ c.full = d.full ∧ c.vrf = d.vrf ∧ c.lmFresh = d.lmFresh ∧ c.lmCe = d.lmCe := by
  simpa [part] using h

theorem noErrors_iff (s : State) : NoErrors s ↔ errors s = ([], [], {}) ∧ ∀ n, (s.core n).lmFresh = [] ∧ (s.core n).lmCe = [] := by
  rw [errors, Prod.mk.injEq, Prod.mk.injEq, arrays, NoErrors, and_assoc, and_assoc]

theorem Quiet.noErrors {s t : State} (h : Quiet s t) (hs : NoErrors s) : NoErrors t := by
  rw [noErrors_iff] at hs ⊢
  obtain ⟨herr, hlm⟩ := hs
  refine ⟨h.errors.trans herr, fun n => ?_⟩
  obtain ⟨-, -, -, hfresh, hce⟩ := part_fields (h.cores n)
  rw [hfresh, hce]
  exact hlm n
theorem Quiet.clean {s t : State} (h : Quiet s t) (hs : NoErrors s) : Clean t := clean_of_noErrors (h.noErrors hs)

theorem Quiet.sameMemory {s t : State} (h : Quiet s t) : SameMemory s t := by
  have hm := h.marks
  simp only [QuietReads.marks, Prod.mk.injEq] at hm
  exact ⟨h.bytes, hm⟩
theorem Quiet.sameLm {s t : State} (h : Quiet s t) : SameLm s t := fun n => by
  obtain ⟨hlm, hfull, -⟩ := part_fields (h.cores n)
  exact ⟨hlm, hfull⟩
theorem Quiet.sameTiles {s t : State} (h : Quiet s t) : SameTiles s t := fun n => by
  obtain ⟨-, -, hvrf, -⟩ := part_fields (h.cores n)
  exact hvrf

/-- A change beside memory and the cores. -/
theorem quiet_beside {s t : State} (hs : MemOk s) (hst : stored t = stored s) (hm : marks t = marks s) (he : errors t = errors s)
    (hc : t.cores = s.cores) : Quiet s t := by
  have h := hst
  simp only [stored, Prod.mk.injEq] at h
  obtain ⟨hdev, hhost, hpool, hl2, hhostL2, hpoolL2, -⟩ := h
  exact ⟨memOk_of_eq hs hdev hhost hpool hl2 hhostL2 hpoolL2 hc, physByte_of_stored hst, hm, he, fun n => by rw [State.core, State.core, hc]⟩

theorem foldl_quiet {α : Type} (l : List α) (g : State → α → State) {s : State} (hs : NoErrors s) (hm : MemOk s)
    (h : ∀ t x, NoErrors t → MemOk t → Quiet t (g t x)) : Quiet s (l.foldl g s) := by
  induction l generalizing s with
  | nil => exact .refl hm
  | cons x r ih =>
    have hx := h s x hs hm
    exact hx.trans (ih (hx.noErrors hs) hx.wf)

/-! ### Cores -/

theorem core_modCore_ne (s : State) {n m : Nat} (f : Core → Core) (h : n ≠ m) : (s.modCore n f).core m = s.core m := core_setCore_ne s n m _ h
theorem core_modCore_self {s : State} (hm : MemOk s) (n : Nat) (f : Core → Core) : (s.modCore n f).core n = f (s.core n) := by
  obtain ⟨-, -, -, -, -, -, hw⟩ := hm
  rw [State.modCore, core_setCore _ _ _ _ hw, if_pos rfl]

theorem modCore_quiet {s : State} (hm : MemOk s) (n : Nat) {f : Core → Core} (hf : part (f (s.core n)) = part (s.core n)) :
    Quiet s (s.modCore n f) := by
  refine ⟨modCore_memOk hm n f, fun sp a => rfl, rfl, rfl, fun k => ?_⟩
  by_cases h : n = k
  · subst h; rw [core_modCore_self hm, hf]
  · rw [core_modCore_ne s f h]

theorem tabGet_map {α : Type} (t : Tab α) (d : α) (g : α → α) (k : Nat) :
    tabGet (t.map (fun x => (x.1, g x.2))) d k = ((tabFind t k).map g).getD d := by
  induction t with
  | nil => rfl
  | cons x r ih =>
    simp only [List.map_cons, tabGet, tabFind]
    split
    · rfl
    · exact ih

/-- A change of every core that keeps its part. -/
theorem part_mapCores (t : Tab Core) {g : Core → Core} (hg : ∀ c, part (g c) = part c) (k : Nat) :
    part (tabGet (t.map (fun x => (x.1, g x.2))) {} k) = part (tabGet t {} k) := by
  rw [tabGet_map, MemoryParts.tabGet_of_find]
  cases tabFind t k with
  | none => rfl
  | some v => exact hg v

theorem untrack_quiet {s : State} (hm : MemOk s) (ls : List Nat) : Quiet s (s.untrack ls) :=
  ⟨untrack_memOk hm ls, fun _ _ => rfl, rfl, rfl,
    part_mapCores s.cores (g := fun c => { c with icache := c.icache.filter (fun k => !(ls.contains k.1)) }) (fun _ => rfl)⟩

theorem snoopL1s_quiet {s : State} (hs : NoErrors s) (hm : MemOk s) (sp : MemSpace) (u : Nat) : Quiet s (s.snoopL1s sp u) := by
  obtain ⟨-, -, harr, -⟩ := hs
  have hl1 : s.arr.l1Bad = [] := congrArg ArrayErrors.l1Bad harr
  refine ⟨snoopL1s_memOk hm sp u, fun _ _ => rfl, rfl, ?_,
    part_mapCores s.cores (g := fun c => { c with stamps := c.stamps.filter (fun y => y.line != unitKey sp u) }) (fun _ => rfl)⟩
  have h : { s.arr with l1Bad := s.arr.l1Bad.filter (fun x => x.2 != unitKey sp u) } = s.arr := by rw [hl1, List.filter_nil, ← hl1]
  exact congrArg (fun a => (s.devUe, s.devCe, arrays a)) h

/-! ### A pool line that goes home reads the same -/

/-- A byte of a dirty line is what the line's bytes hold at its place once they are written. -/
theorem lineByte_leBytes (d : BitVec 512) {j : Nat} (hj : j < 64) : (leBytes 64 d.toNat)[j]? = some (d.extractLsb' (8 * j) 8) := by
  rw [getElem?_leBytes 64 _ j hj]
  refine congrArg some (BitVec.eq_of_toNat_eq ?_)
  rw [BitVec.extractLsb'_toNat, BitVec.toNat_ofNat, Nat.shiftRight_eq_div_pow, Nat.pow_mul]

/-- Memory below with a dirty line written back reads as the line above it did. -/
theorem topped_writeBack {t : Tab (BitVec 512)} {m : Memory} {line : Nat} {d : BitVec 512} (hwf : tabWf t = true)
    (hd : tabFind t line = some d) (l : Nat) :
    topped (tabErase t line) (Memory.get (m.write (64 * line) (leBytes 64 d.toNat))) l = topped t (Memory.get m) l := by
  unfold topped
  by_cases hl : l / 64 = line
  · rw [hl, hd, tabFind_erase line hwf]
    have hj : l % 64 < 64 := Nat.mod_lt _ (by decide)
    have h := get_write m (64 * line) (leBytes 64 d.toNat) (l % 64) _ (lineByte_leBytes d hj)
    rwa [show 64 * line + l % 64 = l by omega] at h
  · rw [tabFind_erase_ne t line (l / 64) (fun h => hl h.symm)]
    have h := get_write_ne m (64 * line) (leBytes 64 d.toNat) l (by rw [length_leBytes]; omega)
    rw [h]

theorem setDel_of_nil {l : List Nat} (h : l = []) (k : Nat) : setDel l k = l := by rw [setDel_nil h, h]

/-- Where nothing waits in error, what a line had in error is gone already. -/
theorem cleanHome_clean {s : State} (h : Clean s) (k : Nat) : s.cleanHome k = s := by
  obtain ⟨-, -, -, hue, hce⟩ := h
  rw [State.cleanHome, setDel_of_nil hue, setDel_of_nil hce]

theorem writeBackPool_quiet {s : State} (hc : Clean s) (hm : MemOk s) (line : Nat) : Quiet s (s.writeBackPool line) := by
  refine ⟨writeBackPool_memOk hm line, ?_, ?_, ?_, ?_⟩ <;> unfold State.writeBackPool <;> split <;> try (intros; rfl)
  next d hd =>
    rw [cleanHome_clean (by exact hc)]
    obtain ⟨-, -, -, -, -, hwf, -⟩ := hm
    intro sp a
    cases sp with
    | il | bl | host => rfl
    | pool => exact topped_writeBack hwf hd a
  all_goals rw [cleanHome_clean (by exact hc)]; rfl

theorem writeBackHost_quiet {s : State} (hc : Clean s) (hm : MemOk s) (line : Nat) : Quiet s (s.writeBackHost line) := by
  refine ⟨writeBackHost_memOk hm line, ?_, ?_, ?_, ?_⟩ <;> unfold State.writeBackHost <;> split <;> try (intros; rfl)
  next d hd =>
    rw [cleanHome_clean (by exact hc)]
    obtain ⟨-, -, -, -, hwf, -, -⟩ := hm
    intro sp a
    cases sp with
    | il | bl | pool => rfl
    | host => exact topped_writeBack hwf hd a
  all_goals rw [cleanHome_clean (by exact hc)]; rfl

theorem flushPool_quiet {s : State} (hs : NoErrors s) (hm : MemOk s) (line : Nat) : Quiet s (s.flushPool line) := by
  have hc := clean_of_noErrors hs
  unfold State.flushPool
  split
  · rw [noteL2_clean hc]; exact writeBackPool_quiet hc hm line
  · exact .refl hm
theorem flushHost_quiet {s : State} (hs : NoErrors s) (hm : MemOk s) (line : Nat) : Quiet s (s.flushHost line) := by
  have hc := clean_of_noErrors hs
  unfold State.flushHost
  split
  · rw [noteL2_clean hc]; exact writeBackHost_quiet hc hm line
  · exact .refl hm

/-! ### Lines across the link -/

theorem setCxl_quiet {s : State} (hm : MemOk s) {c : CxlLines} (h1 : c.hostHeld = s.arr.cxl.hostHeld) (h2 : c.hostOwned = s.arr.cxl.hostOwned) :
    Quiet s (s.setCxl c) := by
  refine quiet_beside hm rfl rfl ?_ rfl
  simp only [errors, arrays, State.setCxl, h1, h2]
theorem cxlAsk_quiet {s : State} (hm : MemOk s) (r : CxlRequest) (line : Nat) : Quiet s (s.cxlAsk r line) := quiet_beside hm rfl rfl rfl rfl

theorem hostLine_quiet {s : State} (hm : MemOk s) (own full : Bool) (u : Nat) : Quiet s (s.hostLine own full u) := by
  unfold State.hostLine
  dsimp only
  split
  · exact .refl hm
  · split <;> exact (setCxl_quiet hm (by rfl) (by rfl)).trans (cxlAsk_quiet (setCxl_memOk hm _) _ _)

theorem dropPool_quiet {s : State} (hs : NoErrors s) (hm : MemOk s) (u : Nat) : Quiet s (s.dropPool u) := by
  have h1 := flushPool_quiet hs hm u
  have h2 := h1.trans (snoopL1s_quiet (h1.noErrors hs) h1.wf .pool u)
  have h3 := h2.trans (untrack_quiet h2.wf [unitKey .pool u])
  exact h3.trans (setCxl_quiet h3.wf rfl rfl)

theorem poolLine_quiet {s : State} (hs : NoErrors s) (hm : MemOk s) (u : Nat) : Quiet s (s.poolLine u) := by
  unfold State.poolLine
  split
  · exact .refl hm
  · dsimp only
    split
    · have h := dropPool_quiet hs hm ((s.arr.cxl.pool.filter (fun x => x % 2 ^ 14 == u % 2 ^ 14)).headD 0)
      exact h.trans (setCxl_quiet h.wf rfl rfl)
    · exact setCxl_quiet hm rfl rfl

theorem hostHeld_nil {s : State} (hs : NoErrors s) : s.arr.cxl.hostHeld = [] := by
  obtain ⟨-, -, harr, -⟩ := hs
  exact congrArg (fun a => a.cxl.hostHeld) harr

theorem cxlRead_quiet {s : State} (hs : NoErrors s) (hm : MemOk s) (sp : MemSpace) (off n size : Nat) : Quiet s (s.cxlRead sp off n size) := by
  cases sp with
  | il => simp only [State.cxlRead, hostHeld_nil hs, List.isEmpty_nil, if_true]; exact .refl hm
  | bl => exact .refl hm
  | host =>
    refine foldl_quiet _ _ hs hm (fun t u _ ht => ?_)
    split
    · exact hostLine_quiet ht _ _ u
    · split
      · exact .refl ht
      · exact cxlAsk_quiet ht _ _
  | pool =>
    simp only [State.cxlRead]
    split
    · exact .refl hm
    · exact foldl_quiet _ _ hs hm (fun t u hs ht => poolLine_quiet hs ht u)

/-! ### Reads of pieces -/

theorem foldl_noteUnit_clean {s : State} (h : Clean s) (sp : MemSpace) (us : List Nat) : us.foldl (fun t u => t.noteUnit sp u) s = s := by
  induction us with
  | nil => rfl
  | cons u r ih => rw [List.foldl_cons, noteUnit_clean h, ih]

theorem readMem_clean {s : State} (h : Clean s) (sp : MemSpace) (off n : Nat) : (s.readMem sp off n).1 = s := foldl_noteUnit_clean h sp _

theorem noteL1_clean {s : State} (hs : NoErrors s) (core : Nat) (sp : MemSpace) (off n : Nat) : s.noteL1 core sp off n = s := by
  obtain ⟨-, -, harr, -⟩ := hs
  have hl1 : s.arr.l1Bad = [] := congrArg ArrayErrors.l1Bad harr
  simp [State.noteL1, hl1]

theorem noteLm_clean {s : State} (hs : NoErrors s) (core off n : Nat) : s.noteLm core off n = s := by
  obtain ⟨-, -, -, hlm⟩ := hs
  obtain ⟨hfresh, hce⟩ := hlm core
  unfold State.noteLm
  induction lmWords off n with
  | nil => rfl
  | cons w r ih => simp only [List.foldl_cons, hfresh, hce, List.contains_nil, Bool.false_and, Bool.false_eq_true, if_false]; exact ih

theorem askWindow_quiet {s : State} (hm : MemOk s) (k : Nat) (mk : Nat → Config.RingMsg) : Quiet s (s.askWindow k mk) := by
  obtain ⟨r, e, w, o, h⟩ := askWindow_sends s k mk
  rw [h]
  exact quiet_beside hm rfl rfl rfl rfl

theorem readPiece_quiet {s : State} (hs : NoErrors s) (hm : MemOk s) (core : Nat) (p : Piece) : Quiet s (s.readPiece core p).s := by
  cases p with
  | lm c off n => simp only [State.readPiece, noteLm_clean hs]; exact .refl hm
  | mem sp off n size =>
    have h := cxlRead_quiet hs hm sp off n size
    simp only [State.readPiece, noteL1_clean (h.noErrors hs), readMem_clean (h.clean hs)]
    exact h
  | remote pos off n => simp only [State.readPiece]; exact askWindow_quiet hm _ _
  | fixed v n => exact .refl hm
  | hidden n => exact .refl hm
  | kons key sp off n =>
    have h := cxlRead_quiet hs hm sp off n 64
    unfold State.readPiece
    dsimp only
    rw [readMem_clean (h.clean hs)]
    split
    · split
      · exact .refl hm
      · exact h
    · split
      · exact h
      · exact h.trans (modCore_quiet h.wf core (f := fun c => { c with
          ccache := tabPut c.ccache key (lineFrom (fun a => (s.cxlRead sp off n 64).physByte sp a) (off / 64)) }) rfl)

theorem readPieces_quiet {s : State} (hs : NoErrors s) (hm : MemOk s) (core : Nat) (ps : List Piece) : Quiet s (s.readPieces core ps).s := by
  induction ps generalizing s with
  | nil => exact .refl hm
  | cons p r ih =>
    have h := readPiece_quiet hs hm core p
    exact h.trans (ih (h.noErrors hs) h.wf)

/-! ### Translations, constants, handles -/

theorem noteWalk_clean {s : State} (h : Clean s) (pasid : BitVec 20) (va : Word) : s.noteWalk pasid va = s := by
  unfold State.noteWalk
  induction ((alignedBase 24 s.ptbase + 16 * pasid.toNat) :: s.walkPath va.toNat 4 (fld (s.pasidEntry pasid) 12 40 * 4096)) with
  | nil => rfl
  | cons o r ih =>
    rw [List.foldl_cons]
    split
    · rw [foldl_noteUnit_clean h]; exact ih
    · exact ih

theorem tlbFill_quiet {s : State} (hs : NoErrors s) (hm : MemOk s) (unit : Nat) (pasid : BitVec 20) (va : Word) :
    Quiet s (s.tlbFill unit pasid va) := by
  unfold State.tlbFill
  dsimp only
  rw [noteWalk_clean (clean_of_noErrors hs)]
  repeat' split
  all_goals exact quiet_beside hm rfl rfl rfl rfl

theorem takeFresh_quiet {s : State} (hm : MemOk s) : Quiet s s.takeFresh := quiet_beside hm rfl rfl rfl rfl

theorem readConst_quiet {s s1 : State} (hs : NoErrors s) (hm : MemOk s) {slot w o x y : Nat} {cwb : Tab Word} {F : Fmt}
    (h : s.readConst slot cwb F w o = .ok (s1, x, y)) : Quiet s s1 := by
  unfold State.readConst at h
  dsimp only at h
  repeat' split at h
  all_goals cases h
  exact readPieces_quiet hs hm _ _

theorem frontValue_quiet {s s1 : State} (hs : NoErrors s) (hm : MemOk s) {F : Option Fmt} {k : Nat} {o : Operand} {v : Word}
    (h : s.frontValue F k o = .ok (s1, v)) : Quiet s s1 := by
  cases o with
  | k w o =>
    simp only [State.frontValue] at h
    split at h
    · cases h
    next s2 x y hc => cases h; exact readConst_quiet hs hm hc
  | none | s _ | p _ | v _ | m _ | i _ | h _ | y _ | off _ => cases h; exact .refl hm

theorem frontValues_quiet {s s1 : State} (hs : NoErrors s) (hm : MemOk s) {F : Option Fmt} {f : Fields} {v : Vals}
    (h : s.frontValues F f = .ok (s1, v)) : Quiet s s1 := by
  unfold State.frontValues at h
  split at h
  · cases h
  next s2 a ha =>
  split at h
  · cases h
  next s3 b hb =>
  split at h
  · cases h
  next s4 c hc =>
  cases h
  have h1 := frontValue_quiet hs hm ha
  have h2 := h1.trans (frontValue_quiet (h1.noErrors hs) h1.wf hb)
  exact h2.trans (frontValue_quiet (h2.noErrors hs) h2.wf hc)

theorem readHandle_quiet {s s1 : State} (hs : NoErrors s) (hm : MemOk s) {slot h : Nat} {e : BitVec 512}
    (hr : s.readHandle slot h = .ok (s1, e)) : Quiet s s1 := by
  unfold State.readHandle at hr
  dsimp only at hr
  split at hr
  · cases hr
  next ps hps =>
  have hread := readPieces_quiet hs hm (coreOf slot) (ps.map (fun p => match p with
    | .kons _ sp off n => Piece.mem sp off n 4096
    | p => p))
  have hfresh := hread.trans (takeFresh_quiet hread.wf)
  split at hr
  · cases hr
  · split at hr
    · split at hr
      · cases hr; exact .refl hm
      · cases hr; exact hfresh
    · cases hr; exact hfresh.trans (modCore_quiet hfresh.wf _ rfl)

theorem readHandles_quiet {s s1 : State} (hs : NoErrors s) (hm : MemOk s) {slot : Nat} {l : List (Nat × Nat)} {m : Tab (BitVec 512)}
    (hr : s.readHandles slot l = .ok (s1, m)) : Quiet s s1 := by
  induction l generalizing s m with
  | nil => cases hr; exact .refl hm
  | cons x r ih =>
    simp only [State.readHandles] at hr
    split at hr
    · cases hr
    next s2 e he =>
    split at hr
    · cases hr
    next s3 m3 h3 =>
    cases hr
    have h1 := readHandle_quiet hs hm he
    exact h1.trans (ih (h1.noErrors hs) h1.wf h3)

end Sys2Proof.Proofs.QuietReads
end

section
/-! SUPPORT. The frame of the front: what an instruction that only computes a register, or that enters a queue, leaves alone. -/
namespace Sys2Proof.Proofs.FrontFrames
open Sys2Proof Sys2Proof.Machine Sys2Proof.Claims Sys2Proof.Proofs.QuietReads Sys2Proof.Proofs.DecodeChecksAndTraps

/-! ### A trap moves neither the program order nor a queue -/

/-- The place of a strand in its program, and how much its queues hold. -/
def order (t : Strand) : Nat × Nat × Nat × Nat := (t.seq, t.lq.length, t.cq.length, t.sq.length)

theorem mayIssue_elim {cyc : Nat} {t : Strand} (h : mayIssue cyc t = true) :
    (t.st = .run ∨ t.st = .wrap ∨ t.st = .held) ∧ t.diverting = none ∧ t.killing = false := by
  simp only [mayIssue, Bool.and_eq_true, Bool.or_eq_true, beq_iff_eq, Option.isNone_iff_eq_none, Bool.not_eq_eq_eq_not, Bool.not_true] at h
  obtain ⟨⟨⟨⟨hst, -⟩, hdiv⟩, -⟩, hkill⟩ := h
  exact ⟨or_assoc.1 hst, hdiv, hkill⟩

theorem ne_default_of_mayIssue {cyc : Nat} {t u : Strand} (h : mayIssue cyc t = true) (hu : u.st = t.st) : u ≠ {} := by
  obtain ⟨hst, -⟩ := mayIssue_elim h
  refine strand_ne_default u ?_
  rw [hu]
  rcases hst with h | h | h <;> rw [h] <;> decide

theorem traps_order (t : Strand) (r : TrapRec) : order (t.traps r) = order t ∧ (t.traps r).st = t.st := by
  unfold Strand.traps
  split <;> exact ⟨rfl, rfl⟩

theorem strand_set_order {s : State} {n : Nat} {t u : Strand} (hu : u ≠ {}) (ho : order u = order t) : order ((s.setStrand n u).strand n) = order t := by
  rw [strand_setStrand s n u hu, ho]

/-- A trap of a strand that may issue. -/
theorem raiseTrap_order {s : State} {slot : Nat} (h : mayIssue s.cycle (s.strand slot) = true) (r : TrapRec) :
    order ((s.raiseTrap slot r).strand slot) = order (s.strand slot) := by
  obtain ⟨hst, hdiv, hkill⟩ := mayIssue_elim h
  have hne (r : TrapRec) : (s.strand slot).traps r ≠ {} := ne_default_of_mayIssue h (traps_order _ r).2
  unfold State.raiseTrap
  dsimp only
  split
  · split
    · exact strand_set_order (ne_default_of_mayIssue h (traps_order _ _).2) (traps_order _ _).1
    · exact strand_set_order (hne _) (traps_order _ _).1
  · rw [hdiv, hkill, if_neg (by decide), if_neg (by rcases hst with h | h | h <;> simp [h]), if_neg (by decide),
      if_neg (by rcases hst with h | h | h <;> simp [h])]
    exact strand_set_order (ne_default_of_mayIssue h (traps_order _ _).2) (traps_order _ _).1

theorem writeIl_kept (s : State) (p : Party) (w : Bool) (o : Nat) (bs : List Byte) : (s.writeIl p w o bs).kept = s.kept := by
  unfold State.writeIl
  split
  · exact writeMem_kept _ _ _ _ _ _
  · exact tellWindow_kept _ _ _ _

theorem postFault_kept (s : State) (i : FaultInfo) : (s.postFault i).kept = s.kept := by
  unfold State.postFault
  split
  · rfl
  · exact writeIl_kept s _ _ _ _

theorem raiseTrap_cur {s : State} {slot : Nat} (h : mayIssue s.cycle (s.strand slot) = true) (r : TrapRec) : (s.raiseTrap slot r).cur = s.cur := by
  obtain ⟨hst, hdiv, hkill⟩ := mayIssue_elim h
  have hpost (i : FaultInfo) (t : Strand) : ((s.postFault i).setStrand slot t).cur = s.cur :=
    show (s.postFault i).cur = s.cur from kept_cur (postFault_kept s i)
  unfold State.raiseTrap
  dsimp only
  split
  · split
    · rfl
    · exact hpost _ _
  · rw [hdiv, hkill, if_neg (by decide), if_neg (by rcases hst with h | h | h <;> simp [h]), if_neg (by decide),
      if_neg (by rcases hst with h | h | h <;> simp [h])]
    rfl

theorem raiseTrap_me_order {s : State} (h : mayIssue s.cycle s.me = true) (r : TrapRec) : order (s.raiseTrap s.cur r).me = order s.me := by
  unfold State.me
  rw [raiseTrap_cur h r]
  exact raiseTrap_order h r

theorem mayIssue_of_frontReady {cyc : Nat} {t : Strand} (h : frontReady cyc t = true) : mayIssue cyc t = true := by
  simp only [frontReady, Bool.and_eq_true] at h
  obtain ⟨⟨⟨h, -⟩, -⟩, -⟩ := h
  exact h

/-- A failed read at decode does not pass the instruction. -/
theorem decodeBad_seq {s : State} (h : mayIssue s.cycle s.me = true) (b : Bad) (k : Nat) : (s.decodeBad b k).me.seq = s.me.seq := by
  cases b with
  | trap c sub => exact congrArg Prod.fst (raiseTrap_me_order h _)
  | held kind c va a => exact congrArg Prod.fst (raiseTrap_me_order h _)
  | moving => rfl

/-! ### Instructions that only compute a register -/

/-- A body that does nothing but compute the value of operand D. -/
def Computes (f : Fields) (body : Vals → State → FRes) : Prop := ∀ v s, ∃ x fl, body v s = .done s (dstVal s f.d x) fl

/-- The change of the strand that a result at the front makes. -/
structure Writes (ds : List Dst) (t u : Strand) : Prop where
  same : u = { t with s := u.s, p := u.p, flight := u.flight, contested := u.contested }
  scalars : ∀ n, Dst.s n ∉ ds → u.getS n = t.getS n
  preds : ∀ n, Dst.p n ∉ ds → u.getP n = t.getP n

theorem Writes.refl (ds : List Dst) (t : Strand) : Writes ds t t := ⟨rfl, fun _ _ => rfl, fun _ _ => rfl⟩
theorem Writes.trans {ds : List Dst} {t u v : Strand} (h : Writes ds t u) (k : Writes ds u v) : Writes ds t v := by
  refine ⟨?_, fun n hn => (k.scalars n hn).trans (h.scalars n hn), fun n hn => (k.preds n hn).trans (h.preds n hn)⟩
  rw [k.same, h.same]

theorem setS_writes {ds : List Dst} (t : Strand) {n : Nat} (h : Dst.s n ∈ ds) (v : Word) : Writes ds t (t.setS n v) := by
  unfold Strand.setS
  split
  · exact .refl ds t
  · refine ⟨rfl, fun m hm => ?_, fun _ _ => rfl⟩
    have hne : n ≠ m := fun e => hm (e ▸ h)
    unfold Strand.getS
    split
    · rfl
    · exact tabGet_set_ne t.s 0 n m v hne

theorem setP_writes {ds : List Dst} (t : Strand) {n : Nat} (h : Dst.p n ∈ ds) (b : Bool) : Writes ds t (t.setP n b) := by
  unfold Strand.setP
  split
  · exact .refl ds t
  · refine ⟨rfl, fun _ _ => rfl, fun m hm => ?_⟩
    have hne : n ≠ m := fun e => hm (e ▸ h)
    unfold Strand.getP
    congr 1
    by_cases hm8 : m < 8
    · rw [MemoryIsReadAsWritten.getLsbD_setFld _ _ _ _ hm8, if_neg (by omega)]
    · rw [BitVec.getLsbD_of_ge _ _ (by omega), BitVec.getLsbD_of_ge _ _ (by omega)]

theorem writeX_writes {ds : List Dst} (t : Strand) (cyc fv : Nat) {d : Dst} (h : d ∈ ds) (v : Word) : Writes ds t (t.writeX cyc fv d v) := by
  have hcont : Writes ds t (if t.pending.contains d then { t with contested := d :: t.contested } else t) := by
    split
    · exact ⟨rfl, fun _ _ => rfl, fun _ _ => rfl⟩
    · exact .refl ds t
  unfold Strand.writeX
  dsimp only
  split
  · exact hcont
  · cases d with
    | s n => exact hcont.trans (setS_writes _ h v)
    | p n => exact hcont.trans (setP_writes _ h _)
    | v n => exact hcont
    | m n => exact hcont

theorem foldl_writeX_writes {ds : List Dst} (cyc fv : Nat) (w : List (Dst × Word)) (h : ∀ x ∈ w, x.1 ∈ ds) (t : Strand) :
    Writes ds t (w.foldl (fun t x => t.writeX cyc fv x.1 x.2) t) := by
  induction w generalizing t with
  | nil => exact .refl ds t
  | cons x r ih =>
    exact (writeX_writes t cyc fv (h x List.mem_cons_self) x.2).trans (ih (fun y hy => h y (List.mem_cons_of_mem _ hy)) _)

/-- Each of these instructions runs at the front with a body that computes its register. -/
theorem frontPlain_run {op : Fields → Instr} (hop : op ∈ frontPlain) (f : Fields) (s : State) :
    ∃ fmt body, exec (op f) s = runFront (op f) f fmt body s ∧ Computes f body := by
  simp only [frontPlain, intTwoOps, intOneOps, List.map_cons, List.map_nil, List.cons_append, List.nil_append, List.mem_cons, List.not_mem_nil,
    or_false] at hop
  rcases hop with rfl | rfl | rfl | rfl | rfl | rfl | rfl | rfl | rfl | rfl | rfl | rfl | rfl | rfl | rfl | rfl | rfl | rfl | rfl | rfl | rfl |
    rfl | rfl | rfl | rfl | rfl | rfl | rfl | rfl | rfl | rfl | rfl | rfl | rfl | rfl | rfl | rfl | rfl | rfl | rfl | rfl | rfl
  all_goals dsimp only [exec]
  all_goals refine ⟨_, _, rfl, ?_⟩
  all_goals exact fun v u => ⟨_, _, rfl⟩

theorem frontPlain_dsts {op : Fields → Instr} (hop : op ∈ frontPlain) (f : Fields) (t : Strand) :
    dstsOf t (op f) f = match f.d with
      | .s n => [.s (t.physS n.toNat)]
      | .p n => [.p n.toNat]
      | .v n => [.v (t.physV n.toNat)]
      | .m n => [.m n.toNat]
      | _ => [] := by
  simp only [frontPlain, intTwoOps, intOneOps, List.map_cons, List.map_nil, List.cons_append, List.nil_append, List.mem_cons, List.not_mem_nil,
    or_false] at hop
  rcases hop with rfl | rfl | rfl | rfl | rfl | rfl | rfl | rfl | rfl | rfl | rfl | rfl | rfl | rfl | rfl | rfl | rfl | rfl | rfl | rfl | rfl |
    rfl | rfl | rfl | rfl | rfl | rfl | rfl | rfl | rfl | rfl | rfl | rfl | rfl | rfl | rfl | rfl | rfl | rfl | rfl | rfl | rfl
  all_goals unfold dstsOf; cases f.d <;> rfl

theorem dstVal_mem {op : Fields → Instr} (hop : op ∈ frontPlain) {f : Fields} {s : State} {v : Word} {x : Dst × Word} (hx : x ∈ dstVal s f.d v) :
    x.1 ∈ dstsOf s.me (op f) f := by
  rw [frontPlain_dsts hop]
  unfold dstVal at hx
  split at hx
  next n hd => obtain rfl := List.mem_singleton.1 hx; rw [hd]; exact List.mem_singleton.2 rfl
  next n hd => obtain rfl := List.mem_singleton.1 hx; rw [hd]; exact List.mem_singleton.2 rfl
  · cases hx

theorem strand_setStrand_other {s : State} {n m : Nat} (t : Strand) (h : m ≠ n) : (s.setStrand n t).strand m = s.strand m :=
  strand_setStrand_ne s n m t h.symm

/-- The strand that the front takes an instruction of stays in use. -/
theorem me_ne_default {s : State} (h : frontReady s.cycle s.me = true) {u : Strand} (hu : u.st = s.me.st) : u ≠ {} :=
  ne_default_of_mayIssue (mayIssue_of_frontReady h) hu

/-- Changes of the acting strand alone. -/
theorem setMe_frame {s : State} (hm : MemOk s) (u : Strand) :
    Quiet s (s.setMe u) ∧ SameOthers s (s.setMe u) :=
  ⟨quiet_beside hm rfl rfl rfl rfl, fun _ hn => strand_setStrand_other u hn⟩

theorem passed_me {s : State} (h : frontReady s.cycle s.me = true) : s.passed.me = s.me.advance := me_setMe s _ (me_ne_default h rfl)

/-- The end of an instruction at the front: its own strand has passed it and holds the results; nothing else has changed. -/
theorem frontEnds_frame {s1 : State} (hm : MemOk s1) (hr : frontReady s1.cycle s1.me = true) {f : Fields} (v : Vals) {w : List (Dst × Word)}
    {ds : List Dst} (hw : ∀ x ∈ w, x.1 ∈ ds) (fl : Flags) :
    Quiet s1 (frontEnds f v s1 s1.passed w fl) ∧ SameOthers s1 (frontEnds f v s1 s1.passed w fl) ∧
      Writes ds s1.me.advance (frontEnds f v s1 s1.passed w fl).me := by
  obtain ⟨hq, ho⟩ := setMe_frame hm s1.me.advance
  unfold frontEnds
  split
  · exact ⟨hq, ho, by rw [passed_me hr]; exact .refl ds _⟩
  · obtain ⟨hq2, ho2⟩ := setMe_frame hq.wf (
      let t1 := w.foldl (fun t x => t.writeX s1.passed.cycle (s1.passed.fv + 8) x.1 x.2) s1.passed.me
      { t1 with flight := t1.flight ++ [{ pos := v.pos, ring := 0, stream := none, seq := s1.me.seq
                                          endsAt := some (s1.passed.cycle + latBound f.lat.toNat), dsts := w.map (·.1), flags := fl, tk := 0 }] })
    have hfold := foldl_writeX_writes (ds := ds) s1.passed.cycle (s1.passed.fv + 8) w hw s1.passed.me
    refine ⟨hq.trans hq2, fun n hn => (ho2 n hn).trans (ho n hn), ?_⟩
    have hst : (w.foldl (fun t x => t.writeX s1.passed.cycle (s1.passed.fv + 8) x.1 x.2) s1.passed.me).st = s1.me.st := by
      rw [hfold.same, passed_me hr]; rfl
    have hme : (s1.passed.openWindow v.pos none 0 s1.me.seq (latBound f.lat.toNat) 0 w fl).me = _ :=
      me_setMe s1.passed _ (me_ne_default hr hst)
    rw [hme, ← passed_me hr]
    exact hfold.trans ⟨rfl, fun _ _ => rfl, fun _ _ => rfl⟩

/-- An instruction that only computes a register: memory, tiles and the other strands stay; of its own strand the position moves, and of the
registers its destination. -/
theorem frontPlain_frame {op : Fields → Instr} (hop : op ∈ frontPlain) {f : Fields} {s t : State} (hs : NoErrors s) (hm : MemOk s)
    (h : frontTakes (op f) f s = true) (hex : exec (op f) s = .next t) (hseq : t.me.seq = s.me.seq + 1) :
    Quiet s t ∧ SameOthers s t ∧ Writes (dstsOf s.me (op f) f) s.me.advance t.me := by
  obtain ⟨fmt, body, hrun, hbody⟩ := frontPlain_run hop f s
  obtain ⟨ha, hr, sp, hsp, hd⟩ := (frontTakes_iff _ f s).1 h
  cases hv : s.frontValues fmt f with
  | error bk =>
    obtain ⟨b, k⟩ := bk
    have hend : exec (op f) s = .next (s.decodeBad b k) := by
      rw [hrun]; simp [runFront, hsp, ha, hr, hd, hv]
    cases hend.symm.trans hex
    rw [decodeBad_seq (mayIssue_of_frontReady hr)] at hseq
    omega
  | ok r =>
    obtain ⟨s1, v⟩ := r
    obtain ⟨hkept, -⟩ := frontValues_kept hv
    have hq := frontValues_quiet hs hm hv
    have hme : s1.me = s.me := kept_me hkept
    have hr1 : frontReady s1.cycle s1.me = true := by rw [kept_cycle hkept, hme]; exact hr
    obtain ⟨x, fl, hb⟩ := hbody v s1.passed
    have hend := runFront_done h hv hb
    cases (hrun.symm.trans hex).symm.trans hend
    have hw : ∀ y ∈ dstVal s1.passed f.d x, y.1 ∈ dstsOf s.me (op f) f := fun y hy => by
      have hmem := dstVal_mem hop hy
      rw [frontPlain_dsts hop] at hmem ⊢
      rwa [passed_me hr1, hme] at hmem
    obtain ⟨hq2, ho2, hw2⟩ := frontEnds_frame hq.wf hr1 v hw fl
    rw [hme] at hw2
    refine ⟨hq.trans hq2, fun n hn => ?_, hw2⟩
    rw [ho2 n (by rw [kept_cur hkept]; exact hn), kept_strand hkept]

/-! ### Handles are read beside the strands -/

theorem readHandle_kept {s s1 : State} {slot h : Nat} {e : BitVec 512} (hr : s.readHandle slot h = .ok (s1, e)) : s1.kept = s.kept := by
  unfold State.readHandle at hr
  dsimp only at hr
  split at hr
  · cases hr
  next ps _ =>
  have hread := readPieces_kept s (coreOf slot) (ps.map (fun p => match p with
    | .kons _ sp off n => Piece.mem sp off n 4096
    | p => p))
  split at hr
  · cases hr
  · split at hr
    · split at hr
      · cases hr; rfl
      · cases hr; exact hread
    · cases hr; exact hread

theorem readHandles_kept {s s1 : State} {slot : Nat} {l : List (Nat × Nat)} {m : Tab (BitVec 512)} (hr : s.readHandles slot l = .ok (s1, m)) :
    s1.kept = s.kept := by
  induction l generalizing s m with
  | nil => cases hr; rfl
  | cons x r ih =>
    simp only [State.readHandles] at hr
    split at hr
    · cases hr
    next s2 e he =>
    split at hr
    · cases hr
    next s3 m3 h3 =>
    cases hr
    exact (ih h3).trans (readHandle_kept he)

/-! ### Instructions that enter a queue -/

theorem enterQueue_bad {i : Instr} {f : Fields} {s : State} {sp : ISpec} {b : Bad} {k : Nat} (hsp : ispec i = some sp)
    (hr : frontReady s.cycle s.me = true) (hd : decodeStop i sp f s = none) (hh : s.readHandles s.cur (handlesOf i f) = .error (b, k)) :
    enterQueue i f s = .next (s.decodeBad b k) := by
  simp only [enterQueue, hsp, hr, hd, hh, Bool.not_true, Bool.false_eq_true, if_false]

/-- A handle that cannot be read stops the instruction at the front. -/
theorem queueInstrs_bad {op : Fields → Instr} (hop : op ∈ queueInstrs) {f : Fields} {s : State} {sp : ISpec} {b : Bad} {k : Nat}
    (hsp : ispec (op f) = some sp) (ht : frontTakes (op f) f s = true) (hh : s.readHandles s.cur (handlesOf (op f) f) = .error (b, k)) :
    exec (op f) s = .next (s.decodeBad b k) := by
  obtain ⟨ha, hr, sp', hsp', hd⟩ := (frontTakes_iff (op f) f s).1 ht
  obtain rfl : sp' = sp := Option.some.inj (hsp'.symm.trans hsp)
  rcases QueueEntries.exec_ofQueue (QueueEntries.instrFields_queueInstrs f op hop) s with hf | ⟨ack, body, h⟩ | ⟨⟨body, h⟩, hroute⟩
  · exact absurd hf (QueueEntries.route_queueInstrs f op hop)
  · rw [h, runQueue, ha]
    exact enterQueue_bad hsp hr hd hh
  · have hc : sp'.route = .c := by simpa [hsp] using hroute
    rw [h, runQueue, ha]
    exact enterQueue_bad hsp hr ((decodeStop_popsOnly hc f s).trans hd) ((congrArg _ (QueueEntries.handlesOf_popsOnly _ _)).trans hh)

/-- The change of the strand that an entry into its queues makes. -/
def Enters (t u : Strand) : Prop :=
  u = { t with lq := u.lq, cq := u.cq, sq := u.sq, lring := u.lring, cring := u.cring, sring := u.sring, pending := u.pending }

theorem Enters.trans {t u v : Strand} (h : Enters t u) (k : Enters u v) : Enters t v := by
  unfold Enters at *
  rw [k, h]

theorem enqueue_enters (t : Strand) (q : Queue) (e : QEntry) : Enters t (t.enqueue q e) := by cases q <;> exact rfl

theorem entered_enters (t : Strand) (r : Route) (e : QEntry) : Enters t (entered t r e) := by
  cases r with
  | f => exact rfl
  | l => exact enqueue_enters t .L e
  | c => exact enqueue_enters t .C e
  | s => exact enqueue_enters t .S e
  | ls => exact (enqueue_enters t .L e).trans (enqueue_enters _ .S e)

theorem marked_enters (t : Strand) (sp : ISpec) (e : QEntry) : Enters t (marked t sp e) := by
  unfold marked
  split <;> exact rfl

/-- The strand passes an instruction that it has entered into a queue. -/
theorem Enters.advance {t u : Strand} (h : Enters t u) : u.advance = { t with
    pc := t.pc + 1, seq := t.seq + 1, lq := u.advance.lq, cq := u.advance.cq, sq := u.advance.sq, lring := u.advance.lring
    cring := u.advance.cring, sring := u.advance.sring, pending := u.advance.pending } := by
  unfold Strand.advance
  rw [h]

theorem queueInstrs_frame {op : Fields → Instr} (hop : op ∈ queueInstrs) {f : Fields} {s t : State} (hs : NoErrors s) (hm : MemOk s)
    (h : frontTakes (op f) f s = true) (hex : exec (op f) s = .next t) (hseq : t.me.seq = s.me.seq + 1) :
    Quiet s t ∧ SameOthers s t ∧ t.me = { s.me with
      pc := s.me.pc + 1, seq := s.me.seq + 1, lq := t.me.lq, cq := t.me.cq, sq := t.me.sq, lring := t.me.lring, cring := t.me.cring
      sring := t.me.sring, pending := t.me.pending } := by
  obtain ⟨ha, hr, sp, hsp, hd⟩ := (frontTakes_iff _ f s).1 h
  cases hh : s.readHandles s.cur (handlesOf (op f) f) with
  | error bk =>
    obtain ⟨b, k⟩ := bk
    cases (queueInstrs_bad hop hsp h hh).symm.trans hex
    rw [decodeBad_seq (mayIssue_of_frontReady hr)] at hseq
    omega
  | ok r =>
    obtain ⟨s1, hs1⟩ := r
    have hq := readHandles_quiet hs hm hh
    have hkept := readHandles_kept hh
    have hme : s1.me = s.me := kept_me hkept
    cases (QueueEntries.queueInstructionsEnterTheirQueue op hop f s s1 sp hs1 hsp h hh).symm.trans hex
    obtain ⟨hq2, ho2⟩ := setMe_frame hq.wf (marked (entered s1.me sp.route (s1.entryOf (op f) f hs1)) sp (s1.entryOf (op f) f hs1)).advance
    refine ⟨hq.trans hq2, fun n hn => ?_, ?_⟩
    · rw [ho2 n (by rw [kept_cur hkept]; exact hn), kept_strand hkept]
    · have hsame := ((entered_enters s1.me sp.route (s1.entryOf (op f) f hs1)).trans (marked_enters _ sp (s1.entryOf (op f) f hs1))).advance
      have hset : (s1.setMe (marked (entered s1.me sp.route (s1.entryOf (op f) f hs1)) sp (s1.entryOf (op f) f hs1)).advance).me = _ :=
        me_setMe s1 _ (me_ne_default hr (by rw [hsame, hme]))
      rw [hset]
      rw [hme] at hsame ⊢
      exact hsame

/-- Settles O57: a register's value or a queue's entry is all that the front adds; reading the operands is quiet. -/
theorem frontInstructionsChangeNothingElse : Obligations.FrontInstructionsChangeNothingElse := by
  unfold Obligations.FrontInstructionsChangeNothingElse
  constructor
  · intro op hop f s t hs hm h hex hseq
    obtain ⟨hq, ho, hw⟩ := frontPlain_frame hop hs hm h hex hseq
    exact ⟨hq.sameMemory, hq.sameLm, hq.sameTiles, ho, hw.same, hw.scalars, hw.preds⟩
  · intro op hop f s t hs hm h hex hseq
    obtain ⟨hq, ho, hme⟩ := queueInstrs_frame hop hs hm h hex hseq
    exact ⟨hq.sameMemory, hq.sameLm, hq.sameTiles, ho, hme⟩

end Sys2Proof.Proofs.FrontFrames
end

section
/-! SUPPORT. What the loads and the vector unit leave alone while they work: reading is quiet, and the results go to the vector registers and to
the strand's own windows. -/
namespace Sys2Proof.Proofs.Readers
open Sys2Proof Sys2Proof.Machine Sys2Proof.Claims Sys2Proof.Proofs.QuietReads Sys2Proof.Proofs.FrontFrames

/-! ### Reading -/

/-- Where the device stands and what its strands are. -/
def control (s : State) : Nat × Acting × Nat × Tab Strand := (s.cur, s.acting, s.cycle, s.strands)

theorem control_of_kept {s t : State} (h : t.kept = s.kept) : control t = control s := by
  have h2 : t.acting = s.acting := congrArg Kept.acting h
  have h4 : t.strands = s.strands := congrArg Kept.strands h
  rw [control, kept_cur h, h2, kept_cycle h, h4]; rfl

theorem control_cur {s t : State} (h : control t = control s) : t.cur = s.cur := congrArg Prod.fst h
theorem control_cycle {s t : State} (h : control t = control s) : t.cycle = s.cycle := congrArg (fun x => x.2.2.1) h
theorem control_strand {s t : State} (h : control t = control s) (n : Nat) : t.strand n = s.strand n := by
  have hstrands : t.strands = s.strands := congrArg (fun x => x.2.2.2) h
  rw [State.strand, hstrands]; rfl
theorem control_me {s t : State} (h : control t = control s) : t.me = s.me := by
  rw [State.me, control_cur h, control_strand h]; rfl

/-- `t` comes from `s` by reads: memory, the cores' own memories and the strands are the same. -/
structure Calm (s t : State) : Prop where
  quiet : Quiet s t
  control : control t = control s

theorem Calm.refl {s : State} (hm : MemOk s) : Calm s s := ⟨.refl hm, rfl⟩
theorem Calm.trans {s t u : State} (h : Calm s t) (k : Calm t u) : Calm s u := ⟨h.quiet.trans k.quiet, k.control.trans h.control⟩
theorem calm_of_kept {s t : State} (h : Quiet s t) (k : t.kept = s.kept) : Calm s t := ⟨h, control_of_kept k⟩

theorem foldl_calm {α : Type} (l : List α) (g : State → α → State) {s : State} (hs : NoErrors s) (hm : MemOk s)
    (h : ∀ t x, NoErrors t → MemOk t → Calm t (g t x)) : Calm s (l.foldl g s) := by
  induction l generalizing s with
  | nil => exact .refl hm
  | cons x r ih =>
    have hx := h s x hs hm
    exact hx.trans (ih (hx.quiet.noErrors hs) hx.quiet.wf)

section
variable {s t : State} (hs : NoErrors s) (hm : MemOk s)
include hs hm

theorem readPieces_calm (core : Nat) (ps : List Piece) : Calm s (s.readPieces core ps).s :=
  calm_of_kept (readPieces_quiet hs hm core ps) (readPieces_kept s core ps)
theorem tlbFill_calm (unit : Nat) (pasid : BitVec 20) (va : Word) : Calm s (s.tlbFill unit pasid va) :=
  calm_of_kept (tlbFill_quiet hs hm unit pasid va) (tlbFill_kept s unit pasid va)
omit hs in
theorem modCore_calm (n : Nat) {f : Core → Core} (hf : part (f (s.core n)) = part (s.core n)) : Calm s (s.modCore n f) :=
  ⟨modCore_quiet hm n hf, rfl⟩
omit hs in
theorem takeWords_calm (core : Nat) (ws : List Nat) : Calm s (s.takeWords core ws) := modCore_calm hm core rfl
omit hs in
theorem keepTile_calm (slot : Nat) (sys : Bool) (h : Nat) (e : BitVec 512) (x : Coord) : Calm s (s.keepTile slot sys h e x) := by
  unfold State.keepTile
  split
  · exact .refl hm
  · split
    · exact .refl hm
    · dsimp only
      split
      · exact .refl hm
      · exact ⟨quiet_beside hm rfl rfl rfl rfl, rfl⟩
theorem fillElems_calm (h : Nat) (e : BitVec 512) (xs : List Coord) : Calm s (s.fillElems h e xs) := by
  unfold State.fillElems
  split
  · exact .refl hm
  · refine foldl_calm _ _ hs hm (fun t x ht hm => ?_)
    have hfill := tlbFill_calm ht hm t.myCore t.me.pasid
      (BitVec.ofNat 64 (hBase e + if hLayout e = 1 then 8 * tileNumber e x else hElemBit e x / 8))
    exact hfill.trans (keepTile_calm hfill.quiet.wf _ _ _ _ _)
omit hs in
theorem takeTile_calm (ws : List Nat) : Calm s (s.takeTile ws) := by
  unfold State.takeTile
  split
  · exact .refl hm
  · exact takeWords_calm hm _ _
omit hs in
theorem takeRegions_calm (core key : Nat) : Calm s (s.takeRegions core key) := by
  unfold State.takeRegions
  dsimp only
  split
  · exact .refl hm
  · exact modCore_calm hm core rfl
theorem readElems_calm (bits : Nat) (ps : List ElemAt) : Calm s (s.readElems bits ps).1.s := by
  induction ps generalizing s with
  | nil => exact .refl hm
  | cons p r ih =>
    have h : Calm s (s.elemRead s.myCore bits p).1.s := readPieces_calm hs hm _ _
    exact h.trans (ih (h.quiet.noErrors hs) h.quiet.wf)
theorem vArg_calm {e : QEntry} {rows cols : Nat} {a : VArg} {l : List Nat} (h : s.vArg e rows cols a = .ok (t, l)) : Calm s t := by
  unfold State.vArg at h
  split at h
  · cases h; exact .refl hm
  · cases h; exact .refl hm
  · cases h; exact .refl hm
  · split at h
    · cases h
    next hc => cases h; exact calm_of_kept (readConst_quiet hs hm hc) (readConst_kept hc)
  · cases h; exact .refl hm
end

/-- No load of a strand without late accesses is bound by another one. -/
theorem settleLoads_none {s : State} {slot : Nat} (h : NoneLate (s.strand slot)) (hit : List Piece → Bool) : s.settleLoads slot hit = s := by
  obtain ⟨-, -, hflight⟩ := h
  unfold State.settleLoads
  dsimp only
  rw [if_neg]
  simp only [List.any_eq_true, not_exists, not_and]
  intro x hx y hy
  rw [(hflight x hx).2] at hy
  cases hy
theorem bindFor_none {s : State} (h : NoneLate s.me) (ps : List Piece) : s.bindFor ps = s := settleLoads_none h _

/-! ### What a reader changes of its strand and of the tiles -/

/-- The change of the own strand while a reader works. -/
structure Uses (t u : Strand) : Prop where
  same : u = { t with lq := u.lq, flight := u.flight, k := u.k, rebind := u.rebind, seen := u.seen, wrote := u.wrote }
  length : u.lq.length = t.lq.length
theorem Uses.refl (t : Strand) : Uses t t := ⟨rfl, rfl⟩
theorem Uses.trans {t u v : Strand} (h : Uses t u) (k : Uses u v) : Uses t v := ⟨by rw [k.same, h.same], k.length.trans h.length⟩
theorem Uses.st {t u : Strand} (h : Uses t u) : u.st = t.st := by rw [h.same]

theorem noteRuns_uses (t : Strand) (seq : Nat) (rs : List Run) : Uses t (t.noteRuns seq rs) :=
  ⟨rfl, List.length_map _⟩
theorem setK_uses (t : Strand) (k i : Nat) (v : Word) : Uses t (t.setK k i v) := ⟨rfl, rfl⟩
theorem foldl_uses {α : Type} (l : List α) (g : Strand → α → Strand) (h : ∀ t x, Uses t (g t x)) (t : Strand) : Uses t (l.foldl g t) := by
  induction l generalizing t with
  | nil => exact .refl t
  | cons x r ih => exact (h t x).trans (ih _)

/-- `t` comes from `s` by a reader's work: memory and local memory are the same, and all strands but its own. -/
structure Reading (s t : State) : Prop where
  mem : SameMemory s t
  lm : SameLm s t
  cur : t.cur = s.cur
  others : SameOthers s t
  strand : Uses s.me t.me

theorem sameMemory_trans {s t u : State} (h : SameMemory s t) (k : SameMemory t u) : SameMemory s u := by
  obtain ⟨a1, a2, a3, a4, a5, a6⟩ := h
  obtain ⟨b1, b2, b3, b4, b5, b6⟩ := k
  exact ⟨fun sp a => (b1 sp a).trans (a1 sp a), b2.trans a2, b3.trans a3, b4.trans a4, b5.trans a5, b6.trans a6⟩

theorem Reading.trans {s t u : State} (h : Reading s t) (k : Reading t u) : Reading s u :=
  ⟨sameMemory_trans h.mem k.mem, fun n => ⟨(k.lm n).1.trans (h.lm n).1, (k.lm n).2.trans (h.lm n).2⟩, k.cur.trans h.cur,
    fun n hn => (k.others n (by rwa [h.cur])).trans (h.others n hn), h.strand.trans k.strand⟩

theorem Calm.reading {s t : State} (h : Calm s t) : Reading s t :=
  ⟨h.quiet.sameMemory, h.quiet.sameLm, control_cur h.control, fun n _ => control_strand h.control n, by rw [control_me h.control]; exact .refl _⟩

/-- A change of the own strand. -/
theorem setMe_reading {s : State} {u : Strand} (hst : s.me.st ≠ .unbound) (h : Uses s.me u) : Reading s (s.setMe u) := by
  refine ⟨⟨fun _ _ => rfl, rfl, rfl, rfl, rfl, rfl⟩, fun _ => ⟨rfl, rfl⟩, rfl, fun n hn => strand_setStrand_other u hn, ?_⟩
  rw [me_setMe s u (strand_ne_default u (by rw [h.st]; exact hst))]
  exact h

theorem putTile_reading {s : State} (hm : MemOk s) (core phys eb : Nat) (vs : List (Option Nat)) : Reading s (s.putTile core phys eb vs) := by
  refine ⟨⟨fun _ _ => rfl, rfl, rfl, rfl, rfl, rfl⟩, fun n => ?_, rfl, fun _ _ => rfl, .refl _⟩
  unfold State.putTile
  by_cases h : core = n
  · subst h; rw [core_modCore_self hm]; exact ⟨rfl, rfl⟩
  · rw [core_modCore_ne s _ h]; exact ⟨rfl, rfl⟩

theorem writeTile_reading {s : State} (hm : MemOk s) (hst : s.me.st ≠ .unbound) (core phys eb : Nat) (vs : List (Option Nat)) :
    Reading s (s.writeTile core phys eb vs) := by
  have hput := putTile_reading hm core phys eb (s.meet phys eb vs)
  exact hput.trans (setMe_reading (by exact hst) (noteRuns_uses _ _ _))

/-! ### What a body answers -/

/-- A body of a reader: performed, it has changed nothing beside; stopped, nothing of the strands. -/
def Reads (s : State) : QRes → Prop
  | .done s1 _ _ => Reading s s1
  | .trap s1 _ _ _ => control s1 = control s
  | _ => True

theorem res_reads {s s1 : State} (h : control s1 = control s) (b : Bad) (o k : Nat) : Reads s (b.res s1 o k) := by
  cases b with
  | trap c sub => exact h
  | held kind c va a => trivial
  | moving => trivial

theorem withPlace_reads {s : State} (hs : NoErrors s) (hm : MemOk s) {va : Word} {n al : Nat} {acc : Acc} {k : List Piece → State → QRes}
    (h : ∀ ps s1, Calm s s1 → Reads s (k ps s1)) : Reads s (withPlace s va n al acc k) := by
  unfold withPlace
  split
  · exact res_reads rfl _ _ _
  · exact h _ _ (tlbFill_calm hs hm _ _ _)

theorem withBytes_reads {s : State} (hs : NoErrors s) {s0 : State} (h0 : Calm s s0) {ps : List Piece} {k : List Byte → State → QRes}
    (h : ∀ bs s1, Calm s s1 → Reads s (k bs s1)) : Reads s (withBytes s0 ps k) := by
  have hread := h0.trans (readPieces_calm (h0.quiet.noErrors hs) h0.quiet.wf s0.myCore ps)
  unfold withBytes
  dsimp only
  split
  · exact hread.control
  · exact h _ _ hread

theorem withArgs_reads {s : State} (hs : NoErrors s) (hm : MemOk s) {f : Fields} {e : QEntry} {fa fb fc : Fmt} {k : State → List Nat → List Nat → List Nat → QRes}
    (h : ∀ s1 a b c, Calm s s1 → Reads s (k s1 a b c)) : Reads s (withArgs f e fa fb fc s k) := by
  unfold withArgs
  dsimp only
  split
  · exact res_reads rfl _ _ _
  next s1 a ha =>
  have h1 := vArg_calm hs hm ha
  split
  · exact res_reads h1.control _ _ _
  next s2 b hb =>
  have h2 := h1.trans (vArg_calm (h1.quiet.noErrors hs) h1.quiet.wf hb)
  split
  · exact res_reads h2.control _ _ _
  next s3 c hc => exact h _ _ _ _ (h2.trans (vArg_calm (h2.quiet.noErrors hs) h2.quiet.wf hc))

theorem withLm_reads {s : State} (hm : MemOk s) {f : Fields} {e : QEntry} {size al : Nat} {rd wr : Bool} {k : State → Nat → Nat → QRes}
    (h : ∀ s1 core off, Calm s s1 → Reads s (k s1 core off)) : Reads s (withLm f e size al rd wr s k) := by
  unfold withLm
  split
  · exact h _ _ _ (takeWords_calm hm _ _)
  · trivial
  · exact rfl
  · exact res_reads rfl _ _ _

theorem toTile_reads {s s1 : State} (hst : s.me.st ≠ .unbound) (h : Calm s s1) (e : QEntry) (eb : Nat) (rs : List (Option (Nat × Flags))) :
    Reads s (toTile s1 e eb rs) :=
  h.reading.trans (writeTile_reading h.quiet.wf (by rw [control_me h.control]; exact hst) _ _ _ _)

/-! ### The loads -/

section
variable {s : State} (hs : NoErrors s) (hm : MemOk s) (hst : s.me.st ≠ .unbound) (hlate : NoneLate s.me)

theorem Calm.inUse {s s1 : State} (h : Calm s s1) (hst : s.me.st ≠ .unbound) : s1.me.st ≠ .unbound := by rwa [control_me h.control]
theorem Calm.bindFor {s s1 : State} (h : Calm s s1) (hlate : NoneLate s.me) (ps : List Piece) : s1.bindFor ps = s1 :=
  bindFor_none (by rwa [control_me h.control]) ps

theorem mayRebind_reading {s : State} (hst : s.me.st ≠ .unbound) (k : Nat) (x : Fmt) (ps : List Piece) : Reading s (s.mayRebind k x ps) := by
  unfold State.mayRebind
  split
  · exact setMe_reading hst ⟨rfl, rfl⟩
  · exact ⟨⟨fun _ _ => rfl, rfl, rfl, rfl, rfl, rfl⟩, fun _ => ⟨rfl, rfl⟩, rfl, fun _ _ => rfl, .refl _⟩

theorem Reading.inUse {s t : State} (h : Reading s t) (hst : s.me.st ≠ .unbound) : t.me.st ≠ .unbound := by rwa [h.strand.st]

theorem gains_reading {s : State} (hst : s.me.st ≠ .unbound) (c : Clock) : Reading s (s.gains c) := setMe_reading hst ⟨rfl, rfl⟩

theorem raiseKnown_reading {s : State} (hm : MemOk s) : Reading s s.raiseKnown := by
  unfold State.raiseKnown
  exact (modCore_calm hm _ (by rfl)).reading

theorem acquireAt_reading {s : State} (hm : MemOk s) (hst : s.me.st ≠ .unbound) (keys : List Nat) (scp : Nat) :
    Reading s (s.acquireAt keys scp) := by
  unfold State.acquireAt State.acquireOf
  split
  · exact (Calm.refl hm).reading
  · exact (gains_reading hst _).trans (raiseKnown_reading (modStrand_memOk hm _ _))

include hs hm hst hlate

theorem ldsBody_reads (f : Fields) (e : QEntry) : Reads s (ldsBody f e s) := by
  unfold ldsBody
  refine withPlace_reads hs hm (fun ps s1 h1 => ?_)
  dsimp only
  rw [h1.bindFor hlate]
  exact withBytes_reads hs h1 (fun bs s2 h2 => h2.reading.trans (mayRebind_reading (h2.inUse hst) _ _ _))

theorem ldqBody_reads (f : Fields) (e : QEntry) : Reads s (ldqBody f e s) := by
  unfold ldqBody
  refine withPlace_reads hs hm (fun ps s1 h1 => ?_)
  dsimp only
  rw [h1.bindFor hlate]
  refine withBytes_reads hs h1 (fun bs s2 h2 => ?_)
  have hlo := h2.reading.trans (mayRebind_reading (h2.inUse hst) 0 .int64 (slicePieces (s1.cached (policyOf f.hint 0) ps) 0 8))
  have hhi := hlo.trans (mayRebind_reading (hlo.inUse hst) 1 .int64 (slicePieces (s1.cached (policyOf f.hint 0) ps) 8 8))
  show Reading s _
  split
  · exact h2.reading
  · exact hhi

theorem ldaBody_reads (f : Fields) (e : QEntry) : Reads s (ldaBody f e s) := by
  unfold ldaBody
  refine withPlace_reads hs hm (fun ps s1 h1 => ?_)
  dsimp only
  rw [h1.bindFor hlate]
  exact withBytes_reads hs h1 (fun bs s2 h2 => h2.reading.trans (acquireAt_reading h2.quiet.wf (h2.inUse hst) _ _))

omit hm hst hlate in
theorem ldbRefetch_reads {s1 : State} (h1 : Calm s s1) (x : Fmt) (sp : MemSpace) (off n core key : Nat) (k : BitVec 32) :
    Reads s (ldbRefetch x sp off n core key k s1) := by
  have hread : Calm s1 ((s1.cxlRead sp (off / 64 * 64) 64 64).readMem sp (off / 64 * 64) 64).1 := by
    have hask := cxlRead_quiet (h1.quiet.noErrors hs) h1.quiet.wf sp (off / 64 * 64) 64 64
    refine calm_of_kept ?_ ((readMem_kept _ _ _ _).trans (cxlRead_kept _ _ _ _ _))
    rw [readMem_clean (hask.clean (h1.quiet.noErrors hs))]
    exact hask
  have h2 := h1.trans hread
  unfold ldbRefetch
  dsimp only
  split
  · exact h2.control
  · have hknown := h2.trans (modCore_calm h2.quiet.wf core (f := fun c => { c with known := tabPut c.known key k }) rfl)
    exact (hknown.trans (modCore_calm hknown.quiet.wf _ rfl)).reading

omit hst in
theorem ldbBody_reads (f : Fields) (e : QEntry) : Reads s (ldbBody f e s) := by
  unfold ldbBody
  refine withPlace_reads hs hm (fun ps s0 h0 => ?_)
  dsimp only
  rw [h0.bindFor hlate]
  have hbytes {s1 : State} (h1 : Calm s s1) (ps : List Piece) :
      Reads s (withBytes s1 ps (fun bs s => .done s [loaded (memFmt f) bs] 0)) :=
    withBytes_reads hs h1 (fun bs s2 h2 => h2.reading)
  have h1 : Calm s (if s0.me.rrt = 0 then s0 else s0.takeRegions s0.myCore (regionKey s0.me 0)) := by
    split
    · exact h0
    · exact h0.trans (takeRegions_calm h0.quiet.wf _ _)
  generalize (if s0.me.rrt = 0 then s0 else s0.takeRegions s0.myCore (regionKey s0.me 0)) = s1 at h1
  split
  · split
    · exact hbytes h1 _
    · split
      · split
        · exact (h1.trans (modCore_calm h1.quiet.wf _ rfl)).reading
        · split
          · trivial
          · exact ldbRefetch_reads hs h1 _ _ _ _ _ _ _
      · split
        · exact hbytes h1 _
        · exact ldbRefetch_reads hs h1 _ _ _ _ _ _ _
  · exact hbytes h1 _

theorem loadTile_reads (f : Fields) (e : QEntry) (perElem : Bool) (coord : Nat → Nat → Coord) : Reads s (s.loadTile f e perElem coord) := by
  unfold State.loadTile
  dsimp only
  split
  · exact res_reads rfl _ _ _
  next ps _ =>
  split
  · trivial
  · have hfill := fillElems_calm hs hm (handleNum f.a) (e.entry f.a)
      ((s.activeElems f.e (shpRows e.shp) (shpCols e.shp)).map (fun p => coord p.1 p.2))
    have htake := hfill.trans (takeTile_calm hfill.quiet.wf (lmTouched ps))
    rw [htake.bindFor hlate]
    have hread := htake.trans (readElems_calm (htake.quiet.noErrors hs) htake.quiet.wf (memFmt f).memBits ps)
    split
    · exact hread.control
    · split
      · exact hread.reading.trans (writeTile_reading hread.quiet.wf (hread.inUse hst) _ _ _ _)
      · exact hread.reading

omit hst hlate in
theorem feqBody_reads (f : Fields) (e : QEntry) : Reads s (feqBody f e s) := by
  refine withLm_reads hm (fun s1 core off h1 => ?_)
  unfold noUe
  rw [noteLm_clean (h1.quiet.noErrors hs)]
  split
  · exact h1.control
  · exact h1.reading
end

/-! ### The vector unit -/

section
variable {s : State} (hs : NoErrors s) (hm : MemOk s) (hst : s.me.st ≠ .unbound)
include hs hm hst

theorem perElem_reads (f : Fields) (fa fb fc fd : Fmt) (g : Nat → Nat → Nat → Nat × Flags) (e : QEntry) :
    Reads s (perElem f fa fb fc fd g e s) :=
  withArgs_reads hs hm (fun _ _ _ _ h => toTile_reads hst h e _ _)

theorem vcmpBody_reads (f : Fields) (e : QEntry) : Reads s (vcmpBody f e s) := by
  refine withArgs_reads hs hm (fun s1 a b c h => ?_)
  dsimp only
  split
  · exact h.reading.trans (setMe_reading (h.inUse hst) ((foldl_uses _ _ (fun t r => setK_uses t _ _ _) _).trans (noteRuns_uses _ _ _)))
  · exact h.reading

theorem vselBody_reads (f : Fields) (e : QEntry) : Reads s (vselBody f e s) :=
  withArgs_reads (f := { f with c := .none }) (fa := memFmt f) (fb := memFmt f) (fc := memFmt f) hs hm (fun _ _ _ _ h => toTile_reads hst h e _ _)

omit hs in
theorem tile_reads (e : QEntry) (eb : Nat) (rs : List (Option (Nat × Flags))) : Reads s (toTile s e eb rs) := toTile_reads hst (.refl hm) e eb rs

omit hs in
theorem vqntBody_reads (f : Fields) (e : QEntry) : Reads s (vqntBody f e s) := by
  unfold vqntBody
  dsimp only
  have h1 := writeTile_reading hm hst s.myCore (dstV e 0) 1
    (((blocks32 (shpRows e.shp * shpCols e.shp / 32) (s.tile s.cur e.a.toNat (srcFmt f).regBytes (shpRows e.shp * shpCols e.shp))).map
      (quantBlock (srcFmt f) (memFmt f) (vMode f e))).flatMap (fun q => q.2.1.map some))
  exact h1.trans (writeTile_reading (writeTile_memOk hm _ _ _ _) (h1.inUse hst) _ _ _ _)

omit hs in
theorem writeTile_reads (core phys eb : Nat) (vs : List (Option Nat)) (fl : Flags) : Reads s (.done (s.writeTile core phys eb vs) [] fl) :=
  writeTile_reading hm hst core phys eb vs

theorem vscaleBody_reads (f : Fields) (e : QEntry) : Reads s (vscaleBody f e s) := by
  unfold vscaleBody
  dsimp only
  split
  · exact res_reads rfl _ _ _
  next s1 a ha =>
  have h1 := vArg_calm hs hm ha
  split <;> exact toTile_reads hst h1 e _ _

omit hs in
theorem vscanBody_reads (f : Fields) (e : QEntry) : Reads s (vscanBody f e s) := by
  unfold vscanBody
  dsimp only
  split <;> exact tile_reads hm hst e _ _
end

/-! ### All readers -/

/-- The instruction runs a body that reads. -/
def RunsReading (f : Fields) (s : State) (op : Fields → Instr) : Prop :=
  ∃ body, exec (op f) s = runQueue (op f) f .none body s ∧ ∀ e, Reads s (body e s)

section
variable {s : State} (hs : NoErrors s) (hm : MemOk s) (hst : s.me.st ≠ .unbound) (hlate : NoneLate s.me) (f : Fields)
include hs hm hst

include hlate in
theorem loads_run : ∀ op ∈ [.lds, .ldq, .ldb, .lda, .ldv, .ldg, .feq], RunsReading f s op :=
  List.forall_mem_cons.2 ⟨⟨ldsBody f, rfl, ldsBody_reads hs hm hst hlate f⟩,
  List.forall_mem_cons.2 ⟨⟨ldqBody f, rfl, ldqBody_reads hs hm hst hlate f⟩,
  List.forall_mem_cons.2 ⟨⟨ldbBody f, rfl, ldbBody_reads hs hm hlate f⟩,
  List.forall_mem_cons.2 ⟨⟨ldaBody f, rfl, ldaBody_reads hs hm hst hlate f⟩,
  List.forall_mem_cons.2 ⟨⟨ldvBody f, rfl, fun e => loadTile_reads hs hm hst hlate f e false (tileCoord f e)⟩,
  List.forall_mem_cons.2 ⟨⟨ldgBody f, rfl, fun e => loadTile_reads hs hm hst hlate f e (f.sub == 0) (s.gatherMap f e)⟩,
  List.forall_mem_cons.2 ⟨⟨feqBody f, rfl, feqBody_reads hs hm f⟩, List.forall_mem_nil _⟩⟩⟩⟩⟩⟩⟩

theorem element_run {x : (Fields → Instr) × (Fields → Fmt) × (Fields → QEntry → Fmt → Nat → Nat → Nat → Nat × Flags)} (hx : x ∈ elementOps) :
    RunsReading f s x.1 :=
  ⟨_, ElementwiseVectors.elementOps_run hx f s, fun e => perElem_reads hs hm hst f _ _ _ _ _ e⟩

theorem tiles_run : ∀ op ∈ [.vqnt, .vdqnt, .vpack6, .vunpk6, .vpack4, .vunpk4, .vscale, .vredr, .vredc, .vmaxr, .vscan], RunsReading f s op :=
  List.forall_mem_cons.2 ⟨⟨vqntBody f, rfl, vqntBody_reads hm hst f⟩,
  List.forall_mem_cons.2 ⟨⟨vdqntBody f, rfl, fun e => tile_reads hm hst e _ _⟩,
  List.forall_mem_cons.2 ⟨⟨packBody 6, rfl, fun _ => writeTile_reads hm hst _ _ _ _ _⟩,
  List.forall_mem_cons.2 ⟨⟨unpackBody 6 f, rfl, fun _ => writeTile_reads hm hst _ _ _ _ _⟩,
  List.forall_mem_cons.2 ⟨⟨packBody 4, rfl, fun _ => writeTile_reads hm hst _ _ _ _ _⟩,
  List.forall_mem_cons.2 ⟨⟨unpackBody 4 f, rfl, fun _ => writeTile_reads hm hst _ _ _ _ _⟩,
  List.forall_mem_cons.2 ⟨⟨vscaleBody f, rfl, vscaleBody_reads hs hm hst f⟩,
  List.forall_mem_cons.2 ⟨⟨vredrBody f, rfl, fun e => tile_reads hm hst e _ _⟩,
  List.forall_mem_cons.2 ⟨⟨vredcBody f, rfl, fun e => tile_reads hm hst e _ _⟩,
  List.forall_mem_cons.2 ⟨⟨vmaxrBody f, rfl, fun e => tile_reads hm hst e _ _⟩,
  List.forall_mem_cons.2 ⟨⟨vscanBody f, rfl, vscanBody_reads hm hst f⟩, List.forall_mem_nil _⟩⟩⟩⟩⟩⟩⟩⟩⟩⟩⟩

theorem moves_run : ∀ op ∈ [.vcmp, .vsel, .vtrn, .vshuf, .vbcr, .vbcc, .viota], RunsReading f s op :=
  List.forall_mem_cons.2 ⟨⟨vcmpBody f, rfl, vcmpBody_reads hs hm hst f⟩,
  List.forall_mem_cons.2 ⟨⟨vselBody f, rfl, vselBody_reads hs hm hst f⟩,
  List.forall_mem_cons.2 ⟨⟨vtrnBody f, rfl, fun e => tile_reads hm hst e _ _⟩,
  List.forall_mem_cons.2 ⟨⟨vshufBody f, rfl, fun e => tile_reads hm hst e _ _⟩,
  List.forall_mem_cons.2 ⟨⟨vbcrBody f, rfl, fun e => tile_reads hm hst e _ _⟩,
  List.forall_mem_cons.2 ⟨⟨vbccBody f, rfl, fun e => tile_reads hm hst e _ _⟩,
  List.forall_mem_cons.2 ⟨⟨viotaBody f, rfl, fun e => tile_reads hm hst e _ _⟩, List.forall_mem_nil _⟩⟩⟩⟩⟩⟩⟩
end

/-- Each reader is a load, an element-by-element instruction or another one of the vector unit. -/
theorem readers_split {op : Fields → Instr} (hop : op ∈ readers) : op ∈ [Instr.lds, .ldq, .ldb, .lda, .ldv, .ldg, .feq] ∨
    op ∈ elementOps.map (·.1) ∨ op ∈ [Instr.vqnt, .vdqnt, .vpack6, .vunpk6, .vpack4, .vunpk4, .vscale, .vredr, .vredc, .vmaxr, .vscan] ∨
    op ∈ [Instr.vcmp, .vsel, .vtrn, .vshuf, .vbcr, .vbcc, .viota] := by
  simp only [readers, elementOps, List.map_cons, List.map_nil, List.mem_cons, List.not_mem_nil, or_false] at hop ⊢
  rcases hop with rfl | rfl | rfl | rfl | rfl | rfl | rfl | rfl | rfl | rfl | rfl | rfl | rfl | rfl | rfl | rfl | rfl | rfl | rfl | rfl | rfl | rfl |
    rfl | rfl | rfl | rfl | rfl | rfl | rfl | rfl | rfl | rfl | rfl | rfl | rfl | rfl | rfl | rfl | rfl | rfl | rfl | rfl | rfl | rfl | rfl | rfl |
    rfl | rfl | rfl | rfl | rfl | rfl | rfl | rfl | rfl | rfl | rfl | rfl | rfl | rfl
  all_goals simp only [true_or, or_true]

/-- A reader runs a body that reads. -/
theorem reader_run {op : Fields → Instr} (hop : op ∈ readers) (f : Fields) {s : State} (hs : NoErrors s) (hm : MemOk s)
    (hst : s.me.st ≠ .unbound) (hlate : NoneLate s.me) : RunsReading f s op := by
  rcases readers_split hop with h | h | h | h
  · exact loads_run hs hm hst hlate f op h
  · obtain ⟨x, hx, rfl⟩ := List.mem_map.1 h
    exact element_run hs hm hst f hx
  · exact tiles_run hs hm hst f op h
  · exact moves_run hs hm hst f op h

/-- Every reader's result has a window or a delivery. -/
theorem lat_readers (f : Fields) : ∀ op ∈ readers, (ispec (op f)).map (·.lat) ≠ some .n := by
  unfold readers
  repeat' first
    | exact List.forall_mem_nil _
    | refine List.forall_mem_cons.2 ⟨nofun, ?_⟩

end Sys2Proof.Proofs.Readers
end

section
/-! SUPPORT. The frame of the loads and of the vector unit: an instruction that leaves its queue has performed, and performing changes its own
strand alone. -/
namespace Sys2Proof.Proofs.ReaderFrames
open Sys2Proof Sys2Proof.Machine Sys2Proof.Claims Sys2Proof.Proofs.QuietReads Sys2Proof.Proofs.FrontFrames Sys2Proof.Proofs.Readers

/-! ### What does not perform stays in its queue -/

theorem queue_length_of_order {t u : Strand} (h : order t = order u) (q : Queue) : (t.queue q).length = (u.queue q).length := by
  simp only [order, Prod.mk.injEq] at h
  obtain ⟨-, hl, hc, hs⟩ := h
  cases q with
  | L => exact hl
  | C => exact hc
  | S => exact hs

section
variable {i : Instr} {f : Fields} {q : Queue} {sp : ISpec} {e : QEntry} {s : State}

theorem mayIssue_of_headTakes (h : headTakes i f q sp e s = true) : mayIssue s.cycle s.me = true := by
  obtain ⟨-, -, -, hready, -⟩ := (headTakes_iff i f q sp e s).1 h
  simp only [headReady, Bool.and_eq_true] at hready
  obtain ⟨⟨⟨⟨⟨⟨⟨hmay, -⟩, -⟩, -⟩, -⟩, -⟩, -⟩, -⟩ := hready
  exact hmay

theorem inUse_of_headTakes (h : headTakes i f q sp e s = true) : s.me.st ≠ .unbound := by
  obtain ⟨hst, -⟩ := mayIssue_elim (mayIssue_of_headTakes h)
  rcases hst with h | h | h <;> rw [h] <;> decide

theorem head_of_headTakes (h : headTakes i f q sp e s = true) : ∃ r, s.me.queue q = e :: r := by
  obtain ⟨-, -, hhead, -, -⟩ := (headTakes_iff i f q sp e s).1 h
  exact List.head?_eq_some_iff.1 hhead

/-- A trap leaves the entry in its queue. -/
theorem queueTrap_stays (h : mayIssue s.cycle s.me = true) {s1 : State} (hc : control s1 = control s) (c : TrapCode) (o sub : Nat) (e : QEntry)
    (q : Queue) : ((s1.queueTrap q e c o sub).me.queue q).length = (s.me.queue q).length := by
  have hme := control_me hc
  have hmay1 : mayIssue s1.cycle s1.me = true := by rw [control_cycle hc, hme]; exact h
  have hset : (s1.takeFresh.setMe (s1.me.issueAt s1.cycle [q])).me = s1.me.issueAt s1.cycle [q] :=
    me_setMe s1.takeFresh _ (ne_default_of_mayIssue hmay1 rfl)
  have hmay : mayIssue (s1.takeFresh.setMe (s1.me.issueAt s1.cycle [q])).cycle (s1.takeFresh.setMe (s1.me.issueAt s1.cycle [q])).me = true := by
    rw [hset]; exact hmay1
  refine (queue_length_of_order (raiseTrap_me_order hmay _) q).trans ?_
  rw [hset, ← hme]
  cases q <;> rfl

theorem setHead_length {t : Strand} {r : List QEntry} (h : t.queue q = e :: r) (x : QEntry) :
    ((t.setHead q x).queue q).length = (t.queue q).length := by
  rw [Strand.setHead, StrandEvents.queue_setQueue, h]; rfl

theorem setHead_st (t : Strand) (x : QEntry) : (t.setHead q x).st = t.st := by cases q <;> rfl

/-- A wait leaves the entry in its queue. -/
theorem setHead_stays (h : headTakes i f q sp e s = true) (x : QEntry) :
    ((s.setMe (s.me.setHead q x)).me.queue q).length = (s.me.queue q).length := by
  obtain ⟨r, hr⟩ := head_of_headTakes h
  rw [me_setMe s _ (ne_default_of_mayIssue (mayIssue_of_headTakes h) (setHead_st _ _)), setHead_length hr]

/-- A held access leaves the entry in its queue. -/
theorem holdHead_stays (h : headTakes i f q sp e s = true) (kind : FaultKind) (code : TrapCode) (va : Word) (acc hdl : Nat) :
    ((s.holdHead q e kind code va acc hdl).me.queue q).length = (s.me.queue q).length := by
  obtain ⟨r, hr⟩ := head_of_headTakes h
  unfold State.holdHead
  split
  · rfl
  · dsimp only
    generalize s.postHold _ = p
    obtain ⟨n, s1⟩ := p
    dsimp only
    have hne : ({ s.me.setHead q { e with held := some n } with
        st := if (s.me.setHead q { e with held := some n }).st = .run then .held else (s.me.setHead q { e with held := some n }).st } : Strand) ≠ {} := by
      refine strand_ne_default _ ?_
      show (if _ then _ else _) ≠ _
      rw [setHead_st]
      split
      · decide
      · exact inUse_of_headTakes h
    show ((s1.setMe _).me.queue q).length = _
    rw [me_setMe s1 _ hne]
    refine Eq.trans ?_ (setHead_length hr { e with held := some n })
    cases q <;> rfl

/-- An instruction that leaves its queue has performed. -/
theorem performs_of_leaves {t : State} {ack : Ack} {body : QEntry → State → QRes} (h : headTakes i f q sp e s = true)
    (hrun : runQueue i f ack body s = .next t) (hl : leaves q s t)
    (htrap : ∀ s1 c o sub, body e s = .trap s1 c o sub → control s1 = control s) :
    ∃ s1 vals fl, body e s = .done s1 vals fl ∧ t = s1.perform q f sp ack e vals fl := by
  have hmay := mayIssue_of_headTakes h
  rw [runQueue_takes h] at hrun
  unfold leaves at hl
  cases hb : body e s with
  | done s1 vals fl => rw [hb] at hrun; cases hrun; exact ⟨s1, vals, fl, rfl, rfl⟩
  | trap s1 c o sub =>
    rw [hb] at hrun; cases hrun
    rw [queueTrap_stays hmay (htrap _ _ _ _ hb)] at hl
    exact absurd hl (Nat.lt_irrefl _)
  | wait => rw [hb] at hrun; cases hrun; rw [setHead_stays h] at hl; exact absurd hl (Nat.lt_irrefl _)
  | stay => rw [hb] at hrun; cases hrun; rw [setHead_stays h] at hl; exact absurd hl (Nat.lt_irrefl _)
  | busy k ws => rw [hb] at hrun; cases hrun; rw [setHead_stays h] at hl; exact absurd hl (Nat.lt_irrefl _)
  | held k c va a hdl => rw [hb] at hrun; cases hrun; rw [holdHead_stays h] at hl; exact absurd hl (Nat.lt_irrefl _)
end

/-! ### Performing -/

/-- The change of the own strand when an instruction performs whose result has a window, a delivery or a reply. -/
def Performed (t u : Strand) : Prop :=
  u = { t with
    lq := u.lq, cq := u.cq, sq := u.sq, tlc := u.tlc, tcl := u.tcl, tcs := u.tcs, tsc := u.tsc, issuedAt := u.issuedAt, seen := u.seen
    wrote := [], late := [], rebind := [], flight := u.flight }

/-- The change of the own strand when an instruction leaves its queue. -/
def Pops (t u : Strand) : Prop :=
  u = { t with lq := u.lq, cq := u.cq, sq := u.sq, tlc := u.tlc, tcl := u.tcl, tcs := u.tcs, tsc := u.tsc, issuedAt := u.issuedAt, seen := u.seen }
theorem Pops.trans {t u v : Strand} (h : Pops t u) (k : Pops u v) : Pops t v := by unfold Pops at *; rw [k, h]
theorem popHead_pops (t : Strand) (q : Queue) : Pops t (t.popHead q) := by cases q <;> exact rfl
theorem issueAt_pops (t : Strand) (cyc : Nat) (qs : List Queue) : Pops t (t.issueAt cyc qs) := rfl
theorem popOne_pops (t : Strand) (q : Queue) (prev : Bool) : Pops t (t.popOne q prev) := by
  unfold Strand.popOne
  repeat' split
  all_goals exact rfl
theorem popTokens_pops (t : Strand) (q : Queue) (tk : BitVec 4) : Pops t (t.popTokens q tk) := by
  have h1 : Pops t (if tk.getLsbD 3 then t.popOne q true else t) := by
    split
    · exact popOne_pops _ _ _
    · exact rfl
  unfold Strand.popTokens
  dsimp only
  split
  · exact h1.trans (popOne_pops _ _ _)
  · exact h1

theorem performed_of_pops {t u : Strand} (h : Pops t u) (x : Clocks) (y : List Flight) :
    Performed t { u with wrote := [], late := [], rebind := [], seen := x, flight := y } := by
  unfold Performed
  rw [h]

/-- Performing with a window, a delivery or a reply changes the own strand alone. -/
theorem perform_setMe (s : State) (q : Queue) (f : Fields) {sp : ISpec} {ack : Ack} (hlat : sp.lat ≠ .n ∨ ack ≠ .none) (e : QEntry)
    (vals : List Word) (fl : Flags) : ∃ u, s.perform q f sp ack e vals fl = s.takeFresh.setMe u ∧ Performed s.me u := by
  have hpops : Pops s.me ((match sp.route with
      | .ls => ((s.me.popHead .L).popHead .S).issueAt s.cycle [.L, .S]
      | _ => (s.me.popHead q).issueAt s.cycle [q]).popTokens q f.tk) := by
    refine Pops.trans ?_ (popTokens_pops _ q f.tk)
    split
    · exact ((popHead_pops _ .L).trans (popHead_pops _ .S)).trans (issueAt_pops _ _ _)
    · exact (popHead_pops _ q).trans (issueAt_pops _ _ _)
  unfold State.perform
  dsimp only
  cases hl : sp.lat with
  | v => exact ⟨_, rfl, performed_of_pops hpops _ _⟩
  | x n => exact ⟨_, rfl, performed_of_pops hpops _ _⟩
  | g n => exact ⟨_, rfl, performed_of_pops hpops _ _⟩
  | n =>
    cases ack with
    | none => simp [hl] at hlat
    | reply => exact ⟨_, rfl, performed_of_pops hpops _ _⟩
    | hold => exact ⟨_, rfl, performed_of_pops hpops _ _⟩

/-- What an instruction leaves alone that has performed so. -/
theorem perform_frame {s : State} (hst : s.me.st ≠ .unbound) (q : Queue) (f : Fields) {sp : ISpec} {ack : Ack}
    (hlat : sp.lat ≠ .n ∨ ack ≠ .none) (e : QEntry) (vals : List Word) (fl : Flags) :
    (∀ m a, (s.perform q f sp ack e vals fl).physByte m a = s.physByte m a) ∧ marks (s.perform q f sp ack e vals fl) = marks s ∧
    (s.perform q f sp ack e vals fl).cores = s.cores ∧
    SameOthers s (s.perform q f sp ack e vals fl) ∧ Performed s.me (s.perform q f sp ack e vals fl).me := by
  obtain ⟨u, hu, hp⟩ := perform_setMe s q f hlat e vals fl
  rw [hu]
  refine ⟨fun _ _ => rfl, rfl, rfl, fun n hn => strand_setStrand_other (s := s.takeFresh) u hn, ?_⟩
  rw [me_setMe s.takeFresh u (strand_ne_default u (by rw [hp]; exact hst))]
  exact hp

/-- The frame of a reader that has performed. -/
theorem reader_frame {op : Fields → Instr} (hop : op ∈ readers) {f : Fields} {q : Queue} {sp : ISpec} {e : QEntry} {s t : State}
    (hs : NoErrors s) (hm : MemOk s) (hlate : NoneLate s.me) (h : headTakes (op f) f q sp e s = true) (hex : exec (op f) s = .next t)
    (hl : leaves q s t) : SameMemory s t ∧ SameLm s t ∧ SameOthers s t ∧
      ∃ u, Uses s.me u ∧ Performed u t.me := by
  have hst := inUse_of_headTakes h
  obtain ⟨body, hrun, hreads⟩ := reader_run hop f hs hm hst hlate
  obtain ⟨s1, vals, fl, hb, rfl⟩ := performs_of_leaves h (hrun.symm.trans hex) hl (fun s1 c o sub hb => by
    have hr := hreads e
    rw [hb] at hr
    exact hr)
  have hr : Reading s s1 := by
    have hr := hreads e
    rw [hb] at hr
    exact hr
  obtain ⟨-, hsp, -⟩ := (headTakes_iff (op f) f q sp e s).1 h
  have hlat : sp.lat ≠ .n := fun hn => lat_readers f op hop (by rw [hsp, Option.map_some, hn])
  obtain ⟨hbytes, hmarks, hcores, hothers, hme⟩ := perform_frame (hr.inUse hst) q f (.inl hlat) (ack := .none) e vals fl
  have hmem : SameMemory s1 (s1.perform q f sp .none e vals fl) := by
    simp only [marks, Prod.mk.injEq] at hmarks
    exact ⟨hbytes, hmarks⟩
  refine ⟨sameMemory_trans hr.mem hmem, fun n => ?_, fun n hn => ?_, s1.me, hr.strand, hme⟩
  · rw [State.core, hcores]; exact hr.lm n
  · rw [hothers n (by rwa [hr.cur])]; exact hr.others n hn

theorem reader_strand {t u v : Strand} (hlate : NoneLate t) (h : Uses t u) (k : Performed u v) :
    v = { t with
      lq := v.lq, cq := v.cq, sq := v.sq, tlc := v.tlc, tcl := v.tcl, tcs := v.tcs, tsc := v.tsc, flight := v.flight
      k := v.k, s := v.s, p := v.p, contested := v.contested, seen := v.seen, wrote := v.wrote, issuedAt := v.issuedAt } ∧
    v.s = t.s ∧ v.p = t.p := by
  obtain ⟨hl, hr, -⟩ := hlate
  unfold Performed at k
  have hsame := h.same
  refine ⟨?_, ?_, ?_⟩
  · rw [k, hsame]; simp only [hl, hr]
  · rw [k, hsame]
  · rw [k, hsame]

/-! ### The tile of an element-by-element instruction -/

theorem zip4_length_le (ms : List Bool) (as bs cs : List Nat) : (zip4 ms as bs cs).length ≤ ms.length := by
  induction ms generalizing as bs cs with
  | nil => simp [zip4]
  | cons m ms ih =>
    match as, bs, cs with
    | [], _, _ => simp [zip4]
    | _ :: _, [], _ => simp [zip4]
    | _ :: _, _ :: _, [] => simp [zip4]
    | a :: as, b :: bs, c :: cs => simpa [zip4] using ih as bs cs

theorem maskBits_length (s : State) (m : Operand) (rows cols : Nat) : (s.maskBits m rows cols).length = rows * cols := by
  unfold State.maskBits
  split
  · simp [List.map_const', List.sum_replicate_nat]
  · simp

theorem meet_length (s : State) (phys eb : Nat) (vs : List (Option Nat)) : (s.meet phys eb vs).length = vs.length := by
  rw [State.meet, List.length_map, List.length_zipIdx]

/-- The bytes that a tile takes are no more than its elements hold. -/
theorem tileBytes_length_le (old : List Byte) (eb : Nat) (vs : List (Option Nat)) (n : Nat) :
    ((vs.zipIdx n).flatMap (fun v => match v.1 with
      | some x => leBytes eb x
      | none => (old.drop (v.2 * eb)).take eb)).length ≤ vs.length * eb := by
  induction vs generalizing n with
  | nil => simp
  | cons v r ih =>
    have hv : (match v with
      | some x => leBytes eb x
      | none => (old.drop (n * eb)).take eb).length ≤ eb := by
      cases v with
      | none => exact List.length_take_le _ _
      | some x => exact Nat.le_of_eq (MemoryIsReadAsWritten.length_leBytes eb x)
    rw [List.zipIdx_cons, List.flatMap_cons, List.length_append, List.length_cons, Nat.add_mul, Nat.one_mul, Nat.add_comm]
    exact Nat.add_le_add (ih (n + 1)) hv

/-- A tile written to a core: the bytes outside it stay, and so do the other cores' tiles. -/
theorem putTile_vrf {s : State} (hm : MemOk s) (core phys eb : Nat) (vs : List (Option Nat)) :
    (∀ n, n ≠ core → ((s.putTile core phys eb vs).core n).vrf = (s.core n).vrf) ∧
    ∀ x, (x < 16384 * phys ∨ 16384 * phys + vs.length * eb ≤ x) →
      Memory.get ((s.putTile core phys eb vs).core core).vrf x = Memory.get (s.core core).vrf x := by
  unfold State.putTile
  refine ⟨fun n hn => ?_, fun x hx => ?_⟩
  · rw [core_modCore_ne s _ hn.symm]
  · rw [core_modCore_self hm]
    refine get_write_ne _ _ _ x (hx.imp id fun h => Nat.le_trans (Nat.add_le_add_left ?_ _) h)
    exact tileBytes_length_le _ eb vs 0

/-- Writing a tile leaves the masks alone. -/
theorem writeTile_k {s : State} (hst : s.me.st ≠ .unbound) (core phys eb : Nat) (vs : List (Option Nat)) :
    (s.writeTile core phys eb vs).me.k = s.me.k := by
  have h := me_setMe (s.putTile core phys eb (s.meet phys eb vs))
    (s.me.noteRuns s.actSeq (runsOf (.v phys) eb 0 (s.meet phys eb vs))) (strand_ne_default _ (by exact hst))
  have hk := congrArg Strand.k h
  exact hk

theorem lat_elementOps (f : Fields) : ∀ x ∈ elementOps, (ispec (x.1 f)).map (·.lat) ≠ some .n := by
  unfold elementOps
  repeat' first
    | exact List.forall_mem_nil _
    | refine List.forall_mem_cons.2 ⟨nofun, ?_⟩

theorem vecArgs_calm {f : Fields} {e : QEntry} {x : Fmt} {s s1 : State} {a b c : List Nat} (hs : NoErrors s) (hm : MemOk s)
    (h : VecArgs f e x s s1 a b c) : Calm s s1 := by
  obtain ⟨sa, sb, ha, hb, hc⟩ := h
  have h1 := vArg_calm hs hm ha
  have h2 := h1.trans (vArg_calm (h1.quiet.noErrors hs) h1.quiet.wf hb)
  exact h2.trans (vArg_calm (h2.quiet.noErrors hs) h2.quiet.wf hc)

/-- The frame of an element-by-element instruction: outside its destination tile no byte of a vector register changes, and no mask does. -/
theorem element_frame {x : (Fields → Instr) × (Fields → Fmt) × (Fields → QEntry → Fmt → Nat → Nat → Nat → Nat × Flags)}
    (hx : x ∈ elementOps) {f : Fields} {q : Queue} {sp : ISpec} {e : QEntry} {s s1 t : State} {F : Fmt} {a b c : List Nat}
    (hF : fieldFmt f = some F) (hs : NoErrors s) (hm : MemOk s) (h : headTakes (x.1 f) f q sp e s = true)
    (hargs : VecArgs f e (x.2.1 f) s s1 a b c) (hex : exec (x.1 f) s = .next t) :
    t.me.k = s.me.k ∧ (∀ n, n ≠ s.myCore → (t.core n).vrf = (s.core n).vrf) ∧
    ∀ y, (y < 16384 * dstV e 0 ∨ 16384 * dstV e 0 + shpRows e.shp * shpCols e.shp * F.regBytes ≤ y) →
      Memory.get (t.core s.myCore).vrf y = Memory.get (s.core s.myCore).vrf y := by
  have hst := inUse_of_headTakes h
  have hcalm := vecArgs_calm hs hm hargs
  obtain ⟨-, hsp, -⟩ := (headTakes_iff (x.1 f) f q sp e s).1 h
  have hlat : sp.lat ≠ .n := fun hn => lat_elementOps f x hx (by rw [hsp, Option.map_some, hn])
  have hdone := ElementwiseVectors.elementOps_done hx hF h hargs
  generalize hvs : (collect (ElementwiseVectors.eachActive (x.2.2 f e F) (s1.maskBits f.e (shpRows e.shp) (shpCols e.shp)) a b c)).1 = vs at hdone
  have hlen : vs.length ≤ shpRows e.shp * shpCols e.shp := by
    rw [← hvs, ElementwiseVectors.collect_values, List.length_map, ElementwiseVectors.eachActive, List.length_map,
      ← maskBits_length s1 f.e]
    exact zip4_length_le _ _ _ _
  cases hex.symm.trans hdone
  have hmy : s1.myCore = s.myCore := by rw [State.myCore, control_cur hcalm.control]; rfl
  have hwrite := writeTile_reading hcalm.quiet.wf (hcalm.inUse hst) s1.myCore (dstV e 0) F.regBytes vs
  obtain ⟨-, -, hcores, -, hme⟩ := perform_frame (hwrite.inUse (hcalm.inUse hst)) q f (.inl hlat) (ack := .none) e []
    (collect (ElementwiseVectors.eachActive (x.2.2 f e F) (s1.maskBits f.e (shpRows e.shp) (shpCols e.shp)) a b c)).2
  obtain ⟨hothers, htile⟩ := putTile_vrf hcalm.quiet.wf s1.myCore (dstV e 0) F.regBytes (s1.meet (dstV e 0) F.regBytes vs)
  have hvrf := hcalm.quiet.sameTiles
  rw [hmy] at hothers htile hcores hme hwrite ⊢
  refine ⟨?_, fun n hn => ?_, fun y hy => ?_⟩
  · rw [hme]
    have hk := writeTile_k (hcalm.inUse hst) s.myCore (dstV e 0) F.regBytes vs
    exact hk.trans (by rw [control_me hcalm.control])
  · rw [State.core, hcores]
    exact (hothers n hn).trans (hvrf n)
  · rw [State.core, hcores]
    refine (htile y ?_).trans (by rw [hvrf])
    rw [meet_length]
    have := Nat.mul_le_mul_right F.regBytes hlen
    omega

/-- Settles O58: reading is quiet, a result waits for its window or its delivery, and a tile's bytes are its own. -/
theorem loadsAndVectorsWriteNoMemory : Obligations.LoadsAndVectorsWriteNoMemory := by
  unfold Obligations.LoadsAndVectorsWriteNoMemory
  constructor
  · intro op hop f q sp e s t hs hm hlate h hex hl
    obtain ⟨hmem, hlm, hothers, u, hu, hp⟩ := reader_frame hop hs hm hlate h hex hl
    obtain ⟨hsame, hS, hP⟩ := reader_strand hlate hu hp
    exact ⟨hmem, hlm, hothers, hsame, fun n _ => by rw [Strand.getS, Strand.getS, hS], fun n _ => by rw [Strand.getP, Strand.getP, hP]⟩
  · intro op hop f q sp e s s1 t F a b c hF hs hm h hargs hex
    exact element_frame hop hF hs hm h hargs hex

end Sys2Proof.Proofs.ReaderFrames
end

section
/-! SUPPORT. The frame of the instructions on local-memory records: each write of a body stays within the record, and performing changes its own
strand alone. -/
namespace Sys2Proof.Proofs.RecordFrames
open Sys2Proof Sys2Proof.Machine Sys2Proof.Claims Sys2Proof.Proofs.QuietReads Sys2Proof.Proofs.FrontFrames Sys2Proof.Proofs.Readers
  Sys2Proof.Proofs.ReaderFrames

/-! ### Words of a core's local memory -/

theorem mem_setAdd_ne (t : List Nat) {k j : Nat} (h : j ≠ k) : j ∈ setAdd t k ↔ j ∈ t := by
  induction t with
  | nil => simp [setAdd, h]
  | cons i r ih =>
    unfold setAdd
    split
    · simp [h]
    · split
      · rfl
      · rw [List.mem_cons, List.mem_cons, ih]

theorem contains_setPut_ne (t : List Nat) {k j : Nat} (b : Bool) (h : j ≠ k) : (setPut t k b).contains j = t.contains j := by
  rw [Bool.eq_iff_iff, List.contains_iff_mem, List.contains_iff_mem]
  cases b with
  | true => exact mem_setAdd_ne t h
  | false => simp [setPut, setDel, h]

/-- A word that a range covers whole lies in it. -/
theorem wholeWords_within {o n w : Nat} (h : w ∈ wholeWords ((List.range n).map (o + ·))) : o ≤ 4 * w ∧ 4 * w + 3 < o + n := by
  have hall := (List.mem_filter.1 h).2
  simp only [List.all_cons, List.all_nil, Bool.and_true, Bool.and_eq_true, List.contains_iff_mem, List.mem_map, List.mem_range] at hall
  obtain ⟨⟨i, -, hfirst⟩, -, -, ⟨j, hj, hlast⟩⟩ := hall
  omega

/-- A word that a heal does not name keeps its full bit. -/
theorem lmHeal_full (c : Core) {ws : List Nat} {w : Nat} (h : w ∉ ws) : (c.lmHeal ws).full.contains w = c.full.contains w := by
  rw [Bool.eq_iff_iff, List.contains_iff_mem, List.contains_iff_mem]
  simp [Core.lmHeal, h]

/-! ### What a record's instruction changes -/

/-- `t` is `s` but for the record of `n` bytes at `off` of a core, and for what the own strand has seen. -/
structure Recorded (core off n : Nat) (s t : State) : Prop where
  wf : MemOk t
  mem : SameMemory s t
  tiles : SameTiles s t
  lm : ∀ m a, (m ≠ core ∨ a < off ∨ off + n ≤ a) → Memory.get (t.core m).lm a = Memory.get (s.core m).lm a
  full : ∀ m w, (m ≠ core ∨ w < off / 4 ∨ off / 4 + n / 4 ≤ w) → (t.core m).full.contains w = (s.core m).full.contains w
  cur : t.cur = s.cur
  others : SameOthers s t
  me : t.me = { s.me with seen := t.me.seen }

section
variable {core off n : Nat} {s t u : State}

theorem Recorded.trans (h : Recorded core off n s t) (k : Recorded core off n t u) : Recorded core off n s u :=
  ⟨k.wf, sameMemory_trans h.mem k.mem, fun m => (k.tiles m).trans (h.tiles m), fun m a hx => (k.lm m a hx).trans (h.lm m a hx),
    fun m w hx => (k.full m w hx).trans (h.full m w hx), k.cur.trans h.cur,
    fun m hn => (k.others m (by rwa [h.cur])).trans (h.others m hn), by rw [k.me, h.me]⟩

/-- What changes no memory, no core and no strand leaves every record. -/
theorem recorded_beside (hm : MemOk t) (hmem : SameMemory s t) (hc : t.cores = s.cores) (hk : control t = control s) :
    Recorded core off n s t := by
  have hcore (m : Nat) : t.core m = s.core m := by rw [State.core, hc]; rfl
  exact ⟨hm, hmem, fun m => by rw [hcore], fun m a _ => by rw [hcore], fun m w _ => by rw [hcore], control_cur hk,
    fun m _ => control_strand hk m, by rw [control_me hk]⟩

theorem Calm.recorded (h : Calm s t) : Recorded core off n s t :=
  ⟨h.quiet.wf, h.quiet.sameMemory, h.quiet.sameTiles, fun m a _ => by rw [(h.quiet.sameLm m).1], fun m w _ => by rw [(h.quiet.sameLm m).2],
    control_cur h.control, fun m _ => control_strand h.control m, by rw [control_me h.control]⟩

/-- A change of the record's core within the record. -/
theorem modCore_recorded (hm : MemOk s) {f : Core → Core} (hvrf : (f (s.core core)).vrf = (s.core core).vrf)
    (hlm : ∀ a, a < off ∨ off + n ≤ a → Memory.get (f (s.core core)).lm a = Memory.get (s.core core).lm a)
    (hfull : ∀ w, w < off / 4 ∨ off / 4 + n / 4 ≤ w → (f (s.core core)).full.contains w = (s.core core).full.contains w) :
    Recorded core off n s (s.modCore core f) := by
  have hsame := core_modCore_self hm core f
  have hother {m : Nat} (h : m ≠ core) := core_modCore_ne s f h.symm
  refine ⟨modCore_memOk hm core f, ⟨fun _ _ => rfl, rfl, rfl, rfl, rfl, rfl⟩, fun m => ?_, fun m a hx => ?_, fun m w hx => ?_, rfl, fun _ _ => rfl, rfl⟩
  · by_cases h : m = core
    · subst h; rw [hsame, hvrf]
    · rw [hother h]
  · by_cases h : m = core
    · subst h; rw [hsame, hlm a (hx.resolve_left (fun hne => hne rfl))]
    · rw [hother h]
  · by_cases h : m = core
    · subst h; rw [hsame, hfull w (hx.resolve_left (fun hne => hne rfl))]
    · rw [hother h]

theorem lmPut_recorded (hm : MemOk s) {o k : Nat} (v : Nat) (hlo : off ≤ o) (hhi : o + k ≤ off + n) (hn : n % 4 = 0) :
    Recorded core off n s (s.lmPut core o k v) := by
  have hlen := MemoryIsReadAsWritten.length_leBytes k v
  refine modCore_recorded hm rfl (fun a ha => ?_) (fun w hw => ?_)
  · exact get_write_ne _ _ _ a (by omega)
  · refine lmHeal_full _ (fun h => ?_)
    rw [hlen] at h
    have := wholeWords_within h
    omega

theorem setFull_recorded (hm : MemOk s) (b : Bool) (hn : 4 ≤ n) : Recorded core off n s (s.setFull core (off / 4) b) :=
  modCore_recorded hm rfl (fun _ _ => rfl) (fun w hw => contains_setPut_ne _ b (by omega))

theorem putWords_recorded (hm : MemOk s) (r : BitVec 512) {ws : List Nat} (hws : ∀ w ∈ ws, 4 * w + 4 ≤ n) (hn : n % 4 = 0) :
    Recorded core off n s (s.putWords core off r ws) := by
  unfold State.putWords
  induction ws generalizing s with
  | nil => exact Calm.recorded (.refl hm)
  | cons w ws ih =>
    have hw := hws w List.mem_cons_self
    have hput : Recorded core off n s (s.lmPut core (off + 4 * w) 4 (fld r (32 * w) 32)) := lmPut_recorded hm _ (by omega) (by omega) hn
    exact hput.trans (ih hput.wf (fun x hx => hws x (List.mem_cons_of_mem _ hx)))

theorem dropRels_recorded (hm : MemOk s) (key : Nat) (gone : Nat → Bool) : Recorded core off n s (s.dropRels key gone) :=
  recorded_beside hm ⟨fun _ _ => rfl, rfl, rfl, rfl, rfl, rfl⟩ rfl rfl
theorem releaseAs_recorded (hm : MemOk s) (keys : List Nat) (scp tag size : Nat) : Recorded core off n s (s.releaseAs keys scp tag size) :=
  recorded_beside hm ⟨fun _ _ => rfl, rfl, rfl, rfl, rfl, rfl⟩ rfl rfl

/-- A strand with no write on its way has none to perform before a release. -/
theorem flushLate_none (h : NoneLate s.me) : s.flushLate = s := by
  obtain ⟨hlate, -, hflight⟩ := h
  have hnone : s.me.flight.flatMap (fun f => f.late) ++ s.me.late = [] := by
    rw [hlate, List.append_nil, List.flatMap_eq_nil_iff]
    exact fun x hx => (hflight x hx).1
  unfold State.flushLate State.settleLate
  dsimp only
  rw [show s.strand s.cur = s.me from rfl, hnone]
  rfl

theorem Recorded.noneLate (h : Recorded core off n s t) (hl : NoneLate s.me) : NoneLate t.me := by rw [h.me]; exact hl
theorem Recorded.inUse (h : Recorded core off n s t) (hst : s.me.st ≠ .unbound) : t.me.st ≠ .unbound := by rw [h.me]; exact hst

theorem releaseRec_recorded (hm : MemOk s) (hl : NoneLate s.me) (size scp tag : Nat) (gone : Nat → Bool) :
    Recorded core off n s (s.releaseRec core off size scp tag gone) := by
  unfold State.releaseRec
  rw [flushLate_none hl]
  have hdrop : Recorded core off n s (s.dropRels (lmKey core off) gone) := dropRels_recorded hm _ _
  exact hdrop.trans (releaseAs_recorded hdrop.wf _ _ _ _)

theorem seen_of_eq {t u : Strand} {x : Clocks} (h : u = { t with seen := x }) : u = { t with seen := u.seen } := by rw [h]
theorem gains_recorded (hm : MemOk s) (hst : s.me.st ≠ .unbound) (c : Clock) : Recorded core off n s (s.gains c) := by
  refine ⟨hm, ⟨fun _ _ => rfl, rfl, rfl, rfl, rfl, rfl⟩, fun _ => rfl, fun _ _ _ => rfl, fun _ _ _ => rfl, rfl,
    fun m hn => strand_setStrand_other _ hn, ?_⟩
  exact seen_of_eq (me_setMe s _ (strand_ne_default _ (by exact hst)))

theorem acquireRec_recorded (hm : MemOk s) (hst : s.me.st ≠ .unbound) (scp : Nat) (ok gone : Nat → Bool) :
    Recorded core off n s (s.acquireRec core off scp ok gone) := by
  have h : Recorded core off n s (s.acquireOf [lmKey core off] scp ok) := by
    unfold State.acquireOf
    split
    · exact Calm.recorded (.refl hm)
    · have hgains := gains_recorded (core := core) (off := off) (n := n) hm hst
      exact (hgains _).trans (Calm.recorded (by unfold State.raiseKnown; exact modCore_calm (hgains _).wf _ (by rfl)))
  exact h.trans (dropRels_recorded h.wf _ _)
end

/-! ### The bodies -/

/-- A body on a record: performed, it has changed the record alone and raised no flag; trapped, nothing of the strands. -/
def Records (core off n : Nat) (s : State) : QRes → Prop
  | .done s1 _ fl => Recorded core off n s s1 ∧ fl = 0
  | .trap s1 _ _ _ => control s1 = control s
  | _ => True

/-- The state is a good one to run a record's body in. -/
structure Ready (s : State) : Prop where
  errors : NoErrors s
  wf : MemOk s
  st : s.me.st ≠ .unbound
  late : NoneLate s.me

theorem Calm.ready {s t : State} (h : Calm s t) (hr : Ready s) : Ready t :=
  ⟨h.quiet.noErrors hr.errors, h.quiet.wf, by rw [control_me h.control]; exact hr.st, by rw [control_me h.control]; exact hr.late⟩

section
variable {f : Fields} {e : QEntry} {s : State} {core off n : Nat} (hs : Ready s)
include hs

theorem withLm_records {al : Nat} {rd wr : Bool} {k : State → Nat → Nat → QRes}
    (hop : s.lmOperand (e.entry f.a) (offVal f.b e.b) (selOf f e) n al rd wr = .ok core off)
    (h : ∀ t, Calm s t → Ready t → Records core off n s (k t core off)) : Records core off n s (withLm f e n al rd wr s k) := by
  unfold withLm
  rw [hop]
  have htake : Calm s (s.takeLm core off n) := takeWords_calm hs.wf _ _
  exact h _ htake (Calm.ready htake hs)

omit hs in
theorem noUe_records {t : State} (ht : Calm s t) (hr : Ready t) {lo m : Nat} {k : State → QRes} (h : Records core off n s (k t)) :
    Records core off n s (noUe t core lo m k) := by
  unfold noUe
  rw [noteLm_clean hr.errors]
  split
  · exact ht.control
  · exact h

theorem withWord_records {rd wr : Bool} {k : State → Nat → Nat → QRes}
    (hop : s.lmOperand (e.entry f.a) (offVal f.b e.b) (selOf f e) n n rd wr = .ok core off)
    (h : ∀ t, Calm s t → Ready t → Records core off n s (k t core off)) :
    Records core off n s (withLm f e n n rd wr s (fun s core off => noUe s core off n (fun s => k s core off))) :=
  withLm_records hs hop (fun t ht hr => noUe_records ht hr (h t ht hr))

theorem withRing_records {k : State → Nat → Nat → BitVec 512 → QRes}
    (hop : s.lmOperand (e.entry f.a) (offVal f.b e.b) (selOf f e) 64 64 true true = .ok core off)
    (h : ∀ t r, Calm s t → Ready t → Records core off 64 s (k t core off r)) : Records core off 64 s (withRing f e s k) := by
  refine withWord_records hs hop (fun t ht hr => ?_)
  dsimp only
  split
  · exact ht.control
  · exact h t _ ht hr

theorem withBarrier_records {rd wr : Bool} {lo m : Nat} {k : State → Nat → Nat → BitVec 512 → QRes}
    (hop : s.lmOperand (e.entry f.a) (offVal f.b e.b) (selOf f e) 32 32 rd wr = .ok core off)
    (h : ∀ t r, Calm s t → Ready t → Records core off 32 s (k t core off r)) : Records core off 32 s (withBarrier f e rd wr lo m s k) :=
  withLm_records hs hop (fun t ht hr => noUe_records ht hr (h t _ ht hr))
end

section
variable {s t : State} {core off n : Nat}

/-- A record that is changed within its bounds and then released. -/
theorem released {u : State} (ht : Calm s t) (hr : Ready t) (h : Recorded core off n t u) (size scp tag : Nat) (gone : Nat → Bool)
    (vals : List Word) : Records core off n s (.done (u.releaseRec core off size scp tag gone) vals 0) :=
  ⟨((Calm.recorded ht).trans h).trans (releaseRec_recorded h.wf (h.noneLate hr.late) _ _ _ _), rfl⟩

/-- A record that is changed within its bounds and then acquired. -/
theorem acquires {u : State} (ht : Calm s t) (hr : Ready t) (h : Recorded core off n t u) (scp : Nat) (ok gone : Nat → Bool)
    (vals : List Word) : Records core off n s (.done (u.acquireRec core off scp ok gone) vals 0) :=
  ⟨((Calm.recorded ht).trans h).trans (acquireRec_recorded h.wf (h.inUse hr.st) _ _ _), rfl⟩

/-- A record that is changed within its bounds, its releases spent. -/
theorem spent {u : State} (ht : Calm s t) (h : Recorded core off n t u) (key : Nat) (gone : Nat → Bool) (vals : List Word) :
    Records core off n s (.done (u.dropRels key gone) vals 0) :=
  ⟨((Calm.recorded ht).trans h).trans (dropRels_recorded h.wf _ _), rfl⟩

/-- A slot that SRPUB or SRREL names is in range and in the state that the instruction needs, or it traps. -/
theorem slot_records {a : Prop} [Decidable a] {b : Bool} {k : QRes} (ht : Calm s t) (h : Records core off n s k) :
    Records core off n s (if a then .trap t .handleBounds 0 0 else if b then .trap t .feOverflow 0 0 else k) := by
  split
  · exact ht.control
  · split
    · exact ht.control
    · exact h
end

/-- The instruction runs a body that changes its record alone. -/
def RunsRecord (f : Fields) (s : State) (core off : Nat) (op : (Fields → Instr) × Nat × Bool × Bool) : Prop :=
  ∀ e : QEntry, s.lmOperand (e.entry f.a) (offVal f.b e.b) (selOf f e) op.2.1 op.2.1 op.2.2.1 op.2.2.2 = .ok core off →
    ∃ ack body, exec (op.1 f) s = runQueue (op.1 f) f ack body s ∧ Records core off op.2.1 s (body e s)

section
variable {s : State} {core off : Nat} (hs : Ready s) (f : Fields)
include hs

theorem word_records : ∀ op ∈ [((.ldfe, 4, true, false) : (Fields → Instr) × Nat × Bool × Bool), (.stff, 4, false, true), (.feset, 4, false, true),
    (.semwait, 4, true, true), (.sempost, 4, true, true)], RunsRecord f s core off op := by
  simp only [List.forall_mem_cons]
  refine ⟨?ldfe, ?stff, ?feset, ?semwait, ?sempost, List.forall_mem_nil _⟩
  case ldfe =>
    refine fun e hop => ⟨.none, ldfeBody f, rfl, withWord_records hs hop (fun t ht hr => ?_)⟩
    dsimp only
    split
    · exact acquires ht hr (setFull_recorded hr.wf _ (by decide)) _ _ _ _
    · split
      · exact ht.control
      · trivial
  case stff =>
    refine fun e hop => ⟨.hold, stffBody f, rfl, withWord_records hs hop (fun t ht hr => ?_)⟩
    dsimp only
    split
    · exact ht.control
    · have hput : Recorded core off 4 t (t.lmPut core off 4 (dataVal .uint32 f.e e.e).toNat) :=
        lmPut_recorded hr.wf _ (Nat.le_refl _) (Nat.le_refl _) (by decide)
      exact released ht hr (hput.trans (setFull_recorded hput.wf _ (by decide))) _ _ _ _ _
  case feset =>
    refine fun e hop => ⟨.hold, fesetBody f, rfl, withLm_records hs hop (fun t ht hr => ?_)⟩
    exact spent ht (setFull_recorded hr.wf _ (by decide)) _ _ _
  case semwait =>
    refine fun e hop => ⟨.none, semwaitBody f, rfl, withWord_records hs hop (fun t ht hr => ?_)⟩
    dsimp only
    split
    · exact acquires ht hr (lmPut_recorded hr.wf _ (Nat.le_refl _) (Nat.le_refl _) (by decide)) _ _ _ _
    · trivial
  case sempost =>
    refine fun e hop => ⟨.reply, sempostBody f, rfl, withWord_records hs hop (fun t ht hr => ?_)⟩
    exact released ht hr (lmPut_recorded hr.wf _ (Nat.le_refl _) (Nat.le_refl _) (by decide)) _ _ _ _ _

theorem ring_records : ∀ op ∈ [((.sracq, 64, true, true) : (Fields → Instr) × Nat × Bool × Bool), (.srpub, 64, true, true),
    (.srtake, 64, true, true), (.srrel, 64, true, true)], RunsRecord f s core off op := by
  have hput {t : State} (hr : Ready t) (r : BitVec 512) : Recorded core off 64 t (t.putRecord core off 64 r) :=
    lmPut_recorded hr.wf _ (Nat.le_refl _) (Nat.le_refl _) (by decide)
  simp only [List.forall_mem_cons]
  refine ⟨?sracq, ?srpub, ?srtake, ?srrel, List.forall_mem_nil _⟩
  case sracq =>
    refine fun e hop => ⟨.none, sracqBody f, rfl, withRing_records hs hop (fun t r ht hr => ?_)⟩
    dsimp only
    split
    · trivial
    · exact acquires ht hr (hput hr _) _ _ _ _
  case srpub =>
    refine fun e hop => ⟨.hold, srpubBody f, rfl, withRing_records hs hop (fun t r ht hr => ?_)⟩
    exact slot_records ht (released ht hr (hput hr _) _ _ _ _ _)
  case srtake =>
    refine fun e hop => ⟨.none, srtakeBody f, rfl, withRing_records hs hop (fun t r ht hr => ?_)⟩
    dsimp only
    split
    · trivial
    · exact acquires ht hr (hput hr _) _ _ _ _
  case srrel =>
    refine fun e hop => ⟨.hold, srrelBody f, rfl, withRing_records hs hop (fun t r ht hr => ?_)⟩
    exact slot_records ht (released ht hr (hput hr _) _ _ _ _ _)

theorem barrier_records : ∀ op ∈ [((.barinit, 32, false, true) : (Fields → Instr) × Nat × Bool × Bool), (.bararr, 32, true, true),
    (.barexp, 32, true, true), (.barwait, 32, true, false), (.bartest, 32, true, false)], RunsRecord f s core off op := by
  simp only [List.forall_mem_cons]
  refine ⟨?barinit, ?bararr, ?barexp, ?barwait, ?bartest, List.forall_mem_nil _⟩
  case barinit =>
    refine fun e hop => ⟨.hold, barinitBody f, rfl, withBarrier_records hs hop (fun t r ht hr => ?_)⟩
    dsimp only
    split
    · exact ht.control
    · split
      · exact ht.control
      · exact spent ht (putWords_recorded hr.wf _ (by decide) (by decide)) _ _ _
  case bararr =>
    refine fun e hop => ⟨.hold, bararrBody f, rfl, withBarrier_records hs hop (fun t r ht hr => ?_)⟩
    dsimp only
    split
    · trivial
    · exact released ht hr (putWords_recorded hr.wf _ (by decide) (by decide)) _ _ _ _ _
  case barexp =>
    refine fun e hop => ⟨.hold, barexpBody f, rfl, withBarrier_records hs hop (fun t r ht hr => ?_)⟩
    exact ⟨(Calm.recorded ht).trans (putWords_recorded hr.wf _ (by decide) (by decide)), rfl⟩
  case barwait =>
    refine fun e hop => ⟨.none, barwaitBody f, rfl, withBarrier_records hs hop (fun t r ht hr => ?_)⟩
    split
    · trivial
    · exact acquires ht hr (Calm.recorded (.refl hr.wf)) _ _ _ _
  case bartest =>
    refine fun e hop => ⟨.none, bartestBody f, rfl, withBarrier_records hs hop (fun t r ht hr => ?_)⟩
    split
    · exact ⟨Calm.recorded ht, rfl⟩
    · exact acquires ht hr (Calm.recorded (.refl hr.wf)) _ _ _ _

theorem lmInstrs_records {op : (Fields → Instr) × Nat × Bool × Bool} (hop : op ∈ lmInstrs) : RunsRecord f s core off op := by
  have hsplit : lmInstrs = [((.ldfe, 4, true, false) : (Fields → Instr) × Nat × Bool × Bool), (.stff, 4, false, true), (.feset, 4, false, true),
      (.semwait, 4, true, true), (.sempost, 4, true, true)] ++
    [(.sracq, 64, true, true), (.srpub, 64, true, true), (.srtake, 64, true, true), (.srrel, 64, true, true)] ++
    [(.barinit, 32, false, true), (.bararr, 32, true, true), (.barexp, 32, true, true), (.barwait, 32, true, false), (.bartest, 32, true, false)] := rfl
  rw [hsplit, List.mem_append, List.mem_append] at hop
  rcases hop with (h | h) | h
  · exact word_records hs f op h
  · exact ring_records hs f op h
  · exact barrier_records hs f op h
end

/-! ### Performing without a window, a delivery or a reply -/

/-- The FIFO of a push has room for one more token. -/
def room (t : Strand) (q : Queue) (prev : Bool) : Prop :=
  match q, prev with
  | .L, false => t.tlc < 8
  | .C, true => t.tcl < 8
  | .C, false => t.tcs < 8
  | .S, true => t.tsc < 8
  | _, _ => True

/-- No FIFO of `u` holds more than that of `t`. -/
def Fewer (t u : Strand) : Prop := u.tlc ≤ t.tlc ∧ u.tcl ≤ t.tcl ∧ u.tcs ≤ t.tcs ∧ u.tsc ≤ t.tsc
theorem Fewer.refl (t : Strand) : Fewer t t := ⟨Nat.le_refl _, Nat.le_refl _, Nat.le_refl _, Nat.le_refl _⟩
theorem Fewer.trans {t u v : Strand} (h : Fewer t u) (k : Fewer u v) : Fewer t v := by
  obtain ⟨h1, h2, h3, h4⟩ := h
  obtain ⟨k1, k2, k3, k4⟩ := k
  exact ⟨Nat.le_trans k1 h1, Nat.le_trans k2 h2, Nat.le_trans k3 h3, Nat.le_trans k4 h4⟩
theorem room_of_fewer {t u : Strand} (h : Fewer t u) {q : Queue} {prev : Bool} (hr : room t q prev) : room u q prev := by
  obtain ⟨h1, h2, h3, h4⟩ := h
  cases q <;> cases prev <;> simp only [room] at hr ⊢ <;> omega

theorem popOne_fewer (t : Strand) (q : Queue) (prev : Bool) : Fewer t (t.popOne q prev) := by
  unfold Strand.popOne
  split <;> exact ⟨by simp, by simp, by simp, by simp⟩
theorem popTokens_fewer (t : Strand) (q : Queue) (tk : BitVec 4) : Fewer t (t.popTokens q tk) := by
  have h1 : Fewer t (if tk.getLsbD 3 then t.popOne q true else t) := by
    split
    · exact popOne_fewer _ _ _
    · exact .refl t
  unfold Strand.popTokens
  dsimp only
  split
  · exact h1.trans (popOne_fewer _ _ _)
  · exact h1

theorem pushOne_isSome (t : Strand) (q : Queue) (prev : Bool) (clk : Clock) : (t.pushOne q prev clk).isSome = true ↔ room t q prev := by
  unfold Strand.pushOne room
  cases q <;> cases prev <;> simp

/-- Pushes find room where each finds it in its own FIFO. -/
theorem pushTokens_free (t : Strand) (q : Queue) (tk : BitVec 4) (clk : Clock) :
    (t.pushTokens q tk clk).2 = false ↔ (tk.getLsbD 1 = true → room t q true) ∧ (tk.getLsbD 0 = true → room t q false) := by
  have hnext (u : Strand) (h : t.pushOne q true clk = some u) : room u q false ↔ room t q false := by
    unfold Strand.pushOne at h
    cases q <;> simp only [Option.some.injEq, Option.ite_none_right_eq_some] at h
    · rw [h]
    · rw [← h.2]; exact Iff.rfl
    · rw [← h.2]; exact Iff.rfl
  have hroom := pushOne_isSome t q true clk
  unfold Strand.pushTokens
  dsimp only
  rw [Bool.or_eq_false_iff]
  generalize tk.getLsbD 1 = b1
  generalize tk.getLsbD 0 = b0
  cases b1 with
  | false =>
    cases b0 with
    | false => simp
    | true => simp [pushOne_isSome]
  | true =>
    rw [if_pos rfl]
    cases hp : t.pushOne q true clk with
    | none =>
      rw [hp] at hroom
      simp only [Option.isSome_none, Bool.false_eq_true, false_iff] at hroom
      simp [hroom]
    | some u =>
      rw [hp] at hroom
      have hr : room t q true := hroom.1 rfl
      cases b0 with
      | false => simp [hr]
      | true => simp [pushOne_isSome, hnext u hp, hr]

/-- The change of the own strand when an instruction performs without a flag. -/
def Left (t u : Strand) : Prop :=
  u = { t with
    lq := u.lq, cq := u.cq, sq := u.sq, tlc := u.tlc, tcl := u.tcl, tcs := u.tcs, tsc := u.tsc, issuedAt := u.issuedAt, seen := u.seen
    wrote := u.wrote, late := u.late, rebind := u.rebind, flight := u.flight }
theorem Left.trans {t u v : Strand} (h : Left t u) (k : Left u v) : Left t v := by unfold Left at *; rw [k, h]
theorem left_of_performed {t u : Strand} (h : Performed t u) : Left t u := by unfold Performed at h; unfold Left; rw [h]
theorem left_of_pops {t u : Strand} (h : Pops t u) : Left t u := by unfold Pops at h; unfold Left; rw [h]
theorem Left.st {t u : Strand} (h : Left t u) : u.st = t.st := by rw [h]

theorem pushOne_left {t u : Strand} {q : Queue} {prev : Bool} {clk : Clock} (h : t.pushOne q prev clk = some u) : Left t u := by
  unfold Strand.pushOne at h
  cases q <;> cases prev <;> simp only [Option.some.injEq, Option.ite_none_right_eq_some] at h
  · rw [← h.2]; rfl
  · rw [← h]; rfl
  · rw [← h.2]; rfl
  · rw [← h.2]; rfl
  · rw [← h]; rfl
  · rw [← h.2]; rfl

theorem pushOne_getD_left (t : Strand) (q : Queue) (prev : Bool) (clk : Clock) (b : Bool) :
    Left t ((if b then t.pushOne q prev clk else some t).getD t) := by
  cases b with
  | false => rfl
  | true =>
    rw [if_pos rfl]
    cases h : t.pushOne q prev clk with
    | none => rfl
    | some u => exact pushOne_left h

theorem pushTokens_left (t : Strand) (q : Queue) (tk : BitVec 4) (clk : Clock) : Left t (t.pushTokens q tk clk).1 :=
  (pushOne_getD_left t q true clk _).trans (pushOne_getD_left _ q false clk _)

theorem settle_frame {s : State} (q : Queue) (tk : BitVec 4) (clk : Clock) (pos : Word) (ring : Nat)
    (hfree : (tk.getLsbD 1 = true → room s.me q true) ∧ (tk.getLsbD 0 = true → room s.me q false)) :
    ∃ u, s.settle s.cur (some q) tk clk 0 pos ring = s.setMe u ∧ Left s.me u := by
  have hmerge : s.me.mergeFlags 0 = s.me := by
    have hflg : s.me.flg ||| (0 : Flags) = s.me.flg := BitVec.or_zero
    unfold Strand.mergeFlags
    rw [hflg]
  have hspill : (s.me.pushTokens q tk clk).2 = false := (pushTokens_free _ _ _ _).2 hfree
  refine ⟨(s.me.pushTokens q tk clk).1, ?_, pushTokens_left _ _ _ _⟩
  unfold State.settle State.settleAs
  dsimp only
  rw [show s.strand s.cur = s.me from rfl, hmerge, hspill]
  rfl

/-- A store that has asked another device waits for the reply. -/
theorem perform_asks {s : State} (q : Queue) (f : Fields) (sp : ISpec) (e : QEntry) (vals : List Word) (fl : Flags)
    (h : s.rel.fresh.isEmpty = false) : s.perform q f sp .none e vals fl = s.perform q f sp .reply e vals fl := by
  unfold State.perform
  dsimp only
  rw [h]
  rfl

/-- Without a window, a delivery or a reply the instruction is settled at once. -/
theorem perform_settles {s : State} (q : Queue) (f : Fields) {sp : ISpec} (hn : sp.lat = .n) (e : QEntry) (vals : List Word)
    (h : s.rel.fresh.isEmpty = true) : ∃ t clk, s.perform q f sp .none e vals 0 = (s.takeFresh.setMe t).settle s.cur (some q) f.tk clk 0 e.pos e.ring ∧
      Left s.me t ∧ Fewer s.me t := by
  have hstart : ∃ t0, (match sp.route with
      | .ls => ((s.me.popHead .L).popHead .S).issueAt s.cycle [.L, .S]
      | _ => (s.me.popHead q).issueAt s.cycle [q]) = t0 ∧ Pops s.me t0 ∧ Fewer s.me t0 := by
    refine ⟨_, rfl, ?_, ?_⟩
    · split
      · exact ((popHead_pops _ .L).trans (popHead_pops _ .S)).trans (issueAt_pops _ _ _)
      · exact (popHead_pops _ q).trans (issueAt_pops _ _ _)
    · split
      · exact .refl _
      · cases q <;> exact .refl _
  obtain ⟨t0, h0, hpops, hfewer⟩ := hstart
  have hpop := left_of_pops (hpops.trans (popTokens_pops t0 q f.tk))
  have hless := hfewer.trans (popTokens_fewer t0 q f.tk)
  rw [← h0] at hpop hless
  unfold State.perform
  dsimp only
  rw [h, hn]
  exact ⟨_, _, rfl, hpop.trans rfl, hless⟩

/-- What an instruction leaves alone that has performed without a flag and whose pushes find room. -/
theorem perform_left {s : State} (hst : s.me.st ≠ .unbound) (q : Queue) (f : Fields) (sp : ISpec) (ack : Ack) (e : QEntry) (vals : List Word)
    (hfree : (s.me.pushTokens q f.tk []).2 = false) :
    (∀ m a, (s.perform q f sp ack e vals 0).physByte m a = s.physByte m a) ∧ marks (s.perform q f sp ack e vals 0) = marks s ∧
    (s.perform q f sp ack e vals 0).cores = s.cores ∧
    SameOthers s (s.perform q f sp ack e vals 0) ∧ Left s.me (s.perform q f sp ack e vals 0).me := by
  by_cases hlat : sp.lat ≠ .n ∨ ack ≠ .none
  · obtain ⟨hbytes, hmarks, hcores, hothers, hme⟩ := perform_frame hst q f hlat e vals 0
    exact ⟨hbytes, hmarks, hcores, hothers, left_of_performed hme⟩
  simp only [not_or, Decidable.not_not] at hlat
  obtain ⟨hn, rfl⟩ := hlat
  cases hfresh : s.rel.fresh.isEmpty with
  | false =>
    rw [perform_asks q f sp e vals 0 hfresh]
    obtain ⟨hbytes, hmarks, hcores, hothers, hme⟩ := perform_frame hst q f (sp := sp) (ack := .reply) (.inr (by decide)) e vals 0
    exact ⟨hbytes, hmarks, hcores, hothers, left_of_performed hme⟩
  | true =>
    obtain ⟨t, clk, ht, hleft, hfewer⟩ := perform_settles q f hn e vals hfresh
    obtain ⟨hroom1, hroom0⟩ := (pushTokens_free _ _ _ _).1 hfree
    have hst1 : t.st ≠ .unbound := by rw [hleft.st]; exact hst
    have hme : (s.takeFresh.setMe t).me = t := me_setMe s.takeFresh t (strand_ne_default t hst1)
    obtain ⟨u, hu, hright⟩ := settle_frame (s := s.takeFresh.setMe t) q f.tk clk e.pos e.ring
      (by rw [hme]; exact ⟨fun h => room_of_fewer hfewer (hroom1 h), fun h => room_of_fewer hfewer (hroom0 h)⟩)
    have hdone : s.perform q f sp .none e vals 0 = (s.takeFresh.setMe t).setMe u := ht.trans hu
    rw [hdone]
    rw [hme] at hright
    refine ⟨fun _ _ => rfl, rfl, rfl, fun m hm => ?_, ?_⟩
    · exact (strand_setStrand_other (s := s.takeFresh.setMe t) u hm).trans (strand_setStrand_other (s := s.takeFresh) t hm)
    · rw [me_setMe (s.takeFresh.setMe t) u (strand_ne_default u (by rw [hright.st]; exact hst1))]
      exact hleft.trans hright

/-- Settles O60: each body changes its record alone, and performing changes the own strand's queues and clocks. -/
theorem recordsAreWrittenAlone : Obligations.RecordsAreWrittenAlone := by
  unfold Obligations.RecordsAreWrittenAlone
  intro op hop f q sp e s t core off hs hm hlate h hrec hfree hex hl
  have hst := inUse_of_headTakes h
  obtain ⟨ack, body, hrun, hbody⟩ := lmInstrs_records (core := core) (off := off) ⟨hs, hm, hst, hlate⟩ f hop e hrec
  obtain ⟨s1, vals, fl, hb, rfl⟩ := performs_of_leaves h (hrun.symm.trans hex) hl (fun s1 c o sub hb => by
    rw [hb] at hbody
    exact hbody)
  rw [hb] at hbody
  obtain ⟨hr, rfl⟩ := hbody
  have hpush : (s1.me.pushTokens q f.tk []).2 = false := by
    rw [pushTokens_free] at hfree ⊢
    have hless : Fewer s.me s1.me := by rw [hr.me]; exact .refl _
    exact ⟨fun h1 => room_of_fewer hless (hfree.1 h1), fun h0 => room_of_fewer hless (hfree.2 h0)⟩
  obtain ⟨hbytes, hmarks, hcores, hothers, hleft⟩ := perform_left (hr.inUse hst) q f sp ack e vals hpush
  have hmem : SameMemory s1 (s1.perform q f sp ack e vals 0) := by
    simp only [marks, Prod.mk.injEq] at hmarks
    exact ⟨hbytes, hmarks⟩
  have hcore (n : Nat) : (s1.perform q f sp ack e vals 0).core n = s1.core n := by rw [State.core, hcores]; rfl
  have hown : Left s.me (s1.perform q f sp ack e vals 0).me := Left.trans (by rw [hr.me]; rfl) hleft
  refine ⟨sameMemory_trans hr.mem hmem, fun n => ?_, fun n hn => ?_, fun n a hx => ?_, fun n w hx => ?_, fun n => ?_, ?_, ?_, ?_, ?_⟩
  · rw [hcore]; exact hr.tiles n
  · rw [hothers n (by rwa [hr.cur])]; exact hr.others n hn
  · rw [hcore]; exact hr.lm n a hx
  · rw [hcore]; exact hr.full n w hx
  all_goals rw [hown]
  rfl

end Sys2Proof.Proofs.RecordFrames
end

section
/-! SUPPORT. What a write changes where no error waits: its own bytes alone, through every window, and nothing of the cores. -/
namespace Sys2Proof.Proofs.QuietWrites
open Sys2Proof Sys2Proof.Machine Sys2Proof.Claims Sys2Proof.Proofs.MemoryIsReadAsWritten Sys2Proof.Proofs.QuietReads

/-! ### Rows, errors and cores -/

/-- `t` is `s` but for bytes of memory and their marks. -/
structure Tidy (s t : State) : Prop where
  rows : t.rows = s.rows
  errors : errors t = errors s
  cores : ∀ n, part (t.core n) = part (s.core n)

theorem Tidy.refl (s : State) : Tidy s s := ⟨rfl, rfl, fun _ => rfl⟩
theorem Tidy.trans {s t u : State} (h : Tidy s t) (k : Tidy t u) : Tidy s u :=
  ⟨k.rows.trans h.rows, k.errors.trans h.errors, fun n => (k.cores n).trans (h.cores n)⟩
theorem Tidy.noErrors {s t : State} (h : Tidy s t) (hs : NoErrors s) : NoErrors t := by
  rw [noErrors_iff] at hs ⊢
  obtain ⟨herr, hlm⟩ := hs
  refine ⟨h.errors.trans herr, fun n => ?_⟩
  obtain ⟨-, -, -, hfresh, hce⟩ := part_fields (h.cores n)
  rw [hfresh, hce]
  exact hlm n
theorem Tidy.clean {s t : State} (h : Tidy s t) (hs : NoErrors s) : Clean t := clean_of_noErrors (h.noErrors hs)
theorem tidy_of_quiet {s t : State} (h : Quiet s t) : Tidy s t := ⟨congrArg (fun x => x.2.2.2.2) h.marks, h.errors, h.cores⟩
/-- A change beside the cores. -/
theorem tidy_beside {s t : State} (hr : t.rows = s.rows) (he : errors t = errors s) (hc : t.cores = s.cores) : Tidy s t :=
  ⟨hr, he, fun n => by rw [State.core, hc]; rfl⟩

theorem foldl_tidy {α : Type} (l : List α) (g : State → α → State) {s : State} (hs : NoErrors s)
    (h : ∀ t x, NoErrors t → Tidy t (g t x)) : Tidy s (l.foldl g s) := by
  induction l generalizing s with
  | nil => exact .refl s
  | cons x r ih =>
    have hx := h s x hs
    exact hx.trans (ih (hx.noErrors hs))

theorem dieWritten_tidy {s : State} (hs : NoErrors s) (b : Bool) (u : Nat) : Tidy s (s.dieWritten b u) := by
  obtain ⟨hue, hce, -⟩ := hs
  refine tidy_beside rfl ?_ rfl
  simp only [errors, State.dieWritten, setDel_of_nil hue, setDel_of_nil hce]

theorem writeBackDev_tidy {s : State} (hs : NoErrors s) (line : Nat) : Tidy s (s.writeBackDev line) := by
  obtain ⟨-, -, -, hue, hce⟩ := clean_of_noErrors hs
  unfold State.writeBackDev
  split
  · dsimp only
    refine Tidy.trans ?_ (dieWritten_tidy ?_ _ _)
    · exact tidy_beside rfl (by simp only [errors, arrays, setDel_of_nil hue, setDel_of_nil hce]) rfl
    · obtain ⟨hdue, hdce, harr, hlm⟩ := hs
      refine ⟨hdue, hdce, ?_, hlm⟩
      simp only [setDel_of_nil hue, setDel_of_nil hce]
      exact harr
  · exact .refl s

theorem flushDev_eq {s : State} (hs : NoErrors s) (line : Nat) : s.flushDev line = s.writeBackDev line := by
  unfold State.flushDev
  split
  · rw [noteL2_clean (clean_of_noErrors hs)]
  next hnone => exact (writeBackDev_of_none (by simpa using hnone)).symm

theorem takeUnit_bl_eq {s : State} (hs : NoErrors s) (u : Nat) : ∃ b, s.takeUnit .bl u = (s.writeBackDev u).dieWritten b u := by
  unfold State.takeUnit
  dsimp only
  rw [flushDev_eq hs, noteDie_clean ((writeBackDev_tidy hs u).clean hs)]
  exact ⟨_, rfl⟩

theorem takeUnit_tidy {s : State} (hs : NoErrors s) (sp : MemSpace) (u : Nat) : Tidy s (s.takeUnit sp u) := by
  have hc := clean_of_noErrors hs
  cases sp with
  | bl =>
    obtain ⟨b, hb⟩ := takeUnit_bl_eq hs u
    rw [hb]
    have h := writeBackDev_tidy hs u
    exact h.trans (dieWritten_tidy (h.noErrors hs) _ _)
  | il =>
    simp only [State.takeUnit, noteDir_clean hc, noteUnit_clean hc]
    split
    · exact .refl s
    · exact tidy_beside rfl rfl rfl
  | host | pool =>
    simp only [State.takeUnit, noteDir_clean hc, noteUnit_clean hc, reduceCtorEq, if_false, ite_self]
    exact .refl s

theorem putByte_tidy {s : State} (hs : NoErrors s) (sp : MemSpace) (off : Nat) (b : Byte) : Tidy s (s.putByte sp off b) := by
  cases sp with
  | bl => exact (writeBackDev_tidy hs _).trans (tidy_beside rfl rfl rfl)
  | il | host | pool => exact tidy_beside rfl rfl rfl

theorem markUnit_tidy (s : State) (sp : MemSpace) (b : Bool) (u : Nat) : Tidy s (s.markUnit sp b u) := by
  cases sp with
  | il => unfold State.markUnit; dsimp only; split <;> exact tidy_beside rfl rfl rfl
  | bl | host | pool => exact tidy_beside rfl rfl rfl

theorem cleanUnit_tidy {s : State} (hs : NoErrors s) (sp : MemSpace) (u : Nat) : Tidy s (s.cleanUnit sp u) := by
  cases sp with
  | bl => exact dieWritten_tidy hs _ _
  | il | host | pool =>
    simp only [State.cleanUnit, cleanHome_clean (clean_of_noErrors hs)]
    exact markUnit_tidy s _ _ _

theorem untrack_tidy (s : State) (ls : List Nat) : Tidy s (s.untrack ls) :=
  ⟨rfl, rfl, part_mapCores s.cores (g := fun c => { c with icache := c.icache.filter (fun k => !(ls.contains k.1)) }) (fun _ => rfl)⟩

theorem touchCode_tidy (s : State) (p : Party) (sp : MemSpace) (o n : Nat) : Tidy s (s.touchCode p sp o n) := by
  unfold State.touchCode
  split
  · exact .refl s
  · exact (untrack_tidy s _).trans (tidy_beside rfl rfl rfl)

theorem storeMem_tidy {s : State} (hs : NoErrors s) (p : Party) (w : Bool) (sp : MemSpace) (o : Nat) (bs : List Byte) :
    Tidy s (s.storeMem p w sp o bs) := by
  have hput : Tidy s (s.putBytes sp o bs) := foldl_tidy _ _ hs (fun t x ht => putByte_tidy ht sp _ _)
  have hends : Tidy s (((s.putBytes sp o bs).touchCode p sp o bs.length).endSequences p sp o bs.length) :=
    (hput.trans (touchCode_tidy _ _ _ _ _)).trans (tidy_beside rfl rfl rfl)
  unfold State.storeMem
  dsimp only
  split
  · exact hends.trans (foldl_tidy _ _ (hends.noErrors hs) (fun t u ht => cleanUnit_tidy ht sp u))
  · exact hends

theorem taken_tidy {s : State} (hs : NoErrors s) (full us : List Nat) (sp sp2 : MemSpace) :
    Tidy s (us.foldl (fun t u => if full.contains u then t.noteDir sp2 u else t.takeUnit sp u) s) := by
  refine foldl_tidy _ _ hs (fun t u ht => ?_)
  split
  · rw [noteDir_clean (clean_of_noErrors ht)]; exact .refl t
  · exact takeUnit_tidy ht sp u

theorem taken_memOk {s : State} (hm : MemOk s) (full us : List Nat) (sp sp2 : MemSpace) :
    MemOk (us.foldl (fun t u => if full.contains u then t.noteDir sp2 u else t.takeUnit sp u) s) := by
  refine foldl_memOk _ _ (fun t u ht => ?_) hm
  split
  · exact noteDir_memOk ht _ _
  · exact takeUnit_memOk ht _ _

theorem writeMem_tidy {s : State} (hs : NoErrors s) (p : Party) (w : Bool) (sp : MemSpace) (o : Nat) (bs : List Byte) :
    Tidy s (s.writeMem p w sp o bs) := by
  have htaken := taken_tidy hs (if w then wholeUnits sp o bs.length else []) (unitsOf sp o bs.length) sp (if sp = .bl then .il else sp)
  exact htaken.trans (storeMem_tidy (htaken.noErrors hs) p w sp o bs)

/-! ### The interleaved window over a write to the dies -/

/-- The bytes of a line lie in one row of one bank. -/
theorem rowKey_line (l : Nat) : rowKey (64 * (l / 64)) = rowKey l := by
  have hbank : 64 * (l / 64) / 2 ^ 10 = l / 2 ^ 10 := by omega
  have hrow : 64 * (l / 64) / 2 ^ 21 = l / 2 ^ 21 := by omega
  simp only [rowKey, blBank, blRow, hbank, hrow]

theorem dieByte_plain {s : State} {l : Nat} (h : tabFind s.rows (rowKey l) = none) : s.dieByte l = Memory.get s.dev l := by
  simp only [State.dieByte, h]

theorem dieByte_same {s t : State} (hr : t.rows = s.rows) {l : Nat} (hd : Memory.get t.dev l = Memory.get s.dev l) : t.dieByte l = s.dieByte l := by
  simp only [State.dieByte, hr, hd]

/-- A line outside the rows with a state reads the same through the interleaved window once it has gone home. -/
theorem writeBackDev_il {s : State} (hm : MemOk s) {line : Nat} (hrow : tabFind s.rows (rowKey (64 * line)) = none) (a : Nat) :
    (s.writeBackDev line).physByte .il a = s.physByte .il a := by
  obtain ⟨-, -, -, hwf, -⟩ := hm
  rw [(physByte_eq_topped _ a).1, (physByte_eq_topped _ a).1]
  generalize ilToBl a = l
  have hrows := (writeBackDev_beside s line).rows
  have hdev := (writeBackDev_beside s line).dev l
  have hl2 := (writeBackDev_beside s line).l2 (l / 64)
  unfold topped
  by_cases hl : l / 64 = line
  · subst hl
    rw [writeBackDev_gone hwf]
    rw [rowKey_line] at hrow
    cases hd : tabFind s.l2 (l / 64) with
    | none => rw [writeBackDev_of_none hd]
    | some d =>
      dsimp only
      rw [dieByte_plain (by rw [hrows]; exact hrow)]
      unfold State.writeBackDev
      rw [hd]
      have h := get_write s.dev (64 * (l / 64)) (leBytes 64 d.toNat) (l % 64) _ (lineByte_leBytes d (Nat.mod_lt _ (by decide)))
      rwa [Nat.div_add_mod] at h
  · rw [hl2 hl, dieByte_same hrows (hdev hl)]

theorem putByte_bl_il {s : State} (hm : MemOk s) {l : Nat} (hrow : tabFind s.rows (rowKey l) = none) (b : Byte) {a : Nat} (ha : ilToBl a ≠ l) :
    (s.putByte .bl l b).physByte .il a = s.physByte .il a := by
  refine Eq.trans ?_ (writeBackDev_il hm (line := l / 64) (by rw [rowKey_line]; exact hrow) a)
  rw [(physByte_eq_topped _ a).1, (physByte_eq_topped _ a).1]
  have hdie : (s.putByte .bl l b).dieByte (ilToBl a) = (s.writeBackDev (l / 64)).dieByte (ilToBl a) :=
    dieByte_same (s := s.writeBackDev (l / 64)) (t := s.putByte .bl l b) rfl (get_write_ne (s.writeBackDev (l / 64)).dev l [b] _ (by simp only [List.length_singleton]; omega))
  unfold topped
  rw [hdie]
  rfl

theorem putBytesFrom_bl_il (bs : List Byte) (n : Nat) {s : State} (hm : MemOk s) {off a : Nat}
    (hrow : ∀ i < bs.length, tabFind s.rows (rowKey (off + n + i)) = none) (ha : ∀ i < bs.length, off + n + i ≠ ilToBl a) :
    ((bs.zipIdx n).foldl (fun t b => t.putByte .bl (off + b.2) b.1) s).physByte .il a = s.physByte .il a := by
  induction bs generalizing n s with
  | nil => rfl
  | cons b r ih =>
    have hrows : (s.putByte .bl (off + n) b).rows = s.rows := (putByte_bl_beside s (off + n) b).rows
    rw [List.zipIdx_cons, List.foldl_cons, ih (n + 1) (putByte_memOk hm _ _ _)]
    · exact putByte_bl_il hm (hrow 0 (by simp)) b (fun h => ha 0 (by simp) h.symm)
    · intro i hi
      rw [hrows, show off + (n + 1) + i = off + n + (i + 1) by omega]
      exact hrow (i + 1) (by simp only [List.length_cons]; omega)
    · intro i hi
      have := ha (i + 1) (by simp only [List.length_cons]; omega)
      omega

theorem taken_bl_il {s : State} (hs : NoErrors s) (hm : MemOk s) (full : List Nat) {us : List Nat} (sp2 : MemSpace)
    (hrow : ∀ u ∈ us, tabFind s.rows (rowKey (64 * u)) = none) (a : Nat) :
    (us.foldl (fun t u => if full.contains u then t.noteDir sp2 u else t.takeUnit .bl u) s).physByte .il a = s.physByte .il a := by
  induction us generalizing s with
  | nil => rfl
  | cons u r ih =>
    have hr : ∀ x ∈ r, tabFind s.rows (rowKey (64 * x)) = none := fun x hx => hrow x (List.mem_cons_of_mem _ hx)
    rw [List.foldl_cons]
    split
    · rw [noteDir_clean (clean_of_noErrors hs)]
      exact ih hs hm hr
    · have ht := takeUnit_tidy hs .bl u
      rw [ih (ht.noErrors hs) (takeUnit_memOk hm _ _) (by rw [ht.rows]; exact hr)]
      obtain ⟨b, hb⟩ := takeUnit_bl_eq hs u
      rw [hb]
      exact writeBackDev_il hm (hrow u List.mem_cons_self) a

/-! ### The units of a range -/

theorem ilToBl_line (i : Nat) : ilToBl (64 * (i / 64)) / 64 = ilToBl i / 64 := by
  obtain ⟨a, b, n, r, hb, hn, hr, rfl⟩ := il_parts i
  have hline : 64 * (((128 * a + b) * 16384 + n * 256 + r) / 64) = (128 * a + b) * 16384 + n * 256 + 64 * (r / 64) := by omega
  rw [hline, ilToBl_parts hb hn hr, ilToBl_parts hb hn (by omega)]
  omega
theorem physLoc_line (sp : MemSpace) (i : Nat) : physLoc sp (64 * (i / 64)) / 64 = physLoc sp i / 64 := by
  cases sp with
  | il => exact ilToBl_line i
  | bl | host | pool => simp only [physLoc]; omega

/-- The units of a range are the lines of its bytes. -/
theorem mem_unitsOf {sp : MemSpace} {off n u : Nat} (h : u ∈ unitsOf sp off n) : ∃ i < n, physLoc sp (off + i) / 64 = u := by
  unfold unitsOf at h
  split at h
  · simp at h
  next hn =>
    simp only [List.mem_map, List.mem_range] at h
    obtain ⟨k, hk, rfl⟩ := h
    by_cases hfirst : k = 0
    · exact ⟨0, by omega, by rw [hfirst, Nat.add_zero, Nat.add_zero, physLoc_line]⟩
    · refine ⟨64 * (off / 64 + k) - off, by omega, ?_⟩
      rw [show off + (64 * (off / 64 + k) - off) = 64 * (off / 64 + k) by omega]

/-! ### A write through a window -/

/-- The bytes of device memory in a range lie outside the rows with a state. -/
def FreeRange (s : State) (sp : MemSpace) (off n : Nat) : Prop :=
  sp = .il ∨ sp = .bl → ∀ i < n, tabFind s.rows (rowKey (physLoc sp (off + i))) = none

theorem FreeRange.unit {s : State} {sp : MemSpace} {off n u : Nat} (h : FreeRange s sp off n) (hsp : sp = .il ∨ sp = .bl)
    (hu : u ∈ unitsOf sp off n) : tabFind s.rows (rowKey (64 * u)) = none := by
  obtain ⟨i, hi, rfl⟩ := mem_unitsOf hu
  rw [rowKey_line]
  exact h hsp i hi

theorem outside_mem {sp m : MemSpace} {off n size a : Nat} (h : Outside [.mem sp off n size] m a) {i : Nat} (hi : i < n) :
    locKey sp (off + i) ≠ locKey m a ∧ (m = .bl → lineKey sp (off + i) ≠ lineKey .bl a) := h sp off n size List.mem_cons_self i hi

section
variable {s : State} (hs : NoErrors s) (hm : MemOk s)
include hs

theorem writeMem_bl_beside (w : Bool) (off : Nat) (bs : List Byte) :
    Beside (fun l => ∃ i < bs.length, (off + i) / 64 = l) s (((unitsOf .bl off bs.length).foldl (fun t u =>
      if (if w then wholeUnits .bl off bs.length else []).contains u then t.noteDir .il u else t.takeUnit .bl u) s).putBytes .bl off bs) :=
  (taken_bl_beside (fun _ hu => mem_unitsOf_bl hu) (clean_of_noErrors hs) .il).trans (putBytes_bl_beside _ off bs)

include hm in
theorem writeMem_spares (p : Party) (w : Bool) {sp : MemSpace} {off n size : Nat} {bs : List Byte} (hn : bs.length ≤ n)
    (hfree : FreeRange s sp off n) {m : MemSpace} {a : Nat} (ha : Outside [.mem sp off n size] m a) :
    (s.writeMem p w sp off bs).physByte m a = s.physByte m a := by
  by_cases hsp : sp = .bl
  · subst hsp
    have hbeside := writeMem_bl_beside hs w off bs
    rw [State.writeMem, physByte_of_stored (storeMem_stored _ _ _ _ _ _)]
    have hline (hmb : m = .bl) : ¬ ∃ i < bs.length, (off + i) / 64 = a / 64 := by
      rintro ⟨i, hi, hl⟩
      exact (outside_mem ha (by omega)).2 hmb hl
    cases m with
    | host | pool => exact hbeside.physByte (by simp)
    | bl => exact hbeside.physByte (fun _ => hline rfl)
    | il =>
      have htaken := taken_tidy hs (if w then wholeUnits .bl off bs.length else []) (unitsOf .bl off bs.length) .bl .il
      have hus : ∀ u ∈ unitsOf .bl off bs.length, tabFind s.rows (rowKey (64 * u)) = none := fun u hu => by
        obtain ⟨i, hi, rfl⟩ := mem_unitsOf hu
        rw [rowKey_line]
        exact hfree (.inr rfl) i (by omega)
      refine (putBytesFrom_bl_il bs 0 ?_ (fun i hi => ?_) (fun i hi => ?_)).trans (taken_bl_il hs hm _ .il hus a)
      · exact taken_memOk hm _ _ _ _
      · rw [Nat.add_zero]
        exact (congrArg (tabFind · _) htaken.rows).trans (hfree (.inr rfl) i (by omega))
      · rw [Nat.add_zero]
        exact (outside_mem ha (by omega)).1
  · rw [writeMem_read (clean_of_noErrors hs) p w hsp, if_neg]
    rintro ⟨rfl, hlo, hhi⟩
    have := (outside_mem ha (i := a - off) (by omega)).1
    rw [show off + (a - off) = a by omega] at this
    exact this rfl
end

/-! ### What a write asks of the link -/

theorem evictHost_quiet {s : State} (hs : NoErrors s) (hm : MemOk s) (u : Nat) : Quiet s (s.evictHost u) := by
  unfold State.evictHost
  split
  · exact .refl hm
  · have h := flushHost_quiet hs hm u
    have hcxl : (s.flushHost u).arr.cxl = s.arr.cxl := by
      unfold State.flushHost
      split
      · rw [noteL2_clean (clean_of_noErrors hs)]
        unfold State.writeBackHost
        split <;> rfl
      · rfl
    have h2 := h.trans (setCxl_quiet h.wf (c := { s.arr.cxl with shared := setDel s.arr.cxl.shared u, exclusive := setDel s.arr.cxl.exclusive u })
      (by rw [hcxl]) (by rw [hcxl]))
    exact h2.trans (cxlAsk_quiet h2.wf _ _)

theorem cxlWrite_quiet {s : State} (hs : NoErrors s) (hm : MemOk s) (sp : MemSpace) (off n size : Nat) : Quiet s (s.cxlWrite sp off n size) := by
  cases sp with
  | il => simp only [State.cxlWrite, hostHeld_nil hs, List.isEmpty_nil, if_true]; exact .refl hm
  | bl => exact .refl hm
  | host =>
    refine foldl_quiet _ _ hs hm (fun t u hs ht => ?_)
    split
    · exact hostLine_quiet ht _ _ u
    · have h := evictHost_quiet hs ht u
      exact h.trans (cxlAsk_quiet h.wf _ _)
  | pool =>
    simp only [State.cxlWrite]
    split
    · exact .refl hm
    · exact foldl_quiet _ _ hs hm (fun t u hs ht => poolLine_quiet hs ht u)

/-! ### Pieces -/

/-- The piece lies inside one of the list. -/
def Inside (q : Piece) (ps : List Piece) : Prop := match q with
  | .mem sp o n _ => ∃ o2 n2 z, Piece.mem sp o2 n2 z ∈ ps ∧ o2 ≤ o ∧ o + n ≤ o2 + n2
  | .lm c o n => ∃ o2 n2, Piece.lm c o2 n2 ∈ ps ∧ o2 ≤ o ∧ o + n ≤ o2 + n2
  | _ => True
/-- Each piece lies inside one of the list. -/
def Cover (qs ps : List Piece) : Prop := ∀ q ∈ qs, Inside q ps

theorem inside_of_mem {q : Piece} {ps : List Piece} (h : q ∈ ps) : Inside q ps := by
  cases q with
  | lm c o n => exact ⟨o, n, h, Nat.le_refl _, Nat.le_refl _⟩
  | mem sp o n z => exact ⟨o, n, z, h, Nat.le_refl _, Nat.le_refl _⟩
  | remote p o n => trivial
  | kons k sp o n => trivial
  | fixed v n => trivial
  | hidden n => trivial
theorem cover_of_subset {qs ps : List Piece} (h : qs ⊆ ps) : Cover qs ps := fun _ hq => inside_of_mem (h hq)
theorem Cover.refl (ps : List Piece) : Cover ps ps := cover_of_subset (List.Subset.refl ps)
theorem Inside.trans {q : Piece} {qs ps : List Piece} (h : Inside q qs) (k : Cover qs ps) : Inside q ps := by
  cases q with
  | lm c o n =>
    obtain ⟨o2, n2, hmem, hlo, hhi⟩ := h
    obtain ⟨o3, n3, hmem3, hlo3, hhi3⟩ := k _ hmem
    exact ⟨o3, n3, hmem3, Nat.le_trans hlo3 hlo, Nat.le_trans hhi hhi3⟩
  | mem sp o n z =>
    obtain ⟨o2, n2, z2, hmem, hlo, hhi⟩ := h
    obtain ⟨o3, n3, z3, hmem3, hlo3, hhi3⟩ := k _ hmem
    exact ⟨o3, n3, z3, hmem3, Nat.le_trans hlo3 hlo, Nat.le_trans hhi hhi3⟩
  | remote p o n => trivial
  | kons k sp o n => trivial
  | fixed v n => trivial
  | hidden n => trivial
theorem Cover.trans {rs qs ps : List Piece} (h : Cover rs qs) (k : Cover qs ps) : Cover rs ps := fun q hq => (h q hq).trans k

theorem Cover.outside {qs ps : List Piece} (h : Cover qs ps) {m : MemSpace} {a : Nat} (ho : Outside ps m a) : Outside qs m a := by
  intro sp off n size hq i hi
  obtain ⟨o2, n2, z, hmem, hlo, hhi⟩ := h _ hq
  have := ho sp o2 n2 z hmem (off + i - o2) (by omega)
  rwa [show o2 + (off + i - o2) = off + i by omega] at this
theorem Cover.outsideLm {qs ps : List Piece} (h : Cover qs ps) {c a : Nat} (ho : OutsideLm ps c a) : OutsideLm qs c a := by
  intro off n hq
  obtain ⟨o2, n2, hmem, hlo, hhi⟩ := h _ hq
  have := ho o2 n2 hmem
  omega
theorem Cover.noLm {qs ps : List Piece} (h : Cover qs ps) (hp : ∀ c o n, Piece.lm c o n ∉ ps) (c o n : Nat) : Piece.lm c o n ∉ qs := by
  intro hq
  obtain ⟨o2, n2, hmem, -⟩ := h _ hq
  exact hp c o2 n2 hmem

theorem cached_cover (s : State) (pol : Nat) (ps : List Piece) : Cover (s.cached pol ps) ps ∧ Cover ps (s.cached pol ps) := by
  unfold State.cached
  split
  · exact ⟨.refl ps, .refl ps⟩
  · constructor
    · intro q hq
      obtain ⟨p, hp, rfl⟩ := List.mem_map.1 hq
      cases p with
      | mem sp o n z => exact ⟨o, n, z, hp, Nat.le_refl _, Nat.le_refl _⟩
      | lm c o n => exact inside_of_mem hp
      | remote p o n => trivial
      | kons k sp o n => trivial
      | fixed v n => trivial
      | hidden n => trivial
    · intro p hp
      have hq := List.mem_map_of_mem (f := fun p : Piece => match p with
        | .mem sp off n size => Piece.mem sp off n (if pol = 3 || !(s.inL2 sp off n) then 0 else size)
        | p => p) hp
      cases p with
      | mem sp o n z => exact ⟨o, n, _, hq, Nat.le_refl _, Nat.le_refl _⟩
      | lm c o n => exact inside_of_mem hq
      | remote p o n => trivial
      | kons k sp o n => trivial
      | fixed v n => trivial
      | hidden n => trivial

theorem slicePieces_cover (ps : List Piece) (o n : Nat) : Cover (slicePieces ps o n) ps := by
  induction ps generalizing o n with
  | nil => exact .refl []
  | cons p r ih =>
    have htail (o n : Nat) : Cover (slicePieces r o n) (p :: r) := (ih o n).trans (cover_of_subset (List.subset_cons_self p r))
    have hcut {len : Nat} {mk : Nat → Nat → Piece} (hmk : ∀ k, o + k ≤ len → Inside (mk o k) (p :: r)) :
        Cover (if len ≤ o then slicePieces r (o - len) n
          else if n = 0 then [] else mk o (min n (len - o)) :: slicePieces r 0 (n - min n (len - o))) (p :: r) := by
      split
      · exact htail _ _
      · split
        · exact fun q hq => absurd hq List.not_mem_nil
        · exact List.forall_mem_cons.2 ⟨hmk _ (by omega), htail _ _⟩
    cases p with
    | lm c off len => exact hcut (mk := fun a k => .lm c (off + a) k) (fun k hk => ⟨off, len, List.mem_cons_self, by omega, by omega⟩)
    | mem sp off len size =>
      exact hcut (mk := fun a k => .mem sp (off + a) k size) (fun k hk => ⟨off, len, size, List.mem_cons_self, by omega, by omega⟩)
    | remote pos off len => exact hcut (mk := fun a k => .remote pos (off + a) k) (fun _ _ => trivial)
    | kons key sp off len => exact hcut (mk := fun a k => .kons key sp (off + a) k) (fun _ _ => trivial)
    | fixed v len => exact hcut (mk := fun _ k => .fixed v k) (fun _ _ => trivial)
    | hidden len => exact hcut (mk := fun _ k => .hidden k) (fun _ _ => trivial)

/-- The device memory behind pieces lies outside the rows with a state. -/
def FreeRows (s : State) (ps : List Piece) : Prop := ∀ sp off n size, Piece.mem sp off n size ∈ ps → FreeRange s sp off n

theorem FreeRows.cover {s : State} {qs ps : List Piece} (h : FreeRows s ps) (hc : Cover qs ps) : FreeRows s qs := by
  intro sp off n size hq hsp i hi
  obtain ⟨o2, n2, z, hmem, hlo, hhi⟩ := hc _ hq
  have := h sp o2 n2 z hmem hsp (off + i - o2) (by omega)
  rwa [show o2 + (off + i - o2) = off + i by omega] at this
theorem FreeRows.of_rows {s t : State} (h : t.rows = s.rows) {ps : List Piece} (hf : FreeRows s ps) : FreeRows t ps := by
  intro sp off n size hq hsp i hi
  rw [h]
  exact hf sp off n size hq hsp i hi

/-- A byte of a range lies in one of the range's units. -/
theorem unit_of_range {sp : MemSpace} {off n i : Nat} (hi : i < n) : physLoc sp (off + i) / 64 ∈ unitsOf sp off n := by
  unfold unitsOf
  rw [if_neg (by omega)]
  refine List.mem_map.2 ⟨(off + i) / 64 - off / 64, List.mem_range.2 (by omega), ?_⟩
  rw [show off / 64 + ((off + i) / 64 - off / 64) = (off + i) / 64 by omega, physLoc_line]

theorem rowFate_free {s : State} {sp : MemSpace} {off n : Nat} (h : s.rowFate true sp off n = none) : FreeRange s sp off n := by
  intro hsp i hi
  have hmem := unit_of_range (sp := sp) (off := off) hi
  have hnone : (unitsOf sp off n).filterMap (fun u => tabFind s.rows (rowKey (64 * u))) = [] := by
    rcases hsp with rfl | rfl <;>
    · simp only [State.rowFate] at h
      split at h
      · cases h
      · split at h
        · cases h
        next hempty => simpa using hempty
  have := List.filterMap_eq_nil_iff.1 hnone _ hmem
  rwa [rowKey_line] at this

theorem piecesFate_free {s : State} {ps : List Piece} (h : s.piecesFate true ps = none) : FreeRows s ps := by
  induction ps with
  | nil => exact fun _ _ _ _ hq => absurd hq List.not_mem_nil
  | cons p r ih =>
    have hlater (h : s.piecesFate true r = none) {q : Piece} (hp : ∀ sp off n size, q ≠ .mem sp off n size) : FreeRows s (q :: r) := by
      intro sp off n size hq
      rcases List.mem_cons.1 hq with hq | hq
      · exact absurd hq.symm (hp _ _ _ _)
      · exact ih h sp off n size hq
    cases p with
    | mem sp0 off0 n0 z0 =>
      intro sp off n size hq
      simp only [State.piecesFate] at h
      split at h
      · cases h
      next hfate =>
        rcases List.mem_cons.1 hq with hq | hq
        · cases hq; exact rowFate_free hfate
        · exact ih h sp off n size hq
    | lm | remote | kons | fixed | hidden => exact hlater h nofun

/-! ### Writes of pieces -/

/-- `t` is `s` but for the bytes behind the pieces. -/
structure Wrote (ps : List Piece) (s t : State) : Prop where
  wf : MemOk t
  noErrors : NoErrors t
  rows : t.rows = s.rows
  bytes : ∀ m a, Outside ps m a → t.physByte m a = s.physByte m a
  tiles : SameTiles s t
  lm : ∀ n a, OutsideLm ps n a → Memory.get (t.core n).lm a = Memory.get (s.core n).lm a
  full : ∀ n w, (∀ k < 4, OutsideLm ps n (4 * w + k)) → (t.core n).full.contains w = (s.core n).full.contains w
  plain : (∀ c o n, Piece.lm c o n ∉ ps) → SameLm s t

theorem Wrote.trans {ps : List Piece} {s t u : State} (h : Wrote ps s t) (k : Wrote ps t u) : Wrote ps s u :=
  ⟨k.wf, k.noErrors, k.rows.trans h.rows, fun m a ho => (k.bytes m a ho).trans (h.bytes m a ho), fun n => (k.tiles n).trans (h.tiles n),
    fun n a ho => (k.lm n a ho).trans (h.lm n a ho), fun n w ho => (k.full n w ho).trans (h.full n w ho),
    fun hp n => ⟨(k.plain hp n).1.trans (h.plain hp n).1, (k.plain hp n).2.trans (h.plain hp n).2⟩⟩
theorem Wrote.mono {qs ps : List Piece} {s t : State} (h : Wrote qs s t) (hc : Cover qs ps) : Wrote ps s t :=
  ⟨h.wf, h.noErrors, h.rows, fun m a ho => h.bytes m a (hc.outside ho), h.tiles, fun n a ho => h.lm n a (hc.outsideLm ho),
    fun n w ho => h.full n w (fun k hk => hc.outsideLm (ho k hk)), fun hp => h.plain (hc.noLm hp)⟩
/-- A write to memory alone. -/
theorem wrote_of_tidy {ps : List Piece} {s t : State} (hs : NoErrors s) (hm : MemOk t) (h : Tidy s t)
    (hb : ∀ m a, Outside ps m a → t.physByte m a = s.physByte m a) : Wrote ps s t := by
  have hpart (n : Nat) := part_fields (h.cores n)
  refine ⟨hm, h.noErrors hs, h.rows, hb, fun n => ?_, fun n a _ => ?_, fun n w _ => ?_, fun _ n => ?_⟩
  all_goals obtain ⟨hlm, hfull, hvrf, -⟩ := hpart n
  · exact hvrf
  · rw [hlm]
  · rw [hfull]
  · exact ⟨hlm, hfull⟩
theorem wrote_of_quiet {ps : List Piece} {s t : State} (hs : NoErrors s) (h : Quiet s t) : Wrote ps s t :=
  wrote_of_tidy hs h.wf (tidy_of_quiet h) (fun m a _ => h.bytes m a)
theorem Wrote.refl {ps : List Piece} {s : State} (hs : NoErrors s) (hm : MemOk s) : Wrote ps s s := wrote_of_quiet hs (.refl hm)

theorem foldl_wrote {α : Type} {ps : List Piece} (l : List α) (g : State → α → State) {s : State} (hs : NoErrors s) (hm : MemOk s) (hf : FreeRows s ps)
    (h : ∀ t, ∀ x ∈ l, NoErrors t → MemOk t → FreeRows t ps → Wrote ps t (g t x)) : Wrote ps s (l.foldl g s) := by
  induction l generalizing s with
  | nil => exact .refl hs hm
  | cons x r ih =>
    have hx := h s x List.mem_cons_self hs hm hf
    exact hx.trans (ih hx.noErrors hx.wf (hf.of_rows hx.rows) (fun t y hy => h t y (List.mem_cons_of_mem _ hy)))

section
variable {s : State} (hs : NoErrors s) (hm : MemOk s)
include hs hm

/-- A line of the pieces that goes home. -/
theorem flushDev_wrote {ps : List Piece} {u : Nat} (hrow : tabFind s.rows (rowKey (64 * u)) = none)
    (hu : ∀ a, Outside ps .bl a → u ≠ a / 64) : Wrote ps s (s.flushDev u) := by
  rw [flushDev_eq hs]
  refine wrote_of_tidy hs (writeBackDev_memOk hm u) (writeBackDev_tidy hs u) (fun m a ho => ?_)
  have hbeside := writeBackDev_beside s u
  cases m with
  | il => exact writeBackDev_il hm hrow a
  | host | pool => exact hbeside.physByte (by simp)
  | bl => exact hbeside.physByte (fun _ h => hu a ho h.symm)

theorem writeThru_wrote (p : Party) (w : Bool) {sp : MemSpace} {off n size : Nat} {bs : List Byte} (hn : bs.length ≤ n)
    (hfree : FreeRange s sp off n) : Wrote [.mem sp off n size] s (s.writeThru p w sp off bs size) := by
  have hask := cxlWrite_quiet hs hm sp off bs.length size
  have hs1 := hask.noErrors hs
  have hrows : (s.cxlWrite sp off bs.length size).rows = s.rows := (tidy_of_quiet hask).rows
  have hfree1 : FreeRange (s.cxlWrite sp off bs.length size) sp off n := fun hsp i hi => by rw [hrows]; exact hfree hsp i hi
  have hwrite : Wrote [.mem sp off n size] s ((s.cxlWrite sp off bs.length size).writeMem p w sp off bs) :=
    (wrote_of_quiet hs hask).trans (wrote_of_tidy hs1 (writeMem_memOk hask.wf p w sp off bs) (writeMem_tidy hs1 p w sp off bs)
      (fun m a ho => writeMem_spares hs1 hask.wf p w hn hfree1 ho))
  unfold State.writeThru
  dsimp only
  split
  · exact hwrite
  · have hf : FreeRows ((s.cxlWrite sp off bs.length size).writeMem p w sp off bs) [.mem sp off n size] := by
      refine FreeRows.of_rows hwrite.rows (fun sp2 off2 n2 z hq => ?_)
      cases List.mem_singleton.1 hq
      exact hfree
    cases sp with
    | il =>
      refine hwrite.trans (foldl_wrote _ _ hwrite.noErrors hwrite.wf hf (fun t u hu ht hmt hft => ?_))
      obtain ⟨i, hi, rfl⟩ := mem_unitsOf hu
      refine flushDev_wrote ht hmt ?_ (fun a ho => (outside_mem ho (by omega)).2 rfl)
      rw [rowKey_line]
      exact hft .il off n size List.mem_cons_self (.inl rfl) i (by omega)
    | bl => exact hwrite
    | host => exact hwrite.trans (foldl_wrote _ _ hwrite.noErrors hwrite.wf hf (fun t u _ ht hmt _ => wrote_of_quiet ht (flushHost_quiet ht hmt u)))
    | pool => exact hwrite.trans (foldl_wrote _ _ hwrite.noErrors hwrite.wf hf (fun t u _ ht hmt _ => wrote_of_quiet ht (flushPool_quiet ht hmt u)))

/-- A change of a core within a piece of its local memory. -/
theorem modCore_wrote {ps : List Piece} {core : Nat} {g : Core → Core} (hp : ∃ o n, Piece.lm core o n ∈ ps)
    (hvrf : (g (s.core core)).vrf = (s.core core).vrf) (hfresh : (g (s.core core)).lmFresh = []) (hce : (g (s.core core)).lmCe = [])
    (hlm : ∀ a, OutsideLm ps core a → Memory.get (g (s.core core)).lm a = Memory.get (s.core core).lm a)
    (hfull : ∀ w, (∀ k < 4, OutsideLm ps core (4 * w + k)) → (g (s.core core)).full.contains w = (s.core core).full.contains w) :
    Wrote ps s (s.modCore core g) := by
  have hsame := core_modCore_self hm core g
  have hother {m : Nat} (h : m ≠ core) := core_modCore_ne s g h.symm
  obtain ⟨hue, hdce, harr, hcores⟩ := hs
  refine ⟨modCore_memOk hm core g, ⟨hue, hdce, harr, fun n => ?_⟩, rfl, fun _ _ _ => rfl, fun n => ?_, fun n a ho => ?_, fun n w ho => ?_,
    fun hno => ?_⟩
  · by_cases h : n = core
    · subst h; rw [hsame]; exact ⟨hfresh, hce⟩
    · rw [hother h]; exact hcores n
  · by_cases h : n = core
    · subst h; rw [hsame, hvrf]
    · rw [hother h]
  · by_cases h : n = core
    · subst h; rw [hsame, hlm a ho]
    · rw [hother h]
  · by_cases h : n = core
    · subst h; rw [hsame, hfull w ho]
    · rw [hother h]
  · obtain ⟨o, n, hmem⟩ := hp
    exact absurd hmem (hno core o n)

theorem lmStore_wrote (c off : Nat) {n : Nat} {bs : List Byte} (hn : bs.length ≤ n) :
    Wrote [.lm c off n] s (s.modCore c (fun k => k.lmStore off bs)) := by
  obtain ⟨hfresh, hce⟩ := hs.2.2.2 c
  refine modCore_wrote hs hm ⟨off, n, List.mem_cons_self⟩ rfl ?_ ?_ (fun a ho => ?_) (fun w ho => ?_)
  · simp only [Core.lmStore, Core.lmHeal, Core.lmWrite, hfresh, List.filter_nil]
  · simp only [Core.lmStore, Core.lmHeal, Core.lmWrite, hce, List.filter_nil]
  · have := ho off n List.mem_cons_self
    exact get_write_ne _ off bs a (by omega)
  · refine RecordFrames.lmHeal_full _ (fun h => ?_)
    have := RecordFrames.wholeWords_within h
    have := ho 0 (by decide) off n List.mem_cons_self
    omega
end

/-- A write through pieces changes the bytes behind them alone. -/
theorem writePieces_wrote (p : Party) (w : Bool) {s : State} (hs : NoErrors s) (hm : MemOk s) (bs : List Byte) {ps : List Piece}
    (hf : FreeRows s ps) : Wrote ps s (s.writePieces p w bs ps) := by
  induction ps generalizing s bs with
  | nil => exact .refl hs hm
  | cons q r ih =>
    have hlen (n : Nat) : (bs.take n).length ≤ n := by rw [List.length_take]; omega
    have hone : Cover [q] (q :: r) := cover_of_subset (by simp)
    have htail : Cover r (q :: r) := cover_of_subset (List.subset_cons_self q r)
    have hnext {t : State} (h : Wrote [q] s t) (n : Nat) : Wrote (q :: r) s (t.writePieces p w (bs.drop n) r) :=
      (h.mono hone).trans ((ih h.noErrors h.wf _ ((hf.cover htail).of_rows h.rows)).mono htail)
    cases q with
    | lm c off n =>
      have hend : Wrote [.lm c off n] s (s.endLocal p c off n) := wrote_of_quiet hs (quiet_beside hm rfl rfl rfl rfl)
      exact hnext (hend.trans (lmStore_wrote hend.noErrors hend.wf c off (hlen n))) n
    | mem sp off n size => exact hnext (writeThru_wrote hs hm p w (hlen n) (hf sp off n size List.mem_cons_self)) n
    | remote pos off n => exact hnext (wrote_of_quiet hs (askWindow_quiet hm _ _)) n
    | kons key sp off n => exact hnext (.refl hs hm) n
    | fixed v n => exact hnext (.refl hs hm) n
    | hidden n => exact hnext (.refl hs hm) n

end Sys2Proof.Proofs.QuietWrites
end

section
/-! SUPPORT. The frame of the stores: a store's bytes are behind its pieces, whether it performs at once or later, and performing changes its own
strand alone. -/
namespace Sys2Proof.Proofs.StoreFrames
open Sys2Proof Sys2Proof.Machine Sys2Proof.Claims Sys2Proof.Proofs.QuietReads Sys2Proof.Proofs.FrontFrames Sys2Proof.Proofs.Readers
  Sys2Proof.Proofs.ReaderFrames Sys2Proof.Proofs.RecordFrames Sys2Proof.Proofs.QuietWrites Sys2Proof.Proofs.AccessesByAddress

/-! ### A strand whose writes lie behind the pieces -/

/-- The writes of a strand that are on their way. -/
def lates (t : Strand) : List LateWrite := t.flight.flatMap (fun f => f.late) ++ t.late
/-- They all lie behind the pieces. -/
def LateIn (ps : List Piece) (t : Strand) : Prop := ∀ w ∈ lates t, Cover w.pieces ps

theorem lateIn_of_none {t : Strand} (h : NoneLate t) (ps : List Piece) : LateIn ps t := by
  obtain ⟨hl, -, hflight⟩ := h
  intro w hw
  rw [lates, hl, List.append_nil, List.mem_flatMap] at hw
  obtain ⟨x, hx, hw⟩ := hw
  rw [(hflight x hx).1] at hw
  cases hw

/-- `t` is `s` but for the bytes behind the pieces, and for the writes on their way and the clocks of the own strand. -/
structure Stored (ps : List Piece) (s t : State) : Prop where
  wrote : Wrote ps s t
  cur : t.cur = s.cur
  acting : t.acting = s.acting
  others : SameOthers s t
  me : t.me = { s.me with late := t.me.late, flight := t.me.flight, seen := t.me.seen }
  late : LateIn ps s.me → LateIn ps t.me

/-- A state in which the strand may store behind the pieces. -/
structure Fit (ps : List Piece) (s : State) : Prop where
  errors : NoErrors s
  wf : MemOk s
  rows : FreeRows s ps
  st : s.me.st ≠ .unbound
  late : LateIn ps s.me

section
variable {ps : List Piece} {s t u : State}

theorem Stored.trans (h : Stored ps s t) (k : Stored ps t u) : Stored ps s u :=
  ⟨h.wrote.trans k.wrote, k.cur.trans h.cur, k.acting.trans h.acting, fun n hn => (k.others n (by rwa [h.cur])).trans (h.others n hn),
    by rw [k.me, h.me], fun hl => k.late (h.late hl)⟩
theorem Fit.next (h : Fit ps s) (k : Stored ps s t) : Fit ps t :=
  ⟨k.wrote.noErrors, k.wrote.wf, h.rows.of_rows k.wrote.rows, by rw [k.me]; exact h.st, k.late h.late⟩

theorem stored_of_control (h : Wrote ps s t) (hk : control t = control s) : Stored ps s t :=
  ⟨h, control_cur hk, congrArg (fun x => x.2.1) hk, fun n _ => control_strand hk n, by rw [control_me hk], by rw [control_me hk]; exact id⟩
theorem Calm.stored (hs : NoErrors s) (h : Calm s t) : Stored ps s t := stored_of_control (wrote_of_quiet hs h.quiet) h.control
theorem Stored.refl (h : Fit ps s) : Stored ps s s := Calm.stored h.errors (.refl h.wf)
/-- A change beside memory, the cores and the strands. -/
theorem stored_beside (h : Fit ps s) (hst : MemoryIsReadAsWritten.stored t = MemoryIsReadAsWritten.stored s) (hm : marks t = marks s)
    (he : errors t = errors s) (hc : t.cores = s.cores) (hk : control t = control s) : Stored ps s t :=
  stored_of_control (wrote_of_quiet h.errors (quiet_beside h.wf hst hm he hc)) hk

/-- A change of the own strand's late writes and clocks. -/
theorem setMe_stored (h : Fit ps s) {x : Strand} (hx : x = { s.me with late := x.late, flight := x.flight, seen := x.seen })
    (hl : LateIn ps s.me → LateIn ps x) : Stored ps s (s.setMe x) := by
  have hst : x.st ≠ .unbound := by rw [hx]; exact h.st
  have hme : (s.setMe x).me = x := me_setMe s x (strand_ne_default x hst)
  refine ⟨wrote_of_quiet h.errors (quiet_beside h.wf rfl rfl rfl rfl), rfl, rfl, fun n hn => strand_setStrand_other x hn, ?_, ?_⟩
  · rw [hme]; exact hx
  · rw [hme]; exact hl

theorem writePieces_stored (h : Fit ps s) (p : Party) (w : Bool) (bs : List Byte) {qs : List Piece} (hc : Cover qs ps) :
    Stored ps s (s.writePieces p w bs qs) :=
  stored_of_control ((writePieces_wrote p w h.errors h.wf bs (h.rows.cover hc)).mono hc) (control_of_kept (writePieces_kept s p w bs qs))

theorem foldl_stored {α : Type} (l : List α) (g : State → α → State) (h : Fit ps s) (hg : ∀ t, ∀ x ∈ l, Fit ps t → Stored ps t (g t x)) :
    Stored ps s (l.foldl g s) := by
  induction l generalizing s with
  | nil => exact .refl h
  | cons x r ih =>
    have hx := hg s x List.mem_cons_self h
    exact hx.trans (ih (h.next hx) (fun t y hy => hg t y (List.mem_cons_of_mem _ hy)))

/-- The late writes that stay. -/
theorem lateIn_rest {x : Strand} (hl : LateIn ps x) (hit : LateWrite → Bool) : LateIn ps { x with
    flight := x.flight.map (fun f => { f with late := f.late.filter (fun w => !(hit w)) }), late := x.late.filter (fun w => !(hit w)) } := by
  intro w hw
  refine hl w ?_
  simp only [lates, List.mem_append, List.mem_flatMap, List.mem_map] at hw ⊢
  rcases hw with ⟨f, ⟨f0, hf0, rfl⟩, hw⟩ | hw
  · exact .inl ⟨f0, hf0, (List.mem_filter.1 hw).1⟩
  · exact .inr ((List.mem_filter.1 hw).1)

/-- Late writes of the own strand that perform: none, or all those that satisfy `hit` in turn. -/
theorem settleLate_cases (s : State) (hit : LateWrite → Bool) : s.settleLate s.cur hit = s ∨ s.settleLate s.cur hit =
    (((lates s.me).filter hit).foldl (fun u w => u.writePieces s.me.party false w.bytes w.pieces) s).setStrand s.cur { s.me with
      flight := s.me.flight.map (fun f => { f with late := f.late.filter (fun w => !(hit w)) }), late := s.me.late.filter (fun w => !(hit w)) } := by
  unfold State.settleLate
  dsimp only
  split
  · exact .inl rfl
  · exact .inr rfl

theorem settleLate_stored (h : Fit ps s) (hit : LateWrite → Bool) : Stored ps s (s.settleLate s.cur hit) := by
  have hcover : ∀ w ∈ (lates s.me).filter hit, Cover w.pieces ps := fun w hw => h.late w ((List.mem_filter.1 hw).1)
  have hfold := foldl_stored ((lates s.me).filter hit) (fun u w => u.writePieces s.me.party false w.bytes w.pieces) h
    (fun t w hw ht => writePieces_stored ht _ _ _ (hcover w hw))
  have hkept := foldl_kept ((lates s.me).filter hit) (fun u w => u.writePieces s.me.party false w.bytes w.pieces)
    (fun t w => writePieces_kept t _ _ _ _) s
  rcases settleLate_cases s hit with heq | heq <;> rw [heq]
  · exact .refl h
  · generalize ((lates s.me).filter hit).foldl (fun u w => u.writePieces s.me.party false w.bytes w.pieces) s = t at hfold hkept
    have hme : t.me = s.me := kept_me hkept
    rw [← hfold.cur, ← hme]
    exact hfold.trans (setMe_stored (h.next hfold) rfl (fun hlate => lateIn_rest hlate hit))

theorem flushLate_stored (h : Fit ps s) : Stored ps s s.flushLate := settleLate_stored h _
theorem flushFor_stored (h : Fit ps s) (qs : List Piece) : Stored ps s (s.flushFor qs) := settleLate_stored h _

theorem store_stored (h : Fit ps s) (bs : List Byte) {qs : List Piece} (hc : Cover qs ps) : Stored ps s (s.store bs qs) := by
  have hflush := flushFor_stored h qs
  have hfit := h.next hflush
  rcases store_eq s bs qs with heq | heq <;> rw [heq]
  · exact hflush.trans (writePieces_stored hfit _ _ _ hc)
  · rw [← hflush.cur]
    refine hflush.trans (setMe_stored hfit rfl (fun hl w hw => ?_))
    simp only [lates, List.mem_append, List.mem_singleton] at hw
    rcases hw with hw | hw | rfl
    · exact hl w (by rw [lates]; exact List.mem_append_left _ hw)
    · exact hl w (by rw [lates]; exact List.mem_append_right _ hw)
    · exact hc

theorem releaseAt_stored (h : Fit ps s) (keys : List Nat) (scp : Nat) : Stored ps s (s.releaseAt keys scp) :=
  stored_beside h rfl rfl rfl rfl rfl
theorem mixRels_stored (h : Fit ps s) (p : Party) (keys : List Nat) (x : Tab (List Rel)) : Stored ps s (s.mixRels p keys x) :=
  stored_beside h rfl rfl rfl rfl rfl

theorem gains_stored (h : Fit ps s) (c : Clock) : Stored ps s (s.gains c) := setMe_stored h rfl (fun hl => hl)
theorem raiseKnown_stored (h : Fit ps s) : Stored ps s s.raiseKnown := by
  unfold State.raiseKnown
  exact Calm.stored h.errors (modCore_calm h.wf _ (by rfl))
theorem acquireAt_stored (h : Fit ps s) (keys : List Nat) (scp : Nat) : Stored ps s (s.acquireAt keys scp) := by
  unfold State.acquireAt State.acquireOf
  split
  · exact .refl h
  · exact (gains_stored h _).trans (raiseKnown_stored (h.next (gains_stored h _)))
end

/-! ### Places -/

theorem pieceAt_cases (s : State) (sp : MemSpace) (off n size : Nat) :
    (∃ o, s.pieceAt sp off n size = .mem sp o n size) ∨ (∃ p o, s.pieceAt sp off n size = .remote p o n) ∨ s.pieceAt sp off n size = .hidden n := by
  unfold State.pieceAt
  split
  · split
    · exact .inl ⟨_, rfl⟩
    · exact .inr (.inl ⟨_, _, rfl⟩)
  · split
    · exact .inr (.inr rfl)
    · exact .inl ⟨_, rfl⟩
  · exact .inl ⟨_, rfl⟩

/-- No piece of local memory, and none of memory without a byte. -/
def Plain (ps : List Piece) : Prop := (∀ c o n, Piece.lm c o n ∉ ps) ∧ ∀ sp o n z, Piece.mem sp o n z ∈ ps → 0 < n

theorem pageSize_pos (sz : Nat) : 0 < pageSize sz := by
  unfold pageSize
  split
  · exact Nat.mul_pos (by decide) (Nat.pow_pos (by decide))
  · split <;> exact Nat.mul_pos (by decide) (Nat.pow_pos (by decide))

theorem translate_left {s : State} {unit : Nat} {pasid : BitVec 20} {sys : Bool} {va : Word} {acc : Acc} {sp : MemSpace} {off left size : Nat}
    (h : s.translate unit pasid sys va acc = .ok sp off left size) : 0 < left := by
  unfold State.translate at h
  dsimp only at h
  repeat' split at h
  all_goals cases h
  all_goals exact Nat.sub_pos_of_lt (Nat.mod_lt _ (pageSize_pos _))

theorem translateRange_plain {s : State} {unit : Nat} {pasid : BitVec 20} {sys : Bool} {acc : Acc} {fuel : Nat} {va : Word} {n : Nat}
    {ps : List Piece} (h : s.translateRange unit pasid sys acc fuel va n = .ok ps) : Plain ps := by
  induction fuel generalizing va n ps with
  | zero => cases h; exact ⟨fun _ _ _ => List.not_mem_nil, fun _ _ _ _ hq => absurd hq List.not_mem_nil⟩
  | succ fuel ih =>
    unfold State.translateRange at h
    split at h
    · cases h; exact ⟨fun _ _ _ => List.not_mem_nil, fun _ _ _ _ hq => absurd hq List.not_mem_nil⟩
    next hn =>
    split at h
    next sp off left size htrans =>
      dsimp only at h
      split at h
      · cases h
      · split at h
        next r hr =>
          cases h
          obtain ⟨hlm, hmem⟩ := ih hr
          have hleft := translate_left htrans
          rcases pieceAt_cases s sp off (min n (min left (2 ^ 21 - off % 2 ^ 21))) size with ⟨o, hp⟩ | ⟨p, o, hp⟩ | hp <;> rw [hp]
          · refine ⟨fun c o2 n2 hq => ?_, fun sp2 o2 n2 z hq => ?_⟩
            · exact hlm c o2 n2 ((List.mem_cons.1 hq).resolve_left nofun)
            · rcases List.mem_cons.1 hq with hq | hq
              · cases hq
                have : off % 2 ^ 21 < 2 ^ 21 := Nat.mod_lt _ (by decide)
                omega
              · exact hmem sp2 o2 n2 z hq
          · exact ⟨fun c o2 n2 hq => hlm c o2 n2 ((List.mem_cons.1 hq).resolve_left nofun),
              fun sp2 o2 n2 z hq => hmem sp2 o2 n2 z ((List.mem_cons.1 hq).resolve_left nofun)⟩
          · exact ⟨fun c o2 n2 hq => hlm c o2 n2 ((List.mem_cons.1 hq).resolve_left nofun),
              fun sp2 o2 n2 z hq => hmem sp2 o2 n2 z ((List.mem_cons.1 hq).resolve_left nofun)⟩
        · cases h
    all_goals cases h

theorem vaPlace_free {s : State} {va : Word} {n al : Nat} {acc : Acc} {ps : List Piece} (hacc : acc ≠ .read) (h : s.vaPlace va n al acc = .ok ps) :
    Plain ps ∧ FreeRows s ps := by
  unfold State.vaPlace at h
  rw [show (acc != Acc.read) = true by simpa using hacc] at h
  split at h
  · cases h
  · split at h
    · cases h
    next qs hqs =>
      split at h
      · cases h
      next hfate => cases h; exact ⟨translateRange_plain hqs, piecesFate_free hfate⟩

/-- A strand at a place of its own may store there. -/
theorem fit_of_place {s s1 : State} {va : Word} {n al : Nat} {acc : Acc} {ps : List Piece} (hacc : acc ≠ .read) (hs : NoErrors s) (hm : MemOk s)
    (hst : s.me.st ≠ .unbound) (hl : NoneLate s.me) (h : Places s va n al acc s1 ps) : Fit ps s ∧ Stored ps s s1 ∧ Plain ps := by
  obtain ⟨hp, rfl⟩ := h
  obtain ⟨hplain, hfree⟩ := vaPlace_free hacc hp
  exact ⟨⟨hs, hm, hfree, hst, lateIn_of_none hl ps⟩, Calm.stored hs (tlbFill_calm hs hm _ _ _), hplain⟩

/-! ### The frame -/

/-- What a store leaves alone. -/
structure Framed (ps : List Piece) (s t : State) : Prop where
  wrote : Wrote ps s t
  others : SameOthers s t
  me : Left s.me t.me

theorem Stored.left {ps : List Piece} {s t : State} (h : Stored ps s t) : Left s.me t.me := by rw [h.me]; rfl

/-- A store that has performed. -/
theorem perform_framed {ps : List Piece} {s s1 : State} (hst : s.me.st ≠ .unbound) (h : Stored ps s s1) (q : Queue) (f : Fields) (sp : ISpec)
    {ack : Ack} (hack : ack ≠ .none) (e : QEntry) (vals : List Word) (fl : Flags) : Framed ps s (s1.perform q f sp ack e vals fl) := by
  have hst1 : s1.me.st ≠ .unbound := by rw [h.me]; exact hst
  obtain ⟨hbytes, hmarks, hcores, hothers, hme⟩ := perform_frame hst1 q f (sp := sp) (.inr hack) e vals fl
  obtain ⟨u, hu, -⟩ := perform_setMe s1 q f (sp := sp) (.inr hack) e vals fl
  have hquiet : Quiet s1 (s1.perform q f sp ack e vals fl) := by
    rw [hu]
    exact quiet_beside h.wrote.wf rfl rfl rfl rfl
  exact ⟨h.wrote.trans (wrote_of_quiet h.wrote.noErrors hquiet), fun n hn => (hothers n (by rwa [h.cur])).trans (h.others n hn),
    (Stored.left h).trans (left_of_performed hme)⟩

section
variable {ps : List Piece} {s t : State} (h : Framed ps s t)
include h

theorem Framed.strand : (∀ n, t.me.getS n = s.me.getS n) ∧ t.me.p = s.me.p ∧ t.me.k = s.me.k ∧ t.me.flg = s.me.flg ∧ t.me.pc = s.me.pc := by
  have hme := h.me
  unfold Left at hme
  rw [hme]
  exact ⟨fun _ => rfl, rfl, rfl, rfl, rfl⟩

/-- The frame of a store by address, in the statement's order. -/
theorem Framed.noLm (hp : ∀ c o n, Piece.lm c o n ∉ ps) : (∀ m a, Outside ps m a → t.physByte m a = s.physByte m a) ∧ SameLm s t ∧ SameTiles s t ∧ SameOthers s t ∧
    t.rows = s.rows ∧ (∀ n, t.me.getS n = s.me.getS n) ∧ t.me.p = s.me.p ∧ t.me.k = s.me.k ∧ t.me.flg = s.me.flg ∧ t.me.pc = s.me.pc :=
  ⟨h.wrote.bytes, h.wrote.plain hp, h.wrote.tiles, h.others, h.wrote.rows, h.strand⟩
end

end Sys2Proof.Proofs.StoreFrames
end

section
/-! SUPPORT. The frame of the stores by address, of RADV, of the atomics and of the tile stores: what each body stores lies behind its pieces. -/
namespace Sys2Proof.Proofs.StoreInstrs
open Sys2Proof Sys2Proof.Machine Sys2Proof.Claims Sys2Proof.Proofs.QuietReads Sys2Proof.Proofs.FrontFrames Sys2Proof.Proofs.Readers
  Sys2Proof.Proofs.ReaderFrames Sys2Proof.Proofs.RecordFrames Sys2Proof.Proofs.QuietWrites Sys2Proof.Proofs.StoreFrames
  Sys2Proof.Proofs.AccessesByAddress

/-! ### The stores by address -/

/-- The instruction runs a body that ends with a store behind the pieces. -/
def RunsStore (f : Fields) (e : QEntry) (s : State) (ps : List Piece) (i : Instr) : Prop :=
  ∃ body s1 vals fl, exec i s = runQueue i f .reply body s ∧ body e s = .done s1 vals fl ∧ Stored ps s s1

theorem framed_of_runs {i : Instr} {f : Fields} {q : Queue} {sp : ISpec} {e : QEntry} {s t : State} {ps : List Piece}
    (h : headTakes i f q sp e s = true) (hr : RunsStore f e s ps i) (hex : exec i s = .next t) : Framed ps s t := by
  obtain ⟨body, s1, vals, fl, hrun, hb, hst⟩ := hr
  cases (hrun.symm.trans hex).symm.trans (runQueue_done h hb)
  exact perform_framed (inUse_of_headTakes h) hst q f sp (by decide) e vals fl

/-- A release that stores: the strand's earlier writes perform before it. -/
theorem releaseStore_stored {ps qs : List Piece} {s : State} (h : Fit ps s) (p : Party) (w : Bool) (bs : List Byte) (hc : Cover qs ps)
    (keys : List Nat) (scp : Nat) : Stored ps s ((s.flushLate.writePieces p w bs qs).releaseAt keys scp) := by
  have hflush := flushLate_stored h
  have hwrite := hflush.trans (writePieces_stored (h.next hflush) p w bs hc)
  exact hwrite.trans (releaseAt_stored (h.next hwrite) keys scp)

section
variable {f : Fields} {e : QEntry} {s s1 : State} {ps : List Piece} (hs : NoErrors s) (hm : MemOk s) (hst : s.me.st ≠ .unbound) (hl : NoneLate s.me)
include hs hm hst hl

theorem plainStores_run : ∀ op ∈ plainStores, Places s (eaOf f e) (op.2 f).1 (op.2 f).2 .write s1 ps → RunsStore f e s ps (op.1 f) := by
  unfold plainStores
  simp only [List.forall_mem_cons]
  refine ⟨?sts, ?stq, ?strel, ?poisonclr, List.forall_mem_nil _⟩
  case sts =>
    intro hp
    obtain ⟨hfit, hplace, -⟩ := fit_of_place (by decide) hs hm hst hl hp
    have hb : stsBody f e s = .done (s1.store (leBytes (accBytes (memFmt f)) e.c.toNat) (s1.cached (policyOf f.hint 0) ps)) [] 0 := by
      rw [stsBody]
      exact withPlace_of_places hp _
    exact ⟨stsBody f, _, _, _, rfl, hb, hplace.trans (store_stored (hfit.next hplace) _ (cached_cover s1 _ ps).1)⟩
  case stq =>
    intro hp
    obtain ⟨hfit, hplace, -⟩ := fit_of_place (by decide) hs hm hst hl hp
    have hc := (cached_cover s1 (policyOf f.hint 0) ps).1
    have hb : stqBody f e s = .done (if (eaOf f e).toNat % 16 = 0 then
          s1.store (leBytes 8 e.c.toNat ++ leBytes 8 e.d.toNat) (s1.cached (policyOf f.hint 0) ps)
        else (s1.store (leBytes 8 e.c.toNat) (slicePieces (s1.cached (policyOf f.hint 0) ps) 0 8)).store (leBytes 8 e.d.toNat)
          (slicePieces (s1.cached (policyOf f.hint 0) ps) 8 8)) [] 0 := by
      rw [stqBody]
      exact withPlace_of_places hp _
    refine ⟨stqBody f, _, _, _, rfl, hb, ?_⟩
    split
    · exact hplace.trans (store_stored (hfit.next hplace) _ hc)
    · have hlo := hplace.trans (store_stored (hfit.next hplace) (leBytes 8 e.c.toNat) ((slicePieces_cover _ 0 8).trans hc))
      exact hlo.trans (store_stored (hfit.next hlo) _ ((slicePieces_cover _ 8 8).trans hc))
  case strel =>
    intro hp
    obtain ⟨hfit, hplace, -⟩ := fit_of_place (by decide) hs hm hst hl hp
    have hb : strelBody f e s = .done ((s1.flushLate.writePieces s1.myParty false (leBytes (accBytes (memFmt f)) e.c.toNat)
        (s1.cached (policyOf f.hint 0) ps)).releaseAt (pieceLocs ps) f.scp.toNat) [] 0 := by
      rw [strelBody]
      exact withPlace_of_places hp _
    exact ⟨strelBody f, _, _, _, rfl, hb, hplace.trans (releaseStore_stored (hfit.next hplace) _ _ _ (cached_cover s1 _ ps).1 _ _)⟩
  case poisonclr =>
    intro hp
    obtain ⟨hfit, hplace, -⟩ := fit_of_place (by decide) hs hm hst hl hp
    have hb : poisonclrBody f e s = .done ((s1.flushLate.writePieces s1.myParty true (leBytes 64 0) ps).releaseAt (pieceLocs ps)
        f.scp.toNat) [] 0 := by
      rw [poisonclrBody]
      exact withPlace_of_places hp _
    exact ⟨poisonclrBody f, _, _, _, rfl, hb, hplace.trans (releaseStore_stored (hfit.next hplace) _ _ _ (.refl ps) _ _)⟩
end

/-! ### The atomics -/

/-- The end of an atomic that has read its bytes: its acquire, its write, its release. -/
def atomicEnd (op : Fmt → Nat → Nat → Nat → Option Nat × Flags) (quiet : Bool) (f : Fields) (F : Fmt) (c c2 : Nat) (ps : List Piece) (bs : List Byte)
    (s : State) : State :=
  let v := (op F (leNat bs) c c2).1
  let s1 := if f.sub.getLsbD 0 then s.acquireAt (pieceLocs ps) f.scp.toNat else s
  let s2 := match v with
    | some r => s1.writeAtomic s1.myParty quiet (leBytes (accBytes F) r) ps
    | none => s1
  if f.sub.getLsbD 1 && v.isSome then s2.releaseAt (pieceLocs ps) f.scp.toNat else s2

/-- The operand of an atomic. -/
def atomicArg (F : Fmt) (o : Operand) (w : Word) : Nat := (dataVal F o w).toNat % 2 ^ F.width

theorem atomicBody_reads {op : Fmt → Nat → Nat → Nat → Option Nat × Flags} {opc : Nat} {quiet : Bool} {f : Fields} {e : QEntry} {F : Fmt}
    {s s1 : State} {ps : List Piece} {bs : List Byte} (hF : fieldFmt f = some F) (h : AtomicReads f e F s s1 ps bs) :
    atomicBody op opc quiet f e s = .done (atomicEnd op quiet f F (atomicArg F f.c e.c) (atomicArg F f.e e.e) ps bs s1)
      [extInt F (leNat bs)] (if quiet then 0 else (op F (leNat bs) (atomicArg F f.c e.c) (atomicArg F f.e e.e)).2) := by
  obtain ⟨s0, t, ps0, hp, rfl, hremote, -, ht, hpois, rfl, rfl⟩ := h
  unfold atomicBody
  dsimp only
  rw [memFmt_eq hF]
  refine (withPlace_of_places hp _).trans ?_
  rw [ht.symm] at hpois ⊢
  split
  next pos off n hps => exact absurd hps (hremote pos off n)
  · rw [withBytes_of_clean hpois]
    rfl

theorem cached_plain {ps : List Piece} (h : Plain ps) (s : State) (pol : Nat) : Plain (s.cached pol ps) := by
  obtain ⟨hlm, hmem⟩ := h
  refine ⟨(cached_cover s pol ps).1.noLm hlm, fun sp o n z hq => ?_⟩
  unfold State.cached at hq
  split at hq
  · exact hmem sp o n z hq
  · obtain ⟨p, hp, hq⟩ := List.mem_map.1 hq
    cases p with
    | mem sp0 o0 n0 z0 => cases hq; exact hmem _ _ _ _ hp
    | lm | remote | kons | fixed | hidden => cases hq

/-- The home of a bank-linear place goes to the dies. -/
theorem settleBl_stored {ps : List Piece} {s : State} (h : Fit ps s) (hp : Plain ps) : Stored ps s (s.settleBl ps) := by
  unfold State.settleBl
  split
  next off n z r =>
    have hn : 0 < n := hp.2 .bl off n z List.mem_cons_self
    refine stored_of_control (flushDev_wrote h.errors h.wf ?_ (fun a ho => ?_)) (control_of_kept (flushDev_kept _ _))
    · have hrow := h.rows .bl off n z List.mem_cons_self (.inr rfl) 0 hn
      rwa [rowKey_line]
    · exact (ho .bl off n z List.mem_cons_self 0 hn).2 rfl
  · exact .refl h

theorem atomicEnd_stored {ps : List Piece} {s : State} (h : Fit ps s) (op : Fmt → Nat → Nat → Nat → Option Nat × Flags) (quiet : Bool) (f : Fields)
    (F : Fmt) (c c2 : Nat) (bs : List Byte) : Stored ps s (atomicEnd op quiet f F c c2 ps bs s) := by
  have hacq : Stored ps s (if f.sub.getLsbD 0 then s.acquireAt (pieceLocs ps) f.scp.toNat else s) := by
    split
    · exact acquireAt_stored h _ _
    · exact .refl h
  have hwrite {t : State} (ht : Stored ps s t) (r : Nat) : Stored ps s (t.writeAtomic t.myParty quiet (leBytes (accBytes F) r) ps) := by
    have hw := ht.trans (writePieces_stored (h.next ht) t.myParty false (leBytes (accBytes F) r) (.refl ps))
    unfold State.writeAtomic
    dsimp only
    split
    · exact hw
    · exact hw.trans (mixRels_stored (h.next hw) _ _ _)
  have hnew {t : State} (ht : Stored ps s t) (v : Option Nat) : Stored ps s (match v with
      | some r => t.writeAtomic t.myParty quiet (leBytes (accBytes F) r) ps
      | none => t) := by
    cases v with
    | none => exact ht
    | some r => exact hwrite ht r
  have hend := hnew hacq (op F (leNat bs) c c2).1
  unfold atomicEnd
  dsimp only
  split
  · exact hend.trans (releaseAt_stored (h.next hend) _ _)
  · exact hend

/-- Each atomic runs the common body. -/
theorem atomics_run (f : Fields) (s : State) : ∀ op ∈ intAtomics.map (·.1) ++ floatAtomics.map (·.1), ∃ fn opc quiet,
    exec (op f) s = runQueue (op f) f .reply (atomicBody fn opc quiet f) s := by
  simp only [intAtomics, floatAtomics, List.map_cons, List.map_nil, List.cons_append, List.nil_append, List.forall_mem_cons]
  repeat' first
    | exact List.forall_mem_nil _
    | refine ⟨⟨_, _, _, rfl⟩, ?_⟩

section
variable {f : Fields} {e : QEntry} {s s1 : State} {ps : List Piece} {F : Fmt} {bs : List Byte} (hs : NoErrors s) (hm : MemOk s)
  (hst : s.me.st ≠ .unbound) (hl : NoneLate s.me)
include hs hm hst hl

/-- What an atomic reads, with all that comes before, is behind its pieces. -/
theorem atomicReads_fit (h : AtomicReads f e F s s1 ps bs) : Fit ps s ∧ Stored ps s s1 ∧ Plain ps := by
  obtain ⟨s0, t, ps0, hp, rfl, -, -, ht, -, -, rfl⟩ := h
  obtain ⟨hplain, hfree⟩ := vaPlace_free (by decide) hp.1
  have hfit : Fit (s0.cached (policyOf f.hint 0) ps0) s := ⟨hs, hm, hfree.cover (cached_cover _ _ _).1, hst, lateIn_of_none hl _⟩
  have hplain := cached_plain hplain s0 (policyOf f.hint 0)
  have h0 : Stored (s0.cached (policyOf f.hint 0) ps0) s s0 := by
    obtain ⟨-, rfl⟩ := hp
    exact Calm.stored hs (tlbFill_calm hs hm _ _ _)
  generalize s0.cached (policyOf f.hint 0) ps0 = ps at *
  have hflush : Stored ps s (if f.sub.getLsbD 1 then s0.flushLate else s0.flushFor ps) := by
    split
    · exact h0.trans (flushLate_stored (hfit.next h0))
    · exact h0.trans (flushFor_stored (hfit.next h0) _)
  have hhome := hflush.trans (settleBl_stored (hfit.next hflush) hplain)
  rw [ht] at hhome
  have hread := readPieces_calm (hfit.next hhome).errors (hfit.next hhome).wf t.myCore ps
  exact ⟨hfit, hhome.trans (Calm.stored (hfit.next hhome).errors hread), hplain⟩

theorem atomics_store {op : Fields → Instr} (hop : op ∈ intAtomics.map (·.1) ++ floatAtomics.map (·.1)) (hF : fieldFmt f = some F)
    (h : AtomicReads f e F s s1 ps bs) : RunsStore f e s ps (op f) := by
  obtain ⟨fn, opc, quiet, hrun⟩ := atomics_run f s op hop
  obtain ⟨hfit, hread, -⟩ := atomicReads_fit hs hm hst hl h
  exact ⟨_, _, _, _, hrun, atomicBody_reads hF h, hread.trans (atomicEnd_stored (hfit.next hread) _ _ _ _ _ _ _)⟩
end

/-! ### RADV -/

/-- A body that stores behind the pieces where it has performed. -/
def Stores (ps : List Piece) (s : State) : QRes → Prop
  | .done s1 _ _ => Stored ps s s1
  | .trap s1 _ _ _ => control s1 = control s
  | _ => True

theorem stores_done {ps : List Piece} {s s1 : State} (h : Stored ps s s1) (vals : List Word) (fl : Flags) : Stores ps s (.done s1 vals fl) := h
theorem stores_trap {ps : List Piece} {s s1 : State} (h : control s1 = control s) (c : TrapCode) (o sub : Nat) :
    Stores ps s (.trap s1 c o sub) := h

theorem res_stores {ps : List Piece} {s s1 : State} (h : control s1 = control s) (b : Bad) (o k : Nat) : Stores ps s (b.res s1 o k) := by
  cases b with
  | trap c sub => exact h
  | held kind c va a => trivial
  | moving => trivial

theorem withBytes_stores {ps qs : List Piece} {s s0 : State} (hs : NoErrors s) (h0 : Calm s s0) {k : List Byte → State → QRes}
    (h : ∀ bs s1, Calm s s1 → Stores ps s (k bs s1)) : Stores ps s (withBytes s0 qs k) := by
  have hread := h0.trans (readPieces_calm (h0.quiet.noErrors hs) h0.quiet.wf s0.myCore qs)
  unfold withBytes
  dsimp only
  split
  · exact stores_trap hread.control _ _ _
  · exact h _ _ hread

theorem radvBody_stores {f : Fields} {e : QEntry} {s : State} {ps : List Piece} {key : Nat} (hs : NoErrors s) (hm : MemOk s)
    (hst : s.me.st ≠ .unbound) (hl : NoneLate s.me) (hkey : regionKey s.me e.a.toNat = key) (hp : s.regionPlace s.myCore key = .ok ps) :
    Stores (slicePieces ps 12 4) s (radvBody f e s) := by
  unfold radvBody
  extract_lets k
  obtain rfl : k = key := hkey
  by_cases hrrt : s.me.rrt = 0
  · rw [if_pos hrrt]
    exact stores_trap rfl _ _ _
  · rw [if_neg hrrt, hp]
    refine withBytes_stores hs (takeRegions_calm hm s.myCore k) (fun bs s1 h1 => ?_)
    split
    · exact stores_trap h1.control _ _ _
    · split
      · exact res_stores h1.control _ _ _
      next hfate =>
        have hrows : s1.rows = s.rows := (tidy_of_quiet h1.quiet).rows
        have hfree : FreeRows s (slicePieces ps 12 4) :=
          FreeRows.of_rows hrows.symm ((piecesFate_free hfate).cover (slicePieces_cover ps 12 4))
        have hfit : Fit (slicePieces ps 12 4) s := ⟨hs, hm, hfree, hst, lateIn_of_none hl _⟩
        have hread : Stored (slicePieces ps 12 4) s s1 := Calm.stored hs h1
        exact stores_done (hread.trans (releaseStore_stored (hfit.next hread) _ _ _ (.refl _) _ _)) _ _

theorem regionPlace_noLm {s : State} {core key : Nat} {ps : List Piece} (h : s.regionPlace core key = .ok ps) : ∀ c o n, Piece.lm c o n ∉ ps := by
  unfold State.regionPlace at h
  split at h
  · cases h
  next qs hqs =>
    split at h
    · cases h
    · cases h; exact (translateRange_plain hqs).1

/-! ### The tile stores -/

theorem konsPieces_noMem (pasid : BitVec 20) (va : Word) {ps : List Piece} (sp : MemSpace) (o n z : Nat) :
    Piece.mem sp o n z ∉ konsPieces pasid va ps := by
  induction ps generalizing va with
  | nil => exact List.not_mem_nil
  | cons p r ih =>
    cases p with
    | mem sp0 o0 n0 z0 =>
      simp only [konsPieces, List.cons_append, List.mem_cons, List.mem_append, reduceCtorEq, false_or, not_or]
      refine ⟨?_, ih _⟩
      split
      · simp
      · exact List.not_mem_nil
    | lm | remote | kons | fixed | hidden =>
      simp only [konsPieces, List.mem_cons, reduceCtorEq, false_or]
      exact ih _

theorem freeRows_of_noMem {s : State} {ps : List Piece} (h : ∀ sp o n z, Piece.mem sp o n z ∉ ps) : FreeRows s ps :=
  fun sp o n z hq => absurd hq (h sp o n z)

theorem hRange_free {s : State} {slot : Nat} {sys : Bool} {e : BitVec 512} {cwb : Tab Word} {off n : Nat} {ps : List Piece}
    (h : s.hRange slot sys e cwb .write off n = .ok ps) : FreeRows s ps := by
  unfold State.hRange at h
  dsimp only at h
  split at h
  · refine freeRows_of_noMem (fun sp o n z hq => ?_)
    unfold State.lmRange at h
    dsimp only at h
    split at h
    · cases h
      split at hq <;> simp at hq
    · cases h
  · refine freeRows_of_noMem (fun sp o n z hq => ?_)
    split at h
    · cases h
    · unfold State.constPlace at h
      dsimp only at h
      split at h
      · cases h
      · split at h
        · cases h
        · cases h
          exact konsPieces_noMem _ _ sp o n z hq
  · split at h
    · cases h
    · split at h
      · cases h
      · split at h
        · cases h
        next hfate => cases h; exact piecesFate_free hfate

theorem elemAt_free {s : State} {slot : Nat} {sys : Bool} {e : BitVec 512} {cwb : Tab Word} {x : Coord} {p : ElemAt}
    (h : s.elemAt slot sys e cwb true x = .ok p) : FreeRows s p.pieces := by
  unfold State.elemAt at h
  dsimp only at h
  split at h
  · split at h
    · cases h
    · cases h
    · cases h
    · cases h
    · split at h
      next hread => cases hread
      · split at h <;> cases h
    · unfold State.frameAt at h
      dsimp only at h
      split at h
      · cases h
      · split at h
        · cases h
        next hfate => cases h; exact piecesFate_free hfate
  · split at h
    · cases h
    next ps hps => cases h; exact hRange_free hps

theorem elemPlaces_free {s : State} {e : BitVec 512} {cwb : Tab Word} {xs : List Coord} {ps : List ElemAt}
    (h : s.elemPlaces e cwb true xs = .ok ps) : ∀ p ∈ ps, FreeRows s p.pieces := by
  induction xs generalizing ps with
  | nil => cases h; exact List.forall_mem_nil _
  | cons x r ih =>
    unfold State.elemPlaces at h
    split at h
    · cases h
    · split at h
      · cases h
      next p hp =>
        split at h
        · cases h
        next qs hqs => cases h; exact List.forall_mem_cons.2 ⟨elemAt_free hp, ih hqs⟩

theorem tileChecks_free {s : State} {f : Fields} {e : QEntry} {perElem : Bool} {xs : List Coord} {ps : List ElemAt}
    (h : s.tileChecks f e true perElem xs = .ok ps) : FreeRows s (ps.flatMap (·.pieces)) := by
  unfold State.tileChecks at h
  dsimp only at h
  repeat' split at h
  all_goals try cases h
  generalize hps : s.elemPlaces (e.entry f.a) e.cwb true xs = r at h
  cases r with
  | error b => cases h
  | ok qs =>
    cases h
    intro sp o n z hq
    obtain ⟨p, hp, hq⟩ := List.mem_flatMap.1 hq
    obtain ⟨p0, hp0, rfl⟩ := List.mem_map.1 hp
    exact ((elemPlaces_free hps p0 hp0).cover (cached_cover s _ p0.pieces).1) sp o n z hq

theorem pieces_cover {p : ElemAt} {ps : List ElemAt} (h : p ∈ ps) : Cover p.pieces (ps.flatMap (·.pieces)) :=
  cover_of_subset (fun _ hq => List.mem_flatMap.2 ⟨p, h, hq⟩)

theorem writeElems_stored {ps : List Piece} {s : State} (h : Fit ps s) (bits : Nat) {l : List (ElemAt × Nat)} (hl : ∀ p ∈ l, Cover p.1.pieces ps) :
    Stored ps s (s.writeElems bits l) := by
  induction l generalizing s with
  | nil => exact .refl h
  | cons p r ih =>
    have hp := hl p List.mem_cons_self
    have hone : Stored ps s (if bits % 8 = 0 then s.store (leBytes (bits / 8) p.2) p.1.pieces
        else (s.flushFor p.1.pieces).elemWrite s.myCore s.myParty bits p.1 p.2) := by
      split
      · exact store_stored h _ hp
      · have hflush := flushFor_stored h p.1.pieces
        exact hflush.trans (writePieces_stored (h.next hflush) _ _ _ hp)
    exact hone.trans (ih (h.next hone) (fun x hx => hl x (List.mem_cons_of_mem _ hx)))

/-- A bit that an element covers lies in one of its pieces of local memory. -/
theorem covers_go {p : ElemAt} {bits core bit o : Nat} {ps : List Piece} (h : ElemAt.covers.go p bits core bit o ps = true) :
    ∃ off n, Piece.lm core off n ∈ ps ∧ 8 * off ≤ bit ∧ bit < 8 * (off + n) := by
  induction ps generalizing o with
  | nil => simp [ElemAt.covers.go] at h
  | cons q r ih =>
    have htail {o : Nat} (h : ElemAt.covers.go p bits core bit o r = true) :
        ∃ off n, Piece.lm core off n ∈ q :: r ∧ 8 * off ≤ bit ∧ bit < 8 * (off + n) := by
      obtain ⟨off, n, hmem, hb⟩ := ih h
      exact ⟨off, n, List.mem_cons_of_mem _ hmem, hb⟩
    cases q with
    | lm c off n =>
      simp only [ElemAt.covers.go, Bool.or_eq_true] at h
      rcases h with h | h
      · simp only [Bool.and_eq_true, beq_iff_eq, decide_eq_true_eq] at h
        obtain ⟨⟨⟨⟨rfl, hlo⟩, hhi⟩, -⟩, -⟩ := h
        exact ⟨off, n, List.mem_cons_self, hlo, hhi⟩
      · exact htail h
    | mem | remote | kons | fixed | hidden =>
      simp only [ElemAt.covers.go] at h
      exact htail h

theorem healWords_stored {ps : List ElemAt} {s : State} (h : Fit (ps.flatMap (·.pieces)) s) (bits : Nat) :
    Stored (ps.flatMap (·.pieces)) s (s.healWords bits ps) := by
  refine foldl_stored _ _ h (fun t c hc ht => ?_)
  have hlm : ∃ o n, Piece.lm c o n ∈ ps.flatMap (·.pieces) := by
    rw [List.mem_eraseDups, List.mem_flatMap] at hc
    obtain ⟨p, hp, hc⟩ := hc
    obtain ⟨q, hq, hc⟩ := List.mem_flatMap.1 hc
    cases q with
    | lm c2 o n =>
      obtain rfl : c = c2 := by simpa using hc
      exact ⟨o, n, List.mem_flatMap.2 ⟨p, hp, hq⟩⟩
    | mem | remote | kons | fixed | hidden => simp at hc
  obtain ⟨hfresh, hce⟩ := ht.errors.2.2.2 c
  refine stored_of_control (modCore_wrote ht.errors ht.wf hlm rfl ?_ ?_ (fun _ _ => rfl) (fun w ho => ?_)) rfl
  · simp only [Core.lmHeal, hfresh, List.filter_nil]
  · simp only [Core.lmHeal, hce, List.filter_nil]
  · refine lmHeal_full _ (fun hw => ?_)
    have hall := (List.mem_filter.1 hw).2
    rw [List.all_eq_true] at hall
    have hfirst := hall 0 (by simp)
    obtain ⟨p, hp, hcov⟩ := List.any_eq_true.1 hfirst
    obtain ⟨off, n, hmem, hlo, hhi⟩ := covers_go hcov
    have := ho 0 (by decide) off n (List.mem_flatMap.2 ⟨p, hp, hmem⟩)
    omega

theorem setHead_left (t : Strand) (q : Queue) (x : QEntry) : Left t (t.setHead q x) := by cases q <;> rfl

/-- A tile store whose checks pass performs or waits for its words. -/
theorem storeTile_framed {i : Instr} {f : Fields} {q : Queue} {sp : ISpec} {e : QEntry} {s t : State} {perElem : Bool}
    {coord : Nat → Nat → Coord} {ps : List ElemAt} (hs : NoErrors s) (hm : MemOk s) (hl : NoneLate s.me) (h : headTakes i f q sp e s = true)
    {body : QEntry → State → QRes} (hb : body e s = s.storeTile f e perElem coord) (hrun : runQueue i f .reply body s = .next t)
    (hps : s.tileChecks f e true perElem ((s.activeElems f.e (shpRows e.shp) (shpCols e.shp)).map (fun p => coord p.1 p.2)) = .ok ps) :
    Framed (ps.flatMap (·.pieces)) s t := by
  have hst := inUse_of_headTakes h
  have hfit : Fit (ps.flatMap (·.pieces)) s := ⟨hs, hm, tileChecks_free hps, hst, lateIn_of_none hl _⟩
  by_cases hbusy : s.lmBusy s.myCore (lmTouched ps) = true
  · have hbody : s.storeTile f e perElem coord = .busy s.myCore (lmTouched ps) := by
      unfold State.storeTile
      simp only [hps, hbusy, if_true]
    rw [runQueue_takes h, hb, hbody] at hrun
    cases hrun
    have hleft := setHead_left s.me q { e with tried := some s.cycle, claim := some ⟨s.arrival, s.myCore, lmTouched ps⟩ }
    refine ⟨wrote_of_quiet hs (quiet_beside hm rfl rfl rfl rfl), fun n hn => strand_setStrand_other _ hn, ?_⟩
    rw [me_setMe s _ (strand_ne_default _ (by rw [hleft.st]; exact hst))]
    exact hleft
  · have hfill := fillElems_calm hs hm (handleNum f.a) (e.entry f.a)
      ((s.activeElems f.e (shpRows e.shp) (shpCols e.shp)).map (fun p => coord p.1 p.2))
    have htake := hfill.trans (takeTile_calm hfill.quiet.wf (lmTouched ps))
    have h1 : Stored (ps.flatMap (·.pieces)) s _ := Calm.stored hs htake
    have hbody : ∃ vs : List Nat, s.storeTile f e perElem coord = .done
        ((((s.fillElems (handleNum f.a) (e.entry f.a) ((s.activeElems f.e (shpRows e.shp) (shpCols e.shp)).map (fun p => coord p.1 p.2))).takeTile
          (lmTouched ps)).writeElems (memFmt f).memBits (ps.zip vs)).healWords (memFmt f).memBits ps) [] 0 := by
      unfold State.storeTile
      simp only [hps, hbusy, Bool.false_eq_true, if_false]
      exact ⟨_, rfl⟩
    obtain ⟨vs, hbody⟩ := hbody
    have h2 := h1.trans (writeElems_stored (hfit.next h1) (memFmt f).memBits (l := ps.zip vs) (fun p hp => pieces_cover (List.of_mem_zip hp).1))
    have h3 := h2.trans (healWords_stored (hfit.next h2) (memFmt f).memBits)
    rw [runQueue_done h (hb.trans hbody)] at hrun
    cases hrun
    exact perform_framed hst h3 q f sp (by decide) e [] 0

/-- Settles O59: every store lies behind its pieces, and performing changes the own strand's queues and clocks. -/
theorem storesWriteTheirBytesOnly : Obligations.StoresWriteTheirBytesOnly := by
  unfold Obligations.StoresWriteTheirBytesOnly
  refine ⟨?plain, ?atomics, ?radv, ?tiles⟩
  case plain =>
    intro op hop f q sp e s s1 t ps hs hm hl h hp hex
    have hst := inUse_of_headTakes h
    obtain ⟨-, -, hplain⟩ := fit_of_place (by decide) hs hm hst hl hp
    exact (framed_of_runs h (plainStores_run hs hm hst hl op hop hp) hex).noLm hplain.1
  case atomics =>
    intro op hop f q sp e s s1 t F ps bs hF hs hm hl h hr hex
    have hst := inUse_of_headTakes h
    obtain ⟨-, -, hplain⟩ := atomicReads_fit hs hm hst hl hr
    exact (framed_of_runs h (atomics_store hs hm hst hl hop hF hr) hex).noLm hplain.1
  case radv =>
    intro f q sp e s t ps hs hm hl h hp hex hleaves
    have hst := inUse_of_headTakes h
    have hbody := radvBody_stores (f := f) hs hm hst hl rfl hp
    obtain ⟨s1, vals, fl, hb, rfl⟩ := performs_of_leaves (body := radvBody f) h hex hleaves (fun s1 c o sub hb => by rw [hb] at hbody; exact hbody)
    rw [hb] at hbody
    exact (perform_framed hst hbody q f sp (by decide) e vals fl).noLm ((slicePieces_cover ps 12 4).noLm (regionPlace_noLm hp))
  case tiles =>
    intro f q sp e s t ps hs hm hl h
    have hframed : Framed (ps.flatMap (·.pieces)) s t := by
      rcases h with ⟨h, hex, hps⟩ | ⟨h, hex, hps⟩
      · exact storeTile_framed (body := stvBody f) hs hm hl h rfl hex hps
      · exact storeTile_framed (body := stgBody f) hs hm hl h rfl hex hps
    exact ⟨hframed.wrote.bytes, hframed.wrote.tiles, hframed.others, hframed.wrote.rows, hframed.wrote.lm, hframed.wrote.full, hframed.strand⟩

end Sys2Proof.Proofs.StoreInstrs
end

section
/-! SUPPORT. What memory holds after a write does not depend on the strands, on the cores, on what happened before what, or on the links. -/
namespace Sys2Proof.Proofs.TwinWrites
open Sys2Proof Sys2Proof.Machine Sys2Proof.Claims

/-- The state without its strands, its cores, its releases and its links. -/
def bare (s : State) : State := { s with strands := [], cores := [], rel := {}, east := {}, west := {}, outputs := [] }
/-- Two states that differ in nothing else. -/
def Twin (s t : State) : Prop := bare t = bare s

theorem Twin.refl (s : State) : Twin s s := rfl
theorem Twin.trans {s t u : State} (h : Twin s t) (k : Twin t u) : Twin s u := Eq.trans k h
theorem Twin.symm {s t : State} (h : Twin s t) : Twin t s := Eq.symm h
/-- A twin is the state with other strands, cores, releases and links. -/
theorem Twin.exists {s t : State} (h : Twin s t) : ∃ a b c d e o,
    t = { s with strands := a, cores := b, rel := c, east := d, west := e, outputs := o } := by
  have heq : t = { bare t with strands := t.strands, cores := t.cores, rel := t.rel, east := t.east, west := t.west, outputs := t.outputs } := rfl
  rw [show bare t = bare s from h] at heq
  exact ⟨t.strands, t.cores, t.rel, t.east, t.west, t.outputs, heq⟩

theorem Twin.sameMemory {s t : State} (h : Twin s t) : SameMemory s t := by
  obtain ⟨a, b, c, d, e, o, rfl⟩ := h.exists
  exact ⟨fun sp x => by cases sp <;> rfl, rfl, rfl, rfl, rfl, rfl⟩

/-- A function of states that gives twins for twins. -/
def Blind (g : State → State) : Prop := ∀ {s t : State}, Twin s t → Twin (g s) (g t)

theorem foldl_blind {α : Type} {g : State → α → State} (hg : ∀ x, Blind (g · x)) (l : List α) : Blind (fun s => l.foldl g s) := by
  intro s t h
  induction l generalizing s t with
  | nil => exact h
  | cons x r ih => exact ih (hg x h)
/-- A function that changes only what twins may differ in. -/
theorem blind_of_twin {g : State → State} (hg : ∀ s, Twin s (g s)) : Blind g := fun {s t} h => (hg s).symm.trans (h.trans (hg t))
theorem Blind.comp {g k : State → State} (hg : Blind g) (hk : Blind k) : Blind (fun s => g (k s)) := fun h => hg (hk h)

/-! ### What reaches the links, the releases and the cores alone -/

theorem askWindow_twin (s : State) (k : Nat) (mk : Nat → Config.RingMsg) : Twin s (s.askWindow k mk) := by
  obtain ⟨r, e, w, o, h⟩ := askWindow_sends s k mk
  rw [h]; rfl
theorem tellWindow_twin (s : State) (k a : Nat) (bs : List Byte) : Twin s (s.tellWindow k a bs) := by
  obtain ⟨r, e, w, o, h⟩ := tellWindow_sends s k a bs
  rw [h]; rfl
theorem modCore_twin (s : State) (n : Nat) (f : Core → Core) : Twin s (s.modCore n f) := rfl
theorem setStrand_twin (s : State) (n : Nat) (u : Strand) : Twin s (s.setStrand n u) := rfl
theorem endSequences_twin (s : State) (p : Party) (sp : MemSpace) (o n : Nat) : Twin s (s.endSequences p sp o n) := rfl
theorem endLocal_twin (s : State) (p : Party) (c o n : Nat) : Twin s (s.endLocal p c o n) := rfl
theorem releaseAs_twin (s : State) (keys : List Nat) (scp tag size : Nat) : Twin s (s.releaseAs keys scp tag size) := rfl
theorem mixRels_twin (s : State) (p : Party) (keys : List Nat) (x : Tab (List Rel)) : Twin s (s.mixRels p keys x) := rfl
theorem cxlAsk_twin (s : State) (r : CxlRequest) (u : Nat) : Twin s (s.cxlAsk r u) := rfl
theorem acquireAt_twin (s : State) (keys : List Nat) (scp : Nat) : Twin s (s.acquireAt keys scp) := by
  unfold State.acquireAt State.acquireOf
  split
  · exact .refl s
  · exact rfl

/-! ### Storing bytes -/

theorem writeBackDev_blind (l : Nat) : Blind (·.writeBackDev l) := by
  intro s t h
  obtain ⟨a, b, c, d, e, o, rfl⟩ := h.exists
  dsimp only [State.writeBackDev]
  cases tabFind s.l2 l <;> rfl
theorem cleanHome_blind (k : Nat) : Blind (·.cleanHome k) := by
  intro s t h
  obtain ⟨a, b, c, d, e, o, rfl⟩ := h.exists
  rfl
theorem writeBackHost_blind (l : Nat) : Blind (·.writeBackHost l) := by
  intro s t h
  obtain ⟨a, b, c, d, e, o, rfl⟩ := h.exists
  dsimp only [State.writeBackHost]
  cases tabFind s.hostL2 l <;> rfl
theorem writeBackPool_blind (l : Nat) : Blind (·.writeBackPool l) := by
  intro s t h
  obtain ⟨a, b, c, d, e, o, rfl⟩ := h.exists
  dsimp only [State.writeBackPool]
  cases tabFind s.poolL2 l <;> rfl
theorem dieWritten_blind (bad : Bool) (u : Nat) : Blind (·.dieWritten bad u) := by
  intro s t h
  obtain ⟨a, b, c, d, e, o, rfl⟩ := h.exists
  rfl
theorem markUnit_blind (sp : MemSpace) (bad : Bool) (u : Nat) : Blind (·.markUnit sp bad u) := by
  intro s t h
  obtain ⟨a, b, c, d, e, o, rfl⟩ := h.exists
  cases sp with
  | il => dsimp only [State.markUnit]; split <;> rfl
  | bl | host | pool => rfl
theorem putByte_blind (sp : MemSpace) (off : Nat) (x : Byte) : Blind (·.putByte sp off x) := by
  intro s t h
  cases sp with
  | bl =>
    obtain ⟨a, b, c, d, e, o, hw⟩ := (writeBackDev_blind (physLoc .bl off / 64) h).exists
    dsimp only [State.putByte]
    dsimp only at hw
    rw [hw]
    rfl
  | il | host | pool =>
    obtain ⟨a, b, c, d, e, o, rfl⟩ := h.exists
    rfl
theorem cleanUnit_blind (sp : MemSpace) (u : Nat) : Blind (·.cleanUnit sp u) := by
  intro s t h
  cases sp with
  | bl => exact dieWritten_blind false u h
  | il => exact markUnit_blind .il false u (cleanHome_blind _ h)
  | host => exact markUnit_blind .host false u (cleanHome_blind _ h)
  | pool => exact markUnit_blind .pool false u (cleanHome_blind _ h)

section
variable {s t : State} (h : Twin s t)
include h

theorem ilWord_twin (off : Nat) : t.ilWord off = s.ilWord off := by
  obtain ⟨a, b, c, d, e, o, rfl⟩ := h.exists
  rfl
theorem ilListed_twin (base size : Nat) : t.ilListed base size = s.ilListed base size := by
  obtain ⟨a, b, c, d, e, o, rfl⟩ := h.exists
  rfl
theorem execLeaves_twin (pasid lvl table : Nat) : t.execLeaves pasid lvl table = s.execLeaves pasid lvl table := by
  induction lvl generalizing table with
  | zero =>
    rw [State.execLeaves, State.execLeaves]
    simp only [ilWord_twin h, ilListed_twin h]
  | succ l ih =>
    rw [State.execLeaves, State.execLeaves]
    simp only [ilWord_twin h, ilListed_twin h, ih]
theorem execMaps_twin : t.execMaps = s.execMaps := by
  have hbase : t.ptbase = s.ptbase := by
    obtain ⟨a, b, c, d, e, o, rfl⟩ := h.exists
    rfl
  simp only [State.execMaps, ilWord_twin h, ilListed_twin h, execLeaves_twin h, hbase]
theorem touchCode_twin (p : Party) (sp : MemSpace) (off n : Nat) : Twin (s.touchCode p sp off n) (t.touchCode p sp off n) := by
  have hmaps := execMaps_twin h
  unfold State.touchCode
  rw [hmaps]
  obtain ⟨a, b, c, d, e, o, rfl⟩ := h.exists
  split <;> rfl
end

theorem storeMem_blind (p : Party) (w : Bool) (sp : MemSpace) (off : Nat) (bs : List Byte) : Blind (·.storeMem p w sp off bs) := by
  intro s t h
  have hput : Twin (s.putBytes sp off bs) (t.putBytes sp off bs) := foldl_blind (fun x => putByte_blind sp (off + x.2) x.1) bs.zipIdx h
  have hends : Twin (((s.putBytes sp off bs).touchCode p sp off bs.length).endSequences p sp off bs.length)
      (((t.putBytes sp off bs).touchCode p sp off bs.length).endSequences p sp off bs.length) :=
    blind_of_twin (fun s => endSequences_twin s p sp off bs.length) (touchCode_twin hput p sp off bs.length)
  unfold State.storeMem
  dsimp only
  split
  · exact foldl_blind (fun u => cleanUnit_blind sp u) _ hends
  · exact hends

/-! ### Errors on the way -/

theorem signalError_blind (n : Nat) : Blind (·.signalError n) := by
  intro s t h
  obtain ⟨a, b, c, d, e, o, rfl⟩ := h.exists
  dsimp only [State.signalError]
  split <;> rfl
theorem windowHome_twin {s t : State} (h : Twin s t) (i : Nat) : t.windowHome i = s.windowHome i := by
  obtain ⟨a, b, c, d, e, o, rfl⟩ := h.exists
  rfl
theorem storeIl_blind (p : Party) (w : Bool) (off : Nat) (bs : List Byte) : Blind (·.storeIl p w off bs) := by
  intro s t h
  dsimp only [State.storeIl]
  rw [windowHome_twin h]
  split
  · exact storeMem_blind p w .il _ bs h
  · exact blind_of_twin (fun s => tellWindow_twin s _ _ bs) h
theorem setMehead_blind (n : BitVec 32) : Blind (·.setMehead n) := by
  intro s t h
  obtain ⟨a, b, c, d, e, o, rfl⟩ := h.exists
  rfl
theorem setMelost_blind (n : Word) : Blind (·.setMelost n) := by
  intro s t h
  obtain ⟨a, b, c, d, e, o, rfl⟩ := h.exists
  rfl
theorem postError_blind (i : ErrInfo) : Blind (·.postError i) := by
  intro s t h
  have hsig := signalError_blind i.cls h
  have hfields : (t.mehead, t.metail, t.mesize, t.melost, t.mebase, t.errorRecord i) = (s.mehead, s.metail, s.mesize, s.melost, s.mebase, s.errorRecord i) := by
    obtain ⟨a, b, c, d, e, o, rfl⟩ := h.exists
    rfl
  simp only [Prod.mk.injEq] at hfields
  obtain ⟨h1, h2, h3, h4, h5, h6⟩ := hfields
  dsimp only [State.postError]
  rw [h1, h2, h3, h4, h5, h6]
  split
  · exact setMelost_blind _ hsig
  · exact setMehead_blind _ (storeIl_blind _ _ _ _ hsig)
theorem countCorrected_blind (k u : Nat) (n : BitVec 32) : Blind (·.countCorrected k u n) := by
  intro s t h
  have hthr : t.cethr = s.cethr := by
    obtain ⟨a, b, c, d, e, o, rfl⟩ := h.exists
    rfl
  dsimp only [State.countCorrected]
  rw [hthr]
  split
  · exact postError_blind _ h
  · exact h
theorem noteDie_blind (u : Nat) : Blind (·.noteDie u) := by
  intro s t h
  obtain ⟨a, b, c, d, e, o, rfl⟩ := h.exists
  dsimp only [State.noteDie]
  split
  · rfl
  · split
    · exact postError_blind _ rfl
    · split
      · exact countCorrected_blind _ _ _ rfl
      · rfl
theorem homeLost_twin {s t : State} (h : Twin s t) (sp : MemSpace) (u : Nat) : t.homeLost sp u = s.homeLost sp u := by
  obtain ⟨a, b, c, d, e, o, rfl⟩ := h.exists
  cases sp <;> rfl
theorem dirtyLine_twin {s t : State} (h : Twin s t) (sp : MemSpace) (u : Nat) : t.dirtyLine sp u = s.dirtyLine sp u := by
  obtain ⟨a, b, c, d, e, o, rfl⟩ := h.exists
  cases sp <;> rfl
theorem snoopL1s_blind (sp : MemSpace) (u : Nat) : Blind (·.snoopL1s sp u) := by
  intro s t h
  obtain ⟨a, b, c, d, e, o, rfl⟩ := h.exists
  rfl
theorem noteDir_blind (sp : MemSpace) (u : Nat) : Blind (·.noteDir sp u) := by
  intro s t h
  have hlost := homeLost_twin h sp u
  dsimp only [State.noteDir]
  rw [hlost]
  obtain ⟨a, b, c, d, e, o, rfl⟩ := h.exists
  split
  · rfl
  · split
    · refine postError_blind _ (markUnit_blind sp true u ?_)
      split <;> rfl
    · exact countCorrected_blind _ _ _ (postError_blind _ rfl)
theorem countL2_blind (u : Nat) : Blind (·.countL2 u) := by
  intro s t h
  obtain ⟨a, b, c, d, e, o, rfl⟩ := h.exists
  exact countCorrected_blind _ _ _ rfl
theorem noteL2_blind (sp : MemSpace) (u : Nat) : Blind (·.noteL2 sp u) := by
  intro s t h
  have hdirty := dirtyLine_twin h sp u
  dsimp only [State.noteL2]
  rw [hdirty]
  obtain ⟨a, b, c, d, e, o, rfl⟩ := h.exists
  split
  · split
    · exact postError_blind _ (markUnit_blind sp true u rfl)
    · exact countL2_blind u rfl
  · split
    · exact countL2_blind u rfl
    · rfl

/-- A dirty line that goes home, if there is one. -/
theorem flush_blind {tab : State → Tab (BitVec 512)} (htab : ∀ {s t}, Twin s t → tab t = tab s) {g : State → State} (hg : Blind g) (line : Nat) :
    Blind (fun s => if (tabFind (tab s) line).isSome then g s else s) := by
  intro s t h
  dsimp only
  rw [htab h]
  split
  · exact hg h
  · exact h
theorem l2_twin {s t : State} (h : Twin s t) : t.l2 = s.l2 := by
  obtain ⟨a, b, c, d, e, o, rfl⟩ := h.exists
  rfl
theorem hostL2_twin {s t : State} (h : Twin s t) : t.hostL2 = s.hostL2 := by
  obtain ⟨a, b, c, d, e, o, rfl⟩ := h.exists
  rfl
theorem poolL2_twin {s t : State} (h : Twin s t) : t.poolL2 = s.poolL2 := by
  obtain ⟨a, b, c, d, e, o, rfl⟩ := h.exists
  rfl
theorem cxl_twin {s t : State} (h : Twin s t) : t.arr.cxl = s.arr.cxl := by
  obtain ⟨a, b, c, d, e, o, rfl⟩ := h.exists
  rfl
theorem flushDev_blind (line : Nat) : Blind (·.flushDev line) :=
  flush_blind (tab := State.l2) l2_twin ((writeBackDev_blind line).comp (noteL2_blind .il line)) line
theorem flushHost_blind (line : Nat) : Blind (·.flushHost line) :=
  flush_blind (tab := State.hostL2) hostL2_twin ((writeBackHost_blind line).comp (noteL2_blind .host line)) line
theorem flushPool_blind (line : Nat) : Blind (·.flushPool line) :=
  flush_blind (tab := State.poolL2) poolL2_twin ((writeBackPool_blind line).comp (noteL2_blind .pool line)) line

theorem noteUnit_blind (sp : MemSpace) (u : Nat) : Blind (·.noteUnit sp u) := by
  intro s t h
  have h1 : Twin (if sp = .bl then s else (s.noteDir sp u).noteL2 sp u) (if sp = .bl then t else (t.noteDir sp u).noteL2 sp u) := by
    split
    · exact h
    · exact noteL2_blind sp u (noteDir_blind sp u h)
  dsimp only [State.noteUnit]
  generalize (if sp = .bl then s else (s.noteDir sp u).noteL2 sp u) = s1 at h1
  generalize (if sp = .bl then t else (t.noteDir sp u).noteL2 sp u) = t1 at h1
  have hreads : t1.readsDie sp u = s1.readsDie sp u := by
    obtain ⟨a, b, c, d, e, o, rfl⟩ := h1.exists
    cases sp <;> rfl
  rw [hreads]
  split
  · exact noteDie_blind u h1
  · exact h1

theorem takeUnit_blind (sp : MemSpace) (u : Nat) : Blind (·.takeUnit sp u) := by
  intro s t h
  by_cases hsp : sp = .bl
  · subst hsp
    have h1 := flushDev_blind u h
    have hmark : ((t.flushDev u).devPoison, (t.flushDev u).devUe) = ((s.flushDev u).devPoison, (s.flushDev u).devUe) := by
      obtain ⟨a, b, c, d, e, o, hw⟩ := h1.exists
      dsimp only at hw
      rw [hw]
    simp only [Prod.mk.injEq] at hmark
    dsimp only [State.takeUnit]
    rw [hmark.1, hmark.2]
    exact dieWritten_blind _ u (noteDie_blind u h1)
  · have h0 := noteDir_blind sp u h
    have h1 := noteUnit_blind sp u h0
    have hdirty := dirtyLine_twin h0 sp u
    have heq (s : State) : s.takeUnit sp u = if ((s.noteDir sp u).dirtyLine sp u).isSome then s.noteDir sp u else
        if sp = .il then { (s.noteDir sp u).noteUnit sp u with arr := { ((s.noteDir sp u).noteUnit sp u).arr with
          l2Poison := setPut ((s.noteDir sp u).noteUnit sp u).arr.l2Poison u
            (((s.noteDir sp u).noteUnit sp u).devPoison.contains u || ((s.noteDir sp u).noteUnit sp u).devUe.contains u) } }
        else (s.noteDir sp u).noteUnit sp u := by
      cases sp with
      | bl => exact absurd rfl hsp
      | il | host | pool => rfl
    dsimp only at hdirty
    dsimp only
    rw [heq, heq, hdirty]
    split
    · exact h0
    · split
      · obtain ⟨a, b, c, d, e, o, hw⟩ := h1.exists
        dsimp only at hw
        rw [hw]
        rfl
      · exact h1

theorem writeMem_blind (p : Party) (w : Bool) (sp : MemSpace) (off : Nat) (bs : List Byte) : Blind (·.writeMem p w sp off bs) := by
  intro s t h
  refine storeMem_blind p w sp off bs (foldl_blind (g := fun t u => if (if w then wholeUnits sp off bs.length else []).contains u then
    t.noteDir (if sp = .bl then .il else sp) u else t.takeUnit sp u) (fun u => ?_) (unitsOf sp off bs.length) h)
  intro s t h
  dsimp only
  by_cases hfull : (if w then wholeUnits sp off bs.length else []).contains u = true
  · rw [if_pos hfull, if_pos hfull]
    exact noteDir_blind _ u h
  · rw [if_neg hfull, if_neg hfull]
    exact takeUnit_blind sp u h

/-! ### Lines across the link -/

theorem setCxl_blind (x : CxlLines) : Blind (·.setCxl x) := by
  intro s t h
  obtain ⟨a, b, c, d, e, o, rfl⟩ := h.exists
  rfl
theorem cxlAsk_blind (r : CxlRequest) (u : Nat) : Blind (·.cxlAsk r u) := blind_of_twin (fun s => cxlAsk_twin s r u)
theorem hostLine_blind (own full : Bool) (u : Nat) : Blind (·.hostLine own full u) := by
  intro s t h
  dsimp only [State.hostLine]
  rw [cxl_twin h]
  split
  · exact h
  · split
    · exact cxlAsk_blind _ u (setCxl_blind _ h)
    · exact cxlAsk_blind _ u (setCxl_blind _ h)
theorem evictHost_blind (u : Nat) : Blind (·.evictHost u) := by
  intro s t h
  have hholds : t.holdsHost u = s.holdsHost u := by rw [State.holdsHost, State.holdsHost, cxl_twin h]
  dsimp only [State.evictHost]
  rw [hholds, cxl_twin h, hostL2_twin h]
  split
  · exact h
  · exact cxlAsk_blind _ u (setCxl_blind _ (flushHost_blind u h))
theorem untrack_blind (ls : List Nat) : Blind (·.untrack ls) := by
  intro s t h
  obtain ⟨a, b, c, d, e, o, rfl⟩ := h.exists
  rfl
theorem dropPool_blind (u : Nat) : Blind (·.dropPool u) := by
  intro s t h
  have h1 := untrack_blind [unitKey .pool u] (snoopL1s_blind .pool u (flushPool_blind u h))
  dsimp only [State.dropPool]
  rw [cxl_twin h1]
  exact setCxl_blind _ h1
theorem poolLine_blind (u : Nat) : Blind (·.poolLine u) := by
  intro s t h
  have hset {s t : State} (h : Twin s t) : Twin (s.setCxl { s.arr.cxl with pool := s.arr.cxl.pool ++ [u] })
      (t.setCxl { t.arr.cxl with pool := t.arr.cxl.pool ++ [u] }) := by
    rw [cxl_twin h]
    exact setCxl_blind _ h
  dsimp only [State.poolLine]
  rw [cxl_twin h]
  split
  · exact h
  · refine hset ?_
    split
    · exact dropPool_blind _ h
    · exact h
theorem recallLine_blind (inv : Bool) (u : Nat) : Blind (·.recallLine inv u) := by
  intro s t h
  obtain ⟨a, b, c, d, e, o, rfl⟩ := h.exists
  dsimp only [State.recallLine]
  split
  · rfl
  · refine setCxl_blind _ ?_
    split
    · exact flushDev_blind u (storeMem_blind _ _ _ _ _ rfl)
    · rfl
theorem cxlWrite_blind (sp : MemSpace) (off n size : Nat) : Blind (·.cxlWrite sp off n size) := by
  intro s t h
  cases sp with
  | bl => exact h
  | il =>
    dsimp only [State.cxlWrite]
    rw [cxl_twin h]
    split
    · exact h
    · exact foldl_blind (fun u => recallLine_blind true u) _ h
  | host =>
    refine foldl_blind (g := fun t u => if size ≠ 0 then t.hostLine true ((wholeUnits .host off n).contains u) u else (t.evictHost u).cxlAsk .wrCur u)
      (fun u => ?_) _ h
    intro s t h
    dsimp only
    split
    · exact hostLine_blind _ _ u h
    · exact cxlAsk_blind _ u (evictHost_blind u h)
  | pool =>
    dsimp only [State.cxlWrite]
    split
    · exact h
    · exact foldl_blind (fun u => poolLine_blind u) _ h

/-! ### Pieces -/

theorem writeThru_blind (p : Party) (w : Bool) (sp : MemSpace) (off : Nat) (bs : List Byte) (size : Nat) : Blind (·.writeThru p w sp off bs size) := by
  intro s t h
  have h1 := writeMem_blind p w sp off bs (cxlWrite_blind sp off bs.length size h)
  dsimp only [State.writeThru]
  split
  · exact h1
  · cases sp with
    | bl => exact h1
    | il => exact foldl_blind (fun u => flushDev_blind u) _ h1
    | host => exact foldl_blind (fun u => flushHost_blind u) _ h1
    | pool => exact foldl_blind (fun u => flushPool_blind u) _ h1

/-- What a write through pieces leaves in memory depends on memory alone. -/
theorem writePieces_blind (p : Party) (w : Bool) (bs : List Byte) (ps : List Piece) : Blind (·.writePieces p w bs ps) := by
  intro s t h
  induction ps generalizing s t bs with
  | nil => exact h
  | cons q r ih =>
    cases q with
    | lm c off n => exact ih _ (blind_of_twin (g := fun s => (s.endLocal p c off n).modCore c (fun k => k.lmStore off (bs.take n))) (fun _ => rfl) h)
    | mem sp off n size => exact ih _ (writeThru_blind p w sp off (bs.take n) size h)
    | remote pos off n =>
      exact ih _ (((askWindow_twin s pos _).symm.trans h).trans (askWindow_twin t pos _))
    | kons key sp off n => exact ih _ h
    | fixed v n => exact ih _ h
    | hidden n => exact ih _ h

end Sys2Proof.Proofs.TwinWrites
end

section
/-! SUPPORT. The atomics: what each makes of the old value, and that its roles change no memory (R147 to R149). -/
namespace Sys2Proof.Proofs.AtomicOperations
open Sys2Proof Sys2Proof.Machine Sys2Proof.Claims Sys2Proof.Proofs.IntegerResults Sys2Proof.Proofs.AccessesByAddress
  Sys2Proof.Proofs.StoreFrames Sys2Proof.Proofs.StoreInstrs Sys2Proof.Proofs.TwinWrites Sys2Proof.Proofs.ReaderFrames

/-! ### The new values -/

/-- The model's operation gives the value of the statement's, and no flag. -/
def Gives (fn : Fmt → Nat → Nat → Nat → Option Nat × Flags)
    (g : (F : Fmt) → BitVec F.width → BitVec F.width → BitVec F.width → Option (BitVec F.width)) : Prop :=
  ∀ (F : Fmt) (m c e : BitVec F.width), fn F m.toNat c.toNat e.toNat = ((g F m c e).map BitVec.toNat, 0)

theorem sle_iff {w : Nat} (m c : BitVec w) : m.sle c = true ↔ toSigned w m.toNat ≤ toSigned w c.toNat := by
  rw [toSigned_toNat, toSigned_toNat, BitVec.sle_iff_toInt_le]

theorem gives_add : Gives newAdd (fun _ m c _ => some (m + c)) := fun F m c e => by
  simp only [newAdd, Option.map_some, BitVec.toNat_add]
theorem gives_minS : Gives newMinS (fun _ m c _ => some (if m.sle c then m else c)) := fun F m c e => by
  simp only [newMinS, Option.map_some, sle_iff, apply_ite BitVec.toNat]
theorem gives_maxS : Gives newMaxS (fun _ m c _ => some (if m.sle c then c else m)) := fun F m c e => by
  simp only [newMaxS, Option.map_some, sle_iff, apply_ite BitVec.toNat]
theorem gives_minU : Gives newMinU (fun _ m c _ => some (if m ≤ c then m else c)) := fun F m c e => by
  simp only [newMinU, Option.map_some, BitVec.le_def, apply_ite BitVec.toNat]
theorem gives_maxU : Gives newMaxU (fun _ m c _ => some (if m ≤ c then c else m)) := fun F m c e => by
  simp only [newMaxU, Option.map_some, BitVec.le_def, apply_ite BitVec.toNat]
theorem gives_and : Gives newAnd (fun _ m c _ => some (m &&& c)) := fun F m c e => by
  simp only [newAnd, Option.map_some, BitVec.toNat_and]
theorem gives_or : Gives newOr (fun _ m c _ => some (m ||| c)) := fun F m c e => by
  simp only [newOr, Option.map_some, BitVec.toNat_or]
theorem gives_xor : Gives newXor (fun _ m c _ => some (m ^^^ c)) := fun F m c e => by
  simp only [newXor, Option.map_some, BitVec.toNat_xor]
theorem gives_xchg : Gives newXchg (fun _ _ c _ => some c) := fun _ _ _ _ => rfl
theorem gives_cas : Gives newCas (fun _ m c e => if m = c then some e else none) := fun F m c e => by
  simp only [newCas, BitVec.toNat_inj]
  split <;> rfl
/-- Below the bound the sum does not wrap. -/
theorem gives_incw : Gives newIncw (fun _ m c _ => some (if c ≤ m then 0 else m + 1)) := fun F m c e => by
  simp only [newIncw, Option.map_some, BitVec.le_def, ge_iff_le]
  split
  · simp
  next h =>
    have hc := c.isLt
    have hpow : 1 < 2 ^ F.width := by omega
    have hone : (1 : BitVec F.width).toNat = 1 := Nat.mod_eq_of_lt hpow
    rw [BitVec.toNat_add, hone, Nat.mod_eq_of_lt (by omega)]
theorem gives_min : Gives newMin (fun F m c _ => some (if F.isSigned then (if m.sle c then m else c) else (if m ≤ c then m else c))) :=
  fun F m c e => by
    unfold newMin
    by_cases h : F.isSigned = true
    · simp only [if_pos h]
      exact gives_minS F m c e
    · simp only [if_neg h]
      exact gives_minU F m c e
theorem gives_max : Gives newMax (fun F m c _ => some (if F.isSigned then (if m.sle c then c else m) else (if m ≤ c then c else m))) :=
  fun F m c e => by
    unfold newMax
    by_cases h : F.isSigned = true
    · simp only [if_pos h]
      exact gives_maxS F m c e
    · simp only [if_neg h]
      exact gives_maxU F m c e

/-- An integer atomic runs the common body with an operation that gives its value; from opcode 0xB0 on it is a reduction. -/
def RunsAtomic (f : Fields) (s : State)
    (op : (Fields → Instr) × ((F : Fmt) → BitVec F.width → BitVec F.width → BitVec F.width → Option (BitVec F.width))) : Prop :=
  ∃ fn, exec (op.1 f) s = runQueue (op.1 f) f .reply (atomicBody fn (atomicCode (op.1 f)) (decide (0xB0 ≤ atomicCode (op.1 f))) f) s ∧ Gives fn op.2

theorem intAtomics_run (f : Fields) (s : State) : ∀ op ∈ intAtomics, RunsAtomic f s op := by
  simp only [intAtomics, List.forall_mem_cons]
  exact ⟨⟨_, rfl, gives_add⟩, ⟨_, rfl, gives_minS⟩, ⟨_, rfl, gives_maxS⟩, ⟨_, rfl, gives_minU⟩, ⟨_, rfl, gives_maxU⟩, ⟨_, rfl, gives_and⟩,
    ⟨_, rfl, gives_or⟩, ⟨_, rfl, gives_xor⟩, ⟨_, rfl, gives_xchg⟩, ⟨_, rfl, gives_cas⟩, ⟨_, rfl, gives_incw⟩, ⟨_, rfl, gives_add⟩,
    ⟨_, rfl, gives_min⟩, ⟨_, rfl, gives_max⟩, List.forall_mem_nil _⟩

theorem floatAtomics_run (f : Fields) (s : State) : ∀ op ∈ floatAtomics, ∃ opc,
    exec (op.1 f) s = runQueue (op.1 f) f .reply (atomicBody newFadd opc op.2 f) s := by
  simp only [floatAtomics, List.forall_mem_cons]
  exact ⟨⟨_, rfl⟩, ⟨_, rfl⟩, List.forall_mem_nil _⟩

/-! ### Operands -/

theorem atomicArg_eq (F : Fmt) (o : Operand) (w : Word) : atomicArg F o w = (dataBits F o w).toNat := by
  rw [atomicArg, dataBits, BitVec.toNat_ofNat]

theorem leNat_lt (bs : List Byte) : leNat bs < 2 ^ (8 * bs.length) := by
  induction bs with
  | nil => exact Nat.one_pos
  | cons b r ih =>
    have hb : b.toNat < 256 := b.isLt
    rw [leNat, List.length_cons, show 8 * (r.length + 1) = 8 * r.length + 8 by omega, Nat.pow_add]
    omega

/-- The bytes of a location are a value of its format. -/
theorem toNat_location {F : Fmt} {bs : List Byte} (h : bs.length = F.width / 8) : (BitVec.ofNat F.width (leNat bs)).toNat = leNat bs := by
  have hlt := leNat_lt bs
  have hle : 2 ^ (8 * bs.length) ≤ 2 ^ F.width := Nat.pow_le_pow_right (by decide) (by omega)
  rw [BitVec.toNat_ofNat, Nat.mod_eq_of_lt (by omega)]

/-! ### The strand that acts keeps its name -/

theorem gains_serial {s : State} (hst : s.me.st ≠ .unbound) (c : Clock) : (s.gains c).myParty = s.myParty := by
  have h := me_setMe s { s.me with seen := match s.acting with
    | .front => { s.me.seen with front := joinClock s.me.seen.front c }
    | .queue q => s.me.seen.set q (joinClock (s.me.seen.of q) c) } (strand_ne_default _ (by exact hst))
  have hserial := congrArg Strand.party h
  exact hserial
theorem acquireAt_party {s : State} (hst : s.me.st ≠ .unbound) (keys : List Nat) (scp : Nat) : (s.acquireAt keys scp).myParty = s.myParty := by
  unfold State.acquireAt State.acquireOf
  split
  · rfl
  · exact gains_serial hst _

theorem settleLate_inUse {s : State} (hst : s.me.st ≠ .unbound) (hit : LateWrite → Bool) : (s.settleLate s.cur hit).me.st ≠ .unbound := by
  have hkept := foldl_kept ((lates s.me).filter hit) (fun u w => u.writePieces s.me.party false w.bytes w.pieces)
    (fun t w => writePieces_kept t _ _ _ _) s
  rcases settleLate_cases s hit with h | h <;> rw [h]
  · exact hst
  · generalize ((lates s.me).filter hit).foldl (fun u w => u.writePieces s.me.party false w.bytes w.pieces) s = t at hkept
    rw [← kept_cur hkept]
    show (t.setMe _).me.st ≠ _
    rw [me_setMe t _ (strand_ne_default _ (by exact hst))]
    exact hst

section
variable {f : Fields} {e : QEntry} {F : Fmt} {s s1 : State} {ps : List Piece} {bs : List Byte}

theorem atomicReads_inUse (hst : s.me.st ≠ .unbound) (h : AtomicReads f e F s s1 ps bs) : s1.me.st ≠ .unbound := by
  obtain ⟨s0, t, ps0, ⟨-, rfl⟩, -, -, -, rfl, -, -, rfl⟩ := h
  have hfill : (s.tlbFill s.myCore s.me.pasid (eaOf f e)).me = s.me := kept_me (tlbFill_kept _ _ _ _)
  have hst0 : (s.tlbFill s.myCore s.me.pasid (eaOf f e)).me.st ≠ .unbound := by rw [hfill]; exact hst
  generalize s.tlbFill s.myCore s.me.pasid (eaOf f e) = s0 at hst0 ⊢
  have hflush : (if f.sub.getLsbD 1 then s0.flushLate else s0.flushFor ps).me.st ≠ .unbound := by
    split
    · exact settleLate_inUse hst0 _
    · exact settleLate_inUse hst0 _
  generalize (if f.sub.getLsbD 1 then s0.flushLate else s0.flushFor ps) = v at hflush ⊢
  have hhome : (v.settleBl ps).kept = v.kept := by
    unfold State.settleBl
    split
    · exact flushDev_kept _ _
    · rfl
  rw [kept_me (readPieces_kept _ _ _), kept_me hhome]
  exact hflush

/-- An atomic ends with its write to memory, whatever its roles are. -/
theorem atomicEnd_memory (hst : s.me.st ≠ .unbound) {op : Fmt → Nat → Nat → Nat → Option Nat × Flags} {quiet : Bool} {c c2 : Nat} :
    SameMemory (match (op F (leNat bs) c c2).1 with
      | some r => s.writePieces s.myParty false (leBytes (accBytes F) r) ps
      | none => s) (atomicEnd op quiet f F c c2 ps bs s) := by
  have hacq : Twin s (if f.sub.getLsbD 0 then s.acquireAt (pieceLocs ps) f.scp.toNat else s) ∧
      (if f.sub.getLsbD 0 then s.acquireAt (pieceLocs ps) f.scp.toNat else s).myParty = s.myParty := by
    split
    · exact ⟨acquireAt_twin _ _ _, acquireAt_party hst _ _⟩
    · exact ⟨.refl s, rfl⟩
  obtain ⟨htwin, hparty⟩ := hacq
  unfold atomicEnd
  dsimp only
  generalize (if f.sub.getLsbD 0 then s.acquireAt (pieceLocs ps) f.scp.toNat else s) = u at htwin hparty
  generalize (op F (leNat bs) c c2).1 = v
  refine Twin.sameMemory ?_
  have hwrite : Twin (match v with
      | some r => s.writePieces s.myParty false (leBytes (accBytes F) r) ps
      | none => s) (match v with
      | some r => u.writeAtomic u.myParty quiet (leBytes (accBytes F) r) ps
      | none => u) := by
    cases v with
    | none => exact htwin
    | some r =>
      have hw := writePieces_blind s.myParty false (leBytes (accBytes F) r) ps htwin
      dsimp only [State.writeAtomic]
      rw [hparty]
      split
      · exact hw
      · exact hw.trans (mixRels_twin _ _ _ _)
  by_cases hrel : (f.sub.getLsbD 1 && v.isSome) = true
  · rw [if_pos hrel]
    exact hwrite.trans (releaseAs_twin _ _ _ _ _)
  · rw [if_neg hrel]
    exact hwrite
end

/-! ### At another device -/

theorem settleLate_apart (s : State) (hit : LateWrite → Bool) : HoldsAndMoves.apart (s.settleLate s.cur hit) = HoldsAndMoves.apart s := by
  rcases settleLate_cases s hit with h | h <;> rw [h]
  exact HoldsAndMoves.foldl_apart _ _ (fun t w => HoldsAndMoves.writePieces_apart t _ _ _ _) s

theorem acquireAt_apart (s : State) (keys : List Nat) (scp : Nat) : HoldsAndMoves.apart (s.acquireAt keys scp) = HoldsAndMoves.apart s := by
  unfold State.acquireAt State.acquireOf
  split
  · rfl
  · rfl

/-- What an atomic does before its message leaves changes neither the device's place in the league nor which strand acts. -/
theorem rolesBefore_place (s : State) (rel acq : Bool) (ps : List Piece) (keys : List Nat) (scp : Nat) :
    let v := if rel then s.flushLate else s.flushFor ps
    let u := if acq then v.acquireAt keys scp else v
    u.lgPos = s.lgPos ∧ u.cur = s.cur := by
  have hflush : HoldsAndMoves.apart (if rel then s.flushLate else s.flushFor ps) = HoldsAndMoves.apart s := by
    split
    · exact settleLate_apart s _
    · exact settleLate_apart s _
  dsimp only
  generalize (if rel then s.flushLate else s.flushFor ps) = v at hflush ⊢
  have hall : HoldsAndMoves.apart (if acq then v.acquireAt keys scp else v) = HoldsAndMoves.apart s := by
    split
    · exact (acquireAt_apart v _ _).trans hflush
    · exact hflush
  have hpos := congrArg State.lgPos hall
  have hcur := congrArg State.cur hall
  exact ⟨hpos, hcur⟩

theorem ofNat_mod_width (w n : Nat) : BitVec.ofNat w (n % 2 ^ w) = BitVec.ofNat w n :=
  BitVec.eq_of_toNat_eq (by rw [BitVec.toNat_ofNat, BitVec.toNat_ofNat, Nat.mod_mod])

theorem ofNat_atomicArg (F : Fmt) (o : Operand) (w : Word) : BitVec.ofNat 64 (atomicArg F o w) = (dataBits F o w).setWidth 64 := by
  rw [atomicArg_eq, BitVec.ofNat_toNat]

section
variable {f : Fields} {e : QEntry} {F : Fmt} {s s0 : State} {ps : List Piece} {pos off n : Nat}
  {fn : Fmt → Nat → Nat → Nat → Option Nat × Flags}
  {g : (F : Fmt) → BitVec F.width → BitVec F.width → BitVec F.width → Option (BitVec F.width)}

/-- An atomic at another device sends its message and takes a free value. -/
theorem atomicBody_remote (hfn : Gives fn g) (opc : Nat) (quiet : Bool) (hF : fieldFmt f = some F)
    (hp : Places s (eaOf f e) (F.width / 8) (F.width / 8) .atomic s0 ps)
    (hremote : s0.cached (policyOf f.hint 0) ps = [.remote pos off n]) :
    let v := (if f.sub.getLsbD 1 then s0.flushLate else s0.flushFor [.remote pos off n])
    let u := if f.sub.getLsbD 0 then v.acquireAt (pieceLocs [.remote pos off (F.width / 8)]) f.scp.toNat else v
    let m := BitVec.ofNat F.width (Config.freeWord (v.fv + 604)).toNat
    let w := u.askWindow pos (fun tag => .atomic [(s0.lgPos.toNat, tag)] s0.cur off opc f.fmt.toNat ((dataBits F f.c e.c).setWidth 64)
      ((dataBits F f.e e.e).setWidth 64) (quiet || (decide (opc ≤ 0xA7) && e.dsts.isEmpty && f.sub == 0)))
    let t := if f.sub.getLsbD 1 && (g F m (dataBits F f.c e.c) (dataBits F f.e e.e)).isSome then
      w.releaseAt (pieceLocs [.remote pos off (F.width / 8)]) f.scp.toNat else w
    (quiet = true ∨ Config.freeBool (v.fv + 610 + pos) = false) →
    atomicBody fn opc quiet f e s = .done t (if e.dsts = [] then [] else [ext F m]) 0 := by
  intro v u m w t hclean
  obtain ⟨hpos, hcur⟩ := rolesBefore_place s0 (f.sub.getLsbD 1) (f.sub.getLsbD 0) [.remote pos off n] (pieceLocs [.remote pos off (F.width / 8)]) f.scp.toNat
  change u.lgPos = s0.lgPos at hpos
  change u.cur = s0.cur at hcur
  have hvalue : fn F ((Config.freeWord (v.fv + 604)).toNat % 2 ^ F.width) (atomicArg F f.c e.c) (atomicArg F f.e e.e) =
      ((g F m (dataBits F f.c e.c) (dataBits F f.e e.e)).map BitVec.toNat, 0) := by
    rw [atomicArg_eq, atomicArg_eq, ← BitVec.toNat_ofNat]
    exact hfn F m _ _
  have hbody : atomicBody fn opc quiet f e s = remoteAtomic fn quiet f e opc pos off (F.width / 8) (atomicArg F f.c e.c) (atomicArg F f.e e.e) v := by
    unfold atomicBody
    dsimp only
    rw [memFmt_eq hF]
    refine (withPlace_of_places hp _).trans ?_
    rw [hremote]
    rfl
  rw [hbody]
  unfold remoteAtomic
  dsimp only
  rw [memFmt_eq hF, hvalue, ofNat_atomicArg, ofNat_atomicArg]
  have hsend : (!quiet && Config.freeBool (v.fv + 610 + pos)) = false := by
    rcases hclean with h | h <;> rw [h]
    · rfl
    · exact Bool.and_false _
  have hw : w = u.askWindow pos (fun tag => .atomic [(u.lgPos.toNat, tag)] u.cur off opc f.fmt.toNat ((dataBits F f.c e.c).setWidth 64)
      ((dataBits F f.e e.e).setWidth 64) (quiet || (decide (opc ≤ 0xA7) && e.dsts.isEmpty && f.sub == 0))) := by rw [hpos, hcur]
  rw [if_neg (by rw [hsend]; decide), Option.isSome_map]
  have hflags : (if quiet = true then (0 : Flags) else 0) = 0 := ite_self _
  have hdelivered : (if e.dsts.isEmpty = true then [] else [extInt F ((Config.freeWord (v.fv + 604)).toNat % 2 ^ F.width)]) =
      if e.dsts = [] then [] else [ext F m] := by
    rw [extInt_eq, ofNat_mod_width]
    simp only [List.isEmpty_iff, m]
  rw [hflags, hdelivered]
  show QRes.done (if _ then _ else _) _ _ = QRes.done (if _ then _ else _) _ _
  rw [hw]
end

/-! ### The instructions -/

section
variable {f : Fields} {q : Queue} {sp : ISpec} {e : QEntry} {F : Fmt} {s s1 : State} {ps : List Piece} {bs : List Byte}

theorem integer_atomic {op : (Fields → Instr) × ((F : Fmt) → BitVec F.width → BitVec F.width → BitVec F.width → Option (BitVec F.width))}
    (hop : op ∈ intAtomics) (hF : fieldFmt f = some F) (h : headTakes (op.1 f) f q sp e s = true) (hr : AtomicReads f e F s s1 ps bs) :
    let m := BitVec.ofNat F.width (leNat bs)
    ∃ t : State, exec (op.1 f) s = .next (t.perform q f sp .reply e [ext F m] 0) ∧
      (∀ r, op.2 F m (dataBits F f.c e.c) (dataBits F f.e e.e) = some r →
        SameMemory (s1.writePieces s1.myParty false (leBytes (F.width / 8) r.toNat) ps) t) ∧
      (op.2 F m (dataBits F f.c e.c) (dataBits F f.e e.e) = none → SameMemory s1 t) := by
  intro m
  obtain ⟨fn, hrun, hfn⟩ := intAtomics_run f s op hop
  have hlen : bs.length = F.width / 8 := by
    obtain ⟨s0, t, ps0, -, -, -, hlen, -⟩ := hr
    exact hlen
  have hvalue : fn F (leNat bs) (atomicArg F f.c e.c) (atomicArg F f.e e.e) =
      ((op.2 F m (dataBits F f.c e.c) (dataBits F f.e e.e)).map BitVec.toNat, 0) := by
    rw [atomicArg_eq, atomicArg_eq, ← toNat_location hlen]
    exact hfn F m _ _
  have hmem := atomicEnd_memory (f := f) (F := F) (ps := ps) (bs := bs) (atomicReads_inUse (inUse_of_headTakes h) hr) (op := fn)
    (quiet := decide (0xB0 ≤ atomicCode (op.1 f))) (c := atomicArg F f.c e.c) (c2 := atomicArg F f.e e.e)
  rw [hvalue] at hmem
  have hbody := atomicBody_reads (op := fn) (opc := atomicCode (op.1 f)) (quiet := decide (0xB0 ≤ atomicCode (op.1 f))) hF hr
  rw [hvalue, extInt_eq, ite_self] at hbody
  refine ⟨_, hrun.trans (runQueue_done h hbody), fun r hnew => ?_, fun hnew => ?_⟩
  · rw [hnew] at hmem
    exact hmem
  · rw [hnew] at hmem
    exact hmem

theorem float_atomic {op : (Fields → Instr) × Bool} (hop : op ∈ floatAtomics) (hF : fieldFmt f = some F)
    (h : headTakes (op.1 f) f q sp e s = true) (hr : AtomicReads f e F s s1 ps bs) :
    let a := F.value (leNat bs)
    let b := F.value (dataBits F f.c e.c).toNat
    let r := deliverFloat F .rne [a, b] (XReal.add false a b)
    ∃ t : State, exec (op.1 f) s = .next (t.perform q f sp .reply e [ext F (BitVec.ofNat F.width (leNat bs))] (if op.2 then 0 else r.2)) ∧
      SameMemory (s1.writePieces s1.myParty false (leBytes (F.width / 8) r.1) ps) t := by
  intro a b r
  obtain ⟨opc, hrun⟩ := floatAtomics_run f s op hop
  have hvalue : newFadd F (leNat bs) (atomicArg F f.c e.c) (atomicArg F f.e e.e) = (some r.1, r.2) := by rw [atomicArg_eq F f.c]; rfl
  have hmem := atomicEnd_memory (f := f) (F := F) (ps := ps) (bs := bs) (atomicReads_inUse (inUse_of_headTakes h) hr) (op := newFadd)
    (quiet := op.2) (c := atomicArg F f.c e.c) (c2 := atomicArg F f.e e.e)
  rw [hvalue] at hmem
  have hbody := atomicBody_reads (op := newFadd) (opc := opc) (quiet := op.2) hF hr
  rw [hvalue, extInt_eq] at hbody
  exact ⟨_, hrun.trans (runQueue_done h hbody), hmem⟩
end

/-- Settles O21: each atomic ends with the write of its operation's value, as its roles touch no memory; at another device it sends its
message and takes the free value. -/
theorem atomicResults : Obligations.AtomicResults := by
  refine ⟨fun op hop f q sp e s s1 F ps bs hF h hr => integer_atomic hop hF h hr,
    fun op hop f q sp e s s1 F ps bs hF h hr => float_atomic hop hF h hr,
    fun op hop f q sp e s s0 F ps pos off n hF h hp hremote => ?_⟩
  intro code v u m hclean w t
  obtain ⟨fn, hrun, hfn⟩ := intAtomics_run f s op hop
  have hbody := atomicBody_remote (n := n) hfn code (decide (0xB0 ≤ code)) hF hp hremote (hclean.imp_left decide_eq_true)
  exact hrun.trans (runQueue_done h hbody)

end Sys2Proof.Proofs.AtomicOperations
end

section
/-! SUPPORT. What it means that a result carries only states in canonical form (log 5, DESIGN CHOICE), by the kind of the result. -/
namespace Sys2Proof.Machine
/-- The canonical form speaks of seven parts of the state. -/
def PartsWf (dev host pool : Memory) (l2 hostL2 poolL2 : Tab (BitVec 512)) (cores : Tab Core) : Prop :=
  dev.wf = true ∧ host.wf = true ∧ pool.wf = true ∧ tabWf l2 = true ∧ tabWf hostL2 = true ∧ tabWf poolL2 = true ∧
  tabWf cores = true
theorem MemOk.parts {s : State} (h : MemOk s) : PartsWf s.dev s.host s.pool s.l2 s.hostL2 s.poolL2 s.cores := h
theorem memOk_of_parts {s : State} (h : PartsWf s.dev s.host s.pool s.l2 s.hostL2 s.poolL2 s.cores) : MemOk s := h
end Sys2Proof.Machine
namespace Sys2Proof.Proofs.CanonicalForm
open Sys2Proof Sys2Proof.Machine

/-- The next state, where there is one, is in canonical form. -/
def OutOk : Out → Prop
  | .next t => MemOk t
  | _ => True
/-- The state that a queue's instruction leaves, performed or trapped, is in canonical form. -/
def QOk : QRes → Prop
  | .done t _ _ => MemOk t
  | .trap t _ _ _ => MemOk t
  | _ => True
/-- The state after a packet has been placed is in canonical form. -/
def PlacedOk : Placed → Prop
  | .done t => MemOk t
  | _ => True
/-- The state after a fetch is in canonical form. -/
def FetchedOk : Fetched → Prop
  | .ok t _ => MemOk t
  | _ => True
/-- What the option holds has the property. -/
def OptOk {α : Type} (p : α → Prop) : Option α → Prop
  | some a => p a
  | none => True
/-- The result, where there is no error, has the property. -/
def ExcOk {ε α : Type} (p : α → Prop) : Except ε α → Prop
  | .ok a => p a
  | .error _ => True

/-- The state that a front instruction's body leaves is in canonical form. -/
def FOk : FRes → Prop
  | .done t _ _ => MemOk t
  | _ => True

theorem outOk_of_eq {o : Out} {t : State} (h : OutOk o) (e : o = .next t) : MemOk t := by rw [e] at h; exact h
theorem done_of_eq {r : QRes} {t : State} {v : List Word} {fl : Flags} (h : QOk r) (e : r = .done t v fl) : MemOk t := by rw [e] at h; exact h
theorem trap_of_eq {r : QRes} {t : State} {c : TrapCode} {x y : Nat} (h : QOk r) (e : r = .trap t c x y) : MemOk t := by rw [e] at h; exact h
theorem front_of_eq {r : FRes} {t : State} {w : List (Dst × Word)} {fl : Flags} (h : FOk r) (e : r = .done t w fl) : MemOk t := by
  rw [e] at h; exact h
theorem placed_of_eq {r : Placed} {t : State} (h : PlacedOk r) (e : r = .done t) : MemOk t := by rw [e] at h; exact h
theorem fetched_of_eq {r : Fetched} {t : State} {l : BitVec 512} (h : FetchedOk r) (e : r = .ok t l) : MemOk t := by rw [e] at h; exact h
theorem pair_of_eq {ε α : Type} {r : Except ε (State × α)} {t : State} {a : α} (h : ExcOk (fun x => MemOk x.1) r)
    (e : r = .ok (t, a)) : MemOk t := by
  rw [e] at h; exact h
theorem optOk_of_eq {α : Type} {p : α → Prop} {o : Option α} {a : α} (h : OptOk p o) (e : o = some a) : p a := by rw [e] at h; exact h
theorem excOk_of_eq {ε α : Type} {p : α → Prop} {r : Except ε α} {a : α} (h : ExcOk p r) (e : r = .ok a) : p a := by
  rw [e] at h; exact h
theorem fst_of_eq {α : Type} {r : State × α} {t : State} {a : α} (h : MemOk r.1) (e : r = (t, a)) : MemOk t := by rw [e] at h; exact h
theorem both_of_eq {α : Type} {p : α → Prop} {r : State × α} {t : State} {a : α} (h : MemOk r.1 ∧ p r.2) (e : r = (t, a)) :
    MemOk t ∧ p a := by
  rw [e] at h; exact h
theorem snd_of_eq {α : Type} {r : α × State} {t : State} {a : α} (h : MemOk r.2) (e : r = (a, t)) : MemOk t := by rw [e] at h; exact h

/-- A fold over a state and something else keeps what each of its steps keeps. -/
theorem foldl_fst_memOk {α β : Type} (l : List α) (g : State × β → α → State × β) (h : ∀ r x, MemOk r.1 → MemOk (g r x).1)
    {r : State × β} (hr : MemOk r.1) : MemOk (l.foldl g r).1 := by
  induction l generalizing r with
  | nil => exact hr
  | cons a l ih => exact ih (h r a hr)
theorem findSome_memOk {α : Type} {l : List α} {g : α → Option State} (h : ∀ x, OptOk MemOk (g x)) : OptOk MemOk (l.findSome? g) := by
  induction l with
  | nil => exact trivial
  | cons a l ih =>
    have ha := h a
    rw [List.findSome?_cons]
    generalize g a = o at ha ⊢
    cases o with
    | none => exact ih
    | some t => exact ha
theorem optMap_memOk {o : Option State} {g : State → State} (ho : OptOk MemOk o) (hg : ∀ t, MemOk t → MemOk (g t)) :
    OptOk MemOk (o.map g) := by
  cases o with
  | none => exact trivial
  | some t => exact hg t ho
theorem orElse_memOk {o : Option State} {g : Unit → Option State} (ho : OptOk MemOk o) (hg : OptOk MemOk (g ())) :
    OptOk MemOk (o.orElse g) := by
  cases o with
  | none => exact hg
  | some t => exact ho
theorem getD_memOk {o : Option State} {s : State} (ho : OptOk MemOk o) (hs : MemOk s) : MemOk (o.getD s) := by
  cases o with
  | none => exact hs
  | some t => exact ho

end Sys2Proof.Proofs.CanonicalForm
end

section
/-! SUPPORT. Memories in canonical form (log 5, DESIGN CHOICE): every operation of a strand and every instruction below the engines keeps
the canonical form. -/
namespace Sys2Proof.Proofs.CanonicalForm
open Sys2Proof Sys2Proof.Machine

section
variable {s : State} (hs : MemOk s)
include hs

/-! ### Links between devices -/

theorem setPort_memOk {p : Port} {x : PortState} : MemOk (s.setPort p x) := by
  unfold State.setPort
  split <;> exact hs
theorem drain_memOk {p : Port} {nak : Bool} {fuel : Nat} : MemOk (s.drain p nak fuel) := by
  obtain ⟨e, w, o, h⟩ := drain_sends s p nak fuel
  rw [h]
  exact hs
theorem sendSlots_memOk {p : Port} {l : List RingSlot} : MemOk (s.sendSlots p l) := drain_memOk (setPort_memOk hs)
theorem sendMessage_memOk {dst : Nat} {m : Config.RingMsg} : MemOk (s.sendMessage dst m) := sendSlots_memOk hs
theorem sendNext_memOk {p : Port} {m : Config.RingMsg} : MemOk (s.sendNext p m) := sendSlots_memOk hs
theorem sendTime_memOk {p : Port} {t : Nat} : MemOk (s.sendTime p t) := sendSlots_memOk hs
theorem sendGroup_memOk {mask : BitVec 8} {m : Config.RingMsg} : MemOk (s.sendGroup mask m) := by
  unfold State.sendGroup
  split
  · exact hs
  · exact foldl_memOk _ _ (fun _ _ h => sendMessage_memOk h) hs
theorem takeFresh_memOk : MemOk s.takeFresh := hs
theorem resend_memOk {p : Port} : MemOk (s.resend p) := hs
theorem takeAck_memOk {p : Port} {d : BitVec 2048} : MemOk (s.takeAck p d) := by
  unfold State.takeAck
  dsimp only
  refine drain_memOk ?_
  split
  · exact resend_memOk (setPort_memOk hs)
  · exact setPort_memOk hs
theorem sendNak_memOk {p : Port} : MemOk (s.sendNak p) := drain_memOk (setPort_memOk hs)

/-! ### Physical memory -/

theorem cleanHome_memOk {key : Nat} : MemOk (s.cleanHome key) := hs
theorem dropUncoded_memOk : MemOk s.dropUncoded :=
  mapEach_memOk (s := { s with ubits := s.ubits.filter (fun u => codeLine s.execMaps u.line) }) hs
    (fun x => { x.2 with icache := x.2.icache.filter (fun k => codeLine s.execMaps k.1) })

/-! ### Translation -/

theorem noteWalk_memOk {pasid : BitVec 20} {va : Word} : MemOk (s.noteWalk pasid va) := by
  unfold State.noteWalk
  refine foldl_memOk _ _ (fun _ _ h => ?_) hs
  split
  · exact foldl_memOk _ _ (fun _ _ h1 => noteUnit_memOk h1 _ _) h
  · exact h

/-! ### Operations on the state -/

theorem releaseReg_memOk {off : Nat} : MemOk (s.releaseReg off) := hs
theorem postHold_memOk {i : FaultInfo} : MemOk (s.postHold i).2 := by
  unfold State.postHold
  split
  · exact postError_memOk hs _
  · exact postFault_memOk hs _
theorem saveTrapped_memOk {slot eng : Nat} : MemOk (s.saveTrapped slot eng) := by
  unfold State.saveTrapped
  dsimp only
  split
  · exact hs
  · split
    · split
      · exact hs
      · exact writeIl_memOk hs _ _ _ _
    · split
      · exact writeIl_memOk hs _ _ _ _
      · split
        · exact writeIl_memOk hs _ _ _ _
        · exact hs
      · exact hs
theorem saveStop_memOk {slot : Nat} : MemOk (s.saveStop slot) := by
  unfold State.saveStop
  dsimp only
  split
  · exact hs
  · exact foldl_memOk _ _ (fun _ _ h => saveTrapped_memOk h) (writeIl_memOk hs _ _ _ _)
theorem finishTrap_memOk {slot : Nat} : MemOk (s.finishTrap slot) := by
  unfold State.finishTrap
  dsimp only
  split
  · exact hs
  · split
    · exact hs
    · split
      · exact setStrand_memOk (postFault_memOk hs _) _ _
      · split
        · exact hs
        · exact setStrand_memOk (saveStop_memOk (setStrand_memOk (postFault_memOk hs _) _ _)) _ _
theorem raiseTrap_memOk {slot : Nat} {r0 : TrapRec} : MemOk (s.raiseTrap slot r0) := by
  unfold State.raiseTrap
  extract_lets t r secondary __src
  have hsecondary : MemOk secondary := setStrand_memOk (postFault_memOk hs _) _ _
  split
  · split
    · exact setStrand_memOk hs _ _
    · exact hsecondary
  · split
    · split
      · exact hsecondary
      · exact setStrand_memOk hs _ _
    · split
      · split
        · exact hsecondary
        · exact saveTrapped_memOk hsecondary
      · split
        · exact hsecondary
        · split
          · exact hs
          · exact setStrand_memOk hs _ _
theorem decodeTrap_memOk {code : TrapCode} {opnd : Nat} {subc : optParam Nat 0} : MemOk
    (s.decodeTrap code opnd subc) := raiseTrap_memOk hs
theorem eretResume_memOk {slot : Nat} {b c : Word} : MemOk (s.eretResume slot b c) :=
  mapQuads_memOk (modCore_memOk (setStrand_memOk hs _ _) _ _) _
theorem gains_memOk {c : Clock} : MemOk (s.gains c) := modStrand_memOk hs _ _
theorem putRel_memOk {keys : List Nat} {r : Machine.Rel} : MemOk (s.putRel keys r) := hs
theorem releaseAs_memOk {keys : List Nat} {scp tag size : Nat} : MemOk (s.releaseAs keys scp tag size) := putRel_memOk hs
theorem releaseAt_memOk {keys : List Nat} {scp : Nat} : MemOk (s.releaseAt keys scp) := releaseAs_memOk hs
theorem dropRels_memOk {key : Nat} {gone : Nat → Bool} : MemOk (s.dropRels key gone) := hs
theorem mixRels_memOk {party : Party} {keys : List Nat} {t : Tab (List Machine.Rel)} : MemOk (s.mixRels party keys t) := hs
theorem orderQueues_memOk {scp : Nat} {toS toAtom toL : Bool} : MemOk (s.orderQueues scp toS toAtom toL) := modStrand_memOk hs _ _
theorem endWfe_memOk {slot : Nat} {v : Bool} : MemOk (s.endWfe slot v) := by
  unfold State.endWfe
  dsimp only
  split
  · exact hs
  · exact setStrand_memOk hs _ _
theorem setEvent_memOk {slot : Nat} : MemOk (s.setEvent slot) := by
  unfold State.setEvent
  split
  · exact endWfe_memOk hs
  · exact modStrand_memOk hs _ _
theorem setCauseBit_memOk {slot bit : Nat} : MemOk (s.setCauseBit slot bit) := modStrand_memOk hs _ _

/-! ### Operands -/

theorem takeWords_memOk {core : Nat} {ws : List Nat} : MemOk (s.takeWords core ws) := modCore_memOk hs _ _
theorem takeLm_memOk {core off n : Nat} : MemOk (s.takeLm core off n) := takeWords_memOk hs
theorem takePieces_memOk {ps : List Piece} : MemOk (s.takePieces ps) := by
  unfold State.takePieces
  refine foldl_memOk _ _ (fun _ _ h => ?_) hs
  split
  · exact takeLm_memOk h
  · exact h
theorem settleLate_memOk {slot : Nat} {hit : LateWrite → Bool} : MemOk (s.settleLate slot hit) := by
  unfold State.settleLate
  dsimp only
  split
  · exact hs
  · exact setStrand_memOk (foldl_memOk _ _ (fun _ _ h => writePieces_memOk h _ _ _ _) hs) _ _
theorem settleLoads_memOk {slot : Nat} {hit : List Piece → Bool} : MemOk (s.settleLoads slot hit) := by
  unfold State.settleLoads
  dsimp only
  split
  · exact setStrand_memOk hs _ _
  · exact hs
theorem settleAll_memOk : MemOk s.settleAll := foldl_memOk _ _ (fun _ _ h => settleLoads_memOk (settleLate_memOk h)) hs
theorem flushLate_memOk : MemOk s.flushLate := settleLate_memOk hs
theorem flushFor_memOk {ps : List Piece} : MemOk (s.flushFor ps) := settleLate_memOk hs
theorem bindFor_memOk {ps : List Piece} : MemOk (s.bindFor ps) := settleLoads_memOk hs
theorem store_memOk {bs : List Byte} {ps : List Piece} : MemOk (s.store bs ps) := by
  unfold State.store
  dsimp only
  split
  · exact modStrand_memOk (flushFor_memOk hs) _ _
  · exact writePieces_memOk (flushFor_memOk hs) _ _ _ _
theorem mayRebind_memOk {k : Nat} {x : Fmt} {ps : List Piece} : MemOk (s.mayRebind k x ps) := by
  unfold State.mayRebind
  split
  · exact modStrand_memOk hs _ _
  · exact hs
theorem keepTile_memOk {slot : Nat} {sys : Bool} {h : Nat} {e : BitVec 512} {x : Coord} : MemOk (s.keepTile slot sys h e x) := by
  unfold State.keepTile
  dsimp only
  split
  · exact hs
  · split
    · exact hs
    · split
      · exact hs
      · exact setQuad_memOk hs _ _
theorem elemRead_memOk {core bits : Nat} {p : ElemAt} : MemOk (s.elemRead core bits p).1.s := readPieces_memOk hs _ _
theorem elemWrite_memOk {core : Nat} {party : Party} {bits : Nat} {p : ElemAt} {v : Nat} : MemOk (s.elemWrite core party bits p v) :=
  writePieces_memOk hs _ _ _ _

/-! ### Issue -/

theorem readHandle_memOk {slot h : Nat} : ExcOk (fun x => MemOk x.1) (s.readHandle slot h) := by
  unfold State.readHandle
  dsimp only
  split
  · exact trivial
  · split
    · exact trivial
    · split
      · split
        · exact hs
        · exact takeFresh_memOk (readPieces_memOk hs _ _)
      · exact modCore_memOk (takeFresh_memOk (readPieces_memOk hs _ _)) _ _
theorem readHandles_memOk {slot : Nat} {l : List (Nat × Nat)} : ExcOk (fun x => MemOk x.1) (s.readHandles slot l) := by
  induction l generalizing s with
  | nil => exact hs
  | cons h r ih =>
    unfold State.readHandles
    split
    · exact trivial
    next t x e =>
      have ht : MemOk t := pair_of_eq (readHandle_memOk hs) e
      split
      · exact trivial
      next u l e1 => exact pair_of_eq (ih ht) e1
theorem readConst_memOk {slot : Nat} {cwb : Tab Word} {f : Fmt} {w o : Nat} : ExcOk (fun x => MemOk x.1)
    (s.readConst slot cwb f w o) := by
  unfold State.readConst
  dsimp only
  split
  · exact trivial
  · split
    · exact trivial
    · split
      · exact trivial
      · exact readPieces_memOk hs _ _
theorem frontValue_memOk {f : Option Fmt} {k : Nat} {o : Operand} : ExcOk (fun x => MemOk x.1) (s.frontValue f k o) := by
  unfold State.frontValue
  dsimp only
  split
  · exact hs
  · split
    · exact trivial
    next e => exact pair_of_eq (readConst_memOk hs) e
  · exact hs
theorem frontValues_memOk {f : Option Fmt} {x : Fields} : ExcOk (fun x => MemOk x.1) (s.frontValues f x) := by
  unfold State.frontValues
  split
  · exact trivial
  next t _ e =>
    have ht : MemOk t := pair_of_eq (frontValue_memOk hs) e
    split
    · exact trivial
    next t1 _ e1 =>
      have ht1 : MemOk t1 := pair_of_eq (frontValue_memOk ht) e1
      split
      · exact trivial
      next e2 => exact pair_of_eq (frontValue_memOk ht1) e2
theorem openWindow_memOk {pos : Word} {stream : Option Queue} {ring seq bound : Nat} {tk : BitVec 4} {w : List (Dst × Word)}
    {flags : Flags} :
    MemOk (s.openWindow pos stream ring seq bound tk w flags) :=
  setMe_memOk hs _
theorem decodeBad_memOk {b : Bad} {opnd : Nat} : MemOk (s.decodeBad b opnd) := by
  unfold State.decodeBad
  split
  · exact decodeTrap_memOk hs
  · exact decodeTrap_memOk hs
  · exact hs
theorem runFront_memOk {i : Instr} {f : Fields} {fmt : Option Fmt} {body : Vals → State → FRes}
    (hbody : ∀ (x : Vals) (t : State), MemOk t → FOk (body x t)) :
    OutOk (runFront i f fmt body s) := by
  unfold runFront
  dsimp only
  split
  · exact trivial
  · split
    · exact hs
    · split
      · exact decodeTrap_memOk hs
      · exact setMe_memOk hs _
      · exact hs
      · split
        · exact decodeBad_memOk hs
        next t _ e =>
          have ht : MemOk t := pair_of_eq (frontValues_memOk hs) e
          split
          · exact raiseTrap_memOk ht
          · exact setMe_memOk ht _
          next t1 _ _ e1 =>
            have ht1 : MemOk t1 := front_of_eq (hbody _ _ (setMe_memOk ht _)) e1
            split
            · exact ht1
            · exact openWindow_memOk ht1
theorem enterQueue_memOk {i : Instr} {f : Fields} : OutOk (enterQueue i f s) := by
  unfold enterQueue
  dsimp only
  split
  · exact trivial
  · split
    · exact hs
    · split
      · exact decodeTrap_memOk hs
      · exact setMe_memOk hs _
      · exact hs
      · split
        · exact decodeBad_memOk hs
        next t _ e =>
          have ht : MemOk t := pair_of_eq (readHandles_memOk hs) e
          exact setMe_memOk ht _
theorem res_memOk {b : Bad} {opnd hdl : Nat} : QOk (b.res s opnd hdl) := by
  unfold Bad.res
  split
  · exact hs
  · exact trivial
  · exact trivial
theorem queueTrap_memOk {q : Queue} {e : QEntry} {code : TrapCode} {opnd subc : Nat} {word : Option (BitVec 32)} :
    MemOk (s.queueTrap q e code opnd subc word) :=
  raiseTrap_memOk (setMe_memOk (takeFresh_memOk hs) _)
theorem settleAs_memOk {eng behind slot : Nat} {q : Queue} {tk : BitVec 4} {clk : Clock} {flags : Flags} {pos : Word} {ring : Nat} :
    MemOk (s.settleAs eng behind slot q tk clk flags pos ring) := by
  unfold State.settleAs
  dsimp only
  split
  · exact raiseTrap_memOk (setStrand_memOk hs _ _)
  · exact setStrand_memOk hs _ _
theorem settle_memOk {slot : Nat} {q : Option Queue} {tk : BitVec 4} {clk : Clock} {flags : Flags} {pos : Word} {ring : Nat} :
    MemOk (s.settle slot q tk clk flags pos ring) := by
  unfold State.settle
  split
  · exact setStrand_memOk hs _ _
  · exact settleAs_memOk hs
omit hs in
theorem perform_memOk {s0 : State} {q : Queue} {f : Fields} {sp : ISpec} {ack0 : Ack} {e : QEntry} {vals : List Word} {flags : Flags}
    (hs0 : MemOk s0) :
    MemOk (s0.perform q f sp ack0 e vals flags) := by
  unfold State.perform
  dsimp only
  split
  · exact setMe_memOk (takeFresh_memOk hs0) _
  · exact setMe_memOk (takeFresh_memOk hs0) _
  · exact setMe_memOk (takeFresh_memOk hs0) _
  · split
    · exact settle_memOk (setMe_memOk (takeFresh_memOk hs0) _)
    · exact setMe_memOk (takeFresh_memOk hs0) _
    · exact setMe_memOk (takeFresh_memOk hs0) _
theorem holdHead_memOk {q : Queue} {e : QEntry} {kind : FaultKind} {code : TrapCode} {va : Word} {acc hdl : Nat} :
    MemOk (s.holdHead q e kind code va acc hdl) := by
  unfold State.holdHead
  dsimp only
  split
  · exact hs
  · exact memOk_of_parts (by dsimp only; exact (setMe_memOk (postHold_memOk hs) _).parts)
theorem runQueue_memOk {i : Instr} {f : Fields} {ack : Ack} {body : QEntry → State → QRes}
    (hbody : ∀ (x : QEntry) (t : State), MemOk t → QOk (body x t)) :
    OutOk (runQueue i f ack body s) := by
  unfold runQueue
  split
  · exact enterQueue_memOk hs
  · split
    · split
      · exact hs
      · split
        · split
          next t _ _ e =>
            have ht : MemOk t := done_of_eq (hbody _ _ hs) e
            exact perform_memOk ht
          next t _ _ _ e =>
            have ht : MemOk t := trap_of_eq (hbody _ _ hs) e
            exact queueTrap_memOk ht
          · exact setMe_memOk hs _
          · exact setMe_memOk hs _
          · exact setMe_memOk hs _
          · exact holdHead_memOk hs
        · exact queueTrap_memOk hs
    · exact hs

/-! ### Memory instructions -/

theorem withPlace_memOk {va : Word} {n align : Nat} {acc : Machine.Acc} {k : List Piece → State → QRes}
    (hk : ∀ (x : List Piece) (t : State), MemOk t → QOk (k x t)) :
    QOk (withPlace s va n align acc k) := by
  unfold withPlace
  split
  · exact res_memOk hs
  · exact hk _ _ (tlbFill_memOk hs _ _ _)
theorem withBytes_memOk {ps : List Piece} {k : List Byte → State → QRes} (hk : ∀ (x : List Byte) (t : State), MemOk t → QOk (k x t)) :
    QOk (withBytes s ps k) := by
  unfold withBytes
  dsimp only
  split
  · exact readPieces_memOk hs _ _
  · exact hk _ _ (readPieces_memOk hs _ _)
theorem ldsBody_memOk {f : Fields} {e : QEntry} : QOk (ldsBody f e s) := by
  unfold ldsBody
  dsimp only
  exact withPlace_memOk hs (fun _ _ h => withBytes_memOk (bindFor_memOk h) (fun _ _ h1 => mayRebind_memOk h1))
theorem stsBody_memOk {f : Fields} {e : QEntry} : QOk (stsBody f e s) := by
  unfold stsBody
  dsimp only
  exact withPlace_memOk hs (fun _ _ h => store_memOk h)
theorem ldqBody_memOk {f : Fields} {e : QEntry} : QOk (ldqBody f e s) := by
  unfold ldqBody
  dsimp only
  refine withPlace_memOk hs (fun _ _ h => ?_)
  refine withBytes_memOk (bindFor_memOk h) (fun _ _ h1 => ?_)
  split
  · exact h1
  · exact mayRebind_memOk (mayRebind_memOk h1)
theorem stqBody_memOk {f : Fields} {e : QEntry} : QOk (stqBody f e s) := by
  unfold stqBody
  dsimp only
  refine withPlace_memOk hs (fun _ _ h => ?_)
  split
  · exact store_memOk h
  · exact store_memOk (store_memOk h)
theorem takeRegions_memOk {core key : Nat} : MemOk (s.takeRegions core key) := by
  unfold State.takeRegions
  dsimp only
  split
  · exact hs
  · exact modCore_memOk hs _ _
theorem raiseKnown_memOk : MemOk s.raiseKnown := modCore_memOk hs _ _
theorem acquireOf_memOk {keys : List Nat} {scp : Nat} {ok : Nat → Bool} : MemOk (s.acquireOf keys scp ok) := by
  unfold State.acquireOf
  split
  · exact hs
  · exact raiseKnown_memOk (gains_memOk hs)
theorem acquireAt_memOk {keys : List Nat} {scp : Nat} : MemOk (s.acquireAt keys scp) := acquireOf_memOk hs
theorem ldaBody_memOk {f : Fields} {e : QEntry} : QOk (ldaBody f e s) := by
  unfold ldaBody
  dsimp only
  exact withPlace_memOk hs (fun _ _ h => withBytes_memOk (bindFor_memOk h) (fun _ _ h1 => acquireAt_memOk h1))
theorem strelBody_memOk {f : Fields} {e : QEntry} : QOk (strelBody f e s) := by
  unfold strelBody
  dsimp only
  exact withPlace_memOk hs (fun _ _ h => releaseAt_memOk (writePieces_memOk (flushLate_memOk h) _ _ _ _))
theorem ldbRefetch_memOk {x : Fmt} {sp : MemSpace} {off n core key : Nat} {k : BitVec 32} : QOk (ldbRefetch x sp off n core key k s) := by
  unfold ldbRefetch
  dsimp only
  split
  · exact readMem_memOk (cxlRead_memOk hs _ _ _ _) _ _ _
  · exact modCore_memOk (modCore_memOk (readMem_memOk (cxlRead_memOk hs _ _ _ _) _ _ _) _ _) _ _
theorem ldbBody_memOk {f : Fields} {e : QEntry} : QOk (ldbBody f e s) := by
  unfold ldbBody
  refine withPlace_memOk hs (fun _ _ h => ?_)
  extract_lets s1 s2 pol core
  have hs1 : MemOk s1 := bindFor_memOk h
  have hs2 : MemOk s2 := by
    unfold s2
    split
    · exact hs1
    · exact takeRegions_memOk hs1
  dsimp only
  split
  · split
    · exact withBytes_memOk hs2 (fun _ _ h1 => h1)
    · split
      · split
        · exact modCore_memOk hs2 _ _
        · split
          · exact trivial
          · exact ldbRefetch_memOk hs2
      · split
        · exact withBytes_memOk hs2 (fun _ _ h1 => h1)
        · exact ldbRefetch_memOk hs2
  · exact withBytes_memOk hs2 (fun _ _ h1 => h1)
theorem radvBody_memOk {f : Fields} {e : QEntry} : QOk (radvBody f e s) := by
  unfold radvBody
  extract_lets key
  clear_value key
  split
  · exact hs
  · split
    · exact res_memOk hs
    · refine withBytes_memOk (takeRegions_memOk hs) (fun _ _ h => ?_)
      dsimp only
      split
      · exact h
      · split
        · exact res_memOk h
        · exact releaseAt_memOk (writePieces_memOk (flushLate_memOk h) _ _ _ _)
theorem execRadvMessage_memOk {core region : Nat} : OutOk (execRadvMessage core region s) := by
  unfold execRadvMessage
  dsimp only
  split
  · exact trivial
  · split
    · exact modCore_memOk hs _ _
    · exact hs
theorem execPushMarker_memOk {core region : Nat} {round : BitVec 32} : OutOk (execPushMarker core region round s) := by
  unfold execPushMarker
  dsimp only
  split
  · exact trivial
  · split
    · exact hs
    · split
      · exact hs
      · exact modCore_memOk (modCore_memOk hs _ _) _ _
theorem readElems_memOk {bits : Nat} {ps : List ElemAt} : MemOk (s.readElems bits ps).1.s := by
  induction ps generalizing s with
  | nil => exact hs
  | cons p r ih =>
    unfold State.readElems
    exact ih (elemRead_memOk hs)
theorem writeElems_memOk {bits : Nat} {ps : List (ElemAt × Nat)} : MemOk (s.writeElems bits ps) := by
  induction ps generalizing s with
  | nil => exact hs
  | cons p r ih =>
    unfold State.writeElems
    refine ih ?_
    split
    · exact store_memOk hs
    · exact elemWrite_memOk (flushFor_memOk hs)
theorem fillElems_memOk {h : Nat} {e : BitVec 512} {xs : List Coord} : MemOk (s.fillElems h e xs) := by
  unfold State.fillElems
  dsimp only
  split
  · exact hs
  · exact foldl_memOk _ _ (fun _ _ h1 => keepTile_memOk (tlbFill_memOk h1 _ _ _)) hs
theorem takeTile_memOk {ws : List Nat} : MemOk (s.takeTile ws) := by
  unfold State.takeTile
  split
  · exact hs
  · exact takeWords_memOk hs
theorem loadTile_memOk {f : Fields} {e : QEntry} {perElem : Bool} {coord : Nat → Nat → Coord} : QOk (s.loadTile f e perElem coord) := by
  unfold State.loadTile
  dsimp only
  split
  · exact res_memOk hs
  · split
    · exact trivial
    · split
      · exact readElems_memOk (bindFor_memOk (takeTile_memOk (fillElems_memOk hs)))
      · split
        · exact writeTile_memOk (readElems_memOk (bindFor_memOk (takeTile_memOk (fillElems_memOk hs)))) _ _ _ _
        · exact readElems_memOk (bindFor_memOk (takeTile_memOk (fillElems_memOk hs)))
theorem healWords_memOk {bits : Nat} {ps : List ElemAt} : MemOk (s.healWords bits ps) :=
  foldl_memOk _ _ (fun _ _ h => modCore_memOk h _ _) hs
theorem storeTile_memOk {f : Fields} {e : QEntry} {perElem : Bool} {coord : Nat → Nat → Coord} : QOk (s.storeTile f e perElem coord) := by
  unfold State.storeTile
  dsimp only
  split
  · exact res_memOk hs
  · split
    · exact trivial
    · exact healWords_memOk (writeElems_memOk (takeTile_memOk (fillElems_memOk hs)))
theorem execPoisonclr_memOk {f : Fields} : OutOk (execPoisonclr f s) :=
  runQueue_memOk hs (fun _ _ h => withPlace_memOk h (fun _ _ h1 => releaseAt_memOk (writePieces_memOk (flushLate_memOk h1) _ _ _ _)))

/-! ### Atomics -/

theorem settleBl_memOk {x0 : List Piece} : MemOk (s.settleBl x0) := by
  unfold State.settleBl
  split
  · exact flushDev_memOk hs _
  · exact hs
theorem remoteAtomic_memOk {op : Fmt → Nat → Nat → Nat → Option Nat × Flags} {quiet : Bool} {f : Fields} {e : QEntry}
    {opc pos off n c c2 : Nat} :
    QOk (remoteAtomic op quiet f e opc pos off n c c2 s) := by
  unfold remoteAtomic
  extract_lets x m keys s1 merges s2
  have hs1 : MemOk s1 := by
    unfold s1
    split
    · exact acquireAt_memOk hs
    · exact hs
  have hs2 : MemOk s2 := askWindow_memOk hs1 _ _
  dsimp only
  split
  · exact hs2
  · split
    · exact releaseAt_memOk hs2
    · exact hs2
theorem writeAtomic_memOk {party : Party} {reduction : Bool} {bs : List Byte} {ps : List Piece} :
    MemOk (s.writeAtomic party reduction bs ps) := by
  unfold State.writeAtomic
  dsimp only
  split
  · exact writePieces_memOk hs _ _ _ _
  · exact mixRels_memOk (writePieces_memOk hs _ _ _ _)
theorem addAt_memOk {core : Nat} {party : Party} {v : Nat} {ps : List Piece} : MemOk (s.addAt core party v ps) := by
  unfold State.addAt
  dsimp only
  split
  · exact askWindow_memOk hs _ _
  · exact writeAtomic_memOk (readPieces_memOk hs _ _)
theorem atomicBody_memOk {op : Fmt → Nat → Nat → Nat → Option Nat × Flags} {opc : Nat} {quiet : Bool} {f : Fields} {e : QEntry} :
    QOk (atomicBody op opc quiet f e s) := by
  unfold atomicBody
  dsimp only
  refine withPlace_memOk hs (fun _ _ h => ?_)
  split
  · refine remoteAtomic_memOk ?_
    split
    · exact flushLate_memOk h
    · exact flushFor_memOk h
  · refine withBytes_memOk ?_ (fun _ _ h1 => ?_)
    · refine settleBl_memOk ?_
      split
      · exact flushLate_memOk h
      · exact flushFor_memOk h
    · split
      · refine releaseAt_memOk ?_
        split
        · refine writeAtomic_memOk ?_
          split
          · exact acquireAt_memOk h1
          · exact h1
        · split
          · exact acquireAt_memOk h1
          · exact h1
      · split
        · refine writeAtomic_memOk ?_
          split
          · exact acquireAt_memOk h1
          · exact h1
        · split
          · exact acquireAt_memOk h1
          · exact h1

/-! ### Result descriptors -/

theorem writeRd_memOk {slot : Nat} : ExcOk MemOk (s.writeRd slot) := by
  unfold State.writeRd
  split
  · exact trivial
  · exact writePieces_memOk hs _ _ _ _
theorem countEnd_memOk {slot : Nat} : MemOk (s.countEnd slot) := hs
theorem rdDropped_memOk {slot : Nat} : MemOk (s.rdDropped slot) := hs
theorem finalRd_memOk {slot : Nat} : MemOk (s.finalRd slot) := by
  unfold State.finalRd
  dsimp only
  split
  next t e =>
    have ht : MemOk t := excOk_of_eq (writeRd_memOk hs) e
    exact modStrand_memOk ht _ _
  · split
    · exact modStrand_memOk hs _ _
    · exact memOk_of_parts (by dsimp only; exact (setStrand_memOk (postHold_memOk hs) _ _).parts)
  · exact modStrand_memOk hs _ _
  · exact rdDropped_memOk (modStrand_memOk hs _ _)
theorem resultRetry_memOk {slot : Nat} : OptOk MemOk (resultRetry? slot s) := by
  unfold resultRetry?
  split
  · exact trivial
  · split
    · exact trivial
    · exact finalRd_memOk hs

/-! ### Local-memory records -/

theorem withLm_memOk {f : Fields} {e : QEntry} {size align : Nat} {rd wr : Bool} {k : State → Nat → Nat → QRes}
    (hk : ∀ (t : State) (x y : Nat), MemOk t → QOk (k t x y)) :
    QOk (withLm f e size align rd wr s k) := by
  unfold withLm
  split
  · exact hk _ _ _ (takeLm_memOk hs)
  · exact trivial
  · exact hs
  · exact res_memOk hs
theorem noUe_memOk {core off n : Nat} {k : State → QRes} (hk : ∀ (t : State), MemOk t → QOk (k t)) : QOk (noUe s core off n k) := by
  unfold noUe
  split
  · exact noteLm_memOk hs _ _ _
  · exact hk _ (noteLm_memOk hs _ _ _)
theorem releaseRec_memOk {core off size scp tag : Nat} {gone : Nat → Bool} : MemOk (s.releaseRec core off size scp tag gone) :=
  releaseAs_memOk (dropRels_memOk (flushLate_memOk hs))
theorem acquireRec_memOk {core off scp : Nat} {ok gone : Nat → Bool} : MemOk (s.acquireRec core off scp ok gone) :=
  dropRels_memOk (acquireOf_memOk hs)
theorem ldfeBody_memOk {f : Fields} {e : QEntry} : QOk (ldfeBody f e s) := by
  unfold ldfeBody
  refine withLm_memOk hs (fun _ _ _ h => ?_)
  refine noUe_memOk h (fun _ h1 => ?_)
  split
  · exact acquireRec_memOk (setFull_memOk h1 _ _ _)
  · split
    · exact h1
    · exact trivial
theorem stffBody_memOk {f : Fields} {e : QEntry} : QOk (stffBody f e s) := by
  unfold stffBody
  refine withLm_memOk hs (fun _ _ _ h => ?_)
  refine noUe_memOk h (fun _ h1 => ?_)
  split
  · exact h1
  · exact releaseRec_memOk (setFull_memOk (lmPut_memOk h1 _ _ _ _) _ _ _)
theorem semwaitBody_memOk {f : Fields} {e : QEntry} : QOk (semwaitBody f e s) := by
  unfold semwaitBody
  dsimp only
  refine withLm_memOk hs (fun _ _ _ h => ?_)
  refine noUe_memOk h (fun _ h1 => ?_)
  split
  · exact acquireRec_memOk (lmPut_memOk h1 _ _ _ _)
  · exact trivial
theorem execSempost_memOk {f : Fields} : OutOk (execSempost f s) :=
  runQueue_memOk hs (fun _ _ h => withLm_memOk h (fun _ _ _ h1 => noUe_memOk h1 (fun _ h2 => releaseRec_memOk (lmPut_memOk h2 _ _ _ _))))
theorem withRing_memOk {f : Fields} {e : QEntry} {k : State → Nat → Nat → BitVec 512 → QRes}
    (hk : ∀ (t : State) (x y : Nat) (z : BitVec 512), MemOk t → QOk (k t x y z)) :
    QOk (withRing f e s k) := by
  unfold withRing
  dsimp only
  refine withLm_memOk hs (fun _ _ _ h => ?_)
  refine noUe_memOk h (fun _ h1 => ?_)
  split
  · exact h1
  · exact hk _ _ _ _ h1
theorem putRecord_memOk {core off n : Nat} {r : BitVec 512} : MemOk (s.putRecord core off n r) := lmPut_memOk hs _ _ _ _
theorem sracqBody_memOk {f : Fields} {e : QEntry} : QOk (sracqBody f e s) := by
  unfold sracqBody
  dsimp only
  refine withRing_memOk hs (fun _ _ _ _ h => ?_)
  split
  · exact trivial
  · exact acquireRec_memOk (putRecord_memOk h)
theorem srpubBody_memOk {f : Fields} {e : QEntry} : QOk (srpubBody f e s) := by
  unfold srpubBody
  dsimp only
  refine withRing_memOk hs (fun _ _ _ _ h => ?_)
  split
  · exact h
  · split
    · exact h
    · exact releaseRec_memOk (putRecord_memOk h)
theorem srtakeBody_memOk {f : Fields} {e : QEntry} : QOk (srtakeBody f e s) := by
  unfold srtakeBody
  dsimp only
  refine withRing_memOk hs (fun _ _ _ _ h => ?_)
  split
  · exact trivial
  · exact acquireRec_memOk (putRecord_memOk h)
theorem srrelBody_memOk {f : Fields} {e : QEntry} : QOk (srrelBody f e s) := by
  unfold srrelBody
  dsimp only
  refine withRing_memOk hs (fun _ _ _ _ h => ?_)
  split
  · exact h
  · split
    · exact h
    · exact releaseRec_memOk (putRecord_memOk h)
theorem withBarrier_memOk {f : Fields} {e : QEntry} {rd wr : Bool} {lo n : Nat} {k : State → Nat → Nat → BitVec 512 → QRes}
    (hk : ∀ (t : State) (core off : Nat) (r : BitVec 512), MemOk t → QOk (k t core off r)) : QOk (withBarrier f e rd wr lo n s k) :=
  withLm_memOk hs (fun _ _ _ h => noUe_memOk h (fun _ h1 => hk _ _ _ _ h1))
theorem putWords_memOk {core off : Nat} {r : BitVec 512} {ws : List Nat} : MemOk (s.putWords core off r ws) :=
  foldl_memOk _ _ (fun _ _ h => lmPut_memOk h _ _ _ _) hs
theorem barinitBody_memOk {f : Fields} {e : QEntry} : QOk (barinitBody f e s) := by
  unfold barinitBody
  dsimp only
  refine withBarrier_memOk hs (fun _ _ _ _ h => ?_)
  split
  · exact h
  · split
    · exact h
    · exact dropRels_memOk (putWords_memOk h)
theorem bararrBody_memOk {f : Fields} {e : QEntry} : QOk (bararrBody f e s) := by
  unfold bararrBody
  dsimp only
  refine withBarrier_memOk hs (fun _ _ _ _ h => ?_)
  split
  · exact trivial
  · exact releaseRec_memOk (putWords_memOk h)
theorem barwaitBody_memOk {f : Fields} {e : QEntry} : QOk (barwaitBody f e s) := by
  unfold barwaitBody
  refine withBarrier_memOk hs (fun _ _ _ _ h => ?_)
  split
  · exact trivial
  · exact acquireRec_memOk h
theorem bartestBody_memOk {f : Fields} {e : QEntry} : QOk (bartestBody f e s) := by
  unfold bartestBody
  refine withBarrier_memOk hs (fun _ _ _ _ h => ?_)
  split
  · exact h
  · exact acquireRec_memOk h
theorem engineBar_memOk {rel : Option Machine.Rel} {core off : Nat} {g : BitVec 512 → BitVec 512} : MemOk
    (s.engineBar rel core off g).1 := by
  unfold State.engineBar
  dsimp only
  split
  · exact postError_memOk (modCore_memOk hs _ _) _
  · split
    · exact putRel_memOk (putWords_memOk (takeLm_memOk (noteLm_memOk hs _ _ _)))
    · exact putWords_memOk (takeLm_memOk (noteLm_memOk hs _ _ _))

end

end Sys2Proof.Proofs.CanonicalForm
end

section
/-! SUPPORT. Memories in canonical form (log 5, DESIGN CHOICE): the engines, the vector unit and the matrix unit keep the canonical form.
-/
namespace Sys2Proof.Proofs.CanonicalForm
open Sys2Proof Sys2Proof.Machine

section
variable {s : State} (hs : MemOk s)
include hs

/-! ### Engine commands -/

theorem cmdBar_memOk {c : Cmd} {rel : Option Machine.Rel} {g : BitVec 512 → BitVec 512} : MemOk (s.cmdBar c rel g).1 := by
  unfold State.cmdBar
  dsimp only
  split
  · exact hs
  · exact engineBar_memOk hs
theorem addPend_memOk {c : Cmd} : MemOk (s.addPend c).1 := by
  unfold State.addPend
  dsimp only
  split
  · exact hs
  · exact cmdBar_memOk hs
theorem sectorPend_memOk {c : Cmd} {n : Nat} : MemOk (s.sectorPend c n).1 := by
  unfold State.sectorPend
  dsimp only
  split
  · exact hs
  · exact cmdBar_memOk hs
theorem barrierOf_memOk {slot core : Nat} {d : BitVec 512} : ExcOk (fun x => MemOk x.1) (s.barrierOf slot core d) := by
  unfold State.barrierOf
  dsimp only
  split
  · exact hs
  · split
    · exact trivial
    next t _ e =>
      have ht : MemOk t := pair_of_eq (readHandle_memOk hs) e
      split
      · exact trivial
      · split
        · exact trivial
        · split
          · exact trivial
          · split
            · split
              · exact trivial
              · split
                · exact ht
                · exact trivial
            · split
              · exact trivial
              · split
                · exact ht
                · exact trivial
theorem issueCmd_memOk {cmd : Nat} {f : Fields} {e : QEntry} {k : State → Cmd → QRes}
    (hk : ∀ (t : State) (x : Cmd), MemOk t → QOk (k t x)) :
    QOk (issueCmd cmd f e s k) := by
  unfold issueCmd
  dsimp only
  split
  · exact res_memOk hs
  · split
    · exact hs
    · split
      · exact hs
      · split
        · exact res_memOk hs
        · split
          · exact trivial
          · split
            · exact readPieces_memOk (takePieces_memOk (flushFor_memOk hs)) _ _
            · split
              · exact readPieces_memOk (takePieces_memOk (flushFor_memOk hs)) _ _
              · split
                · exact res_memOk (readPieces_memOk (takePieces_memOk (flushFor_memOk hs)) _ _)
                next t _ _ e1 =>
                  have ht : MemOk t := pair_of_eq (barrierOf_memOk (readPieces_memOk (takePieces_memOk (flushFor_memOk hs)) _ _)) e1
                  exact hk _ _ ht
theorem enterCopy_memOk {c : Cmd} : MemOk (s.enterCopy c) := setCore_memOk hs _ _
theorem enterMemory_memOk {q : Nat} {c : Cmd} : MemOk (s.enterMemory q c) := setQuad_memOk hs _ _
theorem copyIssue_memOk {cmd : Nat} {f : Fields} {e : QEntry} : QOk (copyIssue cmd f e s) := by
  unfold copyIssue
  refine issueCmd_memOk hs (fun _ _ h => ?_)
  split
  · exact trivial
  · split
    · unfold Cmd.barWait
      split <;> exact trivial
    · refine enterCopy_memOk ?_
      dsimp only
      split
      · exact h
      · exact cmdBar_memOk h
theorem memoryIssue_memOk {cmd : Nat} {f : Fields} {e : QEntry} : QOk (memoryIssue cmd f e s) := by
  unfold memoryIssue
  dsimp only
  refine issueCmd_memOk hs (fun _ _ h => ?_)
  split
  · exact trivial
  · split
    · unfold Cmd.barWait
      split <;> exact trivial
    · exact enterMemory_memOk (addPend_memOk h)
theorem setQcb_memOk {k : Nat} {q : Qcb} : MemOk (s.setQcb k q) := hs
theorem setThread_memOk {n : Nat} {t : Thread} : MemOk (s.setThread n t) := hs
theorem wakeQueue_memOk {k : Nat} : MemOk (s.wakeQueue k) := by
  unfold State.wakeQueue
  dsimp only
  split
  · exact setThread_memOk hs
  · exact setQcb_memOk hs
theorem freeSlot_memOk {q : Qcb} {k n : Nat} : ExcOk (fun x => OptOk (fun x => MemOk x.2) x) (s.freeSlot q k n) := by
  induction n generalizing k with
  | zero => exact trivial
  | succ n ih =>
    unfold State.freeSlot
    dsimp only
    split
    · exact trivial
    · split
      · exact trivial
      · split
        · exact readPieces_memOk hs _ _
        · exact ih
theorem putRing_memOk {qnum pkt : Nat} : PlacedOk (s.putRing qnum pkt) := by
  unfold State.putRing
  dsimp only
  split
  · exact trivial
  · split
    · exact trivial
    · split
      · exact trivial
      · exact trivial
      next t e =>
        have ht := excOk_of_eq (freeSlot_memOk hs) e
        split
        · exact trivial
        · exact wakeQueue_memOk (releaseAt_memOk (writePieces_memOk (flushLate_memOk ht) _ _ _ _))
theorem placePacket_memOk {f : Fields} {e : QEntry} {pkt : BitVec 512} : PlacedOk (s.placePacket f e pkt) := by
  unfold State.placePacket
  dsimp only
  split
  · exact trivial
  · split
    · split
      · exact trivial
      · exact enterCopy_memOk hs
    · split
      · exact trivial
      · exact enterMemory_memOk hs
    · split
      · exact trivial
      · exact enterMemory_memOk hs
    · exact putRing_memOk hs
theorem qputPlace_memOk {f : Fields} {e : QEntry} {k : Placed → State → QRes}
    (hk : ∀ (x : Placed) (t : State), PlacedOk x → MemOk t → QOk (k x t)) :
    QOk (qputPlace f e s k) := by
  unfold qputPlace
  dsimp only
  split
  · exact hs
  · split
    · exact res_memOk hs
    · exact trivial
    · split
      · exact takeLm_memOk (noteLm_memOk hs _ _ _)
      · exact hk _ _ (placePacket_memOk (takeLm_memOk (noteLm_memOk hs _ _ _))) (takeLm_memOk (noteLm_memOk hs _ _ _))
theorem qputBody_memOk {f : Fields} {e : QEntry} : QOk (qputBody f e s) := by
  unfold qputBody
  refine qputPlace_memOk hs (fun _ _ h h1 => ?_)
  split
  · exact h
  · exact trivial
  · exact res_memOk h1
theorem qputNbBody_memOk {f : Fields} {e : QEntry} : QOk (qputNbBody f e s) := by
  unfold qputNbBody
  refine qputPlace_memOk hs (fun _ _ h h1 => ?_)
  split
  · exact h
  · exact h1
  · exact res_memOk h1
theorem setHeadCmd_memOk {w : Where} {c : Cmd} : MemOk (s.setHeadCmd w c) := by
  unfold State.setHeadCmd
  dsimp only
  split
  · exact modCore_memOk hs _ _
  · exact setQuad_memOk hs _ _
theorem dropHeadCmd_memOk {w : Where} : MemOk (s.dropHeadCmd w) := by
  unfold State.dropHeadCmd
  dsimp only
  split
  · exact modCore_memOk hs _ _
  · exact setQuad_memOk hs _ _
theorem setStop_memOk {w : Where} {n : Nat} : MemOk (s.setStop w n) := by
  unfold State.setStop
  dsimp only
  split
  · exact modCore_memOk hs _ _
  · exact setQuad_memOk hs _ _
theorem holdCmd_memOk {w : Where} {c : Cmd} {k : FaultKind} {code : TrapCode} {va : Word} {a : Nat} : MemOk
    (s.holdCmd w c k code va a) := by
  unfold State.holdCmd
  dsimp only
  split
  · exact hs
  · exact memOk_of_parts (by dsimp only; exact (setHeadCmd_memOk (cmdBar_memOk (postHold_memOk hs))).parts)
theorem cmdBad_memOk {w : Where} {c : Cmd} {atStart : Bool} {b : Bad} : OptOk MemOk (s.cmdBad w c atStart b) := by
  unfold State.cmdBad
  dsimp only
  split
  · exact trivial
  · split
    · exact trivial
    · exact holdCmd_memOk hs
  · split
    · exact trivial
    · split
      · exact setHeadCmd_memOk hs
      · exact setHeadCmd_memOk (cmdBar_memOk hs)
  · exact setHeadCmd_memOk hs
theorem startHandles_memOk {slot : Nat} {l : List Nat} : ExcOk (fun x => MemOk x.1) (s.startHandles slot l) := by
  induction l generalizing s with
  | nil => exact hs
  | cons h r ih =>
    unfold State.startHandles
    split
    · exact trivial
    next t x e =>
      have ht : MemOk t := pair_of_eq (readHandle_memOk hs) e
      split
      · exact trivial
      next u l e1 => exact pair_of_eq (ih ht) e1
theorem startQput_memOk {codes : List Nat} {c : Cmd} : ExcOk (fun x => MemOk x.1) (s.startQput codes c) := by
  unfold State.startQput
  dsimp only
  split
  · exact trivial
  · split
    · exact hs
    · split
      · exact trivial
      next t _ _ e =>
        have ht : MemOk t := pair_of_eq (barrierOf_memOk hs) e
        split
        · exact addPend_memOk ht
        · exact trivial
theorem cmdTrap_memOk {w : Where} {c : Cmd} {stop : Bool} {code : TrapCode} {sub : Nat} : MemOk (s.cmdTrap w c stop code sub) := by
  unfold State.cmdTrap
  dsimp only
  split
  · exact hs
  · refine raiseTrap_memOk ?_
    split
    · exact setStop_memOk hs
    · exact hs
theorem jobDone_memOk {c : Cmd} {code : Nat} : MemOk (s.jobDone c code) := by
  unfold State.jobDone
  dsimp only
  split <;> exact hs
theorem releasePages_memOk {c : Cmd} : MemOk (s.releasePages c) := by
  unfold State.releasePages
  refine foldl_memOk _ _ (fun _ _ h => ?_) hs
  refine foldl_memOk _ _ (fun _ _ h1 => ?_) h
  split <;> exact h1
theorem seenDone_memOk {w : Where} {c : Cmd} : MemOk (s.seenDone w c) := by
  unfold State.seenDone
  dsimp only
  split
  · split
    · exact modCore_memOk hs _ _
    · exact setQuad_memOk hs _ _
  · refine modStrand_memOk ?_ _ _
    split
    · exact modCore_memOk hs _ _
    · exact setQuad_memOk hs _ _
theorem endCmd_memOk {w : Where} {c : Cmd} : MemOk (s.endCmd w c) := by
  unfold State.endCmd
  extract_lets isMem s1 s2 stays s3 a b s4 s5
  have hs1 : MemOk s1 := by
    unfold s1
    split
    · exact hs
    · exact cmdBar_memOk hs
  have hs2 : MemOk s2 := seenDone_memOk hs1
  have hs3 : MemOk s3 := by
    unfold s3
    refine jobDone_memOk ?_
    split
    · exact setHeadCmd_memOk hs2
    · exact dropHeadCmd_memOk hs2
  have ha : MemOk a := modStrand_memOk hs3 _ _
  have hb : MemOk b := by
    unfold b
    split
    · exact setCauseBit_memOk ha
    · exact ha
  have hs4 : MemOk s4 := by
    unfold s4
    split
    · exact hs3
    · refine setEvent_memOk ?_
      split
      · exact setCauseBit_memOk hb
      · exact hb
  have hs5 : MemOk s5 := releasePages_memOk hs4
  split
  · exact cmdTrap_memOk hs5
  · exact hs5
theorem signalAdd_memOk {c : Cmd} {ps : List Piece} : MemOk (s.signalAdd c ps) := putRel_memOk (addAt_memOk hs)
omit hs in
theorem onReply_memOk {t : State} {w : Where} {c : Cmd} {k : Cmd → State} (ht : MemOk t) (hk : ∀ (x : Cmd), MemOk (k x)) :
    MemOk (t.onReply s w c k) := by
  unfold State.onReply
  split
  · exact hk _
  · exact setHeadCmd_memOk (takeFresh_memOk ht)
omit hs in
theorem tagHead_memOk {t : State} {w : Where} (ht : MemOk t) : MemOk (t.tagHead s w) := by
  unfold State.tagHead
  split
  · exact ht
  · exact setHeadCmd_memOk (takeFresh_memOk ht)
  · exact takeFresh_memOk ht
theorem signalFails_memOk {w : Where} {c : Cmd} {x : TrapCode} {sub : Nat} : MemOk (s.signalFails w c x sub) := setHeadCmd_memOk hs
theorem signal_memOk {w : Where} {c : Cmd} : OptOk MemOk (s.signal w c) := by
  unfold State.signal
  dsimp only
  split
  · exact signalFails_memOk hs
  · split
    · exact onReply_memOk (signalAdd_memOk hs) (fun _ => endCmd_memOk (signalAdd_memOk hs))
    · exact trivial
    · split
      · exact trivial
      · exact holdCmd_memOk hs
    · exact signalFails_memOk hs
theorem afterCode_memOk {w : Where} {c : Cmd} : MemOk (s.afterCode w c) := by
  unfold State.afterCode
  dsimp only
  split
  · exact setHeadCmd_memOk hs
  · exact endCmd_memOk hs
theorem writeCode_memOk {w : Where} {c0 : Cmd} : OptOk MemOk (s.writeCode w c0) := by
  unfold State.writeCode
  dsimp only
  split
  · exact afterCode_memOk hs
  · split
    · split
      · exact trivial
      · exact onReply_memOk (putRel_memOk (writePieces_memOk (takePieces_memOk hs) _ _ _ _))
          (fun _ => afterCode_memOk (putRel_memOk (writePieces_memOk (takePieces_memOk hs) _ _ _ _)))
    · exact trivial
    · split
      · exact trivial
      · exact holdCmd_memOk hs
    · exact afterCode_memOk hs
theorem complete_memOk {w : Where} {c : Cmd} : OptOk MemOk (s.complete w c) := by
  unfold State.complete
  split
  · exact trivial
  · split
    · exact writeCode_memOk hs
    · split
      · exact signal_memOk hs
      · exact endCmd_memOk hs

/-! ### System instructions -/

theorem csrrBody_memOk {f : Fields} {v : Vals} : FOk (csrrBody f v s) := by
  unfold csrrBody
  dsimp only
  split
  · exact setMe_memOk hs _
  · exact hs
theorem writeCwb_memOk {n : Nat} {v : Word} : MemOk (s.writeCwb n v) := modCore_memOk (setMe_memOk hs _) _ _
theorem writeShp_memOk {rows cols typ : Nat} : FOk (s.writeShp rows cols typ) := by
  unfold State.writeShp
  dsimp only
  split
  · exact setMe_memOk hs _
  · exact trivial
theorem csrwBody_memOk {f : Fields} {v : Vals} : FOk (csrwBody f v s) := by
  unfold csrwBody
  dsimp only
  split
  · exact writeShp_memOk hs
  · exact setMe_memOk hs _
  · split
    · exact trivial
    · exact setMe_memOk hs _
  · exact setMe_memOk hs _
  · exact setMe_memOk hs _
  · split
    · split
      · exact writeCwb_memOk hs
      · exact hs
    · split
      · exact writeCwb_memOk hs
      · exact hs
theorem postCall_memOk {slot : Nat} {pos : Word} {number : BitVec 32} : MemOk (s.postCall slot pos number) := by
  unfold State.postCall
  dsimp only
  exact memOk_of_parts (by dsimp only; exact (setStrand_memOk hs _ _).parts)
theorem syscallBody_memOk {v : Vals} : FOk (syscallBody v s) := by
  unfold syscallBody
  dsimp only
  split
  · exact postCall_memOk hs
  · exact trivial
theorem eretBody_memOk {f : Fields} {v : Vals} : FOk (eretBody f v s) := by
  unfold eretBody
  dsimp only
  split
  · exact hs
  · exact eretResume_memOk hs
theorem wfeBody_memOk {f : Fields} {v : Vals} : FOk (wfeBody f v s) := by
  unfold wfeBody
  dsimp only
  split <;> exact setMe_memOk hs _
theorem invalidate_memOk {slot sub : Nat} {device : Bool} {va : Word} : MemOk (s.invalidate slot sub device va) := by
  unfold State.invalidate
  dsimp only
  split
  · split
    · exact mapCores_memOk (by exact hs) _
    · exact modCore_memOk (by exact hs) _ _
  · refine dropUncoded_memOk ?_
    split
    · exact mapCores_memOk (memOk_of_parts (by dsimp only; exact (settleAll_memOk hs).parts)) _
    · exact modCore_memOk (memOk_of_parts (by dsimp only; exact (settleAll_memOk hs).parts)) _ _
theorem tlbiBody_memOk {f : Fields} {v : Vals} : FOk (tlbiBody f v s) := by
  unfold tlbiBody
  dsimp only
  split
  · exact trivial
  · exact invalidate_memOk hs
theorem frontEnds_memOk {slot : Nat} : OptOk MemOk (frontEnds? slot s) := by
  unfold frontEnds?
  dsimp only
  split
  · split
    · exact modStrand_memOk (postCall_memOk hs) _ _
    · exact trivial
  · split
    · exact trivial
    · exact modStrand_memOk (invalidate_memOk hs) _ _
  · exact trivial

/-! ### The vector unit -/

theorem vArg_memOk {e : QEntry} {rows cols : Nat} {a : VArg} : ExcOk (fun x => MemOk x.1) (s.vArg e rows cols a) := by
  unfold State.vArg
  split
  · exact hs
  · exact hs
  · exact hs
  · split
    · exact trivial
    next e1 => exact pair_of_eq (readConst_memOk hs) e1
  · exact hs
theorem withArgs_memOk {f : Fields} {e : QEntry} {fa fb fc : Fmt} {k : State → List Nat → List Nat → List Nat → QRes}
    (hk : ∀ (t : State) (x y z : List Nat), MemOk t → QOk (k t x y z)) :
    QOk (withArgs f e fa fb fc s k) := by
  unfold withArgs
  dsimp only
  split
  · exact res_memOk hs
  next t _ e1 =>
    have ht : MemOk t := pair_of_eq (vArg_memOk hs) e1
    split
    · exact res_memOk ht
    next t1 _ e2 =>
      have ht1 : MemOk t1 := pair_of_eq (vArg_memOk ht) e2
      split
      · exact res_memOk ht1
      next t2 _ e3 =>
        have ht2 : MemOk t2 := pair_of_eq (vArg_memOk ht1) e3
        exact hk _ _ _ _ ht2
theorem vcmpBody_memOk {f : Fields} {e : QEntry} : QOk (vcmpBody f e s) := by
  unfold vcmpBody
  dsimp only
  refine withArgs_memOk hs (fun _ _ _ _ h => ?_)
  split
  · exact setMe_memOk h _
  · exact h
theorem vselBody_memOk {f : Fields} {e : QEntry} : QOk (vselBody f e s) := by
  unfold vselBody
  dsimp only
  exact withArgs_memOk hs (fun _ _ _ _ h => writeTile_memOk h _ _ _ _)
theorem vscaleBody_memOk {f : Fields} {e : QEntry} : QOk (vscaleBody f e s) := by
  unfold vscaleBody
  dsimp only
  split
  · exact res_memOk hs
  next t _ e1 =>
    have ht : MemOk t := pair_of_eq (vArg_memOk hs) e1
    split <;> exact writeTile_memOk ht _ _ _ _
theorem vscanBody_memOk {f : Fields} {e : QEntry} : QOk (vscanBody f e s) := by
  unfold vscanBody
  dsimp only
  split <;> exact writeTile_memOk hs _ _ _ _

/-! ### The matrix instructions -/

theorem noteRows_memOk {slot : Nat} {e : BitVec 512} {x0 x1 n h : Nat} : MemOk (s.noteRows slot e x0 x1 n h) := by
  unfold State.noteRows
  dsimp only
  refine foldl_memOk _ _ (fun _ _ h1 => ?_) hs
  split
  · exact readPieces_memOk h1 _ _
  · exact h1
theorem noting_memOk {α : Type} {note : State → State} {rd : State → Except (TrapCode × Nat) α}
    (hnote : ∀ (t : State), MemOk t → MemOk (note t)) :
    MemOk (s.noting note rd).1 := by
  unfold State.noting
  split
  · exact hnote _ hs
  · split
    · exact hnote _ hs
    · exact hs
theorem notePlane_memOk {slot : Nat} {e : BitVec 512} {x0 x1 : Int} {mode : BitVec 64} : MemOk (State.notePlane slot e x0 x1 mode s) :=
  noteRows_memOk hs
theorem mmodeBody_memOk {e : QEntry} : QOk (mmodeBody e s) := by
  unfold mmodeBody
  dsimp only
  split
  · exact modCore_memOk hs _ _
  · exact hs
theorem enterMatrix_memOk {f : Fields} {e : QEntry} {meta_ : List Byte} : QOk (enterMatrix f e meta_ s) := by
  unfold enterMatrix
  dsimp only
  split
  · exact trivial
  · exact setCore_memOk hs _ _
theorem mscaleBody_memOk {e : QEntry} : QOk (mscaleBody e s) := by
  unfold mscaleBody
  dsimp only
  split
  · exact trivial
  · exact setCore_memOk hs _ _
theorem mwaitBody_memOk {e : QEntry} : QOk (mwaitBody e s) := by
  unfold mwaitBody
  split
  · exact trivial
  · exact hs

/-! ### Events of the matrix unit -/

theorem takePlane_memOk {o : MatOp} {p : Nat} : MemOk (s.takePlane o p).1 := by
  unfold State.takePlane
  dsimp only
  refine noting_memOk hs (fun _ h => ?_)
  refine notePlane_memOk ?_
  split
  · exact noteRows_memOk h
  · exact h
theorem takeRows_memOk {o : MatOp} {x0 x1 k0 n h : Nat} : MemOk (s.takeRows o x0 x1 k0 n h).1 := by
  unfold State.takeRows
  dsimp only
  refine noting_memOk hs (fun _ h1 => ?_)
  split
  · exact noteRows_memOk (noteRows_memOk h1)
  · exact noteRows_memOk h1
theorem matrixTrap_memOk {core : Nat} {o : MatOp} {b : TrapCode × Nat} : MemOk (s.matrixTrap core o b) :=
  raiseTrap_memOk (modCore_memOk hs _ _)
theorem matrixOpStart_memOk {core : Nat} : OptOk MemOk (matrixOpStart? core s) := by
  unfold matrixOpStart?
  dsimp only
  split
  · exact trivial
  · split
    · exact setCore_memOk hs _ _
    · exact trivial
theorem whenCore_memOk {core : Nat} {r : Option State} (hr : OptOk MemOk r) : OutOk (whenCore core s r) := by
  unfold whenCore
  split
  · exact trivial
  · exact getD_memOk hr hs
theorem nestStart_memOk {core : Nat} : OptOk MemOk (nestStart? core s) := by
  unfold nestStart?
  dsimp only
  split
  · exact trivial
  · split
    · exact trivial
    · split
      · exact setCore_memOk hs _ _
      · split
        · exact matrixTrap_memOk hs
        · split
          · exact matrixTrap_memOk hs
          · exact matrixTrap_memOk hs
          · exact trivial
          next t _ e =>
            have ht : MemOk t := by
              refine pair_of_eq ?_ e
              split
              · exact readHandle_memOk hs
              · exact hs
            split
            · exact matrixTrap_memOk ht
            · exact modCore_memOk ht _ _
theorem nestTrap_memOk {core : Nat} {o : MatOp} {pt : Machine.Part} {inRun : Bool} {b : TrapCode × Nat} :
    MemOk (s.nestTrap core o pt inRun b) :=
  matrixTrap_memOk (modStrand_memOk (modCore_memOk hs _ _) _ _)
theorem nestDiverted_memOk {core : Nat} {o : MatOp} : MemOk (s.nestDiverted core o) := modStrand_memOk (modCore_memOk hs _ _) _ _
theorem planeFor_memOk {core : Nat} {o : MatOp} {p : Nat} : MemOk (s.planeFor core o p).1 := by
  unfold State.planeFor
  split
  · exact hs
  · split
    · exact modCore_memOk hs _ _
    · split
      next e => exact fst_of_eq (takePlane_memOk hs) e
      next t _ e =>
        have ht : MemOk t := fst_of_eq (takePlane_memOk hs) e
        exact setCore_memOk ht _ _
theorem loadAhead_memOk {core : Nat} {o : MatOp} : MemOk (s.loadAhead core o) := by
  unfold State.loadAhead
  split
  · split
    · exact hs
    next t _ e =>
      have ht : MemOk t := fst_of_eq (takePlane_memOk hs) e
      exact setCore_memOk ht _ _
  · exact hs
theorem nestPass_memOk {core : Nat} : OptOk MemOk (nestPass? core s) := by
  unfold nestPass?
  dsimp only
  split
  · exact trivial
  · split
    · exact trivial
    · split
      next t _ e =>
        have ht : MemOk t := fst_of_eq (planeFor_memOk hs) e
        exact nestTrap_memOk ht
      next t _ e =>
        have ht : MemOk t := fst_of_eq (planeFor_memOk hs) e
        split
        next t1 _ e1 =>
          have ht1 : MemOk t1 := fst_of_eq (takeRows_memOk (modCore_memOk ht _ _)) e1
          exact nestTrap_memOk ht1
        next t1 _ e1 =>
          have ht1 : MemOk t1 := fst_of_eq (takeRows_memOk (modCore_memOk ht _ _)) e1
          split
          · exact nestDiverted_memOk (loadAhead_memOk (setCore_memOk ht1 _ _))
          · exact loadAhead_memOk (setCore_memOk ht1 _ _)
theorem mpreWork_memOk {core : Nat} {o : MatOp} : MemOk (mpreWork core o s).1 ∧ ExcOk MemOk (mpreWork core o s).2 := by
  unfold mpreWork
  dsimp only
  split
  · exact ⟨hs, hs⟩
  · split
    next t _ e =>
      have ht : MemOk t := fst_of_eq (noting_memOk hs (fun _ h => notePlane_memOk h)) e
      exact ⟨ht, trivial⟩
    next t _ _ e =>
      have ht : MemOk t := fst_of_eq (noting_memOk hs (fun _ h => notePlane_memOk h)) e
      exact ⟨ht, setCore_memOk ht _ _⟩
theorem putLmRow_memOk {slot : Nat} {e : BitVec 512} {x0 x1 : Nat} {codes : List Nat} : MemOk (s.putLmRow slot e x0 x1 codes) := by
  unfold State.putLmRow
  dsimp only
  split
  · exact hs
  · refine writePieces_memOk ?_ _ _ _ _
    split
    · exact hs
    · exact readPieces_memOk hs _ _
theorem mdrainWork_memOk {core : Nat} {o : MatOp} : ExcOk (fun x => MemOk x.1) (mdrainWork core o s) := by
  unfold mdrainWork
  dsimp only
  split
  · split
    · exact trivial
    · split
      · exact modCore_memOk (foldl_memOk _ _ (fun _ _ h => putLmRow_memOk h) hs) _ _
      · exact foldl_memOk _ _ (fun _ _ h => putLmRow_memOk h) hs
  · split
    · exact modCore_memOk (putTile_memOk hs _ _ _ _) _ _
    · exact putTile_memOk hs _ _ _ _
theorem macclWork_memOk {core : Nat} {o : MatOp} : MemOk (macclWork core o s).1 ∧ ExcOk MemOk (macclWork core o s).2 := by
  unfold macclWork
  dsimp only
  split
  · split
    · exact ⟨hs, trivial⟩
    · split
      next t _ e =>
        have ht : MemOk t := fst_of_eq (noting_memOk hs (fun _ h => noteRows_memOk h)) e
        exact ⟨ht, trivial⟩
      next t _ e =>
        have ht : MemOk t := fst_of_eq (noting_memOk hs (fun _ h => noteRows_memOk h)) e
        exact ⟨ht, modCore_memOk ht _ _⟩
  · exact ⟨hs, modCore_memOk hs _ _⟩
theorem runTest_memOk {core : Nat} {failing : BitVec 4} : MemOk (s.runTest core failing) :=
  foldl_memOk _ _ (fun _ _ h => postError_memOk h _) (modCore_memOk hs _ _)
theorem selfTest_memOk {core : Nat} {failing : BitVec 4} : OptOk MemOk (selfTest? core failing s) := by
  unfold selfTest?
  dsimp only
  split
  · split
    · exact modCore_memOk (runTest_memOk hs) _ _
    · split
      · exact runTest_memOk hs
      · exact trivial
  · split
    · exact runTest_memOk hs
    · exact trivial
theorem matrixWork_memOk {core : Nat} {o : MatOp} : MemOk (matrixWork core o s).1 ∧ ExcOk (fun x => MemOk x.1)
    (matrixWork core o s).2 := by
  unfold matrixWork
  dsimp only
  split
  · refine ⟨?_, ?_⟩
    · unfold mpreWork
      dsimp only
      split
      · exact hs
      · split
        next e => exact fst_of_eq (noting_memOk hs (fun _ h => notePlane_memOk h)) e
        next e => exact fst_of_eq (noting_memOk hs (fun _ h => notePlane_memOk h)) e
    · unfold Except.map
      dsimp only
      split
      · exact trivial
      next t e =>
        have ht : MemOk t := by
          refine excOk_of_eq ?_ e
          unfold mpreWork
          dsimp only
          split
          · exact hs
          · split
            next t _ e =>
              have ht : MemOk t := fst_of_eq (noting_memOk hs (fun _ h => notePlane_memOk h)) e
              exact trivial
            next t _ _ e =>
              have ht : MemOk t := fst_of_eq (noting_memOk hs (fun _ h => notePlane_memOk h)) e
              exact setCore_memOk ht _ _
        exact ht
  · exact ⟨hs, modCore_memOk hs _ _⟩
  · exact ⟨hs, modCore_memOk hs _ _⟩
  · exact ⟨hs, mdrainWork_memOk hs⟩
  · exact ⟨hs, modCore_memOk hs _ _⟩
  · refine ⟨?_, ?_⟩
    · unfold macclWork
      dsimp only
      split
      · split
        · exact hs
        · split
          next e => exact fst_of_eq (noting_memOk hs (fun _ h => noteRows_memOk h)) e
          next e => exact fst_of_eq (noting_memOk hs (fun _ h => noteRows_memOk h)) e
      · exact hs
    · unfold Except.map
      dsimp only
      split
      · exact trivial
      next t e =>
        have ht : MemOk t := by
          refine excOk_of_eq ?_ e
          unfold macclWork
          dsimp only
          split
          · split
            · exact trivial
            · split
              next t _ e =>
                have ht : MemOk t := fst_of_eq (noting_memOk hs (fun _ h => noteRows_memOk h)) e
                exact trivial
              next t _ e =>
                have ht : MemOk t := fst_of_eq (noting_memOk hs (fun _ h => noteRows_memOk h)) e
                exact modCore_memOk ht _ _
          · exact modCore_memOk hs _ _
        exact ht
  · exact ⟨hs, modCore_memOk hs _ _⟩
  · refine ⟨?_, ?_⟩
    · exact hs
    · split
      · exact hs
      · exact runTest_memOk hs
  · exact ⟨hs, modCore_memOk hs _ _⟩
  · split
    · exact ⟨hs, trivial⟩
    · exact ⟨hs, modCore_memOk hs _ _⟩
  · exact ⟨hs, hs⟩
theorem takeDrain_memOk {core : Nat} {o : MatOp} : MemOk (s.takeDrain core o) := by
  unfold State.takeDrain
  split
  · exact hs
  · exact takeWords_memOk hs
theorem matrixOpComplete_memOk {core : Nat} : OptOk MemOk (matrixOpComplete? core s) := by
  unfold matrixOpComplete?
  dsimp only
  split
  · exact trivial
  · split
    · exact trivial
    · split
      · exact nestDiverted_memOk hs
      · split
        next t _ e =>
          have ht := both_of_eq (matrixWork_memOk (takeDrain_memOk hs)) e
          exact matrixTrap_memOk ht.1
        next t t' _ e =>
          have ht := both_of_eq (matrixWork_memOk (takeDrain_memOk hs)) e
          exact setEvent_memOk (settleAs_memOk (modCore_memOk ht.2 _ _))
theorem mpreEarlyStart_memOk {core : Nat} : OptOk MemOk (mpreEarlyStart? core s) := by
  unfold mpreEarlyStart?
  dsimp only
  split
  · exact trivial
  · exact trivial
  · split
    · exact trivial
    · split
      · exact trivial
      · split
        · split
          · exact trivial
          next t e =>
            have ht : MemOk t := by
              refine excOk_of_eq ?_ e
              unfold mpreWork
              dsimp only
              split
              · exact hs
              · split
                next t _ e =>
                  have ht : MemOk t := fst_of_eq (noting_memOk hs (fun _ h => notePlane_memOk h)) e
                  exact trivial
                next t _ _ e =>
                  have ht : MemOk t := fst_of_eq (noting_memOk hs (fun _ h => notePlane_memOk h)) e
                  exact setCore_memOk ht _ _
            exact modCore_memOk ht _ _
        · exact trivial

/-! ### The copy engine -/

theorem startCopy_memOk {c : Cmd} : ExcOk (fun x => MemOk x.1) (s.startCopy c) := by
  unfold State.startCopy
  dsimp only
  split
  · exact trivial
  next t _ _ e =>
    have ht : MemOk t := pair_of_eq (startHandles_memOk hs) e
    split
    · exact trivial
    · exact ht
  · exact trivial
theorem startAreduce_memOk {c : Cmd} : ExcOk (fun x => MemOk x.1) (s.startAreduce c) := by
  unfold State.startAreduce
  dsimp only
  split
  · exact trivial
  next t _ e =>
    have ht : MemOk t := pair_of_eq (readHandle_memOk hs) e
    split
    · exact trivial
    · split
      · exact trivial
      · exact trivial
      · exact sendGroup_memOk (memOk_of_parts (by dsimp only; exact (readPieces_memOk ht _ _).parts))
theorem startIn_memOk {layout : State → Cmd → Except Bad (State × Cmd)} {c : Cmd}
    (hlayout : ∀ (t : State) (x : Cmd), MemOk t → ExcOk (fun x => MemOk x.1) (layout t x)) :
    ExcOk (fun x => MemOk x.1) (s.startIn layout c) := by
  unfold State.startIn
  split
  · exact hlayout _ _ hs
  · exact startAreduce_memOk hs
  · exact startCopy_memOk hs
theorem startCmd_memOk {w : Where} {codes : List Nat} {start : State → Cmd → Except Bad (State × Cmd)} {c : Cmd}
    (hstart : ∀ (t : State) (x : Cmd), MemOk t → ExcOk (fun x => MemOk x.1) (start t x)) :
    OptOk MemOk (s.startCmd w codes start c) := by
  unfold State.startCmd
  dsimp only
  split
  · exact setHeadCmd_memOk hs
  · split
    · exact cmdBad_memOk hs
    next t _ e =>
      have ht : MemOk t := pair_of_eq (startQput_memOk hs) e
      split
      next t1 _ e1 =>
        have ht1 : MemOk t1 := pair_of_eq (hstart _ _ ht) e1
        exact setHeadCmd_memOk ht1
      · split
        next t1 e1 =>
          have ht1 : MemOk t1 := optOk_of_eq (cmdBad_memOk ht) e1
          exact ht1
        · split
          · exact trivial
          · exact setHeadCmd_memOk ht
theorem copyCommandStart_memOk {layout : State → Cmd → Except Bad (State × Cmd)} {core : Nat}
    (hlayout : ∀ (t : State) (x : Cmd), MemOk t → ExcOk (fun x => MemOk x.1) (layout t x)) :
    OptOk MemOk (copyCommandStart? layout core s) := by
  unfold copyCommandStart?
  dsimp only
  split
  · exact trivial
  · split
    · exact trivial
    · exact startCmd_memOk hs (fun _ _ h => startIn_memOk h (fun _ _ h1 => hlayout _ _ h1))
theorem moveSector_memOk {w : Where} {c : Cmd} {src dst : List Piece} {so n : Nat} : MemOk (s.moveSector w c src dst so n) := by
  unfold State.moveSector
  extract_lets g a b data unit bad s1 s2 h off
  have hg : MemOk g.s := readPieces_memOk hs _ _
  have hs1 : MemOk s1 := writePieces_memOk (takePieces_memOk (takePieces_memOk hg)) _ _ _ _
  have hs2 : MemOk s2 := foldl_memOk _ _ (fun _ _ h1 => poisonPieces_memOk h1 _) hs1
  dsimp only
  split
  · split
    · refine setHeadCmd_memOk ?_
      split
      · exact hs2
      · exact cmdBar_memOk hs2
    · refine setHeadCmd_memOk ?_
      refine sectorPend_memOk ?_
      split
      · exact hs2
      · exact cmdBar_memOk hs2
  · split
    · refine setHeadCmd_memOk ?_
      split
      · exact hs2
      · exact cmdBar_memOk hs2
    · refine setHeadCmd_memOk ?_
      refine sectorPend_memOk ?_
      split
      · exact hs2
      · exact cmdBar_memOk hs2
theorem copySector_memOk {core : Nat} : OptOk MemOk (copySector? core s) := by
  unfold copySector?
  dsimp only
  split
  · exact trivial
  · split
    · exact trivial
    · split
      · exact setHeadCmd_memOk hs
      · split
        · exact cmdBad_memOk hs
        · split
          · exact cmdBad_memOk hs
          · split
            · exact tagHead_memOk (moveSector_memOk hs)
            · exact trivial
theorem copyCommandComplete_memOk {core : Nat} : OptOk MemOk (copyCommandComplete? core s) := by
  unfold copyCommandComplete?
  split
  · exact trivial
  · split
    · exact trivial
    · exact complete_memOk hs
theorem joinContrib_memOk {c : Contribution} : MemOk (s.joinContrib c) := by
  unfold State.joinContrib
  split <;> exact hs
theorem joinFirst_memOk {c : Contribution} : MemOk (s.joinFirst c) := by
  unfold State.joinFirst
  split <;> exact hs
theorem dropInstance_memOk {c : Cmd} : MemOk (s.dropInstance c) := hs
theorem areduceComplete_memOk {core : Nat} : OptOk MemOk (areduceComplete? core s) := by
  unfold areduceComplete?
  dsimp only
  split
  · exact trivial
  · split
    · exact trivial
    · split
      · exact trivial
      · split
        · exact setHeadCmd_memOk (dropInstance_memOk hs)
        · split
          · exact setHeadCmd_memOk (dropInstance_memOk hs)
          · split
            · refine setHeadCmd_memOk ?_
              split
              · exact poisonPieces_memOk (dropInstance_memOk (writePieces_memOk hs _ _ _ _)) _
              · exact dropInstance_memOk (writePieces_memOk hs _ _ _ _)
            · exact trivial
            · split
              · exact trivial
              · exact holdCmd_memOk hs
            · exact setHeadCmd_memOk (dropInstance_memOk hs)
theorem areduceAbort_memOk {core : Nat} : OptOk MemOk (areduceAbort? core s) := by
  unfold areduceAbort?
  dsimp only
  split
  · exact trivial
  · split
    · exact trivial
    · split
      · refine setHeadCmd_memOk ?_
        refine dropInstance_memOk ?_
        split
        · exact sendGroup_memOk (by exact hs)
        · exact hs
      · exact trivial

end

end Sys2Proof.Proofs.CanonicalForm
end

section
/-! SUPPORT. Memories in canonical form (log 5, DESIGN CHOICE): queues, images, bundles and pre-emption keep the canonical form. -/
namespace Sys2Proof.Proofs.CanonicalForm
open Sys2Proof Sys2Proof.Machine

section
variable {s : State} (hs : MemOk s)
include hs

/-! ### User-mode queues -/

theorem writeHostPhys_memOk {a : Nat} {bs : List Byte} : MemOk (s.writeHostPhys a bs) := by
  unfold State.writeHostPhys
  extract_lets lines s1
  obtain ⟨hdev, hhost, hrest⟩ : MemOk s1 := foldl_memOk _ _ (fun _ _ h => flushHost_memOk (evictHost_memOk h _) _) hs
  exact ⟨hdev, write_wf _ _ _ hhost, hrest⟩
theorem hostEvent_memOk {kind : Nat} {pasid : BitVec 20} {qnum : BitVec 12} {ridx : Nat} : MemOk (s.hostEvent kind pasid qnum ridx) := by
  unfold State.hostEvent
  dsimp only
  split
  · exact hs
  · split <;> exact memOk_of_parts (by dsimp only; exact (writeHostPhys_memOk hs).parts)
theorem stallQueue_memOk {k kind : Nat} : MemOk (s.stallQueue k kind) := hostEvent_memOk (setQcb_memOk hs)
theorem threadBad_memOk {n k : Nat} {b : Bad} : OptOk MemOk (s.threadBad n k b) := by
  unfold State.threadBad
  dsimp only
  split
  · exact trivial
  · split
    · exact trivial
    · exact memOk_of_parts (by dsimp only; exact (setThread_memOk (postHold_memOk hs)).parts)
  · exact stallQueue_memOk hs
theorem hwRelease_memOk {a : Agent} {ps : List Piece} {clock : Clock} : MemOk (s.hwRelease a ps clock) := putRel_memOk hs
theorem threadGains_memOk {n : Nat} {ps : List Piece} : MemOk (s.threadGains n ps) := setThread_memOk hs
theorem readSlot_memOk {q : Qcb} {j : Nat} : ExcOk (fun x => MemOk x.1) (s.readSlot q j) := by
  unfold State.readSlot
  dsimp only
  split
  · exact trivial
  · split
    · exact trivial
    · exact readPieces_memOk hs _ _
theorem slotGains_memOk {n : Nat} {q : Qcb} {j : Nat} : MemOk (s.slotGains n q j) := by
  unfold State.slotGains
  split
  · exact threadGains_memOk hs
  · exact hs
theorem look_memOk {n : Nat} : MemOk (s.look n) := by
  unfold State.look
  dsimp only
  split
  · exact hs
  · split
    · split
      · exact hs
      · exact setThread_memOk hs
    · exact hs
theorem clearSlots_memOk {q : Qcb} {m : Nat} : ExcOk MemOk (s.clearSlots q m) := by
  induction m with
  | zero => exact hs
  | succ m ih =>
    unfold State.clearSlots
    dsimp only
    split
    · exact trivial
    next t e =>
      have ht : MemOk t := excOk_of_eq ih e
      split
      · exact trivial
      · exact hwRelease_memOk (writePieces_memOk (readPieces_memOk ht _ _) _ _ _ _)
theorem consume_memOk {p : Packet} {m : Nat} : ExcOk MemOk (p.consume s m) := by
  unfold Packet.consume
  dsimp only
  split
  · exact trivial
  next t e =>
    have ht : MemOk t := excOk_of_eq (clearSlots_memOk hs) e
    exact look_memOk (setQcb_memOk ht)
theorem serve_memOk {n : Nat} {ok : Packet → Bool} {body : Packet → Except Bad (Option State)}
    (hbody : ∀ (p : Packet), MemOk p.s → ExcOk (OptOk MemOk) (body p)) :
    OptOk MemOk (s.serve n ok body) := by
  unfold State.serve
  dsimp only
  split
  · exact trivial
  · split
    · exact trivial
    · split
      · exact threadBad_memOk hs
      next t _ e =>
        have ht : MemOk t := pair_of_eq (readSlot_memOk hs) e
        split
        · exact trivial
        · split
          · exact threadBad_memOk hs
          next t1 e1 =>
            have ht1 := excOk_of_eq (hbody _ (slotGains_memOk ht)) e1
            exact ht1
theorem whenThread_memOk {n : Nat} {r : Option State} (hr : OptOk MemOk r) : OutOk (whenThread n s r) := by
  unfold whenThread
  split
  · exact trivial
  · exact getD_memOk hr hs
theorem announce_memOk {pasid : BitVec 20} {slotVa sigva : Word} {trail : BitVec 16} {msiv trailer code skip : Nat} {clock : Clock} :
    ExcOk MemOk (s.announce pasid slotVa sigva trail msiv trailer code skip clock) := by
  unfold State.announce
  dsimp only
  split
  · exact trivial
  next t e =>
    have ht : MemOk t := by
      refine excOk_of_eq ?_ e
      split
      · split
        · exact trivial
        · exact writePieces_memOk hs _ _ _ _
      · exact hs
    split
    · exact trivial
    next t1 e1 =>
      have ht1 : MemOk t1 := by
        refine excOk_of_eq ?_ e1
        split
        · split
          · exact trivial
          · exact hwRelease_memOk (addAt_memOk ht)
        · exact ht
      split <;> exact ht1
theorem refuse_memOk {p : Packet} {trail : BitVec 16} {m : Nat} : ExcOk (OptOk MemOk) (p.refuse s trail m) := by
  unfold Packet.refuse
  split
  · exact trivial
  next t e =>
    have ht : MemOk t := excOk_of_eq (announce_memOk hs) e
    unfold Except.map
    split
    · exact trivial
    next t1 e1 =>
      have ht1 : MemOk t1 := excOk_of_eq (consume_memOk ht) e1
      exact ht1
theorem nopPacket_memOk {n : Nat} : OptOk MemOk (nopPacket? n s) := by
  unfold nopPacket?
  refine serve_memOk hs (fun _ h => ?_)
  split
  · unfold Except.map
    split
    · exact trivial
    next t e =>
      have ht : MemOk t := excOk_of_eq (consume_memOk h) e
      exact ht
  · exact refuse_memOk h
omit hs in
theorem waitWord_memOk {p : Packet} (hp : MemOk p.s) : ExcOk (fun x => MemOk x.s) p.waitWord := by
  unfold Packet.waitWord
  split
  · exact trivial
  · exact readPieces_memOk hp _ _
theorem waitGains_memOk {p : Packet} : MemOk (p.waitGains s) := by
  unfold Packet.waitGains
  split
  · exact threadGains_memOk hs
  · exact hs
theorem waitPacket_memOk {n : Nat} : OptOk MemOk (waitPacket? n s) := by
  unfold waitPacket?
  dsimp only
  refine serve_memOk hs (fun _ h => ?_)
  split
  · exact trivial
  next t e =>
    have ht := excOk_of_eq (waitWord_memOk h) e
    split
    · unfold Except.map
      split
      · exact trivial
      next t1 e1 =>
        have ht1 : MemOk t1 := excOk_of_eq (consume_memOk (waitGains_memOk (setThread_memOk ht))) e1
        exact ht1
    · split
      · exact trivial
      · exact setThread_memOk ht
theorem queueWaitTimeout_memOk {n : Nat} : OptOk MemOk (queueWaitTimeout? n s) := by
  unfold queueWaitTimeout?
  dsimp only
  refine serve_memOk hs (fun _ h => ?_)
  split
  next t _ e _ =>
    have ht := excOk_of_eq (waitWord_memOk h) e
    split
    · exact stallQueue_memOk (setThread_memOk ht)
    · exact trivial
  · exact trivial
  · exact trivial
theorem signalPacket_memOk {n : Nat} : OptOk MemOk (signalPacket? n s) := by
  unfold signalPacket?
  refine serve_memOk hs (fun _ h => ?_)
  split
  · exact trivial
  · unfold Except.map
    split
    · exact trivial
    next t e =>
      have ht : MemOk t := excOk_of_eq (consume_memOk (hwRelease_memOk (addAt_memOk h))) e
      exact ht
theorem finish_memOk {p : Packet} {code : Nat} : ExcOk (OptOk MemOk) (p.finish s code) := by
  unfold Packet.finish
  split
  · exact trivial
  · unfold Except.map
    split
    · exact trivial
    next t e =>
      have ht : MemOk t := excOk_of_eq (consume_memOk (writePieces_memOk hs _ _ _ _)) e
      exact ht
theorem control_memOk {n typ : Nat} {fieldsOk : BitVec 512 → Bool} {act : Packet → Except Bad (Option (State × Nat))}
    (hact : ∀ (p : Packet), MemOk p.s → ExcOk (OptOk fun x => MemOk x.1) (act p)) :
    OptOk MemOk (s.control n typ fieldsOk act) := by
  unfold State.control
  refine serve_memOk hs (fun _ h => ?_)
  split
  · exact finish_memOk h
  · split
    · exact trivial
    · exact trivial
    next t _ e =>
      have ht := excOk_of_eq (hact _ h) e
      exact finish_memOk ht
theorem mapq_memOk {n : Nat} : OptOk MemOk (mapq? n s) := by
  unfold mapq?
  dsimp only
  refine control_memOk hs (fun _ h => ?_)
  split
  · split
    · exact wakeQueue_memOk (setQcb_memOk h)
    · exact h
  · split
    · exact h
    · exact setQcb_memOk h
theorem dropQcb_memOk {k : Nat} : MemOk (s.dropQcb k) := by
  unfold State.dropQcb
  dsimp only
  exact memOk_of_parts (by dsimp only; exact (setQcb_memOk hs).parts)
theorem unmapq_memOk {n : Nat} : OptOk MemOk (unmapq? n s) := by
  unfold unmapq?
  refine serve_memOk hs (fun _ h => ?_)
  split
  · exact finish_memOk h
  · split
    · exact finish_memOk h
    · unfold Except.map
      dsimp only
      split
      · exact trivial
      next t e =>
        have ht := excOk_of_eq (finish_memOk h) e
        exact optMap_memOk ht (fun _ h1 => dropQcb_memOk h1)
theorem execNotifyWrite_memOk {pasid : BitVec 20} {qnum : BitVec 12} : OutOk (execNotifyWrite pasid qnum s) := by
  unfold execNotifyWrite
  dsimp only
  split
  · split
    · exact look_memOk (wakeQueue_memOk hs)
    · exact wakeQueue_memOk hs
  · exact hostEvent_memOk (by exact hs)

/-! ### Schedule images -/

theorem putPte_memOk {o : Nat} {p : BitVec 64} : MemOk (s.putPte o p) := writeIl_memOk hs _ _ _ _
theorem mapFrom_memOk {va kind lvl table k : Nat} : MemOk (s.mapFrom va kind lvl table k).1 := by
  induction lvl generalizing s table k with
  | zero =>
    unfold State.mapFrom
    dsimp only
    split <;> exact putPte_memOk hs
  | succ l ih =>
    unfold State.mapFrom
    dsimp only
    split
    · exact putPte_memOk hs
    · split
      · exact ih hs
      · exact ih (putPte_memOk (writeIl_memOk hs _ _ _ _))
theorem mapPages_memOk {pasid : BitVec 20} {kind k : Nat} {vas : List Nat} : MemOk (s.mapPages pasid kind k vas).1 :=
  foldl_fst_memOk _ _ (fun _ _ h => mapFrom_memOk h) hs
theorem rawWrite_memOk {pasid : BitVec 20} {va : Nat} {bs : List Byte} : MemOk (s.rawWrite pasid va bs) := by
  unfold State.rawWrite
  dsimp only
  refine foldl_memOk _ _ (fun _ _ h => ?_) hs
  split
  · exact writePieces_memOk h _ _ _ _
  · exact h
theorem publishCode_memOk {pasid : BitVec 20} {va n : Nat} : MemOk (s.publishCode pasid va n) := by
  unfold State.publishCode
  dsimp only
  refine foldl_memOk _ _ (fun _ _ h => ?_) hs
  split
  · exact mapCores_memOk (by exact h) _
  · exact h
theorem loadSection_memOk {pasid : BitVec 20} {bs : List Byte} {k : Nat} {x : Config.Section} : MemOk (s.loadSection pasid bs k x).1 := by
  unfold State.loadSection
  dsimp only
  split
  · exact publishCode_memOk (rawWrite_memOk (mapPages_memOk hs))
  · exact rawWrite_memOk (mapPages_memOk hs)
theorem loadRec_memOk {pasid : BitVec 20} {r : Config.LoadRec} : MemOk (s.loadRec pasid r) := by
  unfold State.loadRec
  dsimp only
  split
  · exact rawWrite_memOk hs
  · exact rawWrite_memOk hs
  · exact rawWrite_memOk hs
  · exact hs
theorem loadImage_memOk {pasid : BitVec 20} {id : BitVec 16} {bs : List Byte} : MemOk (s.loadImage pasid id bs) := by
  unfold State.loadImage
  dsimp only
  exact memOk_of_parts (by dsimp only; exact (foldl_memOk _ _ (fun _ _ h => loadRec_memOk h)
      (foldl_fst_memOk _ _ (fun _ _ h => loadSection_memOk h) hs)).parts)
theorem register_memOk {n : Nat} : OptOk MemOk (register? n s) := by
  unfold register?
  dsimp only
  refine control_memOk hs (fun _ h => ?_)
  split
  · exact h
  · split
    · exact h
    · split
      · exact trivial
      · split
        · split
          · exact loadImage_memOk (readPieces_memOk h _ _)
          · exact readPieces_memOk h _ _
        · split
          · exact loadImage_memOk (readPieces_memOk h _ _)
          · exact readPieces_memOk h _ _
theorem unregister_memOk {n : Nat} : OptOk MemOk (unregister? n s) := by
  unfold unregister?
  dsimp only
  refine control_memOk hs (fun _ h => ?_)
  split
  · exact h
  · split
    · exact h
    · exact memOk_of_parts (by dsimp only; exact h.parts)

/-! ### The front -/

theorem fetchLine_memOk {slot : Nat} {p : Word} : FetchedOk (s.fetchLine slot p) := by
  unfold State.fetchLine
  dsimp only
  split
  · exact trivial
  · split
    · exact trivial
    · exact trivial
    · exact trivial
    · split
      · exact trivial
      · split
        · exact trivial
        · split
          · exact trivial
          · split
            · exact trivial
            · split
              · split
                · split
                  · exact trivial
                  · exact modCore_memOk (takeFresh_memOk (readPieces_memOk hs _ _)) _ _
                · split
                  · split
                    · exact trivial
                    · exact modCore_memOk (takeFresh_memOk (readPieces_memOk hs _ _)) _ _
                  · split
                    · exact trivial
                    · exact modCore_memOk (takeFresh_memOk (readPieces_memOk hs _ _)) _ _
              · split
                · exact trivial
                · exact modCore_memOk (takeFresh_memOk (readPieces_memOk hs _ _)) _ _
theorem wrapDecode_memOk {slot : Nat} : MemOk (s.wrapDecode slot) := by
  unfold State.wrapDecode
  dsimp only
  split
  · exact setStrand_memOk hs _ _
  · exact hs
theorem decodes_memOk {slot : Nat} : MemOk (s.decodes slot) := by
  unfold State.decodes
  dsimp only
  exact mapStrands_memOk (wrapDecode_memOk (modCore_memOk (by exact hs) _ _)) _
theorem execInstructionDecode_memOk {slot : Nat} : OutOk (execInstructionDecode slot s) := by
  unfold execInstructionDecode
  dsimp only
  split
  · exact trivial
  · split
    · exact hs
    · split
      · exact decodeTrap_memOk (decodes_memOk hs)
      · exact decodes_memOk hs
      next t _ e =>
        have ht : MemOk t := fetched_of_eq (fetchLine_memOk (decodes_memOk hs)) e
        split
        · exact decodeTrap_memOk ht
        · exact ht

/-! ### Events of a strand -/

theorem whenSlot_memOk {slot : Nat} {r : Option State} (hr : OptOk MemOk r) : OutOk (whenSlot slot s r) := by
  unfold whenSlot
  split
  · exact trivial
  · exact getD_memOk hr hs
theorem windowEnd_memOk {slot : Nat} : OptOk MemOk (windowEnd? slot s) := by
  unfold windowEnd?
  split
  · exact trivial
  · exact settle_memOk (modStrand_memOk hs _ _)
theorem resultDelivery_memOk {slot : Nat} : OptOk MemOk (resultDelivery? slot s) := by
  unfold resultDelivery?
  dsimp only
  split
  · exact trivial
  · exact settle_memOk (setStrand_memOk hs _ _)
theorem acknowledgement_memOk {slot : Nat} : OptOk MemOk (acknowledgement? slot s) := by
  unfold acknowledgement?
  dsimp only
  split
  · exact trivial
  · exact settle_memOk (modStrand_memOk (foldl_memOk _ _ (fun _ _ h => writePieces_memOk h _ _ _ _) hs) _ _)
theorem headTrap_memOk {slot : Nat} {q : Queue} {e : QEntry} {code : TrapCode} {subc : Nat} : MemOk (s.headTrap slot q e code subc) :=
  raiseTrap_memOk hs
theorem waitTimerExpiry_memOk {slot : Nat} {q : Queue} : OptOk MemOk (waitTimerExpiry? slot q s) := by
  unfold waitTimerExpiry?
  dsimp only
  split
  · exact trivial
  · split
    · exact trivial
    · split
      · exact headTrap_memOk (setStrand_memOk hs _ _)
      · exact trivial
theorem wfeLimitExpiry_memOk {slot : Nat} : OptOk MemOk (wfeLimitExpiry? slot s) := by
  unfold wfeLimitExpiry?
  split
  · exact trivial
  · split
    · exact endWfe_memOk hs
    · exact trivial
theorem userInterruptEntry_memOk {slot : Nat} : OptOk MemOk (userInterruptEntry? slot s) := by
  unfold userInterruptEntry?
  dsimp only
  split
  · exact setStrand_memOk hs _ _
  · exact trivial
theorem strandStop_memOk {slot : Nat} : OptOk MemOk (strandStop? slot s) := by
  unfold strandStop?
  dsimp only
  split
  · exact trivial
  · split
    · exact finishTrap_memOk hs
    · exact trivial
theorem strandRetire_memOk {slot : Nat} : OptOk MemOk (strandRetire? slot s) := by
  unfold strandRetire?
  dsimp only
  split
  · exact finalRd_memOk (countEnd_memOk (setStrand_memOk hs _ _))
  · exact trivial
theorem discardWork_memOk {slot : Nat} : MemOk (s.discardWork slot) := by
  unfold State.discardWork
  dsimp only
  exact memOk_of_parts (by dsimp only; exact (mapQuads_memOk (modCore_memOk (setStrand_memOk hs _ _) _ _) _).parts)
theorem deadlineDiversion_memOk {slot : Nat} : OptOk MemOk (deadlineDiversion? slot s) := by
  unfold deadlineDiversion?
  dsimp only
  split
  · exact modStrand_memOk (modCore_memOk (discardWork_memOk hs) _ _) _ _
  · exact trivial
theorem wrapupStart_memOk {slot : Nat} : OptOk MemOk (wrapupStart? slot s) := by
  unfold wrapupStart?
  dsimp only
  split
  · exact setStrand_memOk hs _ _
  · exact trivial
theorem budgetExhausted_memOk {slot : Nat} : OptOk MemOk (budgetExhausted? slot s) := by
  unfold budgetExhausted?
  dsimp only
  split
  · exact trivial
  · split
    · split
      · exact trivial
      · exact finalRd_memOk (countEnd_memOk (setStrand_memOk (postFault_memOk hs _) _ _))
    · split
      · exact modStrand_memOk (discardWork_memOk hs) _ _
      · exact finalRd_memOk (countEnd_memOk (setStrand_memOk (postFault_memOk (modStrand_memOk (discardWork_memOk hs) _ _) _) _ _))

/-! ### Bundles -/

theorem setBundle_memOk {b : Bundle} : MemOk (s.setBundle b) := hs
theorem dropBundle_memOk {id : Word} : MemOk (s.dropBundle id) := hs
theorem launch_memOk {n : Nat} : OptOk MemOk (launch? n s) := by
  unfold launch?
  dsimp only
  refine serve_memOk hs (fun _ h => ?_)
  split
  · exact trivial
  · exact trivial
  · split
    · exact refuse_memOk h
    · split
      · exact trivial
      · unfold Except.map
        split
        · exact trivial
        next t e =>
          have ht : MemOk t := excOk_of_eq (consume_memOk (memOk_of_parts (by dsimp only; exact (setQcb_memOk h).parts))) e
          exact ht
theorem setBinds_memOk {g : List (Nat × BindRec)} {f : BindRec → BindRec} : MemOk (s.setBinds g f) := hs
theorem claimSlot_memOk {x : Nat × BindRec} : MemOk (s.claimSlot x) := setStrand_memOk hs _ _
theorem writeGo_memOk {id : Word} : MemOk (s.writeGo id) := by
  unfold State.writeGo
  dsimp only
  split <;> exact hs
theorem commitGroup_memOk {id : Word} : OptOk MemOk (s.commitGroup id) := by
  unfold State.commitGroup
  dsimp only
  split
  · exact trivial
  · split
    · exact trivial
    · split
      · exact setBinds_memOk hs
      · refine setBundle_memOk ?_
        refine foldl_memOk _ _ (fun _ _ h => claimSlot_memOk h) ?_
        split
        · exact setBinds_memOk hs
        · exact memOk_of_parts (by dsimp only; exact (setBinds_memOk hs).parts)
theorem issueJob_memOk {b : Bundle} {i : Nat} {j : Job} : MemOk (s.issueJob b i j) := by
  unfold State.issueJob
  dsimp only
  split
  · split
    · exact setBundle_memOk hs
    · exact hs
  · split
    · refine setBundle_memOk ?_
      split
      · exact enterCopy_memOk (readPieces_memOk hs _ _)
      · exact enterMemory_memOk (readPieces_memOk hs _ _)
    · split
      · exact enterCopy_memOk (readPieces_memOk hs _ _)
      · exact enterMemory_memOk (readPieces_memOk hs _ _)
theorem issueJobs_memOk {b : Bundle} {p : Job → Bool} : MemOk (issueJobs s b p) := by
  unfold issueJobs
  refine foldl_memOk _ _ (fun _ _ h => ?_) hs
  split
  · exact issueJob_memOk h
  · exact h
theorem bindStrand_memOk {b : Bundle} {img : Image} {slot : Nat} : MemOk (s.bindStrand b img slot) := by
  unfold State.bindStrand
  dsimp only
  split
  next t e =>
    have ht : MemOk t := excOk_of_eq (writeRd_memOk (modCore_memOk (clearL1s_memOk (setStrand_memOk (by exact hs) _ _) _) _ _)) e
    exact ht
  · exact modCore_memOk (clearL1s_memOk (setStrand_memOk (by exact hs) _ _) _) _ _
theorem startHeld_memOk {b : Bundle} {x : Bad} : OptOk MemOk (s.startHeld b x) := by
  unfold State.startHeld
  split
  · split
    · exact threadBad_memOk hs
    · exact trivial
  · exact trivial
theorem bindAll_memOk {b : Bundle} {img : Image} : MemOk (s.bindAll b img) := foldl_memOk _ _ (fun _ _ h => bindStrand_memOk h) hs
theorem bundleStart_memOk {id : Word} : OptOk MemOk (bundleStart? id s) := by
  unfold bundleStart?
  dsimp only
  split
  · exact trivial
  · split
    · exact trivial
    · split
      · split
        · exact trivial
        · split
          · exact startHeld_memOk hs
          · exact issueJobs_memOk hs
      · split
        · exact trivial
        · split
          · exact setBundle_memOk hs
          · split
            · exact trivial
            · split
              · exact trivial
              · split
                · exact trivial
                · split
                  · exact startHeld_memOk hs
                  · exact issueJobs_memOk (setBundle_memOk (bindAll_memOk hs))
theorem retireBundle_memOk {b : Bundle} : MemOk (s.retireBundle b) := by
  unfold State.retireBundle
  dsimp only
  refine dropBundle_memOk ?_
  refine foldl_memOk _ _ (fun _ _ h => ?_) (by exact hs)
  split
  · exact clearL1s_memOk h _
  · exact h
theorem completionBad_memOk {b : Bundle} {step : Nat} {x : Bad} : OptOk MemOk (s.completionBad b step x) := by
  unfold State.completionBad
  dsimp only
  split
  · exact trivial
  · split
    · exact trivial
    · exact setBundle_memOk (memOk_of_parts (by dsimp only; exact (postHold_memOk hs).parts))
  · exact setBundle_memOk hs
theorem bundleComplete_memOk {id : Word} : OptOk MemOk (bundleComplete? id s) := by
  unfold bundleComplete?
  dsimp only
  split
  · exact trivial
  · split
    · exact trivial
    · split
      · exact retireBundle_memOk hs
      · split
        · exact trivial
        · split
          next t e =>
            have ht : MemOk t := excOk_of_eq (announce_memOk hs) e
            exact retireBundle_memOk ht
          · split
            · split
              · exact optMap_memOk (threadBad_memOk hs) (fun _ h => setBundle_memOk h)
              · exact trivial
            · exact completionBad_memOk hs
theorem tearStrand_memOk {slot : Nat} : MemOk (s.tearStrand slot) := by
  unfold State.tearStrand
  dsimp only
  split
  · exact hs
  · exact memOk_of_parts (by dsimp only; exact (mapQuads_memOk (modCore_memOk (setStrand_memOk hs _ _) _ _) _).parts)
theorem tearJobs_memOk {b : Bundle} : MemOk (s.tearJobs b) := setBundle_memOk (mapQuads_memOk (modCore_memOk hs _ _) _)
omit hs in
theorem tearDown_memOk {s0 : State} {b : Bundle} (hs0 : MemOk s0) : MemOk (s0.tearDown b) := by
  unfold State.tearDown
  dsimp only
  refine tearJobs_memOk ?_
  refine setBundle_memOk ?_
  refine memOk_of_parts ?_
  refine MemOk.parts ?_
  refine foldl_memOk _ _ (fun _ _ h => ?_) (settleAll_memOk hs0)
  split
  · exact tearStrand_memOk h
  · exact h
theorem endContext_memOk {p : BitVec 20} : MemOk (s.endContext p) := by
  unfold State.endContext
  dsimp only
  exact memOk_of_parts (by dsimp only; exact (foldl_memOk _ _ (fun _ _ h => tearDown_memOk h) hs).parts)
theorem kill_memOk {n : Nat} : OptOk MemOk (kill? n s) := by
  unfold kill?
  refine control_memOk hs (fun _ h => ?_)
  split
  · exact h
  · exact tearDown_memOk h

/-! ### Deadlines -/

theorem writeResult_memOk {t : Strand} {k : State → State} (hk : ∀ (t : State), MemOk t → MemOk (k t)) : QOk (writeResult t s k) := by
  unfold writeResult
  split
  next t1 e =>
    have ht : MemOk t1 := excOk_of_eq (writeRd_memOk (setMe_memOk hs _)) e
    exact hk _ ht
  · exact res_memOk hs
theorem commitBody_memOk {f : Fields} {e : QEntry} : QOk (commitBody f e s) := by
  unfold commitBody
  dsimp only
  refine writeResult_memOk (flushLate_memOk hs) (fun _ h => ?_)
  split
  · exact releaseAt_memOk h
  · exact h
theorem stepBody_memOk {e : QEntry} : QOk (stepBody e s) := by
  unfold stepBody
  extract_lets mask g n s0 g1 used agreed s1 s2
  split
  · exact hs
  · split
    · exact hs
    · have hs1 : MemOk s1 := by
        unfold s1
        split
        · exact flushLate_memOk hs
        · exact gains_memOk (flushLate_memOk hs)
      exact sendGroup_memOk (memOk_of_parts (by unfold s2; exact hs1.parts))
theorem dlarmBody_memOk {f : Fields} {v : Vals} : FOk (dlarmBody f v s) := by
  unfold dlarmBody
  dsimp only
  split
  · exact hs
  · split
    · exact setMe_memOk hs _
    · split
      · split
        · exact setMe_memOk hs _
        · exact hs
      · split
        · exact setMe_memOk hs _
        · exact hs
theorem uiretBody_memOk : FOk (uiretBody s) := by
  unfold uiretBody
  dsimp only
  split
  · exact trivial
  · exact setMe_memOk hs _

/-! ### The save area -/

theorem writeParts_memOk {base : Nat} {ps : List (Nat × List Byte)} : MemOk (s.writeParts base ps) :=
  foldl_memOk _ _ (fun _ _ h => writeIl_memOk h _ _ _ _) hs

/-! ### Pre-emption -/

theorem markBinds_memOk {id : Word} {v w : BitVec 2} : MemOk (s.markBinds id v w) := hs
theorem preemptRequest_memOk {id : Word} : OptOk MemOk (preemptRequest? id s) := by
  unfold preemptRequest?
  dsimp only
  split
  · exact trivial
  · split
    · exact trivial
    · exact setBundle_memOk (foldl_memOk _ _ (fun _ _ h => modStrand_memOk h _ _) (markBinds_memOk hs))
theorem execPreemptRequest_memOk {bndl : BitVec 64} : OutOk (execPreemptRequest bndl s) := by
  unfold execPreemptRequest
  unfold whenSome
  refine getD_memOk ?_ hs
  split
  · exact preemptRequest_memOk hs
  · exact trivial
theorem clearOut_memOk {b : Bundle} {slots : List Nat} : MemOk (s.clearOut b slots) :=
  foldl_memOk _ _ (fun _ _ h => setStrand_memOk h _ _) (mapQuads_memOk (mapCores_memOk hs _) _)
theorem writeSave_memOk {b : Bundle} {slots : List Nat} : MemOk (s.writeSave b slots) := by
  unfold State.writeSave
  dsimp only
  refine writeIl_memOk ?_ _ _ _ _
  refine foldl_memOk _ _ (fun t x h => ?_) ?_
  · split
    · exact h
    · exact writeParts_memOk h
  · refine foldl_memOk _ _ (fun _ _ h => ?_) hs
    split
    · exact h
    · exact writeParts_memOk h
theorem preemptSaveComplete_memOk {id : Word} : OptOk MemOk (preemptSaveComplete? id s) := by
  unfold preemptSaveComplete?
  dsimp only
  split
  · exact trivial
  · split
    · exact trivial
    · split
      · exact tearDown_memOk hs
      · exact setBundle_memOk (markBinds_memOk
          (clearOut_memOk (foldl_memOk _ _ (fun _ _ h => clearL1s_memOk h _) (writeSave_memOk (by exact hs)))))
theorem resumeStrand_memOk {b : Bundle} {slot : Nat} {r : BindRec} {t : Strand} : MemOk (s.resumeStrand b slot r t) := by
  unfold State.resumeStrand
  dsimp only
  split
  · exact claimSlot_memOk hs
  · exact setStrand_memOk hs _ _
theorem resumeCore_memOk {m : List (Nat × Nat)} {slot : Nat} {r : BindRec} {t : Strand} {k0 : Core} : MemOk
    (s.resumeCore m slot r t k0) := by
  unfold State.resumeCore
  dsimp only
  split
  · exact hs
  · exact modCore_memOk hs _ _
theorem reenter_memOk {m : List (Nat × Nat)} {c : Cmd} : MemOk (s.reenter m c) := by
  unfold State.reenter
  dsimp only
  split
  · exact enterMemory_memOk hs
  · exact enterCopy_memOk hs
theorem restop_memOk {slot : Nat} {t : Strand} : MemOk (s.restop slot t) := by
  unfold State.restop
  dsimp only
  refine foldl_memOk _ _ (fun _ _ h => ?_) hs
  split
  · exact setQuad_memOk h _ _
  · exact h
theorem resumeGroup_memOk {b : Bundle} : OptOk MemOk (s.resumeGroup b) := by
  unfold State.resumeGroup
  dsimp only
  split
  · exact trivial
  · split
    · exact setBinds_memOk hs
    · exact setBundle_memOk (foldl_memOk _ _ (fun _ _ h => restop_memOk h)
        (foldl_memOk _ _ (fun _ _ h => joinFirst_memOk h)
        (foldl_memOk _ _ (fun _ _ h => reenter_memOk h)
        (foldl_memOk _ _ (fun _ _ h => resumeCore_memOk h) (foldl_memOk _ _ (fun _ _ h => resumeStrand_memOk h) (setBinds_memOk hs))))))
theorem resume_memOk {id : Word} : OptOk MemOk (resume? id s) := by
  unfold resume?
  split
  · split
    · exact resumeGroup_memOk (writeGo_memOk hs)
    · exact trivial
  · exact trivial
theorem commit_memOk {id : Word} : OptOk MemOk (s.commit id) := by
  unfold State.commit
  split
  · split
    · exact commitGroup_memOk hs
    · split
      · exact resumeGroup_memOk hs
      · exact trivial
  · exact commitGroup_memOk hs
theorem bindGroupCommit_memOk {id : Word} : OptOk MemOk (bindGroupCommit? id s) := by
  unfold bindGroupCommit?
  split
  · exact commit_memOk (writeGo_memOk hs)
  · exact trivial

end

end Sys2Proof.Proofs.CanonicalForm
end

section
/-! SUPPORT. Memories in canonical form (log 5, DESIGN CHOICE): migration, host, league, errors and power keep the canonical form. -/
namespace Sys2Proof.Proofs.CanonicalForm
open Sys2Proof Sys2Proof.Machine

section
variable {s : State} (hs : MemOk s)
include hs

/-! ### Migration -/

theorem modLeaf_memOk {p : BitVec 64} {at_ : Nat} {f : BitVec 64 → BitVec 64} : MemOk (s.modLeaf p at_ f) :=
  foldl_memOk _ _ (fun _ _ h => putPte_memOk h) hs
theorem dropTlb_memOk {pasid : BitVec 20} {va size : Nat} : MemOk (s.dropTlb pasid va size) := hs
theorem cleanRange_memOk {sp : MemSpace} {off size : Nat} : MemOk (s.cleanRange sp off size) := by
  unfold State.cleanRange
  dsimp only
  split
  · exact foldl_memOk _ _ (fun _ _ h => flushDev_memOk h _) hs
  · exact foldl_memOk _ _ (fun _ _ h => flushDev_memOk h _) hs
  · exact foldl_memOk _ _ (fun _ _ h => flushHost_memOk (evictHost_memOk h _) _) hs
  · exact foldl_memOk _ _ (fun _ _ h => dropPool_memOk h _) hs
theorem recallRange_memOk {sp : MemSpace} {off size : Nat} : MemOk (s.recallRange sp off size) := by
  unfold State.recallRange
  split
  · exact foldl_memOk _ _ (fun _ _ h => recallLine_memOk h _ _) hs
  · exact hs
theorem dropCopies_memOk {pasid : BitVec 20} {va : Nat} {sp : MemSpace} {off size : Nat} : MemOk (s.dropCopies pasid va sp off size) :=
  mapCores_memOk hs _
theorem mvEnd_memOk {status mcnt : Nat} : MemOk (s.mvEnd status mcnt) := by
  unfold State.mvEnd
  dsimp only
  refine hwRelease_memOk ?_
  refine memOk_of_parts ?_
  refine MemOk.parts ?_
  split
  · exact writeIl_memOk hs _ _ _ _
  · exact writeIl_memOk (writeIl_memOk hs _ _ _ _) _ _ _ _
theorem mvTest_memOk {op : Nat} {k : BitVec 256 → BitVec 64 → Nat → Option State}
    (hk : ∀ (x : BitVec 256) (y : BitVec 64) (z : Nat), OptOk MemOk (k x y z)) :
    OptOk MemOk (s.mvTest op k) := by
  unfold State.mvTest
  split
  · exact trivial
  · split
    · exact trivial
    · split
      · exact mvEnd_memOk hs
      · split
        · exact mvEnd_memOk hs
        · split
          · exact trivial
          · exact hk _ _ _
theorem addMove_memOk {pasid : BitVec 20} {va : Word} : MemOk (s.addMove pasid va) := hs
theorem moveRels_memOk {sp : MemSpace} {off : Nat} {nsp : MemSpace} {noff size : Nat} : MemOk (s.moveRels sp off nsp noff size) := hs
omit hs in
theorem move_memOk {s0 : State} (hs0 : MemOk s0) : OptOk MemOk (move? s0) := by
  unfold move?
  dsimp only
  refine mvTest_memOk (settleAll_memOk hs0) (fun _ _ _ => ?_)
  split
  · exact mvEnd_memOk (settleAll_memOk hs0)
  · split
    · exact mvEnd_memOk (settleAll_memOk hs0)
    · split
      · exact trivial
      · exact memOk_of_parts (by dsimp only; exact
          (moveRels_memOk (foldl_memOk _ _ (fun _ _ h => poisonPieces_memOk h _)
          (writePieces_memOk (readPieces_memOk
          (recallRange_memOk (dropCopies_memOk
          (cleanRange_memOk (dropTlb_memOk (modLeaf_memOk (settleAll_memOk hs0)))))) _ _) _ _ _ _))).parts)
theorem retryResults_memOk : MemOk s.retryResults := by
  unfold State.retryResults
  refine foldl_memOk _ _ (fun _ _ h => ?_) hs
  split
  · exact finalRd_memOk h
  · exact h
theorem moveComplete_memOk : OptOk MemOk (moveComplete? s) := by
  unfold moveComplete?
  split
  · exact trivial
  next m hm =>
    extract_lets d
    split
    · exact trivial
    · split
      · exact hs
      next p o hleaf =>
        dsimp only
        split
        · exact trivial
        · refine retryResults_memOk (mvEnd_memOk (memOk_of_parts ?_))
          have h1 {f : BitVec 64 → BitVec 64} := addMove_memOk (pasid := mvPasid d) (va := d.extractLsb' 64 64)
            (dropUncoded_memOk (modLeaf_memOk (p := p) (at_ := o) (f := f) hs))
          split
          · exact (postFault_memOk h1 _).parts
          · exact h1.parts
theorem unsettle_memOk : OptOk MemOk (unsettle? s) := by
  unfold unsettle?
  dsimp only
  exact mvTest_memOk hs (fun _ _ _ => mvEnd_memOk (memOk_of_parts (by dsimp only; exact (modLeaf_memOk hs).parts)))
omit hs in
theorem flipStart_memOk {s0 : State} {op : Nat} (hs0 : MemOk s0) : OptOk MemOk (s0.flipStart op) := by
  unfold State.flipStart
  dsimp only
  exact mvTest_memOk (settleAll_memOk hs0) (fun _ _ _ => memOk_of_parts
      (by dsimp only; exact (dropTlb_memOk (modLeaf_memOk (settleAll_memOk hs0))).parts))
theorem flipEnd_memOk {p : BitVec 64} {o bias : Nat} : MemOk (s.flipEnd p o bias) := by
  unfold State.flipEnd
  dsimp only
  exact retryResults_memOk (mvEnd_memOk (memOk_of_parts (by dsimp only; exact (modLeaf_memOk hs).parts)))
theorem fliph_memOk : OptOk MemOk (fliph? s) := by
  unfold fliph?
  split
  · exact flipStart_memOk hs
  · split
    · exact trivial
    · exact flipEnd_memOk (dropCopies_memOk (cleanRange_memOk hs))
theorem flipd_memOk : OptOk MemOk (flipd? s) := by
  unfold flipd?
  split
  · exact flipStart_memOk hs
  · split
    · exact trivial
    · exact flipEnd_memOk (recallRange_memOk hs)

/-! ### The host -/

theorem hostError_memOk {off : Nat} : MemOk (s.hostError off) := by
  unfold State.hostError
  exact postError_memOk (by exact hs) _
theorem holdHost_memOk {h : Holder} {off : Nat} {kind : FaultKind} {va : Word} {a : Nat} : OptOk MemOk (s.holdHost h off kind va a) := by
  unfold State.holdHost
  dsimp only
  split
  · exact trivial
  · exact memOk_of_parts (by dsimp only; exact (postHold_memOk hs).parts)
theorem hostGains_memOk {thread : Nat} {ps : List Piece} : MemOk (s.hostGains thread ps) := hs
theorem hostReleases_memOk {thread : Nat} {ps : List Piece} : MemOk (s.hostReleases thread ps) := putRel_memOk hs
theorem hostAsks_memOk {us : List Nat} : MemOk (s.hostAsks us) := setCxl_memOk hs _
theorem grantLines_memOk {g : HostGrant} {us : List Nat} : MemOk (s.grantLines g us) := by
  unfold State.grantLines
  dsimp only
  split
  · exact hs
  · refine foldl_memOk _ _ (fun _ _ h => ?_) hs
    refine setCxl_memOk ?_ _
    split
    · split
      · exact recallLine_memOk h _ _
      · exact h
    · exact h
theorem hostWait_memOk {h : Holder} : MemOk (s.hostWait h) := hs
theorem hostFill_memOk {off : Nat} : MemOk (s.hostFill off) := tlbFill_memOk hs _ _ _
theorem hostRead_memOk {thread off len : Nat} : OptOk MemOk (s.hostRead thread off len) := by
  unfold State.hostRead
  dsimp only
  split
  · exact hostError_memOk hs
  · exact holdHost_memOk hs
  · exact trivial
  · exact memOk_of_parts (by dsimp only; exact
      (takeFresh_memOk (grantLines_memOk (readPieces_memOk (hostGains_memOk (hostAsks_memOk (hostFill_memOk hs))) _ _))).parts)
theorem hostWrite_memOk {thread off : Nat} {data : List Byte} : OptOk MemOk (s.hostWrite thread off data) := by
  unfold State.hostWrite
  dsimp only
  split
  · exact hostError_memOk hs
  · exact holdHost_memOk hs
  · exact trivial
  · exact memOk_of_parts (by dsimp only; exact
      (takeFresh_memOk (hostReleases_memOk (writePieces_memOk (hostAsks_memOk (hostFill_memOk hs)) _ _ _ _))).parts)
theorem execCxlMemRead_memOk {addr : HostAddr} {len : Nat} : OutOk (execCxlMemRead addr len s) := by
  unfold execCxlMemRead
  split
  · exact trivial
  · exact getD_memOk (hostRead_memOk hs) (hostWait_memOk hs)
theorem execCxlMemWrite_memOk {addr : HostAddr} {data : List Byte} : OutOk (execCxlMemWrite addr data s) := by
  unfold execCxlMemWrite
  split
  · exact trivial
  · exact getD_memOk (hostWrite_memOk hs) (hostWait_memOk hs)
omit hs in
theorem hostAgain_memOk {s0 : State} {h : Holder} (hs0 : MemOk s0) : OptOk MemOk (s0.hostAgain h) := by
  unfold State.hostAgain
  dsimp only
  split
  · exact hostRead_memOk (by exact hs0)
  · exact hostWrite_memOk (by exact hs0)
  · exact trivial
theorem hostRetry_memOk : OptOk MemOk (hostRetry? s) := findSome_memOk (fun _ => hostAgain_memOk hs)
theorem answer_memOk {sp : MemSpace} {line : Nat} {data : Option (BitVec 512)} : MemOk (s.answer sp line data) := hs
theorem snooped_memOk {sp : MemSpace} {line : Nat} : MemOk (s.snooped sp line) := noteL2_memOk (noteDir_memOk hs _ _) _ _
theorem dropFetched_memOk {sp : MemSpace} {line : Nat} : MemOk (s.dropFetched sp line) := mapCores_memOk hs _
theorem execSnpdata_memOk {line : Nat} : OutOk (execSnpdata line s) := by
  unfold execSnpdata
  dsimp only
  split
  · exact trivial
  · split
    · exact setCxl_memOk (writeBackHost_memOk (answer_memOk (snooped_memOk hs)) _) _
    · exact writeBackHost_memOk (answer_memOk (snooped_memOk hs)) _
theorem execSnpinv_memOk {line : Nat} : OutOk (execSnpinv line s) := by
  unfold execSnpinv
  dsimp only
  split
  · exact trivial
  · exact setCxl_memOk (dropFetched_memOk (writeBackHost_memOk (answer_memOk (snooped_memOk hs)) _)) _
theorem execSnpcur_memOk {line : Nat} : OutOk (execSnpcur line s) := by
  unfold execSnpcur
  dsimp only
  split
  · exact trivial
  · exact answer_memOk (snooped_memOk hs)
theorem execBisnpinv_memOk {line : Nat} : OutOk (execBisnpinv line s) := by
  unfold execBisnpinv
  dsimp only
  split
  · exact trivial
  · exact setCxl_memOk (dropFetched_memOk (flushPool_memOk (answer_memOk (snooped_memOk hs)) _)) _
theorem execBisnpdata_memOk {line : Nat} : OutOk (execBisnpdata line s) := by
  unfold execBisnpdata
  dsimp only
  split
  · exact trivial
  · exact writeBackPool_memOk (answer_memOk (snooped_memOk hs)) _
theorem execDeadAgent_memOk {held : LineOwner} {line : Nat} : OutOk (execDeadAgent held line s) := by
  unfold execDeadAgent
  dsimp only
  split
  · exact trivial
  · exact postError_memOk (memOk_of_parts (by dsimp only; exact (markUnit_memOk hs _ _ _).parts)) _
theorem execL2WriteBack_memOk {line : Nat} : OutOk (execL2WriteBack line s) := by
  unfold execL2WriteBack
  dsimp only
  split
  · exact flushDev_memOk hs _
  · split
    · exact flushHost_memOk (evictHost_memOk hs _) _
    · exact hs
  · split
    · exact setCxl_memOk (flushPool_memOk hs _) _
    · exact hs
  · exact hs

/-! ### Fault responses -/

theorem unholdStrand_memOk {slot : Nat} {seq : BitVec 32} : MemOk (s.unholdStrand slot seq) := modStrand_memOk hs _ _
theorem unholdCmd_memOk {w : Where} {seq : BitVec 32} {d : Option (TrapCode × Nat)} : MemOk (s.unholdCmd w seq d) := by
  unfold State.unholdCmd
  dsimp only
  split
  · exact hs
  · split
    · exact hs
    · exact setHeadCmd_memOk (cmdBar_memOk hs)
theorem dropHeld_memOk {seq : BitVec 32} : MemOk (s.dropHeld seq) := hs
theorem refuseWindow_memOk {tag : Nat} : MemOk (s.refuseWindow tag) := by
  unfold State.refuseWindow
  dsimp only
  split
  · exact hs
  · exact memOk_of_parts (by dsimp only; exact (postHold_memOk hs).parts)
theorem refuseBeyond_memOk {port : Port} : MemOk (s.refuseBeyond port) := foldl_memOk _ _ (fun _ _ h => refuseWindow_memOk h) hs
theorem dropTag_memOk {tag : Nat} : MemOk (s.dropTag tag) := hs
theorem askAgain_memOk {tag : Nat} : MemOk (s.askAgain tag) := by
  unfold State.askAgain
  dsimp only
  split
  · exact hs
  · split
    · exact sendMessage_memOk (by exact hs)
    · exact refuseWindow_memOk (by exact hs)
theorem failTag_memOk {tag : Nat} {code : TrapCode} {sub : Nat} : MemOk (s.failTag tag code sub) := by
  unfold State.failTag
  dsimp only
  split
  · split
    · exact raiseTrap_memOk (setStrand_memOk (dropTag_memOk hs) _ _)
    · exact dropTag_memOk hs
  · refine foldl_memOk _ _ (fun _ _ h => ?_) (dropTag_memOk hs)
    split
    · split
      · exact setHeadCmd_memOk h
      · exact h
    · exact h
theorem forgiveLeague_memOk {h : Held} : MemOk (s.forgiveLeague h) := by
  unfold State.forgiveLeague
  dsimp only
  split <;> exact hs
theorem modBundle_memOk {id : Word} {f : Bundle → Bundle} : MemOk (s.modBundle id f) := hs
omit hs in
theorem resolve_memOk {s0 : State} {h : Held} (hs0 : MemOk s0) : MemOk (s0.resolve h) := by
  unfold State.resolve
  dsimp only
  split
  · exact unholdStrand_memOk (dropHeld_memOk (forgiveLeague_memOk hs0))
  · exact unholdCmd_memOk (dropHeld_memOk (forgiveLeague_memOk hs0))
  · exact unholdCmd_memOk (dropHeld_memOk (forgiveLeague_memOk hs0))
  · exact finalRd_memOk (modStrand_memOk (dropHeld_memOk (forgiveLeague_memOk hs0)) _ _)
  · exact getD_memOk (hostRead_memOk (dropHeld_memOk (forgiveLeague_memOk hs0)))
      (hostWait_memOk (dropHeld_memOk (forgiveLeague_memOk hs0)))
  · exact getD_memOk (hostWrite_memOk (dropHeld_memOk (forgiveLeague_memOk hs0)))
      (hostWait_memOk (dropHeld_memOk (forgiveLeague_memOk hs0)))
  · exact setThread_memOk (dropHeld_memOk (forgiveLeague_memOk hs0))
  · exact askAgain_memOk (dropHeld_memOk (forgiveLeague_memOk hs0))
  · exact modBundle_memOk (dropHeld_memOk (forgiveLeague_memOk hs0))
theorem deliver_memOk {h : Held} {code : TrapCode} {sub : Nat} : MemOk (s.deliver h code sub) := by
  unfold State.deliver
  extract_lets s1
  have hs1 : MemOk s1 := dropHeld_memOk hs
  dsimp only
  split
  · split
    · split
      · exact headTrap_memOk (unholdStrand_memOk hs1)
      · exact hs1
    · exact hs1
  · exact unholdCmd_memOk hs1
  · exact unholdCmd_memOk hs1
  · exact rdDropped_memOk (modStrand_memOk hs1 _ _)
  · exact hostError_memOk hs1
  · exact hostError_memOk hs1
  · exact failTag_memOk hs1
  · exact modBundle_memOk hs1
  · split
    · exact stallQueue_memOk (setThread_memOk hs1)
    · exact setThread_memOk hs1
theorem answerRetry_memOk {seq : BitVec 32} : MemOk (s.answerRetry seq) := by
  unfold State.answerRetry
  split
  · exact resolve_memOk hs
  · exact hs
theorem answerDeliver_memOk {seq : BitVec 32} : MemOk (s.answerDeliver seq) := by
  unfold State.answerDeliver
  split
  · exact deliver_memOk hs
  · exact hs
theorem writeFresp_memOk {v : Word} : MemOk (s.writeFresp v) := by
  unfold State.writeFresp
  split
  · exact answerRetry_memOk hs
  · exact answerDeliver_memOk hs
  · exact hs
theorem revokePage_memOk {pasid : BitVec 20} {x : Nat × BitVec 64 × Nat} : MemOk (s.revokePage pasid x) :=
  dropCopies_memOk (cleanRange_memOk (dropTlb_memOk (modLeaf_memOk hs)))
theorem revokeHeld_memOk {pasid : BitVec 20} {lo hi : Nat} : MemOk (s.revokeHeld pasid lo hi) := by
  unfold State.revokeHeld
  refine foldl_memOk _ _ (fun _ _ h => ?_) hs
  split
  · exact resolve_memOk h
  · exact resolve_memOk h
  · exact h
  · exact deliver_memOk h
theorem revoke_memOk {n : Nat} : OptOk MemOk (revoke? n s) := by
  unfold revoke?
  dsimp only
  refine control_memOk hs (fun _ h => ?_)
  split
  · exact h
  · split
    · exact h
    · split
      · exact trivial
      · exact revokeHeld_memOk (foldl_memOk _ _ (fun _ _ h1 => revokePage_memOk h1) (settleAll_memOk h))

/-! ### Ports -/

omit hs in
theorem ifUp_memOk {port : Port} {r : Option State} (hr : OptOk MemOk r) : OptOk MemOk (s.ifUp port r) := by
  unfold State.ifUp
  split
  · exact hr
  · exact trivial
theorem lanePost_memOk {port : Port} {cls evt : Nat} : MemOk (s.lanePost port cls evt) := postError_memOk hs _
theorem laneFails_memOk {port : Port} {lane : Nat} : MemOk (s.laneFails port lane) := by
  unfold State.laneFails
  dsimp only
  split
  · split
    · exact hs
    · exact setPort_memOk hs
  · split
    · exact hs
    · split
      · exact lanePost_memOk (setPort_memOk hs)
      · exact setPort_memOk hs
theorem spareLane_memOk {port : Port} {lane sp : Nat} : MemOk (s.spareLane port lane sp) :=
  lanePost_memOk (sendNext_memOk (setPort_memOk hs))
theorem whenLane_memOk {port : Port} {lane : Nat} {r : Option State} (hr : OptOk MemOk r) : OutOk (whenLane s port lane r) := by
  unfold whenLane
  split
  · exact trivial
  · exact getD_memOk (ifUp_memOk hr) hs
theorem execLaneInterval_memOk {port : Port} {lane count : Nat} : OutOk (execLaneInterval port lane count s) := by
  unfold execLaneInterval
  refine whenLane_memOk hs ?_
  split
  · exact laneFails_memOk hs
  · exact hs
theorem laneSpare_memOk {port : Port} {lane : Nat} : OptOk MemOk (laneSpare? port lane s) := by
  unfold laneSpare?
  dsimp only
  split
  · unfold Option.map
    split
    · exact spareLane_memOk hs
    · exact trivial
  · exact trivial
theorem halfWidthRetrain_memOk {port : Port} : OptOk MemOk (halfWidthRetrain? port s) := by
  unfold halfWidthRetrain?
  dsimp only
  split
  · exact resend_memOk (lanePost_memOk (setPort_memOk hs))
  · exact trivial
theorem portDown_memOk {port : Port} : OptOk MemOk (portDown? port s) := by
  unfold portDown?
  dsimp only
  split
  · exact refuseBeyond_memOk (memOk_of_parts (by dsimp only; exact (lanePost_memOk (setPort_memOk hs)).parts))
  · exact trivial
theorem portTrained_memOk {port : Port} : OptOk MemOk (portTrained? port s) := by
  unfold portTrained?
  dsimp only
  split
  · exact trivial
  · exact drain_memOk (setPort_memOk hs)
theorem writeLkctl_memOk {port : Port} {v : Word} : MemOk (s.writeLkctl port v) := by
  unfold State.writeLkctl
  dsimp only
  split
  · split
    · exact spareLane_memOk (setPort_memOk hs)
    · exact setPort_memOk hs
  · exact setPort_memOk hs

/-! ### The league -/

theorem clearSteps_memOk : MemOk s.clearSteps := hs
theorem leagueFields_memOk {v : Word} : MemOk (s.leagueFields v) := hs
theorem writeLgctl_memOk {v : Word} : MemOk (s.writeLgctl v) := by
  unfold State.writeLgctl
  dsimp only
  split
  · split
    · exact hs
    · exact memOk_of_parts (by dsimp only; exact (clearSteps_memOk hs).parts)
  · split
    · exact leagueFields_memOk hs
    · split
      · exact memOk_of_parts (by dsimp only; exact (clearSteps_memOk (leagueFields_memOk hs)).parts)
      · exact hs
theorem chooseSource_memOk : MemOk s.chooseSource := by
  unfold State.chooseSource
  dsimp only
  split <;> exact hs
theorem discipline_memOk {rated : Bool} {target : Nat} : MemOk (s.discipline rated target) := by
  unfold State.discipline
  dsimp only
  split <;> exact hs
theorem execPtpMessage_memOk {masterNs : Nat} : OutOk (execPtpMessage masterNs s) := by
  unfold execPtpMessage
  dsimp only
  split
  · exact discipline_memOk (chooseSource_memOk (by exact hs))
  · exact chooseSource_memOk (by exact hs)
theorem execPtpSourceLoss_memOk : OutOk (execPtpSourceLoss s) := by
  unfold execPtpSourceLoss
  unfold whenSome
  refine getD_memOk ?_ hs
  split
  · exact chooseSource_memOk (by exact hs)
  · exact trivial
theorem execPpsInEdge_memOk : OutOk (execPpsInEdge s) := by
  unfold execPpsInEdge
  dsimp only
  split
  · exact discipline_memOk (chooseSource_memOk (by exact hs))
  · exact chooseSource_memOk (by exact hs)
theorem ppsOut_memOk : OptOk MemOk (ppsOut? s) := by
  unfold ppsOut?
  split
  · exact hs
  · exact trivial
theorem timeSend_memOk : OptOk MemOk (timeSend? s) := by
  unfold timeSend?
  dsimp only
  split
  · split
    · exact sendTime_memOk (sendTime_memOk (by exact hs))
    · exact trivial
  · split
    · exact sendTime_memOk (sendTime_memOk (by exact hs))
    · exact trivial
theorem timeReceive_memOk {port : Port} {ns : Nat} : OptOk MemOk (timeReceive? port ns s) := by
  unfold timeReceive?
  dsimp only
  split
  · exact trivial
  · split
    · exact hs
    · split
      · split
        · exact discipline_memOk (chooseSource_memOk (setPort_memOk hs))
        · exact chooseSource_memOk (setPort_memOk hs)
      · split
        · exact discipline_memOk (chooseSource_memOk (sendTime_memOk (setPort_memOk hs)))
        · exact chooseSource_memOk (sendTime_memOk (setPort_memOk hs))
theorem takeDelay_memOk {port : Port} {roundTripNs : Nat} : MemOk (s.takeDelay port roundTripNs) := setPort_memOk hs
theorem delayAsk_memOk {port : Port} : OptOk MemOk (delayAsk? port s) := by
  unfold delayAsk?
  dsimp only
  split
  · split
    · exact sendNext_memOk (setPort_memOk hs)
    · exact trivial
  · split
    · exact sendNext_memOk (setPort_memOk hs)
    · exact trivial
theorem timeSourceLoss_memOk : OptOk MemOk (timeSourceLoss? s) := by
  unfold timeSourceLoss?
  split
  · exact chooseSource_memOk (by exact hs)
  · exact trivial
theorem setGroup_memOk {mask : BitVec 8} {g : GroupState} : MemOk (s.setGroup mask g) := hs
theorem freeze_memOk {mask : BitVec 8} : MemOk (s.freeze mask) := by
  unfold State.freeze
  dsimp only
  split
  · exact hs
  · exact setGroup_memOk hs
theorem abortReduces_memOk {mask : BitVec 8} : MemOk (s.abortReduces mask) := by
  unfold State.abortReduces
  dsimp only
  exact memOk_of_parts (by dsimp only; exact (mapCores_memOk hs _).parts)
theorem stepAbort_memOk {slot : Nat} : MemOk (s.stepAbort slot) := raiseTrap_memOk hs
theorem abortSaved_memOk {x : Word × Nat × Strand} : MemOk (s.abortSaved x).1 :=
  setStrand_memOk (stepAbort_memOk (setStrand_memOk hs _ _)) _ _
theorem abortBundle_memOk {mask : BitVec 8} {b : Bundle} : MemOk (s.abortBundle mask b) := by
  unfold State.abortBundle
  extract_lets r
  have hr : MemOk r.1 := by
    refine foldl_fst_memOk _ _ (fun _ _ h => ?_) hs
    dsimp only
    split
    · exact abortSaved_memOk h
    · exact h
  clear_value r
  exact hr
theorem takeAgreed_memOk {mask : BitVec 8} {orig : BitVec 3} {agreed : BitVec 48} : MemOk (s.takeAgreed mask orig agreed) := by
  unfold State.takeAgreed
  dsimp only
  split
  · exact hs
  · exact foldl_memOk _ _ (fun _ _ h => abortBundle_memOk h)
      (foldl_memOk _ _ (fun _ _ h => stepAbort_memOk h)
      (abortReduces_memOk (postError_memOk (memOk_of_parts (by dsimp only; exact (freeze_memOk hs).parts)) _)))
theorem sendPass_memOk {m : Config.RingMsg} : MemOk (s.sendPass m) := by
  unfold State.sendPass
  split
  · exact sendNext_memOk hs
  · split
    · exact sendNext_memOk hs
    · exact hs
theorem passOn_memOk {port : Port} {m : Config.RingMsg} : MemOk (s.passOn port m) := sendNext_memOk hs
theorem abortOriginate_memOk {mask : BitVec 8} : OptOk MemOk (abortOriginate? mask s) := by
  unfold abortOriginate?
  dsimp only
  split
  · exact trivial
  · split
    · exact sendPass_memOk (freeze_memOk (by exact hs))
    · exact takeAgreed_memOk (freeze_memOk (by exact hs))
theorem abortPass1_memOk {port : Port} {mask : BitVec 8} {orig : BitVec 3} {acc : BitVec 48} : MemOk
    (s.abortPass1 port mask orig acc) := by
  unfold State.abortPass1
  extract_lets mine s1 k
  have hs1 : MemOk s1 := by
    unfold s1
    split
    · exact freeze_memOk hs
    · exact hs
  split
  · exact passOn_memOk hs1
  · split
    · exact sendNext_memOk hs1
    · exact takeAgreed_memOk (sendPass_memOk hs1)
theorem abortPass2_memOk {port : Port} {mask : BitVec 8} {orig : BitVec 3} {agreed : BitVec 48} :
    MemOk (s.abortPass2 port mask orig agreed) := by
  unfold State.abortPass2
  dsimp only
  split
  · split
    · exact sendNext_memOk hs
    · exact hs
  · split
    · exact takeAgreed_memOk (passOn_memOk hs)
    · exact passOn_memOk hs
theorem clearAbort_memOk : MemOk s.clearAbort := by
  unfold State.clearAbort
  dsimp only
  exact memOk_of_parts (by dsimp only; exact (setGroup_memOk hs).parts)
theorem execLgabtClear_memOk : OutOk (execLgabtClear s) := by
  unfold execLgabtClear
  unfold whenSome
  refine getD_memOk ?_ hs
  split
  · exact clearAbort_memOk hs
  · exact trivial

/-! ### Errors -/

theorem postPair_memOk {cls evt pair : Nat} : MemOk (s.postPair cls evt pair) := postError_memOk hs _
theorem lockstepMismatch_memOk {pair : Nat} : OptOk MemOk (lockstepMismatch? pair s) := by
  unfold lockstepMismatch?
  dsimp only
  split
  · exact trivial
  · split
    · exact postPair_memOk (postPair_memOk (by exact hs))
    · exact postPair_memOk (by exact hs)
theorem execLockstepMismatch_memOk {pair : Nat} : OutOk (execLockstepMismatch pair s) := by
  unfold execLockstepMismatch
  split
  · exact trivial
  · exact getD_memOk (lockstepMismatch_memOk hs) hs
theorem heartbeat_memOk : OptOk MemOk (heartbeat? s) := by
  unfold heartbeat?
  split
  · exact hs
  · exact trivial
theorem takeover_memOk : OptOk MemOk (takeover? s) := by
  unfold takeover?
  dsimp only
  split
  · split <;> exact postPair_memOk (by exact hs)
  · split
    · exact trivial
    · split
      · exact hs
      · exact postPair_memOk (by exact hs)
theorem postFirmware_memOk : MemOk s.postFirmware := postError_memOk hs _
theorem initialise_memOk : MemOk s.initialise := by
  obtain ⟨hdev, hhost, hpool, -, -, -, hcores⟩ := mapEach_memOk hs
    (fun x => { x.2 with lm := [], full := [], lmBad := [], lmFresh := [], lmCe := [] })
  exact ⟨hdev, hhost, hpool, rfl, rfl, rfl, hcores⟩
theorem runFirmware_memOk {image : List Byte} : MemOk (s.runFirmware image) := by
  unfold State.runFirmware
  dsimp only
  exact memOk_of_parts (by dsimp only; exact (initialise_memOk hs).parts)
theorem fuseAdvance_memOk : OptOk MemOk (fuseAdvance? s) := by
  unfold fuseAdvance?
  split
  · exact hs
  · exact trivial
theorem execRecoveryImage_memOk {image : List Byte} : OutOk (execRecoveryImage image s) := by
  unfold execRecoveryImage
  unfold whenSome
  refine getD_memOk ?_ hs
  split
  · exact trivial
  · split
    · exact runFirmware_memOk (by exact hs)
    · exact postFirmware_memOk (by exact hs)

/-! ### Power -/

theorem beginChange_memOk : MemOk s.beginChange := by
  unfold State.beginChange
  split <;> exact hs
theorem request_memOk {p : BitVec 3} : MemOk (s.request p) := by
  unfold State.request
  exact beginChange_memOk (by exact hs)
theorem endChange_memOk : MemOk s.endChange := by
  unfold State.endChange
  exact beginChange_memOk (by exact hs)
theorem vcoreSlewDone_memOk : OptOk MemOk (vcoreSlewDone? s) := by
  unfold vcoreSlewDone?
  split
  · exact trivial
  · split
    · exact trivial
    · split
      · exact endChange_memOk (by exact hs)
      · split
        · exact trivial
        · exact hs
theorem clockRestart_memOk : OptOk MemOk (clockRestart? s) := by
  unfold clockRestart?
  dsimp only
  split
  · exact trivial
  · split
    · exact trivial
    · split
      · exact endChange_memOk (by exact hs)
      · exact hs
theorem choosePoint_memOk : OptOk MemOk (choosePoint? s) := by
  unfold choosePoint?
  split
  · exact request_memOk hs
  · exact trivial
theorem writePwrctl_memOk {v : Word} : MemOk (s.writePwrctl v) := by
  unfold State.writePwrctl
  dsimp only
  exact request_memOk (by exact hs)
theorem sense_memOk : MemOk s.sense := by
  unfold State.sense
  dsimp only
  split <;> exact hs
theorem turnOff_memOk : MemOk s.turnOff := by
  obtain ⟨-, hhost, hpool, -⟩ := hs
  exact ⟨rfl, hhost, hpool, rfl, rfl, rfl, rfl⟩
theorem execPowerOff_memOk : OutOk (execPowerOff s) := by
  unfold execPowerOff
  unfold whenSome
  refine getD_memOk ?_ hs
  split
  · exact trivial
  · exact turnOff_memOk hs
theorem throttleEntry_memOk : OptOk MemOk (throttleEntry? s) := by
  unfold throttleEntry?
  split
  · exact request_memOk (by exact hs)
  · exact trivial
theorem throttleExit_memOk : OptOk MemOk (throttleExit? s) := by
  unfold throttleExit?
  split
  · exact request_memOk (by exact hs)
  · exact trivial
theorem thermalTrip_memOk : OptOk MemOk (thermalTrip? s) := by
  unfold thermalTrip?
  split
  · exact hs
  · exact trivial

/-! ### Boot -/

theorem boot_memOk : MemOk s.boot := by
  unfold State.boot
  dsimp only
  split
  · exact runFirmware_memOk (by exact hs)
  · exact postFirmware_memOk (by exact hs)
theorem execResetNRelease_memOk : OutOk (execResetNRelease s) := by
  unfold execResetNRelease
  unfold whenSome
  refine getD_memOk ?_ hs
  split
  · exact boot_memOk hs
  · exact trivial

/-! ### Control -/

theorem goTo_memOk {p : Word} : MemOk (s.goTo p) := setMe_memOk hs _
theorem brBody_memOk {f : Fields} {v : Vals} : FOk (brBody f v s) := by
  unfold brBody
  split
  · exact goTo_memOk hs
  · exact hs
theorem loopBody_memOk {f : Fields} {v : Vals} : FOk (loopBody f v s) := by
  unfold loopBody
  split
  · exact hs
  · split
    · exact hs
    · exact goTo_memOk hs

end

end Sys2Proof.Proofs.CanonicalForm
end

section
/-! SUPPORT. Memories in canonical form (log 5, DESIGN CHOICE): the Ell, the memory commands, messages, policy and registers keep the
canonical form. -/
namespace Sys2Proof.Proofs.CanonicalForm
open Sys2Proof Sys2Proof.Machine

section
variable {s : State} (hs : MemOk s)
include hs

/-! ### The Ell -/

theorem scaleEntry_memOk {slot : Nat} {e : BitVec 512} {wr : Bool} : ExcOk (fun x => MemOk x.1) (s.scaleEntry slot e wr) := by
  unfold State.scaleEntry
  split
  · exact hs
  · split
    · exact trivial
    next t _ e1 =>
      have ht : MemOk t := pair_of_eq (readHandle_memOk hs) e1
      split
      · exact trivial
      · exact ht
theorem startLayout_memOk {c : Cmd} : ExcOk (fun x => MemOk x.1) (s.startLayout c) := by
  unfold State.startLayout
  dsimp only
  split
  · exact trivial
  next t _ _ e =>
    have ht : MemOk t := pair_of_eq (startHandles_memOk hs) e
    split
    · exact trivial
    · split
      · exact trivial
      next t1 _ e1 =>
        have ht1 : MemOk t1 := pair_of_eq (scaleEntry_memOk ht) e1
        split
        · exact trivial
        next t2 _ e2 =>
          have ht2 : MemOk t2 := by
            refine pair_of_eq ?_ e2
            split
            · exact ht1
            · exact scaleEntry_memOk ht1
          exact ht2
  · exact trivial
theorem cmdBytes_memOk {c : Cmd} {va : Word} {n : Nat} : ExcOk (fun x => MemOk x.s) (s.cmdBytes c va n) := by
  unfold State.cmdBytes
  split
  · exact trivial
  · split
    · exact trivial
    · exact readPieces_memOk hs _ _
theorem recordHead_memOk {c : Cmd} {loc : Nat} : ExcOk (fun x => MemOk x.1.s) (s.recordHead c loc) := by
  unfold State.recordHead
  dsimp only
  split
  · exact trivial
  · split
    · exact trivial
    next t e =>
      have ht := excOk_of_eq (cmdBytes_memOk hs) e
      split
      · exact trivial
      · exact ht
theorem recordRow_memOk {c : Cmd} {loc bits r lo hi : Nat} : ExcOk (fun x => MemOk x.s) (s.recordRow c loc bits r lo hi) := by
  unfold State.recordRow
  dsimp only
  split
  · exact trivial
  next t _ _ e =>
    have ht := excOk_of_eq (recordHead_memOk hs) e
    split
    · exact trivial
    · exact trivial
    · exact ht
theorem srcRow_memOk {c : Cmd} {x : Coord} {w : Nat} : ExcOk (fun x => MemOk x.s) (s.srcRow c x w) := by
  unfold State.srcRow
  dsimp only
  split
  · split
    · exact trivial
    · exact trivial
    · exact trivial
    · exact hs
    · exact recordRow_memOk hs
    · unfold Except.map
      dsimp only
      split
      · exact trivial
      · exact readPieces_memOk hs _ _
  · split
    · exact trivial
    · exact readPieces_memOk hs _ _
theorem srcScales_memOk {c : Cmd} {x : Coord} {w : Nat} : ExcOk (fun x => MemOk x.1) (s.srcScales c x w) := by
  unfold State.srcScales
  dsimp only
  split
  · exact hs
  · split
    · exact trivial
    · exact readPieces_memOk hs _ _
theorem expandRow_memOk {off : Nat} : MemOk (s.expandRow off) := by
  unfold State.expandRow
  dsimp only
  split
  · obtain ⟨hdev, hrest⟩ := hs
    exact foldl_memOk _ _ (fun _ _ h => dieWritten_memOk h _ _) ⟨write_wf _ _ _ hdev, hrest⟩
  · exact hs
theorem ellWrite_memOk {party : Party} {off : Nat} {bs : List Byte} : MemOk (s.ellWrite party off bs) :=
  writeMem_memOk (foldl_memOk _ _ (fun _ _ h => expandRow_memOk h) hs) _ _ _ _ _
theorem flushRow_memOk {c : Cmd} {row : Nat} : MemOk (s.flushRow c row).1 := foldl_memOk _ _ (fun _ _ h => ellWrite_memOk h) hs
theorem enterConst_memOk {party : Party} {owner : BitVec 20} {row : Nat} {v : BitVec 32} : MemOk (s.enterConst party owner row v) := by
  unfold State.enterConst
  dsimp only
  exact foldl_memOk _ _ (fun _ _ h => dieWritten_memOk h _ _)
      (memOk_of_parts (by dsimp only; exact (touchCode_memOk (foldl_memOk _ _ (fun _ _ h => flushDev_memOk h _) hs) _ _ _ _).parts))
theorem settleRow_memOk {c : Cmd} {row : Nat} : MemOk (s.settleRow c row).1 := by
  unfold State.settleRow
  dsimp only
  split
  · exact hs
  · split
    · split
      · exact enterConst_memOk hs
      · exact flushRow_memOk hs
    · exact flushRow_memOk hs
theorem ellPiece_memOk {c : Cmd} {off : Nat} {bs : List EllByte} : MemOk (s.ellPiece c off bs).1 := by
  unfold State.ellPiece
  dsimp only
  split
  · exact ellWrite_memOk hs
  · refine foldl_fst_memOk _ _ (fun _ _ h => ?_) hs
    split
    · exact settleRow_memOk h
    · exact flushRow_memOk h
theorem ellPieces_memOk {c : Cmd} {ps : List Piece} {bs : List EllByte} : MemOk (s.ellPieces c ps bs).1 := by
  induction ps generalizing s c bs with
  | nil => exact hs
  | cons p r ih =>
    unfold State.ellPieces
    split
    next heq => cases heq
    next heq =>
      cases heq
      exact ih (ellPiece_memOk hs)
    next heq =>
      cases heq
      exact ih (writePieces_memOk hs _ _ _ _)
theorem putRow_memOk {c : Cmd} {p : ElemAt} {bits : Nat} {codes : List Nat} {const : List Bool} : MemOk
    (s.putRow c p bits codes const).1 :=
  ellPieces_memOk hs
theorem flushAll_memOk {c : Cmd} : MemOk (s.flushAll c) := foldl_memOk _ _ (fun _ _ h => ellWrite_memOk h) hs
theorem afterSector_memOk {w : Where} {c : Cmd} {row off n : Nat} {poison : Bool} : MemOk (s.afterSector w c row off n poison) := by
  unfold State.afterSector
  dsimp only
  split
  · refine setHeadCmd_memOk ?_
    refine flushAll_memOk ?_
    split
    · exact cmdBar_memOk hs
    · exact hs
  · refine setHeadCmd_memOk ?_
    refine sectorPend_memOk ?_
    split
    · exact cmdBar_memOk hs
    · exact hs
theorem ellBad_memOk {w : Where} {c : Cmd} {b : Bad} : OptOk MemOk (s.ellBad w c b) := by
  unfold State.ellBad
  split
  · exact cmdBad_memOk (flushAll_memOk hs)
  · exact cmdBad_memOk hs
theorem ellRead_memOk {c : Cmd} {b : TileBox} {f : Frag} : ExcOk (fun x => MemOk x.1) (s.ellRead c b f) := by
  unfold State.ellRead
  dsimp only
  split
  · exact trivial
  next t e =>
    have ht := excOk_of_eq (srcRow_memOk hs) e
    split
    · exact trivial
    next e1 => exact pair_of_eq (srcScales_memOk ht) e1
theorem ellReads_memOk {c : Cmd} {b : TileBox} {fs : List Frag} : ExcOk (fun x => MemOk x.1) (s.ellReads c b fs) := by
  induction fs generalizing s with
  | nil => exact hs
  | cons f r ih =>
    unfold State.ellReads
    split
    · exact trivial
    next t p e =>
      have ht : MemOk t := pair_of_eq (ellRead_memOk hs) e
      split
      · exact trivial
      next u l e1 => exact pair_of_eq (ih ht) e1
omit hs in
theorem putEllPart_memOk {x : State × Cmd} {p : EllPart × ElemAt × List Piece} (hx : MemOk x.1) :
    MemOk (State.putEllPart x p).1 := by
  unfold State.putEllPart
  dsimp only
  split
  · refine poisonPieces_memOk ?_ _
    refine putRow_memOk ?_
    split
    · exact poisonPieces_memOk (writePieces_memOk hx _ _ _ _) _
    · exact writePieces_memOk hx _ _ _ _
  · refine putRow_memOk ?_
    split
    · exact poisonPieces_memOk (writePieces_memOk hx _ _ _ _) _
    · exact writePieces_memOk hx _ _ _ _
theorem keepTiles_memOk {c : Cmd} {b : TileBox} : MemOk (s.keepTiles c b) := keepTile_memOk (keepTile_memOk hs)
theorem ellStep_memOk {op core : Nat} : OptOk MemOk (ellStep op core s) := by
  unfold ellStep
  dsimp only
  split
  · exact trivial
  · split
    · exact setHeadCmd_memOk (flushAll_memOk hs)
    · split
      · exact ellBad_memOk hs
      next t _ e =>
        have ht : MemOk t := pair_of_eq (ellReads_memOk hs) e
        split
        · exact ellBad_memOk hs
        · exact tagHead_memOk (afterSector_memOk (foldl_fst_memOk _ _ (fun _ _ h => putEllPart_memOk h) (keepTiles_memOk ht)))
theorem ellExpand_memOk {core : Nat} : OptOk MemOk (ellExpand? core s) := by
  unfold ellExpand?
  dsimp only
  split
  · exact trivial
  · split
    · exact setHeadCmd_memOk (flushAll_memOk hs)
    · split
      · exact ellBad_memOk hs
      · split
        · exact ellBad_memOk hs
        · split
          · exact setHeadCmd_memOk hs
          · split
            · exact ellBad_memOk hs
            · split
              · split
                · exact ellBad_memOk hs
                · split
                  · exact ellBad_memOk hs
                  · split
                    · exact ellBad_memOk hs
                    · split
                      · exact ellBad_memOk hs
                      · split
                        · refine tagHead_memOk ?_
                          refine afterSector_memOk ?_
                          split
                          · exact poisonPieces_memOk (writePieces_memOk hs _ _ _ _) _
                          · exact writePieces_memOk hs _ _ _ _
                        · refine tagHead_memOk ?_
                          refine afterSector_memOk ?_
                          refine putRel_memOk ?_
                          refine writePieces_memOk ?_ _ _ _ _
                          split
                          · exact poisonPieces_memOk (writePieces_memOk hs _ _ _ _) _
                          · exact writePieces_memOk hs _ _ _ _
              · split
                · exact ellBad_memOk hs
                · split
                  · exact ellBad_memOk hs
                  · split
                    · exact ellBad_memOk hs
                    · split
                      · exact ellBad_memOk hs
                      · split
                        · refine tagHead_memOk ?_
                          refine afterSector_memOk ?_
                          split
                          · exact poisonPieces_memOk (writePieces_memOk hs _ _ _ _) _
                          · exact writePieces_memOk hs _ _ _ _
                        · refine tagHead_memOk ?_
                          refine afterSector_memOk ?_
                          refine putRel_memOk ?_
                          refine writePieces_memOk ?_ _ _ _ _
                          split
                          · exact poisonPieces_memOk (writePieces_memOk hs _ _ _ _) _
                          · exact writePieces_memOk hs _ _ _ _
              · split
                · exact ellBad_memOk hs
                · split
                  · exact ellBad_memOk hs
                  · split
                    · exact ellBad_memOk hs
                    · split
                      · exact ellBad_memOk hs
                      · split
                        · refine tagHead_memOk ?_
                          refine afterSector_memOk ?_
                          split
                          · exact poisonPieces_memOk (writePieces_memOk hs _ _ _ _) _
                          · exact writePieces_memOk hs _ _ _ _
                        · refine tagHead_memOk ?_
                          refine afterSector_memOk ?_
                          refine putRel_memOk ?_
                          refine writePieces_memOk ?_ _ _ _ _
                          split
                          · exact poisonPieces_memOk (writePieces_memOk hs _ _ _ _) _
                          · exact writePieces_memOk hs _ _ _ _
      · exact afterSector_memOk hs

/-! ### Ordering instructions -/

theorem writeBackRange_memOk {a b : Nat} : MemOk (s.writeBackRange a b) := foldl_memOk _ _ (fun _ _ h => flushDev_memOk h _) hs
theorem fenceMemBody_memOk {e : QEntry} : QOk (fenceMemBody e s) := by
  unfold fenceMemBody
  dsimp only
  split
  · exact hs
  · exact writeBackRange_memOk (orderQueues_memOk hs)
theorem pubxBody_memOk {f : Fields} {x0 : QEntry} : QOk (pubxBody f x0 s) := by
  unfold pubxBody
  dsimp only
  split
  · exact trivial
  · split
    · exact hs
    · exact mapCores_memOk (by exact hs) _
theorem seeEngines_memOk {scp : Nat} {copy : Bool} {quads : List Nat} : MemOk (s.seeEngines scp copy quads) := gains_memOk hs
theorem qfenceBody_memOk {f : Fields} {e : QEntry} : QOk (qfenceBody f e s) := by
  unfold qfenceBody
  split
  · exact trivial
  · exact seeEngines_memOk hs

/-! ### Memory commands -/

theorem readVec_memOk {c : Cmd} {e : BitVec 512} {off n : Nat} : ExcOk (fun x => MemOk x.1) (s.readVec c e off n) := by
  unfold State.readVec
  dsimp only
  split
  · exact trivial
  · split
    · exact trivial
    · exact readPieces_memOk (takePieces_memOk hs) _ _
theorem xScales_memOk {c : Cmd} {xh : BitVec 512} : ExcOk (fun x => MemOk x.1) (s.xScales c xh) := by
  unfold State.xScales
  dsimp only
  split
  · exact hs
  · split
    · exact trivial
    next t _ e =>
      have ht : MemOk t := pair_of_eq (readHandle_memOk hs) e
      split
      · exact trivial
      · exact ht
theorem readXScales_memOk {c : Cmd} {xh sc : BitVec 512} : ExcOk (fun x => MemOk x.1) (s.readXScales c xh sc) := by
  unfold State.readXScales
  dsimp only
  split
  · exact hs
  · split
    · exact trivial
    · split
      · exact trivial
      · exact readPieces_memOk (takePieces_memOk hs) _ _
theorem weightScales_memOk {c : Cmd} {wh : BitVec 512} : ExcOk (fun x => MemOk x.1) (s.weightScales c wh) := by
  unfold State.weightScales
  dsimp only
  split
  · exact hs
  · split
    · exact trivial
    next t _ e =>
      have ht : MemOk t := pair_of_eq (readHandle_memOk hs) e
      split
      · exact trivial
      · exact ht
theorem startBgmac_memOk {c : Cmd} : ExcOk (fun x => MemOk x.1) (s.startBgmac c) := by
  unfold State.startBgmac
  dsimp only
  split
  · exact trivial
  next t _ _ _ e =>
    have ht : MemOk t := pair_of_eq (startHandles_memOk hs) e
    split
    · exact trivial
    · split
      · exact trivial
      next t1 _ e1 =>
        have ht1 : MemOk t1 := pair_of_eq (weightScales_memOk ht) e1
        split
        · exact trivial
        next t2 _ e2 =>
          have ht2 : MemOk t2 := pair_of_eq (xScales_memOk ht1) e2
          split
          · exact trivial
          · split
            · exact trivial
            · split
              · exact trivial
              next t3 _ _ e3 =>
                have ht3 : MemOk t3 := pair_of_eq (readVec_memOk ht2) e3
                split
                · exact trivial
                next e4 => exact pair_of_eq (readXScales_memOk ht3) e4
  · exact trivial
theorem startBgattn_memOk {c : Cmd} : ExcOk (fun x => MemOk x.1) (s.startBgattn c) := by
  unfold State.startBgattn
  dsimp only
  split
  · exact trivial
  next t _ _ _ e =>
    have ht : MemOk t := pair_of_eq (startHandles_memOk hs) e
    split
    · exact trivial
    · split
      · exact trivial
      · split
        · exact trivial
        · split
          · exact trivial
          · split
            · exact trivial
            next e1 => exact pair_of_eq (readVec_memOk ht) e1
  · exact trivial
theorem startBgcpy_memOk {c : Cmd} : ExcOk (fun x => MemOk x.1) (s.startBgcpy c) := by
  unfold State.startBgcpy
  dsimp only
  split
  · exact trivial
  next t _ e =>
    have ht : MemOk t := pair_of_eq (readHandle_memOk hs) e
    split
    · exact trivial
    · split
      · exact trivial
      · exact trivial
      · split
        · exact trivial
        · split
          · exact trivial
          · exact ht
theorem readBlocks_memOk {c : Cmd} {e : BitVec 512} {off n : Nat} : ExcOk (fun x => MemOk x.1) (s.readBlocks c e off n) := by
  induction n generalizing s off with
  | zero => exact hs
  | succ n ih =>
    unfold State.readBlocks
    dsimp only
    split
    · exact trivial
    · split
      · exact trivial
      · split
        · exact trivial
        next t bs ms e1 => exact pair_of_eq (ih (readPieces_memOk (takePieces_memOk hs) _ _)) e1
theorem takePage_memOk {st : PageState} {p : Nat} : MemOk (s.takePage st p) := by
  unfold State.takePage
  dsimp only
  split
  · exact foldl_memOk _ _ (fun _ _ h => flushDev_memOk h _)
      (memOk_of_parts (by dsimp only; exact (foldl_memOk _ _ (fun _ _ h => settleLate_memOk h) hs).parts))
  · exact hs
theorem takePages_memOk {st : PageState} {l : List PageRef} : MemOk (s.takePages st l) :=
  foldl_memOk _ _ (fun _ _ h => takePage_memOk h) hs
theorem startKvput_memOk {c : Cmd} : ExcOk (fun x => MemOk x.1) (s.startKvput c) := by
  unfold State.startKvput
  dsimp only
  split
  · exact trivial
  next t _ _ e =>
    have ht : MemOk t := pair_of_eq (startHandles_memOk hs) e
    split
    · exact trivial
    · split
      · exact trivial
      · split
        · exact trivial
        · split
          · exact trivial
          · split
            · exact trivial
            next t1 _ _ e1 =>
              have ht1 : MemOk t1 := pair_of_eq (readBlocks_memOk ht) e1
              exact takePages_memOk (takePages_memOk ht1)
  · exact trivial
theorem startKvtake_memOk {c : Cmd} : ExcOk (fun x => MemOk x.1) (s.startKvtake c) := by
  unfold State.startKvtake
  dsimp only
  split
  · exact trivial
  · exact trivial
  next t _ _ e =>
    have ht : MemOk t := pair_of_eq (startHandles_memOk hs) e
    split
    · exact trivial
    · split
      · exact trivial
      · exact trivial
      · exact takePages_memOk ht
theorem startMemory_memOk {c0 : Cmd} : ExcOk (fun x => MemOk x.1) (s.startMemory c0) := by
  unfold State.startMemory
  dsimp only
  split
  · exact startBgmac_memOk hs
  · exact startBgcpy_memOk hs
  · exact startBgattn_memOk hs
  · exact startKvput_memOk hs
  · exact startKvtake_memOk hs
theorem memoryCommandStart_memOk {quad : Nat} : OptOk MemOk (memoryCommandStart? quad s) := by
  unfold memoryCommandStart?
  dsimp only
  split
  · exact trivial
  · split
    · exact trivial
    · exact startCmd_memOk hs (fun _ _ h => startMemory_memOk h)

/-! ### Events of the memory -/

theorem noteUnits_memOk {us : List Nat} : MemOk (s.noteUnits us) := by
  unfold State.noteUnits
  dsimp only
  refine foldl_memOk _ _ (fun _ _ h => ?_) hs
  split
  · exact memOk_of_parts (by dsimp only; exact (noteUnit_memOk h _ _).parts)
  · exact noteUnit_memOk h _ _
theorem macPart_memOk {c : Cmd} {die : Nat} : MemOk (s.macPart c die).1 := noteUnits_memOk hs
theorem putOut_memOk {c : Cmd} {off : Nat} {bs : List Byte} {bad : List (Nat × Nat)} : MemOk (s.putOut c off bs bad) := by
  unfold State.putOut
  dsimp only
  split
  · exact hs
  · exact foldl_memOk _ _ (fun _ _ h => poisonPieces_memOk h _) (writePieces_memOk (takePieces_memOk hs) _ _ _ _)
theorem finishBgmac_memOk {c : Cmd} : MemOk (s.finishBgmac c).1 := putOut_memOk (putOut_memOk hs)
theorem attnPart_memOk {c : Cmd} {die : Nat} : MemOk (s.attnPart c die).1 := noteUnits_memOk hs
theorem finishBgattn_memOk {c : Cmd} : MemOk (s.finishBgattn c).1 := by
  unfold State.finishBgattn
  dsimp only
  split
  · exact putOut_memOk (putOut_memOk hs)
  · exact putOut_memOk (putOut_memOk (putOut_memOk hs))
theorem putUnit_memOk {c : Cmd} {l : Nat} {bs : List Byte} {bad : Bool} : MemOk (s.putUnit c l bs bad) := by
  unfold State.putUnit
  dsimp only
  split
  · exact poisonRange_memOk (writeMem_memOk hs _ _ _ _ _) _ _ _
  · exact writeMem_memOk hs _ _ _ _ _
theorem copyRow_memOk {c : Cmd} {src dst : Nat} : MemOk (s.copyRow c src dst).1 := by
  unfold State.copyRow
  generalize List.range 16 = l
  exact foldl_fst_memOk _ _ (fun _ _ h => putUnit_memOk (noteUnits_memOk h)) hs
theorem copyPart_memOk {c : Cmd} {die : Nat} : MemOk (s.copyPart c die).1 := by
  unfold State.copyPart
  dsimp only
  generalize List.range 8 = l
  exact foldl_fst_memOk _ _ (fun _ _ h => foldl_fst_memOk _ _ (fun _ _ h => copyRow_memOk h) h) hs
theorem putPart_memOk {c : Cmd} {die : Nat} : MemOk (s.putPart c die).1 := by
  unfold State.putPart
  dsimp only
  generalize List.range 64 = l
  exact foldl_fst_memOk _ _ (fun _ _ h => foldl_fst_memOk _ _ (fun _ _ h => foldl_memOk _ _ (fun _ _ h => putUnit_memOk h) h) h) hs
theorem takePart_memOk {c : Cmd} {die : Nat} : MemOk (s.takePart c die).1 := by
  unfold State.takePart
  dsimp only
  generalize List.range 64 = l
  exact foldl_fst_memOk _ _ (fun _ _ h => foldl_fst_memOk _ _ (fun _ _ h => noteUnits_memOk h) h) hs
theorem finishKvput_memOk {c : Cmd} : MemOk (s.finishKvput c).1 := by
  unfold State.finishKvput
  dsimp only
  exact memOk_of_parts (by dsimp only; exact (takePages_memOk hs).parts)
theorem finishKvtake_memOk {c : Cmd} : MemOk (s.finishKvtake c).1 := by
  unfold State.finishKvtake
  extract_lets t
  have ht : MemOk t := by
    refine foldl_memOk _ _ (fun _ _ h => ?_) hs
    dsimp only
    split
    · exact poisonPieces_memOk (writePieces_memOk (takePieces_memOk h) _ _ _ _) _
    · exact writePieces_memOk (takePieces_memOk h) _ _ _ _
  clear_value t
  exact ht
theorem memoryPart_memOk {quad die : Nat} : OptOk MemOk (memoryPart? quad die s) := by
  unfold memoryPart?
  dsimp only
  split
  · exact trivial
  · split
    · exact trivial
    · refine setHeadCmd_memOk ?_
      split
      · exact macPart_memOk hs
      · exact copyPart_memOk hs
      · exact attnPart_memOk hs
      · exact putPart_memOk hs
      · exact takePart_memOk hs
theorem finishMemory_memOk {c : Cmd} : MemOk (s.finishMemory c).1 := by
  unfold State.finishMemory
  dsimp only
  split
  · exact hs
  · split
    · exact finishBgmac_memOk hs
    · exact hs
    · exact finishBgattn_memOk hs
    · exact finishKvput_memOk hs
    · exact finishKvtake_memOk hs
theorem memoryCommandComplete_memOk {quad : Nat} : OptOk MemOk (memoryCommandComplete? quad s) := by
  unfold memoryCommandComplete?
  dsimp only
  split
  · exact trivial
  · split
    · exact trivial
    · split
      · exact complete_memOk hs
      · split
        · exact trivial
        · refine getD_memOk ?_ (tagHead_memOk (setHeadCmd_memOk (finishMemory_memOk hs)))
          unfold Option.bind
          split
          · exact trivial
          · exact complete_memOk (tagHead_memOk (setHeadCmd_memOk (finishMemory_memOk hs)))
theorem whenQuad_memOk {quad : Nat} {r : Option State} (hr : OptOk MemOk r) : OutOk (whenQuad quad s r) := by
  unfold whenQuad
  split
  · exact trivial
  · exact getD_memOk hr hs
theorem execXpwrPoisonWrite_memOk {unit : Nat} : OutOk (execXpwrPoisonWrite unit s) := by
  unfold execXpwrPoisonWrite
  split
  · exact dieWritten_memOk hs _ _
  · exact hs
theorem execScrub_memOk {unit : Nat} : OutOk (execScrub unit s) := by
  unfold execScrub
  split <;> exact hs
theorem execRefresh_memOk {die bank : Nat} : OutOk (execRefresh die bank s) := by
  unfold execRefresh
  split
  · exact hs
  · exact trivial
theorem bgfenceBody_memOk {f : Fields} {e : QEntry} : QOk (bgfenceBody f e s) := by
  unfold bgfenceBody
  split
  · exact trivial
  · exact seeEngines_memOk (foldl_memOk _ _ (fun _ _ h => flushDev_memOk h _) hs)
theorem bgbarHoldBody_memOk {f : Fields} {e : QEntry} : QOk (bgbarHoldBody f e s) := by
  unfold bgbarHoldBody
  dsimp only
  split
  · exact res_memOk hs
  · split
    · exact hs
    · split
      · exact res_memOk hs
      · split
        · exact trivial
        · exact hs
theorem bgbarRelBody_memOk {f : Fields} {e : QEntry} : QOk (bgbarRelBody f e s) := by
  unfold bgbarRelBody
  dsimp only
  split
  · exact res_memOk hs
  · exact hs

/-! ### Messages -/

theorem peerGains_memOk {pos who : Nat} {ps : List Piece} : MemOk (s.peerGains pos who ps) := hs
theorem peerReleases_memOk {pos who : Nat} {ps : List Piece} : MemOk (s.peerReleases pos who ps) := putRel_memOk hs
theorem peerWrite_memOk {pos who off : Nat} {data : List Byte} : MemOk (s.peerWrite pos who off data) := by
  unfold State.peerWrite
  dsimp only
  split
  · exact hs
  · exact peerReleases_memOk (writePieces_memOk (peerGains_memOk hs) _ _ _ _)
theorem peerRead_memOk {pos who off n : Nat} : MemOk (s.peerRead pos who off n).s := readPieces_memOk (peerGains_memOk hs) _ _
theorem peerAtomic_memOk {pos who off opc fmt : Nat} {a b : BitVec 64} : MemOk (s.peerAtomic pos who off opc fmt a b).s := by
  unfold State.peerAtomic
  dsimp only
  split
  · exact peerRead_memOk hs
  · split
    · exact peerReleases_memOk (writeAtomic_memOk (peerRead_memOk hs))
    · exact peerRead_memOk hs
theorem serveWindow_memOk {pos : Nat} {m : Config.RingMsg} : MemOk (s.serveWindow pos m) := by
  unfold State.serveWindow
  dsimp only
  split
  · split
    · exact sendMessage_memOk (peerWrite_memOk hs)
    · exact sendMessage_memOk hs
  · split
    · exact sendMessage_memOk (peerRead_memOk hs)
    · exact sendMessage_memOk hs
  · split
    · exact foldl_memOk _ _ (fun _ _ h => sendMessage_memOk h) (peerAtomic_memOk hs)
    · exact foldl_memOk _ _ (fun _ _ h => sendMessage_memOk h) hs
  · exact hs
theorem takeStep_memOk {mask pos : Nat} {step : BitVec 48} : MemOk (s.takeStep mask pos step) := hs
theorem answered_memOk {tag : Nat} : MemOk (s.answered tag) := dropTag_memOk hs
theorem linkMessage_memOk {port : Port} {src : Nat} {seq : BitVec 16} {m : Config.RingMsg} : MemOk (s.linkMessage port src seq m) := by
  unfold State.linkMessage
  dsimp only
  split
  · exact hs
  · split
    · exact serveWindow_memOk hs
    · exact serveWindow_memOk hs
    · exact serveWindow_memOk hs
    · exact answered_memOk hs
    · exact answered_memOk hs
    · exact refuseWindow_memOk (by exact hs)
    · exact joinContrib_memOk hs
    · exact joinContrib_memOk hs
    · exact takeStep_memOk hs
    · exact abortPass1_memOk hs
    · exact abortPass2_memOk hs
    · exact getD_memOk (timeReceive_memOk hs) hs
    · exact sendNext_memOk hs
    · exact takeDelay_memOk hs
    · exact hs
    · exact hs
theorem flitReceive_memOk {port : Port} {bs : List Byte} : OptOk MemOk (flitReceive? port bs s) := by
  unfold flitReceive?
  dsimp only
  split
  · exact trivial
  · split
    · exact foldl_memOk _ _ (fun _ _ h => linkMessage_memOk h) (takeAck_memOk (setPort_memOk hs))
    · exact sendSlots_memOk (takeAck_memOk (setPort_memOk hs))
theorem whenFlit_memOk {port : Port} {bs : List Byte} {r : Option State} (hr : OptOk MemOk r) : OutOk (whenFlit s port bs r) := by
  unfold whenFlit
  split
  · exact trivial
  · exact getD_memOk (ifUp_memOk hr) hs
theorem flitNak_memOk {port : Port} {bs : List Byte} : OptOk MemOk (flitNak? port bs s) := by
  unfold flitNak?
  split
  · exact trivial
  · exact sendNak_memOk hs

/-! ### The policy of the leader -/

theorem mapThread_memOk {n k : Nat} : MemOk (s.mapThread n k) := setThread_memOk (setQcb_memOk hs)
theorem unmapThread_memOk {n : Nat} : MemOk (s.unmapThread n) := by
  unfold State.unmapThread
  dsimp only
  split
  · exact setThread_memOk (setQcb_memOk hs)
  · exact hs
theorem mapQueue_memOk : OptOk MemOk s.mapQueue := by
  unfold State.mapQueue
  dsimp only
  split
  · exact mapThread_memOk hs
  · split
    · exact mapThread_memOk (unmapThread_memOk hs)
    · exact trivial
theorem bindPlan_memOk {b : Bundle} {g : List (Nat × BindRec)} : OptOk MemOk (s.bindPlan b g) := by
  unfold State.bindPlan
  dsimp only
  split
  · exact resumeGroup_memOk (by exact hs)
  · exact commitGroup_memOk (by exact hs)
theorem without_memOk {v : Bundle} : MemOk (s.without v) := by
  unfold State.without
  dsimp only
  exact memOk_of_parts (by dsimp only; exact (clearOut_memOk hs).parts)
theorem dispatchOne_memOk {b : Bundle} : OptOk MemOk (s.dispatchOne b) := by
  unfold State.dispatchOne
  split
  · exact trivial
  · split
    · exact bindPlan_memOk hs
    · split
      · split
        · exact preemptRequest_memOk (setBundle_memOk hs)
        · exact trivial
      · exact trivial
theorem policyDispatch_memOk : OptOk MemOk (policyDispatch? s) := by
  unfold policyDispatch?
  split
  · exact trivial
  · split
    · exact endContext_memOk hs
    · split
      next t e =>
        have ht : MemOk t := optOk_of_eq (mapQueue_memOk hs) e
        exact ht
      · exact findSome_memOk (fun _ => dispatchOne_memOk hs)
theorem policyWrite_memOk {slot : Nat} : OptOk MemOk (policyWrite? slot s) := by
  have hb (b : Tab BindRec) : MemOk { s with binds := b } := hs
  unfold policyWrite?
  generalize recordOf _ = x
  dsimp only
  split
  · exact trivial
  · split
    · exact preemptRequest_memOk hs
    · split
      · exact getD_memOk (commit_memOk (hb _)) (hb _)
      · exact hb _

/-! ### Device registers -/

theorem writeTranslation_memOk {off : Nat} {v : Word} : OptOk MemOk (writeTranslation off v s) := by
  unfold writeTranslation
  split
  · exact hs
  · exact hs
  · exact hs
  · exact hs
  · exact writeFresp_memOk hs
  · exact hs
  · exact hs
  · exact hs
  · exact hs
  · exact hs
  · exact hs
  · exact trivial
theorem writeLeague_memOk {off : Nat} {v : Word} : OptOk MemOk (writeLeague off v s) := by
  unfold writeLeague
  split
  · exact writeLgctl_memOk hs
  · split <;> exact hs
  · split <;> exact hs
  · split <;> exact hs
  · exact writeLkctl_memOk hs
  · exact writeLkctl_memOk hs
  · exact hs
  · exact hs
  · exact hs
  · exact trivial
theorem writeErrors_memOk {off : Nat} {v : Word} : OptOk MemOk (writeErrors off v s) := by
  unfold writeErrors
  split
  · exact hs
  · exact hs
  · exact hs
  · exact hs
  · split
    · exact clearAbort_memOk hs
    · exact hs
  · exact hs
  · exact hs
  · exact hs
  · exact writePwrctl_memOk hs
  · exact hs
  · exact hs
  · exact hs
  · exact hs
  · exact hs
  · exact trivial
theorem writeHostEvent_memOk {off : Nat} {v : Word} : OptOk MemOk (writeHostEvent off v s) := by
  unfold writeHostEvent
  split
  · exact hs
  · exact hs
  · exact hs
  · exact hs
  · exact hs
  · exact hs
  · exact hs
  · exact trivial
theorem writeReg_memOk {off : Nat} {v : Word} : OptOk MemOk (s.writeReg off v) := by
  unfold State.writeReg
  split
  · exact hs
  · exact orElse_memOk (orElse_memOk (orElse_memOk (writeTranslation_memOk hs) (writeLeague_memOk hs)) (writeErrors_memOk hs))
      (writeHostEvent_memOk hs)
theorem execRegisterWrite_memOk {reg : RegAt} {value : Word} : OutOk (execRegisterWrite reg value s) := by
  unfold execRegisterWrite
  split
  · exact hs
  · split
    next t e =>
      have ht : MemOk t := optOk_of_eq (writeReg_memOk hs) e
      exact ht
    · exact trivial

end

end Sys2Proof.Proofs.CanonicalForm
end

section
/-! SUPPORT. Memories in canonical form (log 5, DESIGN CHOICE): every step keeps the canonical form. -/
namespace Sys2Proof.Proofs.CanonicalForm
open Sys2Proof Sys2Proof.Machine

section
variable {s : State} (hs : MemOk s)
include hs

/-! ### Every instruction and event -/

theorem exec_memOk {i : Instr} : OutOk (exec i s) := by
  unfold exec
  cases i
  case instructionDecode => exact execInstructionDecode_memOk hs
  case windowEnd => exact whenSlot_memOk hs (windowEnd_memOk hs)
  case resultDelivery => exact whenSlot_memOk hs (resultDelivery_memOk hs)
  case waitTimerExpiry => exact whenSlot_memOk hs (waitTimerExpiry_memOk hs)
  case wfeLimitExpiry => exact whenSlot_memOk hs (wfeLimitExpiry_memOk hs)
  case userInterruptEntry => exact whenSlot_memOk hs (userInterruptEntry_memOk hs)
  case strandStop => exact whenSlot_memOk hs (strandStop_memOk hs)
  case strandRetire => exact whenSlot_memOk hs (strandRetire_memOk hs)
  case deadlineDiversion => exact whenSlot_memOk hs (deadlineDiversion_memOk hs)
  case wrapupStart => exact whenSlot_memOk hs (wrapupStart_memOk hs)
  case budgetExhausted => exact whenSlot_memOk hs (budgetExhausted_memOk hs)
  case add | sub | mul | mulhu | mulhs | divu | divs | remu | rems | and | or | xor | andn | shl | shrl | shra | rotl | clz | ctz |
      popc | bswap | min | max | minu | maxu | abs | sext | zext | sel | mov | movK | cmp | lea | pand | por | pxor | pnot | sfadd |
      sfmul | sffma | sfcvt | sfcmp | nop | dlget =>
    exact runFront_memOk hs (fun _ _ h => h)
  case jmp | jidx | call | ret => exact runFront_memOk hs (fun _ _ h => goTo_memOk h)
  case br => exact runFront_memOk hs (fun _ _ h => brBody_memOk h)
  case loop => exact runFront_memOk hs (fun _ _ h => loopBody_memOk h)
  case yield | halt | wuset | uien | uimask => exact runFront_memOk hs (fun _ _ h => setMe_memOk h _)
  case csrr => exact runFront_memOk hs (fun _ _ h => csrrBody_memOk h)
  case csrw => exact runFront_memOk hs (fun _ _ h => csrwBody_memOk h)
  case trap => exact runFront_memOk hs (fun _ _ _ => trivial)
  case syscall => exact runFront_memOk hs (fun _ _ h => syscallBody_memOk h)
  case eret => exact runFront_memOk hs (fun _ _ h => eretBody_memOk h)
  case wfe => exact runFront_memOk hs (fun _ _ h => wfeBody_memOk h)
  case tlbi => exact runFront_memOk hs (fun _ _ h => tlbiBody_memOk h)
  case lds => exact runQueue_memOk hs (fun _ _ h => ldsBody_memOk h)
  case sts => exact runQueue_memOk hs (fun _ _ h => stsBody_memOk h)
  case ldq => exact runQueue_memOk hs (fun _ _ h => ldqBody_memOk h)
  case stq => exact runQueue_memOk hs (fun _ _ h => stqBody_memOk h)
  case ldb => exact runQueue_memOk hs (fun _ _ h => ldbBody_memOk h)
  case lda => exact runQueue_memOk hs (fun _ _ h => ldaBody_memOk h)
  case strel => exact runQueue_memOk hs (fun _ _ h => strelBody_memOk h)
  case ldv | ldg => exact runQueue_memOk hs (fun _ _ h => loadTile_memOk h)
  case stv | stg => exact runQueue_memOk hs (fun _ _ h => storeTile_memOk h)
  case ldfe => exact runQueue_memOk hs (fun _ _ h => ldfeBody_memOk h)
  case stff => exact runQueue_memOk hs (fun _ _ h => stffBody_memOk h)
  case feq => exact runQueue_memOk hs (fun _ _ h => withLm_memOk h (fun _ _ _ h1 => noUe_memOk h1 (fun _ h2 => h2)))
  case feset => exact runQueue_memOk hs (fun _ _ h => withLm_memOk h (fun _ _ _ h1 => dropRels_memOk (setFull_memOk h1 _ _ _)))
  case mark | fence => exact runQueue_memOk hs (fun _ _ h => orderQueues_memOk h)
  case fenceMem => exact runQueue_memOk hs (fun _ _ h => fenceMemBody_memOk h)
  case pubx => exact runQueue_memOk hs (fun _ _ h => pubxBody_memOk h)
  case radv => exact runQueue_memOk hs (fun _ _ h => radvBody_memOk h)
  case aadd | amin | amax | aminu | amaxu | aand | aor | axor | axchg | acas | afadd | aincw | redadd | redmin | redmax | redfadd =>
    exact runQueue_memOk hs (fun _ _ h => atomicBody_memOk h)
  case semwait => exact runQueue_memOk hs (fun _ _ h => semwaitBody_memOk h)
  case sempost => exact execSempost_memOk hs
  case sracq => exact runQueue_memOk hs (fun _ _ h => sracqBody_memOk h)
  case srpub => exact runQueue_memOk hs (fun _ _ h => srpubBody_memOk h)
  case srtake => exact runQueue_memOk hs (fun _ _ h => srtakeBody_memOk h)
  case srrel => exact runQueue_memOk hs (fun _ _ h => srrelBody_memOk h)
  case barinit => exact runQueue_memOk hs (fun _ _ h => barinitBody_memOk h)
  case bararr => exact runQueue_memOk hs (fun _ _ h => bararrBody_memOk h)
  case barexp => exact runQueue_memOk hs (fun _ _ h => withBarrier_memOk h (fun _ _ _ _ h1 => putWords_memOk h1))
  case barwait => exact runQueue_memOk hs (fun _ _ h => barwaitBody_memOk h)
  case bartest => exact runQueue_memOk hs (fun _ _ h => bartestBody_memOk h)
  case qfence => exact runQueue_memOk hs (fun _ _ h => qfenceBody_memOk h)
  case qput => exact runQueue_memOk hs (fun _ _ h => qputBody_memOk h)
  case qputNb => exact runQueue_memOk hs (fun _ _ h => qputNbBody_memOk h)
  case poisonclr => exact execPoisonclr_memOk hs
  case vshp => exact runFront_memOk hs (fun _ _ h => writeShp_memOk h)
  case vadd | vsub | vmul | vfma | vfms | vnfma | vdiv | vsqrt | vmin | vmax | vabs | vneg | vand | vor | vxor | vnot | vshl | vshr |
      vshra | vclamp | vcvt | vexp | vexp2 | vlog2 | vrcp | vrsq | vtanh | vsigm | vsin | vcos | vmov | vcmul | vcfma | vconj | vmag2 =>
    exact runQueue_memOk hs (fun _ _ h => withArgs_memOk h (fun _ _ _ _ h1 => writeTile_memOk h1 _ _ _ _))
  case vcmp => exact runQueue_memOk hs (fun _ _ h => vcmpBody_memOk h)
  case vsel => exact runQueue_memOk hs (fun _ _ h => vselBody_memOk h)
  case vqnt => exact runQueue_memOk hs (fun _ _ h => writeTile_memOk (writeTile_memOk h _ _ _ _) _ _ _ _)
  case vdqnt | vpack6 | vunpk6 | vpack4 | vunpk4 | vredr | vredc | vmaxr | vtrn | vshuf | vbcr | vbcc | viota | mstat =>
    exact runQueue_memOk hs (fun _ _ h => writeTile_memOk h _ _ _ _)
  case vscale => exact runQueue_memOk hs (fun _ _ h => vscaleBody_memOk h)
  case vscan => exact runQueue_memOk hs (fun _ _ h => vscanBody_memOk h)
  case mlev | mbase => exact runQueue_memOk hs (fun _ _ h => modCore_memOk h _ _)
  case mmode => exact runQueue_memOk hs (fun _ _ h => mmodeBody_memOk h)
  case mpre | mswap | mgo | mdrain | mzero | maccl | mspmeta | mtestNow | mtestIvl | mfuse =>
    exact runQueue_memOk hs (fun _ _ h => enterMatrix_memOk h)
  case mwait => exact runQueue_memOk hs (fun _ _ h => mwaitBody_memOk h)
  case mscale => exact runQueue_memOk hs (fun _ _ h => mscaleBody_memOk h)
  case matrixOpStart => exact whenCore_memOk hs (matrixOpStart_memOk hs)
  case mpreEarlyStart => exact whenCore_memOk hs (mpreEarlyStart_memOk hs)
  case nestStart => exact whenCore_memOk hs (nestStart_memOk hs)
  case nestPass => exact whenCore_memOk hs (nestPass_memOk hs)
  case matrixOpComplete => exact whenCore_memOk hs (matrixOpComplete_memOk hs)
  case cpy | cpys | layout | cpyq | areduce => exact runQueue_memOk hs (fun _ _ h => copyIssue_memOk h)
  case copyCommandStart => exact whenCore_memOk hs (copyCommandStart_memOk hs (fun _ _ h => startLayout_memOk h))
  case copySector => exact whenCore_memOk hs (copySector_memOk hs)
  case copyCommandComplete => exact whenCore_memOk hs (copyCommandComplete_memOk hs)
  case bgmac | bgcpy | bgattn | kvput | kvtake => exact runQueue_memOk hs (fun _ _ h => memoryIssue_memOk h)
  case memoryCommandStart => exact whenQuad_memOk hs (memoryCommandStart_memOk hs)
  case memoryPart => exact whenQuad_memOk hs (memoryPart_memOk hs)
  case memoryCommandComplete => exact whenQuad_memOk hs (memoryCommandComplete_memOk hs)
  case xpwrPoisonWrite => exact execXpwrPoisonWrite_memOk hs
  case bgfence => exact runQueue_memOk hs (fun _ _ h => bgfenceBody_memOk h)
  case bgbarHold => exact runQueue_memOk hs (fun _ _ h => bgbarHoldBody_memOk h)
  case bgbarRel => exact runQueue_memOk hs (fun _ _ h => bgbarRelBody_memOk h)
  case bgstat => exact runQueue_memOk hs (fun _ _ h => h)
  case areduceComplete => exact whenCore_memOk hs (areduceComplete_memOk hs)
  case step => exact runQueue_memOk hs (fun _ _ h => stepBody_memOk h)
  case commit => exact runQueue_memOk hs (fun _ _ h => commitBody_memOk h)
  case pval => exact runQueue_memOk hs (fun _ _ h => writeResult_memOk h (fun _ h1 => h1))
  case dlarm => exact runFront_memOk hs (fun _ _ h => dlarmBody_memOk h)
  case uiret => exact runFront_memOk hs (fun _ _ h => uiretBody_memOk h)
  case launch => exact whenThread_memOk hs (launch_memOk hs)
  case nopPacket => exact whenThread_memOk hs (nopPacket_memOk hs)
  case waitPacket => exact whenThread_memOk hs (waitPacket_memOk hs)
  case queueWaitTimeout => exact whenThread_memOk hs (queueWaitTimeout_memOk hs)
  case signalPacket => exact whenThread_memOk hs (signalPacket_memOk hs)
  case register => exact whenThread_memOk hs (register_memOk hs)
  case unregister => exact whenThread_memOk hs (unregister_memOk hs)
  case mapq => exact whenThread_memOk hs (mapq_memOk hs)
  case unmapq => exact whenThread_memOk hs (unmapq_memOk hs)
  case revoke => exact whenThread_memOk hs (revoke_memOk hs)
  case kill => exact whenThread_memOk hs (kill_memOk hs)
  case policyDispatch => exact getD_memOk (policyDispatch_memOk hs) hs
  case bundleStart => exact getD_memOk (bundleStart_memOk hs) hs
  case preemptSaveComplete => exact getD_memOk (preemptSaveComplete_memOk hs) hs
  case bundleComplete => exact getD_memOk (bundleComplete_memOk hs) hs
  case resetNRelease => exact execResetNRelease_memOk hs
  case acknowledgement => exact whenSlot_memOk hs (acknowledgement_memOk hs)
  case frespResolve => exact answerRetry_memOk hs
  case frespDeliver => exact answerDeliver_memOk hs
  case selfTest => exact whenCore_memOk hs (selfTest_memOk hs)
  case refresh => exact execRefresh_memOk hs
  case scrub => exact execScrub_memOk hs
  case radvMessage => exact execRadvMessage_memOk hs
  case pushMarker => exact execPushMarker_memOk hs
  case deadAgent => exact execDeadAgent_memOk hs
  case cxlMemRead => exact execCxlMemRead_memOk hs
  case cxlMemWrite => exact execCxlMemWrite_memOk hs
  case snpdata => exact execSnpdata_memOk hs
  case snpinv => exact execSnpinv_memOk hs
  case snpcur => exact execSnpcur_memOk hs
  case bisnpinv => exact execBisnpinv_memOk hs
  case bisnpdata => exact execBisnpdata_memOk hs
  case notifyWrite => exact execNotifyWrite_memOk hs
  case bindGroupCommit => exact getD_memOk (bindGroupCommit_memOk hs) hs
  case preemptRequest => exact execPreemptRequest_memOk hs
  case resume => exact getD_memOk (resume_memOk hs) hs
  case flitReceive => exact whenFlit_memOk hs (flitReceive_memOk hs)
  case flitNak => exact whenFlit_memOk hs (flitNak_memOk hs)
  case laneInterval => exact execLaneInterval_memOk hs
  case laneSpare => exact whenLane_memOk hs (laneSpare_memOk hs)
  case halfWidthRetrain => exact getD_memOk (ifUp_memOk (halfWidthRetrain_memOk hs)) hs
  case portDown => exact getD_memOk (ifUp_memOk (portDown_memOk hs)) hs
  case lkctlForce => exact writeLkctl_memOk hs
  case lgctlWrite => exact writeLgctl_memOk hs
  case timeSend => exact getD_memOk (timeSend_memOk hs) hs
  case timeReceive => exact getD_memOk (timeReceive_memOk hs) hs
  case linkDelayExchange => exact getD_memOk (ifUp_memOk (takeDelay_memOk hs)) hs
  case timeSourceLoss => exact getD_memOk (timeSourceLoss_memOk hs) hs
  case ptpMessage => exact execPtpMessage_memOk hs
  case ppsInEdge => exact execPpsInEdge_memOk hs
  case ppsOut => exact getD_memOk (ppsOut_memOk hs) hs
  case abortOriginate => exact getD_memOk (abortOriginate_memOk hs) hs
  case abortPass1 => exact getD_memOk (ifUp_memOk (abortPass1_memOk hs)) hs
  case abortPass2 => exact getD_memOk (ifUp_memOk (abortPass2_memOk hs)) hs
  case lgabtClear => exact execLgabtClear_memOk hs
  case lockstepMismatch => exact execLockstepMismatch_memOk hs
  case heartbeat => exact getD_memOk (heartbeat_memOk hs) hs
  case takeover => exact getD_memOk (takeover_memOk hs) hs
  case fuseAdvance => exact getD_memOk (fuseAdvance_memOk hs) hs
  case recoveryImage => exact execRecoveryImage_memOk hs
  case powerOff => exact execPowerOff_memOk hs
  case throttleEntry => exact getD_memOk (throttleEntry_memOk hs) hs
  case throttleExit => exact getD_memOk (throttleExit_memOk hs) hs
  case thermalTrip => exact getD_memOk (thermalTrip_memOk hs) hs
  case pwrctlWrite => exact writePwrctl_memOk hs
  case vcoreSlewDone => exact getD_memOk (vcoreSlewDone_memOk hs) hs
  case clockRestart => exact getD_memOk (clockRestart_memOk hs) hs
  case registerWrite => exact execRegisterWrite_memOk hs
  case ptpSourceLoss => exact execPtpSourceLoss_memOk hs
  case lossOfLock => exact whenLane_memOk hs (laneFails_memOk hs)
  case portTrained => exact getD_memOk (portTrained_memOk hs) hs
  case areduceAbort => exact whenCore_memOk hs (areduceAbort_memOk hs)
  case ellRelay | ellConvert => exact whenCore_memOk hs (ellStep_memOk hs)
  case ellExpand => exact whenCore_memOk hs (ellExpand_memOk hs)
  case unsettle => exact getD_memOk (unsettle_memOk hs) hs
  case fliph => exact getD_memOk (fliph_memOk hs) hs
  case flipd => exact getD_memOk (flipd_memOk hs) hs
  case move => exact getD_memOk (move_memOk hs) hs
  case moveComplete => exact getD_memOk (moveComplete_memOk hs) hs
  case l2WriteBack => exact execL2WriteBack_memOk hs

/-! ### Other actions -/

theorem tick_memOk : MemOk s.tick := by
  unfold State.tick
  dsimp only
  split <;> exact hs
theorem upset_memOk : MemOk s.upset := by
  unfold State.upset
  dsimp only
  split
  · exact hs
  · exact hs
  · exact hs
  · exact hs
  · exact hs
  · exact hs
  · exact modCore_memOk hs _ _
  · exact modCore_memOk hs _ _
theorem run_memOk {u : UnitAction} : OutOk (u.run s) := by
  unfold UnitAction.run
  split
  · exact getD_memOk (frontEnds_memOk hs) hs
  · exact whenCore_memOk hs (selfTest_memOk hs)
  · exact whenCore_memOk hs (areduceAbort_memOk hs)
  · exact whenCore_memOk hs (ellStep_memOk hs)
  · exact whenCore_memOk hs (ellStep_memOk hs)
  · exact whenCore_memOk hs (ellExpand_memOk hs)
  · exact execScrub_memOk hs
  · exact execL2WriteBack_memOk hs
  · exact getD_memOk (unsettle_memOk hs) hs
  · exact getD_memOk (fliph_memOk hs) hs
  · exact getD_memOk (flipd_memOk hs) hs
  · exact getD_memOk (move_memOk hs) hs
  · exact getD_memOk (moveComplete_memOk hs) hs
  · exact getD_memOk (timeSend_memOk hs) hs
  · exact getD_memOk (timeSourceLoss_memOk hs) hs
  · exact whenLane_memOk hs (laneSpare_memOk hs)
  · exact getD_memOk (ifUp_memOk (halfWidthRetrain_memOk hs)) hs
  · exact getD_memOk (ifUp_memOk (portDown_memOk hs)) hs
  · exact getD_memOk (abortOriginate_memOk hs) hs
  · exact getD_memOk (fuseAdvance_memOk hs) hs
  · exact getD_memOk (vcoreSlewDone_memOk hs) hs
  · exact getD_memOk (clockRestart_memOk hs) hs
  · exact getD_memOk (throttleExit_memOk hs) hs
  · exact getD_memOk (heartbeat_memOk hs) hs
  · exact getD_memOk (takeover_memOk hs) hs
  · exact getD_memOk (ppsOut_memOk hs) hs
  · exact getD_memOk (hostRetry_memOk hs) hs
  · exact getD_memOk (resultRetry_memOk hs) hs
  · exact getD_memOk (delayAsk_memOk hs) hs
  · exact getD_memOk (policyWrite_memOk hs) hs
  · exact sense_memOk hs
  · exact getD_memOk (choosePoint_memOk hs) hs
  · exact getD_memOk (throttleEntry_memOk hs) hs
  · exact getD_memOk (thermalTrip_memOk hs) hs
  · exact upset_memOk hs

/-! ### The step -/

theorem dropAgenda_memOk : MemOk s.dropAgenda := hs
theorem after_memOk {a : Machine.Action} : MemOk (s.after a) := hs
theorem runLatched_memOk : OutOk (runLatched s) := by
  unfold runLatched
  split
  · exact hs
  · exact exec_memOk (by exact hs)
theorem act_memOk {a : Machine.Action} : OutOk (act s a) := by
  unfold act
  split
  · exact tick_memOk hs
  · exact run_memOk hs
  · exact exec_memOk (by exact hs)
  · split
    next t e =>
      have ht : MemOk t := outOk_of_eq (exec_memOk (by exact hs)) e
      split
      · exact exec_memOk ht
      · exact ht
    · exact trivial
    · exact trivial
  · split
    · exact dropAgenda_memOk hs
    · split
      next t e =>
        have ht : MemOk t := outOk_of_eq (exec_memOk (dropAgenda_memOk hs)) e
        exact runLatched_memOk ht
      · exact trivial
      · exact trivial
theorem step_memOk : OutOk (step s) := by
  unfold step
  dsimp only
  split
  next t e =>
    have ht : MemOk t := outOk_of_eq (act_memOk hs) e
    exact after_memOk ht
  · exact trivial
  · exact trivial

end

/-- Settles O4: the next action, whatever it is, leaves the memories in canonical form, as every operation that it is made of does. -/
theorem everyStepKeepsMemoryCanonical : Obligations.EveryStepKeepsMemoryCanonical :=
  fun _ _ hs h => outOk_of_eq (step_memOk hs) h

end Sys2Proof.Proofs.CanonicalForm
end
